-- ==== Sys2Proof/Word.lean ====
section
/-! DEFINITION. The plainest types of the model: bytes, and sparse tables keyed by a number. -/

namespace Sys2Proof

/-- One byte of a payload, a BLOB or a memory. -/
abbrev Byte := BitVec 8

/-- A sparse table: pairs of a number and what stands there, keys strictly rising (Machine/Ops.lean holds its
operations; an unlisted key reads as the table's default). -/
abbrev Tab (α : Type) := List (Nat × α)

end Sys2Proof
end

