-- ==== Sys2Proof/Syntax.lean ====
section
/-! DEFINITION. The commands of the block, one constructor for each row of spec/opcode_table.json, and the messages
and packets they carry. A command's operands are what the world outside hands to a part: the bytes of a message or a
packet, and the outcome of what the model does not compute (a seal that opens, an ECC report, a sensor reading).
Fields that the spec numbers by width are natural numbers below that width (WellFormed.lean says so). -/

namespace Sys2Proof

/-- R1: the two parts that the manual covers, one endpoint and one module. -/
inductive Part where
  | ep | mod
  deriving DecidableEq, Repr

/-- Ordering scopes, coded 0 to 3 in ERI messages (R54). -/
inductive Scope where
  | none | endpoint | node | rack
  deriving DecidableEq, Repr

/-- R330: the paths on which a Directory request arrives. -/
inductive Path where
  | udp | smbus | eri | roce | metrology
  deriving DecidableEq, Repr

/-- R330: the principals. -/
inductive Principal where
  | operator | host | job | metrology
  deriving DecidableEq, Repr

/-- R328: an access context: the sideband, a protocol session or an ERI agent. -/
inductive Ctx where
  | smbus | session (id : Nat) | agent (id : Nat)
  deriving DecidableEq, Repr

/-- Who makes a Directory request, and how it came. `partition` is the Host partition, `job` the Job of a Job
principal. -/
structure Access where
  path : Path
  principal : Principal
  partition : Nat
  job : Nat
  ctx : Ctx
  deriving DecidableEq, Repr

/-- A fabric packet (R73): the header fields by name, the collective header's (R162) beside them, and the payload in
clear. `reserved` says that some Reserved header bit is not zero. -/
structure Packet where
  typ : Nat
  f : Bool
  vol : Bool
  plane : Nat
  code : Nat
  job : Nat
  src : Nat
  dst : Nat
  srcRack : Nat
  dstRack : Nat
  s : Bool
  seq : Nat
  off : Nat
  len : Nat
  epoch : Nat
  interval : Nat
  pred : Nat
  aop : Nat
  fmt : Nat
  group : Nat
  cseq : Nat
  phase : Nat
  tree : Nat
  cctx : Nat
  piece : Nat
  size : Nat
  reserved : Bool
  payload : List Byte
  deriving DecidableEq, Repr

/-- An ERI message (R101): the header fields and the payload or body. `reserved` says that a field its kind does not
use is not zero. -/
structure Eri where
  kind : Nat
  agent : Nat
  tag : Nat
  job : Nat
  code : Nat
  rel : Nat
  acq : Nat
  vol : Bool
  coll : Bool
  len : Nat
  aop : Nat
  fmt : Nat
  addr : Nat
  aux : Nat
  value : Nat
  reserved : Bool
  body : List Byte
  deriving DecidableEq, Repr

/-- R233: a block: its 2-bit sync header, and its 256 payload bits as a number. -/
structure Block where
  sync : Nat
  payload : Nat
  deriving DecidableEq, Repr

/-- A block of a lane of a port (0 to 7) in a slot of the lane's stream (R246). -/
structure LaneBlock where
  lane : Nat
  slot : Nat
  block : Block
  deriving DecidableEq, Repr

/-- What the lanes of a port bring while a frame arrives: their blocks, and the codewords whose symbols were wrong: lane,
codeword, how many (R232 to R236). -/
structure RawFrame where
  blocks : List LaneBlock
  errs : List (Nat × Nat × Nat)
  deriving DecidableEq, Repr

/-- An Alignment marker as a lane of a port brings it (R246): the lane, the lane slot at which it arrives, its payload, and the
BIP-8 that the receiver has formed over the period. -/
structure MarkRx where
  lane : Nat
  at_ : Nat
  payload : Nat
  bip : Nat
  deriving DecidableEq, Repr

/-- A character of a timing lane (R255): a control character or a data character by its byte, or a code violation. -/
inductive TlChar where
  | k (n : Nat) | d (n : Nat) | violation
  deriving DecidableEq, Repr

/-- A frame as its blocks give it (R236, R238). `errored` says that some block of it is errored. -/
structure LinkFrame where
  seq : Nat
  frameLen : Nat
  ackValid : Bool
  ackSeq : Nat
  errored : Bool
  dataBlocks : Nat
  crcOk : Bool
  pkt : Packet
  deriving DecidableEq, Repr

/-- A training word (R242) by its fields; taps in the order pre2, pre1, main, post1. -/
structure TrainWord where
  requests : List Nat
  preset : Option Nat
  status : List Nat
  ready : Bool
  bitLock : Bool
  countdown : Nat
  counting : Bool
  crcOk : Bool
  deriving DecidableEq, Repr

/-- A Capability block (R247). -/
structure Capability where
  linkRev : Nat
  partKind : Nat
  valid : Bool
  pod : Nat
  rack : Nat
  plane : Nat
  slot : Nat
  node : Nat
  port : Nat
  role : Nat
  widths : Nat
  width : Nat
  clocking : Nat
  seen : Bool
  accepted : Bool
  deriving DecidableEq, Repr

/-- A Width change block (R251). -/
structure WidthBlock where
  proposed : Nat
  agreed : Nat
  ack : Bool
  reason : Nat
  switchAfter : Nat
  deriving DecidableEq, Repr

/-- A Verdict message payload (R286), its authenticator with it. -/
structure VMsg where
  kind : Nat
  vkind : Nat
  origin : Nat
  subjNode : Nat
  subjPlane : Nat
  reason : Nat
  relay : Bool
  voteMask : Nat
  number : Nat
  time : Nat
  reserved : Bool
  mac : Nat
  deriving DecidableEq, Repr

/-- A Barrier release payload (R258). -/
structure BarrierRel where
  job : Nat
  group : Nat
  cctx : Nat
  cseq : Nat
  plane : Nat
  deriving DecidableEq, Repr

/-- The body of a timing-lane message. -/
inductive TlBody where
  | verdict (v : VMsg)
  | barrier (b : BarrierRel)
  | undefined
  deriving DecidableEq, Repr

/-- A whole timing-lane message (R257). `bad` says that it carries a code violation, a disparity error, a CRC failure,
a length other than Length or a non-zero Reserved field (R259). -/
structure TlMsg where
  broadcast : Bool
  source : Nat
  dest : Nat
  seq : Nat
  bad : Bool
  body : TlBody
  deriving DecidableEq, Repr

/-- One image of a bundle as the root of trust finds it (R305 checks 5 and 6). -/
structure ImageInfo where
  kind : Nat
  imageOk : Bool
  deriving DecidableEq, Repr

/-- A firmware bundle as the root of trust finds it (R305). -/
structure BundleInfo where
  reserved : Bool
  format : Nat
  keyOk : Bool
  sigOk : Bool
  partKind : Nat
  version : Nat
  silMin : Nat
  silMax : Nat
  images : List ImageInfo
  deriving DecidableEq, Repr

/-- A metrology image as the root of trust finds it (R307). -/
structure MetroImage where
  sigOk : Bool
  iface : Nat
  version : Nat
  deriving DecidableEq, Repr

/-- A directory access protocol message (R332, R333), with the host port and the source address it comes from. -/
structure PMsg where
  port : Nat
  source : Nat
  version : Nat
  op : Nat
  response : Bool
  reserved : Bool
  session : Nat
  seq : Nat
  key : Nat
  segOff : Nat
  credSlot : Nat
  value : List Byte
  auth : List Byte
  deriving DecidableEq, Repr

/-- The 16-byte header of a metrology message (R384). -/
structure MeterHdr where
  version : Nat
  kind : Nat
  len : Nat
  seq : Nat
  reserved : Nat
  deriving DecidableEq, Repr

/-- One entry of a Usage message (R384). -/
structure UsageEntry where
  job : Nat
  port : Nat
  ingress : Nat
  egress : Nat
  deriving DecidableEq, Repr

/-- What an entry test found (R349): 0 buffer march, 1 mesh loopback, 2 die-crossing calibration, 3 Windrow canary,
4 sequencer load, 5 HBM4E interface; the targets that failed. -/
structure TestResult where
  test : Nat
  failed : List Nat
  deriving DecidableEq, Repr

/-- The commands: one constructor for each row of the table, in the table's order. -/
inductive Instr where
  /-- DIRECTORY_WRITE (R327). -/
  | directoryWrite (p : Part) (a : Access) (key : Nat) (val : List Byte)
  /-- MANAGEMENT_CORE_PAIR_STOP (R18). -/
  | managementCorePairStop (pair : Nat)
  /-- TABLE_WALK_COMPLETE (R32). -/
  | tableWalkComplete (walk : Nat)
  /-- SLOT_JOB_ID_WRITE (R48). -/
  | slotJobIdWrite (a : Access) (slot : Nat) (val : List Byte)
  /-- INVALIDATE_GENERATION (R36). -/
  | invalidateGeneration (a : Access) (slot : Nat) (val : List Byte)
  /-- INVALIDATION_COMPLETE (R36). -/
  | invalidationComplete (slot : Nat)
  /-- RESUME_RETRY (R41). -/
  | resumeRetry (a : Access) (val : List Byte)
  /-- RESUME_FAIL (R41). -/
  | resumeFail (a : Access) (val : List Byte)
  /-- FAULT_TIMEOUT (R41). -/
  | faultTimeout (rec : Nat)
  /-- FAULT_WALK_COMPLETE (R41). -/
  | faultWalkComplete (rec : Nat)
  /-- ADMISSION_ENTRY_WRITE (R43). -/
  | admissionEntryWrite (a : Access) (val : List Byte)
  /-- COMMONS_ADMISSION_ENTRY_WRITE (R183). -/
  | commonsAdmissionEntryWrite (a : Access) (val : List Byte)
  /-- ERI_LOAD (R104). -/
  | eriLoad (link : Nat) (m : Eri) (ecc : List Nat)
  /-- ERI_STORE (R104). -/
  | eriStore (link : Nat) (m : Eri)
  /-- ERI_ATOMIC (R104). -/
  | eriAtomic (link : Nat) (m : Eri)
  /-- ERI_FENCE (R63). -/
  | eriFence (link : Nat) (m : Eri)
  /-- FENCE_COMPLETE (R63). -/
  | fenceComplete (id : Nat)
  /-- ERI_CACHE_INVALIDATE (R105). -/
  | eriCacheInvalidate (link : Nat) (m : Eri)
  /-- ERI_DIRECTORY_REQUEST (R105). -/
  | eriDirectoryRequest (link : Nat) (m : Eri)
  /-- ERI_COPY (R109). -/
  | eriCopy (link : Nat) (m : Eri)
  /-- LIST_ARM (R114). -/
  | listArm (link : Nat) (m : Eri)
  /-- LIST_CANCEL (R114). -/
  | listCancel (link : Nat) (m : Eri)
  /-- COLLECTIVE_START (R159). -/
  | collectiveStart (link : Nat) (m : Eri)
  /-- MEMORY_DATA (R106). -/
  | memoryData (link : Nat) (m : Eri)
  /-- MEMORY_ACK (R106). -/
  | memoryAck (link : Nat) (m : Eri)
  /-- MEMORY_TIMEOUT (R107). -/
  | memoryTimeout (mtag : Nat)
  /-- INIT (R102). -/
  | initLink (link : Nat) (m : Eri)
  /-- CREDIT (R102). -/
  | credit (link : Nat) (m : Eri)
  /-- REQUEST_ISSUE (R52). -/
  | requestIssue (p : Part) (id : Nat) (ecc : List Nat)
  /-- RESPONSE_RECEIVE (R78). -/
  | responseReceive (p : Part) (pkt : Packet) (tagOk : Bool)
  /-- FABRIC_REQUEST_RECEIVE (R44). -/
  | fabricRequestReceive (p : Part) (pkt : Packet) (port : Nat) (tagOk : Bool) (err : Nat)
  /-- FLAGGED_STORE_RESOLVE (R59). -/
  | flaggedStoreResolve (p : Part) (src : Nat) (seq : Nat)
  /-- FLAG_HOLD_TIMEOUT (R60). -/
  | flagHoldTimeout (p : Part) (src : Nat) (seq : Nat)
  /-- FETCH_ADD (R81). -/
  | fetchAdd (id : Nat) (err : Nat)
  /-- FETCH_MIN (R81). -/
  | fetchMin (id : Nat) (err : Nat)
  /-- FETCH_MAX (R81). -/
  | fetchMax (id : Nat) (err : Nat)
  /-- COMPARE_SWAP (R82). -/
  | compareSwap (id : Nat) (err : Nat)
  /-- SWAP (R82). -/
  | swap (id : Nat) (err : Nat)
  /-- ALLOCATE (R83). -/
  | allocate (id : Nat) (err : Nat)
  /-- FREE (R83). -/
  | free (id : Nat) (err : Nat)
  /-- REFERENCE_ADD (R83). -/
  | referenceAdd (id : Nat) (err : Nat)
  /-- REFERENCE_RELEASE (R83). -/
  | referenceRelease (id : Nat) (err : Nat)
  /-- RETRY_RESEND (R87). -/
  | retryResend (p : Part) (id : Nat)
  /-- GAP_TIMER_EXPIRY (R92). -/
  | gapTimerExpiry (p : Part) (src : Nat)
  /-- GAP_NOTICE (R412). -/
  | gapNotice (p : Part) (pkt : Packet) (tagOk : Bool)
  /-- RESYNC_NOTICE (R90). -/
  | resyncNotice (p : Part) (pkt : Packet) (tagOk : Bool)
  /-- RETRANSMIT_TIMEOUT (R93). -/
  | retransmitTimeout (p : Part) (id : Nat)
  /-- REQUEST_LIFETIME_EXPIRY (R94). -/
  | requestLifetimeExpiry (p : Part) (id : Nat)
  /-- SLOT_REVOKE (R96). -/
  | slotRevoke (a : Access) (slot : Nat) (val : List Byte)
  /-- SLOT_DRAINED (R96). -/
  | slotDrained (slot : Nat)
  /-- UCIE_LINK_LOST (R99). -/
  | ucieLinkLost (link : Nat)
  /-- COPY_TILE_ISSUE (R110). -/
  | copyTileIssue (engine : Nat)
  /-- WORK_STEALING (R113). -/
  | workStealing (engine : Nat)
  /-- COPY_TILE_COMPLETE (R111). -/
  | copyTileComplete (tile : Nat)
  /-- LIST_READ_COMPLETE (R114). -/
  | listReadComplete (slot : Nat)
  /-- LIST_ACTIVATION (R114). -/
  | listActivation (slot : Nat)
  /-- THROTTLE_TEMPERATURE (R121). -/
  | throttleTemperature (temp : Int)
  /-- ENDPOINT_THERMAL_TRIP (R121). -/
  | endpointThermalTrip (temp : Int)
  /-- SUPPLY_OUT_OF_RANGE (R122). -/
  | supplyOutOfRange (supply : Nat)
  /-- ENDPOINT_RESET_RELEASE (R116). -/
  | endpointResetRelease (cycled : Bool)
  /-- BUNDLE_LOAD (R305). -/
  | bundleLoad (a : Access) (b : BundleInfo)
  /-- GROUP_ENTRY_WRITE (R151). -/
  | groupEntryWrite (a : Access) (val : List Byte)
  /-- MEMBER_TABLE_WRITE (R152). -/
  | memberTableWrite (a : Access) (val : List Byte)
  /-- CONTEXT_ENTRY_WRITE (R152). -/
  | contextEntryWrite (a : Access) (val : List Byte)
  /-- PROGRAM_BLOCK_WRITE (R148). -/
  | programBlockWrite (a : Access) (val : List Byte)
  /-- PROBE (R162). -/
  | probe (pkt : Packet) (port : Nat) (tagOk : Bool)
  /-- CONTRIBUTION (R168). -/
  | contribution (pkt : Packet) (port : Nat) (tagOk : Bool)
  /-- ARRIVE (R161). -/
  | arrive (pkt : Packet) (port : Nat) (tagOk : Bool)
  /-- RESULT (R163). -/
  | result (pkt : Packet) (tagOk : Bool)
  /-- RELEASE (R176). -/
  | release (pkt : Packet) (tagOk : Bool)
  /-- RACK_PARTIAL (R167). -/
  | rackPartial (pkt : Packet) (port : Nat) (tagOk : Bool)
  /-- TREE_RESULT (R167). -/
  | treeResult (pkt : Packet) (port : Nat) (tagOk : Bool)
  /-- SEQUENCE_SLOT_FINISH (R153). -/
  | sequenceSlotFinish (group : Nat) (slot : Nat)
  /-- SLOT_TIMEOUT (R155). -/
  | slotTimeout (group : Nat) (slot : Nat)
  /-- TREE_RESEND (R170). -/
  | treeResend (group : Nat) (slot : Nat) (piece : Nat)
  /-- HOLD_RESEND (R154). -/
  | holdResend (id : Nat)
  /-- RESULT_RESEND (R163). -/
  | resultResend (id : Nat)
  /-- COLLECTIVE_SEND_START (R161). -/
  | collectiveSendStart (coll : Nat)
  /-- COLLECTIVE_TIMEOUT (R175). -/
  | collectiveTimeout (coll : Nat)
  /-- RESIDUE_DELIVERY (R171). -/
  | residueDelivery (port : Nat)
  /-- LATENESS_RECORD_CLEAR (R177). -/
  | latenessRecordClear (a : Access) (val : List Byte)
  /-- SPILL_RECORD_RETURN (R133). -/
  | spillRecordReturn (group : Nat) (slot : Nat) (piece : Nat) (ok : Bool)
  /-- SPILL_RESERVE_WRITE (R179). -/
  | spillReserveWrite (a : Access) (val : List Byte)
  /-- REGION_DESCRIPTOR_WRITE (R180). -/
  | regionDescriptorWrite (a : Access) (val : List Byte)
  /-- REGION_INIT_COMPLETE (R182). -/
  | regionInitComplete (region : Nat)
  /-- REGION_SCRUB_COMPLETE (R182). -/
  | regionScrubComplete (region : Nat)
  /-- HANDOVER (R182). -/
  | handover (a : Access) (val : List Byte)
  /-- CLEAR_STALE (R182). -/
  | clearStale (a : Access) (val : List Byte)
  /-- RETENTION_LIMIT (R182). -/
  | retentionLimit (region : Nat)
  /-- STACK_FAILED (R188). -/
  | stackFailed (stack : Nat) (retrain : Bool)
  /-- SCRUB_WINDOW (R190). -/
  | scrubWindow (corrected : List Nat) (failing : List Nat)
  /-- SCRUB_WINDOW_END (R190). -/
  | scrubWindowEnd
  /-- CHECKPOINT_SLOT (R190). -/
  | checkpointSlot
  /-- RESTORE_COMMAND (R198). -/
  | restoreCommand (a : Access) (val : List Byte)
  /-- RESTORE_PUSH_COMPLETE (R198). -/
  | restorePushComplete
  /-- CHECKPOINT_RESTORE (R199). -/
  | checkpointRestore (pkt : Packet) (tagOk : Bool)
  /-- RDMA_WRITE (R262). -/
  | rdmaWrite (qp : Nat) (rkey : Nat) (va : Nat) (data : List Byte) (err : Nat) (ce : Bool)
  /-- RDMA_READ (R262). -/
  | rdmaRead (qp : Nat) (rkey : Nat) (va : Nat) (len : Nat) (err : Nat) (ce : Bool)
  /-- ATOMIC_FETCH_AND_ADD (R262). -/
  | atomicFetchAndAdd (qp : Nat) (rkey : Nat) (va : Nat) (addend : Nat) (err : Nat) (ce : Bool)
  /-- ATOMIC_COMPARE_AND_SWAP (R262). -/
  | atomicCompareAndSwap (qp : Nat) (rkey : Nat) (va : Nat) (cmp : Nat) (new : Nat) (err : Nat) (ce : Bool)
  /-- SEND (R338). -/
  | send (qp : Nat) (m : PMsg) (ce : Bool)
  /-- FRAME_RECEIVE (R238). -/
  | frameReceive (p : Part) (port : Nat) (fr : RawFrame)
  /-- MESH_HEADER_ARRIVAL (R211). -/
  | meshHeaderArrival (tile : Nat) (plane : Nat) (lost : List Nat)
  /-- MESH_INJECT (R212). -/
  | meshInject (tile : Nat)
  /-- SPILL (R217). -/
  | spill (tile : Nat)
  /-- READ_BACK (R218). -/
  | readBack (tile : Nat) (ok : Bool)
  /-- PORT_TRANSMIT (R208). -/
  | portTransmit (p : Part) (port : Nat)
  /-- COMMONS_MEMORY_RESPONSE (R226). -/
  | commonsMemoryResponse (id : Nat)
  /-- SLICE_ENTRY_WRITE (R224). -/
  | sliceEntryWrite (a : Access) (val : List Byte)
  /-- SLICE_REVOKE (R225). -/
  | sliceRevoke (a : Access) (val : List Byte)
  /-- TILE_SWEEP (R225). -/
  | tileSweep (tile : Nat) (job : Nat)
  /-- SLICE_DRAINED (R225). -/
  | sliceDrained (job : Nat)
  /-- EPOCH_AUDIT (R230). -/
  | epochAudit (p : Part)
  /-- ACK (R237). -/
  | ack (p : Part) (port : Nat) (seq : Nat)
  /-- NAK (R239). -/
  | nak (p : Part) (port : Nat) (seq : Nat)
  /-- REPLAY_TIMER (R240). -/
  | replayTimer (p : Part) (port : Nat)
  /-- TRAINING_FRAME (R242). -/
  | trainingFrame (p : Part) (lane : Nat) (word : Nat) (crc : Nat) (adapted : Bool) (prbsErrors : Nat)
  /-- DETECT_BURST (R243). -/
  | detectBurst (p : Part) (lane : Nat)
  /-- COUNTDOWN_END (R244). -/
  | countdownEnd (p : Part) (lane : Nat)
  /-- BLOCK_LOCK (R245). -/
  | blockLock (p : Part) (lane : Nat) (headers : List Nat)
  /-- ALIGNMENT_MARKER (R246). -/
  | alignmentMarker (p : Part) (port : Nat) (marks : List MarkRx)
  /-- CAPABILITY_BLOCK (R247). -/
  | capabilityBlock (p : Part) (port : Nat) (cap : Capability)
  /-- TRAINING_TIMEOUT (R247). -/
  | trainingTimeout (p : Part) (port : Nat)
  /-- RETRAIN_BACKOFF_END (R247). -/
  | retrainBackoffEnd (p : Part) (port : Nat)
  /-- WIDTH_CHANGE (R251). -/
  | widthChange (p : Part) (port : Nat) (b : WidthBlock)
  /-- WIDTH_SWITCH (R251). -/
  | widthSwitch (p : Part) (port : Nat) (rx : Bool) (count : Nat)
  /-- LANE_RESTORE (R252). -/
  | laneRestore (p : Part) (lane : Nat)
  /-- LANE_FAILURE (R253). -/
  | laneFailure (p : Part) (lane : Nat) (codewords : Nat) (signal : Bool)
  /-- PORT_DOWN (R253). -/
  | portDown (p : Part) (port : Nat) (cause : Nat)
  /-- PORT_ROLE_WRITE (R231). -/
  | portRoleWrite (a : Access) (val : List Byte)
  /-- EYE_SCAN_START (R254). -/
  | eyeScanStart (p : Part) (a : Access) (val : List Byte)
  /-- EYE_SCAN_COMPLETE (R254). -/
  | eyeScanComplete (p : Part) (lane : Nat) (grid : List Byte)
  /-- TICK (R266). -/
  | tick (p : Part) (lane : Nat) (epoch : Bool)
  /-- TIME_SET (R266). -/
  | timeSet (p : Part) (lane : Nat) (value : Nat) (ok : Bool)
  /-- LANE_SILENT (R266). -/
  | laneSilent (p : Part) (lane : Nat)
  /-- HOLDOVER_LIMIT (R266). -/
  | holdoverLimit (p : Part)
  /-- RACK_TIME_STEP (R268). -/
  | rackTimeStep (p : Part) (energy : Nat)
  /-- TIMING_LANE_MESSAGE (R258). -/
  | timingLaneMessage (p : Part) (lane : Nat) (chars : List TlChar)
  /-- ABORT (R255). -/
  | abort (p : Part) (lane : Nat)
  /-- SMB_DIRECTORY_READ (R263). -/
  | smbDirectoryRead (p : Part) (key : Nat)
  /-- SMB_DIRECTORY_WRITE (R263). -/
  | smbDirectoryWrite (p : Part) (key : Nat) (val : List Byte) (pec : Nat)
  /-- SMB_BLOB_SEGMENT_WRITE (R336). -/
  | smbBlobSegmentWrite (p : Part) (key : Nat) (off : Nat) (data : List Byte) (pec : Nat)
  /-- SMB_BLOB_SEGMENT_READ (R337). -/
  | smbBlobSegmentRead (p : Part) (key : Nat) (off : Nat) (count : Nat)
  /-- SMB_STATUS_READ (R263). -/
  | smbStatusRead (p : Part)
  /-- ALIGNMENT_REQUEST (R271). -/
  | alignmentRequest (a : Access) (val : List Byte)
  /-- ALIGNMENT_START (R271). -/
  | alignmentStart
  /-- ALIGN_PULSE (R271). -/
  | alignPulse (unlocked : List Nat)
  /-- ALIGNMENT_CHECK (R271). -/
  | alignmentCheck (bad : List Nat)
  /-- ALIGNMENT_LOST (R272). -/
  | alignmentLost (cause : Nat)
  /-- MOWN_ENTRY_WRITE (R275). -/
  | mownEntryWrite (p : Part) (a : Access) (val : List Byte)
  /-- MOWN_COMPILE_COMPLETE (R276). -/
  | mownCompileComplete (entry : Nat)
  /-- MODE_SWITCH (R278). -/
  | modeSwitch (p : Part)
  /-- MOWN_START (R279). -/
  | mownStart (entry : Nat)
  /-- MOWN_PIECE_SEND (R274). -/
  | mownPieceSend (coll : Nat) (piece : Nat)
  /-- MOWN_PIECE_SLOT (R169). -/
  | mownPieceSlot (entry : Nat) (piece : Nat)
  /-- MOWN_FALLBACK (R280). -/
  | mownFallback (entry : Nat) (cause : Nat)
  /-- HEARTBEAT (R283). -/
  | heartbeat (p : Part)
  /-- SUSPICION (R284). -/
  | suspicion (node : Nat)
  /-- VOTE_REPEAT (R284). -/
  | voteRepeat (node : Nat)
  /-- VERDICT_MESSAGE (R286). -/
  | verdictMessage (p : Part) (v : VMsg) (inBand : Bool)
  /-- VERDICT_ISSUE (R287). -/
  | verdictIssue (kind : Nat) (node : Nat) (plane : Nat) (ready : Bool)
  /-- VERDICT_APPLY (R288). -/
  | verdictApply (p : Part) (number : Nat)
  /-- PORT_FAILED (R289). -/
  | portFailed (node : Nat)
  /-- PORT_RESTORED (R289). -/
  | portRestored (node : Nat)
  /-- QUORUM_LOSS_FENCE (R289). -/
  | quorumLossFence
  /-- TILE_FAULT (R292). -/
  | tileFault (tile : Nat)
  /-- VERDICT_ENGINE_WATCHDOG (R292). -/
  | verdictEngineWatchdog
  /-- CANARY (R293). -/
  | canary (engine : Nat) (exact : Nat) (ordered : Nat)
  /-- CORRUPTION_REPORT (R294). -/
  | corruptionReport (a : Access) (val : List Byte) (failing : List Nat)
  /-- SUSPECT_EVALUATION (R296). -/
  | suspectEvaluation
  /-- CLEAR_SUSPECT (R296). -/
  | clearSuspect (a : Access) (val : List Byte)
  /-- WINDOW_ENTRY_WRITE (R297). -/
  | windowEntryWrite (p : Part) (a : Access) (val : List Byte)
  /-- WINDOW_START (R298). -/
  | windowStart (p : Part) (window : Nat)
  /-- WINDOW_END (R298). -/
  | windowEnd (p : Part) (window : Nat) (passed : Bool)
  /-- REBIND_REQUEST (R299). -/
  | rebindRequest (a : Access) (val : List Byte)
  /-- PLANE_RESTORE_REQUEST (R300). -/
  | planeRestoreRequest (a : Access) (val : List Byte)
  /-- MODULE_RESET_RELEASE (R306). -/
  | moduleResetRelease (unwrapOk : Bool) (img : Option MetroImage)
  /-- BUNDLE_COMMIT (R306). -/
  | bundleCommit (a : Access) (val : List Byte) (b : BundleInfo)
  /-- ATTESTATION_NONCE (R308). -/
  | attestationNonce (p : Part) (a : Access) (val : List Byte)
  /-- ATTESTATION_REPORT_READY (R308). -/
  | attestationReportReady (p : Part)
  /-- KEY_INSTALLATION (R316). -/
  | keyInstallation (p : Part) (a : Access) (val : List Byte) (unwrapOk : Bool)
  /-- KEY_ACTIVATION (R317). -/
  | keyActivation (p : Part) (job : Nat)
  /-- KEY_PERIOD (R311). -/
  | keyPeriod (p : Part)
  /-- JOB_RETIRE (R320). -/
  | jobRetire (p : Part) (a : Access) (val : List Byte)
  /-- RETIRE_TIME (R320). -/
  | retireTime (p : Part) (job : Nat)
  /-- REMOVAL_SCRUB (R320). -/
  | removalScrub (p : Part) (job : Nat)
  /-- REMOVAL_SETTLE (R320). -/
  | removalSettle (p : Part) (job : Nat)
  /-- OPEN (R332). -/
  | openMsg (m : PMsg)
  /-- CLOSE (R332). -/
  | close (m : PMsg)
  /-- READ (R333). -/
  | read (m : PMsg)
  /-- WRITE (R333). -/
  | write (m : PMsg)
  /-- SEGMENT_READ (R337). -/
  | segmentRead (m : PMsg)
  /-- SEGMENT_WRITE (R336). -/
  | segmentWrite (m : PMsg)
  /-- COMMIT_STAGED (R338). -/
  | commitStaged (m : PMsg)
  /-- SESSION_IDLE_TIMEOUT (R334). -/
  | sessionIdleTimeout (session : Nat)
  /-- BLOB_ASSEMBLY_EXPIRY (R336). -/
  | blobAssemblyExpiry (p : Part) (ctx : Ctx) (key : Nat)
  /-- CREDENTIAL_INSTALLATION (R335). -/
  | credentialInstallation (a : Access) (val : List Byte) (unwrapOk : Bool)
  /-- ACKNOWLEDGED_SEQUENCE_WRITE (R340). -/
  | acknowledgedSequenceWrite (p : Part) (a : Access) (val : List Byte)
  /-- IN_EN_ASSERT (R343). -/
  | inEnAssert
  /-- IN_EN_DEASSERT (R343). -/
  | inEnDeassert
  /-- SOFT_START_COMPLETE (R343). -/
  | softStartComplete (reached : Bool)
  /-- INPUT_VOLTAGE_TRIP (R342). -/
  | inputVoltageTrip (mV : Nat)
  /-- BREAKER_TRIP (R344). -/
  | breakerTrip (mA : Nat)
  /-- BREAKER_RETRY (R344). -/
  | breakerRetry
  /-- REQUEST_REST (R347). -/
  | requestRest (a : Access)
  /-- REQUEST_RUN (R348). -/
  | requestRun (a : Access)
  /-- REQUEST_FALLOW (R347). -/
  | requestFallow (a : Access)
  /-- ENTRY_TESTS_COMPLETE (R349). -/
  | entryTestsComplete (results : List TestResult)
  /-- WAKE (R353). -/
  | wake (address : Nat)
  /-- FALLOW_BROWN_OUT (R351). -/
  | fallowBrownOut (mA : Nat)
  /-- CAP_STEP (R356). -/
  | capStep (a : Access) (val : List Byte)
  /-- CAP_STEP_EFFECTIVE (R356). -/
  | capStepEffective
  /-- CAP_REFRESH (R360). -/
  | capRefresh (a : Access) (val : List Byte)
  /-- POWER_CONTROL_TICK (R357). -/
  | powerControlTick (watts : Nat) (mV : Nat) (mA : Nat)
  /-- LADDER_LEVEL_EFFECTIVE (R357). -/
  | ladderLevelEffective
  /-- LEASE_EXPIRY (R360). -/
  | leaseExpiry
  /-- HOLD_TIME_EXPIRY (R360). -/
  | holdTimeExpiry
  /-- THERMAL_READING (R361). -/
  | thermalReading (inlet : Int) (scd : Int) (hbm : List Int)
  /-- THERMAL_TRIP (R362). -/
  | thermalTrip (inlet : Int) (scd : Int) (hbm : Int)
  /-- CRYSTAL_STABLE (R365). -/
  | crystalStable (p : Part)
  /-- CRYSTAL_TIMEOUT (R365). -/
  | crystalTimeout (p : Part)
  /-- OSCILLATOR_RETRIM (R364). -/
  | oscillatorRetrim (p : Part) (kHz : Nat)
  /-- CLOCK_MONITOR_WINDOW (R370). -/
  | clockMonitorWindow (p : Part) (domain : Nat) (flags : Nat) (kHz : Nat)
  /-- PLL_COAST (R371). -/
  | pllCoast (p : Part) (domain : Nat)
  /-- PLL_RELOCK (R371). -/
  | pllRelock (p : Part) (domain : Nat) (primary : Bool)
  /-- MUX_SWITCH_COMPLETE (R368). -/
  | muxSwitchComplete (p : Part) (domain : Nat)
  /-- MUX_WATCHDOG (R369). -/
  | muxWatchdog (p : Part) (domain : Nat) (edges : Bool)
  /-- TIME (R384). -/
  | time (h : MeterHdr)
  /-- USAGE (R378). -/
  | usage (h : MeterHdr)
  /-- COMMONS_CHARGE (R379). -/
  | commonsCharge (h : MeterHdr)
  /-- ACKNOWLEDGE (R384). -/
  | acknowledge (h : MeterHdr) (index : Nat)
  /-- MIRROR_WRITE (R386). -/
  | mirrorWrite (h : MeterHdr) (key : Nat) (val : List Byte)
  /-- EVENT (R385). -/
  | event (h : MeterHdr) (code : Nat) (detail : Nat)
  /-- LOG_READ (R384). -/
  | logRead (h : MeterHdr) (first : Nat) (count : Nat)
  /-- ACKNOWLEDGED_RECORD_WRITE (R386). -/
  | acknowledgedRecordWrite (a : Access) (val : List Byte)
  /-- INTERVAL_CLOSE (R380). -/
  | intervalClose (energy : Nat)
  /-- SEAL_EVENT (R382). -/
  | sealEvent (cause : Nat) (detail : Nat)
  /-- METER_STOPPED (R385). -/
  | meterStopped (faulted : Bool)
  /-- COUNTER_SNAPSHOT (R389). -/
  | counterSnapshot (p : Part)
  /-- CHAIN_MASK_EFFECTIVE (R388). -/
  | chainMaskEffective (p : Part) (group : Nat) (inst : Nat)
  /-- GROUP_INDEX_WRITE (R398). -/
  | groupIndexWrite (p : Part) (a : Access) (val : List Byte)
  /-- UCIE_LINK_UP (R102). -/
  | ucieLinkUp (link : Nat)
  /-- ROOT_OF_TRUST_CORE_FAULT (R292). -/
  | rootOfTrustCoreFault
  /-- DIE_CROSSING_DOMAIN_FAULT (R292). -/
  | dieCrossingDomainFault (domain : Nat)
  /-- HOST_LINK_STATE_CHANGE (R260). -/
  | hostLinkStateChange (port : Nat) (state : Nat)
  /-- ARP_NEIGHBOUR_DISCOVERY_ICMP_ECHO (R260). -/
  | arpNeighbourDiscoveryIcmpEcho (port : Nat) (kind : Nat) (own : Bool)
  /-- SOFT_START_PERMITTED (R342). -/
  | softStartPermitted (mV : Nat)
  deriving DecidableEq, Repr

end Sys2Proof
end

