-- ==== Sys2Proof/Config.lean ====
section
/-! DEFINITION. What one implementation fixes, and the free values: constants with no body, so that no proof can
see what they are. Each stands for a value or a choice that the spec leaves open (the assumption log names them). -/

namespace Sys2Proof.Config

/-- R32: which ATU or walk-cache entry is replaced when the cache is full is the endpoint's own policy
(argument: the draw counter of State). -/
opaque replaceChoice : Nat → Nat

/-- R332: a fresh nonzero Session ID less one, for the n-th draw. -/
opaque sessionId : Nat → Nat

/-- R332, R189: bytes of the root of trust's random source, for the n-th draw. -/
opaque randomBytes : Nat → List Byte

/-- R303: the identity public key of a part, made at manufacture. -/
opaque identityKey : Nat → List Byte

/-- R308: what an attestation measures and the model does not hold: the manifest header and entries of a bundle, by part and
Bundle version; a metrology image, by its version. -/
opaque manifest : Nat → Nat → List Byte
opaque metroImage : Nat → List Byte

/-- R303, R308: the 512-byte RSASSA-PSS signature of a part's identity key, a secret, with the salt of the n-th draw. -/
opaque attestationSign : Nat → Nat → List Byte → List Byte

/-- R381: the 512-byte signature block of a meter interval, for the n-th draw. -/
opaque meterSignature : Nat → List Byte → List Byte

/-- R286: the authenticator that a part with no rack secret puts into a Verdict message, by bytes 0–23. -/
opaque verdictMac : Nat → Nat

/-- R339: silicon revision, serial number, boot ROM revision: fixed at manufacture, one value for each part
(0 endpoint, 1 module). -/
opaque siliconRevision : Nat → Nat
opaque bootRomRevision : Nat → Nat
opaque serialNumber : Nat → List Byte

/-- R303: the DER certificates written at manufacture, by part and by which (0 identity, 1 transport, 2 meter). -/
opaque certificate : Nat → Nat → List Byte

/-- 0x4900.03: the MAC address of host port n. -/
opaque macAddress : Nat → Nat

/-- R293: the two canary digests that the signed bundle carries (0 exact mode, 1 ordered mode), by bundle version. -/
opaque canaryDigest : Nat → Nat → Nat

/-- R276: whether the schedule of a Mown entry fits, and its Completion offset: functions of the entry, the context, the
member table, the tiles in service, the engines out of service and (the offset) the size, which the manual names as the
compile's whole input; the manual gives no cycle-exact pipeline, and the entry no size, so their values are free. -/
opaque mownFits : List Nat → Nat → List Nat → List Nat → List Nat → Bool
opaque mownOffset : List Nat → Nat → List Nat → List Nat → List Nat → Nat → Nat

/-- 0x4300.04, 0x4300.07: eye estimates and tap settings that adaptation leaves, by lane and draw. -/
opaque eyeEstimate : Nat → Nat

/-- R242: the limits of a transmit tap and the taps of a preset, in 1/64 of full swing: by tap, and by preset and tap. -/
opaque tapLow : Nat → Int
opaque tapHigh : Nat → Int
opaque tapPreset : Nat → Nat → Int

/-- R361: the coolant outlet, the measured frequencies and other sensor values that no command carries. -/
opaque measured : Nat → Nat

/-- R69, R411: a choice the parts make for themselves and the manual leaves open, for the n-th draw. -/
opaque choice : Nat → Nat

/-- R306, R316, R335: what the root of trust finds in a value that a generic Directory write carries (a wrapped secret, a
bundle), and which engines fail a canary that such a write starts (R294): by draw and by which question. -/
opaque outcome : Nat → Nat → Nat

/-- R158: the plane mask of a collective's start, by its Job ID, group, context and sequence: the manual gives modules rules
that depend on it and no packet that carries it. -/
opaque startMask : List Nat → Nat

/-- R309, R316: the secrets that the operator's key authority makes, by Job ID (0 the rack secret) and key epoch. -/
opaque secret : Nat → Nat → List Byte

/-- R309: the KDF (NIST SP 800-108r1, HMAC-SHA-512): secret, label, context, and the bits L of its output. -/
opaque kdf : List Byte → String → List Byte → Nat → List Byte

/-- R184, R194: XTS-AES-256 (IEEE Std 1619-2018) of one data unit: key pair, data-unit number, plaintext. -/
opaque xts : List Byte → Nat → List Byte → List Byte

/-- R185, R194: AES-CMAC (NIST SP 800-38B): key, message. -/
opaque cmac : List Byte → List Byte → List Byte

/-- R332: HMAC-SHA-512 (RFC 2104): key, message. -/
opaque hmac : List Byte → List Byte → List Byte

/-- R338: SHA-512 (FIPS 180-4). -/
opaque sha512 : List Byte → List Byte

/-- R316, R335: what RSAES-OAEP under the part's transport key, a secret, makes of an installation's ciphertext. -/
opaque unwrapped : List Byte → List Byte

/-- R313: the 16-byte tag of a sealed packet, by its header with Plane zero: the keys are secret, so the bits are free. -/
opaque packetTag : Nat → List Byte

/-- R313: byte by byte, what AES-256-GCM lays over the payload of a packet that is enciphered, by its header with Plane zero. -/
opaque packetStream : Nat → Nat → Byte

/-- R314: AES-256 in the counter mode of GCM from block counter 2: key, IV, and which byte of the stream. -/
opaque aesCtr : List Byte → Nat → Nat → Byte

/-- R267: how the counter drifts from rack time in Holdover and Lost, by the local clock: its sign counts. -/
opaque drift : Nat → Int

end Sys2Proof.Config
end

