-- ==== Sys2Proof/Machine/State.lean ====
section
/-! DEFINITION. The state of the block: one endpoint and one module of a rack, what the two parts share in kind
(`Shared`), the time that passes, everything the parts have sent, and the queue of commands that wait. All of it is plain
data. Widths and reset values stand in INVENTORY.md; a value marked DESIGN CHOICE there is the model's own. -/

namespace Sys2Proof.Machine

/-- Why a step can fault. -/
inductive Fault where
  /-- Raised by the Commons receiver and the host responder when an access reaches a local address at or above the usable
  Commons, which R179 says does not exist. Safe: the machine stops where the manual has no such address. -/
  | outsideCommons (addr : Nat)
  deriving DecidableEq, Repr

/-- Why a step can be refused. -/
inductive Refusal where
  /-- Raised by exec's arm for a command that has no meaning yet. Safe: no claim about it can be proved. -/
  | notModelled (mnemonic : String)
  deriving DecidableEq, Repr

/-! ### What the parts send -/

/-- R313: the key and nonce under which a packet leaves. `key`: 0 none, 1 data D(n), 2 plane P(p,n), 3 tree T(p,g),
4 fabric F(n). -/
structure Seal where
  key : Nat
  epoch : Nat
  period : Nat
  nonce : Nat
  deriving DecidableEq, Repr

/-- Everything that a part sends, in the order in which it sends it (`State.out`, oldest first). -/
inductive Out where
  | packet (p : Part) (port : Nat) (pkt : Packet) (sl : Seal)
  | eri (link : Nat) (m : Eri)
  | frame (p : Part) (port : Nat) (fr : RawFrame)
  | ack (p : Part) (port : Nat) (seq : Nat)
  | nak (p : Part) (port : Nat) (seq : Nat)
  | capability (p : Part) (port : Nat) (c : Capability)
  | width (p : Part) (port : Nat) (b : WidthBlock)
  | training (p : Part) (lane : Nat) (word : Nat) (frames : Nat)
  | markers (p : Part) (port : Nat) (blocks : List LaneBlock)
  | filler (p : Part) (port : Nat) (slot : Nat)
  | codewords (p : Part) (lane : Nat)
  | timing (p : Part) (chars : List TlChar)
  | dir (p : Part) (ctx : Ctx) (status : Nat) (val : List Byte)
  | protocol (m : PMsg) (status : Nat)
  | smbus (p : Part) (bytes : List Byte)
  | roce (qp : Nat) (result : Nat) (data : List Byte)
  | cnp (qp : Nat)
  | verdictRead (module_ : Nat) (number : Nat)
  | host (port : Nat) (kind : Nat)
  | meter (bytes : List Byte)
  deriving DecidableEq, Repr

/-! ### The receiver of requests (R44, R58, R85, R89), one in the endpoint and one in the Commons -/

/-- One open interval of a source: its two-bit value, the writes settled in it, the jobs of which a write was refused, and
whether its flagged store has closed it (R58, R59). -/
structure Interval where
  value : Nat
  settled : Nat
  refused : List Nat
  closed : Bool
  deriving DecidableEq, Repr

/-- A settled sequence: its response code, packet type and read count (R89, R313), and the data of its response where a
collective packet was answered with some (R163). -/
structure Settled where
  seq : Nat
  code : Nat
  typ : Nat
  reads : Nat
  data : List Byte
  deriving DecidableEq, Repr

/-- R89, R90: the record a receiver keeps of one source (rack × 1,024 + node); `start` is the sequence of its last start
with S = 1, `gapLimit` the gap age limit under which its gap timer runs (R92, R97), in ns. -/
structure SrcRec where
  src : Nat
  start : Nat
  base : Nat
  settled : List Settled
  current : Nat
  intervals : List Interval
  lastArrival : Nat
  lastPort : Nat
  gapSince : Option Nat
  gapLimit : Nat
  deriving DecidableEq, Repr

/-- A flagged store that waits for its interval (R58): the local address and the Offset base under which it passed checks 6
to 8 of R44 at its arrival (R45, R89). `ended`: those checks refused it; it has been answered and has settled, and only its
interval still waits to be closed. -/
structure HeldStore where
  src : Nat
  pkt : Packet
  loc : Nat
  offBase : Nat
  ended : Bool
  port : Nat
  since : Nat
  limit : Nat
  deriving DecidableEq, Repr

/-- A request in progress: it has passed check 5 and has not settled (R89). `result` is the code and data once the point
of coherence has answered, `at_` when it arrived, `err` what the check of its line finds (R185). `stage` is where a frame of the
Sward carries it (R226, R227): 0 nowhere, 1 to the tile that serves it, 2 it stands there, 3 back, 4 it is back. -/
structure InProg where
  id : Nat
  src : Nat
  pkt : Packet
  loc : Nat
  offBase : Nat
  port : Nat
  result : Option (Nat × List Byte)
  at_ : Nat
  err : Nat
  stage : Nat
  deriving DecidableEq, Repr

/-- R85: one entry of the atomic result cache. -/
structure AtomResult where
  src : Nat
  seq : Nat
  code : Nat
  old : List Byte
  deriving DecidableEq, Repr

structure Receiver where
  recs : List SrcRec
  held : List HeldStore
  inprog : List InProg
  atoms : List AtomResult
  nextId : Nat
  deriving DecidableEq, Repr

/-- R43: an admission entry; units of 64 KiB as the layout gives them. -/
structure AdmEntry where
  v : Bool
  job : Nat
  offBase : Nat
  len : Nat
  localBase : Nat
  r : Bool
  w : Bool
  a : Bool
  c : Bool
  deriving DecidableEq, Repr

/-- R46: a denial record. -/
structure Denial where
  job : Nat
  src : Nat
  off : Nat
  typ : Nat
  reason : Nat
  time : Nat
  deriving DecidableEq, Repr

/-! ### The sender of requests (R56, R88, R91) -/

/-- The pair of the part and one destination (rack × 1,024 + node). -/
structure Pair where
  dst : Nat
  next : Nat
  start : Bool
  lastStart : Nat
  interval : Nat
  writes : Nat
  charged : Nat
  restart : Bool
  deriving DecidableEq, Repr

/-- What a request belongs to. -/
inductive Owner where
  | agent
  | tile (t : Nat)
  | notify (c : Nat)
  | coll (c : Nat)
  | marker
  | result (group cseq piece rank : Nat)
  | forward (prog : Nat)
  | restore (frag : Nat)
  deriving DecidableEq, Repr

/-- Where a request stands at its source. -/
inductive ReqSt where
  | walking | faulted (rec : Nat) | waiting | sent | retryWait | holdWait | atHome
  deriving DecidableEq, Repr

/-- A request of the outstanding table (R88 to R94), from its acceptance to its completion. `order` is the acceptance order.
`slot` and `gen` name the job slot and the invalidations begun when it was translated. `want`: right needed (R34). `waits` are
the earlier requests that a Rack release waits for, `bad` the destination and code of those that ended otherwise than Done
(R61). `sl` is the seal of its first sending (R311); `accAt` and `trAt` when it was accepted and translated; `cgen` the cache
generation in which a fetch began. `trSeq` is its place in the order of translations (R52), `near` the lines that a load has
found in the near cache and `ecc` what their ECC finds, line by line of the load (R66, R115). -/
structure Req where
  id : Nat
  order : Nat
  agent : Nat
  tag : Nat
  link : Nat
  owner : Owner
  st : ReqSt
  slot : Nat
  gen : Nat
  vfa : Nat
  want : Nat
  rel : Scope
  acq : Scope
  noCache : Bool
  cgen : Nat
  fillOff : Nat
  fillLen : Nat
  forced : Bool
  pkt : Packet
  first : Nat
  last : Nat
  sends : Nat
  retrans : Nat
  retries : Nat
  due : Nat
  timeout : Nat
  reLimit : Nat
  retryLimit : Nat
  life : Nat
  waits : List Nat
  bad : List (Nat × Nat)
  sl : Seal
  accAt : Nat
  trAt : Nat
  trSeq : Nat
  near : List (Nat × List Byte)
  ecc : List Nat
  deriving DecidableEq, Repr

/-! ### Directory service, log and counters (R328, R336, R340, R388) -/

/-- A BLOB assembly or a snapshot of an access context (R336, R337). -/
structure Blob where
  ctx : Ctx
  key : Nat
  data : List Byte
  at_ : Nat
  expired : Bool
  deriving DecidableEq, Repr

/-- R340: an event record. -/
structure EventRec where
  time : Nat
  unlocked : Bool
  severity : Nat
  code : Nat
  seq : Nat
  job : Nat
  detail : Nat
  deriving DecidableEq, Repr

structure EventLog where
  recs : List EventRec
  next : Nat
  acked : Nat
  lost : Nat
  deriving DecidableEq, Repr

/-- A write that applies from an epoch boundary: the old value holds until `epoch` begins. -/
structure Deferred where
  key : Nat
  old : Nat
  epoch : Nat
  deriving DecidableEq, Repr

/-- R387 to R389: live counters, the snapshot bank, chain masks and the changes that wait for an epoch boundary. Keys are
(group × 65,536 + instance) × 256 + position. -/
structure Counters where
  live : Tab Nat
  bank : Tab Nat
  chain : Tab Nat
  pendChain : Tab Nat
  pendReset : Tab Nat
  bankTime : Nat
  bankUnlocked : Bool
  finals : Tab (List Nat)
  deriving DecidableEq, Repr

/-! ### Time, clocks, links -/

/-- A timing lane as rack time sees it (R265, R266): in sync, the clock of its last valid tick and whether it agreed, the
counter reading at its last epoch tick, corrected for its delay (units of 0.2 ns), and the time set of that epoch and whether
it agreed. -/
structure TLane where
  sync : Bool
  tick : Nat
  tickOk : Bool
  epoch : Int
  set : Option Nat
  setOk : Bool
  deriving DecidableEq, Repr

/-- R265 to R268: rack time. `units` counts 0.2 ns. State 0 Unset, 1 Acquiring, 2 Locked, 3 Holdover, 4 Lost. `agrees` and
`disagree` count consecutive epochs, `step` is a step that waits for an epoch tick and `slew` what is still to be slewed,
both in units. -/
structure RackTime where
  units : Nat
  state : Nat
  source : Nat
  laneA : TLane
  laneB : TLane
  agrees : Nat
  disagree : Nat
  step : Option Int
  lastStep : Int
  slew : Int
  since : Nat
  deriving DecidableEq, Repr

/-- A clock domain (R367 to R371). Reference: 0 internal oscillator, 1 crystal, 2 rack reference, 3 phase reference.
Flags: bits as 0x3010.04. -/
structure Domain where
  ref : Nat
  flags : Nat
  sticky : Nat
  kHz : Nat
  target : Option Nat
  since : Nat
  good : Nat
  integerN : Bool
  deriving DecidableEq, Repr

structure Clocks where
  crystal : Nat
  started : Nat
  oscKHz : Nat
  domains : Tab Domain
  rateMatched : Bool
  returnAt : Option Nat
  deriving DecidableEq, Repr

/-- R237: a frame kept until it is acknowledged. -/
structure ReplayFrame where
  seq : Nat
  charge : Nat
  pkt : Packet
  sent : Nat
  deriving DecidableEq, Repr

/-- R251: a width change in progress. `peer`: the peer's latest proposal; `sent`: when the own block was last sent. -/
structure WidthState where
  mine : Nat
  peer : Option Nat
  reason : Nat
  txAfter : Option Nat
  rxAfter : Option Nat
  agreed : Nat
  txDone : Bool
  rxDone : Bool
  since : Nat
  sent : Nat
  deriving DecidableEq, Repr

/-- A port (R237 to R253). State: 0 Off, 1 Detect, 2 Train, 3 Bit lock, 4 Block lock, 5 Deskew, 6 Capability, 7 Active.
Role: 0 Off, 1 Down, 2 Up. `marker`: the Marker count last received; `aligned`: the lane indexes whose markers have aligned, and
`place`: the index of each lane (R246); `capAt`, `capAcc`: when the own Capability block was last sent, and whether it accepted
the peer (R247). -/
structure Port where
  role : Nat
  state : Nat
  width : Nat
  lanes : Nat
  txSeq : Nat
  rxSeq : Nat
  replay : List ReplayFrame
  queue : List Packet
  replays : Nat
  nakAt : Option Nat
  peer : Option Capability
  capCount : Nat
  since : Nat
  downSince : Nat
  activeSince : Nat
  replayTimer : Nat
  retryLimit : Nat
  wc : Option WidthState
  deficit : List Nat
  marker : Nat
  aligned : Nat
  place : Tab Nat
  capAt : Option Nat
  capAcc : Bool
  deriving DecidableEq, Repr

/-- What a port transmits from the start of its codeword stream (R236, R246, R249): when that was, the number of its next port
block, the marker sets and filler sets sent and the slot of the last filler set, and of each lane in the current marker period
the parities and the number of its blocks other than Idle. -/
structure TxPort where
  start : Nat
  next : Nat
  marks : Nat
  fillers : Nat
  fillAt : Nat
  parity : List Nat
  blocks : List Nat
  deriving DecidableEq, Repr

/-- A data lane (R242 to R254). State codes of a port, and 8 failed. `cw`: the codewords of its stream that have been counted
(R234). `count`: the Countdown that it sends; `peerDone`: the peer's frame with Countdown 0 has come, so that it decodes (R244).
`burst`: it has sent a burst (R243). `candidate`, `hunt`, `seen`, `invalid`: the bit position tested for block lock, the valid
headers in a row, the blocks since lock, and those of the last 1,024 whose header was invalid (R245). `errs`: the tick and the
codewords that could not be corrected in it (R253). -/
structure Lane where
  state : Nat
  taps : List Int
  tapStatus : List Nat
  ready : Bool
  peerReady : Bool
  bitLock : Bool
  peerLock : Nat
  count : Option Nat
  peerDone : Bool
  burst : Bool
  found : Nat
  candidate : Nat
  hunt : Nat
  seen : Nat
  invalid : List Nat
  cw : Nat
  errs : Nat × Nat
  blockLock : Bool
  lostAt : Nat
  since : Nat
  scanning : Bool
  scan : List Byte
  hist : Tab Nat
  deriving DecidableEq, Repr

/-- R255 to R257: what a timing lane has brought of a message, and how many characters of a time set are still to come. -/
structure TlPart where
  chars : List TlChar
  skip : Nat
  deriving DecidableEq, Repr

/-- R255 to R258: the timing lanes' message state: own message sequence, the sequences held of each source, and the characters
of the message that is in progress on each lane. -/
structure TimingLanes where
  seq : Nat
  seen : Tab (List Nat)
  partA : TlPart
  partB : TlPart
  deriving DecidableEq, Repr

/-! ### Security -/

/-- A bundle slot (R306): state 0 empty, 1 valid, 2 invalid, 3 uploading. -/
structure BundleSlot where
  state : Nat
  bundle : Option BundleInfo
  deriving DecidableEq, Repr

/-- The root of trust (R302 to R308). `derived` is the latest key period whose keys it has derived (R311). -/
structure Rot where
  boot : Nat
  reason : Nat
  active : Nat
  slot0 : BundleSlot
  slot1 : BundleSlot
  running : Option BundleInfo
  identity : Bool
  nonce : Option (List Byte)
  nonceAt : Nat
  report : Option (List Byte)
  derived : Nat
  deriving DecidableEq, Repr

/-- R310, R316 to R320: the secrets held for one Job ID (0x0000: the rack secret), by epoch, the installation that waits,
and the state of a removal (0 none, 1 Retiring, 2 Draining, 3 Scrubbing, 4 Settled); `readyAt`: the epoch in which its scrubbing
ended. -/
structure JobKeys where
  job : Nat
  cur : Option Nat
  prev : Option Nat
  coll : Bool
  pend : Option (Nat × Nat × Nat)
  retired : List Nat
  removal : Nat
  retireAt : Nat
  readyAt : Option Nat
  deriving DecidableEq, Repr

/-! ### Mown entries, windows, verdicts -/

/-- R273 to R280: a Mown collective entry and its state; `tiles` and `engs` are the tiles in service and the engines out of
service at its compile, from which R276 gives the home tile and engine of each piece. -/
structure MownEntry where
  job : Nat
  group : Nat
  cctx : Nat
  cseq : Nat
  start : Nat
  interval : Nat
  lead : Nat
  planes : Nat
  state : Nat
  tiles : List Nat
  engs : List Nat
  offset : Nat
  deriving DecidableEq, Repr

/-- R297, R298: a self-test or calibration window. -/
structure Window where
  kind : Nat
  target : Nat
  start : Nat
  length : Nat
  action : Nat
  state : Nat
  deriving DecidableEq, Repr

/-- A verdict received and not yet applied (R288). -/
structure PendVerdict where
  v : VMsg
  at_ : Nat
  deriving DecidableEq, Repr

/-- Verdict state that both parts keep; `beat`: the tick of the last Heartbeat. -/
structure Verdicts where
  last : Nat
  beat : Option Nat
  pending : List PendVerdict
  records : List VMsg
  dead : List Nat
  failed : List Nat
  deriving DecidableEq, Repr

/-! ### What the two parts share in kind -/

/-- State of a kind that the endpoint and the module both have. -/
structure Shared where
  regs : Tab Nat
  sels : Tab Nat
  deferred : List Deferred
  assemblies : List Blob
  snaps : List Blob
  smbStatus : Nat
  log : EventLog
  ctr : Counters
  rt : RackTime
  clk : Clocks
  ports : Tab Port
  tx : Tab TxPort
  lanes : Tab Lane
  tl : TimingLanes
  rot : Rot
  keys : List JobKeys
  mode : Nat
  switchAt : Option Nat
  mown : Tab MownEntry
  windows : Tab Window
  lanesOut : List Nat
  recv : Receiver
  adm : Tab AdmEntry
  denials : List Denial
  pairs : List Pair
  reqs : List Req
  nextReq : Nat
  verd : Verdicts
  coords : List Nat
  deriving DecidableEq, Repr

/-! ### The endpoint -/

/-- A job slot (R36, R47, R48): state 0 Free, 1 Active, 2 Invalidating, 3 Revoked. `cacheGen` is its near-cache
generation, `gen` the Completed generation, `inv` the invalidations begun, `waits` the requests that the one in progress
waits for. -/
structure Slot where
  job : Nat
  root : Nat
  gen : Nat
  state : Nat
  cacheGen : Nat
  inv : Nat
  waits : List Nat
  deriving DecidableEq, Repr

/-- A leaf held in the ATU (R32): level 2, 3 or 4; `vpn` and `page` in units of 64 KiB. -/
structure AtuEntry where
  slot : Nat
  level : Nat
  vpn : Nat
  page : Nat
  r : Bool
  w : Bool
  a : Bool
  c : Bool
  vol : Bool
  noCache : Bool
  deriving DecidableEq, Repr

/-- A pointer held in the walk cache: the table of `level` for the VFA bits above it. -/
structure WalkPtr where
  slot : Nat
  level : Nat
  vpn : Nat
  table : Nat
  deriving DecidableEq, Repr

/-- Whom a walk serves. -/
inductive WalkFor where
  | req (id : Nat) | record (rec : Nat) | tile (t : Nat) | coll (c : Nat) | list (slot id : Nat)
  deriving DecidableEq, Repr

/-- How a walk ended. -/
inductive WalkEnd where
  | leaf (e : AtuEntry) | unmapped | tableError
  deriving DecidableEq, Repr

/-- A table walk in progress (R29 to R32). -/
structure Walk where
  id : Nat
  slot : Nat
  job : Nat
  granule : Nat
  level : Nat
  want : Nat
  inv : Nat
  who : WalkFor
  ended : Option WalkEnd
  deriving DecidableEq, Repr

/-- A request that waits on a fault record: whom, and the right it needs. -/
structure Waiter where
  who : WalkFor
  want : Nat
  deriving DecidableEq, Repr

/-- R38 to R41: a fault record. State 0 Free, 1 Pending, 2 Walking. -/
structure FaultRec where
  job : Nat
  granule : Nat
  kind : Nat
  state : Nat
  waiters : List Waiter
  first : Nat
  timer : Nat
  limit : Nat
  revoked : Bool
  deriving DecidableEq, Repr

/-- R66, R115: a near-cache line, tagged by slot, slot generation and FPA [55:7]. -/
structure CacheLine where
  slot : Nat
  gen : Nat
  line : Nat
  data : List Byte
  used : Nat
  deriving DecidableEq, Repr

/-- A fence that holds its agent's later requests (R63). -/
structure Fence where
  order : Nat
  agent : Nat
  tag : Nat
  job : Nat
  link : Nat
  rack : Bool
  waits : List Nat
  deriving DecidableEq, Repr

/-- R102: an ERI link: in service, Init sent and received, credits the accelerator may still use (Request and Memory-response
classes), credits the endpoint may still use (Completion and Memory-request classes), credits owed of the first two. -/
structure EriLink where
  up : Bool
  lost : Bool
  sentInit : Bool
  gotInit : Bool
  reqCr : Nat
  respCr : Nat
  compCr : Nat
  memCr : Nat
  owed : Nat
  owedResp : Nat
  deriving DecidableEq, Repr

/-- Whom a memory message serves. -/
inductive MemFor where
  | fabric (id : Nat) | own (req : Nat) | walk (id : Nat) | list (slot id pos len : Nat) | piece (c piece part : Nat)
  | resultW (prog c : Nat) | restore (prog : Nat) | exchange (c pos : Nat)
  deriving DecidableEq, Repr

/-- An outgoing ERI message that waits for credits, or for a memory tag (`who` says whom a memory message serves).
Classes: 2 Completion, 3 Memory request. -/
structure EriWait where
  link : Nat
  cls : Nat
  m : Eri
  who : Option MemFor
  deriving DecidableEq, Repr

/-- R106, R107: a memory message outstanding: its kind and the bytes that its answer brings. -/
structure MemMsg where
  tag : Nat
  link : Nat
  kind : Nat
  want : Nat
  who : MemFor
  sent : Nat
  limit : Nat
  deriving DecidableEq, Repr

/-- A copy (R109 to R112) in the copy table. `list` names the list slot that armed it. State 0 moving, 2 its notify store
is out, 3 that has completed. -/
structure Copy where
  id : Nat
  job : Nat
  slot : Nat
  agent : Nat
  tag : Nat
  link : Nat
  list : Option Nat
  src : Nat
  dst : Nat
  len : Nat
  srcRack : Nat
  dstRack : Nat
  engine : Nat
  pin : Bool
  notify : Bool
  notifyVfa : Nat
  notifyVal : Nat
  issued : Nat
  open_ : Nat
  worst : Nat
  state : Nat
  deriving DecidableEq, Repr

/-- A transfer tile (R42, R110): state 0 translating, 1 waiting on faults, 2 reading, 4 writing, 3 ended. `todo` are the
granules (× 4 + right) not yet translated, `got` those that are, with the fabric address of each; `parts` the packets
outstanding. -/
structure CTile where
  id : Nat
  copy : Nat
  engine : Nat
  src : Nat
  dst : Nat
  len : Nat
  state : Nat
  todo : List Nat
  got : List (Nat × Nat)
  parts : Nat
  worst : Nat
  stolen : Bool
  buf : List (Nat × List Byte)
  deriving DecidableEq, Repr

/-- A list slot (R114): state 0 Free, 1 Reading, 2 Armed, 3 Running. `id` names the list, `data` is what has been read and `begun`
the descriptors that have been started or lost with a poisoned read. -/
structure ListSlot where
  id : Nat
  state : Nat
  job : Nat
  agent : Nat
  tag : Nat
  link : Nat
  vfa : Nat
  todo : List Nat
  got : List (Nat × Nat)
  count : Nat
  act : Nat
  data : List (Nat × List Byte)
  begun : List Nat
  started : Bool
  reads : Nat
  left : Nat
  worst : Nat
  deriving DecidableEq, Repr

/-- A collective at a member endpoint (R157 to R175). `vfas` are its source, destination, source aux and destination scale;
`got` the fabric addresses of its granules and `arrays` their local addresses, by granule. State 0 translating, 1 probing, 2
waiting for Start time, 3 sending, 4 everything sent, 5 ending, 6 translating again. `cword` is the context word in force and
`seen` those that Probes brought; `passed` are the own pieces that have passed, `bufs` holds piece, part and bytes read,
`routes` position and bytes of an exchange's route array, with `routeReads` reads still out. -/
structure EpColl where
  id : Nat
  job : Nat
  slot : Nat
  agent : Nat
  tag : Nat
  link : Nat
  group : Nat
  cctx : Nat
  planes : Nat
  cseq : Nat
  vfas : List Nat
  size : Nat
  rank : Nat
  members : Nat
  root : Nat
  units : Nat
  recvSlots : Nat
  start : Nat
  state : Nat
  cword : Option Nat
  seen : List Nat
  probes : List Nat
  todo : List Nat
  got : List (Nat × Nat)
  arrays : List (Nat × Nat)
  passed : List Nat
  sentOn : Tab Nat
  arrived : List Nat
  open_ : Nat
  written : List Nat
  recvd : Nat
  digest : Nat
  short : Nat
  late : Nat
  holds : Nat
  worst : Nat
  rel : List Nat
  accepted : Nat
  limit : Nat
  dead : List Nat
  bufs : List (Nat × Nat × List Byte)
  routes : List (Nat × List Byte)
  routeReads : Nat
  deriving DecidableEq, Repr

/-- R395, R396: a trace record of the endpoint's own buffer, newest first. -/
structure TraceRec where
  seq : Nat
  pkt : Packet
  kind : Nat
  base : Nat
  offs : List Nat
  deriving DecidableEq, Repr

/-- The endpoint die (R1, R98). `inbox`: packets that its links have accepted and no receive command has taken (R238).
`ownRefused`: refused writes to the own node, by acceptance order and Job ID (R59). `live`, `gone`, `portsLost`, `returned`: the
planes in the live list, those that a verdict has failed, those whose own port is lost, and since when a plane is back (R118).
`released`: barriers that a first Release has completed (R176). `nextTr` and the other counts named next are the model's own. -/
structure Endpoint where
  sh : Shared
  strap : Nat
  inbox : List Packet
  slots : Tab Slot
  atu : List AtuEntry
  walkCache : List WalkPtr
  walks : List Walk
  nextWalk : Nat
  faults : Tab FaultRec
  cache : List CacheLine
  useClock : Nat
  nextTr : Nat
  ownRefused : List (Nat × Nat)
  denialCount : Tab Nat
  links : Tab EriLink
  tags : List (Nat × Nat)
  fences : List Fence
  eriWait : List (Nat × Eri × List Nat)
  txWait : List EriWait
  mem : List MemMsg
  nextMem : Nat
  copies : List Copy
  nextCopy : Nat
  tiles : List CTile
  nextTile : Nat
  enginesOut : List Nat
  lists : Tab ListSlot
  nextList : Nat
  returned : Tab Nat
  colls : List EpColl
  nextColl : Nat
  released : List (Nat × Nat × Nat)
  live : List Nat
  gone : List Nat
  portsLost : List Nat
  exclusions : List (Nat × Nat)
  selfDead : Bool
  temp : Int
  throttled : Bool
  tripped : Bool
  supply : Nat
  inReset : Bool
  restoreBytes : Nat
  trace : List TraceRec
  auditRun : Nat
  deriving DecidableEq, Repr

/-! ### The module -/

/-- R126: what a bit pattern decodes to. A finite value is its sign and its magnitude in units of 2^-1074. -/
inductive Num where
  | nan
  | inf (neg : Bool)
  | fin (neg : Bool) (m : Nat)
  deriving DecidableEq, Repr

/-- R143: a node of the tree of R142 that waits for its sibling: the participants from place `lo` on, `n` of them, and its
value of each element in the accumulation format. -/
structure TNode where
  lo : Nat
  n : Nat
  vals : List Num
  deriving DecidableEq, Repr

/-- R131: an exact accumulator. -/
structure Acc where
  a : Int
  n : Bool
  p : Bool
  m : Bool
  z : Bool
  deriving DecidableEq, Repr

/-- A result copy to a member rank: state 0 waiting for the port (residue), 1 sent, 2 answered Done, 3 ended otherwise. -/
structure Delivery where
  rank : Nat
  state : Nat
  deriving DecidableEq, Repr

/-- A piece of a collective at a module (R164 to R171). `acc` are its exact records, `nodes` its ordered values, `held` its
payload where nothing is computed, its merged rows (top-K), or, by rank, contributions that wait for a Mown slot; `side`,
`sideNodes` and `sideHeld` what came while its record was in spill (`spilled`). `racks`: the racks that a finished result names;
`pod`: by element, the racks and the bytes that a pod-tier module holds, and whether it has forwarded them; `cells` what it
holds of the Windrow pool, `touched` when last (R219); its spill pages stand in the module's table of them. -/
structure Piece where
  ranks : List Nat
  cells : Nat
  touched : Nat
  acc : List Acc
  held : List (Nat × List Byte)
  spilled : Bool
  nodes : List TNode
  side : List Acc
  sideNodes : List TNode
  sideHeld : List (Nat × List Byte)
  done : Bool
  short : Bool
  racks : Nat
  partials : List (Nat × List Byte)
  result : List Byte
  sentUp : Option Nat
  resends : Nat
  treeDone : Bool
  pod : Tab (Nat × List Byte × Bool)
  deliver : List Delivery
  deriving DecidableEq, Repr

/-- A member's Arrive at a module. -/
structure Arrival where
  rank : Nat
  count : Nat
  time : Nat
  deriving DecidableEq, Repr

/-- A sequence slot (R153): state 0 Free, 1 Open, 2 Draining, 3 Finished. `poisoned`: the chunks that lost a record (R134). -/
structure SeqSlot where
  state : Nat
  cseq : Nat
  cctx : Nat
  opened : Nat
  timeout : Nat
  resendTime : Nat
  resendLimit : Nat
  size : Option Nat
  tiles : List Nat
  pieces : Tab Piece
  counts : Tab Nat
  arrivals : List Arrival
  released : Bool
  poisoned : List Nat
  deriving DecidableEq, Repr

/-- A collective context (R152). -/
structure CContext where
  v : Bool
  op : Nat
  order : Nat
  word : Nat
  k : Nat
  deriving DecidableEq, Repr

/-- R151: a group entry with its member table, contexts, program blocks, base and sequence slots. -/
structure Group where
  v : Bool
  job : Nat
  members : Nat
  rackMask : Nat
  lateness : Bool
  firstSeq : Nat
  table : List Nat
  ctxs : Tab CContext
  progs : Tab (List Byte)
  base : Nat
  slots : Tab SeqSlot
  deriving DecidableEq, Repr

/-- R177: a lateness record. -/
structure Lateness where
  barriers : Nat
  last : Nat
  sum : Nat
  max : Nat
  deriving DecidableEq, Repr

/-- R191, R192: the allocator of an Allocator region. The free list is `freed`, last in first out, above the pages that
have never been taken, `fresh` to first + pages − 1 in ascending order. -/
structure Alloc where
  first : Nat
  pages : Nat
  fresh : Nat
  freed : List Nat
  counts : Tab Nat
  allocations : Nat
  empties : Nat
  poisoned : Bool
  deriving DecidableEq, Repr

/-- R184, R309: where a region's storage keys come from: a plane secret of its Owner's job, under the key epoch then current, or
the internal storage key, named by its draw. -/
inductive StoreKey where
  | job (job epoch plane index serial : Nat)
  | inner (draw index serial : Nat)
  deriving DecidableEq, Repr

/-- R194: what a spill page holds: a mesh frame, or the records or values of a piece: group, sequence, piece. -/
inductive SpillFor where
  | frame (id : Nat)
  | piece (group cseq piece : Nat)
  deriving DecidableEq, Repr

/-- R194: a spill page that is in use: the tile that wrote it, its content kind (0 mesh frame, 1 accumulator records, 2 ordered
partial values), what it holds, its content bytes and when it was written (rack time, ns). -/
structure SpillPage where
  tile : Nat
  kind : Nat
  who : SpillFor
  data : List Byte
  at_ : Nat
  deriving DecidableEq, Repr

/-- R180, R182: a region. State 0 Free, 1 Initialising, 2 Ready, 3 Scrubbing, 4 Retained, 5 Stale. `torn`: its owner's slice
has been torn down; `next`: the state that it takes once every request that passed check 8 against it has completed. -/
structure Region where
  v : Bool
  kind : Nat
  placement : Nat
  retain : Bool
  base : Nat
  size : Nat
  owner : Nat
  page : Nat
  code : Nat
  overwrite : Bool
  state : Nat
  serial : Nat
  torn : Bool
  next : Option Nat
  retainedAt : Nat
  alloc : Option Alloc
  key : Option StoreKey
  deriving DecidableEq, Repr

/-- R187: a Commons error record. -/
structure MemError where
  owner : Nat
  stack : Nat
  kind : Nat
  line : Nat
  time : Nat
  deriving DecidableEq, Repr

/-- R198: a restore push. State 0 idle, 1 pushing, 2 done, 3 ended with failed fragments. -/
structure Push where
  state : Nat
  region : Nat
  target : Nat
  first : Nat
  stripes : Nat
  parity : Bool
  next : Nat
  open_ : Tab Nat
  bad : List Nat
  pushed : Nat
  failed : Nat
  deriving DecidableEq, Repr

/-- A frame inside the module: a mesh frame with its header fields (R209) and where it stands. Place: 0 the queue of its
unit, 1 injection queue, 2 park queue, 3 arriving at a router input, 4 spilled, 5 result cell, 6 a Mown contribution that waits for
its slot (R279). `stages`: when it passed each stage of R396. -/
structure MFrame where
  id : Nat
  tile : Nat
  place : Nat
  dir : Nat
  dtile : Nat
  unit : Nat
  mplane : Nat
  prio : Nat
  len : Nat
  stamp : Nat
  stile : Nat
  defl : Nat
  spilled : Bool
  pkt : Packet
  ingress : Nat
  stages : Tab Nat
  deriving DecidableEq, Repr

/-- R210, R213: cells of a tile, of its park reserve or of its frame pool, whose frame is leaving for the mesh: they return when
its last flit has left. -/
structure Leaving where
  tile : Nat
  park : Bool
  cells : Nat
  until_ : Nat
  deriving DecidableEq, Repr

/-- A tile's books (R204) and service state; its spill pages stand in the module's table of them. -/
structure Tile where
  inService : Bool
  withdrawn : Bool
  frameUsed : Nat
  parkUsed : Nat
  windUsed : Nat
  auditRun : Nat
  spilling : Bool
  deriving DecidableEq, Repr

/-- R224, R225: a slice entry. State 0 Free, 1 Active, 2 Torn, 3 Drained. -/
structure Slice where
  v : Bool
  state : Nat
  reduce : Bool
  commons : Bool
  job : Nat
  rackMask : Nat
  nodes : Nat
  revokedAt : Nat
  swept : List Nat
  deriving DecidableEq, Repr

/-- R222: a node route entry. -/
structure Route where
  v : Bool
  fenced : Bool
  port : Nat
  deriving DecidableEq, Repr

/-- A Vote that a module holds (R287). -/
structure Vote where
  plane : Nat
  node : Nat
  at_ : Nat
  deriving DecidableEq, Repr

/-- A verdict that an issuer repeats (R288). -/
structure Repeat where
  v : VMsg
  left : Nat
  deriving DecidableEq, Repr

/-- The Verdict engine (R283 to R300): when each part (node, or 512 + plane) was last heard and since when without a break,
suspects and since when, Votes held, verdicts to repeat, whether the module is fenced or its engine stopped, rebind and restore
requests, when nodes were declared dead, Suspect bits, whether a fenced module trains its ports again (R300), and the highest
verdict number that another module's Heartbeat has named (R288). -/
structure VEngine where
  heard : Tab Nat
  suspects : Tab Nat
  votes : List Vote
  repeats : List Repeat
  fenced : Bool
  stopped : Bool
  rebinds : List Nat
  restores : List Nat
  heardSince : Tab Nat
  deadAt : Tab Nat
  suspectMask : List Nat
  training : Bool
  seen : Nat
  deriving DecidableEq, Repr

/-- Power and input (R342 to R362). State 0 Run, 1 Trim, 2 Rest, 3 Fallow, 4 Off; `entering`: the entry tests run, `booting`:
the root of trust has been started. `inputBad`: the input has left its range. The target is in half watts, the energy of the
deficit record in 1/2520 µJ, which every mean of up to 10 ticks is a multiple of; `hot`: the limit for a hot junction and when
it was formed. -/
structure Power where
  state : Nat
  entering : Bool
  mV : Nat
  mA : Nat
  means : List Nat
  inEn : Bool
  inputBad : Bool
  soft : Option Nat
  overTrip : Bool
  stopCause : Nat
  trips : List Nat
  latched : Bool
  retryAt : Option Nat
  step : Option (Nat × Nat)
  cap : Nat
  lease : Nat
  hold : Option Nat
  safe : Bool
  target : Nat
  source : Nat
  levels : List Nat
  decided : Option (Nat × Nat)
  below : Nat
  energy : Nat
  excess : Nat
  ticks : Nat
  inDeficit : Bool
  thermal : Nat
  inlet : Int
  junction : Int
  hot : Option (Nat × Nat)
  sensorLatch : Bool
  therm : Bool
  strap : Nat
  booting : Bool
  deriving DecidableEq, Repr

/-- R381: a meter record; kind 16 is a signature block, 16 positions long, whose bytes are `sig`. -/
structure MRec where
  kind : Nat
  unlocked : Bool
  job : Nat
  interval : Nat
  port : Nat
  a : Nat
  b : Nat
  update : Nat
  index : Nat
  sig : List Byte
  deriving DecidableEq, Repr

/-- R378, R379: an account of the meter. -/
structure Account where
  ingress : Nat
  egress : Nat
  gib : Nat
  chargeNow : Nat
  closing : Bool
  deriving DecidableEq, Repr

/-- The metrology die (R374 to R385). State 0 stopped, 1 running, 2 faulted, 3 log full. `synced`: a Time message has come
since the start; `gapFrom`: the interval that stood open at the last stop. -/
structure Meter where
  state : Nat
  image : Option MetroImage
  lastVersion : Nat
  records : List MRec
  next : Nat
  acked : Nat
  update : Nat
  interval : Nat
  accounts : Tab Account
  usage : List UsageEntry
  energyMJ : Nat
  lastMJ : Nat
  time : Nat
  unlocked : Bool
  synced : Bool
  lastTime : Nat
  lastSent : Nat
  seq : Nat
  gapFrom : Option Nat
  reserve : Nat
  deriving DecidableEq, Repr

/-- R332, R333: a protocol session and the answer it keeps. -/
structure Session where
  id : Nat
  port : Nat
  slot : Nat
  principal : Principal
  partition : Nat
  key : List Byte
  seq : Nat
  answer : Option (Nat × List Byte)
  last : Nat
  deriving DecidableEq, Repr

/-- R335: a credential slot that holds a credential, with its secret. -/
structure Credential where
  principal : Principal
  partition : Nat
  secret : List Byte
  deriving DecidableEq, Repr

/-- R262: a host queue pair: use 0 none, 1 Commons, 2 directory; state 0 reset, 1 ready, 2 error. -/
structure QPair where
  use : Nat
  job : Nat
  rkey : Nat
  state : Nat
  deriving DecidableEq, Repr

/-- The switch module (R1, R16). `mem`: the bytes of the Commons, in canonical form (R179); `bad`: lines that have failed (R187);
`inner`: the draw that gave the internal storage key (R189); `spill`: the spill pages in use (R194); `scrubAt`, `scrubEpoch`,
`scrubEnds`: the scrub position, the epoch after that of the last window and when the open one ends (R190); `frames`: the frames in
the Sward, with what waits in its tiles (R209); `busy`, `leaving`: when outputs and cells of leaving frames come free (R210);
`ve`: the Verdict engine (R283). `nextFrame` and `serial` count. -/
structure Module where
  sh : Shared
  groups : Tab Group
  late : Tab Lateness
  regions : Tab Region
  serial : Nat
  mem : Tab Byte
  bad : List Nat
  errors : List MemError
  failedStacks : List Nat
  stackSeen : List Nat
  uncorr : Tab Nat
  corrected : List Nat
  scrubOn : Bool
  scrubAt : Nat
  scrubEpoch : Nat
  scrubEnds : Nat
  inner : Nat
  spill : Tab SpillPage
  inSlot : Bool
  push : Push
  slices : Tab Slice
  routes : Tab Route
  rackRoutes : Tab Nat
  frames : List MFrame
  nextFrame : Nat
  leaving : List Leaving
  busy : Tab Nat
  tiles : Tab Tile
  engOut : List Nat
  canaryLast : Tab Nat
  align : Nat
  alignTry : Nat
  alignAt : Nat
  alignBad : List Nat
  alignZero : Option Nat
  ve : VEngine
  power : Power
  meter : Meter
  meterSeq : Nat
  sessions : List Session
  creds : Tab Credential
  opens : List (Nat × Nat)
  arrivals : List (Nat × Nat)
  muted : Tab Nat
  hosts : Tab Nat
  qps : Tab QPair
  staging : Tab Byte
  dirCore : Nat
  coresStopped : List Nat
  denialCount : Tab Nat
  stageHist : Tab Nat
  usage : List UsageEntry
  fragments : Nat
  cnps : Tab Nat
  deriving DecidableEq, Repr

/-- The whole state. `clock` counts 0.2 ns of elapsed time since reset, `draws` the free values drawn so far (the model's
own field), `out` everything sent, oldest first, `pending` the commands that wait, first in first out. -/
structure State where
  ep : Endpoint
  mod : Module
  clock : Nat
  draws : Nat
  out : List Out
  pending : List Instr
  deriving DecidableEq, Repr

/-! ### Reset -/

/-- A receiver with nothing received. -/
def Receiver.reset : Receiver where
  recs := []
  held := []
  inprog := []
  atoms := []
  nextId := 0

/-- A timing lane on which nothing has arrived. -/
def TLane.reset : TLane where
  sync := false
  tick := 0
  tickOk := true
  epoch := 0
  set := none
  setOk := true

/-- Rack time after reset: Unset, source lane A (R265, R266). -/
def RackTime.reset : RackTime where
  units := 0
  state := 0
  source := 0
  laneA := TLane.reset
  laneB := TLane.reset
  agrees := 0
  disagree := 0
  step := none
  lastStep := 0
  slew := 0
  since := 0

/-- The root of trust in its boot ROM (0x8000.01 and 0xD800.02 read 0). -/
def Rot.reset : Rot where
  boot := 0
  reason := 0
  active := 0
  slot0 := { state := 0, bundle := none }
  slot1 := { state := 0, bundle := none }
  running := none
  identity := false
  nonce := none
  nonceAt := 0
  report := none
  derived := 0

/-- The shared state of a part after reset: every entry at its default, every table empty. -/
def Shared.reset : Shared where
  regs := []
  sels := []
  deferred := []
  assemblies := []
  snaps := []
  smbStatus := 0
  log := { recs := [], next := 0, acked := 0, lost := 0 }
  ctr := { live := [], bank := [], chain := [], pendChain := [], pendReset := [], bankTime := 0, bankUnlocked := false,
           finals := [] }
  rt := RackTime.reset
  clk := { crystal := 0, started := 0, oscKHz := 0, domains := [], rateMatched := false,
           returnAt := none }
  ports := []
  tx := []
  lanes := []
  tl := { seq := 0, seen := [], partA := { chars := [], skip := 0 }, partB := { chars := [], skip := 0 } }
  rot := Rot.reset
  keys := []
  mode := 0
  switchAt := none
  mown := []
  windows := []
  lanesOut := []
  recv := Receiver.reset
  adm := []
  denials := []
  pairs := []
  reqs := []
  nextReq := 0
  verd := { last := 0, beat := none, pending := [], records := [], dead := [], failed := [] }
  coords := []

/-- The endpoint after reset. -/
def Endpoint.reset : Endpoint where
  sh := Shared.reset
  strap := 3
  inbox := []
  slots := []
  atu := []
  walkCache := []
  walks := []
  nextWalk := 0
  faults := []
  cache := []
  useClock := 0
  nextTr := 0
  ownRefused := []
  denialCount := []
  links := []
  tags := []
  fences := []
  eriWait := []
  txWait := []
  mem := []
  nextMem := 0
  copies := []
  nextCopy := 0
  tiles := []
  nextTile := 0
  enginesOut := []
  lists := []
  nextList := 0
  returned := []
  colls := []
  nextColl := 0
  released := []
  live := []
  gone := []
  portsLost := []
  exclusions := []
  selfDead := false
  temp := 0
  throttled := false
  tripped := false
  supply := 0
  inReset := false
  restoreBytes := 0
  trace := []
  auditRun := 0

/-- Power after reset: the module is Off until soft start (R343). -/
def Power.reset : Power where
  state := 4
  entering := false
  mV := 0
  mA := 0
  means := []
  inEn := false
  inputBad := false
  soft := none
  overTrip := false
  stopCause := 0
  trips := []
  latched := false
  retryAt := none
  step := none
  cap := 3600
  lease := 0
  hold := none
  safe := false
  target := 7200
  source := 0
  levels := []
  decided := none
  below := 0
  energy := 0
  excess := 0
  ticks := 0
  inDeficit := false
  thermal := 3600
  inlet := 0
  junction := 0
  hot := none
  sensorLatch := false
  therm := false
  strap := 7
  booting := false

/-- The module after reset. -/
def Module.reset : Module where
  sh := Shared.reset
  groups := []
  late := []
  regions := []
  serial := 0
  mem := []
  bad := []
  errors := []
  failedStacks := []
  stackSeen := []
  uncorr := []
  corrected := []
  scrubOn := false
  scrubAt := 0
  scrubEpoch := 0
  scrubEnds := 0
  inner := 0
  spill := []
  inSlot := false
  push := { state := 0, region := 0, target := 0, first := 0, stripes := 0, parity := false, next := 0, open_ := [],
            bad := [], pushed := 0, failed := 0 }
  slices := []
  routes := []
  rackRoutes := []
  frames := []
  nextFrame := 0
  leaving := []
  busy := []
  tiles := []
  engOut := []
  canaryLast := []
  align := 0
  alignTry := 0
  alignAt := 0
  alignBad := []
  alignZero := none
  ve := { heard := [], suspects := [], votes := [], repeats := [], fenced := false, stopped := false, rebinds := [],
          restores := [], heardSince := [], deadAt := [], suspectMask := [], training := false, seen := 0 }
  power := Power.reset
  meterSeq := 0
  meter := { state := 0, image := none, lastVersion := 0, records := [], next := 0, acked := 0, update := 0, interval := 0,
             accounts := [], usage := [], energyMJ := 0, lastMJ := 0, time := 0, unlocked := false, synced := false, lastTime := 0,
             lastSent := 0, seq := 0, gapFrom := none, reserve := 0 }
  sessions := []
  creds := []
  opens := []
  arrivals := []
  muted := []
  hosts := []
  qps := []
  staging := []
  dirCore := 0
  coresStopped := []
  denialCount := []
  stageHist := []
  usage := []
  fragments := 0
  cnps := []

/-- The machine right after reset: both parts with every entry at its default, nothing sent, nothing waiting. -/
def State.reset : State where
  ep := Endpoint.reset
  mod := Module.reset
  clock := 0
  draws := 0
  out := []
  pending := []

end Sys2Proof.Machine
end

