-- ==== Sys2Proof/Machine/Ops.lean ====
section
/-! DEFINITION. Named operations over tables, bytes, time, registers, the event log and the counters: everything a
meaning reads or writes in State goes through these. -/

namespace Sys2Proof.Machine

/-- What a meaning answers. -/
abbrev Answer := Host.Outcome State Fault Refusal

/-! ### Tables -/

/-- What stands at key `k`, if anything. -/
def tabGet {α : Type} : Tab α → Nat → Option α
  | [], _ => none
  | (j, v) :: t, k => if j = k then some v else tabGet t k

/-- Put `v` at key `k`, keeping keys strictly rising. -/
def tabSet {α : Type} : Tab α → Nat → α → Tab α
  | [], k, v => [(k, v)]
  | (j, w) :: t, k, v =>
    if k < j then (k, v) :: (j, w) :: t
    else if k = j then (k, v) :: t
    else (j, w) :: tabSet t k v

/-- Take key `k` out. -/
def tabDel {α : Type} : Tab α → Nat → Tab α
  | [], _ => []
  | (j, w) :: t, k => if j = k then tabDel t k else (j, w) :: tabDel t k

/-- The value at `k`, `d` where nothing is listed. -/
def tabGetD {α : Type} (t : Tab α) (k : Nat) (d : α) : α := (tabGet t k).getD d

/-- Put `v` at `k` in the canonical form in which the value `d` is never listed. -/
def tabPut {α : Type} [DecidableEq α] (t : Tab α) (k : Nat) (v d : α) : Tab α :=
  if v = d then tabDel t k else tabSet t k v

/-- Change what stands at `k`; nothing where nothing is listed. -/
def tabMod {α : Type} (t : Tab α) (k : Nat) (f : α → α) : Tab α :=
  match tabGet t k with
  | some v => tabSet t k (f v)
  | none => t

/-- Canonical form: keys strictly rising, every key above `lo`. -/
def tabAbove {α : Type} : Nat → Tab α → Bool
  | _, [] => true
  | lo, (k, _) :: t => decide (lo ≤ k) && tabAbove (k + 1) t

/-- Canonical form: keys strictly rising. -/
def tabSorted {α : Type} (t : Tab α) : Bool := tabAbove 0 t

/-! ### Lists -/

/-- Change the first element that `p` holds of. -/
def modFirst {α : Type} (p : α → Bool) (f : α → α) : List α → List α
  | [] => []
  | x :: t => if p x then f x :: t else x :: modFirst p f t

/-- Take the first element that `p` holds of out. -/
def delFirst {α : Type} (p : α → Bool) : List α → List α
  | [] => []
  | x :: t => if p x then t else x :: delFirst p t

/-- The lowest number below `n` that `used` does not hold of. -/
def lowestFree (used : Nat → Bool) (n : Nat) : Option Nat := (List.range n).find? fun i => !used i

/-- A set of numbers as a rising list: put `k` in. -/
def setIns : List Nat → Nat → List Nat
  | [], k => [k]
  | j :: t, k => if k < j then k :: j :: t else if k = j then j :: t else j :: setIns t k

/-- The last `n` elements. -/
def lastN {α : Type} (n : Nat) (l : List α) : List α := l.drop (l.length - n)

/-! ### Bits and bytes (R5: byte 0 is the most significant) -/

/-- Bits `hi` to `lo` of `w`. -/
def bits (w hi lo : Nat) : Nat := w / 2 ^ lo % 2 ^ (hi + 1 - lo)

/-- Bit `n` of `w`. -/
def bit (w n : Nat) : Bool := decide (w / 2 ^ n % 2 = 1)

/-- 1 for true. -/
def ofBool (b : Bool) : Nat := if b then 1 else 0

/-- The number that bytes spell, most significant byte first. -/
def beNat (l : List Byte) : Nat := l.foldl (fun a b => a * 256 + b.toNat) 0

/-- The number that bytes spell, least significant byte first. -/
def leNat : List Byte → Nat
  | [] => 0
  | b :: t => b.toNat + 256 * leNat t

/-- `n` bytes of `v`, least significant first. -/
def leBytes : Nat → Nat → List Byte
  | 0, _ => []
  | n + 1, v => BitVec.ofNat 8 v :: leBytes n (v / 256)

/-- `n` bytes of `v`, most significant first. -/
def beBytes (n v : Nat) : List Byte := (leBytes n v).reverse

/-- Bytes `off` to `off + n` of `l`, zero beyond its end. -/
def sliceBytes (l : List Byte) (off n : Nat) : List Byte := (List.range n).map fun i => l.getD (off + i) 0#8

/-- A two's complement number of `n` bits. -/
def signedOf (n v : Nat) : Int := if v % 2 ^ n < 2 ^ (n - 1) then ((v % 2 ^ n : Nat) : Int) else ((v % 2 ^ n : Nat) : Int) - 2 ^ n

/-- The `n`-bit pattern of an integer. -/
def patternOf (n : Nat) (i : Int) : Nat := (i % (2 ^ n : Int)).toNat

/-- A mask over numbers below `n`. -/
def maskOf (n : Nat) (p : Nat → Bool) : Nat := (List.range n).foldl (fun a i => if p i then a + 2 ^ i else a) 0

/-- The numbers below `n` whose bit is set in `m`. -/
def bitsSet (n m : Nat) : List Nat := (List.range n).filter fun i => bit m i

/-- Round up to a multiple of 64. -/
def ceil64 (n : Nat) : Nat := (n + 63) / 64 * 64

/-! ### Parts -/

/-- The shared state of a part. -/
def State.sh (s : State) : Part → Shared
  | .ep => s.ep.sh
  | .mod => s.mod.sh

/-- Change the endpoint. -/
def State.modEp (s : State) (f : Endpoint → Endpoint) : State := { s with ep := f s.ep }

/-- Change the module. -/
def State.modMod (s : State) (f : Module → Module) : State := { s with mod := f s.mod }

/-- Change the shared state of a part. -/
def State.modSh (s : State) (p : Part) (f : Shared → Shared) : State :=
  match p with
  | .ep => { s with ep := { s.ep with sh := f s.ep.sh } }
  | .mod => { s with mod := { s.mod with sh := f s.mod.sh } }

/-- Put something at the end of what the parts have sent. -/
def State.emit (s : State) (o : Out) : State := { s with out := s.out ++ [o] }

/-- Advance the draw counter: the free value of the next draw is another one. -/
def State.drawn (s : State) : State := { s with draws := s.draws + 1 }

/-- The number of a part in Config. -/
def partNo : Part → Nat
  | .ep => 0
  | .mod => 1

/-- R12, R339: the silicon revision of a part as entry 0x1000.02 reads it, which decides compatibility. -/
def siliconRev (p : Part) : Nat := Config.siliconRevision (partNo p) % 2 ^ 16

/-! ### Time (R10) -/

/-- Nanoseconds since reset. -/
def State.ns (s : State) : Nat := s.clock / 5

/-- Rack time of a part, in nanoseconds. -/
def State.rackNs (s : State) (p : Part) : Nat := (s.sh p).rt.units / 5

/-- The epoch that a part's rack time is in. -/
def State.epochOf (s : State) (p : Part) : Nat := s.rackNs p / 1000000

/-- The start of the next epoch, in ns of rack time. -/
def State.nextEpoch (s : State) (p : Part) : Nat := s.epochOf p + 1

/-- R267: rack time is Locked. -/
def State.locked (s : State) (p : Part) : Bool := (s.sh p).rt.state == 2

/-! ### Directory values -/

/-- The number of an entry: index × 256 + sub-index. -/
def entryNo (index sub : Nat) : Nat := index * 256 + sub

/-- R325, R7: defaults of the stored entries whose default is not zero. -/
def regDefault (key : Nat) : Nat :=
  match key with
  | 0xD20004 => 10000 | 0xD40001 => 1 | 0xD40003 => 4000 | 0x740003 => 4000
  | 0xD50001 => 1048576 | 0xD50004 => 1000 | 0xD50005 => 8 | 0xD50006 => 16 | 0xD50007 => 10000 | 0xD50008 => 200
  | 0x750001 => 200 | 0xD00004 => 0x3FF | 0xD10001 => 0xFF | 0xD10004 => 20 | 0xD60002 => 1048576 | 0xD60003 => 1
  | 0xD70001 => 0xFFFF | 0xD90002 => 100000 | 0x610002 => 16000 | 0x610003 => 500 | 0x610004 => 8 | 0xD61002 => 25000
  | 0x700002 => 40 | 0x700004 => 2000 | 0x730002 => 64 | 0x730003 => 100 | 0x730004 => 1000 | 0x760007 => 600
  | 0x510003 => 1024 | 0x510004 => 12288 | 0x510005 => 2048 | 0x510006 => 4096 | 0x510007 => 64 | 0x510008 => 2000
  | 0x510009 => 0x040201 | 0x520003 => 327680 | 0x550001 => 1 | 0x410002 => 2 | 0x410007 => 1
  | 0x420001 => 1000 | 0x420002 => 8 | 0x420003 => 100 | 0x420004 => 8 | 0x420005 => 1000 | 0x490007 => 8
  | 0xC00006 => 4 | 0xC00007 => 1000 | 0xC20004 => 2 | 0xC30005 => 1000 | 0xA00003 => 1600 | 0xA00007 => 100
  | 0xA00008 => 10 | 0xA30001 => 1000 | 0x830004 => 60 | 0x831001 => 1 | 0x831002 => 0xFF | 0x201004 => 5
  | 0x201005 => 30 | 0x201006 => 2400 | 0x303001 => 5000 | 0x303002 => 2 | 0x900001 => 1 | 0x901001 => 1
  | 0x902001 => 1 | 0xA50001 => 1000 | 0xA50002 => 100 | 0xA50003 => 250 | 0xA50004 => 20
  | 0xA60001 => 8 | 0xA60002 => 3 | 0xA60003 => 3
  | _ => 0

/-- The stored value of an entry, instance `inst` of it. -/
def Shared.reg (sh : Shared) (key inst : Nat) : Nat := tabGetD sh.regs (key * 65536 + inst) (regDefault key)

/-- Store a value. -/
def Shared.setReg (sh : Shared) (key inst v : Nat) : Shared :=
  { sh with regs := tabPut sh.regs (key * 65536 + inst) v (regDefault key) }

/-- The stored value of an entry of a part. -/
def State.reg (s : State) (p : Part) (key : Nat) : Nat := (s.sh p).reg key 0

/-- Store a value in an entry of a part. -/
def State.setReg (s : State) (p : Part) (key v : Nat) : State := s.modSh p fun sh => sh.setReg key 0 v

/-- Store a value that applies from epoch `ep`: until then the value in force stays the one that was. -/
def State.setRegFrom (s : State) (p : Part) (key v ep : Nat) : State :=
  s.modSh p fun sh =>
    let old := match sh.deferred.find? (fun d => d.key == key && decide (s.epochOf p < d.epoch)) with
      | some d => d.old
      | none => sh.reg key 0
    { sh.setReg key 0 v with
      deferred := sh.deferred.filter (fun d => d.key != key) ++ [{ key := key, old := old, epoch := ep }] }

/-- The value of an entry in force now. -/
def State.regNow (s : State) (p : Part) (key : Nat) : Nat :=
  match (s.sh p).deferred.find? (fun d => d.key == key && decide (s.epochOf p < d.epoch)) with
  | some d => d.old
  | none => s.reg p key

/-- A number for an access context. -/
def ctxNo : Ctx → Nat
  | .smbus => 0
  | .session i => 2 * i + 1
  | .agent i => 2 * i + 2

/-- R328: a context's copy of a selector; each starts at the default. -/
def State.sel (s : State) (p : Part) (c : Ctx) (key : Nat) : Nat :=
  tabGetD (s.sh p).sels (ctxNo c * 16777216 + key) (regDefault key)

/-- R328: write a context's copy of a selector. -/
def State.setSel (s : State) (p : Part) (c : Ctx) (key v : Nat) : State :=
  s.modSh p fun sh => { sh with sels := tabPut sh.sels (ctxNo c * 16777216 + key) v (regDefault key) }

/-! ### The event log (R340) -/

/-- Records that a part's ring holds. -/
def logCap : Part → Nat
  | .ep => 256
  | .mod => 1024

/-- Put a record into a log: it takes the next record sequence, and replaces the oldest when the ring is full. -/
def EventLog.put (l : EventLog) (cap : Nat) (r : EventRec) : EventLog :=
  let r := { r with seq := l.next }
  match l.recs with
  | [] => { l with recs := [r], next := (l.next + 1) % 2 ^ 32 }
  | o :: t =>
    if l.recs.length < cap then { l with recs := l.recs ++ [r], next := (l.next + 1) % 2 ^ 32 }
    else { l with recs := t ++ [r], next := (l.next + 1) % 2 ^ 32,
                  lost := if l.acked ≤ o.seq then l.lost + 1 else l.lost }

/-- R340, R341: record an event. -/
def State.logEvent (s : State) (p : Part) (severity code job detail : Nat) : State :=
  let r : EventRec := { time := s.rackNs p, unlocked := !s.locked p, severity := severity, code := code, seq := 0,
                        job := job, detail := detail }
  s.modSh p fun sh => { sh with log := sh.log.put (logCap p) r }

/-- R263, R340: SMBALERT# is asserted. -/
def Shared.smbAlert (sh : Shared) : Bool := sh.log.recs.any fun r => decide (sh.log.acked ≤ r.seq)

/-! ### Counters (R387, R388) -/

/-- Full scale of a counter. -/
def counterFull : Nat := 2 ^ 48 - 1

/-- The number of a counter: group, instance, position. -/
def ctrNo (group inst pos : Nat) : Nat := (group * 65536 + inst) * 256 + pos

/-- R388: add `n` events to position `pos` of an instance whose numbers start at `base` and whose chain mask is `chain`.
Answers the counters and the positions that reached full scale and stopped. A chained counter wraps into the next. -/
def ctrAdd (chain base : Nat) : Nat → Tab Nat → Nat → Nat → Tab Nat × List Nat
  | 0, live, _, _ => (live, [])
  | fuel + 1, live, pos, n =>
    let v := tabGetD live (base + pos) 0
    if bit chain pos then
      let total := v + n
      let next := tabGetD live (base + pos + 1) 0
      if next = counterFull && !bit chain (pos + 1) then (live, [])
      else
        let live' := tabPut live (base + pos) (total % 2 ^ 48) 0
        if total < 2 ^ 48 then (live', [])
        else
          let r := ctrAdd chain base fuel live' (pos + 1) (total / 2 ^ 48)
          if r.2.isEmpty then r else (tabPut r.1 (base + pos) counterFull 0, r.2)
    else
      let v' := min (v + n) counterFull
      (tabPut live (base + pos) v' 0, if v < counterFull && v' = counterFull then [pos] else [])

/-- R387, R388: `n` events of a counter: a counter that follows a chained one counts no events of its own, and one that
reaches full scale raises one Counter full event. -/
def State.count (s : State) (p : Part) (group inst pos n : Nat) : State :=
  let base := ctrNo group inst 0
  let chain := tabGetD (s.sh p).ctr.chain (group * 65536 + inst) 0
  if n = 0 || (decide (0 < pos) && bit chain (pos - 1)) then s
  else
    let r := ctrAdd chain base 64 (s.sh p).ctr.live pos n
    let s := s.modSh p fun sh => { sh with ctr := { sh.ctr with live := r.1 } }
    r.2.foldl (fun s c => s.logEvent p 1 0x0005 0 (group * 2 ^ 96 + (inst * 256 + c) * 2 ^ 64)) s

/-- The live value of a counter. -/
def State.counter (s : State) (p : Part) (group inst pos : Nat) : Nat :=
  tabGetD (s.sh p).ctr.live (ctrNo group inst pos) 0

/-- One event of an endpoint counter of group 0x13 (R390). -/
def State.epCount (s : State) (pos : Nat) : State := s.count .ep 0x13 0 pos 1

/-- One event of a module counter of group 0x0A (R390). -/
def State.mgCount (s : State) (pos : Nat) : State := s.count .mod 0x0A 0 pos 1

/-- One event of a Commons counter, group 0x06 (R390). -/
def State.coCount (s : State) (pos : Nat) : State := s.count .mod 0x06 0 pos 1

/-- One event of a tile counter, group 0x03 (R390). -/
def State.tileCount (s : State) (tile pos : Nat) : State := s.count .mod 0x03 tile pos 1

/-- One event of a port counter, group 0x01 or 0x11 (R390). -/
def State.portCount (s : State) (p : Part) (port pos : Nat) : State :=
  match p with
  | .ep => s.count .ep 0x11 port pos 1
  | .mod => s.count .mod 0x01 port pos 1

/-! ### Ports and lanes at rest (R237 to R253) -/

/-- A port that is Off. -/
def Port.off : Port where
  role := 0
  state := 0
  width := 0
  lanes := 0
  txSeq := 0
  rxSeq := 0
  replay := []
  queue := []
  replays := 0
  nakAt := none
  peer := none
  capCount := 0
  since := 0
  downSince := 0
  activeSince := 0
  replayTimer := 1000
  retryLimit := 8
  wc := none
  deficit := [0, 0, 0]
  marker := 0
  aligned := 0
  place := []
  capAt := none
  capAcc := false

/-- A transmitter whose stream has sent nothing yet; the first filler slot is 8,191 (R249). -/
def TxPort.zero : TxPort where
  start := 0
  next := 0
  marks := 0
  fillers := 0
  fillAt := 8191
  parity := List.replicate 8 0
  blocks := List.replicate 8 0

/-- A lane that is Off. -/
def Lane.off : Lane where
  state := 0
  taps := [0, 0, 0, 0]
  tapStatus := [0, 0, 0, 0]
  ready := false
  peerReady := false
  bitLock := false
  peerLock := 0
  count := none
  peerDone := false
  burst := false
  found := 0
  candidate := 0
  hunt := 0
  seen := 0
  invalid := []
  cw := 0
  errs := (0, 0)
  blockLock := false
  lostAt := 0
  since := 0
  scanning := false
  scan := []
  hist := []

/-- A lane that starts again, in a state code, keeping its taps and what it has measured. -/
def Lane.restart (l : Lane) (state now : Nat) : Lane :=
  { Lane.off with state := state, taps := l.taps, tapStatus := l.tapStatus, lostAt := now, since := now, scanning := l.scanning,
                  scan := l.scan, hist := l.hist }

/-- A counter that both parts keep, at one position on each (R390). -/
def State.bothCount (s : State) (p : Part) (epPos modPos : Nat) : State :=
  match p with
  | .ep => s.epCount epPos
  | .mod => s.mgCount modPos

/-- R393: does the part keep a counter partition for the Job ID? -/
def State.hasPartition (s : State) (p : Part) (job : Nat) : Bool :=
  match p with
  | .ep => s.ep.slots.any fun e => e.2.job == job && e.2.state != 0
  | .mod => match tabGet s.mod.slices job with
    | some e => e.v && e.state == 1
    | none => false

/-- R393: `n` events of a partition counter, where the Job ID has a partition. -/
def State.partCount (s : State) (p : Part) (job pos n : Nat) : State :=
  if s.hasPartition p job then s.count p 0x20 job pos n else s

/-- R378: bytes of a Job ID that a port has taken in or sent out since the last Usage message. -/
def State.usageCount (s : State) (job port ingress egress : Nat) : State :=
  s.modMod fun m =>
    let p := fun (u : UsageEntry) => u.job == job && u.port == port
    let u := (m.usage.find? p).getD { job := job, port := port, ingress := 0, egress := 0 }
    { m with usage := (m.usage.filter fun u => !p u) ++
        [{ u with ingress := min (u.ingress + ingress) counterFull, egress := min (u.egress + egress) counterFull }] }

/-- R393: a partition is created at 0; the final snapshot of an earlier one goes. -/
def State.newPartition (s : State) (p : Part) (job : Nat) : State :=
  s.modSh p fun sh =>
    let live := sh.ctr.live.filter fun e => e.1 / 256 != 0x20 * 65536 + job
    { sh with ctr := { sh.ctr with live := live, finals := tabDel sh.ctr.finals job } }

end Sys2Proof.Machine
end

