-- ==== Sys2Proof/Machine/Operands.lean ====
section
/-! DEFINITION. Operand forms: fabric packets, their header words (R73, R162), ERI header words (R101) and what the
fields of each name. -/

namespace Sys2Proof

open Sys2Proof.Machine

/-- A packet with every field zero. -/
def Packet.zero : Packet where
  typ := 0
  f := false
  vol := false
  plane := 0
  code := 0
  job := 0
  src := 0
  dst := 0
  srcRack := 0
  dstRack := 0
  s := false
  seq := 0
  off := 0
  len := 0
  epoch := 0
  interval := 0
  pred := 0
  aop := 0
  fmt := 0
  group := 0
  cseq := 0
  phase := 0
  tree := 0
  cctx := 0
  piece := 0
  size := 0
  reserved := false
  payload := []

/-- R75: the collective packets. -/
def Machine.isColl (typ : Nat) : Bool := decide (0x20 ≤ typ ∧ typ ≤ 0x25)

/-- R52: stores, flagged stores, atomics and bulk writes. -/
def Packet.isWrite (p : Packet) : Bool := p.typ == 0x02 || p.typ == 0x03 || p.typ == 0x04

/-- R73: writes to a node of the same rack belong to an interval. -/
def Packet.isCounted (p : Packet) : Bool := p.isWrite && p.srcRack == p.dstRack

/-- R57: a close marker. -/
def Packet.isMarker (p : Packet) : Bool := p.typ == 0x02 && p.f && p.len == 0

/-- The pair's other end as one number: rack × 1,024 + node (R395). -/
def Machine.rackNode (rack node : Nat) : Nat := rack * 1024 + node

/-- Where a packet comes from. -/
def Packet.from_ (p : Packet) : Nat := rackNode p.srcRack p.src

/-- Where a packet goes. -/
def Packet.to_ (p : Packet) : Nat := rackNode p.dstRack p.dst

/-- R236: the bytes of a packet on a link: its header, payload and tag. -/
def Packet.wireLen (p : Packet) : Nat := 48 + p.payload.length

/-- R73, R162: the 256-bit header word of a packet. -/
def Packet.header (p : Packet) : Nat :=
  p.typ * 2 ^ 250 + ofBool p.f * 2 ^ 249 + ofBool p.vol * 2 ^ 248 + p.plane * 2 ^ 244 + p.code * 2 ^ 240 + p.job * 2 ^ 224 +
  p.src * 2 ^ 214 + p.dst * 2 ^ 204 + p.srcRack * 2 ^ 200 + p.dstRack * 2 ^ 196 + ofBool p.s * 2 ^ 195 + p.seq * 2 ^ 160 +
  (if isColl p.typ then
     p.group * 2 ^ 146 + p.cseq * 2 ^ 114 + p.len * 2 ^ 101 + p.epoch * 2 ^ 93 + p.phase * 2 ^ 90 + p.tree * 2 ^ 88 +
     p.cctx * 2 ^ 86 + p.piece * 2 ^ 66 + p.size * 2 ^ 34
   else
     p.off * 2 ^ 114 + p.len * 2 ^ 101 + p.epoch * 2 ^ 93 + p.interval * 2 ^ 91 + p.pred * 2 ^ 75 + p.aop * 2 ^ 70 +
     p.fmt * 2 ^ 66)

/-- R73, R162: the packet that a header word and a payload spell. -/
def Machine.packetOf (w : Nat) (payload : List Byte) : Packet :=
  let typ := bits w 255 250
  let c := isColl typ
  let sel := fun (hi lo : Nat) => if c then bits w hi lo else 0
  let nsel := fun (hi lo : Nat) => if c then 0 else bits w hi lo
  { typ := typ, f := bit w 249, vol := bit w 248, plane := bits w 247 244, code := bits w 243 240, job := bits w 239 224,
    src := bits w 223 214, dst := bits w 213 204, srcRack := bits w 203 200, dstRack := bits w 199 196, s := bit w 195,
    seq := bits w 191 160, len := bits w 113 101, epoch := bits w 100 93,
    off := nsel 159 114, interval := nsel 92 91, pred := nsel 90 75, aop := nsel 74 70, fmt := nsel 69 66,
    group := sel 159 146, cseq := sel 145 114, phase := sel 92 90, tree := sel 89 88, cctx := sel 87 86,
    piece := sel 85 66, size := sel 65 34,
    reserved := bits w 194 192 != 0 || (if c then bits w 33 0 != 0 else bits w 65 0 != 0),
    payload := payload }

/-- Every field below its width, and the fields of the other layout zero: what a header word can spell. -/
def Packet.fits (p : Packet) : Bool :=
  decide (p.typ < 64 ∧ p.plane < 16 ∧ p.code < 16 ∧ p.job < 65536 ∧ p.src < 1024 ∧ p.dst < 1024 ∧ p.srcRack < 16 ∧
    p.dstRack < 16 ∧ p.seq < 2 ^ 32 ∧ p.len < 8192 ∧ p.epoch < 256) && !p.reserved &&
  (if isColl p.typ then
     decide (p.group < 2 ^ 14 ∧ p.cseq < 2 ^ 32 ∧ p.phase < 8 ∧ p.tree < 4 ∧ p.cctx < 4 ∧ p.piece < 2 ^ 20 ∧
       p.size < 2 ^ 32 ∧ p.off = 0 ∧ p.interval = 0 ∧ p.pred = 0 ∧ p.aop = 0 ∧ p.fmt = 0)
   else
     decide (p.off < 2 ^ 46 ∧ p.interval < 4 ∧ p.pred < 65536 ∧ p.aop < 32 ∧ p.fmt < 16 ∧ p.group = 0 ∧ p.cseq = 0 ∧
       p.phase = 0 ∧ p.tree = 0 ∧ p.cctx = 0 ∧ p.piece = 0 ∧ p.size = 0))

/-- An ERI message with every field zero. -/
def Eri.zero : Eri where
  kind := 0
  agent := 0
  tag := 0
  job := 0
  code := 0
  rel := 0
  acq := 0
  vol := false
  coll := false
  len := 0
  aop := 0
  fmt := 0
  addr := 0
  aux := 0
  value := 0
  reserved := false
  body := []

/-- R101: the 256-bit header word of an ERI message. -/
def Eri.header (m : Eri) : Nat :=
  m.kind * 2 ^ 250 + m.agent * 2 ^ 238 + m.tag * 2 ^ 224 + m.job * 2 ^ 208 + m.code * 2 ^ 204 + m.rel * 2 ^ 202 +
  m.acq * 2 ^ 200 + ofBool m.vol * 2 ^ 199 + ofBool m.coll * 2 ^ 198 + m.len * 2 ^ 185 + m.aop * 2 ^ 180 +
  m.fmt * 2 ^ 176 + m.addr * 2 ^ 120 + m.aux * 2 ^ 64 + m.value

/-- R101: the ERI message that a header word and a body spell. -/
def Machine.eriOf (w : Nat) (body : List Byte) : Eri where
  kind := bits w 255 250
  agent := bits w 249 238
  tag := bits w 237 224
  job := bits w 223 208
  code := bits w 207 204
  rel := bits w 203 202
  acq := bits w 201 200
  vol := bit w 199
  coll := bit w 198
  len := bits w 197 185
  aop := bits w 184 180
  fmt := bits w 179 176
  addr := bits w 175 120
  aux := bits w 119 64
  value := bits w 63 0
  reserved := false
  body := body

/-- Every field of an ERI message below its width. -/
def Eri.fits (m : Eri) : Bool :=
  decide (m.kind < 64 ∧ m.agent < 4096 ∧ m.tag < 16384 ∧ m.job < 65536 ∧ m.code < 16 ∧ m.rel < 4 ∧ m.acq < 4 ∧
    m.len < 8192 ∧ m.aop < 32 ∧ m.fmt < 16 ∧ m.addr < 2 ^ 56 ∧ m.aux < 2 ^ 56 ∧ m.value < 2 ^ 64) && !m.reserved

/-- R102: credit units of a message: 1 for its header and 1 for each 32 bytes of payload or body. -/
def Eri.units (m : Eri) : Nat := 1 + (m.body.length + 31) / 32

/-- R101: the credit class of a message that the accelerator sends: 0 Request, 1 Memory response. -/
def Machine.accClass (kind : Nat) : Nat := if kind = 0x10 ∨ kind = 0x11 then 1 else 0

/-- R101: the fields that a kind does not use are zero. DEDUCED (log entry 167): the Agent ID of a memory message is 0xFFF or not
used; the Value of a Directory request carries the segment offset of R336. -/
def Eri.unusedZero (m : Eri) : Bool :=
  let z := fun (used : Bool) (v : Nat) => used || v == 0
  let k := m.kind
  let mem := k == 0x10 || k == 0x11
  let cred := k == 0x3E || k == 0x3F
  !m.reserved && z mem m.code && !m.coll && (k == 0x01 || !m.vol) &&
  z (!cred && (!mem || m.agent == 0xFFF)) m.agent && z (!cred) m.tag && z (!mem && !cred) m.job &&
  z (k == 0x02 || k == 0x04) m.rel && z (k == 0x01 || k == 0x03) m.acq &&
  z (k == 0x01 || k == 0x02 || k == 0x03 || k == 0x06 || k == 0x0C || k == 0x10) m.len &&
  z (k == 0x03) m.aop && z (k == 0x03) m.fmt &&
  z (k == 0x01 || k == 0x02 || k == 0x03 || k == 0x09) m.addr &&
  z (k == 0x06 || k == 0x09 || k == 0x0A || k == 0x0C || cred) m.aux &&
  z (k == 0x06 || k == 0x09 || k == 0x0C) m.value &&
  (k != 0x09 || (bits m.aux 36 0 == 0)) && (k != 0x0A || (bits m.aux 36 0 == 0 && bits m.aux 55 43 == 0)) &&
  (k != 0x06 || bits m.aux 30 0 == 0)

/-- R101: operands of an ERI message and their coding as scopes. -/
def Machine.scopeOf (n : Nat) : Scope :=
  match n with
  | 0 => .none
  | 1 => .endpoint
  | 2 => .node
  | _ => .rack

/-- R80: the operand size of an atomic format, in bytes; 0 for an undefined one. -/
def Machine.fmtSize (fmt : Nat) : Nat :=
  match fmt with
  | 0 | 1 | 6 | 8 => 4
  | 2 | 3 | 7 | 9 => 8
  | 4 | 5 => 2
  | 10 => 16
  | _ => 0

/-- R79: is the pair of operation and format permitted? -/
def Machine.atomPermitted (op fmt : Nat) : Bool :=
  match op with
  | 1 | 2 | 3 => decide (fmt ≤ 7)
  | 4 => fmt == 9 || fmt == 10
  | 5 => fmt == 8 || fmt == 9 || fmt == 10
  | 8 | 9 | 10 | 11 => fmt == 9
  | _ => false

/-- R79: the request length of an atomic. -/
def Machine.atomLen (op fmt : Nat) : Nat := if op = 4 then 2 * fmtSize fmt else fmtSize fmt

/-- R83: the allocator operations. -/
def Machine.isAllocOp (op : Nat) : Bool := op == 8 || op == 9 || op == 10 || op == 11

/-- R76: is the form of a request right, whatever its node? `toEp`: the destination is an endpoint node. -/
def Machine.formOk (p : Packet) (toEp : Bool) : Bool :=
  let t := p.typ
  (decide (1 ≤ t ∧ t ≤ 5) || isColl t || t == 0x31) && !p.reserved && (!p.f || t == 0x02) && (!p.vol || t == 0x01) &&
  p.code == 0 && (t == 0x04 || t == 0x05 || isColl t || p.srcRack == p.dstRack) &&
  (if isColl t then decide (p.len ≤ 4096 ∧ p.payload.length = p.len)
   else
     decide (p.off % 4096 + p.len ≤ 4096) && decide (p.len ≤ 4096) &&
     (decide (1 ≤ p.len) || (p.isMarker && p.pred == 65535)) &&
     (if t = 0x03 then
        atomPermitted p.aop p.fmt && p.len == atomLen p.aop p.fmt && decide (p.off % (max 1 (fmtSize p.fmt)) = 0) &&
        !(toEp && isAllocOp p.aop)
      else p.aop == 0 && p.fmt == 0) &&
     p.payload.length == (if t = 0x01 ∨ t = 0x05 then 0 else p.len))

/-- R34: the right that a request kind needs: 0 R, 1 W, 2 A, 3 C. -/
def Machine.rightOf (typ : Nat) : Nat :=
  match typ with
  | 0x01 | 0x05 => 0
  | 0x02 | 0x04 => 1
  | 0x03 => 2
  | _ => 3

/-! ### The CRC of R173 -/

/-- One bit of the CRC, most significant bit first. -/
def Machine.crcBit (reg : Nat) (b : Nat) : Nat :=
  let top := reg / 2 ^ 63 % 2
  let sh := reg * 2 % 2 ^ 64
  if top ≠ b then sh ^^^ 0x42F0E1EBA9EA3693 else sh

/-- One byte of the CRC. -/
def Machine.crcByte (reg : Nat) (b : Byte) : Nat :=
  (List.range 8).foldl (fun r i => crcBit r (b.toNat / 2 ^ (7 - i) % 2)) reg

end Sys2Proof
end

