-- ==== Sys2Proof/Machine/Coding.lean ====
section
/-! DEFINITION. How the serial links code what they carry: symbols, codewords and blocks of a data lane (R232 to R236), training
frames (R242), and the characters of a timing lane (R255 to R257). What the state of a link does with them stands in Links. -/

namespace Sys2Proof

open Sys2Proof.Machine

/-! ### Symbols and codewords (R232) -/

/-- R232: the PAM4 symbol of two bits, the first bit sent the more significant. -/
def pam4 (hi lo : Bool) : Int := if hi then (if lo then 1 else 3) else (if lo then -1 else -3)

/-- The bits of a symbol. -/
def pam4Bits (v : Int) : Bool × Bool := (decide (0 < v), decide (v = -1 ∨ v = 1))

/-- R232: the symbols of a stream of bits. -/
def symbolsOf : List Bool → List Int
  | a :: b :: t => pam4 a b :: symbolsOf t
  | _ => []

/-- R232: times x in GF(2^10), with field polynomial x^10 + x^3 + 1. -/
def gfShift (a : Nat) : Nat := if 512 ≤ a then (2 * a) ^^^ 0x409 else 2 * a

/-- The product in GF(2^10). -/
def gfMul (a b : Nat) : Nat :=
  ((List.range 10).foldl (fun (r : Nat × Nat) i => (if bit b i then r.1 ^^^ r.2 else r.1, gfShift r.2)) (0, a)).1

/-- The n-th power of the element x. -/
def gfPow (n : Nat) : Nat := (List.range n).foldl (fun a _ => gfShift a) 1

/-- Multiply a polynomial, highest coefficient first, by x − r. -/
def polyRoot (g : List Nat) (r : Nat) : List Nat := List.zipWith (· ^^^ ·) (g ++ [0]) (0 :: g.map (gfMul r))

/-- PRESUMED (log entry 181): the generator of RS(544,514) has the roots x^0 to x^29 of IEEE Std 802.3. -/
def rsGenerator : List Nat := (List.range 30).foldl (fun g i => polyRoot g (gfPow i)) [1]

/-- R232: the 30 parity symbols of 514 message symbols. -/
def rsParity (msg : List Nat) : List Nat :=
  msg.foldl (fun p m =>
    let f := m ^^^ p.headD 0
    List.zipWith (· ^^^ ·) (p.drop 1 ++ [0]) ((rsGenerator.drop 1).map (gfMul f))) (List.replicate 30 0)

/-- R232: bits as 10-bit symbols, each filled from its most significant bit. -/
def symbols10 : Nat → List Bool → List Nat
  | 0, _ => []
  | n + 1, l => (l.take 10).foldl (fun a b => 2 * a + ofBool b) 0 :: symbols10 n (l.drop 10)

/-- The bits of a 10-bit symbol, most significant first. -/
def bitsOf10 (v : Nat) : List Bool := (List.range 10).map fun i => bit v (9 - i)

/-- R232: the codeword of 5,140 message bits, as it is sent. -/
def codewordBits (msg : List Bool) : List Bool :=
  let m := symbols10 514 msg
  (m ++ rsParity m).flatMap bitsOf10

/-- R232: a codeword with at most 15 wrong symbols is corrected. -/
def correctable (wrong : Nat) : Bool := decide (wrong ≤ 15)

/-! ### Blocks (R233, R234) -/

/-- R233: a block as its 258 bits, in the order sent. -/
def Block.sent (b : Block) : List Bool := [bit b.sync 1, bit b.sync 0] ++ (List.range 256).map fun i => bit b.payload (255 - i)

/-- R232, R233: the message bits of a lane from block 0 on. -/
def messageBits (l : List Block) : List Bool := l.flatMap Block.sent

/-- R232, R233: the first `n` codewords of a lane's stream of blocks, as symbols. -/
def laneSymbols (l : List Block) (n : Nat) : List Int :=
  symbolsOf ((List.range n).flatMap fun i => codewordBits (((messageBits l).drop (5140 * i)).take 5140))

/-- R233: the codewords in which a block of a lane has bits: the first and the last; block 0 begins at bit 0 of codeword 0. -/
def firstCodeword (slot : Nat) : Nat := slot * 258 / 5140
def lastCodeword (slot : Nat) : Nat := (slot * 258 + 257) / 5140

/-- R234: is a block errored by uncorrectable codewords of its lane? Each: lane, codeword, wrong symbols. -/
def LaneBlock.lost (b : LaneBlock) (errs : List (Nat × Nat × Nat)) : Bool :=
  errs.any fun e => e.1 == b.lane && !correctable e.2.2 && decide (firstCodeword b.slot ≤ e.2.1 ∧ e.2.1 ≤ lastCodeword b.slot)

/-- The type of a control block. -/
def Block.typ (b : Block) : Nat := bits b.payload 255 248

/-- R235: a control block of a defined type with its Reserved bits zero. -/
def Block.formed (b : Block) : Bool :=
  let zero := fun (hi : Nat) => bits b.payload hi 0 == 0
  match b.typ with
  | 0x1E | 0x2D => zero 247
  | 0x33 => bits b.payload 201 128 == 0
  | 0x4B => zero 215
  | 0x55 | 0x66 => zero 231
  | 0x78 => zero 212
  | 0x87 => zero 188
  | 0xAA => zero 212
  | _ => false

/-- A control block. -/
def control (typ rest : Nat) : Block := { sync := 2, payload := typ * 2 ^ 248 + rest }

def idleBlock : Block := control 0x1E 0
def fillerBlock : Block := control 0x2D 0
def ackBlock (seq : Nat) : Block := control 0x55 (seq * 2 ^ 232)
def nakBlock (seq : Nat) : Block := control 0x66 (seq * 2 ^ 232)

/-- R246: an Alignment marker. -/
def markerBlock (port lane count bip : Nat) : Block :=
  control 0x78 (port % 256 * 2 ^ 240 + lane % 8 * 2 ^ 237 + count % 65536 * 2 ^ 221 + bip % 256 * 2 ^ 213)

/-- R246: the fields of a marker that arrives. -/
def MarkRx.port (m : MarkRx) : Nat := bits m.payload 247 240
def MarkRx.index (m : MarkRx) : Nat := bits m.payload 239 237
def MarkRx.count (m : MarkRx) : Nat := bits m.payload 236 221
def MarkRx.parity (m : MarkRx) : Nat := bits m.payload 220 213

/-- R235, R246: is it a marker with its Reserved bits zero? -/
def MarkRx.wellFormed (m : MarkRx) : Bool := bits m.payload 255 248 == 0x78 && bits m.payload 212 0 == 0

/-- R247: a Capability block. -/
def Capability.block (c : Capability) : Block :=
  control 0x87 (c.linkRev * 2 ^ 240 + c.partKind * 2 ^ 238 + ofBool c.valid * 2 ^ 237 + c.pod * 2 ^ 233 + c.rack * 2 ^ 229 +
    c.plane * 2 ^ 225 + c.slot * 2 ^ 217 + c.node * 2 ^ 207 + c.port * 2 ^ 199 + c.role * 2 ^ 197 + c.widths * 2 ^ 194 +
    c.width * 2 ^ 192 + c.clocking * 2 ^ 191 + ofBool c.seen * 2 ^ 190 + ofBool c.accepted * 2 ^ 189)

/-- R251: a Width change block. -/
def WidthBlock.block (b : WidthBlock) : Block :=
  control 0xAA (b.proposed * 2 ^ 240 + b.agreed * 2 ^ 232 + ofBool b.ack * 2 ^ 231 + b.reason * 2 ^ 229 + b.switchAfter * 2 ^ 213)

/-- R246: the parities of a block's payload bits j ≡ i (mod 8), as a byte. -/
def Block.parity (b : Block) : Nat := (beBytes 32 b.payload).foldl (fun a x => a ^^^ x.toNat) 0

/-! ### Frames (R236) -/

/-- R236: one bit into the CRC of the IEEE 802.3 frame check sequence. -/
def fcsBit (r : Nat) (b : Bool) : Nat := if bit r 31 == b then 2 * r % 2 ^ 32 else 2 * r % 2 ^ 32 ^^^ 0x04C11DB7

/-- R236: the CRC-32 of bytes, each taken from its least significant bit; bit 31 is the coefficient of x^31. -/
def crc32 (l : List Byte) : Nat :=
  (l.foldl (fun r b => (List.range 8).foldl (fun r i => fcsBit r (bit b.toNat i)) r) (2 ^ 32 - 1)) ^^^ (2 ^ 32 - 1)

/-- A CRC-16 with polynomial 0x1021 and initial value 0xFFFF, most significant bit first (R242, R255, R257). -/
def crc16 (l : List Byte) : Nat :=
  l.foldl (fun r b => (List.range 8).foldl (fun r i =>
    if bit r 15 == bit b.toNat (7 - i) then 2 * r % 65536 else 2 * r % 65536 ^^^ 0x1021) r) 0xFFFF

/-- R236: the data blocks of a frame of L bytes. -/
def dataBlocks (l : Nat) : Nat := (l - 16 + 31) / 32

/-- R236: the Frame start and its 15 bytes that the CRC covers. -/
def startBits (seq len : Nat) (ack : Option Nat) (bytes : List Byte) : Nat :=
  0x33 * 2 ^ 248 + seq * 2 ^ 232 + len * 2 ^ 219 + (match ack with
    | some a => 2 ^ 218 + a * 2 ^ 202
    | none => 0) + beNat (sliceBytes bytes 0 16)

/-- R236: what the CRC of a frame covers. -/
def crcBytes (start : Nat) (bytes : List Byte) : List Byte := beBytes 15 (bits start 247 128) ++ bytes

/-- R236: the blocks of a frame. -/
def frameBlocks (seq : Nat) (ack : Option Nat) (bytes : List Byte) : List Block :=
  let start := startBits seq bytes.length ack bytes
  let data := (List.range (dataBlocks bytes.length)).map fun i =>
    ({ sync := 1, payload := beNat (sliceBytes bytes (16 + 32 * i) 32) } : Block)
  [{ sync := 2, payload := start }] ++ data ++ [control 0x4B (crc32 (crcBytes start bytes) * 2 ^ 216)]

/-- What a link receiver has read of a frame: its Frame start, its data blocks, the CRC of its Frame end, whether a block of it
is errored, and the blocks that R235 counts. -/
structure FrameScan where
  start : Option Nat
  data : List Nat
  crc : Option Nat
  errored : Bool
  malformed : Nat
  deriving DecidableEq, Repr

/-- R233 to R236: the next block of the port's stream; `lost`: it is errored (R234). -/
def FrameScan.next (f : FrameScan) (b : Block) (lost : Bool) : FrameScan :=
  let bad := { f with errored := true, malformed := f.malformed + 1 }
  if f.crc.isSome then f
  else if lost || !(b.sync == 1 || b.sync == 2) then { f with errored := true }
  else if b.sync = 1 then (if f.start.isSome then { f with data := f.data ++ [b.payload] } else bad)
  else if !b.formed then bad
  else match b.typ, f.start with
    | 0x33, none => { f with start := some b.payload }
    | 0x4B, some _ => { f with crc := some (bits b.payload 247 216) }
    | 0x33, some _ | 0x1E, some _ | 0x87, some _ | 0x4B, none => bad
    | _, _ => f

/-- R236, R246, R249: the blocks of a port as one stream: markers and fillers are removed, and of each slot the lanes follow by
their lane index; `index` gives a lane's. -/
def portStream (index : Nat → Nat) (l : List LaneBlock) : List LaneBlock :=
  let key := fun (b : LaneBlock) => b.slot * 8 + index b.lane
  let ins := fun (acc : List LaneBlock) (b : LaneBlock) =>
    acc.takeWhile (fun c => decide (key c ≤ key b)) ++ [b] ++ acc.dropWhile (fun c => decide (key c ≤ key b))
  (l.filter fun b => !(b.block.sync == 2 && (b.block.typ == 0x78 || b.block.typ == 0x2D))).foldl ins []

/-- R234 to R236: a frame as its blocks give it. -/
def RawFrame.scan (f : RawFrame) (index : Nat → Nat) : FrameScan :=
  (portStream index f.blocks).foldl (fun a b => a.next b.block (b.lost f.errs))
    { start := none, data := [], crc := none, errored := false, malformed := 0 }

/-- R236: the bytes of a frame. -/
def FrameScan.bytes (f : FrameScan) : List Byte :=
  let start := f.start.getD 0
  (beBytes 16 (bits start 127 0) ++ f.data.flatMap (beBytes 32)).take (bits start 231 219)

/-- R235 to R238: a frame as a link receiver takes it; `open_` gives the packet that a frame's bytes spell. -/
def FrameScan.frame (f : FrameScan) (open_ : List Byte → Packet) : LinkFrame :=
  let start := f.start.getD 0
  { seq := bits start 247 232, frameLen := bits start 231 219, ackValid := bit start 218, ackSeq := bits start 217 202,
    errored := f.errored || f.start.isNone || f.crc.isNone, dataBlocks := f.data.length,
    crcOk := f.crc == some (crc32 (crcBytes start f.bytes)), pkt := open_ f.bytes }

/-- R263: the PEC of the SMBus Specification: a CRC-8 with polynomial x^8 + x^2 + x + 1 and initial value 0 (PRESUMED, log entry
184). -/
def crc8 (l : List Byte) : Nat :=
  l.foldl (fun r b => (List.range 8).foldl (fun r _ => if 128 ≤ r then 2 * r % 256 ^^^ 7 else 2 * r % 256) (r ^^^ b.toNat)) 0

/-! ### Training frames (R242) -/

/-- R242: a training word as its 64 bits. -/
def TrainWord.bits_ (w : TrainWord) (lane : Nat) : Nat :=
  let two := fun (l : List Nat) => (List.range 4).foldl (fun a i => a * 4 + l.getD i 0 % 4) 0
  two w.requests * 2 ^ 56 + (match w.preset with
    | some n => 2 ^ 55 + n % 8 * 2 ^ 52
    | none => 0) + two w.status * 2 ^ 24 + ofBool w.ready * 2 ^ 23 + ofBool w.bitLock * 2 ^ 22 + w.countdown % 8 * 2 ^ 19 +
    ofBool w.counting * 2 ^ 18 + lane % 8 * 2 ^ 15

/-- R242: the training word that 64 bits spell. -/
def trainWordOf (v : Nat) (crcOk : Bool) : TrainWord where
  requests := (List.range 4).map fun i => bits v (63 - 2 * i) (62 - 2 * i)
  preset := if bit v 55 then some (bits v 54 52) else none
  status := (List.range 4).map fun i => bits v (31 - 2 * i) (30 - 2 * i)
  ready := bit v 23
  bitLock := bit v 22
  countdown := bits v 21 19
  counting := bit v 18
  crcOk := crcOk

/-- R242: the next PRBS31 bit (x^31 + x^28 + 1) and the generator's state after it. -/
def prbsNext (r : Nat) : Bool × Nat :=
  let b := bit r 30 != bit r 27
  (b, 2 * r % 2 ^ 31 + ofBool b)

/-- `n` PRBS bits. -/
def prbsBits : Nat → Nat → List Bool × Nat
  | 0, r => ([], r)
  | n + 1, r =>
    let b := prbsNext r
    let t := prbsBits n b.2
    (b.1 :: t.1, t.2)

/-- R242: the 2,720 symbols of a training frame: marker, word, its CRC-16, and PRBS31 that goes on from state `prbs`; and the
state that it leaves. -/
def trainSymbols (word prbs : Nat) : List Int × Nat :=
  let two := fun (n v : Nat) => (List.range n).map fun i => if bit v (n - 1 - i) then (3 : Int) else -3
  let p := prbsBits 5216 prbs
  (List.replicate 16 3 ++ List.replicate 16 (-3) ++ two 64 word ++ two 16 (crc16 (beBytes 8 word)) ++ symbolsOf p.1, p.2)

/-! ### Timing-lane characters (R255 to R257) -/

/-- R255: the control characters of a timing lane. -/
def kTick : TlChar := .k 0x3C
def kEpoch : TlChar := .k 0xFC
def kTime : TlChar := .k 0xF7
def kStart : TlChar := .k 0xFB
def kEnd : TlChar := .k 0xFD
def kAbort : TlChar := .k 0xFE
def kComma : TlChar := .k 0xBC

/-- R255: the 6-bit half of the 8b/10b code for the low 5 bits of a byte, first bit sent most significant, at negative running
disparity (IEEE Std 802.3 Clause 36; PRESUMED, log entry 185). -/
def code6 (k : Bool) (x : Nat) : Nat :=
  if k && x == 28 then 15
  else [39, 29, 45, 49, 53, 41, 25, 56, 57, 37, 21, 52, 13, 44, 28, 23,
        27, 35, 19, 50, 11, 42, 26, 58, 51, 38, 22, 54, 14, 46, 30, 43].getD x 0

/-- R255: the 4-bit half for the high 3 bits; `alt`: the alternate form of .7. -/
def code4 (k alt : Bool) (y : Nat) : Nat :=
  if k then [11, 6, 10, 12, 13, 5, 9, 7].getD y 0 else [11, 9, 5, 12, 13, 10, 6, if alt then 7 else 14].getD y 0

/-- The ones of a number of up to 6 bits. -/
def ones (v : Nat) : Nat := (bitsSet 6 v).length

/-- R255: a byte's 10-bit code at a running disparity (true: positive), and the disparity after it. -/
def code10 (k rd : Bool) (byte : Nat) : Nat × Bool :=
  let x := byte % 32
  let a := code6 k x
  let rd' := if ones a = 3 then rd else !rd
  let alt := if rd' then [11, 13, 14].contains x else [17, 18, 20].contains x
  let b := code4 k alt (byte / 32)
  let a := if rd && (ones a != 3 || (x == 7 && !k)) then 63 - a else a
  let b' := if rd' && (k || ones b != 2 || byte / 32 == 3) then 15 - b else b
  (a * 16 + b', if ones b = 2 then rd' else !rd')

/-- R255: the 10-bit code of a character; a violation has none. -/
def TlChar.code (rd : Bool) : TlChar → Option (Nat × Bool)
  | .k n => some (code10 true rd n)
  | .d n => some (code10 false rd n)
  | .violation => none

/-- R255, R259: the character that 10 bits give at a running disparity: what no character has there is a violation. -/
def readCode (rd : Bool) (v : Nat) : TlChar :=
  match (List.range 256).find? fun n => (code10 false rd n).1 == v with
  | some n => .d n
  | none => match [0x1C, 0x3C, 0x5C, 0x7C, 0x9C, 0xBC, 0xDC, 0xFC, 0xF7, 0xFB, 0xFD, 0xFE].find? fun n => (code10 true rd n).1 == v with
    | some n => .k n
    | none => .violation

/-- R255: an Idle pair. -/
def idlePair : List TlChar := [kComma, .d 0x50]

/-- R255: a time set. -/
def timeSetChars (time : Nat) : List TlChar :=
  let b := beBytes 8 time
  kTime :: (b ++ beBytes 2 (crc16 b)).map fun x => .d x.toNat

/-- R256: a stream of characters, of which the first would stand at position `pos` of the lane, with the ticks in their slots,
625 characters apart: what falls there pauses for the tick. -/
def withTicks : Nat → List TlChar → List TlChar
  | _, [] => []
  | pos, c :: t => if pos % 625 = 0 then kTick :: c :: withTicks (pos + 2) t else c :: withTicks (pos + 1) t

/-- R257: a message as its characters. -/
def messageChars (header : Nat) (payload : List Byte) : List TlChar :=
  let b := beBytes 10 header ++ payload
  kStart :: (b ++ beBytes 2 (crc16 b)).map (fun x => TlChar.d x.toNat) ++ [kEnd]

/-- R258: a Barrier release payload. -/
def BarrierRel.bytes (b : BarrierRel) : List Byte :=
  beBytes 12 (b.job * 2 ^ 80 + b.group * 2 ^ 66 + b.cctx * 2 ^ 64 + b.cseq * 2 ^ 32 + b.plane * 2 ^ 28)

/-- R258: the Barrier release that a payload spells. -/
def barrierOf (w : Nat) : BarrierRel where
  job := bits w 95 80
  group := bits w 79 66
  cctx := bits w 65 64
  cseq := bits w 63 32
  plane := bits w 31 28

/-- R286: bytes 0–23 of a Verdict message's payload, which its authenticator covers. -/
def VMsg.body (v : VMsg) : List Byte :=
  beBytes 24 (v.kind * 2 ^ 188 + v.vkind * 2 ^ 184 + v.origin * 2 ^ 174 + v.subjNode * 2 ^ 164 + v.subjPlane * 2 ^ 160 +
    v.reason * 2 ^ 152 + ofBool v.relay * 2 ^ 151 + v.voteMask * 2 ^ 128 + v.number * 2 ^ 96 + v.time * 2 ^ 32)

/-- R286: the 32-byte payload of a Verdict message. -/
def vPayload (v : VMsg) : List Byte := v.body ++ beBytes 8 v.mac

/-- R286, R309: the authenticator of a Verdict message: the leftmost 64 bits of AES-CMAC under the verdict key of a key epoch of
the rack secret. -/
def VMsg.macUnder (v : VMsg) (epoch : Nat) : Nat :=
  beNat (sliceBytes (Config.cmac (Config.kdf (Config.secret 0 epoch) "SNH verdict" [] 256) v.body) 0 8)

/-- R286: the Verdict message that a payload spells. -/
def verdictOf (w : Nat) : VMsg where
  kind := bits w 255 252
  vkind := bits w 251 248
  origin := bits w 247 238
  subjNode := bits w 237 228
  subjPlane := bits w 227 224
  reason := bits w 223 216
  relay := bit w 215
  voteMask := bits w 207 192
  number := bits w 191 160
  time := bits w 159 96
  reserved := bits w 214 208 != 0 || bits w 95 64 != 0
  mac := bits w 63 0

/-- R257: the header word of a message: its Type and Length follow from its body. -/
def TlMsg.header (m : TlMsg) (typ len : Nat) : Nat :=
  typ * 2 ^ 72 + ofBool m.broadcast * 2 ^ 71 + m.source * 2 ^ 58 + m.dest * 2 ^ 48 + m.seq * 2 ^ 32 + len * 2 ^ 24

/-- R257: a message as its characters. -/
def TlMsg.chars (m : TlMsg) : List TlChar :=
  match m.body with
  | .verdict v => messageChars (m.header 1 32) (vPayload v)
  | .barrier b => messageChars (m.header 2 12) b.bytes
  | .undefined => messageChars (m.header 0 0) []

/-- The byte of a data character. -/
def TlChar.byte : TlChar → Option Nat
  | .d n => some n
  | _ => none

/-- R255: control characters that are not sent. -/
def TlChar.unknown : TlChar → Bool
  | .k n => !([0x3C, 0xFC, 0xF7, 0xFB, 0xFD, 0xFE, 0xBC].contains n)
  | _ => false

/-- What reading the characters of a lane gives: the message in progress, the messages that have ended, and how many characters
R255 counts and ignores. -/
structure TlRead where
  part : TlPart
  whole : List (List TlChar)
  others : Nat
  deriving DecidableEq, Repr

/-- R255 to R257: the next character. Ticks, and the time set after an epoch tick, are removed before a message is reassembled;
what stands between messages is passed over. -/
def TlRead.next (r : TlRead) (c : TlChar) : TlRead :=
  let m := r.part.chars
  if r.part.skip ≠ 0 then { r with part := { r.part with skip := r.part.skip - 1 } }
  else if c = kTick then r
  else if c = kEpoch then { r with part := { r.part with skip := 11 } }
  else if c.unknown then { r with others := r.others + 1 }
  else if c = kAbort then { r with part := { r.part with chars := [] } }
  else if c = kStart then { r with part := { r.part with chars := [c] }, whole := if m.isEmpty then r.whole else r.whole ++ [m] }
  else if m.isEmpty then r
  else if c = kEnd then { r with part := { r.part with chars := [] }, whole := r.whole ++ [m ++ [c]] }
  else { r with part := { r.part with chars := m ++ [c] } }

/-- R257, R259: the message that characters from a K27.7 to a K29.7 spell. -/
def readMessage (m : List TlChar) : TlMsg :=
  let inside := (m.drop 1).dropLast
  let b : List Byte := (inside.filterMap TlChar.byte).map (BitVec.ofNat 8)
  let n := b.length - 12
  let h := beNat (b.take 10)
  let pay := beNat ((b.drop 10).take n)
  let typ := bits h 79 72
  let bad := inside.any (fun c => c.byte.isNone) || m.head? != some kStart || m.getLast? != some kEnd || decide (b.length < 12) ||
    beNat (b.drop (10 + n)) != crc16 (b.take (10 + n)) || bits h 31 24 != n || bits h 70 68 != 0 || bits h 23 0 != 0 ||
    (typ == 1 && n != 32) || (typ == 2 && (n != 12 || bits pay 27 0 != 0))
  { broadcast := bit h 71, source := bits h 67 58, dest := bits h 57 48, seq := bits h 47 32, bad := bad,
    body := if typ = 1 then .verdict (verdictOf pay) else if typ = 2 then .barrier (barrierOf pay) else .undefined }

end Sys2Proof
end

