-- ==== Sys2Proof/Machine/Flags.lean ====
section
/-! DEFINITION. Status computed from state: response codes and their precedence, the status words of the Directory that
are not stored, and the outputs that a part drives. -/

namespace Sys2Proof.Machine

/-! ### Response codes (R11) -/

def cDone : Nat := 0
def cRetry : Nat := 1
def cDenied : Nat := 2
def cFault : Nat := 3
def cPoison : Nat := 4
def cLate : Nat := 5
def cTorn : Nat := 6
def cHold : Nat := 7

/-- R61, R111, R174: the order of precedence Torn, Poison, Fault, Denied, Retry, then Late, then Done. -/
def codeRank (c : Nat) : Nat :=
  match c with
  | 6 => 7
  | 4 => 6
  | 3 => 5
  | 2 => 4
  | 1 => 3
  | 5 => 2
  | 7 => 1
  | _ => 0

/-- The code that comes first in that order. -/
def worse (a b : Nat) : Nat := if codeRank a < codeRank b then b else a

/-! ### Directory status (R326) -/

def stOk : Nat := 0
def stBusy : Nat := 1
def stRange : Nat := 2
def stDenied : Nat := 3
def stNoEntry : Nat := 4
def stMode : Nat := 5
def stPec : Nat := 6
def stExpired : Nat := 7
def stDigest : Nat := 8

/-! ### Status words -/

/-- 0x4800.01: the timing lanes that are synchronised. -/
def RackTime.laneStatus (r : RackTime) : Nat := ofBool r.laneA.sync + 2 * ofBool r.laneB.sync

/-- 0xD700.02: the live planes. -/
def Endpoint.liveMask (e : Endpoint) : Nat := maskOf 16 fun p => e.live.contains p

/-- 0xD100.02: the UCIe links in service. -/
def Endpoint.linkMask (e : Endpoint) : Nat :=
  maskOf 8 fun l => match tabGet e.links l with
    | some k => k.up
    | none => false

/-- 0xD700.03: the width of each endpoint port, two bits a port: 0 down, 1 ×2, 2 ×4, 3 ×8. -/
def Endpoint.widthWord (e : Endpoint) : Nat :=
  (List.range 16).foldl (fun a p => a + (match tabGet e.sh.ports p with
    | some q => if q.state = 7 then q.width else 0
    | none => 0) * 4 ^ p) 0

/-- 0x5100.0C: the tiles in service; a tile not listed serves. -/
def Module.tilesMask (m : Module) : Nat :=
  maskOf 64 fun t => match tabGet m.tiles t with
    | some x => x.inService
    | none => true

/-- 0x7000.05: the stacks in service. -/
def Module.stackMask (m : Module) : Nat := maskOf 24 fun k => !m.failedStacks.contains k

/-- 0x6000.02: the engines in service. -/
def Module.engCount (m : Module) : Nat := 512 - m.engOut.length

/-- 0x3020.01: the coasting domains. -/
def Shared.coastMask (sh : Shared) (n : Nat) : Nat :=
  maskOf n fun d => match tabGet sh.clk.domains d with
    | some x => bit x.flags 0
    | none => false

/-- 0x2000.09: input flags. -/
def Power.inputFlags (p : Power) : Nat := ofBool (decide (p.mV < 57600)) + 2 * ofBool (decide (70400 < p.mV))

/-- 0x8000.04: the bundle slot states. -/
def Rot.slotWord (r : Rot) : Nat := r.slot0.state + 4 * r.slot1.state

/-- 0xA400.03 and its like pack one number a window or domain as the entry gives. -/
def packBytes (l : List Nat) : List Byte := l.map fun n => BitVec.ofNat 8 n

end Sys2Proof.Machine
end

