-- ==== Sys2Proof/Machine/DirTable.lean ====
section
/-! DEFINITION. The Parameter Directory's tables (R324, R325) and the first checks of a request (R327 to R331): which
entries a part holds, their encodings and ranges, who reaches them and by which path. -/

namespace Sys2Proof.Machine

/-- A row of a Directory table. `span`: how many sub-indexes it covers. `part`: 0 both parts, 1 endpoint, 2 module.
`kind`: 0 unsigned, 1 signed, 2 BOOL, 3 STR, 4 BLOB of a fixed size, 5 BLOB up to a size. `acc`: 0 RO, 1 RW, 2 WO, 3 RWS,
4 W1C. `lo`, `hi`: the range column. `wr`: who writes: 0 no principal, 1 Operator, 2 Host partition, 3 both, 4 any,
5 Metrology, 6 a selector, written by whoever may read what it selects. `rd`: who reads: 0 Operator, 1 Operator and Host
partition, 2 every principal. `later`: a write applies from the next epoch boundary. -/
structure Entry where
  key : Nat
  span : Nat
  part : Nat
  kind : Nat
  size : Nat
  acc : Nat
  lo : Nat
  hi : Nat
  wr : Nat
  rd : Nat
  later : Bool
  deriving DecidableEq, Repr

/-- One row. -/
def row (key span part kind size acc lo hi wr rd later : Nat) : Entry where
  key := key
  span := span
  part := part
  kind := kind
  size := size
  acc := acc
  lo := lo
  hi := hi
  wr := wr
  rd := rd
  later := later == 1

/-- Rows of the Directory tables, part 1. -/
def dirRows0 : List Entry :=
  [row 0xD20001 1 1 0 4 0 0 4294967295 0 1 0,
   row 0xD20002 1 1 0 4 0 0 4294967295 0 1 0,
   row 0xD20003 1 1 0 2 0 0 65535 0 1 0,
   row 0xD20004 1 1 0 4 1 100 1000000 1 1 0,
   row 0xD20005 1 1 4 16 2 0 0 2 1 0,
   row 0xD20100 256 1 4 16 0 0 0 0 1 0,
   row 0xD21001 1 1 0 2 1 0 65535 2 1 0,
   row 0xD21002 1 1 0 8 1 0 18446744073709551615 2 1 0,
   row 0xD21003 1 1 0 4 2 0 4294967295 2 1 0,
   row 0xD21004 1 1 0 4 0 0 4294967295 0 1 0,
   row 0xD21005 1 1 0 1 0 0 255 0 1 0,
   row 0xD30001 1 1 0 2 0 0 65535 0 1 0,
   row 0xD30002 1 1 0 8 1 0 4503599627370496 1 1 0,
   row 0xD30003 1 1 0 2 1 0 8191 6 1 0,
   row 0xD30004 1 1 4 16 1 0 0 2 1 0,
   row 0xD30100 64 1 4 16 0 0 0 0 1 0,
   row 0x720001 1 2 0 2 0 0 65535 0 1 0,
   row 0x720003 1 2 0 2 1 0 16383 6 1 0,
   row 0x720004 1 2 4 16 1 0 0 3 1 0,
   row 0x720100 64 2 4 16 0 0 0 0 1 0,
   row 0xD40001 1 1 2 1 1 0 1 1 1 0,
   row 0xD40002 1 1 0 4 0 0 4294967295 0 1 0,
   row 0xD40003 1 1 0 4 1 500 100000 1 1 0,
   row 0xD40004 1 1 0 2 0 0 65535 0 1 0,
   row 0xD40005 1 1 0 2 0 0 65535 0 1 0,
   row 0x740003 1 2 0 4 1 500 100000 1 1 0,
   row 0x740004 1 2 0 2 0 0 65535 0 1 0,
   row 0xD21006 1 1 2 1 2 1 1 1 1 0,
   row 0xD50001 1 1 0 4 1 65536 16777216 1 1 0,
   row 0xD50002 1 1 0 2 0 0 65535 0 1 0,
   row 0xD50003 1 1 0 2 0 0 65535 0 1 0,
   row 0xD50004 1 1 0 4 1 100 5000 1 1 0,
   row 0xD50005 1 1 0 1 1 1 32 1 1 0,
   row 0xD50006 1 1 0 1 1 1 64 1 1 0,
   row 0xD50007 1 1 0 4 1 2000 100000 1 1 0,
   row 0xD50008 1 1 0 4 1 100 2000 1 1 0]

/-- Rows of the Directory tables, part 2. -/
def dirRows1 : List Entry :=
  [row 0xD50009 1 1 0 2 0 0 65535 0 1 0,
   row 0xD5000A 1 1 0 2 0 0 65535 0 1 0,
   row 0xD5000B 1 1 0 2 0 0 65535 0 1 0,
   row 0x750001 1 2 0 4 1 100 2000 1 1 0,
   row 0x750002 1 2 0 2 0 0 65535 0 1 0,
   row 0x750003 1 2 0 2 0 0 65535 0 1 0,
   row 0x750004 1 2 0 2 0 0 65535 0 1 0,
   row 0xD00001 1 1 0 1 1 0 15 1 1 0,
   row 0xD00002 1 1 0 1 1 0 15 1 1 0,
   row 0xD00003 1 1 0 2 1 0 255 1 1 0,
   row 0xD00004 1 1 0 2 1 0 511 1 1 0,
   row 0xD10001 1 1 0 1 1 0 255 1 1 0,
   row 0xD10002 1 1 0 1 0 0 255 0 1 0,
   row 0xD10003 1 1 0 2 0 0 65535 0 1 0,
   row 0xD10004 1 1 0 4 1 2 1000 1 1 0,
   row 0xD60001 1 1 0 1 0 0 255 0 1 0,
   row 0xD60002 1 1 0 4 1 65536 1048576 1 1 0,
   row 0xD60003 1 1 2 1 1 0 1 1 1 0,
   row 0xD60004 1 1 0 2 0 0 65535 0 1 0,
   row 0xD60100 64 1 0 1 0 0 255 0 1 0,
   row 0xD70001 1 1 0 2 1 0 65535 1 1 0,
   row 0xD70002 1 1 0 2 0 0 65535 0 1 0,
   row 0xD70003 1 1 0 4 0 0 4294967295 0 1 0,
   row 0xD70004 1 1 2 1 1 0 1 1 1 0,
   row 0xD70100 64 1 0 2 0 0 65535 0 1 0,
   row 0xD80001 1 1 0 2 0 0 65535 0 1 0,
   row 0xD80002 1 1 0 1 0 0 255 0 1 0,
   row 0xD90001 1 1 1 4 0 0 0 0 1 0,
   row 0xD90002 1 1 1 4 1 85000 100000 1 1 0,
   row 0xD90003 1 1 0 1 0 0 255 0 1 0,
   row 0x600001 1 2 0 2 0 0 65535 0 1 0,
   row 0x600002 1 2 0 2 0 0 65535 0 1 0,
   row 0x600003 1 2 0 4 0 0 4294967295 0 1 0,
   row 0x600004 1 2 0 2 0 0 65535 0 1 0,
   row 0x600005 1 2 0 1 0 0 255 0 1 0,
   row 0x610001 1 2 0 2 0 0 65535 0 1 0]

/-- Rows of the Directory tables, part 3. -/
def dirRows2 : List Entry :=
  [row 0x610002 1 2 0 4 1 1000 100000 1 1 0,
   row 0x610003 1 2 0 4 1 100 5000 1 1 0,
   row 0x610004 1 2 0 1 1 1 24 1 1 0,
   row 0x610005 1 2 0 1 0 0 255 0 1 0,
   row 0x610006 1 2 0 2 1 0 16383 6 1 0,
   row 0x610007 1 2 4 16 1 0 0 2 1 0,
   row 0x610008 1 2 5 4096 1 0 0 2 1 0,
   row 0x610009 1 2 0 1 1 0 3 6 1 0,
   row 0x61000A 1 2 4 16 1 0 0 2 1 0,
   row 0x61000B 1 2 4 192 1 0 0 2 1 0,
   row 0x61000C 1 2 0 4 0 0 4294967295 0 1 0,
   row 0x61000D 1 2 0 4 0 0 4294967295 0 1 0,
   row 0x620001 1 2 0 2 1 0 511 6 0 0,
   row 0x620002 1 2 4 16 4 0 0 1 0 0,
   row 0xD61001 1 1 0 2 0 0 65535 0 1 0,
   row 0xD61002 1 1 0 4 1 2000 200000 1 1 0,
   row 0x700001 1 2 0 2 0 0 65535 0 1 0,
   row 0x700002 1 2 0 2 3 6 244 1 1 0,
   row 0x700003 1 2 0 2 0 0 65535 0 1 0,
   row 0x700004 1 2 0 4 1 100 8000 1 1 1,
   row 0x700005 1 2 0 4 0 0 4294967295 0 1 0,
   row 0x701001 1 2 0 1 1 0 255 6 1 0,
   row 0x701002 1 2 4 16 1 0 0 1 1 0,
   row 0x701003 1 2 0 1 0 0 255 0 1 0,
   row 0x701004 1 2 0 2 2 1 65534 1 1 0,
   row 0x701005 1 2 2 1 2 1 1 1 1 0,
   row 0x710001 1 2 0 1 0 0 255 0 1 0,
   row 0x730002 1 2 0 2 1 1 65535 1 1 1,
   row 0x730003 1 2 0 2 1 0 500 1 1 1,
   row 0x730004 1 2 0 4 1 100 10000 1 1 1,
   row 0x760001 1 2 4 16 2 0 0 1 1 0,
   row 0x760002 1 2 0 1 0 0 255 0 1 0,
   row 0x760003 1 2 0 4 0 0 4294967295 0 1 0,
   row 0x760004 1 2 0 4 0 0 4294967295 0 1 0,
   row 0x760005 1 2 0 4 1 0 3600000 1 1 1,
   row 0x760006 1 2 0 4 1 0 4294967295 1 1 1]

/-- Rows of the Directory tables, part 4. -/
def dirRows3 : List Entry :=
  [row 0x760007 1 2 0 4 1 10 86400 1 1 1,
   row 0x760008 1 2 0 4 0 0 4294967295 0 1 0,
   row 0xD62001 1 1 0 8 1 0 18446744073709551615 2 1 0,
   row 0xD62002 1 1 0 8 1 0 18446744073709551615 2 1 0,
   row 0xD62003 1 1 2 1 1 0 1 2 1 0,
   row 0xD62004 1 1 0 8 0 0 18446744073709551615 0 1 0,
   row 0x500001 1 2 0 1 3 0 1 1 1 0,
   row 0x500002 1 2 4 64 3 0 0 1 1 0,
   row 0x510001 1 2 0 2 0 0 65535 0 1 0,
   row 0x510002 1 2 0 2 0 0 65535 0 1 0,
   row 0x510003 1 2 0 2 1 256 4096 1 1 1,
   row 0x510004 1 2 0 2 1 4096 24576 1 1 1,
   row 0x510005 1 2 0 2 1 512 8192 1 1 1,
   row 0x510006 1 2 0 2 1 0 12288 1 1 1,
   row 0x510007 1 2 0 4 1 8 1000 1 1 1,
   row 0x510008 1 2 0 4 1 100 4000 1 1 1,
   row 0x510009 1 2 0 4 1 0 4294967295 1 1 1,
   row 0x51000A 1 2 0 1 1 0 63 6 1 0,
   row 0x51000B 1 2 4 16 0 0 0 0 1 0,
   row 0x51000C 1 2 0 8 0 0 18446744073709551615 0 1 0,
   row 0x520001 1 2 0 4 0 0 4294967295 0 1 0,
   row 0x520002 1 2 4 16 0 0 0 0 1 0,
   row 0x520003 1 2 0 4 1 1024 4294967295 1 1 1,
   row 0x540001 1 2 0 2 1 0 511 6 1 0,
   row 0x540002 1 2 0 4 1 0 4294967295 1 1 0,
   row 0x540003 1 2 0 1 1 0 15 6 1 0,
   row 0x540004 1 2 4 32 1 0 0 1 1 0,
   row 0x550001 1 2 0 2 1 1 65534 6 1 0,
   row 0x550002 1 2 4 80 1 0 0 1 1 0,
   row 0x550003 1 2 0 2 0 0 65535 0 1 0,
   row 0x550004 1 2 0 2 2 0 65535 1 1 0,
   row 0x400001 1 0 0 2 0 0 65535 0 1 0,
   row 0x400002 1 0 0 2 0 0 65535 0 1 0,
   row 0x410001 1 0 0 2 1 0 65535 6 1 0,
   row 0x410002 1 0 0 1 3 1 3 1 1 0,
   row 0x410003 1 0 0 1 3 0 1 1 1 0]

/-- Rows of the Directory tables, part 5. -/
def dirRows4 : List Entry :=
  [row 0x410004 1 0 0 1 0 0 255 0 1 0,
   row 0x410005 1 0 0 1 0 0 255 0 1 0,
   row 0x410006 1 0 4 32 0 0 0 0 1 0,
   row 0x410007 1 0 2 1 1 0 1 1 1 0,
   row 0x420001 1 0 0 4 1 200 5000 1 1 0,
   row 0x420002 1 0 0 1 1 1 32 1 1 0,
   row 0x420003 1 0 0 2 1 20 1000 1 1 0,
   row 0x420004 1 0 0 2 1 1 1000 1 1 0,
   row 0x420005 1 0 0 4 1 100 100000 1 1 0,
   row 0x420006 1 0 0 4 0 0 4294967295 0 1 0,
   row 0x430001 1 0 0 2 1 0 65535 6 1 0,
   row 0x430002 1 0 0 1 0 0 255 0 1 0,
   row 0x430003 1 0 4 64 0 0 0 0 1 0,
   row 0x430004 1 0 0 4 0 0 4294967295 0 1 0,
   row 0x430005 1 0 2 1 2 0 1 1 1 0,
   row 0x430006 1 0 4 1024 0 0 0 0 1 0,
   row 0x430007 1 0 0 4 0 0 4294967295 0 1 0,
   row 0x480001 1 0 0 1 0 0 255 0 1 0,
   row 0x490001 1 2 0 1 1 0 3 6 1 0,
   row 0x490002 1 2 0 1 3 0 1 1 1 0,
   row 0x490003 1 2 0 8 0 0 18446744073709551615 0 1 0,
   row 0x490004 1 2 0 4 3 0 4294967295 1 1 0,
   row 0x490005 1 2 4 16 3 0 0 1 1 0,
   row 0x490006 1 2 0 1 0 0 255 0 1 0,
   row 0x490007 1 2 0 1 3 0 8 1 1 0,
   row 0x4A0001 1 2 0 2 1 0 1023 6 1 0,
   row 0x4A0002 1 2 4 16 1 0 0 1 1 0,
   row 0x4A0003 1 2 0 1 0 0 255 0 1 0,
   row 0xC00001 1 0 0 8 0 0 18446744073709551615 0 1 0,
   row 0xC00002 1 0 0 1 0 0 255 0 1 0,
   row 0xC00003 1 0 0 1 0 0 255 0 1 0,
   row 0xC00004 1 0 0 4 3 0 2000000 1 1 0,
   row 0xC00005 1 0 0 4 3 0 2000000 1 1 0,
   row 0xC00006 1 0 0 2 1 1 100 1 1 0,
   row 0xC00007 1 0 0 4 1 10 10000 1 1 0,
   row 0xC00008 1 0 1 8 0 0 0 0 1 0]

/-- Rows of the Directory tables, part 6. -/
def dirRows5 : List Entry :=
  [row 0xC10001 1 2 0 1 0 0 255 0 1 0,
   row 0xC10002 1 2 2 1 2 1 1 1 1 0,
   row 0xC10003 1 2 4 16 0 0 0 0 1 0,
   row 0xC20001 1 0 0 1 0 0 255 0 1 0,
   row 0xC20002 1 0 0 8 1 0 18446744073709551615 1 1 0,
   row 0xC20003 1 0 0 1 1 0 1 1 1 0,
   row 0xC20004 1 0 0 1 1 1 3 1 1 0,
   row 0xC30001 1 0 0 2 0 0 65535 0 1 0,
   row 0xC30002 1 0 0 2 1 0 65535 6 1 0,
   row 0xC30003 1 0 4 32 1 0 0 2 1 0,
   row 0xC30004 1 0 0 1 0 0 255 0 1 0,
   row 0xC30005 1 0 0 4 1 200 100000 1 1 0,
   row 0xC30006 1 2 0 4 0 0 4294967295 0 1 0,
   row 0xA00001 1 2 0 2 0 0 65535 0 1 0,
   row 0xA00002 1 2 0 2 0 0 65535 0 1 0,
   row 0xA00003 1 2 0 4 1 200 1900 1 1 1,
   row 0xA00004 1 2 0 1 0 0 255 0 1 0,
   row 0xA00005 1 2 0 1 0 0 255 0 1 0,
   row 0xA00006 1 2 0 4 0 0 4294967295 0 1 0,
   row 0xA00007 1 2 0 4 1 50 10000 1 1 1,
   row 0xA00008 1 2 0 4 1 1 1000 1 1 1,
   row 0xA00100 64 2 4 32 0 0 0 0 1 0,
   row 0xA10001 1 2 0 1 2 0 15 1 1 0,
   row 0xA10002 1 2 0 2 2 0 511 1 1 0,
   row 0xA20001 1 2 0 2 1 0 527 6 1 0,
   row 0xA20002 1 2 0 1 0 0 255 0 1 0,
   row 0xA30001 1 2 0 4 1 10 100000 1 1 1,
   row 0xA30002 1 2 4 16 0 0 0 0 1 0,
   row 0xA30003 1 2 4 64 0 0 0 0 1 0,
   row 0xA30004 1 2 4 16 2 0 0 3 1 0,
   row 0xA40001 1 2 0 1 1 0 15 6 1 0,
   row 0xA40002 1 2 4 16 1 0 0 1 1 0,
   row 0xA40003 1 2 0 1 0 0 255 0 1 0,
   row 0xA50001 1 2 0 4 1 10 100000 1 1 1,
   row 0xA50002 1 2 0 4 1 1 1000000 1 1 1,
   row 0xA50003 1 2 0 2 1 1 1000 1 1 1]

/-- Rows of the Directory tables, part 7. -/
def dirRows6 : List Entry :=
  [row 0xA50004 1 2 0 4 1 1 1000000 1 1 1,
   row 0xA50005 1 2 4 64 0 0 0 0 1 0,
   row 0xA50006 1 2 0 2 2 0 511 1 1 0,
   row 0xA60001 1 2 0 1 1 1 32 1 1 1,
   row 0xA60002 1 2 0 1 1 1 24 1 1 1,
   row 0xA60003 1 2 0 1 1 1 100 1 1 1,
   row 0xDA0001 1 1 0 1 1 0 7 6 1 0,
   row 0xDA0002 1 1 4 16 1 0 0 1 1 0,
   row 0xDA0003 1 1 0 1 0 0 255 0 1 0,
   row 0x800001 1 2 0 1 0 0 255 0 1 0,
   row 0x800002 1 2 0 1 0 0 255 0 1 0,
   row 0x800003 1 2 0 1 0 0 255 0 1 0,
   row 0x800004 1 2 0 1 0 0 255 0 1 0,
   row 0x800006 1 2 5 268435456 2 0 0 1 1 0,
   row 0x800007 1 2 2 1 2 1 1 1 1 0,
   row 0x800008 1 2 5 16777216 2 0 0 1 1 0,
   row 0x801001 1 2 5 4096 0 0 0 0 2 0,
   row 0x801002 1 2 5 4096 0 0 0 0 2 0,
   row 0x801003 1 2 4 32 2 0 0 4 1 0,
   row 0x801004 1 2 4 832 0 0 0 0 2 0,
   row 0x810001 1 2 4 576 2 0 0 1 1 0,
   row 0x810002 1 2 0 2 1 0 65534 6 1 0,
   row 0x810003 1 2 0 4 0 0 4294967295 0 1 0,
   row 0x810004 1 2 0 4 0 0 4294967295 0 1 0,
   row 0x820001 1 2 4 16 2 0 0 1 1 0,
   row 0x820002 1 2 0 1 0 0 255 0 1 0,
   row 0xD80003 1 1 5 67108864 2 0 0 2 1 0,
   row 0xD80004 1 1 5 12288 2 0 0 2 1 0,
   row 0xD80005 1 1 5 4096 0 0 0 0 2 0,
   row 0xD80006 1 1 4 32 2 0 0 4 1 0,
   row 0xD80007 1 1 4 832 0 0 0 0 2 0,
   row 0xD80008 1 1 4 576 2 0 0 3 1 0,
   row 0xD80009 1 1 4 16 2 0 0 1 1 0,
   row 0xD8000A 1 1 0 2 1 0 65534 6 1 0,
   row 0xD8000B 1 1 0 4 0 0 4294967295 0 1 0,
   row 0xD8000C 1 1 0 1 0 0 255 0 1 0]

/-- Rows of the Directory tables, part 8. -/
def dirRows7 : List Entry :=
  [row 0x100001 1 0 0 1 0 0 255 0 2 0,
   row 0x100002 1 0 0 2 0 0 65535 0 2 0,
   row 0x100003 1 0 0 4 0 0 4294967295 0 2 0,
   row 0x100004 1 0 3 64 0 0 0 0 2 0,
   row 0x100005 1 0 3 64 0 0 0 0 2 0,
   row 0x100006 1 0 0 2 0 0 65535 0 2 0,
   row 0x100007 1 0 0 1 0 0 255 0 2 0,
   row 0x100008 1 1 0 1 0 0 255 0 2 0,
   row 0x100009 1 2 0 2 0 0 65535 0 2 0,
   row 0x10000A 1 2 0 4 0 0 4294967295 0 2 0,
   row 0x10000B 1 0 0 2 0 0 65535 0 2 0,
   row 0x500003 1 2 0 1 3 0 15 1 1 0,
   row 0x500004 1 2 0 1 3 0 15 1 1 0,
   row 0x500005 1 2 0 1 3 0 15 1 0 0,
   row 0x500006 1 2 0 2 0 0 65535 0 1 0,
   row 0x830001 1 2 0 1 1 0 7 6 0 0,
   row 0x830002 1 2 4 576 2 0 0 1 1 0,
   row 0x830003 1 2 0 1 0 0 255 0 0 0,
   row 0x830004 1 2 0 4 3 5 3600 1 0 0,
   row 0x830005 1 2 0 1 0 0 255 0 0 0,
   row 0x831001 1 2 0 2 1 1 65534 6 0 0,
   row 0x831002 1 2 0 1 3 0 255 1 0 0,
   row 0x832001 1 2 0 4 0 0 4294967295 0 0 0,
   row 0xA80001 1 0 0 2 1 0 65535 6 1 0,
   row 0xA80002 1 0 4 32 0 0 0 0 1 0,
   row 0xA80003 1 0 0 4 1 0 4294967295 1 0 0,
   row 0xA80004 1 0 0 4 0 0 4294967295 0 0 0,
   row 0x200001 1 2 0 1 0 0 255 0 1 0,
   row 0x200002 1 2 0 1 2 0 3 1 1 0,
   row 0x200003 1 2 0 1 3 0 2 1 1 0,
   row 0x200004 1 2 0 4 0 0 4294967295 0 1 0,
   row 0x200005 1 2 0 4 0 0 4294967295 0 1 0,
   row 0x200006 1 2 0 4 0 0 4294967295 0 1 0,
   row 0x200007 1 2 0 1 4 0 255 1 1 0,
   row 0x200008 1 2 0 1 0 0 255 0 1 0,
   row 0x200009 1 2 0 1 0 0 255 0 1 0]

/-- Rows of the Directory tables, part 9. -/
def dirRows8 : List Entry :=
  [row 0x201001 1 2 4 16 1 0 0 1 1 0,
   row 0x201002 1 2 0 4 0 0 4294967295 0 1 0,
   row 0x201003 1 2 2 1 2 1 1 1 1 0,
   row 0x201004 1 2 0 4 1 1 60 1 1 0,
   row 0x201005 1 2 0 4 1 5 600 1 1 0,
   row 0x201006 1 2 0 4 3 1800 3600 1 1 0,
   row 0x201007 1 2 0 4 0 0 4294967295 0 1 0,
   row 0x201008 1 2 0 1 0 0 255 0 1 0,
   row 0x201009 1 2 0 1 0 0 255 0 1 0,
   row 0x20100A 1 2 4 16 1 0 0 1 1 0,
   row 0x20100B 1 2 0 4 0 0 4294967295 0 1 0,
   row 0x202001 1 2 1 4 0 0 0 0 1 0,
   row 0x202002 1 2 1 4 0 0 0 0 1 0,
   row 0x202003 1 2 1 4 0 0 0 0 1 0,
   row 0x202004 1 2 0 4 0 0 4294967295 0 1 0,
   row 0x300001 1 0 0 1 0 0 255 0 1 0,
   row 0x300002 1 0 0 1 0 0 255 0 1 0,
   row 0x300003 1 0 0 4 0 0 4294967295 0 1 0,
   row 0x300004 1 0 0 1 0 0 255 0 1 0,
   row 0x301001 1 0 0 1 1 0 99 6 1 0,
   row 0x301002 1 0 0 4 0 0 4294967295 0 1 0,
   row 0x301003 1 0 0 1 0 0 255 0 1 0,
   row 0x301004 1 0 0 1 0 0 255 0 1 0,
   row 0x301005 1 0 0 1 4 0 255 1 1 0,
   row 0x302001 1 0 4 16 0 0 0 0 1 0,
   row 0x303001 1 0 0 4 1 1000 50000 1 1 1,
   row 0x303002 1 0 0 2 1 1 100 1 1 1,
   row 0xB00001 1 2 0 1 0 0 255 5 0 0,
   row 0xB00002 1 2 0 4 0 0 4294967295 5 0 0,
   row 0xB00003 1 2 0 8 0 0 18446744073709551615 5 0 0,
   row 0xB00004 1 2 0 4 0 0 4294967295 5 0 0,
   row 0xB00005 1 2 0 4 0 0 4294967295 5 0 0,
   row 0xB00006 1 2 5 4096 0 0 0 5 0 0,
   row 0xB10001 1 2 0 8 0 0 18446744073709551615 5 0 0,
   row 0xB10002 1 2 0 8 1 0 18446744073709551615 1 0 0,
   row 0xB10003 1 2 0 8 1 0 18446744073709551615 6 1 0]

/-- Rows of the Directory tables, part 10. -/
def dirRows9 : List Entry :=
  [row 0xB10004 1 2 4 65536 0 0 0 0 1 0,
   row 0xB20001 1 2 0 2 1 0 65534 6 1 0,
   row 0xB20002 1 2 4 24 0 0 0 0 1 0,
   row 0xB20003 1 2 0 2 0 0 65535 5 0 0,
   row 0x900001 1 0 0 2 1 0 65535 6 1 0,
   row 0x900002 1 0 0 2 1 0 65535 6 1 0,
   row 0x900003 1 0 5 384 0 0 0 0 1 0,
   row 0x900004 1 0 5 384 0 0 0 0 1 0,
   row 0x900005 1 0 0 8 1 0 18446744073709551615 1 0 0,
   row 0x900006 1 0 2 1 2 0 1 1 1 0,
   row 0x901001 1 0 0 4 1 1 100000 1 0 0,
   row 0x901002 1 0 0 8 0 0 18446744073709551615 0 1 0,
   row 0x901003 1 0 0 1 0 0 255 0 1 0,
   row 0x902001 1 0 0 2 1 1 65534 6 1 0,
   row 0x902002 1 0 4 80 0 0 0 0 1 0,
   row 0x902003 1 0 4 80 0 0 0 0 1 0,
   row 0x902004 1 0 0 2 1 0 65535 1 0 0,
   row 0x902005 1 1 2 1 1 0 1 1 1 0,
   row 0x910001 1 0 0 1 1 0 30 1 0 1,
   row 0x910002 1 0 0 8 1 0 18446744073709551615 1 0 1,
   row 0x911001 1 1 0 1 1 0 255 6 1 0,
   row 0x911002 1 1 4 64 0 0 0 0 1 0,
   row 0x920001 1 2 4 512 0 0 0 0 0 0,
   row 0x730000 64 2 4 16 0 0 0 0 1 0]

/-- Every row of the Directory tables. -/
def dirRows : List Entry :=
  dirRows0 ++ dirRows1 ++ dirRows2 ++ dirRows3 ++ dirRows4 ++ dirRows5 ++ dirRows6 ++ dirRows7 ++ dirRows8 ++ dirRows9

/-- The slot entries 0xD210+s stand in the table once, at slot 0: the key and the instance of a key. -/
def slotKey (key : Nat) : Nat × Nat :=
  let i := key / 256
  if 0xD210 ≤ i ∧ i < 0xD250 then (0xD21000 + key % 256, i - 0xD210) else (key, 0)

/-- R327 step 1: the row of an entry that the part holds. -/
def entryOf (p : Part) (key : Nat) : Option Entry :=
  let k := (slotKey key).1
  dirRows.find? fun e =>
    decide (e.key ≤ k ∧ k < e.key + e.span) && (e.part == 0 || (e.part == 1) == (p == Part.ep))

/-- The number of a path in an access-denied event (0x0004). -/
def pathNo : Path → Nat
  | .udp => 0
  | .smbus => 1
  | .eri => 2
  | .roce => 3
  | .metrology => 0

/-- The number of a principal in an access-denied event (0x0004). -/
def principalNo : Principal → Nat
  | .operator => 1
  | .host => 2
  | .job => 3
  | .metrology => 4

/-- R331: the sideband subset. -/
def sidebandReaches (p : Part) (key : Nat) (write : Bool) : Bool :=
  let i := key / 256
  let sub := key % 256
  if i / 0x1000 = 1 then !write
  else if i / 0x1000 = 2 ∨ i / 0x1000 = 3 then true
  else if (0x4000 ≤ i ∧ i ≤ 0x4300) ∨ i = 0x4800 ∨ (i = 0x4900 ∧ 1 ≤ sub ∧ sub ≤ 7) then true
  else if i = 0x5000 ∧ 1 ≤ sub ∧ sub ≤ 6 then true
  else if i = 0x8000 ∨ i = 0x8010 ∨ i = 0x8300 then true
  else if (i = 0xA000 ∧ (sub = 5 ∨ sub = 6)) ∨ i = 0xA200 then !write
  else if i = 0xA800 then true
  else if i / 0x1000 = 0xB then !write
  else if i = 0xC000 then true
  else if i = 0xD000 ∨ i = 0xD100 ∨ i = 0xD700 ∨ i = 0xD800 ∨ i = 0xD900 then p == Part.ep
  else false

/-- R327 step 2: does the path reach the entry? (R331; R306 for a module in boot state 2; R116 for an endpoint without an
accepted bundle; R121 for what only the tray controller writes.) -/
def pathReaches (p : Part) (path : Path) (key : Nat) (write : Bool) (s : State) : Bool :=
  let i := key / 256
  let booted := (s.sh p).rot.boot == 1
  let tray := p == Part.ep && write && (i == 0xD000 || key == 0xD70001 || key == 0xD90002)
  if tray && path != Path.smbus then false
  else match path with
  | .smbus => sidebandReaches p key write && (booted || p == Part.ep || i / 0x1000 == 1 || i / 0x1000 == 8)
  | .udp | .roce => booted || p == Part.ep || i / 0x1000 == 1 || i / 0x1000 == 8
  | .eri => p == Part.ep && (booted || i / 0x1000 == 1 || i == 0xD800)
  | .metrology => i / 0x1000 == 0xB

/-- R330: the Host partition that a Job ID belongs to on a module; 255 for none. -/
def State.partitionOf (s : State) (job : Nat) : Nat := s.mod.sh.reg 0x831002 job

/-- R330: does the requester's Host partition hold the Job ID? An endpoint has one Host partition. -/
def hostHolds (p : Part) (a : Access) (job : Nat) (s : State) : Bool :=
  match p with
  | .ep => s.ep.slots.any fun e => e.2.job == job && e.2.state != 0
  | .mod => decide (s.partitionOf job = a.partition)

/-- R394: may this access read the partition of a Job ID? -/
def mayReadPartition (p : Part) (a : Access) (job : Nat) (s : State) : Bool :=
  match a.principal with
  | .operator => true
  | .host => hostHolds p a job s
  | .job => p == Part.ep && job == a.job && (s.sh p).reg 0x902005 job == 1
  | .metrology => false

/-- R47: the denial record of an entry of 0xD301 or 0x7201. -/
def State.denialAt (s : State) (p : Part) (key : Nat) : Option Denial := (s.sh p).denials[key % 256]?

/-- R327 step 3 for a read. -/
def mayRead (p : Part) (a : Access) (e : Entry) (key : Nat) (s : State) : Bool :=
  let i := key / 256
  let host := fun (job : Nat) => a.principal == .operator || (a.principal == .host && hostHolds p a job s)
  if i = 0x1000 then true
  else if i = 0x9020 then
    if key = 0x902001 then a.principal != .metrology
    else if key = 0x902005 then a.principal == .operator
    else mayReadPartition p a (s.sel p a.ctx 0x902001) s
  else if i = 0x9000 then
    a.principal == .operator || (a.principal == .host && p == Part.ep && s.ep.slots.any fun x => x.2.state != 0)
  else match a.principal with
    | .operator => true
    | .metrology => false
    | .job => decide (e.rd = 2)
    | .host =>
      if key = 0x550002 then host (s.sel p a.ctx 0x550001)
      else if key = 0x61000C ∨ key = 0x61000D then
        match tabGet s.mod.groups (s.sel p a.ctx 0x610006) with
        | some g => hostHolds p a g.job s
        | none => false
      else if i = 0x7010 ∧ key ≠ 0x701001 then
        match tabGet s.mod.regions (s.sel p a.ctx 0x701001) with
        | some r => r.state != 0 && hostHolds p a r.owner s
        | none => false
      else if i = 0x7300 ∧ e.kind = 4 then
        match s.mod.errors[key % 256]? with
        | some r => hostHolds p a r.owner s
        | none => true
      else if i = 0xD301 ∨ i = 0x7201 then
        match s.denialAt p key with
        | some d => hostHolds p a d.job s
        | none => true
      else if key = 0xC30003 ∨ key = 0xC30004 ∨ key = 0xC30006 then
        match tabGet (s.sh p).mown (s.sel p a.ctx 0xC30002) with
        | some x => hostHolds p a x.job s
        | none => true
      else if key = 0x810003 then host (s.sel p a.ctx 0x810002)
      else if key = 0x820002 then host (s.sel p a.ctx 0x810002)
      else if key = 0xD8000B ∨ key = 0xD8000C then host (s.sel p a.ctx 0xD8000A)
      else if key = 0xB20002 then host (s.sel p a.ctx 0xB20001)
      else decide (1 ≤ e.rd)

/-- R151: which group entries a Host partition may write: one whose Job ID it holds, or one of Job ID 0x0000 (the entry
itself only). -/
def hostMayGroup (a : Access) (entry : Bool) (s : State) : Bool :=
  match tabGet s.mod.groups (s.sel .mod a.ctx 0x610006) with
  | some g => (entry && g.job == 0) || (g.job != 0 && hostHolds .mod a g.job s)
  | none => entry

/-- R327 step 3 for a write. -/
def mayWrite (p : Part) (a : Access) (e : Entry) (key : Nat) (s : State) : Bool :=
  match e.wr with
  | 0 => mayRead p a e key s
  | 1 => a.principal == .operator
  | 2 =>
    a.principal == .host &&
    (if key = 0x610007 then hostMayGroup a true s
     else if key = 0x610008 ∨ key = 0x61000A ∨ key = 0x61000B then hostMayGroup a false s
     else true)
  | 3 => a.principal == .operator || a.principal == .host
  | 4 => true
  | 5 => a.principal == .metrology
  | _ => mayRead p a e key s

/-- R327 steps 1 to 4: 0, or 1 NoEntry, 2 the path, 3 the principal, 4 the access mode. -/
def dirCheck (p : Part) (a : Access) (key : Nat) (write : Bool) (s : State) : Nat :=
  match entryOf p key with
  | none => 1
  | some e =>
    if !pathReaches p a.path key write s then 2
    else if !(if write then mayWrite p a e key s else mayRead p a e key s) then 3
    else if (write && e.acc == 0 && !(e.wr == 5 && a.principal == .metrology)) || (!write && e.acc == 2) then 4
    else 0

/-- R327 step 5, the part that a table gives: length, encoding and range of a value. -/
def valueOk (e : Entry) (val : List Byte) : Bool :=
  match e.kind with
  | 0 => val.length == e.size && decide (e.lo ≤ beNat val ∧ beNat val ≤ e.hi)
  | 1 => val.length == e.size
  | 2 => val.length == 1 && decide (e.lo ≤ beNat val ∧ beNat val ≤ 1)
  | 3 => decide (val.length ≤ 64)
  | 4 => val.length == e.size
  | _ => decide (val.length ≤ e.size)

/-- R327 step 3, R341: a principal that may not reach an entry: the event and the dir-denied counter. -/
def dirDenied (p : Part) (a : Access) (key : Nat) (s : State) : State :=
  let part := if a.principal == .host && p == Part.mod then a.partition else 0
  let d := pathNo a.path * 2 ^ 104 + principalNo a.principal * 2 ^ 96 + key / 256 * 2 ^ 80 + key % 256 * 2 ^ 72 +
    part * 2 ^ 68
  (s.logEvent p 1 0x0004 (if a.principal == .job then a.job else 0) d).bothCount p 32 14

/-- R327: one write request. `k` carries out steps 5 to 7 and answers the status. -/
def dirWriteWith (p : Part) (a : Access) (key : Nat) (k : State → Nat × State) (s : State) : Nat × State :=
  match dirCheck p a key true s with
  | 0 => k s
  | 1 => (stNoEntry, s)
  | 2 => (stDenied, s)
  | 3 => (stDenied, dirDenied p a key s)
  | _ => (stMode, s)

/-- The answer of a Directory request, sent on its path. -/
def dirAnswer (p : Part) (c : Ctx) (r : Nat × State) : State := r.2.emit (.dir p c r.1 [])

/-- A BLOB of 16 bytes as a number, most significant byte first. -/
def blobNat (val : List Byte) : Nat := beNat val

end Sys2Proof.Machine
end

