-- ==== Sys2Proof/Machine/Eri.lean ====
section
/-! DEFINITION. The ERI side of the endpoint: credits (R102), what it sends the accelerator (R100, R108) and memory
messages (R106). -/

namespace Sys2Proof.Machine

/-! ### Credits (R102) -/

/-- The credits that the endpoint grants for each accelerator-to-endpoint class. -/
def eriGrant : Nat := 1024

/-- A count of units of a class (0 Request, 1 Memory response, 2 Completion, 3 Memory request) in the credit layout. -/
def creditAux (cls units : Nat) : Nat := units * 2 ^ (42 - 14 * cls)

/-- The units of a class in a credit layout. -/
def creditOf (aux cls : Nat) : Nat := bits aux (55 - 14 * cls) (42 - 14 * cls)

/-- Change a link. -/
def State.modLink (s : State) (l : Nat) (f : EriLink → EriLink) : State :=
  s.modEp fun e => { e with links := tabMod e.links l f }

/-- Is a UCIe link in service? -/
def State.linkUp (s : State) (l : Nat) : Bool :=
  match tabGet s.ep.links l with
  | some k => k.up
  | none => false

/-- The lowest-numbered link in service. -/
def State.lowLink (s : State) : Option Nat := (List.range 8).find? s.linkUp

/-- Has the accelerator's Init come on a link? Before it the endpoint sends nothing there but its own (R102). -/
def State.initDone (s : State) (l : Nat) : Bool :=
  match tabGet s.ep.links l with
  | some k => k.gotInit
  | none => false

/-- Return credits of an accelerator-to-endpoint class in a Credit message; before the accelerator's Init they are owed. -/
def State.giveCredit (s : State) (l cls units : Nat) : State :=
  if s.initDone l then
    let s := s.modLink l fun k =>
      if cls = 0 then { k with reqCr := k.reqCr + units } else { k with respCr := k.respCr + units }
    s.emit (.eri l { Eri.zero with kind := 0x3F, aux := creditAux cls units })
  else s.modLink l fun k => if cls = 0 then { k with owed := k.owed + units } else { k with owedResp := k.owedResp + units }

/-- R104: places for agent requests. -/
def agentPlaces : Nat := 12288

/-- Return the credit of a Request-class message, unless agent requests hold every place (R104): then it is owed. -/
def State.returnReq (s : State) (l units : Nat) : State :=
  if s.ep.tags.length < agentPlaces then s.giveCredit l 0 units
  else s.modLink l fun k => { k with owed := k.owed + units }

/-- R104: once a place is free, return what is owed. -/
def State.payOwed (s : State) : State :=
  if s.ep.tags.length < agentPlaces then
    (List.range 8).foldl (fun s l => match tabGet s.ep.links l with
      | some k => if k.up && k.gotInit && decide (0 < k.owed) then
          (s.modLink l fun k => { k with owed := 0 }).giveCredit l 0 k.owed else s
      | none => s) s
  else s

/-- R102: the Memory-response credits that were owed before the accelerator's Init. -/
def State.payResp (s : State) (l : Nat) : State :=
  match tabGet s.ep.links l with
  | some k => if 0 < k.owedResp then (s.modLink l fun k => { k with owedResp := 0 }).giveCredit l 1 k.owedResp else s
  | none => s

/-- R102: take the credits of an arriving message. None: it came without credits, or on a link out of service. -/
def State.takeCredit (s : State) (l cls units : Nat) : Option State :=
  match tabGet s.ep.links l with
  | none => none
  | some k =>
    let have_ := if cls = 0 then k.reqCr else k.respCr
    if k.up && decide (units ≤ have_) then
      some (s.modLink l fun k =>
        if cls = 0 then { k with reqCr := k.reqCr - units } else { k with respCr := k.respCr - units })
    else none

/-! ### Sending -/

/-- R106: the link in service with the fewest outstanding memory messages that has received the accelerator's Init, the
lowest-numbered of equals. -/
def State.memLink (s : State) : Option Nat :=
  let load := fun (l : Nat) => (s.ep.mem.filter fun m => m.link == l).length
  let ok := (List.range 8).filter fun l => match tabGet s.ep.links l with
    | some k => k.up && k.gotInit
    | none => false
  ok.foldl (fun best l => match best with
    | none => some l
    | some b => if load l < load b then some l else some b) none

/-- Send one waiting message if it can leave now: none where it must wait. Link 8 stands for the lowest in service. -/
def State.trySend (s : State) (w : EriWait) : Option State :=
  match w.who with
  | none =>
    let l := if s.linkUp w.link then some w.link else s.lowLink
    match l with
    | none => none
    | some l => match tabGet s.ep.links l with
      | none => none
      | some k =>
        if k.gotInit && decide (w.m.units ≤ k.compCr) then
          some ((s.modLink l fun k => { k with compCr := k.compCr - w.m.units }).emit (.eri l w.m))
        else none
  | some who =>
    match s.memLink, lowestFree (fun t => s.ep.mem.any fun m => m.tag == (s.ep.nextMem + t) % 16384) 16384 with
    | some l, some t => match tabGet s.ep.links l with
      | none => none
      | some k =>
        if w.m.units ≤ k.memCr then
          let s := s.modLink l fun k => { k with memCr := k.memCr - w.m.units }
          let tag := (s.ep.nextMem + t) % 16384
          let want := if w.m.kind = 0x28 then w.m.len else if w.m.kind = 0x29 then 0 else fmtSize w.m.fmt
          let msg : MemMsg := { tag := tag, link := l, kind := w.m.kind, want := want, who := who, sent := s.ns,
                                limit := s.reg .ep 0xD10004 * 1000 }
          let s := s.modEp fun e => { e with mem := e.mem ++ [msg], nextMem := (tag + 1) % 16384 }
          some (s.emit (.eri l { w.m with tag := tag }))
        else none
    | _, _ => none

/-- Send what can leave, in order within each class and link; the classes never wait on one another (R102). -/
def State.flushTx (s : State) : State :=
  let ws := s.ep.txWait
  let r := ws.foldl (fun (acc : State × List EriWait) w =>
    if acc.2.any fun v => v.cls == w.cls && (w.cls == 3 || v.link == w.link) then (acc.1, acc.2 ++ [w])
    else match acc.1.trySend w with
      | some t => (t, acc.2)
      | none => (acc.1, acc.2 ++ [w])) (s, [])
  r.1.modEp fun e => { e with txWait := r.2 }

/-- Send a message of the Completion class on a link (8: the lowest in service), once credits allow. -/
def State.sendComp (s : State) (l : Nat) (m : Eri) : State :=
  (s.modEp fun e => { e with txWait := e.txWait ++ [{ link := l, cls := 2, m := m, who := none }] }).flushTx

/-- R106: send a memory message. Kinds 0x28 read, 0x29 write, 0x2A atomic; purposes as R101. -/
def State.sendMem (s : State) (who : MemFor) (kind purpose addr len aop fmt : Nat) (data : List Byte) : State :=
  let m : Eri := { Eri.zero with kind := kind, agent := 0xFFF, len := len, addr := addr, aop := aop, fmt := fmt,
                                 aux := purpose * 2 ^ 52, body := data }
  (s.modEp fun e => { e with txWait := e.txWait ++ [{ link := 8, cls := 3, m := m, who := some who }] }).flushTx

/-- Where a link is out of service: memory messages on other links carry on. -/
def State.memOf (s : State) (tag : Nat) : Option MemMsg := s.ep.mem.find? fun m => m.tag == tag

/-- An ERI Completion (R101). -/
def completionMsg (agent tag job code : Nat) (coll : Bool) (data : List Byte) : Eri :=
  { Eri.zero with kind := 0x20, agent := agent, tag := tag, job := job, code := code, coll := coll, len := data.length,
                  body := data }

/-- R108: a Job notice: kinds 0 plane lost, 1 plane restored, 2 slot revoked, 3 key epoch changed, 4 destination exclusion
set, 5 cleared. -/
def State.jobNotice (s : State) (kind job plane node : Nat) : State :=
  s.sendComp 8 { Eri.zero with kind := 0x22, job := job, aux := kind * 2 ^ 52 + plane * 2 ^ 48 + node * 2 ^ 38,
                               value := s.rackNs .ep }

/-- R103: a pair of Agent ID and Tag is outstanding. -/
def State.tagOut (s : State) (agent tag : Nat) : Bool := s.ep.tags.contains (agent, tag)

/-- A request of an agent ends: its pair is free again, credits owed are paid, and the Completion leaves on the link of
the request (R100). -/
def State.endTag (s : State) (l agent tag job code : Nat) (data : List Byte) : State :=
  let s := s.modEp fun e => { e with tags := delFirst (fun t => t == (agent, tag)) e.tags }
  (s.sendComp l (completionMsg agent tag job code false data)).payOwed

end Sys2Proof.Machine
end

