-- ==== Sys2Proof/Machine/Requests.lean ====
section
/-! DEFINITION. The sender of requests: coordinates, seals (R313), pairs (R88), windows (R91), planes (R22), the near
cache (R66), completion (R86) and the issue of waiting requests (R52 to R63, R88, R91). -/

namespace Sys2Proof.Machine

/-! ### Coordinates -/

/-- The node ID of a part: 0xD000.04; 512 + plane on a module. -/
def State.node (s : State) (p : Part) : Nat :=
  match p with
  | .ep => s.reg .ep 0xD00004
  | .mod => 512 + s.reg .mod 0x500005

/-- The rack number of a part. -/
def State.rack (s : State) (p : Part) : Nat :=
  match p with
  | .ep => s.reg .ep 0xD00002
  | .mod => s.reg .mod 0x500004

/-- The plane of the module. -/
def State.plane (s : State) : Nat := s.reg .mod 0x500005

/-- R3: the entries that hold a part's coordinates and node ID, which the tray controller writes. -/
def coordKeys : Part → List Nat
  | .ep => [0xD00001, 0xD00002, 0xD00003, 0xD00004]
  | .mod => [0x500003, 0x500004, 0x500005]

/-- R3: have the part's coordinates been written? -/
def State.coordsSet (s : State) (p : Part) : Bool := (coordKeys p).all fun k => (s.sh p).coords.contains k

/-- R17: the tile of a module port. -/
def tileOfPort (k : Nat) : Nat :=
  let q := k / 64
  let l := k % 64 / 4
  let x := 4 * (q % 2) + l % 4
  let y := 4 * (q / 2) + l / 4
  y * 8 + x

/-- R19: the dense rack has 8 planes. -/
def State.dense (s : State) : Bool := s.reg .ep 0xD70001 == 0x00FF

/-- The first port of a tile: the inverse of R17. -/
def firstPort (t : Nat) : Nat :=
  let x := t % 8
  let y := t / 8
  64 * (2 * (y / 4) + x / 4) + 4 * (4 * (y % 4) + x % 4)

/-! ### Keys and seals (R310 to R313) -/

/-- The secrets that a part holds for a Job ID. -/
def Shared.keysOf (sh : Shared) (job : Nat) : Option JobKeys := sh.keys.find? fun k => k.job == job

/-- R310: the current key epoch of a Job ID (0x0000: of the rack secret); 0 where none is held. -/
def State.epochNow (s : State) (p : Part) (job : Nat) : Nat :=
  match (s.sh p).keysOf job with
  | some k => k.cur.getD 0
  | none => 0

/-- R313: packets sealed under the fabric key F(n). -/
def underFabric (k : Packet) : Bool :=
  (decide (0x10 ≤ k.typ ∧ k.typ ≤ 0x12) && k.len == 0) || k.typ == 0x30 || k.typ == 0x31

/-- R313: the nonce in pair form. -/
def pairNonce (k : Packet) (reads : Nat) : Nat :=
  k.srcRack * 2 ^ 92 + k.src * 2 ^ 82 + k.dstRack * 2 ^ 78 + k.dst * 2 ^ 68 + k.typ * 2 ^ 62 + k.code * 2 ^ 58 +
  reads % 8 * 2 ^ 55 + k.seq

/-- R313: the nonce in tree form; racks and first element of the partial prefix. -/
def treeNonce (k : Packet) : Nat :=
  let racks := beNat (sliceBytes k.payload 0 2)
  let first := bits (beNat (sliceBytes k.payload 0 4)) 15 3
  k.dstRack * 2 ^ 92 + k.phase * 2 ^ 89 + k.piece * 2 ^ 69 + racks * 2 ^ 53 + first * 2 ^ 40 + k.cseq * 2 ^ 8

/-- R313: the nonce of an in-band Verdict message, from its payload (R286). -/
def verdictNonce (k : Packet) : Nat :=
  let w := beNat k.payload
  k.src * 2 ^ 86 + k.dst * 2 ^ 76 + k.typ * 2 ^ 70 + bits w 255 252 * 2 ^ 66 + bits w 159 96 * 2 ^ 2

/-- The key period of now (R311). -/
def State.keyPeriod (s : State) (p : Part) : Nat := s.rackNs p / 100000000

/-- R313: the seal under which a packet leaves now. Keys: 1 data, 2 plane, 3 tree, 4 fabric. -/
def State.sealOf (s : State) (p : Part) (k : Packet) (reads : Nat) : Seal :=
  let n := s.keyPeriod p
  if underFabric k then
    { key := 4, epoch := s.epochNow p 0, period := n, nonce := if k.typ = 0x30 then verdictNonce k else pairNonce k 0 }
  else if isColl k.typ && (k.phase == 2 || k.phase == 3) then
    { key := 3, epoch := k.epoch, period := 0, nonce := treeNonce k }
  else if isColl k.typ || decide (512 ≤ k.src ∧ k.src < 528) || decide (512 ≤ k.dst ∧ k.dst < 528) then
    { key := 2, epoch := k.epoch, period := n, nonce := pairNonce k reads }
  else { key := 1, epoch := k.epoch, period := n, nonce := pairNonce k reads }

/-- The Key epoch that a packet's header carries (R310, R313). -/
def State.headerEpoch (s : State) (p : Part) (k : Packet) : Nat :=
  if underFabric k then s.epochNow p 0 else s.epochNow p k.job

/-! ### Tracing (R395, R396) -/

/-- R395: is a packet tagged at a part? The hash runs over the seed, the requester, the responder and the sequence. -/
def State.tagged (s : State) (p : Part) (k : Packet) : Bool :=
  let n := s.regNow p 0x910001
  let resp := k.typ == 0x10 || k.typ == 0x11 || k.typ == 0x12
  let ends := if resp then beBytes 2 k.to_ ++ beBytes 2 k.from_ else beBytes 2 k.from_ ++ beBytes 2 k.to_
  n != 0 && ((beBytes 8 (s.regNow p 0x910002) ++ ends ++ beBytes 4 k.seq).foldl crcByte 0) % 2 ^ n == 0

/-- A stage that was not passed. -/
def noStage : Nat := 0xFFFFFFFF

/-- R396: a record in the endpoint's trace buffer of 256, newest first: kind 1 source, 2 destination; `base` in elapsed ns. -/
def State.traceEp (s : State) (k : Packet) (kind base : Nat) (offs : List Nat) : State :=
  if s.tagged .ep k then
    s.modEp fun e =>
      let r : TraceRec := { seq := match e.trace with
                                   | x :: _ => x.seq + 1
                                   | [] => 0
                            pkt := k, kind := kind, base := s.rackNs .ep - (s.ns - base), offs := offs }
      { e with trace := (r :: e.trace).take 256 }
  else s

/-- R396: the record of a request at its source endpoint, as it completes. -/
def State.traceSource (s : State) (r : Req) : State :=
  if r.sends = 0 then s
  else s.traceEp r.pkt 1 r.accAt [r.trAt - r.accAt, r.first - r.accAt, if r.sends < 2 then noStage else r.last - r.accAt,
         s.ns - r.accAt, if r.owner = Owner.agent then s.ns - r.accAt else noStage, noStage, noStage, noStage]

/-- R396: the record of a request at its destination endpoint, as it is answered. -/
def State.traceDest (s : State) (k : Packet) : State :=
  match s.ep.sh.recv.inprog.find? fun g => g.src == k.from_ && g.pkt.seq == k.seq with
  | some g => s.traceEp k 2 g.at_ [0, 0, s.ns - g.at_, s.ns - g.at_, noStage, noStage, noStage, noStage]
  | none => s.traceEp k 2 s.ns [noStage, noStage, noStage, 0, noStage, noStage, noStage, noStage]

/-! ### Tiles (R204, R219) -/

/-- A tile in service that holds nothing. -/
def Tile.reset : Tile where
  inService := true
  withdrawn := false
  frameUsed := 0
  parkUsed := 0
  windUsed := 0
  auditRun := 0
  spilling := false

/-- A tile. -/
def State.tile (s : State) (t : Nat) : Tile := tabGetD s.mod.tiles t Tile.reset

/-- Change a tile. -/
def State.modTile (s : State) (t : Nat) (f : Tile → Tile) : State :=
  s.modMod fun m => { m with tiles := tabPut m.tiles t (f (tabGetD m.tiles t Tile.reset)) Tile.reset }

/-- R204: the cells of a frame of `len` bytes after its mesh header. -/
def cellsOf (len : Nat) : Nat := (len + 8 + 255) / 256

/-- R204: the cells of the frame pool of a tile. -/
def State.framePool (s : State) : Nat := 32768 - s.reg .mod 0x510003 - s.reg .mod 0x510004

/-- R214: the stamp of what enters the module now. -/
def State.stampNow (s : State) : Nat := s.rackNs .mod / 4 % 2 ^ 22

/-- R214: the age of a frame, in units of 4 ns. -/
def State.ageOf (s : State) (f : MFrame) : Nat := (2 ^ 22 + s.stampNow - f.stamp) % 2 ^ 22

/-- Does a frame hold frame-pool cells? A unit's queue, the injection queue, a result cell and a Mown contribution that waits
do. -/
def MFrame.inPool (f : MFrame) : Bool := f.place == 0 || f.place == 1 || f.place == 5 || f.place == 6

/-- R204: charge or return what a frame holds where it stands. -/
def MFrame.book (f : MFrame) (add : Bool) (x : Tile) : Tile :=
  let c := cellsOf f.len
  let u := fun (n k : Nat) => if add then n + k else n - k
  if f.inPool then { x with frameUsed := u x.frameUsed c }
  else if f.place = 2 then { x with parkUsed := u x.parkUsed c }
  else x

/-- Note that a frame passes a stage of R396. -/
def MFrame.mark (f : MFrame) (st now : Nat) : MFrame := { f with stages := tabSet f.stages st now }

/-- Is a port Active? -/
def Shared.portActive (sh : Shared) (port : Nat) : Bool :=
  match tabGet sh.ports port with
  | some q => q.state == 7
  | none => false

/-- The SCD of a tile (R17). -/
def scdOfTile (t : Nat) : Nat := t / 32 * 2 + t % 8 / 4

/-- R194: the SCD and the stack of a spill page: pages are numbered over the four SCDs in turn, and those of an SCD over its six
stacks (log entry 173). -/
def pageScd (n : Nat) : Nat := n % 4
def pageStack (n : Nat) : Nat := 6 * pageScd n + n / 4 % 6

/-- The lowest page of an SCD that is free, on a stack in service. -/
def State.freePage (s : State) (scd : Nat) : Nat :=
  let l := (List.range (6 * s.mod.spill.length + 6)).map fun i => 4 * i + scd
  (l.find? fun n => (tabGet s.mod.spill n).isNone && !s.mod.failedStacks.contains (pageStack n)).getD scd

/-- R194: content is written to a spill page on a tile's own SCD. -/
def State.writePage (s : State) (tile kind : Nat) (who : SpillFor) (data : List Byte) : State :=
  let p : SpillPage := { tile := tile, kind := kind, who := who, data := data, at_ := s.rackNs .mod }
  s.modMod fun m => { m with spill := tabSet m.spill (s.freePage (scdOfTile tile)) p }

/-- The pages of what they hold leave the spill reserve. -/
def State.dropPages (s : State) (who : SpillFor) : State :=
  s.modMod fun m => { m with spill := m.spill.filter fun p => p.2.who != who }

/-- R209: the 8-byte mesh header of a frame. -/
def MFrame.header (f : MFrame) : Nat :=
  f.dtile * 2 ^ 58 + f.unit * 2 ^ 55 + f.mplane % 4 * 2 ^ 53 + f.prio * 2 ^ 51 + f.len * 2 ^ 38 + f.stamp * 2 ^ 16 +
    f.stile * 2 ^ 10 + f.defl * 2 ^ 6 + ofBool f.spilled * 2 ^ 5

/-- A mesh frame as bytes: its mesh header, and the packet's header, payload and tag. -/
def MFrame.bytes (f : MFrame) : List Byte :=
  beBytes 8 f.header ++ beBytes 32 f.pkt.header ++ f.pkt.payload ++ Config.packetTag f.pkt.header

/-- A frame takes its place in the module; its tile's books are charged, and a spilled one has its page. -/
def State.putFrame (s : State) (f : MFrame) : State :=
  let s := if f.place = 4 then s.writePage f.tile 0 (.frame f.id) f.bytes else s
  (s.modMod fun m => { m with frames := m.frames ++ [f] }).modTile f.tile (f.book true)

/-- A frame leaves its place; its tile's books are returned. -/
def State.takeFrame (s : State) (f : MFrame) : State :=
  let s := if f.place = 4 then s.dropPages (.frame f.id) else s
  (s.modMod fun m => { m with frames := delFirst (fun x => x.id == f.id) m.frames }).modTile f.tile (f.book false)

/-! ### Ports and frames -/

/-- Cells of a tile's frame pool that are held: by frames, and by frames that are leaving (R204, R210). -/
def State.frameHeld (s : State) (t : Nat) : Nat :=
  s.mod.leaving.foldl (fun a l => if l.tile = t ∧ ¬ l.park ∧ s.clock < l.until_ then a + l.cells else a) (s.tile t).frameUsed

/-- Cells of a tile's park reserve that are held (R213). -/
def State.parkHeld (s : State) (t : Nat) : Nat :=
  s.mod.leaving.foldl (fun a l => if l.tile = t ∧ l.park ∧ s.clock < l.until_ then a + l.cells else a) (s.tile t).parkUsed

/-- Does a tile's frame pool have cells for a frame of `len` bytes? -/
def State.hasCells (s : State) (t len : Nat) : Bool := decide (s.frameHeld t + cellsOf len ≤ s.framePool)

/-- A frame that is new in the module, at `tile`, for unit `unit` of `dtile`, in the unit's queue there or in the injection
queue. `unit` 0 to 3 is a port of the tile, 4 Windrow, 5 Commons, 6 the tile sequencer (R209). -/
def State.mkFrame (s : State) (tile dtile unit prio : Nat) (pkt : Packet) (ingress : Nat) : MFrame :=
  { id := s.mod.nextFrame, tile := tile, place := if tile = dtile then 0 else 1, dir := 0, dtile := dtile, unit := unit, mplane := 4,
    prio := prio, len := pkt.wireLen, stamp := s.stampNow, stile := tile, defl := 0, spilled := false, pkt := pkt,
    ingress := ingress, stages := [(0, s.ns)] }

/-- A new frame takes its cells, identified by its number. -/
def State.addFrame (s : State) (f : MFrame) : State :=
  (s.modMod fun m => { m with nextFrame := m.nextFrame + 1 }).putFrame f

/-- R216: a frame that comes to the queue of an external port that is down is not held. -/
def State.portDownFor (s : State) (f : MFrame) : Bool :=
  f.place == 0 && decide (f.unit < 4) && !s.mod.sh.portActive (firstPort f.dtile + f.unit)

/-- A new frame in the module. It is discarded when the frame pool lacks its cells (R206), or when its port is down. -/
def State.newFrame (s : State) (tile dtile unit prio : Nat) (pkt : Packet) (ingress : Nat) : State :=
  let f := s.mkFrame tile dtile unit prio pkt ingress
  if !s.hasCells tile f.len then s.tileCount tile 4
  else if s.portDownFor f then s.portCount .mod (firstPort dtile + unit) 9
  else s.addFrame f

/-- R208: the priority class of a packet. -/
def classOf (typ : Nat) : Nat :=
  if typ = 0x10 ∨ typ = 0x11 ∨ typ = 0x12 ∨ typ = 0x30 then 3
  else if 0x20 ≤ typ ∧ typ ≤ 0x2F then 2
  else if typ = 0x01 ∨ typ = 0x02 ∨ typ = 0x03 then 1 else 0

/-- A part sends a packet: it leaves the endpoint on the port of its plane, or a module unit at `tile` for the egress port
`port`, through the Sward when the port is at another tile. -/
def State.sendPacket (s : State) (p : Part) (tile port : Nat) (pkt : Packet) (sl : Seal) : State :=
  if p = Part.ep ∧ s.ep.selfDead ∧ pkt.typ ≠ 0x30 then s
  else
  let s := s.emit (.packet p port pkt sl)
  match p with
  | .ep => s.modSh .ep fun sh => { sh with ports := tabMod sh.ports port fun q => { q with queue := q.queue ++ [pkt] } }
  | .mod =>
    s.newFrame tile (tileOfPort port) (port % 4) (classOf pkt.typ) pkt 0xFF

/-! ### Pairs, planes and windows -/

/-- The pair of a part and a destination; a pair not yet used starts with S = 1 at sequence 0 (R88). -/
def Shared.pairOf (sh : Shared) (dst : Nat) : Pair :=
  match sh.pairs.find? fun q => q.dst == dst with
  | some q => q
  | none => { dst := dst, next := 0, start := true, lastStart := 0, interval := 0, writes := 0, charged := 0,
              restart := false }

/-- Put a pair. -/
def Shared.setPair (sh : Shared) (q : Pair) : Shared :=
  if sh.pairs.any fun r => r.dst == q.dst then { sh with pairs := sh.pairs.map fun r => if r.dst = q.dst then q else r }
  else { sh with pairs := sh.pairs ++ [q] }

/-- R91: what a request charges its window. -/
def chargeOf (k : Packet) : Nat := max 64 (ceil64 k.len)

/-- R118: may a plane carry a request first sent at `t`: one that has returned carries only those first sent since. -/
def State.planeSince (s : State) (pl t : Nat) : Bool :=
  match tabGet s.ep.returned pl with
  | some b => decide (b ≤ t)
  | none => true

/-- R119: the live planes toward a destination node: the live list without excluded planes. -/
def State.liveFor (s : State) (node : Nat) : List Nat :=
  s.ep.live.filter fun p => !s.ep.exclusions.contains (node, p)

/-- R22: the plane of an offset of a destination node. -/
def State.planeFor (s : State) (node off : Nat) : Option Nat :=
  if 512 ≤ node ∧ node < 528 then (if s.ep.live.contains (node - 512) then some (node - 512) else none)
  else
    let l := s.liveFor node
    if l.isEmpty then none else l[off / 4096 % 1680 % l.length]?

/-- R22, R118: the plane on which a request first sent at `t` is sent again. -/
def State.planeAgain (s : State) (node off t : Nat) : Option Nat :=
  if 512 ≤ node ∧ node < 528 then (if s.ep.live.contains (node - 512) && s.planeSince (node - 512) t then some (node - 512) else none)
  else
    let l := (s.liveFor node).filter fun p => s.planeSince p t
    if l.isEmpty then none else l[off / 4096 % 1680 % l.length]?

/-- R27: does the arrangement hold plane `p`? -/
def State.planeExists (s : State) (p : Nat) : Bool := bit (s.reg .ep 0xD70001) p

/-- R95: has a verdict declared a node dead? -/
def State.nodeDead (s : State) (p : Part) (node : Nat) : Bool := (s.sh p).verd.dead.contains node

/-- R95: has a verdict declared a node of a rack dead? Verdicts speak of the nodes of the part's own rack. -/
def State.deadTo (s : State) (p : Part) (rack node : Nat) : Bool := rack == s.rack p && s.nodeDead p node

/-- Is `a` after `b`? (R88: serial arithmetic.) -/
def serialAfter (a b : Nat) : Bool := let d := (2 ^ 32 + a - b) % 2 ^ 32; decide (1 ≤ d ∧ d < 2 ^ 31)

/-- `(a − b) mod 2^32`. -/
def serialDiff (a b : Nat) : Nat := (2 ^ 32 + a % 2 ^ 32 - b % 2 ^ 32) % 2 ^ 32

/-! ### The request table -/

/-- The request of an identifier. -/
def Shared.req (sh : Shared) (id : Nat) : Option Req := sh.reqs.find? fun r => r.id == id

/-- Change the request of an identifier. -/
def State.modReq (s : State) (p : Part) (id : Nat) (f : Req → Req) : State :=
  s.modSh p fun sh => { sh with reqs := modFirst (fun r => r.id == id) f sh.reqs }

/-- Has a request been sent and not completed? -/
def Req.isSent (r : Req) : Bool := r.st == ReqSt.sent || r.st == ReqSt.retryWait || r.st == ReqSt.holdWait

/-- Has the node of a request been found? -/
def Req.translated (r : Req) : Bool :=
  match r.st with
  | .walking => false
  | .faulted _ => false
  | _ => true

/-- The 128-byte lines from `a` to `a + n`. -/
def linesOf (a n : Nat) : List Nat := (List.range ((a + max n 1 - 1) / 128 + 1 - a / 128)).map fun i => a / 128 + i

/-- Do two ranges share a 128-byte line? -/
def shareLine (a n b m : Nat) : Bool := decide (a / 128 ≤ (b + max m 1 - 1) / 128 ∧ b / 128 ≤ (a + max n 1 - 1) / 128)

/-- Do two requests touch a line of one node? -/
def Req.meets (r q : Req) : Bool := r.pkt.to_ == q.pkt.to_ && shareLine r.pkt.off r.pkt.len q.pkt.off q.pkt.len

/-- The bytes that a request asks for; a load that the near cache has made a fetch of whole lines keeps them beside (R66). -/
def Req.asked (r : Req) : Nat := if r.fillLen = 0 then r.pkt.len else r.fillLen

/-- R52: do two requests of one job touch a line of virtual fabric addresses? -/
def Req.meetsVfa (r q : Req) : Bool := r.pkt.job == q.pkt.job && shareLine r.vfa r.asked q.vfa q.asked

/-- R52: must a request that touches a line of `q` wait for `q`: a write, or a load of the same agent? -/
def Req.ordersAfter (r q : Req) : Bool :=
  q.pkt.isWrite || (q.pkt.typ == 0x01 && q.owner == Owner.agent && r.owner == Owner.agent && q.agent == r.agent)

/-- The job slot that a Job ID holds. -/
def Endpoint.slotOf (e : Endpoint) (job : Nat) : Option (Nat × Slot) := e.slots.find? fun x => x.2.job == job && x.2.state != 0

/-- Has the slot of a request been revoked? -/
def State.slotRevoked (s : State) (slot job : Nat) : Bool :=
  match tabGet s.ep.slots slot with
  | some x => x.job == job && x.state == 3
  | none => false

/-! ### The near cache (R65 to R67, R115) -/

/-- The line of a slot, in its present cache generation. -/
def State.ncFind (s : State) (slot line : Nat) : Option CacheLine :=
  match tabGet s.ep.slots slot with
  | some x => s.ep.cache.find? fun c => c.slot == slot && c.gen == x.cacheGen && c.line == line
  | none => none

/-- Allocate a line: the least recently used of its set of 16 is replaced. -/
def State.ncFill (s : State) (slot line : Nat) (data : List Byte) : State :=
  match tabGet s.ep.slots slot with
  | none => s
  | some x =>
    s.modEp fun e =>
      let others := e.cache.filter fun c => !(c.slot == slot && c.line == line)
      let set := others.filter fun c => c.line % 8192 == line % 8192
      let oldest := set.foldl (fun (b : Option CacheLine) c => match b with
        | none => some c
        | some d => if c.used < d.used then some c else some d) none
      let kept := if set.length < 16 then others else match oldest with
        | some o => delFirst (fun c => c == o) others
        | none => others
      { e with cache := kept ++ [{ slot := slot, gen := x.cacheGen, line := line, data := data, used := e.useClock }],
               useClock := e.useClock + 1 }

/-- A fetch in flight that meets a later own write fills no line: its data may be older than the write. -/
def State.ncCancel (s : State) (fpa n : Nat) : State :=
  let f := fun (q : Req) =>
    if q.fillLen ≠ 0 ∧ shareLine (q.pkt.dst * 2 ^ 46 + q.pkt.off) q.pkt.len fpa n then { q with noCache := true } else q
  s.modSh .ep fun sh => { sh with reqs := sh.reqs.map f }

/-- R66: the endpoint's own store updates the bytes of any line it hits. -/
def State.ncWrite (s : State) (fpa : Nat) (data : List Byte) : State :=
  (s.ncCancel fpa data.length).modEp fun e => { e with cache := e.cache.map fun c =>
    { c with data := (List.range c.data.length).map fun i =>
        let a := c.line * 128 + i
        if fpa ≤ a ∧ a < fpa + data.length then data.getD (a - fpa) 0#8 else c.data.getD i 0#8 } }

/-- R66: an atomic or a copy write invalidates the lines that it touches. -/
def State.ncDrop (s : State) (fpa n : Nat) : State :=
  (s.ncCancel fpa n).modEp fun e => { e with cache := e.cache.filter fun c => !(linesOf fpa n).contains c.line }

/-- R67: invalidate every line of a job slot: its cache generation rises. -/
def State.ncInvalidate (s : State) (slot : Nat) : State :=
  s.modEp fun e => { e with slots := tabMod e.slots slot fun x => { x with cacheGen := x.cacheGen + 1 } }

/-! ### Completion -/

/-- A request leaves the table without an end of its own (the collective that it served has ended); its window returns. -/
def State.dropReq (s : State) (p : Part) (id : Nat) : State :=
  match (s.sh p).req id with
  | none => s
  | some r =>
    s.modSh p fun sh =>
      let sh := { sh with reqs := delFirst (fun q => q.id == id) sh.reqs }
      if r.sends = 0 then sh
      else let q := sh.pairOf r.pkt.to_; sh.setPair { q with charged := q.charged - chargeOf r.pkt }

/-- R59: remember a write to the own node that was refused: a later flagged store of its job there is poisoned by it. -/
def State.noteOwn (s : State) (r : Req) (code : Nat) : State :=
  if r.translated && r.pkt.isWrite && code != cDone && r.pkt.dst == s.node .ep && r.pkt.dstRack == s.rack .ep then
    s.modEp fun e => { e with ownRefused := e.ownRefused ++ [(r.order, r.pkt.job)] }
  else s

/-- R61: remember in the requests that wait for `r` how it ended. DESIGN CHOICE (log entry 160): a write that ends before it is
translated counts as one to another destination. -/
def State.noteEnd (s : State) (p : Part) (r : Req) (code : Nat) : State :=
  let d := if r.translated then r.pkt.to_ else 2 ^ 20
  let s := if p = Part.ep then s.noteOwn r code else s
  s.modSh p fun sh =>
    { sh with reqs := sh.reqs.map fun q =>
        if q.waits.contains r.id && r.pkt.isWrite && code != 0 then { q with bad := q.bad ++ [(d, code)] } else q }

/-- What a completion means for the copy tile, collective, result or push that the request belongs to. -/
def State.ownerDone (s : State) (r : Req) (code : Nat) (data : List Byte) : State :=
  match r.owner with
  | .agent => s.endTag r.link r.agent r.tag r.pkt.job code data
  | .tile t =>
    let f := fun (x : CTile) =>
      { x with parts := x.parts - 1, worst := worse x.worst code,
               buf := if r.pkt.typ = 0x05 ∧ code = 0 then x.buf ++ [(r.fillOff, data)] else x.buf }
    s.modEp fun e => { e with tiles := modFirst (fun x => x.id == t) f e.tiles }
  | .notify c =>
    let f := fun (x : Copy) => { x with worst := code, state := 3 }
    s.modEp fun e => { e with copies := modFirst (fun x => x.id == c) f e.copies }
  | .coll c =>
    let f := fun (x : EpColl) =>
      let probe := r.pkt.phase == 6
      { x with open_ := x.open_ - 1, worst := worse x.worst code, late := x.late + ofBool (r.pkt.phase == 0 && code == 5),
               seen := if probe && code == 0 then x.seen ++ [beNat (data.take 8)] else x.seen,
               probes := if probe then x.probes.filter fun q => q != r.pkt.plane else x.probes }
    s.modEp fun e => { e with colls := modFirst (fun x => x.id == c) f e.colls }
  | .marker => s
  | .result g cs pc rank =>
    let got := fun (l : List Delivery) => l.map fun d =>
      if d.rank = rank then { d with state := if code = cDone then 2 else 3 } else d
    let fs := fun (sl : SeqSlot) =>
      if sl.cseq ≠ cs then sl
      else { sl with pieces := tabMod sl.pieces pc fun x => { x with deliver := got x.deliver } }
    s.modMod fun m => { m with groups := tabMod m.groups g fun gr => { gr with slots := tabMod gr.slots (cs % 4) fs } }
  | .forward prog =>
    let f := fun (g : InProg) => { g with result := some (code, data) }
    s.modSh .mod fun sh => { sh with recv := { sh.recv with inprog := modFirst (fun g => g.id == prog) f sh.recv.inprog } }
  | .restore f =>
    s.modMod fun m =>
      let pu := m.push
      let st := f / 16
      let left := tabGetD pu.open_ st 0 - 1
      let bad := if code = 0 then pu.bad else setIns pu.bad st
      let ended := decide (left = 0)
      { m with push := { pu with open_ := tabPut pu.open_ st left 0, bad := bad,
                                 pushed := pu.pushed + ofBool (ended && !bad.contains st),
                                 failed := pu.failed + ofBool (ended && bad.contains st) } }

/-- R86, R91, R96: a request completes with a code and data: its window is returned, its end is counted, an acquire
invalidates (R64), and its owner hears of it. A slot that is revoked makes it Torn. -/
def State.endReq (s : State) (p : Part) (id code : Nat) (data : List Byte) : State :=
  match (s.sh p).req id with
  | none => s
  | some r =>
    let torn := p == Part.ep && s.slotRevoked r.slot r.pkt.job
    let code := if torn then cTorn else code
    let data := if code = cDone then data else []
    let s := s.modSh p fun sh =>
      let sh := { sh with reqs := delFirst (fun q => q.id == id) sh.reqs }
      if r.sends = 0 then sh
      else let q := sh.pairOf r.pkt.to_; sh.setPair { q with charged := q.charged - chargeOf r.pkt }
    let s := s.noteEnd p r code
    let s := match p with
      | .ep =>
        let s := if code = cTorn then s.epCount 10 else s
        let pos := if code = cDone then 2 else if code = cDenied then 3 else if code = cTorn then 4
          else if code = cPoison then 5 else 10
        if pos < 10 then s.partCount .ep r.pkt.job pos 1 else s
      | .mod => s
    let s := if p = Part.ep then s.traceSource r else s
    let s := if r.acq = Scope.node ∨ r.acq = Scope.rack then s.ncInvalidate r.slot else s
    s.ownerDone r code data

/-- R66: the bytes of a line of a load: those that the near cache held, or those that the fetch has brought. -/
def Req.lineBytes (r : Req) (data : List Byte) (line : Nat) : List Byte :=
  match r.near.find? fun x => x.1 == line with
  | some x => x.2
  | none => sliceBytes data ((line - (r.pkt.dst * 2 ^ 46 + r.pkt.off) / 128) * 128) 128

/-- R87, R66: the response of a load or a near-cache fetch: fill the lines that were missing and take the bytes asked for. -/
def State.fillAndTake (s : State) (r : Req) (data : List Byte) : State × List Byte :=
  if r.fillLen = 0 ∨ r.owner ≠ Owner.agent then (s, data)
  else
    let fpa := r.pkt.dst * 2 ^ 46 + r.fillOff
    let lines := linesOf fpa r.fillLen
    let fresh : Bool := match tabGet s.ep.slots r.slot with
      | some x => x.cacheGen == r.cgen && x.state != 3
      | none => false
    let s := if s.reg .ep 0xD40001 == 1 && fresh && !r.noCache then
        (lines.filter fun l => !(r.near.any fun x => x.1 == l)).foldl (fun s l => s.ncFill r.slot l (r.lineBytes data l)) s
      else s
    (s, sliceBytes (lines.flatMap (r.lineBytes data)) (fpa % 128) r.fillLen)

/-! ### Admission of own and arriving requests (R44) -/

/-- R43, R44 check 7: the entry of a Job ID that covers `len` bytes at `off`. -/
def admFind (adm : Tab AdmEntry) (job off len : Nat) : Option AdmEntry :=
  (adm.find? fun x =>
    let e := x.2
    e.v && e.job == job && decide (e.offBase * 65536 ≤ off ∧ off + max len 1 ≤ (e.offBase + e.len + 1) * 65536)).map (·.2)

/-- R34: does an admission entry carry a right? -/
def AdmEntry.has (e : AdmEntry) (want : Nat) : Bool :=
  match want with
  | 0 => e.r
  | 1 => e.w
  | 2 => e.a
  | _ => e.c

/-- R44: local address = Local base + (offset − Offset base). -/
def AdmEntry.local_ (e : AdmEntry) (off : Nat) : Nat := e.localBase * 65536 + (off - e.offBase * 65536)

/-- R46: count a denial per Job ID and write it to the ring of 64, the most recent first. -/
def State.deny (s : State) (p : Part) (job src off typ reason : Nat) : State :=
  let d : Denial := { job := job, src := src, off := off, typ := typ, reason := reason, time := s.rackNs p % 2 ^ 44 }
  let s := s.modSh p fun sh => { sh with denials := (d :: sh.denials).take 64 }
  let s := match p with
    | .ep => s.modEp fun e => { e with denialCount := tabSet e.denialCount job (tabGetD e.denialCount job 0 + 1) }
    | .mod => s.modMod fun m => { m with denialCount := tabSet m.denialCount job (tabGetD m.denialCount job 0 + 1) }
  s.partCount p job 3 1

/-- R26: admit an access to the own node: checks 6 to 8 of R44. A local address, or the code of the failure. -/
def State.admitOwn (s : State) (job off len want typ : Nat) : State × (Nat ⊕ Nat) :=
  match s.ep.slotOf job with
  | none => (s.deny .ep job (s.node .ep) off typ 0, .inr cDenied)
  | some (_, sl) =>
    if sl.state = 3 then (s.epCount 10, .inr cTorn)
    else match admFind s.ep.sh.adm job off len with
      | none => (s.deny .ep job (s.node .ep) off typ 1, .inr cDenied)
      | some e => if e.has want then (s, .inl (e.local_ off)) else (s.deny .ep job (s.node .ep) off typ 2, .inr cDenied)

/-! ### Sending -/

/-- R54, R57: is a request sent as a flagged store? -/
def Req.flagged (r : Req) : Bool :=
  r.pkt.typ == 0x02 && (r.pkt.f || r.forced || r.rel == Scope.node || r.rel == Scope.rack)

/-- The pair of a request's destination as its next sending finds it: one that starts again does so here (R90, R412). -/
def State.pairNow (s : State) (p : Part) (r : Req) : Pair :=
  let q := (s.sh p).pairOf r.pkt.to_
  { q with start := q.start || q.restart }

/-- R73: does a request count in an interval of its pair? -/
def State.counted (s : State) (p : Part) (r : Req) : Bool := r.pkt.isWrite && r.pkt.dstRack == s.rack p

/-- R56, R57, R88: the packet of a request at its first sending on a plane: the next sequence and interval of its pair. -/
def State.firstPacket (s : State) (p : Part) (r : Req) (plane : Nat) : Packet :=
  let q := s.pairNow p r
  let interval := if q.start then 0 else q.interval
  let writes := if q.start then 0 else q.writes
  let k := { r.pkt with plane := plane, src := s.node p, srcRack := s.rack p, s := q.start, seq := q.next, f := r.flagged,
                        interval := if s.counted p r then interval % 4 else 0, pred := if r.flagged then writes else 0 }
  { k with epoch := s.headerEpoch p k }

/-- R56, R57, R88, R91: the pair after that sending: its next sequence, its interval and writes, its window charged. -/
def State.pairNext (s : State) (p : Part) (r : Req) : Pair :=
  let q := s.pairNow p r
  let interval := if q.start then 0 else q.interval
  let writes := if q.start then 0 else q.writes
  { q with next := (q.next + 1) % 2 ^ 32, start := false, restart := false,
           lastStart := if q.start then q.next else q.lastStart,
           interval := if r.flagged then interval + 1 else interval,
           writes := if r.flagged then 0 else if s.counted p r then writes + 1 else writes,
           charged := q.charged + chargeOf r.pkt }

/-- R93, R94: the request as its first sending leaves it: its timers run under the settings in force. -/
def State.asSent (s : State) (p : Part) (k : Packet) (sl : Seal) (r : Req) : Req :=
  let us := fun (key : Nat) => s.reg p key * 1000
  let ep := p == Part.ep
  { r with pkt := k, sl := sl, st := .sent, first := s.ns, last := s.ns, sends := 1,
           timeout := if ep then us 0xD50004 else 1000000, reLimit := if ep then s.reg p 0xD50005 else 8,
           retryLimit := if ep then s.reg p 0xD50006 else 16, life := if ep then us 0xD50007 else 10000000,
           due := s.ns + (if ep then us 0xD50004 else 1000000) }

/-- First sending of a request on a plane (R56, R88, R91, R313), counted for its job. -/
def State.sendReq (s : State) (p : Part) (r : Req) (plane tile port : Nat) : State :=
  let k := s.firstPacket p r plane
  let sl := s.sealOf p k 0
  let t := (s.modSh p fun sh => sh.setPair (s.pairNext p r)).modReq p r.id (s.asSent p k sl)
  let t := match p with
    | .ep => (t.partCount p k.job 0 1).partCount p k.job 1 k.payload.length
    | .mod => t
  t.sendPacket p tile port k sl

/-- R62, R74: send a request again on a plane: every header field but Plane, and the seal, stay. -/
def State.resend (s : State) (p : Part) (r : Req) (plane tile port : Nat) : State :=
  let k := { r.pkt with plane := plane }
  let s := s.modReq p r.id fun r => { r with pkt := k, st := .sent, last := s.ns, sends := r.sends + 1,
                                             due := s.ns + r.timeout }
  s.sendPacket p tile port k r.sl

/-! ### Waiting (R52, R55, R57, R61, R63, R88, R91, R412) -/

/-- R52: an incomplete request that r must wait for: on r's line and translated before it, or untranslated, accepted before it and
on r's VFA line. -/
def Req.blocksLine (q r : Req) : Bool :=
  r.ordersAfter q && !(isColl r.pkt.typ) &&
  (if q.translated then decide (q.trSeq < r.trSeq) && q.meets r else decide (q.order < r.order) && q.meetsVfa r)

/-- R52: the requests that follow a request that translates now: it takes the next place in the order of translations, and
so do the translated ones that wait behind it on a VFA line, in their order of acceptance. -/
def placeIn (r : Req) (next : Nat) (l : List Req) : Nat × List Req :=
  let t := l.foldl (fun (acc : (Nat × List Req) × List Req) q =>
    if q.id = r.id then ((acc.1.1 + 1, acc.1.2 ++ [{ q with trSeq := acc.1.1 }]), acc.2 ++ [q])
    else if q.st == ReqSt.waiting && decide (r.order < q.order) && acc.2.any fun x => q.ordersAfter x && x.meetsVfa q then
      ((acc.1.1 + 1, acc.1.2 ++ [{ q with trSeq := acc.1.1 }]), acc.2 ++ [q])
    else ((acc.1.1, acc.1.2 ++ [q]), acc.2)) ((next, []), [])
  t.1

/-- R52: a request takes its place in the order of translations. -/
def State.placeReq (s : State) (id : Nat) : State :=
  match s.ep.sh.req id with
  | none => s
  | some r =>
    let t := placeIn r s.ep.nextTr s.ep.sh.reqs
    s.modEp fun e => { e with nextTr := t.1, sh := { e.sh with reqs := t.2 } }

/-- R55, R63, R64: is a request held by a fence or an acquire of its agent? -/
def State.heldByAgent (s : State) (r : Req) : Bool :=
  r.owner == Owner.agent &&
  (s.ep.fences.any (fun f => f.agent == r.agent && decide (f.order < r.order)) ||
   s.ep.sh.reqs.any (fun q => q.owner == Owner.agent && q.agent == r.agent && decide (q.order < r.order) && q.acq != Scope.none))

/-- R57: room for another unresolved flagged store to the destination: none from two intervals before is open. -/
def Shared.flagRoom (sh : Shared) (dst interval : Nat) : Bool :=
  !(sh.reqs.any fun q => q.isSent && q.pkt.f && q.pkt.to_ == dst && q.pkt.interval == (interval + 2) % 4)

/-- R88: would the next sequence of the pair be within 4,096 of its oldest incomplete request? -/
def Shared.spanRoom (sh : Shared) (dst next : Nat) : Bool :=
  !(sh.reqs.any fun q => q.isSent && q.pkt.to_ == dst && decide (4096 ≤ serialDiff next q.pkt.seq))

/-- R57: must a close marker go before a request: an atomic or bulk write that meets an interval of 65,535 writes? -/
def State.needsMarker (s : State) (r : Req) : Bool :=
  let q := s.ep.sh.pairOf r.pkt.to_
  r.pkt.isWrite && r.pkt.typ != 0x02 && r.pkt.dstRack == s.rack .ep && q.writes == 65535 && !q.start && !q.restart

/-- R412: may the pair send a new request: while it waits to start again, every incomplete one must end first. -/
def Shared.pairReady (sh : Shared) (dst : Nat) : Bool :=
  !((sh.pairOf dst).restart && sh.reqs.any fun x => x.isSent && x.pkt.to_ == dst)

/-- R91: room in the window of the pair, in order with the other requests that wait for it. -/
def State.windowRoom (s : State) (r : Req) : Bool :=
  let q := s.ep.sh.pairOf r.pkt.to_
  let w := s.reg .ep 0xD50001
  decide (q.charged + chargeOf r.pkt + (if s.needsMarker r then 64 else 0) ≤ w) &&
  !(s.ep.sh.reqs.any fun x => x.st == ReqSt.waiting && x.pkt.to_ == r.pkt.to_ && decide (x.order < r.order) &&
      decide (w < q.charged + chargeOf x.pkt))

/-- R61: the earlier requests that a Rack release waits for are gone. -/
def State.rackReady (s : State) (r : Req) : Bool :=
  !(s.ep.sh.reqs.any fun q => r.waits.contains q.id &&
      (if q.pkt.isWrite then !q.translated || q.pkt.to_ != r.pkt.to_ else true))

/-- R61: the code that ends a Rack release unsent: the first in precedence of the writes to other destinations. -/
def Req.badCode (r : Req) : Nat :=
  (r.bad.filter fun b => b.1 != r.pkt.to_).foldl (fun c b => worse c b.2) 0

/-- R68, R71: no write accepted before a flagged store waits to be sent to its destination: an unsent write there would stand in
no Predecessor count. DEDUCED (log entry 161): a write of the same job that is not yet translated may go there. -/
def State.releaseReady (s : State) (r : Req) : Bool :=
  !(r.flagged && r.owner != Owner.marker && s.ep.sh.reqs.any fun q => decide (q.order < r.order) && q.pkt.isWrite && !q.isSent &&
      q.st != ReqSt.atHome && (if q.translated then q.pkt.to_ == r.pkt.to_ else q.pkt.job == r.pkt.job))

/-- R88, R104: the requests that hold one of the endpoint's 16,384 places: those of agents from their acceptance, the others
from their sending. -/
def State.placesUsed (s : State) : Nat :=
  s.ep.tags.length + (s.ep.sh.reqs.filter fun q => q.owner != Owner.agent && (q.isSent || q.st == ReqSt.atHome)).length

/-- R91, R104: is there a place for a request? One of an agent holds its place already. -/
def State.placeFor (s : State) (r : Req) : Bool := r.owner == Owner.agent || decide (s.placesUsed < 16384)

/-- A flagged store to the own node waits for the endpoint's earlier writes there (the order that R58 gives elsewhere). -/
def State.ownReady (s : State) (r : Req) : Bool :=
  !(r.flagged && s.ep.sh.reqs.any fun q => decide (q.order < r.order) && q.pkt.isWrite && q.translated && q.pkt.to_ == r.pkt.to_)

/-- May a translated request leave the endpoint now? -/
def State.maySend (s : State) (r : Req) : Bool :=
  let sh := s.ep.sh
  let q := sh.pairOf r.pkt.to_
  !(sh.reqs.any fun x => x.id != r.id && x.blocksLine r) &&
  (!(r.rel == Scope.rack) || s.rackReady r) && s.releaseReady r && s.placeFor r &&
  (if r.pkt.dst = s.node .ep ∧ r.pkt.dstRack = s.rack .ep then s.ownReady r
   else
     (!(r.flagged || (r.pkt.isWrite && q.writes == 65535)) || sh.flagRoom r.pkt.to_ (if q.start || q.restart then 0 else q.interval)) &&
     sh.spanRoom r.pkt.to_ q.next && (!s.needsMarker r || sh.spanRoom r.pkt.to_ (q.next + 1)) && s.windowRoom r &&
     sh.pairReady r.pkt.to_ &&
     (s.planeFor r.pkt.dst r.pkt.off).isSome)

/-- R59: was a write of its job to the own node refused since the flagged store before this one? -/
def State.ownPoisoned (s : State) (r : Req) : Bool :=
  r.flagged && s.ep.ownRefused.any fun b => decide (b.1 < r.order) && b.2 == r.pkt.job

/-- R59: a flagged store to the own node closes the interval of the writes before it. -/
def State.ownClose (s : State) (r : Req) : State :=
  if r.flagged then s.modEp fun e => { e with ownRefused := e.ownRefused.filter fun b => decide (r.order ≤ b.1) } else s

/-- Serve a request to the own node: admission, then a memory message (R26, R106). A flagged store that follows a refused
write of its job ends with Poison (R59). -/
def State.serveOwn (s : State) (r : Req) : State :=
  let bad := s.ownPoisoned r
  let s := s.ownClose r
  if bad then (s.epCount 7).endReq .ep r.id cPoison []
  else
    let a := s.admitOwn r.pkt.job r.pkt.off r.pkt.len (rightOf r.pkt.typ) r.pkt.typ
    match a.2 with
    | .inr code => a.1.endReq .ep r.id code []
    | .inl loc =>
      let s := a.1.modReq .ep r.id fun r => { r with st := .atHome }
      let kind := if r.pkt.typ = 0x01 ∨ r.pkt.typ = 0x05 then 0x28 else if r.pkt.typ = 0x03 then 0x2A else 0x29
      let purpose := match r.owner with
        | .tile _ => 2
        | .coll _ => 4
        | _ => 0
      s.sendMem (.own r.id) kind purpose loc r.pkt.len r.pkt.aop r.pkt.fmt r.pkt.payload

/-- R57: the close marker that goes before an atomic or bulk write when 65,535 writes fill the interval. -/
def State.sendMarker (s : State) (r : Req) (plane : Nat) : State :=
  let id := s.ep.sh.nextReq
  let m : Req := { r with id := id, owner := .marker, rel := .node, acq := .none, forced := true, waits := [], bad := [],
                          pkt := { r.pkt with typ := 0x02, f := true, len := 0, aop := 0, fmt := 0, payload := [] },
                          sends := 0, retrans := 0, retries := 0 }
  let s := s.modSh .ep fun sh => { sh with reqs := sh.reqs ++ [m], nextReq := id + 1 }
  s.sendReq .ep m plane 0 plane

/-- R66: an atomic, or a copy-engine write, invalidates the near-cache lines that it touches when it is issued. -/
def State.issueDrop (s : State) (r : Req) : State :=
  if r.pkt.typ = 0x03 ∨ r.pkt.typ = 0x04 then s.ncDrop (r.pkt.dst * 2 ^ 46 + r.pkt.off) r.pkt.len else s

/-- Issue a translated request if nothing holds it: to the own node, or on its plane (R22). -/
def State.issue (s : State) (id : Nat) : State :=
  match s.ep.sh.req id with
  | none => s
  | some r =>
    if r.st ≠ .waiting ∨ s.heldByAgent r ∨ ¬ s.maySend r then s
    else if r.rel = Scope.rack ∧ r.badCode ≠ 0 then s.endReq .ep id r.badCode []
    else if r.pkt.dst = s.node .ep ∧ r.pkt.dstRack = s.rack .ep then s.serveOwn r
    else match s.planeFor r.pkt.dst r.pkt.off with
      | none => s
      | some pl =>
        let q := s.ep.sh.pairOf r.pkt.to_
        let full := r.pkt.isWrite && r.pkt.dstRack == s.rack .ep && q.writes == 65535 && !q.start && !q.restart && !r.flagged
        let s := s.issueDrop r
        if full && r.pkt.typ == 0x02 then s.sendReq .ep { r with forced := true } pl 0 pl
        else if full then (s.sendMarker r pl).sendReq .ep r pl 0 pl
        else s.sendReq .ep r pl 0 pl

/-- R65, R66: a load that the near cache may serve or fill. -/
def State.cacheable (s : State) (r : Req) : Bool :=
  r.pkt.typ == 0x01 && r.owner == Owner.agent && !r.pkt.vol && !r.noCache && s.reg .ep 0xD40001 == 1 &&
  !(r.pkt.dst == s.node .ep)

/-- R115: what ECC finds in a line of a slot that hits: 1 corrected and counted, 2 the line is invalidated. -/
def State.ncEcc (s : State) (slot line ecc : Nat) : State :=
  if ecc = 1 then s.epCount 23
  else if ecc = 2 then
    (s.modEp fun e => { e with cache := e.cache.filter fun c => !(c.slot == slot && c.line == line) }).epCount 24
  else s

/-- R115: the lines of a load are looked up, each with what its ECC finds. -/
def State.ncLook (s : State) (slot : Nat) (lines ecc : List Nat) : State :=
  (lines.zipIdx).foldl (fun s x => if (s.ncFind slot x.1).isSome then s.ncEcc slot x.1 (ecc.getD x.2 0) else s) s

/-- R66: the lines of a load that the near cache holds, with their bytes. -/
def State.ncHits (s : State) (slot : Nat) (lines : List Nat) : List (Nat × List Byte) :=
  lines.filterMap fun l => (s.ncFind slot l).map fun c => (l, c.data)

/-- R66: a load whose lines all hit completes from them. -/
def State.ncServe (s : State) (r : Req) (hits : List (Nat × List Byte)) : State :=
  let fpa := r.pkt.dst * 2 ^ 46 + r.pkt.off
  let s := s.modEp fun e =>
    { e with cache := e.cache.map fun c => if c.slot = r.slot ∧ hits.any (fun h => h.1 == c.line) then
                                              { c with used := e.useClock } else c,
             useClock := e.useClock + 1 }
  (s.epCount 39).endReq .ep r.id cDone (sliceBytes (hits.flatMap fun h => h.2) (fpa % 128) r.pkt.len)

/-- R66: a load that misses fetches the lines that are missing, from the first to the last of them, as one load; it keeps the
bytes of the lines that hit. -/
def State.ncFetch (s : State) (r : Req) (hits : List (Nat × List Byte)) (missing : List Nat) : State :=
  let g := match tabGet s.ep.slots r.slot with
    | some x => x.cacheGen
    | none => 0
  let lo := missing.headD 0
  let hi := missing.getLastD 0
  let s := (s.epCount 40).modReq .ep r.id fun r =>
    { r with cgen := g, fillOff := r.pkt.off, fillLen := r.pkt.len, near := hits,
             pkt := { r.pkt with off := lo * 128 % 2 ^ 46, len := (hi + 1 - lo) * 128 } }
  s.issue r.id

/-- R52: does a load wait, without looking up the near cache, for an earlier untranslated write of its job to its VFA line? -/
def State.waitsVfa (s : State) (r : Req) : Bool :=
  s.ep.sh.reqs.any fun q => decide (q.order < r.order) && q.pkt.isWrite && !q.translated && q.meetsVfa r

/-- Issue a load or another request; a cacheable load looks the near cache up first: a hit completes it, a miss makes it a
load of the whole lines that it misses (R66). -/
def State.tryIssue (s : State) (id : Nat) : State :=
  match s.ep.sh.req id with
  | none => s
  | some r =>
    if r.st ≠ .waiting ∨ s.heldByAgent r then s
    else if s.cacheable r ∧ r.fillLen = 0 then
      if s.waitsVfa r then s
      else
        let lines := linesOf (r.pkt.dst * 2 ^ 46 + r.pkt.off) r.pkt.len
        let s := s.ncLook r.slot lines r.ecc
        let hits := s.ncHits r.slot lines
        let missing := lines.filter fun l => !(hits.any fun h => h.1 == l)
        if missing.isEmpty then s.ncServe r hits else s.ncFetch r hits missing
    else s.issue id

/-- A request that waits is tried again; `ecc`, where it names anything, is what ECC finds now in the lines of a load. -/
def State.tryIssueEcc (s : State) (id : Nat) (ecc : List Nat) : State :=
  (if ecc.isEmpty then s else s.modReq .ep id fun r => { r with ecc := ecc }).tryIssue id

end Sys2Proof.Machine
end

