-- ==== Sys2Proof/Machine/Translate.lean ====
section
/-! DEFINITION. Translation: table entries (R29 to R31), the ATU and walk cache (R32), walks, rights (R34), fault records
(R38 to R41) and what a translation means for the request, tile, list or collective that needs it. -/

namespace Sys2Proof.Machine

/-! ### Table entries -/

/-- The index into the table of a level, from a granule (VFA [55:16]). -/
def walkIndex (level granule : Nat) : Nat :=
  match level with
  | 0 => bits granule 39 32
  | 1 => bits granule 31 23
  | 2 => bits granule 22 14
  | 3 => bits granule 13 5
  | _ => bits granule 4 0

/-- The part of a granule that names the table of a level. -/
def walkTag (level granule : Nat) : Nat :=
  match level with
  | 0 => 0
  | 1 => granule / 2 ^ 32
  | 2 => granule / 2 ^ 23
  | 3 => granule / 2 ^ 14
  | _ => granule / 2 ^ 5

/-- Bytes of a table of a level. -/
def tableBytes (level : Nat) : Nat := if level = 0 then 4096 else if level = 4 then 512 else 8192

/-- The granules of a page whose leaf stands at a level: 1 GiB, 2 MiB, 64 KiB. -/
def pageGranules (level : Nat) : Nat := if level = 2 then 2 ^ 14 else if level = 3 then 2 ^ 5 else 1

/-- R29 to R31: what a 16-byte entry read at a level means: the next table, or the end of the walk. -/
def tableEntry (slot level granule w localSize : Nat) : Nat ⊕ WalkEnd :=
  match bits w 127 126 with
  | 0 => .inr .unmapped
  | 1 =>
    let next := bits w 42 0 * 512
    if bits w 125 43 = 0 ∧ level < 4 ∧ next + tableBytes (level + 1) ≤ localSize then .inl next else .inr .tableError
  | 2 =>
    let page := bits w 79 40
    if 2 ≤ level ∧ bits w 125 124 = 4 - level ∧ bits w 117 80 = 0 ∧ bits w 79 70 ≤ 527 ∧ page % pageGranules level = 0 then
      .inr (.leaf { slot := slot, level := level, vpn := granule / pageGranules level * pageGranules level, page := page,
                    r := bit w 123, w := bit w 122, a := bit w 121, c := bit w 120, vol := bit w 119,
                    noCache := bit w 118 })
    else .inr .tableError
  | _ => .inr .tableError

/-- R34: the rights of a leaf. -/
def AtuEntry.has (e : AtuEntry) (want : Nat) : Bool :=
  match want with
  | 0 => e.r
  | 1 => e.w
  | 2 => e.a
  | _ => e.c

/-- R32: look a granule of a slot up; the three page sizes are compared at once. -/
def Endpoint.atuHit (e : Endpoint) (slot granule : Nat) : Option AtuEntry :=
  e.atu.find? fun a => a.slot == slot && a.vpn == granule / pageGranules a.level * pageGranules a.level

/-- The fabric physical address that a leaf gives a VFA: node × 2^46 + offset. -/
def AtuEntry.fpa (a : AtuEntry) (vfa : Nat) : Nat := a.page * 65536 + (vfa - a.vpn * 65536)

/-- R32: install a leaf; when the ATU is full, the entry replaced is the endpoint's own choice. -/
def State.install (s : State) (a : AtuEntry) : State :=
  let e := s.ep
  if e.atu.any fun b => b.slot == a.slot && b.level == a.level && b.vpn == a.vpn then
    s.modEp fun e => { e with atu := e.atu.map fun b =>
                        if b.slot = a.slot ∧ b.level = a.level ∧ b.vpn = a.vpn then a else b }
  else if e.atu.length < 32768 then s.modEp fun e => { e with atu := e.atu ++ [a] }
  else
    let i := Config.replaceChoice s.draws % e.atu.length
    (s.modEp fun e => { e with atu := e.atu.eraseIdx i ++ [a] }).drawn

/-- R32: put a pointer into the walk cache. -/
def State.installPtr (s : State) (w : WalkPtr) : State :=
  let l := s.ep.walkCache.filter fun v => !(v.slot == w.slot && v.level == w.level && v.vpn == w.vpn)
  if l.length < 1024 then s.modEp fun e => { e with walkCache := l ++ [w] }
  else
    let i := Config.replaceChoice s.draws % l.length
    (s.modEp fun e => { e with walkCache := l.eraseIdx i ++ [w] }).drawn

/-! ### Walks -/

/-- Change a walk. -/
def State.modWalk (s : State) (id : Nat) (f : Walk → Walk) : State :=
  s.modEp fun e => { e with walks := modFirst (fun w => w.id == id) f e.walks }

/-- Read the entry of a table for a walk (R29: one 16-byte read, purpose 1). -/
def State.readEntry (s : State) (id level granule table : Nat) : State :=
  s.sendMem (.walk id) 0x28 1 (table + walkIndex level granule * 16) 16 0 0 []

/-- R32: walk a granule of a slot, from the root or the deepest level found in the walk cache. -/
def State.startWalk (s : State) (slot job granule want : Nat) (who : WalkFor) : State :=
  match tabGet s.ep.slots slot with
  | none => s
  | some x =>
    let ptr := fun (l : Nat) => s.ep.walkCache.find? fun w => w.slot == slot && w.level == l && w.vpn == walkTag l granule
    let best := [4, 3, 2, 1].findSome? ptr
    let lv := match best with
      | some p => (p.level, p.table)
      | none => (0, x.root)
    let id := s.ep.nextWalk
    let w : Walk := { id := id, slot := slot, job := job, granule := granule, level := lv.1, want := want, inv := x.inv,
                      who := who, ended := none }
    let s := s.modEp fun e => { e with walks := e.walks ++ [w], nextWalk := id + 1 }
    s.readEntry id lv.1 granule lv.2

/-- R30, R31: the answer to a walk's read. -/
def State.walkAnswer (s : State) (id code : Nat) (data : List Byte) : State :=
  match s.ep.walks.find? fun w => w.id == id with
  | none => s
  | some w =>
    if code ≠ cDone then (s.epCount 2).modWalk id fun w => { w with ended := some .tableError }
    else match tableEntry w.slot w.level w.granule (leNat data) (s.reg .ep 0xD30002) with
      | .inl next =>
        let fresh := match tabGet s.ep.slots w.slot with
          | some x => x.inv == w.inv && x.job == w.job
          | none => false
        let s := if fresh then s.installPtr { slot := w.slot, level := w.level + 1, vpn := walkTag (w.level + 1) w.granule,
                                              table := next } else s
        (s.modWalk id fun w => { w with level := w.level + 1 }).readEntry id (w.level + 1) w.granule next
      | .inr .tableError => (s.epCount 2).modWalk id fun w => { w with ended := some .tableError }
      | .inr x => s.modWalk id fun w => { w with ended := some x }

/-! ### Ends of waiters -/

/-- The descriptor list of a slot ends with a code: its reserved places are free, its List arm completes (R114). -/
def State.listEnd (s : State) (slot code : Nat) : State :=
  match tabGet s.ep.lists slot with
  | none => s
  | some l =>
    let s := s.modEp fun e => { e with lists := tabDel e.lists slot }
    s.endTag l.link l.agent l.tag l.job code []

/-- R114: the list `i` ends with a code, if its slot still holds it. -/
def State.listEndOf (s : State) (slot i code : Nat) : State :=
  match tabGet s.ep.lists slot with
  | none => s
  | some l => if l.id = i then s.listEnd slot code else s

/-- R111, R114: a copy ends with a code: its agent, or its list, hears of it. -/
def State.copyEnd (s : State) (id code : Nat) : State :=
  match s.ep.copies.find? fun c => c.id == id with
  | none => s
  | some c =>
    let code := if s.slotRevoked c.slot c.job then cTorn else code
    let s := s.modEp fun e => { e with copies := delFirst (fun x => x.id == id) e.copies }
    match c.list with
    | none => s.endTag c.link c.agent c.tag c.job code []
    | some n =>
      let s := s.modEp fun e => { e with lists := tabMod e.lists n fun l =>
                                    { l with left := l.left - 1, worst := worse l.worst code } }
      match tabGet s.ep.lists n with
      | some l => if l.left = 0 ∧ l.state = 3 then s.listEnd n l.worst else s
      | none => s

/-- R174: the collective completion record. -/
def EpColl.record (x : EpColl) (now : Nat) : List Byte :=
  beBytes 32 (x.digest * 2 ^ 192 + x.cseq * 2 ^ 160 + x.recvd % 2 ^ 32 * 2 ^ 128 + min x.short 0xFFFF * 2 ^ 112 +
    min x.late 0xFFFF * 2 ^ 96 + min x.holds 0xFFFF * 2 ^ 80 + now)

/-- R275: the Mown entry of a name goes from one state to another. -/
def Shared.moveEntry (sh : Shared) (job group cctx cseq from_ to_ : Nat) : Shared :=
  { sh with mown := sh.mown.map fun e =>
      if e.2.job = job ∧ e.2.group = group ∧ e.2.cctx = cctx ∧ e.2.cseq = cseq ∧ e.2.state = from_ then
        (e.1, { e.2 with state := to_ }) else e }

/-- R174: a collective completes with a code; with Done or Late its Completion carries the record. -/
def State.collEnd (s : State) (c code : Nat) : State :=
  match s.ep.colls.find? fun x => x.id == c with
  | none => s
  | some x =>
    let s := s.modEp fun e => { e with colls := delFirst (fun y => y.id == c) e.colls }
    let s := (s.partCount .ep x.job 8 1).partCount .ep x.job 9 x.late
    let s := s.modSh .ep fun sh => sh.moveEntry x.job x.group x.cctx x.cseq 3 4
    s.endTag x.link x.agent x.tag x.job code (if code = cDone ∨ code = cLate then x.record (s.rackNs .ep) else [])

/-- A waiter ends with a code: a request completes, a whole tile or collective ends with it (R42, R160), a list ends. DESIGN CHOICE
(log entry 162): a tile that has ended stays on the waiting lists of its other records, and a walk still out for it may open a
record. -/
def State.failWho (s : State) (who : WalkFor) (code : Nat) : State :=
  match who with
  | .req id => s.endReq .ep id code []
  | .record _ => s
  | .tile t =>
    let f := fun (x : CTile) => { x with state := 3, parts := 0, todo := [], worst := worse x.worst code }
    s.modEp fun e => { e with tiles := modFirst (fun x => x.id == t) f e.tiles }
  | .coll c => s.collEnd c code
  | .list n i => s.listEndOf n i code

/-! ### Fault records (R38 to R41) -/

/-- R39: the record as the notice and the Directory carry it. -/
def FaultRec.word (f : FaultRec) (index : Nat) : Nat :=
  let want := fun (k : Nat) => ofBool (f.waiters.any fun w => w.want == k)
  f.job * 2 ^ 112 + f.granule * 2 ^ 72 + f.kind * 2 ^ 68 + want 0 * 2 ^ 67 + want 1 * 2 ^ 66 + want 2 * 2 ^ 65 +
  want 3 * 2 ^ 64 + index * 2 ^ 56 + f.waiters.length * 2 ^ 40 + f.state * 2 ^ 32 + f.first / 2 ^ 10 % 2 ^ 32

/-- R108: the fault notice of a record. -/
def State.faultNotice (s : State) (index : Nat) (f : FaultRec) : State :=
  s.sendComp 8 { Eri.zero with kind := 0x21, job := f.job, body := beBytes 16 (f.word index) }

/-- Mark a request as waiting on a record. -/
def State.markFault (s : State) (who : WalkFor) (rec : Nat) : State :=
  match who with
  | .req id => s.modReq .ep id fun r => { r with st := .faulted rec }
  | .tile t =>
    let f := fun (x : CTile) => { x with state := 1 }
    let held := (s.ep.tiles.find? fun x => x.id == t).map (·.engine)
    let s := s.modEp fun e => { e with tiles := modFirst (fun x => x.id == t) f e.tiles }
    match held with
    | some g => s.count .ep 0x14 g 3 1
    | none => s
  | _ => s

/-- R38, R39: a request faults on a granule: it joins the record, or takes the lowest free one with a notice, or ends with
Fault when none is free. DEDUCED (log entry 163): a request that joins a record leaves its Kind, whatever its own walk found.
DESIGN CHOICE (log entry 164): the record keeps the fault timeout in force at its creation. -/
def State.raiseFault (s : State) (job granule kind want : Nat) (who : WalkFor) : State :=
  match s.ep.faults.find? fun x => x.2.job == job && x.2.granule == granule with
  | some (i, _) =>
    let s := s.modEp fun e => { e with faults := tabMod e.faults i fun f => { f with waiters := f.waiters ++ [⟨who, want⟩] } }
    s.markFault who i
  | none =>
    match lowestFree (fun i => (tabGet s.ep.faults i).isSome) 256 with
    | none => (s.epCount 3).failWho who cFault
    | some i =>
      let f : FaultRec := { job := job, granule := granule, kind := kind, state := 1, waiters := [⟨who, want⟩],
                            first := s.rackNs .ep, timer := s.ns, limit := s.reg .ep 0xD20004 * 1000, revoked := false }
      let s := s.modEp fun e => { e with faults := tabSet e.faults i f }
      (s.markFault who i).faultNotice i f

/-- A record ends: every waiter completes with a code (R41). -/
def State.failRecord (s : State) (i code : Nat) : State :=
  match tabGet s.ep.faults i with
  | none => s
  | some f =>
    let s := s.modEp fun e => { e with faults := tabDel e.faults i }
    f.waiters.foldl (fun s w => s.failWho w.who code) s

/-! ### Translating requests -/

/-- The FPA of a request is known: the checks that need its node (R23, R27, R76, R95), the write-through (R66). -/
def State.translatedReq (s : State) (id : Nat) (a : AtuEntry) (inv : Nat) : State :=
  match s.ep.sh.req id with
  | none => s
  | some r =>
    let fpa := a.fpa r.vfa
    let node := fpa / 2 ^ 46
    let off := fpa % 2 ^ 46
    let commons := decide (512 ≤ node ∧ node < 528)
    let own := node == s.node .ep
    if commons && !s.planeExists (node - 512) then (s.epCount 1).endReq .ep id cDenied []
    else if (commons && !s.ep.live.contains (node - 512)) || s.deadTo .ep (s.rack .ep) node then s.endReq .ep id cPoison []
    else if r.pkt.typ == 0x03 && isAllocOp r.pkt.aop && !commons then (s.epCount 0).endReq .ep id cDenied []
    else
      let vol := r.pkt.typ == 0x01 && (r.pkt.vol || a.vol)
      let rack := if r.pkt.typ = 0x04 ∨ r.pkt.typ = 0x05 then r.pkt.dstRack else s.rack .ep
      let s := s.modReq .ep id fun r =>
        { r with st := .waiting, gen := inv, noCache := a.noCache, trAt := s.ns,
                 pkt := { r.pkt with dst := node, off := off, dstRack := rack, srcRack := s.rack .ep, src := s.node .ep,
                                     vol := vol } }
      let s := s.placeReq id
      if r.pkt.typ = 0x02 ∧ ¬ own then s.ncWrite fpa r.pkt.payload else s

/-- Translate a request: an ATU hit with its right, a fault of kind Rights, or a walk (R32 to R34). -/
def State.translate (s : State) (id : Nat) : State :=
  match s.ep.sh.req id with
  | none => s
  | some r =>
    match tabGet s.ep.slots r.slot with
    | none => s
    | some x =>
      let g := r.vfa / 65536
      match s.ep.atuHit r.slot g with
      | some a =>
        if a.has r.want then s.translatedReq id a x.inv
        else s.raiseFault r.pkt.job g 1 r.want (.req id)
      | none => (s.modReq .ep id fun r => { r with st := .walking }).startWalk r.slot r.pkt.job g r.want (.req id)

/-- Is a granule translated for a right? Some true: yes; some false: its leaf lacks the right; none: a miss. -/
def State.granuleHas (s : State) (slot granule want : Nat) : Option Bool :=
  (s.ep.atuHit slot granule).map fun a => a.has want

/-- A granule of a tile, list or collective of a slot is translated: its fabric address is kept (R42). -/
def State.granuleDone (s : State) (who : WalkFor) (slot granule want : Nat) : State :=
  let k := granule * 4 + want
  let fpa := match s.ep.atuHit slot granule with
    | some a => a.fpa (granule * 65536)
    | none => 0
  match who with
  | .tile t =>
    let f := fun (x : CTile) => { x with todo := x.todo.filter fun g => g != k, got := x.got ++ [(k, fpa)] }
    s.modEp fun e => { e with tiles := modFirst (fun x => x.id == t) f e.tiles }
  | .coll c =>
    let f := fun (x : EpColl) => { x with todo := x.todo.filter fun g => g != k, got := x.got ++ [(k, fpa)] }
    s.modEp fun e => { e with colls := modFirst (fun x => x.id == c) f e.colls }
  | .list n i =>
    let f := fun (l : ListSlot) =>
      if l.id = i then { l with todo := l.todo.filter fun g => g != k, got := l.got ++ [(k, fpa)] } else l
    s.modEp fun e => { e with lists := tabMod e.lists n f }
  | _ => s

/-- R42: translate a granule for a tile, list or collective of a slot. -/
def State.needGranule (s : State) (who : WalkFor) (slot job granule want : Nat) : State :=
  match s.granuleHas slot granule want with
  | some true => s.granuleDone who slot granule want
  | some false => s.raiseFault job granule 1 want who
  | none => s.startWalk slot job granule want who

/-- A walk or a resume has brought the leaf: a waiter translates again. -/
def State.again (s : State) (who : WalkFor) (slot job granule want : Nat) : State :=
  match who with
  | .req id => (s.translate id).tryIssue id
  | .record _ => s
  | w => s.needGranule w slot job granule want

/-- The granules from `a` to `a + n`. -/
def granulesOf (a n : Nat) : List Nat :=
  if n = 0 then [] else (List.range ((a + n - 1) / 65536 + 1 - a / 65536)).map fun i => a / 65536 + i

/-- The fabric address of a VFA under a right, from the granules that have translated. -/
def gotFpa (got : List (Nat × Nat)) (vfa want : Nat) : Option Nat :=
  (got.find? fun g => g.1 == vfa / 65536 * 4 + want).map fun g => g.2 + vfa % 65536

/-- R26: the local address of a range on the own node, admitted with a right. -/
def State.ownLocal (s : State) (got : List (Nat × Nat)) (job vfa len want typ : Nat) : State × (Nat ⊕ Nat) :=
  match gotFpa got vfa want with
  | none => (s, .inr cDenied)
  | some fpa =>
    if fpa / 2 ^ 46 ≠ s.node .ep then (s, .inr cDenied)
    else s.admitOwn job (fpa % 2 ^ 46) len want typ

end Sys2Proof.Machine
end

