-- ==== Sys2Proof/Machine/Receiver.lean ====
section
/-! DEFINITION. The receiver of requests, one in the endpoint and one in the Commons: checks 1 to 8 of R44, sequences (R89,
R90), intervals and flagged stores (R58 to R60), answers (R62, R78) and settlement. -/

namespace Sys2Proof.Machine

/-! ### Answers -/

/-- R78, R226: the response to a request, on the plane on which it arrived, by the tile that received it; a code other than
Done carries no payload. -/
def State.respond (s : State) (p : Part) (req : Packet) (port code : Nat) (data : List Byte) (reads : Nat) : State :=
  let data := if code = cDone then data else []
  let k : Packet := { Packet.zero with typ := 0x10, plane := req.plane, code := code, job := req.job, src := s.node p,
                                       dst := req.src, srcRack := s.rack p, dstRack := req.srcRack, seq := req.seq,
                                       len := data.length, payload := data }
  let k := { k with epoch := s.headerEpoch p k }
  s.sendPacket p (tileOfPort port) (if p = Part.ep then req.plane else port) k (s.sealOf p k reads)

/-- R90, R92: a notice of Job ID 0x0000: 0x11 gap, 0x12 resync. -/
def State.notice (s : State) (p : Part) (typ code src plane port seq : Nat) : State :=
  let k : Packet := { Packet.zero with typ := typ, plane := plane, code := code, src := s.node p, dst := src % 1024,
                                       srcRack := s.rack p, dstRack := src / 1024, seq := seq }
  let k := { k with epoch := s.headerEpoch p k }
  s.sendPacket p (tileOfPort port) (if p = Part.ep then plane else port) k (s.sealOf p k 0)

/-- A counter of the two receivers (R390): its position in group 0x13 and in group 0x06. -/
def State.rcvCount (s : State) (p : Part) (epPos coPos : Nat) : State :=
  match p with
  | .ep => s.epCount epPos
  | .mod => s.coCount coPos

/-- The malformed-input counter of the receiving part: the endpoint's, or that of the tile of the port. -/
def State.malformed (s : State) (p : Part) (port : Nat) : State :=
  match p with
  | .ep => s.epCount 0
  | .mod => s.tileCount (tileOfPort port) 6

/-- R44 checks 1 to 3 refuse: a denial and a Denied answer; the sequence does not settle (R89). -/
def State.refuse (s : State) (p : Part) (k : Packet) (port reason : Nat) : State :=
  (s.deny p k.job k.src k.off k.typ reason).respond p k port cDenied [] 0

/-! ### Job state and seal -/

/-- R44 check 6: 0 a slot or slice serves the Job ID, 1 none, 2 it is torn down. -/
def State.jobState (s : State) (p : Part) (job : Nat) : Nat :=
  match p with
  | .ep => match s.ep.slotOf job with
    | some (_, x) => if x.state = 3 then 2 else 0
    | none => 1
  | .mod => match tabGet s.mod.slices job with
    | some e => if ¬ e.v then 1 else if e.state = 1 then 0 else if e.state = 0 then 1 else 2
    | none => 1

/-- R315: the Job ID whose secrets open a packet. -/
def sealJob (k : Packet) : Nat := if underFabric k then 0 else k.job

/-- R44 check 4, R315: 0 pass, 1 discard (retired epoch), 2 the tag fails. -/
def State.sealCheck (s : State) (p : Part) (k : Packet) (tagOk : Bool) : Nat :=
  match (s.sh p).keysOf (sealJob k) with
  | none => 0
  | some ks =>
    if ks.cur.isNone && ks.prev.isNone && ks.retired.isEmpty then 0
    else if (ks.cur != some k.epoch && ks.prev != some k.epoch) || ks.retired.contains k.epoch then 1
    else if tagOk then 0 else 2

/-- R315: count what check 4 discards or fails. -/
def State.sealCount (s : State) (p : Part) (r : Nat) : State :=
  if r = 1 then s.bothCount p 30 12 else if r = 2 then s.bothCount p 29 11 else s

/-! ### Source records -/

def Receiver.rec_ (r : Receiver) (src : Nat) : Option SrcRec := r.recs.find? fun x => x.src == src

/-- Change the receiver of a part. -/
def State.modRecv (s : State) (p : Part) (f : Receiver → Receiver) : State := s.modSh p fun sh => { sh with recv := f sh.recv }

/-- Change a source record. -/
def State.modRec (s : State) (p : Part) (src : Nat) (f : SrcRec → SrcRec) : State :=
  s.modRecv p fun r => { r with recs := modFirst (fun x => x.src == src) f r.recs }

/-- R90: the source records of a part. -/
def recCap : Part → Nat
  | .ep => 2048
  | .mod => 8192

/-- R60: the hold slots of a part. -/
def holdCap : Part → Nat
  | .ep => 512
  | .mod => 2048

/-- R85: the atomic places and the atomic result cache of a part. -/
def atomCap : Part → Nat
  | .ep => 1024
  | .mod => 4096

def atomCacheCap : Part → Nat
  | .ep => 4096
  | .mod => 16384

/-- R58: is an Interval value one of the three open intervals of a source? -/
def SrcRec.isOpen (r : SrcRec) (v : Nat) : Bool := (v + 4 - r.current) % 4 != 3

/-- The record of an interval; one with nothing settled where none is kept. -/
def SrcRec.interval (r : SrcRec) (v : Nat) : Interval :=
  (r.intervals.find? fun i => i.value == v).getD { value := v, settled := 0, refused := [], closed := false }

/-- Put the record of an interval. -/
def SrcRec.setInterval (r : SrcRec) (i : Interval) : SrcRec :=
  { r with intervals := r.intervals.filter (fun j => j.value != i.value) ++ [i] }

/-- R59: a closed interval is left once it is the current one, and so are the closed ones after it. -/
def SrcRec.advance (r : SrcRec) : Nat → SrcRec
  | 0 => r
  | n + 1 =>
    if (r.interval r.current).closed then
      ({ r with intervals := r.intervals.filter fun j => j.value != r.current
                current := (r.current + 1) % 4 } : SrcRec).advance n
    else r

/-- R59: close an interval. -/
def SrcRec.close (r : SrcRec) (v : Nat) : SrcRec := (r.setInterval { r.interval v with closed := true }).advance 4

/-- R58: count a settled write of an interval. -/
def SrcRec.countWrite (r : SrcRec) (v job code : Nat) : SrcRec :=
  let i := r.interval v
  r.setInterval { i with settled := i.settled + 1, refused := if code = cDone then i.refused else setIns i.refused job }

/-- R89: the settled state of a sequence. -/
def SrcRec.settledOf (r : SrcRec) (seq : Nat) : Option Settled := r.settled.find? fun x => x.seq == seq

/-- R89: move the base past settled sequences; the codes of the 4,096 before it are kept. -/
def SrcRec.advanceBase (r : SrcRec) : Nat → SrcRec
  | 0 => r
  | n + 1 => if (r.settledOf r.base).isSome then ({ r with base := (r.base + 1) % 2 ^ 32 } : SrcRec).advanceBase n else r

/-- R92: is a sequence after the base settled while the base is not? -/
def SrcRec.gap (r : SrcRec) : Bool := r.settled.any fun x => decide (serialDiff x.seq r.base < 4096)

/-- R89, R92: a sequence within the window settles. DESIGN CHOICE (log entry 157): where the base moves on to another unsettled
sequence and settled ones still follow it, the gap timer starts afresh. -/
def SrcRec.settle (r : SrcRec) (x : Settled) (now : Nat) : SrcRec :=
  if 4096 ≤ serialDiff x.seq r.base then r
  else
    let b := r.base
    let r := ({ r with settled := r.settled ++ [x] } : SrcRec).advanceBase 4096
    let r := { r with settled := r.settled.filter fun y =>
                        decide (serialDiff y.seq r.base < 4096 ∨ serialDiff r.base y.seq ≤ 4096) }
    { r with gapSince := if r.gap then (if r.base = b then some (r.gapSince.getD now) else some now) else none }

/-! ### Settlement -/

/-- R92, R97: the gap age limit of a part now, in ns: a gap timer that starts runs under it. -/
def State.gapLimitNow (s : State) (p : Part) : Nat := s.reg p (if p = Part.ep then 0xD50008 else 0x750001) * 1000

/-- R92: the gap timer that a settlement has started runs under the limit in force. -/
def SrcRec.limited (r old : SrcRec) (lim : Nat) : SrcRec := if r.gapSince = old.gapSince then r else { r with gapLimit := lim }

/-- R58, R85, R89: a request settles with a code; `count`: it counts in its interval (or closes it, when flagged). -/
def State.settle (s : State) (p : Part) (k : Packet) (code : Nat) (data : List Byte) (count : Bool) : State :=
  match (s.sh p).recv.rec_ k.from_ with
  | none => s
  | some r =>
    if (r.settledOf k.seq).isSome || decide (4096 ≤ serialDiff k.seq r.base) then s
    else
      let r := (r.settle { seq := k.seq, code := code, typ := k.typ, reads := 0, data := if isColl k.typ then data else [] }
        s.ns).limited r (s.gapLimitNow p)
      let r := if !count || !k.isCounted then r
        else if k.f then r.close k.interval else r.countWrite k.interval k.job code
      let s := s.modRec p k.from_ fun _ => r
      if k.typ = 0x03 then
        let a : AtomResult := { src := k.from_, seq := k.seq, code := code, old := data }
        s.modRecv p fun q => { q with atoms := lastN (atomCacheCap p) (q.atoms ++ [a]) }
      else s

/-- A request ends with a code and data: it is answered and settles (R50, R62). -/
def State.finish (s : State) (p : Part) (k : Packet) (port code : Nat) (data : List Byte) (count : Bool) : State :=
  let reads := match (s.sh p).recv.rec_ k.from_ with
    | some r => match r.settledOf k.seq with
      | some x => x.reads
      | none => 0
    | none => 0
  let s := if p = Part.ep then s.traceDest k else s
  (s.respond p k port code data reads).settle p k code data count

/-- R44 check 9 and what follows: a request in progress ends. -/
def State.finishProg (s : State) (p : Part) (id code : Nat) (data : List Byte) : State :=
  match (s.sh p).recv.inprog.find? fun x => x.id == id with
  | none => s
  | some g =>
    let s := if code = cPoison && p == Part.ep then s.epCount 6 else s
    let s := s.finish p g.pkt g.port code data true
    s.modRecv p fun r => { r with inprog := delFirst (fun x => x.id == id) r.inprog }

/-! ### Checks 6 to 8 -/

/-- R44 checks 6 to 8: the local address and the Offset base, or the code of the refusal with its denial recorded. -/
def State.checks (s : State) (p : Part) (k : Packet) : State × ((Nat × Nat) ⊕ Nat) :=
  match s.jobState p k.job with
  | 1 => (s.deny p k.job k.src k.off k.typ 0, .inr cDenied)
  | 2 => ((s.rcvCount p 10 3).partCount p k.job 4 1, .inr cTorn)
  | _ => match admFind (s.sh p).adm k.job k.off k.len with
    | none => (s.deny p k.job k.src k.off k.typ 1, .inr cDenied)
    | some e =>
      if k.isMarker || e.has (rightOf k.typ) then (s, .inl (e.local_ k.off, e.offBase * 65536))
      else (s.deny p k.job k.src k.off k.typ 2, .inr cDenied)

/-- Serve a request that has passed checks 1 to 8 at a local address: it is in progress at the point of coherence, a close
marker is done at once. The endpoint sends its memory message (R106, purpose 0). Answers the identifier of the request in
progress. -/
def State.serveAt (s : State) (p : Part) (k : Packet) (port loc base : Nat) : State × Option Nat :=
  if k.isMarker then (s.finish p k port cDone [] true, none)
  else
    let id := (s.sh p).recv.nextId
    let g : InProg := { id := id, src := k.from_, pkt := k, loc := loc, offBase := base, port := port, result := none, at_ := s.ns,
                        err := 0, stage := 0 }
    let s := s.modRecv p fun r => { r with inprog := r.inprog ++ [g], nextId := id + 1 }
    match p with
    | .ep =>
      let kind := if k.typ = 0x01 ∨ k.typ = 0x05 then 0x28 else if k.typ = 0x03 then 0x2A else 0x29
      (s.sendMem (.fabric id) kind 0 loc k.len k.aop k.fmt k.payload, some id)
    | .mod => (s, some id)

/-- Serve a request that has passed check 5: refused at checks 6 to 8, or in progress. -/
def State.serve (s : State) (p : Part) (k : Packet) (port : Nat) : State × Option Nat :=
  let c := s.checks p k
  match c.2 with
  | .inr code => (c.1.finish p k port code [] true, none)
  | .inl (loc, base) => c.1.serveAt p k port loc base

/-- R58, R60: a write whose interval is not open settles refused, and counts toward no interval. -/
def State.notOpen (s : State) (p : Part) (k : Packet) (port : Nat) : State :=
  ((s.malformed p port).deny p k.job k.src k.off k.typ 6).finish p k port cDenied [] false

/-! ### Sequences (R89, R90) -/

/-- Is a request of the source and sequence in progress or held? -/
def Receiver.busyWith (r : Receiver) (src seq : Nat) : Bool :=
  r.inprog.any (fun g => g.src == src && g.pkt.seq == seq) || r.held.any (fun h => h.src == src && h.pkt.seq == seq)

/-- R90: may a source record be reused? -/
def Receiver.idle (r : Receiver) (x : SrcRec) (now life : Nat) : Bool :=
  !x.gap && x.intervals.isEmpty && !(r.inprog.any fun g => g.src == x.src) && !(r.held.any fun h => h.src == x.src) &&
  decide (x.lastArrival + life ≤ now)

/-- A held flagged store leaves its hold slot. -/
def State.unhold (s : State) (p : Part) (h : HeldStore) : State :=
  s.modRecv p fun r => { r with held := delFirst (fun x => x == h) r.held }

/-- R59: the interval of a held flagged store that has been answered closes. -/
def State.closeHeld (s : State) (p : Part) (h : HeldStore) : State :=
  (s.unhold p h).modRec p h.src fun r => r.close h.pkt.interval

/-- R60: a held flagged store ends unapplied: counted, answered, settled, its interval closed; one that has been answered
before only closes its interval. -/
def State.dropHeld (s : State) (p : Part) (h : HeldStore) (code : Nat) (count : State → State) : State :=
  if h.ended then s.closeHeld p h else ((count s).unhold p h).finish p h.pkt h.port code [] true

/-- R60, R89: the source's pair starts again: its held flagged stores end with Poison, its record is set. -/
def State.restartRec (s : State) (p : Part) (src seq : Nat) : State :=
  let hs := (s.sh p).recv.held.filter fun h => h.src == src
  let s := hs.foldl (fun s h =>
    if h.ended then s.unhold p h else ((s.unhold p h).rcvCount p 7 0).respond p h.pkt h.port cPoison [] 0) s
  s.modRec p src fun r => { r with start := seq, base := seq, settled := [], current := 0, intervals := [], gapSince := none }

/-- R89, R90: the record of an arriving request's source, opened or restarted: S = 1 restarts it, unless the request is a copy
of one that has settled or that is held or in progress (R62). None: the request has been answered or discarded here. -/
def State.recordFor (s : State) (p : Part) (k : Packet) (port : Nat) : State × Bool :=
  let src := k.from_
  let note := fun (s : State) => s.modRec p src fun r => { r with lastArrival := s.ns, lastPort := if p = Part.ep then k.plane else port }
  match (s.sh p).recv.rec_ src with
  | some r =>
    if k.s && (r.settledOf k.seq).isNone && !(s.sh p).recv.busyWith src k.seq then
      (note (s.restartRec p src k.seq), true)
    else (note s, true)
  | none =>
    if !k.s then (s.notice p 0x12 0 src k.plane port k.seq, false)
    else
      let r : SrcRec := { src := src, start := k.seq, base := k.seq, settled := [], current := 0, intervals := [],
                          lastArrival := s.ns, lastPort := if p = Part.ep then k.plane else port, gapSince := none, gapLimit := 0 }
      let q := (s.sh p).recv
      if q.recs.length < recCap p then (s.modRecv p fun q => { q with recs := q.recs ++ [r] }, true)
      else
        let life := if p = Part.ep then s.reg .ep 0xD50007 * 1000 else 10000000
        match q.recs.find? fun x => q.idle x s.ns life with
        | some x => (s.modRecv p fun q => { q with recs := delFirst (fun y => y.src == x.src) q.recs ++ [r] }, true)
        | none => (s.respond p k port cRetry [] 0, false)

/-- How an arriving request stands in its source's window. -/
inductive SeqClass where
  | fresh | dup (x : Settled) | inProgress | outside
  deriving DecidableEq, Repr

/-- R89: new, duplicate, in progress or outside the window. DESIGN CHOICE (log entry 156): a sequence within the 4,096 before the
base of which no settled state is kept, because the pair has started again since, is outside the window. -/
def State.seqClass (s : State) (p : Part) (k : Packet) : SeqClass :=
  match (s.sh p).recv.rec_ k.from_ with
  | none => .outside
  | some r =>
    match r.settledOf k.seq with
    | some x => .dup x
    | none =>
      if (s.sh p).recv.busyWith k.from_ k.seq then .inProgress
      else if serialDiff k.seq r.base < 4096 then .fresh else .outside

/-- R62, R85, R89: a duplicate of a settled request. -/
def State.answerDup (s : State) (p : Part) (k : Packet) (port : Nat) (x : Settled) : State × Option Nat :=
  if k.typ = 0x01 ∨ k.typ = 0x05 then
    if 7 ≤ x.reads then (s, none)
    else
      let s := s.modRec p k.from_ fun r => { r with settled := r.settled.map fun y =>
                                                      if y.seq = k.seq then { y with reads := y.reads + 1 } else y }
      s.serve p k port
  else if isColl k.typ then (s.respond p k port x.code x.data 0, none)
  else if k.typ = 0x03 then
    match (s.sh p).recv.atoms.reverse.find? fun a => a.src == k.from_ && a.seq == k.seq with
    | some a => (s.respond p k port a.code a.old 0, none)
    | none => ((s.rcvCount p 17 6).respond p k port cPoison [] 0, none)
  else (s.respond p k port x.code [] 0, none)

/-- Is the flagged store that closes an interval of a source held, or being applied? -/
def Receiver.closing (q : Receiver) (src interval : Nat) : Bool :=
  q.held.any (fun h => h.src == src && h.pkt.interval == interval) ||
  q.inprog.any (fun g => g.src == src && g.pkt.typ == 0x02 && g.pkt.f && g.pkt.interval == interval)

/-- R60: are all the hold slots of a part taken? -/
def State.holdFull (s : State) (p : Part) : Bool := decide (holdCap p ≤ ((s.sh p).recv.held.filter fun h => !h.ended).length)

/-- R85: are all the atomic places of a part taken? -/
def State.atomFull (s : State) (p : Part) : Bool :=
  decide (atomCap p ≤ ((s.sh p).recv.inprog.filter fun g => g.pkt.typ == 0x03).length)

/-- Hold a flagged store until its interval has its Predecessor count (R58). -/
def State.hold (s : State) (p : Part) (k : Packet) (port loc base : Nat) (ended : Bool) : State :=
  let lim := s.reg p (if p = Part.ep then 0xD40003 else 0x740003) * 1000
  let h : HeldStore := { src := k.from_, pkt := k, loc := loc, offBase := base, ended := ended, port := port, since := s.ns, limit := lim }
  s.modRecv p fun q => { q with held := q.held ++ [h] }

/-- R44, R58, R60, R89: a new flagged store of an open interval is checked and held; one that checks 6 to 8 refuse is answered
and settles, and its interval is closed once it has its Predecessor count. DESIGN CHOICE (log entry 154): checks 6 to 8 come
before the answer Retry of a full set of hold slots. -/
def State.takeFlagged (s : State) (p : Part) (k : Packet) (port : Nat) : State :=
  let c := s.checks p k
  match c.2 with
  | .inr code => (c.1.hold p k port 0 0 true).finish p k port code [] false
  | .inl (loc, base) =>
    if c.1.holdFull p then (c.1.rcvCount p 9 2).respond p k port cRetry [] 0 else c.1.hold p k port loc base false

/-- R58 to R60, R85: a new request within the window is checked, and settles or is held. DESIGN CHOICE (log entry 155): a second
flagged store of an interval that is closed, or whose flagged store is held, is refused as not open. DESIGN CHOICE (log entry
154): an atomic that finds every place taken is answered Retry before its checks 6 to 8. -/
def State.takeNew (s : State) (p : Part) (k : Packet) (port : Nat) : State × Option Nat :=
  match (s.sh p).recv.rec_ k.from_ with
  | none => (s, none)
  | some r =>
    if k.isCounted && !(r.isOpen k.interval) then (s.notOpen p k port, none)
    else if k.typ = 0x02 ∧ k.f then
      if (r.interval k.interval).closed || (s.sh p).recv.closing k.from_ k.interval then (s.notOpen p k port, none)
      else (s.takeFlagged p k port, none)
    else if k.typ = 0x03 ∧ s.atomFull p then (s.respond p k port cRetry [] 0, none)
    else s.serve p k port

/-- R44 checks 1 to 5 of a request: refused, discarded or answered here (none), or how it stands in its source's window.
`typOk`: the receiver takes packets of this Type. -/
def State.admitPacket (s : State) (p : Part) (k : Packet) (port : Nat) (tagOk typOk : Bool) : State × Option SeqClass :=
  if !(formOk k (p == Part.ep) && typOk) then ((s.malformed p port).refuse p k port 5, none)
  else if (k.typ ≠ 0x31 ∧ (k.job = 0 ∨ k.job = 0xFFFF)) ∨ (k.typ = 0x31 ∧ k.job ≠ 0) then (s.refuse p k port 4, none)
  else if k.dst ≠ s.node p then (s.refuse p k port 3, none)
  else
    let c := s.sealCheck p k tagOk
    let s := s.sealCount p c
    if c = 1 then (s, none)
    else if c = 2 then (s.respond p k port cPoison [] 0, none)
    else
      let r := s.recordFor p k port
      if !r.2 then (r.1, none) else (r.1, some (r.1.seqClass p k))

/-- What every receiver does with a request that is not new: a duplicate, one in progress, one outside the window. -/
def State.notNew (s : State) (p : Part) (k : Packet) (port : Nat) (c : SeqClass) : State × Option Nat :=
  match c with
  | .outside => (s.rcvCount p 13 4, none)
  | .inProgress => (s, none)
  | .dup x => s.answerDup p k port x
  | .fresh => (s, none)

/-- R44: the receiver takes a request of Types 0x01 to 0x05. Answers the request in progress that it starts, if any. -/
def State.receive (s : State) (p : Part) (k : Packet) (port : Nat) (tagOk : Bool) : State × Option Nat :=
  let a := s.admitPacket p k port tagOk (decide (1 ≤ k.typ ∧ k.typ ≤ 5))
  match a.2 with
  | none => (a.1, none)
  | some .fresh => a.1.takeNew p k port
  | some c => a.1.notNew p k port c

/-- R59: resolve a held flagged store whose interval has its Predecessor count of settled writes: it is applied where it was
admitted at its arrival (R45). -/
def State.resolveHeld (s : State) (p : Part) (h : HeldStore) : State × Option Nat :=
  match (s.sh p).recv.rec_ h.src with
  | none => (s, none)
  | some r =>
    let i := r.interval h.pkt.interval
    if i.settled < h.pkt.pred then (s, none)
    else if h.ended then (s.closeHeld p h, none)
    else if i.refused.contains h.pkt.job then (s.dropHeld p h cPoison fun s => s.rcvCount p 7 0, none)
    else (s.unhold p h).serveAt p h.pkt h.port h.loc h.offBase

/-- R60: the Job ID is torn down: its held flagged stores end Torn. -/
def State.tornHeld (s : State) (p : Part) (job : Nat) : State :=
  ((s.sh p).recv.held.filter fun h => h.pkt.job == job).foldl
    (fun s h => s.dropHeld p h cTorn fun s => (s.rcvCount p 10 3).partCount p job 4 1) s

end Sys2Proof.Machine
end

