-- ==== Sys2Proof/Machine/Slots.lean ====
section
/-! DEFINITION. Job slots (R36, R37, R47, R48, R96), resume commands (R40, R41) and admission entries (R43): what a write of
them does once the Directory has let it through (R327 steps 5 to 7), and the events that end what it began. -/

namespace Sys2Proof.Machine

/-- A Free slot as it is before anything is written. -/
def Slot.free : Slot where
  job := 0xFFFF
  root := 0
  gen := 0
  state := 0
  cacheGen := 0
  inv := 0
  waits := []

/-- A job slot. -/
def State.slot (s : State) (n : Nat) : Slot := tabGetD s.ep.slots n Slot.free

/-- Put a job slot. -/
def State.setSlot (s : State) (n : Nat) (x : Slot) : State := s.modEp fun e => { e with slots := tabSet e.slots n x }

/-- R36 step 2: drop every ATU and walk-cache entry of a slot. -/
def State.dropAtu (s : State) (n : Nat) : State :=
  s.modEp fun e => { e with atu := e.atu.filter fun a => a.slot != n, walkCache := e.walkCache.filter fun w => w.slot != n }

/-- R48: a write of a Job ID to a slot. -/
def State.slotJobWrite (s : State) (n : Nat) (val : List Byte) : Nat × State :=
  let v := beNat val
  let x := s.slot n
  if val.length ≠ 2 ∨ v = 0 then (stRange, s)
  else if v = 0xFFFF then if x.state = 0 then (stOk, s) else (stBusy, s)
  else if s.ep.slots.any (fun e => e.1 != n && e.2.job == v && e.2.state != 0) || x.root == 0 || x.root % 4096 != 0 ||
      decide (s.reg .ep 0xD30002 < x.root + 4096) then (stRange, s)
  else if x.state ≠ 0 then (stBusy, s)
  else
    let s := (s.dropAtu n).setSlot n { x with job := v, state := 1, cacheGen := x.cacheGen + 1, inv := x.inv + 1, waits := [] }
    let s := s.modSh .ep fun sh => { sh with keys := sh.keys.filter fun k => k.job != v }
    (stOk, s.newPartition .ep v)

/-- R47: a write of a slot's table root. -/
def State.slotRootWrite (s : State) (n : Nat) (val : List Byte) : Nat × State :=
  let v := beNat val
  let x := s.slot n
  if val.length ≠ 8 ∨ v % 4096 ≠ 0 ∨ 2 ^ 52 ≤ v then (stRange, s)
  else if x.state ≠ 0 then (stBusy, s)
  else (stOk, s.setSlot n { x with root := v })

/-- R36, R160: what an invalidation waits for: requests translated under the slot (4 × id), its collectives (4 × id + 1), its
transfer tiles (4 × id + 2) and its lists whose reads are out (4 × slot + 3). -/
def State.translatedOf (s : State) (n job : Nat) : List Nat :=
  (s.ep.sh.reqs.filter fun r => r.slot == n && r.pkt.job == job && r.translated && r.owner != Owner.marker).map (fun r => r.id * 4) ++
  (s.ep.colls.filter fun c => c.slot == n && c.job == job && c.state != 0).map (fun c => c.id * 4 + 1) ++
  (s.ep.tiles.filter fun t => (t.state == 2 || t.state == 4) && (s.ep.copies.any fun c => c.id == t.copy && c.slot == n)).map (fun t => t.id * 4 + 2) ++
  (s.ep.lists.filter fun l => l.2.job == job && decide (0 < l.2.reads)).map (fun l => l.1 * 4 + 3)

/-- R36: is something that an invalidation waits for still there? -/
def State.stillThere (s : State) (k : Nat) : Bool :=
  match k % 4 with
  | 0 => s.ep.sh.reqs.any fun r => r.id == k / 4
  | 1 => s.ep.colls.any fun c => c.id == k / 4
  | 2 => s.ep.tiles.any fun t => t.id == k / 4
  | _ => match tabGet s.ep.lists (k / 4) with
    | some l => decide (0 < l.reads)
    | none => false

/-- R36: tiles, lists and collectives of a slot that are still translating translate their granules again. -/
def State.retranslate (s : State) (n job : Nat) : State :=
  let ks := fun (got : List (Nat × Nat)) => got.map (·.1)
  let need := fun (s : State) (who : WalkFor) (l : List Nat) => l.foldl (fun s k => s.needGranule who n job (k / 4) (k % 4)) s
  let tiles := s.ep.tiles.filter fun t => decide (t.state < 2) && s.ep.copies.any fun c => c.id == t.copy && c.slot == n
  let colls := s.ep.colls.filter fun c => c.slot == n && c.job == job && c.state == 0
  let lists := s.ep.lists.filter fun l => l.2.job == job && l.2.state == 1 && !l.2.started
  let ft := fun (t : CTile) => { t with todo := t.todo ++ ks t.got, got := [] }
  let fc := fun (c : EpColl) => { c with todo := c.todo ++ ks c.got, got := [] }
  let fl := fun (l : ListSlot) => { l with todo := l.todo ++ ks l.got, got := [] }
  let s := s.modEp fun e =>
    { e with tiles := e.tiles.map fun t => if tiles.any fun u => u.id == t.id then ft t else t,
             colls := e.colls.map fun c => if colls.any fun d => d.id == c.id then fc c else c,
             lists := e.lists.map fun l => if lists.any fun m => m.1 == l.1 then (l.1, fl l.2) else l }
  let s := tiles.foldl (fun s t => need s (.tile t.id) (ks t.got)) s
  let s := colls.foldl (fun s c => need s (.coll c.id) (ks c.got)) s
  lists.foldl (fun s l => need s (.list l.1 l.2.id) (ks l.2.got)) s

/-- R36, R37: a write of Invalidate generation. -/
def State.invalidateWrite (s : State) (n : Nat) (val : List Byte) : Nat × State :=
  let x := s.slot n
  if val.length ≠ 4 ∨ beNat val ≠ (x.gen + 1) % 2 ^ 32 then (stRange, s)
  else if x.state ≠ 1 then (stBusy, s)
  else
    let s := (s.dropAtu n).setSlot n { x with state := 2, inv := x.inv + 1, waits := s.translatedOf n x.job }
    (stOk, s.retranslate n x.job)

/-- R36 step 4. -/
def State.invalidationDone (s : State) (n : Nat) : State :=
  let x := s.slot n
  if x.state = 2 ∧ ¬ x.waits.any s.stillThere then s.setSlot n { x with state := 1, gen := (x.gen + 1) % 2 ^ 32, waits := [] } else s

/-! ### Resume (R40, R41) -/

/-- R40: the fields of a resume command: Job ID, First granule, Granules, Action, Reserved. -/
def resumeFields (w : Nat) : Nat × Nat × Nat × Nat × Nat :=
  (bits w 127 112, bits w 111 72, bits w 71 40, bits w 39 38, bits w 37 0)

/-- The Pending records that a command covers, in ascending index. -/
def State.covered (s : State) (job first n : Nat) : List Nat :=
  (s.ep.faults.filter fun x => x.2.job == job && x.2.state == 1 && decide (first ≤ x.2.granule ∧ x.2.granule < first + n)).map (·.1)

/-- R41: a resume Retry walks the granule of each covered record. -/
def State.retryRecord (s : State) (i : Nat) : State :=
  match tabGet s.ep.faults i with
  | none => s
  | some f => match s.ep.slotOf f.job with
    | none => s
    | some (n, _) =>
      let s := s.modEp fun e => { e with faults := tabMod e.faults i fun f => { f with state := 2 } }
      s.startWalk n f.job f.granule 0 (.record i)

/-- R40, R41: a write of the resume command. -/
def State.resumeWrite (s : State) (val : List Byte) : Nat × State :=
  let w := resumeFields (beNat val)
  let job := w.1
  let act := w.2.2.2.1
  if val.length ≠ 16 ∨ w.2.2.2.2 ≠ 0 ∨ (act ≠ 1 ∧ act ≠ 2) ∨ w.2.2.1 = 0 ∨ (s.ep.slotOf job).isNone then (stRange, s)
  else
    let l := s.covered job w.2.1 w.2.2.1
    if act = 1 then (stOk, l.foldl State.retryRecord s) else (stOk, l.foldl (fun s i => s.failRecord i cFault) s)

/-- R41: FAULT_TIMEOUT: a Pending record reaches the fault timeout. -/
def State.faultExpire (s : State) (i : Nat) : State :=
  match tabGet s.ep.faults i with
  | none => s
  | some f => if f.state = 1 ∧ f.timer + f.limit ≤ s.ns then (s.epCount 4).failRecord i cFault else s

/-- R41: the walk of a Walking record ends. DESIGN CHOICE (log entry 164): back in Pending, the record's timer runs again under the
fault timeout of its creation. -/
def State.recordWalkEnd (s : State) (i : Nat) : State :=
  match tabGet s.ep.faults i, s.ep.walks.find? fun w => w.who == WalkFor.record i with
  | some f, some w =>
    match w.ended with
    | none => s
    | some e =>
      let s := s.modEp fun e => { e with walks := delFirst (fun v => v.id == w.id) e.walks }
      if f.revoked then s.failRecord i cTorn
      else
        let x := s.slot w.slot
        if x.inv ≠ w.inv then s.startWalk w.slot w.job w.granule 0 (.record i)
        else match e with
          | .leaf a =>
            let ok := f.waiters.filter fun u => a.has u.want
            let rest := f.waiters.filter fun u => !a.has u.want
            if ok.isEmpty then (s.count .ep 0x13 0 5 1).failRecord i cFault
            else
              let s := s.install a
              let s := if rest.isEmpty then s.modEp fun e => { e with faults := tabDel e.faults i }
                else
                  let f' := { f with waiters := rest, kind := 1, state := 1, timer := s.ns }
                  (s.modEp fun e => { e with faults := tabSet e.faults i f' }).faultNotice i f'
              ok.foldl (fun s u => s.again u.who w.slot w.job w.granule u.want) s
          | .unmapped => (s.count .ep 0x13 0 5 1).failRecord i cFault
          | .tableError => (s.count .ep 0x13 0 5 1).failRecord i cFault
  | _, _ => s

/-- R32, R38: the end of a walk that is not a record's. -/
def State.walkEnd (s : State) (id : Nat) : State :=
  match s.ep.walks.find? fun w => w.id == id with
  | none => s
  | some w =>
    match w.ended, w.who with
    | none, _ => s
    | some _, .record _ => s
    | some e, who =>
      let s := s.modEp fun e => { e with walks := delFirst (fun v => v.id == id) e.walks }
      let x := s.slot w.slot
      if x.job ≠ w.job ∨ (x.state ≠ 1 ∧ x.state ≠ 2) then s
      else if x.inv ≠ w.inv then s.startWalk w.slot w.job w.granule w.want who
      else match e with
        | .leaf a => (s.install a).again who w.slot w.job w.granule w.want
        | .unmapped => s.raiseFault w.job w.granule 0 w.want who
        | .tableError => s.raiseFault w.job w.granule 2 w.want who

/-! ### Admission entries (R43) -/

/-- R43: the fields of an admission entry; the second part is its Reserved bits. -/
def admOf (w : Nat) : AdmEntry × Nat :=
  ({ v := bit w 127, job := bits w 126 111, offBase := bits w 110 81, len := bits w 80 51, localBase := bits w 50 15,
     r := bit w 14, w := bit w 13, a := bit w 12, c := bit w 11 }, bits w 10 0)

/-- R43: the word of an admission entry. -/
def AdmEntry.word (e : AdmEntry) : Nat :=
  ofBool e.v * 2 ^ 127 + e.job * 2 ^ 111 + e.offBase * 2 ^ 81 + e.len * 2 ^ 51 + e.localBase * 2 ^ 15 + ofBool e.r * 2 ^ 14 +
  ofBool e.w * 2 ^ 13 + ofBool e.a * 2 ^ 12 + ofBool e.c * 2 ^ 11

/-- R43: an entry that holds nothing. -/
def AdmEntry.empty : AdmEntry where
  v := false
  job := 0
  offBase := 0
  len := 0
  localBase := 0
  r := false
  w := false
  a := false
  c := false

/-- R43: a write of an admission entry at an index; `size` is the local memory size and `extra` the further check of a
Commons (R183). DESIGN CHOICE (log entry 165): the entry that stands at the index, which the write replaces, does not count as
overlapping. -/
def State.admWrite (s : State) (p : Part) (index : Nat) (val : List Byte) (size : Nat) (extra : AdmEntry → Bool) : Nat × State :=
  let e := (admOf (beNat val)).1
  let adm := (s.sh p).adm
  if val.length ≠ 16 ∨ (admOf (beNat val)).2 ≠ 0 then (stRange, s)
  else if e.v && (e.job == 0 || e.job == 0xFFFF ||
      (adm.any fun x => x.1 != index && x.2.v && x.2.job == e.job &&
        decide (x.2.offBase < e.offBase + e.len + 1 ∧ e.offBase < x.2.offBase + x.2.len + 1)) ||
      decide (2 ^ 30 < e.offBase + e.len + 1) || decide (size < (e.localBase + e.len + 1) * 65536) || !extra e) then (stRange, s)
  else (stOk, s.modSh p fun sh => { sh with adm := tabPut sh.adm index e AdmEntry.empty })

/-! ### Revocation (R96) -/

/-- Everything of a slot that has not been sent ends Torn: requests that wait, walk or are on a fault record. -/
def State.tearWaiting (s : State) (n job : Nat) : State :=
  let ids := (s.ep.sh.reqs.filter fun r => r.slot == n && r.pkt.job == job && !r.isSent && r.st != ReqSt.atHome).map (·.id)
  ids.foldl (fun s i => s.endReq .ep i cTorn []) s

/-- R41: the fault records of a revoked job: Pending ones end, Walking ones end with their walk. -/
def State.tearFaults (s : State) (job : Nat) : State :=
  let l := (s.ep.faults.filter fun x => x.2.job == job)
  l.foldl (fun s x =>
    if x.2.state = 1 then s.failRecord x.1 cTorn
    else s.modEp fun e => { e with faults := tabMod e.faults x.1 fun f => { f with revoked := true } }) s

/-- R96, R114, R175: a revoked slot's lists that have not started and its collectives with nothing outstanding end Torn; its
tiles that move nothing yet end. -/
def State.tearWork (s : State) (n job : Nat) : State :=
  let lists := (s.ep.lists.filter fun l => l.2.job == job && (l.2.state == 1 || l.2.state == 2)).map (·.1)
  let s := lists.foldl (fun s i => s.listEnd i cTorn) s
  let tiles := (s.ep.tiles.filter fun t => decide (t.state < 2) && (s.ep.copies.any fun c => c.id == t.copy && c.slot == n)).map (·.id)
  let s := tiles.foldl (fun s t => s.failWho (.tile t) cTorn) s
  let copies := (s.ep.copies.filter fun c => c.slot == n && c.job == job && c.open_ == 0 && c.state == 0).map (·.id)
  let s := copies.foldl (fun s c => s.copyEnd c cTorn) s
  let colls := (s.ep.colls.filter fun c => c.slot == n && c.job == job)
  colls.foldl (fun s c =>
    if c.open_ = 0 then s.collEnd c.id cTorn
    else
      let f := fun (x : EpColl) => { x with worst := cTorn, state := 5 }
      s.modEp fun e => { e with colls := modFirst (fun x => x.id == c.id) f e.colls }) s

/-- R96 steps 1 and 2: a slot is revoked. -/
def State.revokeSlot (s : State) (n : Nat) : State :=
  let x := s.slot n
  let s := s.setSlot n { x with state := 3, cacheGen := x.cacheGen + 1 }
  let s := s.tearFaults x.job
  let s := s.tearWaiting n x.job
  let s := s.tearWork n x.job
  let s := s.tornHeld .ep x.job
  s.jobNotice 2 x.job 0 0

/-- R96: a write of Slot s revoke. -/
def State.revokeWrite (s : State) (n : Nat) (val : List Byte) : Nat × State :=
  if val.length ≠ 1 ∨ beNat val ≠ 1 then (stRange, s)
  else if (s.slot n).state ≠ 1 ∧ (s.slot n).state ≠ 2 then (stBusy, s)
  else (stOk, s.revokeSlot n)

/-- R96 step 4: is nothing of the slot left? -/
def State.slotEmpty (s : State) (n job : Nat) : Bool :=
  !(s.ep.sh.reqs.any fun r => r.slot == n && r.pkt.job == job) && !(s.ep.copies.any fun c => c.slot == n && c.job == job) &&
  !(s.ep.colls.any fun c => c.slot == n && c.job == job) && !(s.ep.lists.any fun l => l.2.job == job) &&
  !(s.ep.faults.any fun f => f.2.job == job) && !(s.ep.walks.any fun w => w.slot == n)

/-- R96 step 4, R117: the slot becomes Free; its keys were erased before. -/
def State.slotDrained (s : State) (n : Nat) : State :=
  let x := s.slot n
  if x.state = 3 ∧ s.slotEmpty n x.job then
    let s := s.modSh .ep fun sh => { sh with keys := sh.keys.map fun k =>
                                       if k.job = x.job then { k with cur := none, prev := none, pend := none } else k }
    (s.dropAtu n).setSlot n { x with state := 0, job := 0xFFFF, waits := [] }
  else s

end Sys2Proof.Machine
end

