-- ==== Sys2Proof/Machine/Copy.lean ====
section
/-! DEFINITION. Copy engines (R109 to R113) and descriptor lists (R114). -/

namespace Sys2Proof.Machine

/-- The fields of a 64-byte copy descriptor (R109). -/
structure CopyDesc where
  src : Nat
  dst : Nat
  len : Nat
  srcRack : Nat
  dstRack : Nat
  engine : Nat
  pin : Bool
  notify : Bool
  notifyVfa : Nat
  notifyVal : Nat
  reserved : Nat
  deriving DecidableEq, Repr

/-- Read a copy descriptor, most significant byte first. -/
def copyDescOf (body : List Byte) : CopyDesc :=
  let w := beNat (sliceBytes body 0 64)
  { src := bits w 511 456, dst := bits w 455 400, len := bits w 399 360, srcRack := bits w 359 356, dstRack := bits w 355 352,
    engine := bits w 351 347, pin := bit w 346, notify := bit w 345, notifyVfa := bits w 344 289,
    notifyVal := bits w 288 225, reserved := bits w 224 0 }

/-- R109: the cases in which a descriptor completes with Denied before any tile. -/
def CopyDesc.bad (d : CopyDesc) (rack : Nat) : Bool :=
  d.len == 0 || d.reserved != 0 || d.notifyVfa % 8 != 0 || (d.srcRack != rack && d.dstRack != rack)

/-- The bytes of a copy that no tile has taken. -/
def Copy.unissued (c : Copy) : Nat := c.len - c.issued

/-- R111: may a copy give another tile? -/
def Copy.gives (c : Copy) : Bool := decide (c.issued < c.len) && c.worst == 0 && c.state == 0

/-- R113: the bytes of unissued tiles that an engine has been given. -/
def State.engineLoad (s : State) (g : Nat) : Nat :=
  (s.ep.copies.filter fun c => c.engine == g && c.gives).foldl (fun a c => a + c.unissued) 0

/-- R113: the engine for a copy: the Engine field's when it is pinned or the rack is in Mown mode; otherwise the one with
the fewest bytes of unissued tiles, the lowest-numbered of equals, that is in the pool. DESIGN CHOICE (log entry 169): a copy
pinned to an engine out of the pool waits for it; the engine takes no tile of it until it returns. -/
def State.pickEngine (s : State) (d : CopyDesc) : Nat :=
  if d.pin || s.ep.sh.mode == 1 then d.engine
  else
    ((List.range 32).foldl (fun (best : Option Nat) g =>
      if s.ep.enginesOut.contains g then best
      else match best with
        | none => some g
        | some b => if s.engineLoad g < s.engineLoad b then some g else some b) none).getD d.engine

/-- R112: places of the copy table in use, with those that lists reserve for the descriptors that they have not started. -/
def State.copyPlaces (s : State) : Nat :=
  s.ep.copies.length + s.ep.lists.foldl (fun a l => a + (l.2.count - l.2.begun.length)) 0

/-- Put a copy into the table, given to its engine. -/
def State.addCopy (s : State) (d : CopyDesc) (slot job agent tag link : Nat) (list : Option Nat) : State :=
  let id := s.ep.nextCopy
  let c : Copy := { id := id, job := job, slot := slot, agent := agent, tag := tag, link := link, list := list, src := d.src,
                    dst := d.dst, len := d.len, srcRack := d.srcRack, dstRack := d.dstRack, engine := s.pickEngine d,
                    pin := d.pin, notify := d.notify, notifyVfa := d.notifyVfa, notifyVal := d.notifyVal, issued := 0,
                    open_ := 0, worst := 0, state := 0 }
  let s := s.modEp fun e => { e with copies := e.copies ++ [c], nextCopy := id + 1 }
  if s.slotRevoked slot job then s.copyEnd id cTorn else if d.bad (s.rack .ep) then s.copyEnd id cDenied else s

/-! ### Transfer tiles (R42, R110) -/

/-- R110: bytes of the next tile of a copy: to the next multiple of the tile size of the Destination VFA, or the end. -/
def Copy.nextLen (c : Copy) (size : Nat) : Nat :=
  let d := c.dst + c.issued
  min c.unissued (size - d % size)

/-- R42: an engine takes the next tile of a copy and translates its granules. -/
def State.takeTile (s : State) (c : Copy) (engine : Nat) (stolen : Bool) : State :=
  let n := c.nextLen (s.reg .ep 0xD60002)
  let id := s.ep.nextTile
  let src := c.src + c.issued
  let dst := c.dst + c.issued
  let todo := (granulesOf src n).map (fun g => g * 4) ++ (granulesOf dst n).map (fun g => g * 4 + 1)
  let t : CTile := { id := id, copy := c.id, engine := engine, src := src, dst := dst, len := n, state := 0, todo := todo,
                     got := [], parts := 0, worst := 0, stolen := stolen, buf := [] }
  let f := fun (x : Copy) => { x with issued := x.issued + n, open_ := x.open_ + 1 }
  let s := s.modEp fun e => { e with tiles := e.tiles ++ [t], nextTile := id + 1,
                                     copies := modFirst (fun x => x.id == c.id) f e.copies }
  let s := if stolen then s.count .ep 0x14 engine 2 1 else s
  todo.foldl (fun s k => s.needGranule (.tile id) c.slot c.job (k / 4) (k % 4)) s

/-- The pieces of a range of a VFA: cut at 4 KiB boundaries, each as position and length. -/
def pieces4k (vfa len : Nat) : List (Nat × Nat) :=
  if len = 0 then []
  else
    (List.range ((vfa + len - 1) / 4096 + 1 - vfa / 4096)).map fun i =>
      let a := max vfa ((vfa / 4096 + i) * 4096)
      let b := min (vfa + len) ((vfa / 4096 + i + 1) * 4096)
      (a - vfa, b - a)

/-- Bytes of a buffer of pieces at a position. -/
def bufBytes (buf : List (Nat × List Byte)) (pos len : Nat) : List Byte :=
  (List.range len).map fun i =>
    match buf.find? fun b => decide (b.1 ≤ pos + i ∧ pos + i < b.1 + b.2.length) with
    | some b => b.2.getD (pos + i - b.1) 0#8
    | none => 0#8

/-- A packet of a tile: a Bulk read (0x05) or Bulk write (0x04), on the own node a memory message. -/
def State.tilePacket (s : State) (t : CTile) (c : Copy) (typ vfa pos : Nat) (len : Nat) (data : List Byte) : State :=
  match gotFpa t.got vfa (if typ = 0x05 then 0 else 1) with
  | none => s
  | some fpa =>
    let node := fpa / 2 ^ 46
    let off := fpa % 2 ^ 46
    let rack := if typ = 0x05 then c.srcRack else c.dstRack
    let id := s.ep.sh.nextReq
    let k := { Packet.zero with typ := typ, job := c.job, src := s.node .ep, dst := node, srcRack := s.rack .ep, dstRack := rack,
                                off := off, len := len, payload := data }
    let r : Req := { id := id, order := id, agent := c.agent, tag := c.tag, link := c.link, owner := .tile t.id, st := .waiting,
                     slot := c.slot, gen := 0, vfa := vfa, want := if typ = 0x05 then 0 else 1, rel := .none, acq := .none,
                     noCache := true, cgen := 0, fillOff := pos, fillLen := 0, forced := false, pkt := k, first := 0, last := 0,
                     sends := 0, retrans := 0, retries := 0, due := 0, timeout := 0, reLimit := 0, retryLimit := 0, life := 0,
                     waits := [], bad := [], sl := ⟨0, 0, 0, 0⟩, accAt := s.ns, trAt := s.ns, trSeq := 0, near := [],
                     ecc := [] }
    let f := fun (x : CTile) => { x with parts := x.parts + 1 }
    let s := s.modEp fun e => { e with tiles := modFirst (fun x => x.id == t.id) f e.tiles }
    let s := s.modSh .ep fun sh => { sh with reqs := sh.reqs ++ [r], nextReq := id + 1 }
    let own := node == s.node .ep && rack == s.rack .ep
    if (decide (512 ≤ node ∧ node < 528) && !s.planeExists (node - 512)) then (s.epCount 1).endReq .ep id cDenied []
    else if !own && (s.deadTo .ep rack node || (decide (512 ≤ node ∧ node < 528) && !s.ep.live.contains (node - 512))) then
      s.endReq .ep id cPoison []
    else (s.placeReq id).issue id

/-- R109: the local side of a tile is admitted, and a cross-rack copy's local side is the own node. -/
def State.tileDenied (s : State) (t : CTile) (c : Copy) : State × Bool :=
  let side := fun (s : State) (vfa want rack other : Nat) =>
    (granulesOf vfa t.len).foldl (fun (acc : State × Bool) g =>
      if acc.2 then acc
      else
        let lo := max vfa (g * 65536)
        let hi := min (vfa + t.len) (g * 65536 + 65536)
        match gotFpa t.got lo want with
        | none => (acc.1, true)
        | some fpa =>
          let own := fpa / 2 ^ 46 == s.node .ep && rack == s.rack .ep
          if own then
            let r := acc.1.admitOwn c.job (fpa % 2 ^ 46) (hi - lo) want (if want = 0 then 0x05 else 0x04)
            match r.2 with
            | .inl _ => (r.1, false)
            | .inr _ => (r.1, true)
          else (acc.1, decide (rack = s.rack .ep ∧ other ≠ s.rack .ep))) (s, false)
  let a := side s t.src 0 c.srcRack c.dstRack
  if a.2 then a else side a.1 t.dst 1 c.dstRack c.srcRack

/-- R42: every granule of a tile has translated: its reads leave. -/
def State.moveTile (s : State) (t : CTile) : State :=
  match s.ep.copies.find? fun c => c.id == t.copy with
  | none => s
  | some c =>
    let d := s.tileDenied t c
    if d.2 then d.1.failWho (.tile t.id) cDenied
    else
      let f := fun (x : CTile) => { x with state := 2 }
      let s := d.1.modEp fun e => { e with tiles := modFirst (fun x => x.id == t.id) f e.tiles }
      let s := (s.count .ep 0x14 t.engine 0 1).count .ep 0x14 t.engine 1 t.len
      (pieces4k t.src t.len).foldl (fun s p => s.tilePacket t c 0x05 (t.src + p.1) p.1 p.2 []) s

/-- The reads of a tile are back: its writes leave, unless a read ended otherwise than Done. -/
def State.advanceTile (s : State) (t : CTile) : State :=
  if t.state ≠ 2 ∨ t.parts ≠ 0 then s
  else if t.worst ≠ 0 then
    let f := fun (x : CTile) => { x with state := 3 }
    s.modEp fun e => { e with tiles := modFirst (fun x => x.id == t.id) f e.tiles }
  else match s.ep.copies.find? fun c => c.id == t.copy with
    | none => s
    | some c =>
      let f := fun (x : CTile) => { x with state := 4, buf := [] }
      let s := s.modEp fun e => { e with tiles := modFirst (fun x => x.id == t.id) f e.tiles }
      (pieces4k t.dst t.len).foldl
        (fun s p => s.tilePacket t c 0x04 (t.dst + p.1) p.1 p.2 (bufBytes t.buf p.1 p.2)) s

/-- R110: the tile of an engine that is ready: translated and not yet moving. An engine out of the pool goes on only with the tile
that is active (R113). -/
def State.readyTile (s : State) (g : Nat) : Option CTile :=
  s.ep.tiles.find? fun t => t.engine == g && decide (t.state < 2) && t.todo.isEmpty && (t.state == 0 || !s.ep.enginesOut.contains g)

/-- R113: does an engine have a tile that moves? -/
def State.engineMoves (s : State) (g : Nat) : Bool := s.ep.tiles.any fun t => t.engine == g && (t.state == 2 || t.state == 4)

/-- R113: is an engine busy with a tile that moves or translates, or does it hold four that wait on fault records? -/
def State.engineBusy (s : State) (g : Nat) : Bool :=
  s.engineMoves g || s.ep.tiles.any (fun t => t.engine == g && t.state == 0) ||
  decide (4 ≤ (s.ep.tiles.filter fun t => t.engine == g && t.state == 1).length)

/-- Move the tile of an engine that has become ready. -/
def State.moveReady (s : State) (g : Nat) : State :=
  match s.readyTile g with
  | some t => s.moveTile t
  | none => s

/-- R110, R113: an engine whose active tile does not move issues its ready tile, or takes the next tile of its copies and issues
it if every granule translates. -/
def State.engineIssue (s : State) (g : Nat) : State :=
  match s.readyTile g with
  | some t => if s.engineMoves g then s else s.moveTile t
  | none =>
    if s.engineBusy g || s.ep.enginesOut.contains g then s
    else match s.ep.copies.find? fun c => c.engine == g && c.gives && !s.slotRevoked c.slot c.job with
      | some c => (s.takeTile c g false).moveReady g
      | none => s

/-- R113: of two copies, the one to steal from: unpinned, with the more unissued bytes; the earlier of equals. -/
def State.stealBetter (s : State) (b : Option Copy) (c : Copy) : Option Copy :=
  if c.pin || !c.gives || s.slotRevoked c.slot c.job then b
  else match b with
    | none => some c
    | some d => if d.unissued < c.unissued then some c else some d

/-- R113: the copy that an engine steals from. -/
def State.stealFrom (s : State) : Option Copy := s.ep.copies.foldl s.stealBetter none

/-- R113: a tile of an unpinned copy that waits at an engine out of the pool. -/
def State.strayTile (s : State) : Option CTile :=
  s.ep.tiles.find? fun t => s.ep.enginesOut.contains t.engine && t.state == 1 &&
    s.ep.copies.any fun c => c.id == t.copy && !c.pin

/-- R113: an engine takes over a tile that waits at one out of the pool. -/
def State.adoptTile (s : State) (t : CTile) (g : Nat) : State :=
  let f := fun (x : CTile) => { x with engine := g, stolen := true }
  ((s.modEp fun e => { e with tiles := modFirst (fun x => x.id == t.id) f e.tiles }).count .ep 0x14 g 2 1).moveReady g

/-- R113: an engine with no ready tile takes a tile that waits at an engine out of the pool, or the next unissued tile of the
unpinned copy with the most unissued bytes, the lowest entry of equals; in Free mode with stealing enabled. -/
def State.steal (s : State) (g : Nat) : State :=
  if 32 ≤ g ∨ s.ep.sh.mode = 1 ∨ s.reg .ep 0xD60003 ≠ 1 ∨ (s.readyTile g).isSome ∨ s.engineBusy g ∨ s.ep.enginesOut.contains g then s
  else
    match s.strayTile, s.stealFrom with
    | some t, _ => s.adoptTile t g
    | none, some c => (s.takeTile c g true).moveReady g
    | none, none => s

/-! ### Ends -/

/-- R111: the notify store of a copy: 8 bytes with release scope Rack. -/
def State.sendNotify (s : State) (c : Copy) : State :=
  let id := s.ep.sh.nextReq
  let waits := (s.ep.sh.reqs.filter fun q => q.pkt.job == c.job && (q.pkt.isWrite || q.pkt.typ == 0x01)).map (·.id)
  let k := { Packet.zero with typ := 0x02, job := c.job, len := 8, payload := leBytes 8 c.notifyVal }
  let r : Req := { id := id, order := id, agent := c.agent, tag := c.tag, link := c.link, owner := .notify c.id, st := .walking,
                   slot := c.slot, gen := 0, vfa := c.notifyVfa, want := 1, rel := .rack, acq := .none, noCache := true,
                   cgen := 0, fillOff := 0, fillLen := 0, forced := false, pkt := k, first := 0, last := 0, sends := 0,
                   retrans := 0, retries := 0, due := 0, timeout := 0, reLimit := 0, retryLimit := 0, life := 0,
                   waits := waits, bad := [], sl := ⟨0, 0, 0, 0⟩, accAt := s.ns, trAt := s.ns, trSeq := 0, near := [],
                     ecc := [] }
  let f := fun (x : Copy) => { x with state := 2 }
  let s := s.modEp fun e => { e with copies := modFirst (fun x => x.id == c.id) f e.copies }
  let s := s.modSh .ep fun sh => { sh with reqs := sh.reqs ++ [r], nextReq := id + 1 }
  (s.translate id).tryIssue id

/-- R111: a tile has ended: its copy completes, or sends its notify store, once its issued tiles are done. -/
def State.tileEnd (s : State) (t : CTile) : State :=
  match s.ep.copies.find? fun c => c.id == t.copy with
  | none => s.modEp fun e => { e with tiles := delFirst (fun x => x.id == t.id) e.tiles }
  | some c =>
    let c' := { c with open_ := c.open_ - 1, worst := worse c.worst t.worst }
    let s := s.modEp fun e => { e with tiles := delFirst (fun x => x.id == t.id) e.tiles,
                                       copies := modFirst (fun x => x.id == c.id) (fun _ => c') e.copies }
    if c'.open_ ≠ 0 then s
    else if c'.worst ≠ 0 then s.copyEnd c.id c'.worst
    else if c'.issued < c'.len then (if s.slotRevoked c.slot c.job then s.copyEnd c.id cTorn else s)
    else if c'.notify && !s.slotRevoked c.slot c.job then s.sendNotify c'
    else s.copyEnd c.id cDone

/-- Copies whose notify store has completed end with its code. -/
def State.copiesDone (s : State) : State :=
  (s.ep.copies.filter fun c => c.state == 3).foldl (fun s c => s.copyEnd c.id c.worst) s

/-- Tiles whose reads are back go on to their writes. -/
def State.tilesOn (s : State) : State := (s.ep.tiles.filter fun t => t.state == 2 && t.parts == 0).foldl State.advanceTile s

/-! ### Lists (R114) -/

/-- Start one descriptor of a list. -/
def State.startDesc (s : State) (n : Nat) (l : ListSlot) (body : List Byte) : State :=
  match s.ep.slotOf l.job with
  | none => s
  | some (sl, _) => s.addCopy (copyDescOf body) sl l.job l.agent l.tag l.link (some n)

/-- Has every byte from `pos` to `pos + n` of a list been read? -/
def ListSlot.has (l : ListSlot) (pos n : Nat) : Bool :=
  (List.range n).all fun i => l.data.any fun d => decide (d.1 ≤ pos + i ∧ pos + i < d.1 + d.2.length)

/-- The descriptors of a list that have been read and not started, in list order. -/
def ListSlot.startable (l : ListSlot) : List Nat :=
  (List.range l.count).filter fun i => !l.begun.contains i && l.has (i * 64) 64

/-- Start the descriptors of a slot that have been read, in list order. -/
def State.startRead (s : State) (n : Nat) : State :=
  match tabGet s.ep.lists n with
  | none => s
  | some l =>
    let is := l.startable
    let s := s.modEp fun e => { e with lists := tabMod e.lists n fun l => { l with begun := l.begun ++ is } }
    is.foldl (fun s i => s.startDesc n l (bufBytes l.data (i * 64) 64)) s

/-- A read of a running list is poisoned: the descriptors that it would have brought count as ended with Poison. -/
def State.listLost (s : State) (n pos len : Nat) : State :=
  match tabGet s.ep.lists n with
  | none => s
  | some l =>
    let gone := (List.range l.count).filter fun i =>
      !l.begun.contains i && decide (i * 64 < pos + len ∧ pos < i * 64 + 64)
    let s := s.modEp fun e => { e with lists := tabMod e.lists n fun l =>
      { l with begun := l.begun ++ gone, left := l.left - gone.length, worst := worse l.worst cPoison } }
    if l.left = gone.length then s.listEnd n (worse l.worst cPoison) else s

/-- R114: the list's granules have translated: it must lie on the own node and be admitted; its reads leave (purpose 3). -/
def State.listReads (s : State) (n : Nat) : State :=
  match tabGet s.ep.lists n with
  | none => s
  | some l =>
    if (l.state ≠ 1 ∧ l.state ≠ 3) ∨ l.started ∨ ¬ l.todo.isEmpty then s
    else match s.ep.slotOf l.job with
      | none => s
      | some _ =>
        let ps := pieces4k l.vfa (l.count * 64)
        let r := ps.foldl (fun (acc : State × Option (List (Nat × Nat × Nat))) p =>
          match acc.2 with
          | none => acc
          | some done =>
            let a := acc.1.ownLocal l.got l.job (l.vfa + p.1) p.2 0 0x01
            match a.2 with
            | .inl loc => (a.1, some (done ++ [(p.1, loc, p.2)]))
            | .inr _ => (a.1, none)) (s, some [])
        match r.2 with
        | none => r.1.listEnd n cDenied
        | some ps =>
          let s := r.1.modEp fun e => { e with lists := tabMod e.lists n fun l => { l with started := true, reads := ps.length } }
          ps.foldl (fun s p => s.sendMem (.list n l.id p.1 p.2.2) 0x28 3 p.2.1 p.2.2 0 0 []) s

/-- Lists whose granules have translated send their reads. -/
def State.listsOn (s : State) : State := (s.ep.lists.map (·.1)).foldl State.listReads s

/-- A read of the list `i` is back: its descriptors are held, or started at once when the list runs. A poisoned read ends a list
that is still read, and the descriptors that it would have brought of one that runs. -/
def State.listAnswer (s : State) (n i pos len code : Nat) (data : List Byte) : State :=
  match tabGet s.ep.lists n with
  | none => s
  | some l =>
    if l.id ≠ i then s
    else if code ≠ cDone then (if l.state = 3 then s.listLost n pos len else s.listEnd n cPoison)
    else
      let s := s.modEp fun e => { e with lists := tabMod e.lists n fun l =>
        { l with data := l.data ++ [(pos, data)], reads := l.reads - 1 } }
      if l.state = 3 then s.startRead n else s

/-- R114: the activation time of a list is reached, or has passed: it runs. `late` counts it in list-late. -/
def State.activate (s : State) (n : Nat) (late : Bool) : State :=
  let s := if late then s.epCount 22 else s
  (s.modEp fun e => { e with lists := tabMod e.lists n fun l => { l with state := 3, left := l.count } }).startRead n

/-- R114: LIST_READ_COMPLETE: the read of a list finishes: Armed, or started at once when its time has passed. -/
def State.listRead (s : State) (n : Nat) : State :=
  match tabGet s.ep.lists n with
  | none => s
  | some l =>
    if l.state ≠ 1 ∨ !l.started ∨ l.reads ≠ 0 then s
    else if l.act ≤ s.rackNs .ep then s.activate n true
    else s.modEp fun e => { e with lists := tabMod e.lists n fun l => { l with state := 2 } }

/-- R114: LIST_ACTIVATION: the activation time of an Armed list is reached, or of one that is still read, which is late. -/
def State.listTime (s : State) (n : Nat) : State :=
  match tabGet s.ep.lists n with
  | none => s
  | some l =>
    if s.rackNs .ep < l.act then s
    else if l.state = 2 then s.activate n false
    else if l.state = 1 then s.activate n true
    else s

/-- R111: COPY_TILE_COMPLETE: the last packet of a tile has completed. -/
def State.tileComplete (s : State) (t : Nat) : State :=
  match s.ep.tiles.find? fun x => x.id == t with
  | none => s
  | some x => if x.parts = 0 ∧ (x.state = 3 ∨ x.state = 4) then s.tileEnd x else s

end Sys2Proof.Machine
end

