-- ==== Sys2Proof/Machine/Windrow.lean ====
section
/-! DEFINITION. Windrow arithmetic: element formats (R125 to R127), the arithmetic word (R128, R129), exact accumulators
(R131 to R133), rounding (R136 to R140), ordered addition (R141, R142), exact partials (R144, R145), MX output (R146) and
combiner programs (R147 to R149). It is arithmetic on numbers and bytes: no state is read or written here. -/

namespace Sys2Proof.Machine

/-! ### Values and formats -/

/-- R126: a floating format. The largest finite value is `maxM` × 2^`maxQ`; `inf`: it has infinities; `nan`: its
canonical NaN (R139; none where the format has none). -/
structure FKind where
  e : Nat
  m : Nat
  bias : Nat
  emin : Int
  maxM : Nat
  maxQ : Int
  inf : Bool
  nan : Option Nat
  deriving DecidableEq, Repr

def kFp32 : FKind := ⟨8, 23, 127, -126, 2 ^ 24 - 1, 104, true, some 0x7FC00000⟩
def kBf16 : FKind := ⟨8, 7, 127, -126, 2 ^ 8 - 1, 120, true, some 0x7FC0⟩
def kFp16 : FKind := ⟨5, 10, 15, -14, 2 ^ 11 - 1, 5, true, some 0x7E00⟩
def kE4m3 : FKind := ⟨4, 3, 7, -6, 14, 5, false, some 0x7F⟩
def kE5m2 : FKind := ⟨5, 2, 15, -14, 7, 13, true, some 0x7E⟩
def kE3m2 : FKind := ⟨3, 2, 3, -2, 7, 2, false, none⟩
def kE2m3 : FKind := ⟨2, 3, 1, 0, 15, -1, false, none⟩
def kE2m1 : FKind := ⟨2, 1, 1, 0, 3, 1, false, none⟩
def kFp64 : FKind := ⟨11, 52, 1023, -1022, 2 ^ 53 - 1, 971, true, some 0x7FF8000000000000⟩

/-- The kind of the elements of a floating format, by its code (R125); MX formats by their element type. -/
def fkindOf (fmt : Nat) : Option FKind :=
  match fmt with
  | 0x00 => some kFp32
  | 0x01 => some kBf16
  | 0x02 => some kFp16
  | 0x03 | 0x05 => some kE4m3
  | 0x04 | 0x06 => some kE5m2
  | 0x07 => some kE3m2
  | 0x08 => some kE2m3
  | 0x09 => some kE2m1
  | 0x0D => some kFp64
  | _ => none

/-- R125: the MX formats. -/
def isMx (fmt : Nat) : Bool := decide (5 ≤ fmt ∧ fmt ≤ 10)

/-- R125: element bits. -/
def elemBits (fmt : Nat) : Nat :=
  match fmt with
  | 0x00 | 0x0B => 32
  | 0x01 | 0x02 => 16
  | 0x07 | 0x08 => 6
  | 0x09 => 4
  | 0x0D => 64
  | _ => 8

/-- R125: elements of a wire unit. -/
def unitElems (fmt : Nat) : Nat := if isMx fmt then 32 else 1

/-- R125: bytes of a wire unit: an element, or a scale byte and 32 packed elements. -/
def wireUnit (fmt : Nat) : Nat := if isMx fmt then 1 + 4 * elemBits fmt else elemBits fmt / 8

/-- R146: the element exponent that the MX scale uses (R126). -/
def mxElemExp (fmt : Nat) : Int :=
  match fmt with
  | 0x05 => 8
  | 0x06 => 15
  | 0x07 => 4
  | 0x08 => 2
  | 0x09 => 2
  | _ => 0

/-- R156: elements of a full piece in a format. -/
def fullElems (fmt : Nat) : Nat :=
  match fmt with
  | 0x00 | 0x0B => 1024
  | 0x01 | 0x02 => 2048
  | 0x03 | 0x04 | 0x0C => 4096
  | 0x05 | 0x06 | 0x0A => 3968
  | 0x07 | 0x08 => 5216
  | 0x09 => 7680
  | _ => 512

/-- Bytes of `n` elements in the wire form of a format. -/
def wireBytes (fmt n : Nat) : Nat := (n + unitElems fmt - 1) / unitElems fmt * wireUnit fmt

/-! ### Decoding (R126, R127) -/

/-- `m` × 2^`q` in units of 2^-1074. -/
def unitsOf (m : Nat) (q : Int) : Nat := m * 2 ^ (q + 1074).toNat

/-- R126: the value of a pattern of a floating kind. -/
def decodeF (k : FKind) (w : Nat) : Num :=
  let neg := bit w (k.e + k.m)
  let ex := w / 2 ^ k.m % 2 ^ k.e
  let ma := w % 2 ^ k.m
  let top := 2 ^ k.e - 1
  if k.inf && ex == top then (if ma = 0 then .inf neg else .nan)
  else if k.nan == some 0x7F && k.e == 4 && ex == top && ma == 7 then .nan
  else if ex = 0 then .fin neg (unitsOf ma (1 - (k.bias : Int) - k.m))
  else .fin neg (unitsOf (2 ^ k.m + ma) ((ex : Int) - k.bias - k.m))

/-- An integer value `i` × 2^`q`. -/
def numOfInt (i : Int) (q : Int) : Num := .fin (decide (i < 0)) (unitsOf i.natAbs q)

/-- R126: an element of a format that is not MX, from its bits. -/
def decodeElem (fmt w : Nat) : Num :=
  match fkindOf fmt with
  | some k => decodeF k w
  | none => numOfInt (signedOf (elemBits fmt) w) 0

/-- A value × 2^`x`, exact: every MX value is a whole number of units. -/
def scaleNum (v : Num) (x : Int) : Num :=
  match v with
  | .fin n m => .fin n (if 0 ≤ x then m * 2 ^ x.toNat else m / 2 ^ (-x).toNat)
  | w => w

/-- R126, R127: the 32 values of an MX block. -/
def decodeBlock (fmt : Nat) (unit : List Byte) : List Num :=
  let sc := (unit.getD 0 0#8).toNat
  let body := leNat (unit.drop 1)
  let b := elemBits fmt
  (List.range 32).map fun i =>
    let w := body / 2 ^ (b * i) % 2 ^ b
    if sc = 255 then .nan
    else match fkindOf fmt with
      | some k => scaleNum (decodeF k w) ((sc : Int) - 127)
      | none => scaleNum (numOfInt (signedOf 8 w) (-6)) ((sc : Int) - 127)

/-- The elements of a payload in wire form. -/
def decodePayload (fmt : Nat) (bytes : List Byte) : List Num :=
  let u := wireUnit fmt
  (List.range (bytes.length / u)).flatMap fun i =>
    let unit := sliceBytes bytes (i * u) u
    if isMx fmt then decodeBlock fmt unit else [decodeElem fmt (leNat unit)]

/-! ### Rounding (R136, R137, R140) -/

/-- R136: round `m` × 2^-`l` of a sign to precision `p` with `q` at least `qmin`: keep and q. Modes: 0 nearest, ties to
even, 1 toward zero, 2 toward +∞, 3 toward −∞. -/
def roundKeep (neg : Bool) (m l p : Nat) (qmin : Int) (mode : Nat) : Nat × Int :=
  if m = 0 then (0, qmin)
  else
    let e : Int := (Nat.log2 m : Int) - l
    let q := max (e - ((p : Int) - 1)) qmin
    let shift := (q + l).toNat
    let keep := m / 2 ^ shift
    let rest := m % 2 ^ shift
    let up := rest != 0 &&
      (match mode with
       | 0 => decide (2 ^ shift < 2 * rest) || (2 * rest == 2 ^ shift && keep % 2 == 1)
       | 2 => !neg
       | 3 => neg
       | _ => false)
    let keep := if up then keep + 1 else keep
    if keep = 2 ^ p then (2 ^ (p - 1), q + 1) else (keep, q)

/-- The sign bit of a kind. -/
def signBit (k : FKind) (neg : Bool) : Nat := ofBool neg * 2 ^ (k.e + k.m)

/-- R136: the pattern of keep × 2^q. -/
def encodeKeep (k : FKind) (neg : Bool) (keep : Nat) (q : Int) : Nat :=
  if 2 ^ k.m ≤ keep then signBit k neg + (q + k.m + k.bias).toNat * 2 ^ k.m + (keep - 2 ^ k.m)
  else signBit k neg + keep

/-- The pattern of the largest finite value. -/
def maxPattern (k : FKind) (neg : Bool) : Nat := encodeKeep k neg k.maxM k.maxQ

/-- The pattern of an infinity, or of the canonical NaN where the format has none (R137). -/
def infPattern (k : FKind) (neg : Bool) : Nat :=
  if k.inf then signBit k neg + (2 ^ k.e - 1) * 2 ^ k.m else k.nan.getD 0

/-- What a conversion answers: the pattern, and how many windrow-overflow, windrow-nan and windrow-int-invalid events. -/
structure Conv where
  w : Nat
  ovf : Nat
  nan : Nat
  inv : Nat
  deriving DecidableEq, Repr

/-- R137: an overflow of a finite value. -/
def overflowConv (k : FKind) (neg : Bool) (mode : Nat) (sat : Bool) : Conv :=
  let fin := sat || mode == 1 || (mode == 2 && neg) || (mode == 3 && !neg)
  if fin then ⟨maxPattern k neg, 1, 0, 0⟩ else ⟨infPattern k neg, 1, ofBool !k.inf, 0⟩

/-- Is keep × 2^q above the largest finite value of a kind? -/
def aboveMax (k : FKind) (keep : Nat) (q : Int) : Bool := decide (unitsOf k.maxM k.maxQ < unitsOf keep q)

/-- R136, R137: a finite value `m` × 2^-`l` in a floating format. -/
def roundFin (k : FKind) (neg : Bool) (m l mode : Nat) (sat : Bool) : Conv :=
  let r := roundKeep neg m l (k.m + 1) (k.emin - k.m) mode
  if aboveMax k r.1 r.2 then overflowConv k neg mode sat else ⟨encodeKeep k neg r.1 r.2, 0, 0, 0⟩

/-- R136, R137, R139: a value in a floating format that is not MX. -/
def convF (k : FKind) (v : Num) (mode : Nat) (sat : Bool) : Conv :=
  match v with
  | .nan => ⟨k.nan.getD 0, 0, 1, 0⟩
  | .inf neg => if sat then ⟨maxPattern k neg, 0, 0, 0⟩ else ⟨infPattern k neg, 0, ofBool !k.inf, 0⟩
  | .fin neg m => roundFin k neg m 1074 mode sat

/-- R140: the magnitude `m` × 2^-`l` rounded to an integer. -/
def roundInt (neg : Bool) (m l mode : Nat) : Nat := (roundKeep neg m l 4300 0 mode).1

/-- A rounded magnitude as a two's complement integer of `n` bits, saturated. -/
def satInt (n : Nat) (neg : Bool) (k : Nat) : Conv :=
  if neg then (if 2 ^ (n - 1) < k then ⟨2 ^ (n - 1), 1, 0, 0⟩ else ⟨(2 ^ n - k) % 2 ^ n, 0, 0, 0⟩)
  else if 2 ^ (n - 1) ≤ k then ⟨2 ^ (n - 1) - 1, 1, 0, 0⟩ else ⟨k, 0, 0, 0⟩

/-- R140: a value as a two's complement integer of `n` bits. -/
def convI (n : Nat) (v : Num) (mode : Nat) : Conv :=
  match v with
  | .nan => ⟨0, 0, 0, 1⟩
  | .inf neg => ⟨if neg then 2 ^ (n - 1) else 2 ^ (n - 1) - 1, 0, 0, 0⟩
  | .fin neg m => satInt n neg (roundInt neg m 1074 mode)

/-- A value in a format that is not MX. -/
def convElem (fmt : Nat) (v : Num) (mode : Nat) (sat : Bool) : Conv :=
  match fkindOf fmt with
  | some k => convF k v mode sat
  | none => convI (elemBits fmt) v mode

/-! ### MX output (R146) -/

/-- R146 step 1: is the block NaN? -/
def blockNan (fmt : Nat) (vs : List Num) (sat : Bool) : Bool :=
  let noInf := match fkindOf fmt with
    | some k => !k.inf
    | none => true
  vs.any fun v => match v with
    | .nan => true
    | .inf _ => noInf && !sat
    | .fin _ _ => false

/-- R146 step 2: the exponent X. -/
def blockExp (fmt : Nat) (vs : List Num) : Int :=
  let mx := vs.foldl (fun a v => match v with
    | .fin _ m => max a m
    | _ => a) 0
  if mx = 0 then 0
  else
    let x := (Nat.log2 mx : Int) - 1074 - mxElemExp fmt
    if x < -127 then -127 else if 127 < x then 127 else x

/-- R146 steps 3 and 4: an element under exponent X. -/
def mxElem (fmt : Nat) (v : Num) (x : Int) (mode : Nat) (sat : Bool) : Conv :=
  match v with
  | .nan => ⟨0, 0, 0, 0⟩
  | .inf neg => match fkindOf fmt with
    | some k => ⟨if sat then maxPattern k neg else infPattern k neg, 0, 0, 0⟩
    | none => ⟨if neg then 129 else 127, 0, 0, 0⟩
  | .fin neg m =>
    match fkindOf fmt with
    | some k => roundFin k neg m (1074 + x).toNat mode true
    | none => satInt 8 neg (roundInt neg m (1068 + x).toNat mode)

/-- Counts of a conversion, added. -/
def Conv.plus (a b : Conv) : Conv := ⟨b.w, a.ovf + b.ovf, a.nan + b.nan, a.inv + b.inv⟩

/-- R146: a block of 32 values as its wire unit, with the counts. -/
def mxBlock (fmt : Nat) (vs : List Num) (mode : Nat) (sat : Bool) : List Byte × Conv :=
  let bytes := 4 * elemBits fmt
  if blockNan fmt vs sat then (0xFF#8 :: leBytes bytes 0, ⟨0, 0, 1, 0⟩)
  else
    let x := blockExp fmt vs
    let r := vs.foldl (fun (acc : Nat × Nat × Conv) v =>
      let c := mxElem fmt v x mode sat
      (acc.1 + c.w * 2 ^ (elemBits fmt * acc.2.1), acc.2.1 + 1, acc.2.2.plus c)) (0, 0, ⟨0, 0, 0, 0⟩)
    (BitVec.ofNat 8 (x + 127).toNat :: leBytes bytes r.1, r.2.2)

/-- The values of a piece in an output format, in wire form, with the counts. An MX piece holds whole blocks. -/
def encodeNums (fmt : Nat) (vs : List Num) (mode : Nat) (sat : Bool) : List Byte × Conv :=
  if isMx fmt then
    (List.range ((vs.length + 31) / 32)).foldl (fun (acc : List Byte × Conv) i =>
      let b := mxBlock fmt ((vs.drop (32 * i)).take 32) mode sat
      (acc.1 ++ b.1, acc.2.plus b.2)) ([], ⟨0, 0, 0, 0⟩)
  else
    vs.foldl (fun (acc : List Byte × Conv) v =>
      let c := convElem fmt v mode sat
      (acc.1 ++ leBytes (wireUnit fmt) c.w, acc.2.plus c)) ([], ⟨0, 0, 0, 0⟩)

/-! ### Exact mode (R131 to R133, R138) -/

/-- R131, R133: the accumulator at its reset values. -/
def Acc.zero : Acc where
  a := 0
  n := false
  p := false
  m := false
  z := true

/-- R132: add one element. The accumulator counts 2^-149. -/
def Acc.add (c : Acc) (v : Num) : Acc :=
  let z := c.z && v == Num.fin true 0
  match v with
  | .nan => { c with n := true, z := z }
  | .inf false => { c with p := true, z := z }
  | .inf true => { c with m := true, z := z }
  | .fin neg m => { c with a := if neg then c.a - (m / 2 ^ 925 : Nat) else c.a + (m / 2 ^ 925 : Nat), z := z }

/-- R133: merge two records of one element. -/
def Acc.merge (c d : Acc) : Acc where
  a := c.a + d.a
  n := c.n || d.n
  p := c.p || d.p
  m := c.m || d.m
  z := c.z && d.z

/-- R138: the value of an accumulator. -/
def Acc.value (c : Acc) : Num :=
  if c.n || (c.p && c.m) then .nan
  else if c.p then .inf false
  else if c.m then .inf true
  else if c.a = 0 then .fin c.z 0
  else .fin (decide (c.a < 0)) (c.a.natAbs * 2 ^ 925)

/-- Add a contribution element by element. -/
def accAddAll (accs : List Acc) (vs : List Num) : List Acc :=
  (List.range (max accs.length vs.length)).map fun i =>
    match vs[i]? with
    | some v => (accs.getD i Acc.zero).add v
    | none => accs.getD i Acc.zero

/-- Merge records element by element. -/
def accMergeAll (a b : List Acc) : List Acc :=
  (List.range (max a.length b.length)).map fun i => (a.getD i Acc.zero).merge (b.getD i Acc.zero)

/-! ### Exact partials (R144, R145) -/

/-- The number of trailing zero bits of a magnitude, at most `n`. -/
def trailingZeros : Nat → Nat → Nat
  | 0, _ => 0
  | n + 1, m => if m % 2 = 1 then 0 else 1 + trailingZeros n (m / 2)

/-- R144: the position word. -/
def positionWord (wide : Bool) (c : Acc) (pos : Nat) : Nat :=
  ofBool wide * 2 ^ 15 + ofBool c.n * 2 ^ 14 + ofBool c.p * 2 ^ 13 + ofBool c.m * 2 ^ 12 + ofBool c.z * 2 ^ 11 + pos

/-- R145: the canonical compact or wide form of a record. -/
def Acc.partial_ (c : Acc) : List Byte :=
  if c.a = 0 then leBytes 2 (positionWord false c 0) ++ leBytes 16 0
  else
    let t := trailingZeros 318 c.a.natAbs
    let w := c.a / (2 ^ t : Int)
    if -(2 ^ 127 : Int) ≤ w ∧ w ≤ 2 ^ 127 - 1 then leBytes 2 (positionWord false c t) ++ leBytes 16 (patternOf 128 w)
    else leBytes 2 (positionWord true c 0) ++ leBytes 40 (patternOf 320 c.a)

/-- R144: read partial elements; none where one breaks its layout. `fuel` bounds the elements. -/
def readPartials : Nat → List Byte → Option (List Acc)
  | 0, l => if l.isEmpty then some [] else none
  | fuel + 1, l =>
    if l.isEmpty then some []
    else
      let w := leNat (l.take 2)
      let pos := bits w 8 0
      let wide := bit w 15
      let n := if wide then 42 else 18
      if l.length < n ∨ bits w 10 9 ≠ 0 ∨ 318 < pos ∨ (wide ∧ pos ≠ 0) then none
      else
        let a : Int := if wide then signedOf 320 (leNat ((l.drop 2).take 40))
          else signedOf 128 (leNat ((l.drop 2).take 16)) * (2 ^ pos : Int)
        if a < -(2 ^ 319 : Int) ∨ (2 ^ 319 : Int) - 1 < a then none
        else match readPartials fuel (l.drop n) with
          | some t => some ({ a := a, n := bit w 14, p := bit w 13, m := bit w 12, z := bit w 11 } :: t)
          | none => none

/-! ### The arithmetic word (R128, R129) -/

structure AWord where
  mode : Nat
  input : Nat
  output : Nat
  acc : Nat
  rnd : Nat
  sat : Bool
  prog : Bool
  plen : Nat
  reserved : Nat
  deriving DecidableEq, Repr

/-- R128: the fields of an arithmetic word. -/
def aword (w : Nat) : AWord where
  mode := bits w 31 31
  input := bits w 30 26
  output := bits w 25 21
  acc := bits w 20 20
  rnd := bits w 19 18
  sat := bit w 17
  prog := bit w 16
  plen := bits w 15 11
  reserved := bits w 10 0

/-- R129: the permitted combinations and the rules of the word itself. -/
def AWord.ok (a : AWord) : Bool :=
  a.reserved == 0 && (a.prog || a.plen == 0) && (!a.prog || (a.rnd == 0 && !a.sat)) &&
  (if a.mode = 0 then decide (a.input ≤ 0x0C) && a.acc == 0 && decide (a.output ≤ 0x0C)
   else if a.acc = 0 then decide (a.input ≤ 0x0A) && decide (a.output ≤ 0x0A)
   else (decide (a.input ≤ 0x0A) || a.input == 0x0D) && (decide (a.output ≤ 0x0A) || a.output == 0x0D))

/-- The accumulation or working format. -/
def AWord.work (a : AWord) : FKind := if a.acc = 1 then kFp64 else kFp32

/-! ### Floating operations in a format (R141, R147) -/

/-- A value rounded to nearest even into a kind, as a value again. -/
def roundTo (k : FKind) (neg : Bool) (m l : Nat) : Num :=
  let r := roundKeep neg m l (k.m + 1) (k.emin - k.m) 0
  if aboveMax k r.1 r.2 then .inf neg else .fin neg (unitsOf r.1 r.2)

/-- A value as an integer of units. -/
def signedUnits (neg : Bool) (m : Nat) : Int := if neg then -(m : Int) else m

/-- The value of an exact sum in units of 2^-`l`; a zero sum is +0 unless both terms were −0. -/
def roundSum (k : FKind) (i : Int) (bothNeg : Bool) (l : Nat) : Num :=
  if i = 0 then .fin bothNeg 0 else roundTo k (decide (i < 0)) i.natAbs l

/-- R141: IEEE addition in a format. -/
def addNum (k : FKind) (a b : Num) : Num :=
  match a, b with
  | .nan, _ => .nan
  | _, .nan => .nan
  | .inf x, .inf y => if x = y then .inf x else .nan
  | .inf x, _ => .inf x
  | _, .inf y => .inf y
  | .fin x m, .fin y n => roundSum k (signedUnits x m + signedUnits y n) (x && y && m == 0 && n == 0) 1074

/-- The sign of a value inverted. -/
def negNum (a : Num) : Num :=
  match a with
  | .nan => .nan
  | .inf x => .inf !x
  | .fin x m => .fin (!x) m

/-- IEEE fused multiply-add: a × b + c rounded once; `mulOnly` leaves c out. -/
def fmaNum (k : FKind) (mulOnly : Bool) (a b c : Num) : Num :=
  let prod : Num ⊕ (Bool × Nat) := match a, b with
    | .nan, _ => .inl .nan
    | _, .nan => .inl .nan
    | .inf x, .inf y => .inl (.inf (x != y))
    | .inf x, .fin y n => if n = 0 then .inl .nan else .inl (.inf (x != y))
    | .fin x m, .inf y => if m = 0 then .inl .nan else .inl (.inf (x != y))
    | .fin x m, .fin y n => .inr (x != y, m * n)
  match prod with
  | .inl v => if mulOnly then v else (match v, c with
    | .nan, _ => .nan
    | _, .nan => .nan
    | .inf x, .inf y => if x = y then .inf x else .nan
    | w, _ => w)
  | .inr (x, m) =>
    if mulOnly then roundTo k x m 2148
    else match c with
      | .nan => .nan
      | .inf y => .inf y
      | .fin y n => roundSum k (signedUnits x m + signedUnits y (n * 2 ^ 1074)) (x && y && m == 0 && n == 0) 2148

/-- A value × 2^`i`, rounded once. -/
def sclNum (k : FKind) (a : Num) (i : Int) : Num :=
  match a with
  | .fin x m => if 0 ≤ i then roundTo k x (m * 2 ^ i.toNat) 1074 else roundTo k x m (1074 + (-i).toNat)
  | w => w

/-- Does `a` come before `b` numerically, −0 before +0? NaN aside. -/
def numLt (a b : Num) : Bool :=
  let key := fun (v : Num) => match v with
    | .nan => ((0 : Int), (0 : Int))
    | .inf neg => (if neg then (-(2 ^ 4200 : Int)) else 2 ^ 4200, 0)
    | .fin neg m => (signedUnits neg m, if neg then 0 else 1)
  decide ((key a).1 < (key b).1 ∨ ((key a).1 = (key b).1 ∧ (key a).2 < (key b).2))

/-- R81: IEEE minimum. -/
def minNum (a b : Num) : Num :=
  match a, b with
  | .nan, _ => .nan
  | _, .nan => .nan
  | x, y => if numLt y x then y else x

/-- R81: IEEE maximum. -/
def maxNum (a b : Num) : Num :=
  match a, b with
  | .nan, _ => .nan
  | _, .nan => .nan
  | x, y => if numLt x y then y else x

/-- Equality of values: −0 equals +0. -/
def eqNum (a b : Num) : Bool :=
  match a, b with
  | .nan, _ => false
  | _, .nan => false
  | .fin x m, .fin y n => signedUnits x m == signedUnits y n
  | x, y => x == y

/-- R141: a contribution element in the accumulation format. -/
def toAcc (k : FKind) (v : Num) : Num :=
  match v with
  | .fin neg m => roundTo k neg m 1074
  | w => w

/-! ### Ordered mode (R142) -/

/-- The largest power of two below `n`. -/
def splitAt (n : Nat) : Nat := 2 ^ Nat.log2 (n - 1)

/-- R142: the balanced tree over values in ascending order. `fuel` bounds its depth. -/
def treeSum (k : FKind) : Nat → List Num → Num
  | 0, l => l.headD (.fin false 0)
  | fuel + 1, l =>
    match l with
    | [] => .fin false 0
    | [x] => x
    | l =>
      let n := splitAt l.length
      addNum k (treeSum k fuel (l.take n)) (treeSum k fuel (l.drop n))

/-! ### Combiner programs (R147 to R149) -/

/-- A combiner operation word (R148). -/
structure COp where
  op : Nat
  d : Nat
  a : Nat
  b : Nat
  c : Nat
  rnd : Nat
  sat : Bool
  fmt : Nat
  imm : Nat
  deriving DecidableEq, Repr

/-- R148: the fields of an operation word. -/
def copOf (w : Nat) : COp where
  op := bits w 31 27
  d := bits w 26 24
  a := bits w 23 21
  b := bits w 20 18
  c := bits w 17 15
  rnd := bits w 14 13
  sat := bit w 12
  fmt := bits w 11 7
  imm := bits w 6 0

/-- R149: which fields an operation uses: d, a, b, c, Rnd, Sat, Format, Imm. -/
def copUses (op : Nat) : Option (List Bool) :=
  match op with
  | 0x01 | 0x0B | 0x0C => some [true, true, false, false, false, false, false, false]
  | 0x02 => some [true, false, false, false, false, false, false, true]
  | 0x03 | 0x04 | 0x05 | 0x08 | 0x09 => some [true, true, true, false, false, false, false, false]
  | 0x06 | 0x0A | 0x0E => some [true, true, true, true, false, false, false, false]
  | 0x07 => some [true, true, false, false, false, false, false, true]
  | 0x0D => some [true, true, true, false, true, false, false, false]
  | 0x0F => some [true, true, false, false, true, true, true, false]
  | 0x10 | 0x11 => some [false, true, false, false, true, true, true, false]
  | _ => none

/-- R148: are the fields that an operation does not use zero, and LDC's index in range? -/
def COp.fieldsOk (o : COp) : Bool :=
  match copUses o.op with
  | none => false
  | some u =>
    let z := fun (i v : Nat) => u.getD i false || v == 0
    z 0 o.d && z 1 o.a && z 2 o.b && z 3 o.c && z 4 o.rnd && z 5 (ofBool o.sat) && z 6 o.fmt && z 7 o.imm &&
    (o.op != 0x02 || decide (o.imm < 16))

/-- The operation words of a program block: least significant byte first (R5). -/
def progWord (block : List Byte) (i : Nat) : Nat := leNat (sliceBytes block (4 * i) 4)

/-- R148: the program checks of a block under an arithmetic word. -/
def progOk (a : AWord) (block : List Byte) : Bool :=
  block.length == 192 &&
  (List.range 32).all fun i =>
    let w := progWord block i
    let o := copOf w
    if a.plen < i then w == 0
    else o.fieldsOk &&
      (if i = a.plen then
         (o.op == 0x10 && o.fmt == a.output && !isMx a.output) || (o.op == 0x11 && o.fmt == a.output && isMx a.output)
       else o.op != 0x10 && o.op != 0x11) &&
      (o.op != 0x0F || decide (o.fmt ≤ 4) || (o.fmt == 0x0D && a.acc == 1))

/-- R149: one operation on the registers, with the windrow-overflow events of a CVT (R137). -/
def copStep (k : FKind) (consts : List Num) (st : List Num × Nat) (o : COp) : List Num × Nat :=
  let regs := st.1
  let z := Num.fin false 0
  let va := regs.getD o.a z
  let vb := regs.getD o.b z
  let vc := regs.getD o.c z
  let one := Num.fin false (2 ^ 1074)
  let r : Option Num := match o.op with
    | 0x01 => some va
    | 0x02 => some (consts.getD (o.imm % 16) z)
    | 0x03 => some (addNum k va vb)
    | 0x04 => some (addNum k va (negNum vb))
    | 0x05 => some (fmaNum k true va vb z)
    | 0x06 => some (fmaNum k false va vb vc)
    | 0x07 => some (sclNum k va (signedOf 7 o.imm))
    | 0x08 => some (minNum va vb)
    | 0x09 => some (maxNum va vb)
    | 0x0A => some (minNum (maxNum va vb) vc)
    | 0x0B => some (match va with
      | .nan => .nan
      | .inf _ => .inf false
      | .fin _ m => .fin false m)
    | 0x0C => some (negNum va)
    | 0x0D =>
      let un := va == Num.nan || vb == Num.nan
      let c := match o.rnd with
        | 0 => eqNum va vb
        | 1 => !un && !eqNum va vb && numLt va vb
        | 2 => !un && (eqNum va vb || numLt va vb)
        | _ => un
      some (if c then one else z)
    | 0x0E => some (match va with
      | .nan => vc
      | .inf _ => vb
      | .fin _ m => if m = 0 then vc else vb)
    | 0x0F => some (match fkindOf o.fmt with
      | some f => decodeF f (convF f va o.rnd o.sat).w
      | none => va)
    | _ => none
  let ovf := if o.op = 0x0F then (match fkindOf o.fmt with
    | some f => (convF f va o.rnd o.sat).ovf
    | none => 0) else 0
  match r with
  | some v => (regs.set o.d v, st.2 + ovf)
  | none => st

/-- R147: run a program on one element; the value that OUT or MXQ takes, and the overflows on the way (R137). -/
def runProg (a : AWord) (block : List Byte) (v : Num) : Num × Nat :=
  let k := a.work
  let consts := (List.range 16).map fun i => decodeF kFp32 (leNat (sliceBytes block (128 + 4 * i) 4))
  let v0 := toAcc k v
  let ovf := match v, v0 with
    | .fin _ _, .inf _ => 1
    | _, _ => 0
  let r := (List.range a.plen).foldl (fun st i => copStep k consts st (copOf (progWord block i)))
    (v0 :: List.replicate 7 (Num.fin false 0), ovf)
  (r.1.getD (copOf (progWord block a.plen)).a (.fin false 0), r.2)

/-- The values of a finished piece on their way out: the program, if any, and the output format; with the counts. -/
def finishNums (a : AWord) (block : List Byte) (vs : List Num) : List Byte × Conv :=
  if a.prog then
    let o := copOf (progWord block a.plen)
    let rs := vs.map (runProg a block)
    let r := encodeNums a.output (rs.map (·.1)) o.rnd o.sat
    (r.1, { r.2 with ovf := r.2.ovf + rs.foldl (fun n x => n + x.2) 0 })
  else encodeNums a.output vs a.rnd a.sat

/-! ### Top-K merge (R165) -/

/-- R165: the key of a candidate for the order: a NaN counts as lower than every other value. -/
def candBefore (x y : Nat × Nat) : Bool :=
  let v := fun (w : Nat) => decodeF kFp32 w
  match v x.1, v y.1 with
  | .nan, .nan => decide (x.2 < y.2)
  | .nan, _ => false
  | _, .nan => true
  | a, b => if numLt b a then true else if numLt a b then false else decide (x.2 < y.2)

/-- R165: candidates of a row: value pattern (NaN replaced on entry) and index. -/
def readRow (bytes : List Byte) : List (Nat × Nat) :=
  (List.range (bytes.length / 8)).map fun i =>
    let w := leNat (sliceBytes bytes (8 * i) 4)
    (if decodeF kFp32 w = Num.nan then 0x7FC00000 else w, leNat (sliceBytes bytes (8 * i + 4) 4))

/-- Put a candidate into an ordered row. -/
def insCand (x : Nat × Nat) : List (Nat × Nat) → List (Nat × Nat)
  | [] => [x]
  | y :: t => if candBefore x y then x :: y :: t else y :: insCand x t

/-- R165: the first K of the union of rows. -/
def mergeRows (k : Nat) (rows : List (List (Nat × Nat))) : List (Nat × Nat) :=
  ((rows.flatten).foldl (fun acc x => insCand x acc) []).take k

/-- A row in bytes. -/
def rowBytes (l : List (Nat × Nat)) : List Byte := l.flatMap fun x => leBytes 4 x.1 ++ leBytes 4 x.2

/-- R165: merge payloads of whole rows of K candidates. -/
def mergeTopK (k : Nat) (payloads : List (List Byte)) : List Byte :=
  let n := (payloads.foldl (fun a p => max a p.length) 0) / (8 * k)
  (List.range n).flatMap fun r => rowBytes (mergeRows k (payloads.map fun p => readRow ((p.drop (8 * k * r)).take (8 * k))))

/-! ### The digest (R173) -/

/-- R173: H(k, bytes). -/
def digestOf (k : Nat) (bytes : List Byte) : Nat := (leBytes 8 k ++ bytes).foldl crcByte 0

/-! ### Pieces of a collective (R156 to R158) -/

/-- What a context makes of a collective of `n` members of size `size`: operation, elements of a piece, pieces of a shard
and shards. -/
structure Shape where
  op : Nat
  word : Nat
  k : Nat
  order : Nat
  e : Nat
  q : Nat
  shards : Nat
  size : Nat
  deriving DecidableEq, Repr

/-- R156: elements of a piece. -/
def elemsPerPiece (op word k : Nat) : Nat :=
  if op = 4 then 4080 / (8 * k) else min (fullElems (aword word).input) (fullElems (aword word).output)

/-- R157: the shape of a collective; an operation without pieces has none. -/
def shapeOf (op word k order size members : Nat) : Shape :=
  let e := elemsPerPiece op word k
  if op = 3 ∨ op = 5 then { op := op, word := word, k := k, order := order, e := 1, q := 0, shards := 0, size := size }
  else { op := op, word := word, k := k, order := order, e := e, q := (size + e - 1) / e,
         shards := if op = 0 ∨ op = 1 then members else 1, size := size }

/-- R157: the pieces of a collective. -/
def Shape.pieces (s : Shape) : Nat := s.q * s.shards

/-- R157: the shard and part of a piece. -/
def Shape.shard (s : Shape) (k : Nat) : Nat := k / max 1 s.q
def Shape.part (s : Shape) (k : Nat) : Nat := k % max 1 s.q

/-- R157: the elements of a piece. -/
def Shape.elems (s : Shape) (k : Nat) : Nat := min s.e (s.size - s.part k * s.e)

/-- R157: the first element of a piece in the whole buffer. -/
def Shape.first (s : Shape) (k : Nat) : Nat := s.shard k * s.size + s.part k * s.e

/-- R157: an MX format needs whole blocks; R157: at most 1,048,575 pieces. -/
def Shape.ok (s : Shape) : Bool :=
  let a := aword s.word
  (!(s.op ≤ 2 && (isMx a.input || isMx a.output)) || s.size % 32 == 0) && decide (s.pieces ≤ 1048575)

/-- Wire bytes of a contribution's piece and of a result's piece. -/
def Shape.inBytes (s : Shape) (k : Nat) : Nat :=
  if s.op = 4 then s.elems k * 8 * s.k else wireBytes (aword s.word).input (s.elems k)
def Shape.outBytes (s : Shape) (k : Nat) : Nat :=
  if s.op = 4 then s.elems k * 8 * s.k else wireBytes (aword s.word).output (s.elems k)

/-- R158: the plane of a chunk on a live list, and the tree of its plane-local number (0 tree A, 1 tree B). -/
def planeOfChunk (live : List Nat) (c : Nat) : Nat := live.getD (c % max 1 live.length) 0
def treeOfPiece (live order k : Nat) : Nat := k / 2 ^ order / max 1 live % 2

end Sys2Proof.Machine
end

