-- ==== Sys2Proof/Machine/CollEp.lean ====
section
/-! DEFINITION. Collectives at a member endpoint (R154, R157 to R161, R163, R166, R173 to R176). -/

namespace Sys2Proof.Machine

/-! ### Names and shapes -/

/-- Change a collective of the endpoint. -/
def State.modColl (s : State) (c : Nat) (f : EpColl → EpColl) : State :=
  s.modEp fun e => { e with colls := modFirst (fun x => x.id == c) f e.colls }

/-- The collective of an identifier. -/
def State.coll (s : State) (c : Nat) : Option EpColl := s.ep.colls.find? fun x => x.id == c

/-- R153: the collective of a name. -/
def State.collNamed (s : State) (job group cseq : Nat) : Option EpColl :=
  s.ep.colls.find? fun x => x.job == job && x.group == group && x.cseq == cseq

/-- R151, R162: the fields of a context's bytes 0 to 7: V, Operation, Chunk order, Arithmetic word, K. -/
def ctxFields (w : Nat) : Bool × Nat × Nat × Nat × Nat :=
  (bit w 63, bits w 62 59, bits w 58 55, bits w 54 23, bits w 22 15 + 1)

/-- The shape that a context gives a collective. -/
def EpColl.shapeFrom (x : EpColl) (w : Nat) : Shape :=
  let f := ctxFields w
  shapeOf f.2.1 f.2.2.2.1 f.2.2.2.2 f.2.2.1 x.size (x.members + 1)

/-- The shape in force. -/
def EpColl.shape (x : EpColl) : Option Shape := x.cword.map x.shapeFrom

/-- R158: the live list of a collective. -/
def EpColl.live (x : EpColl) : List Nat := bitsSet 16 x.planes

/-- R166: bytes of an item and pieces of an item. -/
def EpColl.itemBytes (x : EpColl) : Nat := x.units * 64
def EpColl.itemParts (x : EpColl) : Nat := (x.itemBytes + 4031) / 4032

/-- R157, R161: the pieces that the member contributes, in ascending order. -/
def EpColl.mine (x : EpColl) (sh : Shape) : List Nat :=
  match sh.op with
  | 0 => List.range sh.pieces
  | 1 => (List.range sh.q).map fun i => x.rank * sh.q + i
  | 2 => if x.rank = x.root then List.range sh.pieces else []
  | 4 => List.range sh.pieces
  | 5 => List.range (x.size * x.itemParts)
  | _ => []

/-- The pieces that have not yet passed. -/
def EpColl.left (x : EpColl) (sh : Shape) : List Nat := (x.mine sh).filter fun k => !x.passed.contains k

/-- R158, R166: the plane of a piece. -/
def EpColl.planeOf (x : EpColl) (sh : Shape) (k : Nat) : Nat :=
  if sh.op = 5 then planeOfChunk x.live (k / max 1 x.itemParts) else planeOfChunk x.live (k / 2 ^ sh.order)

/-- R158: the one plane of a barrier. -/
def EpColl.barrierPlane (x : EpColl) : Nat := planeOfChunk x.live x.cseq

/-- R164, R174: the result pieces that the member receives. -/
def EpColl.expected (x : EpColl) (sh : Shape) : List Nat :=
  match sh.op with
  | 0 => (List.range sh.q).map fun i => x.rank * sh.q + i
  | 1 | 2 | 4 => List.range sh.pieces
  | _ => []

/-- Bytes of `n` elements of a format in its element array. -/
def arrayBytes (fmt n : Nat) : Nat := (n * elemBits fmt + 7) / 8

/-- An array VFA of the descriptor. -/
def EpColl.vfa (x : EpColl) (i : Nat) : Nat := x.vfas.getD i 0

/-- Element and scale arrays: where `n` elements from element `first` of a format stand. -/
def tensorRanges (fmt arr scale first n : Nat) : List (Nat × Nat) :=
  [(arr + first * elemBits fmt / 8, arrayBytes fmt n)] ++
  (if isMx fmt then [(scale + first / 32, (n + 31) / 32)] else [])

/-- R160: the arrays that a collective uses, as ranges of VFAs. -/
def EpColl.uses (x : EpColl) (sh : Shape) : List (Nat × Nat) :=
  let a := aword sh.word
  let n := x.members + 1
  let src := fun (m : Nat) => tensorRanges a.input (x.vfa 0) (x.vfa 2) 0 m
  let dst := fun (m : Nat) => tensorRanges a.output (x.vfa 1) (x.vfa 3) 0 m
  match sh.op with
  | 0 => src (n * x.size) ++ dst x.size
  | 1 => src x.size ++ dst (n * x.size)
  | 2 => (if x.rank = x.root then src x.size else []) ++ dst x.size
  | 4 => [(x.vfa 0, x.size * 8 * sh.k), (x.vfa 1, x.size * 8 * sh.k)]
  | 5 => [(x.vfa 0, x.size * x.itemBytes), (x.vfa 1, x.recvSlots * x.itemBytes), (x.vfa 2, x.size * 8)]
  | _ => []

/-- R160: the granules of those arrays, each under right C. -/
def EpColl.granules (x : EpColl) (sh : Shape) : List Nat :=
  ((x.uses sh).flatMap fun r => granulesOf r.1 r.2).foldl (fun l g => setIns l (g * 4 + 3)) []

/-- The local address of a VFA of an array. -/
def EpColl.localOf (x : EpColl) (vfa : Nat) : Nat :=
  match x.arrays.find? fun g => g.1 == vfa / 65536 with
  | some g => g.2 + vfa % 65536
  | none => vfa % 65536

/-! ### Starting (R159, R160) -/

/-- The context bytes that the module holds for a group: what the extents of arrays are read by before the Probes. -/
def State.peekContext (s : State) (x : EpColl) : Option Nat :=
  if !x.live.contains s.plane then none
  else match tabGet s.mod.groups x.group with
    | none => none
    | some g =>
      if !g.v || g.job != x.job then none
      else match tabGet g.ctxs x.cctx with
        | none => none
        | some c => if c.v then some (2 ^ 63 + c.op * 2 ^ 59 + c.order * 2 ^ 55 + c.word * 2 ^ 23 + (c.k - 1) * 2 ^ 15) else none

/-- Translate the granules of a collective that it has not yet. -/
def State.collNeed (s : State) (x : EpColl) : State :=
  match x.shape with
  | none => s
  | some sh =>
    let ks := (x.granules sh).filter fun k => !(x.got.any fun g => g.1 == k)
    let s := s.modColl x.id fun x => { x with todo := ks }
    ks.foldl (fun s k => s.needGranule (.coll x.id) x.slot x.job (k / 4) 3) s

/-- R159: the fields of a Collective start outside its descriptor: group, context, plane mask, sequence, Reserved. -/
def startFields (m : Eri) : Nat × Nat × Nat × Nat × Nat :=
  (bits m.aux 55 42, bits m.aux 41 40, bits m.aux 39 24, bits m.value 63 32, bits m.aux 23 0 + bits m.value 31 0)

/-- R159, R274, R278: does a Collective start complete at once, and with what code? -/
def State.collRefused (s : State) (m : Eri) : Option Nat :=
  let f := startFields m
  let d := beNat (sliceBytes m.body 0 64)
  if 256 ≤ s.ep.colls.length then some cRetry
  else if f.2.2.2.2 ≠ 0 ∨ bits d 112 0 ≠ 0 ∨ m.len ≠ 64 ∨ m.body.length ≠ 64 ∨ f.2.2.1 = 0 ∨
      ¬ (bitsSet 16 f.2.2.1).all s.ep.live.contains ∨ bits d 176 113 % 1000 ≠ 0 ∨ bits d 243 232 < bits d 255 244 ∨
      (s.collNamed m.job f.1 f.2.2.2.1).isSome then some cDenied
  else if s.ep.sh.mode = 1 ∧ ¬ s.ep.sh.mown.any (fun e => e.2.job == m.job && e.2.group == f.1 && e.2.cctx == f.2.1 &&
      e.2.cseq == f.2.2.2.1 && e.2.start == bits d 176 113 && e.2.planes == f.2.2.1 && e.2.state == 2) then some cDenied
  else if s.ep.sh.mown.any (fun e => e.2.job == m.job && e.2.group == f.1 && e.2.cctx == f.2.1 && e.2.cseq == f.2.2.2.1 &&
      e.2.state == 8) then some cDenied
  else none

/-- R159, R269: a Collective start takes an entry of the collective table and translates its arrays. -/
def State.collStart (s : State) (l slot : Nat) (m : Eri) : State :=
  let f := startFields m
  let d := beNat (sliceBytes m.body 0 64)
  let at_ := bits d 176 113
  let late := at_ != 0 && decide (at_ < s.rackNs .ep)
  let id := s.ep.nextColl
  let x : EpColl :=
    { id := id, job := m.job, slot := slot, agent := m.agent, tag := m.tag, link := l, group := f.1, cctx := f.2.1,
      planes := f.2.2.1, cseq := f.2.2.2.1, vfas := [bits d 511 456, bits d 455 400, bits d 399 344, bits d 343 288],
      size := bits d 287 256, rank := bits d 255 244, members := bits d 243 232, root := bits d 231 220,
      units := bits d 219 209, recvSlots := bits d 208 177,
      start := if late then (s.rackNs .ep / 1000 + 1) * 1000 else at_,
      state := 0, cword := none, seen := [], probes := [], todo := [], got := [], arrays := [], passed := [], sentOn := [],
      arrived := [], open_ := 0, written := [], recvd := 0, digest := 0, short := 0, late := 0, holds := 0, worst := 0,
      rel := [], accepted := s.ns, limit := s.reg .ep 0xD61002 * 1000, dead := [], bufs := [], routes := [], routeReads := 0 }
  let x := { x with cword := s.peekContext x }
  let s := if late then s.epCount 35 else s
  let s := if s.ep.sh.mode = 1 then s.modSh .ep fun sh => sh.moveEntry x.job x.group x.cctx x.cseq 2 3 else s
  let s := s.modEp fun e => { e with colls := e.colls ++ [x], nextColl := id + 1 }
  s.collNeed x

/-- R160: a collective's arrays have translated: each granule must lie on the own node and be admitted with right C. -/
def State.collAdmit (s : State) (x : EpColl) : State × Bool :=
  let r := x.got.foldl (fun (acc : State × Bool × List (Nat × Nat)) g =>
    if !acc.2.1 then acc
    else if g.2 / 2 ^ 46 ≠ s.node .ep then (acc.1, false, acc.2.2)
    else
      let a := acc.1.admitOwn x.job (g.2 % 2 ^ 46) 65536 3 0x20
      match a.2 with
      | .inl loc => (a.1, true, acc.2.2 ++ [(g.1 / 4, loc)])
      | .inr _ => (a.1, false, acc.2.2)) (s, true, [])
  if r.2.1 then (r.1.modColl x.id fun x => { x with arrays := r.2.2 }, true) else (r.1, false)

/-! ### Sending (R154, R158, R161) -/

/-- A collective packet of a member: a request to the Commons node of a plane. -/
def State.collSubmit (s : State) (x : EpColl) (op phase plane piece : Nat) (payload : List Byte) : State :=
  let id := s.ep.sh.nextReq
  let k : Packet := { Packet.zero with typ := 0x20 + op, job := x.job, src := s.node .ep, dst := 512 + plane,
                                       srcRack := s.rack .ep, dstRack := s.rack .ep, plane := plane, group := x.group,
                                       cseq := x.cseq, phase := phase, cctx := x.cctx, piece := piece, size := x.size,
                                       len := payload.length, payload := payload }
  let r : Req := { id := id, order := id, agent := x.agent, tag := x.tag, link := x.link, owner := .coll x.id, st := .waiting,
                   slot := x.slot, gen := 0, vfa := 0, want := 3, rel := .none, acq := .none, noCache := true, cgen := 0,
                   fillOff := 0, fillLen := 0, forced := false, pkt := k, first := 0, last := 0, sends := 0, retrans := 0,
                   retries := 0, due := 0, timeout := 0, reLimit := 0, retryLimit := 0, life := 0, waits := [], bad := [],
                   sl := ⟨0, 0, 0, 0⟩, accAt := s.ns, trAt := s.ns, trSeq := 0, near := [],
                     ecc := [] }
  let s := s.modSh .ep fun sh => { sh with reqs := sh.reqs ++ [r], nextReq := id + 1 }
  let s := s.modColl x.id fun x => { x with open_ := x.open_ + 1 }
  if s.ep.live.contains plane then s.issue id else s.endReq .ep id cPoison []

/-- R159: one Probe on each plane of the live list. -/
def State.collProbe (s : State) (x : EpColl) : State :=
  let s := s.modColl x.id fun x => { x with state := 1, probes := x.live }
  x.live.foldl (fun s p => s.collSubmit x 0 6 p 0 []) s

/-- The parts of the member's own arrays that make a piece: where they stand and their bytes, cut at 4 KiB. -/
def EpColl.segs (x : EpColl) (sh : Shape) (k : Nat) : List (Nat × Nat) :=
  let cut := fun (r : Nat × Nat) => (pieces4k r.1 r.2).map fun p => (r.1 + p.1, p.2)
  let fmt := (aword sh.word).input
  match sh.op with
  | 4 => cut (x.vfa 0 + sh.part k * sh.e * 8 * sh.k, sh.elems k * 8 * sh.k)
  | 5 =>
    let part := k % max 1 x.itemParts
    cut (x.vfa 0 + k / max 1 x.itemParts * x.itemBytes + part * 4032, min 4032 (x.itemBytes - part * 4032))
  | 0 => (tensorRanges fmt (x.vfa 0) (x.vfa 2) (sh.first k) (sh.elems k)).flatMap cut
  | _ => (tensorRanges fmt (x.vfa 0) (x.vfa 2) (sh.part k * sh.e) (sh.elems k)).flatMap cut

/-- R166: the destination rank and slot of an item, where its route has been read. -/
def EpColl.route (x : EpColl) (item : Nat) : Option (Nat × Nat) :=
  if x.routes.any fun r => decide (r.1 ≤ item * 8 ∧ item * 8 + 8 ≤ r.1 + r.2.length) then
    let w := leNat (bufBytes x.routes (item * 8) 8)
    some (bits w 63 52, bits w 51 20)
  else none

/-- R166: the exchange prefix. -/
def exchangePrefix (dest sender slot off : Nat) : List Byte :=
  beBytes 16 (dest * 2 ^ 116 + sender * 2 ^ 104 + slot * 2 ^ 72 + off * 2 ^ 56)

/-- R127: elements and scales of whole blocks as wire units. -/
def interleave (fmt : Nat) (elems scales : List Byte) : List Byte :=
  let b := 4 * elemBits fmt
  (List.range (elems.length / max 1 b)).flatMap fun i => scales.getD i 0#8 :: sliceBytes elems (i * b) b

/-- The bytes of a piece, once every part of it has been read: none while a part is out; `some none` when one failed. -/
def EpColl.assemble (x : EpColl) (sh : Shape) (k : Nat) : Option (Option (List Byte)) :=
  let segs := x.segs sh k
  let got := (List.range segs.length).map fun i => (x.bufs.find? fun b => b.1 == k && b.2.1 == i).map (·.2.2)
  if got.any Option.isNone then none
  else
    let parts := got.map fun g => g.getD []
    if (segs.zip parts).any fun z => z.1.2 != z.2.length then some none
    else
      let fmt := (aword sh.word).input
      if sh.op = 5 then
        match x.route (k / max 1 x.itemParts) with
        | none => some none
        | some r => some (some (exchangePrefix r.1 x.rank r.2 (k % max 1 x.itemParts * 4032) ++ parts.flatten))
      else if sh.op ≠ 4 ∧ isMx fmt then
        let n := arrayBytes fmt (sh.elems k)
        let all := parts.flatten
        some (some (interleave fmt (all.take n) (all.drop n)))
      else some (some parts.flatten)

/-- R166: slot × 65,536 plus the byte offset ÷ 64 of an exchange payload. -/
def exchangeKey (payload : List Byte) : Nat :=
  let w := beNat (payload.take 16)
  bits w 103 72 * 65536 + bits w 71 56 / 64

/-- R161: one piece passes: sent on its plane, or left out when its read failed or its plane is lost. -/
def State.collPiece (s : State) (c : Nat) (sh : Shape) (k : Nat) (payload : Option (List Byte)) : State :=
  match s.coll c with
  | none => s
  | some x =>
    let pl := x.planeOf sh k
    let pass := fun (x : EpColl) => { x with passed := x.passed ++ [k], bufs := x.bufs.filter fun b => b.1 != k }
    match payload with
    | none => s.modColl c fun x => { pass x with worst := worse x.worst cPoison }
    | some data =>
      if x.dead.contains pl then s.modColl c pass
      else
        let d := if sh.op = 5 then digestOf (exchangeKey data) data else 0
        let s := s.modColl c fun x => { pass x with sentOn := tabSet x.sentOn pl (tabGetD x.sentOn pl 0 + 1),
                                                    digest := x.digest ^^^ d }
        s.collSubmit x sh.op 0 pl k data

/-- R161: the Arrives of the planes whose pieces have all been sent, and, for an exchange, completed. -/
def State.collArrives (s : State) (c : Nat) (sh : Shape) : State :=
  match s.coll c with
  | none => s
  | some x =>
    let left := x.left sh
    let planes := if sh.op = 3 then [x.barrierPlane] else x.live
    let ready := planes.filter fun p =>
      !x.arrived.contains p && !x.dead.contains p && !(left.any fun k => x.planeOf sh k == p) &&
      !(sh.op == 5 && s.ep.sh.reqs.any fun r => r.owner == Owner.coll c && r.pkt.plane == p)
    ready.foldl (fun s p =>
      let n := if sh.op = 3 then 0 else tabGetD x.sentOn p 0
      (s.modColl c fun x => { x with arrived := x.arrived ++ [p] }).collSubmit x sh.op 4 p n []) s

/-- Everything that can be sent has been: Arrives leave, and the last one ends the sending. -/
def State.collSent (s : State) (c : Nat) (sh : Shape) : State :=
  let s := s.collArrives c sh
  match s.coll c with
  | none => s
  | some x =>
    let planes := if sh.op = 3 then [x.barrierPlane] else x.live
    if x.state = 3 ∧ (x.left sh).isEmpty ∧ planes.all fun p => x.arrived.contains p || x.dead.contains p then
      s.modColl c fun x => { x with state := 4 }
    else s

/-- Send, in order, the pieces whose bytes are here. -/
def State.collPump (s : State) (c : Nat) (sh : Shape) : State :=
  match s.coll c with
  | none => s
  | some x =>
    let r := (x.left sh).foldl (fun (acc : State × Bool) k =>
      if !acc.2 then acc
      else match x.assemble sh k with
        | none => (acc.1, false)
        | some p => (acc.1.collPiece c sh k p, true)) (s, true)
    r.1.collSent c sh

/-- R273: the plane-local index of a piece. -/
def EpColl.localIndex (x : EpColl) (sh : Shape) (k : Nat) : Nat :=
  if sh.op = 3 then 0 else k / 2 ^ sh.order / max 1 x.live.length * 2 ^ sh.order + k % 2 ^ sh.order

/-- The entry of a collective's name that the endpoint holds (R274). -/
def State.epEntry (s : State) (x : EpColl) : Option MownEntry :=
  (s.ep.sh.mown.find? fun e => e.2.job == x.job && e.2.group == x.group && e.2.cctx == x.cctx && e.2.cseq == x.cseq &&
    e.2.state != 0).map (·.2)

/-- R274: MOWN_PIECE_SEND: a piece leaves at its send time, in ascending order on its plane, once it has been read; a
barrier's Arrive leaves at Start time. -/
def State.mownPieceSend (s : State) (c k : Nat) : State :=
  match s.coll c with
  | none => s
  | some x => match x.shape, s.epEntry x with
    | some sh, some e =>
      let at_ := e.start + x.localIndex sh k * e.interval
      if s.ep.sh.mode ≠ 1 ∨ x.state ≠ 3 ∨ s.rackNs .ep < at_ then s
      else if sh.op = 3 then s.collSent c sh
      else if !(x.left sh).contains k || (x.left sh).any (fun j => decide (j < k) && x.planeOf sh j == x.planeOf sh k) then s
      else match x.assemble sh k with
        | none => s
        | some p => (s.collPiece c sh k p).collSent c sh
    | _, _ => s

/-- R161: sending begins: every piece is read from accelerator memory (purpose 4). -/
def State.collSend (s : State) (c : Nat) : State :=
  match s.coll c with
  | none => s
  | some x => match x.shape with
    | none => s
    | some sh =>
      let s := s.modColl c fun x => { x with state := 3 }
      let s := (x.mine sh).foldl (fun s k =>
        let segs := x.segs sh k
        (List.range segs.length).foldl (fun s i =>
          let g := segs.getD i (0, 0)
          s.sendMem (.piece c k i) 0x28 4 (x.localOf g.1) g.2 0 0 []) s) s
      if s.ep.sh.mode = 0 then s.collPump c sh else s

/-- R161: COLLECTIVE_SEND_START: every Probe answered, the route array read, and Start time reached. -/
def State.collStartTime (s : State) (c : Nat) : State :=
  match s.coll c with
  | none => s
  | some x => if x.state = 2 ∧ x.routeReads = 0 ∧ x.start ≤ s.rackNs .ep then s.collSend c else s

/-- R166: read the route array of an exchange. -/
def State.collRoutes (s : State) (c : Nat) : State :=
  match s.coll c with
  | none => s
  | some x => match x.shape with
    | none => s
    | some sh =>
      if sh.op ≠ 5 then s
      else
        let ps := pieces4k (x.vfa 2) (x.size * 8)
        let s := s.modColl c fun x => { x with routeReads := ps.length }
        ps.foldl (fun s p => s.sendMem (.exchange c p.1) 0x28 4 (x.localOf (x.vfa 2 + p.1)) p.2 0 0 []) s

/-! ### Ends (R174, R175) -/

/-- Requests of a collective that no sending or answer holds leave with it. -/
def State.collDrop (s : State) (c : Nat) : State :=
  ((s.ep.sh.reqs.filter fun r => r.owner == Owner.coll c && r.st != ReqSt.sent).map (·.id)).foldl (fun s i => s.dropReq .ep i) s

/-- A collective ends; what it still held back is not sent. -/
def State.collFinish (s : State) (c code : Nat) : State := (s.collEnd c code).collDrop c

/-- R174: has the member all that the table of operations asks for? Planes that are lost bring nothing. -/
def EpColl.complete (x : EpColl) (sh : Shape) : Bool :=
  match sh.op with
  | 3 => !x.rel.isEmpty || x.dead.contains x.barrierPlane
  | 5 => x.live.all fun p => x.rel.contains p || x.dead.contains p
  | _ => (x.expected sh).all fun k => x.written.contains k || x.dead.contains (x.planeOf sh k)

/-- Every Probe has been answered (R159). -/
def State.collProbed (s : State) (x : EpColl) : State :=
  if x.worst ≠ 0 then s.collFinish x.id x.worst
  else if !x.dead.isEmpty then s.collFinish x.id cPoison
  else match x.seen with
    | [] => s
    | w :: rest =>
      let sh := x.shapeFrom w
      if rest.any (fun v => v != w) || !(ctxFields w).1 || decide (5 < sh.op) || !sh.ok ||
          (sh.op == 5 && decide (1048575 < x.size * x.itemParts)) then s.collFinish x.id cDenied
      else
        let y := { x with cword := some w, state := 6 }
        (s.modColl x.id fun _ => y).collNeed y

/-- A collective goes on as far as it can. -/
def State.collOn (s : State) (c : Nat) : State :=
  match s.coll c with
  | none => s
  | some x =>
    if x.state = 5 then (if x.open_ = 0 then s.collFinish c x.worst else s)
    else if x.state = 0 then
      if !x.todo.isEmpty then s
      else
        let a := s.collAdmit x
        if a.2 then a.1.collProbe x else a.1.collFinish c cDenied
    else if x.state = 1 then (if x.probes.isEmpty && x.open_ == 0 then s.collProbed x else s)
    else if x.state = 6 then
      if !x.todo.isEmpty then s
      else
        let a := s.collAdmit x
        if a.2 then (a.1.modColl c fun x => { x with state := 2 }).collRoutes c else a.1.collFinish c cDenied
    else if x.state = 2 then (if x.routeReads = 0 ∧ (x.start = 0 ∨ s.ep.sh.mode = 1) then s.collSend c else s)
    else match x.shape with
      | none => s
      | some sh =>
        let s := if x.state = 3 ∧ s.ep.sh.mode = 0 ∧ x.start ≤ s.rackNs .ep then s.collPump c sh else s
        match s.coll c with
        | none => s
        | some x =>
          if x.state ≠ 4 ∨ x.open_ ≠ 0 then s
          else if x.worst ≠ 0 ∧ x.worst ≠ cLate then s.collFinish c x.worst
          else if !x.complete sh then s
          else if !x.dead.isEmpty then s.collFinish c cPoison
          else s.collFinish c (if x.worst = cLate ∨ 0 < x.short then cLate else cDone)

/-- Every collective goes on, through at most six stages. -/
def State.collsOn (s : State) : State :=
  (List.range 6).foldl (fun s _ => (s.ep.colls.map (·.id)).foldl (fun s c => s.collOn c) s) s

/-- R175: a plane of a collective's live list is lost: it sends nothing more there. -/
def State.collPlaneLost (s : State) (p : Nat) : State :=
  (s.ep.colls.filter fun x => x.live.contains p && !x.dead.contains p).foldl (fun s x =>
    let ids := (s.ep.sh.reqs.filter fun r => r.owner == Owner.coll x.id && r.pkt.plane == p && r.st != ReqSt.sent).map (·.id)
    let s := ids.foldl (fun s i => (s.dropReq .ep i).modColl x.id fun x => { x with open_ := x.open_ - 1 }) s
    s.modColl x.id fun x => { x with dead := x.dead ++ [p], probes := x.probes.filter fun q => q != p }) s

/-- R175: the collective timeout. -/
def State.collTimeout (s : State) (c : Nat) : State :=
  match s.coll c with
  | none => s
  | some x => if x.accepted + x.limit ≤ s.ns then s.collFinish c cPoison else s

/-! ### Memory answers -/

/-- A read of a piece is back; a failed one holds no bytes. -/
def State.pieceAnswer (s : State) (c k part code : Nat) (data : List Byte) : State :=
  s.modColl c fun x => { x with bufs := x.bufs ++ [(k, part, if code = cDone then data else [])] }

/-- A read of a route array is back. A failed one makes the items that it names unsent (R161). -/
def State.routeAnswer (s : State) (c pos code : Nat) (data : List Byte) : State :=
  s.modColl c fun x => { x with routeReads := x.routeReads - 1,
                                routes := if code = cDone then x.routes ++ [(pos, data)] else x.routes }

/-! ### Results and Releases (R163, R166, R173, R176) -/

/-- R163: a packet that no collective of the endpoint takes. -/
def State.collUnknown (s : State) (k : Packet) (port : Nat) : State :=
  (s.epCount 27).finish .ep k port cDenied [] false

/-- R127: a wire payload as the bytes of its element array and of its scale array. -/
def deinterleave (fmt : Nat) (payload : List Byte) : List Byte × List Byte :=
  if isMx fmt then
    let u := wireUnit fmt
    let l := (List.range (payload.length / max 1 u)).map fun i => sliceBytes payload (i * u) u
    (l.flatMap fun b => b.drop 1, l.map fun b => b.getD 0 0#8)
  else (payload, [])

/-- Where the bytes of a result piece go: VFAs and bytes. -/
def EpColl.places (x : EpColl) (sh : Shape) (k : Packet) : List (Nat × List Byte) :=
  let fmt := (aword sh.word).output
  if sh.op = 5 then
    let w := beNat (k.payload.take 16)
    [(x.vfa 1 + bits w 103 72 * x.itemBytes + bits w 71 56, k.payload.drop 16)]
  else if sh.op = 4 then [(x.vfa 1 + sh.part k.piece * sh.e * 8 * sh.k, k.payload)]
  else
    let first := if sh.op = 0 then sh.part k.piece * sh.e else sh.first k.piece
    let d := deinterleave fmt k.payload
    [(x.vfa 1 + first * elemBits fmt / 8, d.1)] ++ (if isMx fmt then [(x.vfa 3 + first / 32, d.2)] else [])

/-- R163, R166: does a Result fit the collective? 0 yes, 1 unknown, 2 an exchange item that is refused. -/
def EpColl.fitsResult (x : EpColl) (sh : Shape) (k : Packet) : Nat :=
  if k.typ ≠ 0x20 + sh.op then 1
  else if sh.op = 5 then
    let w := beNat (k.payload.take 16)
    if k.payload.length < 17 ∨ bits w 55 0 ≠ 0 ∨ bits w 127 116 ≠ x.rank then 1
    else if x.recvSlots ≤ bits w 103 72 ∨ x.itemBytes < bits w 71 56 + (k.payload.length - 16) then 2 else 0
  else if (x.expected sh).contains k.piece ∧ k.payload.length = sh.outBytes k.piece then 0 else 1

/-- R163: write a Result; it is answered once its bytes are visible. -/
def State.collWrite (s : State) (x : EpColl) (sh : Shape) (k : Packet) (port : Nat) : State :=
  let id := s.ep.sh.recv.nextId
  let g : InProg := { id := id, src := k.from_, pkt := k, loc := 0, offBase := 0, port := port, result := none, at_ := s.ns,
                        err := 0, stage := 0 }
  let s := s.modRecv .ep fun r => { r with inprog := r.inprog ++ [g], nextId := id + 1 }
  (x.places sh k).foldl (fun s w =>
    (pieces4k w.1 w.2.length).foldl (fun s p =>
      s.sendMem (.resultW id x.id) 0x29 4 (x.localOf (w.1 + p.1)) p.2 0 0 (sliceBytes w.2 p.1 p.2)) s) s

/-- R176, R166: a Release reaches a member's collective. -/
def State.collRelease (s : State) (x : EpColl) (plane : Nat) : State :=
  s.modColl x.id fun x => { x with rel := setIns x.rel plane }

/-- R163, R176: a Result or Release that is new to the endpoint. A Release of a barrier that a timing lane has released before
is the second one: it is answered as a duplicate. A Result that comes before the context is known, while Probes are out, is
answered Retry (log entry 53). -/
def State.collTake (s : State) (k : Packet) (port : Nat) : State :=
  match s.jobState .ep k.job with
  | 1 => (s.deny .ep k.job k.src 0 k.typ 0).finish .ep k port cDenied [] false
  | 2 => ((s.epCount 10).partCount .ep k.job 4 1).finish .ep k port cTorn [] false
  | _ => match s.collNamed k.job k.group k.cseq with
    | none =>
      if k.phase = 5 ∧ s.ep.released.contains (k.job, k.group, k.cseq) then
        (s.modEp fun e => { e with released := e.released.filter fun r => r != (k.job, k.group, k.cseq) }).finish .ep k port cDone [] false
      else s.collUnknown k port
    | some x =>
      if (x.state = 0 ∨ x.state = 6) ∧ ¬ x.todo.isEmpty then s.respond .ep k port cRetry [] 0
      else match x.shape with
        | none => s.respond .ep k port cRetry [] 0
        | some sh =>
          if k.phase = 5 then
            if (sh.op = 3 ∨ sh.op = 5) ∧ k.typ = 0x20 + sh.op ∧ k.payload.isEmpty then
              (s.collRelease x k.plane).finish .ep k port cDone [] false
            else s.collUnknown k port
          else if k.phase ≠ 1 then s.collUnknown k port
          else match x.fitsResult sh k with
            | 0 => s.collWrite x sh k port
            | 1 => s.collUnknown k port
            | _ => (s.epCount 28).finish .ep k port cDenied [] false

/-- R44, R163: the endpoint receives a collective packet. -/
def State.collReceive (s : State) (k : Packet) (port : Nat) (tagOk : Bool) : State :=
  let a := s.admitPacket .ep k port tagOk (isColl k.typ)
  match a.2 with
  | none => a.1
  | some .fresh => a.1.collTake k port
  | some c => (a.1.notNew .ep k port c).1

/-- A write of a Result has been answered: the last one answers the Result and counts the piece (R163, R173). -/
def State.resultAnswer (s : State) (prog c code : Nat) : State :=
  let s := if code = cDone then s
    else s.modRecv .ep fun r => { r with inprog := modFirst (fun g => g.id == prog)
                                           (fun g => { g with result := some (cPoison, []) }) r.inprog }
  let out := s.ep.mem.any (fun m => m.who == MemFor.resultW prog c) || s.ep.txWait.any (fun w => w.who == some (MemFor.resultW prog c))
  if out then s
  else match s.ep.sh.recv.inprog.find? fun g => g.id == prog with
    | none => s
    | some g =>
      let code := if g.result.isSome then cPoison else cDone
      let s := s.finishProg .ep prog code []
      if code ≠ cDone then s
      else
        let f := fun (x : EpColl) =>
          let ex := g.pkt.typ == 0x25
          let h := digestOf (if ex then exchangeKey g.pkt.payload else g.pkt.piece) g.pkt.payload
          let again := !ex && x.written.contains g.pkt.piece
          if again then x
          else { x with written := if ex then x.written else x.written ++ [g.pkt.piece], recvd := x.recvd + 1,
                        digest := x.digest ^^^ h, short := x.short + ofBool (bit g.pkt.tree 1) }
        s.modColl c f

end Sys2Proof.Machine
end

