-- ==== Sys2Proof/Machine/Responses.lean ====
section
/-! DEFINITION. What reaches the source of requests: responses (R78, R86, R87, R154), gap and resync notices (R90, R93, R412),
and the timers of a request (R93, R94). -/

namespace Sys2Proof.Machine

/-! ### Checks of responses and notices -/

/-- R6, R75, R315: does a response or notice of a Type reach the source's tables? What is discarded is counted. DESIGN CHOICE
(log entry 158): a response with a code from 1 to 7 that carries a payload, against R78, is discarded as malformed input. -/
def State.srcTakes (s : State) (p : Part) (k : Packet) (port typ : Nat) (tagOk : Bool) : State × Bool :=
  let form := k.typ == typ && !k.reserved && !k.f && !k.vol && !k.s && k.off == 0 && k.interval == 0 && k.pred == 0 && k.aop == 0 &&
    k.fmt == 0 && k.len == k.payload.length && (k.code == 0 || decide (8 ≤ k.code) || k.payload.isEmpty) && decide (k.len ≤ 4096) &&
    (typ == 0x10 || (k.job == 0 && k.len == 0))
  if !form then (s.malformed p port, false)
  else if k.job = 0xFFFF then (s, false)
  else if k.dst ≠ s.node p then (s, false)
  else
    let c := s.sealCheck p k tagOk
    if c = 0 then (s, true) else (s.sealCount p c, false)

/-- The incomplete request of the pair that a sequence names (R78, R412). -/
def State.sentReq (s : State) (p : Part) (dst seq : Nat) : Option Req :=
  (s.sh p).reqs.find? fun r => r.isSent && r.pkt.to_ == dst && r.pkt.seq == seq

/-! ### Sending again -/

/-- The port on which the module reaches a node of its rack (R222), its plane's own. -/
def State.routePort (s : State) (node : Nat) : Option Nat :=
  match tabGet s.mod.routes node with
  | some r => if r.v && !r.fenced then some r.port else none
  | none => none

/-- R62, R93: send a request again on the plane that R22 now gives; a module's travels on its own plane. -/
def State.sendAgain (s : State) (p : Part) (r : Req) : State :=
  match p with
  | .ep =>
    let pl := if isColl r.pkt.typ then (if s.ep.live.contains r.pkt.plane && s.planeSince r.pkt.plane r.first then some r.pkt.plane else none)
      else s.planeAgain r.pkt.dst r.pkt.off r.first
    match pl with
    | some pl => s.resend .ep r pl 0 pl
    | none => s
  | .mod => match s.routePort r.pkt.dst with
    | some port => s.resend .mod r r.pkt.plane (tileOfPort port) port
    | none => s

/-- R93: a retransmit. It counts toward the limit; a revoked slot sends none (R96). DESIGN CHOICE (log entry 159): one for which
no plane or route leads to the destination counts, sends nothing and leaves the timer due. -/
def State.retransmitReq (s : State) (p : Part) (r : Req) : State :=
  if (p == Part.ep && s.slotRevoked r.slot r.pkt.job) || decide (r.reLimit ≤ r.retrans) then s
  else
    let s := s.modReq p r.id fun r => { r with retrans := r.retrans + 1 }
    let s := match p with
      | .ep => (s.epCount 15).partCount .ep r.pkt.job 7 1
      | .mod => s
    s.sendAgain p r

/-- R87, R154: the back-off of the n-th resend, in ns. -/
def backoff (n : Nat) : Nat := 1000 * 2 ^ min (n - 1) 6

/-! ### Responses (R78, R86) -/

/-- R87: a request is answered Retry: it waits for its back-off, or completes at the Retry limit; a Result, Release or
forwarded item has no limit (R163). -/
def State.onRetry (s : State) (p : Part) (r : Req) : State :=
  let free := match r.owner with
    | .result _ _ _ _ => true
    | .forward _ => true
    | _ => false
  let s := if p = Part.ep then s.partCount .ep r.pkt.job 6 1 else s
  if !free && decide (r.retryLimit ≤ r.retries) then s.endReq p r.id cRetry []
  else
    s.modReq p r.id fun r => { r with st := .retryWait, retries := r.retries + 1, due := s.ns + backoff (r.retries + 1) }

/-- R154: a collective packet is answered Hold. -/
def State.onHold (s : State) (r : Req) (c : Nat) : State :=
  let s := s.partCount .ep r.pkt.job 6 1
  match s.coll c with
  | none => s.dropReq .ep r.id
  | some _ =>
    let n := r.sends - r.retries - r.retrans
    s.modReq .ep r.id fun r => { r with st := .holdWait, due := s.ns + backoff n }

/-- R86, R106: a response that no code or length of R86 and R78 fits: Poison, counted in malformed-response. -/
def State.badResponse (s : State) (p : Part) (r : Req) : State :=
  (if p = Part.ep then s.epCount 12 else s).endReq p r.id cPoison []

/-- Does a Done response carry as many bytes as R78 gives its request? -/
def Req.doneLen (r : Req) (n : Nat) : Bool :=
  match r.pkt.typ with
  | 0x01 | 0x05 => n == r.pkt.len
  | 0x03 => n == if isAllocOp r.pkt.aop then 8 else fmtSize r.pkt.fmt
  | 0x20 => if r.pkt.phase = 6 then n == 8 else n == 0
  | _ => n == 0

/-- R11, R86: a response to an incomplete request. One of a revoked slot is Torn whatever its code (R96); a code of 8 to 15 is
counted there too. -/
def State.onResponse (s : State) (p : Part) (r : Req) (code : Nat) (data : List Byte) : State :=
  if p = Part.ep ∧ s.slotRevoked r.slot r.pkt.job then (if 8 ≤ code then s.epCount 12 else s).endReq p r.id cTorn []
  else match r.owner, code with
    | .coll c, 7 => s.onHold r c
    | .coll _, 5 => s.endReq p r.id cLate []
    | _, 0 =>
      if !r.doneLen data.length then s.badResponse p r
      else match p with
        | .ep => let f := s.fillAndTake r data; f.1.endReq .ep r.id cDone f.2
        | .mod => s.endReq .mod r.id cDone data
    | _, 1 => s.onRetry p r
    | _, 2 => s.endReq p r.id cDenied []
    | _, 4 => s.endReq p r.id cPoison []
    | _, 6 => s.endReq p r.id cTorn []
    | _, _ => s.badResponse p r

/-- R78: a response reaches a source: it names the request of its pair and sequence, and copies its Job ID (R73, R75). -/
def State.responseReceive (s : State) (p : Part) (k : Packet) (tagOk : Bool) : State :=
  let t := s.srcTakes p k k.plane 0x10 tagOk
  if !t.2 then t.1
  else match (t.1.sentReq p k.from_ k.seq).filter fun r => r.pkt.job == k.job with
    | none => if p = Part.ep then t.1.epCount 11 else t.1
    | some r => t.1.onResponse p r k.code k.payload

/-! ### Timers (R87, R93, R94, R154) -/

/-- R87, R163: the back-off after a Retry ends. -/
def State.retryResend (s : State) (p : Part) (id : Nat) : State :=
  match (s.sh p).req id with
  | none => s
  | some r =>
    if r.st ≠ ReqSt.retryWait ∨ s.ns < r.due then s
    else if p = Part.ep ∧ s.slotRevoked r.slot r.pkt.job then s.endReq p id cTorn []
    else s.sendAgain p r

/-- R154: the back-off after a Hold ends. -/
def State.holdResend (s : State) (id : Nat) : State :=
  match s.ep.sh.req id with
  | none => s
  | some r =>
    if r.st ≠ ReqSt.holdWait ∨ s.ns < r.due then s
    else if s.slotRevoked r.slot r.pkt.job then s.endReq .ep id cTorn []
    else match r.owner with
      | .coll c => (s.modColl c fun x => { x with holds := x.holds + 1 }).sendAgain .ep r
      | _ => s

/-- R93, R94: no response within the retransmit timeout: a retransmit, or Poison once the limit is spent. -/
def State.retransmitTimeout (s : State) (p : Part) (id : Nat) : State :=
  match (s.sh p).req id with
  | none => s
  | some r =>
    if r.st ≠ ReqSt.sent ∨ s.ns < r.due then s
    else if r.retrans < r.reLimit then s.retransmitReq p r
    else (if p = Part.ep then s.epCount 16 else s).endReq p id cPoison []

/-- R94: a request's lifetime ends. -/
def State.lifetimeEnd (s : State) (p : Part) (id : Nat) : State :=
  match (s.sh p).req id with
  | none => s
  | some r =>
    if !r.isSent || decide (s.ns < r.first + r.life) then s
    else (if p = Part.ep then s.epCount 16 else s).endReq p id cPoison []

/-! ### Notices (R90, R92, R93, R412) -/

/-- Change the pair of a destination that has been used. -/
def State.modPair (s : State) (p : Part) (dst : Nat) (f : Pair → Pair) : State :=
  s.modSh p fun sh => { sh with pairs := modFirst (fun q => q.dst == dst) f sh.pairs }

/-- R412: does a sequence precede the last request sent with S = 1 on the pair? -/
def State.beforeStart (s : State) (p : Part) (dst seq : Nat) : Bool :=
  match (s.sh p).pairs.find? fun q => q.dst == dst with
  | some q => serialAfter q.lastStart seq
  | none => true

/-- R90: the source's pair starts again: every incomplete request of it completes with Poison. -/
def State.restartPair (s : State) (p : Part) (dst : Nat) : State :=
  let ids := ((s.sh p).reqs.filter fun r => r.isSent && r.pkt.to_ == dst).map (·.id)
  (ids.foldl (fun s i => s.endReq p i cPoison []) s).modPair p dst fun q =>
    { q with start := true, restart := false, interval := 0, writes := 0 }

/-- R93, R412: a gap notice. -/
def State.gapNotice (s : State) (p : Part) (k : Packet) (tagOk : Bool) : State :=
  let t := s.srcTakes p k k.plane 0x11 tagOk
  if !t.2 then t.1
  else match t.1.sentReq p k.from_ k.seq with
    | some r => t.1.retransmitReq p r
    | none =>
      if t.1.beforeStart p k.from_ k.seq then t.1
      else t.1.modPair p k.from_ fun q => { q with restart := true }

/-- R90, R412: a resync notice. -/
def State.resyncNotice (s : State) (p : Part) (k : Packet) (tagOk : Bool) : State :=
  let t := s.srcTakes p k k.plane 0x12 tagOk
  if !t.2 then t.1
  else if (t.1.sentReq p k.from_ k.seq).isNone && t.1.beforeStart p k.from_ k.seq then t.1
  else t.1.restartPair p k.from_

/-! ### The receiver's timers (R60, R92) -/

/-- R92: the gap timer of a source passes the gap age limit. -/
def State.gapTimer (s : State) (p : Part) (src : Nat) : State :=
  match (s.sh p).recv.rec_ src with
  | none => s
  | some r =>
    match r.gapSince with
    | none => s
    | some t =>
      if s.ns < t + r.gapLimit then s
      else
        let s := s.modRec p src fun r => { r with gapSince := some s.ns, gapLimit := s.gapLimitNow p }
        (s.rcvCount p 14 5).notice p 0x11 cRetry src (if p = Part.ep then r.lastPort else s.plane) r.lastPort r.base

/-- A held flagged store of a source and sequence. -/
def Receiver.heldOf (r : Receiver) (src seq : Nat) : Option HeldStore := r.held.find? fun h => h.src == src && h.pkt.seq == seq

/-- R60: a held flagged store passes the hold limit. -/
def State.holdTimeout (s : State) (p : Part) (src seq : Nat) : State :=
  match (s.sh p).recv.heldOf src seq with
  | none => s
  | some h => if h.since + h.limit < s.ns then s.dropHeld p h cPoison fun s => s.rcvCount p 8 1 else s

/-- R59: a held flagged store is resolved. Answers the request in progress that it starts. -/
def State.holdResolve (s : State) (p : Part) (src seq : Nat) : State × Option Nat :=
  match (s.sh p).recv.heldOf src seq with
  | none => (s, none)
  | some h => s.resolveHeld p h

end Sys2Proof.Machine
end

