-- ==== Sys2Proof/Machine/Reports.lean ====
section
/-! DEFINITION. Sending Verdict messages (R283 to R286, R292): on both timing lanes, and in-band. -/

namespace Sys2Proof.Machine

/-- R257, R258: a message on both timing lanes, with the source's next message sequence. -/
def State.sendTiming (s : State) (p : Part) (body : TlBody) : State :=
  let m : TlMsg := { broadcast := true, source := s.node p, dest := 0, seq := ((s.sh p).tl.seq + 1) % 65536, bad := false,
                     body := body }
  (s.modSh p fun sh => { sh with tl := { sh.tl with seq := m.seq } }).emit (.timing p m.chars)

/-- R286, R310: a Verdict message with its authenticator, under the current key epoch of the rack secret. A part that holds none
has no key: the value is free. -/
def State.signV (s : State) (p : Part) (v : VMsg) : VMsg :=
  match ((s.sh p).keysOf 0).bind fun k => k.cur with
  | some e => { v with mac := v.macUnder e }
  | none => { v with mac := Config.verdictMac (beNat v.body) % 2 ^ 64 }

/-- R286, R310: is the authenticator of a Verdict message right under the current key epoch of the rack secret or the one before?
DESIGN CHOICE (log entry 187): a part that holds no rack secret finds none right. -/
def State.macRight (s : State) (p : Part) (v : VMsg) : Bool :=
  match (s.sh p).keysOf 0 with
  | some k => (k.cur.toList ++ k.prev.toList).any fun e => v.mac == v.macUnder e
  | none => false

/-- R286: an in-band Verdict message to a node on a plane, through a port. -/
def State.sendInBand (s : State) (p : Part) (v : VMsg) (dst plane port : Nat) : State :=
  let k : Packet := { Packet.zero with typ := 0x30, plane := plane, src := s.node p, dst := dst, srcRack := s.rack p,
                                       dstRack := s.rack p, len := 32, payload := vPayload (s.signV p v) }
  let k := { k with epoch := s.headerEpoch p k }
  s.sendPacket p (tileOfPort port) port k (s.sealOf p k 0)

/-- R285: the two relay endpoints of the module: lowest node, port Active, not dead. -/
def State.relays (s : State) : List (Nat × Nat) :=
  ((s.mod.routes.filter fun r => decide (r.1 < 512) && r.2.v && !s.nodeDead .mod r.1 && s.mod.sh.portActive r.2.port).map
    fun r => (r.1, r.2.port)).take 2

/-- R285: does the module send in-band? Both timing lanes are silent, or it holds a current Vote that names itself. -/
def State.inBandToo (s : State) : Bool :=
  (!s.mod.sh.rt.laneA.sync && !s.mod.sh.rt.laneB.sync) ||
  s.mod.ve.votes.any fun w => w.node == 512 + s.plane && decide (s.ns < 20000 + w.at_)

/-- A part sends a Verdict message (R283, R285); a stopped Verdict engine sends none (R292). -/
def State.sendV (s : State) (p : Part) (v : VMsg) : State :=
  let v := { v with origin := s.node p, time := if v.time = 0 then s.rackNs p else v.time, relay := false, reserved := false }
  if p = Part.mod ∧ s.mod.ve.stopped then s
  else
  let s := s.sendTiming p (.verdict (s.signV p v))
  match p with
  | .ep =>
    if v.kind ≠ 0 then s
    else ((List.range 16).filter s.ep.sh.portActive).foldl (fun s port => s.sendInBand .ep v (512 + port) port port) s
  | .mod =>
    if s.inBandToo then s.relays.foldl (fun s r => s.sendInBand .mod { v with relay := true } r.1 s.plane r.2) s else s

/-- A Verdict message with every field zero. -/
def vZero : VMsg where
  kind := 0
  vkind := 0
  origin := 0
  subjNode := 0
  subjPlane := 0
  reason := 0
  relay := false
  voteMask := 0
  number := 0
  time := 0
  reserved := false
  mac := 0

/-- R292: a Report, with its event 0x0008. -/
def State.report (s : State) (p : Part) (reason node plane : Nat) : State :=
  let s := s.logEvent p (if reason = 0 then 1 else 2) 0x0008 0 (reason * 2 ^ 104 + node * 2 ^ 94 + plane * 2 ^ 90)
  s.sendV p { vZero with kind := 4, subjNode := node, subjPlane := plane, reason := reason }

/-- R229, R292: every port of the module goes down at once and its transmitters turn off; a fenced module's ports stay in
Detect. -/
def State.stopPorts (s : State) : State :=
  s.modSh .mod fun sh => { sh with
    ports := sh.ports.map (fun q =>
      if q.2.role = 0 then q else (q.1, { q.2 with state := 1, width := 0, lanes := 0, downSince := s.ns }))
    lanes := sh.lanes.map fun x => if x.2.state = 0 then x else (x.1, x.2.restart 1 s.ns) }

/-! ### Verdicts that the module issues (R287 to R289) -/

/-- Change the Verdict engine. -/
def State.modVe (s : State) (f : VEngine → VEngine) : State := s.modMod fun m => { m with ve := f m.ve }

/-- R19: the planes of the arrangement: 16, or 8 in a dense rack. -/
def State.planeCount (s : State) : Nat := if s.dense then 8 else 16

/-- R284: is a part suspected? -/
def State.suspected (s : State) (part : Nat) : Bool := (tabGet s.mod.ve.suspects part).isSome

/-- R287: the leader: the lowest plane neither failed nor suspected. -/
def State.leader (s : State) : Nat :=
  ((List.range s.planeCount).find? fun p => !s.mod.sh.verd.failed.contains p && !s.suspected (512 + p)).getD 0

/-- What two copies of a verdict have in common: everything but Relay, the Event time and, with them, the authenticator. -/
def sameVerdict (v w : VMsg) : Bool :=
  { v with relay := false, time := 0, mac := 0 } == { w with relay := false, time := 0, mac := 0 }

/-- R288: a part receives a verdict: it waits 10 µs; copies are discarded, and of two with one number the lower plane's
stays. -/
def State.takeVerdict (s : State) (p : Part) (v : VMsg) : State :=
  let d := (s.sh p).verd
  if !serialAfter v.number d.last then s
  else match d.pending.find? fun x => x.v.number == v.number with
    | none => s.modSh p fun sh => { sh with verd := { sh.verd with pending := sh.verd.pending ++ [{ v := v, at_ := s.ns }] } }
    | some x =>
      if sameVerdict x.v v then s
      else
        let s := if p = Part.mod then s.mgCount 7 else s
        if v.origin < x.v.origin then
          let s := s.modSh p fun sh => { sh with verd := { sh.verd with
            pending := modFirst (fun y => y.v.number == v.number) (fun y => { y with v := v }) sh.verd.pending } }
          if p = Part.mod then s.modVe fun e => { e with repeats := e.repeats.filter fun r => r.v.number != v.number } else s
        else s

/-- R288: the number that follows the highest that the module has seen: applied, waiting, or named by another module. -/
def State.nextVerdict (s : State) : Nat :=
  let d := s.mod.sh.verd
  ((s.mod.ve.seen :: d.pending.map fun x => x.v.number).foldl (fun m x => if serialAfter x m then x else m) d.last + 1) % 2 ^ 32

/-- R288: the module issues a verdict: it sends it, repeats it in 5 heartbeat periods and receives it itself. -/
def State.issueVerdict (s : State) (vkind node plane mask : Nat) : State :=
  let v : VMsg := { vZero with kind := 2, vkind := vkind, origin := s.node .mod, subjNode := node, subjPlane := plane,
                               voteMask := mask, number := s.nextVerdict, time := s.rackNs .mod }
  let s := s.modVe fun e => { e with repeats := e.repeats ++ [{ v := v, left := 5 }] }
  (s.sendV .mod v).takeVerdict .mod v

/-- Is a verdict of a kind and subject already on its way? -/
def State.verdictPending (s : State) (vkind node plane : Nat) : Bool :=
  s.mod.sh.verd.pending.any fun x => x.v.vkind == vkind && x.v.subjNode == node && x.v.subjPlane == plane

/-- R289, R292: the module fences itself; a leader issues the Plane failed verdict on its own Report. -/
def State.selfFence (s : State) : State :=
  if s.mod.ve.fenced then s
  else
    let s := s.report .mod 1 0 s.plane
    let s := if s.leader = s.plane ∧ ¬ s.verdictPending 2 0 s.plane then s.issueVerdict 2 0 s.plane 0 else s
    (s.modVe fun e => { e with fenced := true }).stopPorts

end Sys2Proof.Machine
end

