-- ==== Sys2Proof/Machine/Commons.lean ====
section
/-! DEFINITION. The Commons (R179 to R203): layout, regions, line errors, reads and writes, atomics (R79 to R82), the page
allocator (R83, R191, R192), scrub, checkpoint pushes and the restore window. -/

namespace Sys2Proof.Machine

/-! ### Layout (R179 to R181) -/

/-- R179: the spill reserve in GiB. -/
def State.spillGib (s : State) : Nat := s.reg .mod 0x700002

/-- R179: the usable Commons in GiB. -/
def State.usableGib (s : State) : Nat := 16 * (1536 - s.spillGib) / 17

/-- The usable Commons in bytes. -/
def State.usableBytes (s : State) : Nat := s.usableGib * 2 ^ 30

/-- R179: a value that the spill reserve takes. -/
def spillOk (n : Nat) : Bool := (List.range 15).any fun k => n == 6 + 17 * k

/-- The first byte and the bytes of a region. -/
def Region.first (r : Region) : Nat := r.base * 2 ^ 30
def Region.bytes (r : Region) : Nat := (r.size + 1) * 2 ^ 30

/-- Does a region hold a local address? A Free one holds none. -/
def Region.holds (r : Region) (a : Nat) : Bool := r.state != 0 && decide (r.first ≤ a ∧ a < r.first + r.bytes)

/-- The region that holds a local address. -/
def State.regionAt (s : State) (a : Nat) : Option (Nat × Region) := s.mod.regions.find? fun r => r.2.holds a

/-- R181: the stack that holds a local address. -/
def State.stackOf (s : State) (a : Nat) : Nat :=
  let u := a / 4096
  match s.regionAt a with
  | some (_, r) => if r.placement = 0 then u % 24 else 6 * (r.placement - 1) + u % 6
  | none => u % 24

/-- R226: the tile at the same position of the quadrant of the stack's SCD. -/
def State.stackTile (s : State) (tile a : Nat) : Nat :=
  let q := s.stackOf a / 6
  let x := 4 * (q % 2) + tile % 8 % 4
  let y := 4 * (q / 2) + tile / 8 % 4
  y * 8 + x

/-! ### Bytes -/

/-- Bytes of the Commons: a byte that nothing has written reads as zero (R182 writes every line as zero plaintext). -/
def State.commonsRead (s : State) (a n : Nat) : List Byte := (List.range n).map fun i => tabGetD s.mod.mem (a + i) 0#8

/-- Write bytes, in canonical form: a zero byte is not listed. -/
def memWrite (mem : Tab Byte) : Nat → List Byte → Tab Byte
  | _, [] => mem
  | a, b :: t => memWrite (tabPut mem a b 0#8) (a + 1) t

/-- Write bytes of the Commons. -/
def State.commonsWrite (s : State) (a : Nat) (data : List Byte) : State :=
  s.modMod fun m => { m with mem := memWrite m.mem a data }

/-- Every byte of a range becomes zero, and its lines are good (R182). -/
def State.commonsZero (s : State) (a n : Nat) : State :=
  s.modMod fun m => { m with mem := m.mem.filter fun x => !decide (a ≤ x.1 ∧ x.1 < a + n),
                             bad := m.bad.filter fun l => !decide (a ≤ l / 2 * 128 ∧ l / 2 * 128 < a + n) }

/-! ### Line errors (R187, R188) -/

/-- R187: a Commons error record; kinds 0 tag mismatch, 1 uncorrectable, 2 found by scrub, 3 stack failed. -/
def State.errorRecord (s : State) (line stack kind : Nat) : State :=
  let owner := match s.regionAt (line * 128) with
    | some (_, r) => r.owner
    | none => 0xFFFF
  let e : MemError := { owner := owner, stack := stack, kind := kind, line := line, time := s.rackNs .mod % 2 ^ 44 }
  s.modMod fun m => { m with errors := (e :: m.errors).take 64 }

/-- A line is found to fail: it stays failing until a whole-line write; its stack counts it for the epoch. -/
def State.lineFails (s : State) (line kind : Nat) : State :=
  if s.mod.bad.any fun b => b / 2 == line then s
  else
    let st := s.stackOf (line * 128)
    let e := s.epochOf .mod
    let c := tabGetD s.mod.uncorr st 0
    let n := if c / 2 ^ 32 = e then c + 1 else e * 2 ^ 32 + 1
    s.modMod fun m => { m with bad := setIns m.bad (line * 2 + kind), uncorr := tabSet m.uncorr st n }

/-- The lines of a range that fail, with how. -/
def State.badIn (s : State) (lines : List Nat) : List (Nat × Nat) :=
  (s.mod.bad.filter fun b => lines.contains (b / 2)).map fun b => (b / 2, b % 2)

/-- R187, R188: is a line of a range on a failed stack? The first access to a failed stack records it. -/
def State.failedStack (s : State) (lines : List Nat) : State × Bool :=
  match lines.find? fun l => s.mod.failedStacks.contains (s.stackOf (l * 128)) with
  | none => (s, false)
  | some l =>
    let st := s.stackOf (l * 128)
    if s.mod.stackSeen.contains st then (s, true)
    else ((s.modMod fun m => { m with stackSeen := setIns m.stackSeen st }).errorRecord l st 3, true)

/-- R185, R187: lines are read and their tags checked. `err`: 0 no error, 1 corrected by the stack, 2 tag mismatch,
3 uncorrectable, on the first line; `counts`: a failure is one that commons-uncorrectable counts. Answers whether the data is
good. -/
def State.readCheckAs (s : State) (lines : List Nat) (err : Nat) (counts : Bool) : State × Bool :=
  let f := s.failedStack lines
  if f.2 then (f.1, false)
  else
    let s := if err = 2 ∨ err = 3 then s.lineFails (lines.headD 0) (err - 2) else s
    let bads := s.badIn lines
    if !bads.isEmpty then
      (bads.foldl (fun s b => s.errorRecord b.1 (s.stackOf (b.1 * 128)) b.2) (if counts then s.coCount 9 else s), false)
    else if err = 1 then
      ((s.coCount 8).modMod fun m => { m with corrected := setIns m.corrected (lines.headD 0) }, true)
    else (s, true)

/-- R187: the read of a load, a bulk read, a host read, an atomic or a write of part of a line. -/
def State.readCheck (s : State) (lines : List Nat) (err : Nat) : State × Bool := s.readCheckAs lines err true

/-- The lines that a write covers in part: they are read first (R185). -/
def partLines (a n : Nat) : List Nat :=
  (linesOf a n).filter fun l => !decide (a ≤ l * 128 ∧ l * 128 + 128 ≤ a + n)

/-- R187: a write of bytes: partial lines are checked first; whole lines are good again. -/
def State.checkedWrite (s : State) (a : Nat) (data : List Byte) (err : Nat) : State × Bool :=
  let part := partLines a data.length
  let whole := (linesOf a data.length).filter fun l => !part.contains l
  let f := s.failedStack (linesOf a data.length)
  if f.2 then (f.1, false)
  else
    let c := if part.isEmpty then (s, true) else s.readCheck part err
    if !c.2 then c
    else ((c.1.modMod fun m => { m with bad := m.bad.filter fun b => !whole.contains (b / 2) }).commonsWrite a data, true)

/-! ### The allocator (R83, R191, R192) -/

/-- R180: bytes of a page. -/
def pageBytes (code : Nat) : Nat :=
  match code with
  | 0 => 16384
  | 1 => 65536
  | 2 => 262144
  | _ => 2097152

/-- R191: the allocator of a new region. -/
def newAlloc (r : Region) : Alloc :=
  let p := pageBytes r.page
  let t := r.bytes / p
  let m := (64 + 8 * t + p - 1) / p
  { first := m, pages := t - m, fresh := m, freed := [], counts := [], allocations := 0, empties := 0, poisoned := false }

/-- R192: the page at Top. -/
def Alloc.top (a : Alloc) : Option Nat :=
  match a.freed with
  | p :: _ => some p
  | [] => if a.fresh < a.first + a.pages then some a.fresh else none

/-- R192: take the page at Top. -/
def Alloc.pop (a : Alloc) : Alloc :=
  match a.freed with
  | _ :: t => { a with freed := t }
  | [] => { a with fresh := a.fresh + 1 }

/-- Pages on the free list. -/
def Alloc.free (a : Alloc) : Nat := a.freed.length + (a.first + a.pages - a.fresh)

/-- R191: the 64-byte head. -/
def Alloc.head (a : Alloc) (page : Nat) : List Byte :=
  beBytes 64 (a.pages * 2 ^ 480 + a.free * 2 ^ 448 + (a.top.getD 0xFFFFFFFF) * 2 ^ 416 + page * 2 ^ 413 + a.first * 2 ^ 384 +
    a.allocations * 2 ^ 320 + a.empties * 2 ^ 256)

/-- Change the allocator of a region. -/
def State.modAlloc (s : State) (i : Nat) (f : Alloc → Alloc) : State :=
  s.modMod fun m => { m with regions := tabMod m.regions i fun r => { r with alloc := r.alloc.map f } }

/-- What an allocator operation answers: a code, data, and the denial reason where it is Denied. -/
structure AllocAnswer where
  code : Nat
  data : List Byte
  reason : Nat
  deriving DecidableEq, Repr

/-- R83: Denied with a reason. -/
def allocDenied (reason : Nat) : AllocAnswer := { code := cDenied, data := [], reason := reason }

/-- R83: Done with an 8-byte value. -/
def allocDone (v : Nat) : AllocAnswer := { code := cDone, data := leBytes 8 v, reason := 0 }

/-- R83, R192: one allocator operation on the allocator of a region. `index` is the page that the Offset names (none: no
page start), `atHead` whether it names the head, `base` the offset of the region's first byte. -/
def Alloc.run (a : Alloc) (op : Nat) (atHead : Bool) (index : Option Nat) (payload base size : Nat) : Alloc × AllocAnswer :=
  let lo := payload % 2 ^ 32
  let hi := payload / 2 ^ 32
  if op = 8 then
    if !atHead then (a, allocDenied 1)
    else if lo = 0 ∨ hi ≠ 0 then (a, allocDenied 5)
    else match a.top with
      | none => ({ a with empties := a.empties + 1 }, allocDone (2 ^ 64 - 1))
      | some p =>
        ({ a.pop with counts := tabPut a.counts p lo 0, allocations := a.allocations + 1 }, allocDone (base + p * size))
  else match index with
    | none => (a, allocDenied 1)
    | some p =>
      let c := tabGetD a.counts p 0
      if op = 9 then
        if payload ≠ 0 then (a, allocDenied 5)
        else if c = 1 then ({ a with counts := tabPut a.counts p 0 0, freed := p :: a.freed }, allocDone c)
        else (a, allocDone c)
      else if op = 10 then
        if lo = 0 ∨ hi ≠ 0 then (a, allocDenied 5)
        else if c ≠ 0 ∧ c + lo < 2 ^ 32 then ({ a with counts := tabPut a.counts p (c + lo) 0 }, allocDone c)
        else (a, allocDone c)
      else
        if payload ≠ 0 then (a, allocDenied 5)
        else if c = 0 then (a, allocDone c)
        else if c = 1 then ({ a with counts := tabPut a.counts p 0 0, freed := p :: a.freed }, allocDone c)
        else ({ a with counts := tabPut a.counts p (c - 1) 0 }, allocDone c)

/-! ### Access at the point of coherence -/

/-- Change a request in progress of the module. -/
def State.modProg (s : State) (id : Nat) (f : InProg → InProg) : State :=
  s.modRecv .mod fun r => { r with inprog := modFirst (fun g => g.id == id) f r.inprog }

/-- The request in progress of the module that is out of its tile in a frame. -/
def State.travels (s : State) (k : Packet) : Option InProg :=
  s.mod.sh.recv.inprog.find? fun g => g.stage == 1 && g.pkt == k

/-- R226: the item that a tile returns to the receiving tile: the result of a request in progress. -/
def InProg.answer (g : InProg) (code : Nat) (data : List Byte) : Packet :=
  { Packet.zero with typ := 0x10, plane := g.pkt.plane, code := code, job := g.pkt.job, src := g.pkt.dst, dst := g.pkt.src,
                     srcRack := g.pkt.dstRack, dstRack := g.pkt.srcRack, seq := g.pkt.seq, len := data.length, payload := data }

/-- R216, R226: the result of a request is lost on its way back: the request has settled, and its retransmit is answered as a
duplicate (R89). -/
def State.answerLost (s : State) (g : InProg) : State :=
  match g.result with
  | some (code, data) =>
    (s.settle .mod g.pkt code data true).modRecv .mod fun r => { r with inprog := delFirst (fun x => x.id == g.id) r.inprog }
  | none => s

/-- R226: the tile that holds the memory returns a result, as a mesh frame. -/
def State.sendBack (s : State) (g : InProg) (code : Nat) (data : List Byte) : State :=
  let t := s.stackTile (tileOfPort g.port) g.loc
  if s.hasCells t (48 + data.length) then s.newFrame t (tileOfPort g.port) 5 1 (g.answer code data) g.port
  else (s.tileCount t 4).answerLost { g with result := some (code, data) }

/-- Set the result of a request in progress; one that stands at the tile of its stack goes back from there. -/
def State.setResult (s : State) (id code : Nat) (data : List Byte) : State :=
  let f := fun (g : InProg) => { g with result := some (code, data), stage := if g.stage = 2 then 3 else g.stage }
  let t := s.modProg id f
  match s.mod.sh.recv.inprog.find? fun g => g.id == id && g.stage == 2 with
  | some g => t.sendBack g code data
  | none => t

/-- R191: does a request touch the metadata pages of an Allocator region? -/
def Region.meta_ (r : Region) (loc : Nat) : Bool :=
  match r.alloc with
  | some a => decide (loc < r.first + a.first * pageBytes r.page)
  | none => false

/-- R182: loads, bulk reads and atomics of a Stale region are answered Poison. -/
def State.staleAt (s : State) (loc : Nat) : Bool :=
  match s.regionAt loc with
  | some (_, r) => r.state == 5
  | none => false

/-- R50: a request is at the point of coherence: a load or a write is carried out here, an atomic waits for its own step
(R182, R187, R191). -/
def State.memAccess (s : State) (g : InProg) (err : Nat) : State :=
  let k := g.pkt
  let stale := s.staleAt g.loc
  match (s.regionAt g.loc).filter fun x => x.2.meta_ g.loc && !isAllocOp k.aop with
  | some (_, r) =>
    if k.typ = 0x01 ∧ g.loc = r.first ∧ k.len ≤ 64 then
      match r.alloc with
      | some a =>
        let c := s.readCheckAs [g.loc / 128] err false
        if c.2 && !a.poisoned then c.1.setResult g.id cDone ((a.head r.page).take k.len) else c.1.setResult g.id cPoison []
      | none => s
    else (s.deny .mod k.job k.src k.off k.typ 1).setResult g.id cDenied []
  | none =>
    if k.typ = 0x03 then s
    else if k.typ = 0x01 ∨ k.typ = 0x05 then
      if stale then s.setResult g.id cPoison []
      else
        let c := if (s.regionAt g.loc).isNone then (s, true) else s.readCheck (linesOf g.loc k.len) err
        if c.2 then c.1.setResult g.id cDone (c.1.commonsRead g.loc k.len) else c.1.setResult g.id cPoison []
    else
      let c := s.checkedWrite g.loc k.payload err
      c.1.setResult g.id (if c.2 then cDone else cPoison) []

/-- R226: a request that has passed check 8 reaches the point of coherence: at once when its line's stack is that of the
receiving tile, else as a mesh frame, unit 5, to the tile that serves the stack. -/
def State.commonsAccess (s : State) (id err : Nat) : Answer :=
  match s.mod.sh.recv.inprog.find? fun g => g.id == id with
  | none => .next s
  | some g =>
    let tile := tileOfPort g.port
    let st := s.stackTile tile g.loc
    if s.usableBytes < g.loc + g.pkt.len then .fault (.outsideCommons g.loc)
    else if st = tile then .next (s.memAccess g err)
    else
      let f := fun (g : InProg) => { g with stage := 1, err := err }
      .next ((s.modProg id f).newFrame tile st 5 1 g.pkt g.port)

/-- R226: a frame of the Commons leaves the Sward: a request at the tile of its stack is carried out, a result at the receiving
tile can be answered. Requests stand in the order in which they reached their tile (R192). -/
def State.memoryPort (s : State) (k : Packet) : State :=
  if k.typ = 0x10 then
    match s.mod.sh.recv.inprog.find? fun g => g.stage == 3 && g.pkt.seq == k.seq && g.src == k.to_ with
    | some g => s.modProg g.id fun g => { g with stage := 4 }
    | none => s
  else match s.travels k with
    | some g =>
      let h := { g with stage := 2 }
      (s.modRecv .mod fun r => { r with inprog := (r.inprog.filter fun x => x.id != g.id) ++ [h] }).memAccess h g.err
    | none => s

/-- R79, R84: an atomic of an operation that waits for its read-modify-write. -/
def State.waitingAtomic (s : State) (id op : Nat) : Option InProg :=
  s.mod.sh.recv.inprog.find? fun g => g.id == id && g.pkt.typ == 0x03 && g.pkt.aop == op && g.result.isNone && g.stage != 1

/-- One read-modify-write on the operand (R79 to R82): the line is checked, `f` of the old value and the operand is stored,
the old value returned. -/
def State.atomicRmw (s : State) (id op err : Nat) (f : Nat → Nat → List Byte → Nat) : State :=
  match s.waitingAtomic id op with
  | none => s
  | some g =>
    let n := fmtSize g.pkt.fmt
    let c := s.readCheck (linesOf g.loc n) err
    if !c.2 || s.staleAt g.loc then c.1.setResult id cPoison []
    else
      let old := c.1.commonsRead g.loc n
      (c.1.commonsWrite g.loc (leBytes n (f g.pkt.fmt (leNat old) g.pkt.payload))).setResult id cDone old

/-- R80: the floating kind of an atomic format. -/
def atomKind (fmt : Nat) : Option FKind :=
  match fmt with
  | 4 => some kFp16
  | 5 => some kBf16
  | 6 => some kFp32
  | 7 => some kFp64
  | _ => none

/-- R80: is an integer format signed? -/
def atomSigned (fmt : Nat) : Bool := fmt == 0 || fmt == 2

/-- R81: fetch-add. -/
def atomAdd (fmt old : Nat) (payload : List Byte) : Nat :=
  let b := leNat payload
  match atomKind fmt with
  | some k => (convF k (addNum k (decodeF k old) (decodeF k b)) 0 false).w
  | none => (old + b) % 2 ^ (8 * fmtSize fmt)

/-- R81: does integer `a` come before `b` in a format? -/
def atomLt (fmt a b : Nat) : Bool :=
  let n := 8 * fmtSize fmt
  if atomSigned fmt then decide (signedOf n a < signedOf n b) else decide (a < b)

/-- R81: fetch-min. -/
def atomMin (fmt old : Nat) (payload : List Byte) : Nat :=
  let b := leNat payload
  match atomKind fmt with
  | some k => (convF k (minNum (decodeF k old) (decodeF k b)) 0 false).w
  | none => if atomLt fmt b old then b else old

/-- R81: fetch-max. -/
def atomMax (fmt old : Nat) (payload : List Byte) : Nat :=
  let b := leNat payload
  match atomKind fmt with
  | some k => (convF k (maxNum (decodeF k old) (decodeF k b)) 0 false).w
  | none => if atomLt fmt old b then b else old

/-- R82: compare-swap: the compare value stands first, then the new value. -/
def atomCas (fmt old : Nat) (payload : List Byte) : Nat :=
  let n := fmtSize fmt
  if leNat (payload.take n) = old then leNat ((payload.drop n).take n) else old

/-- R82: swap. -/
def atomSwap (_fmt _old : Nat) (payload : List Byte) : Nat := leNat payload

/-- R192: the line of the record of a page. -/
def Region.recordLine (r : Region) (page : Nat) : Nat := (r.first + 64 + 8 * page) / 128

/-- R192: the record of a page: its Count and, while that is 0, the next page of the free list. -/
def Alloc.record (a : Alloc) (page : Nat) : List Byte :=
  let after := (a.freed.dropWhile (fun p => p != page)).drop 1
  let fresh := if a.fresh < a.first + a.pages then a.fresh else 0xFFFFFFFF
  let next := if a.freed.contains page then after.headD fresh else if page + 1 < a.first + a.pages then page + 1 else 0xFFFFFFFF
  let c := tabGetD a.counts page 0
  beBytes 8 (c * 2 ^ 32 + if c = 0 then next else 0)

/-- R192: operations run in the order in which they reached their unit: is an earlier one of the region still waiting? -/
def State.allocAhead (s : State) (g : InProg) : Bool :=
  let at_ := (s.regionAt g.loc).map (·.1)
  (s.mod.sh.recv.inprog.takeWhile fun h => h.id != g.id).any fun h =>
    h.pkt.typ == 0x03 && isAllocOp h.pkt.aop && h.result.isNone && h.stage != 1 && (s.regionAt h.loc).map (·.1) == at_

/-- R83, R192: one allocator operation of the allocator unit. The head and the record of the page that it changes are read as
lines of the region (R185). -/
def State.allocRun (s : State) (id op err : Nat) : State :=
  match s.waitingAtomic id op with
  | none => s
  | some g =>
    if s.allocAhead g then s else
    let deny := fun (s : State) (reason : Nat) =>
      let s := if reason = 5 then s.malformed .mod g.port else s
      (s.deny .mod g.pkt.job g.pkt.src g.pkt.off g.pkt.typ reason).setResult id cDenied []
    match s.regionAt g.loc with
    | none => deny s 1
    | some (i, r) => match r.alloc with
      | none => deny s 1
      | some a =>
        if a.poisoned || r.state == 5 then s.setResult id cPoison []
        else
          let p := pageBytes r.page
          let x := g.loc - r.first
          let index := if x % p = 0 ∧ a.first ≤ x / p ∧ x / p < a.first + a.pages then some (x / p) else none
          let page := if op = 8 then a.top else index
          let c := s.readCheckAs (setIns ((page.map r.recordLine).toList) (r.first / 128)) err false
          if !c.2 then (c.1.modAlloc i fun a => { a with poisoned := true }).setResult id cPoison []
          else
            let out := a.run op (x == 0) index (leNat g.pkt.payload) (g.pkt.off - x) p
            if out.2.code = cDenied then deny c.1 out.2.reason
            else
              let s := c.1.modAlloc i fun _ => out.1
              let s := if a.empties < out.1.empties then s.coCount 7 else s
              s.setResult id out.2.code out.2.data

/-! ### Regions (R180, R182, R183) -/

/-- R180: the fields of a region descriptor, and its Reserved bits. -/
def regionOf (w : Nat) : Region × Nat :=
  ({ v := bit w 127, kind := bits w 126 124, placement := bits w 123 121, retain := bit w 120, base := bits w 119 109,
     size := bits w 108 98, owner := bits w 97 82, page := bits w 81 79, code := bits w 78 77, overwrite := bit w 76,
     state := 0, serial := 0, torn := false, next := none, retainedAt := 0, alloc := none, key := none },
   bits w 75 0)

/-- R180: the word of a region descriptor. -/
def Region.word (r : Region) : Nat :=
  ofBool r.v * 2 ^ 127 + r.kind * 2 ^ 124 + r.placement * 2 ^ 121 + ofBool r.retain * 2 ^ 120 + r.base * 2 ^ 109 +
  r.size * 2 ^ 98 + r.owner * 2 ^ 82 + r.page * 2 ^ 79 + r.code * 2 ^ 77 + ofBool r.overwrite * 2 ^ 76

/-- A region index that holds nothing. -/
def Region.free : Region := (regionOf 0).1

/-- The region of an index. -/
def State.region (s : State) (i : Nat) : Region := tabGetD s.mod.regions i Region.free

/-- Put a region. -/
def State.setRegion (s : State) (i : Nat) (r : Region) : State :=
  s.modMod fun m => { m with regions := tabPut m.regions i r Region.free }

/-- Has a Job ID an Active slice on the module? -/
def State.hasSlice (s : State) (job : Nat) : Bool :=
  match tabGet s.mod.slices job with
  | some e => e.v && e.state == 1
  | none => false

/-- R180: the cases in which a descriptor that sets V is refused. -/
def State.regionBad (s : State) (i : Nat) (r : Region) (reserved : Nat) : Bool :=
  let others := s.mod.regions.filter fun x => x.1 != i && x.2.state != 0
  let all := r :: others.map (·.2)
  let u := s.usableGib
  let placed := fun (q : Nat) => (all.filter fun x => x.placement == q + 1).foldl (fun a x => a + x.size + 1) 0
  let striped := (all.filter fun x => x.placement == 0).foldl (fun a x => a + x.size + 1) 0
  reserved != 0 || decide (3 < r.kind) || decide (4 < r.placement) || (r.retain && r.kind != 2) ||
  (r.page != 0 && r.kind != 1) || decide (3 < r.page) || (r.code != 0 && r.kind != 2) || decide (1 < r.code) ||
  (r.overwrite && r.kind != 3) || decide (u < r.base + r.size + 1) ||
  (others.any fun x => decide (x.2.base < r.base + r.size + 1 ∧ r.base < x.2.base + x.2.size + 1)) ||
  (r.owner == 0 && r.kind != 3) || (r.owner != 0 && !s.hasSlice r.owner) ||
  (r.kind == 2 && (r.code == 1) != s.dense) ||
  (r.kind == 1 && decide (64 ≤ (others.filter fun x => x.2.kind == 1).length)) ||
  (List.range 4).any fun q => decide (u < 4 * placed q + striped)

/-- Does a valid admission entry cover a part of a region? -/
def State.admCovers (s : State) (r : Region) : Bool :=
  s.mod.sh.adm.any fun e => e.2.v &&
    decide (e.2.localBase * 65536 < r.first + r.bytes ∧ r.first < (e.2.localBase + e.2.len + 1) * 65536)

/-- R182: invalidate every admission entry that covers a region. -/
def State.admDrop (s : State) (r : Region) : State :=
  s.modSh .mod fun sh => { sh with adm := sh.adm.filter fun e => !(e.2.v &&
    decide (e.2.localBase * 65536 < r.first + r.bytes ∧ r.first < (e.2.localBase + e.2.len + 1) * 65536)) }

/-- R182: is a request that passed check 8 against a region still in progress? -/
def State.regionBusy (s : State) (r : Region) : Bool := s.mod.sh.recv.inprog.any fun g => r.holds g.loc && g.pkt.typ != 0x31 && !isColl g.pkt.typ

/-- A region takes a state at once; a Retained one starts its retention timer. -/
def State.regionEnter (s : State) (i st : Nat) : State :=
  let r := s.region i
  s.setRegion i { r with state := st, next := none, torn := false, retainedAt := if st = 4 then s.ns else r.retainedAt }

/-- R182: a region leaves its state once every request that passed check 8 against it has completed. -/
def State.regionLeave (s : State) (i st : Nat) : State :=
  if s.regionBusy (s.region i) then s.setRegion i { s.region i with next := some st } else s.regionEnter i st

/-- Regions whose last request has completed take their next state. -/
def State.regionsOn (s : State) : State :=
  s.mod.regions.foldl (fun s x => match x.2.next with
    | some st => if s.regionBusy x.2 then s else s.regionEnter x.1 st
    | none => s) s

/-- R184, R309: where the storage keys of a region that leaves Free come from. -/
def State.keyFor (s : State) (i : Nat) (r : Region) (serial : Nat) : StoreKey :=
  if r.owner = 0 then .inner s.mod.inner i serial
  else
    let epoch := match s.mod.sh.keys.find? fun k => k.job == r.owner with
      | some k => k.cur.getD 0
      | none => 0
    .job r.owner epoch s.plane i serial

/-- R309: the context of a region's storage keys: region index, 1 byte; region serial, 4 bytes. -/
def storeContext (index serial : Nat) : List Byte := beBytes 1 index ++ beBytes 4 serial

/-- R309: the 96 bytes of storage keys: an XTS key pair, then a tag key. -/
def StoreKey.bytes : StoreKey → List Byte
  | .job j epoch plane index serial =>
    Config.kdf (Config.kdf (Config.secret j epoch) "SNH plane" (beBytes 1 plane) 256) "SNH store" (storeContext index serial) 768
  | .inner draw index serial => Config.kdf (Config.randomBytes draw) "SNH store" (storeContext index serial) 768

/-- R184, R185: what a stack holds of a line: its 128 ciphertext bytes and its 8-byte tag, under the storage keys of its region.
`Module.mem` holds the plaintext, and `Module.bad` lists the lines whose bits are these no longer (R186, R187). -/
def State.storedLine (s : State) (line : Nat) : Option (List Byte × List Byte) :=
  match s.regionAt (line * 128) with
  | some (_, r) => r.key.map fun k =>
      let cipher := Config.xts (k.bytes.take 64) line (s.commonsRead (line * 128) 128)
      (cipher, (Config.cmac (k.bytes.drop 64) (cipher ++ leBytes 8 line)).take 8)
  | none => none

/-- R194: the local address of a spill page: the spill reserve follows the usable Commons. -/
def State.pageAddress (s : State) (n : Nat) : Nat := s.usableBytes + 8192 * n

/-- R194, R195: what a stack holds of a spill page: its enciphered content, padded to 8,128 bytes, and its trailer, under the
internal storage key (log entry 174). -/
def State.storedPage (s : State) (n : Nat) : Option (List Byte × List Byte) :=
  (tabGet s.mod.spill n).map fun p =>
    let key := Config.randomBytes s.mod.inner
    let at_ := s.pageAddress n
    let plain := p.data ++ List.replicate (8128 - p.data.length) 0#8
    let cipher := (List.range 64).flatMap fun i => Config.xts (key.take 64) (at_ / 128 + i) (sliceBytes plain (128 * i) 128)
    let rest := (beBytes 64 (p.kind * 2 ^ 440 + p.data.length * 2 ^ 427 + p.at_ * 2 ^ 363)).drop 8
    (cipher, (Config.cmac ((key.drop 64).take 32) (cipher ++ rest ++ leBytes 8 at_)).take 8 ++ rest)

/-- R180, R182: a write of the region descriptor at an index. -/
def State.regionWrite (s : State) (i : Nat) (val : List Byte) : Nat × State :=
  let d := regionOf (beNat val)
  let r := s.region i
  let clear := fun (s : State) => s.setRegion i { r with v := false }
  if val.length ≠ 16 then (stRange, s)
  else if d.1.v then
    if r.state ≠ 0 then (stBusy, s)
    else if s.regionBad i d.1 d.2 then (stRange, s)
    else
      let n := s.mod.serial
      (stOk, (s.modMod fun m => { m with serial := n + 1 }).setRegion i
        { d.1 with state := 1, serial := n, key := some (s.keyFor i d.1 n) })
  else if d.2 ≠ 0 then (stRange, s)
  else match r.state with
    | 0 => (stOk, s.setRegion i d.1)
    | 1 => (stOk, (clear s).regionEnter i 3)
    | 2 => if s.admCovers r || r.next.isSome then (stBusy, s) else (stOk, (clear s).regionLeave i 3)
    | 3 => (stBusy, s)
    | 4 => (stOk, (clear s).regionEnter i 3)
    | _ => (stOk, (clear s).regionLeave i 3)

/-- R200: the header of a Trace ring. -/
def ringHeader (written capacity dropped : Nat) : List Byte := beBytes 64 (written * 2 ^ 448 + capacity * 2 ^ 384 + dropped * 2 ^ 320)

/-- R182, R191, R200: the last line of an initialising region has been written. One whose owner has been torn down, Retain
clear, has stopped initialising and waits for the scrub step. -/
def State.regionInitDone (s : State) (i : Nat) : State :=
  let r := s.region i
  if r.state ≠ 1 ∨ s.mod.inSlot ∨ (r.torn ∧ ¬ r.retain) then s
  else
    let s := s.commonsZero r.first r.bytes
    let s := if r.kind = 3 then s.commonsWrite r.first (ringHeader 0 ((r.bytes - 4096) / 64) 0) else s
    let s := s.setRegion i { r with alloc := if r.kind = 1 then some (newAlloc r) else none }
    s.regionEnter i (if r.torn && r.retain then 4 else 2)

/-- R182: the last line of a scrubbing region has been overwritten; its storage keys are erased with its descriptor. -/
def State.regionScrubDone (s : State) (i : Nat) : State :=
  let r := s.region i
  if r.state ≠ 3 ∨ s.mod.inSlot then s
  else (s.commonsZero r.first r.bytes).setRegion i Region.free

/-- R182: a Handover write. -/
def State.handover (s : State) (i : Nat) (val : List Byte) : Nat × State :=
  let j := beNat val
  if val.length ≠ 2 ∨ j = 0 ∨ j = 0xFFFF then (stRange, s)
  else if (s.region i).state ≠ 4 then (stBusy, s)
  else if !s.hasSlice j then (stRange, s)
  else (stOk, s.setRegion i { s.region i with owner := j, state := 2 })

/-- R182: a Clear stale write. -/
def State.clearStaleWrite (s : State) (i : Nat) (val : List Byte) : Nat × State :=
  if val.length ≠ 1 ∨ beNat val ≠ 1 then (stRange, s)
  else if (s.region i).state ≠ 5 then (stBusy, s)
  else (stOk, s.setRegion i { s.region i with state := 2 })

/-- R182: the retention limit of a Retained region passes. -/
def State.retentionEnd (s : State) (i : Nat) : State :=
  let r := s.region i
  if r.state = 4 ∧ r.retainedAt + 1000000000 * s.regNow .mod 0x760007 ≤ s.ns then s.regionEnter i 3 else s

/-- R182: the owner's slice is torn down: at once, then at the scrub step. -/
def State.regionsTorn (s : State) (job : Nat) : State :=
  (s.mod.regions.filter fun x => x.2.owner == job).foldl (fun s x =>
    let r := s.region x.1
    if r.state = 2 then
      let s := s.admDrop r
      if r.retain then s.regionLeave x.1 4 else s.setRegion x.1 { r with torn := true }
    else if r.state = 1 ∨ r.state = 5 then s.setRegion x.1 { r with torn := true }
    else s) s

/-- R182, R320: the scrub step of a torn-down job: its regions without Retain begin removal. -/
def State.regionsScrub (s : State) (job : Nat) : State :=
  (s.mod.regions.filter fun x => x.2.owner == job && x.2.torn && !x.2.retain).foldl (fun s x =>
    if x.2.state = 1 then s.regionEnter x.1 3 else if x.2.state = 2 then s.regionLeave x.1 3 else s) s

/-- R202: the module rejoins after its plane was declared failed. -/
def State.regionsRejoin (s : State) : State :=
  s.mod.regions.foldl (fun s x =>
    let r := x.2
    if (r.state = 2 ∨ r.state = 4) ∧ r.kind = 2 then s.regionLeave x.1 5
    else if r.state = 2 then (s.admDrop r).regionLeave x.1 3
    else s) s

/-- R179: a write of the spill reserve. -/
def State.spillWrite (s : State) (val : List Byte) : Nat × State :=
  if val.length ≠ 2 ∨ ¬ spillOk (beNat val) then (stRange, s)
  else if s.mod.regions.any fun x => x.2.state != 0 then (stBusy, s)
  else (stOk, s.setReg .mod 0x700002 (beNat val))

/-- R183: the further check of a Commons admission entry. -/
def State.commonsAdmOk (s : State) (e : AdmEntry) : Bool :=
  let lo := e.localBase * 65536
  let hi := (e.localBase + e.len + 1) * 65536
  match s.regionAt lo with
  | none => false
  | some (_, r) =>
    decide (hi ≤ r.first + r.bytes) && (r.state == 2 || r.state == 5) && r.next.isNone && r.owner == e.job &&
    !(r.kind == 3 && (e.w || e.a)) && !(r.kind == 1 && !(lo == r.first && hi == r.first + r.bytes))

/-! ### Stacks and scrub (R188, R190) -/

/-- R188, R229: a stack is declared failed, and its spill pages leave the books; enough of them fence the module (R292). -/
def State.stackFail (s : State) (k : Nat) (retrain : Bool) : State :=
  let c := tabGetD s.mod.uncorr k 0
  let tooMany := c / 2 ^ 32 == s.epochOf .mod && decide (s.regNow .mod 0x730002 < c % 2 ^ 32)
  if 24 ≤ k ∨ s.mod.failedStacks.contains k ∨ ¬ (retrain || tooMany) then s
  else
    let s := (s.modMod fun m => { m with failedStacks := setIns m.failedStacks k,
                                         spill := m.spill.filter fun p => pageStack p.1 != k }).report .mod 2 0 s.plane
    if s.regNow .mod 0xA60002 ≤ s.mod.failedStacks.length then s.selfFence else s

/-- R190: does a checkpoint slot cover an epoch? -/
def State.slotCovers (s : State) (m : Nat) : Bool :=
  let p := s.regNow .mod 0x760005
  decide (p ≠ 0 ∧ m % p < s.regNow .mod 0x760006)

/-- R190: a checkpoint slot begins or ends at an epoch boundary. -/
def State.checkpointSlot (s : State) : State := s.modMod fun m => { m with inSlot := s.slotCovers (s.epochOf .mod) }

/-- The lines that regions hold, as ranges in ascending order: first line and lines. -/
def State.heldLines (s : State) : List (Nat × Nat) :=
  let l := (s.mod.regions.filter fun x => x.2.state != 0).map fun x => (x.2.first / 128, x.2.bytes / 128)
  let ins := fun (acc : List (Nat × Nat)) (r : Nat × Nat) =>
    acc.takeWhile (fun q => decide (q.1 ≤ r.1)) ++ [r] ++ acc.dropWhile (fun q => decide (q.1 ≤ r.1))
  l.foldl ins []

/-- How many held lines stand below a line. -/
def heldBelow (l : List (Nat × Nat)) (line : Nat) : Nat := l.foldl (fun n r => n + min r.2 (line - r.1)) 0

/-- The held line before which `n` held lines stand. -/
def heldAt : List (Nat × Nat) → Nat → Nat
  | [], _ => 0
  | r :: t, n => if n < r.2 then r.1 + n else heldAt t (n - r.2)

/-- R190: a scrub window opens at an epoch boundary, once an epoch, and patrol scrub reads the lines that it reaches at the
scrub rate, in ascending local address from where the last window ended, wrapping, over the lines that regions hold. Of those,
`corrected` are found corrected and rewritten, `failing` found failing and recorded; so are those that fail already. -/
def State.scrubOpen (s : State) (corrected failing : List Nat) : State :=
  let len := s.regNow .mod 0x730003
  let e := s.epochOf .mod
  if len = 0 ∨ s.slotCovers e ∨ e + 1 ≤ s.mod.scrubEpoch ∨ 1000 * len ≤ s.rackNs .mod % 1000000 then s
  else
    let held := s.heldLines
    let total := held.foldl (fun n r => n + r.2) 0
    let n := min total (s.regNow .mod 0x730004 * len / 128)
    let from_ := heldBelow held s.mod.scrubAt
    let reads := fun (l : Nat) => (s.regionAt (l * 128)).isSome && decide ((heldBelow held l + total - from_) % max 1 total < n)
    let s := (s.modMod fun m =>
      { m with scrubOn := true, scrubEpoch := e + 1, scrubEnds := e * 1000000 + 1000 * len,
               scrubAt := heldAt held ((from_ + n) % max 1 total) }).count .mod 0x06 0 8 (corrected.filter reads).length
    let s := s.modMod fun m => { m with corrected := m.corrected.filter fun l => !(corrected.contains l && reads l) }
    let s := (failing.filter reads).foldl (fun s l => s.lineFails l 1) s
    (s.mod.bad.filter fun b => reads (b / 2)).foldl (fun s b => s.errorRecord (b / 2) (s.stackOf (b / 2 * 128)) 2) s

/-- R190: a scrub window ends after its length. -/
def State.scrubClose (s : State) : State :=
  if s.mod.scrubOn ∧ s.mod.scrubEnds ≤ s.rackNs .mod then s.modMod fun m => { m with scrubOn := false } else s

/-! ### Answers -/

/-- R226: COMMONS_MEMORY_RESPONSE: a result is at the receiving tile, which answers the source. -/
def State.commonsResponse (s : State) (id : Nat) : State :=
  match s.mod.sh.recv.inprog.find? fun g => g.id == id && g.stage != 3 with
  | none => s
  | some g => match g.result with
    | none => s
    | some (code, data) =>
      let s := s.partCount .mod g.pkt.job (if code = cTorn then 4 else 5) (if code = cTorn ∨ code = cPoison then 1 else 0)
      (s.finishProg .mod id code data).regionsOn

/-! ### Restore pushes (R198) -/

/-- The planes of the rack arrangement (R19). -/
def State.planes (s : State) : Nat := if s.dense then 8 else 16

/-- R19: the endpoints of the rack arrangement: nodes 0 to 127, or 0 to 255. -/
def State.endpoints (s : State) : Nat := if s.dense then 256 else 128

/-- R198: the fragment that the module's plane holds of a stripe. -/
def State.fragOf (s : State) (stripe : Nat) : Nat := (s.plane + s.planes - stripe % s.planes) % s.planes

/-- R198: a write of the restore command. -/
def State.restoreCommand (s : State) (val : List Byte) : Nat × State :=
  let w := beNat val
  let i := bits w 127 120
  let r := s.region i
  let first := bits w 109 78
  let n := bits w 77 46
  if s.mod.push.state = 1 then (stBusy, s)
  else if val.length ≠ 16 ∨ r.kind ≠ 2 ∨ (r.state ≠ 2 ∧ r.state ≠ 4) ∨ s.endpoints ≤ bits w 119 110 ∨ bits w 44 0 ≠ 0 ∨ n = 0 ∨
      r.bytes < (first + n) * 65536 then (stRange, s)
  else
    let p : Push := { state := 1, region := i, target := bits w 119 110, first := first, stripes := n, parity := bit w 45,
                      next := 0, open_ := [], bad := [], pushed := 0, failed := 0 }
    (stOk, s.modMod fun m => { m with push := p })

/-- R198: one packet of a fragment. -/
def State.pushPacket (s : State) (port st j m : Nat) : State :=
  let pu := s.mod.push
  let r := s.region pu.region
  let at_ := r.first + (pu.first + st) * 65536 + 4096 * m
  let id := s.mod.sh.nextReq
  let k : Packet := { Packet.zero with typ := 0x31, plane := s.plane, src := s.node .mod, dst := pu.target,
                                       srcRack := s.rack .mod, dstRack := s.rack .mod,
                                       off := st * s.planes * 65536 + j * 65536 + 4096 * m, len := 4096,
                                       payload := s.commonsRead at_ 4096 }
  let q : Req := { id := id, order := id, agent := 0, tag := 0, link := 0, owner := .restore (st * 16 + m), st := .waiting,
                   slot := 0, gen := 0, vfa := 0, want := 1, rel := .none, acq := .none, noCache := true, cgen := 0,
                   fillOff := 0, fillLen := 0, forced := false, pkt := k, first := 0, last := 0, sends := 0, retrans := 0,
                   retries := 0, due := 0, timeout := 0, reLimit := 0, retryLimit := 0, life := 0, waits := [], bad := [],
                   sl := ⟨0, 0, 0, 0⟩, accAt := s.ns, trAt := s.ns, trSeq := 0, near := [],
                     ecc := [] }
  let s := s.modSh .mod fun sh => { sh with reqs := sh.reqs ++ [q], nextReq := id + 1 }
  s.sendReq .mod q s.plane (tileOfPort port) port

/-- R198: push the next stripe's fragment, skip it, or count it failed; nothing while the sequence span is full (R88). -/
def State.pushNext (s : State) : State :=
  let pu := s.mod.push
  if pu.state ≠ 1 ∨ pu.stripes ≤ pu.next then s
  else
    let st := pu.next
    let j := s.fragOf (pu.first + st)
    let step := fun (s : State) => s.modMod fun m => { m with push := { m.push with next := m.push.next + 1 } }
    if s.planes - 2 ≤ j ∧ pu.parity = false then step s
    else match s.routePort pu.target with
      | none => s
      | some port =>
        let dst := rackNode (s.rack .mod) pu.target
        if !s.mod.sh.pairReady dst || !s.mod.sh.spanRoom dst ((s.mod.sh.pairOf dst).next + 15) then s
        else
          let r := s.region pu.region
          let c := s.readCheckAs (linesOf (r.first + (pu.first + st) * 65536) 65536) 0 false
          if !c.2 then
            (step c.1).modMod fun m => { m with push := { m.push with failed := m.push.failed + 1 } }
          else
            let s := (step c.1).modMod fun m => { m with push := { m.push with open_ := tabSet m.push.open_ st 16 } }
            (List.range 16).foldl (fun s m => s.pushPacket port st j m) s

/-- R198: push what the span allows. -/
def State.pushOn (s : State) : State := (List.range 256).foldl (fun s _ => s.pushNext) s

/-- R198: the push ends once every fragment has its final answer. -/
def State.pushEnd (s : State) : State :=
  let pu := s.mod.push
  if pu.state = 1 ∧ pu.stripes ≤ pu.next ∧ pu.open_.isEmpty then
    s.modMod fun m => { m with push := { pu with state := if pu.failed = 0 then 2 else 3 } }
  else s

/-! ### The restore window of an endpoint (R199) -/

/-- R199: a Checkpoint restore packet reaches the endpoint. -/
def State.restoreReceive (s : State) (k : Packet) (port : Nat) (tagOk : Bool) : State :=
  let a := s.admitPacket .ep k port tagOk (k.typ == 0x31)
  let s := a.1
  match a.2 with
  | none => s
  | some .fresh =>
    if s.reg .ep 0xD62003 ≠ 1 ∨ k.src < 512 ∨ 527 < k.src ∨ s.reg .ep 0xD62002 < k.off + k.len then
      (s.deny .ep k.job k.src k.off k.typ 1).finish .ep k port cDenied [] false
    else
      let id := s.ep.sh.recv.nextId
      let g : InProg := { id := id, src := k.from_, pkt := k, loc := s.reg .ep 0xD62001 + k.off, offBase := 0, port := port,
                          result := none, at_ := s.ns, err := 0, stage := 0 }
      let s := s.modRecv .ep fun r => { r with inprog := r.inprog ++ [g], nextId := id + 1 }
      s.sendMem (.restore id) 0x29 0 g.loc k.len 0 0 k.payload
  | some c => (s.notNew .ep k port c).1

/-- R199: the restore write has been answered. -/
def State.restoreAnswer (s : State) (prog code : Nat) : State :=
  let n := match s.ep.sh.recv.inprog.find? fun g => g.id == prog with
    | some g => if code = cDone then g.pkt.len else 0
    | none => 0
  (s.modEp fun e => { e with restoreBytes := e.restoreBytes + n }).finishProg .ep prog code []

end Sys2Proof.Machine
end

