-- ==== Sys2Proof/Machine/ModColl.lean ====
section
/-! DEFINITION. Collectives at a module: groups and contexts (R151, R152, R178), names and sequence slots (R153 to R155), the
checks of collective packets (R168), pieces and their Windrow cells (R164, R219, R220, R227), results and their delivery
(R163, R171), trees across racks (R167, R170), lateness (R177). -/

namespace Sys2Proof.Machine

/-! ### Groups and contexts (R151, R152) -/

/-- A group entry at its reset value. -/
def Group.reset : Group where
  v := false
  job := 0
  members := 0
  rackMask := 0
  lateness := false
  firstSeq := 0
  table := []
  ctxs := []
  progs := []
  base := 0
  slots := []

/-- A context at its reset value. -/
def CContext.reset : CContext where
  v := false
  op := 0
  order := 0
  word := 0
  k := 1

def State.group (s : State) (i : Nat) : Group := tabGetD s.mod.groups i Group.reset

def State.setGroup (s : State) (i : Nat) (g : Group) : State :=
  s.modMod fun m => { m with groups := tabPut m.groups i g Group.reset }

def Group.ctx (g : Group) (c : Nat) : CContext := tabGetD g.ctxs c CContext.reset

/-- The program block of a context; zero where none is held. -/
def Group.prog (g : Group) (c : Nat) : List Byte := tabGetD g.progs c (List.replicate 192 0#8)

/-- The layout of a group entry, and its Reserved field. -/
def groupOf (w : Nat) : Group × Nat :=
  ({ Group.reset with v := bit w 127, job := bits w 126 111, members := bits w 110 99, rackMask := bits w 98 83,
                      lateness := bit w 82, firstSeq := bits w 81 50 }, bits w 49 0)

def Group.word (g : Group) : Nat :=
  ofBool g.v * 2 ^ 127 + g.job * 2 ^ 111 + g.members * 2 ^ 99 + g.rackMask * 2 ^ 83 + ofBool g.lateness * 2 ^ 82 +
    g.firstSeq * 2 ^ 50

/-- The layout of a context entry, and its Reserved field. -/
def contextOf (w : Nat) : CContext × Nat :=
  ({ v := bit w 127, op := bits w 126 123, order := bits w 122 119, word := bits w 118 87, k := bits w 86 79 + 1 },
   bits w 78 0)

def CContext.bits_ (c : CContext) : Nat :=
  ofBool c.v * 2 ^ 127 + c.op * 2 ^ 123 + c.order * 2 ^ 119 + c.word * 2 ^ 87 + (c.k - 1) * 2 ^ 79

/-- R152: a member table's own words: nodes 0 to 511, bits [11:10] zero, no member twice. -/
def tableWordsOk (t : List Nat) : Bool :=
  t.all (fun w => bits w 11 10 == 0 && decide (bits w 9 0 < 512)) && t.eraseDups.length == t.length

/-- R152: a member table against its group entry. -/
def Group.tableOk (g : Group) : Bool :=
  g.table.length == g.members + 1 && g.table.all (fun w => bit g.rackMask (bits w 15 12)) &&
  (List.range 16).all fun q => !bit g.rackMask q || g.table.any fun w => bits w 15 12 == q

/-- R318: has the job enabled in-switch reduction? -/
def State.reduces (s : State) (job : Nat) : Bool :=
  match tabGet s.mod.slices job with
  | some e => e.v && e.reduce
  | none => false

/-- R152: a context against R129, R148, its operation's row and what its job has enabled. -/
def State.contextOk (s : State) (g : Group) (c : CContext) (block : List Byte) : Bool :=
  let a := aword c.word
  let plain := a.mode == 0 && a.input == a.output && a.rnd == 0 && !a.sat && !a.prog
  let one := g.rackMask != 0 && g.rackMask &&& (g.rackMask - 1) == 0
  decide (c.op ≤ 5 ∧ c.order ≤ 8) && (c.op == 4 || c.k == 1) &&
  (match c.op with
   | 0 => a.ok && s.reduces g.job && (!a.prog || progOk a block)
   | 1 | 2 => a.ok && plain
   | 3 => c.word == 0
   | 4 => a.ok && plain && a.input == 0 && s.reduces g.job
   | _ => c.word == 0 && one)

/-- R152: is a slot of the group not Free? -/
def Group.busy (g : Group) : Bool := !g.slots.isEmpty

/-- R151, R152: GROUP_ENTRY_WRITE. An entry written back to Job ID 0x0000 with V clear needs no slice. -/
def State.groupWrite (s : State) (i : Nat) (val : List Byte) : Nat × State :=
  let n := groupOf (beNat val)
  let old := s.group i
  let new := { old with v := n.1.v, job := n.1.job, members := n.1.members, rackMask := n.1.rackMask, lateness := n.1.lateness,
                        firstSeq := n.1.firstSeq, base := if n.1.v && !old.v then n.1.firstSeq else old.base }
  if val.length ≠ 16 ∨ n.2 ≠ 0 ∨ ((n.1.v ∨ n.1.job ≠ 0) ∧ ¬ s.hasSlice n.1.job) ∨
      (n.1.v ∧ (¬ new.tableOk ∨ new.ctxs.any fun c => c.2.v && !s.contextOk new c.2 (new.prog c.1))) then (stRange, s)
  else if old.busy then (stBusy, s)
  else (stOk, s.setGroup i new)

/-- The 16-bit words of a member table. -/
def tableOf (val : List Byte) : List Nat := (List.range (val.length / 2)).map fun i => beNat (sliceBytes val (2 * i) 2)

/-- R152: MEMBER_TABLE_WRITE. -/
def State.memberWrite (s : State) (i : Nat) (val : List Byte) : Nat × State :=
  let g := s.group i
  let new := { g with table := tableOf val }
  if val.length % 2 ≠ 0 ∨ val.length < 2 ∨ 4096 < val.length ∨ ¬ s.hasSlice g.job ∨ ¬ tableWordsOk new.table ∨
      (g.v ∧ ¬ new.tableOk) then (stRange, s)
  else if g.busy then (stBusy, s)
  else (stOk, s.setGroup i new)

/-- R152, R129, R148: CONTEXT_ENTRY_WRITE: checked whether V is set or not. -/
def State.contextWrite (s : State) (i c : Nat) (val : List Byte) : Nat × State :=
  let g := s.group i
  let n := contextOf (beNat val)
  if val.length ≠ 16 ∨ n.2 ≠ 0 ∨ ¬ s.hasSlice g.job ∨ ¬ s.contextOk g n.1 (g.prog c) then (stRange, s)
  else if g.busy then (stBusy, s)
  else (stOk, s.setGroup i { g with ctxs := tabPut g.ctxs c n.1 CContext.reset })

/-- R148, R152: PROGRAM_BLOCK_WRITE: checked against the context that it serves, when that names a program. -/
def State.programWrite (s : State) (i c : Nat) (val : List Byte) : Nat × State :=
  let g := s.group i
  let a := aword (g.ctx c).word
  if val.length ≠ 192 ∨ ¬ s.hasSlice g.job ∨ (a.prog ∧ ¬ progOk a val) then (stRange, s)
  else if g.busy then (stBusy, s)
  else (stOk, s.setGroup i { g with progs := tabPut g.progs c val (List.replicate 192 0#8) })

/-- R151: a slice has become Free: its groups return to their reset values. -/
def State.groupsFreed (s : State) (job : Nat) : State :=
  s.modMod fun m => { m with groups := m.groups.filter fun g => g.2.job != job }

/-! ### Members -/

/-- The word of a member: rack and node. -/
def memberWord (rack node : Nat) : Nat := rack * 4096 + node

/-- The rank of a node, if it is a member. -/
def Group.rankOf (g : Group) (rack node : Nat) : Option Nat :=
  (List.range g.table.length).find? fun r => g.table.getD r 0 == memberWord rack node

/-- The ranks of a rack's members, ascending. -/
def Group.ranksIn (g : Group) (rack : Nat) : List Nat :=
  (List.range g.table.length).filter fun r => bits (g.table.getD r 0) 15 12 == rack

/-- Does the group span racks? -/
def Group.spans (g : Group) : Bool := (bitsSet 16 g.rackMask).length != 1

/-- The Mown entry of a collective's name: its index and the entry. -/
def State.mownNamed (s : State) (gi job cctx seq : Nat) : Option (Nat × MownEntry) :=
  s.mod.sh.mown.find? fun e => e.2.job == job && e.2.group == gi && e.2.cctx == cctx && e.2.cseq == seq && e.2.state != 0

/-- R158: the live list of a collective: the plane mask of its start. No packet carries the mask to a module; it is what the
collective's Mown entry names, else a free value, with the module's own plane in it (log entry 56). -/
def State.liveOf (s : State) (gi job cctx seq : Nat) : List Nat :=
  let mask := match s.mownNamed gi job cctx seq with
    | some e => e.2.planes
    | none => Config.startMask [job, gi, cctx, seq]
  (List.range s.planes).filter fun p => bit mask p || p == s.plane

/-! ### Sequence slots (R153) -/

/-- A piece that holds nothing. -/
def Piece.empty : Piece where
  ranks := []
  cells := 0
  touched := 0
  acc := []
  held := []
  spilled := false
  nodes := []
  side := []
  sideNodes := []
  sideHeld := []
  done := false
  short := false
  racks := 0
  partials := []
  result := []
  sentUp := none
  resends := 0
  treeDone := false
  pod := []
  deliver := []

/-- Change a group. -/
def State.modGroup (s : State) (i : Nat) (f : Group → Group) : State := s.modMod fun m => { m with groups := tabMod m.groups i f }

/-- Change the slot of a sequence. -/
def State.modSlot (s : State) (gi seq : Nat) (f : SeqSlot → SeqSlot) : State :=
  s.modGroup gi fun g => { g with slots := tabMod g.slots (seq % 4) f }

/-- The slot of a sequence. -/
def State.seqSlot (s : State) (gi seq : Nat) : Option SeqSlot :=
  match tabGet (s.group gi).slots (seq % 4) with
  | some x => if x.cseq = seq then some x else none
  | none => none

/-- The size that the slot of a packet's sequence has taken, if any (R162). -/
def State.heldSize (s : State) (k : Packet) : Option Nat :=
  match s.seqSlot k.group k.cseq with
  | some x => x.size
  | none => none

/-- The context of a packet's sequence: its slot's, where one is open. -/
def State.heldContext (s : State) (k : Packet) : Nat :=
  match s.seqSlot k.group k.cseq with
  | some x => if x.state = 3 then k.cctx else x.cctx
  | none => k.cctx

def SeqSlot.piece (x : SeqSlot) (k : Nat) : Piece := tabGetD x.pieces k Piece.empty

/-- Change a piece. -/
def State.modPiece (s : State) (gi seq k : Nat) (f : Piece → Piece) : State :=
  s.modSlot gi seq fun x => { x with pieces := tabSet x.pieces k (f (x.piece k)) }

/-- R153: where a sequence stands: Done for one of the four slots, Hold, or Poison. -/
def Group.place (g : Group) (seq : Nat) : Nat :=
  let d := serialDiff seq g.base
  if 2 ^ 31 ≤ d then cPoison
  else if 4 ≤ d then cHold
  else match tabGet g.slots (seq % 4) with
    | some x => if x.state = 3 then cPoison else cDone
    | none => cDone

/-- The tiles in service, ascending (R227), without those that a window withdraws (R298). -/
def State.tilesServing (s : State) : List Nat := (List.range 64).filter fun t => (s.tile t).inService && !(s.tile t).withdrawn

/-- R153: open the slot of a sequence, if it is Free. -/
def State.openSlot (s : State) (gi seq cctx : Nat) : State :=
  match tabGet (s.group gi).slots (seq % 4) with
  | some _ => s
  | none =>
    let x : SeqSlot := { state := 1, cseq := seq, cctx := cctx, opened := s.ns, timeout := s.reg .mod 0x610002 * 1000,
                         resendTime := s.reg .mod 0x610003 * 1000, resendLimit := s.reg .mod 0x610004, size := none,
                         tiles := s.tilesServing, pieces := [], counts := [], arrivals := [],
                         released := false, poisoned := [] }
    s.modGroup gi fun g => { g with slots := tabSet g.slots (seq % 4) x }

/-- R153: the base advances past Finished slots. -/
def Group.advance (g : Group) : Nat → Group
  | 0 => g
  | n + 1 => match tabGet g.slots (g.base % 4) with
    | some x => if x.state = 3 then
        ({ g with slots := tabDel g.slots (g.base % 4), base := (g.base + 1) % 2 ^ 32 } : Group).advance n else g
    | none => g

/-- R153: a sequence finishes: its slot becomes Free where it is the base's, and Finished otherwise. -/
def Group.finish (g : Group) (seq : Nat) : Group :=
  if seq = g.base then
    ({ g with slots := tabDel g.slots (seq % 4), base := (g.base + 1) % 2 ^ 32 } : Group).advance 4
  else { g with slots := tabMod g.slots (seq % 4) fun x =>
                  { x with state := 3, pieces := [], counts := [], arrivals := [], size := none } }

/-- What the context and the size of a slot make of its collective. -/
def Group.shape (g : Group) (cctx size : Nat) : Shape :=
  let c := g.ctx cctx
  shapeOf c.op c.word c.k c.order size g.table.length

/-! ### Windrow cells and spill (R204, R219, R220, R227) -/

/-- R227: the home tile of a piece. -/
def SeqSlot.home (x : SeqSlot) (gi k : Nat) : Nat := x.tiles.getD ((k + gi) % max 1 x.tiles.length) 0

/-- R194, R188: the spill pages of an SCD: those of its stacks in service. -/
def State.scdPages (s : State) (scd : Nat) : Nat :=
  let out := (s.mod.failedStacks.filter fun k => k / 6 == scd).length
  s.spillGib * 131072 / 4 * (6 - out) / 6

/-- The spill pages of an SCD that are held. -/
def State.scdHeld (s : State) (scd : Nat) : Nat := (s.mod.spill.filter fun p => pageScd p.1 == scd).length

/-- The spill pages that a tile holds. -/
def State.pagesHeld (s : State) (t : Nat) : Nat := (s.mod.spill.filter fun p => p.2.tile == t).length

/-- The spill pages that hold a thing. -/
def State.pagesOf (s : State) (who : SpillFor) : Nat := (s.mod.spill.filter fun p => p.2.who == who).length

/-- R219: may a tile take `n` more spill pages? -/
def State.mayTakePages (s : State) (t n : Nat) : Bool :=
  decide (s.pagesHeld t + n ≤ s.regNow .mod 0x520003) && decide (s.scdHeld (scdOfTile t) + n ≤ s.scdPages (scdOfTile t))

/-- R143: the bytes of a value in the accumulation format. -/
def AWord.accBytes (a : AWord) : Nat := if a.acc = 1 then 8 else 4

/-- R133, R143: the bytes of nodes that wait, in the accumulation format. -/
def nodeBytes (a : AWord) (l : List TNode) : Nat := l.foldl (fun n t => n + a.accBytes * t.vals.length) 0

/-- The bytes of payloads. -/
def heldBytes (l : List (Nat × List Byte)) : Nat := l.foldl (fun n h => n + h.2.length) 0

/-- R194: the pages that a piece's records or values take in spill. -/
def Piece.pagesFor (p : Piece) (sh : Shape) : Nat :=
  if p.acc.isEmpty then (nodeBytes (aword sh.word) p.nodes + heldBytes p.held + 8127) / 8128 else (p.acc.length + 168) / 169

/-- R133: an accumulator record as its 48 bytes. -/
def Acc.record (c : Acc) : List Byte :=
  beBytes 48 (patternOf 320 c.a * 2 ^ 64 + ofBool c.n * 2 ^ 63 + ofBool c.p * 2 ^ 62 + ofBool c.m * 2 ^ 61 + ofBool c.z * 2 ^ 60)

/-- R194: the contents of a piece's spill pages: at most 169 whole records, or 8,128 bytes of values, each; and their kind. -/
def Piece.pagesOf (p : Piece) (sh : Shape) : Nat × List (List Byte) :=
  let a := aword sh.word
  let cut := fun (n : Nat) (l : List Byte) => (List.range ((l.length + n - 1) / n)).map fun i => sliceBytes l (i * n) n
  if p.acc.isEmpty then
    (2, cut 8128 ((p.nodes.flatMap fun t => (encodeNums (if a.acc = 1 then 0x0D else 0) t.vals 0 false).1) ++ p.held.flatMap (·.2)))
  else (1, cut (169 * 48) (p.acc.flatMap Acc.record))

/-- R133, R143, R204: the cells of the Windrow pool that a piece takes where it stands: its records, ordered values or rows,
or, while those are in spill, what has come since. A contribution that waits for a Mown slot takes none (R217). -/
def Piece.cellsFor (p : Piece) (sh : Shape) : Nat :=
  let a := aword sh.word
  let here := if p.spilled then 0 else 48 * p.acc.length + nodeBytes a p.nodes + (if sh.op = 4 then heldBytes p.held else 0)
  (here + 48 * p.side.length + nodeBytes a p.sideNodes + heldBytes p.sideHeld + 255) / 256

/-- The pieces whose records stand in the Windrow pool of a tile, but for one piece: group, sequence, piece, last touch. -/
def State.pooled (s : State) (t : Nat) (but : Nat × Nat × Nat) : List (Nat × Nat × Nat × Nat) :=
  s.mod.groups.flatMap fun g => g.2.slots.flatMap fun x => (x.2.pieces.filter fun p =>
    decide (0 < p.2.cells) && !p.2.spilled && x.2.home g.1 p.1 == t && (g.1, x.2.cseq, p.1) != but).map fun p =>
      (g.1, x.2.cseq, p.1, p.2.touched)

/-- R219: spill the least recently touched record of a tile, other than that of the piece which needs its cells; none when it
cannot. -/
def State.spillRecord (s : State) (t : Nat) (but : Nat × Nat × Nat) : Option State :=
  let best := (s.pooled t but).foldl (fun b x => match b with
    | none => some x
    | some y => if x.2.2.2 < y.2.2.2 then some x else some y) (none : Option (Nat × Nat × Nat × Nat))
  match best with
  | none => none
  | some (gi, seq, k, _) => match s.seqSlot gi seq with
    | none => none
    | some x =>
      let p := x.piece k
      let sh := (s.group gi).shape x.cctx (x.size.getD 0)
      if s.mayTakePages t (p.pagesFor sh) then
        let s := s.modTile t fun x => { x with windUsed := x.windUsed - p.cells }
        let out := p.pagesOf sh
        let s := out.2.foldl (fun s d => s.writePage t out.1 (.piece gi seq k) d) s
        some (s.modPiece gi seq k fun p => { p with cells := 0, spilled := true })
      else none

/-- R219, R220: take `c` cells of a tile's Windrow pool for a piece, spilling records for them; none when it cannot. -/
def State.takeCells (s : State) (t c : Nat) (piece : Nat × Nat × Nat) : Nat → Option State
  | 0 => none
  | n + 1 =>
    if (s.tile t).windUsed + c ≤ s.reg .mod 0x510004 then some (s.modTile t fun x => { x with windUsed := x.windUsed + c })
    else match s.spillRecord t piece with
      | some s => s.takeCells t c piece n
      | none => none

/-- R279: the contributions of a piece that waited in their ingress tiles leave them. -/
def State.waitersLeave (s : State) (gi seq k : Nat) : State :=
  (s.mod.frames.filter fun f => f.place == 6 && f.pkt.group == gi && f.pkt.cseq == seq && f.pkt.piece == k).foldl
    (fun s f => s.takeFrame f) s

/-- R204, R229: a piece returns what it holds of the Windrow pool and of spill, and of its ingress tiles. -/
def State.freePiece (s : State) (gi seq k : Nat) : State :=
  let s := s.waitersLeave gi seq k
  match s.seqSlot gi seq with
  | none => s
  | some x =>
    let p := x.piece k
    let s := s.dropPages (.piece gi seq k)
    if p.cells = 0 ∧ ¬ p.spilled then s
    else (s.modTile (x.home gi k) fun t => { t with windUsed := t.windUsed - p.cells }).modPiece gi seq k fun p =>
      { p with cells := 0, spilled := false }

/-! ### What a piece holds -/

/-- R143: compute each node of the tree over the places from `lo` on, `n` of them, whose children both stand. -/
def treeStep (k : FKind) : Nat → Nat → Nat → List TNode → List TNode
  | 0, _, _, l => l
  | fuel + 1, lo, n, l =>
    if n < 2 then l
    else
      let h := splitAt n
      let l := treeStep k fuel (lo + h) (n - h) (treeStep k fuel lo h l)
      match l.find? (fun t => t.lo == lo && t.n == h), l.find? (fun t => t.lo == lo + h && t.n == n - h) with
      | some a, some b =>
        l.filter (fun t => t != a && t != b) ++
          [{ lo := lo, n := n, vals := (a.vals.zip b.vals).map fun v => addNum k v.1 v.2 }]
      | _, _ => l

/-- R142: the place of a rank in its rack's tree: ranks stand in ascending order. -/
def Group.placeIn (g : Group) (rack rank : Nat) : Nat := (g.ranksIn rack).findIdx fun r => r == rank

/-- R132, R133, R143, R165: a piece takes a contribution; one whose record is in spill takes it beside the record, and one that
waits for its Mown slot as it came (R279). `n`: the members of the rack, `at_`: the place of this one in their tree. -/
def Piece.take (p : Piece) (sh : Shape) (wait : Bool) (n at_ rank now : Nat) (payload : List Byte) : Piece :=
  let a := aword sh.word
  let p := { p with ranks := p.ranks ++ [rank], touched := now }
  if wait then { p with held := p.held ++ [(rank, payload)] }
  else if sh.op = 4 then
    let rows := fun (l : List (Nat × List Byte)) => [(0, mergeTopK sh.k (l.map (·.2) ++ [payload]))]
    if p.spilled then { p with sideHeld := rows p.sideHeld } else { p with held := rows p.held }
  else if sh.op ≠ 0 then { p with held := p.held ++ [(rank, payload)] }
  else
    let vs := decodePayload a.input payload
    if a.mode = 0 then
      if p.spilled then { p with side := accAddAll p.side vs } else { p with acc := accAddAll p.acc vs }
    else
      let leaf : TNode := { lo := at_, n := 1, vals := vs.map (toAcc a.work) }
      if p.spilled then { p with sideNodes := p.sideNodes ++ [leaf] }
      else { p with nodes := treeStep a.work 16 0 n (p.nodes ++ [leaf]) }

/-- R133: what came while a record was in spill is merged with the record. -/
def Piece.merged (p : Piece) (sh : Shape) (n : Nat) : Piece :=
  { p with spilled := false, acc := if p.side.isEmpty then p.acc else accMergeAll p.acc p.side, side := [],
           nodes := if p.sideNodes.isEmpty then p.nodes else treeStep (aword sh.word).work 16 0 n (p.nodes ++ p.sideNodes),
           sideNodes := [],
           held := if p.sideHeld.isEmpty then p.held else [(0, mergeTopK sh.k ((p.held ++ p.sideHeld).map (·.2)))],
           sideHeld := [] }

/-- R279, R280: the contributions of a reduction that waited for the piece's slot join it. -/
def Piece.joined (p : Piece) (g : Group) (sh : Shape) (rack : Nat) : Piece :=
  if sh.op = 0 then
    let q := p.held.foldl (fun (q : Piece) h =>
      q.take sh false (g.ranksIn rack).length (g.placeIn rack h.1) h.1 p.touched h.2) { p with held := [] }
    { q with ranks := p.ranks }
  else p

/-- R142, R169: the values of a rack's tree over the contributions that a piece holds; a missing one counts as +0 at its
place. -/
def Piece.treeVals (p : Piece) (a : AWord) (n elems : Nat) : List Num :=
  let gaps := (List.range n).filter fun i => !(p.nodes.any fun t => decide (t.lo ≤ i ∧ i < t.lo + t.n))
  let l := treeStep a.work 16 0 n (p.nodes ++ gaps.map fun i => { lo := i, n := 1, vals := List.replicate elems (.fin false 0) })
  match l.find? fun t => t.n == n with
  | some t => t.vals
  | none => []

/-! ### Engines (R227, R276) -/

/-- An engine of a tile in service: any of them may take a piece's next contribution (R227). -/
def State.anyEngine (s : State) (t : Nat) : Nat :=
  let l := (List.range 8).filter fun e => !s.mod.engOut.contains (8 * t + e)
  8 * t + l.getD (Config.choice s.draws % max 1 l.length) 0

/-- R276: the engine of a piece in Mown mode is the schedule's; else any engine of its home tile takes it (R227). -/
def State.engineFor (s : State) (gi : Nat) (g : Group) (x : SeqSlot) (k : Nat) : Nat :=
  match s.mownNamed gi g.job x.cctx x.cseq with
  | some (_, e) =>
    if s.mod.sh.mode = 1 ∧ e.state = 3 then 8 * x.home gi k + (k + gi) / max 1 x.tiles.length % 8 else s.anyEngine (x.home gi k)
  | none => s.anyEngine (x.home gi k)

/-- Count the elements and cycles of a contribution at an engine (64 bytes a cycle). -/
def State.engineAdds (s : State) (e elems bytes : Nat) : State :=
  (s.count .mod 0x05 e 0 elems).count .mod 0x05 e 1 ((bytes + 63) / 64)

/-- Count what a conversion found (R137, R139, R140). -/
def State.engineConv (s : State) (e : Nat) (c : Conv) : State :=
  ((s.count .mod 0x05 e 2 c.ovf).count .mod 0x05 e 3 c.nan).count .mod 0x05 e 4 c.inv

/-! ### Sending to members (R163, R171) -/

/-- A collective packet of the module. -/
def State.collPacket (s : State) (gi : Nat) (g : Group) (x : SeqSlot) (phase tree k : Nat) (data : List Byte) : Packet :=
  { Packet.zero with typ := 0x20 + (g.ctx x.cctx).op, plane := s.plane, job := g.job, src := s.node .mod,
                     srcRack := s.rack .mod, group := gi, cseq := x.cseq, phase := phase, tree := tree, cctx := x.cctx,
                     piece := k, len := data.length, payload := data }

/-- Do two packets carry the result of one piece? -/
def sameResult (a b : Packet) : Bool := a.phase == b.phase && a.job == b.job && a.group == b.group && a.cseq == b.cseq && a.piece == b.piece

/-- R228: does a tile hold its copy of a result? -/
def State.copyAt (s : State) (t : Nat) (k : Packet) : Bool :=
  s.mod.frames.any fun f => f.place == 5 && f.tile == t && sameResult f.pkt k

/-- R227, R228: the tile that holds the result of a piece: its home tile, or the ingress tile of what is not sent to one. -/
def State.holderTile (s : State) (gi seq k : Nat) : Nat :=
  match s.seqSlot gi seq with
  | none => 0
  | some x =>
    let g := s.group gi
    let op := (g.ctx x.cctx).op
    let from_ := ((x.piece k).ranks.head?.bind fun r => s.routePort (bits (g.table.getD r 0) 9 0)).map tileOfPort
    if op = 1 ∨ op = 2 then from_.getD (x.home gi k) else x.home gi k

/-- R228: the tile that holds a result sends a frame with it to a tile that serves members, unit 6 (log entry 178); each waits for
its cells. -/
def State.sendCopy (s : State) (from_ t : Nat) (k : Packet) : State :=
  let coming := s.mod.frames.any fun f => f.unit == 6 && f.dtile == t && f.place != 5 && sameResult f.pkt k
  if coming || s.copyAt t k || !s.hasCells from_ k.wireLen then s
  else if from_ = t then s.addFrame { s.mkFrame t t 6 2 k 0xFF with place := 5 }
  else s.newFrame from_ t 6 2 k 0xFF

/-- R171: send a copy that waits, if its member's port is trained and its span has room. -/
def State.tryDeliver (s : State) (id : Nat) : State :=
  match s.mod.sh.req id with
  | none => s
  | some r =>
    if r.st ≠ ReqSt.waiting then s
    else match s.routePort r.pkt.dst with
      | none => s
      | some port =>
        let s := match r.owner with
          | .result g cs k _ => if r.pkt.phase = 1 then s.sendCopy (s.holderTile g cs k) (tileOfPort port) r.pkt else s
          | _ => s
        let held := match r.owner with
          | .result _ _ _ _ => r.pkt.phase != 1 || s.copyAt (tileOfPort port) r.pkt
          | _ => true
        if held && s.mod.sh.portActive port && s.mod.sh.pairReady r.pkt.to_ &&
            s.mod.sh.spanRoom r.pkt.to_ (s.mod.sh.pairOf r.pkt.to_).next then
          let s := s.sendReq .mod r s.plane (tileOfPort port) port
          match r.owner with
          | .result g cs k rank =>
            let sent := fun (l : List Delivery) => l.map fun d => if d.rank = rank ∧ d.state = 0 then { d with state := 1 } else d
            if r.pkt.phase = 5 then s else s.modSlot g cs fun x => { x with pieces := tabMod x.pieces k fun p =>
              { p with deliver := sent p.deliver } }
          | _ => s
        else s

/-- A request of the module to a member: it waits for the member's port, and leaves at once where that is trained. -/
def State.toMember (s : State) (owner : Owner) (w : Nat) (k : Packet) : State :=
  let id := s.mod.sh.nextReq
  let k := { k with dst := bits w 9 0, dstRack := bits w 15 12 }
  let q : Req := { id := id, order := id, agent := 0, tag := 0, link := 0, owner := owner, st := .waiting, slot := 0, gen := 0,
                   vfa := 0, want := 3, rel := .none, acq := .none, noCache := true, cgen := 0, fillOff := 0, fillLen := 0,
                   forced := false, pkt := k, first := 0, last := 0, sends := 0, retrans := 0, retries := 0, due := 0,
                   timeout := 0, reLimit := 0, retryLimit := 0, life := 0, waits := [], bad := [], sl := ⟨0, 0, 0, 0⟩,
                   accAt := s.ns, trAt := s.ns, trSeq := 0, near := [],
                     ecc := [] }
  (s.modSh .mod fun sh => { sh with reqs := sh.reqs ++ [q], nextReq := id + 1 }).tryDeliver id

/-- R171, R228: deliver a result of a piece to members. -/
def State.deliver (s : State) (gi seq k : Nat) (ranks : List Nat) (data : List Byte) (short : Bool) : State :=
  let g := s.group gi
  match s.seqSlot gi seq with
  | none => s
  | some x =>
    let pkt := s.collPacket gi g x 1 (if short then 2 else 0) k data
    let s := s.modPiece gi seq k fun p =>
      { p with deliver := p.deliver ++ ranks.map fun r => { rank := r, state := 0 }, result := data, short := short }
    ranks.foldl (fun s r => s.toMember (.result gi seq k r) (g.table.getD r 0) pkt) s

/-- R176, R258: Release to every member of the rack, and one Barrier release on each timing lane. -/
def State.sendRelease (s : State) (gi seq : Nat) : State :=
  let g := s.group gi
  match s.seqSlot gi seq with
  | none => s
  | some x =>
    if x.released then s
    else
      let pkt := s.collPacket gi g x 5 0 0 []
      let s := s.modSlot gi seq fun x => { x with released := true }
      let s := (g.ranksIn (s.rack .mod)).foldl (fun s r => s.toMember (.result gi seq 0 r) (g.table.getD r 0) pkt) s
      if (g.ctx x.cctx).op = 3 then
        s.sendTiming .mod (.barrier { job := g.job, group := gi, cctx := x.cctx, cseq := seq, plane := s.plane })
      else s

/-! ### Trees across racks (R167, R170) -/

/-- The prefix of a Rack partial or Tree result. -/
def partPrefix (racks first n : Nat) : List Byte := beBytes 16 (racks * 2 ^ 112 + first * 2 ^ 99 + n * 2 ^ 86)

/-- Racks, first element and elements of a payload. -/
def partFields (payload : List Byte) : Nat × Nat × Nat :=
  let w := beNat (payload.take 16)
  (bits w 127 112, bits w 111 99, bits w 98 86)

/-- Cut elements (each `n` of them, in `bytes`) into payloads of whole elements. -/
def packParts (racks : Nat) (n : Nat) (elems : List (List Byte)) : List (List Byte) :=
  let r := elems.foldl (fun (acc : List (List Byte) × Nat × Nat × List Byte) e =>
    let (out, first, cnt, cur) := acc
    if 4080 < cur.length + e.length then (out ++ [partPrefix racks first cnt ++ cur], first + cnt, n, e)
    else (out, first, cnt + n, cur ++ e)) ([], 0, 0, [])
  if r.2.2.1 = 0 then r.1 else r.1 ++ [partPrefix racks r.2.1 r.2.2.1 ++ r.2.2.2]

/-- Cut bytes into units. -/
def unitsOfBytes (u : Nat) (l : List Byte) : List (List Byte) :=
  (List.range (l.length / max 1 u)).map fun i => sliceBytes l (i * u) u

/-- The elements that a wire unit of a result or contribution holds and its bytes. -/
def Shape.unit (sh : Shape) (fmt : Nat) : Nat × Nat := if sh.op = 4 then (1, 8 * sh.k) else (unitElems fmt, wireUnit fmt)

/-- R167: what a rack holds of a piece, as Rack partial payloads. -/
def State.rackPayloads (s : State) (g : Group) (sh : Shape) (p : Piece) : List (List Byte) :=
  let a := aword sh.word
  let racks := 2 ^ s.rack .mod
  if sh.op = 3 then [partPrefix racks 0 0]
  else if sh.op = 4 then packParts racks 1 (unitsOfBytes (8 * sh.k) (mergeTopK sh.k (p.held.map (·.2))))
  else if sh.op = 0 then
    if a.mode = 0 then packParts racks 1 (p.acc.map Acc.partial_)
    else
      let vs := p.treeVals a (g.ranksIn (s.rack .mod)).length ((p.nodes.headD ⟨0, 0, []⟩).vals.length)
      packParts racks 1 (vs.map fun v => (encodeNums (if a.acc = 1 then 0x0D else 0) [v] 0 false).1)
  else
    let u := sh.unit a.input
    packParts racks u.1 (unitsOfBytes u.2 (match p.held with
      | h :: _ => h.2
      | [] => []))

/-- The racks of a mask, and the root of a tree (1 A, 2 B). -/
def treeRoot (mask tree : Nat) : Nat :=
  let l := bitsSet 16 mask
  if tree = 1 then l.headD 0 else l.getLastD 0

/-- R158: the tree of a piece and its plane-local chunk number. -/
def State.treeOf (s : State) (gi : Nat) (g : Group) (cctx seq : Nat) (sh : Shape) (k : Nat) : Nat × Nat :=
  let j := k / 2 ^ sh.order / max 1 (s.liveOf gi g.job cctx seq).length
  if sh.op = 3 then (1, 0) else if g.spans then (j % 2 + 1, j) else (1, j)

/-- R223: the port toward a rack for plane-local chunk j. -/
def State.portToRack (s : State) (rack j : Nat) : Option Nat :=
  let l := bitsSet 256 (tabGetD s.mod.rackRoutes rack 0)
  if l.isEmpty then none else some (l.getD (j / 2 % l.length) 0)

/-- Send a packet between modules: Sequence 0, S = 0 (R163). -/
def State.toRack (s : State) (gi : Nat) (k : Packet) (rack j : Nat) : State :=
  match s.portToRack rack j with
  | none => s
  | some port =>
    let k := { k with dst := 512 + s.plane, dstRack := rack }
    let k := { k with epoch := s.headerEpoch .mod k }
    s.sendPacket .mod (tileOfPort ((k.piece + gi) % 64 * 4)) port k (s.sealOf .mod k 0)

/-- R167: send a rack's partial toward the root of its tree. -/
def State.sendUp (s : State) (gi seq k : Nat) : State :=
  let g := s.group gi
  match s.seqSlot gi seq with
  | none => s
  | some x =>
    let sh := g.shape x.cctx (x.size.getD 0)
    let (tree, j) := s.treeOf gi g x.cctx seq sh k
    let s := (s.rackPayloads g sh (x.piece k)).foldl (fun s d =>
      s.toRack gi (s.collPacket gi g x 2 tree k d) (treeRoot g.rackMask tree) j) s
    s.modPiece gi seq k fun p => { p with sentUp := some s.ns }

/-- Two partial payloads overlap: a rack in common and elements in common. -/
def partsMeet (a b : List Byte) : Bool :=
  let (ra, fa, na) := partFields a
  let (rb, fb, nb) := partFields b
  ra &&& rb != 0 && (decide (fa < fb + nb ∧ fb < fa + na) || (na == 0 && nb == 0))

/-- The parts of a piece that hold a rack cover all its elements. -/
def Piece.covers (p : Piece) (q n : Nat) : Bool :=
  let l := p.partials.filter fun t => bit (partFields t.2).1 q
  !l.isEmpty && (l.foldl (fun a t => a + (partFields t.2).2.2) 0) == n

/-- The bytes that the parts that hold a rack spell, in element order. -/
def Piece.bytesOf (p : Piece) (q : Nat) : List Byte :=
  let l := p.partials.filter fun t => bit (partFields t.2).1 q
  let ins := fun (acc : List (List Byte)) (t : List Byte) =>
    acc.takeWhile (fun u => decide ((partFields u).2.1 ≤ (partFields t).2.1)) ++ [t] ++
      acc.dropWhile (fun u => decide ((partFields u).2.1 ≤ (partFields t).2.1))
  ((l.foldl (fun acc t => ins acc t.2) []).map fun t => t.drop 16).flatten

/-- R167: the finished result of a piece at the root: its bytes, its Racks and what its conversion found. -/
def Piece.rootResult (p : Piece) (g : Group) (sh : Shape) (block : List Byte) : Option (List Byte × Nat × Conv) :=
  let a := aword sh.word
  let n := sh.elems (if sh.op = 3 then 0 else 0)
  let zero : Conv := ⟨0, 0, 0, 0⟩
  let racks := bitsSet 16 g.rackMask
  if sh.op = 3 then
    if racks.all fun q => p.covers q 0 then some ([], g.rackMask, zero) else none
  else if sh.op = 1 ∨ sh.op = 2 then
    match racks.find? fun q => p.covers q n with
    | some q => some (p.bytesOf q, 2 ^ q, zero)
    | none => none
  else if !(racks.all fun q => p.covers q n) then none
  else if sh.op = 4 then some (mergeTopK sh.k (racks.map p.bytesOf), g.rackMask, zero)
  else if a.mode = 0 then
    let accs := p.partials.foldl (fun acc t =>
      let f := (partFields t.2).2.1
      let got := (readPartials 8192 (t.2.drop 16)).getD []
      accMergeAll acc (List.replicate f Acc.zero ++ got)) ([] : List Acc)
    let r := finishNums a block (accs.map Acc.value)
    some (r.1, g.rackMask, r.2)
  else
    let rows := racks.map fun q => decodePayload (if a.acc = 1 then 0x0D else 0) (p.bytesOf q)
    let vs := (List.range n).map fun i => treeSum a.work 16 (rows.map fun r => r.getD i (.fin false 0))
    let r := finishNums a block vs
    some (r.1, g.rackMask, r.2)

/-- R167: send a tree result to a rack. -/
def State.sendDown (s : State) (gi seq k rack racks : Nat) (data : List Byte) : State :=
  let g := s.group gi
  match s.seqSlot gi seq with
  | none => s
  | some x =>
    let sh := g.shape x.cctx (x.size.getD 0)
    let a := aword sh.word
    let (tree, j) := s.treeOf gi g x.cctx seq sh k
    let u := sh.unit a.output
    let parts := if sh.op = 3 then [partPrefix racks 0 0] else packParts racks u.1 (unitsOfBytes u.2 data)
    parts.foldl (fun s d => s.toRack gi (s.collPacket gi g x 3 tree k d) rack j) s

/-- R167: the members of the own rack that a finished piece is delivered to. -/
def State.targets (s : State) (g : Group) (sh : Shape) (k : Nat) : List Nat :=
  let own := g.ranksIn (s.rack .mod)
  if sh.op = 0 then own.filter fun r => r == sh.shard k else if sh.op = 3 ∨ sh.op = 5 then [] else own

/-- R167, R170: the root holds every part of a piece: it finishes it, sends tree results down and delivers. -/
def State.rootOn (s : State) (gi seq k : Nat) : State :=
  let g := s.group gi
  match s.seqSlot gi seq with
  | none => s
  | some x =>
    let p := x.piece k
    let sh := g.shape x.cctx (x.size.getD 0)
    let own := s.rack .mod
    if p.treeDone ∨ treeRoot g.rackMask (s.treeOf gi g x.cctx seq sh k).1 ≠ own ∨ (x.size.isNone ∧ sh.op ≠ 3) then s
    else
      let one := { sh with size := sh.elems k, e := max 1 (sh.elems k) }
      match p.rootResult g (if sh.op = 3 then sh else one) (g.prog x.cctx) with
      | none => s
      | some (data, racks, conv) =>
        let e := s.engineFor gi g x k
        let s := s.drawn.engineConv e conv
        let s := s.modPiece gi seq k fun p => { p with treeDone := true, racks := racks, result := data }
        let s := ((bitsSet 16 g.rackMask).filter fun q => q != own).foldl (fun s q => s.sendDown gi seq k q racks data) s
        if (sh.op = 1 ∨ sh.op = 2) ∧ bit racks own then s else s.deliver gi seq k (s.targets g sh k) data false

/-! ### Completing a piece -/

/-- R164: the finished result of a piece within one rack, from what it holds, and what its conversion found. A missing
contribution is left out (exact) or counts as +0 (ordered) (R169). -/
def State.rackResult (s : State) (g : Group) (sh : Shape) (k : Nat) (p : Piece) (block : List Byte) : List Byte × Conv :=
  let a := aword sh.word
  if sh.op = 4 then (mergeTopK sh.k (p.held.map (·.2)), ⟨0, 0, 0, 0⟩)
  else if sh.op ≠ 0 then (match p.held with
    | h :: _ => h.2
    | [] => [], ⟨0, 0, 0, 0⟩)
  else if a.mode = 0 then
    let accs := if p.acc.isEmpty then List.replicate (sh.elems k) Acc.zero else p.acc
    finishNums a block (accs.map Acc.value)
  else finishNums a block (p.treeVals a (g.ranksIn (s.rack .mod)).length (sh.elems k))

/-- R164, R167, R169: a piece completes over the contributions that it holds. -/
def State.completePiece (s : State) (gi seq k : Nat) : State :=
  let g := s.group gi
  match s.seqSlot gi seq with
  | none => s
  | some x =>
    let sh := g.shape x.cctx (x.size.getD 0)
    let own := g.ranksIn (s.rack .mod)
    let p := (x.piece k).joined g sh (s.rack .mod)
    let s := s.waitersLeave gi seq k
    let short := (sh.op == 0 || sh.op == 4) && own.any fun r => !p.ranks.contains r
    if p.done then s
    else if g.spans then
      let parts := (s.rackPayloads g sh p).map fun d => (2 ^ s.rack .mod, d)
      let s := s.modPiece gi seq k fun _ => { p with done := true, partials := p.partials ++ parts }
      if sh.op = 1 ∨ sh.op = 2 then s.deliver gi seq k own (match p.held with
        | h :: _ => h.2
        | [] => []) false
      else if treeRoot g.rackMask (s.treeOf gi g x.cctx seq sh k).1 = s.rack .mod then s.rootOn gi seq k else s.sendUp gi seq k
    else
      let e := s.engineFor gi g x k
      let r := s.rackResult g sh k p (g.prog x.cctx)
      let s := s.drawn.engineConv e r.2
      let s := s.modPiece gi seq k fun _ => { p with done := true, treeDone := true }
      if (sh.op = 1 ∨ sh.op = 2) ∧ p.ranks.isEmpty then s else s.deliver gi seq k (s.targets g sh k) r.1 short

/-! ### Mown entries that a packet meets (R169, R276, R279) -/

/-- The fields of an entry, the compile's input (R276). -/
def MownEntry.input (e : MownEntry) : List Nat := [e.job, e.group, e.cctx, e.cseq, e.start, e.interval, e.lead, e.planes]

/-- Does a piece wait for its Mown slot? -/
def State.mownWaits (s : State) (gi job cctx seq : Nat) : Bool :=
  match s.mownNamed gi job cctx seq with
  | some (_, e) => s.mod.sh.mode == 1 && (e.state == 2 || e.state == 3)
  | none => false

/-- R273: the plane of a piece of an entry, and the time at which its slot begins. -/
def MownEntry.slotOf (e : MownEntry) (sh : Shape) (k : Nat) : Nat × Nat :=
  let live := bitsSet 16 e.planes
  let c := if sh.op = 3 then e.cseq else k / 2 ^ sh.order
  let i := if sh.op = 3 then 0 else c / max 1 live.length * 2 ^ sh.order + k % 2 ^ sh.order
  (live.getD (c % max 1 live.length) 16, e.start + i * e.interval + e.lead)

/-- R169, R279: has the slot of a piece begun? A piece's slot begins at its time in the schedule, while its entry runs. -/
def State.slotBegun (s : State) (gi : Nat) (g : Group) (cctx seq : Nat) (sh : Shape) (k : Nat) : Bool :=
  match s.mownNamed gi g.job cctx seq with
  | some (_, e) => s.mod.sh.mode == 1 && e.state == 3 && decide ((e.slotOf sh k).2 ≤ s.rackNs .mod)
  | none => false

/-- R132, R169: answer Late. -/
def State.answerLate (s : State) (k : Packet) (port : Nat) : State :=
  ((s.count .mod 0x08 k.src 0 1).partCount .mod k.job 7 1).finish .mod k port cLate [] false

/-! ### Progress of a slot -/

/-- R155: has every member of the rack arrived, each with its count met? -/
def State.allArrived (s : State) (g : Group) (x : SeqSlot) : Bool :=
  (g.ranksIn (s.rack .mod)).all fun r => match x.arrivals.find? fun a => a.rank == r with
    | some a => decide (a.count ≤ tabGetD x.counts r 0)
    | none => false

/-- R164: does a piece hold every contribution it needs? One homed on a tile that is out of service is lost (R292). -/
def State.pieceFull (s : State) (gi : Nat) (g : Group) (x : SeqSlot) (k : Nat) (p : Piece) : Bool :=
  let op := (g.ctx x.cctx).op
  (op == 1 || op == 2 || (s.tile (x.home gi k)).inService) &&
  !p.done && !x.poisoned.contains (k / 2 ^ (g.ctx x.cctx).order) && !p.spilled &&
  (if op = 0 ∨ op = 4 then (g.ranksIn (s.rack .mod)).all fun r => p.ranks.contains r else !p.ranks.isEmpty)

/-- R204, R228: once a piece's copies have all ended, its cells return. -/
def State.pieceCells (s : State) (gi : Nat) (g : Group) (x : SeqSlot) (k : Nat) (p : Piece) : State :=
  if p.done && p.deliver.all (fun d => decide (2 ≤ d.state)) && (p.treeDone || !g.spans) then s.freePiece gi x.cseq k else s

/-- R167: does a piece of a group that spans racks end here with its tree result: the source rack only acknowledges it, and a
barrier's has no elements? -/
def Piece.treeOnly (sh : Shape) (racks own : Nat) : Bool := ((sh.op == 1 || sh.op == 2) && bit racks own) || sh.op == 3

/-- R167: the parts of a piece's tree result are all here: it is delivered. -/
def State.treeOn (s : State) (gi seq k : Nat) : State :=
  let g := s.group gi
  match s.seqSlot gi seq with
  | none => s
  | some x =>
    let p := x.piece k
    let sh := g.shape x.cctx (x.size.getD 0)
    let own := s.rack .mod
    let q := { p with partials := p.partials.filter fun t => t.1 != 2 ^ own }
    match q.partials with
    | [] => s
    | t :: _ =>
      let q0 := (bitsSet 16 t.1).headD 0
      if !g.spans || p.treeDone || treeRoot g.rackMask (s.treeOf gi g x.cctx seq sh k).1 == own || x.size.isNone ||
          !q.covers q0 (sh.elems k) then s
      else (s.modPiece gi seq k fun p => { p with treeDone := true, done := true }).deliver gi seq k (s.targets g sh k)
        (q.bytesOf q0) false

/-- R167: an all-gather or broadcast piece goes up once it has been delivered locally. -/
def State.pieceUp (s : State) (gi : Nat) (g : Group) (x : SeqSlot) (k : Nat) (p : Piece) : State :=
  let op := (g.ctx x.cctx).op
  if g.spans && (op == 1 || op == 2) && p.done && p.sentUp.isNone && !p.treeDone && !p.ranks.isEmpty &&
      p.deliver.all (fun d => d.state == 2) then
    let sh := g.shape x.cctx (x.size.getD 0)
    if treeRoot g.rackMask (s.treeOf gi g x.cctx x.cseq sh k).1 = s.rack .mod then s.rootOn gi x.cseq k else s.sendUp gi x.cseq k
  else s

/-- What an open slot now does: complete pieces, start a barrier's tree, become Draining. -/
def State.slotOn (s : State) (gi seq : Nat) : State :=
  let g := s.group gi
  match s.seqSlot gi seq with
  | none => s
  | some x =>
    if x.state ≠ 1 ∧ x.state ≠ 2 then s
    else
      let op := (g.ctx x.cctx).op
      let waits := s.mownWaits gi g.job x.cctx seq
      let s := if op = 5 then s else x.pieces.foldl (fun s kp =>
        let s := if s.pieceFull gi g x kp.1 kp.2 && !waits then s.completePiece gi seq kp.1 else s
        (s.rootOn gi seq kp.1).treeOn gi seq kp.1) s
      let s : State := match s.seqSlot gi seq with
        | some y => y.pieces.foldl (fun (s : State) (kp : Nat × Piece) => s.pieceUp gi g y kp.1 kp.2) s
        | none => s
      let s : State := match s.seqSlot gi seq with
        | some y => y.pieces.foldl (fun (s : State) (kp : Nat × Piece) => s.pieceCells gi g y kp.1 kp.2) s
        | none => s
      if x.state = 1 ∧ s.reg .mod 0x500001 = 0 ∧ s.allArrived g x then
        let s := s.modSlot gi seq fun x => { x with state := 2 }
        if op = 3 ∧ g.spans then s.completePiece gi seq 0 else s
      else s

/-- R228: a tile's copy of a result returns once no copy to its ports is unanswered. -/
def State.copiesReturn (s : State) : State :=
  (s.mod.frames.filter fun f => f.place == 5).foldl (fun s f =>
    if s.mod.sh.reqs.any fun r => r.pkt.phase == 1 && isColl r.pkt.typ && r.pkt.group == f.pkt.group && r.pkt.cseq == f.pkt.cseq &&
        r.pkt.piece == f.pkt.piece && ((s.routePort r.pkt.dst).map tileOfPort).getD f.tile == f.tile then s
    else s.takeFrame f) s

/-- R228: a tile's copy of a result comes out of the Sward: it is held, and sent to the members that wait for it. -/
def State.copyArrives (s : State) (f : MFrame) : State :=
  let s := s.putFrame { f with place := 5 }
  ((s.mod.sh.reqs.filter fun r => sameResult r.pkt f.pkt).foldl (fun s r => s.tryDeliver r.id) s).copiesReturn

/-- R166: a forwarded exchange item has been answered: its sender is answered with the destination's code. -/
def State.forwardsOn (s : State) : State :=
  (s.mod.sh.recv.inprog.filter fun g => isColl g.pkt.typ && g.result.isSome).foldl (fun s g =>
    match g.result with
    | none => s
    | some (code, _) =>
      let s := s.finishProg .mod g.id code []
      match (s.group g.pkt.group).rankOf g.pkt.srcRack g.pkt.src with
      | some r => s.modSlot g.pkt.group g.pkt.cseq fun x => if x.cseq = g.pkt.cseq then
          { x with counts := tabSet x.counts r (tabGetD x.counts r 0 + 1) } else x
      | none => s) s

/-- Everything that the module's slots can now do. -/
def State.mcOn (s : State) : State :=
  let s := s.forwardsOn
  let s := s.mod.groups.foldl (fun s g => g.2.slots.foldl (fun s x => s.slotOn g.1 x.2.cseq) s) s
  s.copiesReturn

/-! ### Checks of R168 -/

/-- R168: a refusal with its reason. -/
def State.mcDeny (s : State) (k : Packet) (port reason : Nat) : State :=
  (s.deny .mod k.job k.src 0 k.typ reason).finish .mod k port cDenied [] false

/-- R168 check 4: is the phase one that this module accepts? -/
def State.phaseOk (s : State) (g : Group) (op phase tree : Nat) : Bool :=
  let pod := s.reg .mod 0x500001 == 1
  let own := s.rack .mod
  match phase with
  | 0 => !pod && op != 3
  | 4 | 6 => !pod
  | 2 => g.spans && op != 5 && (tree == 1 || tree == 2) && (pod || treeRoot g.rackMask tree == own)
  | 3 => g.spans && op != 5 && (tree == 1 || tree == 2) && (pod || bit g.rackMask own)
  | _ => false

/-- R168 check 5 for a packet of a member: 0 right, 1 wrong, 2 wrong wire units (R130), which is counted whatever else is
wrong. -/
def memberForm (sh : Shape) (k : Packet) (held : Option Nat) : Nat :=
  let compares := sh.op != 3 && sh.op != 5
  let a := aword sh.word
  if compares ∧ k.phase = 0 ∧ k.payload.length % wireUnit a.input ≠ 0 then 2
  else if compares ∧ held.isSome ∧ held ≠ some k.size then 1
  else if k.phase = 6 then (if k.payload.isEmpty then 0 else 1)
  else if k.phase = 4 then 0
  else if sh.op = 5 then (if 16 ≤ k.payload.length then 0 else 1)
  else if sh.pieces ≤ k.piece then 1
  else if sh.op = 4 ∧ k.payload.length % (8 * sh.k) ≠ 0 then 1 else 0

/-- R168 check 5 for a Rack partial or Tree result: 0 right, 1 wrong, 2 a partial element that breaks its layout (R144). -/
def treeForm (g : Group) (sh : Shape) (k : Packet) (pieces : Option Nat) : Nat :=
  let (racks, _, n) := partFields k.payload
  let a := aword sh.word
  let body := k.payload.drop 16
  if k.payload.length < 16 ∨ bits (beNat (k.payload.take 16)) 85 0 ≠ 0 ∨ racks = 0 ∨ racks &&& g.rackMask ≠ racks then 1
  else if sh.op = 3 then (if body.isEmpty ∧ n = 0 ∧ k.piece = 0 then 0 else 1)
  else if n = 0 ∨ 7680 < n ∨ (match pieces with
      | some q => q
      | none => k.piece + 1) ≤ k.piece then 1
  else if k.phase = 2 ∧ sh.op = 0 ∧ a.mode = 0 then
    match readPartials 8192 body with
    | some l => if l.length = n then 0 else 1
    | none => 2
  else
    let u := if k.phase = 2 ∧ sh.op = 0 then (1, if a.acc = 1 then 8 else 4) else sh.unit (if k.phase = 2 then a.input else a.output)
    if body.length % u.2 = 0 ∧ body.length / u.2 * u.1 = n then 0 else 1

/-- R153, R168 check 6: Hold or Poison by placement. -/
def State.notPlaced (s : State) (k : Packet) (port code : Nat) : State :=
  if code = cHold then
    ((s.count .mod 0x07 0 0 1).partCount .mod k.job 6 1).respond .mod k port cHold [] 0
  else ((s.count .mod 0x07 0 1 1).partCount .mod k.job 5 1).finish .mod k port cPoison [] false

/-! ### Packets of members -/

/-- R162: the first accepted packet gives the size of the collective. -/
def State.takeSize (s : State) (gi : Nat) (k : Packet) : State :=
  s.modSlot gi k.cseq fun x => { x with size := some (x.size.getD k.size) }

/-- Count a contribution of a rank. -/
def State.countContribution (s : State) (gi seq rank : Nat) : State :=
  s.modSlot gi seq fun x => { x with counts := tabSet x.counts rank (tabGetD x.counts rank 0 + 1) }

/-- R166: forward an exchange item to the endpoint of its destination rank. -/
def State.forwardItem (s : State) (gi : Nat) (g : Group) (x : SeqSlot) (k : Packet) (port : Nat) : State :=
  let dest := bits (beNat (k.payload.take 16)) 127 116
  if g.table.length ≤ dest then s.mcDeny k port 5
  else
    let s := s.takeSize gi k
    let id := s.mod.sh.recv.nextId
    let p : InProg := { id := id, src := k.from_, pkt := k, loc := 0, offBase := 0, port := port, result := none, at_ := s.ns,
                        err := 0, stage := 0 }
    let s := s.modRecv .mod fun r => { r with inprog := r.inprog ++ [p], nextId := id + 1 }
    s.toMember (.forward id) (g.table.getD dest 0) (s.collPacket gi g x 1 0 k.piece k.payload)

/-- R279: a contribution that waits for its slot stands in frame-pool cells of its ingress tile. -/
def State.waitFrame (s : State) (k : Packet) (port : Nat) : State :=
  let t := tileOfPort port
  s.addFrame { s.mkFrame t t 4 2 k port with place := 6 }

/-- R204: the cells that a piece takes become those that it needs; the rest return. -/
def State.giveCells (s : State) (gi seq k t need : Nat) : State :=
  match s.seqSlot gi seq with
  | none => s
  | some x =>
    (s.modTile t fun y => { y with windUsed := y.windUsed + need - (x.piece k).cells }).modPiece gi seq k fun p =>
      { p with cells := need }

/-- R168 check 7, R164: a contribution is added or held, once its cells are there (R220). A piece that needs none of it (a
second broadcast, R164; one that the schedule has completed) leaves it out and answers Done. -/
def State.addContribution (s : State) (gi : Nat) (g : Group) (x : SeqSlot) (sh : Shape) (rank : Nat) (k : Packet) (port : Nat) :
    State :=
  let p := x.piece k.piece
  let t := x.home gi k.piece
  let moves := sh.op == 0 || sh.op == 4
  let own := s.rack .mod
  let wait := s.mownWaits gi g.job x.cctx k.cseq
  if moves && !(s.tile t).inService then s.malformed .mod port
  else if x.poisoned.contains (k.piece / 2 ^ sh.order) then (s.partCount .mod k.job 5 1).finish .mod k port cPoison [] false
  else if s.slotBegun gi g x.cctx k.cseq sh k.piece then (s.countContribution gi k.cseq rank).answerLate k port
  else if p.ranks.contains rank then s.mcDeny k port 2
  else if p.done || (!moves && !p.ranks.isEmpty) then
    (((s.takeSize gi k).countContribution gi k.cseq rank).finish .mod k port cDone [] false).mcOn
  else
    let p' := p.take sh wait (g.ranksIn own).length (g.placeIn own rank) rank s.clock k.payload
    let need := if moves && !wait then p'.cellsFor sh else p.cells
    match (if need ≤ p.cells then some s else s.takeCells t (need - p.cells) (gi, k.cseq, k.piece) 4096) with
    | none =>
      let s := s.tileCount t 14
      ((if s.mayTakePages t 1 then s else s.tileCount t 13).partCount .mod k.job 6 1).respond .mod k port cHold [] 0
    | some s =>
      let s := if need ≤ p.cells then s else s.modTile t fun y => { y with windUsed := y.windUsed - (need - p.cells) }
      let s := s.takeSize gi k
      let s := (s.giveCells gi k.cseq k.piece t need).modPiece gi k.cseq k.piece fun p =>
        p.take sh wait (g.ranksIn own).length (g.placeIn own rank) rank s.clock k.payload
      let s := if wait then s.waitFrame k port else s
      let s := if moves then (s.drawn).engineAdds (s.engineFor gi g x k.piece) (sh.elems k.piece) k.payload.length else s
      ((s.countContribution gi k.cseq rank).finish .mod k port cDone [] false).mcOn

/-- R161: an Arrive. -/
def State.takeArrive (s : State) (gi rank : Nat) (k : Packet) (port : Nat) (late : Bool) : State :=
  let a : Arrival := { rank := rank, count := k.piece, time := s.rackNs .mod }
  let s := (s.takeSize gi k).modSlot gi k.cseq fun x =>
    if x.arrivals.any fun b => b.rank == rank then x else { x with arrivals := x.arrivals ++ [a] }
  (if late then s.answerLate k port else s.finish .mod k port cDone [] false).mcOn

/-- R227: does a contribution go on from its ingress tile to the home tile of its piece? What is only copied does not (R228), nor
what waits for a Mown slot (R279). -/
def State.sentHome (s : State) (gi : Nat) (g : Group) (x : SeqSlot) (sh : Shape) (k : Packet) (port : Nat) : Bool :=
  (sh.op == 0 || sh.op == 4) && x.home gi k.piece != tileOfPort port && !s.mownWaits gi g.job x.cctx k.cseq

/-- R227: a contribution is sent to its home tile as a mesh frame, unit 4. -/
def State.sendHome (s : State) (home : Nat) (k : Packet) (port : Nat) : State :=
  let t := tileOfPort port
  let id := s.mod.sh.recv.nextId
  let p : InProg := { id := id, src := k.from_, pkt := k, loc := 0, offBase := 0, port := port, result := none, at_ := s.ns,
                      err := 0, stage := 1 }
  if s.hasCells t k.wireLen then
    (s.modRecv .mod fun r => { r with inprog := r.inprog ++ [p], nextId := id + 1 }).newFrame t home 4 2 k port
  else s.tileCount t 4

/-- R168 from check 5 on, for a Probe, a contribution or an Arrive of a member; `here`: it has come to its home tile. -/
def State.memberPacket (s : State) (here : Bool) (gi : Nat) (g : Group) (rank : Nat) (k : Packet) (port : Nat) : State :=
  let held := s.heldSize k
  let sh := g.shape (s.heldContext k) (held.getD k.size)
  match memberForm sh k held with
  | 1 => s.mcDeny k port 5
  | 2 => (s.malformed .mod port).mcDeny k port 5
  | _ =>
    let pl := g.place k.cseq
    if pl ≠ cDone then s.notPlaced k port pl
    else
      let s' := s.openSlot gi k.cseq k.cctx
      match s'.seqSlot gi k.cseq with
      | none => s
      | some x =>
        if x.state = 2 ∧ k.phase = 0 ∧ (tabGet x.pieces k.piece).isNone ∧ sh.op ≠ 5 then s.mcDeny k port 5
        else
          match k.phase with
          | 6 => (s'.takeSize gi k).finish .mod k port cDone (beBytes 8 ((g.ctx k.cctx).bits_ / 2 ^ 64)) false
          | 4 => s'.takeArrive gi rank k port (sh.op == 3 && s.slotBegun gi g x.cctx k.cseq sh 0)
          | _ =>
            if sh.op = 5 then s'.forwardItem gi g x k port
            else if !here && s'.sentHome gi g x sh k port then s'.sendHome (x.home gi k.piece) k port
            else s'.addContribution gi g x sh rank k port

/-- R168 checks 1 to 4. -/
def State.mcTake (s : State) (k : Packet) (port : Nat) (next : State → Group → State) : State :=
  match s.jobState .mod k.job with
  | 1 => s.mcDeny k port 0
  | 2 => ((s.coCount 3).partCount .mod k.job 4 1).finish .mod k port cTorn [] false
  | _ =>
    let g := s.group k.group
    let c := g.ctx k.cctx
    if !g.v || g.job != k.job then s.mcDeny k port 1
    else match (s.mownNamed k.group k.job k.cctx k.cseq).map fun e => e.2.state with
      | some 5 => s.mcDeny k port 1
      | some 6 => s.answerLate k port
      | _ =>
        if !c.v || (k.phase != 6 && c.op != k.typ - 0x20) || (k.phase == 6 && k.typ != 0x20) then s.mcDeny k port 1
        else if k.phase = 2 ∧ ¬ bit g.rackMask k.srcRack then s.mcDeny k port 2
        else if (k.phase = 0 ∨ k.phase = 4 ∨ k.phase = 6) ∧
            (k.srcRack ≠ s.rack .mod ∨ (g.rankOf k.srcRack k.src).isNone) then s.mcDeny k port 2
        else if !s.phaseOk g c.op k.phase k.tree then s.mcDeny k port 5
        else next s g

/-- R227: a contribution has come to its home tile, where the checks of R168 hold as they stand now. -/
def State.windrowArrives (s : State) (k : Packet) : State :=
  match s.travels k with
  | none => s
  | some p =>
    let s := s.modRecv .mod fun r => { r with inprog := delFirst (fun g => g.id == p.id) r.inprog }
    s.mcTake k p.port fun s g => match g.rankOf k.srcRack k.src with
      | some rank => s.memberPacket true k.group g rank k p.port
      | none => s.mcDeny k p.port 2

/-- R44, R162, R168: a Probe, contribution or Arrive reaches the module; `phase`: what the command says it is. -/
def State.mcMember (s : State) (k : Packet) (port : Nat) (tagOk : Bool) : State :=
  let a := s.admitPacket .mod k port tagOk (isColl k.typ)
  match a.2 with
  | none => a.1
  | some .fresh =>
    a.1.mcTake k port fun s g =>
      match g.rankOf k.srcRack k.src with
      | some rank => s.memberPacket false k.group g rank k port
      | none => s.mcDeny k port 2
  | some c => (a.1.notNew .mod k port c).1

/-! ### Packets of other modules (R163, R167, R170): Sequence 0, outside R88 to R94 -/

/-- R44 checks 1 to 4 of a packet between modules. -/
def State.mcBetween (s : State) (k : Packet) (port : Nat) (tagOk : Bool) (next : State → Group → State) : State :=
  if !(formOk k false && isColl k.typ) then (s.malformed .mod port).refuse .mod k port 5
  else if k.job = 0 ∨ k.job = 0xFFFF then s.refuse .mod k port 4
  else if k.dst ≠ s.node .mod then s.refuse .mod k port 3
  else
    let c := s.sealCheck .mod k tagOk
    let s := s.sealCount .mod c
    if c = 1 then s
    else if c = 2 then s.respond .mod k port cPoison [] 0
    else s.mcTake k port next

/-- The elements of a partial: each with its bytes (R144; a row of a top-K merge; a barrier's partial has one, of no bytes). -/
def partElems (sh : Shape) (payload : List Byte) : List (Nat × List Byte) :=
  let (_, first, n) := partFields payload
  let body := payload.drop 16
  let l := if sh.op = 3 then [[]]
    else if sh.op = 4 then unitsOfBytes (8 * sh.k) body
    else ((readPartials 8192 body).getD []).map Acc.partial_
  (List.range (if sh.op = 3 then 1 else n)).map fun i => (first + i, l.getD i [])

/-- R133, R165: two rack's values of one element merge. -/
def mergeElem (sh : Shape) (a b : List Byte) : List Byte :=
  if sh.op = 3 then [] else if sh.op = 4 then mergeTopK sh.k [a, b]
  else (accMergeAll ((readPartials 2 a).getD []) ((readPartials 2 b).getD [])).flatMap Acc.partial_

/-- Payloads of elements: each run of consecutive elements of the same racks becomes payloads of at most 4,096 bytes. -/
def runsOf (sh : Shape) (l : List (Nat × Nat × List Byte)) : List (List Byte) :=
  let r := l.foldl (fun (acc : List (Nat × Nat × List (List Byte))) e =>
    match acc with
    | (first, racks, es) :: rest =>
      if racks = e.2.1 ∧ e.1 = first + es.length then (first, racks, es ++ [e.2.2]) :: rest else (e.1, e.2.1, [e.2.2]) :: acc
    | [] => [(e.1, e.2.1, [e.2.2])]) []
  r.reverse.flatMap fun run =>
    if sh.op = 3 then [partPrefix run.2.1 0 0]
    else (packParts run.2.1 1 run.2.2).map fun d =>
      partPrefix run.2.1 (run.1 + (partFields d).2.1) (partFields d).2.2 ++ d.drop 16

/-- R167, R170: a Rack partial at a pod-tier module, element by element: one that has been forwarded passes on unchanged, a part
of racks that are held is discarded, and the rest merges; what now covers every rack of the mask below the port goes up. What
merges nothing passes at once. -/
def State.podPartial (s : State) (gi : Nat) (g : Group) (k : Packet) (port : Nat) : State :=
  let s := s.openSlot gi k.cseq k.cctx
  match s.seqSlot gi k.cseq with
  | none => s
  | some x =>
    let sh := g.shape x.cctx 0
    let p := x.piece k.piece
    let racks := (partFields k.payload).1
    let j := (s.treeOf gi g x.cctx k.cseq sh k.piece).2
    let up := fun (s : State) (d : List Byte) =>
      s.toRack gi { k with payload := d, len := d.length, src := s.node .mod } (treeRoot g.rackMask k.tree) j
    let below := maskOf 16 fun q => bit g.rackMask q && bit (tabGetD s.mod.rackRoutes q 0) port
    if !((sh.op == 0 && (aword sh.word).mode == 0) || sh.op == 4 || sh.op == 3) then up s k.payload
    else
      let r := (partElems sh k.payload).foldl (fun (acc : Tab (Nat × List Byte × Bool) × List (Nat × Nat × List Byte)) e =>
        match tabGet acc.1 e.1 with
        | some (held, body, sent) =>
          if sent then (acc.1, acc.2 ++ [(e.1, racks, e.2)])
          else if held &&& racks ≠ 0 then acc
          else
            let all := held ||| racks
            let body := mergeElem sh body e.2
            (tabSet acc.1 e.1 (all, body, below &&& all == below), if below &&& all = below then acc.2 ++ [(e.1, all, body)] else acc.2)
        | none =>
          (tabSet acc.1 e.1 (racks, e.2, below &&& racks == below),
            if below &&& racks = below then acc.2 ++ [(e.1, racks, e.2)] else acc.2)) (p.pod, [])
      (runsOf sh r.2).foldl up (s.modPiece gi k.cseq k.piece fun p => { p with pod := r.1 })

/-- R167, R170: RACK_PARTIAL: at a root it is kept until the piece is whole; a finished piece's result goes back. -/
def State.rackPartial (s : State) (k : Packet) (port : Nat) (tagOk : Bool) : State :=
  s.mcBetween k port tagOk fun s g =>
    let gi := k.group
    let held := s.heldSize k
    let sh := g.shape (s.heldContext k) (held.getD 0)
    match treeForm g sh k (held.map fun _ => sh.pieces) with
    | 1 => s.mcDeny k port 5
    | 2 => (s.malformed .mod port).mcDeny k port 5
    | _ =>
      let pl := g.place k.cseq
      if pl ≠ cDone then s.notPlaced k port pl
      else if s.reg .mod 0x500001 = 1 then s.podPartial gi g k port
      else
        let s := s.openSlot gi k.cseq k.cctx
        match s.seqSlot gi k.cseq with
        | none => s
        | some x =>
          let p := x.piece k.piece
          if p.treeDone then s.sendDown gi k.cseq k.piece k.srcRack p.racks p.result
          else if p.partials.any fun t => partsMeet t.2 k.payload then s
          else
            (s.modPiece gi k.cseq k.piece fun p =>
              { p with partials := p.partials ++ [((partFields k.payload).1, k.payload)] }).rootOn gi k.cseq k.piece |>.mcOn

/-- R167: TREE_RESULT: at a rack module it is delivered once whole; a pod-tier module passes it on. -/
def State.treeResult (s : State) (k : Packet) (port : Nat) (tagOk : Bool) : State :=
  s.mcBetween k port tagOk fun s g =>
    let gi := k.group
    let held := s.heldSize k
    let sh := g.shape (s.heldContext k) (held.getD 0)
    match treeForm g sh k (held.map fun _ => sh.pieces) with
    | 1 => s.mcDeny k port 5
    | 2 => (s.malformed .mod port).mcDeny k port 5
    | _ =>
      let pl := g.place k.cseq
      if pl ≠ cDone then s.notPlaced k port pl
      else if s.reg .mod 0x500001 = 1 then
        s.toRack gi { k with src := s.node .mod } k.dstRack (s.treeOf gi g k.cctx k.cseq sh k.piece).2
      else
        let s := s.openSlot gi k.cseq k.cctx
        match s.seqSlot gi k.cseq with
        | none => s
        | some x =>
          let p := x.piece k.piece
          let racks := (partFields k.payload).1
          let own := s.rack .mod
          let s := s.respond .mod k port cDone [] 0
          if p.treeDone then s
          else if Piece.treeOnly sh racks own then
            (s.modPiece gi k.cseq k.piece fun p => { p with treeDone := true, done := true }).mcOn
          else
            let fresh := p.partials.filter fun t => t.1 != 2 ^ own
            if fresh.any fun t => partsMeet t.2 k.payload then s
            else (s.modPiece gi k.cseq k.piece fun p => { p with partials := fresh ++ [(racks, k.payload)] }).mcOn

/-- R170: TREE_RESEND. -/
def State.treeResend (s : State) (gi i k : Nat) : State :=
  match tabGet (s.group gi).slots i with
  | none => s
  | some x =>
    let p := x.piece k
    match p.sentUp with
    | none => s
    | some t =>
      if p.treeDone || decide (s.ns < t + x.resendTime) || decide (x.resendLimit ≤ p.resends) then s
      else (s.sendUp gi x.cseq k).modPiece gi x.cseq k fun p => { p with resends := p.resends + 1 }

/-! ### The end of a slot (R153, R155, R175) -/

/-- A 32-bit field of a lateness record rises by `n` (R177); full scale raises one event. -/
def State.lateField (s : State) (node pos old new : Nat) : State × Nat :=
  let v := min new (2 ^ 32 - 1)
  (if v = 2 ^ 32 - 1 ∧ old < 2 ^ 32 - 1 then s.logEvent .mod 1 0x0005 0 (0x0F * 2 ^ 96 + (node * 256 + pos) * 2 ^ 64) else s, v)

/-- R177: a member's lateness at a barrier is recorded. -/
def State.recordLate (s : State) (node late : Nat) (last : Bool) : State :=
  let z : Lateness := { barriers := 0, last := 0, sum := 0, max := 0 }
  let r := tabGetD s.mod.late node z
  let a := s.lateField node 0 r.barriers (r.barriers + 1)
  let b := a.1.lateField node 1 r.last (r.last + ofBool last)
  let c := b.1.lateField node 2 r.sum (r.sum + late / 1000)
  let d := c.1.lateField node 3 r.max (max r.max late)
  d.1.modMod fun m => { m with late := tabPut m.late node { barriers := a.2, last := b.2, sum := c.2, max := d.2 } z }

/-- R177: the lateness of every member of the rack at a barrier. -/
def State.recordLateness (s : State) (g : Group) (x : SeqSlot) : State :=
  let first := x.arrivals.foldl (fun m a => min m a.time) ((x.arrivals.map (·.time)).headD 0)
  let worst := x.arrivals.foldl (fun m a => max m a.time) 0
  let lastRank := x.arrivals.foldl (fun m a => if a.time = worst then min m a.rank else m) 4096
  x.arrivals.foldl (fun s a => s.recordLate (bits (g.table.getD a.rank 0) 9 0) (a.time - first) (a.rank == lastRank)) s

/-- R177: the clearing of a lateness record: bits written with 1. -/
def State.lateClear (s : State) (node : Nat) (val : List Byte) : Nat × State :=
  if val.length ≠ 16 then (stRange, s)
  else
    let z : Lateness := { barriers := 0, last := 0, sum := 0, max := 0 }
    let r := tabGetD s.mod.late node z
    let cl := fun (v i : Nat) => v - (v &&& beNat (sliceBytes val (4 * i) 4))
    let n : Lateness := { barriers := cl r.barriers 0, last := cl r.last 1, sum := cl r.sum 2, max := cl r.max 3 }
    (stOk, s.modMod fun m => { m with late := tabPut m.late node n z })

/-- R155: every result of a Draining slot is acknowledged, and every tree result has come. -/
def State.slotSettled (s : State) (gi : Nat) (g : Group) (x : SeqSlot) : Bool :=
  let sh := g.shape x.cctx (x.size.getD 0)
  let live := s.liveOf gi g.job x.cctx x.cseq
  let mine := if g.spans && (sh.op == 1 || sh.op == 2) then
      (List.range sh.pieces).filter fun k => planeOfChunk live (k / 2 ^ sh.order) == s.plane else []
  x.state == 2 && x.pieces.all (fun kp => kp.2.done && (!g.spans || kp.2.treeDone) && kp.2.deliver.all fun d => d.state == 2) &&
  mine.all (fun k => (x.piece k).treeDone) && (!(sh.op == 3 && g.spans) || (x.piece 0).treeDone) &&
  !(s.mod.sh.recv.inprog.any fun p => isColl p.pkt.typ && p.pkt.group == gi && p.pkt.cseq == x.cseq)

/-- A slot ends: what its pieces hold returns, and its sequence finishes. -/
def State.slotEnds (s : State) (gi : Nat) (x : SeqSlot) : State :=
  let s := x.pieces.foldl (fun s kp => s.freePiece gi x.cseq kp.1) s
  (s.modGroup gi fun g => g.finish x.cseq).copiesReturn

/-- R153, R155: SEQUENCE_SLOT_FINISH. -/
def State.slotFinish (s : State) (gi i : Nat) : State :=
  let g := s.group gi
  match tabGet g.slots i with
  | none => s
  | some x =>
    if !s.slotSettled gi g x then s
    else
      let op := (g.ctx x.cctx).op
      let s := if op = 3 ∨ op = 5 then s.sendRelease gi x.cseq else s
      let s := if op = 3 && g.lateness then s.recordLateness g x else s
      let s := match s.mownNamed gi g.job x.cctx x.cseq with
        | some (e, me) => if me.state = 3 ∨ me.state = 7 then
            let off := Config.mownOffset me.input (g.ctx x.cctx).bits_ g.table me.tiles me.engs (x.size.getD 0)
            let me := if me.state = 3 then { me with state := 4, offset := off } else me
            s.modSh .mod fun sh => { sh with mown := tabSet sh.mown e me } else s
        | none => s
      (s.partCount .mod g.job 8 1).slotEnds gi x

/-- The copies and forwarded items of a sequence that still wait leave the request table. -/
def State.dropSequence (s : State) (gi seq : Nat) (all : Bool) : State :=
  (s.mod.sh.reqs.filter fun r => isColl r.pkt.typ && r.pkt.group == gi && r.pkt.cseq == seq &&
    (all || r.st == ReqSt.waiting || r.st == ReqSt.retryWait)).foldl (fun s r => s.dropReq .mod r.id) s

/-- R155: SLOT_TIMEOUT. -/
def State.slotTimeout (s : State) (gi i : Nat) : State :=
  match tabGet (s.group gi).slots i with
  | none => s
  | some x =>
    if (x.state ≠ 1 ∧ x.state ≠ 2) ∨ s.ns < x.opened + x.timeout then s
    else
      let s := (s.count .mod 0x07 0 2 1).dropSequence gi x.cseq false
      let s := s.modRecv .mod fun r => { r with inprog := r.inprog.filter fun g =>
        !(isColl g.pkt.typ && g.pkt.group == gi && g.pkt.cseq == x.cseq) }
      s.slotEnds gi x

/-- R155, R225: the slice of a Job ID is torn down: its slots become Free. -/
def State.collsTorn (s : State) (job : Nat) : State :=
  (s.mod.groups.filter fun g => g.2.job == job).foldl (fun s g =>
    let s := g.2.slots.foldl (fun s x =>
      let s := x.2.pieces.foldl (fun s kp => s.freePiece g.1 x.2.cseq kp.1) s
      s.dropSequence g.1 x.2.cseq true) s
    let s := s.modRecv .mod fun r => { r with inprog := r.inprog.filter fun p => !(isColl p.pkt.typ && p.pkt.group == g.1) }
    (s.modGroup g.1 fun g => { g with slots := [] }).copiesReturn) s

/-- R229: the module is fenced: every Windrow slot is freed. -/
def State.collsFenced (s : State) : State :=
  s.mod.groups.foldl (fun s g =>
    let s := g.2.slots.foldl (fun s x =>
      let s := x.2.pieces.foldl (fun s kp => s.freePiece g.1 x.2.cseq kp.1) s
      s.dropSequence g.1 x.2.cseq true) s
    s.modGroup g.1 fun g => { g with slots := [] }) s

/-- R171: RESIDUE_DELIVERY: a port is ready; its waiting copies leave in ascending rank. -/
def State.residue (s : State) (port : Nat) : State :=
  let rank := fun (r : Req) => match r.owner with
    | .result _ _ _ k => k
    | _ => 4096
  let l := s.mod.sh.reqs.filter fun r => r.st == ReqSt.waiting && s.routePort r.pkt.dst == some port
  let ins := fun (acc : List Req) (r : Req) =>
    acc.takeWhile (fun q => decide (rank q ≤ rank r)) ++ [r] ++ acc.dropWhile (fun q => decide (rank q ≤ rank r))
  (l.foldl ins []).foldl (fun s r => s.tryDeliver r.id) s

/-- R228: a member's port is down beyond link-level retry: its copies are dropped. -/
def State.copiesPortDown (s : State) (port : Nat) : State :=
  ((s.mod.sh.reqs.filter fun r => isColl r.pkt.typ && s.routePort r.pkt.dst == some port).foldl (fun s r =>
    ((s.portCount .mod port 9).endReq .mod r.id cPoison [])) s).mcOn

/-- R133, R134: SPILL_RECORD_RETURN: a record is back from spill, right or not. -/
def State.recordReturn (s : State) (gi i k : Nat) (ok : Bool) : State :=
  let g := s.group gi
  match tabGet g.slots i with
  | none => s
  | some x =>
    let p := x.piece k
    let t := x.home gi k
    let sh := g.shape x.cctx (x.size.getD 0)
    let lost := decide (s.pagesOf (.piece gi x.cseq k) < p.pagesFor sh)
    if !p.spilled then s
    else if !ok || lost then
      let e := s.engineFor gi g x k
      let s := (s.drawn.count .mod 0x05 e 5 1).freePiece gi x.cseq k
      let ch := k / 2 ^ sh.order
      let gone := fun (kp : Nat × Piece) => if kp.1 / 2 ^ sh.order = ch then (kp.1, { kp.2 with spilled := false }) else kp
      if p.done then s
      else s.modSlot gi x.cseq fun x => { x with poisoned := setIns x.poisoned ch, pieces := x.pieces.map gone }
    else
      let q := p.merged sh (g.ranksIn (s.rack .mod)).length
      let need := q.cellsFor sh
      match (if need ≤ p.cells then some s else s.takeCells t (need - p.cells) (gi, x.cseq, k) 4096) with
      | none => s
      | some s =>
        let back := fun (y : Tile) => { y with windUsed := if need ≤ p.cells then y.windUsed + need - p.cells else y.windUsed }
        let s := (s.modTile t back).dropPages (.piece gi x.cseq k)
        let s := s.modPiece gi x.cseq k fun _ => { q with cells := need, touched := s.clock }
        (if s.slotBegun gi g x.cctx x.cseq sh k then s.completePiece gi x.cseq k else s).mcOn

end Sys2Proof.Machine
end

