-- ==== Sys2Proof/Machine/Tiles.lean ====
section
/-! DEFINITION. Tiles, the Sward and switching: ingress checks and routes (R221 to R223), mesh frames and routers (R209 to
R214), age and discard (R215, R216), spill (R217 to R219), slices (R224, R225), the audit of the books (R230), trace records
(R200, R396, R397). -/

namespace Sys2Proof.Machine

/-! ### Trace records of the module (R200, R396, R397) -/

/-- R396: the layout of a trace record. -/
def traceWord (seq : Nat) (k : Packet) (ingress egress defl : Nat) (spilled : Bool) (kind base : Nat) (offs : List Nat) :
    List Byte :=
  beBytes 64 (seq % 2 ^ 64 * 2 ^ 448 + k.job * 2 ^ 432 + k.typ * 2 ^ 426 + k.code * 2 ^ 422 + k.src * 2 ^ 412 + k.dst * 2 ^ 402 +
    k.srcRack * 2 ^ 398 + k.dstRack * 2 ^ 394 + k.plane * 2 ^ 390 + k.len * 2 ^ 377 + k.seq * 2 ^ 345 + ingress * 2 ^ 337 +
    egress * 2 ^ 329 + defl * 2 ^ 325 + ofBool spilled * 2 ^ 324 + kind * 2 ^ 322 + base * 2 ^ 256 +
    (List.range 8).foldl (fun a i => a + min (offs.getD i noStage) noStage * 2 ^ (224 - 32 * i)) 0)

/-- R397: the bin of an offset. -/
def stageBin (v : Nat) : Nat := if v = 0 then 0 else min 15 (Nat.log2 v)

/-- R397: a record of Job ID 0x0000 joins the stage histogram. -/
def State.histogram (s : State) (offs : List Nat) : State :=
  (List.range 8).foldl (fun s i =>
    let v := offs.getD i noStage
    if v = noStage then s
    else
      let k := i * 16 + stageBin v
      s.modMod fun m => { m with stageHist := tabSet m.stageHist k (min (tabGetD m.stageHist k 0 + 1) (2 ^ 32 - 1)) }) s

/-- R200: write a trace record into the ring of its Job ID, if there is one. -/
def State.traceRing (s : State) (k : Packet) (ingress egress defl : Nat) (spilled : Bool) (base : Nat) (offs : List Nat) :
    State :=
  match s.mod.regions.find? fun r => r.2.kind == 3 && r.2.state == 2 && r.2.owner == k.job with
  | none => s.coCount 11
  | some (_, r) =>
    let written := beNat (s.commonsRead r.first 8)
    let cap := (r.bytes - 4096) / 64
    let s := if k.job = 0 then s.histogram offs else s
    if cap ≤ written ∧ ¬ r.overwrite then
      (s.coCount 10).commonsWrite (r.first + 16) (beBytes 8 (beNat (s.commonsRead (r.first + 16) 8) + 1))
    else
      let s := s.commonsWrite (r.first + 4096 + written % max 1 cap * 64) (traceWord written k ingress egress defl spilled 0 base offs)
      s.commonsWrite r.first (beBytes 8 (written + 1))

/-- R396: the record of a frame that leaves the module or is discarded in it. -/
def State.traceFrame (s : State) (f : MFrame) (egress : Nat) : State :=
  if s.tagged .mod f.pkt then
    let base := tabGetD f.stages 0 s.ns
    let offs := (List.range 8).map fun i => match tabGet f.stages i with
      | some t => t - base
      | none => noStage
    let offs := offs.set 6 (s.ns - base)
    s.traceRing f.pkt f.ingress egress f.defl f.spilled (s.rackNs .mod - (s.ns - base)) offs
  else s

/-! ### Discards (R215, R216) -/

/-- A frame is lost: a Commons request or a contribution that it carried through the Sward is no longer in progress, and the result
of a Commons request no longer comes back (R226, R227). -/
def State.loseFrame (s : State) (f : MFrame) : State :=
  let s := s.takeFrame f
  if f.place = 0 ∨ f.unit < 4 then s
  else if f.pkt.typ = 0x10 then
    match s.mod.sh.recv.inprog.find? fun g => g.stage == 3 && g.pkt.seq == f.pkt.seq && g.src == f.pkt.to_ with
    | some g => s.answerLost g
    | none => s
  else match s.travels f.pkt with
    | some g => s.modRecv .mod fun r => { r with inprog := delFirst (fun x => x.id == g.id) r.inprog }
    | none => s

/-- A frame is discarded where it stands; `pos`: the tile counter. -/
def State.dropFrame (s : State) (f : MFrame) (pos : Nat) : State := ((s.loseFrame f).tileCount f.tile pos).traceFrame f 0xFF

/-- Is a Job ID's slice torn down? -/
def State.sliceTorn (s : State) (job : Nat) : Bool :=
  match tabGet s.mod.slices job with
  | some e => e.v && (e.state == 2 || e.state == 3)
  | none => false

/-- R225: a frame of a torn-down job that a check point or sweep discards. -/
def State.tornFrame (s : State) (f : MFrame) : Bool :=
  s.sliceTorn f.pkt.job && !(f.pkt.typ == 0x10 || f.pkt.typ == 0x11 || f.pkt.typ == 0x12)

/-- R206, R221: the frame in which a packet for the module itself waits in its ingress tile. -/
def State.ownFrame (s : State) (f : Packet → Bool) : Option MFrame :=
  s.mod.frames.find? fun g => g.place == 0 && g.tile == g.dtile && decide (4 ≤ g.unit) && f g.pkt

/-- R215, R225: the tile counter under which a check point discards a frame, if it does. -/
def State.checkPoint (s : State) (f : MFrame) : Option Nat :=
  let lim := s.regNow .mod (if f.spilled then 0x510008 else 0x510007) * 250
  if lim < s.ageOf f then some (if f.spilled then 3 else 2)
  else if s.tornFrame f then some 12 else none

/-- R215, R216: a packet that leaves the queue of its unit is discarded there, and under which counter. -/
def State.expired (s : State) (p : Part) (f : Packet → Bool) : Option (MFrame × Nat) :=
  match p with
  | .ep => none
  | .mod => (s.ownFrame f).bind fun g => (s.checkPoint g).map fun c => (g, c)

/-- A packet that waits for its receiver. -/
def State.waitingFor (s : State) (p : Part) (f : Packet → Bool) : Option Packet :=
  match p with
  | .ep => s.ep.inbox.find? f
  | .mod => (s.ownFrame f).map fun g => g.pkt

/-- A packet that waits for its receiver is taken. -/
def State.takeIn (s : State) (p : Part) (f : Packet → Bool) : State :=
  match p with
  | .ep => s.modEp fun e => { e with inbox := delFirst f e.inbox }
  | .mod => match s.ownFrame f with
    | some g => s.takeFrame g
    | none => s

/-- Older first, then higher priority, then by input direction (R211). -/
def State.before (s : State) (a b : MFrame) : Bool :=
  let x := s.ageOf a
  let y := s.ageOf b
  if x ≠ y then decide (y < x) else if a.prio ≠ b.prio then decide (b.prio < a.prio) else decide (a.dir ≤ b.dir)

/-- Frames in the order of R211. -/
def State.inOrder (s : State) (l : List MFrame) : List MFrame :=
  l.foldl (fun acc f => acc.takeWhile (fun g => s.before g f) ++ [f] ++ acc.dropWhile (fun g => s.before g f)) []

/-! ### Routers (R209 to R214) -/

/-- The neighbour of a tile in a direction (0 West, 1 North, 2 East, 3 South). -/
def neighbour (t d : Nat) : Option Nat :=
  match d with
  | 0 => if t % 8 = 0 then none else some (t - 1)
  | 1 => if t < 8 then none else some (t - 8)
  | 2 => if t % 8 = 7 then none else some (t + 1)
  | _ => if 56 ≤ t then none else some (t + 8)

/-- Hops between two tiles. -/
def hops (a b : Nat) : Nat := (a % 8 - b % 8) + (b % 8 - a % 8) + (a / 8 - b / 8) + (b / 8 - a / 8)

/-- R211: the outputs that shorten the distance, X first. -/
def productive (t d : Nat) : List Nat :=
  (if d % 8 < t % 8 then [0] else if t % 8 < d % 8 then [2] else []) ++
  (if d / 8 < t / 8 then [1] else if t / 8 < d / 8 then [3] else [])

/-- The number of an output of a router: 0 to 3 link or park output, 4 eject. -/
def outNo (tile plane o : Nat) : Nat := (tile * 4 + plane) * 8 + o

/-- R210: is an output free? -/
def State.outFree (s : State) (tile plane o : Nat) : Bool := decide (tabGetD s.mod.busy (outNo tile plane o) 0 ≤ s.clock)

/-- Flits of a frame. -/
def flits (f : MFrame) : Nat := (f.len + 8 + 511) / 512

/-- R357, R371: the clock of the tiles in units of 0.4 GHz: 1.6 GHz, in Trim 1.2 or 0.8 GHz by the ladder, 0.4 GHz while coasting. -/
def State.tileRate (s : State) (t : Nat) : Nat :=
  if (tabGet s.mod.sh.clk.domains t).any fun d => bit d.flags 0 then 1
  else if s.mod.power.levels.contains 4 then 2
  else if s.mod.power.levels.contains 3 then 3
  else 4

/-- R210: the time until a frame's last flit has left, a cycle of the tile's clock a flit: 0.625 ns at 1.6 GHz. -/
def State.flitTime (s : State) (tile : Nat) (f : MFrame) : Nat :=
  (flits f * 25 + 2 * s.tileRate tile - 1) / (2 * s.tileRate tile)

/-- R210: an output stays busy until a frame's last flit has left. -/
def State.takeOut (s : State) (tile plane o : Nat) (f : MFrame) : State :=
  s.modMod fun m => { m with busy := tabSet m.busy (outNo tile plane o) (s.clock + s.flitTime tile f) }

/-- R392: the slots of an arriving frame at a router input. -/
def State.meshSlots (s : State) (f : MFrame) (discarded : Bool) : State :=
  let inst := 16 * f.tile + 4 * f.mplane + f.dir
  let used := (f.len + 8 + 63) / 64
  let cls := if discarded then 2
    else match neighbour f.tile f.dir with
      | some p => if hops f.tile f.dtile < hops p f.dtile then 0 else 1
      | none => 1
  (s.count .mod 0x04 inst cls used).count .mod 0x04 inst 3 (8 * flits f - used)

/-- A frame leaves a router on a link: it is at the neighbour's input. -/
def State.toLink (s : State) (f : MFrame) (o : Nat) : State :=
  match neighbour f.tile o with
  | none => s
  | some n => (s.takeOut f.tile f.mplane o f).putFrame { f with tile := n, place := 3, dir := (o + 2) % 4 }

/-- A frame, taken from where it stood, is at its destination tile: for a port it joins the queue there, unless the port is down
(R216); at the memory port, the Windrow engines or the sequencer it has its effect (R226 to R228). -/
def State.intoUnit (s : State) (f : MFrame) : State :=
  let g := { f with place := 0 }
  if f.unit < 4 then
    if s.portDownFor g then (s.portCount .mod (firstPort f.dtile + f.unit) 9).traceFrame f 0xFF else s.putFrame (g.mark 2 s.ns)
  else if f.unit = 4 then s.windrowArrives f.pkt
  else if f.unit = 5 then s.memoryPort f.pkt
  else s.copyArrives f

/-- R211: a frame is ejected into the queue of its unit. -/
def State.eject (s : State) (f : MFrame) : State := (s.takeOut f.tile f.mplane 4 f).intoUnit f

/-- R211, R213: a frame is written into the park reserve and counted, or discarded where that lacks its cells. -/
def State.park (s : State) (f : MFrame) (o : Nat) : State :=
  let s := (s.tileCount f.tile 0).takeOut f.tile f.mplane o f
  if s.reg .mod 0x510003 < s.parkHeld f.tile + cellsOf f.len then s.dropFrame f 5
  else ((s.takeFrame f).tileCount f.tile 1).putFrame { f with place := 2, defl := min 15 (f.defl + 1) }

/-- R211: decide one frame at a router input. -/
def State.decideOut (s : State) (f : MFrame) : State :=
  let t := f.tile
  let free := s.outFree t f.mplane
  let back := f.dir
  let link := fun (o : Nat) => free o && (neighbour t o).isSome
  let prod := (productive t f.dtile).find? link
  let others := ([0, 1, 2, 3].filter fun o => o != back) ++ [back]
  let s' := s.takeFrame f
  if f.dtile = t ∧ free 4 ∧ s.hasCells t f.len then s'.eject f
  else match prod with
    | some o => s'.toLink f o
    | none => match others.find? link with
      | some o => (s'.tileCount t 0).toLink { f with defl := min 15 (f.defl + 1) } o
      | none => match [0, 1, 2, 3].find? fun o => free o && (neighbour t o).isNone with
        | some o => s.park f o
        | none => if free 4 then s.park f 4 else s

/-- R209: is a mesh header malformed? -/
def State.badHeader (s : State) (f : MFrame) : Bool :=
  f.unit == 7 || decide (f.len < 1 ∨ 4144 < f.len) || !(s.tile f.dtile).inService

/-- R277: the scheduled mesh planes. -/
def State.scheduled (s : State) : Nat := if s.mod.sh.mode = 1 then s.reg .mod 0xC20004 else 0

/-- R211: the headers that have arrived at a router are decided. `lost`: frames that a mesh link has lost. -/
def State.headersArrive (s : State) (tile plane : Nat) (lost : List Nat) : State :=
  let here := s.mod.frames.filter fun f => f.place == 3 && f.tile == tile && f.mplane == plane
  let s := (here.filter fun f => lost.contains f.id).foldl (fun s f => s.loseFrame f) s
  (s.inOrder (here.filter fun f => !lost.contains f.id)).foldl (fun s f =>
    if s.badHeader f then (s.meshSlots f true).dropFrame f 6
    else match s.checkPoint f with
      | some c => (s.meshSlots f true).dropFrame f c
      | none => (s.meshSlots f false).decideOut f) s

/-- R212, R277: the mesh plane and output on which a frame can be injected now: a productive output that stays free once the
router has decided every header that has arrived. -/
def State.injectAt (s : State) (f : MFrame) : Option (Nat × Nat) :=
  let planes := if f.mplane < 4 then [f.mplane] else (List.range 4).filter fun p => decide (s.scheduled ≤ p)
  let quiet := fun (p : Nat) => !(s.mod.frames.any fun g => g.place == 3 && g.tile == f.tile && g.mplane == p)
  (planes.filter quiet).findSome? fun p => ((productive f.tile f.dtile).find? fun o => s.outFree f.tile p o).map fun o => (p, o)

/-- R212: can a frame leave its queue? One for its own tile goes into its unit's queue there, once the frame pool has its cells. -/
def State.mayLeave (s : State) (f : MFrame) : Bool :=
  if f.dtile = f.tile then s.hasCells f.tile f.len else (s.injectAt f).isSome

/-- The frame a tile injects or discards next, with the check point that discards it: from the park queue first, then from the
injection queue, oldest first. -/
def State.injectNext (s : State) (tile : Nat) : Option (MFrame × Option Nat) :=
  ((s.inOrder (s.mod.frames.filter fun f => f.place == 2 && f.tile == tile) ++
    s.inOrder (s.mod.frames.filter fun f => f.place == 1 && f.tile == tile)).find? fun f =>
      s.mayLeave f || (s.checkPoint f).isSome).map fun f => (f, s.checkPoint f)

/-- R210, R213: the cells of a frame that leaves for the mesh are held until its last flit has left. -/
def State.cellsLeave (s : State) (f : MFrame) : State :=
  let l : Leaving := { tile := f.tile, park := f.place == 2, cells := cellsOf f.len, until_ := s.clock + s.flitTime f.tile f }
  s.modMod fun m => { m with leaving := (m.leaving.filter fun x => decide (s.clock < x.until_)) ++ [l] }

/-- R212: the frame leaves for a link of the mesh, or for the queue of its unit at its own tile. -/
def State.injectFrame (s : State) (f : MFrame) : State :=
  if f.dtile = f.tile then (s.takeFrame f).intoUnit f
  else match s.injectAt f with
    | some (p, o) =>
      let g := if (tabGet f.stages 1).isSome then f else f.mark 1 s.ns
      ((s.takeFrame f).cellsLeave f).toLink { g with mplane := p } o
    | none => s

/-- R212: a tile injects one frame; frames that a check point discards go first. -/
def State.inject (s : State) (tile : Nat) : Nat → State
  | 0 => s
  | n + 1 =>
    match s.injectNext tile with
    | none => s
    | some (f, some c) => (s.dropFrame f c).inject tile n
    | some (f, none) => s.injectFrame f

/-! ### Spill (R217 to R219) -/

/-- Free frame-pool cells of a tile. -/
def State.freeCells (s : State) (t : Nat) : Nat := s.framePool - s.frameHeld t

/-- The output queue of a port of a tile. -/
def State.outQueue (s : State) (t unit : Nat) : List MFrame :=
  s.inOrder (s.mod.frames.filter fun f => f.place == 0 && f.tile == t && f.unit == unit)

/-- Bytes of a queue. -/
def queueBytes (l : List MFrame) : Nat := l.foldl (fun a f => a + f.len + 8) 0

/-- R217: SPILL: the newest frame of the longest output queue. -/
def State.spillFrame (s : State) (t : Nat) : State :=
  let free := s.freeCells t
  if s.regNow .mod 0x510005 ≤ free ∧ ¬ ((s.tile t).spilling ∧ free < s.regNow .mod 0x510006) then
    s.modTile t fun x => { x with spilling := false }
  else
    let qs := [0, 1, 2, 3].map fun u => s.outQueue t u
    let long := qs.foldl (fun b q => if queueBytes b < queueBytes q then q else b) []
    match long.getLast? with
    | none => s
    | some f =>
      if !s.mayTakePages t 1 then (s.tileCount t 13).modTile t fun x => { x with spilling := false }
      else
        let s := ((s.takeFrame f).putFrame ({ f with place := 4, spilled := true }.mark 3 s.ns)).tileCount t 17
        let s := s.partCount .mod f.pkt.job 9 1
        s.modTile t fun x => { x with spilling := decide (s.freeCells t < s.regNow .mod 0x510006) }

/-- R218, R215: READ_BACK: the oldest spilled frame returns; `ok`: its page's tag is right. A page on a failed stack is lost
(R188). -/
def State.readBack (s : State) (t : Nat) (ok : Bool) : State :=
  if s.freeCells t ≤ s.regNow .mod 0x510006 then s
  else match s.inOrder (s.mod.frames.filter fun f => f.place == 4 && f.tile == t) with
    | [] => s
    | f :: _ =>
      if !ok || s.pagesOf (.frame f.id) == 0 then s.dropFrame f 15
      else match s.checkPoint f with
        | some c => s.dropFrame f c
        | none =>
          let g := ({ f with place := 0 }).mark 4 s.ns
          if s.portDownFor g then ((s.takeFrame f).portCount .mod (firstPort t + f.unit) 9).traceFrame f 0xFF
          else ((s.takeFrame f).putFrame g).tileCount t 18

/-! ### Ingress (R14, R221 to R223) -/

/-- R75, R76: the defined packet types. -/
def typDefined (t : Nat) : Bool :=
  decide (1 ≤ t ∧ t ≤ 5) || t == 0x10 || t == 0x11 || t == 0x12 || isColl t || t == 0x30 || t == 0x31

/-- Is a (rack, node) inside a slice? -/
def State.inSlice (s : State) (e : Slice) (rack node : Nat) : Bool :=
  if rack ≠ s.rack .mod then bit e.rackMask rack else if node < 512 then bit e.nodes node else e.commons

/-- What ingress makes of a packet: refused with a code and a tile counter (or the port's cross-rack-refusal), discarded, for
the module itself, or bound for a port. -/
inductive Ingress where
  | refuse (code pos : Nat) | crossRack (port : Nat) | discard (pos : Nat) | own | egress (port : Nat)
  deriving DecidableEq, Repr

/-- The role of a port: 0 Off, 1 Down, 2 Up. -/
def Shared.portRole (sh : Shared) (port : Nat) : Nat :=
  match tabGet sh.ports port with
  | some q => q.role
  | none => 0

/-- R223: the port on which a packet for another rack leaves, if the rack route entry names any. -/
def rackPort (list : List Nat) (off : Nat) : Option Nat := list[off / 4096 % list.length]?

/-- R14: the port whose cross-rack-refusal counter counts a load, store or atomic: the uplink on which it arrives, or the one to
which it would be forwarded. -/
def State.crossPort (s : State) (port : Nat) (k : Packet) (own : Nat) (pod : Bool) (list : List Nat) : Option Nat :=
  if k.typ ≠ 0x01 ∧ k.typ ≠ 0x02 ∧ k.typ ≠ 0x03 then none
  else if s.mod.sh.portRole port = 2 then some port
  else if pod ∨ k.dstRack ≠ own then (rackPort list k.off).filter fun o => !pod || s.mod.sh.portRole o == 2
  else none

/-- R221 checks 9 and 10, R223: the destination of a packet. -/
def State.ingressTo (s : State) (k : Packet) (own : Nat) (droute : Route) (pod : Bool) (list : List Nat) : Ingress :=
  if pod ∧ isColl k.typ ∧ (k.phase = 2 ∨ k.phase = 3) ∧ ¬ list.isEmpty then .own
  else if pod ∨ k.dstRack ≠ own then
    match rackPort list k.off with
    | some o => .egress o
    | none => .refuse cDenied 10
  else if 512 ≤ k.dst then (if k.dst = 512 + s.plane then .own else .refuse cDenied 10)
  else if !droute.v then .refuse cDenied 10
  else if droute.fenced then .discard 11
  else .egress droute.port

/-- R221: the ingress checks, in order. DEDUCED (log entry 166): in the pod role there is no node route entry (R222), so check 4 has
nothing to fail on; a Type 0x30 to 0x3F with another Job ID than 0x0000, which R75 calls invalid, fails check 3. -/
def State.ingress (s : State) (port : Nat) (k : Packet) : Ingress :=
  let own := s.rack .mod
  let route := tabGetD s.mod.routes k.src { v := false, fenced := false, port := 0 }
  let droute := tabGetD s.mod.routes k.dst { v := false, fenced := false, port := 0 }
  let role := s.mod.sh.portRole port
  let fab := k.job == 0
  let e := tabGet s.mod.slices k.job
  let pod := s.reg .mod 0x500001 == 1
  let list := bitsSet 256 (tabGetD s.mod.rackRoutes k.dstRack 0)
  if k.reserved ∨ ¬ typDefined k.typ then .refuse cDenied 6
  else if 528 ≤ k.dst then .refuse cDenied 7
  else if (fab ∧ ¬ ((0x10 ≤ k.typ ∧ k.typ ≤ 0x12) ∨ (0x30 ≤ k.typ ∧ k.typ ≤ 0x3F))) ∨ k.job = 0xFFFF ∨
      (¬ fab ∧ 0x30 ≤ k.typ ∧ k.typ ≤ 0x3F) then .refuse cDenied 6
  else if role = 1 ∧ ¬ pod ∧ (¬ route.v ∨ route.port ≠ port ∨ k.srcRack ≠ own) then .refuse cDenied 8
  else match (if fab then none else some e) with
    | some none => .refuse cDenied 9
    | some (some x) =>
      if !x.v then .refuse cDenied 9
      else if (x.state = 2 ∨ x.state = 3) ∧ ¬ (0x10 ≤ k.typ ∧ k.typ ≤ 0x12) then .refuse cTorn 9
      else if !(s.inSlice x k.srcRack k.src && s.inSlice x k.dstRack k.dst) then .refuse cDenied 9
      else (s.crossPort port k own pod list).elim (s.ingressTo k own droute pod list) .crossRack
    | none => s.ingressTo k own droute pod list

/-- R221: the response of a module that refuses a packet, on the arrival port. -/
def State.ingressRespond (s : State) (port : Nat) (k : Packet) (code : Nat) : State :=
  if k.typ = 0x10 ∨ k.typ = 0x11 ∨ k.typ = 0x12 ∨ k.typ = 0x30 then s
  else
    let s := s.partCount .mod k.job (if code = cTorn then 4 else 3) 1
    let r : Packet := { Packet.zero with typ := 0x10, plane := k.plane, code := code, job := k.job, src := k.dst, dst := k.src,
                                         srcRack := k.dstRack, dstRack := k.srcRack, seq := k.seq }
    let r := { r with epoch := s.headerEpoch .mod r }
    s.sendPacket .mod (tileOfPort port) port r (s.sealOf .mod r 0)

/-- R206: a packet that has passed ingress is written into frame-pool cells of its tile, or discarded where that lacks them; one
for a port of this tile that is down is discarded too. -/
def State.frameIn (s : State) (t dtile unit prio : Nat) (k : Packet) (port : Nat) : State :=
  let f := s.mkFrame t dtile unit prio k port
  if !s.hasCells t f.len || s.portDownFor f then (s.newFrame t dtile unit prio k port).traceFrame f 0xFF
  else s.newFrame t dtile unit prio k port

/-- R226, R227, R284: the unit of the module that takes a packet for it. -/
def unitOf (typ : Nat) : Nat := if typ = 0x30 then 6 else if isColl typ then 4 else 5

/-- R206, R221, R290: a packet enters the module on a port; what is for the module itself waits in its tile for its receiver. -/
def State.enter (s : State) (port : Nat) (k : Packet) : State :=
  let t := tileOfPort port
  let dead := decide (k.src < 512) && k.srcRack == s.rack .mod && s.nodeDead .mod k.src
  if dead ∧ k.typ ≠ 0x30 then s.tileCount t 11
  else match s.ingress port k with
    | .refuse code pos => (s.tileCount t pos).ingressRespond port k code
    | .crossRack o => (s.portCount .mod o 10).ingressRespond port k cDenied
    | .discard pos => s.tileCount t pos
    | .own =>
      let s := ((s.partCount .mod k.job 0 1).partCount .mod k.job 1 k.wireLen).usageCount k.job port k.wireLen 0
      s.frameIn t t (unitOf k.typ) (classOf k.typ) k port
    | .egress out =>
      let s := ((s.partCount .mod k.job 0 1).partCount .mod k.job 1 k.wireLen).usageCount k.job port k.wireLen 0
      s.frameIn t (tileOfPort out) (out % 4) (classOf k.typ) k port

/-! ### Routes (R222, R223, R231) -/

/-- R222: a node route entry write; Fenced is not written. -/
def State.routeWrite (s : State) (node : Nat) (val : List Byte) : Nat × State :=
  let w := beNat val
  let z : Route := { v := false, fenced := false, port := 0 }
  let old := tabGetD s.mod.routes node z
  if val.length ≠ 4 ∨ bits w 21 0 ≠ 0 ∨ (¬ s.dense ∧ 128 ≤ bits w 29 22) then (stRange, s)
  else (stOk, s.modMod fun m => { m with routes := tabPut m.routes node { old with v := bit w 31, port := bits w 29 22 } z })

/-- R222: a node route entry as it reads. -/
def Route.word (r : Route) : Nat := ofBool r.v * 2 ^ 31 + ofBool r.fenced * 2 ^ 30 + r.port * 2 ^ 22

/-- R223: a rack route entry write: in the rack role it names Up ports only. -/
def State.rackRouteWrite (s : State) (rack : Nat) (val : List Byte) : Nat × State :=
  let m := leNat val
  let up := (bitsSet 256 m).all fun p => s.mod.sh.portRole p == 2
  if val.length ≠ 32 ∨ (s.reg .mod 0x500001 = 0 ∧ ¬ up) then (stRange, s)
  else (stOk, s.modMod fun x => { x with rackRoutes := tabPut x.rackRoutes rack m 0 })

/-- R204: a write of a pool size, only while the tiles hold nothing. -/
def State.poolWrite (s : State) (key v lo hi : Nat) : Nat × State :=
  if v < lo ∨ hi < v then (stRange, s)
  else if s.mod.tiles.any fun t => t.2.frameUsed != 0 || t.2.parkUsed != 0 || t.2.windUsed != 0 then (stBusy, s)
  else if s.mod.leaving.any fun l => decide (s.clock < l.until_) then (stBusy, s)
  else if s.mod.sh.ports.any fun q => q.2.state == 7 then (stBusy, s)
  else (stOk, s.setReg .mod key v)

/-! ### Slices (R224, R225) -/

/-- A Free slice entry. -/
def Slice.free : Slice where
  v := false
  state := 0
  reduce := false
  commons := false
  job := 0
  rackMask := 0
  nodes := 0
  revokedAt := 0
  swept := []

/-- R224: a slice entry as it reads. -/
def Slice.word (e : Slice) : Nat :=
  ofBool e.v * 2 ^ 639 + e.state * 2 ^ 637 + ofBool e.reduce * 2 ^ 636 + ofBool e.commons * 2 ^ 635 + e.job * 2 ^ 619 +
    e.rackMask * 2 ^ 603 + e.nodes

/-- R224, R225, R231: SLICE_ENTRY_WRITE: create, rewrite or free the slice of a Job ID. -/
def State.sliceWrite (s : State) (job : Nat) (val : List Byte) : Nat × State :=
  let w := beNat val
  let old := tabGetD s.mod.slices job Slice.free
  let new : Slice := { old with v := true, state := 1, commons := bit w 635, job := job, rackMask := bits w 618 603,
                                nodes := bits w 511 0 }
  let put := fun (e : Slice) => s.modMod fun m => { m with slices := tabPut m.slices job e Slice.free }
  if val.length ≠ 80 ∨ bits w 602 512 ≠ 0 then (stRange, s)
  else if bit w 639 then
    if bits w 634 619 ≠ job then (stRange, s)
    else if old.v ∧ old.state ≠ 1 then (stBusy, s)
    else if ¬ old.v ∧ 4096 ≤ s.mod.slices.length then (stRange, s)
    else if old.v then (stOk, put new)
    else (stOk, (put new).newPartition .mod job)
  else if !old.v then (stOk, s)
  else if old.state = 3 then
    let s := s.modSh .mod fun sh => { sh with keys := sh.keys.map fun k =>
      if k.job = job then { k with cur := none, prev := none, coll := false, pend := none } else k }
    (stOk, (s.modMod fun m => { m with slices := tabDel m.slices job }).groupsFreed job)
  else (stBusy, s)

/-- R225: SLICE_REVOKE: the slice of a Job ID becomes Torn. -/
def State.sliceRevoke (s : State) (job : Nat) : State :=
  if s.hasSlice job then
    let s := s.modMod fun m =>
      let f := fun (e : Slice) => { e with state := 2, revokedAt := s.ns, swept := [] }
      { m with slices := tabMod m.slices job f }
    ((s.collsTorn job).tornHeld .mod job).regionsTorn job
  else s

/-- R225: TILE_SWEEP. -/
def State.tileSweep (s : State) (tile job : Nat) : State :=
  match tabGet s.mod.slices job with
  | some e =>
    if e.state ≠ 2 then s
    else
      let s := (s.mod.frames.filter fun f => f.tile == tile && f.pkt.job == job && f.place != 4 && f.place != 3 && s.tornFrame f).foldl
        (fun s f => s.dropFrame f 12) s
      let f := fun (e : Slice) => { e with swept := setIns e.swept tile }
      s.modMod fun m => { m with slices := tabMod m.slices job f }
  | none => s

/-- R225: SLICE_DRAINED: every tile has swept, and a spill age limit has passed. -/
def State.sliceDrained (s : State) (job : Nat) : State :=
  match tabGet s.mod.slices job with
  | some e =>
    if e.state = 2 ∧ ((List.range 64).all fun t => e.swept.contains t) ∧
        e.revokedAt + s.regNow .mod 0x510008 * 1000 ≤ s.ns then
      let f := fun (e : Slice) => { e with state := 3 }
      s.modMod fun m => { m with slices := tabMod m.slices job f }
    else s
  | none => s

/-! ### The books (R229, R230) -/

/-- R230: what the allocation map of a tile says: frame, park and Windrow cells. -/
def State.tileMap (s : State) (t : Nat) : Nat × Nat × Nat :=
  let fs := s.mod.frames.filter fun f => f.tile == t
  let sum := fun (l : List MFrame) => l.foldl (fun a f => a + cellsOf f.len) 0
  let wind := s.mod.groups.foldl (fun a g => g.2.slots.foldl (fun a x => x.2.pieces.foldl (fun a p =>
    if x.2.home g.1 p.1 = t then a + p.2.cells else a) a) a) 0
  (sum (fs.filter MFrame.inPool), sum (fs.filter fun f => f.place == 2), wind)

/-- R230: a tile's audit: a counter that disagrees is set from the map and counted. -/
def State.auditTile (s : State) (t : Nat) : State :=
  let x := s.tile t
  let m := s.tileMap t
  if (x.frameUsed, x.parkUsed, x.windUsed) = m then s.modTile t fun x => { x with auditRun := 0 }
  else (s.tileCount t 16).modTile t fun x =>
    { x with frameUsed := m.1, parkUsed := m.2.1, windUsed := m.2.2, auditRun := x.auditRun + 1 }

/-- R230: the endpoint's audit: the window charge of a destination with no incomplete request is zero. -/
def State.auditWindows (s : State) : State :=
  let bad := s.ep.sh.pairs.filter fun q => q.charged != 0 && !(s.ep.sh.reqs.any fun r => r.sends != 0 && r.pkt.to_ == q.dst)
  if bad.isEmpty then s.modEp fun e => { e with auditRun := 0 }
  else
    let s := bad.foldl (fun s q => (s.epCount 26).modSh .ep fun sh => sh.setPair { q with charged := 0 }) s
    s.modEp fun e => { e with auditRun := e.auditRun + 1 }

/-- R229: every frame, every Windrow slot and everything in a replay buffer is discarded. -/
def State.dropAll (s : State) : State :=
  let s := s.collsFenced
  let s := s.mod.frames.foldl (fun s f => s.loseFrame f) s
  let s := s.modMod fun m => { m with leaving := [] }
  s.modSh .mod fun sh => { sh with ports := sh.ports.map fun q => (q.1, { q.2 with replay := [], queue := [] }) }

/-- R229, R292: a fenced module holds no frame, no Windrow slot and nothing in a replay buffer. -/
def State.fenceOn (s : State) : State :=
  if s.mod.ve.fenced ∧ (¬ s.mod.frames.isEmpty ∨ s.mod.groups.any (fun g => !g.2.slots.isEmpty) ∨
      s.mod.sh.ports.any (fun q => !q.2.replay.isEmpty || !q.2.queue.isEmpty)) then s.dropAll else s

end Sys2Proof.Machine
end

