-- ==== Sys2Proof/Machine/Wire.lean ====
section
/-! DEFINITION. Packets as the bytes that a link carries (R74, R236, R313, R314): enciphered, with their tag. Everywhere else a
packet of the model holds its payload in clear. -/

namespace Sys2Proof

open Sys2Proof.Machine

/-- Lay a stream of bytes over a payload: enciphering, and deciphering. -/
def overlay (f : Nat → Byte) (l : List Byte) : List Byte := l.mapIdx fun i b => b ^^^ f i

/-- R74, R313: the header as the seal takes it, with Plane zero. -/
def Packet.sealHeader (k : Packet) : Nat := { k with plane := 0 }.header

/-- R314: the bytes of a collective packet's payload that stay clear: the exchange prefix and the partial prefix. -/
def Packet.clearPrefix (k : Packet) : Nat :=
  if k.phase = 2 ∨ k.phase = 3 ∨ (k.typ = 0x25 ∧ k.phase ≤ 1) then 16 else 0

/-- R309: the collective key C(g) of a packet's job, key epoch and group. -/
def collKey (k : Packet) : List Byte :=
  Config.kdf (Config.kdf (Config.secret k.job k.epoch) "SNH coll" [] 256) "SNH ccol" (beBytes 2 k.group) 256

/-- R314: the IV of a collective payload; `rank`: its contributor's. DEDUCED (log entry 182): what a module only forwards (an
all-gather, a broadcast, an exchange item) keeps the IV of its contribution, whatever packet carries it. -/
def Packet.iv (k : Packet) (rank : Nat) : Nat :=
  let copied := k.typ == 0x21 || k.typ == 0x22
  let part := !copied && (k.phase == 2 || k.phase == 3)
  let pre := beNat (sliceBytes k.payload 0 4)
  let phase := if copied ∨ k.typ = 0x25 then 0 else k.phase
  let origin := if copied then 0 else if part then bits pre 31 16 else if phase = 0 then rank else 0
  k.cseq * 2 ^ 64 + phase * 2 ^ 61 + k.piece * 2 ^ 41 + origin * 2 ^ 25 + (if part then bits pre 15 3 else 0) * 2 ^ 12

/-- R314: the rank of the contributor of a collective packet: an exchange prefix names it, a module finds it in its member table,
an endpoint sends as its own. -/
def Machine.State.contributor (s : State) (p : Part) (k : Packet) : Nat :=
  if k.typ = 0x25 then bits (beNat (sliceBytes k.payload 0 16)) 115 104
  else match p with
    | .mod => ((s.group k.group).rankOf k.srcRack k.src).getD 0
    | .ep => ((s.collNamed k.job k.group k.cseq).map fun x => x.rank).getD 0

/-- R313, R314: a payload enciphered, or deciphered. A Verdict message is only authenticated. -/
def Machine.State.cipher (s : State) (p : Part) (k : Packet) : List Byte :=
  if k.typ = 0x30 then k.payload
  else if isColl k.typ then
    let n := k.clearPrefix
    k.payload.take n ++ overlay (Config.aesCtr (collKey k) (k.iv (s.contributor p k))) (k.payload.drop n)
  else overlay (Config.packetStream k.sealHeader) k.payload

/-- R236: a packet as the bytes of a frame: header, payload and tag. -/
def Machine.State.wire (s : State) (p : Part) (k : Packet) : List Byte :=
  beBytes 32 k.header ++ s.cipher p k ++ (sliceBytes (Config.packetTag k.sealHeader) 0 16)

/-- The packet that the bytes of a frame spell. -/
def Machine.State.unwire (s : State) (p : Part) (b : List Byte) : Packet :=
  let k := packetOf (beNat (b.take 32)) ((b.drop 32).take (b.length - 48))
  { k with payload := s.cipher p k }

end Sys2Proof
end

