-- ==== Sys2Proof/Machine/Links.lean ====
section
/-! DEFINITION. Serial links: frames and link-level retry (R236 to R240), egress (R207, R208), bring-up (R242 to R247), width
(R250 to R252), lane failure and port down (R253), eye scans (R254), port roles (R20, R231), and what the endpoint does when a
plane leaves or joins its live list (R23, R118, R120). -/

namespace Sys2Proof.Machine

/-! ### Ports and lanes -/

def Shared.port (sh : Shared) (n : Nat) : Port := tabGetD sh.ports n Port.off

def Shared.lane (sh : Shared) (n : Nat) : Lane := tabGetD sh.lanes n Lane.off

/-- R236: the transmitter of a port. -/
def Shared.txPort (sh : Shared) (n : Nat) : TxPort := tabGetD sh.tx n TxPort.zero

def State.port (s : State) (p : Part) (n : Nat) : Port := (s.sh p).port n

def State.lane (s : State) (p : Part) (n : Nat) : Lane := (s.sh p).lane n

def State.setPort (s : State) (p : Part) (n : Nat) (q : Port) : State :=
  s.modSh p fun sh => { sh with ports := tabPut sh.ports n q Port.off }

def State.setLane (s : State) (p : Part) (n : Nat) (l : Lane) : State :=
  s.modSh p fun sh => { sh with lanes := tabPut sh.lanes n l Lane.off }

def State.txPort (s : State) (p : Part) (n : Nat) : TxPort := (s.sh p).txPort n

def State.setTx (s : State) (p : Part) (n : Nat) (t : TxPort) : State :=
  s.modSh p fun sh => { sh with tx := tabPut sh.tx n t TxPort.zero }

/-- R298: is a lane withdrawn, by a window that runs or one that it failed? -/
def State.laneOut (s : State) (p : Part) (l : Nat) : Bool := (s.sh p).lanesOut.contains l

/-- Change a port. -/
def State.modPort (s : State) (p : Part) (n : Nat) (f : Port → Port) : State := s.setPort p n (f (s.port p n))

/-- Change a lane. -/
def State.modLane (s : State) (p : Part) (n : Nat) (f : Lane → Lane) : State := s.setLane p n (f (s.lane p n))

/-- R250: the lanes of a width code. -/
def widthMask (w : Nat) : Nat := if w = 1 then 0x3 else if w = 2 then 0xF else 0xFF

/-- R250: the width code of a set of lanes. -/
def maskWidth (m : Nat) : Nat :=
  match (bitsSet 8 m).length with
  | 2 => 1
  | 4 => 2
  | 8 => 3
  | _ => 0

/-- The configured width of a port. -/
def State.cfgWidth (s : State) (p : Part) (n : Nat) : Nat := (s.sh p).reg 0x410002 n

/-- The lane numbers of a port's configured set. -/
def State.portLanes (s : State) (p : Part) (n : Nat) : List Nat :=
  (bitsSet 8 (widthMask (s.cfgWidth p n))).map fun i => 4 * n + i

/-- R250: is a port the odd one of a ×8 pair? It is Off. -/
def State.pairedOff (s : State) (p : Part) (n : Nat) : Bool := n % 2 == 1 && s.cfgWidth p (n - 1) == 3

/-- The port of a lane: a ×8 port takes the lanes of the next one too. -/
def State.portOfLane (s : State) (p : Part) (l : Nat) : Nat :=
  let n := l / 4
  if s.pairedOff p n then n - 1 else n

/-- R246: the lane index that a receiver has placed a lane of a port at (0 to 7 in the port). -/
def Port.indexOf (q : Port) (i : Nat) : Nat := tabGetD q.place i i

/-- R246: the lane of a port, by its number in the part, whose receiver stands at a lane index. -/
def State.laneAt (s : State) (p : Part) (n i : Nat) : Nat :=
  4 * n + (((List.range 8).find? fun l => (s.port p n).indexOf l == i).getD i)

/-- Change the lanes of a port that stand at a set of lane indexes. -/
def State.modLanes (s : State) (p : Part) (n set : Nat) (f : Lane → Lane) : State :=
  (bitsSet 8 set).foldl (fun s i => s.modLane p (s.laneAt p n i) f) s

/-- R250: the allowed sets of a configured width, widest first. -/
def allowedSets (w : Nat) : List Nat :=
  match w with
  | 3 => [0xFF, 0x0F, 0xF0]
  | 2 => [0x0F, 0x03, 0x0C]
  | _ => [0x03]

/-- R251: the widest allowed set that a set contains; 0 when it contains none. -/
def widest (w m : Nat) : Nat := ((allowedSets w).find? fun a => a &&& m == a).getD 0

/-- A marker period, in ns (16,384 slots of 1.219 ns). -/
def markerPeriod : Nat := 19970

/-! ### The endpoint's live list (R23, R118, R120) -/

/-- R23, R118: a plane leaves the endpoint's live list: accesses to its Commons node end with Poison. -/
def State.planeOut (s : State) (pl : Nat) : State :=
  if !s.ep.live.contains pl then s
  else
    let s := s.modEp fun e => { e with live := e.live.filter (fun q => q != pl), gone := setIns e.gone pl }
    let s := (s.jobNotice 0 0 pl 0).collPlaneLost pl
    (s.ep.sh.reqs.filter fun r => r.pkt.dst == 512 + pl && r.translated && r.pkt.dstRack == s.rack .ep).foldl (fun s r =>
      s.endReq .ep r.id cPoison []) s

/-- R93: a verdict has declared a plane failed: requests last sent on it are retransmitted on the planes of R22. -/
def State.replane (s : State) (pl : Nat) : State :=
  (s.ep.sh.reqs.filter fun r => r.isSent && r.pkt.plane == pl && !isColl r.pkt.typ).foldl (fun s r => s.retransmitReq .ep r) s

/-- R108, R118: a plane joins the live list; one that had left it is restored, and carries only requests first sent from now on. -/
def State.planeIn (s : State) (pl : Nat) : State :=
  let back := s.ep.gone.contains pl
  let s := s.modEp fun e => { e with live := setIns e.live pl, gone := e.gone.filter fun q => q != pl }
  if back then (s.modEp fun e => { e with returned := tabSet e.returned pl s.ns }).jobNotice 1 0 pl 0 else s

/-- R118: a verdict has declared a plane failed: it leaves the live list, with a Job notice of kind 0 also where the port's own
loss had taken it out before. -/
def State.planeVerdict (s : State) (pl : Nat) : State :=
  if s.ep.live.contains pl then s.planeOut pl else if s.planeExists pl then s.jobNotice 0 0 pl 0 else s

/-- May a port train? A fenced module's ports stay in Detect until its restore (R292, R300), a tile out of service has none
(R292), an endpoint trains none before its bundle is accepted (R116), none trains before the part's coordinates are written (R3,
R306) or on a failed crystal (R365). -/
def State.mayTrain (s : State) (p : Part) (n : Nat) : Bool :=
  (s.sh p).clk.crystal != 2 &&
  (s.sh p).rot.boot == 1 && s.coordsSet p &&
  (match p with
   | .ep => !s.ep.tripped && !s.ep.inReset
   | .mod => (!s.mod.ve.fenced || s.mod.ve.training) && (s.tile (tileOfPort n)).inService && decide (s.mod.power.state ≤ 1))

/-! ### Port state -/

/-- A port enters Detect: its lanes start again (R247). -/
def State.toDetect (s : State) (p : Part) (n : Nat) : State :=
  let s := (s.portLanes p n).foldl (fun s l => s.modLane p l fun x => { x.restart 1 s.ns with lostAt := x.lostAt }) s
  s.modPort p n fun q => { q with state := 1, width := 0, lanes := 0, wc := none, capCount := 0, peer := none, replay := [],
                                  queue := [], replays := 0, nakAt := none, since := s.ns, downSince := s.ns, aligned := 0,
                                  place := [], capAt := none, capAcc := false }

/-- The frames that wait at the module for a port. -/
def State.portFrames (s : State) (n : Nat) : List MFrame :=
  s.mod.frames.filter fun f => f.place != 3 && f.dtile == tileOfPort n && f.unit == n % 4 && f.tile == f.dtile

/-- R118, R216, R253: a port is down beyond link-level retry: what it holds is discarded and counted, and the loss reported. -/
def State.goDown (s : State) (p : Part) (n : Nat) : State :=
  let q := s.port p n
  if q.state ≠ 7 then s
  else
    let s := s.count p (if p = Part.ep then 0x11 else 0x01) n 9 (q.replay.length + q.queue.length)
    match p with
    | .ep =>
      let s := (s.toDetect .ep n).modEp fun e => { e with portsLost := setIns e.portsLost n }
      (s.planeOut n).report .ep 0 (s.node .ep) n
    | .mod =>
      let s := (s.portFrames n).foldl (fun s f => ((s.takeFrame f).portCount .mod n 9).traceFrame f 0xFF) s
      let node := match q.peer with
        | some c => if c.partKind = 0 then c.node else 0
        | none => 0
      ((s.toDetect .mod n).copiesPortDown n).report .mod 0 node s.plane

/-- R120: a port at ×2 leaves the live list while Degraded exclusion is 1, and returns at ×4. -/
def State.degraded (s : State) : State :=
  let on := s.reg .ep 0xD70004 == 1
  s.ep.sh.ports.foldl (fun s q =>
    if q.2.state ≠ 7 ∨ s.ep.portsLost.contains q.1 ∨ s.ep.sh.verd.failed.contains q.1 then s
    else if on ∧ q.2.width = 1 then s.planeOut q.1
    else if s.ep.live.contains q.1 ∨ ¬ s.planeExists q.1 then s else s.planeIn q.1) s

/-! ### What a port transmits (R233, R236, R246, R249) -/

/-- R248: the clocking of a port: 0 embedded, 1 rate-matched. It is the entry's, but on an Up port and every port of a pod-role
module, which are rate-matched. -/
def State.clockingEntry (s : State) (p : Part) (n : Nat) : Nat :=
  if p = Part.mod ∧ (s.reg .mod 0x500001 = 1 ∨ (s.port .mod n).role = 2) then 1 else (s.sh p).reg 0x410003 n

/-- R248, R249: does a port transmit from the crystal? An embedded one does without the rack reference. -/
def State.rateMatched (s : State) (p : Part) (n : Nat) : Bool := s.clockingEntry p n == 1 || (s.sh p).clk.rateMatched

/-- R233: the lane slots, of 2,193 ÷ 1,799 ns, that have passed since a port's codeword streams started. -/
def State.slotNow (s : State) (p : Part) (n : Nat) : Nat := (s.clock - (s.txPort p n).start) * 1799 / 10965

/-- R251: the Marker count of the last marker slot that has passed. -/
def State.markNow (s : State) (p : Part) (n : Nat) : Nat := s.slotNow p n / 16384 % 65536

/-- R246, R252: the lanes of a port that send codewords, and so markers: in service, idle, or training alone. -/
def State.markLanes (s : State) (p : Part) (n : Nat) : List Nat :=
  (bitsSet 8 (widthMask (s.cfgWidth p n))).filter fun i => let c := (s.lane p (4 * n + i)).state; decide (4 ≤ c ∧ c ≤ 7)

/-- R236, R251: the lane indexes that a port's blocks travel on. -/
def State.txLanes (s : State) (p : Part) (n : Nat) : List Nat :=
  let q := s.port p n
  bitsSet 8 (match q.wc with
    | some w => if w.txDone then w.agreed else q.lanes
    | none => if q.lanes = 0 then widthMask (s.cfgWidth p n) else q.lanes)

/-- R236, R246: the slot of port block `n`, of width `w`: a row of blocks to a slot, after the filler sets, past the markers. -/
def TxPort.slotOf (t : TxPort) (w n : Nat) : Nat :=
  let row := n / w + t.fillers
  row + row / 16383 + 1

/-- R246: the rows before a slot. -/
def rowsBefore (slot : Nat) : Nat := slot - (slot + 16383) / 16384

/-- R246: the BIP-8 of a lane: of the blocks sent in the marker period, the others having been Idle. -/
def TxPort.bip (t : TxPort) (i : Nat) : Nat :=
  if t.marks = 0 then 0
  else t.parity.getD i 0 ^^^ (if (16383 - t.blocks.getD i 0) % 2 = 1 then idleBlock.parity else 0)

/-- R246: a block that is not Idle counts in its lane's parity. -/
def TxPort.add (t : TxPort) (i : Nat) (b : Block) : TxPort :=
  { t with parity := t.parity.set i (t.parity.getD i 0 ^^^ b.parity), blocks := t.blocks.set i (t.blocks.getD i 0 + 1) }

/-- R246: the next Alignment marker on every lane. -/
def State.sendMarkers (s : State) (p : Part) (n : Nat) : State :=
  let t := s.txPort p n
  let l := (s.markLanes p n).map fun i =>
    ({ lane := i, slot := 16384 * t.marks, block := markerBlock n i t.marks (t.bip i) } : LaneBlock)
  (s.setTx p n { t with marks := t.marks + 1, parity := List.replicate 8 0, blocks := List.replicate 8 0 }).emit (.markers p n l)

/-- R249: the next filler set, or, of a port that is not rate-matched, its slot passes. DESIGN CHOICE (log entry 183): the filler
slots are 8,191, 16,383, 24,575 and so on. -/
def State.sendFiller (s : State) (p : Part) (n : Nat) : State :=
  let t := s.txPort p n
  let t' := { t with fillAt := t.fillAt + 8192 }
  if s.rateMatched p n then
    let l := s.txLanes p n
    let t' := { t' with fillers := t.fillers + 1, next := max t.next (l.length * (rowsBefore t.fillAt - t.fillers)) }
    (s.setTx p n (l.foldl (fun t i => t.add i fillerBlock) t')).emit (.filler p n t.fillAt)
  else s.setTx p n t'

/-- R246, R249: is a marker or a filler set due at a slot? -/
def TxPort.dueAt (t : TxPort) (slot : Nat) : Bool := decide (16384 * t.marks ≤ slot) || decide (t.fillAt ≤ slot)

/-- R246, R249: is an output a marker or a filler set, which a port sends in its slot before what follows it? -/
def Out.isSet : Out → Bool
  | .markers _ _ _ => true
  | .filler _ _ _ => true
  | _ => false

/-- R246, R249: send the first set that is due at a slot. -/
def State.passSlot (s : State) (p : Part) (n slot : Nat) : State :=
  let t := s.txPort p n
  if t.fillAt < 16384 * t.marks ∧ t.fillAt ≤ slot then s.sendFiller p n
  else if 16384 * t.marks ≤ slot then s.sendMarkers p n
  else s

/-- R236: one port block on its lane and slot, after the sets that stand before it. -/
def State.putBlock (s : State) (p : Part) (n : Nat) (b : Block) : State × LaneBlock :=
  let l := s.txLanes p n
  let slot := fun (s : State) => (s.txPort p n).slotOf l.length (s.txPort p n).next
  let s := s.passSlot p n (slot s)
  let s := s.passSlot p n (slot s)
  let t := s.txPort p n
  let i := l.getD (t.next % l.length) 0
  (s.setTx p n { t.add i b with next := t.next + 1 }, { lane := i, slot := slot s, block := b })

/-- R233: a port block stands in no slot that has passed. -/
def State.catchUp (s : State) (p : Part) (n : Nat) : State :=
  let t := s.txPort p n
  s.setTx p n { t with next := max t.next ((s.txLanes p n).length * (rowsBefore (s.slotNow p n) - t.fillers)) }

/-- R236: blocks of the port's stream, one after the other. -/
def State.putBlocks (s : State) (p : Part) (n : Nat) (l : List Block) : State × List LaneBlock :=
  l.foldl (fun r b => let r' := r.1.putBlock p n b; (r'.1, r.2 ++ [r'.2])) (s.catchUp p n, [])

/-- The number of the next port block, were it to leave now. -/
def State.nextBlock (s : State) (p : Part) (n : Nat) : Nat := ((s.catchUp p n).txPort p n).next

/-- R391: the slots, of two port blocks, whose first block is one of the blocks from `a` to before `b`. -/
def slotStarts (a b : Nat) : Nat := (b + 1) / 2 - (a + 1) / 2

/-- R391: `k` slots of a class: 0 Delivered, 1 Wasted-retry, 2 Wasted-padding, 3 Starved-front, 4 Starved-back. -/
def State.slotCount (s : State) (p : Part) (n cls k : Nat) : State := s.count p (if p = Part.ep then 0x11 else 0x01) n cls k

/-- R391: blocks that carry no frame leave: Wasted-padding. A port that is not Active counts no slots. -/
def State.padSlots (s : State) (p : Part) (n blocks : Nat) : State :=
  if (s.port p n).state = 7 then s.slotCount p n 2 (slotStarts (s.nextBlock p n) (s.nextBlock p n + blocks)) else s

/-- R237, R239, R247: a block alone, reported as what it says. -/
def State.sendBlock (s : State) (p : Part) (n : Nat) (b : Block) (o : Out) : State :=
  ((s.padSlots p n 1).putBlocks p n [b]).1.emit o

/-- R236: the blocks of a packet's frame leave on the lanes of a port. -/
def State.frameOut (s : State) (p : Part) (n seq : Nat) (k : Packet) : State :=
  let r := s.putBlocks p n (frameBlocks seq none (s.wire p k))
  r.1.emit (.frame p n { blocks := r.2, errs := [] })

/-- R236: the port's width changes: its blocks go on from the next slot. -/
def State.newWidth (s : State) (p : Part) (n old : Nat) : State :=
  let t := s.txPort p n
  s.setTx p n { t with next := (s.txLanes p n).length * ((t.next + old - 1) / old) }

/-! ### Frames (R236 to R240) -/

/-- R391: the slots of a frame that leaves: its start and data blocks of class `cls` (0 Delivered, 1 Wasted-retry), its end
Wasted-padding. -/
def State.portSlots (s : State) (p : Part) (n l cls : Nat) : State :=
  let a := s.nextBlock p n
  let b := a + 1 + dataBlocks l
  (s.slotCount p n cls (slotStarts a b)).slotCount p n 2 (slotStarts b (b + 1))

/-- R391: does a frame for the port wait: in its output queues or in spill, for replay-buffer room or for a width change? -/
def State.portWaits (s : State) (p : Part) (n : Nat) : Bool :=
  match p with
  | .ep => !(s.port .ep n).queue.isEmpty
  | .mod => (s.portFrames n).any fun f => f.place == 0 || f.place == 4

/-- R233, R391: the blocks whose slots have passed were Idle: Starved-back where a frame waited, else Starved-front. -/
def State.idleBlocks (s : State) (p : Part) (n : Nat) : State :=
  let u := s.catchUp p n
  if (s.port p n).state = 7 then
    u.slotCount p n (if s.portWaits p n then 4 else 3) (slotStarts (s.txPort p n).next (u.txPort p n).next)
  else u

/-- The ports of a part that send blocks. -/
def State.idlePorts (s : State) (p : Part) : State :=
  (s.sh p).ports.foldl (fun s q => if 4 ≤ q.2.state ∧ q.2.state ≤ 7 then s.idleBlocks p q.1 else s) s

/-- R237: an acknowledgement of `seq` and every earlier frame. -/
def State.acked (s : State) (p : Part) (n seq : Nat) : State :=
  let q := s.port p n
  if q.replay.any fun f => f.seq == seq then
    s.setPort p n { q with replay := (q.replay.dropWhile fun f => f.seq != seq).drop 1, replays := 0 }
  else s

/-- R239: every frame that waits in a port's replay buffer is sent again, in order. -/
def State.resendFrames (s : State) (p : Part) (n : Nat) : State :=
  let q := s.port p n
  let s := s.setPort p n { q with replay := q.replay.map fun f => { f with sent := s.ns } }
  q.replay.foldl (fun s f => (s.portSlots p n f.pkt.wireLen 1).frameOut p n f.seq f.pkt) s

/-- R251: is a port between its first Width change block and its own switch? It sends no frame. -/
def Port.changing (q : Port) : Bool :=
  match q.wc with
  | some w => !w.txDone
  | none => false

/-- R239, R240: resend every unacknowledged frame, as one replay; the retry limit spent, the port is down (R253). During a width
change nothing is resent (R251). -/
def State.replayAll (s : State) (p : Part) (n : Nat) : State :=
  let q := s.port p n
  if q.replay.isEmpty ∨ q.changing then s
  else if q.retryLimit ≤ q.replays then s.goDown p n
  else ((s.setPort p n { q with replays := q.replays + 1 }).portCount p n 5).resendFrames p n

/-- R237: an Ack block. -/
def State.linkAck (s : State) (p : Part) (n seq : Nat) : State := if (s.port p n).state = 7 then s.acked p n seq else s

/-- R237, R239: a Nak block: it acknowledges the frames before the one that it names, and asks for that one and the later ones. A
Nak of the next sequence to send acknowledges every frame. -/
def State.linkNak (s : State) (p : Part) (n seq : Nat) : State :=
  let q := s.port p n
  if q.state ≠ 7 then s
  else if seq = q.txSeq ∧ ¬ q.replay.isEmpty then s.setPort p n { q with replay := [], replays := 0 }
  else if !(q.replay.any fun f => f.seq == seq) then s.portCount p n 7
  else
    let rest := q.replay.dropWhile fun f => f.seq != seq
    let s := s.setPort p n { q with replay := rest, replays := if rest.length < q.replay.length then 0 else q.replays }
    s.replayAll p n

/-- R240: the replay timer of the oldest unacknowledged frame. -/
def State.replayTimer (s : State) (p : Part) (n : Nat) : State :=
  let q := s.port p n
  match q.replay with
  | f :: _ => if q.state = 7 ∧ f.sent + q.replayTimer ≤ s.ns then s.replayAll p n else s
  | [] => s

/-- R234, R253, R254: a codeword of a lane, with its wrong symbols, counts once. -/
def State.codeword (s : State) (p : Part) (l cw wrong : Nat) : State :=
  let x := s.lane p l
  if cw < x.cw then s
  else
    let lost := !correctable wrong
    let tick := s.rackNs p / 1000
    let bin := min wrong 15
    let s := s.setLane p l { x with
      cw := cw + 1
      hist := tabPut x.hist bin (tabGetD x.hist bin 0 + 1) 0
      errs := if lost then (tick, if x.errs.1 = tick then x.errs.2 + 1 else 1) else x.errs }
    if wrong = 0 then s else s.count p (if p = Part.ep then 0x12 else 0x02) l (if lost then 0 else 1) 1

/-- R238, R239: a frame, read from its blocks, reaches a link receiver. An accepted frame is acknowledged at once, within the Ack
interval. -/
def State.takeLinkFrame (s : State) (p : Part) (n : Nat) (f : LinkFrame) : State :=
  let whole := !f.errored && f.crcOk && f.dataBlocks == dataBlocks f.frameLen && decide (48 ≤ f.frameLen ∧ f.frameLen ≤ 4144)
  let s := if whole && f.ackValid then s.acked p n f.ackSeq else s
  let q := s.port p n
  if whole ∧ f.seq = q.rxSeq then
    let s := s.setPort p n { q with rxSeq := (q.rxSeq + 1) % 65536, nakAt := none }
    let s := (s.portCount p n 11).sendBlock p n (ackBlock f.seq) (.ack p n f.seq)
    match p with
    | .mod => s.enter n f.pkt
    | .ep => s.modEp fun e => { e with inbox := e.inbox ++ [f.pkt] }
  else
    let s := if q.nakAt.isSome then s.portCount p n 6 else s
    let again := match q.nakAt with
      | some t => decide (t + 1000 ≤ s.ns)
      | none => true
    if again then (s.modPort p n fun q => { q with nakAt := some s.ns }).sendBlock p n (nakBlock q.rxSeq) (.nak p n q.rxSeq) else s

/-- R234 to R238: what the lanes of a port bring: wrong symbols and errored blocks are counted, and a frame in it is taken. -/
def State.frameReceive (s : State) (p : Part) (n : Nat) (f : RawFrame) : State :=
  let q := s.port p n
  if q.state ≠ 7 then s
  else
    let s := f.errs.foldl (fun s e => s.codeword p (4 * n + e.1) e.2.1 e.2.2) s
    let sc := f.scan q.indexOf
    let s := if sc.malformed = 0 then s else s.count p (if p = Part.ep then 0x11 else 0x01) n 7 sc.malformed
    if sc.start.isNone ∧ ¬ sc.errored then s else s.takeLinkFrame p n (sc.frame (s.unwire p))

/-! ### Egress (R207, R208) -/

/-- R207: room in the replay buffer for a frame of `l` bytes. -/
def Port.room (q : Port) (l : Nat) : Bool :=
  decide ((q.replay.foldl (fun a f => a + f.charge) 0) + ceil64 l ≤ 262144) && decide (q.replay.length < 32767)

/-- R208: the weight of a class 0 to 2. -/
def State.weight (s : State) (c : Nat) : Nat := s.regNow .mod 0x510009 / 2 ^ (8 * c) % 256

/-- R208: the class that deficit round-robin serves: classes 2, 1, 0 of which `head` gives the bytes of the oldest frame. -/
def State.drr (s : State) (head : Nat → Option Nat) : Nat → List Nat → Option (Nat × List Nat)
  | 0, _ => none
  | n + 1, d =>
    match [2, 1, 0].find? fun c => match head c with
      | some l => decide (l ≤ d.getD c 0)
      | none => false with
    | some c => some (c, d.set c (d.getD c 0 - (head c).getD 0))
    | none =>
      s.drr head n ((List.range 3).map fun c => if (head c).isSome then d.getD c 0 + 4096 * s.weight c else 0)

/-- Send a packet on a port: it takes the next link sequence and a place in the replay buffer. -/
def State.sendFrame (s : State) (p : Part) (n : Nat) (k : Packet) : State :=
  let q := s.port p n
  let r : ReplayFrame := { seq := q.txSeq, charge := ceil64 k.wireLen, pkt := k, sent := s.ns }
  let s := s.setPort p n { q with txSeq := (q.txSeq + 1) % 65536, replay := q.replay ++ [r] }
  ((s.portCount p n 12).portSlots p n k.wireLen 0).frameOut p n q.txSeq k

/-- R208, R215: the next frame of a module port's queues leaves. -/
def State.egress (s : State) (n : Nat) : Nat → State
  | 0 => s
  | fuel + 1 =>
    let q := s.port .mod n
    let l := s.outQueue (tileOfPort n) (n % 4)
    match l.find? fun f => (s.checkPoint f).isSome with
    | some f => (s.dropFrame f ((s.checkPoint f).getD 2)).egress n fuel
    | none =>
      let head := fun (c : Nat) => (l.find? fun f => f.prio == c).map fun f => f.len
      let pick := if (head 3).isSome then some (3, q.deficit) else s.drr head 4 q.deficit
      match pick with
      | none => s
      | some (c, d) => match l.find? fun f => f.prio == c with
        | none => s
        | some f =>
          if !q.room f.len then s
          else
            let s := (s.takeFrame f).modPort .mod n fun q => { q with deficit := d }
            let s := (s.partCount .mod f.pkt.job 2 1).usageCount f.pkt.job n 0 f.len
            (s.sendFrame .mod n f.pkt).traceFrame (f.mark 5 s.ns) n

/-! ### Bring-up (R242 to R247) -/

/-- R20, R231, R250: a port's role is written: it starts or stops. The odd port of a ×8 pair stays Off. -/
def State.setRole (s : State) (p : Part) (n role : Nat) : State :=
  let q := s.port p n
  let role := if s.pairedOff p n then 0 else role
  if q.role = role then s
  else if role = 0 then
    let s := if s.pairedOff p n then s
      else (s.portLanes p n).foldl (fun s l => s.modLane p l fun x => { Lane.off with hist := x.hist, scan := x.scan }) s
    s.setPort p n Port.off
  else if q.role = 0 then (s.modPort p n fun q => { q with role := role }).toDetect p n
  else s.modPort p n fun q => { q with role := role }

/-- R231: the ports take the roles that the port role entry gives. -/
def State.rolesApply (s : State) : State :=
  let v := s.reg .mod 0x500002
  (List.range 256).foldl (fun s n => s.setRole .mod n (v / 4 ^ n % 4)) s

/-- R349: the ports leave Off once the module is in Run. -/
def State.portsLeaveOff (s : State) : State :=
  let s := s.rolesApply
  (s.mod.sh.ports.filter fun q => q.2.role != 0 && q.2.state == 0).foldl (fun s q => s.toDetect .mod q.1) s

/-- R242: move a tap by one step, or report its limit. -/
def stepTap (i : Nat) (v : Int) (req : Nat) : Int × Nat :=
  if req = 1 then (if Config.tapHigh i ≤ v then (v, 3) else (v + 1, 1))
  else if req = 2 then (if v ≤ Config.tapLow i then (v, 2) else (v - 1, 1))
  else (v, 0)

/-- R242: apply a training word's tap requests. -/
def Lane.apply (l : Lane) (w : TrainWord) : Lane :=
  match w.preset with
  | some pr => { l with taps := (List.range 4).map fun i => Config.tapPreset pr i, tapStatus := [1, 1, 1, 1] }
  | none =>
    let r := (List.range 4).map fun i => stepTap i (l.taps.getD i 0) (w.requests.getD i 0)
    { l with taps := r.map (·.1), tapStatus := r.map (·.2) }

/-- R242: has the back-off since a lane's last exit passed? -/
def State.backedOff (s : State) (p : Part) (since : Nat) : Bool := decide (since + s.reg p 0x420005 * 1000 ≤ s.ns)

/-- The lanes of a port, and the port, enter a training state (R247). -/
def State.portStep (s : State) (p : Part) (n state : Nat) : State :=
  let s := (s.portLanes p n).foldl (fun s l => s.modLane p l fun x => { x with state := state, since := s.ns }) s
  s.modPort p n fun q => { q with state := state, since := s.ns }

/-- R247: a port in Detect whose lanes have all found training frames starts Train, no sooner than the back-off. -/
def State.tryTrain (s : State) (p : Part) (n : Nat) : State :=
  let q := s.port p n
  if q.state = 1 ∧ s.backedOff p q.downSince ∧ (s.portLanes p n).all fun l => decide (8 ≤ (s.lane p l).found) then s.portStep p n 2
  else s

/-- R244, R247: a port whose lanes are all ready on both sides runs the PRBS check. -/
def State.tryBitLock (s : State) (p : Part) (n : Nat) : State :=
  if (s.port p n).state = 2 ∧ (s.portLanes p n).all fun l => (s.lane p l).ready && (s.lane p l).peerReady then s.portStep p n 3
  else s

/-- R252: a failed lane of a port that runs trains alone. -/
def State.laneAlone (s : State) (p : Part) (l : Nat) : State :=
  let x := s.lane p l
  if x.state = 8 ∧ 8 ≤ x.found ∧ s.backedOff p x.lostAt then s.setLane p l { x with state := 2, since := s.ns }
  else if x.state = 2 ∧ x.ready ∧ x.peerReady then s.setLane p l { x with state := 3, since := s.ns }
  else s

/-- R242, R244: what a lane reads from a training frame: the peer's tap requests and its bits, and whether it has bit lock. -/
def Lane.train (x : Lane) (w : TrainWord) (adapted : Bool) (prbsErrors : Nat) : Lane :=
  let y := { x with found := min 8 (x.found + 1), ready := x.ready || adapted }
  let y := if w.crcOk then
      { y.apply w with peerReady := w.ready, peerLock := if w.bitLock then min 8 (y.peerLock + 1) else y.peerLock,
                       peerDone := y.peerDone || (w.counting && w.countdown == 0) }
    else y
  { y with bitLock := y.bitLock || (y.ready && decide (prbsErrors < 4096) && y.state == 3) }

/-- R244: the Countdown of a lane's next training frame: with bit lock on both sides it goes from 7 to 0. -/
def Lane.countDown (x : Lane) : Lane :=
  { x with count := match x.count with
      | some c => some (c - 1)
      | none => if x.bitLock && decide (8 ≤ x.peerLock) then some 7 else none }

/-- R242: the training word that a lane sends. -/
def Lane.word (x : Lane) : TrainWord where
  requests := [0, 0, 0, 0]
  preset := none
  status := x.tapStatus
  ready := x.ready
  bitLock := x.bitLock
  countdown := x.count.getD 0
  counting := x.count.isSome
  crcOk := true

/-- R242 to R244: a training frame: its word and CRC-16, and the errors that the PRBS31 checker has found in 2^26 bits. The lane
answers with its own training frame until its countdown has ended. -/
def State.trainFrame (s : State) (p : Part) (l word crc : Nat) (adapted : Bool) (prbsErrors : Nat) : State :=
  let x := s.lane p l
  let n := s.portOfLane p l
  if x.state = 0 ∨ (4 ≤ x.state ∧ x.state ≠ 8 ∧ (x.state ≠ 4 ∨ x.peerDone)) ∨ !s.mayTrain p n ∨ s.laneOut p l then s
  else
    let y := x.train (trainWordOf word (crc == crc16 (beBytes 8 word))) adapted prbsErrors
    let s := if x.count = some 0 ∨ x.state = 4 then s.setLane p l y
      else (s.setLane p l y.countDown).emit (.training p l (y.countDown.word.bits_ (l - 4 * n)) 1)
    match (s.port p n).state with
    | 1 => s.tryTrain p n
    | 7 => s.laneAlone p l
    | _ => s.tryBitLock p n

/-- R243: a lane in Detect, or one that has failed, sends its next burst of 64 training frames, 1 ms after the last. -/
def State.detectBurst (s : State) (p : Part) (l : Nat) : State :=
  let x := s.lane p l
  let n := s.portOfLane p l
  if (x.state = 1 ∨ x.state = 8) ∧ s.mayTrain p n ∧ ¬ s.laneOut p l ∧ (¬ x.burst ∨ 1000000 + x.since ≤ s.ns) then
    (s.setLane p l { x with burst := true, since := s.ns }).emit (.training p l (x.word.bits_ (l - 4 * n)) 64)
  else s

/-- R244: the countdown of a lane has ended: its codeword stream starts with the first symbol after that frame. The port's slots
count from the start of its last lane (R246). -/
def State.countdownEnd (s : State) (p : Part) (l : Nat) : State :=
  let x := s.lane p l
  let n := s.portOfLane p l
  if x.state = 3 ∧ x.count = some 0 then
    let s := (s.setLane p l { x with state := 4, since := s.ns }).emit (.codewords p l)
    if (s.port p n).state = 3 ∧ (s.portLanes p n).all fun l => (s.lane p l).state == 4 then
      (s.modPort p n fun q => { q with state := 4, since := s.ns }).setTx p n { TxPort.zero with start := s.clock }
    else s
  else s

/-- R245: the next sync header at the bit position that a lane tests, or, locked, stands at. -/
def Lane.header (x : Lane) (now h : Nat) : Lane :=
  let valid := h == 1 || h == 2
  if !x.blockLock then
    if !valid then { x with hunt := 0, candidate := (x.candidate + 1) % 258 }
    else if 63 ≤ x.hunt then { x with blockLock := true, hunt := 0, seen := 0, invalid := [] }
    else { x with hunt := x.hunt + 1 }
  else
    let bad := (x.invalid.filter fun i => decide (x.seen < i + 1024)) ++ (if valid then [] else [x.seen])
    if 16 ≤ bad.length then { x with blockLock := false, lostAt := now, hunt := 0, invalid := [] }
    else { x with seen := x.seen + 1, invalid := bad }

/-- R245: sync headers of a lane that decodes: it hunts for block lock, or loses it. -/
def State.blockLock (s : State) (p : Part) (l : Nat) (headers : List Nat) : State :=
  let x := s.lane p l
  let n := s.portOfLane p l
  if x.state < 4 ∨ x.state = 8 ∨ !x.peerDone then s
  else
    let y := headers.foldl (fun x h => x.header s.ns h) x
    let s := s.setLane p l (if y.blockLock ∧ y.state = 4 ∧ (s.port p n).state = 7 then { y with state := 5 } else y)
    if (s.port p n).state = 4 ∧ (s.portLanes p n).all fun l => (s.lane p l).blockLock then
      ((s.portLanes p n).foldl (fun s l => s.modLane p l fun x => { x with state := 5 }) s).modPort p n fun q =>
        { q with state := 5, since := s.ns }
    else s

/-- R247: the part's own Capability block for a port. -/
def State.capability (s : State) (p : Part) (n : Nat) (seen accepted : Bool) : Capability :=
  let ep := p == Part.ep
  let base := if ep then 0xD000 else 0x5000
  { linkRev := 1, partKind := if ep then 0 else if s.reg .mod 0x500001 = 1 then 2 else 1,
    valid := s.coordsSet p,
    pod := s.reg p (base * 256 + (if ep then 1 else 3)), rack := s.rack p, plane := if ep then 0 else s.plane,
    slot := if ep then s.reg .ep 0xD00003 else 0, node := if ep then s.node .ep else 512 + s.plane, port := n,
    role := if ep then 0 else (s.port p n).role, widths := if ep then 3 else 7, width := s.cfgWidth p n,
    clocking := s.clockingEntry p n, seen := seen, accepted := accepted }

/-- R247, R20: is the peer the one that the cabling table places on the port? -/
def State.peerOk (s : State) (p : Part) (n : Nat) (c : Capability) : Bool :=
  let own := s.capability p n false false
  let place := c.pod == own.pod && c.rack == own.rack
  let pods := c.pod == own.pod && c.plane == own.plane
  c.linkRev == 1 && c.valid && c.widths &&& own.widths != 0 &&
  (match p with
   | .ep => c.partKind == 1 && place && c.plane == n && c.port == own.slot
   | .mod =>
     if own.partKind = 1 then
       if own.role = 1 then c.partKind == 0 && place && c.slot == n && c.port == own.plane
       else c.partKind == 2 && pods && c.role == 1
     else if own.role = 1 then c.partKind == 1 && pods && c.role == 2
     else c.partKind == 2 && pods && c.role == 1)

/-- R247: does a port accept its peer? -/
def State.accepts (s : State) (p : Part) (n : Nat) : Bool :=
  match (s.port p n).peer with
  | some c => (s.port p n).capCount == 3 && s.coordsSet p && s.peerOk p n c
  | none => false

/-- R247: a port enters Active. -/
def State.toActive (s : State) (p : Part) (n : Nat) (c : Capability) : State :=
  let w := min (s.cfgWidth p n) c.width
  let old := (s.txLanes p n).length
  let set := widest (s.cfgWidth p n) (widthMask w &&& (if (s.port p n).lanes = 0 then 0xFF else (s.port p n).lanes))
  let s := s.modPort p n fun q => { q with state := 7, width := maskWidth set, lanes := set, txSeq := 0, rxSeq := 0, replay := [],
                                           replays := 0, nakAt := none, activeSince := s.ns,
                                           replayTimer := s.reg p 0x420001, retryLimit := s.reg p 0x420002, wc := none,
                                           deficit := [0, 0, 0] }
  let s := (s.modLanes p n set fun x => { x with state := 7 }).newWidth p n old
  if p = Part.ep then s.degraded else s

/-- R247: a port whose own block and whose peer's have said Accepted enters Active. -/
def State.tryActive (s : State) (p : Part) (n : Nat) : State :=
  let q := s.port p n
  match q.peer with
  | some c => if q.state = 6 ∧ q.capAcc ∧ c.accepted ∧ s.accepts p n then s.toActive p n c else s
  | none => s

/-- R247: is the port's Capability block due? It is sent once per µs. -/
def State.capDue (s : State) (p : Part) (n : Nat) : Bool :=
  match (s.port p n).capAt with
  | some t => decide (t + 1000 ≤ s.ns)
  | none => true

/-- R247: the port's Capability block leaves. -/
def State.sendCapability (s : State) (p : Part) (n : Nat) : State :=
  let ok := s.accepts p n
  let c := s.capability p n ((s.port p n).capCount == 3) ok
  let s := s.modPort p n fun q => { q with capAt := some s.ns, capAcc := ok }
  (s.sendBlock p n c.block (.capability p n c)).tryActive p n

/-- R246, R247: the lanes of a set are aligned: the port exchanges capabilities on them. -/
def State.deskewed (s : State) (p : Part) (n set : Nat) : State :=
  let s := s.modLanes p n set fun x => { x with state := 6 }
  (s.modPort p n fun q => { q with state := 6, lanes := set, since := s.ns, capCount := 0, peer := none, capAt := none,
                                   capAcc := false }).sendCapability p n

/-- R246: the markers of a port that align: those with the first one's Port and Marker count that came within 256 blocks of each
other, if no Lane index is twice among them and no Port differs. -/
def alignedMarks (l : List MarkRx) : List MarkRx :=
  match l with
  | [] => []
  | m :: _ =>
    let ok := l.filter fun k => k.count == m.count
    let skew := ok.foldl (fun a k => max a k.at_) 0 - ok.foldl (fun a k => min a k.at_) m.at_
    if (l.any fun k => k.port != m.port) ∨ (l.map MarkRx.index).eraseDups.length ≠ l.length ∨ 256 < skew then [] else ok

/-- R246, R252, R254: markers of a port's lanes. In Deskew they align the port, whose lanes take the places that their indexes
give; in Active they count the BIP-8 mismatches, and a lane that trains alone aligns against the lanes in service. -/
def State.marker (s : State) (p : Part) (n : Nat) (marks : List MarkRx) : State :=
  let q := s.port p n
  let marks := marks.filter fun m => m.wellFormed && (s.lane p (4 * n + m.lane)).blockLock
  let ok := alignedMarks marks
  let set := ok.foldl (fun a m => a ||| 2 ^ m.index) 0
  let place := ok.foldl (fun t m => tabSet t m.lane m.index) q.place
  let g := if p = Part.ep then 0x12 else 0x02
  if q.state = 5 then
    if ok.isEmpty then s
    else
      let full := widthMask (s.cfgWidth p n)
      let s := s.setPort p n { q with aligned := set, place := place, marker := (ok.head?.map MarkRx.count).getD 0 }
      if set &&& full = full then s.deskewed p n full else s
  else if q.state = 7 then
    let s := marks.foldl (fun s m => if m.bip = m.parity then s else s.count p g (4 * n + m.lane) 2 1) s
    if ok.isEmpty then s
    else
      let s := s.setPort p n { q with place := place, marker := (ok.head?.map MarkRx.count).getD 0 }
      let runs := ok.any fun m => bit q.lanes m.index
      if !runs then s
      else ok.foldl (fun s m => s.modLane p (4 * n + m.lane) fun x => if x.state = 5 then { x with state := 6 } else x) s
  else s

/-- R247, R20: a Capability block. -/
def State.capReceive (s : State) (p : Part) (n : Nat) (c : Capability) : State :=
  let q := s.port p n
  let plain := fun (c : Capability) => { c with seen := false, accepted := false }
  if q.state ≠ 6 ∧ q.state ≠ 7 then s
  else
    let same := match q.peer with
      | some d => plain d == plain c
      | none => false
    let cnt := if same then min 3 (q.capCount + 1) else 1
    let s := s.setPort p n { q with peer := some c, capCount := cnt }
    if q.state = 7 then s
    else
      let bytes := c.port + c.node * 2 ^ 8 + c.slot * 2 ^ 18 + c.plane * 2 ^ 26 + c.rack * 2 ^ 30 + c.pod * 2 ^ 34
      let s := if cnt = 3 ∧ q.capCount < 3 ∧ ¬ s.accepts p n ∧ c.valid then s.logEvent p 1 0x0001 0 (n * 2 ^ 104 + bytes) else s
      if s.capDue p n then s.sendCapability p n else s.tryActive p n

/-- R247: a training state passes its limit. In Deskew a port whose aligned lanes hold a narrower set comes up on it, with Degrade
enable 1. -/
def State.trainTimeout (s : State) (p : Part) (n : Nat) : State :=
  let q := s.port p n
  let lim := match q.state with
    | 2 => 50000000
    | 3 => 10000000
    | 4 => 1000000
    | 5 => 3 * markerPeriod
    | _ => 0
  let set := widest (s.cfgWidth p n) q.aligned
  if lim = 0 ∨ s.ns < q.since + lim then s
  else if q.state = 5 ∧ set ≠ 0 ∧ (s.sh p).reg 0x410007 n = 1 then s.deskewed p n set
  else (s.portCount p n 8).toDetect p n

/-! ### Width (R250 to R252) -/

/-- A Width change block of a port: with Ack 1 once the peer's proposal is known. -/
def widthBlock (w : WidthState) : WidthBlock where
  proposed := w.mine
  agreed := if w.peer.isSome then w.agreed else 0
  ack := w.peer.isSome
  reason := w.reason
  switchAfter := if w.peer.isSome then w.txAfter.getD 0 else 0

/-- R251: the port's Width change block leaves on every lane in service. -/
def State.sendWidth (s : State) (p : Part) (n : Nat) : State :=
  match (s.port p n).wc with
  | none => s
  | some w =>
    let b := widthBlock w
    let s := s.modPort p n fun q => { q with wc := some { w with sent := s.ns } }
    ((s.padSlots p n (s.txLanes p n).length).putBlocks p n ((s.txLanes p n).map fun _ => b.block)).1.emit (.width p n b)

/-- R251: a side starts a change of its lanes. -/
def State.widthStart (s : State) (p : Part) (n mine reason : Nat) : State :=
  let w : WidthState := { mine := mine, peer := none, reason := reason, txAfter := none, rxAfter := none, agreed := 0,
                          txDone := false, rxDone := false, since := s.ns, sent := s.ns }
  (s.modPort p n fun q => { q with wc := some w }).sendWidth p n

/-- The lane indexes of a port that can serve: deskewed and block-locked. -/
def State.sound (s : State) (p : Part) (n : Nat) : Nat :=
  maskOf 8 fun i =>
    let x := s.lane p (s.laneAt p n i)
    bit (widthMask (s.cfgWidth p n)) i && x.blockLock && (x.state == 6 || x.state == 7) && !s.laneOut p (s.laneAt p n i)

/-- R251: a Width change block: the new set is the widest allowed one in both sides' latest proposals. A new proposal is answered,
with a Switch after 2 above the own Marker count. -/
def State.widthReceive (s : State) (p : Part) (n : Nat) (b : WidthBlock) : State :=
  let q := s.port p n
  if q.state ≠ 7 then s
  else
    let w : WidthState := q.wc.getD { mine := if b.reason = 2 then s.sound p n ||| q.lanes else q.lanes &&& s.sound p n, peer := none,
                                      reason := b.reason, txAfter := none, rxAfter := none, agreed := 0, txDone := false,
                                      rxDone := false, since := s.ns, sent := s.ns }
    let agreed := widest (s.cfgWidth p n) (w.mine &&& b.proposed)
    if agreed = 0 then s.goDown p n
    else
      let rxAfter := if b.ack then some b.switchAfter else w.rxAfter
      if w.peer = some b.proposed then s.setPort p n { q with wc := some { w with rxAfter := rxAfter } }
      else
        let w := { w with peer := some b.proposed, agreed := agreed, txAfter := some ((s.markNow p n + 2) % 65536),
                          rxAfter := rxAfter, txDone := false, rxDone := false }
        (s.setPort p n { q with wc := some w }).sendWidth p n

/-- R251: both directions of a port have switched to the agreed set; lanes outside it stay trained and idle. -/
def State.widthDone (s : State) (p : Part) (n agreed : Nat) : State :=
  let s := s.modPort p n fun q => { q with wc := none, lanes := agreed, width := maskWidth agreed }
  let s := (bitsSet 8 (widthMask (s.cfgWidth p n))).foldl (fun s i => s.modLane p (s.laneAt p n i) fun x =>
    if bit agreed i then { x with state := 7 } else if x.state = 7 then { x with state := 6 } else x) s
  if p = Part.ep then s.degraded else s

/-- R251: the named marker has passed: a side switches its transmitter, and resends what waited, or its receiver. -/
def State.widthSwitch (s : State) (p : Part) (n : Nat) (rx : Bool) (count : Nat) : State :=
  match (s.port p n).wc with
  | none => s
  | some w =>
    let passed := match (if rx then w.rxAfter else w.txAfter) with
      | some t => decide ((65536 + count - t) % 65536 < 32768)
      | none => false
    if !passed then s
    else if rx then
      let s := s.modPort p n fun q => { q with wc := some { w with rxDone := true }, marker := count }
      if w.txDone then s.widthDone p n w.agreed else s
    else if w.txDone then s
    else
      let old := (s.txLanes p n).length
      let s := (s.modPort p n fun q => { q with wc := some { w with txDone := true } }).newWidth p n old
      let s := s.resendFrames p n
      if w.rxDone then s.widthDone p n w.agreed else s

/-- R252: a retrained lane has deskewed against the running ones: the side that proposes starts a restore. -/
def State.laneRestore (s : State) (p : Part) (l : Nat) : State :=
  let n := s.portOfLane p l
  let q := s.port p n
  let x := s.lane p l
  let peerEp := match q.peer with
    | some c => c.partKind == 0
    | none => true
  let proposes := p == Part.ep || (q.role == 1 && !peerEp)
  if q.state ≠ 7 ∨ q.wc.isSome ∨ x.state ≠ 6 ∨ ¬ x.blockLock ∨ s.laneOut p l ∨ ¬ proposes then s
  else s.widthStart p n (q.lanes ||| s.sound p n) 2

/-! ### PORT_TRANSMIT (R208, R246, R247, R249, R251) -/

/-- R246 to R251: is anything due that a port sends before its next frame: a marker or filler set, its Capability block, its Width
change block? -/
def State.txDue (s : State) (p : Part) (n : Nat) : Bool :=
  let q := s.port p n
  (s.txPort p n).dueAt (s.slotNow p n) || (decide (6 ≤ q.state) && s.capDue p n) || (match q.wc with
    | some w => !w.txDone && decide (w.sent + 1000 ≤ s.ns)
    | none => false)

/-- R246 to R251: the first thing that is due leaves. -/
def State.sendDue (s : State) (p : Part) (n : Nat) : State :=
  let q := s.port p n
  if (s.txPort p n).dueAt (s.slotNow p n) then s.passSlot p n (s.slotNow p n)
  else if 6 ≤ q.state ∧ s.capDue p n then s.sendCapability p n
  else s.sendWidth p n

/-- R208: the next frame of a port's queues leaves. -/
def State.sendNext (s : State) (p : Part) (n : Nat) : State :=
  let q := s.port p n
  match p with
  | .mod => s.egress n 4096
  | .ep => match q.queue with
    | [] => s
    | k :: t => if q.room k.wireLen then (s.setPort .ep n { q with queue := t }).sendFrame .ep n k else s

/-- R208, R233: PORT_TRANSMIT: from the start of its codeword stream a port sends what is due; an Active one then sends the next
frame, but not during a width change. -/
def State.transmit (s : State) (p : Part) (n : Nat) : State :=
  let q := s.port p n
  if q.state < 4 then s
  else if s.txDue p n then s.sendDue p n
  else if q.state ≠ 7 ∨ q.changing then s
  else s.sendNext p n

/-! ### Lane failure and port down (R253) -/

/-- R253: has a lane failed: its receiver has lost signal, it has been without block lock for 100 µs in Active, or a tick has
brought more uncorrectable codewords than the lane error threshold? -/
def State.laneFailed (s : State) (p : Part) (l : Nat) (signal : Bool) : Bool :=
  let x := s.lane p l
  !signal || (x.state == 7 && !x.blockLock && decide (x.lostAt + 100000 ≤ s.ns)) || decide (s.reg p 0x420004 < x.errs.2)

/-- R253: LANE_FAILURE: more codewords of a lane were uncorrectable in this tick, or its receiver has lost `signal`; a lane that
has failed leaves service, and the port narrows or goes down. -/
def State.laneFailure (s : State) (p : Part) (l codewords : Nat) (signal : Bool) : State :=
  let n := s.portOfLane p l
  let q := s.port p n
  let tick := s.rackNs p / 1000
  let s := s.modLane p l fun x => if codewords = 0 then x else { x with
    hist := tabPut x.hist 15 (tabGetD x.hist 15 0 + codewords) 0
    errs := (tick, (if x.errs.1 = tick then x.errs.2 else 0) + codewords) }
  let s := if codewords = 0 then s else s.count p (if p = Part.ep then 0x12 else 0x02) l 0 codewords
  if !s.laneFailed p l signal ∨ (s.lane p l).state = 0 then s
  else
    let inService := q.state == 7 && bit q.lanes (q.indexOf (l - 4 * n))
    let s := s.modLane p l fun x => x.restart 8 s.ns
    if !inService then s
    else
      let left := q.lanes &&& s.sound p n
      if (s.sh p).reg 0x410007 n = 0 ∨ widest (s.cfgWidth p n) left = 0 then s.goDown p n
      else s.widthStart p n left 0

/-- R253: PORT_DOWN. Causes: 0 the retry limit is spent, 1 a lane failed with Degrade enable 0, 2 no allowed set remains, 3 a
Width change has not switched within 5 marker periods. -/
def State.portDownCause (s : State) (p : Part) (n cause : Nat) : State :=
  let q := s.port p n
  let left := q.lanes &&& s.sound p n
  let holds := match cause with
    | 0 => decide (q.retryLimit ≤ q.replays) && (match q.replay with
        | f :: _ => decide (f.sent + q.replayTimer ≤ s.ns)
        | [] => false)
    | 1 => left != q.lanes && (s.sh p).reg 0x410007 n == 0
    | 2 => widest (s.cfgWidth p n) left == 0
    | _ => match q.wc with
      | some w => decide (w.since + 5 * markerPeriod ≤ s.ns)
      | none => false
  if holds then s.goDown p n else s

/-! ### Directory writes of links (R231, R248, R250, R254, R264) -/

/-- R231: PORT_ROLE_WRITE: two bits a port, only while no port is past capability exchange. -/
def State.rolesWrite (s : State) (val : List Byte) : Nat × State :=
  let v := leNat val
  if val.length ≠ 64 ∨ (List.range 256).any fun n => v / 4 ^ n % 4 == 3 then (stRange, s)
  else if s.mod.sh.ports.any fun q => q.2.state == 7 then (stBusy, s)
  else
    let s := s.setReg .mod 0x500002 v
    (stOk, if s.mod.ve.fenced then s else s.rolesApply)

/-- R250: the role that the port role entry, or the rack arrangement, gives a port. -/
def State.roleOf (s : State) (p : Part) (n : Nat) : Nat :=
  match p with
  | .mod => s.reg .mod 0x500002 / 4 ^ n % 4
  | .ep => (s.port .ep n).role

/-- R250, R264: a configured width. A ×8 port joins an even port with the next, which goes Off, and returns to its role when the
pair is parted. A port that is training starts again on its new lanes, and the others hold idle. -/
def State.widthWrite (s : State) (p : Part) (n v : Nat) : Nat × State :=
  if v < 1 ∨ 3 < v ∨ (v = 3 ∧ (p = Part.ep ∨ n % 2 = 1)) then (stRange, s)
  else if 6 ≤ (s.port p n).state ∨ (v = 3 ∧ 6 ≤ (s.port p (n + 1)).state) then (stBusy, s)
  else
    let old := s.cfgWidth p n
    if v = old then (stOk, s)
    else
      let runs := (s.port p n).state != 0
      let s := if v = 3 then s.setRole p (n + 1) 0 else s
      let s := if runs then (s.portLanes p n).foldl (fun s l => s.modLane p l fun x =>
        { Lane.off with hist := x.hist, scan := x.scan }) s else s
      let s := s.modSh p fun sh => sh.setReg 0x410002 n v
      let s := if runs then s.toDetect p n else s
      (stOk, if old = 3 ∧ ¬ s.mod.ve.fenced then s.setRole p (n + 1) (s.roleOf p (n + 1)) else s)

/-- R248, R264: a clocking mode; Up ports and pod-role ports are rate-matched. -/
def State.clockingWrite (s : State) (p : Part) (n v : Nat) : Nat × State :=
  let must := p == Part.mod && (s.reg .mod 0x500001 == 1 || (s.port .mod n).role == 2)
  if 1 < v ∨ (v = 0 ∧ must) then (stRange, s)
  else if 6 ≤ (s.port p n).state then (stBusy, s)
  else (stOk, s.modSh p fun sh => sh.setReg 0x410003 n v)

/-- R254: EYE_SCAN_START, on a lane that is not in service. -/
def State.eyeStart (s : State) (p : Part) (l : Nat) (val : List Byte) : Nat × State :=
  let n := s.portOfLane p l
  let q := s.port p n
  if beNat val ≠ 1 ∨ val.length ≠ 1 then (stRange, s)
  else if q.state = 7 ∧ bit q.lanes (q.indexOf (l - 4 * n)) then (stBusy, s)
  else (stOk, s.modLane p l fun x => { x with scanning := true })

/-- R254: the scan's 32 × 32 grid. -/
def State.eyeDone (s : State) (p : Part) (l : Nat) (grid : List Byte) : State :=
  if (s.lane p l).scanning then s.modLane p l fun x => { x with scanning := false, scan := sliceBytes grid 0 1024 } else s

/-! ### Timing-lane messages (R255 to R259) -/

/-- R258: is a message new to the part? The last 16 sequences of each source are kept. -/
def TimingLanes.isNew (t : TimingLanes) (src seq : Nat) : Bool := !(tabGetD t.seen src []).contains seq

/-- R258: keep the sequence of a message. -/
def TimingLanes.note (t : TimingLanes) (src seq : Nat) : TimingLanes :=
  { t with seen := tabSet t.seen src (lastN 16 (tabGetD t.seen src [] ++ [seq])) }

/-- R176, R258: a Barrier release reaches an endpoint. -/
def State.barrierRelease (s : State) (b : BarrierRel) : State :=
  match s.collNamed b.job b.group b.cseq with
  | some x => match x.shape with
    | some sh =>
      if sh.op = 3 ∧ x.cctx = b.cctx then
        let old := fun (r : Nat × Nat × Nat) => r.1 == b.job && r.2.1 == b.group && (r.2.2 == b.cseq || decide (4 ≤ serialDiff b.cseq r.2.2))
        (s.collRelease x b.plane).modEp fun e => { e with released := e.released.filter (fun r => !old r) ++ [(b.job, b.group, b.cseq)] }
      else s
    | none => s
  | none => s

/-! ### RoCE (R260 to R262) -/

/-- A host queue pair that is bound to nothing. -/
def QPair.none_ : QPair where
  use := 0
  job := 0
  rkey := 0
  state := 0

def State.qp (s : State) (n : Nat) : QPair := tabGetD s.mod.qps n QPair.none_

def State.setQp (s : State) (n : Nat) (q : QPair) : State := s.modMod fun m => { m with qps := tabPut m.qps n q QPair.none_ }

/-- R262, R264: a queue pair binding, written in reset or error; a bound pair is ready. -/
def State.qpWrite (s : State) (n : Nat) (val : List Byte) : Nat × State :=
  let w := beNat val
  let q : QPair := { use := bits w 127 126, job := bits w 125 110, rkey := bits w 109 78, state := if bits w 127 126 = 0 then 0 else 1 }
  if val.length ≠ 16 ∨ bits w 77 0 ≠ 0 ∨ q.use = 3 then (stRange, s)
  else if (s.qp n).state = 1 then (stBusy, s)
  else (stOk, s.setQp n q)

/-- R262: the queue pairs of a torn-down Job ID move to error. -/
def State.qpsTorn (s : State) (job : Nat) : State :=
  s.modMod fun m => { m with qps := m.qps.map fun q =>
    if q.2.use = 1 ∧ q.2.job = job ∧ q.2.state = 1 then (q.1, { q.2 with state := 2 }) else q }

/-- RoCEv2 results: 0 ACK, 1 NAK Remote Access Error, 2 NAK Remote Operational Error, 3 RNR NAK, 4 NAK Invalid Request. -/
def State.roceEnd (s : State) (n result : Nat) (data : List Byte) : State := s.emit (.roce n result data)

/-- R261: a request that arrives marked Congestion Experienced is answered with a CNP, at most one in 50 µs for a queue pair. -/
def State.congestion (s : State) (n : Nat) (ce : Bool) : State :=
  let due := match tabGet s.mod.cnps n with
    | some t => decide (t + 50000 ≤ s.ns)
    | none => true
  if ce && (s.qp n).state == 1 && due then (s.modMod fun m => { m with cnps := tabSet m.cnps n s.ns }).emit (.cnp n) else s

/-- R261: the largest message, in bytes. -/
def roceMost : Nat := 2 ^ 30

/-- R262: the result that a code of the Commons gives. -/
def State.roceCode (s : State) (n code : Nat) (data : List Byte) : State :=
  match code with
  | 0 => s.roceEnd n 0 data
  | 6 => (s.setQp n { s.qp n with state := 2 }).roceEnd n 1 []
  | 4 => s.roceEnd n 2 []
  | _ => s.roceEnd n 1 []

/-- R201, R262: admission of a host access to the Commons (checks 6 to 8 of R44): the local address, or a code. -/
def State.hostAdmit (s : State) (job off len want typ : Nat) : State × (Nat ⊕ Nat) :=
  match s.jobState .mod job with
  | 1 => (s.deny .mod job 0 off typ 0, .inr cDenied)
  | 2 => ((s.coCount 3).partCount .mod job 4 1, .inr cTorn)
  | _ => match admFind s.mod.sh.adm job off len with
    | none => (s.deny .mod job 0 off typ 1, .inr cDenied)
    | some e => if e.has want then (s, .inl (e.local_ off)) else (s.deny .mod job 0 off typ 2, .inr cDenied)

/-- R262: is a queue pair ready for a use, with the R_Key and the address of its binding? -/
def QPair.takes (q : QPair) (use rkey va : Nat) : Bool := q.state == 1 && q.use == use && q.rkey == rkey && decide (va < 2 ^ 46)

/-- R191: does a local address lie in the metadata pages of an Allocator region? -/
def State.metaAt (s : State) (loc : Nat) : Bool :=
  match s.regionAt loc with
  | some (_, r) => r.meta_ loc
  | none => false

/-- R191: what a load of 1 to 64 bytes at the head of an allocator reads, and whether the head is poisoned. -/
def State.headRead (s : State) (loc len : Nat) : Option (Bool × List Byte) :=
  match s.regionAt loc with
  | some (_, r) => match r.alloc with
    | some a => if loc = r.first ∧ len ≤ 64 then some (a.poisoned, (a.head r.page).take len) else none
    | none => none
  | none => none

/-- R191: a host request to the metadata pages that is no load of the head is Denied with reason 1. -/
def State.hostMetaDeny (s : State) (n va typ : Nat) : State :=
  (s.deny .mod (s.qp n).job 0 va typ 1).roceCode n cDenied []

/-- A host load that was admitted: from the head of an allocator (R191), Poison in Stale (R182), else from memory. -/
def State.hostRead (s : State) (n va loc len err : Nat) : Answer :=
  if s.usableBytes < loc + len then .fault (.outsideCommons loc)
  else if s.metaAt loc then
    match s.headRead loc len with
    | some h =>
      let c := s.readCheckAs [loc / 128] err false
      .next (if c.2 && !h.1 then c.1.roceCode n cDone h.2 else c.1.roceCode n cPoison [])
    | none => .next (s.hostMetaDeny n va 0x01)
  else if s.staleAt loc then .next (s.roceCode n cPoison [])
  else
    let c := s.readCheck (linesOf loc len) err
    .next (if c.2 then c.1.roceCode n cDone (c.1.commonsRead loc len) else c.1.roceCode n cPoison [])

/-- R262: an RDMA Write: into the Commons, or into the staging area of a directory queue pair. -/
def State.roceWrite (s : State) (n rkey va : Nat) (data : List Byte) (err : Nat) : Answer :=
  let q := s.qp n
  if s.mod.ve.fenced ∧ q.use = 1 then .next s else
  if roceMost < data.length then .next (s.roceEnd n 4 [])
  else if q.use = 2 ∧ q.takes 2 rkey va then
    if va + data.length ≤ 2 ^ 28 then
      .next ((s.modMod fun m => { m with staging := memWrite m.staging va data }).roceEnd n 0 [])
    else .next (s.roceEnd n 1 [])
  else if !q.takes 1 rkey va then .next (s.roceEnd n 1 [])
  else
    let a := s.hostAdmit q.job va data.length 1 0x02
    match a.2 with
    | .inr code => .next (a.1.roceCode n code [])
    | .inl loc =>
      if s.usableBytes < loc + data.length then .fault (.outsideCommons loc)
      else if a.1.metaAt loc then .next (a.1.hostMetaDeny n va 0x02)
      else
        let c := a.1.checkedWrite loc data err
        .next (c.1.roceCode n (if c.2 then cDone else cPoison) [])

/-- R262: an RDMA Read. -/
def State.roceRead (s : State) (n rkey va len err : Nat) : Answer :=
  let q := s.qp n
  if s.mod.ve.fenced ∧ q.use = 1 then .next s else
  if q.use = 2 ∨ roceMost < len then .next (s.roceEnd n 4 [])
  else if !q.takes 1 rkey va then .next (s.roceEnd n 1 [])
  else
    let a := s.hostAdmit q.job va len 0 0x01
    match a.2 with
    | .inr code => .next (a.1.roceCode n code [])
    | .inl loc => a.1.hostRead n va loc len err

/-- R262, R65: a host atomic of 8 bytes at the point of coherence. -/
def State.roceAtomic (s : State) (n rkey va err : Nat) (f : Nat → Nat) : Answer :=
  let q := s.qp n
  if s.mod.ve.fenced ∧ q.use = 1 then .next s else
  if q.use = 2 ∨ va % 8 ≠ 0 then .next (s.roceEnd n 4 [])
  else if !q.takes 1 rkey va then .next (s.roceEnd n 1 [])
  else if atomCap .mod ≤ (s.mod.sh.recv.inprog.filter fun g => g.pkt.typ == 0x03).length then .next (s.roceEnd n 3 [])
  else
    let a := s.hostAdmit q.job va 8 2 0x03
    match a.2 with
    | .inr code => .next (a.1.roceCode n code [])
    | .inl loc =>
      if s.usableBytes < loc + 8 then .fault (.outsideCommons loc)
      else if a.1.metaAt loc then .next (a.1.hostMetaDeny n va 0x03)
      else if a.1.staleAt loc then .next (a.1.roceCode n cPoison [])
      else
        let c := a.1.readCheck [loc / 128] err
        if !c.2 then .next (c.1.roceCode n cPoison [])
        else
          let old := leNat (c.1.commonsRead loc 8)
          let w := c.1.checkedWrite loc (leBytes 8 (f old)) 0
          .next (w.1.roceCode n (if w.2 then cDone else cPoison) (leBytes 8 old))

end Sys2Proof.Machine
end

