-- ==== Sys2Proof/Machine/RackTime.lean ====
section
/-! DEFINITION. Rack time (R265 to R268) and Mown mode (R273 to R280): the timing lanes' ticks and time sets, what ends
Mown mode, the entries and their slots. Also the passing of time (`State.idle`). -/

namespace Sys2Proof.Machine

/-! ### Time passes -/

/-- R267: out of Locked the counter runs from the crystal, trimmed to the ratio last measured: it drifts from rack time by no more
than 5 ns per ms, a unit in 200,000. -/
def RackTime.drift (r : RackTime) (clock : Nat) : RackTime :=
  if 3 ≤ r.state ∧ clock / 200000 ≠ (clock + 32) / 200000 then
    { r with units := if Config.drift clock < 0 then r.units - 1 else if 0 < Config.drift clock then r.units + 1 else r.units }
  else r

/-- R266, R268: one cycle of the rack reference, 32 units; a slew of at most 100 ppm moves one unit in 10,000. -/
def RackTime.advance (r : RackTime) (clock : Nat) : RackTime :=
  let r := r.drift clock
  let turn := clock / 10000 != (clock + 32) / 10000
  if turn && r.slew != 0 then
    { r with units := if 0 < r.slew then r.units + 33 else r.units + 31, slew := if 0 < r.slew then r.slew - 1 else r.slew + 1 }
  else { r with units := r.units + 32 }

/-- One cycle of the rack reference, 6.4 ns: the clock and both counters of rack time. -/
def State.cycle (s : State) : State :=
  let f := fun (sh : Shared) => { sh with rt := sh.rt.advance s.clock }
  { ep := { s.ep with sh := f s.ep.sh }, mod := { s.mod with sh := f s.mod.sh }, clock := s.clock + 32, draws := s.draws,
    out := s.out, pending := s.pending }

/-- R392: cycles of a tile's clock up to a time. -/
def State.tileCycles (s : State) (t at_ : Nat) : Nat := at_ * 2 * s.tileRate t / 25

/-- R392: the input of tile `t` from direction `d` sees cycles without a flit from `since` on: 8 Starved-front slots each. -/
def State.idleLink (s : State) (since t plane d : Nat) : State :=
  match neighbour t d with
  | none => s
  | some n =>
    let from_ := max since (min s.clock (tabGetD s.mod.busy (outNo n plane ((d + 2) % 4)) 0))
    s.count .mod 0x04 (16 * t + 4 * plane + d) 4 (8 * (s.tileCycles t s.clock - s.tileCycles t from_))

/-- R392: the mesh links of the tiles in service, in Run and Trim. -/
def State.idleMesh (s : State) (since : Nat) : State :=
  if 2 ≤ s.mod.power.state then s
  else (List.range 1024).foldl (fun s i =>
    if (s.tile (i / 16)).inService then s.idleLink since (i / 16) (i / 4 % 4) (i % 4) else s) s

/-- One cycle of the rack reference passes: what a step does when no command waits. What no block and no flit has used is counted
as Idle (R391, R392). -/
def State.idle (s : State) : State := ((s.cycle.idlePorts .ep).idlePorts .mod).idleMesh s.clock

/-! ### Leaving Mown mode (R272, R278, R280) -/

/-- R341: an event 0x000D: Mown mode refused (0) or left (1), with its cause: 0 rack time, 1 step, 2 alignment, 3 clocking. -/
def State.mownEvent (s : State) (p : Part) (what cause : Nat) : State :=
  s.logEvent p 1 0x000D 0 (what * 2 ^ 104 + cause * 2 ^ 96)

/-- R278: a part leaves Mown mode: its Ready entries are Cancelled, its Running entries fall back. Cause 4: the switch time. -/
def State.leaveMown (s : State) (p : Part) (cause : Nat) : State :=
  if (s.sh p).mode ≠ 1 then s
  else
    let n := ((s.sh p).mown.filter fun e => e.2.state == 3).length
    let s := if cause < 4 then s.mownEvent p 1 cause else s
    let s := s.modSh p fun sh =>
      let f := fun (e : Nat × MownEntry) =>
        if e.2.state = 2 then (e.1, { e.2 with state := 8 }) else if e.2.state = 3 then (e.1, { e.2 with state := 7 }) else e
      { sh with mode := 0, mown := sh.mown.map f }
    match p with
    | .mod => (s.count .mod 0x0A 0 4 n).mcOn
    | .ep => s.collsOn

/-- R272, R367: alignment ends: Mown mode ends, and the covered PLLs return at the next epoch boundary. -/
def State.alignLost (s : State) (cause : Nat) : State :=
  if s.mod.align ≠ 2 then s
  else
    let s := s.modMod fun m => { m with align := 0 }
    let s := s.modSh .mod fun sh => { sh with clk := { sh.clk with returnAt := some (1000000 * s.nextEpoch .mod) } }
    s.leaveMown .mod cause

/-- R280: does an entry name a tile? -/
def MownEntry.names (e : MownEntry) (t : Nat) : Bool := (e.state == 2 || e.state == 3) && e.tiles.contains t

/-- R280: MOWN_FALLBACK: a Ready or Running entry falls back to Free rules. -/
def State.mownFallback (s : State) (i : Nat) : State :=
  match tabGet s.mod.sh.mown i with
  | none => s
  | some e =>
    if e.state ≠ 2 ∧ e.state ≠ 3 then s
    else
      let s := s.modSh .mod fun sh => { sh with mown := tabSet sh.mown i { e with state := 7 } }
      (s.mgCount 4).mcOn

/-- R280: every entry that names a tile falls back. -/
def State.mownTileLost (s : State) (t : Nat) : State :=
  (s.mod.sh.mown.filter fun e => e.2.names t).foldl (fun s e => s.mownFallback e.1) s

/-! ### Timing lanes (R265, R266) -/

/-- A lane of a part: 0 A, 1 B. -/
def RackTime.lane (r : RackTime) (l : Nat) : TLane := if l = 0 then r.laneA else r.laneB

/-- Put a lane. -/
def RackTime.setLane (r : RackTime) (l : Nat) (x : TLane) : RackTime :=
  if l = 0 then { r with laneA := x } else { r with laneB := x }

/-- Change a part's rack time. -/
def State.modRt (s : State) (p : Part) (f : RackTime → RackTime) : State := s.modSh p fun sh => { sh with rt := f sh.rt }

/-- R266, R341: rack time takes another state, with its event 0x000C. -/
def State.rtState (s : State) (p : Part) (st : Nat) : State :=
  (s.modRt p fun r => { r with state := st }).logEvent p 1 0x000C 0
    (st * 2 ^ 104 + patternOf 64 (s.sh p).rt.lastStep * 2 ^ 40)

/-- R266: the tick tolerance, in units. -/
def State.tickTol (s : State) (p : Part) : Nat := s.reg p 0xC00006 * 5

/-- R266: does a corrected arrival lie within a tolerance of a multiple of 1,000 ns? -/
def tickAgrees (at_ : Int) (tol : Nat) : Bool :=
  let d := (at_ % 5000).toNat
  decide (d ≤ tol ∨ 5000 - d ≤ tol)

/-- R266: by how much the counter is ahead at a tick. -/
def tickError (at_ : Int) : Int := if at_ % 5000 ≤ 2500 then at_ % 5000 else at_ % 5000 - 5000

/-- R266: in Locked, the source lane does not agree while the other lane does: the other becomes the source. `ok` tells
whether a lane's last tick, or last time set, agrees. -/
def State.trySwitch (s : State) (p : Part) (ok : TLane → Bool) : State :=
  let r := (s.sh p).rt
  let o := 1 - r.source
  if r.state = 2 && !ok (r.lane r.source) && (r.lane o).sync && ok (r.lane o) then
    (s.modRt p fun r => { r with source := o }).bothCount p 33 0
  else s

/-- R265, R266: TICK: a tick arrives on a lane; `epoch`: it begins an epoch. One that agrees, on the source lane in Locked, trims
the phase: the counter slews to it. -/
def State.tick (s : State) (p : Part) (l : Nat) (epoch : Bool) : State :=
  let at_ : Int := ((s.sh p).rt.units : Int) - (s.reg p (0xC00004 + l) / 200 : Nat)
  let ok := tickAgrees at_ (s.tickTol p)
  let s := s.modRt p fun r =>
    let x := { r.lane l with sync := true, tick := s.clock, tickOk := ok }
    let r := if r.state = 2 ∧ l = r.source ∧ ok then { r with slew := - tickError at_ } else r
    r.setLane l (if epoch then { x with epoch := at_, set := none } else x)
  s.trySwitch p fun x => x.tickOk

/-- Move the counter, and what lanes remember of it, by some units. -/
def RackTime.move (r : RackTime) (d : Int) : RackTime :=
  { r with units := ((r.units : Int) + d).toNat, laneA := { r.laneA with epoch := r.laneA.epoch + d },
           laneB := { r.laneB with epoch := r.laneB.epoch + d } }

/-- R266: the time sets of both lanes fail in one epoch and agree with each other. Sets of two epochs, of which one lane's is
still to come, are not compared. -/
def State.bothFail (s : State) (p : Part) (d : Int) : State :=
  let r := (s.sh p).rt
  match r.laneA.set, r.laneB.set with
  | some a, some b =>
    if 2500000 ≤ (r.laneA.epoch - r.laneB.epoch).natAbs then s
    else if r.laneA.setOk || r.laneB.setOk then s.modRt p fun r => { r with disagree := 0 }
    else if (if a < b then b - a else a - b) * 5 ≤ s.tickTol p then
      s.modRt p fun r => if 2 ≤ r.disagree + 1 then { r with disagree := 0, step := some d } else { r with disagree := r.disagree + 1 }
    else s.modRt p fun r => { r with disagree := 0 }
  | _, _ => s

/-- R259, R266: TIME_SET: a time set arrives on a lane; one that is not right is discarded and counted. -/
def State.timeSet (s : State) (p : Part) (l value : Nat) (ok : Bool) : State :=
  if !ok then s.count p 0x09 l 0 1
  else
    let r := (s.sh p).rt
    let d : Int := (value * 5 : Nat) - (r.lane l).epoch
    let agrees := decide (d.natAbs ≤ s.tickTol p)
    let s := s.modRt p fun r => r.setLane l { r.lane l with sync := true, set := some value, setOk := agrees }
    match r.state with
    | 0 => if l = r.source then (s.modRt p fun r => { r.move d with agrees := 0 }).rtState p 1 else s
    | 1 =>
      if l ≠ r.source then s
      else if !agrees then s.modRt p fun r => { r.move d with agrees := 0 }
      else if 2 ≤ r.agrees + 1 then (s.modRt p fun r => { r with agrees := 0 }).rtState p 2
      else s.modRt p fun r => { r with agrees := r.agrees + 1 }
    | 2 => (s.trySwitch p fun x => x.set.isSome && x.setOk).bothFail p d
    | 3 =>
      if d.natAbs ≤ 5000 then (s.modRt p fun r => { r with source := l, slew := d }).rtState p 2
      else (s.modRt p fun r => { r with source := l, step := some d }).rtState p 2
    | _ => (s.modRt p fun r => { r with source := l, agrees := 0, step := some d }).rtState p 1

/-- R249, R267, R272, R278: rack time leaves Locked: embedded ports move to the crystal, alignment and Mown mode end. -/
def State.unlock (s : State) (p : Part) : State :=
  let s := s.modSh p fun sh => { sh with clk := { sh.clk with rateMatched := true } }
  match p with
  | .mod => (s.alignLost 0).leaveMown .mod 0
  | .ep => s.leaveMown .ep 0

/-- R266: LANE_SILENT: a lane has lost synchronisation or sent no tick for 3 tick periods. -/
def State.laneSilent (s : State) (p : Part) (l : Nat) : State :=
  let s := s.modRt p fun r => r.setLane l { r.lane l with sync := false }
  let r := (s.sh p).rt
  if r.state = 0 then
    if l = r.source ∧ 50000000 + (r.lane l).tick ≤ s.clock then s.modRt p fun r => { r with source := 1 - r.source } else s
  else if r.state = 2 then
    if !r.laneA.sync && !r.laneB.sync then ((s.modRt p fun r => { r with since := s.clock, disagree := 0 }).rtState p 3).unlock p
    else if l = r.source then (s.modRt p fun r => { r with source := 1 - r.source }).bothCount p 33 0
    else s
  else s

/-- R266: HOLDOVER_LIMIT. -/
def State.holdoverLimit (s : State) (p : Part) : State :=
  let r := (s.sh p).rt
  if r.state = 3 ∧ r.since + 5000000 * s.reg p 0xC00007 ≤ s.clock then
    (s.rtState p 4).bothCount p 34 1
  else s

/-- R268: the counter is stepped; Mown mode ends. -/
def State.stepCounter (s : State) (p : Part) (d : Int) : State :=
  (s.modRt p fun r => { r.move d with step := none, lastStep := d.tdiv 5 }).leaveMown p 1

/-! ### Mown entries (R273 to R276) -/

/-- A Mown entry that holds nothing. -/
def MownEntry.zero : MownEntry where
  job := 0
  group := 0
  cctx := 0
  cseq := 0
  start := 0
  interval := 0
  lead := 0
  planes := 0
  state := 0
  tiles := []
  engs := []
  offset := 0

/-- The layout of a Mown entry. -/
def mownOf (w : Nat) : MownEntry :=
  { MownEntry.zero with job := bits w 255 240, group := bits w 239 226, cctx := bits w 225 224, cseq := bits w 223 192,
                        start := bits w 191 128, interval := bits w 127 112, lead := bits w 111 92, planes := bits w 91 76 }

/-- A Mown entry as it reads. -/
def MownEntry.word (e : MownEntry) : Nat :=
  e.job * 2 ^ 240 + e.group * 2 ^ 226 + e.cctx * 2 ^ 224 + e.cseq * 2 ^ 192 + e.start * 2 ^ 128 + e.interval * 2 ^ 112 +
    e.lead * 2 ^ 92 + e.planes * 2 ^ 76

/-- R275: does a module accept an entry? -/
def State.mownOk (s : State) (e : MownEntry) : Bool :=
  let g := s.group e.group
  decide (s.rackNs .mod + s.reg .mod 0xC30005 * 1000 ≤ e.start) && g.v && g.job == e.job && (g.ctx e.cctx).v &&
  decide ((g.ctx e.cctx).op ≤ 3) && g.rackMask == 2 ^ s.rack .mod

/-- R273, R275, R281: a write of a Mown entry. An endpoint has nothing to compile. -/
def State.mownWrite (s : State) (p : Part) (i : Nat) (val : List Byte) : Nat × State :=
  let w := beNat val
  let e := mownOf w
  let old := tabGetD (s.sh p).mown i MownEntry.zero
  if val.length ≠ 32 ∨ bits w 75 0 ≠ 0 ∨ e.start % 1000 ≠ 0 ∨ e.interval < 20 ∨ e.lead < 500 ∨ 100000 < e.lead then (stRange, s)
  else if old.state = 1 ∨ old.state = 2 ∨ old.state = 3 then (stBusy, s)
  else match p with
    | .ep => (stOk, s.modSh .ep fun sh => { sh with mown := tabSet sh.mown i { e with state := 2 } })
    | .mod =>
      if !s.mownOk e then (stRange, s)
      else (stOk, s.modSh .mod fun sh => { sh with mown := tabSet sh.mown i { e with state := 1 } })

/-- R276: MOWN_COMPILE_COMPLETE. -/
def State.mownCompile (s : State) (i : Nat) : State :=
  match tabGet s.mod.sh.mown i with
  | none => s
  | some e =>
    if e.state ≠ 1 then s
    else
      let g := s.group e.group
      let fits := Config.mownFits e.input (g.ctx e.cctx).bits_ g.table s.tilesServing s.mod.engOut
      s.modSh .mod fun sh =>
        { sh with mown := tabSet sh.mown i { e with state := if fits then 2 else 5, tiles := s.tilesServing,
                                                    engs := s.mod.engOut } }

/-! ### Mode (R278) and slots (R169, R273, R279) -/

/-- R269, R278: a write of the Mode switch time; a time that has passed takes effect at the next tick. -/
def State.switchTimeWrite (s : State) (p : Part) (v : Nat) : Nat × State :=
  if v % 1000000 ≠ 0 then (stRange, s)
  else
    let now := s.rackNs p
    let s' := (s.setReg p 0xC20002 v).modSh p fun sh =>
      { sh with switchAt := some (if v < now then (now / 1000 + 1) * 1000 else v) }
    (stOk, if v < now then s'.bothCount p 35 2 else s')

/-- R278: why a part may not enter Mown mode: 0 rack time, 2 alignment, 3 clocking. -/
def State.mownBar (s : State) (p : Part) : Option Nat :=
  if !s.locked p then some 0
  else match p with
    | .ep => none
    | .mod =>
      if s.mod.align ≠ 2 then some 2
      else if s.mod.sh.ports.all fun q => q.2.role != 1 || s.clockingEntry .mod q.1 == 0 then none else some 3

/-- R278: MODE_SWITCH: at the switch time a part enters or leaves Mown mode, or counts a refusal. -/
def State.modeSwitch (s : State) (p : Part) : State :=
  match (s.sh p).switchAt with
  | none => s
  | some t =>
    if s.rackNs p < t then s
    else
      let s := s.modSh p fun sh => { sh with switchAt := none }
      if s.reg p 0xC20003 = 0 then s.leaveMown p 4
      else if (s.sh p).mode = 1 then s
      else match s.mownBar p with
        | none => s.modSh p fun sh => { sh with mode := 1 }
        | some c => (s.bothCount p 41 3).mownEvent p 0 c

/-- R279: MOWN_START: an entry's slot opens at its Start time, or the entry is Missed. In Free mode it is Cancelled. -/
def State.mownStart (s : State) (i : Nat) : State :=
  match tabGet s.mod.sh.mown i with
  | none => s
  | some e =>
    let put := fun (s : State) (st : Nat) => s.modSh .mod fun sh => { sh with mown := tabSet sh.mown i { e with state := st } }
    if e.state ≠ 2 ∨ s.rackNs .mod < e.start then s
    else if s.mod.sh.mode ≠ 1 then put s 8
    else
      let g := s.group e.group
      if !g.v || g.job != e.job || g.place e.cseq != cDone then put s 6
      else put (s.openSlot e.group e.cseq e.cctx) 3

/-- R169, R279: MOWN_PIECE_SLOT: a piece's slot begins: it completes over the contributions present; a barrier releases. A
piece whose record is in spill completes once the record is back; one of a poisoned chunk has no result (R134). -/
def State.mownSlot (s : State) (i k : Nat) : State :=
  match tabGet s.mod.sh.mown i with
  | none => s
  | some e =>
    let g := s.group e.group
    match s.seqSlot e.group e.cseq with
    | none => s
    | some x =>
      let sh := g.shape x.cctx (x.size.getD 0)
      let at_ := e.slotOf sh k
      if e.state ≠ 3 ∨ s.mod.sh.mode ≠ 1 ∨ at_.1 ≠ s.plane ∨ s.rackNs .mod < at_.2 then s
      else if sh.op = 3 then
        if k ≠ 0 ∨ (x.piece 0).done then s
        else ((s.modPiece e.group e.cseq 0 fun p => { p with done := true, treeDone := true }).sendRelease e.group e.cseq).mcOn
      else if x.size.isNone || decide (sh.pieces ≤ k) || (x.piece k).done || (x.piece k).spilled ||
          x.poisoned.contains (k / 2 ^ sh.order) then s
      else (s.completePiece e.group e.cseq k).mcOn

end Sys2Proof.Machine
end

