-- ==== Sys2Proof/Machine/Verdicts.lean ====
section
/-! DEFINITION. Faults, verdicts and recovery (R282 to R301): heartbeats, suspicion and Votes, verdicts and what applying them
does, partial faults, canaries, suspects, windows, rebinds and restores. -/

namespace Sys2Proof.Machine

/-! ### Who is heard (R283, R284, R287) -/

/-- R287: the quorum. -/
def State.quorum (s : State) : Nat := s.planeCount / 2 + 1

/-- A subject of the Verdict protocol as one number: a node, or 512 + plane. -/
def subjectOf (v : VMsg) : Nat := if v.vkind = 2 ∨ v.vkind = 5 then 512 + v.subjPlane else v.subjNode

/-- The Vote, Withdraw or verdict fields of a subject. -/
def subjectMsg (kind part : Nat) : VMsg :=
  { vZero with kind := kind, vkind := if part < 512 then 1 else 2, subjNode := if part < 512 then part else 0,
               subjPlane := if part < 512 then 0 else part - 512 }

/-- R222: the route entry of a node. -/
def State.route (s : State) (node : Nat) : Route := tabGetD s.mod.routes node { v := false, fenced := false, port := 0 }

/-- R284: when the module last heard a part, in ns since reset. -/
def State.heardAt (s : State) (part : Nat) : Nat := tabGetD s.mod.ve.heard part 0

/-- R284: is the part one of the rack's, other than the module itself? -/
def State.isPart (s : State) (part : Nat) : Bool :=
  (decide (part < 512) && (s.route part).v) ||
  (decide (512 ≤ part ∧ part < 512 + s.planeCount) && part != 512 + s.plane)

/-- R284: the module votes against a part: it sends the Vote and holds it. -/
def State.vote (s : State) (part : Nat) : State :=
  let s := s.modVe fun e =>
    { e with votes := e.votes.filter (fun w => !(w.plane == s.plane && w.node == part)) ++
                        [{ plane := s.plane, node := part, at_ := s.ns }] }
  s.sendV .mod (subjectMsg 1 part)

/-- R284: SUSPICION: nothing heard from a part for 35 µs. -/
def State.suspect (s : State) (part : Nat) : State :=
  if !s.isPart part || s.suspected part || decide (s.ns < 35000 + s.heardAt part) then s
  else ((s.mgCount 5).modVe fun e => { e with suspects := tabSet e.suspects part s.ns }).vote part

/-- R284: has a heartbeat period of 10 µs passed since the module's last Vote against a part? -/
def State.voteDue (s : State) (part : Nat) : Bool :=
  !s.mod.ve.votes.any fun w => w.plane == s.plane && w.node == part && decide (s.ns < 10000 + w.at_)

/-- R284: VOTE_REPEAT: the Vote is repeated every heartbeat period while the suspicion holds. -/
def State.voteRepeat (s : State) (part : Nat) : State :=
  if s.suspected part && s.voteDue part then s.vote part else s

/-- R284: the module hears a part. -/
def State.hear (s : State) (part : Nat) : State :=
  let broken := s.suspected part || decide (35000 + s.heardAt part < s.ns) || (tabGet s.mod.ve.heardSince part).isNone
  let s := s.modVe fun e => { e with heard := tabSet e.heard part s.ns,
                                     heardSince := if broken then tabSet e.heardSince part s.ns else e.heardSince }
  if s.suspected part then
    (s.modVe fun e => { e with suspects := tabDel e.suspects part,
                               votes := e.votes.filter fun w => !(w.plane == s.plane && w.node == part) }).sendV .mod
      (subjectMsg 3 part)
  else s

/-- R287: the planes whose current Votes against a part the module holds, the subject plane's excluded. -/
def State.voters (s : State) (part : Nat) : List Nat :=
  (List.range s.planeCount).filter fun p => part != 512 + p &&
    s.mod.ve.votes.any fun w => w.plane == p && w.node == part && decide (s.ns < 20000 + w.at_)

/-! ### Heartbeats and verdicts against a part (R283, R287) -/

/-- R283, R288: HEARTBEAT: at each tenth tick a part whose firmware runs (R116, R306) sends one Heartbeat; a module also repeats
its verdicts. -/
def State.heartbeat (s : State) (p : Part) : State :=
  let tick := s.rackNs p / 1000
  if tick % 10 ≠ 0 ∨ (s.sh p).verd.beat = some tick ∨ (s.sh p).rot.boot ≠ 1 then s
  else
    let s := s.modSh p fun sh => { sh with verd := { sh.verd with beat := some tick } }
    match p with
    | .ep =>
      if s.ep.tripped || s.ep.supply != 0 || s.ep.inReset then s else s.sendV .ep vZero
    | .mod =>
      if 3 ≤ s.mod.power.state then s
      else
        let s := s.sendV .mod { vZero with number := s.mod.sh.verd.last }
        let s := s.mod.ve.repeats.foldl (fun s r => s.sendV .mod r.v) s
        s.modVe fun e => { e with repeats := (e.repeats.map fun r => { r with left := r.left - 1 }).filter fun r => r.left != 0 }

/-- R287: may the leader issue an endpoint dead or plane failed verdict against a part? -/
def State.mayCondemn (s : State) (part : Nat) : Bool :=
  s.leader == s.plane && decide (s.quorum ≤ (s.voters part).length) && (s.voters part).contains s.plane &&
  (match tabGet s.mod.ve.suspects part with
   | some t => decide (t + s.regNow .mod 0xA00003 * 1000 ≤ s.ns)
   | none => false)

/-- R287: issue it. -/
def State.condemn (s : State) (part : Nat) : State :=
  let gone := if part < 512 then s.nodeDead .mod part else s.mod.sh.verd.failed.contains (part - 512)
  let k := subjectMsg 2 part
  if gone || s.verdictPending k.vkind k.subjNode k.subjPlane || !s.mayCondemn part then s
  else s.issueVerdict k.vkind k.subjNode k.subjPlane (maskOf 16 fun p => (s.voters part).contains p)

/-! ### Receiving Verdict messages (R284 to R286, R289) -/

/-- R285: a relay endpoint sends on a module's in-band message. -/
def State.relayV (s : State) (v : VMsg) : State :=
  (s.ep.live.filter fun q => 512 + q != v.origin).foldl (fun s q =>
    s.sendInBand .ep { v with relay := false } (512 + q) q q) s

/-- R286: a Verdict message that a receiver counts and discards: its authenticator fails, its Kind is not sent, or a Reserved
field is set. -/
def State.vBad (s : State) (p : Part) (v : VMsg) : Bool := !s.macRight p v || decide (4 < v.kind) || v.reserved

/-- R284, R288: a module hears another part; a module that numbers verdicts above it is read from over the Directory. -/
def State.heartbeatIn (s : State) (v : VMsg) : State :=
  let s := s.hear v.origin
  let s := if 512 ≤ v.origin ∧ serialAfter v.number s.mod.ve.seen then s.modVe fun e => { e with seen := v.number } else s
  if 512 ≤ v.origin ∧ serialAfter v.number s.mod.sh.verd.last ∧
      ¬ s.mod.sh.verd.pending.any (fun x => x.v.number == v.number) then
    s.emit (.verdictRead v.origin v.number)
  else s

/-- R286, R259: a Verdict message reaches a part, on a timing lane or in-band: a packet whose header fails is malformed input (R6,
R75). -/
def State.verdictIn (s : State) (p : Part) (v : VMsg) (inBand : Bool) : State :=
  let mine := fun (k : Packet) => k.typ == 0x30 && k.payload.take 24 == (vPayload v).take 24
  match (if inBand then s.expired p mine else none) with
  | some (f, c) => s.dropFrame f c
  | none =>
  let k := (s.waitingFor p mine).getD Packet.zero
  let s := if inBand then s.takeIn p mine else s
  if inBand && (k.reserved || k.job != 0) then s.malformed p k.plane
  else if s.vBad p v then (if p = Part.mod then s.mgCount 6 else s)
  else match p with
    | .ep =>
      let s := if inBand && v.relay && decide (512 ≤ k.src) && !s.ep.selfDead then s.relayV v else s
      if v.kind = 2 then s.takeVerdict .ep v else s
    | .mod => match v.kind with
      | 0 => s.heartbeatIn v
      | 1 =>
        if v.origin < 512 ∨ (v.vkind ≠ 1 ∧ v.vkind ≠ 2) then s
        else s.modVe fun e =>
          { e with votes := e.votes.filter (fun w => !(w.plane == v.origin - 512 && w.node == subjectOf v)) ++
                              [{ plane := v.origin - 512, node := subjectOf v, at_ := s.ns }] }
      | 2 => s.takeVerdict .mod v
      | 3 => s.modVe fun e => { e with votes := e.votes.filter fun w => !(512 + w.plane == v.origin && w.node == subjectOf v) }
      | _ =>
        if v.reason = 1 ∧ 512 ≤ v.origin then
          if s.leader = s.plane ∧ ¬ s.mod.sh.verd.failed.contains (v.origin - 512) ∧
              ¬ s.verdictPending 2 0 (v.origin - 512) then s.issueVerdict 2 0 (v.origin - 512) 0 else s
        else if v.reason = 4 ∧ v.origin < 512 then s.modVe fun e => { e with suspectMask := setIns e.suspectMask v.origin }
        else s

/-- R257 to R259: a whole message is checked and handed on. -/
def State.takeTiming (s : State) (p : Part) (l : Nat) (m : TlMsg) : State :=
  if m.bad || (match m.body with
      | .undefined => true
      | _ => false) then s.count p 0x09 l 0 1
  else if !m.broadcast && m.dest != s.node p then s
  else if (match m.body with
      | .verdict v => s.vBad p v
      | _ => false) then (if p = Part.mod then s.mgCount 6 else s).count p 0x09 l 0 1
  else if !(s.sh p).tl.isNew m.source m.seq then s
  else
    let s := s.modSh p fun sh => { sh with tl := sh.tl.note m.source m.seq }
    match m.body, p with
    | .verdict v, _ => s.verdictIn p v false
    | .barrier b, .ep => s.barrierRelease b
    | _, _ => s

/-- R255, R256: what a timing lane has brought of a message so far. -/
def State.setTiming (s : State) (p : Part) (l : Nat) (t : TlPart) : State :=
  s.modSh p fun sh => { sh with tl := if l = 0 then { sh.tl with partA := t } else { sh.tl with partB := t } }

/-- R255 to R259: TIMING_LANE_MESSAGE: the next characters of a timing lane; the messages that end in them are taken, and the
control characters that are not sent are counted and ignored. -/
def State.timingIn (s : State) (p : Part) (l : Nat) (chars : List TlChar) : State :=
  let t := (s.sh p).tl
  let r := chars.foldl TlRead.next { part := if l = 0 then t.partA else t.partB, whole := [], others := 0 }
  let s := s.setTiming p l r.part
  let s := if r.others = 0 then s else s.count p 0x09 l 0 r.others
  r.whole.foldl (fun s m => s.takeTiming p l (readMessage m)) s

/-- R255: ABORT: the message in progress on a lane is discarded. -/
def State.abortMessage (s : State) (p : Part) (l : Nat) : State := s.setTiming p l { chars := [], skip := 0 }

/-! ### Applying verdicts (R288 to R290, R299, R300) -/

/-- Change a node's route entry. -/
def State.modRoute (s : State) (node : Nat) (f : Route → Route) : State :=
  let z : Route := { v := false, fenced := false, port := 0 }
  s.modMod fun m => { m with routes := tabPut m.routes node (f (tabGetD m.routes node z)) z }

/-- R300: a fenced module returns: its ports return to their roles, its regions follow R202. -/
def State.unfence (s : State) : State :=
  let s := s.modVe fun e => { e with fenced := false, training := false }
  s.rolesApply.regionsRejoin

/-- R289: the module is named by a Plane failed verdict. -/
def State.fenceSelf (s : State) : State := ((s.modVe fun e => { e with fenced := true, training := false }).stopPorts).fenceOn

/-- R289, R296, R299, R300: what a verdict does at a module. -/
def State.applyMod (s : State) (v : VMsg) : State :=
  let n := v.subjNode
  let pl := v.subjPlane
  let vd := fun (f : Verdicts → Verdicts) => s.modSh .mod fun sh => { sh with verd := f sh.verd }
  match v.vkind with
  | 1 =>
    ((vd fun d => { d with dead := setIns d.dead n }).modRoute n fun r => { r with fenced := true }).modVe fun e =>
      { e with deadAt := tabSet e.deadAt n s.ns }
  | 2 =>
    let s := vd fun d => { d with failed := setIns d.failed pl }
    if pl = s.plane then s.fenceSelf else s
  | 3 => if pl = s.plane then s.modRoute n fun r => { r with fenced := true } else s
  | 4 => if pl = s.plane then s.modRoute n fun r => { r with fenced := false } else s
  | 5 =>
    let s := (vd fun d => { d with failed := d.failed.filter fun q => q != pl }).modVe fun e =>
      { e with restores := e.restores.filter fun q => q != pl }
    if pl = s.plane then s.unfence else s
  | 6 =>
    let s := (vd fun d => { d with dead := d.dead.filter fun q => q != n }).modRoute n fun r => { r with fenced := false }
    let s := s.modMod fun m => { m with late := tabDel m.late n }
    let s := s.modVe fun e => { e with suspectMask := e.suspectMask.filter (fun q => q != n), deadAt := tabDel e.deadAt n,
                                       rebinds := e.rebinds.filter fun q => q != n }
    s.modRecv .mod fun r => { r with recs := r.recs.filter fun x => x.src != rackNode (s.rack .mod) n }
  | 7 => s.modVe fun e => { e with suspectMask := setIns e.suspectMask n }
  | 8 => s.modVe fun e => { e with suspectMask := e.suspectMask.filter fun q => q != n }
  | _ => s

/-- R95: every incomplete request that an endpoint has to a node completes with Poison. -/
def State.poisonNode (s : State) (node : Nat) : State :=
  (s.ep.sh.reqs.filter fun r => r.translated && r.pkt.dst == node && r.pkt.dstRack == s.rack .ep).foldl (fun s r =>
    s.endReq .ep r.id cPoison []) s

/-- R290: the endpoint is declared dead: every incomplete request completes with Poison. -/
def State.dieSelf (s : State) : State :=
  let s := s.modEp fun e => { e with selfDead := true }
  s.ep.sh.reqs.foldl (fun s r => s.endReq .ep r.id cPoison []) s

/-- R119, R289: a port failed verdict: the exclusion is installed, up to 64 of them. -/
def State.exclude (s : State) (node plane : Nat) : State :=
  if s.ep.exclusions.contains (node, plane) then s
  else if 64 ≤ s.ep.exclusions.length then s.epCount 25
  else (s.modEp fun e => { e with exclusions := e.exclusions ++ [(node, plane)] }).jobNotice 4 0 plane node

/-- R289: a port restored verdict: the exclusion is cleared. -/
def State.unexclude (s : State) (node plane : Nat) : State :=
  if s.ep.exclusions.contains (node, plane) then
    (s.modEp fun e => { e with exclusions := e.exclusions.filter fun x => x != (node, plane) }).jobNotice 5 0 plane node
  else s

/-- R289, R290, R299, R300: what a verdict does at an endpoint. -/
def State.applyEp (s : State) (v : VMsg) : State :=
  let n := v.subjNode
  let pl := v.subjPlane
  let vd := fun (f : Verdicts → Verdicts) => s.modSh .ep fun sh => { sh with verd := f sh.verd }
  match v.vkind with
  | 1 =>
    let s := vd fun d => { d with dead := setIns d.dead n }
    let s := (s.ep.exclusions.filter fun x => x.1 == n).foldl (fun s x => s.unexclude x.1 x.2) s
    if n = s.node .ep then s.dieSelf else s.poisonNode n
  | 2 => ((vd fun d => { d with failed := setIns d.failed pl }).planeVerdict pl).replane pl
  | 3 => s.exclude n pl
  | 4 => s.unexclude n pl
  | 5 =>
    let s := vd fun d => { d with failed := d.failed.filter fun q => q != pl }
    if s.ep.sh.portActive pl then
      (s.modEp fun e => { e with portsLost := e.portsLost.filter fun q => q != pl }).planeIn pl
    else s.report .ep 0 (s.node .ep) pl
  | 6 =>
    let s := vd fun d => { d with dead := d.dead.filter fun q => q != n }
    if n = s.node .ep then s.modEp fun e => { e with selfDead := false }
    else s.restartPair .ep (rackNode (s.rack .ep) n)
  | _ => s

/-- R288, R341: VERDICT_APPLY: 10 µs after it was first received, in ascending number. -/
def State.applyVerdict (s : State) (p : Part) (number : Nat) : State :=
  let d := (s.sh p).verd
  match d.pending.find? fun x => x.v.number == number with
  | none => s
  | some x =>
    if s.ns < 10000 + x.at_ ∨ d.pending.any fun y => serialAfter number y.v.number then s
    else
      let s := s.modSh p fun sh => { sh with verd := { sh.verd with
        last := number, pending := delFirst (fun y => y.v.number == number) sh.verd.pending,
        records := (x.v :: sh.verd.records).take 64 } }
      let s := s.logEvent p 1 0x0007 0 (beNat ((vPayload x.v).take 14))
      match p with
      | .ep => s.applyEp x.v
      | .mod => s.applyMod x.v

/-! ### Port verdicts and quorum loss (R289) -/

/-- The port of a node and how it stands. -/
def State.nodePort (s : State) (node : Nat) : Option (Nat × Port) :=
  if (s.route node).v then some ((s.route node).port, s.port .mod (s.route node).port) else none

/-- R289: PORT_FAILED: a node's port has been down for the port confirmation time and the node is not suspected. -/
def State.portFailed (s : State) (node : Nat) : State :=
  match s.nodePort node with
  | none => s
  | some (_, q) =>
    if q.state = 7 ∨ (s.route node).fenced ∨ s.suspected node ∨ s.mod.ve.fenced ∨ s.verdictPending 3 node s.plane ∨
        s.ns < q.downSince + s.regNow .mod 0xA00007 * 1000 then s
    else s.issueVerdict 3 node s.plane 0

/-- R289: PORT_RESTORED: a node's port has been Active for the restore hold. -/
def State.portRestored (s : State) (node : Nat) : State :=
  match s.nodePort node with
  | none => s
  | some (_, q) =>
    if q.state ≠ 7 ∨ ¬ (s.route node).fenced ∨ s.nodeDead .mod node ∨ s.verdictPending 4 node s.plane ∨
        s.ns < q.activeSince + 1000000 * s.regNow .mod 0xA00008 then s
    else s.issueVerdict 4 node s.plane 0

/-- R284: the other planes that the module hears at a time, by the last unbroken run of each plane's Heartbeats. -/
def State.planesHeard (s : State) (t : Nat) : Nat :=
  ((List.range s.planeCount).filter fun p => p != s.plane &&
    decide (tabGetD s.mod.ve.heardSince (512 + p) 0 ≤ t ∧ t < 35000 + s.heardAt (512 + p))).length

/-- R289: QUORUM_LOSS_FENCE: fewer than quorum − 1 other planes heard throughout one confirmation period: at its start and at each
moment in it at which a plane began to be heard. -/
def State.quorumLoss (s : State) : State :=
  let conf := s.regNow .mod 0xA00003 * 1000
  let times := (s.ns - conf) :: (s.mod.ve.heardSince.map fun x => x.2).filter fun t => decide (s.ns < t + conf)
  if conf ≤ s.ns ∧ times.all fun t => decide (s.planesHeard t < s.quorum - 1) then s.selfFence.fenceOn else s

/-! ### Rebind and restore (R299, R300) -/

/-- R299: a Rebind request. -/
def State.rebindRequest (s : State) (val : List Byte) : Nat × State :=
  let n := beNat val
  if val.length ≠ 2 ∨ !s.nodeDead .mod n then (stRange, s)
  else (stOk, s.modVe fun e => { e with rebinds := setIns e.rebinds n })

/-- R300: a Plane restore request; the module that it names trains its ports. -/
def State.restoreRequest (s : State) (val : List Byte) : Nat × State :=
  let n := beNat val
  if val.length ≠ 1 ∨ !s.mod.sh.verd.failed.contains n then (stRange, s)
  else (stOk, s.modVe fun e => { e with restores := setIns e.restores n, training := e.training || n == s.plane })

/-- R299, R300: has a quorum of planes, this one among them, heard a part throughout the restore hold? A plane that sends no
current Vote against the part hears it. -/
def State.heardByQuorum (s : State) (part : Nat) : Bool :=
  let hold := 1000000 * s.regNow .mod 0xA00008
  decide (s.quorum + (s.voters part).length ≤ s.planeCount) && !s.suspected part &&
  (match tabGet s.mod.ve.heardSince part with
   | some t => decide (t + hold ≤ s.ns ∧ s.ns ≤ 35000 + s.heardAt part)
   | none => false)

/-- R287, R299, R300: VERDICT_ISSUE: the module issues a verdict when its conditions hold. `ready`: the module to be restored
reports every Down port Active. -/
def State.verdictIssue (s : State) (vkind node plane : Nat) (ready : Bool) : State :=
  match vkind with
  | 1 => if node < 512 then s.condemn node else s
  | 2 => if plane < s.planeCount then s.condemn (512 + plane) else s
  | 3 => s.portFailed node
  | 4 => s.portRestored node
  | 5 =>
    if ready ∧ s.leader = s.plane ∧ s.mod.ve.restores.contains plane ∧ s.mod.sh.verd.failed.contains plane ∧
        s.heardByQuorum (512 + plane) ∧ ¬ s.verdictPending 5 0 plane then s.issueVerdict 5 0 plane 0 else s
  | 6 =>
    if s.leader = s.plane ∧ s.mod.ve.rebinds.contains node ∧ s.nodeDead .mod node ∧ s.heardByQuorum node ∧
        200000000 + tabGetD s.mod.ve.deadAt node 0 ≤ s.ns ∧ ¬ s.verdictPending 6 node 0 then s.issueVerdict 6 node 0 0 else s
  | _ => s

/-! ### Partial module faults (R18, R292) -/

/-- R280, R292: what a tile that is out of service takes with it: its ports, the frames that wait for it and its Mown entries;
the pieces homed on it complete no more (`State.pieceFull`). The module reports it, and fences itself when too many are out. -/
def State.tileClean (s : State) (t : Nat) : State :=
  let s := (List.range 4).foldl (fun s i =>
    let n := firstPort t + i
    (s.goDown .mod n).modPort .mod n fun q => if q.role = 0 then q else { q with state := 1, width := 0, lanes := 0 }) s
  let s := (s.mod.frames.filter fun f => f.dtile == t && f.place != 3).foldl (fun s f => s.dropFrame f 6) s
  let s := (s.mownTileLost t).report .mod 3 0 s.plane
  let out := ((List.range 64).filter fun t => !(s.tile t).inService).length
  if s.regNow .mod 0xA60001 ≤ out then s.selfFence.fenceOn else s

/-- R280, R292: a tile goes out of service. -/
def State.tileOut (s : State) (t : Nat) : State :=
  if !(s.tile t).inService then s else (s.modTile t fun x => { x with inService := false }).tileClean t

/-- R280, R292: a Windrow engine is withdrawn: the entries that name it fall back. -/
def State.engineOut (s : State) (e : Nat) : State :=
  let hit := s.mod.sh.mown.filter fun x => x.2.names (e / 8) && !x.2.engs.contains e
  hit.foldl (fun s x => s.mownFallback x.1) (s.modMod fun m => { m with engOut := setIns m.engOut e })

/-- R18, R292: a management core pair stops; the other takes over Directory service. -/
def State.coreStop (s : State) (pair : Nat) : State :=
  if 2 ≤ pair ∨ s.mod.coresStopped.contains pair then s
  else
    let s := s.modMod fun m => { m with coresStopped := setIns m.coresStopped pair, sessions := [],
                                        dirCore := if m.dirCore = pair then 1 - pair else m.dirCore }
    let s := s.modSh .mod fun sh => { sh with assemblies := [], snaps := [] }
    let s := (s.logEvent .mod 2 0x0010 0 (pair * 2 ^ 104)).report .mod 6 0 s.plane
    if s.mod.coresStopped.length = 2 then s.selfFence.fenceOn else s

/-- R292: the Verdict engine misses its watchdog: every port stops, and the module falls silent. -/
def State.engineWatchdog (s : State) : State :=
  ((s.modVe fun e => { e with stopped := true, fenced := true, training := false }).stopPorts).fenceOn

/-- R292: a root-of-trust core fault. -/
def State.rotFault (s : State) : State := s.selfFence.fenceOn

/-- R292: a die-crossing domain fault. -/
def State.crossingFault (s : State) (d : Nat) : State := if 64 ≤ d ∧ d < 68 then s.selfFence.fenceOn else s

/-! ### Canaries and corruption reports (R293, R294) -/

/-- R293: an engine fails its canary, which started at a time. -/
def State.canaryFail (s : State) (e at_ : Nat) : State :=
  let s := (s.engineOut e).count .mod 0x05 e 6 1
  let s := s.logEvent .mod 2 0x0009 0 (e * 2 ^ 103 + tabGetD s.mod.canaryLast e 0 * 2 ^ 39)
  let s := s.logEvent .mod 2 0x0008 0 (5 * 2 ^ 104 + s.plane * 2 ^ 90)
  s.sendV .mod { vZero with kind := 4, subjPlane := s.plane, reason := 5, time := at_ }

/-- R293: the start of an engine's canary in the present period, once it has come. -/
def State.canaryStart (s : State) (e : Nat) : Option Nat :=
  let p := 1000000 * s.regNow .mod 0xA30001
  let now := s.rackNs .mod
  let at_ := now / max 1 p * p + e * (p / 512)
  if at_ ≤ now then some at_ else none

/-- R280, R293: is an engine named by a Ready or Running Mown entry? -/
def State.engineNamed (s : State) (e : Nat) : Bool := s.mod.sh.mown.any fun x => x.2.names (e / 8) && !x.2.engs.contains e

/-- The version of the bundle that runs; 0 for none. -/
def Rot.version (r : Rot) : Nat :=
  match r.running with
  | some b => b.version
  | none => 0

/-- R293: the canary of the present period, which started at a time, has run with two digests. -/
def State.canaryRun (s : State) (e exact ordered : Nat) : Option Nat → State
  | none => s
  | some at_ =>
    if 512 ≤ e ∨ tabGet s.mod.canaryLast e = some at_ ∨ s.mod.engOut.contains e ∨ (s.mod.sh.mode = 1 ∧ s.engineNamed e) then s
    else
      let ver := s.mod.sh.rot.version
      if exact = Config.canaryDigest 0 ver ∧ ordered = Config.canaryDigest 1 ver then
        s.modMod fun m => { m with canaryLast := tabSet m.canaryLast e at_ }
      else s.canaryFail e at_

/-- R293: CANARY: an engine's canary has run, with the two digests that it computed. -/
def State.canary (s : State) (e exact ordered : Nat) : State := s.canaryRun e exact ordered (s.canaryStart e)

/-- R294: a corruption report; `failing`: the engines that then fail their canaries. -/
def State.corruption (s : State) (a : Access) (val : List Byte) (failing : List Nat) : Nat × State :=
  let w := beNat val
  let job := bits w 127 112
  if val.length ≠ 16 ∨ s.partitionOf job ≠ a.partition then (stRange, s)
  else
    let bad := (List.range 512).filter fun e => failing.contains e && !s.mod.engOut.contains e
    let s := s.mgCount 8
    let s := bad.foldl (fun s e => s.canaryFail e (s.rackNs .mod)) s
    (stOk, s.logEvent .mod 1 0x000A job (bits w 111 98 * 2 ^ 96 + bits w 95 64 * 2 ^ 64 + bad.length * 2 ^ 48))

/-! ### Suspects (R295, R296) -/

/-- R296: the three conditions on a lateness record. -/
def State.lateSuspect (s : State) (r : Lateness) : Bool :=
  decide (s.regNow .mod 0xA50002 ≤ r.barriers ∧ s.regNow .mod 0xA50003 * r.barriers ≤ r.last * 1000 ∧ 0 < r.barriers ∧
    s.regNow .mod 0xA50004 * r.barriers ≤ r.sum)

/-- R296: SUSPECT_EVALUATION, at the end of an evaluation period. -/
def State.suspectEval (s : State) : State :=
  if s.epochOf .mod % max 1 (s.regNow .mod 0xA50001) ≠ 0 then s
  else
    let bad := s.mod.late.filter fun r => s.lateSuspect r.2
    let s := bad.foldl (fun s r =>
      (s.modVe fun e => { e with suspectMask := setIns e.suspectMask r.1 }).issueVerdict 7 r.1 0 0) s
    s.modMod fun m => { m with late := [] }

/-- R296: CLEAR_SUSPECT. -/
def State.clearSuspect (s : State) (val : List Byte) : Nat × State :=
  let n := beNat val
  if val.length ≠ 2 ∨ 511 < n then (stRange, s)
  else (stOk, (s.modVe fun e => { e with suspectMask := e.suspectMask.filter fun q => q != n }).issueVerdict 8 n 0 0)

/-- R230, R295: EPOCH_AUDIT: the audit of a part, and its persistence. -/
def State.epochAudit (s : State) (p : Part) : State :=
  match p with
  | .mod =>
    let limit := s.regNow .mod 0xA60003
    let s := (List.range 64).foldl (fun s t => s.auditTile t) s
    ((List.range 64).filter fun t => decide (limit ≤ (s.tile t).auditRun) && (s.tile t).inService).foldl (fun s t =>
      (s.report .mod 4 0 s.plane).tileOut t) s
  | .ep =>
    let s := s.auditWindows
    if s.reg .ep 0xA60003 ≤ s.ep.auditRun then
      (s.report .ep 4 (s.node .ep) 0).modEp fun e => { e with auditRun := 0 }
    else s

/-! ### Windows (R297, R298) -/

/-- The layout of a window entry, and its Reserved field. -/
def windowOf (w : Nat) : Window × Nat :=
  ({ kind := bits w 127 124, target := bits w 123 114, start := bits w 113 50, length := bits w 49 34, action := bits w 33 32,
     state := 1 }, bits w 31 0)

/-- A window entry as it reads. -/
def Window.word (x : Window) : Nat :=
  x.kind * 2 ^ 124 + x.target * 2 ^ 114 + x.start * 2 ^ 50 + x.length * 2 ^ 34 + x.action * 2 ^ 32

/-- A window entry that holds nothing. -/
def Window.zero : Window where
  kind := 0
  target := 0
  start := 0
  length := 0
  action := 0
  state := 0

/-- R297: is the target of a window in range? -/
def windowTarget (p : Part) (x : Window) : Bool :=
  match p, x.kind with
  | .mod, 0 => decide (x.target < 512)
  | .mod, 1 => decide (x.target < 64)
  | .mod, 2 => decide (x.target < 1024)
  | .ep, 2 => decide (x.target < 64)
  | .ep, 3 => decide (x.target < 32)
  | _, _ => false

/-- R254, R297: is a lane in service? -/
def State.laneServes (s : State) (p : Part) (l : Nat) : Bool :=
  let n := s.portOfLane p l
  (s.port p n).state == 7 && bit (s.port p n).lanes ((s.port p n).indexOf (l - 4 * n))

/-- R297: the targets that windows accepted on a part withdraw for a while in which another window runs too. -/
def windowsOut (l : Tab Window) (x : Window) : List Nat :=
  (l.filter fun y => y.2.kind == x.kind && (y.2.state == 1 || y.2.state == 2) &&
    decide (y.2.start < x.start + x.length * 1000 ∧ x.start < y.2.start + y.2.length * 1000)).map fun y => y.2.target

/-- R297: does the pool allow the withdrawal that a window asks for? -/
def State.poolAllows (s : State) (x : Window) : Bool :=
  match x.kind with
  | 0 =>
    let out := (windowsOut s.mod.sh.windows x).foldl setIns (setIns s.mod.engOut x.target)
    decide (out.length ≤ 64) && decide (4 ≤ ((List.range 8).filter fun i => !out.contains (x.target / 8 * 8 + i)).length)
  | 1 =>
    (s.tile x.target).inService &&
    decide (((List.range 64).filter fun t => (s.tile t).withdrawn && t != x.target).length + 1 ≤ 4)
  | 2 => true
  | _ => decide (((windowsOut s.ep.sh.windows x).foldl setIns (setIns s.ep.enginesOut x.target)).length ≤ 8)

/-- R297, R280: WINDOW_ENTRY_WRITE. -/
def State.windowWrite (s : State) (p : Part) (i : Nat) (val : List Byte) : Nat × State :=
  let r := windowOf (beNat val)
  let x := r.1
  let old := tabGetD (s.sh p).windows i Window.zero
  let ends := x.start + x.length * 1000
  let meets := (s.sh p).windows.any fun y => y.1 != i && (y.2.state == 1 || y.2.state == 2) && y.2.kind == x.kind &&
    y.2.target == x.target && decide (y.2.start < ends ∧ x.start < y.2.start + y.2.length * 1000)
  if val.length ≠ 16 ∨ r.2 ≠ 0 ∨ !windowTarget p x ∨ x.length = 0 ∨ 1 < x.action ∨ (x.action = 1 ∧ x.kind ≠ 2) ∨
      x.start % 1000 ≠ 0 ∨ x.start < 100000 + s.rackNs p ∨ meets ∨ (x.kind = 2 ∧ s.laneServes p x.target) ∨ !s.poolAllows x then
    (stRange, s)
  else if old.state = 1 ∨ old.state = 2 then (stBusy, s)
  else if p = Part.mod ∧ ((x.kind = 0 ∧ s.engineNamed x.target) ∨
      (x.kind = 1 ∧ s.mod.sh.mown.any fun e => e.2.names x.target)) then (stBusy, s)
  else
    let s := s.modSh p fun sh => { sh with windows := tabSet sh.windows i x }
    (stOk, if x.kind = 1 then s.modTile x.target fun t => { t with withdrawn := true } else s)

/-- Put a window in a state. -/
def State.windowState (s : State) (p : Part) (i st : Nat) : State :=
  s.modSh p fun sh => { sh with windows := tabMod sh.windows i fun x => { x with state := st } }

/-- R298: WINDOW_START. -/
def State.windowStart (s : State) (p : Part) (i : Nat) : State :=
  match tabGet (s.sh p).windows i with
  | none => s
  | some x =>
    if x.state ≠ 1 ∨ s.rackNs p < x.start then s
    else if x.start + x.length * 1000 ≤ s.rackNs p then
      let s := s.windowState p i 5
      let s := if p = Part.mod ∧ x.kind = 1 then s.modTile x.target fun t => { t with withdrawn := false } else s
      if p = Part.mod then s.mgCount 10 else s
    else if p = Part.mod ∧ x.kind = 1 ∧ s.mod.groups.any (fun g => g.2.slots.any fun y => y.2.state != 3 && y.2.tiles.contains x.target) then s
    else if x.kind = 2 ∧ s.laneServes p x.target then s
    else
      let s := s.windowState p i 2
      match p, x.kind with
      | .mod, 0 => s.engineOut x.target
      | _, 2 => s.modSh p fun sh => { sh with lanesOut := setIns sh.lanesOut x.target }
      | .ep, 3 => s.modEp fun e => { e with enginesOut := setIns e.enginesOut x.target }
      | _, _ => s

/-- R298, R292: WINDOW_END: the test passes or fails. -/
def State.windowEnd (s : State) (p : Part) (i : Nat) (passed : Bool) : State :=
  match tabGet (s.sh p).windows i with
  | none => s
  | some x =>
    if x.state ≠ 2 then s
    else if passed || x.action == 1 then
      let s := s.windowState p i 3
      match p, x.kind with
      | .mod, 0 => s.modMod fun m => { m with engOut := m.engOut.filter fun e => e != x.target }
      | .mod, 1 => s.modTile x.target fun t => { t with withdrawn := false }
      | _, 2 => s.modSh p fun sh => { sh with lanesOut := sh.lanesOut.filter fun l => l != x.target }
      | .ep, 3 => s.modEp fun e => { e with enginesOut := e.enginesOut.filter fun g => g != x.target }
      | _, _ => s
    else
      let s := s.windowState p i 4
      let s := if p = Part.mod then s.mgCount 9 else s
      match p, x.kind with
      | .mod, 0 => s.report .mod 5 0 s.plane
      | .mod, 1 => s.report .mod 3 0 s.plane
      | _, _ => s

end Sys2Proof.Machine
end

