-- ==== Sys2Proof/Machine/EndpointCare.lean ====
section
/-! DEFINITION. The endpoint's UCIe links (R99, R102), its temperature and its supplies (R121, R122). -/

namespace Sys2Proof.Machine

/-! ### UCIe links (R99, R102) -/

/-- A link that is out of service. -/
def EriLink.down : EriLink where
  up := false
  lost := false
  sentInit := false
  gotInit := false
  reqCr := 0
  respCr := 0
  compCr := 0
  memCr := 0
  owed := 0
  owedResp := 0

/-- A UCIe link. -/
def State.eriLink (s : State) (l : Nat) : EriLink := tabGetD s.ep.links l EriLink.down

/-- Put a UCIe link. -/
def State.setEriLink (s : State) (l : Nat) (x : EriLink) : State := s.modEp fun e => { e with links := tabSet e.links l x }

/-- R99, R365: may a UCIe link come up? -/
def State.linkMayUp (s : State) (l : Nat) : Bool :=
  decide (l < 8) && bit (s.reg .ep 0xD10001) l && !(s.eriLink l).lost && !s.ep.tripped && !s.ep.inReset &&
  s.ep.sh.clk.crystal != 2

/-- R102: UCIE_LINK_UP: a link comes up; the endpoint sends Init with the credits that it grants. -/
def State.linkComesUp (s : State) (l : Nat) : State :=
  if !s.linkMayUp l || s.linkUp l then s
  else
    (s.setEriLink l { EriLink.down with up := true, sentInit := true, reqCr := eriGrant, respCr := eriGrant }).emit
      (.eri l { Eri.zero with kind := 0x3E, aux := creditAux 0 eriGrant + creditAux 1 eriGrant })

/-- R102: INIT: the accelerator's Init: the credits that the endpoint may use; what waited for it leaves. -/
def State.initIn (s : State) (l : Nat) (m : Eri) : State :=
  if !s.linkUp l then s
  else if m.kind != 0x3E || !m.unusedZero then s.epCount 0
  else (((s.modLink l fun k => { k with gotInit := true, compCr := creditOf m.aux 2, memCr := creditOf m.aux 3 }).payResp
    l).payOwed).flushTx

/-- R102: CREDIT: credits come back. -/
def State.creditIn (s : State) (l : Nat) (m : Eri) : State :=
  if !s.linkUp l then s
  else if m.kind != 0x3F || !m.unusedZero then s.epCount 0
  else (s.modLink l fun k => { k with compCr := k.compCr + creditOf m.aux 2, memCr := k.memCr + creditOf m.aux 3 }).flushTx

/-- R99: UCIE_LINK_LOST: a link cannot be repaired: it leaves service until its enable entry is written 0 and then 1. -/
def State.linkLost (s : State) (l : Nat) : State :=
  if !s.linkUp l then s
  else
    let s := (s.setEriLink l { EriLink.down with lost := true }).logEvent .ep 2 0x0002 0 (l * 2 ^ 104)
    (s.report .ep 7 (s.node .ep) 0).flushTx

/-- R99: a write of UCIe link enable: a link that is disabled leaves service, and may come up once it is enabled again. -/
def State.linkEnableWrite (s : State) (v : Nat) : Nat × State :=
  let s := s.setReg .ep 0xD10001 v
  (stOk, ((List.range 8).filter fun l => !bit v l).foldl (fun s l =>
    if (tabGet s.ep.links l).isSome then s.setEriLink l EriLink.down else s) s)

/-! ### Temperature and supplies (R121, R122) -/

/-- R121, R122: the endpoint stops every port and every UCIe link. -/
def State.stopEndpoint (s : State) : State :=
  let s := (List.range 16).foldl (fun s p => s.planeOut p) s
  let s := s.modSh .ep fun sh => { sh with
    ports := sh.ports.map (fun q => (q.1, { q.2 with state := 0, width := 0, lanes := 0, replay := [], queue := [], wc := none })),
    lanes := sh.lanes.map fun x => (x.1, { x.2 with state := 0, blockLock := false }) }
  s.modEp fun e => { e with links := e.links.map fun k => (k.1, { k.2 with up := false, gotInit := false }) }

/-- R121: THROTTLE_TEMPERATURE: the die temperature against the throttle temperature. -/
def State.throttleTemp (s : State) (t : Int) : State :=
  s.modEp fun e => { e with temp := t, throttled := decide (signedOf 32 (s.reg .ep 0xD90002) ≤ t) }

/-- R121: ENDPOINT_THERMAL_TRIP at 110 °C. -/
def State.endpointTrip (s : State) (t : Int) : State :=
  let s := s.modEp fun e => { e with temp := t }
  if t < 110000 then s
  else ((s.modEp fun e => { e with tripped := true }).logEvent .ep 2 0x0003 0 (patternOf 32 t * 2 ^ 80)).stopEndpoint

/-- R122: SUPPLY_OUT_OF_RANGE: the endpoint stops and holds itself in reset. -/
def State.supplyOut (s : State) (n : Nat) : State :=
  if 7 ≤ n then s
  else
    let s := s.logEvent .ep 2 0x0006 0 (n * 2 ^ 104)
    (s.modEp fun e => { e with supply := e.supply ||| 2 ^ n, inReset := true }).stopEndpoint

end Sys2Proof.Machine
end

