-- ==== Sys2Proof/Machine/Clocks.lean ====
section
/-! DEFINITION. Clock sources and domains (R364 to R373): the crystal, the multiplexers, coasting and relock. -/

namespace Sys2Proof.Machine

/-- The clock domains of a part. -/
def domainCount : Part → Nat
  | .ep => 12
  | .mod => 100

/-- R365, R367: the reference of a domain in Free mode once the crystal is stable: 0 internal oscillator, 1 crystal, 2 rack
reference. -/
def domainRef (p : Part) (d : Nat) : Nat :=
  match p with
  | .ep => if d = 9 then 2 else if d = 11 then 0 else 1
  | .mod => if d = 68 then 2 else if d = 99 then 0 else 1

/-- The coast frequency of a domain in kHz; none where it does not coast. -/
def coastKHz (p : Part) (d : Nat) : Option Nat :=
  match p with
  | .ep => if d = 0 then some 300000 else if d = 10 then some 200000 else none
  | .mod =>
    if d < 64 then some 400000 else if d < 68 then some 4000000 else if d = 68 then none else if d < 93 then some 375000
    else if d < 95 then some 250000 else if d < 98 then some 200000 else if d = 98 then some 100000 else none

/-- A domain after its start: on the internal oscillator. -/
def Domain.reset : Domain where
  ref := 0
  flags := 0
  sticky := 0
  kHz := 0
  target := none
  since := 0
  good := 0
  integerN := false

/-- A domain of a part. -/
def State.domain (s : State) (p : Part) (d : Nat) : Domain := tabGetD (s.sh p).clk.domains d Domain.reset

/-- R371: the backup reference of a domain; none where its row gives none. That of rack time is the crystal, then the internal
oscillator. -/
def State.backupRef (s : State) (p : Part) (d : Nat) : Option Nat :=
  match p with
  | .ep => if d = 0 ∨ d = 10 then some 0 else if d = 9 then some (if (s.domain .ep 9).ref = 2 then 1 else 0) else none
  | .mod =>
    if d < 68 then some (if s.locked .mod then 3 else 0)
    else if d = 68 then some (if (s.domain .mod 68).ref = 2 then 1 else 0)
    else if 93 ≤ d ∧ d < 95 then none
    else if d < 99 then some 0 else none

/-- Change a domain. -/
def State.modDomain (s : State) (p : Part) (d : Nat) (f : Domain → Domain) : State :=
  s.modSh p fun sh => { sh with clk := { sh.clk with domains := tabPut sh.clk.domains d (f (s.domain p d)) Domain.reset } }

/-- Flags of a domain with one of them set or cleared. -/
def setFlag (w n : Nat) (b : Bool) : Nat := w - w / 2 ^ n % 2 * 2 ^ n + (if b then 2 ^ n else 0)

/-- R368: a multiplexer starts toward another reference. -/
def State.muxStart (s : State) (p : Part) (d ref : Nat) : State :=
  if (s.domain p d).ref = ref then s
  else s.modDomain p d fun x => { x with target := some ref, since := s.clock, flags := setFlag x.flags 2 true,
                                         sticky := setFlag x.sticky 2 true }

/-- A multiplexer has switched. -/
def State.muxDone (s : State) (p : Part) (d : Nat) : State :=
  s.modDomain p d fun x => { x with ref := x.target.getD x.ref, target := none, good := 0,
                                    flags := setFlag (setFlag (setFlag x.flags 2 false) 3 false) 4 false }

/-! ### Sources (R364, R365) -/

/-- R365, R371: the PLLs of a part move to their own references. -/
def State.refsReturn (s : State) (p : Part) : State :=
  (List.range (domainCount p)).foldl (fun s d => s.muxStart p d (domainRef p d)) s

/-- R365: CRYSTAL_STABLE: the crystal is declared stable; the PLLs move to their references. -/
def State.crystalStable (s : State) (p : Part) : State :=
  if (s.sh p).clk.crystal ≠ 0 then s
  else
    (s.modSh p fun sh => { sh with clk := { sh.clk with crystal := 1 } }).refsReturn p

/-- R365: CRYSTAL_TIMEOUT: the crystal is not stable 20 ms after the start. -/
def State.crystalTimeout (s : State) (p : Part) : State :=
  if (s.sh p).clk.crystal ≠ 0 ∨ s.clock < 100000000 + (s.sh p).clk.started then s
  else (s.modSh p fun sh => { sh with clk := { sh.clk with crystal := 2 } }).bothCount p 36 19

/-- R364: OSCILLATOR_RETRIM: the oscillator's frequency as measured against the crystal. -/
def State.retrim (s : State) (p : Part) (kHz : Nat) : State :=
  if (s.sh p).clk.crystal ≠ 1 then s else s.modSh p fun sh => { sh with clk := { sh.clk with oscKHz := kHz } }

/-! ### Alignment attempts (R271, R372) -/

/-- R271: an attempt fails: a second one follows at the next epoch boundary, and its failure ends the request. -/
def State.alignFail (s : State) (bad : List Nat) : State :=
  if s.mod.alignTry ≤ 3 then s.modMod fun m => { m with alignTry := 4, alignAt := 1000000 * s.nextEpoch .mod }
  else
    let s := s.modMod fun m => { m with align := 3, alignTry := 0, alignBad := bad }
    s.modSh .mod fun sh => { sh with clk := { sh.clk with returnAt := some (1000000 * s.nextEpoch .mod) } }

/-- R272, R372: a covered domain's PLL loses lock or its reference. -/
def State.coveredLost (s : State) (d : Nat) : State :=
  if 69 ≤ d then s
  else if s.mod.align = 1 ∧ s.mod.alignTry ≠ 4 then s.alignFail [d]
  else s.alignLost 2

/-! ### Monitors, coasting, relock (R369 to R372) -/

/-- R370: CLOCK_MONITOR_WINDOW: the flags that a window raises (bits 1, 3 and 4 of 0x3010.04) and the frequency measured. -/
def State.monitorWindow (s : State) (p : Part) (d flags kHz : Nat) : State :=
  if domainCount p ≤ d then s
  else
    let bad := bit flags 3 || bit flags 4
    let s := s.modDomain p d fun x =>
      let f := setFlag (setFlag (setFlag x.flags 1 (bit flags 1)) 3 (bit flags 3)) 4 (bit flags 4)
      { x with flags := f, sticky := x.sticky ||| f, kHz := kHz, good := if bad then 0 else min 10 (x.good + 1) }
    if p = Part.mod ∧ bit flags 1 then s.coveredLost d else s

/-- R260, R372: the host ports of an EIO domain go down, and the sessions on them close. -/
def State.eioDown (s : State) (k : Nat) : State :=
  s.modMod fun m => { m with
    hosts := tabDel (tabDel m.hosts (2 * k)) (2 * k + 1)
    sessions := m.sessions.filter fun t => t.port / 2 != k }

/-- R372: the crystal is lost: ports with rate-matched clocking go down, and rack time in Holdover is Lost at once. -/
def State.crystalLost (s : State) (p : Part) : State :=
  let s := (s.sh p).ports.foldl (fun s q =>
    if s.rateMatched p q.1 then s.goDown p q.1 else s) s
  if (s.sh p).rt.state = 3 then (s.rtState p 4).bothCount p 34 1 else s

/-- R371, R372: PLL_COAST: the reference of a PLL is Stopped or Out of range. -/
def State.pllCoast (s : State) (p : Part) (d : Nat) : State :=
  let x := s.domain p d
  if domainCount p ≤ d ∨ bit x.flags 0 ∨ ¬ (bit x.flags 3 ∨ bit x.flags 4) then s
  else if p = Part.ep ∧ 1 ≤ d ∧ d ≤ 8 then s.linkLost (d - 1)
  else
    let onCrystal := x.ref == 1
    let s := match coastKHz p d with
      | none => s
      | some f => (s.modDomain p d fun x =>
          { x with flags := setFlag x.flags 0 true, sticky := setFlag x.sticky 0 true, kHz := f, integerN := false }).bothCount p 37 20
    let s := match s.backupRef p d with
      | some b => s.muxStart p d b
      | none => s
    let s := if p = Part.mod then s.coveredLost d else s
    let s := if p = Part.mod ∧ 93 ≤ d ∧ d < 95 then s.eioDown (d - 93) else s
    if onCrystal then s.crystalLost p else s

/-- R368: MUX_SWITCH_COMPLETE: it needs edges from the old clock. -/
def State.muxComplete (s : State) (p : Part) (d : Nat) : State :=
  let x := s.domain p d
  if x.target.isNone ∨ bit x.flags 3 then s else s.muxDone p d

/-- R369: what a forced switch whose old clock still showed edges means for the domain. An HBM4E interface loses its training:
its stack fails by STACK_FAILURE when it does not retrain within 1 ms (R188). -/
def State.runtFault (s : State) (p : Part) (d : Nat) : State :=
  match p with
  | .ep => s.stopEndpoint
  | .mod =>
    if d < 64 then s.tileOut d
    else if d < 68 then s.crossingFault d
    else if 95 ≤ d ∧ d < 97 then s.coreStop (d - 95)
    else s

/-- R369: MUX_WATCHDOG: a switch that has not completed within the watchdog time is forced. -/
def State.muxWatchdog (s : State) (p : Part) (d : Nat) (edges : Bool) : State :=
  let x := s.domain p d
  if x.target.isNone ∨ s.clock < x.since + s.regNow p 0x303002 * 5000 then s
  else
    let s := (s.muxDone p d).bothCount p 38 21
    if edges then s.runtFault p d else s

/-- R367, R371: PLL_RELOCK: a PLL relocks to its backup reference and Coasting ends; or (`primary`) to its own: a domain without
a backup once its reference has been in range for 10 windows, a covered one at the epoch boundary after alignment ended. -/
def State.pllRelock (s : State) (p : Part) (d : Nat) (primary : Bool) : State :=
  let x := s.domain p d
  if domainCount p ≤ d ∨ x.target.isSome then s
  else if !primary then
    if bit x.flags 0 ∧ (s.backupRef p d).isSome then
      s.modDomain p d fun x => { x with flags := setFlag (setFlag x.flags 0 false) 1 false }
    else s
  else if (s.backupRef p d).isNone then
    if bit x.flags 0 ∧ 10 ≤ x.good then s.modDomain p d fun x => { x with flags := setFlag (setFlag x.flags 0 false) 1 false } else s
  else match (s.sh p).clk.returnAt with
    | some t =>
      if p = Part.mod ∧ d < 69 ∧ t ≤ s.rackNs .mod then
        (s.modDomain p d fun x => { x with integerN := false, flags := setFlag (setFlag x.flags 0 false) 1 false }).muxStart p d
          (domainRef p d)
      else s
    | none => s

/-! ### Alignment (R271) -/

/-- R271: is a covered domain at full clock on a locked PLL? -/
def State.coveredOk (s : State) : Bool :=
  s.mod.power.state == 0 && !(s.mod.power.levels.any fun l => l == 3 || l == 4) &&
  (List.range 69).all fun d => (s.domain .mod d).flags == 0

/-- R271, R281: ALIGNMENT_REQUEST. -/
def State.alignRequest (s : State) (val : List Byte) : Nat × State :=
  if val.length ≠ 1 ∨ beNat val ≠ 1 then (stRange, s)
  else if !s.locked .mod || !s.coveredOk then (stBusy, s)
  else (stOk, s.modMod fun m => { m with alignTry := 1, alignAt := 1000000 * s.nextEpoch .mod })

/-- R271 step 1, R367: ALIGNMENT_START: the phase divider starts again; covered PLLs move to it in integer-N. -/
def State.alignStart (s : State) : State :=
  if (s.mod.alignTry ≠ 1 ∧ s.mod.alignTry ≠ 4) ∨ s.rackNs .mod < s.mod.alignAt then s
  else
    let s := (s.alignLost 2).modMod fun m => { m with align := 1, alignTry := m.alignTry + 1, alignBad := [] }
    let s := s.modSh .mod fun sh => { sh with clk := { sh.clk with returnAt := none } }
    (List.range 68).foldl (fun s d => (s.modDomain .mod d fun x => { x with integerN := true }).muxStart .mod d 3) s

/-- R271 steps 2 and 3: ALIGN_PULSE: `unlocked`: PLLs that had not locked by E + 100 µs. -/
def State.alignPulse (s : State) (unlocked : List Nat) : State :=
  if (s.mod.alignTry ≠ 2 ∧ s.mod.alignTry ≠ 5) ∨ s.rackNs .mod < 1000000 + s.mod.alignAt then s
  else if unlocked.isEmpty then s.modMod fun m => { m with alignTry := m.alignTry + 1, alignZero := some (s.rackNs .mod) }
  else s.alignFail unlocked

/-- R271 steps 4 and 5: ALIGNMENT_CHECK: `bad`: domains with a FIFO separation other than 2. -/
def State.alignCheck (s : State) (bad : List Nat) : State :=
  if (s.mod.alignTry ≠ 3 ∧ s.mod.alignTry ≠ 6) ∨ s.rackNs .mod < 1000480 + s.mod.alignAt then s
  else if bad.isEmpty then s.modMod fun m => { m with align := 2, alignTry := 0, alignBad := [] }
  else s.alignFail bad

end Sys2Proof.Machine
end

