-- ==== Sys2Proof/Machine/Meter.lean ====
section
/-! DEFINITION. The metrology die: its log, its accounts, its intervals and its messages (R374 to R386). -/

namespace Sys2Proof.Machine

/-- Change the meter. -/
def State.modMeter (s : State) (f : Meter → Meter) : State := s.modMod fun m => { m with meter := f m.meter }

/-- R384: a metrology message: its 16-byte header and its body. -/
def meterBytes (kind seq : Nat) (body : List Byte) : List Byte :=
  beBytes 16 (1 * 2 ^ 120 + kind * 2 ^ 112 + body.length * 2 ^ 96 + seq * 2 ^ 64) ++ body

/-- R384: is a message discarded: another Version, another Kind than its body's, a wrong Length, a Reserved bit? -/
def meterBad (h : MeterHdr) (kind len : Nat) : Bool := h.version != 1 || h.kind != kind || h.len != len || h.reserved != 0

/-- A message from the meter. -/
def State.meterSend (s : State) (kind : Nat) (body : List Byte) : State :=
  (s.modMeter fun m => { m with lastSent := s.ns, seq := (m.seq + 1) % 2 ^ 32 }).emit
    (.meter (meterBytes kind s.mod.meter.seq body))

/-- R385: a meter event, sent as an Event message: code, then the count or cause in the first byte of 13. -/
def State.meterEvent (s : State) (code cause : Nat) : State :=
  s.meterSend 6 (beBytes 1 code ++ beBytes 1 cause ++ List.replicate 12 0#8)

/-- R386: a Mirror write message. -/
def State.mirror (s : State) (key : Nat) (val : List Byte) : State := s.meterSend 5 (beBytes 3 key ++ val)

/-- R385: the metrology core runs its image. -/
def Meter.runs (m : Meter) : Bool := m.state == 1 || m.state == 3

/-- Record positions of a record (R381). -/
def MRec.positions (r : MRec) : Nat := if r.kind = 16 then 16 else 1

/-- The 32-byte word of a record. -/
def MRec.word (r : MRec) : Nat :=
  r.kind * 2 ^ 252 + ofBool r.unlocked * 2 ^ 248 + r.job * 2 ^ 232 + r.interval % 2 ^ 32 * 2 ^ 200 + r.port * 2 ^ 192 +
  r.a * 2 ^ 144 + r.b * 2 ^ 96 + r.update * 2 ^ 64 + r.index

/-- The 32 bytes at a position of the log; zeros where no record stands. `sees` says which Job IDs are shown. -/
def Meter.position (m : Meter) (sees : MRec → Bool) (i : Nat) : List Byte :=
  match m.records.find? fun r => decide (r.index ≤ i ∧ i < r.index + r.positions) with
  | some r =>
    if !sees r then List.replicate 32 0#8
    else if r.kind = 16 then sliceBytes r.sig (32 * (i - r.index)) 32
    else beBytes 32 r.word
  | none => List.replicate 32 0#8

/-- R383: the ring would overwrite a record above the acknowledged index. -/
def Meter.full (m : Meter) (n : Nat) : Bool := decide (2 ^ 29 + m.acked + 1 < m.next + n)

/-- The record takes the next position and replaces what stood there: of the ring, or of the reserve, of which `extra` positions
are in use. -/
def Meter.append (m : Meter) (r : MRec) (extra : Nat) : Meter :=
  let n := m.next + r.positions
  { m with records := (m.records.filter fun x => decide (n - x.index ≤ 2 ^ 29 + extra)) ++ [{ r with index := m.next, update := m.update }]
           next := n }

/-- R383: write a record, into the reserve when the ring is full; Port usage and Commons records are then not written. -/
def State.meterPut (s : State) (r : MRec) : State :=
  let m := s.mod.meter
  if m.full r.positions then
    let s := if m.state = 3 then s else (s.modMeter fun m => { m with state := 3 }).meterEvent 2 0
    if r.kind = 1 ∨ r.kind = 2 ∨ 2 ^ 20 < m.reserve + r.positions then s
    else s.modMeter fun m => { m.append r (m.reserve + r.positions) with reserve := m.reserve + r.positions }
  else s.modMeter fun m => m.append r 0

/-- R380: no Time message for 10 epochs: the meter runs on its own clock. -/
def State.meterAlone (s : State) : Bool := decide (10000000 ≤ s.ns - s.mod.meter.lastTime)

/-- The meter's time: the last Time message, and its own clock where none has come for 10 epochs. -/
def State.meterTime (s : State) : Nat :=
  s.mod.meter.time + (if s.meterAlone then s.ns - s.mod.meter.lastTime else 0)

/-- A record of the meter as it stands now. -/
def State.meterRec (s : State) (kind job port a b : Nat) : MRec where
  kind := kind
  unlocked := s.mod.meter.unlocked || s.meterAlone
  job := job
  interval := s.mod.meter.interval
  port := port
  a := min a counterFull
  b := min b counterFull
  update := 0
  index := 0
  sig := []

/-- R384: only a whole message of the set is taken; `f` is what it does in a core that runs. -/
def State.toMeter (s : State) (h : MeterHdr) (kind len : Nat) (f : State → State) : State :=
  if meterBad h kind len then s.mgCount 22 else if s.mod.meter.runs then f s else s

/-- R384, R385: a Time message with the rack time of the epoch (status bit 0: not Locked); at the first one after a start the
open interval is set and a Gap record covers the intervals that were not closed. -/
def State.meterTimeIn (s : State) : State :=
  let time := s.epochOf .mod * 1000000
  let m := s.mod.meter
  let first := !m.synced
  let s := s.modMeter fun m =>
    { m with time := time, unlocked := !s.locked .mod, lastTime := s.ns, synced := true,
             interval := if first then time / 1000000000 else m.interval }
  match m.gapFrom with
  | some g =>
    if first then
      (s.meterPut (s.meterRec 4 0 0 (g - 1) (time / 1000000000 - g))).modMeter fun m => { m with gapFrom := none }
    else s
  | none => s

/-- R383: add to a count that stops at its full scale, with a full-scale event when it gets there. -/
def satAdd (full v n : Nat) : Nat := min (v + n) full

/-- An account with nothing counted. -/
def Account.zero : Account where
  ingress := 0
  egress := 0
  gib := 0
  chargeNow := 0
  closing := false

/-- R383: the full-scale event, when a count has just reached it. -/
def State.fullScale (s : State) (full old new which : Nat) : State :=
  if old < full ∧ new = full then s.meterEvent 1 which else s

/-- R378: one entry of a Usage message. -/
def State.usageEntry (s : State) (u : UsageEntry) : State :=
  let m := s.mod.meter
  let old := (m.usage.find? fun x => x.job == u.job && x.port == u.port).getD { u with ingress := 0, egress := 0 }
  let new := { old with ingress := satAdd counterFull old.ingress u.ingress, egress := satAdd counterFull old.egress u.egress }
  let acc := tabGetD m.accounts u.job Account.zero
  let full := 2 ^ 64 - 1
  let acc' := { acc with ingress := satAdd full acc.ingress u.ingress, egress := satAdd full acc.egress u.egress }
  let s := s.modMeter fun m =>
    { m with usage := (m.usage.filter fun x => !(x.job == u.job && x.port == u.port)) ++ [new]
             accounts := tabSet m.accounts u.job acc' }
  ((((s.fullScale counterFull old.ingress new.ingress 1).fullScale counterFull old.egress new.egress 1).fullScale
    full acc.ingress acc'.ingress 1).fullScale full acc.egress acc'.egress 1)

/-- R379: one entry of a Commons charge message. -/
def State.chargeEntry (s : State) (job gib : Nat) : State :=
  let acc := tabGetD s.mod.meter.accounts job Account.zero
  let full := 2 ^ 64 - 1
  let acc' := { acc with gib := satAdd full acc.gib gib, chargeNow := satAdd counterFull acc.chargeNow gib }
  ((s.modMeter fun m => { m with accounts := tabSet m.accounts job acc' }).fullScale full acc.gib acc'.gib 2).fullScale
    counterFull acc.chargeNow acc'.chargeNow 2

/-- R379: at an epoch start, the GiB that every held region charges its owner's account. -/
def State.commonsCharge (s : State) : Tab Nat :=
  s.mod.regions.foldl (fun t r =>
    if r.2.state = 1 ∨ r.2.state = 2 ∨ r.2.state = 4 ∨ r.2.state = 5 then
      tabSet t r.2.owner (tabGetD t r.2.owner 0 + r.2.size + 1)
    else t) []

/-- R378, R384: a Usage message takes what the ports have counted. -/
def State.meterUsageIn (s : State) (h : MeterHdr) : State :=
  let l := s.mod.usage
  (s.modMod fun m => { m with usage := [] }).toMeter h 2 (16 * l.length) fun s => l.foldl (fun s u => s.usageEntry u) s

/-- R379, R384: a Commons charge message. -/
def State.meterChargeIn (s : State) (h : MeterHdr) : State :=
  s.toMeter h 3 (4 * s.commonsCharge.length) fun s => s.commonsCharge.foldl (fun (s : State) e => s.chargeEntry e.1 e.2) s

/-- R383, R384: an Acknowledge message: only an advance is applied. The ring has room again. -/
def State.meterAck (s : State) (index : Nat) : State :=
  if s.mod.meter.acked < index then
    s.modMeter fun m =>
      let m := { m with acked := index }
      if m.state = 3 ∧ m.full 1 = false then { m with state := 1, reserve := 0 } else m
  else s

/-- R381: the order of the records: usage by account and port. -/
def usageBefore (x y : UsageEntry) : Bool := decide (x.job < y.job ∨ (x.job = y.job ∧ x.port ≤ y.port))

/-- Insert an entry in that order. -/
def insUsage (x : UsageEntry) : List UsageEntry → List UsageEntry
  | [] => [x]
  | y :: t => if usageBefore x y then x :: y :: t else y :: insUsage x t

/-- R383: the energy of an interval counts; `energy` is in mJ. -/
def State.closeEnergy (s : State) (energy : Nat) : State :=
  let total := s.mod.meter.energyMJ + energy
  let s := s.fullScale counterFull (s.mod.meter.energyMJ / 1000) (min (total / 1000) counterFull) 0
  let s := s.fullScale counterFull 0 (min energy counterFull) 0
  s.modMeter fun m => { m with energyMJ := total, lastMJ := min energy (2 ^ 32 - 1) }

/-- R381: the records of an interval, up to its Interval summary; `start` is the position of the first. -/
def State.closeRecords (s : State) (start energy : Nat) : State :=
  let m := s.mod.meter
  let s := s.meterPut (s.meterRec 0 0 0 energy (m.energyMJ / 1000))
  let s := ((m.usage.filter fun u => u.ingress + u.egress != 0).foldr insUsage []).foldl (fun s u =>
    s.meterPut (s.meterRec 1 u.job u.port u.ingress u.egress)) s
  let s := (m.accounts.filter fun a => a.2.chargeNow != 0).foldl (fun (s : State) a =>
    s.meterPut (s.meterRec 2 a.1 0 a.2.chargeNow a.2.gib)) s
  s.meterPut (s.meterRec 5 0 0 (s.mod.meter.next - start + 1) 0)

/-- R381: the bytes of the signature block of the interval before. -/
def Meter.lastSig (m : Meter) : List Byte := ((m.records.filter fun r => r.kind == 16).getLast?.map fun r => r.sig).getD []

/-- R381: the signature of an interval whose first record stands at `start`: over the digest of the block before it and the
records of the interval. -/
def State.closeSign (s : State) (start : Nat) : State :=
  let m := s.mod.meter
  let signed := Config.sha512 m.lastSig ++ (m.records.filter fun r => decide (start ≤ r.index)).flatMap fun r => beBytes 32 r.word
  (s.meterPut { s.meterRec 16 0 0 0 0 with sig := sliceBytes (Config.meterSignature s.draws signed) 0 512 }).drawn

/-- R380: the next interval opens; accounts that were closing are gone. -/
def State.closeReset (s : State) : State :=
  s.modMeter fun m =>
    { m with interval := m.interval + 1, usage := [],
             accounts := (m.accounts.filter fun a => !a.2.closing).map fun a => (a.1, { a.2 with chargeNow := 0 }) }

/-- R380, R381: the records of one interval and its signature. `energy` is in mJ. -/
def State.closeOne (s : State) (energy : Nat) : State :=
  (((s.closeEnergy energy).closeRecords s.mod.meter.next energy).closeSign s.mod.meter.next).closeReset

/-- R386: the meter's mirror after a close. -/
def State.mirrorAll (s : State) : State :=
  let m := s.mod.meter
  (((((s.mirror 0xB00001 (beBytes 1 m.state)).mirror 0xB00003 (beBytes 8 (m.energyMJ / 1000))).mirror
    0xB00004 (beBytes 4 m.lastMJ)).mirror 0xB00005 (beBytes 4 m.update)).mirror 0xB10001 (beBytes 8 (m.next - 1))).mirror
    0xB20003 (beBytes 2 (tabSet m.accounts 0 Account.zero).length)

/-- R380: every interval whose end has come is closed, in order; a skipped one after the first holds no energy or usage. -/
def State.intervalClose (s : State) (energy : Nat) : State :=
  let m := s.mod.meter
  let n := s.meterTime / 1000000000 - m.interval
  if m.runs && m.synced && decide (0 < n) then
    ((List.range (n - 1)).foldl (fun (s : State) _ => s.closeOne 0) (s.closeOne energy)).mirrorAll
  else s

/-- R382: a seal event raises the update count and writes its record at once. -/
def State.sealRecord (s : State) (cause detail : Nat) : State :=
  let full := 2 ^ 32 - 1
  let old := s.mod.meter.update
  let s := s.modMeter fun m => { m with update := satAdd full m.update 1 }
  let s := (s.fullScale full old s.mod.meter.update 3).meterPut (s.meterRec 3 0 0 cause detail)
  ((s.meterEvent 3 cause).mirror 0xB00005 (beBytes 4 s.mod.meter.update)).mirror 0xB10001 (beBytes 8 (s.mod.meter.next - 1))

/-- R307, R385: the metrology core starts its image; its next Time message finds the open interval. -/
def State.meterStart (s : State) : State :=
  (s.modMeter fun m => { m with state := 1, synced := false, lastTime := s.ns }).mirror 0xB00001 [1#8]

/-- R382: a seal event. The reset of a die whose module stayed powered (cause 3) starts its image again. -/
def State.sealEvent (s : State) (cause detail : Nat) : State :=
  let s := if cause = 3 ∧ s.mod.meter.image.isSome ∧ s.mod.meter.runs = false then s.meterStart else s
  if s.mod.meter.runs then s.sealRecord cause detail else s

/-- R377, R385: the meter stops: the open interval is not closed until its next start. -/
def Meter.stop (m : Meter) (faulted : Bool) : Meter :=
  if m.runs then { m with state := if faulted then 2 else 0, synced := false,
                          gapFrom := match m.gapFrom with
                            | some g => some g
                            | none => if m.synced then some m.interval else none }
  else m

/-- R385: the metrology core stops: Meter state becomes 0 or 2 and the module raises meter event 4. -/
def State.meterStopped (s : State) (faulted : Bool) : State :=
  if s.mod.meter.runs then
    ((s.modMeter fun m => m.stop faulted).setReg .mod 0xB00001 (if faulted then 2 else 0)).logEvent .mod 2 0x000E 0
      (4 * 2 ^ 104)
  else s

/-- R385: an Event message is logged; a fault has severity 2. -/
def State.meterEventIn (s : State) (code detail : Nat) : State :=
  s.logEvent .mod (if code = 4 then 2 else 1) 0x000E 0 (code * 2 ^ 104 + detail)

/-- The access of a Mirror write. -/
def meterAccess : Access where
  path := .metrology
  principal := .metrology
  partition := 0
  job := 0
  ctx := .smbus

/-- R386: a Mirror write message stores a value of the mirror; the certificate is a constant of the die. -/
def State.mirrorIn (s : State) (key : Nat) (val : List Byte) : State :=
  (dirWriteWith .mod meterAccess key (fun s =>
    match entryOf .mod key with
    | some e =>
      if !valueOk e val then (stRange, s)
      else if e.kind = 0 then (stOk, s.setReg .mod key (beNat val)) else (stOk, s)
    | none => (stNoEntry, s)) s).2

/-- R384: a Log read is answered with the records asked for. -/
def State.logRead (s : State) (first count : Nat) : State :=
  s.meterSend 7 ((List.range count).flatMap fun i => s.mod.meter.position (fun _ => true) (first + i))

/-- R386: Acknowledged record only advances, up to Newest record, and is passed to the meter. -/
def State.ackRecordWrite (s : State) (val : List Byte) : Nat × State :=
  let v := beNat val
  if val.length ≠ 8 ∨ s.reg .mod 0xB10001 < v ∨ v < s.reg .mod 0xB10002 then (stRange, s)
  else 
    (stOk, (((s.setReg .mod 0xB10002 v).modMod fun m => { m with meterSeq := (m.meterSeq + 1) % 2 ^ 32 }).emit
      (.meter (meterBytes 4 s.mod.meterSeq (beBytes 8 v)))))

end Sys2Proof.Machine
end

