-- ==== Sys2Proof/Machine/Power.lean ====
section
/-! DEFINITION. Power of the module: its input, its states, the entry to Run, the cap ladder and the thermal limits (R342 to
R363). -/

namespace Sys2Proof.Machine

/-- Change the power state of the module. -/
def State.modPower (s : State) (f : Power → Power) : State := s.modMod fun m => { m with power := f m.power }

/-! ### What is lost and what is kept (R345, R348, R352) -/

/-- R325, R329: does a value stand in flash? -/
def isRws (p : Part) (key : Nat) : Bool :=
  match entryOf p key with
  | some e => e.acc == 3
  | none => false

/-- A part's shared state when its power or its reset comes back: RWS entries and bundle slots stay. -/
def Shared.cold (sh : Shared) (p : Part) : Shared :=
  { Shared.reset with
    regs := sh.regs.filter fun e => isRws p (e.1 / 65536)
    rot := { Rot.reset with slot0 := sh.rot.slot0, slot1 := sh.rot.slot1, active := sh.rot.active } }

/-- What the always-on domain keeps: the input, the breaker, the last stop cause, the strap. -/
def Power.cold (p : Power) : Power :=
  { Power.reset with state := p.state, mV := p.mV, mA := p.mA, inEn := p.inEn, inputBad := p.inputBad, soft := p.soft,
                     overTrip := p.overTrip, stopCause := p.stopCause, trips := p.trips, latched := p.latched,
                     retryAt := p.retryAt, therm := p.therm, strap := p.strap, booting := p.booting }

/-- The module without its volatile state. -/
def Module.cold (m : Module) : Module :=
  { Module.reset with sh := m.sh.cold .mod, creds := m.creds, meter := m.meter, power := m.power.cold }

/-- R346, R377: the module loses power, its meter too. -/
def State.powerLost (s : State) (st : Nat) : State :=
  (s.modMod fun m => { m.cold with meter := m.meter.stop false }).modPower fun p => { p with state := st, booting := false }

/-- R345: the module goes Off; the cause of the most recent stop stays. -/
def State.goOff (s : State) (cause : Nat) : State :=
  let p := s.mod.power
  if p.state = 4 ∧ p.soft.isNone ∧ p.booting = false then s
  else (s.powerLost 4).modPower fun p => { p with stopCause := cause, soft := none }

/-- R352: the module enters Fallow. -/
def State.enterFallow (s : State) : State := s.powerLost 3

/-- The module starts: its root of trust boots next (R306), its crystal from now on (R365). -/
def State.startBoot (s : State) : State :=
  let s := s.modPower fun p => { p with booting := true, therm := false, lease := s.ns }
  s.modSh .mod fun sh => { sh with clk := { sh.clk with started := s.clock, crystal := 0 } }

/-! ### Input (R342 to R344) -/

/-- R343: soft start begins, when everything permits it. -/
def State.trySoft (s : State) : State :=
  let p := s.mod.power
  if p.inEn ∧ ¬ p.inputBad ∧ ¬ p.latched ∧ p.retryAt.isNone ∧ p.state = 4 ∧ p.soft.isNone ∧ ¬ p.booting then
    s.modPower fun p => { p with soft := some s.ns }
  else s

/-- R343: IN_EN is asserted. -/
def State.inEnOn (s : State) : State := (s.modPower fun p => { p with inEn := true }).trySoft

/-- R343, R344: IN_EN is deasserted: the stage opens at once, and a latched breaker is released. -/
def State.inEnOff (s : State) : State :=
  (s.goOff 7).modPower fun p => { p with inEn := false, latched := false, retryAt := none, trips := [] }

/-- R342: the input stands in its range, below 72.0 V after an overvoltage trip. -/
def State.softPermitted (s : State) (mV : Nat) : State :=
  let ok := decide (57600 ≤ mV ∧ mV ≤ 74000) && (!s.mod.power.overTrip || decide (mV < 72000))
  let s := s.modPower fun p => { p with mV := mV }
  if ok then (s.modPower fun p => { p with inputBad := false, overTrip := false }).trySoft else s

/-- R343: the internal bus reaches 90 % of the input, or has not within 15 ms. -/
def State.softDone (s : State) (reached : Bool) : State :=
  match s.mod.power.soft with
  | none => s
  | some t =>
    if reached then (s.modPower fun p => { p with soft := none }).startBoot
    else if 15000000 + t ≤ s.ns then s.goOff 4
    else s

/-- R342, R345: the input leaves 54.0 V to 74.0 V; below 10 V the cause of the last stop is lost. -/
def State.voltageTrip (s : State) (mV : Nat) : State :=
  if 54000 ≤ mV ∧ mV ≤ 74000 then s
  else
    let s := (s.goOff (if mV < 54000 then 1 else 2)).modPower fun p =>
      { p with mV := mV, inputBad := true, overTrip := p.overTrip || decide (74000 < mV) }
    if mV < 10000 then s.modPower fun p => { p with stopCause := 0 } else s

/-- R344: the breaker opens the switch; the third trip within 60 s holds the module Off. -/
def State.breakerTrip (s : State) (mA : Nat) : State :=
  let p := s.mod.power
  if mA ≤ 75000 ∨ (p.state = 4 ∧ p.soft.isNone ∧ p.booting = false) then s
  else
    let trips := (p.trips.filter fun t => decide (s.ns < 60000000000 + t)) ++ [s.ns]
    let latch := decide (3 ≤ trips.length)
    ((s.goOff 3).modPower fun p =>
      { p with mA := mA, trips := trips, latched := latch, retryAt := if latch then none else some (1000000000 + s.ns) }).mgCount 17

/-- R344: one second after a trip the module retries soft start. -/
def State.breakerRetry (s : State) : State :=
  match s.mod.power.retryAt with
  | some t => if t ≤ s.ns then (s.modPower fun p => { p with retryAt := none }).trySoft else s
  | none => s

/-! ### State requests (R347, R350) -/

/-- R272: alignment ends when the module leaves Run or lowers a covered clock. -/
def State.alignStop (s : State) : State :=
  if s.mod.align = 1 then s.modMod fun m => { m with align := 0, alignTry := 0 } else s.alignLost 2

/-- R350: the module enters Rest. -/
def State.enterRest (s : State) : State :=
  let s := s.alignStop.dropAll
  let s := s.modSh .mod fun sh => { sh with
    recv := Receiver.reset
    ports := sh.ports.map (fun q => (q.1, { q.2 with state := 0, width := 0, lanes := 0, wc := none }))
    lanes := sh.lanes.map fun x => (x.1, { x.2 with state := 0, blockLock := false }) }
  (s.modMod fun m => { m with sessions := [] }).modPower fun p =>
    { p with state := 2, levels := [], decided := none, below := 0, entering := false }

/-- R347: a write of Requested state. -/
def State.requestState (s : State) (v : Nat) : Nat × State :=
  let p := s.mod.power
  match v with
  | 0 => if p.state = 2 then (stOk, s.modPower fun p => { p with entering := true }) else (stBusy, s)
  | 2 =>
    if p.state ≤ 1 ∧ (s.mod.sh.verd.failed.contains s.plane ∨ ¬ s.mod.sh.ports.any fun q => q.2.state == 7) then (stOk, s.enterRest)
    else (stBusy, s)
  | 3 => if p.state = 2 then (stOk, s.enterFallow) else (stBusy, s)
  | _ => (stRange, s)

/-! ### Entry to Run (R348, R349) -/

/-- R387: every counter of a part starts again. -/
def Counters.restart (c : Counters) : Counters := { c with live := [] }

/-- R348: what every entry to Run starts again, and what a warm one does to the Commons. -/
def State.restartRun (s : State) : State :=
  let s := s.modSh .mod fun sh => { sh with
    pairs := []
    reqs := []
    log := { recs := [], next := 0, acked := 0, lost := 0 }
    ctr := sh.ctr.restart }
  let s := (s.modMod fun m => { m with serial := 0, inner := s.draws }).drawn
  (s.mod.regions.filter fun r => r.2.owner == 0 && r.2.state != 0 && r.2.state != 3).foldl (fun s r => s.regionEnter r.1 3) s

/-- R349: the targets that failed one of the entry tests. -/
def failedIn (results : List TestResult) (test : Nat) : List Nat := (results.filter fun r => r.test == test).flatMap fun r => r.failed

/-- R349: both tiles of a mesh link, numbered 16 × tile + 4 × mesh plane + direction. -/
def linkTiles (n : Nat) : List Nat := n / 16 :: (neighbour (n / 16) (n % 4)).toList

/-- R349: passing targets return to service, failing ones leave it. -/
def State.entryTests (s : State) (results : List TestResult) : State :=
  let s := s.modMod fun m => { m with failedStacks := [], engOut := []
                                      tiles := m.tiles.map fun t => (t.1, { t.2 with inService := true, withdrawn := false }) }
  let tiles := failedIn results 0 ++ (failedIn results 1).flatMap linkTiles ++ failedIn results 4
  let s := (tiles.filter fun t => decide (t < 64)).foldl (fun s t => s.tileOut t) s
  let s := ((failedIn results 3).filter fun e => decide (e < 512)).foldl (fun s e => s.canaryFail e (s.rackNs .mod)) s
  let s := (failedIn results 5).foldl (fun s k => s.stackFail k true) s
  (failedIn results 2).foldl (fun s d => s.crossingFault (64 + d)) s

/-- R348, R349, R371: the entry tests end and Run begins: PLLs return to their own references, and the ports may leave Off. -/
def State.enterRun (s : State) (results : List TestResult) : State :=
  if s.mod.power.state = 2 ∧ s.mod.power.entering then
    let s := (s.restartRun.entryTests results).modPower fun p =>
      { p with state := 0, entering := false, sensorLatch := false, lease := s.ns }
    (if s.mod.sh.clk.crystal = 1 then s.refsReturn .mod else s).fenceOn.portsLeaveOff
  else s

/-! ### Fallow and wake (R351 to R353) -/

/-- R353: an SMBus address matches in Fallow. -/
def State.wake (s : State) (address : Nat) : State :=
  let p := s.mod.power
  if p.state = 3 ∧ p.booting = false ∧ address = 0x60 + p.strap then s.startBoot else s

/-- R351: the always-on regulator is overloaded in Fallow. -/
def State.brownOut (s : State) (mA : Nat) : State :=
  if s.mod.power.state = 3 ∧ 150 < mA then
    (s.enterFallow.modPower fun p => { p with stopCause := 6 }).startBoot
  else s

/-! ### The cap (R355, R356, R360) -/

/-- R360: the cap lease is renewed; the safe cap is a limit no more. -/
def State.renewLease (s : State) : State := s.modPower fun p => { p with lease := s.ns, hold := none, safe := false }

/-- R356: a cap step write; a step whose time has passed takes effect at the next tick. -/
def State.capStep (s : State) (val : List Byte) : Nat × State :=
  let w := beNat val
  let t := bits w 127 64
  let cap := bits w 63 32
  if val.length ≠ 16 ∨ bits w 31 0 ≠ 0 ∨ t % 1000 ≠ 0 ∨ cap < 1800 ∨ 3600 < cap then (stRange, s)
  else
    let now := s.rackNs .mod
    let late := decide (t ≤ now)
    let at_ := if late then (now / 1000 + 1) * 1000 else t
    let s := (s.setReg .mod 0x201001 w).renewLease.modPower fun p => { p with step := some (at_, cap) }
    (stOk, if late then s.mgCount 2 else s)

/-- R356: the pending step becomes the cap in force at its effective time. -/
def State.capEffective (s : State) : State :=
  match s.mod.power.step with
  | some (t, cap) => if t ≤ s.rackNs .mod then s.modPower fun p => { p with cap := cap, step := none } else s
  | none => s

/-- R360: the lease period passes: the hold time starts. -/
def State.leaseExpiry (s : State) : State :=
  let p := s.mod.power
  if p.state ≤ 2 ∧ ¬ p.safe ∧ p.hold.isNone ∧ p.lease + 1000000000 * s.reg .mod 0x201004 ≤ s.ns then
    s.modPower fun p => { p with hold := some s.ns }
  else s

/-- R360: the hold time passes: the safe cap becomes a limit. -/
def State.holdExpiry (s : State) : State :=
  match s.mod.power.hold with
  | some t =>
    if t + 1000000000 * s.reg .mod 0x201005 ≤ s.ns then s.modPower fun p => { p with hold := none, safe := true } else s
  | none => s

/-- R355: the limit, in half watts, and its source: 0 cap, 1 input voltage, 2 thermal, 3 safe cap. -/
def State.powerLimit (s : State) : Nat × Nat :=
  let p := s.mod.power
  let l := [(2 * p.cap, 0)] ++ (if p.mV < 57600 then [(p.mV / 8, 1)] else []) ++ [(2 * p.thermal, 2)] ++
    (if p.safe then [(2 * min p.cap (s.reg .mod 0x201006), 3)] else [])
  l.foldl (fun a b => if b.1 < a.1 then b else a) (2 * p.cap, 0)

/-! ### The ladder (R357, R358) -/

/-- R357, R358: the order in which the levels are taken. -/
def State.ladderOrder (s : State) : List Nat :=
  if s.mod.sh.mown.any fun e => e.2.state == 2 || e.2.state == 3 then [5, 6, 3, 4, 1, 2] else [1, 2, 3, 4, 5, 6]

/-- R357: the rated saving of a level alone, in W. -/
def levelSaving (l : Nat) : Nat := [0, 150, 80, 180, 180, 315, 315].getD l 0

/-- The ports that a level narrows. -/
def levelPorts (l : Nat) (n : Nat) : Bool := (l == 5 && decide (128 ≤ n)) || (l == 6 && decide (n < 128))

/-- R251, R357: ports at ×4 are narrowed to ×2, or those narrowed return. -/
def State.powerWidth (s : State) (l : Nat) (narrow : Bool) : State :=
  (s.mod.sh.ports.filter fun q => levelPorts l q.1 && q.2.state == 7 && q.2.wc.isNone && s.cfgWidth .mod q.1 == 2).foldl (fun s q =>
    if narrow ∧ q.2.width = 2 then s.widthStart .mod q.1 (widest 2 (q.2.lanes &&& 0x3)) 1
    else if ¬ narrow ∧ q.2.width = 1 ∧ q.2.lanes ||| s.sound .mod q.1 ≠ q.2.lanes then
      s.widthStart .mod q.1 (q.2.lanes ||| s.sound .mod q.1) 2
    else s) s

/-- R359: the deficit record of a tick. -/
def Power.deficit (p : Power) : Power :=
  let n := p.means.length
  let sum := p.means.foldl (· + ·) 0
  if p.cap * n < sum then
    { p with energy := p.energy + (sum - p.cap * n) * (2520 / n), excess := min (max p.excess ((sum - p.cap * n) / n)) (2 ^ 32 - 1)
             ticks := min (p.ticks + 1) (2 ^ 32 - 1), inDeficit := true }
  else { p with inDeficit := false }

/-- R357: the mean of the last ticks exceeds the target. -/
def Power.over (p : Power) : Bool := decide (p.target * p.means.length < 2 * p.means.foldl (· + ·) 0)

/-- R357: the mean lies below the target by the highest level's saving plus 100 W. -/
def Power.under (p : Power) (l : Nat) : Bool :=
  decide (2 * (p.means.foldl (· + ·) 0 + (levelSaving l + 100) * p.means.length) ≤ p.target * p.means.length)

/-- R357: the next level is decided; its effect follows at the next tick boundary. -/
def State.takeLevel (s : State) : State :=
  let p := s.mod.power
  let s := s.modPower fun p => { p with below := 0 }
  match p.decided, s.ladderOrder.find? fun l => !p.levels.contains l with
  | none, some l => s.modPower fun p => { p with decided := some (l, (s.rackNs .mod / 1000 + 1) * 1000) }
  | _, _ => s

/-- R357: take the next level, or release the highest one. -/
def State.ladder (s : State) : State :=
  let p := s.mod.power
  match p.levels.getLast? with
  | some l =>
    if p.over then s.takeLevel
    else if p.under l then
      if 99 ≤ p.below then
        let s := s.modPower fun p => { p with levels := p.levels.dropLast, below := 0
                                              state := if p.levels.length ≤ 1 then 0 else 1 }
        s.powerWidth l false
      else s.modPower fun p => { p with below := p.below + 1 }
    else s.modPower fun p => { p with below := 0 }
  | none => if p.over then s.takeLevel else s

/-- R355, R357, R359: POWER_CONTROL_TICK: sensor readings, the target, the deficit record and the ladder. -/
def State.powerTick (s : State) (watts mV mA : Nat) : State :=
  if 2 < s.mod.power.state then s
  else
    let s := s.modPower fun p => { p with mV := mV, mA := mA, means := lastN 10 (p.means ++ [watts]) }
    let lim := s.powerLimit
    let was := s.mod.power.inDeficit
    let s := s.modPower fun p =>
      { p.deficit with source := lim.2
                       target := if p.target < lim.1 then p.target + 1 else if lim.1 < p.target then p.target - 1 else p.target }
    let s := if s.mod.power.inDeficit ∧ ¬ was then s.mgCount 18 else s
    if s.mod.power.state ≤ 1 then s.ladder else s

/-- R357, R358: LADDER_LEVEL_EFFECTIVE. -/
def State.levelEffective (s : State) : State :=
  match s.mod.power.decided with
  | none => s
  | some (l, at_) =>
    if s.rackNs .mod < at_ ∨ 1 < s.mod.power.state then s
    else
      let s := s.modPower fun p => { p with levels := p.levels ++ [l], decided := none, state := 1 }
      if l = 3 ∨ l = 4 then s.alignStop else s.powerWidth l true

/-! ### Temperature (R361, R362, R400) -/

/-- R361: a reading's thermal limit, in W, for the inlet alone. -/
def inletLimit (inlet : Int) : Nat :=
  if inlet ≤ 40000 then 3600 else if inlet ≤ 55000 then 3600 - ((inlet - 40000) * 120 / 1000).toNat else 1800

/-- R361: THERMAL_READING: temperatures in m°C, the HBM4E stacks one by one. -/
def State.thermalReading (s : State) (inlet scd : Int) (hbm : List Int) : State :=
  if 2 < s.mod.power.state then s
  else
    let hotNow := decide (100000 ≤ scd) || hbm.any fun t => decide (95000 ≤ t)
    s.modPower fun p =>
      let n := max 1 p.means.length
      let fresh := (p.means.foldl (· + ·) 0 / n - 200, s.ns)
      let hot := if !hotNow then none else match p.hot with
        | some (w, t) => if 100000 + t ≤ s.ns then some fresh else some (w, t)
        | none => some fresh
      let latch := p.sensorLatch || decide (inlet < -10000 ∨ 100000 < inlet)
      let lim := min (if latch then 1800 else inletLimit inlet) (match hot with
        | some (w, _) => w
        | none => 3600)
      { p with inlet := inlet, junction := hbm.foldl max scd, hot := hot, sensorLatch := latch, thermal := lim }

/-- R362: THERMAL_TRIP. -/
def State.thermalTrip (s : State) (inlet scd hbm : Int) : State :=
  if s.mod.power.state ≤ 2 ∧ (110000 ≤ scd ∨ 105000 ≤ hbm ∨ 60000 ≤ inlet) then
    s.enterFallow.modPower fun p => { p with stopCause := 5, therm := true }
  else s

end Sys2Proof.Machine
end

