-- ==== Sys2Proof/Machine/Security.lean ====
section
/-! DEFINITION. Boot, attestation, key installation and the removal of a tenant (R302 to R322). -/

namespace Sys2Proof.Machine

/-- Change the root of trust of a part. -/
def State.modRot (s : State) (p : Part) (f : Rot → Rot) : State := s.modSh p fun sh => { sh with rot := f sh.rot }

/-! ### Bundles (R305, R306) -/

/-- The image kinds that a part needs, all of them. -/
def imageKinds : Part → List Nat
  | .ep => [0x11, 0x12]
  | .mod => [0x01, 0x02, 0x03, 0x04, 0x05]

/-- R305: the refusal reason of a bundle: 0 where every check passes. -/
def bundleCheck (p : Part) (b : BundleInfo) : Nat :=
  let kinds := b.images.map fun i => i.kind
  let need := imageKinds p
  if b.reserved ∨ b.format ≠ 1 ∨ b.images.length < 1 ∨ 16 < b.images.length then 6
  else if ¬ b.keyOk ∨ ¬ b.sigOk then 1
  else if b.partKind ≠ partNo p then 2
  else if siliconRev p < b.silMin ∨ b.silMax < siliconRev p then 3
  else if ¬ (kinds.all fun k => need.contains k) ∨ kinds.length ≠ need.length ∨ ¬ (need.all fun k => kinds.contains k) then 5
  else if b.images.any fun i => !i.imageOk then 4
  else 0

/-- R341: the event of a bundle refused or committed. -/
def State.bundleEvent (s : State) (p : Part) (slot reason version : Nat) : State :=
  s.logEvent p 1 0x000B 0 (slot * 2 ^ 104 + reason * 2 ^ 96 + version * 2 ^ 64)

/-- R116, R118: the endpoint's ports serve the planes of its rack arrangement once a bundle is accepted. -/
def State.epPorts (s : State) : State :=
  (List.range 16).foldl (fun s p => s.setRole .ep p (ofBool (s.planeExists p))) s

/-- R116, R305: an endpoint bundle is complete and is checked. -/
def State.bundleLoad (s : State) (b : BundleInfo) : Nat × State :=
  let r := s.ep.sh.rot
  if r.boot = 1 then (stBusy, s)
  else if r.boot = 2 ∧ r.reason = 7 then (stOk, s)
  else match bundleCheck .ep b with
    | 0 => (stOk, (s.modRot .ep fun r => { r with boot := 1, reason := 0, running := some b }).epPorts)
    | n => (stOk, (s.modRot .ep fun r => { r with boot := 2, reason := n }).bundleEvent .ep 0 n b.version)

/-- R116, R122: the endpoint's reset is released: everything returns to its reset value and the root of trust waits for its
bundle and its wrapped identity material. An endpoint that holds itself in reset stays there until VDD_AO has been cycled. -/
def State.epReset (s : State) (cycled : Bool) : State :=
  if s.ep.inReset && !cycled then s
  else
    let s := s.modEp fun e => { Endpoint.reset with strap := e.strap }
    s.modSh .ep fun sh => { sh with clk := { sh.clk with started := s.clock } }

/-- R306: the bundle slot of a number. -/
def Rot.slot (r : Rot) (n : Nat) : BundleSlot := if n = 0 then r.slot0 else r.slot1

/-- Put a bundle slot. -/
def Rot.setSlot (r : Rot) (n : Nat) (x : BundleSlot) : Rot := if n = 0 then { r with slot0 := x } else { r with slot1 := x }

/-- R306: the valid slots, in the order in which they are tried. -/
def Rot.order (r : Rot) : List (Nat × BundleInfo) :=
  let get := fun (n : Nat) => if (r.slot n).state = 1 then (r.slot n).bundle.map fun b => (n, b) else none
  match get 0, get 1 with
  | some a, some b => if a.2.version < b.2.version then [b, a] else [a, b]
  | some a, none => [a]
  | none, some b => [b]
  | none, none => []

/-- R306: try the slots in order; the first failure is the refusal reason. -/
def State.bootSlots (s : State) : List (Nat × BundleInfo) → State
  | [] => s.modRot .mod fun r => { r with boot := 2 }
  | (n, b) :: t =>
    match bundleCheck .mod b with
    | 0 => s.modRot .mod fun r => { r with boot := 1, active := n, running := some b }
    | e => ((s.modRot .mod fun r => { r with reason := if r.reason = 0 then e else r.reason }).bundleEvent .mod n e b.version).bootSlots t

/-- R307: the metrology image: signature and interface version; one that fails is not loaded. -/
def State.metroBoot (s : State) (img : Option MetroImage) : State :=
  let s := s.modMeter fun m => m.stop false
  match img with
  | some i =>
    if i.sigOk ∧ i.iface = 1 then
      let changed := s.mod.meter.lastVersion ≠ i.version
      let s := (s.modMeter fun m => { m with image := some i, lastVersion := i.version }).meterStart
      if changed then s.sealRecord 1 i.version else s
    else ((s.modMeter fun m => { m with image := none }).setReg .mod 0xB00001 0).logEvent .mod 2 0x000E 0 (4 * 2 ^ 104)
  | none => ((s.modMeter fun m => { m with image := none }).setReg .mod 0xB00001 0).logEvent .mod 2 0x000E 0 (4 * 2 ^ 104)

/-- R306, R347: the module's reset is released: its root of trust boots, and the module goes to its Start target. -/
def State.modReset (s : State) (unwrapOk : Bool) (img : Option MetroImage) : State :=
  let s := s.modMod fun m => m.cold
  let s := s.modSh .mod fun sh => { sh with clk := { sh.clk with started := s.clock } }
  let s := s.modPower fun p => { p with state := 2, booting := false, lease := s.ns }
  if !unwrapOk then s.modRot .mod fun r => { r with boot := 2, reason := 7 }
  else
    let s := (s.modRot .mod fun r => { r with identity := true }).bootSlots s.mod.sh.rot.order
    if s.mod.sh.rot.boot = 1 then (s.metroBoot img).modPower fun p => { p with entering := s.reg .mod 0x200003 == 0 } else s

/-- R306: an upload goes to the slot that is not active. -/
def State.bundleUpload (s : State) : State := s.modRot .mod fun r => r.setSlot (1 - r.active) { state := 3, bundle := none }

/-- R306: BUNDLE_COMMIT: the uploaded bundle is checked; it runs from the next reset. -/
def State.bundleCommit (s : State) (b : BundleInfo) : Nat × State :=
  let r := s.mod.sh.rot
  let n := 1 - r.active
  if (r.slot n).state ≠ 3 then (stBusy, s)
  else
    let e := bundleCheck .mod b
    (stOk, (s.modRot .mod fun r => r.setSlot n { state := if e = 0 then 1 else 2, bundle := some b }).bundleEvent .mod n e b.version)

/-! ### Attestation (R308) -/

/-- R308: a nonce: a new report is begun, the one before goes. -/
def State.nonceWrite (s : State) (p : Part) (val : List Byte) : Nat × State :=
  if val.length ≠ 32 then (stRange, s)
  else (stOk, s.modRot p fun r => { r with nonce := some val, nonceAt := s.ns, report := none })

/-- R308: the first 58 bytes of a report body, as a number. -/
def State.reportHead (s : State) (p : Part) (nonce : List Byte) : Nat :=
  let r := (s.sh p).rot
  let metro := match p, s.mod.meter.image with
    | .mod, some i => i.version
    | _, _ => 0
  let ep := p == Part.ep
  1 * 2 ^ 448 + partNo p * 2 ^ 440 + Config.siliconRevision (partNo p) % 2 ^ 16 * 2 ^ 424 + r.version * 2 ^ 392 + metro * 2 ^ 360 +
  r.boot * 2 ^ 352 + s.reg p (if ep then 0xD00001 else 0x500003) * 2 ^ 348 + s.rack p * 2 ^ 344 +
  (if ep then 0 else s.plane) * 2 ^ 340 + (if ep then s.reg .ep 0xD00003 else 0) * 2 ^ 332 +
  (if ep then s.node .ep else 512 + s.plane) * 2 ^ 322 + s.rackNs p * 2 ^ 256 + beNat nonce

/-- R308, R329: the RWS entries of a part in ascending Index.Sub: the entry, how many instances its selector has and from which
number on, and its bytes. -/
def rwsEntries : Part → List (Nat × Nat × Nat × Nat)
  | .ep => [(0x410002, 16, 0, 1), (0x410003, 16, 0, 1), (0xC00004, 1, 0, 4), (0xC00005, 1, 0, 4)]
  | .mod =>
    [(0x200003, 1, 0, 1), (0x201006, 1, 0, 4), (0x410002, 256, 0, 1), (0x410003, 256, 0, 1), (0x490002, 4, 0, 1),
     (0x490004, 4, 0, 4), (0x490005, 4, 0, 16), (0x490007, 4, 0, 1), (0x500001, 1, 0, 1), (0x500002, 1, 0, 64),
     (0x500003, 1, 0, 1), (0x500004, 1, 0, 1), (0x500005, 1, 0, 1), (0x700002, 1, 0, 2), (0x830004, 1, 0, 4),
     (0x831002, 65534, 1, 1), (0xC00004, 1, 0, 4), (0xC00005, 1, 0, 4)]

/-- R308: every RWS entry as index, sub-index and value. DESIGN CHOICE (log entry 204): an entry that a selector addresses counts
once for each instance, in ascending order. -/
def State.configBytes (s : State) (p : Part) : List Byte :=
  (rwsEntries p).flatMap fun e => (List.range e.2.1).flatMap fun i =>
    let v := if e.1 = 0x410003 then s.clockingEntry p i else (s.sh p).reg e.1 (e.2.2.1 + i)
    beBytes 3 e.1 ++ (if e.1 = 0x500002 then leBytes e.2.2.2 v else beBytes e.2.2.2 v)

/-- R308: the 320-byte body of a report. An endpoint's metrology measurement, and that of a module without an image, is 0. -/
def State.reportBody (s : State) (p : Part) (nonce : List Byte) : List Byte :=
  let digest := fun (l : List Byte) => sliceBytes (Config.sha512 l) 0 64
  let metro := match p, s.mod.meter.image with
    | .mod, some i => digest (Config.metroImage i.version)
    | _, _ => List.replicate 64 0#8
  beBytes 58 (s.reportHead p nonce) ++ digest (Config.identityKey (partNo p)) ++
    digest (Config.manifest (partNo p) (s.sh p).rot.version) ++ metro ++ digest (s.configBytes p) ++ List.replicate 6 0#8

/-- R308: ATTESTATION_REPORT_READY: the body and its signature. -/
def State.reportReady (s : State) (p : Part) : State :=
  let r := (s.sh p).rot
  match r.nonce with
  | none => s
  | some n =>
    if r.boot ≠ 1 then s
    else
      let body := s.reportBody p n
      let rep := body ++ sliceBytes (Config.attestationSign (partNo p) s.draws body) 0 512
      (s.modRot p fun r => { r with nonce := none, report := some rep }).drawn

/-! ### Keys (R310 to R318) -/

/-- Nothing held for a Job ID. -/
def JobKeys.none_ (job : Nat) : JobKeys where
  job := job
  cur := none
  prev := none
  coll := false
  pend := none
  retired := []
  removal := 0
  retireAt := 0
  readyAt := none

/-- What a part holds for a Job ID. -/
def State.keys (s : State) (p : Part) (job : Nat) : JobKeys := ((s.sh p).keysOf job).getD (JobKeys.none_ job)

/-- Put what a part holds for a Job ID. -/
def State.setKeys (s : State) (p : Part) (k : JobKeys) : State :=
  s.modSh p fun sh => { sh with keys := (sh.keys.filter fun x => x.job != k.job) ++ [k] }

/-- R316: does the part serve the Job ID: an Active slot or an Active slice? -/
def State.holdsJob (s : State) (p : Part) (job : Nat) : Bool :=
  match p with
  | .ep => s.ep.slots.any fun e => e.2.job == job && e.2.state == 1
  | .mod => s.hasSlice job

/-- R316: the fields of an installation: Job ID, key epoch, kind, activation time, reserved. -/
def installFields (val : List Byte) : Nat × Nat × Nat × Nat × Nat :=
  let h := beNat (sliceBytes val 0 64)
  (bits h 511 496, bits h 495 488, bits h 487 484, bits h 479 416, bits h 415 0)

/-- R316: is an installation refused with OutOfRange? -/
def State.installBad (s : State) (p : Part) (val : List Byte) (unwrapOk : Bool) : Bool :=
  let (job, epoch, kind, at_, reserved) := installFields val
  let k := s.keys p job
  let suits := match p with
    | .ep => (kind == 0 && job != 0) || (kind == 3 && job == 0)
    | .mod => ((kind == 1 || kind == 2) && job != 0) || (kind == 3 && job == 0)
  reserved != 0 || !suits || !unwrapOk || decide (at_ < 200000000 + s.rackNs p) || at_ % 100000000 != 0 ||
  (match k.cur with
   | some c => epoch != (c + 1) % 256
   | none => false) ||
  (kind != 3 && !s.holdsJob p job) || (kind == 1 && s.reduces job)

/-- R316: KEY_INSTALLATION: checked and held for its activation time. Kind 3 is the Operator's on every part, the other kinds
of an endpoint are the Host partition's (R323). A Job ID in removal refuses it with Busy before its other checks (R321). -/
def State.keyInstall (s : State) (p : Part) (a : Access) (key : Nat) (val : List Byte) (unwrapOk : Bool) : Nat × State :=
  let (job, epoch, kind, at_, _) := installFields val
  let k := s.keys p job
  if p = Part.ep ∧ (kind == 3) ≠ (a.principal == .operator) then (stDenied, dirDenied p a key s)
  else if (s.sh p).rot.boot = 2 then (stBusy, s)
  else if 1 ≤ k.removal ∧ k.removal ≤ 3 then (stBusy, s)
  else if val.length ≠ 576 ∨ s.installBad p val unwrapOk then (stRange, s.bothCount p 31 13)
  else if k.pend.isSome then (stBusy, s)
  else (stOk, s.setKeys p { k with pend := some (epoch, kind, at_), removal := 0 })

/-- R317, R318: KEY_ACTIVATION: the installed epoch becomes current, the one before is kept for opening. -/
def State.keyActivate (s : State) (p : Part) (job : Nat) : State :=
  let k := s.keys p job
  match k.pend with
  | none => s
  | some (e, kind, t) =>
    if s.rackNs p < t then s
    else
      let s := s.setKeys p { k with prev := k.cur, cur := some e, pend := none, coll := k.coll || kind == 2,
                                    retired := k.retired.filter fun x => x != e }
      match p with
      | .ep => if job = 0 then s else s.jobNotice 3 job 0 0
      | .mod =>
        let f := fun (x : Slice) => { x with reduce := true }
        if kind = 2 then s.modMod fun m => { m with slices := tabMod m.slices job f } else s

/-- R311: KEY_PERIOD: in the tick before a period begins the part derives its keys. -/
def State.keyPeriodKeys (s : State) (p : Part) : State :=
  if 100000000 ≤ s.rackNs p % 100000000 + 1000 then s.modRot p fun r => { r with derived := s.keyPeriod p + 1 } else s

/-! ### Removing a tenant (R320, R321) -/

/-- R320: does the part hold a Job ID: a slot or slice of it that is not Free, or its secrets? -/
def State.keepsJob (s : State) (p : Part) (job : Nat) : Bool :=
  (s.keys p job).cur.isSome ||
  match p with
  | .ep => (s.ep.slotOf job).isSome
  | .mod => match tabGet s.mod.slices job with
    | some e => e.v && e.state != 0
    | none => false

/-- R320: JOB_RETIRE: removal starts; a pending activation at or after R is cancelled. -/
def State.jobRetire (s : State) (p : Part) (val : List Byte) : Nat × State :=
  let w := beNat val
  let job := bits w 127 112
  let at_ := bits w 111 48
  let k := s.keys p job
  if val.length ≠ 16 ∨ bits w 47 0 ≠ 0 ∨ at_ % 1000 ≠ 0 ∨ at_ < 1000000 + s.rackNs p then (stRange, s)
  else if 1 ≤ k.removal ∧ k.removal ≤ 3 then (stBusy, s)
  else if !s.keepsJob p job then (stRange, s)
  else
    let pend := match k.pend with
      | some (e, kind, t) => if at_ ≤ t then none else some (e, kind, t)
      | none => none
    (stOk, s.setKeys p { k with pend := pend, removal := 1, retireAt := at_, readyAt := none })

/-- R225, R262: a slice is revoked, and the queue pairs bound to its job go to error. -/
def State.tearSlice (s : State) (job : Nat) : State := (s.sliceRevoke job).qpsTorn job

/-- R320: RETIRE_TIME: every key epoch of the job is retired, its slot or slice revoked. -/
def State.retireTime (s : State) (p : Part) (job : Nat) : State :=
  let k := s.keys p job
  if k.removal ≠ 1 ∨ s.rackNs p < k.retireAt then s
  else
    let s := s.setKeys p { k with removal := 2, pend := none, retired := (k.cur.toList ++ k.prev.toList).foldl setIns k.retired }
    match p with
    | .ep => match s.ep.slotOf job with
      | some (n, x) => if x.state = 1 ∨ x.state = 2 then s.revokeSlot n else s
      | none => s
    | .mod => s.tearSlice job

/-- R320: has the slot or slice of the job ended? -/
def State.jobGone (s : State) (p : Part) (job : Nat) : Bool :=
  match p with
  | .ep => (s.ep.slotOf job).isNone
  | .mod => match tabGet s.mod.slices job with
    | some e => !e.v || e.state == 3 || e.state == 0
    | none => true

/-- R320: has the scrubbing of a removed job ended: every region of it Free, or Retained? -/
def State.scrubbed (s : State) (p : Part) (job : Nat) : Bool :=
  match p with
  | .ep => true
  | .mod => s.mod.regions.all fun r => r.2.owner != job || r.2.state == 0 || (r.2.retain && r.2.state == 4)

/-- R320: the scrubbing of removed jobs that has ended is noted with its epoch: they settle at the next one. -/
def State.noteScrubbed (s : State) (p : Part) : State :=
  s.modSh p fun sh => { sh with keys := sh.keys.map fun k =>
    if k.removal = 3 ∧ k.readyAt = none ∧ s.scrubbed p k.job then { k with readyAt := some (s.epochOf p) } else k }

/-- R320: REMOVAL_SCRUB: secrets are erased; the job's regions without Retain begin removal. -/
def State.removalScrub (s : State) (p : Part) (job : Nat) : State :=
  let k := s.keys p job
  if k.removal ≠ 2 ∨ ¬ s.jobGone p job then s
  else
    let s := s.setKeys p { k with removal := 3, cur := none, prev := none, coll := false }
    match p with
    | .ep => s.noteScrubbed .ep
    | .mod => (s.regionsScrub job).noteScrubbed .mod

/-- R393: the final snapshot of a partition. -/
def State.finalSnapshot (s : State) (p : Part) (job : Nat) : State :=
  let l := (List.range 10).map fun i => s.counter p 0x20 job i
  s.modSh p fun sh => { sh with ctr := { sh.ctr with finals := tabSet sh.ctr.finals job l } }

/-- R320, R380: REMOVAL_SETTLE: at the epoch boundary after the scrubbing has ended the partition takes its final snapshot and the
meter account closes. -/
def State.removalSettle (s : State) (p : Part) (job : Nat) : State :=
  let s := s.noteScrubbed p
  let k := s.keys p job
  let due : Bool := match k.readyAt with
    | some e => decide (e < s.epochOf p)
    | none => false
  if k.removal ≠ 3 ∨ ¬ due then s
  else
    let s := (s.finalSnapshot p job).setKeys p { k with removal := 4 }
    match p with
    | .ep => s
    | .mod =>
      let f := fun (x : Account) => { x with closing := true }
      s.modMeter fun m => { m with accounts := tabMod m.accounts job f }

end Sys2Proof.Machine
end

