-- ==== Sys2Proof/Machine/Counters.lean ====
section
/-! DEFINITION. Counter groups, snapshots, chain masks and resets (R387 to R394, R398), the endpoint's trace buffer (R396), and
the outputs that a part drives (R263, R354, R401). -/

namespace Sys2Proof.Machine

/-! ### Groups (R390) -/

/-- R390: instances and positions of a counter group of a part. -/
def groupShape (p : Part) (g : Nat) : Option (Nat × Nat) :=
  match p, g with
  | .mod, 0x01 => some (256, 13)
  | .mod, 0x02 => some (1024, 3)
  | .mod, 0x03 => some (64, 19)
  | .mod, 0x04 => some (1024, 5)
  | .mod, 0x05 => some (512, 7)
  | .mod, 0x06 => some (1, 12)
  | .mod, 0x07 => some (1, 3)
  | .mod, 0x08 => some (512, 1)
  | _, 0x09 => some (2, 1)
  | .mod, 0x0A => some (1, 23)
  | .mod, 0x0F => some (512, 4)
  | .ep, 0x11 => some (16, 13)
  | .ep, 0x12 => some (64, 3)
  | .ep, 0x13 => some (1, 42)
  | .ep, 0x14 => some (32, 4)
  | _, _ => none

/-- Positions of a group or of a partition. -/
def positions (p : Part) (g : Nat) : Nat :=
  if g = 0x20 then 10 else match groupShape p g with
    | some x => x.2
    | none => 0

/-- R177, R390: the live value at a position; group 0x0F numbers the fields of the lateness records. -/
def State.liveAt (s : State) (p : Part) (g inst pos : Nat) : Nat :=
  if p = Part.mod ∧ g = 0x0F then
    match tabGet s.mod.late inst with
    | some r => [r.barriers, r.last, r.sum, r.max].getD pos 0
    | none => 0
  else s.counter p g inst pos

/-- R389, R390: the live values of an instance, 8 bytes a position. -/
def State.liveBytes (s : State) (p : Part) (g inst : Nat) : List Byte :=
  (List.range (positions p g)).flatMap fun i => beBytes 8 (s.liveAt p g inst i)

/-- R389: the snapshot of an instance; a partition that has ended shows its final snapshot (R393). -/
def State.snapBytes (s : State) (p : Part) (g inst : Nat) : List Byte :=
  match (if g = 0x20 then tabGet (s.sh p).ctr.finals inst else none) with
  | some l => (List.range 10).flatMap fun i => beBytes 8 (l.getD i 0)
  | none => (List.range (positions p g)).flatMap fun i => beBytes 8 (tabGetD (s.sh p).ctr.bank (ctrNo g inst i) 0)

/-! ### Snapshots, masks and resets (R388, R389) -/

/-- Change the counters of a part. -/
def State.modCtr (s : State) (p : Part) (f : Counters → Counters) : State := s.modSh p fun sh => { sh with ctr := f sh.ctr }

/-- R389: COUNTER_SNAPSHOT, at an epoch that the period names. -/
def State.snapshot (s : State) (p : Part) : State :=
  let done := (s.sh p).ctr.bankTime ≠ 0 ∧ s.epochOf p * 1000000 ≤ (s.sh p).ctr.bankTime
  if s.epochOf p % max 1 (s.reg p 0x901001) ≠ 0 ∨ done then s
  else s.modCtr p fun c => { c with bank := c.live, bankTime := s.epochOf p * 1000000, bankUnlocked := !s.locked p }

/-- R388, R398: a chain mask write waits for the next epoch boundary. -/
def State.chainWrite (s : State) (p : Part) (g inst mask : Nat) : Nat × State :=
  if 2 ^ (positions p g - 1) ≤ mask then (stRange, s)
  else (stOk, s.modCtr p fun c => { c with pendChain := tabSet c.pendChain (g * 65536 + inst) (s.nextEpoch p * 2 ^ 64 + mask) })

/-- R398: an instance reset waits for the next epoch boundary. -/
def State.resetWrite (s : State) (p : Part) (g inst : Nat) : Nat × State :=
  (stOk, s.modCtr p fun c => { c with pendReset := tabSet c.pendReset (g * 65536 + inst) (s.nextEpoch p) })

/-- R388: counters of an instance set to 0 where `which` says so. -/
def Counters.clear (c : Counters) (k : Nat) (which : Nat → Bool) : Counters :=
  { c with live := c.live.filter fun e => !(e.1 / 256 == k && which (e.1 % 256)) }

/-- R388: CHAIN_MASK_EFFECTIVE: at the epoch boundary a new mask, or a reset, of an instance takes effect. -/
def State.chainEffective (s : State) (p : Part) (g inst : Nat) : State :=
  let k := g * 65536 + inst
  let now := s.epochOf p
  let s := match tabGet (s.sh p).ctr.pendChain k with
    | some v =>
      if now < v / 2 ^ 64 then s
      else
        let new := v % 2 ^ 64
        let diff := new ^^^ tabGetD (s.sh p).ctr.chain k 0
        s.modCtr p fun c =>
          { c.clear k (fun i => bit diff i || (decide (0 < i) && bit diff (i - 1))) with
            chain := tabPut c.chain k new 0, pendChain := tabDel c.pendChain k }
    | none => s
  match tabGet (s.sh p).ctr.pendReset k with
  | some e => if now < e then s else s.modCtr p fun c => { c.clear k (fun _ => true) with pendReset := tabDel c.pendReset k }
  | none => s

/-- R398: GROUP_INDEX_WRITE: the context's Instance index returns to 0. -/
def State.groupIndex (s : State) (p : Part) (c : Ctx) (val : List Byte) : Nat × State :=
  if val.length ≠ 2 ∨ (groupShape p (beNat val)).isNone then (stRange, s)
  else (stOk, (s.setSel p c 0x900001 (beNat val)).setSel p c 0x900002 0)

/-- R398: an Instance index names an instance of the context's group. -/
def State.instanceIndex (s : State) (p : Part) (c : Ctx) (v : Nat) : Nat × State :=
  match groupShape p (s.sel p c 0x900001) with
  | some x => if v < x.1 then (stOk, s.setSel p c 0x900002 v) else (stRange, s)
  | none => (stRange, s)

/-! ### The endpoint's trace buffer (R396) -/

/-- R396: the record at an index, 0 the newest; its base and offsets are kept in ns. -/
def State.traceAt (s : State) (i : Nat) : Option TraceRec := s.ep.trace[i]?

/-! ### Outputs (R263, R340, R354, R401) -/

/-- R354: PWR_GOOD: high only in Run, Trim and Rest. -/
def Module.pwrGood (m : Module) : Bool := decide (m.power.state ≤ 2)

/-- R401: LED_ST: high in Run and Trim. -/
def Module.ledSt (m : Module) : Bool := decide (m.power.state ≤ 1)

/-- R401: FAULT# is driven low while the module is fenced, named by a Plane failed verdict, or in boot state 2. -/
def State.faultLow (s : State) : Bool :=
  s.mod.ve.fenced || s.mod.sh.verd.failed.contains s.plane || s.mod.sh.rot.boot == 2

/-- R362: THERM# is driven low from a thermal trip until the next start. -/
def Module.thermLow (m : Module) : Bool := m.power.therm

/-- R263, R340, R352: SMBALERT# is driven low while a record of the log is not acknowledged. -/
def State.alertLow (s : State) (p : Part) : Bool := (s.sh p).smbAlert

/-! ### The host ports (R260) -/

/-- R260: HOST_LINK_STATE_CHANGE: 0 down, 1 training, 2 up. R365: no host port trains on a failed crystal. -/
def State.hostLink (s : State) (port st : Nat) : State :=
  if 4 ≤ port ∨ 3 ≤ st ∨ (st ≠ 0 ∧ s.mod.sh.clk.crystal = 2) then s else s.modMod fun m => { m with hosts := tabPut m.hosts port st 0 }

/-- R260: the module answers ARP (0), neighbour discovery (1) and ICMP echo (2) addressed to it on a port that is up; it
discards IP fragments (3). -/
def State.hostFrame (s : State) (port kind : Nat) (own : Bool) : State :=
  if kind = 3 then s.modMod fun m => { m with fragments := m.fragments + 1 }
  else if port < 4 ∧ kind < 3 ∧ own ∧ tabGetD s.mod.hosts port 0 = 2 then s.emit (.host port kind)
  else s

end Sys2Proof.Machine
end

