-- ==== Sys2Proof/Machine/DirRead.lean ====
section
/-! DEFINITION. Reads of the Parameter Directory: the value of every entry of both parts (R325, R339, and the entry tables of
all chapters). -/

namespace Sys2Proof.Machine

/-! ### Layouts of records -/

/-- R340: an event record. -/
def EventRec.word (r : EventRec) : Nat :=
  r.time % 2 ^ 64 * 2 ^ 192 + ofBool r.unlocked * 2 ^ 184 + r.severity * 2 ^ 176 + r.code * 2 ^ 160 + r.seq * 2 ^ 128 +
  r.job * 2 ^ 112 + r.detail % 2 ^ 112

/-- R46: a denial record. -/
def Denial.word (d : Denial) : Nat :=
  d.job * 2 ^ 112 + d.src * 2 ^ 102 + d.off * 2 ^ 56 + d.typ * 2 ^ 48 + d.reason * 2 ^ 44 + d.time % 2 ^ 44

/-- R187: a Commons error record. -/
def MemError.word (e : MemError) : Nat :=
  e.owner * 2 ^ 112 + e.stack * 2 ^ 107 + e.kind * 2 ^ 104 + e.line * 2 ^ 59 + e.time % 2 ^ 44

/-- R247: a Capability block. -/
def capWord (c : Capability) : Nat :=
  0x87 * 2 ^ 248 + c.linkRev * 2 ^ 240 + c.partKind * 2 ^ 238 + ofBool c.valid * 2 ^ 237 + c.pod * 2 ^ 233 + c.rack * 2 ^ 229 +
  c.plane * 2 ^ 225 + c.slot * 2 ^ 217 + c.node * 2 ^ 207 + c.port * 2 ^ 199 + c.role * 2 ^ 197 + c.widths * 2 ^ 194 +
  c.width * 2 ^ 192 + c.clocking * 2 ^ 191 + ofBool c.seen * 2 ^ 190 + ofBool c.accepted * 2 ^ 189

/-- R264: a queue pair binding. -/
def QPair.word (q : QPair) : Nat := q.use * 2 ^ 126 + q.job * 2 ^ 110 + q.rkey * 2 ^ 78

/-- 0x8100.03: the key state of a Job ID. -/
def State.keyState (s : State) (p : Part) (job : Nat) : Nat :=
  let k := s.keys p job
  k.cur.getD 0 * 2 ^ 24 + k.prev.getD 0 * 2 ^ 16 + ofBool (p == Part.mod && s.reduces job) * 2 ^ 8 + ofBool k.pend.isSome

/-- 0x6100.0C: the states of a group's sequence slots, slot 0 in the first byte. -/
def State.slotStates (s : State) (gi : Nat) : Nat :=
  (List.range 4).foldl (fun a i => a * 256 + (match tabGet (s.group gi).slots i with
    | some x => x.state
    | none => 0)) 0

/-- 0xA200.02: the state of a node, 512 + plane for a module. -/
def State.nodeState (s : State) (n : Nat) : Nat :=
  let v := s.mod.sh.verd
  let gone := if n < 512 then v.dead.contains n else v.failed.contains (n - 512)
  ofBool (s.mod.ve.suspectMask.contains n) * 128 + (if gone then 2 else if s.suspected n then 1 else 0)

/-- 0x2000.06: the 10-tick mean of the input power. -/
def Power.mean (p : Power) : Nat := p.means.foldl (· + ·) 0 / max 1 p.means.length

/-- 0x3000.04, R366: reference status: the crystal in range, the source timing lane synchronised, the phase reference in use. -/
def State.refStatus (s : State) (p : Part) : Nat :=
  let sh := s.sh p
  let doms := (List.range (domainCount p)).map fun d => s.domain p d
  ofBool (sh.clk.crystal == 1 && !doms.any fun x => x.ref == 1 && (bit x.flags 3 || bit x.flags 4)) +
  2 * ofBool (sh.rt.lane sh.rt.source).sync + 4 * ofBool (doms.any fun x => x.ref == 3)

/-- 0x4300.07: the taps of a lane as four signed bytes. -/
def Lane.tapWord (l : Lane) : Nat := (List.range 4).foldl (fun a i => a * 256 + patternOf 8 (l.taps.getD i 0)) 0

/-- R325: the selected instance of an entry: a port, a lane, a host port, a queue pair, a Job ID or nothing. -/
def State.instOf (s : State) (p : Part) (c : Ctx) (key : Nat) : Nat :=
  match key / 256 with
  | 0x4100 => s.sel p c 0x410001
  | 0x4300 => s.sel p c 0x430001
  | 0x4900 => s.sel p c 0x490001
  | 0x4A00 => s.sel p c 0x4A0001
  | 0x8310 => s.sel p c 0x831001
  | 0x9020 => s.sel p c 0x902001
  | 0x3010 => s.sel p c 0x301001
  | _ => 0

/-! ### Numbers -/

/-- Numbers of the endpoint's own entries. -/
def State.epNum (s : State) (c : Ctx) (k inst : Nat) : Option Nat :=
  match k with
  | 0xD20001 => some 32768
  | 0xD20002 => some 1024
  | 0xD20003 => some 256
  | 0xD21001 => some (s.slot inst).job
  | 0xD21002 => some (s.slot inst).root
  | 0xD21004 => some (s.slot inst).gen
  | 0xD21005 => some (s.slot inst).state
  | 0xD30001 => some 8192
  | 0xD40002 => some 16777216
  | 0xD40004 => some 512
  | 0xD40005 => some 16384
  | 0xD50002 => some 16384
  | 0xD50003 => some 4096
  | 0xD50009 => some 2048
  | 0xD5000A => some 4096
  | 0xD5000B => some 1024
  | 0xD10002 => some s.ep.linkMask
  | 0xD10003 => some eriGrant
  | 0xD60001 => some 32
  | 0xD60004 => some 4096
  | 0xD61001 => some 256
  | 0xD62004 => some s.ep.restoreBytes
  | 0xD70002 => some s.ep.liveMask
  | 0xD70003 => some s.ep.widthWord
  | 0xD80001 => some 128
  | 0xD80002 => some s.ep.sh.rot.boot
  | 0xD8000B => some (s.keyState .ep (s.sel .ep c 0xD8000A))
  | 0xD8000C => some (s.keys .ep (s.sel .ep c 0xD8000A)).removal
  | 0xD90001 => some (patternOf 32 s.ep.temp)
  | 0xD90003 => some s.ep.supply
  | 0xDA0003 => some (tabGetD s.ep.sh.windows (s.sel .ep c 0xDA0001) Window.zero).state
  | _ =>
    if k / 256 = 0xD601 then some (match tabGet s.ep.lists (k % 256) with
      | some l => l.state
      | none => 0)
    else if k / 256 = 0xD701 then some (match s.ep.exclusions[k % 256]? with
      | some x => x.1 * 16 + x.2
      | none => 0xFFFF)
    else none

/-- Numbers of the module's tables, tiles and links. -/
def State.modNum (s : State) (c : Ctx) (k inst : Nat) : Option Nat :=
  let m := s.mod
  match k with
  | 0x600001 => some 512
  | 0x600002 => some m.engCount
  | 0x600003 => some 0x3FFF
  | 0x600004 => some 320
  | 0x600005 => some 32
  | 0x610001 => some 16384
  | 0x610005 => some 4
  | 0x61000C => some (s.slotStates (s.sel .mod c 0x610006))
  | 0x61000D => some (s.group (s.sel .mod c 0x610006)).base
  | 0x700001 => some 1536
  | 0x700003 => some s.usableGib
  | 0x700005 => some m.stackMask
  | 0x701003 => some (s.region (s.sel .mod c 0x701001)).state
  | 0x710001 => some 64
  | 0x720001 => some 16384
  | 0x740004 => some 2048
  | 0x750002 => some 8192
  | 0x750003 => some 16384
  | 0x750004 => some 4096
  | 0x760002 => some m.push.state
  | 0x760003 => some m.push.pushed
  | 0x760004 => some m.push.failed
  | 0x760008 => some 65536
  | 0x500006 => some (512 + s.plane)
  | 0x510001 => some 256
  | 0x510002 => some 32768
  | 0x51000C => some m.tilesMask
  | 0x520001 => some (s.scdPages 0)
  | 0x540002 => some (s.route (s.sel .mod c 0x540001)).word
  | 0x550003 => some m.slices.length
  | 0x490003 => some (Config.macAddress inst % 2 ^ 48)
  | 0x490006 => some (tabGetD m.hosts inst 0)
  | 0x4A0003 => some (s.qp inst).state
  | 0xC10001 => some m.align
  | 0xC30006 => some (tabGetD m.sh.mown (s.sel .mod c 0xC30002) MownEntry.zero).offset
  | 0xA00001 => some 10
  | 0xA00002 => some 35
  | 0xA00004 => some s.quorum
  | 0xA00005 => some s.leader
  | 0xA00006 => some m.sh.verd.last
  | 0xA20002 => some (s.nodeState (s.sel .mod c 0xA20001))
  | 0xA40003 => some (tabGetD m.sh.windows (s.sel .mod c 0xA40001) Window.zero).state
  | _ => none

/-- Numbers of the module's boot, keys, power and meter. -/
def State.modNum2 (s : State) (c : Ctx) (k : Nat) : Option Nat :=
  let m := s.mod
  let p := m.power
  match k with
  | 0x800001 => some m.sh.rot.boot
  | 0x800002 => some m.sh.rot.reason
  | 0x800003 => some m.sh.rot.active
  | 0x800004 => some m.sh.rot.slotWord
  | 0x810003 => some (s.keyState .mod (s.sel .mod c 0x810002))
  | 0x810004 => some 100
  | 0x820002 => some (s.keys .mod (s.sel .mod c 0x810002)).removal
  | 0x830003 => some (match tabGet m.creds (s.sel .mod c 0x830001) with
      | some x => if x.principal = Principal.operator then 1 else 2
      | none => 0)
  | 0x830005 => some m.sessions.length
  | 0x832001 => some 268435456
  | 0x200001 => some p.state
  | 0x200004 => some p.mV
  | 0x200005 => some p.mA
  | 0x200006 => some p.mean
  | 0x200007 => some p.stopCause
  | 0x200008 => some (0x60 + p.strap)
  | 0x200009 => some p.inputFlags
  | 0x201002 => some p.cap
  | 0x201007 => some (p.target / 2)
  | 0x201008 => some p.source
  | 0x201009 => some p.levels.length
  | 0x20100B => some 500
  | 0x202001 => some (patternOf 32 p.inlet)
  | 0x202002 => some (Config.measured 0 % 2 ^ 32)
  | 0x202003 => some (patternOf 32 p.junction)
  | 0x202004 => some p.thermal
  | 0xB00002 => some 1000
  | _ => none

/-- Numbers that both parts hold. -/
def State.bothNum (s : State) (p : Part) (c : Ctx) (k inst : Nat) : Option Nat :=
  let sh := s.sh p
  let ep := p == Part.ep
  match k with
  | 0x100001 => some (partNo p)
  | 0x100002 => some (siliconRev p)
  | 0x100003 => some (match sh.rot.running with
      | some b => if sh.rot.boot = 1 then b.version else 0
      | none => 0)
  | 0x100006 => some 1
  | 0x100007 => some 1
  | 0x100008 => some 1
  | 0x100009 => some 1
  | 0x10000A => some (match s.mod.meter.image with
      | some i => i.version
      | none => 0)
  | 0x10000B => some (Config.bootRomRevision (partNo p) % 2 ^ 16)
  | 0x300001 => some (domainCount p)
  | 0x300002 => some sh.clk.crystal
  | 0x300003 => some sh.clk.oscKHz
  | 0x300004 => some (s.refStatus p)
  | 0x301002 => some (s.domain p inst).kHz
  | 0x301003 => some (s.domain p inst).ref
  | 0x301004 => some (s.domain p inst).flags
  | 0x301005 => some (s.domain p inst).sticky
  | 0x400001 => some (if ep then 64 else 1024)
  | 0x400002 => some (if ep then 16 else 256)
  | 0x410003 => some (s.clockingEntry p inst)
  | 0x410004 => some (s.port p inst).state
  | 0x410005 => some (s.port p inst).lanes
  | 0x420006 => some 262144
  | 0x430002 => some (s.lane p inst).state
  | 0x430004 => some (Config.eyeEstimate inst % 2 ^ 32)
  | 0x430007 => some (s.lane p inst).tapWord
  | 0x480001 => some sh.rt.laneStatus
  | 0xC00001 => some (s.rackNs p)
  | 0xC00002 => some sh.rt.state
  | 0xC00003 => some sh.rt.source
  | 0xC00008 => some (patternOf 64 (sh.rt.lastStep / 5))
  | 0xC20001 => some sh.mode
  | 0xC30001 => some (if ep then 256 else 1024)
  | 0xC30004 => some (tabGetD sh.mown (s.sel p c 0xC30002) MownEntry.zero).state
  | 0xA80003 => some sh.log.acked
  | 0xA80004 => some sh.log.lost
  | 0x900005 =>
    let g := s.sel p c 0x900001 * 65536 + s.sel p c 0x900002
    some ((match tabGet sh.ctr.pendChain g with
      | some v => v
      | none => tabGetD sh.ctr.chain g 0) % 2 ^ 64)
  | 0x901002 => some sh.ctr.bankTime
  | 0x901003 => some (ofBool sh.ctr.bankUnlocked)
  | 0x902004 =>
    let g := 0x20 * 65536 + inst
    some ((match tabGet sh.ctr.pendChain g with
      | some v => v
      | none => tabGetD sh.ctr.chain g 0) % 2 ^ 64)
  | _ => none

/-- The number that an entry of a numeric type reads as: a selector's copy, what the state gives, or what is stored. -/
def State.dirNum (s : State) (p : Part) (c : Ctx) (e : Entry) (key : Nat) : Nat :=
  let k := (slotKey key).1
  let inst := if k / 256 = 0xD210 then (slotKey key).2 else s.instOf p c key
  let own := match p with
    | .ep => s.epNum c k inst
    | .mod => (s.modNum c k inst).orElse fun _ => s.modNum2 c k
  if e.wr = 6 then s.sel p c key
  else match own.orElse (fun _ => s.bothNum p c k inst) with
    | some v => v
    | none => (s.sh p).reg k inst

/-! ### BLOBs and strings -/

/-- R394, R398: may the access see the records of a Job ID? -/
def seesJob (p : Part) (a : Access) (job : Nat) (s : State) : Bool :=
  a.principal == .operator || (a.principal == .host && hostHolds p a job s)

/-- R340, R341: the event record at an index, 0 the newest; a Host partition of a module sees its own Job IDs. -/
def State.logBytes (s : State) (p : Part) (a : Access) : List Byte :=
  match (s.sh p).log.recs.reverse[s.sel p a.ctx 0xA80001]? with
  | some r =>
    if a.principal = Principal.operator ∨ p = Part.ep ∨ (r.job ≠ 0 ∧ hostHolds p a r.job s) then beBytes 32 r.word
    else List.replicate 32 0#8
  | none => List.replicate 32 0#8

/-- The characters of a string. -/
def asciiBytes (l : List Nat) : List Byte := l.map fun c => BitVec.ofNat 8 c

/-- 0x1000.04: "SNH-E64" and "SNH-S1024". -/
def partNumber : Part → List Byte
  | .ep => asciiBytes [0x53, 0x4E, 0x48, 0x2D, 0x45, 0x36, 0x34]
  | .mod => asciiBytes [0x53, 0x4E, 0x48, 0x2D, 0x53, 0x31, 0x30, 0x32, 0x34]

/-- BLOBs of the endpoint's own entries. -/
def State.epBlob (s : State) (a : Access) (k : Nat) : Option (List Byte) :=
  let c := a.ctx
  match k with
  | 0xD30004 => some (beBytes 16 (tabGetD s.ep.sh.adm (s.sel .ep c 0xD30003) AdmEntry.empty).word)
  | 0xD80005 => some (Config.certificate 0 0)
  | 0xD80007 => s.ep.sh.rot.report
  | 0xDA0002 => some (beBytes 16 (tabGetD s.ep.sh.windows (s.sel .ep c 0xDA0001) Window.zero).word)
  | 0x911002 => some (match s.traceAt (s.sel .ep c 0x911001) with
      | some t =>
        if seesJob .ep a t.pkt.job s then traceWord t.seq t.pkt 0 0xFF 0 false t.kind t.base t.offs else List.replicate 64 0#8
      | none => List.replicate 64 0#8)
  | _ =>
    if k / 256 = 0xD201 then some (beBytes 16 (match tabGet s.ep.faults (k % 256) with
      | some f => f.word (k % 256)
      | none => 0xFFFF * 2 ^ 112))
    else if k / 256 = 0xD301 then some (beBytes 16 (match s.denialAt .ep k with
      | some d => d.word
      | none => 0))
    else none

/-- BLOBs of the module's own entries. -/
def State.modBlob (s : State) (a : Access) (k : Nat) : Option (List Byte) :=
  let c := a.ctx
  let m := s.mod
  let g := s.group (s.sel .mod c 0x610006)
  match k with
  | 0x720004 => some (beBytes 16 (tabGetD m.sh.adm (s.sel .mod c 0x720003) AdmEntry.empty).word)
  | 0x610007 => some (beBytes 16 g.word)
  | 0x610008 => some (g.table.flatMap fun w => beBytes 2 w)
  | 0x61000A => some (beBytes 16 (g.ctx (s.sel .mod c 0x610009)).bits_)
  | 0x61000B => some (g.prog (s.sel .mod c 0x610009))
  | 0x620002 => some (match tabGet m.late (s.sel .mod c 0x620001) with
      | some r => beBytes 4 r.barriers ++ beBytes 4 r.last ++ beBytes 4 r.sum ++ beBytes 4 r.max
      | none => List.replicate 16 0#8)
  | 0x701002 => some (beBytes 16 (s.region (s.sel .mod c 0x701001)).word)
  | 0x500002 => some (leBytes 64 (m.sh.reg 0x500002 0))
  | 0x51000B =>
    let t := s.sel .mod c 0x51000A
    let x := s.tile t
    some ((beBytes 16 ((s.framePool - s.frameHeld t) + (s.reg .mod 0x510003 - s.parkHeld t) * 2 ^ 32 +
      (s.reg .mod 0x510004 - x.windUsed) * 2 ^ 64 + s.pagesHeld t * 2 ^ 96)).reverse)
  | 0x520002 => some ((List.range 4).flatMap fun i => beBytes 4 (s.scdPages i - s.scdHeld i))
  | 0x540004 => some (leBytes 32 (tabGetD m.rackRoutes (s.sel .mod c 0x540003) 0))
  | 0x550002 => some (beBytes 80 (tabGetD m.slices (s.sel .mod c 0x550001) Slice.free).word)
  | 0x490005 => some (beBytes 16 (m.sh.reg 0x490005 (s.sel .mod c 0x490001)))
  | 0x4A0002 => some (beBytes 16 (s.qp (s.sel .mod c 0x4A0001)).word)
  | 0xC10003 => some (beBytes 16 (maskOf 69 fun d => m.alignBad.contains d))
  | 0xA30002 =>
    let ver := match m.sh.rot.running with
      | some b => b.version
      | none => 0
    some (beBytes 8 (Config.canaryDigest 0 ver) ++ beBytes 8 (Config.canaryDigest 1 ver))
  | 0xA30003 => some (beBytes 64 (maskOf 512 fun e => m.engOut.contains e))
  | 0xA40002 => some (beBytes 16 (tabGetD m.sh.windows (s.sel .mod c 0xA40001) Window.zero).word)
  | 0xA50005 => some (beBytes 64 (maskOf 512 fun n => m.ve.suspectMask.contains n))
  | 0x801001 => some (Config.certificate 1 0)
  | 0x801002 => some (Config.certificate 1 1)
  | 0x801004 => m.sh.rot.report
  | 0x201001 => some (beBytes 16 (m.sh.reg 0x201001 0))
  | 0x20100A => some (beBytes 8 (m.power.energy / 2520000) ++ beBytes 4 m.power.excess ++ beBytes 4 m.power.ticks)
  | 0xB00006 => some (Config.certificate 1 2)
  | 0xB10004 =>
    let i := s.sel .mod c 0xB10003
    some ((List.range 2048).flatMap fun n =>
      m.meter.position (fun r => a.principal == .operator || (r.job != 0 && hostHolds .mod a r.job s)) (i + n))
  | 0xB20002 =>
    let x := tabGetD m.meter.accounts (s.sel .mod c 0xB20001) Account.zero
    some (beBytes 8 x.ingress ++ beBytes 8 x.egress ++ beBytes 8 x.gib)
  | 0x920001 => some ((List.range 128).flatMap fun i => beBytes 4 (tabGetD m.stageHist i 0))
  | _ =>
    if k / 256 = 0x7201 then some (beBytes 16 (match s.denialAt .mod k with
      | some d => d.word
      | none => 0))
    else if k / 256 = 0x7300 then some (beBytes 16 (match m.errors[k % 256]? with
      | some e => e.word
      | none => 0))
    else if k / 256 = 0xA001 then some (match m.sh.verd.records[k % 256]? with
      | some v => vPayload v
      | none => List.replicate 32 0#8)
    else none

/-- BLOBs and strings that both parts hold. -/
def State.bothBlob (s : State) (p : Part) (a : Access) (k : Nat) : Option (List Byte) :=
  let c := a.ctx
  match k with
  | 0x100004 => some (partNumber p)
  | 0x100005 => some (sliceBytes (Config.serialNumber (partNo p)) 0 12)
  | 0x410006 => some (match (s.port p (s.sel p c 0x410001)).peer with
      | some x => beBytes 32 (capWord x)
      | none => List.replicate 32 0#8)
  | 0x430003 =>
    let h := (s.lane p (s.sel p c 0x430001)).hist
    some ((List.range 16).flatMap fun i => beBytes 4 (tabGetD h i 0))
  | 0x430006 => some (sliceBytes (s.lane p (s.sel p c 0x430001)).scan 0 1024)
  | 0xC30003 => some (beBytes 32 (tabGetD (s.sh p).mown (s.sel p c 0xC30002) MownEntry.zero).word)
  | 0x302001 => some (beBytes 16 ((s.sh p).coastMask (domainCount p)))
  | 0xA80002 => some (s.logBytes p a)
  | 0x900003 => some (s.liveBytes p (s.sel p c 0x900001) (s.sel p c 0x900002))
  | 0x900004 => some (s.snapBytes p (s.sel p c 0x900001) (s.sel p c 0x900002))
  | 0x902002 => some (s.liveBytes p 0x20 (s.sel p c 0x902001))
  | 0x902003 => some (s.snapBytes p 0x20 (s.sel p c 0x902001))
  | _ => none

/-- The value of an entry; none while the part has none to give (an attestation report not made, R308). -/
def State.dirValue (s : State) (p : Part) (a : Access) (e : Entry) (key : Nat) : Option (List Byte) :=
  if e.kind ≤ 2 then some (beBytes e.size (s.dirNum p a.ctx e key))
  else
    let own := match p with
      | .ep => s.epBlob a key
      | .mod => s.modBlob a key
    own.orElse fun _ => s.bothBlob p a key

/-! ### Requests -/

/-- R327: a read request: the status and the value. -/
def State.dirRead (s : State) (p : Part) (a : Access) (key : Nat) : State × Nat × List Byte :=
  match dirCheck p a key false s with
  | 0 => match entryOf p key with
    | none => (s, stNoEntry, [])
    | some e => match s.dirValue p a e key with
      | some v => (s, stOk, v)
      | none => (s, stBusy, [])
  | 1 => (s, stNoEntry, [])
  | 2 => (s, stDenied, [])
  | 3 => (dirDenied p a key s, stDenied, [])
  | _ => (s, stMode, [])

/-- R337: ten seconds. -/
def blobLife : Nat := 10000000000

/-- A context's blob of an entry in a list of them. -/
def blobOf (l : List Blob) (c : Ctx) (key : Nat) : Option Blob := l.find? fun b => b.ctx == c && b.key == key

/-- A list of blobs without a context's blob of an entry. -/
def blobDrop (l : List Blob) (c : Ctx) (key : Nat) : List Blob := l.filter fun b => !(b.ctx == c && b.key == key)

/-- R337: a segment read: at offset 0 it takes a snapshot, which serves the context's later reads. -/
def State.segRead (s : State) (p : Part) (a : Access) (key off count : Nat) : State × Nat × List Byte :=
  let keep := fun (s : State) (d : List Byte) => s.modSh p fun sh =>
    { sh with snaps := blobDrop sh.snaps a.ctx key ++ [{ ctx := a.ctx, key := key, data := d, at_ := s.ns, expired := false }] }
  if off = 0 then
    let r := s.dirRead p a key
    if r.2.1 = stOk then (keep r.1 r.2.2, stOk, r.2.2.take count) else r
  else
    match dirCheck p a key false s with
    | 0 => match blobOf (s.sh p).snaps a.ctx key with
      | some b =>
        if b.expired ∨ b.at_ + blobLife ≤ s.ns then (s, stExpired, [])
        else if b.data.length < off then (s, stRange, [])
        else (s, stOk, (b.data.drop off).take count)
      | none => (s, stExpired, [])
    | 1 => (s, stNoEntry, [])
    | 2 => (s, stDenied, [])
    | 3 => (dirDenied p a key s, stDenied, [])
    | _ => (s, stMode, [])

end Sys2Proof.Machine
end

