-- ==== Sys2Proof/Machine/DirWrite.lean ====
section
/-! DEFINITION. Writes of the Parameter Directory: steps 5 to 7 of R327 for every writable entry of both parts, and the
segments of a BLOB (R336). -/

namespace Sys2Proof.Machine

/-- What the parts find in a value that the model does not compute: a wrapped secret that unwraps, a bundle, the engines
that fail the canary a corruption report starts. -/
structure DirAux where
  unwrapOk : Bool
  bundle : BundleInfo
  failing : List Nat
  deriving DecidableEq, Repr

/-- Nothing found: for the entries that ask nothing. -/
def DirAux.none_ : DirAux where
  unwrapOk := false
  bundle := { reserved := true, format := 0, keyOk := false, sigOk := false, partKind := 0, version := 0, silMin := 0, silMax := 0,
              images := [] }
  failing := []

/-- The outcomes of a value that arrived on a generic path: free values of the present draw. -/
def State.freeAux (s : State) : DirAux where
  unwrapOk := Config.outcome s.draws 0 % 2 == 1
  bundle :=
    let f := Config.outcome s.draws
    { reserved := f 1 % 2 == 1, format := f 2 % 256, keyOk := f 3 % 2 == 1, sigOk := f 4 % 2 == 1, partKind := f 5 % 256,
      version := f 6 % 2 ^ 32, silMin := f 7 % 2 ^ 16, silMax := f 8 % 2 ^ 16,
      images := (List.range (f 9 % 17)).map fun i => { kind := f (10 + 2 * i) % 256, imageOk := f (11 + 2 * i) % 2 == 1 } }
  failing := (List.range 512).filter fun e => Config.outcome s.draws (1000 + e) % 2 == 1

/-- R121, R231, R331: a port of the part is past capability exchange. -/
def State.anyActive (s : State) (p : Part) : Bool := (s.sh p).ports.any fun q => q.2.state == 7

/-- Store a number if `ok`, OutOfRange otherwise; Busy if `busy`. -/
def State.putNum (s : State) (p : Part) (key v : Nat) (ok busy : Bool) : Nat × State :=
  if !ok then (stRange, s) else if busy then (stBusy, s) else (stOk, s.setReg p key v)

/-- R3: write a coordinate, while no port is past capability exchange; the part remembers which have been written. -/
def State.putCoord (s : State) (p : Part) (key v : Nat) (ok : Bool) : Nat × State :=
  if !ok then (stRange, s) else if s.anyActive p then (stBusy, s)
  else (stOk, (s.setReg p key v).modSh p fun sh => { sh with coords := setIns sh.coords key })

/-- Store a number from the next epoch boundary if `ok`. -/
def State.putLater (s : State) (p : Part) (key v : Nat) (ok : Bool) : Nat × State :=
  if !ok then (stRange, s) else (stOk, s.setRegFrom p key v (s.nextEpoch p))

/-- R328: write a selector's copy: what the part has bounds it. -/
def State.selWrite (s : State) (p : Part) (c : Ctx) (key : Nat) (val : List Byte) : Nat × State :=
  let v := beNat val
  let below := fun (n : Nat) => if v < n then (stOk, s.setSel p c key v) else (stRange, s)
  let ep := p == Part.ep
  match key with
  | 0x900001 => s.groupIndex p c val
  | 0x900002 => s.instanceIndex p c v
  | 0x410001 => below (if ep then 16 else 256)
  | 0x430001 => below (if ep then 64 else 1024)
  | 0x301001 => below (domainCount p)
  | 0xA80001 => below (logCap p)
  | 0xC30002 => below (if ep then 256 else 1024)
  | _ => (stOk, s.setSel p c key v)

/-- R116, R121: the planes that exist; an endpoint that runs moves its ports. -/
def State.planesWrite (s : State) (v : Nat) : Nat × State :=
  if s.anyActive .ep then (stBusy, s)
  else
    let s := s.setReg .ep 0xD70001 v
    (stOk, if s.ep.sh.rot.boot = 1 then s.epPorts else s)

/-- R200: the restore window: base and length only while it is not armed; arming starts the count. -/
def State.restoreWindow (s : State) (key v : Nat) : Nat × State :=
  let size := s.reg .ep 0xD30002
  match key with
  | 0xD62001 =>
    s.putNum .ep key v (v % 4096 == 0 && decide (v + s.reg .ep 0xD62002 ≤ size)) (s.reg .ep 0xD62003 == 1)
  | 0xD62002 =>
    s.putNum .ep key v (v % 4096 == 0 && decide (s.reg .ep 0xD62001 + v ≤ size)) (s.reg .ep 0xD62003 == 1)
  | _ =>
    let s' := s.setReg .ep 0xD62003 v
    (stOk, if v = 1 ∧ s.reg .ep 0xD62003 = 0 then s'.modEp fun e => { e with restoreBytes := 0 } else s')

/-- R115: the near cache's enable; a write of 0 empties it. -/
def State.ncEnable (s : State) (v : Nat) : State :=
  let s := s.setReg .ep 0xD40001 v
  if v = 0 then s.modEp fun e => { e with cache := [] } else s

/-- R121: a new throttle temperature holds at once. -/
def State.throttleWrite (s : State) (v : Nat) : Nat × State :=
  if signedOf 32 v < 85000 ∨ 100000 < signedOf 32 v then (stRange, s)
  else
    (stOk, (s.setReg .ep 0xD90002 v).modEp fun e => { e with throttled := decide (signedOf 32 v ≤ e.temp) })

/-- R116, R303: the wrapped identity material arrives: its keys unwrap and pass their test, or the root of trust refuses. -/
def State.identityLoad (s : State) (unwrapOk : Bool) : State :=
  s.modRot .ep fun r => if unwrapOk then { r with identity := true } else { r with boot := 2, reason := 7 }

/-- Writes of the endpoint's own entries; none: stored as they are. -/
def State.epApply (s : State) (a : Access) (key : Nat) (val : List Byte) (x : DirAux) : Option (Nat × State) :=
  let v := beNat val
  let slot := (slotKey key).2
  match (slotKey key).1 with
  | 0xD20005 => some (s.resumeWrite val)
  | 0xD21001 => some (s.slotJobWrite slot val)
  | 0xD21002 => some (s.slotRootWrite slot val)
  | 0xD21003 => some (s.invalidateWrite slot val)
  | 0xD21006 => some (s.revokeWrite slot val)
  | 0xD30002 => some (s.putNum .ep key v (v % 65536 == 0) false)
  | 0xD30004 => some (s.admWrite .ep (s.sel .ep a.ctx 0xD30003) val (s.reg .ep 0xD30002) (fun _ => true))
  | 0xD40001 => some (stOk, s.ncEnable v)
  | 0xD50001 => some (s.putNum .ep key v (v % 64 == 0) false)
  | 0xD50007 => some (s.putNum .ep key v (decide (s.reg .ep 0xD40003 + 2000 ≤ v)) false)
  | 0xD00001 => some (s.putCoord .ep key v true)
  | 0xD00002 => some (s.putCoord .ep key v true)
  | 0xD00003 => some (s.putCoord .ep key v true)
  | 0xD00004 => some (s.putCoord .ep key v true)
  | 0xD10001 => some (s.linkEnableWrite v)
  | 0xD60002 => some (s.putNum .ep key v ((List.range 5).any fun i => v == 65536 * 2 ^ i) false)
  | 0xD62001 => some (s.restoreWindow key v)
  | 0xD62002 => some (s.restoreWindow key v)
  | 0xD62003 => some (s.restoreWindow key v)
  | 0xD70001 => some (s.planesWrite v)
  | 0xD70004 => some (stOk, (s.setReg .ep key v).degraded)
  | 0xD80003 => some (s.bundleLoad x.bundle)
  | 0xD80004 => some (stOk, s.identityLoad x.unwrapOk)
  | 0xD80006 => some (s.nonceWrite .ep val)
  | 0xD80008 => some (s.keyInstall .ep a key val x.unwrapOk)
  | 0xD80009 => some (s.jobRetire .ep val)
  | 0xD90002 => some (s.throttleWrite v)
  | 0xDA0002 => some (s.windowWrite .ep (s.sel .ep a.ctx 0xDA0001) val)
  | _ => none

/-- R335: the fields of a credential installation: slot, principal, partition, whether a Reserved bit is set. -/
def credFields (val : List Byte) : Nat × Nat × Nat × Nat :=
  let h := beNat (sliceBytes val 0 64)
  (bits h 511 504, bits h 503 500, bits h 499 496, bits h 495 0)

/-- R335: a credential installation. -/
def State.credInstall (s : State) (val : List Byte) (unwrapOk : Bool) : Nat × State :=
  let f := credFields val
  if val.length ≠ 576 ∨ 7 < f.1 ∨ 2 < f.2.1 ∨ f.2.2.2 ≠ 0 ∨ (f.2.1 = 1 ∧ f.2.2.1 ≠ 0) ∨ !unwrapOk then (stRange, s)
  else
    let s := s.modMod fun m => { m with
      sessions := m.sessions.filter fun t => t.slot != f.1
      creds := if f.2.1 = 0 then tabDel m.creds f.1
               else tabSet m.creds f.1 { principal := if f.2.1 = 1 then .operator else .host, partition := f.2.2.1,
                                         secret := sliceBytes (Config.unwrapped val) 0 32 } }
    (stOk, s.logEvent .mod 1 0x000F 0 (f.1 * 2 ^ 104 + f.2.1 * 2 ^ 100))

/-- R330, R341: the Host partition of a Job ID; none is 0xFF. A move is refused while the module holds its Active slice. -/
def State.partitionWrite (s : State) (job v : Nat) : Nat × State :=
  if ¬ (v ≤ 15 ∨ v = 0xFF) then (stRange, s)
  else if s.hasSlice job ∧ v ≠ s.partitionOf job then (stBusy, s)
  else (stOk, s.modSh .mod fun sh => sh.setReg 0x831002 job v)

/-- R179, R206, R217, R219: the limits of the tiles, from the next epoch boundary. -/
def State.limitWrite (s : State) (key v : Nat) : Nat × State :=
  match key with
  | 0x510006 => s.putLater .mod key v (decide (s.reg .mod 0x510005 < v))
  | 0x510008 => s.putLater .mod key v (decide (s.reg .mod 0x510007 < v))
  | 0x510009 =>
    let w := fun (i : Nat) => bits v (8 * i + 7) (8 * i)
    s.putLater .mod key v (decide (v < 2 ^ 24) && [0, 1, 2].all fun i => decide (1 ≤ w i ∧ w i ≤ 16))
  | 0x520003 => s.putLater .mod key v (decide (v ≤ s.scdPages 0))
  | 0x760005 => s.putLater .mod key v (v != 1)
  | _ => s.putLater .mod key v (decide (v < s.reg .mod 0x760005) || s.reg .mod 0x760005 == 0)

/-- Writes of the module's tables, tiles and links. -/
def State.modApply (s : State) (a : Access) (key : Nat) (val : List Byte) : Option (Nat × State) :=
  let v := beNat val
  let sel := s.sel .mod a.ctx
  match key with
  | 0x610007 => some (s.groupWrite (sel 0x610006) val)
  | 0x610008 => some (s.memberWrite (sel 0x610006) val)
  | 0x61000A => some (s.contextWrite (sel 0x610006) (sel 0x610009) val)
  | 0x61000B => some (s.programWrite (sel 0x610006) (sel 0x610009) val)
  | 0x620002 => some (s.lateClear (sel 0x620001) val)
  | 0x700002 => some (s.spillWrite val)
  | 0x701002 => some (s.regionWrite (sel 0x701001) val)
  | 0x701004 => some (s.handover (sel 0x701001) val)
  | 0x701005 => some (s.clearStaleWrite (sel 0x701001) val)
  | 0x720004 => some (s.admWrite .mod (sel 0x720003) val s.usableBytes s.commonsAdmOk)
  | 0x760001 => some (s.restoreCommand val)
  | 0x760005 => some (s.limitWrite key v)
  | 0x760006 => some (s.limitWrite key v)
  | 0x500001 => some (s.putNum .mod key v true (s.anyActive .mod))
  | 0x500002 => some (s.rolesWrite val)
  | 0x500003 => some (s.putCoord .mod key v true)
  | 0x500004 => some (s.putCoord .mod key v true)
  | 0x500005 => some (s.putCoord .mod key v (!s.dense || decide (v ≤ 7)))
  | 0x510003 => some (s.poolWrite key v 256 4096)
  | 0x510004 => some (s.poolWrite key v 4096 24576)
  | 0x510006 => some (s.limitWrite key v)
  | 0x510008 => some (s.limitWrite key v)
  | 0x510009 => some (s.limitWrite key v)
  | 0x520003 => some (s.limitWrite key v)
  | 0x540002 => some (s.routeWrite (sel 0x540001) val)
  | 0x540004 => some (s.rackRouteWrite (sel 0x540003) val)
  | 0x550002 => some (s.sliceWrite (sel 0x550001) val)
  | 0x550004 => some (if s.hasSlice v then (stOk, s.tearSlice v) else (stRange, s))
  | 0x4A0002 => some (s.qpWrite (sel 0x4A0001) val)
  | 0xC10002 => some (s.alignRequest val)
  | _ => none

/-- Writes of the module's fault handling, security, power and meter. -/
def State.modApply2 (s : State) (a : Access) (key : Nat) (val : List Byte) (x : DirAux) : Option (Nat × State) :=
  let v := beNat val
  let sel := s.sel .mod a.ctx
  match key with
  | 0xA10001 => some (s.restoreRequest val)
  | 0xA10002 => some (s.rebindRequest val)
  | 0xA30004 => some (s.corruption a val x.failing)
  | 0xA40002 => some (s.windowWrite .mod (sel 0xA40001) val)
  | 0xA50006 => some (s.clearSuspect val)
  | 0x800006 => some (stOk, s.bundleUpload)
  | 0x800007 => some (s.bundleCommit x.bundle)
  | 0x800008 => some (stOk, s)
  | 0x801003 => some (s.nonceWrite .mod val)
  | 0x810001 => some (s.keyInstall .mod a key val x.unwrapOk)
  | 0x820001 => some (s.jobRetire .mod val)
  | 0x830002 => some (s.credInstall val x.unwrapOk)
  | 0x831002 => some (s.partitionWrite (sel 0x831001) v)
  | 0x200002 => some (s.requestState v)
  | 0x200003 => some (s.putNum .mod key v (v != 1) false)
  | 0x200007 => some (stOk, if bit v 7 then s.modPower fun p => { p with stopCause := 0 } else s)
  | 0x201001 => some (s.capStep val)
  | 0x201003 => some (stOk, s.renewLease)
  | 0x20100A =>
    some (if v = 0 then (stOk, s.modPower fun p => { p with energy := 0, excess := 0, ticks := 0 }) else (stRange, s))
  | 0xB10002 => some (s.ackRecordWrite val)
  | _ => none

/-- Writes of the entries that both parts hold. -/
def State.bothApply (s : State) (p : Part) (a : Access) (key : Nat) (val : List Byte) : Option (Nat × State) :=
  let v := beNat val
  let sel := s.sel p a.ctx
  match key with
  | 0x410002 => some (s.widthWrite p (sel 0x410001) v)
  | 0x410003 => some (s.clockingWrite p (sel 0x410001) v)
  | 0x430005 => some (s.eyeStart p (sel 0x430001) val)
  | 0xC20002 => some (s.switchTimeWrite p v)
  | 0xC20004 => some (s.putNum p key v true ((s.sh p).mode == 1))
  | 0xC30003 =>
    some (if hostHolds p a (mownOf v).job s then s.mownWrite p (sel 0xC30002) val else (stDenied, dirDenied p a key s))
  | 0xA80003 =>
    some (if (s.sh p).log.next < v then (stRange, s)
      else (stOk, s.modSh p fun sh => { sh with log := { sh.log with acked := v } }))
  | 0x301005 =>
    some (stOk, s.modDomain p (sel 0x301001) fun d => { d with sticky := d.sticky - (d.sticky &&& v) })
  | 0x900005 => some (s.chainWrite p (sel 0x900001) (sel 0x900002) v)
  | 0x900006 => some (if v = 1 then s.resetWrite p (sel 0x900001) (sel 0x900002) else (stOk, s))
  | 0x902004 => some (s.chainWrite p 0x20 (sel 0x902001) v)
  | 0x910001 => some (s.putLater p key v (v == 0 || decide (4 ≤ v)))
  | _ => none

/-- R327 steps 5 to 7: the status of a write and the state after it. -/
def State.dirApply (s : State) (p : Part) (a : Access) (key : Nat) (val : List Byte) (x : DirAux) : Nat × State :=
  match entryOf p key with
  | none => (stNoEntry, s)
  | some e =>
    if !valueOk e val then (stRange, s)
    else if e.wr = 6 then s.selWrite p a.ctx key val
    else
      let own := match p with
        | .ep => s.epApply a key val x
        | .mod => (s.modApply a key val).orElse fun _ => s.modApply2 a key val x
      match own.orElse fun _ => s.bothApply p a key val with
      | some r => r
      | none =>
        if e.later then (stOk, s.setRegFrom p key (beNat val) (s.nextEpoch p))
        else (stOk, s.modSh p fun sh => sh.setReg key (s.instOf p a.ctx key) (beNat val))

/-- A write that arrives on a generic path: what the value holds is free. -/
def State.dirWriteAny (s : State) (p : Part) (a : Access) (key : Nat) (val : List Byte) : Nat × State :=
  dirWriteWith p a key (fun s => (s.drawn).dirApply p a key val s.freeAux) s

/-! ### Segments (R336) -/

/-- The most bytes that a BLOB holds. -/
def blobMax (key : Nat) (p : Part) : Nat :=
  match entryOf p key with
  | some e => e.size
  | none => 0

/-- R336: a segment at offset 0 opens an assembly. -/
def State.putAssembly (s : State) (p : Part) (c : Ctx) (key : Nat) (data : List Byte) : State :=
  s.modSh p fun sh => { sh with
    assemblies := blobDrop sh.assemblies c key ++ [{ ctx := c, key := key, data := data, at_ := s.ns, expired := false }] }

/-- R336: discard an assembly. -/
def State.dropAssembly (s : State) (p : Part) (c : Ctx) (key : Nat) : State :=
  s.modSh p fun sh => { sh with assemblies := blobDrop sh.assemblies c key }

/-- Is an assembly still alive? -/
def Blob.alive (b : Blob) (now : Nat) : Bool := !b.expired && decide (now < b.at_ + blobLife)

/-- R336: the bytes that have come so far, with the segment just come: whole, they are the value written. A module takes more than
64 KiB only from its staging area (R338). -/
def State.segTake (s : State) (p : Part) (a : Access) (e : Entry) (key : Nat) (data seg : List Byte) : Nat × State :=
  let whole := if e.kind = 5 then seg.isEmpty else decide (data.length = e.size)
  if e.size < data.length ∨ (p = Part.mod ∧ 65536 < data.length) then (stRange, s.dropAssembly p a.ctx key)
  else if whole then ((s.drawn).dropAssembly p a.ctx key).dirApply p a key data s.freeAux
  else (stOk, s.putAssembly p a.ctx key data)

/-- R336: a segment write, after checks 1 to 4. -/
def State.segTakeAt (s : State) (p : Part) (a : Access) (key off : Nat) (seg : List Byte) (most : Nat) : Nat × State :=
  match entryOf p key with
  | none => (stNoEntry, s)
  | some e =>
    let mine := blobOf (s.sh p).assemblies a.ctx key
    let other := (s.sh p).assemblies.any fun b => b.key == key && b.ctx != a.ctx && b.alive s.ns
    if e.kind < 4 ∨ most < seg.length then (stRange, s)
    else if off = 0 then
      if other then (stBusy, s) else (s.dropAssembly p a.ctx key).segTake p a e key seg (if e.kind = 5 then [0#8] else seg)
    else match mine with
      | none => (stRange, s)
      | some b =>
        if !b.alive s.ns then (stExpired, s.dropAssembly p a.ctx key)
        else if off ≠ b.data.length then (stRange, s.dropAssembly p a.ctx key)
        else s.segTake p a e key (b.data ++ seg) seg

/-- R336: one segment of a BLOB, at most `most` bytes on its path. -/
def State.segWrite (s : State) (p : Part) (a : Access) (key off : Nat) (seg : List Byte) (most : Nat) : Nat × State :=
  dirWriteWith p a key (fun s => s.segTakeAt p a key off seg most) s

/-- R336, R337: BLOB_ASSEMBLY_EXPIRY: an assembly or snapshot with nothing for 10 s. -/
def State.blobExpire (s : State) (p : Part) (c : Ctx) (key : Nat) : State :=
  s.modSh p fun sh => { sh with
    assemblies := sh.assemblies.map fun b =>
      if b.ctx = c ∧ b.key = key ∧ b.at_ + blobLife ≤ s.ns then { b with expired := true, data := [] } else b
    snaps := sh.snaps.filter fun b => !(b.ctx == c && b.key == key && decide (b.at_ + blobLife ≤ s.ns)) }

end Sys2Proof.Machine
end

