-- ==== Sys2Proof/Machine/EriReq.lean ====
section
/-! DEFINITION. ERI requests of agents (R54, R63, R77, R100 to R105, R109, R114, R159): acceptance, and what each kind does
once accepted. -/

namespace Sys2Proof.Machine

/-! ### Answers at acceptance -/

/-- A Completion without a request taken (R103, R101, R54, R77, R33). -/
def State.eriAnswer (s : State) (l : Nat) (m : Eri) (code : Nat) (coll : Bool) : State :=
  s.sendComp l (completionMsg m.agent m.tag m.job code coll [])

/-- R6, R54, R77: a request that fails its checks: Denied, counted in malformed-input. -/
def State.eriMalformed (s : State) (l : Nat) (m : Eri) : State := (s.epCount 0).eriAnswer l m cDenied false

/-- R33: the slot of a Job ID, or the code with which a request of it completes. -/
def State.jobSlot (s : State) (job : Nat) : Nat ⊕ Nat :=
  match s.ep.slotOf job with
  | none => .inr cDenied
  | some (n, x) => if x.state = 1 ∨ x.state = 2 then .inl n else .inr cTorn

/-- R33: completion of a request that no slot serves; a revoked slot counts it (R96). -/
def State.noSlot (s : State) (l : Nat) (m : Eri) (code : Nat) : State :=
  (if code = cTorn then s.epCount 10 else s).eriAnswer l m code false

/-- The pair of Agent ID and Tag is outstanding from here. -/
def State.takeTag (s : State) (m : Eri) : State := s.modEp fun e => { e with tags := e.tags ++ [(m.agent, m.tag)] }

/-! ### Loads, stores and atomics (R54, R77, R104) -/

/-- The packet that an ERI request asks for, before its VFA is translated. -/
def eriPacket (m : Eri) : Packet :=
  let typ := if m.kind = 0x01 then 0x01 else if m.kind = 0x02 then 0x02 else 0x03
  { Packet.zero with typ := typ, vol := m.kind == 0x01 && (m.vol || decide (2 ≤ m.acq)), job := m.job, off := m.addr % 4096,
                     len := m.len, aop := m.aop, fmt := m.fmt, payload := if m.kind = 0x01 then [] else m.body }

/-- R76, R77: the checks of R76 that an endpoint makes before the node is known. -/
def eriFormOk (m : Eri) : Bool := formOk (eriPacket m) false && !(eriPacket m).isMarker && (m.kind != 0x01 || m.body.isEmpty)

/-- R61: the earlier requests of the Job that a Rack release waits for. -/
def State.rackWaits (s : State) (job : Nat) : List Nat :=
  (s.ep.sh.reqs.filter fun q => q.pkt.job == job && (q.pkt.isWrite || q.pkt.typ == 0x01)).map (·.id)

/-- A Load, Store or Atomic is accepted: it translates and issues. -/
def State.eriAccess (s : State) (l : Nat) (m : Eri) (ecc : List Nat) : State :=
  if !eriFormOk m then s.eriMalformed l m
  else match s.jobSlot m.job with
    | .inr code => s.noSlot l m code
    | .inl n =>
      let id := s.ep.sh.nextReq
      let k := eriPacket m
      let r : Req := { id := id, order := id, agent := m.agent, tag := m.tag, link := l, owner := .agent, st := .walking,
                       slot := n, gen := 0, vfa := m.addr, want := rightOf k.typ, rel := scopeOf m.rel, acq := scopeOf m.acq,
                       noCache := false, cgen := 0, fillOff := 0, fillLen := 0, forced := false, pkt := k, first := 0,
                       last := 0, sends := 0, retrans := 0, retries := 0, due := 0, timeout := 0, reLimit := 0,
                       retryLimit := 0, life := 0, waits := if m.rel = 3 then s.rackWaits m.job else [], bad := [],
                       sl := ⟨0, 0, 0, 0⟩, accAt := s.ns, trAt := s.ns, trSeq := 0, near := [],
                       ecc := ecc }
      let s := (s.takeTag m).modSh .ep fun sh => { sh with reqs := sh.reqs ++ [r], nextReq := id + 1 }
      (s.translate id).tryIssue id

/-! ### Fences and cache invalidates (R63, R105) -/

/-- R63: is nothing left that a fence waits for? -/
def State.fenceReady (s : State) (f : Fence) : Bool :=
  let before := fun (r : Req) => decide (r.order < f.order) && (r.owner == Owner.agent || r.owner == Owner.marker)
  let prior := fun (g : Fence) => decide (g.order < f.order)
  if f.rack then
    !(s.ep.sh.reqs.any fun r => before r && r.pkt.job == f.job) && !(s.ep.fences.any fun g => prior g && g.job == f.job)
  else
    !(s.ep.sh.reqs.any fun r => before r && r.agent == f.agent && !r.isSent && r.st != ReqSt.atHome) &&
    !(s.ep.fences.any fun g => prior g && g.agent == f.agent)

/-- R63: a fence completes with Done once it waits for nothing. -/
def State.fenceComplete (s : State) (order : Nat) : State :=
  match s.ep.fences.find? fun f => f.order == order with
  | none => s
  | some f =>
    if !s.fenceReady f then s
    else (s.modEp fun e => { e with fences := delFirst (fun g => g.order == order) e.fences }).endTag f.link f.agent f.tag f.job
      cDone []

/-- R54, R63: a Fence is accepted. -/
def State.eriFence (s : State) (l : Nat) (m : Eri) : State :=
  if m.rel = 0 ∨ ¬ m.body.isEmpty then s.eriMalformed l m
  else
    let o := s.ep.sh.nextReq
    let f : Fence := { order := o, agent := m.agent, tag := m.tag, job := m.job, link := l, rack := decide (2 ≤ m.rel),
                       waits := [] }
    let s := (s.takeTag m).modSh .ep fun sh => { sh with nextReq := o + 1 }
    (s.modEp fun e => { e with fences := e.fences ++ [f] }).fenceComplete o

/-- R67, R105: a Cache invalidate. -/
def State.eriInvalidate (s : State) (l : Nat) (m : Eri) : State :=
  let s := match s.ep.slotOf m.job with
    | some (n, _) => s.ncInvalidate n
    | none => s
  s.eriAnswer l m cDone false

/-! ### Copies, lists and collectives (R109, R112, R114, R159) -/

/-- R109, R112: a Copy message. -/
def State.eriCopy (s : State) (l : Nat) (m : Eri) : State :=
  if m.body.length ≠ 64 then s.eriMalformed l m
  else match s.jobSlot m.job with
    | .inr code => s.noSlot l m code
    | .inl n =>
      if 4096 ≤ s.copyPlaces then (s.epCount 21).eriAnswer l m cRetry false
      else (s.takeTag m).addCopy (copyDescOf m.body) n m.job m.agent m.tag l none

/-- The Count and slot of a List arm, and the slot of a List cancel. -/
def listFields (m : Eri) : Nat × Nat := (bits m.aux 55 43, bits m.aux 42 37)

/-- R112, R114: a List arm. -/
def State.eriListArm (s : State) (l : Nat) (m : Eri) : State :=
  let f := listFields m
  match s.jobSlot m.job with
  | .inr code => s.noSlot l m code
  | .inl n =>
    if m.value % 1000 ≠ 0 ∨ f.1 = 0 ∨ 4096 < f.1 ∨ (tabGet s.ep.lists f.2).isSome then s.eriAnswer l m cDenied false
    else if 4096 < s.copyPlaces + f.1 then s.eriAnswer l m cRetry false
    else
      let ks := (granulesOf m.addr (f.1 * 64)).map fun g => g * 4
      let i := s.ep.nextList
      let x : ListSlot := { id := i, state := 1, job := m.job, agent := m.agent, tag := m.tag, link := l, vfa := m.addr, todo := ks,
                            got := [], count := f.1, act := m.value, data := [], begun := [], started := false, reads := 0, left := 0,
                            worst := 0 }
      let s := (s.takeTag m).modEp fun e => { e with lists := tabSet e.lists f.2 x, nextList := i + 1 }
      ks.foldl (fun s k => s.needGranule (.list f.2 i) n m.job (k / 4) 0) s

/-- R114: a List cancel. -/
def State.eriListCancel (s : State) (l : Nat) (m : Eri) : State :=
  match tabGet s.ep.lists (listFields m).2 with
  | none => s.eriAnswer l m cDenied false
  | some x =>
    if x.job ≠ m.job ∨ x.state = 3 then s.eriAnswer l m cDenied false
    else (s.listEnd (listFields m).2 cDenied).eriAnswer l m cDone false

/-- R159: a Collective start. -/
def State.eriCollective (s : State) (l : Nat) (m : Eri) : State :=
  match s.jobSlot m.job with
  | .inr code => s.noSlot l m code
  | .inl n => match s.collRefused m with
    | some code => s.eriAnswer l m code false
    | none => (s.takeTag m).collStart l n m

/-! ### Acceptance (R100 to R104, R116) -/

/-- R55, R63, R64: a fence or an acquire of the agent holds its later requests. -/
def State.agentHeld (s : State) (agent : Nat) : Bool :=
  s.ep.fences.any (fun f => f.agent == agent) ||
  s.ep.sh.reqs.any fun q => q.owner == Owner.agent && q.agent == agent && q.acq != Scope.none

/-- May a message of a link be accepted now? There must be a place (R104), nothing earlier of its link may wait (R100), and a
request that is not a load, store or atomic waits for its agent's fences and acquires. -/
def State.mayAccept (s : State) (l : Nat) (m : Eri) (earlier : List (Nat × Eri × List Nat)) : Bool :=
  decide (s.ep.tags.length < agentPlaces) && !(earlier.any fun w => w.1 == l) &&
  (m.kind == 0x01 || m.kind == 0x02 || m.kind == 0x03 || !s.agentHeld m.agent)

/-- R9: does an agent's request name a Job ID that no user traffic carries? A Directory request may name 0x0000 (R105). -/
def badJob (m : Eri) : Bool := m.job == 0xFFFF || (m.job == 0 && m.kind != 0x06)

/-- An accepted message of a kind that is not a Directory request: its meaning, once the endpoint runs a bundle and has not been
declared dead (R9, R116, R290). -/
def State.eriRun (s : State) (l : Nat) (m : Eri) (ecc : List Nat) : State :=
  if s.ep.sh.rot.boot ≠ 1 then s.eriAnswer l m cDenied false
  else if s.ep.selfDead then s.eriAnswer l m cPoison false
  else if badJob m then s.eriAnswer l m cDenied false
  else match m.kind with
    | 0x01 | 0x02 | 0x03 => s.eriAccess l m ecc
    | 0x04 => s.eriFence l m
    | 0x05 => s.eriInvalidate l m
    | 0x08 => s.eriCopy l m
    | 0x09 => s.eriListArm l m
    | 0x0A => s.eriListCancel l m
    | 0x0C => s.eriCollective l m
    | _ => s.eriMalformed l m

end Sys2Proof.Machine
end

