-- ==== Sys2Proof/Machine/Protocol.lean ====
section
/-! DEFINITION. The paths of the Parameter Directory: the directory access protocol (R332 to R334, R338), the SMBus sideband
(R263) and ERI Directory requests (R330). -/

namespace Sys2Proof.Machine

/-! ### The protocol -/

/-- One event of dir-auth-fail (R333). -/
def State.authFail (s : State) : State := s.mgCount 15

/-- R334: at most 1,000 messages of a source in a second; the excess is counted. -/
def State.protoGate (s : State) (m : PMsg) : State × Bool :=
  let now := s.ns
  let l := s.mod.arrivals.filter fun x => decide (now < 1000000000 + x.2)
  if 1000 ≤ (l.filter fun x => x.1 == m.source).length then (s.mgCount 16, false)
  else (s.modMod fun d => { d with arrivals := l ++ [(m.source, now)] }, true)

/-- R333: the header of a request of an operation, fields that the operation does not use zero. -/
def protoForm (m : PMsg) (op : Nat) : Bool :=
  m.version == 1 && !m.response && !m.reserved && m.op == op && decide (1 ≤ op ∧ op ≤ 7 ∧ m.value.length ≤ 1024) &&
  (op == 5 || op == 6 || m.segOff == 0) && (op == 1 || m.credSlot == 0) && (decide (2 < op) || m.key == 0)

/-- R331: the 32-byte header of a message, with the status of an answer. -/
def protoHeader (m : PMsg) (status : Nat) : Nat :=
  m.version * 2 ^ 248 + m.op * 2 ^ 244 + ofBool m.response * 2 ^ 243 + status * 2 ^ 232 + m.session * 2 ^ 200 + m.seq * 2 ^ 168 +
  m.key * 2 ^ 144 + m.segOff * 2 ^ 112 + m.value.length * 2 ^ 96 + m.credSlot * 2 ^ 88

/-- R332: the authenticator of a message under a key: HMAC-SHA-512 over its header and its value bytes. -/
def protoAuth (m : PMsg) (status : Nat) (key : List Byte) : List Byte :=
  sliceBytes (Config.hmac key (beBytes 32 (protoHeader m status) ++ m.value)) 0 64

/-- An answer with its authenticator: it copies the request's header. -/
def answerOf (m : PMsg) (session status : Nat) (key value : List Byte) : PMsg :=
  let r := { m with response := true, session := session, value := value }
  { r with auth := protoAuth r status key }

/-- R332: the key of a session. -/
def sessionKey (secret client part : List Byte) (id : Nat) : List Byte :=
  Config.kdf secret "SNH dir" (client ++ part ++ beBytes 4 id) 256

/-- R332: a fresh nonzero Session ID that no session has. -/
def State.freshSession (s : State) : Nat :=
  let used := fun (i : Nat) => s.mod.sessions.any fun t => t.id == i
  let i := 1 + Config.sessionId s.draws % (2 ^ 32 - 1)
  if used i then 1 + (lowestFree (fun i => used (i + 1)) 17).getD 0 else i

/-- R334: an Open that fails its authenticator; the eighth within a second mutes the source for 10 s. -/
def State.openFails (s : State) (m : PMsg) : State :=
  let now := s.ns
  let l := (s.mod.opens.filter fun x => decide (now < 1000000000 + x.2)) ++ [(m.source, now)]
  s.authFail.modMod fun d => { d with
    opens := l
    muted := if 8 ≤ (l.filter fun x => x.1 == m.source).length then tabSet d.muted m.source (10000000000 + now) else d.muted }

/-- A session starts with every selector at its default and no assembly or snapshot (R328). -/
def State.dropCtx (s : State) (p : Part) (c : Ctx) : State :=
  s.modSh p fun sh => { sh with
    sels := sh.sels.filter fun e => e.1 / 16777216 != ctxNo c
    assemblies := sh.assemblies.filter fun b => b.ctx != c
    snaps := sh.snaps.filter fun b => b.ctx != c }

/-- R332: an Open request: the state after it, and the answer with its status. -/
def State.protoOpen (s : State) (m : PMsg) : State × Option (PMsg × Nat) :=
  if tabGetD s.mod.muted m.source 0 > s.ns then (s, none)
  else match (tabGet s.mod.creds m.credSlot).filter fun c => m.auth == protoAuth m 0 c.secret with
    | none => (s.openFails m, none)
    | some c =>
      if m.seq ≠ 0 ∨ m.session ≠ 0 then (s.authFail, none)
      else if m.value.length ≠ 32 then (s, some (answerOf m 0 stRange c.secret [], stRange))
      else if 16 ≤ s.mod.sessions.length then (s, some (answerOf m 0 stBusy c.secret [], stBusy))
      else
        let id := s.freshSession
        let nonce := sliceBytes (Config.randomBytes s.draws) 0 32
        let key := sessionKey c.secret m.value nonce id
        let t : Session := { id := id, port := m.port, slot := m.credSlot, principal := c.principal, partition := c.partition, key := key, seq := 0,
                             answer := none, last := s.ns }
        (((s.drawn).dropCtx .mod (.session id)).modMod fun d => { d with sessions := d.sessions ++ [t] },
          some (answerOf m id stOk key nonce, stOk))

/-- R330: what a session's requests act as. -/
def Session.access (t : Session) (path : Path) : Access where
  path := path
  principal := t.principal
  partition := t.partition
  job := 0
  ctx := .session t.id

/-- R338: a Commit staged request: offset, length and digest of the staged bytes, which become the whole value. -/
def State.commit (s : State) (a : Access) (m : PMsg) : Nat × State :=
  let off := beNat (sliceBytes m.value 0 8)
  let len := beNat (sliceBytes m.value 8 4)
  if m.value.length ≠ 76 ∨ 2 ^ 28 < off + len then (stRange, s)
  else
    let bytes := (List.range len).map fun i => tabGetD s.mod.staging (off + i) 0#8
    if sliceBytes (Config.sha512 bytes) 0 64 != sliceBytes m.value 12 64 then (stDigest, s)
    else s.dirWriteAny .mod a m.key bytes

/-- The most value bytes of a protocol message. -/
def protoMost : Nat := 1024

/-- R333: carry out a session's request: the state, the status and the value bytes of the answer. -/
def State.protoRun (s : State) (a : Access) (m : PMsg) : State × Nat × List Byte :=
  match m.op with
  | 3 =>
    let r := s.dirRead .mod a m.key
    if protoMost < r.2.2.length then (r.1, stRange, []) else r
  | 4 => let r := s.dirWriteAny .mod a m.key m.value; (r.2, r.1, [])
  | 5 => s.segRead .mod a m.key m.segOff protoMost
  | 6 => let r := s.segWrite .mod a m.key m.segOff m.value protoMost; (r.2, r.1, [])
  | 7 => let r := s.commit a m; (r.2, r.1, [])
  | _ => (s, stOk, [])

/-- R332, R333: a request within a session. -/
def State.protoSession (s : State) (path : Path) (m : PMsg) : State × Option (PMsg × Nat) :=
  match (s.mod.sessions.find? fun t => t.id == m.session).filter fun t => m.auth == protoAuth m 0 t.key with
  | none => (s.authFail, none)
  | some t =>
    let put := fun (s : State) (f : Session → Session) => s.modMod fun d =>
      { d with sessions := modFirst (fun x => x.id == t.id) f d.sessions }
    if m.seq = (t.seq + 1) % 2 ^ 32 then
      if m.op = 2 then
        (s.modMod fun d => { d with sessions := d.sessions.filter fun x => x.id != t.id }, some (answerOf m t.id stOk t.key [], stOk))
      else
        let r := s.protoRun (t.access path) m
        (put r.1 fun x => { x with seq := m.seq, answer := some (r.2.1, r.2.2), last := s.ns },
          some (answerOf m t.id r.2.1 t.key r.2.2, r.2.1))
    else match t.answer with
      | some ans =>
        if m.seq = t.seq then (put s fun x => { x with last := s.ns }, some (answerOf m t.id ans.1 t.key ans.2, ans.1)) else (s.authFail, none)
      | none => (s.authFail, none)

/-- R332 to R334: a message of an operation, from its arrival to its answer. -/
def State.proto (s : State) (path : Path) (op : Nat) (m : PMsg) : State × Option (PMsg × Nat) :=
  let g := s.protoGate m
  if !g.2 then (g.1, none)
  else if !protoForm m op then (g.1.authFail, none)
  else if op = 1 then g.1.protoOpen m
  else g.1.protoSession path m

/-- A message over UDP: its answer is sent. R365: on a failed crystal the module serves the Directory on the sideband only. -/
def State.protoUdp (s : State) (op : Nat) (m : PMsg) : State :=
  if s.mod.sh.clk.crystal = 2 then s
  else
    let r := s.proto .udp op m
    match r.2 with
    | some a => r.1.emit (.protocol a.1 a.2)
    | none => r.1

/-- R338: SEND: one protocol message on a directory queue pair; its answer is kept and not sent. -/
def State.roceSend (s : State) (n : Nat) (m : PMsg) : State :=
  let q := s.qp n
  if q.state = 1 ∧ q.use = 2 then (s.proto .roce m.op m).1.roceEnd n 0 []
  else if q.state = 1 ∧ q.use = 1 then s.roceEnd n 4 []
  else s.roceEnd n 1 []

/-- R334: SESSION_IDLE_TIMEOUT. -/
def State.sessionIdle (s : State) (id : Nat) : State :=
  match s.mod.sessions.find? fun t => t.id == id with
  | some t =>
    if t.last + 1000000000 * s.reg .mod 0x830004 ≤ s.ns then
      s.modMod fun d => { d with sessions := d.sessions.filter fun x => x.id != id }
    else s
  | none => s

/-! ### The sideband (R263, R331, R353) -/

/-- R263: what the sideband acts as. -/
def smbAccess : Access where
  path := .smbus
  principal := .operator
  partition := 0
  job := 0
  ctx := .smbus

/-- R353: the always-on supply answers only a wake; the part's own sideband needs a higher power state. -/
def State.smbOn (s : State) (p : Part) : Bool := p == Part.ep || decide (s.mod.power.state ≤ 2)

/-- R263: the part's SMBus address: 0x60 with its 3-bit strap, or 0x50 with its 2-bit strap. -/
def State.smbAddr (s : State) (p : Part) : Nat :=
  match p with
  | .mod => 0x60 + s.mod.power.strap % 8
  | .ep => 0x50 + s.ep.strap % 4

/-- R263: a Block Write of a command on the wire: address, command, count and bytes. -/
def State.smbSent (s : State) (p : Part) (cmd : Nat) (data : List Byte) : List Byte :=
  [BitVec.ofNat 8 (2 * s.smbAddr p), BitVec.ofNat 8 cmd, BitVec.ofNat 8 data.length] ++ data

/-- R263: the PEC of a Block Write. -/
def State.smbPec (s : State) (p : Part) (cmd : Nat) (data : List Byte) : Nat := crc8 (s.smbSent p cmd data)

/-- R263: the most bytes that a sideband read returns. -/
def smbMost : Nat := 250

/-- A sideband read's answer to a command and the bytes written with it: the status, the value and the PEC of the transaction. -/
def State.smbAnswer (s : State) (p : Part) (cmd : Nat) (sent : List Byte) (r : State × Nat × List Byte) : State :=
  let r := if smbMost < r.2.2.length then (r.1, stRange, []) else r
  if s.smbOn p then
    let bytes := BitVec.ofNat 8 r.2.1 :: r.2.2
    let wire := s.smbSent p cmd sent ++ [BitVec.ofNat 8 (2 * s.smbAddr p + 1), BitVec.ofNat 8 bytes.length] ++ bytes
    r.1.emit (.smbus p (bytes ++ [BitVec.ofNat 8 (crc8 wire)]))
  else s

/-- R263: SMB_DIRECTORY_READ. -/
def State.smbRead (s : State) (p : Part) (key : Nat) : State := s.smbAnswer p 0x10 (beBytes 3 key) (s.dirRead p smbAccess key)

/-- R263: a sideband write: one whose PEC fails is discarded; the status is kept for the Status read. -/
def State.smbWriteWith (s : State) (p : Part) (pecOk : Bool) (f : State → Nat × State) : State :=
  if !s.smbOn p then s
  else
    let r := if pecOk then f s else (stPec, s)
    r.2.modSh p fun sh => { sh with smbStatus := r.1 }

/-- R263: SMB_DIRECTORY_WRITE. -/
def State.smbWrite (s : State) (p : Part) (key : Nat) (val : List Byte) (pec : Nat) : State :=
  s.smbWriteWith p (pec == s.smbPec p 0x11 (beBytes 3 key ++ val)) fun s => s.dirWriteAny p smbAccess key val

/-- R336: SMB_BLOB_SEGMENT_WRITE. -/
def State.smbSegWrite (s : State) (p : Part) (key off : Nat) (data : List Byte) (pec : Nat) : State :=
  s.smbWriteWith p (pec == s.smbPec p 0x12 (beBytes 3 key ++ beBytes 4 off ++ data)) fun s =>
    s.segWrite p smbAccess key off data 248

/-- R337: SMB_BLOB_SEGMENT_READ. -/
def State.smbSegRead (s : State) (p : Part) (key off count : Nat) : State :=
  s.smbAnswer p 0x13 (beBytes 3 key ++ beBytes 4 off ++ [BitVec.ofNat 8 count]) (s.segRead p smbAccess key off (min count smbMost))

/-- R263: SMB_STATUS_READ. -/
def State.smbStatusRead (s : State) (p : Part) : State :=
  let a := 2 * s.smbAddr p
  let st := BitVec.ofNat 8 (s.sh p).smbStatus
  if s.smbOn p then s.emit (.smbus p [st, BitVec.ofNat 8 (crc8 [BitVec.ofNat 8 a, 0x14#8, BitVec.ofNat 8 (a + 1), st])]) else s

/-! ### ERI Directory requests (R105, R330, R336) -/

/-- R330: what an ERI Directory request acts as: the host driver for Job ID 0, the job otherwise. -/
def eriWho (m : Eri) : Access where
  path := .eri
  principal := if m.job = 0 then .host else .job
  partition := 0
  job := m.job
  ctx := .agent m.agent

/-- R105, R336: the form of a Directory request: the Value field holds a segment offset for a BLOB entry, and is 0 otherwise. -/
def eriDirForm (m : Eri) : Bool :=
  let key := bits m.aux 55 32
  let blob : Bool := match entryOf .ep key with
    | some e => decide (4 ≤ e.kind)
    | none => false
  (if blob then bits m.value 31 0 == 0 else m.value == 0) && (if bit m.aux 31 then m.len == m.body.length else m.body.isEmpty)

/-- The most BLOB bytes in an ERI Directory message. -/
def eriMost : Nat := 4096

/-- R105, R327: an ERI Directory request: the state, the status and the value. -/
def State.eriDirRun (s : State) (m : Eri) : State × Nat × List Byte :=
  let key := bits m.aux 55 32
  let off := bits m.value 63 32
  let a := eriWho m
  let blob : Bool := match entryOf .ep key with
    | some e => decide (4 ≤ e.kind)
    | none => false
  if bit m.aux 31 then
    let r := if blob then s.segWrite .ep a key off m.body eriMost else s.dirWriteAny .ep a key m.body
    (r.2, r.1, [])
  else if blob then s.segRead .ep a key off eriMost
  else s.dirRead .ep a key

/-- R103, R105: an accepted Directory request, answered with a Directory response. -/
def State.eriDir (s : State) (l : Nat) (m : Eri) : State :=
  if badJob m then s.eriAnswer l m cDenied false
  else
    let r := s.eriDirRun m
    r.1.sendComp l { Eri.zero with kind := 0x24, agent := m.agent, tag := m.tag, len := r.2.2.length,
                                   aux := r.2.1 * 2 ^ 48, body := r.2.2 }

end Sys2Proof.Machine
end

