-- ==== Sys2Proof/Machine/EndpointRun.lean ====
section
/-! DEFINITION. What arrives over ERI: requests of the accelerator with their credits and their acceptance (R102 to R104),
answers to memory messages (R106, R107); and what each part then goes on to do by itself. -/

namespace Sys2Proof.Machine

/-- An accepted message runs; its credit goes back (R102, R104). -/
def State.eriAccept (s : State) (l : Nat) (m : Eri) (ecc : List Nat) : State :=
  let s := s.returnReq l m.units
  if m.kind = 0x06 then s.eriDir l m else s.eriRun l m ecc

/-- R55, R63: the messages that wait are accepted in order, each once nothing holds it. -/
def State.drainEri (s : State) : State :=
  let r := s.ep.eriWait.foldl (fun (acc : State × List (Nat × Eri × List Nat)) w =>
    if acc.1.mayAccept w.1 w.2.1 acc.2 then (acc.1.eriAccept w.1 w.2.1 w.2.2, acc.2) else (acc.1, acc.2 ++ [w])) (s, [])
  r.1.modEp fun e => { e with eriWait := r.2 }

/-- Everything that the endpoint goes on to do by itself: collectives, tiles, copies, lists, messages that wait. -/
def State.epOn (s : State) : State := s.collsOn.tilesOn.copiesDone.listsOn.drainEri

/-- Everything that the module goes on to do by itself: regions, sequence slots, a restore push, a fence. -/
def State.modOn (s : State) : State :=
  let s := s.regionsOn.mcOn
  (if s.mod.push.state = 1 then s.pushOn.pushEnd else s).fenceOn

/-- What a part goes on to do by itself. -/
def State.partOn (s : State) (p : Part) : State :=
  match p with
  | .ep => s.epOn
  | .mod => s.modOn

/-- R103: does a request's pair of Agent ID and Tag name one that is outstanding, accepted or waiting to be? -/
def State.pairOut (s : State) (m : Eri) : Bool :=
  s.tagOut m.agent m.tag || s.ep.eriWait.any fun w => w.2.1.agent == m.agent && w.2.1.tag == m.tag

/-- R6, R101: does the form of an agent's request fail: an undefined or other kind, a field in use that should be zero? -/
def eriFormBad (kind : Nat) (m : Eri) : Bool :=
  m.kind != kind || !m.unusedZero || (kind == 0x06 && !eriDirForm m)

/-- R101 to R104: a request of the accelerator arrives on a link. One without credits is discarded; one whose form fails (R6) or
whose pair is outstanding (R103) is answered Denied; one that the endpoint cannot take yet waits. `kind` is the kind that the
command names: another one fails under R6. DESIGN CHOICE (log entry 168): the form is checked before the pair, and both before
what a part without a bundle (R116) or a part declared dead (R290) answers. -/
def State.eriRequest (s : State) (l : Nat) (kind : Nat) (m : Eri) (ecc : List Nat) : State :=
  if !s.linkUp l then s
  else match s.takeCredit l 0 m.units with
    | none => s.epCount 18
    | some s =>
      if eriFormBad kind m then (s.returnReq l m.units).eriMalformed l m
      else if s.pairOut m then ((s.returnReq l m.units).epCount 19).eriAnswer l m cDenied true
      else if s.mayAccept l m s.ep.eriWait then s.eriAccept l m ecc
      else s.modEp fun e => { e with eriWait := e.eriWait ++ [(l, m, ecc)] }

/-! ### Memory answers (R106, R107) -/

/-- The answer to a request of the endpoint to its own memory. -/
def State.ownAnswer (s : State) (id code : Nat) (data : List Byte) : State :=
  match s.ep.sh.req id with
  | none => s
  | some r =>
    let s := if code = cDone ∨ r.owner ≠ Owner.agent then s else s.epCount 6
    if s.slotRevoked r.slot r.pkt.job then s.endReq .ep id cTorn []
    else if code = cDone then let f := s.fillAndTake r data; f.1.endReq .ep id cDone f.2
    else s.endReq .ep id cPoison []

/-- An answer, or the Poison that stands for one, reaches whom the memory message served. -/
def State.memTo (s : State) (who : MemFor) (code : Nat) (data : List Byte) : State :=
  match who with
  | .fabric id => s.finishProg .ep id code data
  | .own id => s.ownAnswer id code data
  | .walk id => s.walkAnswer id code data
  | .list n i pos len => s.listAnswer n i pos len code data
  | .piece c k part => s.pieceAnswer c k part code data
  | .resultW prog c => s.resultAnswer prog c code
  | .restore prog => s.restoreAnswer prog code
  | .exchange c pos => s.routeAnswer c pos code data

/-- Take a memory message out of the outstanding ones. -/
def State.memDrop (s : State) (tag : Nat) : State :=
  s.modEp fun e => { e with mem := delFirst (fun x => x.tag == tag) e.mem }

/-- R106: the answer to an outstanding memory message: another code than Done or Poison, or an answer that does not fit its
message in kind or length, is Poison. -/
def State.memTake (s : State) (w : MemMsg) (m : Eri) : State :=
  let s := s.memDrop w.tag
  let good := m.kind == (if w.kind = 0x29 then 0x11 else 0x10) && (m.code == 0 || m.code == 4) &&
    (m.code != 0 || m.body.length == w.want) && m.len == m.body.length
  let code := if good && m.code == 0 then cDone else cPoison
  ((if good then s else s.epCount 12).memTo w.who code (if code = cDone then m.body else [])).flushTx

/-- R106, R107: MEMORY_DATA and MEMORY_ACK: credits, then the message that the tag names; a late one is discarded, and one whose
form fails is discarded as malformed input (R6). -/
def State.memAnswer (s : State) (l : Nat) (m : Eri) : State :=
  if !s.linkUp l then s
  else match s.takeCredit l 1 m.units with
    | none => s.epCount 18
    | some s =>
      let s := s.giveCredit l 1 m.units
      if (m.kind ≠ 0x10 ∧ m.kind ≠ 0x11) ∨ !m.unusedZero then s.epCount 0
      else match s.memOf m.tag with
      | none => s.epCount 20
      | some w => (s.memTake w m).epOn

/-- R107: MEMORY_TIMEOUT: no answer within the memory timeout is Poison. -/
def State.memTimeout (s : State) (tag : Nat) : State :=
  match s.memOf tag with
  | none => s
  | some w =>
    if s.ns < w.sent + w.limit then s
    else ((((s.memDrop tag).epCount 20).memTo w.who cPoison []).flushTx).epOn

/-! ### Packets that a port has passed up -/

/-- A packet leaves what waits for its receiver. -/
def State.arrives (s : State) (p : Part) (k : Packet) : State := s.takeIn p fun x => x == k

/-- R121, R122, R229: a part that receives nothing from the fabric: a fenced module, a stopped endpoint. -/
def State.fabricOff (s : State) (p : Part) : Bool :=
  match p with
  | .ep => s.ep.tripped || s.ep.inReset
  | .mod => s.mod.ve.fenced

/-- A packet for the part: taken and handed on, unless the part receives nothing, or the packet has grown too old in its queue or
its job is torn down (R215, R225). -/
def State.fabricIn (s : State) (p : Part) (k : Packet) (f : State → State) : State :=
  if s.fabricOff p then s
  else match s.expired p fun x => x == k with
    | some (g, c) => s.dropFrame g c
    | none => (f (s.arrives p k)).partOn p

/-- R44, R50: a request packet reaches its receiver; at the module, a request that passes check 8 reaches the Commons. -/
def State.fabricRequest (s : State) (p : Part) (k : Packet) (port : Nat) (tagOk : Bool) (err : Nat) : Answer :=
  if s.fabricOff p then .next s
  else match s.expired p fun x => x == k with
    | some (g, c) => .next (s.dropFrame g c)
    | none =>
      let r := (s.arrives p k).receive p k port tagOk
      match p, r.2 with
      | .mod, some id => r.1.commonsAccess id err
      | .mod, none => .next r.1
      | .ep, _ => .next r.1.epOn

/-- R59: a held flagged store is resolved; at the module it then reaches the Commons. -/
def State.flagResolve (s : State) (p : Part) (src seq : Nat) : Answer :=
  let r := s.holdResolve p src seq
  match p, r.2 with
  | .mod, some id => r.1.commonsAccess id 0
  | .mod, none => .next r.1
  | .ep, _ => .next r.1

/-- R52, R171: a request that waits is issued. -/
def State.issueAny (s : State) (p : Part) (id : Nat) (ecc : List Nat) : State :=
  match p with
  | .ep => s.tryIssueEcc id ecc
  | .mod => s.tryDeliver id

end Sys2Proof.Machine
end

