-- ==== Sys2Proof/Machine/Schedule.lean ====
section
/-! DEFINITION. Events against rack time: what a forward step of the counter skips, and in which order it takes effect
(R268 to R270). -/

namespace Sys2Proof.Machine

/-- An event that a step skips: its time in ns, its place in R270's order, and what it does. -/
inductive Event where
  | modeSwitch | capStep | interval | snapshot | checkpoint | scrub | align
  | window (i : Nat) | list (n : Nat) | coll (c : Nat)
  deriving DecidableEq, Repr

/-- R270: the order of events of one boundary. -/
def Event.rank : Event → Nat
  | .align => 1
  | .modeSwitch => 2
  | .capStep => 3
  | .interval => 4
  | .snapshot => 5
  | .checkpoint => 6
  | .scrub => 7
  | .window _ => 8
  | .list _ => 9
  | .coll _ => 9

/-- The first multiple of `n` epochs after `old`, if it is not after `new`, in ns. -/
def firstEpoch (old new n : Nat) : Option Nat :=
  let t := (old / (n * 1000000) + 1) * (n * 1000000)
  if n = 0 then none else if t ≤ new then some t else none

/-- An event at a time that lies after `old` and not after `new`. -/
def inStep (old new t : Nat) (e : Event) : List (Nat × Event) := if old < t ∧ t ≤ new then [(t, e)] else []

/-- The same for a time that may not be set. -/
def inStepOpt (old new : Nat) (t : Option Nat) (e : Event) : List (Nat × Event) := t.toList.flatMap fun t => inStep old new t e

/-- The events of a part whose time lies after `old` and not after `new` (ns), with their times. -/
def State.skipped (s : State) (p : Part) (old new : Nat) : List (Nat × Event) :=
  let sh := s.sh p
  inStepOpt old new sh.switchAt .modeSwitch ++
  inStepOpt old new (firstEpoch old new (s.reg p 0x901001)) .snapshot ++
  sh.windows.flatMap (fun w => if w.2.state = 1 then inStep old new w.2.start (.window w.1) else []) ++
  match p with
  | .ep =>
    s.ep.lists.flatMap (fun l => if l.2.state = 2 then inStep old new l.2.act (.list l.1) else []) ++
    s.ep.colls.flatMap (fun c => if c.state = 2 then inStep old new c.start (.coll c.id) else [])
  | .mod =>
    inStepOpt old new (s.mod.power.step.map (·.1)) .capStep ++
    inStepOpt old new (firstEpoch old new 1000) .interval ++
    inStepOpt old new (firstEpoch old new 1) .checkpoint ++ inStepOpt old new (firstEpoch old new 1) .scrub ++
    (if s.mod.alignTry = 1 ∨ s.mod.alignTry = 4 then inStep old new s.mod.alignAt .align else [])

/-- R268, R270: put an event into the order of scheduled times. -/
def insEvent (x : Nat × Event) : List (Nat × Event) → List (Nat × Event)
  | [] => [x]
  | y :: t => if x.1 < y.1 ∨ (x.1 = y.1 ∧ x.2.rank < y.2.rank) then x :: y :: t else y :: insEvent x t

/-- R380, R384: a step of rack time passes ends of meter intervals: the meter has the new time and closes them, in order. -/
def State.intervalsPassed (s : State) (energy : Nat) : State :=
  if s.mod.meter.runs ∧ s.mod.meter.synced then s.meterTimeIn.intervalClose energy else s

/-- An event takes effect; `energy` (mJ) is what the meter has measured of its open interval. -/
def State.takeEvent (s : State) (p : Part) (energy : Nat) (e : Event) : State :=
  match e with
  | .modeSwitch => s.modeSwitch p
  | .capStep => s.capEffective
  | .interval => s.intervalsPassed energy
  | .snapshot => s.modCtr p fun c => { c with bank := c.live, bankTime := s.epochOf p * 1000000, bankUnlocked := !s.locked p }
  | .checkpoint => s.checkpointSlot
  | .scrub => s.scrubOpen [] []
  | .align => s.alignStart
  | .window i => s.windowStart p i
  | .list n => s.activate n false
  | .coll c => match s.coll c with
    | some x => if x.routeReads = 0 then s.collSend c else s
    | none => s

/-- R268: RACK_TIME_STEP: the step that waits is made at an epoch tick; Mown mode ends; every event that a forward step skips
takes effect and is counted in event-late. -/
def State.rackStep (s : State) (p : Part) (energy : Nat) : State :=
  match (s.sh p).rt.step with
  | none => s
  | some d =>
    let old := s.rackNs p
    let s := s.stepCounter p d
    let new := s.rackNs p
    let evs := (s.skipped p old new).foldl (fun l x => insEvent x l) []
    evs.foldl (fun s x => (s.bothCount p 35 2).takeEvent p energy x.2) s

end Sys2Proof.Machine
end

