-- ==== Sys2Proof/Machine/RunTranslate.lean ====
section
/-! DEFINITION. Meanings of the commands of addressing and translation (R18, R29 to R48, R183) and of a plain Directory write
(R327). A write by way of a named entry is checked by R327 and answered on its path. -/

namespace Sys2Proof.Machine

/-- R327: one write, on any path, to the entry `key`. -/
def State.writeEntry (s : State) (p : Part) (a : Access) (key : Nat) (k : State → Nat × State) : State :=
  dirAnswer p a.ctx (dirWriteWith p a key k s)

/-- R327: a named entry whose value needs no outcome from outside. -/
def State.writeNamed (s : State) (p : Part) (a : Access) (key : Nat) (val : List Byte) : State :=
  s.writeEntry p a key fun s => s.dirApply p a key val DirAux.none_

/-- R46: the entry of a slot, 0xD210 + slot. -/
def slotEntry (slot sub : Nat) : Nat := (0xD210 + slot) * 256 + sub

/-- R327: DIRECTORY_WRITE. -/
def execDirectoryWrite (p : Part) (a : Access) (key : Nat) (val : List Byte) (s : State) : Answer :=
  .next ((dirAnswer p a.ctx (s.dirWriteAny p a key val)).partOn p)

/-- R18, R334: MANAGEMENT_CORE_PAIR_STOP. -/
def execManagementCorePairStop (pair : Nat) (s : State) : Answer := .next (s.coreStop pair)

/-- R32, R33: TABLE_WALK_COMPLETE. -/
def execTableWalkComplete (walk : Nat) (s : State) : Answer := .next (s.walkEnd walk).epOn

/-- R48: SLOT_JOB_ID_WRITE. -/
def execSlotJobIdWrite (a : Access) (slot : Nat) (val : List Byte) (s : State) : Answer :=
  .next (s.writeNamed .ep a (slotEntry slot 1) val)

/-- R36: INVALIDATE_GENERATION. -/
def execInvalidateGeneration (a : Access) (slot : Nat) (val : List Byte) (s : State) : Answer :=
  .next (s.writeNamed .ep a (slotEntry slot 3) val).epOn

/-- R36: INVALIDATION_COMPLETE. -/
def execInvalidationComplete (slot : Nat) (s : State) : Answer := .next (s.invalidationDone slot)

/-- R41: RESUME_RETRY. -/
def execResumeRetry (a : Access) (val : List Byte) (s : State) : Answer := .next (s.writeNamed .ep a 0xD20005 val)

/-- R41: RESUME_FAIL. -/
def execResumeFail (a : Access) (val : List Byte) (s : State) : Answer := .next (s.writeNamed .ep a 0xD20005 val).epOn

/-- R41: FAULT_TIMEOUT. -/
def execFaultTimeout (rec : Nat) (s : State) : Answer := .next (s.faultExpire rec).epOn

/-- R41: FAULT_WALK_COMPLETE. -/
def execFaultWalkComplete (rec : Nat) (s : State) : Answer := .next (s.recordWalkEnd rec).epOn

/-- R43: ADMISSION_ENTRY_WRITE. -/
def execAdmissionEntryWrite (a : Access) (val : List Byte) (s : State) : Answer := .next (s.writeNamed .ep a 0xD30004 val)

/-- R183: COMMONS_ADMISSION_ENTRY_WRITE. -/
def execCommonsAdmissionEntryWrite (a : Access) (val : List Byte) (s : State) : Answer := .next (s.writeNamed .mod a 0x720004 val)

end Sys2Proof.Machine
end

