-- ==== Sys2Proof/Machine/RunEri.lean ====
section
/-! DEFINITION. Meanings of the commands of the ERI links and of the endpoint's copies and care (R99 to R122). -/

namespace Sys2Proof.Machine

/-- R104: ERI_LOAD. `ecc`: what the near cache's ECC finds in the lines that it touches, one by one, where they hit
(0 nothing, 1 corrected, 2 uncorrectable). -/
def execEriLoad (link : Nat) (m : Eri) (ecc : List Nat) (s : State) : Answer := .next (s.eriRequest link 0x01 m ecc).epOn

/-- R104: ERI_STORE. -/
def execEriStore (link : Nat) (m : Eri) (s : State) : Answer := .next (s.eriRequest link 0x02 m []).epOn

/-- R104: ERI_ATOMIC. -/
def execEriAtomic (link : Nat) (m : Eri) (s : State) : Answer := .next (s.eriRequest link 0x03 m []).epOn

/-- R63: ERI_FENCE. -/
def execEriFence (link : Nat) (m : Eri) (s : State) : Answer := .next (s.eriRequest link 0x04 m []).epOn

/-- R63: FENCE_COMPLETE. -/
def execFenceComplete (id : Nat) (s : State) : Answer := .next (s.fenceComplete id).epOn

/-- R67, R105: ERI_CACHE_INVALIDATE. -/
def execEriCacheInvalidate (link : Nat) (m : Eri) (s : State) : Answer := .next (s.eriRequest link 0x05 m []).epOn

/-- R105: ERI_DIRECTORY_REQUEST. -/
def execEriDirectoryRequest (link : Nat) (m : Eri) (s : State) : Answer := .next (s.eriRequest link 0x06 m []).epOn

/-- R109, R112: ERI_COPY. -/
def execEriCopy (link : Nat) (m : Eri) (s : State) : Answer := .next (s.eriRequest link 0x08 m []).epOn

/-- R114: LIST_ARM. -/
def execListArm (link : Nat) (m : Eri) (s : State) : Answer := .next (s.eriRequest link 0x09 m []).epOn

/-- R114: LIST_CANCEL. -/
def execListCancel (link : Nat) (m : Eri) (s : State) : Answer := .next (s.eriRequest link 0x0A m []).epOn

/-- R159: COLLECTIVE_START. -/
def execCollectiveStart (link : Nat) (m : Eri) (s : State) : Answer := .next (s.eriRequest link 0x0C m []).epOn

/-- R106: MEMORY_DATA. -/
def execMemoryData (link : Nat) (m : Eri) (s : State) : Answer := .next (s.memAnswer link m)

/-- R106: MEMORY_ACK. -/
def execMemoryAck (link : Nat) (m : Eri) (s : State) : Answer := .next (s.memAnswer link m)

/-- R107: MEMORY_TIMEOUT. -/
def execMemoryTimeout (mtag : Nat) (s : State) : Answer := .next (s.memTimeout mtag)

/-- R102: INIT. -/
def execInitLink (link : Nat) (m : Eri) (s : State) : Answer := .next (s.initIn link m)

/-- R102: CREDIT. -/
def execCredit (link : Nat) (m : Eri) (s : State) : Answer := .next (s.creditIn link m)

/-- R102: UCIE_LINK_UP. -/
def execUcieLinkUp (link : Nat) (s : State) : Answer := .next (s.linkComesUp link)

/-- R99: UCIE_LINK_LOST. -/
def execUcieLinkLost (link : Nat) (s : State) : Answer := .next (s.linkLost link)

/-- R110: COPY_TILE_ISSUE. -/
def execCopyTileIssue (engine : Nat) (s : State) : Answer := .next (s.engineIssue engine)

/-- R113: WORK_STEALING. -/
def execWorkStealing (engine : Nat) (s : State) : Answer := .next (s.steal engine)

/-- R111: COPY_TILE_COMPLETE. -/
def execCopyTileComplete (tile : Nat) (s : State) : Answer := .next (s.tileComplete tile).epOn

/-- R114: LIST_READ_COMPLETE. -/
def execListReadComplete (slot : Nat) (s : State) : Answer := .next (s.listRead slot).epOn

/-- R114: LIST_ACTIVATION. -/
def execListActivation (slot : Nat) (s : State) : Answer := .next (s.listTime slot).epOn

/-- R121: THROTTLE_TEMPERATURE. -/
def execThrottleTemperature (temp : Int) (s : State) : Answer := .next (s.throttleTemp temp)

/-- R121: ENDPOINT_THERMAL_TRIP. -/
def execEndpointThermalTrip (temp : Int) (s : State) : Answer := .next (s.endpointTrip temp)

/-- R122: SUPPLY_OUT_OF_RANGE. -/
def execSupplyOutOfRange (supply : Nat) (s : State) : Answer := .next (s.supplyOut supply)

end Sys2Proof.Machine
end

