-- ==== Sys2Proof/Machine/RunFabric.lean ====
section
/-! DEFINITION. Meanings of the commands of the fabric's requests, responses, atomics and of revocation (R44 to R96, R412). -/

namespace Sys2Proof.Machine

/-- R52, R171: REQUEST_ISSUE. -/
def execRequestIssue (p : Part) (id : Nat) (ecc : List Nat) (s : State) : Answer := .next ((s.issueAny p id ecc).partOn p)

/-- R78, R86: RESPONSE_RECEIVE. -/
def execResponseReceive (p : Part) (pkt : Packet) (tagOk : Bool) (s : State) : Answer :=
  .next (s.fabricIn p pkt fun s => s.responseReceive p pkt tagOk)

/-- R44: FABRIC_REQUEST_RECEIVE. `err`: what the memory's ECC finds (0 nothing, 1 corrected, 2 uncorrectable). -/
def execFabricRequestReceive (p : Part) (pkt : Packet) (port : Nat) (tagOk : Bool) (err : Nat) (s : State) : Answer :=
  s.fabricRequest p pkt port tagOk err

/-- R59: FLAGGED_STORE_RESOLVE. -/
def execFlaggedStoreResolve (p : Part) (src : Nat) (seq : Nat) (s : State) : Answer := s.flagResolve p src seq

/-- R60: FLAG_HOLD_TIMEOUT. -/
def execFlagHoldTimeout (p : Part) (src : Nat) (seq : Nat) (s : State) : Answer := .next (s.holdTimeout p src seq)

/-- R81: FETCH_ADD. -/
def execFetchAdd (id : Nat) (err : Nat) (s : State) : Answer := .next (s.atomicRmw id 1 err atomAdd)

/-- R81: FETCH_MIN. -/
def execFetchMin (id : Nat) (err : Nat) (s : State) : Answer := .next (s.atomicRmw id 2 err atomMin)

/-- R81: FETCH_MAX. -/
def execFetchMax (id : Nat) (err : Nat) (s : State) : Answer := .next (s.atomicRmw id 3 err atomMax)

/-- R82: COMPARE_SWAP. -/
def execCompareSwap (id : Nat) (err : Nat) (s : State) : Answer := .next (s.atomicRmw id 4 err atomCas)

/-- R82: SWAP. -/
def execSwap (id : Nat) (err : Nat) (s : State) : Answer := .next (s.atomicRmw id 5 err atomSwap)

/-- R83: ALLOCATE. -/
def execAllocate (id : Nat) (err : Nat) (s : State) : Answer := .next (s.allocRun id 8 err)

/-- R83: FREE. -/
def execFree (id : Nat) (err : Nat) (s : State) : Answer := .next (s.allocRun id 9 err)

/-- R83: REFERENCE_ADD. -/
def execReferenceAdd (id : Nat) (err : Nat) (s : State) : Answer := .next (s.allocRun id 10 err)

/-- R83: REFERENCE_RELEASE. -/
def execReferenceRelease (id : Nat) (err : Nat) (s : State) : Answer := .next (s.allocRun id 11 err)

/-- R87: RETRY_RESEND. -/
def execRetryResend (p : Part) (id : Nat) (s : State) : Answer := .next ((s.retryResend p id).partOn p)

/-- R92: GAP_TIMER_EXPIRY. -/
def execGapTimerExpiry (p : Part) (src : Nat) (s : State) : Answer := .next (s.gapTimer p src)

/-- R92, R412: GAP_NOTICE. -/
def execGapNotice (p : Part) (pkt : Packet) (tagOk : Bool) (s : State) : Answer :=
  .next (s.fabricIn p pkt fun s => s.gapNotice p pkt tagOk)

/-- R90: RESYNC_NOTICE. -/
def execResyncNotice (p : Part) (pkt : Packet) (tagOk : Bool) (s : State) : Answer :=
  .next (s.fabricIn p pkt fun s => s.resyncNotice p pkt tagOk)

/-- R93: RETRANSMIT_TIMEOUT. -/
def execRetransmitTimeout (p : Part) (id : Nat) (s : State) : Answer := .next ((s.retransmitTimeout p id).partOn p)

/-- R94: REQUEST_LIFETIME_EXPIRY. -/
def execRequestLifetimeExpiry (p : Part) (id : Nat) (s : State) : Answer := .next ((s.lifetimeEnd p id).partOn p)

/-- R96: SLOT_REVOKE. -/
def execSlotRevoke (a : Access) (slot : Nat) (val : List Byte) (s : State) : Answer :=
  .next (s.writeNamed .ep a (slotEntry slot 6) val).epOn

/-- R96: SLOT_DRAINED. -/
def execSlotDrained (slot : Nat) (s : State) : Answer := .next (s.slotDrained slot)

end Sys2Proof.Machine
end

