-- ==== Sys2Proof/Machine/RunCollectives.lean ====
section
/-! DEFINITION. Meanings of the commands of the collectives (R148 to R177). -/

namespace Sys2Proof.Machine

/-- R151: GROUP_ENTRY_WRITE. -/
def execGroupEntryWrite (a : Access) (val : List Byte) (s : State) : Answer := .next (s.writeNamed .mod a 0x610007 val)

/-- R152: MEMBER_TABLE_WRITE. -/
def execMemberTableWrite (a : Access) (val : List Byte) (s : State) : Answer := .next (s.writeNamed .mod a 0x610008 val)

/-- R152: CONTEXT_ENTRY_WRITE. -/
def execContextEntryWrite (a : Access) (val : List Byte) (s : State) : Answer := .next (s.writeNamed .mod a 0x61000A val)

/-- R148: PROGRAM_BLOCK_WRITE. -/
def execProgramBlockWrite (a : Access) (val : List Byte) (s : State) : Answer := .next (s.writeNamed .mod a 0x61000B val)

/-- R160, R162: PROBE. -/
def execProbe (pkt : Packet) (port : Nat) (tagOk : Bool) (s : State) : Answer :=
  .next (s.fabricIn .mod pkt fun s => s.mcMember pkt port tagOk)

/-- R168: CONTRIBUTION. -/
def execContribution (pkt : Packet) (port : Nat) (tagOk : Bool) (s : State) : Answer :=
  .next (s.fabricIn .mod pkt fun s => s.mcMember pkt port tagOk)

/-- R161: ARRIVE. -/
def execArrive (pkt : Packet) (port : Nat) (tagOk : Bool) (s : State) : Answer :=
  .next (s.fabricIn .mod pkt fun s => s.mcMember pkt port tagOk)

/-- R163: RESULT. An endpoint's port is the plane of the packet. -/
def execResult (pkt : Packet) (tagOk : Bool) (s : State) : Answer :=
  .next (s.fabricIn .ep pkt fun s => s.collReceive pkt pkt.plane tagOk)

/-- R176: RELEASE. -/
def execRelease (pkt : Packet) (tagOk : Bool) (s : State) : Answer :=
  .next (s.fabricIn .ep pkt fun s => s.collReceive pkt pkt.plane tagOk)

/-- R167: RACK_PARTIAL. -/
def execRackPartial (pkt : Packet) (port : Nat) (tagOk : Bool) (s : State) : Answer :=
  .next (s.fabricIn .mod pkt fun s => s.rackPartial pkt port tagOk)

/-- R167: TREE_RESULT. -/
def execTreeResult (pkt : Packet) (port : Nat) (tagOk : Bool) (s : State) : Answer :=
  .next (s.fabricIn .mod pkt fun s => s.treeResult pkt port tagOk)

/-- R153: SEQUENCE_SLOT_FINISH. -/
def execSequenceSlotFinish (group : Nat) (slot : Nat) (s : State) : Answer := .next (s.slotFinish group slot).modOn

/-- R155: SLOT_TIMEOUT. -/
def execSlotTimeout (group : Nat) (slot : Nat) (s : State) : Answer := .next (s.slotTimeout group slot).modOn

/-- R170: TREE_RESEND. -/
def execTreeResend (group : Nat) (slot : Nat) (piece : Nat) (s : State) : Answer := .next (s.treeResend group slot piece)

/-- R154: HOLD_RESEND. -/
def execHoldResend (id : Nat) (s : State) : Answer := .next (s.holdResend id).epOn

/-- R163: RESULT_RESEND. -/
def execResultResend (id : Nat) (s : State) : Answer := .next (s.retryResend .mod id).modOn

/-- R161: COLLECTIVE_SEND_START. -/
def execCollectiveSendStart (coll : Nat) (s : State) : Answer := .next (s.collStartTime coll).epOn

/-- R175: COLLECTIVE_TIMEOUT. -/
def execCollectiveTimeout (coll : Nat) (s : State) : Answer := .next (s.collTimeout coll).epOn

/-- R171: RESIDUE_DELIVERY. -/
def execResidueDelivery (port : Nat) (s : State) : Answer := .next (s.residue port)

/-- R177: LATENESS_RECORD_CLEAR. -/
def execLatenessRecordClear (a : Access) (val : List Byte) (s : State) : Answer := .next (s.writeNamed .mod a 0x620002 val)

/-- R133: SPILL_RECORD_RETURN. -/
def execSpillRecordReturn (group : Nat) (slot : Nat) (piece : Nat) (ok : Bool) (s : State) : Answer :=
  .next (s.recordReturn group slot piece ok)

end Sys2Proof.Machine
end

