-- ==== Sys2Proof/Machine/RunCommons.lean ====
section
/-! DEFINITION. Meanings of the commands of the Commons and of the host ports (R179 to R203, R260 to R262, R338). -/

namespace Sys2Proof.Machine

/-- R179: SPILL_RESERVE_WRITE. -/
def execSpillReserveWrite (a : Access) (val : List Byte) (s : State) : Answer := .next (s.writeNamed .mod a 0x700002 val)

/-- R180: REGION_DESCRIPTOR_WRITE. -/
def execRegionDescriptorWrite (a : Access) (val : List Byte) (s : State) : Answer := .next (s.writeNamed .mod a 0x701002 val)

/-- R182: REGION_INIT_COMPLETE. -/
def execRegionInitComplete (region : Nat) (s : State) : Answer := .next (s.regionInitDone region)

/-- R182: REGION_SCRUB_COMPLETE. -/
def execRegionScrubComplete (region : Nat) (s : State) : Answer := .next ((s.regionScrubDone region).noteScrubbed .mod)

/-- R182: HANDOVER. -/
def execHandover (a : Access) (val : List Byte) (s : State) : Answer := .next (s.writeNamed .mod a 0x701004 val)

/-- R182: CLEAR_STALE. -/
def execClearStale (a : Access) (val : List Byte) (s : State) : Answer := .next (s.writeNamed .mod a 0x701005 val)

/-- R182: RETENTION_LIMIT. -/
def execRetentionLimit (region : Nat) (s : State) : Answer := .next (s.retentionEnd region)

/-- R188: STACK_FAILED. -/
def execStackFailed (stack : Nat) (retrain : Bool) (s : State) : Answer := .next (s.stackFail stack retrain).fenceOn

/-- R190: SCRUB_WINDOW. -/
def execScrubWindow (corrected : List Nat) (failing : List Nat) (s : State) : Answer := .next (s.scrubOpen corrected failing)

/-- R190: SCRUB_WINDOW_END. -/
def execScrubWindowEnd (s : State) : Answer := .next s.scrubClose

/-- R190: CHECKPOINT_SLOT. -/
def execCheckpointSlot (s : State) : Answer := .next s.checkpointSlot

/-- R198: RESTORE_COMMAND. -/
def execRestoreCommand (a : Access) (val : List Byte) (s : State) : Answer := .next (s.writeNamed .mod a 0x760001 val).modOn

/-- R198: RESTORE_PUSH_COMPLETE. -/
def execRestorePushComplete (s : State) : Answer := .next s.pushEnd

/-- R199: CHECKPOINT_RESTORE. -/
def execCheckpointRestore (pkt : Packet) (tagOk : Bool) (s : State) : Answer :=
  .next (s.fabricIn .ep pkt fun s => s.restoreReceive pkt pkt.plane tagOk)

/-- R262, R338: RDMA_WRITE. -/
def execRdmaWrite (qp : Nat) (rkey : Nat) (va : Nat) (data : List Byte) (err : Nat) (ce : Bool) (s : State) : Answer :=
  (s.congestion qp ce).roceWrite qp rkey va data err

/-- R262: RDMA_READ. -/
def execRdmaRead (qp : Nat) (rkey : Nat) (va : Nat) (len : Nat) (err : Nat) (ce : Bool) (s : State) : Answer :=
  (s.congestion qp ce).roceRead qp rkey va len err

/-- R262: ATOMIC_FETCH_AND_ADD: op 0x01 with Format 3. -/
def execAtomicFetchAndAdd (qp : Nat) (rkey : Nat) (va : Nat) (addend : Nat) (err : Nat) (ce : Bool) (s : State) : Answer :=
  (s.congestion qp ce).roceAtomic qp rkey va err fun old => atomAdd 3 old (leBytes 8 addend)

/-- R262: ATOMIC_COMPARE_AND_SWAP: op 0x04 with Format 9. -/
def execAtomicCompareAndSwap (qp : Nat) (rkey : Nat) (va : Nat) (cmp : Nat) (new : Nat) (err : Nat) (ce : Bool) (s : State) : Answer :=
  (s.congestion qp ce).roceAtomic qp rkey va err fun old => atomCas 9 old (leBytes 8 cmp ++ leBytes 8 new)

/-- R338: SEND. -/
def execSend (qp : Nat) (m : PMsg) (ce : Bool) (s : State) : Answer := .next ((s.congestion qp ce).roceSend qp m)

/-- R260: HOST_LINK_STATE_CHANGE. -/
def execHostLinkStateChange (port : Nat) (state : Nat) (s : State) : Answer := .next (s.hostLink port state)

/-- R260: ARP_NEIGHBOUR_DISCOVERY_ICMP_ECHO. -/
def execArpNeighbourDiscoveryIcmpEcho (port : Nat) (kind : Nat) (own : Bool) (s : State) : Answer :=
  .next (s.hostFrame port kind own)

end Sys2Proof.Machine
end

