-- ==== Sys2Proof/Machine/RunMesh.lean ====
section
/-! DEFINITION. Meanings of the commands of the tiles, the mesh, the slices and the serial links (R204 to R254). -/

namespace Sys2Proof.Machine

/-- R238: FRAME_RECEIVE. -/
def execFrameReceive (p : Part) (port : Nat) (fr : RawFrame) (s : State) : Answer := .next (s.frameReceive p port fr)

/-- R211: MESH_HEADER_ARRIVAL. -/
def execMeshHeaderArrival (tile : Nat) (plane : Nat) (lost : List Nat) (s : State) : Answer := .next (s.headersArrive tile plane lost)

/-- R212: MESH_INJECT. -/
def execMeshInject (tile : Nat) (s : State) : Answer := .next (s.inject tile (s.mod.frames.length + 1))

/-- R217: SPILL. -/
def execSpill (tile : Nat) (s : State) : Answer := .next (s.spillFrame tile)

/-- R218: READ_BACK. -/
def execReadBack (tile : Nat) (ok : Bool) (s : State) : Answer := .next (s.readBack tile ok)

/-- R208: PORT_TRANSMIT. -/
def execPortTransmit (p : Part) (port : Nat) (s : State) : Answer := .next ((s.transmit p port).partOn p)

/-- R226: COMMONS_MEMORY_RESPONSE. -/
def execCommonsMemoryResponse (id : Nat) (s : State) : Answer := .next (s.commonsResponse id)

/-- R224: SLICE_ENTRY_WRITE. -/
def execSliceEntryWrite (a : Access) (val : List Byte) (s : State) : Answer := .next (s.writeNamed .mod a 0x550002 val)

/-- R225: SLICE_REVOKE. -/
def execSliceRevoke (a : Access) (val : List Byte) (s : State) : Answer := .next (s.writeNamed .mod a 0x550004 val).modOn

/-- R225: TILE_SWEEP. -/
def execTileSweep (tile : Nat) (job : Nat) (s : State) : Answer := .next (s.tileSweep tile job)

/-- R225: SLICE_DRAINED. -/
def execSliceDrained (job : Nat) (s : State) : Answer := .next (s.sliceDrained job)

/-- R230, R295: EPOCH_AUDIT. -/
def execEpochAudit (p : Part) (s : State) : Answer := .next (s.epochAudit p)

/-- R237: ACK. -/
def execAck (p : Part) (port : Nat) (seq : Nat) (s : State) : Answer := .next (s.linkAck p port seq)

/-- R239: NAK. -/
def execNak (p : Part) (port : Nat) (seq : Nat) (s : State) : Answer := .next ((s.linkNak p port seq).partOn p)

/-- R240: REPLAY_TIMER. -/
def execReplayTimer (p : Part) (port : Nat) (s : State) : Answer := .next ((s.replayTimer p port).partOn p)

/-- R242: TRAINING_FRAME. -/
def execTrainingFrame (p : Part) (lane : Nat) (word : Nat) (crc : Nat) (adapted : Bool) (prbsErrors : Nat) (s : State) :
    Answer :=
  .next (s.trainFrame p lane word crc adapted prbsErrors)

/-- R243: DETECT_BURST. -/
def execDetectBurst (p : Part) (lane : Nat) (s : State) : Answer := .next (s.detectBurst p lane)

/-- R244: COUNTDOWN_END. -/
def execCountdownEnd (p : Part) (lane : Nat) (s : State) : Answer := .next (s.countdownEnd p lane)

/-- R245: BLOCK_LOCK. -/
def execBlockLock (p : Part) (lane : Nat) (headers : List Nat) (s : State) : Answer := .next (s.blockLock p lane headers)

/-- R246: ALIGNMENT_MARKER. -/
def execAlignmentMarker (p : Part) (port : Nat) (marks : List MarkRx) (s : State) : Answer := .next ((s.marker p port marks).partOn p)

/-- R247: CAPABILITY_BLOCK. -/
def execCapabilityBlock (p : Part) (port : Nat) (cap : Capability) (s : State) : Answer := .next ((s.capReceive p port cap).partOn p)

/-- R247: TRAINING_TIMEOUT. -/
def execTrainingTimeout (p : Part) (port : Nat) (s : State) : Answer := .next ((s.trainTimeout p port).partOn p)

/-- R247: RETRAIN_BACKOFF_END. -/
def execRetrainBackoffEnd (p : Part) (port : Nat) (s : State) : Answer := .next (s.tryTrain p port)

/-- R251: WIDTH_CHANGE. -/
def execWidthChange (p : Part) (port : Nat) (b : WidthBlock) (s : State) : Answer := .next (s.widthReceive p port b)

/-- R251: WIDTH_SWITCH. -/
def execWidthSwitch (p : Part) (port : Nat) (rx : Bool) (count : Nat) (s : State) : Answer := .next (s.widthSwitch p port rx count)

/-- R252: LANE_RESTORE. -/
def execLaneRestore (p : Part) (lane : Nat) (s : State) : Answer := .next (s.laneRestore p lane)

/-- R253: LANE_FAILURE. -/
def execLaneFailure (p : Part) (lane : Nat) (codewords : Nat) (signal : Bool) (s : State) : Answer :=
  .next ((s.laneFailure p lane codewords signal).partOn p)

/-- R253: PORT_DOWN. -/
def execPortDown (p : Part) (port : Nat) (cause : Nat) (s : State) : Answer := .next ((s.portDownCause p port cause).partOn p)

/-- R231: PORT_ROLE_WRITE. -/
def execPortRoleWrite (a : Access) (val : List Byte) (s : State) : Answer := .next (s.writeNamed .mod a 0x500002 val).modOn

/-- R254: EYE_SCAN_START. -/
def execEyeScanStart (p : Part) (a : Access) (val : List Byte) (s : State) : Answer := .next (s.writeNamed p a 0x430005 val)

/-- R254: EYE_SCAN_COMPLETE. -/
def execEyeScanComplete (p : Part) (lane : Nat) (grid : List Byte) (s : State) : Answer := .next (s.eyeDone p lane grid)

end Sys2Proof.Machine
end

