-- ==== Sys2Proof/Machine/RunTime.lean ====
section
/-! DEFINITION. Meanings of the commands of rack time, the timing lanes, alignment and Mown mode (R255 to R281). -/

namespace Sys2Proof.Machine

/-- R265, R266: TICK. -/
def execTick (p : Part) (lane : Nat) (epoch : Bool) (s : State) : Answer := .next (s.tick p lane epoch)

/-- R266: TIME_SET. -/
def execTimeSet (p : Part) (lane : Nat) (value : Nat) (ok : Bool) (s : State) : Answer := .next (s.timeSet p lane value ok)

/-- R266: LANE_SILENT. -/
def execLaneSilent (p : Part) (lane : Nat) (s : State) : Answer := .next (s.laneSilent p lane)

/-- R266: HOLDOVER_LIMIT. -/
def execHoldoverLimit (p : Part) (s : State) : Answer := .next (s.holdoverLimit p)

/-- R268, R270: RACK_TIME_STEP. -/
def execRackTimeStep (p : Part) (energy : Nat) (s : State) : Answer := .next ((s.rackStep p energy).partOn p)

/-- R257, R258: TIMING_LANE_MESSAGE. -/
def execTimingLaneMessage (p : Part) (lane : Nat) (chars : List TlChar) (s : State) : Answer :=
  .next ((s.timingIn p lane chars).partOn p)

/-- R255: ABORT. -/
def execAbort (p : Part) (lane : Nat) (s : State) : Answer := .next (s.abortMessage p lane)

/-- R271: ALIGNMENT_REQUEST. -/
def execAlignmentRequest (a : Access) (val : List Byte) (s : State) : Answer := .next (s.writeNamed .mod a 0xC10002 val)

/-- R271: ALIGNMENT_START. -/
def execAlignmentStart (s : State) : Answer := .next s.alignStart

/-- R271: ALIGN_PULSE. -/
def execAlignPulse (unlocked : List Nat) (s : State) : Answer := .next (s.alignPulse unlocked)

/-- R271: ALIGNMENT_CHECK. -/
def execAlignmentCheck (bad : List Nat) (s : State) : Answer := .next (s.alignCheck bad)

/-- R272: ALIGNMENT_LOST. -/
def execAlignmentLost (cause : Nat) (s : State) : Answer := .next (s.alignLost cause)

/-- R275: MOWN_ENTRY_WRITE. -/
def execMownEntryWrite (p : Part) (a : Access) (val : List Byte) (s : State) : Answer := .next (s.writeNamed p a 0xC30003 val)

/-- R276: MOWN_COMPILE_COMPLETE. -/
def execMownCompileComplete (entry : Nat) (s : State) : Answer := .next (s.mownCompile entry)

/-- R278: MODE_SWITCH. -/
def execModeSwitch (p : Part) (s : State) : Answer := .next ((s.modeSwitch p).partOn p)

/-- R279: MOWN_START. -/
def execMownStart (entry : Nat) (s : State) : Answer := .next (s.mownStart entry).modOn

/-- R274: MOWN_PIECE_SEND. -/
def execMownPieceSend (coll : Nat) (piece : Nat) (s : State) : Answer := .next (s.mownPieceSend coll piece).epOn

/-- R169: MOWN_PIECE_SLOT. -/
def execMownPieceSlot (entry : Nat) (piece : Nat) (s : State) : Answer := .next (s.mownSlot entry piece)

/-- R280: MOWN_FALLBACK: one outcome for each of the three cases. -/
def execMownFallback (entry : Nat) (_cause : Nat) (s : State) : Answer := .next (s.mownFallback entry)

end Sys2Proof.Machine
end

