-- ==== Sys2Proof/Machine/RunVerdicts.lean ====
section
/-! DEFINITION. Meanings of the commands of the verdicts, partial faults, suspects and windows (R283 to R300). -/

namespace Sys2Proof.Machine

/-- R283: HEARTBEAT. -/
def execHeartbeat (p : Part) (s : State) : Answer := .next (s.heartbeat p)

/-- R284: SUSPICION. -/
def execSuspicion (node : Nat) (s : State) : Answer := .next (s.suspect node)

/-- R284: VOTE_REPEAT. -/
def execVoteRepeat (node : Nat) (s : State) : Answer := .next (s.voteRepeat node)

/-- R286: VERDICT_MESSAGE. -/
def execVerdictMessage (p : Part) (v : VMsg) (inBand : Bool) (s : State) : Answer := .next (s.verdictIn p v inBand)

/-- R287, R299, R300: VERDICT_ISSUE. `ready`: the module to be restored reports every Down port Active (R300). -/
def execVerdictIssue (kind : Nat) (node : Nat) (plane : Nat) (ready : Bool) (s : State) : Answer :=
  .next (s.verdictIssue kind node plane ready)

/-- R288: VERDICT_APPLY. -/
def execVerdictApply (p : Part) (number : Nat) (s : State) : Answer := .next ((s.applyVerdict p number).partOn p)

/-- R289: PORT_FAILED. -/
def execPortFailed (node : Nat) (s : State) : Answer := .next (s.portFailed node)

/-- R289: PORT_RESTORED. -/
def execPortRestored (node : Nat) (s : State) : Answer := .next (s.portRestored node)

/-- R289: QUORUM_LOSS_FENCE. -/
def execQuorumLossFence (s : State) : Answer := .next s.quorumLoss

/-- R292: TILE_FAULT. -/
def execTileFault (tile : Nat) (s : State) : Answer := .next (s.tileOut tile).modOn

/-- R292: VERDICT_ENGINE_WATCHDOG. -/
def execVerdictEngineWatchdog (s : State) : Answer := .next s.engineWatchdog

/-- R292: ROOT_OF_TRUST_CORE_FAULT. -/
def execRootOfTrustCoreFault (s : State) : Answer := .next s.rotFault

/-- R292: DIE_CROSSING_DOMAIN_FAULT. -/
def execDieCrossingDomainFault (domain : Nat) (s : State) : Answer := .next (s.crossingFault domain)

/-- R293: CANARY. -/
def execCanary (engine : Nat) (exact : Nat) (ordered : Nat) (s : State) : Answer := .next (s.canary engine exact ordered)

/-- R294: CORRUPTION_REPORT. `failing`: the engines whose canaries, run within the next epoch, fail. -/
def execCorruptionReport (a : Access) (val : List Byte) (failing : List Nat) (s : State) : Answer :=
  .next (s.writeEntry .mod a 0xA30004 fun s => s.dirApply .mod a 0xA30004 val { DirAux.none_ with failing := failing })

/-- R296: SUSPECT_EVALUATION. -/
def execSuspectEvaluation (s : State) : Answer := .next s.suspectEval

/-- R296: CLEAR_SUSPECT. -/
def execClearSuspect (a : Access) (val : List Byte) (s : State) : Answer := .next (s.writeNamed .mod a 0xA50006 val)

/-- The window entry of a part. -/
def windowKey : Part → Nat
  | .ep => 0xDA0002
  | .mod => 0xA40002

/-- R297: WINDOW_ENTRY_WRITE. -/
def execWindowEntryWrite (p : Part) (a : Access) (val : List Byte) (s : State) : Answer := .next (s.writeNamed p a (windowKey p) val)

/-- R298: WINDOW_START. -/
def execWindowStart (p : Part) (window : Nat) (s : State) : Answer := .next (s.windowStart p window)

/-- R298: WINDOW_END. -/
def execWindowEnd (p : Part) (window : Nat) (passed : Bool) (s : State) : Answer := .next (s.windowEnd p window passed)

/-- R299: REBIND_REQUEST. -/
def execRebindRequest (a : Access) (val : List Byte) (s : State) : Answer := .next (s.writeNamed .mod a 0xA10002 val)

/-- R300: PLANE_RESTORE_REQUEST. -/
def execPlaneRestoreRequest (a : Access) (val : List Byte) (s : State) : Answer := .next (s.writeNamed .mod a 0xA10001 val)

end Sys2Proof.Machine
end

