-- ==== Sys2Proof/Machine/RunSecurity.lean ====
section
/-! DEFINITION. Meanings of the commands of boot, attestation, keys and tenant removal (R302 to R322). -/

namespace Sys2Proof.Machine

/-- R116, R122: ENDPOINT_RESET_RELEASE. `cycled`: VDD_AO has been cycled before it. -/
def execEndpointResetRelease (cycled : Bool) (s : State) : Answer := .next (s.epReset cycled)

/-- R305: BUNDLE_LOAD. -/
def execBundleLoad (a : Access) (b : BundleInfo) (s : State) : Answer :=
  .next (s.writeEntry .ep a 0xD80003 fun s => s.bundleLoad b).epOn

/-- R306, R307: MODULE_RESET_RELEASE. -/
def execModuleResetRelease (unwrapOk : Bool) (img : Option MetroImage) (s : State) : Answer := .next (s.modReset unwrapOk img)

/-- R306: BUNDLE_COMMIT. -/
def execBundleCommit (a : Access) (val : List Byte) (b : BundleInfo) (s : State) : Answer :=
  .next (s.writeEntry .mod a 0x800007 fun s => s.dirApply .mod a 0x800007 val { DirAux.none_ with bundle := b })

/-- The attestation nonce of a part. -/
def nonceKey : Part → Nat
  | .ep => 0xD80006
  | .mod => 0x801003

/-- R308: ATTESTATION_NONCE. -/
def execAttestationNonce (p : Part) (a : Access) (val : List Byte) (s : State) : Answer := .next (s.writeNamed p a (nonceKey p) val)

/-- R308: ATTESTATION_REPORT_READY. -/
def execAttestationReportReady (p : Part) (s : State) : Answer := .next (s.reportReady p)

/-- The key installation entry of a part. -/
def installKey : Part → Nat
  | .ep => 0xD80008
  | .mod => 0x810001

/-- R316: KEY_INSTALLATION. -/
def execKeyInstallation (p : Part) (a : Access) (val : List Byte) (unwrapOk : Bool) (s : State) : Answer :=
  .next (s.writeEntry p a (installKey p) fun s => s.dirApply p a (installKey p) val { DirAux.none_ with unwrapOk := unwrapOk })

/-- R317: KEY_ACTIVATION. -/
def execKeyActivation (p : Part) (job : Nat) (s : State) : Answer := .next (s.keyActivate p job)

/-- R311: KEY_PERIOD. -/
def execKeyPeriod (p : Part) (s : State) : Answer := .next (s.keyPeriodKeys p)

/-- The job retire entry of a part. -/
def retireKey : Part → Nat
  | .ep => 0xD80009
  | .mod => 0x820001

/-- R320: JOB_RETIRE. -/
def execJobRetire (p : Part) (a : Access) (val : List Byte) (s : State) : Answer := .next (s.writeNamed p a (retireKey p) val)

/-- R320: RETIRE_TIME. -/
def execRetireTime (p : Part) (job : Nat) (s : State) : Answer := .next ((s.retireTime p job).partOn p)

/-- R320: REMOVAL_SCRUB. -/
def execRemovalScrub (p : Part) (job : Nat) (s : State) : Answer := .next (s.removalScrub p job)

/-- R320: REMOVAL_SETTLE. -/
def execRemovalSettle (p : Part) (job : Nat) (s : State) : Answer := .next (s.removalSettle p job)

end Sys2Proof.Machine
end

