-- ==== Sys2Proof/Machine/RunDirectory.lean ====
section
/-! DEFINITION. Meanings of the commands of the Directory's paths: the protocol, the sideband, credentials and the log
(R263, R332 to R341). -/

namespace Sys2Proof.Machine

/-- R332: OPEN. -/
def execOpenMsg (m : PMsg) (s : State) : Answer := .next (s.protoUdp 1 m)

/-- R332: CLOSE. -/
def execClose (m : PMsg) (s : State) : Answer := .next (s.protoUdp 2 m)

/-- R333: READ. -/
def execRead (m : PMsg) (s : State) : Answer := .next (s.protoUdp 3 m)

/-- R333: WRITE. -/
def execWrite (m : PMsg) (s : State) : Answer := .next (s.protoUdp 4 m).modOn

/-- R337: SEGMENT_READ. -/
def execSegmentRead (m : PMsg) (s : State) : Answer := .next (s.protoUdp 5 m)

/-- R336: SEGMENT_WRITE. -/
def execSegmentWrite (m : PMsg) (s : State) : Answer := .next (s.protoUdp 6 m).modOn

/-- R338: COMMIT_STAGED. -/
def execCommitStaged (m : PMsg) (s : State) : Answer := .next (s.protoUdp 7 m).modOn

/-- R334: SESSION_IDLE_TIMEOUT. -/
def execSessionIdleTimeout (session : Nat) (s : State) : Answer := .next (s.sessionIdle session)

/-- R336, R337: BLOB_ASSEMBLY_EXPIRY. -/
def execBlobAssemblyExpiry (p : Part) (ctx : Ctx) (key : Nat) (s : State) : Answer := .next (s.blobExpire p ctx key)

/-- R335: CREDENTIAL_INSTALLATION. -/
def execCredentialInstallation (a : Access) (val : List Byte) (unwrapOk : Bool) (s : State) : Answer :=
  .next (s.writeEntry .mod a 0x830002 fun s => s.dirApply .mod a 0x830002 val { DirAux.none_ with unwrapOk := unwrapOk })

/-- R340: ACKNOWLEDGED_SEQUENCE_WRITE. -/
def execAcknowledgedSequenceWrite (p : Part) (a : Access) (val : List Byte) (s : State) : Answer :=
  .next (s.writeNamed p a 0xA80003 val)

/-- R263: SMB_DIRECTORY_READ. -/
def execSmbDirectoryRead (p : Part) (key : Nat) (s : State) : Answer := .next (s.smbRead p key)

/-- R263: SMB_DIRECTORY_WRITE. -/
def execSmbDirectoryWrite (p : Part) (key : Nat) (val : List Byte) (pec : Nat) (s : State) : Answer :=
  .next ((s.smbWrite p key val pec).partOn p)

/-- R336: SMB_BLOB_SEGMENT_WRITE. -/
def execSmbBlobSegmentWrite (p : Part) (key : Nat) (off : Nat) (data : List Byte) (pec : Nat) (s : State) : Answer :=
  .next ((s.smbSegWrite p key off data pec).partOn p)

/-- R337: SMB_BLOB_SEGMENT_READ. -/
def execSmbBlobSegmentRead (p : Part) (key : Nat) (off : Nat) (count : Nat) (s : State) : Answer :=
  .next (s.smbSegRead p key off count)

/-- R263: SMB_STATUS_READ. -/
def execSmbStatusRead (p : Part) (s : State) : Answer := .next (s.smbStatusRead p)

end Sys2Proof.Machine
end

