-- ==== Sys2Proof/Machine/RunPower.lean ====
section
/-! DEFINITION. Meanings of the commands of power, temperature and clocks (R342 to R371). -/

namespace Sys2Proof.Machine

/-- R343: IN_EN_ASSERT. -/
def execInEnAssert (s : State) : Answer := .next s.inEnOn

/-- R343: IN_EN_DEASSERT. -/
def execInEnDeassert (s : State) : Answer := .next s.inEnOff

/-- R342: SOFT_START_PERMITTED. -/
def execSoftStartPermitted (mV : Nat) (s : State) : Answer := .next (s.softPermitted mV)

/-- R343: SOFT_START_COMPLETE. -/
def execSoftStartComplete (reached : Bool) (s : State) : Answer := .next (s.softDone reached)

/-- R342: INPUT_VOLTAGE_TRIP. -/
def execInputVoltageTrip (mV : Nat) (s : State) : Answer := .next (s.voltageTrip mV)

/-- R344: BREAKER_TRIP. -/
def execBreakerTrip (mA : Nat) (s : State) : Answer := .next (s.breakerTrip mA)

/-- R344: BREAKER_RETRY. -/
def execBreakerRetry (s : State) : Answer := .next s.breakerRetry

/-- R347: REQUEST_REST. -/
def execRequestRest (a : Access) (s : State) : Answer := .next (s.writeNamed .mod a 0x200002 [2#8])

/-- R348: REQUEST_RUN. -/
def execRequestRun (a : Access) (s : State) : Answer := .next (s.writeNamed .mod a 0x200002 [0#8])

/-- R347: REQUEST_FALLOW. -/
def execRequestFallow (a : Access) (s : State) : Answer := .next (s.writeNamed .mod a 0x200002 [3#8])

/-- R349: ENTRY_TESTS_COMPLETE. -/
def execEntryTestsComplete (results : List TestResult) (s : State) : Answer := .next (s.enterRun results)

/-- R353: WAKE. -/
def execWake (address : Nat) (s : State) : Answer := .next (s.wake address)

/-- R351: FALLOW_BROWN_OUT. -/
def execFallowBrownOut (mA : Nat) (s : State) : Answer := .next (s.brownOut mA)

/-- R356: CAP_STEP. -/
def execCapStep (a : Access) (val : List Byte) (s : State) : Answer := .next (s.writeNamed .mod a 0x201001 val)

/-- R356: CAP_STEP_EFFECTIVE. -/
def execCapStepEffective (s : State) : Answer := .next s.capEffective

/-- R360: CAP_REFRESH. -/
def execCapRefresh (a : Access) (val : List Byte) (s : State) : Answer := .next (s.writeNamed .mod a 0x201003 val)

/-- R355, R357, R359: POWER_CONTROL_TICK. -/
def execPowerControlTick (watts : Nat) (mV : Nat) (mA : Nat) (s : State) : Answer := .next (s.powerTick watts mV mA)

/-- R357, R358: LADDER_LEVEL_EFFECTIVE. -/
def execLadderLevelEffective (s : State) : Answer := .next s.levelEffective

/-- R360: LEASE_EXPIRY. -/
def execLeaseExpiry (s : State) : Answer := .next s.leaseExpiry

/-- R360: HOLD_TIME_EXPIRY. -/
def execHoldTimeExpiry (s : State) : Answer := .next s.holdExpiry

/-- R361: THERMAL_READING. -/
def execThermalReading (inlet : Int) (scd : Int) (hbm : List Int) (s : State) : Answer := .next (s.thermalReading inlet scd hbm)

/-- R362: THERMAL_TRIP. -/
def execThermalTrip (inlet : Int) (scd : Int) (hbm : Int) (s : State) : Answer := .next (s.thermalTrip inlet scd hbm)

/-- R365: CRYSTAL_STABLE. -/
def execCrystalStable (p : Part) (s : State) : Answer := .next (s.crystalStable p)

/-- R365: CRYSTAL_TIMEOUT. -/
def execCrystalTimeout (p : Part) (s : State) : Answer := .next (s.crystalTimeout p)

/-- R364: OSCILLATOR_RETRIM. -/
def execOscillatorRetrim (p : Part) (kHz : Nat) (s : State) : Answer := .next (s.retrim p kHz)

/-- R370: CLOCK_MONITOR_WINDOW. -/
def execClockMonitorWindow (p : Part) (domain : Nat) (flags : Nat) (kHz : Nat) (s : State) : Answer :=
  .next ((s.monitorWindow p domain flags kHz).partOn p)

/-- R371: PLL_COAST. -/
def execPllCoast (p : Part) (domain : Nat) (s : State) : Answer := .next (s.pllCoast p domain)

/-- R371: PLL_RELOCK. -/
def execPllRelock (p : Part) (domain : Nat) (primary : Bool) (s : State) : Answer := .next (s.pllRelock p domain primary)

/-- R368: MUX_SWITCH_COMPLETE. -/
def execMuxSwitchComplete (p : Part) (domain : Nat) (s : State) : Answer := .next (s.muxComplete p domain)

/-- R369: MUX_WATCHDOG. -/
def execMuxWatchdog (p : Part) (domain : Nat) (edges : Bool) (s : State) : Answer := .next ((s.muxWatchdog p domain edges).partOn p)

end Sys2Proof.Machine
end

