-- ==== Sys2Proof/Machine/RunMeter.lean ====
section
/-! DEFINITION. Meanings of the commands of sealed metrology and of the counters (R374 to R398). -/

namespace Sys2Proof.Machine

/-- R384: TIME. -/
def execTime (h : MeterHdr) (s : State) : Answer := .next (s.toMeter h 1 9 fun s => s.meterTimeIn)

/-- R378: USAGE. -/
def execUsage (h : MeterHdr) (s : State) : Answer := .next (s.meterUsageIn h)

/-- R379: COMMONS_CHARGE. -/
def execCommonsCharge (h : MeterHdr) (s : State) : Answer := .next (s.meterChargeIn h)

/-- R384: ACKNOWLEDGE. -/
def execAcknowledge (h : MeterHdr) (index : Nat) (s : State) : Answer := .next (s.toMeter h 4 8 fun s => s.meterAck index)

/-- R386: MIRROR_WRITE. -/
def execMirrorWrite (h : MeterHdr) (key : Nat) (val : List Byte) (s : State) : Answer :=
  .next (if meterBad h 5 (3 + val.length) then s.mgCount 22 else s.mirrorIn key val)

/-- R385: EVENT. -/
def execEvent (h : MeterHdr) (code : Nat) (detail : Nat) (s : State) : Answer :=
  .next (if meterBad h 6 14 then s.mgCount 22 else s.meterEventIn code detail)

/-- R384: LOG_READ. -/
def execLogRead (h : MeterHdr) (first : Nat) (count : Nat) (s : State) : Answer := .next (s.toMeter h 7 10 fun s => s.logRead first count)

/-- R386: ACKNOWLEDGED_RECORD_WRITE. -/
def execAcknowledgedRecordWrite (a : Access) (val : List Byte) (s : State) : Answer := .next (s.writeNamed .mod a 0xB10002 val)

/-- R380, R381: INTERVAL_CLOSE. -/
def execIntervalClose (energy : Nat) (s : State) : Answer := .next (s.intervalClose energy)

/-- R382: SEAL_EVENT. -/
def execSealEvent (cause : Nat) (detail : Nat) (s : State) : Answer := .next (s.sealEvent cause detail)

/-- R385: METER_STOPPED. -/
def execMeterStopped (faulted : Bool) (s : State) : Answer := .next (s.meterStopped faulted)

/-- R389: COUNTER_SNAPSHOT. -/
def execCounterSnapshot (p : Part) (s : State) : Answer := .next (s.snapshot p)

/-- R388, R398: CHAIN_MASK_EFFECTIVE. -/
def execChainMaskEffective (p : Part) (group : Nat) (inst : Nat) (s : State) : Answer := .next (s.chainEffective p group inst)

/-- R398: GROUP_INDEX_WRITE. -/
def execGroupIndexWrite (p : Part) (a : Access) (val : List Byte) (s : State) : Answer := .next (s.writeNamed p a 0x900001 val)

end Sys2Proof.Machine
end

