-- ==== Sys2Proof/Machine/Dispatch.lean ====
section
/-! DEFINITION. The meaning of each command: one arm for each constructor, each one direct call of its meaning. -/

namespace Sys2Proof.Machine

/-- What a command does to everything but the queue. -/
def exec (i : Instr) (s : State) : Host.Outcome State Fault Refusal :=
  match i with
  | .directoryWrite p a key val => Sys2Proof.Machine.execDirectoryWrite p a key val s
  | .managementCorePairStop pair => Sys2Proof.Machine.execManagementCorePairStop pair s
  | .tableWalkComplete walk => Sys2Proof.Machine.execTableWalkComplete walk s
  | .slotJobIdWrite a slot val => Sys2Proof.Machine.execSlotJobIdWrite a slot val s
  | .invalidateGeneration a slot val => Sys2Proof.Machine.execInvalidateGeneration a slot val s
  | .invalidationComplete slot => Sys2Proof.Machine.execInvalidationComplete slot s
  | .resumeRetry a val => Sys2Proof.Machine.execResumeRetry a val s
  | .resumeFail a val => Sys2Proof.Machine.execResumeFail a val s
  | .faultTimeout rec => Sys2Proof.Machine.execFaultTimeout rec s
  | .faultWalkComplete rec => Sys2Proof.Machine.execFaultWalkComplete rec s
  | .admissionEntryWrite a val => Sys2Proof.Machine.execAdmissionEntryWrite a val s
  | .commonsAdmissionEntryWrite a val => Sys2Proof.Machine.execCommonsAdmissionEntryWrite a val s
  | .eriLoad link m ecc => Sys2Proof.Machine.execEriLoad link m ecc s
  | .eriStore link m => Sys2Proof.Machine.execEriStore link m s
  | .eriAtomic link m => Sys2Proof.Machine.execEriAtomic link m s
  | .eriFence link m => Sys2Proof.Machine.execEriFence link m s
  | .fenceComplete id => Sys2Proof.Machine.execFenceComplete id s
  | .eriCacheInvalidate link m => Sys2Proof.Machine.execEriCacheInvalidate link m s
  | .eriDirectoryRequest link m => Sys2Proof.Machine.execEriDirectoryRequest link m s
  | .eriCopy link m => Sys2Proof.Machine.execEriCopy link m s
  | .listArm link m => Sys2Proof.Machine.execListArm link m s
  | .listCancel link m => Sys2Proof.Machine.execListCancel link m s
  | .collectiveStart link m => Sys2Proof.Machine.execCollectiveStart link m s
  | .memoryData link m => Sys2Proof.Machine.execMemoryData link m s
  | .memoryAck link m => Sys2Proof.Machine.execMemoryAck link m s
  | .memoryTimeout mtag => Sys2Proof.Machine.execMemoryTimeout mtag s
  | .initLink link m => Sys2Proof.Machine.execInitLink link m s
  | .credit link m => Sys2Proof.Machine.execCredit link m s
  | .requestIssue p id ecc => Sys2Proof.Machine.execRequestIssue p id ecc s
  | .responseReceive p pkt tagOk => Sys2Proof.Machine.execResponseReceive p pkt tagOk s
  | .fabricRequestReceive p pkt port tagOk err => Sys2Proof.Machine.execFabricRequestReceive p pkt port tagOk err s
  | .flaggedStoreResolve p src seq => Sys2Proof.Machine.execFlaggedStoreResolve p src seq s
  | .flagHoldTimeout p src seq => Sys2Proof.Machine.execFlagHoldTimeout p src seq s
  | .fetchAdd id err => Sys2Proof.Machine.execFetchAdd id err s
  | .fetchMin id err => Sys2Proof.Machine.execFetchMin id err s
  | .fetchMax id err => Sys2Proof.Machine.execFetchMax id err s
  | .compareSwap id err => Sys2Proof.Machine.execCompareSwap id err s
  | .swap id err => Sys2Proof.Machine.execSwap id err s
  | .allocate id err => Sys2Proof.Machine.execAllocate id err s
  | .free id err => Sys2Proof.Machine.execFree id err s
  | .referenceAdd id err => Sys2Proof.Machine.execReferenceAdd id err s
  | .referenceRelease id err => Sys2Proof.Machine.execReferenceRelease id err s
  | .retryResend p id => Sys2Proof.Machine.execRetryResend p id s
  | .gapTimerExpiry p src => Sys2Proof.Machine.execGapTimerExpiry p src s
  | .gapNotice p pkt tagOk => Sys2Proof.Machine.execGapNotice p pkt tagOk s
  | .resyncNotice p pkt tagOk => Sys2Proof.Machine.execResyncNotice p pkt tagOk s
  | .retransmitTimeout p id => Sys2Proof.Machine.execRetransmitTimeout p id s
  | .requestLifetimeExpiry p id => Sys2Proof.Machine.execRequestLifetimeExpiry p id s
  | .slotRevoke a slot val => Sys2Proof.Machine.execSlotRevoke a slot val s
  | .slotDrained slot => Sys2Proof.Machine.execSlotDrained slot s
  | .ucieLinkLost link => Sys2Proof.Machine.execUcieLinkLost link s
  | .copyTileIssue engine => Sys2Proof.Machine.execCopyTileIssue engine s
  | .workStealing engine => Sys2Proof.Machine.execWorkStealing engine s
  | .copyTileComplete tile => Sys2Proof.Machine.execCopyTileComplete tile s
  | .listReadComplete slot => Sys2Proof.Machine.execListReadComplete slot s
  | .listActivation slot => Sys2Proof.Machine.execListActivation slot s
  | .throttleTemperature temp => Sys2Proof.Machine.execThrottleTemperature temp s
  | .endpointThermalTrip temp => Sys2Proof.Machine.execEndpointThermalTrip temp s
  | .supplyOutOfRange supply => Sys2Proof.Machine.execSupplyOutOfRange supply s
  | .endpointResetRelease cycled => Sys2Proof.Machine.execEndpointResetRelease cycled s
  | .bundleLoad a b => Sys2Proof.Machine.execBundleLoad a b s
  | .groupEntryWrite a val => Sys2Proof.Machine.execGroupEntryWrite a val s
  | .memberTableWrite a val => Sys2Proof.Machine.execMemberTableWrite a val s
  | .contextEntryWrite a val => Sys2Proof.Machine.execContextEntryWrite a val s
  | .programBlockWrite a val => Sys2Proof.Machine.execProgramBlockWrite a val s
  | .probe pkt port tagOk => Sys2Proof.Machine.execProbe pkt port tagOk s
  | .contribution pkt port tagOk => Sys2Proof.Machine.execContribution pkt port tagOk s
  | .arrive pkt port tagOk => Sys2Proof.Machine.execArrive pkt port tagOk s
  | .result pkt tagOk => Sys2Proof.Machine.execResult pkt tagOk s
  | .release pkt tagOk => Sys2Proof.Machine.execRelease pkt tagOk s
  | .rackPartial pkt port tagOk => Sys2Proof.Machine.execRackPartial pkt port tagOk s
  | .treeResult pkt port tagOk => Sys2Proof.Machine.execTreeResult pkt port tagOk s
  | .sequenceSlotFinish group slot => Sys2Proof.Machine.execSequenceSlotFinish group slot s
  | .slotTimeout group slot => Sys2Proof.Machine.execSlotTimeout group slot s
  | .treeResend group slot piece => Sys2Proof.Machine.execTreeResend group slot piece s
  | .holdResend id => Sys2Proof.Machine.execHoldResend id s
  | .resultResend id => Sys2Proof.Machine.execResultResend id s
  | .collectiveSendStart coll => Sys2Proof.Machine.execCollectiveSendStart coll s
  | .collectiveTimeout coll => Sys2Proof.Machine.execCollectiveTimeout coll s
  | .residueDelivery port => Sys2Proof.Machine.execResidueDelivery port s
  | .latenessRecordClear a val => Sys2Proof.Machine.execLatenessRecordClear a val s
  | .spillRecordReturn group slot piece ok => Sys2Proof.Machine.execSpillRecordReturn group slot piece ok s
  | .spillReserveWrite a val => Sys2Proof.Machine.execSpillReserveWrite a val s
  | .regionDescriptorWrite a val => Sys2Proof.Machine.execRegionDescriptorWrite a val s
  | .regionInitComplete region => Sys2Proof.Machine.execRegionInitComplete region s
  | .regionScrubComplete region => Sys2Proof.Machine.execRegionScrubComplete region s
  | .handover a val => Sys2Proof.Machine.execHandover a val s
  | .clearStale a val => Sys2Proof.Machine.execClearStale a val s
  | .retentionLimit region => Sys2Proof.Machine.execRetentionLimit region s
  | .stackFailed stack retrain => Sys2Proof.Machine.execStackFailed stack retrain s
  | .scrubWindow corrected failing => Sys2Proof.Machine.execScrubWindow corrected failing s
  | .scrubWindowEnd => Sys2Proof.Machine.execScrubWindowEnd s
  | .checkpointSlot => Sys2Proof.Machine.execCheckpointSlot s
  | .restoreCommand a val => Sys2Proof.Machine.execRestoreCommand a val s
  | .restorePushComplete => Sys2Proof.Machine.execRestorePushComplete s
  | .checkpointRestore pkt tagOk => Sys2Proof.Machine.execCheckpointRestore pkt tagOk s
  | .rdmaWrite qp rkey va data err ce => Sys2Proof.Machine.execRdmaWrite qp rkey va data err ce s
  | .rdmaRead qp rkey va len err ce => Sys2Proof.Machine.execRdmaRead qp rkey va len err ce s
  | .atomicFetchAndAdd qp rkey va addend err ce => Sys2Proof.Machine.execAtomicFetchAndAdd qp rkey va addend err ce s
  | .atomicCompareAndSwap qp rkey va cmp new err ce => Sys2Proof.Machine.execAtomicCompareAndSwap qp rkey va cmp new err ce s
  | .send qp m ce => Sys2Proof.Machine.execSend qp m ce s
  | .frameReceive p port fr => Sys2Proof.Machine.execFrameReceive p port fr s
  | .meshHeaderArrival tile plane lost => Sys2Proof.Machine.execMeshHeaderArrival tile plane lost s
  | .meshInject tile => Sys2Proof.Machine.execMeshInject tile s
  | .spill tile => Sys2Proof.Machine.execSpill tile s
  | .readBack tile ok => Sys2Proof.Machine.execReadBack tile ok s
  | .portTransmit p port => Sys2Proof.Machine.execPortTransmit p port s
  | .commonsMemoryResponse id => Sys2Proof.Machine.execCommonsMemoryResponse id s
  | .sliceEntryWrite a val => Sys2Proof.Machine.execSliceEntryWrite a val s
  | .sliceRevoke a val => Sys2Proof.Machine.execSliceRevoke a val s
  | .tileSweep tile job => Sys2Proof.Machine.execTileSweep tile job s
  | .sliceDrained job => Sys2Proof.Machine.execSliceDrained job s
  | .epochAudit p => Sys2Proof.Machine.execEpochAudit p s
  | .ack p port seq => Sys2Proof.Machine.execAck p port seq s
  | .nak p port seq => Sys2Proof.Machine.execNak p port seq s
  | .replayTimer p port => Sys2Proof.Machine.execReplayTimer p port s
  | .trainingFrame p lane word crc adapted prbsErrors => Sys2Proof.Machine.execTrainingFrame p lane word crc adapted prbsErrors s
  | .detectBurst p lane => Sys2Proof.Machine.execDetectBurst p lane s
  | .countdownEnd p lane => Sys2Proof.Machine.execCountdownEnd p lane s
  | .blockLock p lane headers => Sys2Proof.Machine.execBlockLock p lane headers s
  | .alignmentMarker p port marks => Sys2Proof.Machine.execAlignmentMarker p port marks s
  | .capabilityBlock p port cap => Sys2Proof.Machine.execCapabilityBlock p port cap s
  | .trainingTimeout p port => Sys2Proof.Machine.execTrainingTimeout p port s
  | .retrainBackoffEnd p port => Sys2Proof.Machine.execRetrainBackoffEnd p port s
  | .widthChange p port b => Sys2Proof.Machine.execWidthChange p port b s
  | .widthSwitch p port rx count => Sys2Proof.Machine.execWidthSwitch p port rx count s
  | .laneRestore p lane => Sys2Proof.Machine.execLaneRestore p lane s
  | .laneFailure p lane codewords signal => Sys2Proof.Machine.execLaneFailure p lane codewords signal s
  | .portDown p port cause => Sys2Proof.Machine.execPortDown p port cause s
  | .portRoleWrite a val => Sys2Proof.Machine.execPortRoleWrite a val s
  | .eyeScanStart p a val => Sys2Proof.Machine.execEyeScanStart p a val s
  | .eyeScanComplete p lane grid => Sys2Proof.Machine.execEyeScanComplete p lane grid s
  | .tick p lane epoch => Sys2Proof.Machine.execTick p lane epoch s
  | .timeSet p lane value ok => Sys2Proof.Machine.execTimeSet p lane value ok s
  | .laneSilent p lane => Sys2Proof.Machine.execLaneSilent p lane s
  | .holdoverLimit p => Sys2Proof.Machine.execHoldoverLimit p s
  | .rackTimeStep p energy => Sys2Proof.Machine.execRackTimeStep p energy s
  | .timingLaneMessage p lane chars => Sys2Proof.Machine.execTimingLaneMessage p lane chars s
  | .abort p lane => Sys2Proof.Machine.execAbort p lane s
  | .smbDirectoryRead p key => Sys2Proof.Machine.execSmbDirectoryRead p key s
  | .smbDirectoryWrite p key val pec => Sys2Proof.Machine.execSmbDirectoryWrite p key val pec s
  | .smbBlobSegmentWrite p key off data pec => Sys2Proof.Machine.execSmbBlobSegmentWrite p key off data pec s
  | .smbBlobSegmentRead p key off count => Sys2Proof.Machine.execSmbBlobSegmentRead p key off count s
  | .smbStatusRead p => Sys2Proof.Machine.execSmbStatusRead p s
  | .alignmentRequest a val => Sys2Proof.Machine.execAlignmentRequest a val s
  | .alignmentStart => Sys2Proof.Machine.execAlignmentStart s
  | .alignPulse unlocked => Sys2Proof.Machine.execAlignPulse unlocked s
  | .alignmentCheck bad => Sys2Proof.Machine.execAlignmentCheck bad s
  | .alignmentLost cause => Sys2Proof.Machine.execAlignmentLost cause s
  | .mownEntryWrite p a val => Sys2Proof.Machine.execMownEntryWrite p a val s
  | .mownCompileComplete entry => Sys2Proof.Machine.execMownCompileComplete entry s
  | .modeSwitch p => Sys2Proof.Machine.execModeSwitch p s
  | .mownStart entry => Sys2Proof.Machine.execMownStart entry s
  | .mownPieceSend coll piece => Sys2Proof.Machine.execMownPieceSend coll piece s
  | .mownPieceSlot entry piece => Sys2Proof.Machine.execMownPieceSlot entry piece s
  | .mownFallback entry cause => Sys2Proof.Machine.execMownFallback entry cause s
  | .heartbeat p => Sys2Proof.Machine.execHeartbeat p s
  | .suspicion node => Sys2Proof.Machine.execSuspicion node s
  | .voteRepeat node => Sys2Proof.Machine.execVoteRepeat node s
  | .verdictMessage p v inBand => Sys2Proof.Machine.execVerdictMessage p v inBand s
  | .verdictIssue kind node plane ready => Sys2Proof.Machine.execVerdictIssue kind node plane ready s
  | .verdictApply p number => Sys2Proof.Machine.execVerdictApply p number s
  | .portFailed node => Sys2Proof.Machine.execPortFailed node s
  | .portRestored node => Sys2Proof.Machine.execPortRestored node s
  | .quorumLossFence => Sys2Proof.Machine.execQuorumLossFence s
  | .tileFault tile => Sys2Proof.Machine.execTileFault tile s
  | .verdictEngineWatchdog => Sys2Proof.Machine.execVerdictEngineWatchdog s
  | .canary engine exact ordered => Sys2Proof.Machine.execCanary engine exact ordered s
  | .corruptionReport a val failing => Sys2Proof.Machine.execCorruptionReport a val failing s
  | .suspectEvaluation => Sys2Proof.Machine.execSuspectEvaluation s
  | .clearSuspect a val => Sys2Proof.Machine.execClearSuspect a val s
  | .windowEntryWrite p a val => Sys2Proof.Machine.execWindowEntryWrite p a val s
  | .windowStart p window => Sys2Proof.Machine.execWindowStart p window s
  | .windowEnd p window passed => Sys2Proof.Machine.execWindowEnd p window passed s
  | .rebindRequest a val => Sys2Proof.Machine.execRebindRequest a val s
  | .planeRestoreRequest a val => Sys2Proof.Machine.execPlaneRestoreRequest a val s
  | .moduleResetRelease unwrapOk img => Sys2Proof.Machine.execModuleResetRelease unwrapOk img s
  | .bundleCommit a val b => Sys2Proof.Machine.execBundleCommit a val b s
  | .attestationNonce p a val => Sys2Proof.Machine.execAttestationNonce p a val s
  | .attestationReportReady p => Sys2Proof.Machine.execAttestationReportReady p s
  | .keyInstallation p a val unwrapOk => Sys2Proof.Machine.execKeyInstallation p a val unwrapOk s
  | .keyActivation p job => Sys2Proof.Machine.execKeyActivation p job s
  | .keyPeriod p => Sys2Proof.Machine.execKeyPeriod p s
  | .jobRetire p a val => Sys2Proof.Machine.execJobRetire p a val s
  | .retireTime p job => Sys2Proof.Machine.execRetireTime p job s
  | .removalScrub p job => Sys2Proof.Machine.execRemovalScrub p job s
  | .removalSettle p job => Sys2Proof.Machine.execRemovalSettle p job s
  | .openMsg m => Sys2Proof.Machine.execOpenMsg m s
  | .close m => Sys2Proof.Machine.execClose m s
  | .read m => Sys2Proof.Machine.execRead m s
  | .write m => Sys2Proof.Machine.execWrite m s
  | .segmentRead m => Sys2Proof.Machine.execSegmentRead m s
  | .segmentWrite m => Sys2Proof.Machine.execSegmentWrite m s
  | .commitStaged m => Sys2Proof.Machine.execCommitStaged m s
  | .sessionIdleTimeout session => Sys2Proof.Machine.execSessionIdleTimeout session s
  | .blobAssemblyExpiry p ctx key => Sys2Proof.Machine.execBlobAssemblyExpiry p ctx key s
  | .credentialInstallation a val unwrapOk => Sys2Proof.Machine.execCredentialInstallation a val unwrapOk s
  | .acknowledgedSequenceWrite p a val => Sys2Proof.Machine.execAcknowledgedSequenceWrite p a val s
  | .inEnAssert => Sys2Proof.Machine.execInEnAssert s
  | .inEnDeassert => Sys2Proof.Machine.execInEnDeassert s
  | .softStartComplete reached => Sys2Proof.Machine.execSoftStartComplete reached s
  | .inputVoltageTrip mV => Sys2Proof.Machine.execInputVoltageTrip mV s
  | .breakerTrip mA => Sys2Proof.Machine.execBreakerTrip mA s
  | .breakerRetry => Sys2Proof.Machine.execBreakerRetry s
  | .requestRest a => Sys2Proof.Machine.execRequestRest a s
  | .requestRun a => Sys2Proof.Machine.execRequestRun a s
  | .requestFallow a => Sys2Proof.Machine.execRequestFallow a s
  | .entryTestsComplete results => Sys2Proof.Machine.execEntryTestsComplete results s
  | .wake address => Sys2Proof.Machine.execWake address s
  | .fallowBrownOut mA => Sys2Proof.Machine.execFallowBrownOut mA s
  | .capStep a val => Sys2Proof.Machine.execCapStep a val s
  | .capStepEffective => Sys2Proof.Machine.execCapStepEffective s
  | .capRefresh a val => Sys2Proof.Machine.execCapRefresh a val s
  | .powerControlTick watts mV mA => Sys2Proof.Machine.execPowerControlTick watts mV mA s
  | .ladderLevelEffective => Sys2Proof.Machine.execLadderLevelEffective s
  | .leaseExpiry => Sys2Proof.Machine.execLeaseExpiry s
  | .holdTimeExpiry => Sys2Proof.Machine.execHoldTimeExpiry s
  | .thermalReading inlet scd hbm => Sys2Proof.Machine.execThermalReading inlet scd hbm s
  | .thermalTrip inlet scd hbm => Sys2Proof.Machine.execThermalTrip inlet scd hbm s
  | .crystalStable p => Sys2Proof.Machine.execCrystalStable p s
  | .crystalTimeout p => Sys2Proof.Machine.execCrystalTimeout p s
  | .oscillatorRetrim p kHz => Sys2Proof.Machine.execOscillatorRetrim p kHz s
  | .clockMonitorWindow p domain flags kHz => Sys2Proof.Machine.execClockMonitorWindow p domain flags kHz s
  | .pllCoast p domain => Sys2Proof.Machine.execPllCoast p domain s
  | .pllRelock p domain primary => Sys2Proof.Machine.execPllRelock p domain primary s
  | .muxSwitchComplete p domain => Sys2Proof.Machine.execMuxSwitchComplete p domain s
  | .muxWatchdog p domain edges => Sys2Proof.Machine.execMuxWatchdog p domain edges s
  | .time h => Sys2Proof.Machine.execTime h s
  | .usage h => Sys2Proof.Machine.execUsage h s
  | .commonsCharge h => Sys2Proof.Machine.execCommonsCharge h s
  | .acknowledge h index => Sys2Proof.Machine.execAcknowledge h index s
  | .mirrorWrite h key val => Sys2Proof.Machine.execMirrorWrite h key val s
  | .event h code detail => Sys2Proof.Machine.execEvent h code detail s
  | .logRead h first count => Sys2Proof.Machine.execLogRead h first count s
  | .acknowledgedRecordWrite a val => Sys2Proof.Machine.execAcknowledgedRecordWrite a val s
  | .intervalClose energy => Sys2Proof.Machine.execIntervalClose energy s
  | .sealEvent cause detail => Sys2Proof.Machine.execSealEvent cause detail s
  | .meterStopped faulted => Sys2Proof.Machine.execMeterStopped faulted s
  | .counterSnapshot p => Sys2Proof.Machine.execCounterSnapshot p s
  | .chainMaskEffective p group inst => Sys2Proof.Machine.execChainMaskEffective p group inst s
  | .groupIndexWrite p a val => Sys2Proof.Machine.execGroupIndexWrite p a val s
  | .ucieLinkUp link => Sys2Proof.Machine.execUcieLinkUp link s
  | .rootOfTrustCoreFault => Sys2Proof.Machine.execRootOfTrustCoreFault s
  | .dieCrossingDomainFault domain => Sys2Proof.Machine.execDieCrossingDomainFault domain s
  | .hostLinkStateChange port state => Sys2Proof.Machine.execHostLinkStateChange port state s
  | .arpNeighbourDiscoveryIcmpEcho port kind own => Sys2Proof.Machine.execArpNeighbourDiscoveryIcmpEcho port kind own s
  | .softStartPermitted mV => Sys2Proof.Machine.execSoftStartPermitted mV s

end Sys2Proof.Machine
end

