-- ==== Sys2Proof/Safety.lean ====
section
/-! DEFINITION. What holds of every run, in the terms the statements use: the canonical form of the Commons memory, and the
order in which a run only goes on (what no command takes back). -/

namespace Sys2Proof.Machine

/-- The canonical form of the Commons memory: addresses strictly rising, and no byte listed that an unlisted address reads as. -/
def memoryWf (t : Tab Byte) : Bool := tabSorted t && t.all fun e => e.2 != 0#8

/-- The full scale of the meter's update count (R383). -/
def updateFull : Nat := 2 ^ 32 - 1

/-- What no command takes back: the queue and the clock stay, draws and outputs only grow, the Commons memory keeps its form,
and the meter's update count and next record index are never lowered (R378, R382). -/
structure Onward (s t : State) : Prop where
  pending : t.pending = s.pending
  clock : t.clock = s.clock
  draws : s.draws ≤ t.draws
  out : s.out <+: t.out
  mem : memoryWf s.mod.mem = true → memoryWf t.mod.mem = true
  update : min s.mod.meter.update updateFull ≤ t.mod.meter.update
  next : s.mod.meter.next ≤ t.mod.meter.next

/-- `Onward` of an answer that may be none. -/
def OnwardOpt (s : State) (o : Option State) : Prop := ∀ t, o = some t → Onward s t

/-- `Onward` of a status and a state that may be none. -/
def OnwardPair (s : State) (o : Option (Nat × State)) : Prop := ∀ r, o = some r → Onward s r.2

/-- `Onward` of a command's answer: it goes on only in a next state. -/
def OnwardAns (s : State) (o : Answer) : Prop := ∀ t, o = .next t → Onward s t

/-- A request of the accelerator that brings its credits (R102): its link is in service after both Inits, and there is a place
for it, so that its credits go back at once (R104). -/
def State.eriBrings (s : State) (l : Nat) (m : Eri) : Prop :=
  s.linkUp l = true ∧ s.initDone l = true ∧ (∀ k, tabGet s.ep.links l = some k → m.units ≤ k.reqCr) ∧
  s.ep.tags.length < agentPlaces

/-- One whose form and pair are right (R6, R101, R103) and that the endpoint takes at once: nothing holds its agent
(R55, R63, R104). -/
def State.eriTakes (s : State) (l : Nat) (m : Eri) : Prop :=
  s.eriBrings l m ∧ eriFormBad m.kind m = false ∧ s.pairOut m = false ∧ s.mayAccept l m s.ep.eriWait = true

/-- One that also passes the checks that come before the meaning of its kind (R9, R116, R290). -/
def State.eriPasses (s : State) (l : Nat) (m : Eri) : Prop :=
  s.eriTakes l m ∧ s.ep.sh.rot.boot = 1 ∧ s.ep.selfDead = false ∧ badJob m = false

/-- The Credit message that returns a message's units of a class (R102). -/
def creditFor (cls units : Nat) : Eri := { Eri.zero with kind := 0x3F, aux := creditAux cls units }

/-- The same links, whatever the order in which they were written. -/
def sameTab {α : Type} (t u : Tab α) : Prop := ∀ k, tabGet t k = tabGet u k

/-- R44, R89: a request that passes checks 1 to 5 and whose sequence is new in the window of its source's record `r`. -/
structure FreshRequest (s : State) (p : Part) (k : Packet) (tagOk : Bool) (r : SrcRec) : Prop where
  form : formOk k (p == Part.ep) = true
  typ : 1 ≤ k.typ ∧ k.typ ≤ 5
  job : k.job ≠ 0 ∧ k.job ≠ 0xFFFF
  node : k.dst = s.node p
  tag : s.sealCheck p k tagOk = 0
  known : (s.sh p).recv.rec_ k.from_ = some r
  noStart : k.s = false
  unsettled : r.settledOf k.seq = none
  idle : (s.sh p).recv.busyWith k.from_ k.seq = false
  near : serialDiff k.seq r.base < 4096

/-- R44, R89, R162: the same of a collective packet. -/
structure FreshCollective (s : State) (p : Part) (k : Packet) (tagOk : Bool) (r : SrcRec) : Prop where
  form : formOk k (p == Part.ep) = true
  typ : isColl k.typ = true
  job : k.job ≠ 0 ∧ k.job ≠ 0xFFFF
  node : k.dst = s.node p
  tag : s.sealCheck p k tagOk = 0
  known : (s.sh p).recv.rec_ k.from_ = some r
  noStart : k.s = false
  unsettled : r.settledOf k.seq = none
  idle : (s.sh p).recv.busyWith k.from_ k.seq = false
  near : serialDiff k.seq r.base < 4096

/-- R168 checks 1 to 3: a collective packet of a job that the module serves, for a group and a context `g` that are in force, whose
sequence no Mown entry names; a slot at its place is that of the sequence. -/
structure CollectiveOf (s : State) (k : Packet) (g : Group) : Prop where
  serves : s.jobState .mod k.job = 0
  group : s.group k.group = g
  valid : g.v = true ∧ g.job = k.job
  mown : ∀ c, s.mownNamed k.group k.job c k.cseq = none
  context : (g.ctx k.cctx).v = true
  same : ∀ x, tabGet g.slots (k.cseq % 4) = some x → x.cseq = k.cseq

/-- A receiver has taken a packet that its port passed up, and its source's record notes the arrival (R89, R92). -/
def State.noted (s : State) (p : Part) (k : Packet) (port : Nat) : State :=
  (s.arrives p k).modRec p k.from_ fun r => { r with lastArrival := s.ns, lastPort := if p = Part.ep then k.plane else port }

/-- What follows the receipt of a request: the endpoint goes on by itself. -/
def State.afterRequest (s : State) (p : Part) : State :=
  match p with
  | .ep => s.epOn
  | .mod => s

/-- Every line that an access touches is good: on a stack in service, its tag right (R185, R187). -/
def State.linesGood (s : State) (a n : Nat) : Prop :=
  (∀ l ∈ linesOf a n, s.mod.failedStacks.contains (s.stackOf (l * 128)) = false) ∧ s.badIn (linesOf a n) = []

end Sys2Proof.Machine
end

