-- ==== Sys2Proof/Certificates/Slice0/Obligations.lean ====
section
/-! DEFINITION. The statements for the provers: one definition for each. -/

set_option linter.all false

section

open Sys2Proof Sys2Proof.Machine

/-- The step: the command at the front of the queue is taken from it and runs on the state with the queue's rest; with no command
waiting, one cycle of 6.4 ns of the rack reference passes, nothing is sent and the Commons memory stays (log entry 2). -/
def Obligations.StepRunsFrontCommand : Prop :=
  (∀ (c : Instr) (s : State), step { s with pending := c :: s.pending } = exec c s) ∧
  (∀ s : State, s.pending = [] → ∃ t : State, step s = .next t ∧ t.clock = s.clock + 32 ∧ t.pending = [] ∧ t.out = s.out ∧
    t.draws = s.draws ∧ t.mod.mem = s.mod.mem ∧ t.mod.sh.regs = s.mod.sh.regs ∧ t.ep.sh.regs = s.ep.sh.regs)

/-- Every command answers a next state in which the queue, the clock and what was sent stay, draws only grow, the Commons memory
keeps its form and the meter's counts are never lowered (R378, R382); only an access that leads outside the Commons stops
the machine (R179), and no command is refused. -/
def Obligations.EveryCommandGoesOn : Prop :=
  ∀ (c : Instr) (s : State), (∃ t : State, exec c s = .next t ∧ Onward s t) ∨
    (∃ a : Nat, exec c s = .fault (.outsideCommons a) ∧
      ((∃ k port tagOk err, c = .fabricRequestReceive .mod k port tagOk err) ∨ (∃ src seq, c = .flaggedStoreResolve .mod src seq) ∨
        (∃ qp rkey va data err ce, c = .rdmaWrite qp rkey va data err ce) ∨ (∃ qp rkey va len err ce, c = .rdmaRead qp rkey va len err ce) ∨
        (∃ qp rkey va v err ce, c = .atomicFetchAndAdd qp rkey va v err ce) ∨
        (∃ qp rkey va x y err ce, c = .atomicCompareAndSwap qp rkey va x y err ce)))

/-- From any state whose Commons memory has its canonical form (addresses strictly rising, no byte listed that reads as an
unlisted one), every step that answers a next state leaves it in that form. -/
def Obligations.StepKeepsMemoryCanonical : Prop :=
  ∀ s t : State, memoryWf s.mod.mem = true → step s = .next t → memoryWf t.mod.mem = true

/-- Reset: the Commons memory has its canonical form, nothing waits and nothing was sent; every entry reads its default (R7, R325),
every counter is 0, every job slot and every region is Free (R48, R182), no collective group and no slice is in force, and lane A
is the source lane (R265). -/
def Obligations.ResetIsCanonical : Prop :=
  memoryWf State.reset.mod.mem = true ∧ State.reset.pending = [] ∧ State.reset.out = [] ∧
  (∀ p key, State.reset.reg p key = regDefault key) ∧ (∀ p g i c, State.reset.counter p g i c = 0) ∧
  (∀ n, (State.reset.slot n).state = 0 ∧ (State.reset.slot n).job = 0xFFFF) ∧
  (∀ i, (State.reset.region i).state = 0 ∧ (State.reset.region i).v = false) ∧
  (∀ g, (State.reset.group g).v = false) ∧ (∀ j, State.reset.hasSlice j = false) ∧ (∀ p, (State.reset.sh p).rt.source = 0)

/-- Decode and encode agree (R73, R101, R162): the packet that the header word of a packet spells is that packet, for every packet
whose fields have their widths, collective or not; and the same of an ERI message. -/
def Obligations.HeadersRoundTrip : Prop :=
  (∀ p : Packet, p.fits = true → packetOf p.header p.payload = p ∧ p.header < 2 ^ 256) ∧
  (∀ m : Eri, m.fits = true → eriOf m.header m.body = m ∧ m.header < 2 ^ 256)

/-- An entry reads as it was written (R43, R151, R154, R180, R275, R297): for every value of an admission entry, group entry,
context, region descriptor, Mown entry or window entry whose Reserved field is zero, the word of the entry that it spells is that
value. -/
def Obligations.EntriesReadAsWritten : Prop :=
  (∀ w < 2 ^ 128, (admOf w).2 = 0 → (admOf w).1.word = w) ∧
  (∀ w < 2 ^ 128, (groupOf w).2 = 0 → (groupOf w).1.word = w) ∧
  (∀ w < 2 ^ 128, (contextOf w).2 = 0 → (contextOf w).1.bits_ = w) ∧
  (∀ w < 2 ^ 128, (regionOf w).2 = 0 → (regionOf w).1.word = w) ∧
  (∀ w < 2 ^ 128, (windowOf w).2 = 0 → (windowOf w).1.word = w) ∧
  (∀ w < 2 ^ 256, bits w 75 0 = 0 → (mownOf w).word = w)

/-- SLOT_JOB_ID_WRITE (R48) binds a Free slot with a written table root to a Job ID that no other slot holds; SLOT_REVOKE and
SLOT_DRAINED (R96), INVALIDATE_GENERATION and INVALIDATION_COMPLETE (R36) take a slot through its other states. Completion, on
the conditions of the clauses alone, is stated of the constructors slotJobIdWrite, invalidateGeneration, invalidationComplete,
slotRevoke, slotDrained. -/
def Obligations.SlotCommandsMoveSlotStates : Prop :=
  (∀ (s : State) (a : Access) (n : Nat) (val : List Byte), n < 64 → dirCheck .ep a (slotEntry n 1) true s = 0 → val.length = 2 →
    beNat val ≠ 0 → beNat val ≠ 0xFFFF → (s.slot n).state = 0 → (s.slot n).root ≠ 0 → (s.slot n).root % 4096 = 0 →
    (s.slot n).root + 4096 ≤ s.reg .ep 0xD30002 →
    (s.ep.slots.any fun e => e.1 != n && e.2.job == beNat val && e.2.state != 0) = false →
    ∃ t, exec (.slotJobIdWrite a n val) s = .next t ∧ (t.slot n).job = beNat val ∧ (t.slot n).state = 1 ∧
      (t.slot n).root = (s.slot n).root ∧ (∀ m, m ≠ n → t.slot m = s.slot m) ∧ (∀ e ∈ t.ep.atu, e.slot ≠ n) ∧
      (∀ e, e.slot ≠ n → (e ∈ t.ep.atu ↔ e ∈ s.ep.atu)) ∧ t.mod = s.mod ∧ t.out = s.out ++ [.dir .ep a.ctx stOk []]) ∧
  (∀ (s : State) (a : Access) (n : Nat) (val : List Byte), n < 64 → dirCheck .ep a (slotEntry n 3) true s = 0 → val.length = 4 →
    (s.slot n).state = 1 → beNat val = ((s.slot n).gen + 1) % 2 ^ 32 →
    ∃ u : State, exec (.invalidateGeneration a n val) s =
        .next (dirAnswer .ep a.ctx (stOk, u.retranslate n (s.slot n).job)).epOn ∧
      (u.slot n).state = 2 ∧ (u.slot n).gen = (s.slot n).gen ∧ (u.slot n).waits = s.translatedOf n (s.slot n).job ∧
      (∀ m, m ≠ n → u.slot m = s.slot m) ∧ (∀ e ∈ u.ep.atu, e.slot ≠ n) ∧ (∀ e ∈ u.ep.walkCache, e.slot ≠ n) ∧ u.mod = s.mod) ∧
  (∀ (s : State) (n : Nat), (s.slot n).state = 2 → ((s.slot n).waits.any s.stillThere) = false →
    ∃ t, exec (.invalidationComplete n) s = .next t ∧ (t.slot n).state = 1 ∧ (t.slot n).gen = ((s.slot n).gen + 1) % 2 ^ 32 ∧
      (t.slot n).job = (s.slot n).job ∧ (∀ m, m ≠ n → t.slot m = s.slot m) ∧ t.mod = s.mod ∧ t.out = s.out) ∧
  (∀ (s : State) (a : Access) (n : Nat) (val : List Byte), n < 64 → dirCheck .ep a (slotEntry n 6) true s = 0 → val.length = 1 →
    beNat val = 1 → ((s.slot n).state = 1 ∨ (s.slot n).state = 2) →
    ∃ u : State, (u.slot n).state = 3 ∧ (u.slot n).job = (s.slot n).job ∧ (u.slot n).root = (s.slot n).root ∧
      (u.slot n).gen = (s.slot n).gen ∧ (∀ m, m ≠ n → u.slot m = s.slot m) ∧ u.ep.faults = s.ep.faults ∧ u.ep.sh = s.ep.sh ∧
      u.mod = s.mod ∧ u.out = s.out ∧
      exec (.slotRevoke a n val) s = .next (dirAnswer .ep a.ctx (stOk, ((((u.tearFaults (s.slot n).job).tearWaiting n
        (s.slot n).job).tearWork n (s.slot n).job).tornHeld .ep (s.slot n).job).jobNotice 2 (s.slot n).job 0 0)).epOn) ∧
  (∀ (s : State) (a : Access) (n : Nat) (val : List Byte), n < 64 → dirCheck .ep a (slotEntry n 6) true s = 0 → val.length = 1 →
    beNat val = 1 → ((s.slot n).state = 0 ∨ (s.slot n).state = 3) →
    exec (.slotRevoke a n val) s = .next (s.emit (.dir .ep a.ctx stBusy [])).epOn) ∧
  (∀ (s : State) (n : Nat), (s.slot n).state = 3 → s.slotEmpty n (s.slot n).job = true →
    ∃ t, exec (.slotDrained n) s = .next t ∧ (t.slot n).state = 0 ∧ (t.slot n).job = 0xFFFF ∧
      (∀ k ∈ t.ep.sh.keys, k.job = (s.slot n).job → k.cur = none ∧ k.prev = none ∧ k.pend = none) ∧
      (∀ m, m ≠ n → t.slot m = s.slot m) ∧ t.mod = s.mod ∧ t.out = s.out)

/-- TABLE_WALK_COMPLETE (R32), FAULT_WALK_COMPLETE, FAULT_TIMEOUT, RESUME_RETRY and RESUME_FAIL (R40, R41): a leaf is installed
and its waiter translates again; a fault record that fails leaves the table and its waiters end with Fault. Completion, on the
conditions of the clauses alone, is stated of the constructors tableWalkComplete, resumeRetry, resumeFail, faultTimeout,
faultWalkComplete. -/
def Obligations.WalksAndFaultRecordsEnd : Prop :=
  (∀ (s : State) (id : Nat) (w : Walk) (e : AtuEntry), (s.ep.walks.find? fun w => w.id == id) = some w → w.ended = some (.leaf e) →
    (∀ i, w.who ≠ .record i) → (s.slot w.slot).job = w.job → ((s.slot w.slot).state = 1 ∨ (s.slot w.slot).state = 2) →
    (s.slot w.slot).inv = w.inv →
    ∃ u : State, exec (.tableWalkComplete id) s = .next (((u.install e).again w.who w.slot w.job w.granule w.want).epOn) ∧
      u.ep.walks = delFirst (fun v => v.id == id) s.ep.walks ∧ u.ep.slots = s.ep.slots ∧ u.mod = s.mod) ∧
  (∀ (s : State) (id : Nat) (w : Walk), (s.ep.walks.find? fun w => w.id == id) = some w → w.ended = some .unmapped →
    (∀ i, w.who ≠ .record i) → (s.slot w.slot).job = w.job → ((s.slot w.slot).state = 1 ∨ (s.slot w.slot).state = 2) →
    (s.slot w.slot).inv = w.inv →
    ∃ u : State, exec (.tableWalkComplete id) s = .next ((u.raiseFault w.job w.granule 0 w.want w.who).epOn) ∧
      u.ep.walks = delFirst (fun v => v.id == id) s.ep.walks ∧ u.ep.faults = s.ep.faults ∧ u.mod = s.mod) ∧
  (∀ (s : State) (a : Access) (val : List Byte) (job first n : Nat), dirCheck .ep a 0xD20005 true s = 0 → val.length = 16 →
    resumeFields (beNat val) = (job, first, n, 1, 0) → n ≠ 0 → (s.ep.slotOf job).isSome = true →
    exec (.resumeRetry a val) s = .next (dirAnswer .ep a.ctx (stOk, (s.covered job first n).foldl State.retryRecord s))) ∧
  (∀ (s : State) (a : Access) (val : List Byte) (job first n : Nat), dirCheck .ep a 0xD20005 true s = 0 → val.length = 16 →
    resumeFields (beNat val) = (job, first, n, 2, 0) → n ≠ 0 → (s.ep.slotOf job).isSome = true →
    exec (.resumeFail a val) s =
      .next (dirAnswer .ep a.ctx (stOk, (s.covered job first n).foldl (fun s i => s.failRecord i cFault) s)).epOn) ∧
  (∀ (s : State) (a : Access) (val : List Byte) (job first n act reserved : Nat), dirCheck .ep a 0xD20005 true s = 0 →
    val.length = 16 → resumeFields (beNat val) = (job, first, n, act, reserved) →
    (reserved ≠ 0 ∨ (act ≠ 1 ∧ act ≠ 2) ∨ n = 0 ∨ s.ep.slotOf job = none →
      exec (.resumeRetry a val) s = .next (s.emit (.dir .ep a.ctx stRange [])) ∧
      exec (.resumeFail a val) s = .next (s.emit (.dir .ep a.ctx stRange [])).epOn) ∧
    (reserved = 0 → act = 1 ∨ act = 2 → n ≠ 0 → (s.ep.slotOf job).isSome = true → s.covered job first n = [] →
      exec (.resumeRetry a val) s = .next (s.emit (.dir .ep a.ctx stOk [])) ∧
      exec (.resumeFail a val) s = .next (s.emit (.dir .ep a.ctx stOk [])).epOn)) ∧
  (∀ (s : State) (i : Nat) (f : FaultRec), tabGet s.ep.faults i = some f → f.state = 1 → f.timer + f.limit ≤ s.ns →
    ∃ u : State, exec (.faultTimeout i) s = .next (f.waiters.foldl (fun s w => s.failWho w.who cFault) u).epOn ∧
      tabGet u.ep.faults i = none ∧ (∀ j, j ≠ i → tabGet u.ep.faults j = tabGet s.ep.faults j) ∧ u.mod = s.mod) ∧
  (∀ (s : State) (i : Nat) (f : FaultRec) (w : Walk) (e : AtuEntry), tabGet s.ep.faults i = some f →
    (s.ep.walks.find? fun w => w.who == WalkFor.record i) = some w → w.ended = some (.leaf e) → f.revoked = false →
    (s.slot w.slot).inv = w.inv → f.waiters ≠ [] → (∀ u ∈ f.waiters, e.has u.want = true) →
    ∃ u : State, exec (.faultWalkComplete i) s =
        .next (f.waiters.foldl (fun s x => s.again x.who w.slot w.job w.granule x.want) u).epOn ∧
      tabGet u.ep.faults i = none ∧ (∀ j, j ≠ i → tabGet u.ep.faults j = tabGet s.ep.faults j) ∧ u.mod = s.mod)

/-- ADMISSION_ENTRY_WRITE (R43) and COMMONS_ADMISSION_ENTRY_WRITE (R183): a valid entry whose extent lies in the memory and
overlaps no other entry of its job is stored at the selected index, and every other entry stays. Completion, on the conditions
of the clauses alone, is stated of the constructors admissionEntryWrite, commonsAdmissionEntryWrite. -/
def Obligations.AdmissionWritesStoreEntry : Prop :=
  (∀ (s : State) (a : Access) (val : List Byte) (e : AdmEntry), dirCheck .ep a 0xD30004 true s = 0 → val.length = 16 →
    admOf (beNat val) = (e, 0) → e.v = true → e.job ≠ 0 → e.job ≠ 0xFFFF → e.offBase + e.len + 1 ≤ 2 ^ 30 →
    (e.localBase + e.len + 1) * 65536 ≤ s.reg .ep 0xD30002 →
    (∀ x ∈ s.ep.sh.adm, x.1 ≠ s.sel .ep a.ctx 0xD30003 → x.2.v = true → x.2.job = e.job →
      x.2.offBase + x.2.len + 1 ≤ e.offBase ∨ e.offBase + e.len + 1 ≤ x.2.offBase) →
    ∃ t, exec (.admissionEntryWrite a val) s = .next t ∧ tabGet t.ep.sh.adm (s.sel .ep a.ctx 0xD30003) = some e ∧
      (∀ j, j ≠ s.sel .ep a.ctx 0xD30003 → tabGet t.ep.sh.adm j = tabGet s.ep.sh.adm j) ∧ t.mod = s.mod ∧
      t.ep.slots = s.ep.slots ∧ t.out = s.out ++ [.dir .ep a.ctx stOk []]) ∧
  (∀ (s : State) (a : Access) (val : List Byte) (e : AdmEntry), dirCheck .mod a 0x720004 true s = 0 → val.length = 16 →
    admOf (beNat val) = (e, 0) → e.v = true → e.job ≠ 0 → e.job ≠ 0xFFFF → e.offBase + e.len + 1 ≤ 2 ^ 30 →
    (e.localBase + e.len + 1) * 65536 ≤ s.usableBytes → s.commonsAdmOk e = true →
    (∀ x ∈ s.mod.sh.adm, x.1 ≠ s.sel .mod a.ctx 0x720003 → x.2.v = true → x.2.job = e.job →
      x.2.offBase + x.2.len + 1 ≤ e.offBase ∨ e.offBase + e.len + 1 ≤ x.2.offBase) →
    ∃ t, exec (.commonsAdmissionEntryWrite a val) s = .next t ∧ tabGet t.mod.sh.adm (s.sel .mod a.ctx 0x720003) = some e ∧
      (∀ j, j ≠ s.sel .mod a.ctx 0x720003 → tabGet t.mod.sh.adm j = tabGet s.mod.sh.adm j) ∧ t.ep = s.ep ∧
      t.mod.mem = s.mod.mem ∧ t.mod.regions = s.mod.regions ∧ t.out = s.out ++ [.dir .mod a.ctx stOk []])

/-- R327: the order of the checks of a write (DIRECTORY_WRITE, any path): an entry that is not there, a path that does not reach
it, a principal that may not write it, an entry that takes no write; none of them stores anything but the event and the count of
a principal that is turned away. -/
def Obligations.DirectoryWriteIsCheckedInOrder : Prop :=
  (∀ (s : State) (p : Part) (a : Access) (key : Nat) (val : List Byte), entryOf p key = none →
    exec (.directoryWrite p a key val) s = .next ((s.emit (.dir p a.ctx stNoEntry [])).partOn p)) ∧
  (∀ (s : State) (p : Part) (a : Access) (key : Nat) (val : List Byte) (e : Entry), entryOf p key = some e →
    pathReaches p a.path key true s = false →
    exec (.directoryWrite p a key val) s = .next ((s.emit (.dir p a.ctx stDenied [])).partOn p)) ∧
  (∀ (s : State) (p : Part) (a : Access) (key : Nat) (val : List Byte) (e : Entry), entryOf p key = some e →
    pathReaches p a.path key true s = true → mayWrite p a e key s = false →
    exec (.directoryWrite p a key val) s = .next (((dirDenied p a key s).emit (.dir p a.ctx stDenied [])).partOn p) ∧
      (∀ k i, ((dirDenied p a key s).sh p).reg k i = (s.sh p).reg k i) ∧ (dirDenied p a key s).mod.mem = s.mod.mem ∧
      (dirDenied p a key s).ep.slots = s.ep.slots ∧ (dirDenied p a key s).out = s.out) ∧
  (∀ (s : State) (p : Part) (a : Access) (key : Nat) (val : List Byte) (e : Entry), entryOf p key = some e →
    pathReaches p a.path key true s = true → mayWrite p a e key s = true → e.acc = 0 → a.principal ≠ .metrology →
    exec (.directoryWrite p a key val) s = .next ((s.emit (.dir p a.ctx stMode [])).partOn p))

/-- DIRECTORY_WRITE of an entry that is stored as it is (no command of its own carries it out, and it applies at once): the
selected instance holds the value, every other stored value stays, and Ok is answered. Completion, on the conditions of the
clauses alone, is stated of the constructors directoryWrite. -/
def Obligations.DirectoryWriteStoresValue : Prop :=
  ∀ (s : State) (p : Part) (a : Access) (key : Nat) (val : List Byte) (e : Entry), entryOf p key = some e →
    dirCheck p a key true s = 0 → valueOk e val = true → e.wr ≠ 6 → e.later = false →
    (∀ t x, State.epApply t a key val x = none) → (∀ t : State, t.modApply a key val = none) →
    (∀ t x, State.modApply2 t a key val x = none) → (∀ t : State, t.bothApply p a key val = none) →
    ∃ u : State, exec (.directoryWrite p a key val) s = .next ((u.emit (.dir p a.ctx stOk [])).partOn p) ∧
      (u.sh p).reg key (s.instOf p a.ctx key) = beNat val ∧
      (∀ k i, k * 65536 + i ≠ key * 65536 + s.instOf p a.ctx key → (u.sh p).reg k i = (s.sh p).reg k i) ∧
      (u.sh p).log = (s.sh p).log ∧ u.mod.mem = s.mod.mem ∧ u.ep.slots = s.ep.slots ∧ u.out = s.out

/-- OPEN (R332): an Open of a source that is not muted, under a credential that the module holds, opens a session with a fresh
Session ID, sequence 0, and is answered with a nonce of 32 bytes. Completion, on the conditions of the clauses alone, is
stated of the constructors openMsg. -/
def Obligations.OpenStartsSession : Prop :=
  ∀ (s : State) (m : PMsg) (c : Credential), s.mod.sh.clk.crystal ≠ 2 → (s.protoGate m).2 = true → protoForm m 1 = true →
    tabGetD s.mod.muted m.source 0 ≤ s.ns → tabGet s.mod.creds m.credSlot = some c → m.auth = protoAuth m 0 c.secret → m.seq = 0 → m.session = 0 →
    m.value.length = 32 → s.mod.sessions.length < 16 →
    ∃ t x nonce, exec (.openMsg m) s = .next t ∧ t.mod.sessions = s.mod.sessions ++ [x] ∧ x.slot = m.credSlot ∧
      x.principal = c.principal ∧ x.partition = c.partition ∧ x.seq = 0 ∧ x.id ≠ 0 ∧ (∀ y ∈ s.mod.sessions, y.id ≠ x.id) ∧
      nonce.length = 32 ∧ x.port = m.port ∧ x.key = sessionKey c.secret m.value nonce x.id ∧
      t.out = s.out ++ [.protocol (answerOf m x.id stOk x.key nonce) stOk] ∧ t.mod.sh.regs = s.mod.sh.regs ∧
      t.mod.mem = s.mod.mem ∧ t.ep = s.ep

/-- Requests of a session in sequence (R332, R333, R336 to R338): CLOSE ends the session; READ, WRITE, SEGMENT_READ, SEGMENT_WRITE
and COMMIT_STAGED act as the session's principal, keep their sequence and answer, and send it. On a failed crystal (R365) the
module takes no such message: it serves the Directory on the sideband only. Completion, on the conditions of the clauses
alone, is stated of the constructors close, read, write, segmentRead, segmentWrite, commitStaged. -/
def Obligations.SessionRequestsAreAnswered : Prop :=
  (∀ (s : State) (m : PMsg) (t : Session), s.mod.sh.clk.crystal ≠ 2 → (s.protoGate m).2 = true → protoForm m 2 = true →
    (s.mod.sessions.find? fun t => t.id == m.session) = some t → m.auth = protoAuth m 0 t.key → m.seq = (t.seq + 1) % 2 ^ 32 →
    ∃ u : State, exec (.close m) s = .next u ∧ u.mod.sessions = s.mod.sessions.filter (fun x => x.id != t.id) ∧ u.ep = s.ep ∧
      u.mod.sh = s.mod.sh ∧ u.out = s.out ++ [.protocol (answerOf m t.id stOk t.key []) stOk]) ∧
  (∀ (s : State) (m : PMsg) (t : Session) (e : Entry) (v : List Byte), s.mod.sh.clk.crystal ≠ 2 → (s.protoGate m).2 = true → protoForm m 3 = true →
    (s.mod.sessions.find? fun t => t.id == m.session) = some t → m.auth = protoAuth m 0 t.key → m.seq = (t.seq + 1) % 2 ^ 32 →
    entryOf .mod m.key = some e → dirCheck .mod (t.access .udp) m.key false (s.protoGate m).1 = 0 →
    (s.protoGate m).1.dirValue .mod (t.access .udp) e m.key = some v → v.length ≤ 1024 →
    ∃ u : State, exec (.read m) s = .next u ∧ u.mod.sessions = modFirst (fun x => x.id == t.id)
        (fun x => { x with seq := m.seq, answer := some (stOk, v), last := s.ns }) s.mod.sessions ∧ u.ep = s.ep ∧
      u.mod.sh = s.mod.sh ∧ u.out = s.out ++ [.protocol (answerOf m t.id stOk t.key v) stOk]) ∧
  (∀ (s : State) (m : PMsg), s.mod.sh.clk.crystal = 2 →
    exec (.close m) s = .next s ∧ exec (.read m) s = .next s ∧ exec (.segmentRead m) s = .next s) ∧
  (∀ (s : State) (m : PMsg) (t : Session), s.mod.sh.clk.crystal ≠ 2 → (s.protoGate m).2 = true →
    (s.mod.sessions.find? fun t => t.id == m.session) = some t → m.auth = protoAuth m 0 t.key → m.seq = (t.seq + 1) % 2 ^ 32 →
    (protoForm m 4 = true → ∃ (u : State) (st : Nat), exec (.write m) s =
        .next (u.emit (.protocol (answerOf m t.id st t.key []) st)).modOn ∧
      st = ((s.protoGate m).1.dirWriteAny .mod (t.access .udp) m.key m.value).1 ∧
      u.mod.sh = ((s.protoGate m).1.dirWriteAny .mod (t.access .udp) m.key m.value).2.mod.sh) ∧
    (protoForm m 5 = true → ∃ (u : State) (st : Nat) (v : List Byte), exec (.segmentRead m) s =
        .next (u.emit (.protocol (answerOf m t.id st t.key v) st)) ∧
      (st, v) = ((s.protoGate m).1.segRead .mod (t.access .udp) m.key m.segOff 1024).2 ∧
      u.mod.sh = ((s.protoGate m).1.segRead .mod (t.access .udp) m.key m.segOff 1024).1.mod.sh) ∧
    (protoForm m 6 = true → ∃ (u : State) (st : Nat), exec (.segmentWrite m) s =
        .next (u.emit (.protocol (answerOf m t.id st t.key []) st)).modOn ∧
      st = ((s.protoGate m).1.segWrite .mod (t.access .udp) m.key m.segOff m.value 1024).1 ∧
      u.mod.sh = ((s.protoGate m).1.segWrite .mod (t.access .udp) m.key m.segOff m.value 1024).2.mod.sh) ∧
    (∀ staged : List Byte, protoForm m 7 = true → m.value.length = 76 →
      beNat (sliceBytes m.value 0 8) + beNat (sliceBytes m.value 8 4) ≤ 2 ^ 28 →
      staged = (List.range (beNat (sliceBytes m.value 8 4))).map (fun i =>
        tabGetD s.mod.staging (beNat (sliceBytes m.value 0 8) + i) 0#8) →
      sliceBytes m.value 12 64 = sliceBytes (Config.sha512 staged) 0 64 →
      ∃ (u : State) (st : Nat), exec (.commitStaged m) s = .next (u.emit (.protocol (answerOf m t.id st t.key []) st)).modOn ∧
        st = ((s.protoGate m).1.dirWriteAny .mod (t.access .udp) m.key staged).1 ∧
        u.mod.sh = ((s.protoGate m).1.dirWriteAny .mod (t.access .udp) m.key staged).2.mod.sh))

/-- SESSION_IDLE_TIMEOUT (R334), BLOB_ASSEMBLY_EXPIRY (R336, R337), CREDENTIAL_INSTALLATION (R335) and MANAGEMENT_CORE_PAIR_STOP
(R18). Completion, on the conditions of the clauses alone, is stated of the constructors managementCorePairStop,
sessionIdleTimeout, blobAssemblyExpiry, credentialInstallation. -/
def Obligations.SessionsAndCredentialsEnd : Prop :=
  (∀ (s : State) (id : Nat) (t : Session), (s.mod.sessions.find? fun t => t.id == id) = some t →
    t.last + 1000000000 * s.reg .mod 0x830004 ≤ s.ns →
    ∃ u : State, exec (.sessionIdleTimeout id) s = .next u ∧ u.mod.sessions = s.mod.sessions.filter (fun x => x.id != id) ∧
      u.mod.sh = s.mod.sh ∧ u.mod.mem = s.mod.mem ∧ u.ep = s.ep ∧ u.out = s.out) ∧
  (∀ (s : State) (p : Part) (c : Ctx) (key : Nat),
    ∃ u : State, exec (.blobAssemblyExpiry p c key) s = .next u ∧
      (∀ b ∈ (u.sh p).assemblies, b.ctx = c → b.key = key → b.at_ + 10000000000 ≤ s.ns → b.expired = true ∧ b.data = []) ∧
      (∀ b ∈ (s.sh p).assemblies, (b.ctx ≠ c ∨ b.key ≠ key ∨ s.ns < b.at_ + 10000000000) → b ∈ (u.sh p).assemblies) ∧
      (∀ b, b ∈ (u.sh p).snaps ↔ b ∈ (s.sh p).snaps ∧ (b.ctx ≠ c ∨ b.key ≠ key ∨ s.ns < b.at_ + 10000000000)) ∧
      (u.sh p).regs = (s.sh p).regs ∧ u.out = s.out) ∧
  (∀ (s : State) (a : Access) (val : List Byte) (slot kind part : Nat), dirCheck .mod a 0x830002 true s = 0 → val.length = 576 →
    credFields val = (slot, kind, part, 0) → slot ≤ 7 → kind = 1 ∨ kind = 2 → (kind = 1 → part = 0) →
    ∃ u : State, exec (.credentialInstallation a val true) s = .next u ∧
      tabGet u.mod.creds slot = some { principal := if kind = 1 then .operator else .host, partition := part,
                                         secret := sliceBytes (Config.unwrapped val) 0 32 } ∧
      (∀ j, j ≠ slot → tabGet u.mod.creds j = tabGet s.mod.creds j) ∧ (∀ t ∈ u.mod.sessions, t.slot ≠ slot) ∧ u.ep = s.ep ∧
      u.out = s.out ++ [.dir .mod a.ctx stOk []]) ∧
  (∀ (s : State) (pair : Nat), pair < 2 → s.mod.coresStopped = [] → s.mod.dirCore = pair →
    ∃ u v : State, v = u.report .mod 6 0 s.plane ∧
      exec (.managementCorePairStop pair) s = .next (if v.mod.coresStopped.length = 2 then v.selfFence.fenceOn else v) ∧
      u.mod.dirCore = 1 - pair ∧ u.mod.coresStopped = [pair] ∧ u.mod.sessions = [] ∧ u.mod.sh.assemblies = [] ∧
      u.mod.sh.snaps = [] ∧ u.mod.ve = s.mod.ve ∧ u.mod.frames = s.mod.frames ∧ u.ep = s.ep)

/-- The sideband (R263, R336, R337): SMB_DIRECTORY_READ, SMB_BLOB_SEGMENT_READ and SMB_STATUS_READ answer with a status byte, the
value and the PEC of the transaction; SMB_DIRECTORY_WRITE and SMB_BLOB_SEGMENT_WRITE keep their status for the Status read,
and one whose PEC fails is discarded. Completion, on the conditions of the clauses alone, is stated of the constructors
smbDirectoryRead, smbDirectoryWrite, smbBlobSegmentWrite, smbBlobSegmentRead, smbStatusRead. -/
def Obligations.SidebandTransfers : Prop :=
  ∀ (s : State) (p : Part), s.smbOn p = true →
    (∀ (key : Nat) (e : Entry) (v : List Byte), entryOf p key = some e → dirCheck p smbAccess key false s = 0 →
      s.dirValue p smbAccess e key = some v → v.length ≤ 250 →
      ∃ pec : Byte, exec (.smbDirectoryRead p key) s = .next (s.emit (.smbus p ((BitVec.ofNat 8 stOk :: v) ++ [pec]))) ∧
        pec = BitVec.ofNat 8 (crc8 (s.smbSent p 0x10 (beBytes 3 key) ++
          [BitVec.ofNat 8 (2 * s.smbAddr p + 1), BitVec.ofNat 8 (v.length + 1), BitVec.ofNat 8 stOk] ++ v))) ∧
    (∀ (key : Nat) (val : List Byte), exec (.smbDirectoryWrite p key val (s.smbPec p 0x11 (beBytes 3 key ++ val))) s =
      .next (((s.dirWriteAny p smbAccess key val).2.modSh p fun sh =>
        { sh with smbStatus := (s.dirWriteAny p smbAccess key val).1 }).partOn p)) ∧
    (∀ (key : Nat) (val : List Byte) (pec : Nat), pec ≠ s.smbPec p 0x11 (beBytes 3 key ++ val) →
      exec (.smbDirectoryWrite p key val pec) s = .next ((s.modSh p fun sh => { sh with smbStatus := stPec }).partOn p)) ∧
    (∀ (key off : Nat) (data : List Byte),
      exec (.smbBlobSegmentWrite p key off data (s.smbPec p 0x12 (beBytes 3 key ++ beBytes 4 off ++ data))) s =
      .next (((s.segWrite p smbAccess key off data 248).2.modSh p fun sh =>
        { sh with smbStatus := (s.segWrite p smbAccess key off data 248).1 }).partOn p)) ∧
    (∀ (key off n : Nat) (b : Blob), entryOf p key ≠ none → dirCheck p smbAccess key false s = 0 → 0 < off → n ≤ 250 →
      blobOf (s.sh p).snaps .smbus key = some b → b.expired = false → s.ns < b.at_ + 10000000000 → off ≤ b.data.length →
      ∃ (u : State) (pec : Byte), exec (.smbBlobSegmentRead p key off n) s = .next u ∧
        u.out = s.out ++ [.smbus p ((BitVec.ofNat 8 stOk :: (b.data.drop off).take n) ++ [pec])] ∧ (u.sh p).regs = (s.sh p).regs ∧
        pec = BitVec.ofNat 8 (crc8 (s.smbSent p 0x13 (beBytes 3 key ++ beBytes 4 off ++ [BitVec.ofNat 8 n]) ++
          [BitVec.ofNat 8 (2 * s.smbAddr p + 1), BitVec.ofNat 8 (((b.data.drop off).take n).length + 1), BitVec.ofNat 8 stOk] ++
          (b.data.drop off).take n))) ∧
    exec (.smbStatusRead p) s = .next (s.emit (.smbus p [BitVec.ofNat 8 (s.sh p).smbStatus, BitVec.ofNat 8 (crc8
      [BitVec.ofNat 8 (2 * s.smbAddr p), 0x14#8,
       BitVec.ofNat 8 (2 * s.smbAddr p + 1), BitVec.ofNat 8 (s.sh p).smbStatus])]))

/-- ACKNOWLEDGED_SEQUENCE_WRITE (R340), COUNTER_SNAPSHOT (R389), CHAIN_MASK_EFFECTIVE (R388) and GROUP_INDEX_WRITE (R398).
Completion, on the conditions of the clauses alone, is stated of the constructors acknowledgedSequenceWrite, counterSnapshot,
chainMaskEffective, groupIndexWrite. -/
def Obligations.LogAndCounterControls : Prop :=
  (∀ (s : State) (p : Part) (a : Access) (val : List Byte), dirCheck p a 0xA80003 true s = 0 → val.length = 4 →
    beNat val ≤ (s.sh p).log.next →
    ∃ u : State, exec (.acknowledgedSequenceWrite p a val) s = .next u ∧ (u.sh p).log.acked = beNat val ∧
      (u.sh p).log.recs = (s.sh p).log.recs ∧ (u.sh p).log.next = (s.sh p).log.next ∧ (u.sh p).regs = (s.sh p).regs ∧
      u.out = s.out ++ [.dir p a.ctx stOk []]) ∧
  (∀ (s : State) (p : Part), s.epochOf p % max 1 (s.reg p 0x901001) = 0 →
    (s.sh p).ctr.bankTime = 0 ∨ (s.sh p).ctr.bankTime < s.epochOf p * 1000000 →
    ∃ u : State, exec (.counterSnapshot p) s = .next u ∧ (u.sh p).ctr.bank = (s.sh p).ctr.live ∧
      (u.sh p).ctr.live = (s.sh p).ctr.live ∧ (u.sh p).ctr.bankTime = s.epochOf p * 1000000 ∧ (u.sh p).log = (s.sh p).log ∧
      u.out = s.out) ∧
  (∀ (s : State) (p : Part) (g inst v : Nat), tabGet (s.sh p).ctr.pendChain (g * 65536 + inst) = some v →
    v / 2 ^ 64 ≤ s.epochOf p → tabGet (s.sh p).ctr.pendReset (g * 65536 + inst) = none →
    ∃ u : State, exec (.chainMaskEffective p g inst) s = .next u ∧
      tabGetD (u.sh p).ctr.chain (g * 65536 + inst) 0 = v % 2 ^ 64 ∧
      tabGet (u.sh p).ctr.pendChain (g * 65536 + inst) = none ∧ (u.sh p).log = (s.sh p).log ∧ u.out = s.out) ∧
  (∀ (s : State) (p : Part) (a : Access) (val : List Byte), dirCheck p a 0x900001 true s = 0 → val.length = 2 →
    (groupShape p (beNat val)).isSome = true →
    ∃ u : State, exec (.groupIndexWrite p a val) s = .next u ∧ u.sel p a.ctx 0x900001 = beNat val ∧ u.sel p a.ctx 0x900002 = 0 ∧
      (u.sh p).ctr = (s.sh p).ctr ∧ u.out = s.out ++ [.dir p a.ctx stOk []])

/-- The input (R342 to R345): IN_EN_ASSERT, SOFT_START_PERMITTED and SOFT_START_COMPLETE start a module that is Off;
IN_EN_DEASSERT and INPUT_VOLTAGE_TRIP stop one that runs, with the cause kept; BREAKER_TRIP above 75 A opens the switch and
BREAKER_RETRY closes it after one second; the third trip within 60 s holds the module Off. Completion, on the conditions of
the clauses alone, is stated of the constructors inEnAssert, inEnDeassert, softStartComplete, inputVoltageTrip, breakerTrip,
breakerRetry, softStartPermitted. -/
def Obligations.InputStartsAndStops : Prop :=
  (∀ s : State, s.mod.power.inputBad = false → s.mod.power.latched = false → s.mod.power.retryAt = none → s.mod.power.state = 4 →
    s.mod.power.soft = none → s.mod.power.booting = false →
    exec .inEnAssert s = .next { s with mod := { s.mod with power := { s.mod.power with inEn := true, soft := some s.ns } } }) ∧
  (∀ (s : State) (mV : Nat), 57600 ≤ mV → mV < 72000 → s.mod.power.inEn = true → s.mod.power.latched = false →
    s.mod.power.retryAt = none → s.mod.power.state = 4 → s.mod.power.soft = none → s.mod.power.booting = false →
    exec (.softStartPermitted mV) s = .next { s with mod := { s.mod with
      power := { s.mod.power with mV := mV, inputBad := false, overTrip := false, soft := some s.ns } } }) ∧
  (∀ (s : State) (t : Nat), s.mod.power.soft = some t →
    ∃ u : State, exec (.softStartComplete true) s = .next u ∧ u.mod.power.soft = none ∧ u.mod.power.booting = true ∧
      u.mod.power.state = s.mod.power.state ∧ u.mod.mem = s.mod.mem ∧ u.mod.meter = s.mod.meter ∧ u.ep = s.ep ∧ u.out = s.out) ∧
  (∀ s : State, s.mod.power.state ≤ 3 →
    ∃ u : State, exec .inEnDeassert s = .next u ∧ u.mod.power.state = 4 ∧ u.mod.power.stopCause = 7 ∧ u.mod.power.inEn = false ∧
      u.mod.power.latched = false ∧ u.mod.mem = [] ∧ u.mod.frames = [] ∧ u.mod.meter = s.mod.meter.stop false ∧
      u.mod.creds = s.mod.creds ∧ u.ep = s.ep ∧ u.out = s.out) ∧
  (∀ (s : State) (mV : Nat), s.mod.power.state ≤ 3 → 10000 ≤ mV → mV < 54000 →
    ∃ u : State, exec (.inputVoltageTrip mV) s = .next u ∧ u.mod.power.state = 4 ∧ u.mod.power.stopCause = 1 ∧ u.mod.power.mV = mV ∧
      u.mod.power.inputBad = true ∧ u.mod.mem = [] ∧ u.mod.meter = s.mod.meter.stop false ∧ u.ep = s.ep ∧ u.out = s.out) ∧
  (∀ (s : State) (mV : Nat), s.mod.power.state ≤ 3 → 74000 < mV →
    ∃ u : State, exec (.inputVoltageTrip mV) s = .next u ∧ u.mod.power.state = 4 ∧ u.mod.power.stopCause = 2 ∧
      u.mod.power.overTrip = true ∧ u.mod.mem = [] ∧ u.ep = s.ep ∧ u.out = s.out) ∧
  (∀ (s : State) (mA : Nat), 75000 < mA → s.mod.power.state ≤ 3 →
    ((s.mod.power.trips.filter fun t => decide (s.ns < 60000000000 + t)).length < 2) →
    ∃ u : State, exec (.breakerTrip mA) s = .next (State.mgCount u 17) ∧ u.mod.power.state = 4 ∧ u.mod.power.stopCause = 3 ∧
      u.mod.power.latched = false ∧ u.mod.power.retryAt = some (1000000000 + s.ns) ∧ u.mod.mem = [] ∧ u.ep = s.ep ∧ u.out = s.out) ∧
  (∀ (s : State) (mA : Nat), 75000 < mA → s.mod.power.state ≤ 3 →
    2 ≤ ((s.mod.power.trips.filter fun t => decide (s.ns < 60000000000 + t)).length) →
    ∃ u : State, exec (.breakerTrip mA) s = .next (State.mgCount u 17) ∧ u.mod.power.state = 4 ∧ u.mod.power.stopCause = 3 ∧
      u.mod.power.latched = true ∧ u.mod.power.retryAt = none ∧ u.mod.mem = [] ∧ u.ep = s.ep ∧ u.out = s.out) ∧
  (∀ (s : State) (t : Nat), s.mod.power.retryAt = some t → t ≤ s.ns → s.mod.power.inEn = true → s.mod.power.inputBad = false →
    s.mod.power.latched = false → s.mod.power.state = 4 → s.mod.power.soft = none → s.mod.power.booting = false →
    exec .breakerRetry s =
      .next { s with mod := { s.mod with power := { s.mod.power with retryAt := none, soft := some s.ns } } })

/-- Requests and changes of the power state (R347 to R353): REQUEST_RUN, REQUEST_REST and REQUEST_FALLOW from the states that
allow them, ENTRY_TESTS_COMPLETE, WAKE and FALLOW_BROWN_OUT. Completion, on the conditions of the clauses alone, is stated of
the constructors requestRest, requestRun, requestFallow, entryTestsComplete, wake, fallowBrownOut. -/
def Obligations.PowerStatesFollowRequests : Prop :=
  (∀ (s : State) (a : Access), dirCheck .mod a 0x200002 true s = 0 → s.mod.power.state = 2 →
    exec (.requestRun a) s = .next ({ s with mod := { s.mod with power := { s.mod.power with entering := true } } }.emit
      (.dir .mod a.ctx stOk []))) ∧
  (∀ (s : State) (a : Access), dirCheck .mod a 0x200002 true s = 0 → s.mod.power.state ≤ 1 →
    (s.mod.sh.verd.failed.contains s.plane = true ∨ (s.mod.sh.ports.any fun q => q.2.state == 7) = false) →
    ∃ u : State, exec (.requestRest a) s = .next u ∧ u.mod.power.state = 2 ∧ u.mod.power.levels = [] ∧ u.mod.power.entering = false ∧
      u.mod.sessions = [] ∧ (∀ q ∈ u.mod.sh.ports, q.2.state = 0)) ∧
  (∀ (s : State) (a : Access), dirCheck .mod a 0x200002 true s = 0 → s.mod.power.state = 2 →
    ∃ u : State, exec (.requestFallow a) s = .next u ∧ u.mod.power.state = 3 ∧ u.mod.mem = [] ∧ u.mod.meter = s.mod.meter.stop false ∧
      u.mod.power.stopCause = s.mod.power.stopCause ∧ u.ep = s.ep ∧ u.out = s.out ++ [.dir .mod a.ctx stOk []]) ∧
  (∀ (s : State) (a : Access) (v : Nat), dirCheck .mod a 0x200002 true s = 0 → 2 < s.mod.power.state →
    exec (.requestRest a) s = .next (s.emit (.dir .mod a.ctx stBusy [])) ∧
    exec (.requestRun a) s = .next (s.emit (.dir .mod a.ctx stBusy []))) ∧
  (∀ (s : State) (results : List TestResult), s.mod.power.state = 2 → s.mod.power.entering = true →
    ∃ u : State, exec (.entryTestsComplete results) s =
        .next (if u.mod.sh.clk.crystal = 1 then u.refsReturn .mod else u).fenceOn.portsLeaveOff ∧ u.mod.power.state = 0 ∧
      u.mod.power.entering = false ∧ u.mod.power.lease = s.ns) ∧
  (∀ s : State, s.mod.power.state = 3 → s.mod.power.booting = false →
    ∃ u : State, exec (.wake (0x60 + s.mod.power.strap)) s = .next u ∧ u.mod.power.booting = true ∧ u.mod.power.therm = false ∧
      u.mod.power.state = 3 ∧ u.ep = s.ep ∧ u.out = s.out) ∧
  (∀ (s : State) (mA : Nat), s.mod.power.state = 3 → 150 < mA →
    ∃ u : State, exec (.fallowBrownOut mA) s = .next u ∧ u.mod.power.booting = true ∧ u.mod.power.stopCause = 6 ∧
      u.mod.power.state = 3 ∧ u.ep = s.ep ∧ u.out = s.out)

/-- The cap (R355, R356, R360): CAP_STEP, CAP_STEP_EFFECTIVE, CAP_REFRESH, LEASE_EXPIRY and HOLD_TIME_EXPIRY. Completion, on the
conditions of the clauses alone, is stated of the constructors capStep, capStepEffective, capRefresh, leaseExpiry,
holdTimeExpiry. -/
def Obligations.CapStepsAndLease : Prop :=
  (∀ (s : State) (a : Access) (val : List Byte), dirCheck .mod a 0x201001 true s = 0 → val.length = 16 →
    bits (beNat val) 31 0 = 0 → bits (beNat val) 127 64 % 1000 = 0 → 1800 ≤ bits (beNat val) 63 32 →
    bits (beNat val) 63 32 ≤ 3600 → s.rackNs .mod < bits (beNat val) 127 64 →
    ∃ u : State, exec (.capStep a val) s = .next u ∧ u.mod.power.step = some (bits (beNat val) 127 64, bits (beNat val) 63 32) ∧
      u.mod.power.cap = s.mod.power.cap ∧ u.mod.power.lease = s.ns ∧ u.mod.power.hold = none ∧ u.mod.power.safe = false ∧
      u.reg .mod 0x201001 = beNat val ∧ u.mod.mem = s.mod.mem ∧ u.ep = s.ep ∧ u.out = s.out ++ [.dir .mod a.ctx stOk []]) ∧
  (∀ (s : State) (t cap : Nat), s.mod.power.step = some (t, cap) → t ≤ s.rackNs .mod →
    exec .capStepEffective s =
      .next { s with mod := { s.mod with power := { s.mod.power with cap := cap, step := none } } }) ∧
  (∀ (s : State) (a : Access), dirCheck .mod a 0x201003 true s = 0 →
    exec (.capRefresh a [1#8]) s = .next ({ s with mod := { s.mod with
      power := { s.mod.power with lease := s.ns, hold := none, safe := false } } }.emit (.dir .mod a.ctx stOk []))) ∧
  (∀ s : State, s.mod.power.state ≤ 2 → s.mod.power.safe = false → s.mod.power.hold = none →
    s.mod.power.lease + 1000000000 * s.reg .mod 0x201004 ≤ s.ns →
    exec .leaseExpiry s = .next { s with mod := { s.mod with power := { s.mod.power with hold := some s.ns } } }) ∧
  (∀ (s : State) (t : Nat), s.mod.power.hold = some t → t + 1000000000 * s.reg .mod 0x201005 ≤ s.ns →
    exec .holdTimeExpiry s = .next { s with mod := { s.mod with power := { s.mod.power with hold := none, safe := true } } })

/-- Power control and temperature (R355, R357, R358, R361, R362): POWER_CONTROL_TICK takes the readings and, outside Run, moves
the target by at most one half watt and does no more; LADDER_LEVEL_EFFECTIVE takes the decided level; THERMAL_READING sets the
thermal limit, THERMAL_TRIP stops the module in Fallow with THERM# asserted. Completion, on the conditions of the clauses
alone, is stated of the constructors powerControlTick, ladderLevelEffective, thermalReading, thermalTrip. -/
def Obligations.PowerControlAndTemperature : Prop :=
  (∀ (s : State) (watts mV mA : Nat), s.mod.power.state = 2 →
    ∃ u : State, exec (.powerControlTick watts mV mA) s = .next u ∧ u.mod.power.mV = mV ∧ u.mod.power.mA = mA ∧
      u.mod.power.means = lastN 10 (s.mod.power.means ++ [watts]) ∧ u.mod.power.levels = s.mod.power.levels ∧
      (u.mod.power.target = s.mod.power.target ∨ u.mod.power.target = s.mod.power.target + 1 ∨
        u.mod.power.target + 1 = s.mod.power.target) ∧ u.mod.mem = s.mod.mem ∧ u.ep = s.ep ∧ u.out = s.out) ∧
  (∀ (s : State) (l t : Nat), s.mod.power.decided = some (l, t) → t ≤ s.rackNs .mod → s.mod.power.state ≤ 1 →
    ∃ u : State, exec .ladderLevelEffective s = .next (if l = 3 ∨ l = 4 then u.alignStop else State.powerWidth u l true) ∧
      u.mod.power.levels = s.mod.power.levels ++ [l] ∧ u.mod.power.decided = none ∧ u.mod.power.state = 1 ∧
      u.mod.sh = s.mod.sh ∧ u.ep = s.ep ∧ u.out = s.out) ∧
  (∀ (s : State) (inlet scd : Int) (hbm : List Int), s.mod.power.state ≤ 2 → s.mod.power.sensorLatch = false → -10000 ≤ inlet →
    inlet ≤ 100000 → scd < 100000 → (hbm.any fun t => decide (95000 ≤ t)) = false →
    ∃ u : State, exec (.thermalReading inlet scd hbm) s = .next u ∧ u.mod.power.inlet = inlet ∧
      u.mod.power.thermal = min (inletLimit inlet) 3600 ∧ u.mod.power.hot = none ∧ u.mod.power.sensorLatch = false ∧
      u.mod.power.state = s.mod.power.state ∧ u.mod.sh = s.mod.sh ∧ u.mod.mem = s.mod.mem ∧ u.ep = s.ep ∧ u.out = s.out) ∧
  (∀ (s : State) (inlet scd : Int) (hbm : List Int), s.mod.power.state ≤ 2 → (inlet < -10000 ∨ 100000 < inlet) →
    ∃ u : State, exec (.thermalReading inlet scd hbm) s = .next u ∧ u.mod.power.sensorLatch = true ∧ u.mod.power.thermal ≤ 1800 ∧
      u.mod.power.state = s.mod.power.state ∧ u.ep = s.ep ∧ u.out = s.out) ∧
  (∀ (s : State) (inlet scd hbm : Int), s.mod.power.state ≤ 2 → (110000 ≤ scd ∨ 105000 ≤ hbm ∨ 60000 ≤ inlet) →
    ∃ u : State, exec (.thermalTrip inlet scd hbm) s = .next u ∧ u.mod.power.state = 3 ∧ u.mod.power.stopCause = 5 ∧
      u.mod.power.therm = true ∧ u.mod.mem = [] ∧ u.mod.meter = s.mod.meter.stop false ∧ u.ep = s.ep ∧ u.out = s.out)

/-- The crystal (R364, R365): once it is stable every PLL whose reference is another one moves to its own; CRYSTAL_TIMEOUT and
OSCILLATOR_RETRIM. Completion, on the conditions of the clauses alone, is stated of the constructors crystalStable,
crystalTimeout, oscillatorRetrim. -/
def Obligations.CrystalStartsReferences : Prop :=
  (∀ (s : State) (p : Part), (s.sh p).clk.crystal = 0 →
    ∃ u : State, exec (.crystalStable p) s = .next u ∧ (u.sh p).clk.crystal = 1 ∧
      (∀ d, d < domainCount p → (s.domain p d).ref ≠ domainRef p d → (u.domain p d).target = some (domainRef p d)) ∧
      (∀ d, (d < domainCount p → (s.domain p d).ref = domainRef p d) → u.domain p d = s.domain p d) ∧
      (u.sh p).regs = (s.sh p).regs ∧ u.out = s.out) ∧
  (∀ (s : State) (p : Part), (s.sh p).clk.crystal = 0 → (s.sh p).clk.started + 100000000 ≤ s.clock →
    ∃ u : State, exec (.crystalTimeout p) s = .next (u.bothCount p 36 19) ∧ (u.sh p).clk.crystal = 2 ∧
      (u.sh p).clk.domains = (s.sh p).clk.domains ∧ (u.sh p).log = (s.sh p).log ∧ u.out = s.out) ∧
  (∀ (s : State) (p : Part) (kHz : Nat), (s.sh p).clk.crystal = 1 →
    ∃ u : State, exec (.oscillatorRetrim p kHz) s = .next u ∧ (u.sh p).clk.oscKHz = kHz ∧
      (u.sh p).clk.domains = (s.sh p).clk.domains ∧ (u.sh p).log = (s.sh p).log ∧ u.out = s.out)

/-- Clock domains (R367 to R371): a monitor window sets the flags and the sticky flags; a coasting PLL keeps its coast frequency
and moves to its backup reference; PLL_RELOCK ends Coasting; a multiplexer completes, or is forced by its watchdog.
Completion, on the conditions of the clauses alone, is stated of the constructors clockMonitorWindow, pllCoast, pllRelock,
muxSwitchComplete, muxWatchdog. -/
def Obligations.ClockDomainsFollowMonitors : Prop :=
  (∀ (s : State) (p : Part) (d flags kHz : Nat), d < domainCount p → bit flags 1 = false → bit flags 3 = false →
    bit flags 4 = false →
    ∃ u : State, exec (.clockMonitorWindow p d flags kHz) s = .next (u.partOn p) ∧ (u.domain p d).kHz = kHz ∧
      (u.domain p d).good = min 10 ((s.domain p d).good + 1) ∧ (u.domain p d).ref = (s.domain p d).ref ∧
      (u.domain p d).sticky = (s.domain p d).sticky ||| (u.domain p d).flags ∧
      (∀ e, e ≠ d → u.domain p e = s.domain p e) ∧ (u.sh p).log = (s.sh p).log ∧ u.out = s.out) ∧
  (∀ (s : State) (d : Nat), 1 ≤ d → d ≤ 8 → bit (s.domain .ep d).flags 0 = false → bit (s.domain .ep d).flags 3 = true →
    exec (.pllCoast .ep d) s = .next (s.linkLost (d - 1))) ∧
  (∀ (s : State) (p : Part) (d f : Nat), coastKHz p d = some f → (p = .mod → 69 ≤ d ∧ (d < 93 ∨ 95 ≤ d)) →
    bit (s.domain p d).flags 0 = false → (bit (s.domain p d).flags 3 = true ∨ bit (s.domain p d).flags 4 = true) →
    ∃ u v : State, v = (u.bothCount p 37 20).muxStart p d 0 ∧
      exec (.pllCoast p d) s = .next (if (s.domain p d).ref = 1 then v.crystalLost p else v) ∧
      (u.domain p d).kHz = f ∧ bit (u.domain p d).flags 0 = true ∧ (u.domain p d).ref = (s.domain p d).ref ∧
      (∀ e, e ≠ d → u.domain p e = s.domain p e) ∧ u.out = s.out) ∧
  (∀ (s : State) (d f : Nat), d < 68 → coastKHz .mod d = some f → bit (s.domain .mod d).flags 0 = false →
    (bit (s.domain .mod d).flags 3 = true ∨ bit (s.domain .mod d).flags 4 = true) →
    ∃ u v : State, v = ((State.mgCount u 20).muxStart .mod d (if s.locked .mod then 3 else 0)).coveredLost d ∧
      exec (.pllCoast .mod d) s = .next (if (s.domain .mod d).ref = 1 then v.crystalLost .mod else v) ∧
      (u.domain .mod d).kHz = f ∧ bit (u.domain .mod d).flags 0 = true ∧
      (∀ e, e ≠ d → u.domain .mod e = s.domain .mod e) ∧ u.ep = s.ep ∧ u.out = s.out) ∧
  (∀ (s : State) (p : Part) (d : Nat), d < domainCount p → (s.domain p d).target = none → bit (s.domain p d).flags 0 = true →
    (s.backupRef p d).isSome = true →
    ∃ u : State, exec (.pllRelock p d false) s = .next u ∧
      (u.domain p d).flags = setFlag (setFlag (s.domain p d).flags 0 false) 1 false ∧ (u.domain p d).ref = (s.domain p d).ref ∧
      (∀ e, e ≠ d → u.domain p e = s.domain p e) ∧ u.out = s.out) ∧
  (∀ (s : State) (p : Part) (d r : Nat), (s.domain p d).target = some r → bit (s.domain p d).flags 3 = false →
    ∃ u : State, exec (.muxSwitchComplete p d) s = .next u ∧ (u.domain p d).ref = r ∧ (u.domain p d).target = none ∧
      (u.domain p d).good = 0 ∧ (∀ e, e ≠ d → u.domain p e = s.domain p e) ∧ u.out = s.out) ∧
  (∀ (s : State) (p : Part) (d r : Nat), (s.domain p d).target = some r →
    (s.domain p d).since + s.regNow p 0x303002 * 5000 ≤ s.clock →
    ∃ u : State, exec (.muxWatchdog p d false) s = .next ((u.bothCount p 38 21).partOn p) ∧ (u.domain p d).ref = r ∧
      (u.domain p d).target = none ∧ (∀ e, e ≠ d → u.domain p e = s.domain p e) ∧ u.out = s.out)

/-- Alignment (R271, R272): ALIGNMENT_REQUEST, ALIGNMENT_START, ALIGN_PULSE and ALIGNMENT_CHECK take an attempt through its steps;
ALIGNMENT_LOST ends alignment and with it Mown mode. Completion, on the conditions of the clauses alone, is stated of the
constructors alignmentRequest, alignmentStart, alignPulse, alignmentCheck, alignmentLost. -/
def Obligations.AlignmentRunsItsSteps : Prop :=
  (∀ (s : State) (a : Access), dirCheck .mod a 0xC10002 true s = 0 → s.locked .mod = true → s.coveredOk = true →
    exec (.alignmentRequest a [1#8]) s = .next ({ s with mod := { s.mod with alignTry := 1, alignAt := 1000000 * s.nextEpoch .mod } }.emit
      (.dir .mod a.ctx stOk []))) ∧
  (∀ (s : State) (a : Access), dirCheck .mod a 0xC10002 true s = 0 → s.locked .mod = false →
    exec (.alignmentRequest a [1#8]) s = .next (s.emit (.dir .mod a.ctx stBusy []))) ∧
  (∀ s : State, (s.mod.alignTry = 1 ∨ s.mod.alignTry = 4) → s.mod.align ≠ 2 → s.mod.alignAt ≤ s.rackNs .mod →
    ∃ u : State, exec .alignmentStart s = .next u ∧ u.mod.align = 1 ∧ u.mod.alignTry = s.mod.alignTry + 1 ∧
      u.mod.alignBad = [] ∧ u.mod.sh.clk.returnAt = none ∧ (∀ d, d < 68 → (u.domain .mod d).integerN = true) ∧
      (∀ d, 68 ≤ d → u.domain .mod d = s.domain .mod d) ∧ u.ep = s.ep ∧ u.out = s.out) ∧
  (∀ s : State, (s.mod.alignTry = 2 ∨ s.mod.alignTry = 5) → s.mod.alignAt + 1000000 ≤ s.rackNs .mod →
    exec (.alignPulse []) s =
      .next { s with mod := { s.mod with alignTry := s.mod.alignTry + 1, alignZero := some (s.rackNs .mod) } }) ∧
  (∀ (s : State) (d : Nat) (l : List Nat), s.mod.alignTry = 2 → s.mod.alignAt + 1000000 ≤ s.rackNs .mod →
    exec (.alignPulse (d :: l)) s = .next { s with mod := { s.mod with alignTry := 4, alignAt := 1000000 * s.nextEpoch .mod } }) ∧
  (∀ s : State, (s.mod.alignTry = 3 ∨ s.mod.alignTry = 6) → s.mod.alignAt + 1000480 ≤ s.rackNs .mod →
    exec (.alignmentCheck []) s = .next { s with mod := { s.mod with align := 2, alignTry := 0, alignBad := [] } }) ∧
  (∀ (s : State) (d : Nat) (l : List Nat), s.mod.alignTry = 6 → s.mod.alignAt + 1000480 ≤ s.rackNs .mod →
    ∃ u : State, exec (.alignmentCheck (d :: l)) s = .next u ∧ u.mod.align = 3 ∧ u.mod.alignTry = 0 ∧ u.mod.alignBad = d :: l ∧
      u.mod.sh.clk.returnAt = some (1000000 * s.nextEpoch .mod) ∧ u.ep = s.ep ∧ u.out = s.out) ∧
  (∀ (s : State) (cause : Nat), s.mod.align = 2 →
    ∃ u : State, exec (.alignmentLost cause) s = .next (u.leaveMown .mod cause) ∧ u.mod.align = 0 ∧
      u.mod.sh.clk.returnAt = some (1000000 * s.nextEpoch .mod) ∧ u.mod.sh.mode = s.mod.sh.mode ∧ u.ep = s.ep ∧ u.out = s.out)

/-- Messages to the meter (R384): a whole message is taken by a core that runs: TIME, USAGE, COMMONS_CHARGE, ACKNOWLEDGE and
LOG_READ; MIRROR_WRITE and EVENT reach the module; one of another form is only counted. Completion, on the conditions of the
clauses alone, is stated of the constructors time, usage, commonsCharge, acknowledge, mirrorWrite, event, logRead. -/
def Obligations.MeterMessagesAreTaken : Prop :=
  (∀ (s : State) (h : MeterHdr) (n c k : Nat) (v : List Byte), 
    (meterBad h 1 9 = true → exec (.time h) s = .next (s.mgCount 22)) ∧
    (meterBad h 3 (4 * s.commonsCharge.length) = true → exec (.commonsCharge h) s = .next (s.mgCount 22)) ∧
    (meterBad h 4 8 = true → exec (.acknowledge h n) s = .next (s.mgCount 22)) ∧
    (meterBad h 7 10 = true → exec (.logRead h n c) s = .next (s.mgCount 22)) ∧
    (meterBad h 5 (3 + v.length) = true → exec (.mirrorWrite h k v) s = .next (s.mgCount 22)) ∧
    (meterBad h 6 14 = true → exec (.event h n c) s = .next (s.mgCount 22))) ∧
  (∀ (s : State) (h : MeterHdr), meterBad h 1 9 = false → s.mod.meter.runs = true → s.mod.meter.gapFrom = none →
    ∃ u : State, exec (.time h) s = .next u ∧ u.mod.meter.time = s.epochOf .mod * 1000000 ∧ u.mod.meter.synced = true ∧
      u.mod.meter.unlocked = !s.locked .mod ∧ u.mod.meter.lastTime = s.ns ∧ u.mod.meter.records = s.mod.meter.records ∧
      u.mod.meter.accounts = s.mod.meter.accounts ∧ u.mod.sh = s.mod.sh ∧ u.ep = s.ep ∧ u.out = s.out) ∧
  (∀ (s : State) (h : MeterHdr), meterBad h 2 (16 * s.mod.usage.length) = false → s.mod.meter.runs = true →
    ∃ u : State, exec (.usage h) s = .next (s.mod.usage.foldl (fun s e => State.usageEntry s e) u) ∧ u.mod.usage = [] ∧
      u.mod.meter = s.mod.meter ∧ u.ep = s.ep ∧ u.out = s.out) ∧
  (∀ (s : State) (h : MeterHdr), meterBad h 3 (4 * s.commonsCharge.length) = false → s.mod.meter.runs = true →
    exec (.commonsCharge h) s = .next (s.commonsCharge.foldl (fun s e => State.chargeEntry s e.1 e.2) s)) ∧
  (∀ (s : State) (h : MeterHdr) (n : Nat), meterBad h 4 8 = false → s.mod.meter.runs = true → s.mod.meter.state = 1 → s.mod.meter.acked < n →
    exec (.acknowledge h n) s = .next { s with mod := { s.mod with meter := { s.mod.meter with acked := n } } }) ∧
  (∀ (s : State) (h : MeterHdr) (n : Nat), meterBad h 4 8 = false → n ≤ s.mod.meter.acked → exec (.acknowledge h n) s = .next s) ∧
  (∀ (s : State) (h : MeterHdr) (first count : Nat), meterBad h 7 10 = false → s.mod.meter.runs = true →
    ∃ u : State, exec (.logRead h first count) s = .next u ∧ u.mod.meter.records = s.mod.meter.records ∧
      u.mod.meter.seq = (s.mod.meter.seq + 1) % 2 ^ 32 ∧
      u.out = s.out ++ [.meter (meterBytes 7 s.mod.meter.seq
        ((List.range count).flatMap fun i => s.mod.meter.position (fun _ => true) (first + i)))]) ∧
  (∀ (s : State) (h : MeterHdr) (val : List Byte), meterBad h 5 7 = false → val.length = 4 →
    dirCheck .mod meterAccess 0xB00005 true s = 0 →
    exec (.mirrorWrite h 0xB00005 val) s = .next (s.setReg .mod 0xB00005 (beNat val))) ∧
  (∀ (s : State) (h : MeterHdr) (code detail : Nat), meterBad h 6 14 = false →
    exec (.event h code detail) s = .next (s.logEvent .mod (if code = 4 then 2 else 1) 0x000E 0 (code * 2 ^ 104 + detail)))

/-- The meter's records (R380 to R383, R385, R386): SEAL_EVENT raises the update count by one and writes its record at once;
METER_STOPPED, INTERVAL_CLOSE and ACKNOWLEDGED_RECORD_WRITE. Completion, on the conditions of the clauses alone, is stated of
the constructors acknowledgedRecordWrite, intervalClose, sealEvent, meterStopped. -/
def Obligations.MeterRecordsAreSealed : Prop :=
  (∀ (s : State) (cause detail : Nat), s.mod.meter.runs = true → s.mod.meter.update < 2 ^ 32 - 1 →
    s.mod.meter.full 1 = false →
    ∃ u r, exec (.sealEvent cause detail) s = .next u ∧ u.mod.meter.update = s.mod.meter.update + 1 ∧
      r ∈ u.mod.meter.records ∧ r.kind = 3 ∧ r.index = s.mod.meter.next ∧ r.update = s.mod.meter.update + 1 ∧
      u.mod.meter.next = s.mod.meter.next + 1 ∧ u.mod.meter.interval = s.mod.meter.interval ∧
      u.mod.meter.accounts = s.mod.meter.accounts ∧ u.mod.sh = s.mod.sh ∧ u.ep = s.ep) ∧
  (∀ (s : State) (faulted : Bool), s.mod.meter.runs = true →
    ∃ u : State, exec (.meterStopped faulted) s = .next (u.logEvent .mod 2 0x000E 0 (4 * 2 ^ 104)) ∧
      u.mod.meter.state = (if faulted then 2 else 0) ∧ u.mod.meter.records = s.mod.meter.records ∧
      u.reg .mod 0xB00001 = (if faulted then 2 else 0) ∧ u.ep = s.ep ∧ u.out = s.out) ∧
  (∀ (s : State) (energy : Nat), s.mod.meter.runs = true → s.mod.meter.synced = true →
    s.meterTime / 1000000000 = s.mod.meter.interval + 1 →
    exec (.intervalClose energy) s = .next (s.closeOne energy).mirrorAll ∧
      (s.closeOne energy).mod.meter.interval = s.mod.meter.interval + 1 ∧ (s.closeOne energy).mod.meter.usage = [] ∧
      (∀ e ∈ (s.closeOne energy).mod.meter.accounts, e.2.chargeNow = 0)) ∧
  (∀ (s : State) (a : Access) (val : List Byte), dirCheck .mod a 0xB10002 true s = 0 → val.length = 8 →
    beNat val ≤ s.reg .mod 0xB10001 → s.reg .mod 0xB10002 ≤ beNat val →
    ∃ u : State, exec (.acknowledgedRecordWrite a val) s = .next u ∧ u.reg .mod 0xB10002 = beNat val ∧
      u.mod.meter = s.mod.meter ∧ u.mod.meterSeq = (s.mod.meterSeq + 1) % 2 ^ 32 ∧ u.ep = s.ep ∧
      u.out = s.out ++ [.meter (meterBytes 4 s.mod.meterSeq (beBytes 8 (beNat val))), .dir .mod a.ctx stOk []])

/-- Boot, bundles and attestation (R303 to R308): MODULE_RESET_RELEASE boots the first valid slot that passes every check, or
refuses; BUNDLE_COMMIT checks an upload; ATTESTATION_NONCE begins a report and ATTESTATION_REPORT_READY makes it. Completion,
on the conditions of the clauses alone, is stated of the constructors moduleResetRelease, bundleCommit, attestationNonce,
attestationReportReady. -/
def Obligations.BootCommitAndAttest : Prop :=
  (∀ (s : State) (img : Option MetroImage), ∃ u : State, exec (.moduleResetRelease false img) s = .next u ∧
    u.mod.sh.rot.boot = 2 ∧ u.mod.sh.rot.reason = 7 ∧ u.mod.sh.rot.identity = false ∧ u.mod.power.state = 2 ∧
    u.mod.power.entering = false ∧ u.mod.mem = [] ∧ u.mod.creds = s.mod.creds ∧ u.ep = s.ep ∧
    u.out = s.out) ∧
  (∀ (s : State) (img : Option MetroImage) (n : Nat) (b : BundleInfo) (l : List (Nat × BundleInfo)),
    s.mod.sh.rot.order = (n, b) :: l → bundleCheck .mod b = 0 →
    ∃ u : State, exec (.moduleResetRelease true img) s = .next u ∧ u.mod.sh.rot.boot = 1 ∧ u.mod.sh.rot.active = n ∧
      u.mod.sh.rot.running = some b ∧ u.mod.power.state = 2 ∧ u.mod.mem = [] ∧ u.mod.creds = s.mod.creds ∧ u.ep = s.ep) ∧
  (∀ (s : State) (img : Option MetroImage) (n : Nat) (b : BundleInfo), s.mod.sh.rot.order = [(n, b)] → bundleCheck .mod b ≠ 0 →
    ∃ u : State, exec (.moduleResetRelease true img) s = .next u ∧ u.mod.sh.rot.boot = 2 ∧
      u.mod.sh.rot.reason = bundleCheck .mod b ∧ u.mod.sh.rot.running = none ∧ u.mod.power.entering = false ∧
      u.mod.creds = s.mod.creds ∧ u.ep = s.ep) ∧
  (∀ (s : State) (a : Access) (b : BundleInfo), dirCheck .mod a 0x800007 true s = 0 →
    (s.mod.sh.rot.slot (1 - s.mod.sh.rot.active)).state = 3 →
    ∃ u : State, exec (.bundleCommit a [1#8] b) s = .next ((u.bundleEvent .mod (1 - s.mod.sh.rot.active) (bundleCheck .mod b)
        b.version).emit (.dir .mod a.ctx stOk [])) ∧
      u.mod.sh.rot.slot (1 - s.mod.sh.rot.active) = { state := if bundleCheck .mod b = 0 then 1 else 2, bundle := some b } ∧
      u.mod.sh.rot.active = s.mod.sh.rot.active ∧ u.mod.sh.rot.running = s.mod.sh.rot.running ∧
      u.mod.sh.rot.boot = s.mod.sh.rot.boot ∧ u.mod.mem = s.mod.mem ∧ u.ep = s.ep ∧ u.out = s.out) ∧
  (∀ (s : State) (a : Access) (b : BundleInfo), dirCheck .mod a 0x800007 true s = 0 →
    (s.mod.sh.rot.slot (1 - s.mod.sh.rot.active)).state ≠ 3 →
    exec (.bundleCommit a [1#8] b) s = .next (s.emit (.dir .mod a.ctx stBusy []))) ∧
  (∀ (s : State) (p : Part) (a : Access) (val : List Byte), dirCheck p a (nonceKey p) true s = 0 → val.length = 32 →
    ∃ u : State, exec (.attestationNonce p a val) s = .next u ∧ (u.sh p).rot.nonce = some val ∧ (u.sh p).rot.report = none ∧
      (u.sh p).rot.boot = (s.sh p).rot.boot ∧ (u.sh p).keys = (s.sh p).keys ∧ (u.sh p).log = (s.sh p).log ∧
      u.out = s.out ++ [.dir p a.ctx stOk []]) ∧
  (∀ (s : State) (p : Part) (n : List Byte), (s.sh p).rot.nonce = some n → (s.sh p).rot.boot = 1 →
    ∃ u r, exec (.attestationReportReady p) s = .next u ∧ (u.sh p).rot.report = some r ∧ (u.sh p).rot.nonce = none ∧
      r.take 58 = beBytes 58 (s.reportHead p n) ∧ r.length = 832 ∧
      (p = .ep → (r.drop 186).take 64 = List.replicate 64 0#8) ∧ (u.sh p).keys = (s.sh p).keys ∧ u.out = s.out) ∧
  (∀ (s : State) (p : Part), (s.sh p).rot.boot ≠ 1 → exec (.attestationReportReady p) s = .next s)

/-- Keys (R311, R316 to R318): KEY_INSTALLATION holds an installation for its activation time, or refuses it and counts;
KEY_ACTIVATION makes the epoch current and keeps the one before; KEY_PERIOD derives the next period's keys. Completion, on the
conditions of the clauses alone, is stated of the constructors keyInstallation, keyActivation, keyPeriod. -/
def Obligations.KeysAreInstalledAndActivated : Prop :=
  (∀ (s : State) (p : Part) (a : Access) (val : List Byte) (unwrapOk : Bool), dirCheck p a (installKey p) true s = 0 →
    val.length = 576 → (p = .ep → ((installFields val).2.2.1 == 3) = (a.principal == .operator)) → (s.sh p).rot.boot ≠ 2 →
    s.installBad p val unwrapOk = false → (s.keys p (installFields val).1).pend = none →
    ((s.keys p (installFields val).1).removal = 0 ∨ (s.keys p (installFields val).1).removal = 4) →
    ∃ k, exec (.keyInstallation p a val unwrapOk) s = .next ((s.setKeys p k).emit (.dir p a.ctx stOk [])) ∧
      k.job = (s.keys p (installFields val).1).job ∧
      k.pend = some ((installFields val).2.1, (installFields val).2.2.1, (installFields val).2.2.2.1) ∧
      k.cur = (s.keys p (installFields val).1).cur ∧ k.prev = (s.keys p (installFields val).1).prev ∧
      k.retired = (s.keys p (installFields val).1).retired) ∧
  (∀ (s : State) (p : Part) (a : Access) (val : List Byte) (unwrapOk : Bool), dirCheck p a (installKey p) true s = 0 →
    val.length = 576 → (p = .ep → ((installFields val).2.2.1 == 3) = (a.principal == .operator)) → (s.sh p).rot.boot ≠ 2 →
    ((s.keys p (installFields val).1).removal = 0 ∨ (s.keys p (installFields val).1).removal = 4) →
    s.installBad p val unwrapOk = true →
    exec (.keyInstallation p a val unwrapOk) s = .next ((s.bothCount p 31 13).emit (.dir p a.ctx stRange []))) ∧
  (∀ (s : State) (p : Part) (a : Access) (val : List Byte) (unwrapOk : Bool), dirCheck p a (installKey p) true s = 0 →
    val.length = 576 → (p = .ep → ((installFields val).2.2.1 == 3) = (a.principal == .operator)) →
    1 ≤ (s.keys p (installFields val).1).removal → (s.keys p (installFields val).1).removal ≤ 3 →
    exec (.keyInstallation p a val unwrapOk) s = .next (s.emit (.dir p a.ctx stBusy []))) ∧
  (∀ (s : State) (job e kind t : Nat), (s.keys .mod job).pend = some (e, kind, t) → t ≤ s.rackNs .mod → kind ≠ 2 →
    ∃ k, exec (.keyActivation .mod job) s = .next (s.setKeys .mod k) ∧ k.cur = some e ∧ k.prev = (s.keys .mod job).cur ∧
      k.pend = none ∧ k.removal = (s.keys .mod job).removal ∧ e ∉ k.retired ∧
      (∀ x, x ≠ e → (x ∈ k.retired ↔ x ∈ (s.keys .mod job).retired))) ∧
  (∀ (s : State) (job e kind t : Nat), (s.keys .ep job).pend = some (e, kind, t) → t ≤ s.rackNs .ep → job ≠ 0 →
    ∃ k, exec (.keyActivation .ep job) s = .next ((s.setKeys .ep k).jobNotice 3 job 0 0) ∧ k.cur = some e ∧
      k.prev = (s.keys .ep job).cur ∧ k.pend = none) ∧
  (∀ (s : State) (p : Part) (job e kind t : Nat), (s.keys p job).pend = some (e, kind, t) → s.rackNs p < t →
    exec (.keyActivation p job) s = .next s) ∧
  (∀ (s : State) (p : Part), 99999000 ≤ s.rackNs p % 100000000 →
    ∃ u : State, exec (.keyPeriod p) s = .next u ∧ (u.sh p).rot.derived = s.rackNs p / 100000000 + 1 ∧
      (u.sh p).rot.boot = (s.sh p).rot.boot ∧ (u.sh p).keys = (s.sh p).keys ∧ u.out = s.out)

/-- Removing a tenant (R320, R321, R393): JOB_RETIRE starts a removal and cancels an activation at or after R; RETIRE_TIME retires
the held epochs and revokes the slot or slice; REMOVAL_SCRUB erases the secrets; REMOVAL_SETTLE takes the final snapshot.
Completion, on the conditions of the clauses alone, is stated of the constructors jobRetire, retireTime, removalScrub,
removalSettle. -/
def Obligations.TenantRemovalRunsItsSteps : Prop :=
  (∀ (s : State) (p : Part) (a : Access) (val : List Byte) (job at_ : Nat), dirCheck p a (retireKey p) true s = 0 →
    val.length = 16 → job = bits (beNat val) 127 112 → at_ = bits (beNat val) 111 48 → bits (beNat val) 47 0 = 0 →
    at_ % 1000 = 0 → s.rackNs p + 1000000 ≤ at_ → ((s.keys p job).removal = 0 ∨ (s.keys p job).removal = 4) →
    s.keepsJob p job = true →
    ∃ k, exec (.jobRetire p a val) s = .next ((s.setKeys p k).emit (.dir p a.ctx stOk [])) ∧ k.removal = 1 ∧ k.retireAt = at_ ∧
      k.cur = (s.keys p job).cur ∧ k.prev = (s.keys p job).prev ∧
      (∀ x, k.pend = some x ↔ (s.keys p job).pend = some x ∧ x.2.2 < at_)) ∧
  (∀ (s : State) (p : Part) (job : Nat), (s.keys p job).removal = 1 → (s.keys p job).retireAt ≤ s.rackNs p →
    ∃ u : State, ∃ k, u = s.setKeys p k ∧ k.removal = 2 ∧ k.pend = none ∧
      (∀ e, (k.cur = some e ∨ k.prev = some e) → e ∈ k.retired) ∧
      exec (.retireTime p job) s = .next ((match p with
        | .ep => (match s.ep.slotOf job with
          | some (n, x) => if x.state = 1 ∨ x.state = 2 then u.revokeSlot n else u
          | none => u)
        | .mod => u.tearSlice job).partOn p)) ∧
  (∀ (s : State) (p : Part) (job : Nat), (s.keys p job).removal = 2 → s.jobGone p job = true →
    ∃ u : State, ∃ k, u = s.setKeys p k ∧ k.removal = 3 ∧ k.cur = none ∧ k.prev = none ∧
      exec (.removalScrub p job) s = .next (match p with
        | .ep => u.noteScrubbed .ep
        | .mod => (u.regionsScrub job).noteScrubbed .mod)) ∧
  (∀ (s : State) (p : Part) (job e : Nat), (s.keys p job).removal = 3 → (s.keys p job).readyAt = some e → e < s.epochOf p →
    ∃ u : State, exec (.removalSettle p job) s = .next u ∧ (u.keys p job).removal = 4 ∧
      tabGet (u.sh p).ctr.finals job = some ((List.range 10).map fun i => s.counter p 0x20 job i) ∧
      (u.sh p).ctr.live = (s.sh p).ctr.live ∧ (p = .mod → ∀ c, tabGet u.mod.meter.accounts job = some c → c.closing = true) ∧
      u.out = s.out)

/-- Rack time (R265 to R268): TICK and TIME_SET bring a lane in sync and take rack time from Unset over Acquiring to Locked and
from Lost back; LANE_SILENT, HOLDOVER_LIMIT and RACK_TIME_STEP. Completion, on the conditions of the clauses alone, is stated
of the constructors tick, timeSet, laneSilent, holdoverLimit, rackTimeStep. -/
def Obligations.RackTimeFollowsLanes : Prop :=
  (∀ (s : State) (p : Part) (l : Nat) (epoch : Bool), l < 2 → (s.sh p).rt.state ≠ 2 →
    ∃ u : State, exec (.tick p l epoch) s = .next u ∧ ((u.sh p).rt.lane l).sync = true ∧ ((u.sh p).rt.lane l).tick = s.clock ∧
      (u.sh p).rt.lane (1 - l) = (s.sh p).rt.lane (1 - l) ∧ (u.sh p).rt.units = (s.sh p).rt.units ∧
      (u.sh p).rt.state = (s.sh p).rt.state ∧ (epoch = true → ((u.sh p).rt.lane l).set = none) ∧
      (u.sh p).regs = (s.sh p).regs ∧ (u.sh p).log = (s.sh p).log ∧ u.out = s.out) ∧
  (∀ (s : State) (p : Part) (l value : Nat), exec (.timeSet p l value false) s = .next (s.count p 0x09 l 0 1)) ∧
  (∀ (s : State) (p : Part) (l value : Nat), l < 2 → (s.sh p).rt.state = 0 → l = (s.sh p).rt.source →
    ∃ u : State, exec (.timeSet p l value true) s = .next (u.rtState p 1) ∧
      (u.sh p).rt.units = (((s.sh p).rt.units : Int) + ((value * 5 : Nat) - ((s.sh p).rt.lane l).epoch)).toNat ∧
      ((u.sh p).rt.lane l).set = some value ∧ (u.sh p).log = (s.sh p).log ∧ u.out = s.out) ∧
  (∀ (s : State) (p : Part) (l value : Nat), l < 2 → (s.sh p).rt.state = 1 → l = (s.sh p).rt.source → 1 ≤ (s.sh p).rt.agrees →
    (((value * 5 : Nat) : Int) - ((s.sh p).rt.lane l).epoch).natAbs ≤ s.tickTol p →
    ∃ u : State, exec (.timeSet p l value true) s = .next (u.rtState p 2) ∧ (u.sh p).rt.units = (s.sh p).rt.units ∧
      ((u.sh p).rt.lane l).sync = true ∧ (u.sh p).log = (s.sh p).log ∧ u.out = s.out) ∧
  (∀ (s : State) (p : Part) (l value : Nat), l < 2 → (s.sh p).rt.state = 4 →
    ∃ u : State, exec (.timeSet p l value true) s = .next (u.rtState p 1) ∧ (u.sh p).rt.source = l ∧
      (u.sh p).rt.step = some ((value * 5 : Nat) - ((s.sh p).rt.lane l).epoch) ∧ (u.sh p).rt.units = (s.sh p).rt.units ∧
      u.out = s.out) ∧
  (∀ (s : State) (p : Part) (l : Nat), l < 2 → (s.sh p).rt.state = 2 → l = (s.sh p).rt.source →
    ((s.sh p).rt.lane (1 - l)).sync = true →
    ∃ u : State, exec (.laneSilent p l) s = .next (u.bothCount p 33 0) ∧ (u.sh p).rt.source = 1 - l ∧
      ((u.sh p).rt.lane l).sync = false ∧ (u.sh p).rt.state = 2 ∧ (u.sh p).rt.units = (s.sh p).rt.units ∧ u.out = s.out) ∧
  (∀ (s : State) (p : Part) (l : Nat), l < 2 → (s.sh p).rt.state = 2 → ((s.sh p).rt.lane (1 - l)).sync = false →
    ∃ u : State, exec (.laneSilent p l) s = .next ((u.rtState p 3).unlock p) ∧ (u.sh p).rt.since = s.clock ∧
      (u.sh p).rt.units = (s.sh p).rt.units ∧ (u.sh p).mode = (s.sh p).mode ∧ u.out = s.out) ∧
  (∀ (s : State) (p : Part), (s.sh p).rt.state = 3 → (s.sh p).rt.since + 5000000 * s.reg p 0xC00007 ≤ s.clock →
    exec (.holdoverLimit p) s = .next ((s.rtState p 4).bothCount p 34 1)) ∧
  (∀ (s : State) (p : Part) (energy : Nat) (d : Int), (s.sh p).rt.step = some d → d ≤ 0 → (s.sh p).mode = 0 →
    ∃ u : State, exec (.rackTimeStep p energy) s = .next (u.partOn p) ∧
      (u.sh p).rt.units = (((s.sh p).rt.units : Int) + d).toNat ∧ (u.sh p).rt.step = none ∧
      (u.sh p).rt.state = (s.sh p).rt.state ∧ (u.sh p).log = (s.sh p).log ∧ u.out = s.out)

/-- Timing-lane messages (R255 to R259): the characters of a whole message are reassembled; one that is not whole is counted and
discarded, one for another node or seen before is discarded, a Verdict message whose authenticator fails is counted, a new one
is taken. The ticks inside a stream change nothing of what is read from it (R256); ABORT discards the message in progress.
Completion, on the conditions of the clauses alone, is stated of the constructors timingLaneMessage, abort. -/
def Obligations.TimingLaneMessagesAreTakenOnce : Prop :=
  (∀ (s : State) (p : Part) (l : Nat) (mid chars : List TlChar) (m : TlMsg),
    (if l = 0 then (s.sh p).tl.partA else (s.sh p).tl.partB) = { chars := [], skip := 0 } → (∀ c ∈ mid, ∀ n, c ≠ .k n) →
    chars = kStart :: mid ++ [kEnd] → m = readMessage chars →
    (m.bad = true → exec (.timingLaneMessage p l chars) s = .next ((s.count p 0x09 l 0 1).partOn p)) ∧
    (m.bad = false → m.body ≠ .undefined → m.broadcast = false → m.dest ≠ s.node p →
      exec (.timingLaneMessage p l chars) s = .next (s.partOn p)) ∧
    (m.bad = false → m.body ≠ .undefined → (∀ v, m.body = .verdict v → s.vBad p v = false) →
      m.seq ∈ tabGetD (s.sh p).tl.seen m.source [] → exec (.timingLaneMessage p l chars) s = .next (s.partOn p)) ∧
    (∀ v, m.bad = false → m.body = .verdict v → (m.broadcast = true ∨ m.dest = s.node p) → s.vBad p v = true →
      exec (.timingLaneMessage p l chars) s =
        .next (((if p = Part.mod then s.mgCount 6 else s).count p 0x09 l 0 1).partOn p)) ∧
    (∀ v, m.bad = false → m.body = .verdict v → (m.broadcast = true ∨ m.dest = s.node p) → s.vBad p v = false →
      m.seq ∉ tabGetD (s.sh p).tl.seen m.source [] →
      ∃ u : State, exec (.timingLaneMessage p l chars) s = .next ((u.verdictIn p v false).partOn p) ∧
        tabGetD (u.sh p).tl.seen m.source [] = lastN 16 (tabGetD (s.sh p).tl.seen m.source [] ++ [m.seq]) ∧
        (u.sh p).verd = (s.sh p).verd ∧ (u.sh p).rt = (s.sh p).rt ∧ u.out = s.out)) ∧
  (∀ (s : State) (p : Part) (l at_ : Nat) (chars : List TlChar),
    (if l = 0 then (s.sh p).tl.partA else (s.sh p).tl.partB).skip = 0 → kEpoch ∉ chars →
    exec (.timingLaneMessage p l (withTicks at_ chars)) s = exec (.timingLaneMessage p l chars) s) ∧
  (∀ (s : State) (p : Part) (l : Nat),
    ∃ u : State, exec (.abort p l) s = .next u ∧ (l = 0 → (u.sh p).tl.partA = { chars := [], skip := 0 }) ∧
      (l ≠ 0 → (u.sh p).tl.partB = { chars := [], skip := 0 }) ∧
      (u.sh p).tl.seen = (s.sh p).tl.seen ∧ (u.sh p).rt = (s.sh p).rt ∧ (u.sh p).verd = (s.sh p).verd ∧ u.out = s.out)

/-- Mown entries (R273 to R276, R279, R280): MOWN_ENTRY_WRITE, MOWN_COMPILE_COMPLETE, MOWN_START, MOWN_PIECE_SLOT and
MOWN_FALLBACK take an entry through its states; the write keeps every other entry. Completion, on the conditions of the
clauses alone, is stated of the constructors mownEntryWrite, mownCompileComplete, mownStart, mownPieceSlot, mownFallback. -/
def Obligations.MownEntriesRunTheirStates : Prop :=
  (∀ (s : State) (a : Access) (val : List Byte), dirCheck .ep a 0xC30003 true s = 0 → val.length = 32 →
    hostHolds .ep a (mownOf (beNat val)).job s = true → bits (beNat val) 75 0 = 0 →
    (mownOf (beNat val)).start % 1000 = 0 → 20 ≤ (mownOf (beNat val)).interval → 500 ≤ (mownOf (beNat val)).lead →
    (mownOf (beNat val)).lead ≤ 100000 → tabGet s.ep.sh.mown (s.sel .ep a.ctx 0xC30002) = none →
    ∃ u : State, exec (.mownEntryWrite .ep a val) s = .next u ∧
      tabGet u.ep.sh.mown (s.sel .ep a.ctx 0xC30002) = some { mownOf (beNat val) with state := 2 } ∧
      (∀ j, j ≠ s.sel .ep a.ctx 0xC30002 → tabGet u.ep.sh.mown j = tabGet s.ep.sh.mown j) ∧ u.mod = s.mod ∧
      u.out = s.out ++ [.dir .ep a.ctx stOk []]) ∧
  (∀ (s : State) (a : Access) (val : List Byte), dirCheck .mod a 0xC30003 true s = 0 → val.length = 32 →
    hostHolds .mod a (mownOf (beNat val)).job s = true → bits (beNat val) 75 0 = 0 →
    (mownOf (beNat val)).start % 1000 = 0 → 20 ≤ (mownOf (beNat val)).interval → 500 ≤ (mownOf (beNat val)).lead →
    (mownOf (beNat val)).lead ≤ 100000 → tabGet s.mod.sh.mown (s.sel .mod a.ctx 0xC30002) = none →
    ∃ u : State, exec (.mownEntryWrite .mod a val) s = .next u ∧
      (s.mownOk (mownOf (beNat val)) = true →
        tabGet u.mod.sh.mown (s.sel .mod a.ctx 0xC30002) = some { mownOf (beNat val) with state := 1 } ∧
        u.out = s.out ++ [.dir .mod a.ctx stOk []]) ∧
      (s.mownOk (mownOf (beNat val)) = false → u = s.emit (.dir .mod a.ctx stRange [])) ∧
      (∀ j, j ≠ s.sel .mod a.ctx 0xC30002 → tabGet u.mod.sh.mown j = tabGet s.mod.sh.mown j) ∧ u.ep = s.ep) ∧
  (∀ (s : State) (p : Part) (a : Access) (val : List Byte), dirCheck p a 0xC30003 true s = 0 → val.length = 32 →
    hostHolds p a (mownOf (beNat val)).job s = false →
    exec (.mownEntryWrite p a val) s = .next ((dirDenied p a 0xC30003 s).emit (.dir p a.ctx stDenied []))) ∧
  (∀ (s : State) (i : Nat) (e : MownEntry), tabGet s.mod.sh.mown i = some e → e.state = 1 →
    ∃ u x, exec (.mownCompileComplete i) s = .next u ∧ tabGet u.mod.sh.mown i = some x ∧ (x.state = 2 ∨ x.state = 5) ∧
      x.tiles = s.tilesServing ∧ x.engs = s.mod.engOut ∧ x.input = e.input ∧
      (∀ j, j ≠ i → tabGet u.mod.sh.mown j = tabGet s.mod.sh.mown j) ∧ u.mod.groups = s.mod.groups ∧ u.ep = s.ep ∧
      u.out = s.out) ∧
  (∀ (s : State) (i : Nat) (e : MownEntry), tabGet s.mod.sh.mown i = some e → e.state = 2 → e.start ≤ s.rackNs .mod →
    s.mod.sh.mode = 1 → ((s.group e.group).v = false ∨ (s.group e.group).job ≠ e.job ∨ (s.group e.group).place e.cseq ≠ cDone) →
    ∃ u : State, exec (.mownStart i) s = .next u.modOn ∧ tabGet u.mod.sh.mown i = some { e with state := 6 } ∧
      u.mod.groups = s.mod.groups ∧ u.ep = s.ep ∧ u.out = s.out) ∧
  (∀ (s : State) (i : Nat) (e : MownEntry), tabGet s.mod.sh.mown i = some e → e.state = 2 → e.start ≤ s.rackNs .mod →
    s.mod.sh.mode = 1 → (s.group e.group).v = true → (s.group e.group).job = e.job → (s.group e.group).place e.cseq = cDone →
    ∃ u : State, exec (.mownStart i) s = .next u.modOn ∧
      tabGet u.mod.sh.mown i = some { e with state := 3 } ∧
      u.mod.groups = (s.openSlot e.group e.cseq e.cctx).mod.groups ∧ u.ep = s.ep ∧ u.out = s.out) ∧
  (∀ (s : State) (i k : Nat) (e : MownEntry) (x : SeqSlot), tabGet s.mod.sh.mown i = some e →
    s.seqSlot e.group e.cseq = some x → e.state = 3 → s.mod.sh.mode = 1 →
    (e.slotOf ((s.group e.group).shape x.cctx (x.size.getD 0)) k).1 = s.plane →
    (e.slotOf ((s.group e.group).shape x.cctx (x.size.getD 0)) k).2 ≤ s.rackNs .mod →
    ((s.group e.group).shape x.cctx (x.size.getD 0)).op ≠ 3 → x.size.isSome = true →
    k < ((s.group e.group).shape x.cctx (x.size.getD 0)).pieces → (x.piece k).done = false →
    (x.piece k).spilled = false → k / 2 ^ ((s.group e.group).shape x.cctx (x.size.getD 0)).order ∉ x.poisoned →
    exec (.mownPieceSlot i k) s = .next (s.completePiece e.group e.cseq k).mcOn) ∧
  (∀ (s : State) (i cause : Nat) (e : MownEntry), tabGet s.mod.sh.mown i = some e → (e.state = 2 ∨ e.state = 3) →
    ∃ u : State, exec (.mownFallback i cause) s = .next (u.mgCount 4).mcOn ∧
      tabGet u.mod.sh.mown i = some { e with state := 7 } ∧
      (∀ j, j ≠ i → tabGet u.mod.sh.mown j = tabGet s.mod.sh.mown j) ∧ u.mod.groups = s.mod.groups ∧ u.ep = s.ep ∧ u.out = s.out)

/-- Mown mode (R274, R278): MODE_SWITCH enters Mown mode where rack time is Locked and, on a module, alignment holds and no Down
port is on the crystal; otherwise it counts a refusal; MOWN_PIECE_SEND sends a piece at its send time. Completion, on the
conditions of the clauses alone, is stated of the constructors modeSwitch, mownPieceSend. -/
def Obligations.MownModeSwitches : Prop :=
  (∀ (s : State) (p : Part) (t : Nat), (s.sh p).switchAt = some t → t ≤ s.rackNs p → s.reg p 0xC20003 ≠ 0 → (s.sh p).mode = 0 →
    s.mownBar p = none →
    ∃ u : State, exec (.modeSwitch p) s = .next (u.partOn p) ∧ (u.sh p).mode = 1 ∧ (u.sh p).switchAt = none ∧
      (u.sh p).mown = (s.sh p).mown ∧ (u.sh p).log = (s.sh p).log ∧ u.out = s.out) ∧
  (∀ (s : State) (p : Part) (t : Nat), (s.sh p).switchAt = some t → t ≤ s.rackNs p → s.reg p 0xC20003 ≠ 0 → (s.sh p).mode = 0 →
    s.locked p = false →
    ∃ u : State, exec (.modeSwitch p) s = .next (((u.bothCount p 41 3).mownEvent p 0 0).partOn p) ∧ (u.sh p).mode = 0 ∧
      (u.sh p).switchAt = none ∧ u.out = s.out) ∧
  (∀ (s : State) (p : Part) (t : Nat), (s.sh p).switchAt = some t → t ≤ s.rackNs p → s.reg p 0xC20003 = 0 →
    ∃ u : State, exec (.modeSwitch p) s = .next ((u.leaveMown p 4).partOn p) ∧ (u.sh p).mode = (s.sh p).mode ∧
      (u.sh p).switchAt = none ∧ u.out = s.out) ∧
  (∀ (s : State) (c k : Nat) (x : EpColl) (sh : Shape) (e : MownEntry) (d : Option (List Byte)), s.coll c = some x → x.shape = some sh →
    s.epEntry x = some e → s.ep.sh.mode = 1 → x.state = 3 → e.start + x.localIndex sh k * e.interval ≤ s.rackNs .ep →
    sh.op ≠ 3 → k ∈ x.left sh → (∀ j ∈ x.left sh, j < k → x.planeOf sh j ≠ x.planeOf sh k) → x.assemble sh k = some d →
    exec (.mownPieceSend c k) s = .next ((s.collPiece c sh k d).collSent c sh).epOn) ∧
  (∀ (s : State) (c k : Nat) (x : EpColl), s.coll c = some x → s.ep.sh.mode ≠ 1 → exec (.mownPieceSend c k) s = .next s.epOn)

/-- Suspicion and Votes (R283, R284, R286): HEARTBEAT at each tenth tick, SUSPICION after 35 µs of silence, VOTE_REPEAT while it
holds, and what a VERDICT_MESSAGE changes at the module; one whose authenticator is right under no held key epoch of the rack
secret is counted and discarded. Completion, on the conditions of the clauses alone, is stated of the constructors heartbeat,
suspicion, voteRepeat, verdictMessage. -/
def Obligations.ModulesSuspectAndVote : Prop :=
  (∀ s : State, s.rackNs .mod / 1000 % 10 = 0 → s.mod.sh.rot.boot = 1 → s.mod.sh.verd.beat ≠ some (s.rackNs .mod / 1000) →
    s.mod.power.state < 3 →
    ∃ t : State, t = (s.modSh .mod fun sh => { sh with verd := { sh.verd with beat := some (s.rackNs .mod / 1000) } }).sendV .mod
      { vZero with number := s.mod.sh.verd.last } ∧
    exec (.heartbeat .mod) s = .next ((t.mod.ve.repeats.foldl (fun s r => s.sendV .mod r.v) t).modVe fun e =>
      { e with repeats := (e.repeats.map fun r => { r with left := r.left - 1 }).filter fun r => r.left != 0 })) ∧
  (∀ s : State, s.rackNs .ep / 1000 % 10 = 0 → s.ep.sh.rot.boot = 1 → s.ep.sh.verd.beat ≠ some (s.rackNs .ep / 1000) →
    s.ep.tripped = false → s.ep.supply = 0 → s.ep.inReset = false →
    exec (.heartbeat .ep) s = .next ((s.modSh .ep fun sh =>
      { sh with verd := { sh.verd with beat := some (s.rackNs .ep / 1000) } }).sendV .ep vZero)) ∧
  (∀ (s : State) (p : Part), (s.rackNs p / 1000 % 10 ≠ 0 ∨ (s.sh p).verd.beat = some (s.rackNs p / 1000) ∨ (s.sh p).rot.boot ≠ 1) →
    exec (.heartbeat p) s = .next s) ∧
  (∀ (s : State) (part : Nat), s.isPart part = true → tabGet s.mod.ve.suspects part = none → s.heardAt part + 35000 ≤ s.ns →
    ∃ u : State, exec (.suspicion part) s = .next (u.sendV .mod (subjectMsg 1 part)) ∧
      tabGet u.mod.ve.suspects part = some s.ns ∧ { plane := s.plane, node := part, at_ := s.ns } ∈ u.mod.ve.votes ∧
      (∀ q, q ≠ part → tabGet u.mod.ve.suspects q = tabGet s.mod.ve.suspects q) ∧ u.mod.sh.verd = s.mod.sh.verd ∧
      u.ep = s.ep) ∧
  (∀ (s : State) (part t : Nat), tabGet s.mod.ve.suspects part = some t → s.voteDue part = true →
    ∃ u : State, exec (.voteRepeat part) s = .next (u.sendV .mod (subjectMsg 1 part)) ∧
      { plane := s.plane, node := part, at_ := s.ns } ∈ u.mod.ve.votes ∧
      (∀ w ∈ u.mod.ve.votes, w.plane = s.plane → w.node = part → w.at_ = s.ns) ∧ u.mod.ve.suspects = s.mod.ve.suspects ∧
      u.ep = s.ep ∧ u.out = s.out) ∧
  (∀ (s : State) (part : Nat), (tabGet s.mod.ve.suspects part = none ∨ s.voteDue part = false) →
    exec (.voteRepeat part) s = .next s) ∧
  (∀ (s : State) (p : Part) (v : VMsg), (s.macRight p v = false ∨ 4 < v.kind ∨ v.reserved = true) →
    exec (.verdictMessage p v false) s = .next (if p = Part.mod then s.mgCount 6 else s)) ∧
  (∀ (s : State) (v : VMsg), s.macRight .mod v = true → v.reserved = false → v.kind = 0 → v.origin < 512 →
    tabGet s.mod.ve.suspects v.origin = none →
    ∃ u : State, exec (.verdictMessage .mod v false) s = .next u ∧ tabGet u.mod.ve.heard v.origin = some s.ns ∧
      (∀ q, q ≠ v.origin → tabGet u.mod.ve.heard q = tabGet s.mod.ve.heard q) ∧ u.mod.ve.votes = s.mod.ve.votes ∧
      u.mod.sh = s.mod.sh ∧ u.ep = s.ep ∧ u.out = s.out) ∧
  (∀ (s : State) (v : VMsg), s.macRight .mod v = true → v.reserved = false → v.kind = 1 → 512 ≤ v.origin → (v.vkind = 1 ∨ v.vkind = 2) →
    ∃ u : State, exec (.verdictMessage .mod v false) s = .next u ∧
      { plane := v.origin - 512, node := subjectOf v, at_ := s.ns } ∈ u.mod.ve.votes ∧
      (∀ w, (w.plane ≠ v.origin - 512 ∨ w.node ≠ subjectOf v) → (w ∈ u.mod.ve.votes ↔ w ∈ s.mod.ve.votes)) ∧
      u.mod.sh = s.mod.sh ∧ u.ep = s.ep ∧ u.out = s.out) ∧
  (∀ (s : State) (p : Part) (v : VMsg), s.macRight p v = true → v.reserved = false → v.kind = 2 →
    serialAfter v.number (s.sh p).verd.last = true → (∀ x ∈ (s.sh p).verd.pending, x.v.number ≠ v.number) →
    ∃ u : State, exec (.verdictMessage p v false) s = .next u ∧
      (u.sh p).verd.pending = (s.sh p).verd.pending ++ [{ v := v, at_ := s.ns }] ∧ (u.sh p).verd.last = (s.sh p).verd.last ∧
      (u.sh p).verd.dead = (s.sh p).verd.dead ∧ (u.sh p).verd.failed = (s.sh p).verd.failed ∧ u.out = s.out)

/-- Issuing verdicts (R287, R289, R299, R300): VERDICT_ISSUE, PORT_FAILED, PORT_RESTORED issue a verdict where their conditions
hold; QUORUM_LOSS_FENCE fences a module that hears too few planes throughout a confirmation period. Completion, on the
conditions of the clauses alone, is stated of the constructors verdictIssue, portFailed, portRestored, quorumLossFence,
rebindRequest, planeRestoreRequest. -/
def Obligations.VerdictsAreIssued : Prop :=
  (∀ (s : State) (node plane : Nat) (ready : Bool), node < 512 → s.mayCondemn node = true → node ∉ s.mod.sh.verd.dead →
    s.verdictPending 1 node 0 = false →
    exec (.verdictIssue 1 node plane ready) s = .next (s.issueVerdict 1 node 0 (maskOf 16 fun p => (s.voters node).contains p))) ∧
  (∀ (s : State) (node plane : Nat) (ready : Bool), plane < s.planeCount → s.mayCondemn (512 + plane) = true →
    plane ∉ s.mod.sh.verd.failed → s.verdictPending 2 0 plane = false →
    exec (.verdictIssue 2 node plane ready) s =
      .next (s.issueVerdict 2 0 plane (maskOf 16 fun p => (s.voters (512 + plane)).contains p))) ∧
  (∀ (s : State) (node plane : Nat), s.leader = s.plane → plane ∈ s.mod.ve.restores → plane ∈ s.mod.sh.verd.failed →
    s.heardByQuorum (512 + plane) = true → s.verdictPending 5 0 plane = false →
    exec (.verdictIssue 5 node plane true) s = .next (s.issueVerdict 5 0 plane 0)) ∧
  (∀ (s : State) (node plane : Nat) (ready : Bool), s.leader = s.plane → node ∈ s.mod.ve.rebinds → node ∈ s.mod.sh.verd.dead →
    s.heardByQuorum node = true → tabGetD s.mod.ve.deadAt node 0 + 200000000 ≤ s.ns → s.verdictPending 6 node 0 = false →
    exec (.verdictIssue 6 node plane ready) s = .next (s.issueVerdict 6 node 0 0)) ∧
  (∀ (s : State) (node port : Nat) (q : Port), s.nodePort node = some (port, q) → q.state ≠ 7 → (s.route node).fenced = false →
    s.suspected node = false → s.mod.ve.fenced = false → s.verdictPending 3 node s.plane = false →
    q.downSince + s.regNow .mod 0xA00007 * 1000 ≤ s.ns →
    exec (.portFailed node) s = .next (s.issueVerdict 3 node s.plane 0)) ∧
  (∀ (s : State) (node port : Nat) (q : Port), s.nodePort node = some (port, q) → q.state = 7 → (s.route node).fenced = true →
    node ∉ s.mod.sh.verd.dead → s.verdictPending 4 node s.plane = false →
    q.activeSince + 1000000 * s.regNow .mod 0xA00008 ≤ s.ns →
    exec (.portRestored node) s = .next (s.issueVerdict 4 node s.plane 0)) ∧
  (∀ (s : State) (at_ : Nat), (at_ = s.ns - s.regNow .mod 0xA00003 * 1000 ∨
      ∃ q, (q, at_) ∈ s.mod.ve.heardSince ∧ s.ns < at_ + s.regNow .mod 0xA00003 * 1000) →
    s.quorum ≤ 1 + s.planesHeard at_ → exec .quorumLossFence s = .next s) ∧
  (∀ s : State, s.regNow .mod 0xA00003 * 1000 ≤ s.ns → 1 + s.planesHeard (s.ns - s.regNow .mod 0xA00003 * 1000) < s.quorum →
    (∀ x ∈ s.mod.ve.heardSince, s.ns < x.2 + s.regNow .mod 0xA00003 * 1000 → 1 + s.planesHeard x.2 < s.quorum) →
    exec .quorumLossFence s = .next s.selfFence.fenceOn) ∧
  (∀ (s : State) (a : Access) (val : List Byte), dirCheck .mod a 0xA10002 true s = 0 → val.length = 2 → beNat val ≤ 511 →
    beNat val ∈ s.mod.sh.verd.dead →
    ∃ u : State, exec (.rebindRequest a val) s = .next u ∧ u.mod.ve.rebinds = setIns s.mod.ve.rebinds (beNat val) ∧
      u.mod.ve.restores = s.mod.ve.restores ∧ u.mod.sh = s.mod.sh ∧ u.ep = s.ep ∧
      u.out = s.out ++ [.dir .mod a.ctx stOk []]) ∧
  (∀ (s : State) (a : Access) (val : List Byte), dirCheck .mod a 0xA10001 true s = 0 → val.length = 1 → beNat val ≤ 15 →
    beNat val ∈ s.mod.sh.verd.failed →
    ∃ u : State, exec (.planeRestoreRequest a val) s = .next u ∧ u.mod.ve.restores = setIns s.mod.ve.restores (beNat val) ∧
      u.mod.ve.rebinds = s.mod.ve.rebinds ∧ u.mod.sh = s.mod.sh ∧ u.ep = s.ep ∧ u.out = s.out ++ [.dir .mod a.ctx stOk []])

/-- Applying verdicts (R288 to R290): VERDICT_APPLY takes the pending verdict of lowest number 10 µs after it was first received,
keeps it as a record and does what its kind says. Completion, on the conditions of the clauses alone, is stated of the
constructors verdictApply. -/
def Obligations.VerdictsAreApplied : Prop :=
  (∀ (s : State) (p : Part) (number : Nat) (x : PendVerdict), ((s.sh p).verd.pending.find? fun x => x.v.number == number) = some x →
    x.at_ + 10000 ≤ s.ns → (∀ y ∈ (s.sh p).verd.pending, serialAfter number y.v.number = false) →
    ∃ u : State, exec (.verdictApply p number) s = .next ((match p with
        | .ep => u.applyEp x.v
        | .mod => u.applyMod x.v).partOn p) ∧
      (u.sh p).verd.last = number ∧ (u.sh p).verd.records = (x.v :: (s.sh p).verd.records).take 64 ∧
      (u.sh p).verd.pending = delFirst (fun y => y.v.number == number) (s.sh p).verd.pending ∧
      (u.sh p).verd.dead = (s.sh p).verd.dead ∧ (u.sh p).verd.failed = (s.sh p).verd.failed ∧ u.out = s.out) ∧
  (∀ (s : State) (p : Part) (number : Nat) (x : PendVerdict), ((s.sh p).verd.pending.find? fun x => x.v.number == number) = some x →
    s.ns < x.at_ + 10000 → exec (.verdictApply p number) s = .next (s.partOn p)) ∧
  (∀ (s : State) (number : Nat) (x : PendVerdict), (s.mod.sh.verd.pending.find? fun x => x.v.number == number) = some x →
    x.at_ + 10000 ≤ s.ns → (∀ y ∈ s.mod.sh.verd.pending, serialAfter number y.v.number = false) → x.v.vkind = 1 →
    ∃ u : State, exec (.verdictApply .mod number) s = .next (u.partOn .mod) ∧
      u.mod.sh.verd.dead = setIns s.mod.sh.verd.dead x.v.subjNode ∧ (u.route x.v.subjNode).fenced = true ∧
      (∀ n, n ≠ x.v.subjNode → u.route n = s.route n) ∧ u.ep = s.ep ∧ u.out = s.out) ∧
  (∀ (s : State) (number : Nat) (x : PendVerdict), (s.ep.sh.verd.pending.find? fun x => x.v.number == number) = some x →
    x.at_ + 10000 ≤ s.ns → (∀ y ∈ s.ep.sh.verd.pending, serialAfter number y.v.number = false) → x.v.vkind = 3 →
    (x.v.subjNode, x.v.subjPlane) ∉ s.ep.exclusions → s.ep.exclusions.length < 64 →
    ∃ u : State, exec (.verdictApply .ep number) s = .next ((u.jobNotice 4 0 x.v.subjPlane x.v.subjNode).partOn .ep) ∧
      u.ep.exclusions = s.ep.exclusions ++ [(x.v.subjNode, x.v.subjPlane)] ∧ u.ep.sh.reqs = s.ep.sh.reqs ∧ u.mod = s.mod)

/-- Partial faults, canaries and suspects (R292 to R296): TILE_FAULT, VERDICT_ENGINE_WATCHDOG, ROOT_OF_TRUST_CORE_FAULT,
DIE_CROSSING_DOMAIN_FAULT, CANARY, CORRUPTION_REPORT, SUSPECT_EVALUATION and CLEAR_SUSPECT. Completion, on the conditions of
the clauses alone, is stated of the constructors tileFault, verdictEngineWatchdog, canary, corruptionReport,
suspectEvaluation, clearSuspect, rootOfTrustCoreFault, dieCrossingDomainFault. -/
def Obligations.FaultsWithdrawUnits : Prop :=
  (∀ (s : State) (t : Nat), (s.tile t).inService = false → exec (.tileFault t) s = .next s.modOn) ∧
  (∀ (s : State) (t : Nat), (s.tile t).inService = true →
    ∃ u : State, exec (.tileFault t) s = .next (u.tileClean t).modOn ∧ (u.tile t).inService = false ∧
      (∀ r, r ≠ t → u.tile r = s.tile r) ∧ u.mod.engOut = s.mod.engOut ∧ u.mod.frames = s.mod.frames ∧ u.mod.mem = s.mod.mem ∧
      u.mod.sh = s.mod.sh ∧ u.ep = s.ep ∧ u.out = s.out) ∧
  (∀ s : State, ∃ u : State, exec .verdictEngineWatchdog s = .next u.fenceOn ∧ u.mod.ve.stopped = true ∧ u.mod.ve.fenced = true ∧
    u.mod.ve.training = false ∧ (∀ q ∈ u.mod.sh.ports, q.2.role = 0 ∨ q.2.state = 1) ∧ u.ep = s.ep ∧ u.out = s.out) ∧
  (∀ s : State, exec .rootOfTrustCoreFault s = .next s.selfFence.fenceOn) ∧
  (∀ (s : State) (d : Nat), 64 ≤ d → d < 68 → exec (.dieCrossingDomainFault d) s = .next s.selfFence.fenceOn) ∧
  (∀ (s : State) (d : Nat), ¬(64 ≤ d ∧ d < 68) → exec (.dieCrossingDomainFault d) s = .next s) ∧
  (∀ (s : State) (e exact ordered at_ ver : Nat), s.canaryStart e = some at_ →
    tabGet s.mod.canaryLast e ≠ some at_ → e < 512 → e ∉ s.mod.engOut → s.mod.sh.mode = 0 →
    ver = s.mod.sh.rot.version →
    exec (.canary e exact ordered) s = .next (if exact = Config.canaryDigest 0 ver ∧ ordered = Config.canaryDigest 1 ver
      then { s with mod := { s.mod with canaryLast := tabSet s.mod.canaryLast e at_ } } else s.canaryFail e at_)) ∧
  (∀ (s : State) (e exact ordered at_ : Nat), s.canaryStart e = some at_ → tabGet s.mod.canaryLast e = some at_ →
    exec (.canary e exact ordered) s = .next s) ∧
  (∀ (s : State) (a : Access) (val : List Byte) (failing : List Nat), dirCheck .mod a 0xA30004 true s = 0 → val.length = 16 →
    s.partitionOf (bits (beNat val) 127 112) = a.partition → failing = [] →
    exec (.corruptionReport a val failing) s = .next (((s.mgCount 8).logEvent .mod 1 0x000A (bits (beNat val) 127 112)
      (bits (beNat val) 111 98 * 2 ^ 96 + bits (beNat val) 95 64 * 2 ^ 64)).emit (.dir .mod a.ctx stOk []))) ∧
  (∀ s : State, s.epochOf .mod % max 1 (s.regNow .mod 0xA50001) = 0 → (∀ r ∈ s.mod.late, s.lateSuspect r.2 = false) →
    exec .suspectEvaluation s = .next { s with mod := { s.mod with late := [] } }) ∧
  (∀ s : State, s.epochOf .mod % max 1 (s.regNow .mod 0xA50001) ≠ 0 → exec .suspectEvaluation s = .next s) ∧
  (∀ (s : State) (a : Access) (val : List Byte), dirCheck .mod a 0xA50006 true s = 0 → val.length = 2 → beNat val ≤ 511 →
    ∃ u : State, exec (.clearSuspect a val) s = .next ((u.issueVerdict 8 (beNat val) 0 0).emit (.dir .mod a.ctx stOk [])) ∧
      (∀ n, n ∈ u.mod.ve.suspectMask ↔ n ∈ s.mod.ve.suspectMask ∧ n ≠ beNat val) ∧ u.mod.sh = s.mod.sh ∧ u.ep = s.ep ∧
      u.out = s.out)

/-- Windows (R297, R298): WINDOW_ENTRY_WRITE accepts an entry that meets every condition, WINDOW_START withdraws its engine or
misses it, WINDOW_END returns the unit of a test that passes. Completion, on the conditions of the clauses alone, is stated of
the constructors windowEntryWrite, windowStart, windowEnd. -/
def Obligations.WindowsRunTheirStates : Prop :=
  (∀ (s : State) (p : Part) (a : Access) (val : List Byte) (x : Window) (i : Nat), dirCheck p a (windowKey p) true s = 0 →
    val.length = 16 → windowOf (beNat val) = (x, 0) → i = s.sel p a.ctx (windowKey p - 1) → windowTarget p x = true →
    1 ≤ x.length → x.action = 0 → x.start % 1000 = 0 → s.rackNs p + 100000 ≤ x.start →
    (s.sh p).windows = [] → (x.kind = 0 ∨ x.kind = 3) → s.poolAllows x = true → (s.sh p).mown = [] →
    ∃ u : State, exec (.windowEntryWrite p a val) s = .next u ∧ tabGet (u.sh p).windows i = some x ∧
      (∀ j, j ≠ i → tabGet (u.sh p).windows j = tabGet (s.sh p).windows j) ∧ u.mod.engOut = s.mod.engOut ∧
      u.ep.enginesOut = s.ep.enginesOut ∧ u.out = s.out ++ [.dir p a.ctx stOk []]) ∧
  (∀ (s : State) (i : Nat) (x : Window), tabGet s.mod.sh.windows i = some x → x.state = 1 → x.kind = 0 → x.start ≤ s.rackNs .mod →
    s.rackNs .mod < x.start + x.length * 1000 → (∀ y ∈ s.mod.sh.mown, y.2.names (x.target / 8) = false) →
    ∃ u : State, exec (.windowStart .mod i) s = .next u ∧ tabGet u.mod.sh.windows i = some { x with state := 2 } ∧
      u.mod.engOut = setIns s.mod.engOut x.target ∧ u.mod.tiles = s.mod.tiles ∧ u.ep = s.ep ∧ u.out = s.out) ∧
  (∀ (s : State) (i : Nat) (x : Window), tabGet s.mod.sh.windows i = some x → x.state = 1 → x.kind = 0 → x.start ≤ s.rackNs .mod →
    x.start + x.length * 1000 ≤ s.rackNs .mod →
    ∃ u : State, exec (.windowStart .mod i) s = .next (u.mgCount 10) ∧ tabGet u.mod.sh.windows i = some { x with state := 5 } ∧
      u.mod.engOut = s.mod.engOut ∧ u.ep = s.ep ∧ u.out = s.out) ∧
  (∀ (s : State) (i : Nat) (x : Window), tabGet s.ep.sh.windows i = some x → x.state = 1 → x.kind = 3 → x.start ≤ s.rackNs .ep →
    s.rackNs .ep < x.start + x.length * 1000 →
    ∃ u : State, exec (.windowStart .ep i) s = .next u ∧ tabGet u.ep.sh.windows i = some { x with state := 2 } ∧
      u.ep.enginesOut = setIns s.ep.enginesOut x.target ∧ u.mod = s.mod ∧ u.out = s.out) ∧
  (∀ (s : State) (i : Nat) (x : Window), tabGet s.mod.sh.windows i = some x → x.state = 2 → x.kind = 0 →
    ∃ u : State, exec (.windowEnd .mod i true) s = .next u ∧ tabGet u.mod.sh.windows i = some { x with state := 3 } ∧
      (∀ e, e ∈ u.mod.engOut ↔ e ∈ s.mod.engOut ∧ e ≠ x.target) ∧ u.ep = s.ep ∧ u.out = s.out) ∧
  (∀ (s : State) (i : Nat) (x : Window), tabGet s.mod.sh.windows i = some x → x.state = 2 → x.kind = 0 → x.action = 0 →
    ∃ u : State, exec (.windowEnd .mod i false) s = .next ((u.mgCount 9).report .mod 5 0 s.plane) ∧
      tabGet u.mod.sh.windows i = some { x with state := 4 } ∧ u.mod.engOut = s.mod.engOut ∧ u.ep = s.ep ∧ u.out = s.out) ∧
  (∀ (s : State) (i : Nat) (x : Window), tabGet s.ep.sh.windows i = some x → x.state = 2 → x.kind = 3 →
    ∃ u : State, exec (.windowEnd .ep i true) s = .next u ∧ tabGet u.ep.sh.windows i = some { x with state := 3 } ∧
      (∀ e, e ∈ u.ep.enginesOut ↔ e ∈ s.ep.enginesOut ∧ e ≠ x.target) ∧ u.mod = s.mod ∧ u.out = s.out)

/-- Link-level retry (R207, R208, R234 to R240): FRAME_RECEIVE reads a frame from the blocks of its lanes, accepts the expected
one and acknowledges it, or sends a Nak; ACK and NAK free what they acknowledge; REPLAY_TIMER resends; PORT_TRANSMIT sends the
oldest queued packet with the next sequence, as the blocks of R236. Markers and filler sets that are due leave before them.
Completion, on the conditions of the clauses alone, is stated of the constructors frameReceive, portTransmit, ack, nak,
replayTimer. -/
def Obligations.LinkRetryKeepsTheSequence : Prop :=
  (∀ (s : State) (n : Nat) (r : RawFrame) (sc : FrameScan) (f : LinkFrame), (s.port .ep n).state = 7 → r.errs = [] →
    sc = r.scan (s.port .ep n).indexOf → sc.malformed = 0 → f = sc.frame (s.unwire .ep) → f.errored = false → f.crcOk = true →
    f.dataBlocks = dataBlocks f.frameLen → 48 ≤ f.frameLen → f.frameLen ≤ 4144 → f.ackValid = false →
    f.seq = (s.port .ep n).rxSeq →
    ∃ (u : State) (l : List Out), exec (.frameReceive .ep n r) s = .next u ∧ u.ep.inbox = s.ep.inbox ++ [f.pkt] ∧
      u.port .ep n = { s.port .ep n with rxSeq := ((s.port .ep n).rxSeq + 1) % 65536, nakAt := none } ∧
      (∀ m, m ≠ n → u.port .ep m = s.port .ep m) ∧ u.ep.sh.reqs = s.ep.sh.reqs ∧ u.mod = s.mod ∧
      u.out = s.out ++ l ++ [.ack .ep n f.seq] ∧ ∀ o ∈ l, o.isSet = true) ∧
  (∀ (s : State) (p : Part) (n : Nat) (r : RawFrame) (sc : FrameScan) (f : LinkFrame), (s.port p n).state = 7 → r.errs = [] →
    sc = r.scan (s.port p n).indexOf → sc.malformed = 0 → sc.start.isSome = true ∨ sc.errored = true →
    f = sc.frame (s.unwire p) → (f.errored = true ∨ f.crcOk = false) → (s.port p n).nakAt = none →
    ∃ (u : State) (l : List Out), exec (.frameReceive p n r) s = .next u ∧ u.port p n = { s.port p n with nakAt := some s.ns } ∧
      (∀ m, m ≠ n → u.port p m = s.port p m) ∧ u.ep.inbox = s.ep.inbox ∧
      (u.sh p).ctr = (((s.modPort p n fun q => { q with nakAt := some s.ns }).padSlots p n 1).sh p).ctr ∧
      u.mod.frames = s.mod.frames ∧ u.out = s.out ++ l ++ [.nak p n (s.port p n).rxSeq] ∧ ∀ o ∈ l, o.isSet = true) ∧
  (∀ (s : State) (p : Part) (n : Nat) (r : RawFrame), (s.port p n).state ≠ 7 → exec (.frameReceive p n r) s = .next s) ∧
  (∀ (s : State) (p : Part) (n : Nat) (f : ReplayFrame) (pre post : List ReplayFrame), (s.port p n).state = 7 →
    (s.port p n).replay = pre ++ f :: post → (∀ g ∈ pre, g.seq ≠ f.seq) →
    ∃ u : State, exec (.ack p n f.seq) s = .next u ∧ u.port p n = { s.port p n with replay := post, replays := 0 } ∧
      (∀ m, m ≠ n → u.port p m = s.port p m) ∧ (u.sh p).ctr = (s.sh p).ctr ∧ u.out = s.out) ∧
  (∀ (s : State) (p : Part) (n seq : Nat), (∀ g ∈ (s.port p n).replay, g.seq ≠ seq) → exec (.ack p n seq) s = .next s) ∧
  (∀ (s : State) (p : Part) (n : Nat) (f : ReplayFrame) (pre post : List ReplayFrame), (s.port p n).state = 7 →
    (s.port p n).replay = pre ++ f :: post → (∀ g ∈ pre, g.seq ≠ f.seq) → f.seq ≠ (s.port p n).txSeq →
    ∃ u : State, exec (.nak p n f.seq) s = .next ((u.replayAll p n).partOn p) ∧
      u.port p n = { s.port p n with replay := f :: post, replays := if pre = [] then (s.port p n).replays else 0 } ∧
      (∀ m, m ≠ n → u.port p m = s.port p m) ∧ u.out = s.out) ∧
  (∀ (s : State) (p : Part) (n : Nat), (s.port p n).state = 7 → (s.port p n).replay ≠ [] →
    ∃ u : State, exec (.nak p n (s.port p n).txSeq) s = .next (u.partOn p) ∧
      u.port p n = { s.port p n with replay := [], replays := 0 } ∧ (∀ m, m ≠ n → u.port p m = s.port p m) ∧ u.out = s.out) ∧
  (∀ (s : State) (p : Part) (n seq : Nat), (s.port p n).state = 7 → (∀ g ∈ (s.port p n).replay, g.seq ≠ seq) →
    seq ≠ (s.port p n).txSeq ∨ (s.port p n).replay = [] →
    exec (.nak p n seq) s = .next ((s.portCount p n 7).partOn p)) ∧
  (∀ (s : State) (p : Part) (n : Nat) (f : ReplayFrame) (l : List ReplayFrame), (s.port p n).state = 7 →
    (s.port p n).replay = f :: l → f.sent + (s.port p n).replayTimer ≤ s.ns → (s.port p n).wc = none →
    (s.port p n).retryLimit ≤ (s.port p n).replays → exec (.replayTimer p n) s = .next ((s.goDown p n).partOn p)) ∧
  (∀ (s : State) (p : Part) (n : Nat) (f : ReplayFrame), (s.port p n).state = 7 → (s.port p n).replay = [f] →
    f.sent + (s.port p n).replayTimer ≤ s.ns → (s.port p n).wc = none → (s.port p n).replays < (s.port p n).retryLimit →
    ∃ (u : State) (l : List Out) (fr : RawFrame), exec (.replayTimer p n) s = .next (u.partOn p) ∧
      u.port p n = { s.port p n with replays := (s.port p n).replays + 1, replay := [{ f with sent := s.ns }] } ∧
      u.out = s.out ++ l ++ [.frame p n fr] ∧ (∀ o ∈ l, o.isSet = true) ∧
      fr.blocks.map (fun b => b.block) = frameBlocks f.seq none (s.wire p f.pkt)) ∧
  (∀ (s : State) (n : Nat) (k : Packet) (rest : List Packet), (s.port .ep n).state = 7 → s.txDue .ep n = false →
    (s.port .ep n).wc = none → (s.port .ep n).queue = k :: rest → (s.port .ep n).room k.wireLen = true →
    ∃ (u : State) (l : List Out) (fr : RawFrame), exec (.portTransmit .ep n) s = .next (u.partOn .ep) ∧ (u.port .ep n).queue = rest ∧
      (u.port .ep n).txSeq = ((s.port .ep n).txSeq + 1) % 65536 ∧
      (u.port .ep n).replay = (s.port .ep n).replay ++
        [{ seq := (s.port .ep n).txSeq, charge := ceil64 k.wireLen, pkt := k, sent := s.ns }] ∧
      (∀ m, m ≠ n → u.port .ep m = s.port .ep m) ∧ u.mod = s.mod ∧
      u.out = s.out ++ l ++ [.frame .ep n fr] ∧ (∀ o ∈ l, o.isSet = true) ∧
      fr.blocks.map (fun b => b.block) = frameBlocks (s.port .ep n).txSeq none (s.wire .ep k))


/-- Bring-up (R242 to R247): TRAINING_FRAME, DETECT_BURST, COUNTDOWN_END, BLOCK_LOCK and ALIGNMENT_MARKER take lanes and ports
through their states, CAPABILITY_BLOCK makes a port Active, TRAINING_TIMEOUT returns it to Detect, RETRAIN_BACKOFF_END starts
Train. Completion, on the conditions of the clauses alone, is stated of the constructors trainingFrame, detectBurst,
countdownEnd, blockLock, alignmentMarker, capabilityBlock, trainingTimeout, retrainBackoffEnd. -/
def Obligations.PortsTrain : Prop :=
  (∀ (s : State) (p : Part) (l word crc errors : Nat) (adapted : Bool) (x y : Lane), x = s.lane p l → x.state = 1 →
    s.mayTrain p (s.portOfLane p l) = true → s.laneOut p l = false → x.count = none → (s.port p (s.portOfLane p l)).state = 1 →
    (∃ m ∈ s.portLanes p (s.portOfLane p l), m ≠ l ∧ (s.lane p m).found < 8) →
    y = (x.train (trainWordOf word (crc == crc16 (beBytes 8 word))) adapted errors).countDown →
    ∃ u : State, exec (.trainingFrame p l word crc adapted errors) s = .next u ∧ u.lane p l = y ∧
      y.found = min 8 (x.found + 1) ∧ y.ready = (x.ready || adapted) ∧ (crc ≠ crc16 (beBytes 8 word) → y.taps = x.taps) ∧
      (∀ m, m ≠ l → u.lane p m = s.lane p m) ∧ (∀ n, u.port p n = s.port p n) ∧
      u.out = s.out ++ [.training p l (y.word.bits_ (l - 4 * s.portOfLane p l)) 1]) ∧
  (∀ (s : State) (p : Part) (l word crc errors : Nat) (adapted : Bool), (s.lane p l).state = 0 →
    exec (.trainingFrame p l word crc adapted errors) s = .next s) ∧
  (∀ (s : State) (p : Part) (l : Nat), (s.lane p l).state = 1 → s.mayTrain p (s.portOfLane p l) = true → s.laneOut p l = false →
    ((s.lane p l).burst = false ∨ (s.lane p l).since + 1000000 ≤ s.ns) →
    ∃ u : State, exec (.detectBurst p l) s = .next u ∧ u.lane p l = { s.lane p l with burst := true, since := s.ns } ∧
      (∀ m, m ≠ l → u.lane p m = s.lane p m) ∧ (∀ n, u.port p n = s.port p n) ∧
      u.out = s.out ++ [.training p l ((s.lane p l).word.bits_ (l - 4 * s.portOfLane p l)) 64]) ∧
  (∀ (s : State) (p : Part) (l : Nat), (s.lane p l).state = 3 → (s.lane p l).count = some 0 →
    ∃ u : State, exec (.countdownEnd p l) s = .next u ∧ u.lane p l = { s.lane p l with state := 4, since := s.ns } ∧
      (∀ m, m ≠ l → u.lane p m = s.lane p m) ∧ u.out = s.out ++ [.codewords p l]) ∧
  (∀ (s : State) (p : Part) (l : Nat), (s.lane p l).state = 3 → (s.lane p l).count = some 0 →
    (s.port p (s.portOfLane p l)).state = 3 → (∀ m ∈ s.portLanes p (s.portOfLane p l), m ≠ l → (s.lane p m).state = 4) →
    ∃ u : State, exec (.countdownEnd p l) s = .next u ∧ (u.port p (s.portOfLane p l)).state = 4 ∧
      (u.txPort p (s.portOfLane p l)).start = s.clock ∧ (u.txPort p (s.portOfLane p l)).marks = 0) ∧
  (∀ (s : State) (p : Part) (l : Nat) (x : Lane), x = s.lane p l → 4 ≤ x.state → x.state ≠ 8 → x.peerDone = true →
    (s.port p (s.portOfLane p l)).state ≠ 4 → (s.port p (s.portOfLane p l)).state ≠ 7 → x.blockLock = false → x.hunt = 63 →
    ∃ u : State, exec (.blockLock p l [1]) s = .next u ∧
      u.lane p l = { x with blockLock := true, hunt := 0, seen := 0, invalid := [] } ∧ (∀ m, m ≠ l → u.lane p m = s.lane p m) ∧
      (∀ n, u.port p n = s.port p n) ∧ u.out = s.out) ∧
  (∀ (s : State) (p : Part) (l : Nat) (x : Lane), x = s.lane p l → 4 ≤ x.state → x.state ≠ 8 → x.peerDone = true →
    (s.port p (s.portOfLane p l)).state ≠ 4 → x.blockLock = true → x.invalid.length = 15 →
    (∀ i ∈ x.invalid, x.seen < i + 1024) →
    ∃ u : State, exec (.blockLock p l [0]) s = .next u ∧
      u.lane p l = { x with blockLock := false, lostAt := s.ns, hunt := 0, invalid := [] } ∧
      (∀ m, m ≠ l → u.lane p m = s.lane p m) ∧ (∀ n, u.port p n = s.port p n) ∧ u.out = s.out) ∧
  (∀ (s : State) (p : Part) (n : Nat) (m : MarkRx), (s.port p n).state = 7 → m.wellFormed = true →
    (s.lane p (4 * n + m.lane)).blockLock = true → m.bip = m.parity → bit (s.port p n).lanes m.index = false →
    ∃ u : State, exec (.alignmentMarker p n [m]) s = .next (u.partOn p) ∧
      u.port p n = { s.port p n with place := tabSet (s.port p n).place m.lane m.index, marker := m.count } ∧
      (∀ k, k ≠ n → u.port p k = s.port p k) ∧ (∀ k, u.lane p k = s.lane p k) ∧ u.out = s.out) ∧
  (∀ (s : State) (p : Part) (n set : Nat) (marks : List MarkRx), (s.port p n).state = 5 →
    (∀ m ∈ marks, m.wellFormed = true ∧ (s.lane p (4 * n + m.lane)).blockLock = true) → marks ≠ [] → alignedMarks marks = marks →
    set = marks.foldl (fun a m => a ||| 2 ^ m.index) 0 → set &&& widthMask (s.cfgWidth p n) = widthMask (s.cfgWidth p n) →
    ∃ (u : State) (c : Capability) (l : List Out), exec (.alignmentMarker p n marks) s = .next (u.partOn p) ∧
      (u.port p n).state = 6 ∧ (u.port p n).lanes = widthMask (s.cfgWidth p n) ∧ (u.port p n).peer = none ∧
      u.out = s.out ++ l ++ [.capability p n c] ∧ ∀ o ∈ l, o.isSet = true) ∧
  (∀ (s : State) (p : Part) (n : Nat) (c : Capability), (s.port p n).state = 6 → (s.port p n).peer = none →
    s.capDue p n = false →
    ∃ u : State, exec (.capabilityBlock p n c) s = .next (u.partOn p) ∧
      u.port p n = { s.port p n with peer := some c, capCount := 1 } ∧ (∀ m, m ≠ n → u.port p m = s.port p m) ∧ u.out = s.out) ∧
  (∀ (s : State) (p : Part) (n : Nat) (c : Capability), (s.port p n).state = 6 → (s.port p n).peer = none →
    s.capDue p n = true →
    ∃ (u : State) (x : Capability) (l : List Out), exec (.capabilityBlock p n c) s = .next (u.partOn p) ∧
      u.port p n = { s.port p n with peer := some c, capCount := 1, capAt := some s.ns, capAcc := false } ∧
      (∀ m, m ≠ n → u.port p m = s.port p m) ∧ x.seen = false ∧ x.accepted = false ∧
      u.out = s.out ++ l ++ [.capability p n x] ∧ ∀ o ∈ l, o.isSet = true) ∧
  (∀ (s : State) (p : Part) (n : Nat) (c : Capability), (s.port p n).state = 6 → (s.port p n).peer = some c →
    (s.port p n).capCount = 2 → s.coordsSet p = true → s.peerOk p n c = true → c.accepted = true → (s.port p n).capAcc = true →
    s.capDue p n = false →
    ∃ u : State, exec (.capabilityBlock p n c) s = .next ((u.toActive p n c).partOn p) ∧
      u.port p n = { s.port p n with peer := some c, capCount := 3 } ∧ u.out = s.out ∧
      ((u.toActive .mod n c).port .mod n).state = 7) ∧
  (∀ (s : State) (p : Part) (n : Nat), (s.port p n).state = 2 → (s.port p n).since + 50000000 ≤ s.ns →
    exec (.trainingTimeout p n) s = .next (((s.portCount p n 8).toDetect p n).partOn p)) ∧
  (∀ (s : State) (p : Part) (n : Nat), (s.port p n).state = 1 → (s.port p n).downSince + s.reg p 0x420005 * 1000 ≤ s.ns →
    (∀ l ∈ s.portLanes p n, 8 ≤ (s.lane p l).found) →
    ∃ u : State, exec (.retrainBackoffEnd p n) s = .next u ∧ (u.port p n).state = 2 ∧ (u.port p n).since = s.ns ∧
      (∀ l ∈ s.portLanes p n, (u.lane p l).state = 2) ∧ (∀ m, m ≠ n → u.port p m = s.port p m) ∧ u.out = s.out)

/-- Width, lane failure and port down (R231, R250 to R254): WIDTH_CHANGE agrees a set, WIDTH_SWITCH takes it at its marker,
LANE_RESTORE, LANE_FAILURE, PORT_DOWN, PORT_ROLE_WRITE and the eye scan. Completion, on the conditions of the clauses alone,
is stated of the constructors widthChange, widthSwitch, laneRestore, laneFailure, portDown, portRoleWrite, eyeScanStart,
eyeScanComplete. -/
def Obligations.PortsChangeWidthAndFail : Prop :=
  (∀ (s : State) (p : Part) (n : Nat) (b : WidthBlock) (w : WidthState), (s.port p n).state = 7 → (s.port p n).wc = some w →
    w.peer ≠ some b.proposed → widest (s.cfgWidth p n) (w.mine &&& b.proposed) ≠ 0 →
    ∃ (u : State) (x : WidthState) (l : List Out), exec (.widthChange p n b) s = .next u ∧ (u.port p n).wc = some x ∧
      x.mine = w.mine ∧ x.peer = some b.proposed ∧ x.agreed = widest (s.cfgWidth p n) (w.mine &&& b.proposed) ∧
      x.txAfter = some ((s.markNow p n + 2) % 65536) ∧ (b.ack = true → x.rxAfter = some b.switchAfter) ∧
      (u.port p n).lanes = (s.port p n).lanes ∧ (∀ m, m ≠ n → u.port p m = s.port p m) ∧
      u.out = s.out ++ l ++ [.width p n (widthBlock x)] ∧ ∀ o ∈ l, o.isSet = true) ∧
  (∀ (s : State) (p : Part) (n : Nat) (b : WidthBlock) (w : WidthState), (s.port p n).state = 7 → (s.port p n).wc = some w →
    w.peer = some b.proposed → widest (s.cfgWidth p n) (w.mine &&& b.proposed) ≠ 0 →
    ∃ u : State, exec (.widthChange p n b) s = .next u ∧
      u.port p n = { s.port p n with wc := some { w with rxAfter := if b.ack then some b.switchAfter else w.rxAfter } } ∧
      (∀ m, m ≠ n → u.port p m = s.port p m) ∧ u.out = s.out) ∧
  (∀ (s : State) (p : Part) (n : Nat) (b : WidthBlock) (w : WidthState), (s.port p n).state = 7 → (s.port p n).wc = some w →
    widest (s.cfgWidth p n) (w.mine &&& b.proposed) = 0 → exec (.widthChange p n b) s = .next (s.goDown p n)) ∧
  (∀ (s : State) (p : Part) (n count t : Nat) (w : WidthState), (s.port p n).wc = some w → w.txAfter = some t →
    (65536 + count - t) % 65536 < 32768 → w.txDone = false → w.rxDone = false → (s.port p n).replay = [] →
    ∃ u : State, exec (.widthSwitch p n false count) s = .next u ∧
      u.port p n = { s.port p n with wc := some { w with txDone := true } } ∧ u.txLanes p n = bitsSet 8 w.agreed ∧
      (∀ m, m ≠ n → u.port p m = s.port p m) ∧ u.out = s.out) ∧
  (∀ (s : State) (n count t : Nat) (w : WidthState), (s.port .mod n).wc = some w → w.rxAfter = some t →
    (65536 + count - t) % 65536 < 32768 → w.txDone = true →
    ∃ u : State, exec (.widthSwitch .mod n true count) s = .next u ∧ (u.port .mod n).wc = none ∧ (u.port .mod n).lanes = w.agreed ∧
      (u.port .mod n).width = maskWidth w.agreed ∧ u.ep = s.ep ∧ u.out = s.out) ∧
  (∀ (s : State) (l : Nat), (s.port .ep (s.portOfLane .ep l)).state = 7 → (s.port .ep (s.portOfLane .ep l)).wc = none →
    (s.lane .ep l).state = 6 → (s.lane .ep l).blockLock = true → s.laneOut .ep l = false →
    ∃ (u : State) (x : WidthState) (o : List Out), exec (.laneRestore .ep l) s = .next u ∧
      (u.port .ep (s.portOfLane .ep l)).wc = some x ∧ x.reason = 2 ∧ x.peer = none ∧
      x.mine = (s.port .ep (s.portOfLane .ep l)).lanes ||| s.sound .ep (s.portOfLane .ep l) ∧
      (u.port .ep (s.portOfLane .ep l)).lanes = (s.port .ep (s.portOfLane .ep l)).lanes ∧
      (∀ m, m ≠ s.portOfLane .ep l → u.port .ep m = s.port .ep m) ∧ (∀ m, u.lane .ep m = s.lane .ep m) ∧ u.mod = s.mod ∧
      u.out = s.out ++ o ++ [.width .ep (s.portOfLane .ep l) (widthBlock x)] ∧ ∀ e ∈ o, e.isSet = true) ∧
  (∀ (s : State) (p : Part) (l : Nat), (s.lane p l).state ≠ 0 → (s.port p (s.portOfLane p l)).state ≠ 7 →
    ∃ u : State, exec (.laneFailure p l 0 false) s = .next (u.partOn p) ∧ u.lane p l = (s.lane p l).restart 8 s.ns ∧
      (∀ m, m ≠ l → u.lane p m = s.lane p m) ∧ (∀ n, u.port p n = s.port p n) ∧ u.out = s.out) ∧
  (∀ (s : State) (p : Part) (l : Nat), (s.lane p l).state ≠ 0 → (s.port p (s.portOfLane p l)).state = 7 →
    bit (s.port p (s.portOfLane p l)).lanes ((s.port p (s.portOfLane p l)).indexOf (l - 4 * s.portOfLane p l)) = true →
    (s.sh p).reg 0x410007 (s.portOfLane p l) = 0 →
    ∃ u : State, exec (.laneFailure p l 0 false) s = .next ((u.goDown p (s.portOfLane p l)).partOn p) ∧
      u.lane p l = (s.lane p l).restart 8 s.ns ∧ (∀ n, u.port p n = s.port p n) ∧ u.out = s.out) ∧
  (∀ (s : State) (p : Part) (n : Nat) (w : WidthState), (s.port p n).wc = some w → w.since + 5 * markerPeriod ≤ s.ns →
    exec (.portDown p n 3) s = .next ((s.goDown p n).partOn p)) ∧
  (∀ (s : State) (p : Part) (n : Nat), (s.port p n).wc = none → exec (.portDown p n 3) s = .next (s.partOn p)) ∧
  (∀ (s : State) (a : Access) (val : List Byte), dirCheck .mod a 0x500002 true s = 0 → val.length = 64 →
    (∀ n < 256, leNat val / 4 ^ n % 4 ≠ 3) → (∀ q ∈ s.mod.sh.ports, q.2.state ≠ 7) →
    ∃ u : State, exec (.portRoleWrite a val) s =
        .next ((if s.mod.ve.fenced then u else u.rolesApply).emit (.dir .mod a.ctx stOk [])).modOn ∧
      u.reg .mod 0x500002 = leNat val ∧ u.mod.sh.ports = s.mod.sh.ports ∧ u.ep = s.ep ∧ u.out = s.out) ∧
  (∀ (s : State) (a : Access) (val : List Byte) (q : Nat × Port), dirCheck .mod a 0x500002 true s = 0 → val.length = 64 →
    (∀ n < 256, leNat val / 4 ^ n % 4 ≠ 3) → q ∈ s.mod.sh.ports → q.2.state = 7 →
    exec (.portRoleWrite a val) s = .next (s.emit (.dir .mod a.ctx stBusy [])).modOn) ∧
  (∀ (s : State) (p : Part) (a : Access) (l : Nat), dirCheck p a 0x430005 true s = 0 → l = s.sel p a.ctx 0x430001 →
    ¬ ((s.port p (s.portOfLane p l)).state = 7 ∧
      bit (s.port p (s.portOfLane p l)).lanes ((s.port p (s.portOfLane p l)).indexOf (l - 4 * s.portOfLane p l)) = true) →
    ∃ u : State, exec (.eyeScanStart p a [1#8]) s = .next u ∧ u.lane p l = { s.lane p l with scanning := true } ∧
      (∀ m, m ≠ l → u.lane p m = s.lane p m) ∧ (∀ n, u.port p n = s.port p n) ∧ u.out = s.out ++ [.dir p a.ctx stOk []]) ∧
  (∀ (s : State) (p : Part) (l : Nat) (grid : List Byte), (s.lane p l).scanning = true → grid.length = 1024 →
    ∃ u : State, exec (.eyeScanComplete p l grid) s = .next u ∧
      u.lane p l = { s.lane p l with scanning := false, scan := sliceBytes grid 0 1024 } ∧
      (∀ m, m ≠ l → u.lane p m = s.lane p m) ∧ (∀ n, u.port p n = s.port p n) ∧ u.out = s.out)


/-- The Sward (R209 to R212, R215 to R219, R226): MESH_HEADER_ARRIVAL decides or discards the frame at a router input, MESH_INJECT
injects, SPILL and READ_BACK move a frame to the Commons and back, COMMONS_MEMORY_RESPONSE answers. Completion, on the
conditions of the clauses alone, is stated of the constructors meshHeaderArrival, meshInject, spill, readBack,
commonsMemoryResponse. -/
def Obligations.FramesCrossTheMesh : Prop :=
  (∀ (s : State) (tile plane : Nat) (lost : List Nat),
    (s.mod.frames.filter fun f => f.place == 3 && f.tile == tile && f.mplane == plane) = [] →
    exec (.meshHeaderArrival tile plane lost) s = .next s) ∧
  (∀ (s : State) (tile plane : Nat) (lost : List Nat) (f : MFrame),
    (s.mod.frames.filter fun f => f.place == 3 && f.tile == tile && f.mplane == plane) = [f] → f.id ∈ lost → f.unit < 4 →
    ∃ u : State, exec (.meshHeaderArrival tile plane lost) s = .next u ∧
      u.mod.frames = delFirst (fun x => x.id == f.id) s.mod.frames ∧ u.mod.sh = s.mod.sh ∧ u.ep = s.ep ∧ u.out = s.out) ∧
  (∀ (s : State) (tile plane : Nat) (f : MFrame),
    (s.mod.frames.filter fun f => f.place == 3 && f.tile == tile && f.mplane == plane) = [f] →
    exec (.meshHeaderArrival tile plane []) s = .next (if s.badHeader f then (s.meshSlots f true).dropFrame f 6
      else if s.checkPoint f = none then (s.meshSlots f false).decideOut f
      else (s.meshSlots f true).dropFrame f ((s.checkPoint f).getD 0))) ∧
  (∀ (s : State) (tile : Nat), s.injectNext tile = none → exec (.meshInject tile) s = .next s) ∧
  (∀ (s : State) (tile p o n : Nat) (f : MFrame), s.injectNext tile = some (f, none) → f.dtile ≠ f.tile → s.injectAt f = some (p, o) →
    neighbour f.tile o = some n → (tabGet f.stages 1).isSome = true →
    ∃ u : State, exec (.meshInject tile) s = .next u ∧
      u.mod.frames = delFirst (fun x => x.id == f.id) s.mod.frames ++ [{ f with mplane := p, tile := n, place := 3, dir := (o + 2) % 4 }] ∧
      u.mod.sh = s.mod.sh ∧ u.ep = s.ep ∧ u.out = s.out) ∧
  (∀ (s : State) (t : Nat), s.regNow .mod 0x510005 ≤ s.freeCells t → (s.tile t).spilling = false →
    ∃ u : State, exec (.spill t) s = .next u ∧ u.tile t = s.tile t ∧ u.mod.frames = s.mod.frames ∧ u.mod.mem = s.mod.mem ∧
      u.ep = s.ep ∧ u.out = s.out) ∧
  (∀ (s : State) (t : Nat) (f : MFrame), s.freeCells t < s.regNow .mod 0x510005 → s.mayTakePages t 1 = true →
    s.outQueue t 0 = [f] → s.outQueue t 1 = [] → s.outQueue t 2 = [] → s.outQueue t 3 = [] →
    ∃ u : State, exec (.spill t) s = .next u ∧
      u.mod.frames = delFirst (fun x => x.id == f.id) s.mod.frames ++ [MFrame.mark { f with place := 4, spilled := true } 3 s.ns] ∧
      u.ep = s.ep ∧ u.out = s.out) ∧
  (∀ (s : State) (t : Nat) (f : MFrame) (l : List MFrame), s.regNow .mod 0x510006 < s.freeCells t →
    s.inOrder (s.mod.frames.filter fun f => f.place == 4 && f.tile == t) = f :: l → s.checkPoint f = none →
    s.pagesOf (.frame f.id) ≠ 0 → (f.unit < 4 → s.mod.sh.portActive (firstPort f.dtile + f.unit) = true) →
    ∃ u : State, exec (.readBack t true) s = .next u ∧
      u.mod.frames = delFirst (fun x => x.id == f.id) s.mod.frames ++ [MFrame.mark { f with place := 0 } 4 s.ns] ∧
      u.ep = s.ep ∧ u.out = s.out) ∧
  (∀ (s : State) (t : Nat) (f : MFrame) (l : List MFrame), s.regNow .mod 0x510006 < s.freeCells t →
    s.inOrder (s.mod.frames.filter fun f => f.place == 4 && f.tile == t) = f :: l →
    exec (.readBack t false) s = .next (s.dropFrame f 15)) ∧
  (∀ (s : State) (id code : Nat) (g : InProg) (data : List Byte), (s.mod.sh.recv.inprog.find? fun g => g.id == id && g.stage != 3) = some g →
    g.result = some (code, data) → code ≠ cTorn → code ≠ cPoison →
    exec (.commonsMemoryResponse id) s = .next (s.finishProg .mod id code data).regionsOn) ∧
  (∀ (s : State) (id : Nat) (g : InProg), (s.mod.sh.recv.inprog.find? fun g => g.id == id && g.stage != 3) = some g → g.result = none →
    exec (.commonsMemoryResponse id) s = .next s)


/-- Slices and the audit (R224, R225, R230): SLICE_ENTRY_WRITE creates a slice, SLICE_REVOKE tears it, TILE_SWEEP and
SLICE_DRAINED take it to Drained; EPOCH_AUDIT sets every tile's counters from its map. Completion, on the conditions of the
clauses alone, is stated of the constructors sliceEntryWrite, sliceRevoke, tileSweep, sliceDrained, epochAudit. -/
def Obligations.SlicesAndAudit : Prop :=
  (∀ (s : State) (a : Access) (val : List Byte) (job : Nat), dirCheck .mod a 0x550002 true s = 0 → val.length = 80 →
    job = s.sel .mod a.ctx 0x550001 → bits (beNat val) 602 512 = 0 → bit (beNat val) 639 = true →
    bits (beNat val) 634 619 = job → tabGet s.mod.slices job = none → s.mod.slices.length < 4096 →
    ∃ u : State, ∃ e, exec (.sliceEntryWrite a val) s = .next u ∧ tabGet u.mod.slices job = some e ∧ e.v = true ∧ e.state = 1 ∧ e.job = job ∧
      e.rackMask = bits (beNat val) 618 603 ∧ e.nodes = bits (beNat val) 511 0 ∧ e.commons = bit (beNat val) 635 ∧
      (∀ j, j ≠ job → tabGet u.mod.slices j = tabGet s.mod.slices j) ∧ u.mod.frames = s.mod.frames ∧ u.ep = s.ep ∧
      u.out = s.out ++ [.dir .mod a.ctx stOk []]) ∧
  (∀ (s : State) (a : Access) (val : List Byte), dirCheck .mod a 0x550004 true s = 0 → val.length = 2 →
    s.hasSlice (beNat val) = true →
    ∃ u : State, tabGet u.mod.slices (beNat val) = (tabGet s.mod.slices (beNat val)).map (fun e =>
        { e with state := 2, revokedAt := s.ns, swept := [] }) ∧
      (∀ j, j ≠ beNat val → tabGet u.mod.slices j = tabGet s.mod.slices j) ∧ u.mod.groups = s.mod.groups ∧
      u.mod.regions = s.mod.regions ∧ u.mod.frames = s.mod.frames ∧ u.mod.mem = s.mod.mem ∧ u.ep = s.ep ∧ u.out = s.out ∧
      exec (.sliceRevoke a val) s = .next ((((((u.collsTorn (beNat val)).tornHeld .mod (beNat val)).regionsTorn (beNat val)).qpsTorn
        (beNat val)).emit (.dir .mod a.ctx stOk [])).modOn)) ∧
  (∀ (s : State) (a : Access) (val : List Byte), dirCheck .mod a 0x550004 true s = 0 → val.length = 2 →
    s.hasSlice (beNat val) = false → exec (.sliceRevoke a val) s = .next (s.emit (.dir .mod a.ctx stRange [])).modOn) ∧
  (∀ (s : State) (tile job : Nat) (e : Slice), tabGet s.mod.slices job = some e → e.state = 2 →
    (∀ f ∈ s.mod.frames, f.tile = tile → f.pkt.job ≠ job) →
    ∃ u : State, exec (.tileSweep tile job) s = .next u ∧ tabGet u.mod.slices job = some { e with swept := setIns e.swept tile } ∧
      (∀ j, j ≠ job → tabGet u.mod.slices j = tabGet s.mod.slices j) ∧ u.mod.frames = s.mod.frames ∧ u.mod.sh = s.mod.sh ∧
      u.ep = s.ep ∧ u.out = s.out) ∧
  (∀ (s : State) (job : Nat) (e : Slice), tabGet s.mod.slices job = some e → e.state = 2 → (∀ t < 64, t ∈ e.swept) →
    e.revokedAt + s.regNow .mod 0x510008 * 1000 ≤ s.ns →
    ∃ u : State, exec (.sliceDrained job) s = .next u ∧ tabGet u.mod.slices job = some { e with state := 3 } ∧
      (∀ j, j ≠ job → tabGet u.mod.slices j = tabGet s.mod.slices j) ∧ u.mod.frames = s.mod.frames ∧ u.mod.sh = s.mod.sh ∧
      u.ep = s.ep ∧ u.out = s.out) ∧
  (∀ (s : State) (job : Nat) (e : Slice), tabGet s.mod.slices job = some e → (∃ t < 64, t ∉ e.swept) →
    exec (.sliceDrained job) s = .next s) ∧
  (∀ s : State, (∀ t < 64, (s.tile t).auditRun + 1 < s.regNow .mod 0xA60003) →
    ∃ u : State, exec (.epochAudit .mod) s = .next u ∧
      (∀ t < 64, ((u.tile t).frameUsed, (u.tile t).parkUsed, (u.tile t).windUsed) = s.tileMap t ∧
        (u.tile t).inService = (s.tile t).inService) ∧
      u.mod.frames = s.mod.frames ∧ u.mod.groups = s.mod.groups ∧ u.mod.mem = s.mod.mem ∧ u.ep = s.ep ∧ u.out = s.out) ∧
  (∀ s : State, (∀ q ∈ s.ep.sh.pairs, q.charged = 0) → 0 < s.reg .ep 0xA60003 →
    exec (.epochAudit .ep) s = .next { s with ep := { s.ep with auditRun := 0 } })

/-- Requests of the accelerator (R33, R63, R67, R100 to R105): a message that brings its credits and passes its checks is taken at
once, its credits go back, and a load, store or atomic enters the outstanding table, a fence holds its agent, a Cache
invalidate raises the slot's near-cache generation, and a Directory request is answered. Completion, on the conditions of the
clauses alone, is stated of the constructors eriLoad, eriStore, eriAtomic, eriFence, fenceComplete, eriCacheInvalidate,
eriDirectoryRequest. -/
def Obligations.AcceleratorRequestsAreTaken : Prop :=
  (∀ (s : State) (l : Nat) (m : Eri) (ecc : List Nat) (n : Nat) (c : Instr), s.eriPasses l m → eriFormOk m = true → s.jobSlot m.job = .inl n →
    (c = .eriLoad l m ecc ∧ m.kind = 0x01 ∨ c = .eriStore l m ∧ m.kind = 0x02 ∧ ecc = [] ∨
      c = .eriAtomic l m ∧ m.kind = 0x03 ∧ ecc = []) →
    ∃ r : Req, ∃ L, sameTab L s.ep.links ∧ r.id = s.ep.sh.nextReq ∧ r.order = s.ep.sh.nextReq ∧ r.agent = m.agent ∧ r.tag = m.tag ∧
      r.link = l ∧ r.slot = n ∧ r.vfa = m.addr ∧ r.st = .walking ∧ r.rel = scopeOf m.rel ∧ r.acq = scopeOf m.acq ∧
      r.pkt = eriPacket m ∧ r.sends = 0 ∧ r.ecc = ecc ∧
      exec c s = .next ((((({ s with ep := { s.ep with
          links := L, tags := s.ep.tags ++ [(m.agent, m.tag)],
          sh := { s.ep.sh with reqs := s.ep.sh.reqs ++ [r], nextReq := s.ep.sh.nextReq + 1 } } } : State).emit
        (.eri l (creditFor 0 m.units))).translate s.ep.sh.nextReq).tryIssue s.ep.sh.nextReq).epOn)) ∧
  (∀ (s : State) (l : Nat) (m : Eri), s.eriPasses l m → m.kind = 0x04 → m.rel ≠ 0 → m.body = [] →
    ∃ f : Fence, ∃ L, sameTab L s.ep.links ∧ f.order = s.ep.sh.nextReq ∧ f.agent = m.agent ∧ f.tag = m.tag ∧ f.job = m.job ∧
      f.link = l ∧ f.rack = decide (2 ≤ m.rel) ∧
      exec (.eriFence l m) s = .next (((({ s with ep := { s.ep with
          links := L, tags := s.ep.tags ++ [(m.agent, m.tag)], fences := s.ep.fences ++ [f],
          sh := { s.ep.sh with nextReq := s.ep.sh.nextReq + 1 } } } : State).emit
        (.eri l (creditFor 0 m.units))).fenceComplete s.ep.sh.nextReq).epOn)) ∧
  (∀ (s : State) (id : Nat) (f : Fence), s.ep.fences.find? (fun f => f.order == id) = some f → s.fenceReady f = true →
    exec (.fenceComplete id) s = .next ((({ s with ep := { s.ep with
        fences := delFirst (fun g => g.order == id) s.ep.fences } } : State).endTag f.link f.agent f.tag f.job cDone []).epOn)) ∧
  (∀ (s : State) (l : Nat) (m : Eri) (n : Nat) (x : Slot), s.eriPasses l m → m.kind = 0x05 → s.ep.slotOf m.job = some (n, x) →
    ∃ L, sameTab L s.ep.links ∧
      exec (.eriCacheInvalidate l m) s = .next (((({ s with ep := { s.ep with
          links := L, slots := tabMod s.ep.slots n fun x => { x with cacheGen := x.cacheGen + 1 } } } : State).emit
        (.eri l (creditFor 0 m.units))).sendComp l (completionMsg m.agent m.tag m.job cDone false [])).epOn)) ∧
  (∀ (s : State) (l : Nat) (m : Eri), s.eriTakes l m → m.kind = 0x06 → badJob m = false →
    ∃ u : State, ∃ L, sameTab L s.ep.links ∧
      u = ({ s with ep := { s.ep with links := L } } : State).emit (.eri l (creditFor 0 m.units)) ∧
      exec (.eriDirectoryRequest l m) s = .next (((u.eriDirRun m).1.sendComp l { Eri.zero with
        kind := 0x24, agent := m.agent, tag := m.tag, len := (u.eriDirRun m).2.2.length, aux := (u.eriDirRun m).2.1 * 2 ^ 48,
        body := (u.eriDirRun m).2.2 }).epOn))

/-- Accelerator requests that fail their checks complete at once with the code of R6, R9, R33, R54, R103, R116 or R290: a bad form,
an outstanding pair, a part without a bundle or declared dead, a Job ID that carries no user traffic or that no slot serves. A message
without credits is discarded (R102). -/
def Obligations.AcceleratorRequestsAreRefused : Prop :=
  (∀ (s : State) (l kd : Nat) (m : Eri) (ecc : List Nat) (c : Instr),
    (c = .eriLoad l m ecc ∧ kd = 0x01 ∨ c = .eriStore l m ∧ kd = 0x02 ∨ c = .eriAtomic l m ∧ kd = 0x03 ∨
      c = .eriFence l m ∧ kd = 0x04 ∨ c = .eriCacheInvalidate l m ∧ kd = 0x05 ∨ c = .eriDirectoryRequest l m ∧ kd = 0x06 ∨
      c = .eriCopy l m ∧ kd = 0x08 ∨ c = .listArm l m ∧ kd = 0x09 ∨ c = .listCancel l m ∧ kd = 0x0A ∨
      c = .collectiveStart l m ∧ kd = 0x0C) →
    s.eriBrings l m →
    ∃ u : State, ∃ L, sameTab L s.ep.links ∧
      u = ({ s with ep := { s.ep with links := L } } : State).emit (.eri l (creditFor 0 m.units)) ∧
      (eriFormBad kd m = true → exec c s =
        .next (((u.epCount 0).sendComp l (completionMsg m.agent m.tag m.job cDenied false [])).epOn)) ∧
      (eriFormBad kd m = false → s.pairOut m = true → exec c s =
        .next (((u.epCount 19).sendComp l (completionMsg m.agent m.tag m.job cDenied true [])).epOn))) ∧
  (∀ (s : State) (l : Nat) (m : Eri) (ecc : List Nat) (c : Instr),
    (c = .eriLoad l m ecc ∧ m.kind = 0x01 ∨ c = .eriStore l m ∧ m.kind = 0x02 ∨ c = .eriAtomic l m ∧ m.kind = 0x03 ∨
      c = .eriFence l m ∧ m.kind = 0x04 ∨ c = .eriCacheInvalidate l m ∧ m.kind = 0x05 ∨
      c = .eriCopy l m ∧ m.kind = 0x08 ∨ c = .listArm l m ∧ m.kind = 0x09 ∨ c = .listCancel l m ∧ m.kind = 0x0A ∨
      c = .collectiveStart l m ∧ m.kind = 0x0C) →
    s.eriTakes l m →
    ∃ u : State, ∃ L, sameTab L s.ep.links ∧
      u = ({ s with ep := { s.ep with links := L } } : State).emit (.eri l (creditFor 0 m.units)) ∧
      (s.ep.sh.rot.boot ≠ 1 → exec c s = .next ((u.sendComp l (completionMsg m.agent m.tag m.job cDenied false [])).epOn)) ∧
      (s.ep.sh.rot.boot = 1 → s.ep.selfDead = true → exec c s =
        .next ((u.sendComp l (completionMsg m.agent m.tag m.job cPoison false [])).epOn)) ∧
      (s.ep.sh.rot.boot = 1 → s.ep.selfDead = false → badJob m = true → exec c s =
        .next ((u.sendComp l (completionMsg m.agent m.tag m.job cDenied false [])).epOn))) ∧
  (∀ (s : State) (l : Nat) (m : Eri) (ecc : List Nat) (c : Instr),
    (c = .eriLoad l m ecc ∧ m.kind = 0x01 ∧ eriFormOk m = true ∨ c = .eriStore l m ∧ m.kind = 0x02 ∧ eriFormOk m = true ∨
      c = .eriAtomic l m ∧ m.kind = 0x03 ∧ eriFormOk m = true ∨ c = .eriCopy l m ∧ m.kind = 0x08 ∧ m.body.length = 64 ∨
      c = .listArm l m ∧ m.kind = 0x09 ∨ c = .collectiveStart l m ∧ m.kind = 0x0C) → s.eriPasses l m →
    ∃ u : State, ∃ L, sameTab L s.ep.links ∧
      u = ({ s with ep := { s.ep with links := L } } : State).emit (.eri l (creditFor 0 m.units)) ∧
      (s.ep.slotOf m.job = none → exec c s = .next ((u.sendComp l (completionMsg m.agent m.tag m.job cDenied false [])).epOn)) ∧
      (∀ n x, s.ep.slotOf m.job = some (n, x) → x.state = 3 → exec c s =
        .next (((u.epCount 10).sendComp l (completionMsg m.agent m.tag m.job cTorn false [])).epOn))) ∧
  (∀ (s : State) (l : Nat) (m : Eri) (ecc : List Nat) (k : EriLink) (c : Instr),
    (c = .eriLoad l m ecc ∨ c = .eriStore l m ∨ c = .eriAtomic l m ∨ c = .eriFence l m ∨ c = .eriCacheInvalidate l m ∨
      c = .eriDirectoryRequest l m ∨ c = .eriCopy l m ∨ c = .listArm l m ∨ c = .listCancel l m ∨ c = .collectiveStart l m) →
    tabGet s.ep.links l = some k → k.up = true → k.reqCr < m.units → exec c s = .next ((s.epCount 18).epOn))

/-- Copies, lists and collectives are accepted (R109, R112, R114, R159): an ERI_COPY takes a place of the copy table, a LIST_ARM a
list slot whose read begins, a LIST_CANCEL ends one with Denied, and a COLLECTIVE_START an entry of the collective table.
Completion, on the conditions of the clauses alone, is stated of the constructors eriCopy, listArm, listCancel,
collectiveStart. -/
def Obligations.CopiesListsAndCollectivesAreAccepted : Prop :=
  (∀ (s : State) (l : Nat) (m : Eri) (n : Nat), s.eriPasses l m → m.kind = 0x08 → m.body.length = 64 → s.jobSlot m.job = .inl n →
    s.copyPlaces < 4096 → s.slotRevoked n m.job = false → (copyDescOf m.body).bad (s.rack .ep) = false →
    ∃ c : Copy, ∃ L, sameTab L s.ep.links ∧ c.id = s.ep.nextCopy ∧ c.job = m.job ∧ c.slot = n ∧ c.agent = m.agent ∧ c.tag = m.tag ∧
      c.list = none ∧ c.src = (copyDescOf m.body).src ∧ c.dst = (copyDescOf m.body).dst ∧ c.len = (copyDescOf m.body).len ∧
      c.engine = s.pickEngine (copyDescOf m.body) ∧ c.issued = 0 ∧ c.open_ = 0 ∧ c.state = 0 ∧
      exec (.eriCopy l m) s = .next ((({ s with ep := { s.ep with
          links := L, tags := s.ep.tags ++ [(m.agent, m.tag)], copies := s.ep.copies ++ [c],
          nextCopy := s.ep.nextCopy + 1 } } : State).emit (.eri l (creditFor 0 m.units))).epOn)) ∧
  (∀ (s : State) (l : Nat) (m : Eri) (n : Nat), s.eriPasses l m → m.kind = 0x08 → m.body.length = 64 → s.jobSlot m.job = .inl n →
    4096 ≤ s.copyPlaces →
    ∃ u : State, ∃ L, sameTab L s.ep.links ∧
      u = ({ s with ep := { s.ep with links := L } } : State).emit (.eri l (creditFor 0 m.units)) ∧
      exec (.eriCopy l m) s =
        .next (((u.epCount 21).sendComp l (completionMsg m.agent m.tag m.job cRetry false [])).epOn)) ∧
  (∀ (s : State) (l : Nat) (m : Eri) (n count slot : Nat), s.eriPasses l m → m.kind = 0x09 → s.jobSlot m.job = .inl n →
    count = bits m.aux 55 43 → slot = bits m.aux 42 37 → m.value % 1000 = 0 → 1 ≤ count → count ≤ 4096 →
    tabGet s.ep.lists slot = none → s.copyPlaces + count ≤ 4096 →
    ∃ x : ListSlot, ∃ L, sameTab L s.ep.links ∧ x.state = 1 ∧ x.job = m.job ∧ x.agent = m.agent ∧ x.tag = m.tag ∧ x.vfa = m.addr ∧
      x.count = count ∧ x.act = m.value ∧ x.started = false ∧ x.id = s.ep.nextList ∧ x.todo = (granulesOf m.addr (count * 64)).map (fun g => g * 4) ∧
      exec (.listArm l m) s = .next ((x.todo.foldl (fun s k => s.needGranule (.list slot x.id) n m.job (k / 4) 0)
        (({ s with ep := { s.ep with
            links := L, tags := s.ep.tags ++ [(m.agent, m.tag)], lists := tabSet s.ep.lists slot x,
            nextList := s.ep.nextList + 1 } } : State).emit
          (.eri l (creditFor 0 m.units)))).epOn)) ∧
  (∀ (s : State) (l : Nat) (m : Eri) (slot : Nat) (x : ListSlot), s.eriPasses l m → m.kind = 0x0A → slot = bits m.aux 42 37 →
    tabGet s.ep.lists slot = some x → x.job = m.job → x.state ≠ 3 →
    ∃ L, sameTab L s.ep.links ∧
      exec (.listCancel l m) s = .next ((((({ s with ep := { s.ep with
          links := L, lists := tabDel s.ep.lists slot } } : State).emit (.eri l (creditFor 0 m.units))).endTag x.link x.agent x.tag
            x.job cDenied []).sendComp l (completionMsg m.agent m.tag m.job cDone false [])).epOn)) ∧
  (∀ (s : State) (l : Nat) (m : Eri) (n : Nat), s.eriPasses l m → m.kind = 0x0C → s.jobSlot m.job = .inl n →
    s.collRefused m = none → s.ep.sh.mode = 0 → bits (beNat (sliceBytes m.body 0 64)) 176 113 = 0 →
    ∃ x : EpColl, ∃ L, sameTab L s.ep.links ∧ x.id = s.ep.nextColl ∧ x.job = m.job ∧ x.slot = n ∧ x.agent = m.agent ∧ x.tag = m.tag ∧
      x.group = bits m.aux 55 42 ∧ x.cctx = bits m.aux 41 40 ∧ x.planes = bits m.aux 39 24 ∧ x.cseq = bits m.value 63 32 ∧
      x.size = bits (beNat (sliceBytes m.body 0 64)) 287 256 ∧ x.rank = bits (beNat (sliceBytes m.body 0 64)) 255 244 ∧
      x.members = bits (beNat (sliceBytes m.body 0 64)) 243 232 ∧ x.start = 0 ∧ x.state = 0 ∧ x.accepted = s.ns ∧
      exec (.collectiveStart l m) s = .next (((({ s with ep := { s.ep with
          links := L, tags := s.ep.tags ++ [(m.agent, m.tag)], colls := s.ep.colls ++ [x],
          nextColl := s.ep.nextColl + 1 } } : State).emit (.eri l (creditFor 0 m.units))).collNeed x).epOn)) ∧
  (∀ (s : State) (l : Nat) (m : Eri) (n code : Nat), s.eriPasses l m → m.kind = 0x0C → s.jobSlot m.job = .inl n →
    s.collRefused m = some code →
    ∃ u : State, ∃ L, sameTab L s.ep.links ∧
      u = ({ s with ep := { s.ep with links := L } } : State).emit (.eri l (creditFor 0 m.units)) ∧
      exec (.collectiveStart l m) s =
        .next ((u.sendComp l (completionMsg m.agent m.tag m.job code false [])).epOn))

/-- Memory answers and the credits of a link (R99, R102, R106, R107): MEMORY_DATA and MEMORY_ACK end the memory message that their
tag names, MEMORY_TIMEOUT ends one with Poison, INIT and CREDIT give the endpoint its credits, and a UCIe link comes and goes.
Completion, on the conditions of the clauses alone, is stated of the constructors memoryData, memoryAck, memoryTimeout,
initLink, credit, ucieLinkLost, ucieLinkUp. -/
def Obligations.MemoryAnswersAndLinkCredits : Prop :=
  (∀ (s : State) (l : Nat) (m : Eri) (k : EriLink) (w : MemMsg) (c : Instr), (c = .memoryData l m ∨ c = .memoryAck l m) →
    tabGet s.ep.links l = some k → k.up = true → k.gotInit = true → m.units ≤ k.respCr → s.memOf m.tag = some w →
    m.unusedZero = true → m.kind = (if w.kind = 0x29 then 0x11 else 0x10) → m.code = 0 → m.body.length = w.want → m.len = m.body.length →
    ∃ L, sameTab L s.ep.links ∧
      exec c s = .next ((((({ s with ep := { s.ep with links := L, mem := delFirst (fun x => x.tag == w.tag) s.ep.mem } } : State).emit
        (.eri l (creditFor 1 m.units))).memTo w.who cDone m.body).flushTx).epOn)) ∧
  (∀ (s : State) (l : Nat) (m : Eri) (k : EriLink) (w : MemMsg) (c : Instr), (c = .memoryData l m ∨ c = .memoryAck l m) →
    tabGet s.ep.links l = some k → k.up = true → k.gotInit = true → m.units ≤ k.respCr → s.memOf m.tag = some w →
    m.unusedZero = true → (m.kind = 0x10 ∨ m.kind = 0x11) →
    (m.body.length ≠ m.len ∨ m.code ≠ 0 ∧ m.code ≠ 4 ∨ m.kind ≠ (if w.kind = 0x29 then 0x11 else 0x10)) →
    ∃ L, sameTab L s.ep.links ∧
      exec c s = .next (((((({ s with ep := { s.ep with links := L, mem := delFirst (fun x => x.tag == w.tag) s.ep.mem } } : State).emit
        (.eri l (creditFor 1 m.units))).epCount 12).memTo w.who cPoison []).flushTx).epOn)) ∧
  (∀ (s : State) (l : Nat) (m : Eri) (k : EriLink) (c : Instr), (c = .memoryData l m ∨ c = .memoryAck l m) →
    tabGet s.ep.links l = some k → k.up = true → k.gotInit = true → m.units ≤ k.respCr → s.memOf m.tag = none →
    m.unusedZero = true → (m.kind = 0x10 ∨ m.kind = 0x11) →
    ∃ L, sameTab L s.ep.links ∧
      exec c s = .next ((({ s with ep := { s.ep with links := L } } : State).emit (.eri l (creditFor 1 m.units))).epCount 20)) ∧
  (∀ (s : State) (l : Nat) (m : Eri) (k : EriLink) (c : Instr), (c = .memoryData l m ∨ c = .memoryAck l m) →
    tabGet s.ep.links l = some k → k.up = true → k.gotInit = true → m.units ≤ k.respCr →
    (m.kind ≠ 0x10 ∧ m.kind ≠ 0x11 ∨ m.unusedZero = false) →
    ∃ L, sameTab L s.ep.links ∧
      exec c s = .next ((({ s with ep := { s.ep with links := L } } : State).emit (.eri l (creditFor 1 m.units))).epCount 0)) ∧
  (∀ (s : State) (tag : Nat) (w : MemMsg), s.memOf tag = some w → w.sent + w.limit ≤ s.ns →
    exec (.memoryTimeout tag) s = .next ((((({ s with ep := { s.ep with
        mem := delFirst (fun x => x.tag == tag) s.ep.mem } } : State).epCount 20).memTo w.who cPoison []).flushTx).epOn)) ∧
  (∀ (s : State) (tag : Nat) (w : MemMsg), s.memOf tag = some w → s.ns < w.sent + w.limit →
    exec (.memoryTimeout tag) s = .next s) ∧
  (∀ (s : State) (l : Nat) (m : Eri) (k : EriLink), tabGet s.ep.links l = some k → k.up = true → m.kind = 0x3E →
    m.unusedZero = true →
    ∃ u : State, exec (.initLink l m) s = .next ((u.payResp l).payOwed).flushTx ∧
      tabGet u.ep.links l = some { k with gotInit := true, compCr := bits m.aux 27 14, memCr := bits m.aux 13 0 } ∧
      (∀ j, j ≠ l → tabGet u.ep.links j = tabGet s.ep.links j) ∧ u = { s with ep := { s.ep with links := u.ep.links } }) ∧
  (∀ (s : State) (l : Nat) (m : Eri), s.linkUp l = true → (m.kind ≠ 0x3E ∨ m.unusedZero = false) →
    exec (.initLink l m) s = .next (s.epCount 0)) ∧
  (∀ (s : State) (l : Nat) (m : Eri) (k : EriLink), tabGet s.ep.links l = some k → k.up = true → m.kind = 0x3F →
    m.unusedZero = true →
    ∃ u : State, exec (.credit l m) s = .next u.flushTx ∧
      tabGet u.ep.links l = some { k with compCr := k.compCr + bits m.aux 27 14, memCr := k.memCr + bits m.aux 13 0 } ∧
      (∀ j, j ≠ l → tabGet u.ep.links j = tabGet s.ep.links j) ∧ u = { s with ep := { s.ep with links := u.ep.links } }) ∧
  (∀ (s : State) (l : Nat) (m : Eri), s.linkUp l = true → (m.kind ≠ 0x3F ∨ m.unusedZero = false) →
    exec (.credit l m) s = .next (s.epCount 0)) ∧
  (∀ (s : State) (l : Nat), l < 8 → bit (s.reg .ep 0xD10001) l = true → tabGet s.ep.links l = none → s.ep.tripped = false →
    s.ep.inReset = false → s.ep.sh.clk.crystal ≠ 2 →
    ∃ u : State, ∃ k, exec (.ucieLinkUp l) s = .next (u.emit (.eri l { Eri.zero with
        kind := 0x3E, aux := eriGrant * 2 ^ 42 + eriGrant * 2 ^ 28 })) ∧
      u = { s with ep := { s.ep with links := tabSet s.ep.links l k } } ∧ k.up = true ∧ k.gotInit = false ∧ k.reqCr = eriGrant ∧
      k.respCr = eriGrant ∧ k.compCr = 0 ∧ k.memCr = 0) ∧
  (∀ (s : State) (l : Nat), s.linkUp l = false → exec (.ucieLinkLost l) s = .next s) ∧
  (∀ (s : State) (l : Nat), s.linkUp l = true →
    ∃ u : State, ∃ k, exec (.ucieLinkLost l) s = .next (((u.logEvent .ep 2 0x0002 0 (l * 2 ^ 104)).report .ep 7 (s.node .ep) 0).flushTx) ∧
      u = { s with ep := { s.ep with links := tabSet s.ep.links l k } } ∧ k.up = false ∧ k.lost = true)

/-- R44 to R46, R62, R89, R315: the receiver of a part applies its checks in order: a malformed packet, one of a Job ID that no
request may carry and one for another node are refused with reasons 5, 4 and 3, one whose tag fails is answered Poison; then the
Job ID, its admission entry and its right are checked with reasons 0, 1 and 2; a sequence outside the window is counted, a
settled write is answered again with its code, and a part that receives nothing changes nothing. -/
def Obligations.FabricRequestsAreChecked : Prop :=
  (∀ (s : State) (p : Part) (k : Packet) (port : Nat) (tagOk : Bool) (err : Nat), s.fabricOff p = true →
    exec (.fabricRequestReceive p k port tagOk err) s = .next s) ∧
  (∀ (s : State) (k : Packet) (port : Nat) (tagOk : Bool) (err : Nat) (f : MFrame) (c : Nat), s.fabricOff .mod = false →
    s.ownFrame (fun x => x == k) = some f → s.checkPoint f = some c →
    exec (.fabricRequestReceive .mod k port tagOk err) s = .next (s.dropFrame f c)) ∧
  (∀ (s : State) (p : Part) (k : Packet) (port : Nat) (tagOk : Bool) (err : Nat), s.fabricOff p = false → s.expired p (fun x => x == k) = none →
    (formOk k (p == .ep) = false ∨ 5 < k.typ) →
    exec (.fabricRequestReceive p k port tagOk err) s =
      .next ((((s.arrives p k).malformed p port).refuse p k port 5).afterRequest p)) ∧
  (∀ (s : State) (p : Part) (k : Packet) (port : Nat) (tagOk : Bool) (err : Nat), s.fabricOff p = false → s.expired p (fun x => x == k) = none →
    formOk k (p == .ep) = true → 1 ≤ k.typ → k.typ ≤ 5 →
    ((k.job = 0 ∨ k.job = 0xFFFF) → exec (.fabricRequestReceive p k port tagOk err) s =
      .next (((s.arrives p k).refuse p k port 4).afterRequest p)) ∧
    (k.job ≠ 0 → k.job ≠ 0xFFFF → k.dst ≠ s.node p → exec (.fabricRequestReceive p k port tagOk err) s =
      .next (((s.arrives p k).refuse p k port 3).afterRequest p)) ∧
    (k.job ≠ 0 → k.job ≠ 0xFFFF → k.dst = s.node p → s.sealCheck p k tagOk = 1 →
      exec (.fabricRequestReceive p k port tagOk err) s = .next (((s.arrives p k).sealCount p 1).afterRequest p)) ∧
    (k.job ≠ 0 → k.job ≠ 0xFFFF → k.dst = s.node p → s.sealCheck p k tagOk = 2 →
      exec (.fabricRequestReceive p k port tagOk err) s =
        .next ((((s.arrives p k).sealCount p 2).respond p k port cPoison [] 0).afterRequest p))) ∧
  (∀ (s : State) (p : Part) (k : Packet) (port : Nat) (tagOk : Bool) (err : Nat) (r : SrcRec), s.fabricOff p = false →
    s.expired p (fun x => x == k) = none → FreshRequest s p k tagOk r → (k.isCounted = true → r.isOpen k.interval = true) → ¬ (k.typ = 0x02 ∧ k.f = true) →
    (k.typ = 0x03 → s.atomFull p = false) →
    (s.jobState p k.job = 1 → exec (.fabricRequestReceive p k port tagOk err) s =
      .next ((((s.noted p k port).deny p k.job k.src k.off k.typ 0).finish p k port cDenied [] true).afterRequest p)) ∧
    (s.jobState p k.job = 0 → admFind (s.sh p).adm k.job k.off k.len = none → exec (.fabricRequestReceive p k port tagOk err) s =
      .next ((((s.noted p k port).deny p k.job k.src k.off k.typ 1).finish p k port cDenied [] true).afterRequest p)) ∧
    (∀ e, s.jobState p k.job = 0 → admFind (s.sh p).adm k.job k.off k.len = some e → e.has (rightOf k.typ) = false →
      exec (.fabricRequestReceive p k port tagOk err) s =
        .next ((((s.noted p k port).deny p k.job k.src k.off k.typ 2).finish p k port cDenied [] true).afterRequest p))) ∧
  (∀ (s : State) (p : Part) (k : Packet) (port : Nat) (tagOk : Bool) (err : Nat) (r : SrcRec), s.fabricOff p = false →
    s.expired p (fun x => x == k) = none → formOk k (p == .ep) = true → 1 ≤ k.typ → k.typ ≤ 5 → k.job ≠ 0 → k.job ≠ 0xFFFF → k.dst = s.node p →
    s.sealCheck p k tagOk = 0 → (s.sh p).recv.rec_ k.from_ = some r → k.s = false →
    (r.settledOf k.seq = none → (s.sh p).recv.busyWith k.from_ k.seq = false → 4096 ≤ serialDiff k.seq r.base →
      exec (.fabricRequestReceive p k port tagOk err) s = .next (((s.noted p k port).rcvCount p 13 4).afterRequest p)) ∧
    (r.settledOf k.seq = none → (s.sh p).recv.busyWith k.from_ k.seq = true →
      exec (.fabricRequestReceive p k port tagOk err) s = .next ((s.noted p k port).afterRequest p)) ∧
    (∀ x, r.settledOf k.seq = some x → k.typ = 0x02 ∨ k.typ = 0x04 → exec (.fabricRequestReceive p k port tagOk err) s =
      .next (((s.noted p k port).respond p k port x.code [] 0).afterRequest p)))

/-- R26, R44, R50, R58 to R60, R179, R187: a request that passes every check reaches memory: at the endpoint as a memory message
at its local address, at the Commons its bytes are read or written at once; a flagged store is held until its interval has its
writes, and an access beyond the usable Commons stops the machine. Completion, on the conditions of the clauses alone, is
stated of the constructors fabricRequestReceive, flaggedStoreResolve, flagHoldTimeout. -/
def Obligations.FabricRequestsReachMemory : Prop :=
  (∀ (s : State) (k : Packet) (port : Nat) (tagOk : Bool) (err : Nat) (r : SrcRec) (e : AdmEntry), s.fabricOff .ep = false →
    FreshRequest s .ep k tagOk r → (k.isCounted = true → r.isOpen k.interval = true) → ¬ (k.typ = 0x02 ∧ k.f = true) →
    (k.typ = 0x03 → s.atomFull .ep = false) → s.jobState .ep k.job = 0 →
    admFind s.ep.sh.adm k.job k.off k.len = some e → e.has (rightOf k.typ) = true →
    ∃ g : InProg, g.id = s.ep.sh.recv.nextId ∧ g.src = k.from_ ∧ g.pkt = k ∧ g.port = port ∧ g.result = none ∧
      g.loc = e.localBase * 65536 + (k.off - e.offBase * 65536) ∧
      exec (.fabricRequestReceive .ep k port tagOk err) s = .next ((((s.noted .ep k port).modRecv .ep fun q =>
        { q with inprog := q.inprog ++ [g], nextId := g.id + 1 }).sendMem (.fabric g.id)
          (if k.typ = 0x01 ∨ k.typ = 0x05 then 0x28 else if k.typ = 0x03 then 0x2A else 0x29) 0 g.loc k.len k.aop k.fmt
          k.payload).epOn)) ∧
  (∀ (s : State) (k : Packet) (port : Nat) (tagOk : Bool) (r : SrcRec) (e : AdmEntry), s.fabricOff .mod = false →
    s.expired .mod (fun x => x == k) = none →
    FreshRequest s .mod k tagOk r → (k.isCounted = true → r.isOpen k.interval = true) → k.f = false →
    (k.typ = 0x01 ∨ k.typ = 0x02 ∨ k.typ = 0x04 ∨ k.typ = 0x05) → s.jobState .mod k.job = 0 →
    admFind s.mod.sh.adm k.job k.off k.len = some e → e.has (rightOf k.typ) = true →
    s.stackTile (tileOfPort port) (e.local_ k.off) = tileOfPort port → s.mod.sh.recv.inprog.all (fun g => g.id != s.mod.sh.recv.nextId) = true →
    (s.usableBytes < e.local_ k.off + k.len →
      exec (.fabricRequestReceive .mod k port tagOk 0) s = .fault (.outsideCommons (e.local_ k.off))) ∧
    (e.local_ k.off + k.len ≤ s.usableBytes → s.linesGood (e.local_ k.off) k.len →
      (∀ x, s.regionAt (e.local_ k.off) = some x → x.2.alloc = none ∧ x.2.state ≠ 5) →
      ∃ g : InProg, g.id = s.mod.sh.recv.nextId ∧ g.src = k.from_ ∧ g.pkt = k ∧ g.loc = e.local_ k.off ∧ g.port = port ∧
        g.result = some (cDone, if k.typ = 0x01 ∨ k.typ = 0x05 then s.commonsRead (e.local_ k.off) k.len else []) ∧
        ∃ u : State, exec (.fabricRequestReceive .mod k port tagOk 0) s = .next u ∧ u.ep = s.ep ∧ u.out = s.out ∧
          u.mod.sh.recv.inprog = s.mod.sh.recv.inprog ++ [g] ∧ u.mod.regions = s.mod.regions ∧
          u.mod.mem = (if k.typ = 0x01 ∨ k.typ = 0x05 then s.mod.mem else memWrite s.mod.mem (e.local_ k.off) k.payload))) ∧
  (∀ (s : State) (p : Part) (k : Packet) (port : Nat) (tagOk : Bool) (err : Nat) (r : SrcRec), s.fabricOff p = false →
    s.expired p (fun x => x == k) = none → FreshRequest s p k tagOk r → k.typ = 0x02 → k.f = true → r.isOpen k.interval = true →
    (r.interval k.interval).closed = false → (s.sh p).recv.closing k.from_ k.interval = false →
    (∀ e, s.jobState p k.job = 0 → admFind (s.sh p).adm k.job k.off k.len = some e →
      (k.isMarker = true ∨ e.has (rightOf k.typ) = true) → s.holdFull p = false →
      ∃ h : HeldStore, h.src = k.from_ ∧ h.pkt = k ∧ h.port = port ∧ h.loc = e.local_ k.off ∧ h.ended = false ∧ h.since = s.ns ∧
        h.limit = s.reg p (if p = .ep then 0xD40003 else 0x740003) * 1000 ∧
        exec (.fabricRequestReceive p k port tagOk err) s =
          .next ((((s.noted p k port).modRecv p fun q => { q with held := q.held ++ [h] })).afterRequest p)) ∧
    (s.jobState p k.job = 1 →
      ∃ h : HeldStore, h.src = k.from_ ∧ h.pkt = k ∧ h.ended = true ∧
        exec (.fabricRequestReceive p k port tagOk err) s =
          .next ((((((s.noted p k port).deny p k.job k.src k.off k.typ 0).modRecv p fun q =>
            { q with held := q.held ++ [h] })).finish p k port cDenied [] false).afterRequest p))) ∧
  (∀ (s : State) (p : Part) (src seq : Nat) (h : HeldStore) (r : SrcRec), (s.sh p).recv.heldOf src seq = some h →
    (s.sh p).recv.rec_ h.src = some r →
    ((r.interval h.pkt.interval).settled < h.pkt.pred → exec (.flaggedStoreResolve p src seq) s = .next s) ∧
    (h.pkt.pred ≤ (r.interval h.pkt.interval).settled → h.ended = true →
      exec (.flaggedStoreResolve p src seq) s = .next ((s.modRecv p fun q =>
        { q with held := delFirst (fun x => x == h) q.held }).modRec p h.src fun r => r.close h.pkt.interval)) ∧
    (h.pkt.pred ≤ (r.interval h.pkt.interval).settled → h.ended = false →
      (r.interval h.pkt.interval).refused.contains h.pkt.job = true →
      exec (.flaggedStoreResolve p src seq) s = .next (((s.rcvCount p 7 0).modRecv p fun q =>
        { q with held := delFirst (fun x => x == h) q.held }).finish p h.pkt h.port cPoison [] true)) ∧
    (h.pkt.pred ≤ (r.interval h.pkt.interval).settled → h.ended = false →
      (r.interval h.pkt.interval).refused.contains h.pkt.job = false → h.pkt.isMarker = true →
      exec (.flaggedStoreResolve p src seq) s = .next ((s.modRecv p fun q =>
        { q with held := delFirst (fun x => x == h) q.held }).finish p h.pkt h.port cDone [] true)) ∧
    (s.ns ≤ h.since + h.limit → exec (.flagHoldTimeout p src seq) s = .next s) ∧
    (h.since + h.limit < s.ns → h.ended = false → exec (.flagHoldTimeout p src seq) s = .next (((s.rcvCount p 8 1).modRecv p fun q =>
        { q with held := delFirst (fun x => x == h) q.held }).finish p h.pkt h.port cPoison [] true)))

/-- R56, R78, R86 to R88, R91: REQUEST_ISSUE sends a waiting request with the next sequence of its pair, or leaves it waiting;
RESPONSE_RECEIVE completes the request that its sequence names with its code, waits after a Retry, and counts a response that
no incomplete request fits. Completion, on the conditions of the clauses alone, is stated of the constructors requestIssue,
responseReceive. -/
def Obligations.RequestsLeaveAndAreAnswered : Prop :=
  (∀ (s : State) (id : Nat) (r : Req) (pl : Nat) (q : Pair), s.ep.sh.req id = some r → r.st = .waiting → s.heldByAgent r = false →
    (s.cacheable r = false ∨ r.fillLen ≠ 0) → s.maySend r = true → (r.rel = .rack → r.badCode = 0) →
    ¬ (r.pkt.dst = s.node .ep ∧ r.pkt.dstRack = s.rack .ep) → s.planeFor r.pkt.dst r.pkt.off = some pl →
    q = s.ep.sh.pairOf r.pkt.to_ → q.writes < 65535 → s.ep.selfDead = false →
    ∃ u : State, ∃ k : Packet, ∃ sl, exec (.requestIssue .ep id []) s = .next u.epOn ∧ u.out = s.out ++ [.packet .ep pl k sl] ∧
      k.typ = r.pkt.typ ∧ k.job = r.pkt.job ∧ k.dst = r.pkt.dst ∧ k.off = r.pkt.off ∧ k.len = r.pkt.len ∧ k.payload = r.pkt.payload ∧
      k.plane = pl ∧ k.src = s.node .ep ∧ k.seq = q.next ∧ k.s = (q.start || q.restart) ∧ k.f = r.flagged ∧
      (u.ep.sh.pairOf r.pkt.to_).next = (q.next + 1) % 2 ^ 32 ∧ (u.ep.sh.pairOf r.pkt.to_).start = false ∧
      (u.ep.sh.pairOf r.pkt.to_).charged = q.charged + max 64 (ceil64 r.pkt.len) ∧ u.mod = s.mod) ∧
  (∀ (s : State) (id : Nat) (ecc : List Nat), ecc ≠ [] →
    exec (.requestIssue .ep id ecc) s = exec (.requestIssue .ep id []) (s.modReq .ep id fun r => { r with ecc := ecc })) ∧
  (∀ (s : State) (id : Nat) (r : Req), s.ep.sh.req id = some r → (r.st ≠ .waiting ∨ s.heldByAgent r = true ∨
      (s.cacheable r = false ∨ r.fillLen ≠ 0) ∧ s.maySend r = false) →
    exec (.requestIssue .ep id []) s = .next s.epOn) ∧
  (∀ (s : State) (id loc : Nat) (r : Req) (e : AdmEntry) (n : Nat) (x : Slot), s.ep.sh.req id = some r → r.st = .waiting →
    s.heldByAgent r = false → s.cacheable r = false → s.maySend r = true → r.rel = .none → r.flagged = false → r.owner = .agent →
    r.pkt.dst = s.node .ep → r.pkt.dstRack = s.rack .ep → s.ep.slotOf r.pkt.job = some (n, x) → x.state ≠ 3 →
    admFind s.ep.sh.adm r.pkt.job r.pkt.off r.pkt.len = some e → e.has (rightOf r.pkt.typ) = true → r.id = id →
    loc = e.localBase * 65536 + (r.pkt.off - e.offBase * 65536) →
    exec (.requestIssue .ep id []) s = .next (((s.modReq .ep id fun r => { r with st := .atHome }).sendMem (.own id)
      (if r.pkt.typ = 0x01 ∨ r.pkt.typ = 0x05 then 0x28 else if r.pkt.typ = 0x03 then 0x2A else 0x29) 0 loc r.pkt.len r.pkt.aop
      r.pkt.fmt r.pkt.payload).epOn)) ∧
  (∀ (s : State) (p : Part) (k : Packet) (tagOk : Bool), s.fabricOff p = true →
    exec (.responseReceive p k tagOk) s = .next s) ∧
  (∀ (s : State) (p : Part) (k : Packet) (tagOk : Bool), s.fabricOff p = false →
    s.expired p (fun x => x == k) = none → (s.srcTakes p k k.plane 0x10 tagOk).2 = true →
    (∀ r, s.sentReq p k.from_ k.seq = some r → r.pkt.job ≠ k.job) →
    exec (.responseReceive p k tagOk) s =
      .next ((if p = .ep then (s.arrives p k).epCount 11 else s.arrives p k).partOn p)) ∧
  (∀ (s : State) (p : Part) (k : Packet) (tagOk : Bool) (r : Req), s.fabricOff p = false →
    s.expired p (fun x => x == k) = none → (s.srcTakes p k k.plane 0x10 tagOk).2 = true → s.sentReq p k.from_ k.seq = some r → r.pkt.job = k.job →
    (p = .ep → s.slotRevoked r.slot r.pkt.job = false) →
    ((k.code = 2 ∨ k.code = 4 ∨ k.code = 6) → exec (.responseReceive p k tagOk) s =
      .next (((s.arrives p k).endReq p r.id k.code []).partOn p)) ∧
    (k.code = 0 → r.fillLen = 0 → r.doneLen k.payload.length = true → exec (.responseReceive p k tagOk) s =
      .next (((s.arrives p k).endReq p r.id cDone k.payload).partOn p)) ∧
    (k.code = 0 → r.doneLen k.payload.length = false → exec (.responseReceive p k tagOk) s =
      .next (((if p = .ep then (s.arrives p k).epCount 12 else s.arrives p k).endReq p r.id cPoison []).partOn p)) ∧
    (8 ≤ k.code → exec (.responseReceive p k tagOk) s =
      .next (((if p = .ep then (s.arrives p k).epCount 12 else s.arrives p k).endReq p r.id cPoison []).partOn p)) ∧
    (k.code = 1 → r.retries < r.retryLimit → exec (.responseReceive p k tagOk) s =
      .next (((if p = .ep then (s.arrives p k).partCount .ep r.pkt.job 6 1 else s.arrives p k).modReq p r.id fun r =>
        { r with st := .retryWait, retries := r.retries + 1, due := s.ns + 1000 * 2 ^ min r.retries 6 }).partOn p)) ∧
    (k.code = 1 → r.retryLimit ≤ r.retries → r.owner = .agent → exec (.responseReceive p k tagOk) s =
      .next (((if p = .ep then (s.arrives p k).partCount .ep r.pkt.job 6 1 else s.arrives p k).endReq p r.id cRetry []).partOn p)))

/-- R62, R87, R90, R92 to R94, R96, R412: the timers of a request and of a receiver act once they are due and not before:
RETRY_RESEND and RETRANSMIT_TIMEOUT send it again with its sequence and seal, at the limit and at the end of its lifetime it
completes with Poison, GAP_TIMER_EXPIRY sends a gap notice, and GAP_NOTICE and RESYNC_NOTICE make the source send again or
start its pair anew. Completion, on the conditions of the clauses alone, is stated of the constructors retryResend,
gapTimerExpiry, gapNotice, resyncNotice, retransmitTimeout, requestLifetimeExpiry. -/
def Obligations.RequestTimersAndNotices : Prop :=
  (∀ (s : State) (p : Part) (id : Nat) (r : Req), (s.sh p).req id = some r →
    (r.st ≠ .retryWait ∨ s.ns < r.due → exec (.retryResend p id) s = .next (s.partOn p)) ∧
    (r.st ≠ .sent ∨ s.ns < r.due → exec (.retransmitTimeout p id) s = .next (s.partOn p)) ∧
    (r.isSent = false ∨ s.ns < r.first + r.life → exec (.requestLifetimeExpiry p id) s = .next (s.partOn p)) ∧
    (r.st = .sent → r.due ≤ s.ns → r.reLimit ≤ r.retrans → exec (.retransmitTimeout p id) s =
      .next (((if p = .ep then s.epCount 16 else s).endReq p id cPoison []).partOn p)) ∧
    (r.isSent = true → r.first + r.life ≤ s.ns → exec (.requestLifetimeExpiry p id) s =
      .next (((if p = .ep then s.epCount 16 else s).endReq p id cPoison []).partOn p))) ∧
  (∀ (s : State) (id pl : Nat) (r : Req), s.ep.sh.req id = some r → r.st = .retryWait → r.due ≤ s.ns →
    s.slotRevoked r.slot r.pkt.job = false → isColl r.pkt.typ = false → s.planeAgain r.pkt.dst r.pkt.off r.first = some pl →
    s.ep.selfDead = false →
    ∃ u : State, exec (.retryResend .ep id) s = .next u.epOn ∧ u.out = s.out ++ [.packet .ep pl { r.pkt with plane := pl } r.sl] ∧
      u.ep.sh.pairs = s.ep.sh.pairs ∧ u.mod = s.mod) ∧
  (∀ (s : State) (id port : Nat) (r : Req), s.mod.sh.req id = some r → r.st = .retryWait → r.due ≤ s.ns →
    s.routePort r.pkt.dst = some port →
    exec (.retryResend .mod id) s = .next ((s.resend .mod r r.pkt.plane (tileOfPort port) port).modOn)) ∧
  (∀ (s : State) (id pl : Nat) (r : Req), s.ep.sh.req id = some r → r.st = .sent → r.due ≤ s.ns → r.retrans < r.reLimit →
    s.slotRevoked r.slot r.pkt.job = false → isColl r.pkt.typ = false → s.planeAgain r.pkt.dst r.pkt.off r.first = some pl →
    s.ep.selfDead = false →
    ∃ u : State, exec (.retransmitTimeout .ep id) s = .next u.epOn ∧
      u.out = s.out ++ [.packet .ep pl { r.pkt with plane := pl } r.sl] ∧ u.ep.sh.pairs = s.ep.sh.pairs ∧ u.mod = s.mod) ∧
  (∀ (s : State) (p : Part) (src : Nat) (r : SrcRec), (s.sh p).recv.rec_ src = some r →
    (r.gapSince = none → exec (.gapTimerExpiry p src) s = .next s) ∧
    (∀ t, r.gapSince = some t → s.ns < t + r.gapLimit →
      exec (.gapTimerExpiry p src) s = .next s) ∧
    (∀ t, r.gapSince = some t → t + r.gapLimit ≤ s.ns →
      exec (.gapTimerExpiry p src) s = .next ((((s.modRec p src fun r => { r with
        gapSince := some s.ns, gapLimit := s.reg p (if p = .ep then 0xD50008 else 0x750001) * 1000 }).rcvCount p 14 5).notice p 0x11
        cRetry src (if p = .ep then r.lastPort else s.plane) r.lastPort r.base)))) ∧
  (∀ (s : State) (p : Part) (k : Packet) (tagOk : Bool), s.fabricOff p = false →
    s.expired p (fun x => x == k) = none → (s.srcTakes p k k.plane 0x11 tagOk).2 = true →
    (∀ r, s.sentReq p k.from_ k.seq = some r →
      exec (.gapNotice p k tagOk) s = .next (((s.arrives p k).retransmitReq p r).partOn p)) ∧
    (s.sentReq p k.from_ k.seq = none → s.beforeStart p k.from_ k.seq = true →
      exec (.gapNotice p k tagOk) s = .next ((s.arrives p k).partOn p)) ∧
    (s.sentReq p k.from_ k.seq = none → s.beforeStart p k.from_ k.seq = false →
      exec (.gapNotice p k tagOk) s = .next (((s.arrives p k).modPair p k.from_ fun q => { q with restart := true }).partOn p))) ∧
  (∀ (s : State) (p : Part) (k : Packet) (tagOk : Bool), s.fabricOff p = false →
    s.expired p (fun x => x == k) = none → (s.srcTakes p k k.plane 0x12 tagOk).2 = true →
    (s.sentReq p k.from_ k.seq = none → s.beforeStart p k.from_ k.seq = true →
      exec (.resyncNotice p k tagOk) s = .next ((s.arrives p k).partOn p)) ∧
    ((s.sentReq p k.from_ k.seq).isSome = true →
      exec (.resyncNotice p k tagOk) s = .next (((s.arrives p k).restartPair p k.from_).partOn p)) ∧
    (s.beforeStart p k.from_ k.seq = false →
      exec (.resyncNotice p k tagOk) s = .next (((s.arrives p k).restartPair p k.from_).partOn p)))

/-- R79 to R83, R182, R191, R192: an atomic that waits reads its operand, stores the value of its operation in the same step and
returns the old value; nothing else of the Commons memory changes. An allocator operation changes the allocator of its region
as R83 and R192 give, or is Denied. Completion, on the conditions of the clauses alone, is stated of the constructors
fetchAdd, fetchMin, fetchMax, compareSwap, swap, allocate, free, referenceAdd, referenceRelease. -/
def Obligations.AtomicsReadModifyWrite : Prop :=
  (∀ (s : State) (id op : Nat) (g : InProg) (c : Instr) (f : Nat → Nat → List Byte → Nat), s.waitingAtomic id op = some g →
    (c = .fetchAdd id 0 ∧ op = 1 ∧ f = atomAdd ∨ c = .fetchMin id 0 ∧ op = 2 ∧ f = atomMin ∨ c = .fetchMax id 0 ∧ op = 3 ∧ f = atomMax ∨
      c = .compareSwap id 0 ∧ op = 4 ∧ f = atomCas ∨ c = .swap id 0 ∧ op = 5 ∧ f = atomSwap) →
    s.linesGood g.loc (fmtSize g.pkt.fmt) →
    (s.staleAt g.loc = true → exec c s = .next (s.setResult id cPoison [])) ∧
    (s.staleAt g.loc = false →
      ∃ u : State, exec c s = .next (u.setResult id cDone (s.commonsRead g.loc (fmtSize g.pkt.fmt))) ∧
        u = { s with mod := { s.mod with mem := memWrite s.mod.mem g.loc (leBytes (fmtSize g.pkt.fmt)
          (f g.pkt.fmt (leNat (s.commonsRead g.loc (fmtSize g.pkt.fmt))) g.pkt.payload)) } } ∧
        (∀ a, a < g.loc ∨ g.loc + fmtSize g.pkt.fmt ≤ a → tabGetD u.mod.mem a 0#8 = tabGetD s.mod.mem a 0#8))) ∧
  (∀ (old : Nat) (b : List Byte), atomAdd 3 old b = (old + leNat b) % 2 ^ 64 ∧ atomAdd 1 old b = (old + leNat b) % 2 ^ 32 ∧
    atomMin 3 old b = min old (leNat b) ∧ atomMax 3 old b = max old (leNat b)) ∧
  (∀ (fmt old cmp new : Nat), cmp < 256 ^ fmtSize fmt → new < 256 ^ fmtSize fmt →
    atomSwap fmt old (leBytes (fmtSize fmt) new) = new ∧
    atomCas fmt old (leBytes (fmtSize fmt) cmp ++ leBytes (fmtSize fmt) new) = (if cmp = old then new else old)) ∧
  (∀ (s : State) (id op err : Nat) (g : InProg) (c : Instr), s.waitingAtomic id op = some g →
    (c = .allocate id err ∧ op = 8 ∨ c = .free id err ∧ op = 9 ∨ c = .referenceAdd id err ∧ op = 10 ∨
      c = .referenceRelease id err ∧ op = 11) →
    (∀ x, s.regionAt g.loc = some x → x.2.alloc = none) → s.allocAhead g = false →
    exec c s = .next ((s.deny .mod g.pkt.job g.pkt.src g.pkt.off g.pkt.typ 1).setResult id cDenied [])) ∧
  (∀ (s : State) (id op i : Nat) (g : InProg) (c : Instr) (r : Region) (a : Alloc) (index : Option Nat) (x : Alloc) (v : List Byte) (lines : List Nat),
    s.waitingAtomic id op = some g →
    (c = .allocate id 0 ∧ op = 8 ∨ c = .free id 0 ∧ op = 9 ∨ c = .referenceAdd id 0 ∧ op = 10 ∨
      c = .referenceRelease id 0 ∧ op = 11) →
    s.regionAt g.loc = some (i, r) → r.alloc = some a → a.poisoned = false → r.state ≠ 5 → s.allocAhead g = false →
    lines = setIns (((if op = 8 then a.top else index).map r.recordLine).toList) (r.first / 128) →
    (∀ l ∈ lines, s.mod.failedStacks.contains (s.stackOf (l * 128)) = false) → s.badIn lines = [] →
    index = (if (g.loc - r.first) % pageBytes r.page = 0 ∧ a.first ≤ (g.loc - r.first) / pageBytes r.page ∧
        (g.loc - r.first) / pageBytes r.page < a.first + a.pages then some ((g.loc - r.first) / pageBytes r.page) else none) →
    a.run op (g.loc - r.first == 0) index (leNat g.pkt.payload) (g.pkt.off - (g.loc - r.first)) (pageBytes r.page) =
      (x, { code := cDone, data := v, reason := 0 }) →
    ∃ u : State, exec c s = .next (u.setResult id cDone v) ∧
      u = (if a.empties < x.empties then (s.modAlloc i fun _ => x).coCount 7 else s.modAlloc i fun _ => x)) ∧
  (∀ (a : Alloc) (payload base size p : Nat), payload ≠ 0 → payload < 2 ^ 32 → a.top = some p →
    a.run 8 true none payload base size = ({ a.pop with
      counts := tabPut a.counts p payload 0, allocations := a.allocations + 1 }, allocDone (base + p * size))) ∧
  (∀ (a : Alloc) (payload base size : Nat), payload ≠ 0 → payload < 2 ^ 32 → a.top = none →
    a.run 8 true none payload base size = ({ a with empties := a.empties + 1 }, allocDone (2 ^ 64 - 1))) ∧
  (∀ (a : Alloc) (base size p n : Nat), tabGetD a.counts p 0 = n →
    (n = 1 → a.run 9 false (some p) 0 base size = ({ a with counts := tabPut a.counts p 0 0, freed := p :: a.freed }, allocDone 1) ∧
      a.run 11 false (some p) 0 base size = ({ a with counts := tabPut a.counts p 0 0, freed := p :: a.freed }, allocDone 1)) ∧
    (n ≠ 1 → a.run 9 false (some p) 0 base size = (a, allocDone n)) ∧
    (1 < n → a.run 11 false (some p) 0 base size = ({ a with counts := tabPut a.counts p (n - 1) 0 }, allocDone n)) ∧
    (∀ k, 0 < k → 0 < n → n + k < 2 ^ 32 →
      a.run 10 false (some p) k base size = ({ a with counts := tabPut a.counts p (n + k) 0 }, allocDone n)))

/-- Copy engines (R42, R109 to R113): COPY_TILE_ISSUE takes the next tile of an engine's copies, cut at the tile size of its
destination, and translates its granules, or sends the reads of a tile that is ready; WORK_STEALING takes it from the unpinned
copy with the most unissued bytes; COPY_TILE_COMPLETE ends a tile, and its copy with the last one. Completion, on the
conditions of the clauses alone, is stated of the constructors copyTileIssue, workStealing, copyTileComplete. -/
def Obligations.EnginesMoveTiles : Prop :=
  (∀ (s : State) (g : Nat) (c : Copy), s.readyTile g = none → s.engineBusy g = false → s.ep.enginesOut.contains g = false →
    s.ep.copies.find? (fun c => c.engine == g && c.gives && !s.slotRevoked c.slot c.job) = some c →
    ∃ t : CTile, t.id = s.ep.nextTile ∧ t.copy = c.id ∧ t.engine = g ∧ t.src = c.src + c.issued ∧ t.dst = c.dst + c.issued ∧
      t.len = min (c.len - c.issued) (s.reg .ep 0xD60002 - (c.dst + c.issued) % s.reg .ep 0xD60002) ∧ t.state = 0 ∧
      t.todo = (granulesOf t.src t.len).map (fun g => g * 4) ++ (granulesOf t.dst t.len).map (fun g => g * 4 + 1) ∧
      exec (.copyTileIssue g) s = .next ((t.todo.foldl (fun s k => s.needGranule (.tile t.id) c.slot c.job (k / 4) (k % 4))
        ({ s with ep := { s.ep with
            tiles := s.ep.tiles ++ [t], nextTile := s.ep.nextTile + 1,
            copies := modFirst (fun x => x.id == c.id)
              (fun x => { x with issued := x.issued + t.len, open_ := x.open_ + 1 }) s.ep.copies } } : State)).moveReady g)) ∧
  (∀ (s : State) (g : Nat), s.readyTile g = none → (s.engineBusy g = true ∨ s.ep.enginesOut.contains g = true) →
    exec (.copyTileIssue g) s = .next s) ∧
  (∀ (s : State) (g : Nat) (t : CTile) (c : Copy), s.readyTile g = some t → s.ep.copies.find? (fun c => c.id == t.copy) = some c →
    s.engineMoves g = false → s.tileDenied t c = (s, false) →
    exec (.copyTileIssue g) s = .next ((pieces4k t.src t.len).foldl (fun s p => s.tilePacket t c 0x05 (t.src + p.1) p.1 p.2 [])
      ((({ s with ep := { s.ep with
          tiles := modFirst (fun x => x.id == t.id) (fun x => { x with state := 2 }) s.ep.tiles } } : State).count .ep 0x14 t.engine 0 1).count .ep 0x14 t.engine 1 t.len))) ∧
  (∀ (s : State) (g : Nat) (t : CTile), s.readyTile g = some t → s.engineMoves g = true → exec (.copyTileIssue g) s = .next s) ∧
  (∀ (s : State) (g : Nat), s.ep.sh.mode = 1 ∨ s.reg .ep 0xD60003 ≠ 1 ∨ s.engineBusy g = true →
    exec (.workStealing g) s = .next s) ∧
  (∀ (s : State) (g : Nat) (c : Copy) (pre post : List Copy), g < 32 → s.ep.sh.mode = 0 → s.reg .ep 0xD60003 = 1 →
    s.readyTile g = none → s.engineBusy g = false → s.ep.enginesOut.contains g = false → s.strayTile = none →
    s.ep.copies = pre ++ c :: post →
    c.pin = false → c.gives = true → s.slotRevoked c.slot c.job = false →
    (∀ x ∈ pre, x.pin = true ∨ x.gives = false ∨ s.slotRevoked x.slot x.job = true ∨ x.unissued < c.unissued) →
    (∀ x ∈ post, x.pin = true ∨ x.gives = false ∨ s.slotRevoked x.slot x.job = true ∨ x.unissued ≤ c.unissued) →
    exec (.workStealing g) s = .next ((s.takeTile c g true).moveReady g)) ∧
  (∀ (s : State) (g : Nat) (t : CTile), g < 32 → s.ep.sh.mode = 0 → s.reg .ep 0xD60003 = 1 → s.readyTile g = none →
    s.engineBusy g = false → s.ep.enginesOut.contains g = false → s.strayTile = some t →
    exec (.workStealing g) s = .next ((({ s with ep := { s.ep with
      tiles := modFirst (fun x => x.id == t.id) (fun x => { x with engine := g, stolen := true }) s.ep.tiles } } : State).count
        .ep 0x14 g 2 1).moveReady g)) ∧
  (∀ (s : State) (t : Nat) (x : CTile), s.ep.tiles.find? (fun x => x.id == t) = some x →
    (x.parts ≠ 0 ∨ x.state ≤ 2) → exec (.copyTileComplete t) s = .next s.epOn) ∧
  (∀ (s : State) (t : Nat) (x : CTile) (c d : Copy), s.ep.tiles.find? (fun x => x.id == t) = some x → x.parts = 0 →
    (x.state = 3 ∨ x.state = 4) → s.ep.copies.find? (fun c => c.id == x.copy) = some c →
    d = { c with open_ := c.open_ - 1, worst := worse c.worst x.worst } →
    ∃ u : State, u = { s with ep := { s.ep with
        tiles := delFirst (fun y => y.id == x.id) s.ep.tiles,
        copies := modFirst (fun y => y.id == c.id) (fun _ => d) s.ep.copies } } ∧
      (d.open_ ≠ 0 → exec (.copyTileComplete t) s = .next u.epOn) ∧
      (d.open_ = 0 → d.worst ≠ 0 → exec (.copyTileComplete t) s = .next (u.copyEnd c.id d.worst).epOn) ∧
      (d.open_ = 0 → d.worst = 0 → c.issued < c.len → s.slotRevoked c.slot c.job = false →
        exec (.copyTileComplete t) s = .next u.epOn) ∧
      (d.open_ = 0 → d.worst = 0 → c.len ≤ c.issued → c.notify = false →
        exec (.copyTileComplete t) s = .next (u.copyEnd c.id cDone).epOn) ∧
      (d.open_ = 0 → d.worst = 0 → c.len ≤ c.issued → c.notify = true → s.slotRevoked c.slot c.job = false →
        exec (.copyTileComplete t) s = .next (u.sendNotify d).epOn))

/-- Lists, temperature, supplies, reset and bundles of the endpoint (R114, R116, R121, R122, R305): a list whose read is complete
is Armed, or starts at once and late once its time has passed; LIST_ACTIVATION starts it at its time; the throttle follows the
die temperature; 110 °C and a supply out of range stop the endpoint; a reset clears it; a bundle that passes its checks opens
the ports. Completion, on the conditions of the clauses alone, is stated of the constructors listReadComplete, listActivation,
throttleTemperature, endpointThermalTrip, supplyOutOfRange, endpointResetRelease, bundleLoad. -/
def Obligations.ListsStartAndEndpointCare : Prop :=
  (∀ (s : State) (n : Nat) (l : ListSlot), tabGet s.ep.lists n = some l → l.state = 1 → l.started = true → l.reads = 0 →
    (s.rackNs .ep < l.act → ∃ u : State, exec (.listReadComplete n) s = .next u.epOn ∧ u = { s with ep := { s.ep with
      lists := tabMod s.ep.lists n fun l => { l with state := 2 } } }) ∧
    (l.act ≤ s.rackNs .ep → ∃ u : State, exec (.listReadComplete n) s = .next (u.startRead n).epOn ∧
      u = (s.epCount 22).modEp fun e => { e with lists := tabMod e.lists n fun l => { l with state := 3, left := l.count } })) ∧
  (∀ (s : State) (n : Nat) (l : ListSlot), tabGet s.ep.lists n = some l →
    (l.state ≠ 1 ∨ l.started = false ∨ l.reads ≠ 0 → exec (.listReadComplete n) s = .next s.epOn) ∧
    (s.rackNs .ep < l.act → exec (.listActivation n) s = .next s.epOn) ∧
    (l.act ≤ s.rackNs .ep → l.state = 2 → ∃ u : State, exec (.listActivation n) s = .next (u.startRead n).epOn ∧
      u = { s with ep := { s.ep with lists := tabMod s.ep.lists n fun l => { l with state := 3, left := l.count } } }) ∧
    (l.act ≤ s.rackNs .ep → l.state = 1 → ∃ u : State, exec (.listActivation n) s = .next (u.startRead n).epOn ∧
      u = (s.epCount 22).modEp fun e => { e with lists := tabMod e.lists n fun l => { l with state := 3, left := l.count } })) ∧
  (∀ (s : State) (t : Int), exec (.throttleTemperature t) s = .next { s with ep := { s.ep with
    temp := t, throttled := decide (signedOf 32 (s.reg .ep 0xD90002) ≤ t) } }) ∧
  (∀ (s : State) (t : Int), t < 110000 → exec (.endpointThermalTrip t) s = .next { s with ep := { s.ep with temp := t } }) ∧
  (∀ (s : State) (t : Int), 110000 ≤ t → exec (.endpointThermalTrip t) s =
    .next ((({ s with ep := { s.ep with temp := t, tripped := true } } : State).logEvent .ep 2 0x0003 0
      (patternOf 32 t * 2 ^ 80)).stopEndpoint)) ∧
  (∀ (s : State) (n : Nat), n < 7 → exec (.supplyOutOfRange n) s = .next (((s.logEvent .ep 2 0x0006 0 (n * 2 ^ 104)).modEp fun e =>
    { e with supply := s.ep.supply ||| 2 ^ n, inReset := true }).stopEndpoint)) ∧
  (∀ (s : State) (cycled : Bool), (s.ep.inReset = false ∨ cycled = true) →
    exec (.endpointResetRelease cycled) s = .next { s with ep := { Endpoint.reset with
      strap := s.ep.strap, sh := { Shared.reset with clk := { Shared.reset.clk with started := s.clock } } } }) ∧
  (∀ s : State, s.ep.inReset = true → exec (.endpointResetRelease false) s = .next s) ∧
  (∀ (s : State) (a : Access) (b : BundleInfo), dirCheck .ep a 0xD80003 true s = 0 →
    (s.ep.sh.rot.boot = 1 → exec (.bundleLoad a b) s = .next (s.emit (.dir .ep a.ctx stBusy [])).epOn) ∧
    (s.ep.sh.rot.boot = 2 → s.ep.sh.rot.reason = 7 → exec (.bundleLoad a b) s = .next (s.emit (.dir .ep a.ctx stOk [])).epOn) ∧
    (s.ep.sh.rot.boot = 0 → bundleCheck .ep b = 0 → ∃ u : State, exec (.bundleLoad a b) s =
        .next ((u.epPorts.emit (.dir .ep a.ctx stOk [])).epOn) ∧
      u = { s with ep := { s.ep with sh := { s.ep.sh with rot := { s.ep.sh.rot with boot := 1, reason := 0, running := some b } } } }) ∧
    (∀ n, s.ep.sh.rot.boot = 0 → bundleCheck .ep b = n → n ≠ 0 → ∃ u : State, exec (.bundleLoad a b) s =
        .next (((u.logEvent .ep 1 0x000B 0 (n * 2 ^ 96 + b.version * 2 ^ 64)).emit (.dir .ep a.ctx stOk [])).epOn) ∧
      u = { s with ep := { s.ep with sh := { s.ep.sh with rot := { s.ep.sh.rot with boot := 2, reason := n } } } }))

/-- R179, R180, R182, R191, R200: the spill reserve changes only while every region is Free; a descriptor write starts a Free
region's initialisation with storage keys of its own, and one with V clear starts its removal or is Busy; a region initialised
is zero and Ready, a Trace ring with its header and an Allocator with all pages free, unless its owner was torn down and it
waits for the scrub step; one scrubbed is zero and Free, and the removals that waited for it are noted; a Retained region is
handed over to a slice or removed at its retention limit, and a Stale one is cleared. Completion, on the conditions of the
clauses alone, is stated of the constructors spillReserveWrite, regionDescriptorWrite, regionInitComplete,
regionScrubComplete, handover, clearStale, retentionLimit. -/
def Obligations.RegionsRunTheirStates : Prop :=
  (∀ (s : State) (a : Access) (val : List Byte), dirCheck .mod a 0x700002 true s = 0 → val.length = 2 → spillOk (beNat val) = true →
    ((∀ x ∈ s.mod.regions, x.2.state = 0) →
      exec (.spillReserveWrite a val) s = .next ((s.setReg .mod 0x700002 (beNat val)).emit (.dir .mod a.ctx stOk []))) ∧
    ((∃ x ∈ s.mod.regions, x.2.state ≠ 0) →
      exec (.spillReserveWrite a val) s = .next (s.emit (.dir .mod a.ctx stBusy [])))) ∧
  (∀ (s : State) (a : Access) (val : List Byte) (i : Nat) (d : Region × Nat), dirCheck .mod a 0x701002 true s = 0 → val.length = 16 →
    i = s.sel .mod a.ctx 0x701001 → d = regionOf (beNat val) → d.1.v = true →
    ((s.region i).state = 0 → s.regionBad i d.1 d.2 = false → ∃ u : State,
      exec (.regionDescriptorWrite a val) s = .next (u.emit (.dir .mod a.ctx stOk [])) ∧
      u = { s with mod := { s.mod with
        serial := s.mod.serial + 1
        regions := tabPut s.mod.regions i { d.1 with state := 1, serial := s.mod.serial, key := some (s.keyFor i d.1 s.mod.serial) }
          Region.free } }) ∧
    ((s.region i).state = 0 → s.regionBad i d.1 d.2 = true →
      exec (.regionDescriptorWrite a val) s = .next (s.emit (.dir .mod a.ctx stRange []))) ∧
    ((s.region i).state ≠ 0 → exec (.regionDescriptorWrite a val) s = .next (s.emit (.dir .mod a.ctx stBusy [])))) ∧
  (∀ (s : State) (a : Access) (val : List Byte) (i : Nat) (d : Region × Nat), dirCheck .mod a 0x701002 true s = 0 → val.length = 16 →
    i = s.sel .mod a.ctx 0x701001 → d = regionOf (beNat val) → d.1.v = false → d.2 = 0 →
    (((s.region i).state = 1 ∨ (s.region i).state = 4 ∨ (s.region i).state = 2 ∧ s.admCovers (s.region i) = false ∧
        (s.region i).next = none ∧ s.regionBusy (s.region i) = false) →
      exec (.regionDescriptorWrite a val) s = .next ((s.setRegion i { s.region i with
        v := false, state := 3, next := none, torn := false }).emit (.dir .mod a.ctx stOk []))) ∧
    (((s.region i).state = 3 ∨ (s.region i).state = 2 ∧ s.admCovers (s.region i) = true) →
      exec (.regionDescriptorWrite a val) s = .next (s.emit (.dir .mod a.ctx stBusy [])))) ∧
  (∀ (s : State) (i : Nat) (r : Region), s.region i = r → r.state = 1 → s.mod.inSlot = false → r.torn = true → r.retain = false →
    exec (.regionInitComplete i) s = .next s) ∧
  (∀ (s : State) (i : Nat) (r : Region), s.region i = r → r.state = 1 → s.mod.inSlot = false → (r.torn = true → r.retain = true) →
    ∃ u : State,
    exec (.regionInitComplete i) s = .next u ∧
    u.region i = { r with
      state := if r.torn then 4 else 2, next := none, torn := false
      retainedAt := if r.torn then s.ns else r.retainedAt
      alloc := if r.kind = 1 then some (newAlloc r) else none } ∧
    (∀ j, j ≠ i → u.region j = s.region j) ∧
    (∀ x, r.first ≤ x → x < r.first + r.bytes → (r.kind = 3 → r.first + 64 ≤ x) → tabGetD u.mod.mem x 0#8 = 0#8) ∧
    (r.kind = 3 → u.commonsRead r.first 64 = ringHeader 0 ((r.bytes - 4096) / 64) 0) ∧
    (∀ x, (x < r.first ∨ r.first + r.bytes ≤ x) → tabGetD u.mod.mem x 0#8 = tabGetD s.mod.mem x 0#8) ∧
    u.ep = s.ep ∧ u.out = s.out) ∧
  (∀ (s : State) (i : Nat) (r : Region), s.region i = r → r.state = 3 → s.mod.inSlot = false → ∃ u : State,
    exec (.regionScrubComplete i) s = .next u ∧ u.region i = Region.free ∧ (∀ j, j ≠ i → u.region j = s.region j) ∧
    (∀ x, r.first ≤ x → x < r.first + r.bytes → tabGetD u.mod.mem x 0#8 = 0#8) ∧
    (∀ x, (x < r.first ∨ r.first + r.bytes ≤ x) → tabGetD u.mod.mem x 0#8 = tabGetD s.mod.mem x 0#8) ∧
    u.mod.sh.keys = (s.mod.sh.keys.map fun k => if k.removal = 3 ∧ k.readyAt = none ∧ u.scrubbed .mod k.job = true then
      { k with readyAt := some (s.epochOf .mod) } else k) ∧ u.ep = s.ep ∧ u.out = s.out) ∧
  (∀ (s : State) (i : Nat), ((s.region i).state ≠ 1 → exec (.regionInitComplete i) s = .next s) ∧
    ((s.region i).state ≠ 3 → exec (.regionScrubComplete i) s = .next (s.noteScrubbed .mod)) ∧
    ((s.region i).state ≠ 4 → exec (.retentionLimit i) s = .next s) ∧
    (s.ns < (s.region i).retainedAt + 1000000000 * s.regNow .mod 0x760007 → exec (.retentionLimit i) s = .next s) ∧
    ((s.region i).state = 4 → (s.region i).retainedAt + 1000000000 * s.regNow .mod 0x760007 ≤ s.ns →
      exec (.retentionLimit i) s = .next (s.setRegion i { s.region i with state := 3, next := none, torn := false }))) ∧
  (∀ (s : State) (a : Access) (val : List Byte) (i : Nat), dirCheck .mod a 0x701004 true s = 0 → val.length = 2 →
    1 ≤ beNat val → beNat val ≤ 0xFFFE → i = s.sel .mod a.ctx 0x701001 →
    ((s.region i).state ≠ 4 → exec (.handover a val) s = .next (s.emit (.dir .mod a.ctx stBusy []))) ∧
    ((s.region i).state = 4 → s.hasSlice (beNat val) = false →
      exec (.handover a val) s = .next (s.emit (.dir .mod a.ctx stRange []))) ∧
    ((s.region i).state = 4 → s.hasSlice (beNat val) = true → exec (.handover a val) s =
      .next ((s.setRegion i { s.region i with owner := beNat val, state := 2 }).emit (.dir .mod a.ctx stOk [])))) ∧
  (∀ (s : State) (a : Access) (i : Nat), dirCheck .mod a 0x701005 true s = 0 → i = s.sel .mod a.ctx 0x701001 →
    ((s.region i).state = 5 → exec (.clearStale a [1#8]) s =
      .next ((s.setRegion i { s.region i with state := 2 }).emit (.dir .mod a.ctx stOk []))) ∧
    ((s.region i).state ≠ 5 → exec (.clearStale a [1#8]) s = .next (s.emit (.dir .mod a.ctx stBusy []))))

/-- R188, R190, R198, R199: a stack that fails retraining or passes its limit leaves service and is reported, and enough of them
fence the module; a scrub window opens once an epoch, within its length and outside checkpoint slots, reads the lines that its
rate reaches and no other, records those that fail, and closes after its length; a restore command takes a checkpoint region
and pushes its fragments, and the push ends with success or failure once all are answered; a restore packet is admitted only
while the window is open and from a Commons node, and is written at its offset in the window. Completion, on the conditions of
the clauses alone, is stated of the constructors stackFailed, scrubWindow, scrubWindowEnd, checkpointSlot, restoreCommand,
restorePushComplete, checkpointRestore. -/
def Obligations.ScrubCheckpointAndRestore : Prop :=
  (∀ (s : State) (k : Nat) (retrain : Bool), k < 24 → s.mod.failedStacks.contains k = false → (retrain = true ∨
      tabGetD s.mod.uncorr k 0 / 2 ^ 32 = s.epochOf .mod ∧ s.regNow .mod 0x730002 < tabGetD s.mod.uncorr k 0 % 2 ^ 32) →
    ∃ u : State, u = ({ s with mod := { s.mod with
        failedStacks := setIns s.mod.failedStacks k
        spill := s.mod.spill.filter fun x => pageStack x.1 != k } } : State).report .mod 2 0 s.plane ∧
      (u.mod.failedStacks.length < u.regNow .mod 0xA60002 → exec (.stackFailed k retrain) s = .next u.fenceOn) ∧
      (u.regNow .mod 0xA60002 ≤ u.mod.failedStacks.length → exec (.stackFailed k retrain) s = .next u.selfFence.fenceOn)) ∧
  (∀ (s : State) (k : Nat) (retrain : Bool), (24 ≤ k ∨ s.mod.failedStacks.contains k = true ∨ (retrain = false ∧
      (tabGetD s.mod.uncorr k 0 / 2 ^ 32 ≠ s.epochOf .mod ∨ tabGetD s.mod.uncorr k 0 % 2 ^ 32 ≤ s.regNow .mod 0x730002))) →
    exec (.stackFailed k retrain) s = .next s.fenceOn) ∧
  (∀ s : State, (s.mod.scrubOn = true → s.mod.scrubEnds ≤ s.rackNs .mod →
      exec .scrubWindowEnd s = .next { s with mod := { s.mod with scrubOn := false } }) ∧
    ((s.mod.scrubOn = false ∨ s.rackNs .mod < s.mod.scrubEnds) → exec .scrubWindowEnd s = .next s) ∧
    exec .checkpointSlot s = .next { s with mod := { s.mod with inSlot := s.slotCovers (s.epochOf .mod) } }) ∧
  (∀ (s : State) (c f : List Nat), (s.regNow .mod 0x730003 = 0 ∨ s.slotCovers (s.epochOf .mod) = true ∨
      s.epochOf .mod + 1 ≤ s.mod.scrubEpoch ∨ 1000 * s.regNow .mod 0x730003 ≤ s.rackNs .mod % 1000000) →
    exec (.scrubWindow c f) s = .next s) ∧
  (∀ (s : State) (len total from_ n : Nat) (held : List (Nat × Nat)) (reads : Nat → Prop), len = s.regNow .mod 0x730003 → len ≠ 0 → s.slotCovers (s.epochOf .mod) = false →
    s.mod.scrubEpoch ≤ s.epochOf .mod → s.rackNs .mod % 1000000 < 1000 * len → s.mod.bad = [] → held = s.heldLines →
    total = held.foldl (fun n r => n + r.2) 0 → from_ = heldBelow held s.mod.scrubAt →
    n = min total (s.regNow .mod 0x730004 * len / 128) →
    (∀ l, reads l ↔ (s.regionAt (l * 128)).isSome = true ∧ (heldBelow held l + total - from_) % max 1 total < n) →
    (∀ c : List Nat, ∃ u : State, exec (.scrubWindow c []) s = .next u ∧ u.mod.scrubOn = true ∧
      u.mod.scrubEpoch = s.epochOf .mod + 1 ∧ u.mod.scrubEnds = s.epochOf .mod * 1000000 + 1000 * len ∧
      u.mod.scrubAt = heldAt held ((from_ + n) % max 1 total) ∧ (∀ l, l ∈ u.mod.corrected ↔ l ∈ s.mod.corrected ∧ ¬ (l ∈ c ∧ reads l)) ∧
      u.mod.mem = s.mod.mem ∧ u.mod.bad = s.mod.bad ∧ u.mod.errors = s.mod.errors ∧ u.mod.regions = s.mod.regions ∧
      u.ep = s.ep ∧ u.out = s.out) ∧
    (∀ l, reads l → ∃ u : State, ∃ e : MemError, exec (.scrubWindow [] [l]) s = .next u ∧ u.mod.bad = [l * 2 + 1] ∧
      u.mod.errors = (e :: s.mod.errors).take 64 ∧ e.line = l ∧ e.kind = 2 ∧ e.stack = s.stackOf (l * 128) ∧
      u.mod.mem = s.mod.mem ∧ u.ep = s.ep) ∧
    (∀ l, ¬ reads l → ∃ u : State, exec (.scrubWindow [] [l]) s = .next u ∧ u.mod.bad = [] ∧ u.mod.errors = s.mod.errors ∧
      u.mod.mem = s.mod.mem ∧ u.ep = s.ep)) ∧
  (∀ (s : State) (a : Access) (val : List Byte) (w : Nat), dirCheck .mod a 0x760001 true s = 0 → val.length = 16 → w = beNat val →
    (s.mod.push.state = 1 → exec (.restoreCommand a val) s = .next (s.emit (.dir .mod a.ctx stBusy [])).modOn) ∧
    (s.mod.push.state ≠ 1 → (s.region (bits w 127 120)).kind = 2 → ((s.region (bits w 127 120)).state = 2 ∨
        (s.region (bits w 127 120)).state = 4) → bits w 119 110 < s.endpoints → bits w 44 0 = 0 → bits w 77 46 ≠ 0 →
      (bits w 109 78 + bits w 77 46) * 65536 ≤ (s.region (bits w 127 120)).bytes → ∃ u : State,
      exec (.restoreCommand a val) s = .next (u.emit (.dir .mod a.ctx stOk [])).modOn ∧
      u = { s with mod := { s.mod with
        push := { state := 1, region := bits w 127 120, target := bits w 119 110, first := bits w 109 78, stripes := bits w 77 46,
                  parity := bit w 45, next := 0, open_ := [], bad := [], pushed := 0, failed := 0 } } })) ∧
  (∀ s : State, (s.mod.push.state = 1 → s.mod.push.stripes ≤ s.mod.push.next → s.mod.push.open_ = [] →
      exec .restorePushComplete s = .next { s with mod := { s.mod with
        push := { s.mod.push with state := if s.mod.push.failed = 0 then 2 else 3 } } }) ∧
    ((s.mod.push.state ≠ 1 ∨ s.mod.push.next < s.mod.push.stripes ∨ s.mod.push.open_ ≠ []) →
      exec .restorePushComplete s = .next s)) ∧
  (∀ (s : State) (k : Packet) (tagOk : Bool), s.fabricOff .ep = true → exec (.checkpointRestore k tagOk) s = .next s) ∧
  (∀ (s : State) (k : Packet) (tagOk : Bool) (r : SrcRec), s.fabricOff .ep = false → formOk k true = true → k.typ = 0x31 → k.job = 0 →
    k.dst = s.node .ep → s.sealCheck .ep k tagOk = 0 → s.ep.sh.recv.rec_ k.from_ = some r → k.s = false →
    r.settledOf k.seq = none → s.ep.sh.recv.busyWith k.from_ k.seq = false → serialDiff k.seq r.base < 4096 →
    ((s.reg .ep 0xD62003 ≠ 1 ∨ k.src < 512 ∨ 527 < k.src ∨ s.reg .ep 0xD62002 < k.off + k.len) →
      exec (.checkpointRestore k tagOk) s = .next ((((s.noted .ep k k.plane).deny .ep k.job k.src k.off k.typ 1).finish .ep k k.plane
        cDenied [] false).epOn)) ∧
    (s.reg .ep 0xD62003 = 1 → 512 ≤ k.src → k.src ≤ 527 → k.off + k.len ≤ s.reg .ep 0xD62002 →
      ∃ g : InProg, g.id = s.ep.sh.recv.nextId ∧ g.src = k.from_ ∧ g.pkt = k ∧ g.loc = s.reg .ep 0xD62001 + k.off ∧ g.result = none ∧
        exec (.checkpointRestore k tagOk) s = .next ((((s.noted .ep k k.plane).modRecv .ep fun q =>
          { q with inprog := q.inprog ++ [g], nextId := g.id + 1 }).sendMem (.restore g.id) 0x29 0 g.loc k.len 0 0 k.payload).epOn)))

/-- R191, R201, R202, R260, R261, R262, R338: a host access that arrives marked is answered with at most one CNP in 50 µs; one on
a queue pair bound to a Job ID is discarded at a fenced module, else admitted as a fabric request, and reads, writes or
changes the Commons at its local address; what its binding, its length, its admission entry or the state of its bytes does not
allow ends in the RoCEv2 result of its code with memory unchanged; a directory queue pair writes the staging area and takes
Directory messages; a host port takes its state and answers only while it is up. Completion, on the conditions of the clauses
alone, is stated of the constructors rdmaWrite, rdmaRead, atomicFetchAndAdd, atomicCompareAndSwap, send, hostLinkStateChange,
arpNeighbourDiscoveryIcmpEcho. -/
def Obligations.HostAccessesReachCommons : Prop :=
  (∀ (s : State) (n : Nat), s.congestion n false = s ∧
    ((s.qp n).state ≠ 1 → s.congestion n true = s) ∧
    ((s.qp n).state = 1 → (∀ t, tabGet s.mod.cnps n = some t → t + 50000 ≤ s.ns) →
      s.congestion n true = ({ s with mod := { s.mod with cnps := tabSet s.mod.cnps n s.ns } } : State).emit (.cnp n)) ∧
    (∀ t, tabGet s.mod.cnps n = some t → s.ns < t + 50000 → s.congestion n true = s)) ∧
  (∀ (s w : State) (n rkey va len err : Nat) (data : List Byte) (ce : Bool), w = s.congestion n ce →
    (s.mod.ve.fenced = true → (s.qp n).use = 1 →
      exec (.rdmaRead n rkey va len err ce) s = .next w ∧ exec (.rdmaWrite n rkey va data err ce) s = .next w ∧
      exec (.atomicFetchAndAdd n rkey va len err ce) s = .next w ∧ exec (.atomicCompareAndSwap n rkey va len len err ce) s = .next w) ∧
    (s.mod.ve.fenced = false → (s.qp n).use ≠ 2 → (s.qp n).takes 1 rkey va = false →
      (len ≤ 2 ^ 30 → exec (.rdmaRead n rkey va len err ce) s = .next (w.emit (.roce n 1 []))) ∧
      (data.length ≤ 2 ^ 30 → exec (.rdmaWrite n rkey va data err ce) s = .next (w.emit (.roce n 1 []))))) ∧
  (∀ (s w : State) (n rkey va x y err : Nat) (data : List Byte) (ce : Bool), w = s.congestion n ce → s.mod.ve.fenced = false →
    ((s.qp n).use = 2 ∨ va % 8 ≠ 0 →
      exec (.atomicFetchAndAdd n rkey va x err ce) s = .next (w.emit (.roce n 4 [])) ∧
      exec (.atomicCompareAndSwap n rkey va x y err ce) s = .next (w.emit (.roce n 4 []))) ∧
    ((s.qp n).use = 2 ∨ 2 ^ 30 < x → exec (.rdmaRead n rkey va x err ce) s = .next (w.emit (.roce n 4 []))) ∧
    (2 ^ 30 < data.length → exec (.rdmaWrite n rkey va data err ce) s = .next (w.emit (.roce n 4 [])))) ∧
  (∀ (s w : State) (n rkey va : Nat) (data : List Byte) (err : Nat) (ce : Bool), w = s.congestion n ce → (s.qp n).takes 2 rkey va = true →
    data.length ≤ 2 ^ 30 →
    (va + data.length ≤ 2 ^ 28 → exec (.rdmaWrite n rkey va data err ce) s =
      .next (({ w with mod := { w.mod with staging := memWrite s.mod.staging va data } } : State).emit (.roce n 0 []))) ∧
    (2 ^ 28 < va + data.length → exec (.rdmaWrite n rkey va data err ce) s = .next (w.emit (.roce n 1 [])))) ∧
  (∀ (s w : State) (n rkey va len err : Nat) (data : List Byte) (ce : Bool), w = s.congestion n ce → s.mod.ve.fenced = false →
    (s.qp n).takes 1 rkey va = true → len ≤ 2 ^ 30 → data.length ≤ 2 ^ 30 →
    (s.jobState .mod (s.qp n).job = 1 →
      exec (.rdmaRead n rkey va len err ce) s = .next ((w.deny .mod (s.qp n).job 0 va 0x01 0).emit (.roce n 1 [])) ∧
      exec (.rdmaWrite n rkey va data err ce) s = .next ((w.deny .mod (s.qp n).job 0 va 0x02 0).emit (.roce n 1 []))) ∧
    (s.jobState .mod (s.qp n).job = 0 → admFind s.mod.sh.adm (s.qp n).job va len = none →
      exec (.rdmaRead n rkey va len err ce) s = .next ((w.deny .mod (s.qp n).job 0 va 0x01 1).emit (.roce n 1 []))) ∧
    (∀ e, s.jobState .mod (s.qp n).job = 0 → admFind s.mod.sh.adm (s.qp n).job va data.length = some e → e.w = false →
      exec (.rdmaWrite n rkey va data err ce) s = .next ((w.deny .mod (s.qp n).job 0 va 0x02 2).emit (.roce n 1 [])))) ∧
  (∀ (s w : State) (n rkey va len loc : Nat) (e : AdmEntry) (ce : Bool), w = s.congestion n ce → s.mod.ve.fenced = false →
    (s.qp n).takes 1 rkey va = true → len ≤ 2 ^ 30 → s.jobState .mod (s.qp n).job = 0 →
    admFind s.mod.sh.adm (s.qp n).job va len = some e → e.r = true → loc = e.localBase * 65536 + (va - e.offBase * 65536) →
    loc + len ≤ s.usableBytes → s.metaAt loc = false →
    (s.staleAt loc = true → exec (.rdmaRead n rkey va len 0 ce) s = .next (w.emit (.roce n 2 []))) ∧
    (s.staleAt loc = false → s.linesGood loc len →
      exec (.rdmaRead n rkey va len 0 ce) s = .next (w.emit (.roce n 0 (s.commonsRead loc len))))) ∧
  (∀ (s w : State) (n rkey va loc : Nat) (data : List Byte) (e : AdmEntry) (ce : Bool), w = s.congestion n ce →
    s.mod.ve.fenced = false → (s.qp n).takes 1 rkey va = true → data.length ≤ 2 ^ 30 →
    s.jobState .mod (s.qp n).job = 0 → admFind s.mod.sh.adm (s.qp n).job va data.length = some e → e.w = true →
    loc = e.localBase * 65536 + (va - e.offBase * 65536) → loc + data.length ≤ s.usableBytes →
    (s.metaAt loc = true → exec (.rdmaWrite n rkey va data 0 ce) s =
      .next ((w.deny .mod (s.qp n).job 0 va 0x02 1).emit (.roce n 1 []))) ∧
    (s.metaAt loc = false → s.linesGood loc data.length → ∃ u : State,
      exec (.rdmaWrite n rkey va data 0 ce) s = .next (u.emit (.roce n 0 [])) ∧ u.mod.mem = memWrite s.mod.mem loc data ∧
      (∀ x, x < loc ∨ loc + data.length ≤ x → tabGetD u.mod.mem x 0#8 = tabGetD s.mod.mem x 0#8) ∧
      u.mod.regions = s.mod.regions ∧ u.mod.sh = s.mod.sh ∧ u.ep = s.ep ∧ u.out = w.out)) ∧
  (∀ (s w : State) (n rkey va loc x y old new : Nat) (c : Instr) (e : AdmEntry) (ce : Bool), w = s.congestion n ce →
    s.mod.ve.fenced = false → (s.qp n).takes 1 rkey va = true → va % 8 = 0 →
    (s.mod.sh.recv.inprog.filter fun g => g.pkt.typ == 0x03).length < atomCap .mod → s.jobState .mod (s.qp n).job = 0 →
    admFind s.mod.sh.adm (s.qp n).job va 8 = some e → e.a = true → loc = e.localBase * 65536 + (va - e.offBase * 65536) →
    loc + 8 ≤ s.usableBytes → s.metaAt loc = false → s.staleAt loc = false → s.linesGood loc 8 → loc % 8 = 0 →
    old = leNat (s.commonsRead loc 8) → x < 2 ^ 64 → y < 2 ^ 64 →
    (c = .atomicFetchAndAdd n rkey va x 0 ce ∧ new = (old + x) % 2 ^ 64 ∨
      c = .atomicCompareAndSwap n rkey va x y 0 ce ∧ new = if old = x then y else old) → ∃ u : State,
    exec c s = .next (u.emit (.roce n 0 (leBytes 8 old))) ∧ u.mod.mem = memWrite s.mod.mem loc (leBytes 8 new) ∧
    (∀ x, x < loc ∨ loc + 8 ≤ x → tabGetD u.mod.mem x 0#8 = tabGetD s.mod.mem x 0#8) ∧ u.mod.regions = s.mod.regions ∧
    u.mod.sh = s.mod.sh ∧ u.ep = s.ep ∧ u.out = w.out) ∧
  (∀ (s w : State) (n : Nat) (m : PMsg) (ce : Bool), w = s.congestion n ce →
    ((s.qp n).state ≠ 1 → exec (.send n m ce) s = .next (w.emit (.roce n 1 []))) ∧
    ((s.qp n).state = 1 → (s.qp n).use = 1 → exec (.send n m ce) s = .next (w.emit (.roce n 4 []))) ∧
    ((s.qp n).state = 1 → (s.qp n).use = 2 → exec (.send n m ce) s =
      .next ((w.proto .roce m.op m).1.emit (.roce n 0 [])))) ∧
  (∀ (s : State) (port st kind : Nat) (own : Bool), port < 4 → kind < 3 →
    (st < 3 → (st = 0 ∨ s.mod.sh.clk.crystal ≠ 2) → exec (.hostLinkStateChange port st) s =
      .next { s with mod := { s.mod with hosts := tabPut s.mod.hosts port st 0 } }) ∧
    (st ≠ 0 → s.mod.sh.clk.crystal = 2 → exec (.hostLinkStateChange port st) s = .next s) ∧
    (own = true → tabGetD s.mod.hosts port 0 = 2 →
      exec (.arpNeighbourDiscoveryIcmpEcho port kind own) s = .next (s.emit (.host port kind))) ∧
    (tabGetD s.mod.hosts port 0 ≠ 2 → exec (.arpNeighbourDiscoveryIcmpEcho port kind own) s = .next s) ∧
    exec (.arpNeighbourDiscoveryIcmpEcho port 3 own) s = .next { s with mod := { s.mod with fragments := s.mod.fragments + 1 } }) ∧
  (∀ (s : State) (a : Nat) (data : List Byte), (s.commonsWrite a data).commonsRead a data.length = data ∧
    ∀ b n, b + n ≤ a ∨ a + data.length ≤ b → (s.commonsWrite a data).commonsRead b n = s.commonsRead b n)

/-- R148, R151, R152, R177: group entries, member tables, contexts and program blocks are stored at the selected index once they
pass their checks, whether V is set or not, and no slot of the group is in use, else they are Busy or out of range and change
nothing; bits written with 1 clear a lateness record. Completion, on the conditions of the clauses alone, is stated of the
constructors groupEntryWrite, memberTableWrite, contextEntryWrite, programBlockWrite, latenessRecordClear. -/
def Obligations.CollectiveTablesAreWritten : Prop :=
  (∀ (s : State) (a : Access) (val : List Byte) (i : Nat) (n : Group × Nat) (new : Group), dirCheck .mod a 0x610007 true s = 0 →
    val.length = 16 → i = s.sel .mod a.ctx 0x610006 → n = groupOf (beNat val) → n.2 = 0 →
    new = { s.group i with v := n.1.v, job := n.1.job, members := n.1.members, rackMask := n.1.rackMask, lateness := n.1.lateness,
                           firstSeq := n.1.firstSeq, base := if n.1.v && !(s.group i).v then n.1.firstSeq else (s.group i).base } →
    (s.hasSlice n.1.job = true → (n.1.v = true → new.tableOk = true ∧ ∀ c ∈ new.ctxs, c.2.v = true →
        s.contextOk new c.2 (new.prog c.1) = true) →
      ((s.group i).slots = [] → exec (.groupEntryWrite a val) s = .next ((s.setGroup i new).emit (.dir .mod a.ctx stOk []))) ∧
      ((s.group i).slots ≠ [] → exec (.groupEntryWrite a val) s = .next (s.emit (.dir .mod a.ctx stBusy [])))) ∧
    (n.1.job ≠ 0 → s.hasSlice n.1.job = false → exec (.groupEntryWrite a val) s = .next (s.emit (.dir .mod a.ctx stRange []))) ∧
    (n.1.v = true → new.tableOk = false → exec (.groupEntryWrite a val) s = .next (s.emit (.dir .mod a.ctx stRange [])))) ∧
  (∀ (s : State) (a : Access) (val : List Byte) (i : Nat), dirCheck .mod a 0x610008 true s = 0 → val.length % 2 = 0 →
    2 ≤ val.length → val.length ≤ 4096 → i = s.sel .mod a.ctx 0x610006 → s.hasSlice (s.group i).job = true →
    (tableWordsOk (tableOf val) = true → ((s.group i).v = true → ({ s.group i with table := tableOf val } : Group).tableOk = true) →
      ((s.group i).slots = [] → exec (.memberTableWrite a val) s =
        .next ((s.setGroup i { s.group i with table := tableOf val }).emit (.dir .mod a.ctx stOk []))) ∧
      ((s.group i).slots ≠ [] → exec (.memberTableWrite a val) s = .next (s.emit (.dir .mod a.ctx stBusy [])))) ∧
    (tableWordsOk (tableOf val) = false → exec (.memberTableWrite a val) s = .next (s.emit (.dir .mod a.ctx stRange [])))) ∧
  (∀ (s : State) (a : Access) (val : List Byte) (i c : Nat) (n : CContext × Nat), dirCheck .mod a 0x61000A true s = 0 →
    val.length = 16 → i = s.sel .mod a.ctx 0x610006 → c = s.sel .mod a.ctx 0x610009 → n = contextOf (beNat val) →
    s.hasSlice (s.group i).job = true →
    (n.2 = 0 → s.contextOk (s.group i) n.1 ((s.group i).prog c) = true → (s.group i).slots = [] →
      exec (.contextEntryWrite a val) s = .next ((s.setGroup i { s.group i with
        ctxs := tabPut (s.group i).ctxs c n.1 CContext.reset }).emit (.dir .mod a.ctx stOk []))) ∧
    (n.2 = 0 → s.contextOk (s.group i) n.1 ((s.group i).prog c) = true → (s.group i).slots ≠ [] →
      exec (.contextEntryWrite a val) s = .next (s.emit (.dir .mod a.ctx stBusy []))) ∧
    (s.contextOk (s.group i) n.1 ((s.group i).prog c) = false →
      exec (.contextEntryWrite a val) s = .next (s.emit (.dir .mod a.ctx stRange [])))) ∧
  (∀ (s : State) (a : Access) (val : List Byte) (i c : Nat), dirCheck .mod a 0x61000B true s = 0 → val.length = 192 →
    i = s.sel .mod a.ctx 0x610006 → c = s.sel .mod a.ctx 0x610009 → s.hasSlice (s.group i).job = true →
    (((aword ((s.group i).ctx c).word).prog = true →
        progOk (aword ((s.group i).ctx c).word) val = true) → (s.group i).slots = [] →
      exec (.programBlockWrite a val) s = .next ((s.setGroup i { s.group i with
        progs := tabPut (s.group i).progs c val (List.replicate 192 0#8) }).emit (.dir .mod a.ctx stOk []))) ∧
    ((aword ((s.group i).ctx c).word).prog = true →
      progOk (aword ((s.group i).ctx c).word) val = false →
      exec (.programBlockWrite a val) s = .next (s.emit (.dir .mod a.ctx stRange [])))) ∧
  (∀ (s : State) (a : Access) (val : List Byte) (n : Nat) (z r : Lateness), dirCheck .mod a 0x620002 true s = 0 → val.length = 16 →
    n = s.sel .mod a.ctx 0x620001 → z = { barriers := 0, last := 0, sum := 0, max := 0 } → r = tabGetD s.mod.late n z →
    ∃ u : State, ∃ w : Lateness, exec (.latenessRecordClear a val) s = .next (u.emit (.dir .mod a.ctx stOk [])) ∧
      u = { s with mod := { s.mod with late := tabPut s.mod.late n w z } } ∧
      w.barriers = r.barriers - (r.barriers &&& beNat (sliceBytes val 0 4)) ∧ w.last = r.last - (r.last &&& beNat (sliceBytes val 4 4)) ∧
      w.sum = r.sum - (r.sum &&& beNat (sliceBytes val 8 4)) ∧ w.max = r.max - (r.max &&& beNat (sliceBytes val 12 4)))

/-- R130, R153, R160 to R162, R164 to R166, R168, R219, R220, R227, R229: a Probe, contribution or Arrive is refused with reason 0
for a Job ID that no slice serves, 1 for its group or context, 2 for a sender that is no member; one outside the four slots is
answered Hold or Poison; a Probe is answered with its context, an Arrive is noted, an exchange item goes on to its member, a
contribution that computes goes to the home tile of its piece as a frame, and at its tile it is added to its piece once its
Windrow cells are taken, else answered Hold; a chunk that lost a record answers Poison, and one that is complete, or has its
one shard, answers Done. Completion, on the conditions of the clauses alone, is stated of the constructors probe,
contribution, arrive. -/
def Obligations.CollectivePacketsOfMembers : Prop :=
  (∀ (s : State) (k : Packet) (port : Nat) (t : Bool) (c : Instr), s.fabricOff .mod = true →
    (c = .probe k port t ∨ c = .contribution k port t ∨ c = .arrive k port t) → exec c s = .next s) ∧
  (∀ (s : State) (k : Packet) (port : Nat) (t : Bool) (r : SrcRec) (c : Instr) (g : Group), s.fabricOff .mod = false →
    s.expired .mod (· == k) = none →
    (c = .probe k port t ∨ c = .contribution k port t ∨ c = .arrive k port t) → FreshCollective s .mod k t r →
    (s.jobState .mod k.job = 1 → exec c s = .next ((s.noted .mod k port).mcDeny k port 0).modOn) ∧
    (s.jobState .mod k.job = 0 → g = s.group k.group → (g.v = false ∨ g.job ≠ k.job) →
      exec c s = .next ((s.noted .mod k port).mcDeny k port 1).modOn) ∧
    (CollectiveOf s k g → (k.phase ≠ 6 ∧ (g.ctx k.cctx).op ≠ k.typ - 0x20 ∨ k.phase = 6 ∧ k.typ ≠ 0x20) →
      exec c s = .next ((s.noted .mod k port).mcDeny k port 1).modOn) ∧
    (CollectiveOf s k g → (k.phase = 6 ∧ k.typ = 0x20 ∨ (k.phase = 0 ∨ k.phase = 4) ∧ (g.ctx k.cctx).op = k.typ - 0x20) →
      ((k.srcRack ≠ s.rack .mod ∨ g.rankOf k.srcRack k.src = none) →
        exec c s = .next ((s.noted .mod k port).mcDeny k port 2).modOn) ∧
      (k.srcRack = s.rack .mod → g.rankOf k.srcRack k.src ≠ none → s.phaseOk g (g.ctx k.cctx).op k.phase k.tree = false →
        exec c s = .next ((s.noted .mod k port).mcDeny k port 5).modOn))) ∧
  (∀ (s : State) (k : Packet) (port : Nat) (t : Bool) (r : SrcRec) (c : Instr) (g : Group) (sh : Shape) (rank form : Nat),
    s.fabricOff .mod = false → s.expired .mod (· == k) = none →
    (c = .probe k port t ∨ c = .contribution k port t ∨ c = .arrive k port t) → FreshCollective s .mod k t r → CollectiveOf s k g →
    (k.phase = 6 ∧ k.typ = 0x20 ∨ (k.phase = 0 ∨ k.phase = 4) ∧ (g.ctx k.cctx).op = k.typ - 0x20) → k.srcRack = s.rack .mod →
    g.rankOf k.srcRack k.src = some rank → s.phaseOk g (g.ctx k.cctx).op k.phase k.tree = true →
    sh = g.shape (s.heldContext k) ((s.heldSize k).getD k.size) → form = memberForm sh k (s.heldSize k) →
    (form = 1 → exec c s = .next ((s.noted .mod k port).mcDeny k port 5).modOn) ∧
    (form = 2 → exec c s = .next (((s.noted .mod k port).malformed .mod port).mcDeny k port 5).modOn) ∧
    (form = 0 → g.place k.cseq = cHold → exec c s = .next ((((s.noted .mod k port).count .mod 0x07 0 0 1).partCount .mod k.job 6
      1).respond .mod k port cHold [] 0).modOn) ∧
    (form = 0 → g.place k.cseq = cPoison → exec c s = .next ((((s.noted .mod k port).count .mod 0x07 0 1 1).partCount .mod k.job 5
      1).finish .mod k port cPoison [] false).modOn) ∧
    (form = 0 → g.place k.cseq = cDone → ∃ (u : State) (x : SeqSlot), u = (s.noted .mod k port).openSlot k.group k.cseq k.cctx ∧
      u.seqSlot k.group k.cseq = some x ∧
      (k.phase = 6 → exec c s = .next ((u.takeSize k.group k).finish .mod k port cDone (beBytes 8 ((g.ctx k.cctx).bits_ / 2 ^ 64))
        false).modOn) ∧
      (k.phase = 4 → ∃ a : Arrival, a.rank = rank ∧ a.count = k.piece ∧ a.time = s.rackNs .mod ∧
        exec c s = .next ((((u.takeSize k.group k).modSlot k.group k.cseq fun x => if x.arrivals.any fun b => b.rank == rank then x
          else { x with arrivals := x.arrivals ++ [a] }).finish .mod k port cDone [] false).mcOn).modOn) ∧
      (k.phase = 0 → sh.op ≠ 5 → x.state = 2 → tabGet x.pieces k.piece = none →
        exec c s = .next ((s.noted .mod k port).mcDeny k port 5).modOn) ∧
      (∀ (home n : Nat) (p p' : Piece) (v : State), k.phase = 0 → (x.state = 2 → (tabGet x.pieces k.piece).isSome = true ∨ sh.op = 5) →
        home = x.home k.group k.piece → p = x.piece k.piece →
        p' = p.take sh false (g.ranksIn (s.rack .mod)).length (g.placeIn (s.rack .mod) rank) rank s.clock k.payload →
        n = (if sh.op = 0 ∨ sh.op = 4 then p'.cellsFor sh else p.cells) →
        (sh.op = 5 → g.table.length ≤ bits (beNat (k.payload.take 16)) 127 116 → exec c s = .next (u.mcDeny k port 5).modOn) ∧
        (sh.op = 5 → bits (beNat (k.payload.take 16)) 127 116 < g.table.length → ∃ q : InProg, q.id = u.mod.sh.recv.nextId ∧
          q.src = k.from_ ∧ q.pkt = k ∧ q.port = port ∧ q.result = none ∧
          exec c s = .next (((u.takeSize k.group k).modRecv .mod fun r => { r with inprog := r.inprog ++ [q], nextId := q.id +
            1 }).toMember (.forward q.id) (g.table.getD (bits (beNat (k.payload.take 16)) 127 116) 0)
            (u.collPacket k.group g x 1 0 k.piece k.payload)).modOn) ∧
        ((sh.op = 0 ∨ sh.op = 4) → home ≠ tileOfPort port →
          (u.hasCells (tileOfPort port) k.wireLen = false → exec c s = .next (u.tileCount (tileOfPort port) 4).modOn) ∧
          (u.hasCells (tileOfPort port) k.wireLen = true → ∃ q : InProg, q.id = u.mod.sh.recv.nextId ∧ q.src = k.from_ ∧ q.pkt = k ∧
            q.port = port ∧ q.stage = 1 ∧ q.result = none ∧
            exec c s = .next (((u.modRecv .mod fun r => { r with inprog := r.inprog ++ [q], nextId := q.id + 1 }).newFrame
              (tileOfPort port) home 4 2 k port)).modOn)) ∧
        (((sh.op = 0 ∨ sh.op = 4) ∧ home = tileOfPort port ∨ sh.op = 1 ∨ sh.op = 2) →
          ((sh.op = 0 ∨ sh.op = 4) → (u.tile home).inService = false → exec c s = .next (u.malformed .mod port).modOn) ∧
          (((sh.op = 0 ∨ sh.op = 4) → (u.tile home).inService = true) →
            (x.poisoned.contains (k.piece / 2 ^ sh.order) = true →
              exec c s = .next ((u.partCount .mod k.job 5 1).finish .mod k port cPoison [] false).modOn) ∧
            (x.poisoned.contains (k.piece / 2 ^ sh.order) = false → p.ranks.contains rank = true →
              exec c s = .next (u.mcDeny k port 2).modOn) ∧
            (x.poisoned.contains (k.piece / 2 ^ sh.order) = false → p.ranks.contains rank = false →
              (p.done = true ∨ (sh.op = 1 ∨ sh.op = 2) ∧ p.ranks ≠ []) → exec c s = .next (((((u.takeSize k.group k).countContribution
                k.group k.cseq rank).finish .mod k port cDone [] false).mcOn).modOn)) ∧
            (x.poisoned.contains (k.piece / 2 ^ sh.order) = false → p.ranks.contains rank = false → p.done = false →
              ((sh.op = 1 ∨ sh.op = 2) → p.ranks = []) →
              (p.cells < n → u.takeCells home (n - p.cells) (k.group, k.cseq, k.piece) 4096 = none →
                exec c s = .next (((if (u.tileCount home 14).mayTakePages home 1 then u.tileCount home 14
                  else (u.tileCount home 14).tileCount home 13).partCount .mod k.job 6 1).respond .mod k port cHold [] 0).modOn) ∧
              ((n ≤ p.cells ∧ v = u ∨ p.cells < n ∧ ∃ v0, u.takeCells home (n - p.cells) (k.group, k.cseq, k.piece) 4096 = some v0 ∧
                  v = v0.modTile home fun y => { y with windUsed := y.windUsed - (n - p.cells) }) → ∃ w : State,
                w = ((v.takeSize k.group k).giveCells k.group k.cseq k.piece home n).modPiece k.group k.cseq k.piece (fun p =>
                  p.take sh false (g.ranksIn (s.rack .mod)).length (g.placeIn (s.rack .mod) rank) rank v.clock k.payload) ∧
                ((sh.op = 0 ∨ sh.op = 4) → exec c s = .next (((((w.drawn).engineAdds (w.engineFor k.group g x k.piece)
                  (sh.elems k.piece) k.payload.length).countContribution k.group k.cseq rank).finish .mod k port cDone [] false).mcOn).modOn) ∧
                ((sh.op = 1 ∨ sh.op = 2) → exec c s = .next (((w.countContribution k.group k.cseq rank).finish .mod k port cDone []
                  false).mcOn).modOn)))))))) ∧
  (∀ (p : Piece) (sh : Shape) (n at_ rank now : Nat) (b : List Byte) (q : Piece), q = { p with ranks := p.ranks ++ [rank], touched := now } →
    p.take sh true n at_ rank now b = { q with held := p.held ++ [(rank, b)] } ∧
    ((sh.op = 1 ∨ sh.op = 2) → p.take sh false n at_ rank now b = { q with held := p.held ++ [(rank, b)] }) ∧
    (sh.op = 0 → (aword sh.word).mode = 0 →
      (p.spilled = false → p.take sh false n at_ rank now b = { q with acc := accAddAll p.acc (decodePayload (aword sh.word).input b) }) ∧
      (p.spilled = true → p.take sh false n at_ rank now b = { q with side := accAddAll p.side (decodePayload (aword sh.word).input b) })) ∧
    (sh.op = 0 → (aword sh.word).mode ≠ 0 → ∃ leaf : TNode, leaf.lo = at_ ∧ leaf.n = 1 ∧
      leaf.vals = (decodePayload (aword sh.word).input b).map (toAcc (aword sh.word).work) ∧
      (p.spilled = false → p.take sh false n at_ rank now b = { q with nodes := treeStep (aword sh.word).work 16 0 n (p.nodes ++ [leaf]) }) ∧
      (p.spilled = true → p.take sh false n at_ rank now b = { q with sideNodes := p.sideNodes ++ [leaf] })) ∧
    (sh.op = 4 →
      (p.spilled = false → p.take sh false n at_ rank now b = { q with held := [(0, mergeTopK sh.k (p.held.map (·.2) ++ [b]))] }) ∧
      (p.spilled = true → p.take sh false n at_ rank now b = { q with sideHeld := [(0, mergeTopK sh.k (p.sideHeld.map (·.2) ++ [b]))] })))

/-- R154, R155, R161, R163, R166, R171, R175, R176: a Result or Release reaches the collective that it names at an endpoint or is
refused and counted, but for the second Release of a barrier, which is answered Done, and one that comes while Probes are out,
which is answered Retry (the model's choice, log entry 53): a Result that fits is written to its places, a Release is noted;
sending starts at its time, a Hold and a Retry are sent again once due, a collective ends with Poison at its timeout, and a
port that is ready takes its waiting copies. Completion, on the conditions of the clauses alone, is stated of the constructors
result, release, holdResend, resultResend, collectiveSendStart, collectiveTimeout, residueDelivery. -/
def Obligations.CollectivesAtTheEndpoint : Prop :=
  (∀ (s : State) (k : Packet) (t : Bool) (c : Instr), s.fabricOff .ep = true → (c = .result k t ∨ c = .release k t) →
    exec c s = .next s) ∧
  (∀ (s : State) (k : Packet) (t : Bool) (r : SrcRec) (c : Instr), s.fabricOff .ep = false →
    (c = .result k t ∨ c = .release k t) →
    FreshCollective s .ep k t r →
    (s.jobState .ep k.job = 1 → exec c s = .next (((s.noted .ep k k.plane).deny .ep k.job k.src 0 k.typ 0).finish .ep k k.plane cDenied
      [] false).epOn) ∧
    (s.jobState .ep k.job = 0 → s.collNamed k.job k.group k.cseq = none →
      k.phase = 5 → s.ep.released.contains (k.job, k.group, k.cseq) = true → ∃ u : State, u = { s.noted .ep k k.plane with
          ep := { (s.noted .ep k k.plane).ep with released := s.ep.released.filter fun r => r != (k.job, k.group, k.cseq) } } ∧
        exec c s = .next (u.finish .ep k k.plane cDone [] false).epOn) ∧
    (s.jobState .ep k.job = 0 → s.collNamed k.job k.group k.cseq = none →
      (k.phase ≠ 5 ∨ s.ep.released.contains (k.job, k.group, k.cseq) = false) →
      exec c s = .next (((s.noted .ep k k.plane).epCount 27).finish .ep k k.plane cDenied [] false).epOn) ∧
    (∀ x, s.jobState .ep k.job = 0 → s.collNamed k.job k.group k.cseq = some x →
      ((x.state = 0 ∨ x.state = 6) ∧ x.todo ≠ [] ∨ x.shape = none) →
      exec c s = .next ((s.noted .ep k k.plane).respond .ep k k.plane cRetry [] 0).epOn) ∧
    (∀ x sh, s.jobState .ep k.job = 0 → s.collNamed k.job k.group k.cseq = some x → (x.state = 0 ∨ x.state = 6 → x.todo = []) →
      x.shape = some sh →
      (k.phase = 5 → (sh.op = 3 ∨ sh.op = 5) → k.typ = 0x20 + sh.op → k.payload = [] →
        exec c s = .next ((((s.noted .ep k k.plane).modColl x.id fun x => { x with rel := setIns x.rel k.plane }).finish .ep k k.plane cDone
          [] false).epOn)) ∧
      ((k.phase = 5 ∧ (sh.op ≠ 3 ∧ sh.op ≠ 5 ∨ k.typ ≠ 0x20 + sh.op ∨ k.payload ≠ []) ∨ k.phase ≠ 5 ∧ k.phase ≠ 1 ∨
          k.phase = 1 ∧ x.fitsResult sh k = 1) →
        exec c s = .next (((s.noted .ep k k.plane).epCount 27).finish .ep k k.plane cDenied [] false).epOn) ∧
      (k.phase = 1 → x.fitsResult sh k = 2 →
        exec c s = .next (((s.noted .ep k k.plane).epCount 28).finish .ep k k.plane cDenied [] false).epOn) ∧
      (k.phase = 1 → x.fitsResult sh k = 0 → ∃ g : InProg, g.id = s.ep.sh.recv.nextId ∧ g.src = k.from_ ∧ g.pkt = k ∧ g.result = none ∧
        exec c s = .next ((x.places sh k).foldl (fun s w => (pieces4k w.1 w.2.length).foldl (fun s p =>
          s.sendMem (.resultW g.id x.id) 0x29 4 (x.localOf (w.1 + p.1)) p.2 0 0 (sliceBytes w.2 p.1 p.2)) s)
            ((s.noted .ep k k.plane).modRecv .ep fun q => { q with inprog := q.inprog ++ [g], nextId := g.id + 1 })).epOn))) ∧
  (∀ (s : State) (c : Nat) (x : EpColl), s.coll c = some x →
    ((x.state ≠ 2 ∨ x.routeReads ≠ 0 ∨ s.rackNs .ep < x.start) → exec (.collectiveSendStart c) s = .next s.epOn) ∧
    (x.state = 2 → x.routeReads = 0 → x.start ≤ s.rackNs .ep → exec (.collectiveSendStart c) s = .next (s.collSend c).epOn) ∧
    (s.ns < x.accepted + x.limit → exec (.collectiveTimeout c) s = .next s.epOn) ∧
    (x.accepted + x.limit ≤ s.ns → exec (.collectiveTimeout c) s = .next ((s.collEnd c cPoison).collDrop c).epOn)) ∧
  (∀ (s : State) (id : Nat) (r : Req), s.ep.sh.req id = some r →
    ((r.st ≠ .holdWait ∨ s.ns < r.due) → exec (.holdResend id) s = .next s.epOn) ∧
    (r.st = .holdWait → r.due ≤ s.ns → s.slotRevoked r.slot r.pkt.job = true →
      exec (.holdResend id) s = .next (s.endReq .ep id cTorn []).epOn) ∧
    (∀ c, r.st = .holdWait → r.due ≤ s.ns → s.slotRevoked r.slot r.pkt.job = false → r.owner = .coll c →
      isColl r.pkt.typ = true → s.ep.live.contains r.pkt.plane = true → s.planeSince r.pkt.plane r.first = true → exec (.holdResend id) s =
        .next ((s.modColl c fun x => { x with holds := x.holds + 1 }).resend .ep r r.pkt.plane 0 r.pkt.plane).epOn)) ∧
  (∀ (s : State) (id : Nat) (r : Req), s.mod.sh.req id = some r →
    ((r.st ≠ .retryWait ∨ s.ns < r.due) → exec (.resultResend id) s = .next s.modOn) ∧
    (∀ port, r.st = .retryWait → r.due ≤ s.ns → s.routePort r.pkt.dst = some port →
      exec (.resultResend id) s = .next (s.resend .mod r r.pkt.plane (tileOfPort port) port).modOn)) ∧
  (∀ (s : State) (port : Nat) (l : List Req), l = s.mod.sh.reqs.filter (fun r => r.st == .waiting && s.routePort r.pkt.dst == some port) →
    (l = [] → exec (.residueDelivery port) s = .next s) ∧
    (∀ r, l = [r] → exec (.residueDelivery port) s = .next (s.tryDeliver r.id)) ∧
    (∀ a b ga ca ka ra gb cb kb rb, l = [a, b] → a.owner = .result ga ca ka ra → b.owner = .result gb cb kb rb →
      (ra ≤ rb → exec (.residueDelivery port) s = .next ((s.tryDeliver a.id).tryDeliver b.id)) ∧
      (rb < ra → exec (.residueDelivery port) s = .next ((s.tryDeliver b.id).tryDeliver a.id))))

/-- R133, R134, R153, R155, R167, R170: a slot whose results are all answered finishes its sequence, and one that is past its
timeout ends; a rack's partial reaches the piece at the root of its tree, and a tree result its rack, once its form, place and
rack are right, and a pod-tier module combines or passes it on; a rack sends its partial again after the resend time; a record
comes back from spill and what came meanwhile is merged with it, or its whole chunk is poisoned. Completion, on the conditions
of the clauses alone, is stated of the constructors rackPartial, treeResult, sequenceSlotFinish, slotTimeout, treeResend,
spillRecordReturn. -/
def Obligations.CollectiveSlotsAndTrees : Prop :=
  (∀ (s : State) (gi i : Nat) (g : Group) (x : SeqSlot), s.group gi = g → tabGet g.slots i = some x →
    (s.slotSettled gi g x = false → exec (.sequenceSlotFinish gi i) s = .next s.modOn) ∧
    (s.slotSettled gi g x = true → (g.ctx x.cctx).op ≠ 3 → (g.ctx x.cctx).op ≠ 5 → (∀ e, s.mownNamed gi g.job x.cctx x.cseq = some e → e.2.state ≠ 3 ∧ e.2.state ≠ 7) →
      exec (.sequenceSlotFinish gi i) s = .next ((s.partCount .mod g.job 8 1).slotEnds gi x).modOn) ∧
    (∀ w : State, s.slotSettled gi g x = true → ((g.ctx x.cctx).op = 3 ∨ (g.ctx x.cctx).op = 5) →
      w = (if (g.ctx x.cctx).op = 3 && g.lateness then (s.sendRelease gi x.cseq).recordLateness g x else s.sendRelease gi x.cseq) →
      (∀ e, w.mownNamed gi g.job x.cctx x.cseq = some e → e.2.state ≠ 3 ∧ e.2.state ≠ 7) →
      exec (.sequenceSlotFinish gi i) s = .next ((w.partCount .mod g.job 8 1).slotEnds gi x).modOn) ∧
    (((x.state ≠ 1 ∧ x.state ≠ 2) ∨ s.ns < x.opened + x.timeout) → exec (.slotTimeout gi i) s = .next s.modOn) ∧
    ((x.state = 1 ∨ x.state = 2) → x.opened + x.timeout ≤ s.ns → exec (.slotTimeout gi i) s =
      .next ((((s.count .mod 0x07 0 2 1).dropSequence gi x.cseq false).modRecv .mod fun r => { r with inprog := r.inprog.filter fun q =>
        !(isColl q.pkt.typ && q.pkt.group == gi && q.pkt.cseq == x.cseq) }).slotEnds gi x).modOn)) ∧
  (∀ (g : Group) (q : Nat), (q ≠ g.base → (g.finish q).base = g.base ∧
      ∀ x, tabGet g.slots (q % 4) = some x → tabGet (g.finish q).slots (q % 4) = some { x with
        state := 3, pieces := [], counts := [], arrivals := [], size := none }) ∧
    (q = g.base → q < 2 ^ 32 → (∀ x, tabGet g.slots ((q + 1) % 2 ^ 32 % 4) = some x → x.state ≠ 3) →
      (g.finish q).base = (q + 1) % 2 ^ 32 ∧ tabGet (g.finish q).slots (q % 4) = none)) ∧
  (∀ (s : State) (gi i k : Nat) (x : SeqSlot), tabGet (s.group gi).slots i = some x →
    ((x.piece k).sentUp = none → exec (.treeResend gi i k) s = .next s) ∧
    (∀ t, (x.piece k).sentUp = some t →
      (((x.piece k).treeDone = true ∨ s.ns < t + x.resendTime ∨ x.resendLimit ≤ (x.piece k).resends) →
        exec (.treeResend gi i k) s = .next s) ∧
      ((x.piece k).treeDone = false → t + x.resendTime ≤ s.ns → (x.piece k).resends < x.resendLimit →
        exec (.treeResend gi i k) s = .next ((s.sendUp gi x.cseq k).modPiece gi x.cseq k fun p => { p with resends := p.resends + 1 })))) ∧
  (∀ (s : State) (k : Packet) (port : Nat) (tagOk : Bool) (g : Group) (sh : Shape) (held : Option Nat) (form : Nat),
    s.fabricOff .mod = false → s.expired .mod (· == k) = none →
    formOk k false = true → isColl k.typ = true → k.job ≠ 0 → k.job ≠ 0xFFFF → k.dst = s.node .mod → s.sealCheck .mod k tagOk = 0 →
    CollectiveOf s k g → (g.ctx k.cctx).op = k.typ - 0x20 → held = s.heldSize k → sh = g.shape (s.heldContext k) (held.getD 0) →
    form = treeForm g sh k (held.map fun _ => sh.pieces) → s.phaseOk g (g.ctx k.cctx).op k.phase k.tree = true →
    (∀ c, (k.phase = 2 ∧ bit g.rackMask k.srcRack = true ∧ c = .rackPartial k port tagOk ∨ k.phase = 3 ∧ c = .treeResult k port tagOk) →
      (form = 1 → exec c s = .next ((s.arrives .mod k).mcDeny k port 5).modOn) ∧
      (form = 2 → exec c s = .next (((s.arrives .mod k).malformed .mod port).mcDeny k port 5).modOn) ∧
      (form = 0 → g.place k.cseq ≠ cDone → exec c s = .next ((s.arrives .mod k).notPlaced k port (g.place k.cseq)).modOn)) ∧
    (k.phase = 2 → bit g.rackMask k.srcRack = false → exec (.rackPartial k port tagOk) s =
      .next ((s.arrives .mod k).mcDeny k port 2).modOn) ∧
    (form = 0 → g.place k.cseq = cDone → s.reg .mod 0x500001 = 1 →
      (k.phase = 2 → bit g.rackMask k.srcRack = true → exec (.rackPartial k port tagOk) s =
        .next ((s.arrives .mod k).podPartial k.group g k port).modOn) ∧
      (k.phase = 3 → exec (.treeResult k port tagOk) s = .next ((s.arrives .mod k).toRack k.group { k with src := s.node .mod } k.dstRack
        ((s.arrives .mod k).treeOf k.group g k.cctx k.cseq sh k.piece).2).modOn)) ∧
    (form = 0 → g.place k.cseq = cDone → s.reg .mod 0x500001 ≠ 1 →
      ∃ (u : State) (x : SeqSlot), u = (s.arrives .mod k).openSlot k.group k.cseq k.cctx ∧ u.seqSlot k.group k.cseq = some x ∧
      (k.phase = 2 → bit g.rackMask k.srcRack = true → (x.piece k.piece).treeDone = false →
        ((∃ t ∈ (x.piece k.piece).partials, partsMeet t.2 k.payload = true) → exec (.rackPartial k port tagOk) s = .next u.modOn) ∧
        ((∀ t ∈ (x.piece k.piece).partials, partsMeet t.2 k.payload = false) → exec (.rackPartial k port tagOk) s =
          .next (((u.modPiece k.group k.cseq k.piece fun p => { p with
            partials := p.partials ++ [((partFields k.payload).1, k.payload)] }).rootOn k.group k.cseq k.piece).mcOn).modOn)) ∧
      (k.phase = 2 → bit g.rackMask k.srcRack = true → (x.piece k.piece).treeDone = true → exec (.rackPartial k port tagOk) s =
        .next (u.sendDown k.group k.cseq k.piece k.srcRack (x.piece k.piece).racks (x.piece k.piece).result).modOn) ∧
      (k.phase = 3 → (x.piece k.piece).treeDone = true → exec (.treeResult k port tagOk) s =
        .next (u.respond .mod k port cDone [] 0).modOn) ∧
      (k.phase = 3 → (x.piece k.piece).treeDone = false → Piece.treeOnly sh (partFields k.payload).1 (s.rack .mod) = true →
        exec (.treeResult k port tagOk) s =
          .next (((u.respond .mod k port cDone [] 0).modPiece k.group k.cseq k.piece fun p => { p with treeDone := true, done := true
            }).mcOn).modOn) ∧
      (∀ fresh, k.phase = 3 → (x.piece k.piece).treeDone = false → Piece.treeOnly sh (partFields k.payload).1 (s.rack .mod) = false →
        fresh = (x.piece k.piece).partials.filter (fun t => t.1 != 2 ^ s.rack .mod) →
        ((∃ t ∈ fresh, partsMeet t.2 k.payload = true) → exec (.treeResult k port tagOk) s =
          .next (u.respond .mod k port cDone [] 0).modOn) ∧
        ((∀ t ∈ fresh, partsMeet t.2 k.payload = false) → exec (.treeResult k port tagOk) s =
          .next (((u.respond .mod k port cDone [] 0).modPiece k.group k.cseq k.piece fun p => { p with
            partials := fresh ++ [((partFields k.payload).1, k.payload)] }).mcOn).modOn)))) ∧
  (∀ (s : State) (gi i k t need : Nat) (g : Group) (x : SeqSlot) (sh : Shape) (p q : Piece), s.group gi = g → tabGet g.slots i = some x →
    p = x.piece k → t = x.home gi k → sh = g.shape x.cctx (x.size.getD 0) →
    (∀ ok, p.spilled = false → exec (.spillRecordReturn gi i k ok) s = .next s) ∧
    (∀ ok, p.spilled = true → (ok = false ∨ s.pagesOf (.piece gi x.cseq k) < p.pagesFor sh) → ∃ u : State,
      u = (s.drawn.count .mod 0x05 (s.engineFor gi g x k) 5 1).freePiece gi x.cseq k ∧
      (p.done = true → exec (.spillRecordReturn gi i k ok) s = .next u) ∧
      (p.done = false → exec (.spillRecordReturn gi i k ok) s = .next (u.modSlot gi x.cseq fun y => { y with
        poisoned := setIns y.poisoned (k / 2 ^ sh.order)
        pieces := y.pieces.map fun kp => if kp.1 / 2 ^ sh.order = k / 2 ^ sh.order then (kp.1, { kp.2 with spilled := false }) else kp }))) ∧
    (p.spilled = true → p.pagesFor sh ≤ s.pagesOf (.piece gi x.cseq k) → q = p.merged sh (g.ranksIn (s.rack .mod)).length →
      need = q.cellsFor sh →
      (p.cells < need → s.takeCells t (need - p.cells) (gi, x.cseq, k) 4096 = none →
        exec (.spillRecordReturn gi i k true) s = .next s) ∧
      (∀ v : State, (need ≤ p.cells ∧ v = s ∨ p.cells < need ∧ s.takeCells t (need - p.cells) (gi, x.cseq, k) 4096 = some v) →
        ∃ w : State, w = (((v.modTile t fun y => { y with windUsed := if need ≤ p.cells then y.windUsed + need - p.cells else y.windUsed
            }).dropPages (.piece gi x.cseq k)).modPiece gi x.cseq k fun _ => { q with cells := need, touched := v.clock }) ∧
          (w.slotBegun gi g x.cctx x.cseq sh k = false → exec (.spillRecordReturn gi i k true) s = .next w.mcOn) ∧
          (w.slotBegun gi g x.cctx x.cseq sh k = true →
            exec (.spillRecordReturn gi i k true) s = .next (w.completePiece gi x.cseq k).mcOn)))) ∧
  (∀ (p : Piece) (sh : Shape) (n : Nat) (q : Piece), q = p.merged sh n →
    q.spilled = false ∧ q.side = [] ∧ q.sideNodes = [] ∧ q.sideHeld = [] ∧ q.ranks = p.ranks ∧
    (p.side = [] → q.acc = p.acc) ∧ (p.side ≠ [] → q.acc = accMergeAll p.acc p.side) ∧
    (p.sideNodes ≠ [] → q.nodes = treeStep (aword sh.word).work 16 0 n (p.nodes ++ p.sideNodes)) ∧ (p.sideNodes = [] → q.nodes = p.nodes) ∧
    (p.sideHeld ≠ [] → q.held = [(0, mergeTopK sh.k ((p.held ++ p.sideHeld).map (·.2)))]) ∧ (p.sideHeld = [] → q.held = p.held))

end
end

