-- ==== Sys2Proof/Laws/State.lean ====
section
/-! SUPPORT. One lemma for each field of State and each elementary update, and what the shared operations leave alone. -/

set_option Elab.async false

namespace Sys2Proof.Machine

variable (s : State)

@[simp] theorem State.modEp_ep (f : Endpoint → Endpoint) : (s.modEp f).ep = f s.ep := rfl

@[simp] theorem State.modEp_mod (f : Endpoint → Endpoint) : (s.modEp f).mod = s.mod := rfl

@[simp] theorem State.modEp_clock (f : Endpoint → Endpoint) : (s.modEp f).clock = s.clock := rfl

@[simp] theorem State.modEp_draws (f : Endpoint → Endpoint) : (s.modEp f).draws = s.draws := rfl

@[simp] theorem State.modEp_out (f : Endpoint → Endpoint) : (s.modEp f).out = s.out := rfl

@[simp] theorem State.modEp_pending (f : Endpoint → Endpoint) : (s.modEp f).pending = s.pending := rfl

@[simp] theorem State.modMod_ep (f : Module → Module) : (s.modMod f).ep = s.ep := rfl

@[simp] theorem State.modMod_mod (f : Module → Module) : (s.modMod f).mod = f s.mod := rfl

@[simp] theorem State.modMod_clock (f : Module → Module) : (s.modMod f).clock = s.clock := rfl

@[simp] theorem State.modMod_draws (f : Module → Module) : (s.modMod f).draws = s.draws := rfl

@[simp] theorem State.modMod_out (f : Module → Module) : (s.modMod f).out = s.out := rfl

@[simp] theorem State.modMod_pending (f : Module → Module) : (s.modMod f).pending = s.pending := rfl

@[simp] theorem State.emit_ep (o : Out) : (s.emit o).ep = s.ep := rfl

@[simp] theorem State.emit_mod (o : Out) : (s.emit o).mod = s.mod := rfl

@[simp] theorem State.emit_clock (o : Out) : (s.emit o).clock = s.clock := rfl

@[simp] theorem State.emit_draws (o : Out) : (s.emit o).draws = s.draws := rfl

@[simp] theorem State.emit_out (o : Out) : (s.emit o).out = s.out ++ [o] := rfl

@[simp] theorem State.emit_pending (o : Out) : (s.emit o).pending = s.pending := rfl

@[simp] theorem State.drawn_ep : (s.drawn).ep = s.ep := rfl

@[simp] theorem State.drawn_mod : (s.drawn).mod = s.mod := rfl

@[simp] theorem State.drawn_clock : (s.drawn).clock = s.clock := rfl

@[simp] theorem State.drawn_draws : (s.drawn).draws = s.draws + 1 := rfl

@[simp] theorem State.drawn_out : (s.drawn).out = s.out := rfl

@[simp] theorem State.drawn_pending : (s.drawn).pending = s.pending := rfl

@[simp] theorem State.sh_ep : s.sh .ep = s.ep.sh := rfl

@[simp] theorem State.sh_mod : s.sh .mod = s.mod.sh := rfl

@[simp] theorem State.modSh_ep_ep (f : Shared → Shared) : (s.modSh .ep f).ep = { s.ep with sh := f s.ep.sh } := rfl

@[simp] theorem State.modSh_ep_mod (f : Shared → Shared) : (s.modSh .ep f).mod = s.mod := rfl

@[simp] theorem State.modSh_mod_ep (f : Shared → Shared) : (s.modSh .mod f).ep = s.ep := rfl

@[simp] theorem State.modSh_mod_mod (f : Shared → Shared) : (s.modSh .mod f).mod = { s.mod with sh := f s.mod.sh } := rfl

@[simp] theorem State.modSh_sh (p : Part) (f : Shared → Shared) : (s.modSh p f).sh p = f (s.sh p) := by cases p <;> rfl

@[simp] theorem State.modSh_clock (p : Part) (f : Shared → Shared) : (s.modSh p f).clock = s.clock := by cases p <;> rfl

@[simp] theorem State.modSh_draws (p : Part) (f : Shared → Shared) : (s.modSh p f).draws = s.draws := by cases p <;> rfl

@[simp] theorem State.modSh_out (p : Part) (f : Shared → Shared) : (s.modSh p f).out = s.out := by cases p <;> rfl

@[simp] theorem State.modSh_pending (p : Part) (f : Shared → Shared) : (s.modSh p f).pending = s.pending := by cases p <;> rfl

@[simp] theorem State.setReg_clock (p : Part) (key v : Nat) : (s.setReg p key v).clock = s.clock := State.modSh_clock _ _ _

@[simp] theorem State.setReg_draws (p : Part) (key v : Nat) : (s.setReg p key v).draws = s.draws := State.modSh_draws _ _ _

@[simp] theorem State.setReg_out (p : Part) (key v : Nat) : (s.setReg p key v).out = s.out := State.modSh_out _ _ _

@[simp] theorem State.setReg_pending (p : Part) (key v : Nat) : (s.setReg p key v).pending = s.pending := State.modSh_pending _ _ _

@[simp] theorem State.logEvent_clock (p : Part) (sev code job detail : Nat) : (s.logEvent p sev code job detail).clock = s.clock :=
  State.modSh_clock _ _ _

@[simp] theorem State.logEvent_draws (p : Part) (sev code job detail : Nat) : (s.logEvent p sev code job detail).draws = s.draws :=
  State.modSh_draws _ _ _

@[simp] theorem State.logEvent_out (p : Part) (sev code job detail : Nat) : (s.logEvent p sev code job detail).out = s.out :=
  State.modSh_out _ _ _

@[simp] theorem State.logEvent_pending (p : Part) (sev code job detail : Nat) : (s.logEvent p sev code job detail).pending = s.pending :=
  State.modSh_pending _ _ _

@[simp] theorem State.setReg_mod_ep (key v : Nat) : (s.setReg .mod key v).ep = s.ep := rfl

@[simp] theorem State.setReg_ep_mod (key v : Nat) : (s.setReg .ep key v).mod = s.mod := rfl

@[simp] theorem State.logEvent_mod_ep (sev code job detail : Nat) : (s.logEvent .mod sev code job detail).ep = s.ep := rfl

@[simp] theorem State.logEvent_ep_mod (sev code job detail : Nat) : (s.logEvent .ep sev code job detail).mod = s.mod := rfl

/-- An event changes nothing of its part but the log. -/
@[simp] theorem State.logEvent_sh (p : Part) (sev code job detail : Nat) : (s.logEvent p sev code job detail).sh p =
    { s.sh p with log := (s.sh p).log.put (logCap p) {
        time := s.rackNs p, unlocked := !s.locked p, severity := sev, code := code, seq := 0, job := job, detail := detail } } :=
  State.modSh_sh _ _ _

/-- An event keeps whatever its part's log is no part of. -/
theorem State.logEvent_keeps {β : Type} (g : State → β) (p : Part)
    (hl : ∀ (t : State) (f : EventLog → EventLog), g (t.modSh p fun sh => { sh with log := f sh.log }) = g t)
    (sev code job detail : Nat) : g (s.logEvent p sev code job detail) = g s :=
  hl s fun l => l.put (logCap p) { time := s.rackNs p, unlocked := !s.locked p, severity := sev, code := code, seq := 0,
                                   job := job, detail := detail }

/-- A fold of events at a part keeps what an event keeps. -/
theorem foldl_logEvent {α : Type} {β : Type} (g : State → β) (p : Part)
    (hl : ∀ (t : State) (f : EventLog → EventLog), g (t.modSh p fun sh => { sh with log := f sh.log }) = g t)
    (sev code job : Nat) (d : α → Nat) (l : List α) (t : State) :
    g (l.foldl (fun s c => s.logEvent p sev code job (d c)) t) = g t := by
  induction l generalizing t with
  | nil => rfl
  | cons x l ih => rw [List.foldl_cons, ih, State.logEvent_keeps t g p hl]

/-- Counting keeps whatever neither the counters nor the log of the part is part of. -/
theorem State.count_keeps {β : Type} (g : State → β) (p : Part)
    (hl : ∀ (t : State) (f : EventLog → EventLog), g (t.modSh p fun sh => { sh with log := f sh.log }) = g t)
    (hc : ∀ (t : State) (f : Counters → Counters), g (t.modSh p fun sh => { sh with ctr := f sh.ctr }) = g t)
    (group inst pos n : Nat) : g (s.count p group inst pos n) = g s := by
  unfold State.count
  dsimp only
  split
  · rfl
  · rw [foldl_logEvent g p hl]
    exact hc s fun c => { c with live := _ }

/-- So does counting at a counter that both parts keep. -/
theorem State.bothCount_keeps {β : Type} (g : State → β) (p : Part)
    (hl : ∀ (t : State) (f : EventLog → EventLog), g (t.modSh p fun sh => { sh with log := f sh.log }) = g t)
    (hc : ∀ (t : State) (f : Counters → Counters), g (t.modSh p fun sh => { sh with ctr := f sh.ctr }) = g t)
    (i j : Nat) : g (s.bothCount p i j) = g s := by
  cases p
  · exact State.count_keeps s g .ep hl hc _ _ _ _
  · exact State.count_keeps s g .mod hl hc _ _ _ _

@[simp] theorem State.count_clock (p : Part) (group inst pos n : Nat) : (s.count p group inst pos n).clock = s.clock :=
  State.count_keeps s (·.clock) p (by simp) (by simp) _ _ _ _

@[simp] theorem State.count_draws (p : Part) (group inst pos n : Nat) : (s.count p group inst pos n).draws = s.draws :=
  State.count_keeps s (·.draws) p (by simp) (by simp) _ _ _ _

@[simp] theorem State.count_out (p : Part) (group inst pos n : Nat) : (s.count p group inst pos n).out = s.out :=
  State.count_keeps s (·.out) p (by simp) (by simp) _ _ _ _

@[simp] theorem State.count_pending (p : Part) (group inst pos n : Nat) : (s.count p group inst pos n).pending = s.pending :=
  State.count_keeps s (·.pending) p (by simp) (by simp) _ _ _ _

@[simp] theorem State.count_mod_ep (group inst pos n : Nat) : (s.count .mod group inst pos n).ep = s.ep :=
  State.count_keeps s (·.ep) .mod (fun _ _ => rfl) (fun _ _ => rfl) _ _ _ _

@[simp] theorem State.count_ep_mod (group inst pos n : Nat) : (s.count .ep group inst pos n).mod = s.mod :=
  State.count_keeps s (·.mod) .ep (fun _ _ => rfl) (fun _ _ => rfl) _ _ _ _

end Sys2Proof.Machine
end

