-- ==== Sys2Proof/Laws/Tables.lean ====
section
/-! SUPPORT. Tables and memory: reads after writes, and the canonical form kept. -/

set_option Elab.async false

namespace Sys2Proof.Machine

theorem tabGet_tabSet_same {α : Type} (t : Tab α) (k : Nat) (v : α) : tabGet (tabSet t k v) k = some v := by
  induction t with
  | nil => simp [tabSet, tabGet]
  | cons e t ih => obtain ⟨j, w⟩ := e; simp only [tabSet]; split; · simp [tabGet]
                   split; · simp [tabGet]
                   · rename_i h; simp [tabGet, Ne.symm h, ih]

theorem tabGet_tabSet_other {α : Type} (t : Tab α) {k l : Nat} (v : α) (h : l ≠ k) : tabGet (tabSet t k v) l = tabGet t l := by
  induction t with
  | nil => simp [tabSet, tabGet, Ne.symm h]
  | cons e t ih => obtain ⟨j, w⟩ := e; simp only [tabSet]; split; · simp [tabGet, Ne.symm h]
                   split; · rename_i e; subst e; simp [tabGet, Ne.symm h]
                   · simp [tabGet, ih]

theorem tabGet_tabDel_same {α : Type} (t : Tab α) (k : Nat) : tabGet (tabDel t k) k = none := by
  induction t with
  | nil => rfl
  | cons e t ih => obtain ⟨j, w⟩ := e; simp only [tabDel]; split; · exact ih
                   · rename_i h; simp [tabGet, h, ih]

theorem tabGet_tabDel_other {α : Type} (t : Tab α) {k l : Nat} (h : l ≠ k) : tabGet (tabDel t k) l = tabGet t l := by
  induction t with
  | nil => rfl
  | cons e t ih => obtain ⟨j, w⟩ := e; simp only [tabDel]; split
                   · rename_i e; subst e; simp [tabGet, Ne.symm h, ih]
                   · simp [tabGet, ih]

/-- What a change at one key makes of every key. -/
theorem tabGet_tabMod {α : Type} (t : Tab α) (k l : Nat) (f : α → α) :
    tabGet (tabMod t k f) l = if l = k then (tabGet t l).map f else tabGet t l := by
  unfold tabMod
  cases h : tabGet t k with
  | none => split <;> simp_all
  | some v =>
    by_cases hl : l = k
    · rw [if_pos hl, hl, h]; exact tabGet_tabSet_same _ _ _
    · rw [if_neg hl]; exact tabGet_tabSet_other _ _ hl

theorem tabGetD_tabPut_same {α : Type} [DecidableEq α] (t : Tab α) (k : Nat) (v d : α) : tabGetD (tabPut t k v d) k d = v := by
  unfold tabPut tabGetD
  split
  · rename_i h; simp [tabGet_tabDel_same, h]
  · simp [tabGet_tabSet_same]

theorem tabGetD_tabPut_other {α : Type} [DecidableEq α] (t : Tab α) {k l : Nat} (v d : α) (h : l ≠ k) :
    tabGetD (tabPut t k v d) l d = tabGetD t l d := by
  unfold tabPut tabGetD
  split
  · rw [tabGet_tabDel_other _ h]
  · rw [tabGet_tabSet_other _ _ h]

theorem tabAbove_mono {α : Type} {a b : Nat} (h : a ≤ b) {t : Tab α} (ht : tabAbove b t = true) : tabAbove a t = true := by
  cases t with
  | nil => rfl
  | cons e t => simp only [tabAbove, Bool.and_eq_true, decide_eq_true_eq] at ht ⊢; exact ⟨by omega, ht.2⟩

theorem tabAbove_tabSet {α : Type} {lo k : Nat} {t : Tab α} (v : α) (hk : lo ≤ k) (ht : tabAbove lo t = true) :
    tabAbove lo (tabSet t k v) = true := by
  induction t generalizing lo with
  | nil => simp [tabSet, tabAbove, hk]
  | cons e t ih =>
    obtain ⟨j, w⟩ := e
    simp only [tabAbove, Bool.and_eq_true, decide_eq_true_eq] at ht
    simp only [tabSet]
    split
    · simp only [tabAbove, Bool.and_eq_true, decide_eq_true_eq]; exact ⟨hk, by omega, ht.2⟩
    split
    · rename_i e; subst e; simp only [tabAbove, Bool.and_eq_true, decide_eq_true_eq]; exact ⟨hk, ht.2⟩
    · simp only [tabAbove, Bool.and_eq_true, decide_eq_true_eq]; exact ⟨ht.1, ih (by omega) ht.2⟩

theorem tabAbove_filter {α : Type} (q : Nat × α → Bool) {lo : Nat} {t : Tab α} (ht : tabAbove lo t = true) :
    tabAbove lo (t.filter q) = true := by
  induction t generalizing lo with
  | nil => rfl
  | cons e t ih =>
    obtain ⟨j, w⟩ := e
    simp only [tabAbove, Bool.and_eq_true, decide_eq_true_eq] at ht
    simp only [List.filter_cons]
    split
    · simp only [tabAbove, Bool.and_eq_true, decide_eq_true_eq]; exact ⟨ht.1, ih ht.2⟩
    · exact ih (tabAbove_mono (by omega) ht.2)

theorem tabDel_eq_filter {α : Type} (t : Tab α) (k : Nat) : tabDel t k = t.filter fun e => e.1 != k := by
  induction t with
  | nil => rfl
  | cons e t ih => obtain ⟨j, w⟩ := e; simp only [tabDel, List.filter_cons, ih]; by_cases h : j = k <;> simp [h]

theorem mem_tabSet {α : Type} {t : Tab α} {k : Nat} {v : α} {e : Nat × α} (h : e ∈ tabSet t k v) : e = (k, v) ∨ e ∈ t := by
  induction t with
  | nil => simpa [tabSet] using h
  | cons x t ih =>
    obtain ⟨j, w⟩ := x
    simp only [tabSet] at h
    split at h
    · simpa using h
    split at h
    · simp only [List.mem_cons] at h ⊢; exact h.imp id .inr
    · simp only [List.mem_cons] at h ⊢; rcases h with h | h
      · exact .inr (.inl h)
      · exact (ih h).imp id .inr

theorem memoryWf_tabPut {t : Tab Byte} (k : Nat) (v : Byte) (h : memoryWf t = true) : memoryWf (tabPut t k v 0#8) = true := by
  simp only [memoryWf, tabSorted, Bool.and_eq_true, List.all_eq_true] at h ⊢
  unfold tabPut
  split
  · rw [tabDel_eq_filter]; exact ⟨tabAbove_filter _ h.1, fun e he => h.2 e (List.mem_filter.1 he).1⟩
  · rename_i hv
    refine ⟨tabAbove_tabSet _ (Nat.zero_le _) h.1, fun e he => ?_⟩
    rcases mem_tabSet he with rfl | he
    · simpa using hv
    · exact h.2 e he

theorem memoryWf_filter {t : Tab Byte} (q : Nat × Byte → Bool) (h : memoryWf t = true) : memoryWf (t.filter q) = true := by
  simp only [memoryWf, tabSorted, Bool.and_eq_true, List.all_eq_true] at h ⊢
  exact ⟨tabAbove_filter _ h.1, fun e he => h.2 e (List.mem_filter.1 he).1⟩

theorem memoryWf_memWrite {t : Tab Byte} (a : Nat) (data : List Byte) (h : memoryWf t = true) : memoryWf (memWrite t a data) = true := by
  induction data generalizing t a with
  | nil => exact h
  | cons b l ih => exact ih _ (memoryWf_tabPut a b h)

/-- A write leaves every byte outside it as it was. -/
theorem memWrite_other {t : Tab Byte} {a b : Nat} (data : List Byte) (h : b < a ∨ a + data.length ≤ b) :
    tabGetD (memWrite t a data) b 0#8 = tabGetD t b 0#8 := by
  induction data generalizing t a with
  | nil => rfl
  | cons x l ih =>
    simp only [List.length_cons] at h
    rw [memWrite, ih (by omega), tabGetD_tabPut_other _ _ _ (by omega)]

/-- A written byte reads as written. -/
theorem memWrite_same {t : Tab Byte} {a i : Nat} (data : List Byte) (h : i < data.length) :
    tabGetD (memWrite t a data) (a + i) 0#8 = data[i] := by
  induction data generalizing t a i with
  | nil => simp at h
  | cons x l ih =>
    cases i with
    | zero => rw [memWrite, memWrite_other l (by omega)]; exact tabGetD_tabPut_same _ _ _ _
    | succ i =>
      simp only [List.length_cons] at h
      have : a + (i + 1) = a + 1 + i := by omega
      rw [memWrite, this, ih (by omega)]; rfl

end Sys2Proof.Machine
end

