-- ==== Sys2Proof/Laws/Access.lean ====
section
/-! SUPPORT. Lookups in the lists of records, and what the checks of Commons lines do when every line is good: each said once, to be
cited instead of unfolding the operation. -/

set_option Elab.async false

namespace Sys2Proof.Machine

theorem find_modFirst {α : Type} (p : α → Bool) (f : α → α) (hf : ∀ x, p x = true → p (f x) = true) (l : List α) :
    (modFirst p f l).find? p = (l.find? p).map f := by
  induction l with
  | nil => rfl
  | cons x t ih =>
    unfold modFirst
    by_cases h : p x = true
    · rw [if_pos h, List.find?_cons_of_pos (hf x h), List.find?_cons_of_pos h]; rfl
    · rw [if_neg h, List.find?_cons_of_neg h, List.find?_cons_of_neg h, ih]

theorem modFirst_append {α : Type} (p : α → Bool) (f : α → α) (l : List α) (x : α) (h : l.all (fun y => !p y) = true) (hx : p x = true) :
    modFirst p f (l ++ [x]) = l ++ [f x] := by
  induction l with
  | nil => simp [modFirst, hx]
  | cons y t ih =>
    simp only [List.all_cons, Bool.and_eq_true, Bool.not_eq_true'] at h
    simp [modFirst, h.1, ih h.2]

theorem find_append {α : Type} (p : α → Bool) (l : List α) (x : α) (h : l.all (fun y => !p y) = true) (hx : p x = true) :
    (l ++ [x]).find? p = some x := by
  induction l with
  | nil => simp [hx]
  | cons y t ih =>
    simp only [List.all_cons, Bool.and_eq_true, Bool.not_eq_true'] at h
    rw [List.cons_append, List.find?_cons_of_neg (by simp [h.1]), ih h.2]

theorem failed_none {s : State} {ls : List Nat} (h : ∀ l ∈ ls, s.mod.failedStacks.contains (s.stackOf (l * 128)) = false) :
    s.failedStack ls = (s, false) := by
  unfold State.failedStack
  have : ls.find? (fun l => s.mod.failedStacks.contains (s.stackOf (l * 128))) = none := by
    rw [List.find?_eq_none]; intro l hl; rw [h l hl]; simp
  rw [this]

theorem readCheck_of {s : State} {ls : List Nat} (h : ∀ l ∈ ls, s.mod.failedStacks.contains (s.stackOf (l * 128)) = false) (hb : s.badIn ls = []) :
    s.readCheck ls 0 = (s, true) := by
  unfold State.readCheck State.readCheckAs
  rw [failed_none h]; dsimp only
  rw [if_neg (by simp), show (if ((0 : Nat) = 2 ∨ (0 : Nat) = 3) then s.lineFails (ls.headD 0) (0 - 2) else s) = s from if_neg (by decide), hb,
    if_neg (by simp), if_neg (by decide)]

theorem readCheck_good {s : State} {a n : Nat} (h : s.linesGood a n) : s.readCheck (linesOf a n) 0 = (s, true) := by
  exact readCheck_of h.1 h.2

theorem badIn_sub {s : State} {ls ms : List Nat} (h : s.badIn ls = []) (hs : ∀ x ∈ ms, x ∈ ls) : s.badIn ms = [] := by
  unfold State.badIn at *
  rw [List.map_eq_nil_iff, List.filter_eq_nil_iff] at *
  intro b hb hc
  exact h b hb (by simp only [List.contains_iff_mem] at *; exact hs _ hc)

theorem checkedWrite_good {s : State} {a : Nat} {d : List Byte} (h : s.linesGood a d.length) :
    ∃ b, s.checkedWrite a d 0 = ((s.modMod fun m => { m with bad := b }).commonsWrite a d, true) := by
  unfold State.checkedWrite; dsimp only
  rw [failed_none h.1]; dsimp only
  rw [if_neg (by simp)]
  have sub : ∀ x ∈ partLines a d.length, x ∈ linesOf a d.length := by
    intro x hx; unfold partLines at hx; exact (List.mem_filter.mp hx).1
  have e : (if (partLines a d.length).isEmpty then (s, true) else s.readCheck (partLines a d.length) 0) = (s, true) := by
    split
    · rfl
    · exact readCheck_of (fun l hl => h.1 l (sub l hl)) (badIn_sub h.2 sub)
  rw [e]; dsimp only
  rw [if_neg (by simp)]
  exact ⟨_, rfl⟩

theorem pairOf_dst (sh : Shared) (d : Nat) : (sh.pairOf d).dst = d := by
  unfold Shared.pairOf
  split
  · rename_i q h
    have := List.find?_some h
    simpa using this
  · rfl

theorem find_map_set {q : Pair} {l : List Pair} (h : l.any (fun r => r.dst == q.dst) = true) :
    (l.map fun r => if r.dst = q.dst then q else r).find? (fun r => r.dst == q.dst) = some q := by
  induction l with
  | nil => simp at h
  | cons x t ih =>
    rw [List.map_cons]
    by_cases hx : x.dst = q.dst
    · rw [if_pos hx, List.find?_cons_of_pos (by simp)]
    · rw [if_neg hx, List.find?_cons_of_neg (by simp [hx])]
      exact ih (by simpa [hx] using h)

theorem pairOf_setPair (sh : Shared) (q : Pair) : (sh.setPair q).pairOf q.dst = q := by
  unfold Shared.setPair
  split
  · rename_i h
    unfold Shared.pairOf
    dsimp only
    rw [find_map_set h]
  · rename_i h
    unfold Shared.pairOf
    dsimp only
    rw [find_append _ _ _ (by rw [← List.not_any_eq_all_not]; simpa using h) (by simp)]

theorem pairOf_congr {a b : Shared} (h : a.pairs = b.pairs) (d : Nat) : a.pairOf d = b.pairOf d := by
  unfold Shared.pairOf; rw [h]

theorem pair_next (sh : Shared) (q : Pair) (d : Nat) (h : q.dst = d) : (sh.setPair q).pairOf d = q := by subst h; exact pairOf_setPair sh q

/-- A charge to a job at the endpoint keeps whatever neither its counters nor its log is part of. -/
theorem State.partCount_keeps {β : Type} (s : State) (g : State → β)
    (hl : ∀ (t : State) (f : EventLog → EventLog), g (t.modSh .ep fun sh => { sh with log := f sh.log }) = g t)
    (hc : ∀ (t : State) (f : Counters → Counters), g (t.modSh .ep fun sh => { sh with ctr := f sh.ctr }) = g t) (j pos n : Nat) :
    g (s.partCount .ep j pos n) = g s := by
  unfold State.partCount
  split
  · exact State.count_keeps s g .ep hl hc ..
  · rfl

theorem tabGetD_filter {α : Type} (t : Tab α) (q : Nat → Bool) (k : Nat) (d : α) :
    tabGetD (t.filter fun x => q x.1) k d = if q k then tabGetD t k d else d := by
  unfold tabGetD
  induction t with
  | nil => simp [tabGet]
  | cons x t ih =>
    obtain ⟨j, v⟩ := x
    by_cases hj : j = k
    · subst hj
      by_cases hq : q j = true
      · simp [hq, tabGet]
      · simp only [hq, List.filter_cons, if_false, Bool.false_eq_true] at ih ⊢; exact ih
    · by_cases hq : q j = true
      · simp only [List.filter_cons, hq, if_true, tabGet, hj, if_false]; exact ih
      · simp only [List.filter_cons, hq, if_false, tabGet, hj, Bool.false_eq_true]; exact ih

/-- A packet that its receiver takes keeps whatever neither the inbox nor the frames, their pages and their tiles are part of. -/
theorem State.takeIn_keeps {β : Type} (s : State) (g : State → β) (p : Part) (f : Packet → Bool)
    (he : ∀ (t : State) (x : List Packet → List Packet), g (t.modEp fun e => { e with inbox := x e.inbox }) = g t)
    (hf : ∀ (t : State) (x : List MFrame → List MFrame), g (t.modMod fun m => { m with frames := x m.frames }) = g t)
    (hs : ∀ (t : State) (x : Tab SpillPage → Tab SpillPage), g (t.modMod fun m => { m with spill := x m.spill }) = g t)
    (ht : ∀ (t : State) (n : Nat) (x : Tile → Tile), g (t.modTile n x) = g t) : g (s.takeIn p f) = g s := by
  cases p with
  | ep => exact he s fun l => delFirst f l
  | mod =>
    unfold State.takeIn; dsimp only
    split
    · rename_i q _
      unfold State.takeFrame; dsimp only
      rw [ht, hf _ fun l => delFirst (fun x => x.id == q.id) l]
      split
      · exact hs s fun l => l.filter fun x => x.2.who != .frame q.id
      · rfl
    · rfl

theorem arrives_recv (s : State) (p q : Part) (k : Packet) : ((s.arrives p k).sh q).recv = (s.sh q).recv := by
  refine State.takeIn_keeps s (fun t => (t.sh q).recv) p _ ?_ ?_ ?_ ?_ <;> intros <;> cases q <;> rfl

theorem arrives_sh (s : State) (q : Part) (k : Packet) : (s.arrives .mod k).sh q = s.sh q := by
  cases q
  · exact congrArg (fun e : Endpoint => e.sh) (by
      unfold State.arrives State.takeIn State.takeFrame; dsimp only
      split
      · split <;> rfl
      · rfl)
  · unfold State.arrives State.takeIn State.takeFrame; dsimp only
    split
    · split <;> rfl
    · rfl

theorem arrives_ns (s : State) (p : Part) (k : Packet) : (s.arrives p k).ns = s.ns := by
  refine State.takeIn_keeps s (fun t => t.ns) p _ ?_ ?_ ?_ ?_ <;> intros <;> rfl

theorem noted_rec {s : State} {p : Part} {k : Packet} {port : Nat} {r : SrcRec} (h : (s.sh p).recv.rec_ k.from_ = some r) :
    ((s.noted p k port).sh p).recv.rec_ k.from_ = some { r with
      lastArrival := s.ns, lastPort := if p = Part.ep then k.plane else port } := by
  have hp := List.find?_some h
  have : ∀ f : SrcRec → SrcRec, (∀ x, (f x).src = x.src) →
      (modFirst (fun x => x.src == k.from_) f ((s.arrives p k).sh p).recv.recs).find? (fun x => x.src == k.from_) = some (f r) := by
    intro f hf
    rw [arrives_recv, find_modFirst _ _ (by intro x hx; rw [hf]; exact hx)]
    unfold Receiver.rec_ at h; rw [h]; rfl
  have := this (fun r => { r with lastArrival := s.ns, lastPort := if p = Part.ep then k.plane else port }) (fun _ => rfl)
  cases p <;> exact this

theorem settledOf_noted (r : SrcRec) (a b n : Nat) : ({ r with lastArrival := a, lastPort := b } : SrcRec).settledOf n = r.settledOf n := rfl

theorem recordFor_old {s : State} {p : Part} {k : Packet} {port : Nat} {r : SrcRec} (h : (s.sh p).recv.rec_ k.from_ = some r)
    (hs : k.s = false) : (s.arrives p k).recordFor p k port = (s.noted p k port, true) := by
  unfold State.recordFor
  have : ((s.arrives p k).sh p).recv.rec_ k.from_ = some r := by rw [arrives_recv]; exact h
  dsimp only; rw [this]; dsimp only
  rw [if_neg (by simp [hs]), arrives_ns]; rfl

theorem arrives_seal (s : State) (p : Part) (k : Packet) (t : Bool) : (s.arrives p k).sealCheck p k t = s.sealCheck p k t := by
  cases p
  · rfl
  · unfold State.sealCheck; rw [arrives_sh]

theorem arrives_node (s : State) (p : Part) (k : Packet) : (s.arrives p k).node p = s.node p := by
  cases p
  · rfl
  · unfold State.node State.reg; dsimp only; rw [arrives_sh]

theorem form_typ {k : Packet} {b : Bool} (h : formOk k b = true) : k.typ ≠ 0 := by
  intro h0; unfold formOk at h; simp [h0, isColl] at h

theorem admit_form {s : State} {p : Part} {k : Packet} {port : Nat} {t : Bool} (h : formOk k (p == .ep) = false ∨ 5 < k.typ) :
    (s.arrives p k).admitPacket p k port t (decide (1 ≤ k.typ ∧ k.typ ≤ 5)) =
      (((s.arrives p k).malformed p port).refuse p k port 5, none) := by
  unfold State.admitPacket
  rw [if_pos]
  rcases h with h | h
  · simp [h]
  · simp; omega

theorem admit_pass {s : State} {p : Part} {k : Packet} {port : Nat} {t : Bool} (h : formOk k (p == .ep) = true) (h1 : 1 ≤ k.typ)
    (h5 : k.typ ≤ 5) : (s.arrives p k).admitPacket p k port t (decide (1 ≤ k.typ ∧ k.typ ≤ 5)) =
      (if k.job = 0 ∨ k.job = 0xFFFF then ((s.arrives p k).refuse p k port 4, none)
       else if k.dst ≠ s.node p then ((s.arrives p k).refuse p k port 3, none)
       else if s.sealCheck p k t = 1 then ((s.arrives p k).sealCount p 1, none)
       else if s.sealCheck p k t = 2 then (((s.arrives p k).sealCount p 2).respond p k port cPoison [] 0, none)
       else
         let r := ((s.arrives p k).sealCount p (s.sealCheck p k t)).recordFor p k port
         if !r.2 then (r.1, none) else (r.1, some (r.1.seqClass p k))) := by
  unfold State.admitPacket
  rw [if_neg (by simp [h, h1, h5])]
  by_cases hj : k.job = 0 ∨ k.job = 0xFFFF
  · rw [if_pos hj, if_pos (.inl ⟨by omega, hj⟩)]
  · rw [if_neg hj, if_neg (by rintro (⟨-, x⟩ | ⟨x, -⟩); exact hj x; omega), arrives_node, arrives_seal]
    by_cases hd : k.dst ≠ s.node p
    · rw [if_pos hd, if_pos hd]
    · rw [if_neg hd, if_neg hd]; dsimp only
      by_cases c1 : s.sealCheck p k t = 1
      · rw [if_pos c1, if_pos c1, c1]
      · rw [if_neg c1, if_neg c1]
        by_cases c2 : s.sealCheck p k t = 2
        · rw [if_pos c2, if_pos c2, c2]
        · rw [if_neg c2, if_neg c2]

theorem sealCount_zero (s : State) (p : Part) : s.sealCount p 0 = s := rfl

/-- What is left once the source's record is found. -/
theorem admit_known {s : State} {p : Part} {k : Packet} {port : Nat} {t : Bool} {r : SrcRec} (h : formOk k (p == .ep) = true) (h1 : 1 ≤ k.typ)
    (h5 : k.typ ≤ 5) (hj : k.job ≠ 0) (hj' : k.job ≠ 0xFFFF) (hd : k.dst = s.node p) (hc : s.sealCheck p k t = 0)
    (hr : (s.sh p).recv.rec_ k.from_ = some r) (hs : k.s = false) :
    (s.arrives p k).admitPacket p k port t (decide (1 ≤ k.typ ∧ k.typ ≤ 5)) = (s.noted p k port, some ((s.noted p k port).seqClass p k)) := by
  rw [admit_pass h h1 h5, if_neg (by simp [hj, hj']), if_neg (by simp [hd]), hc, if_neg (by simp), if_neg (by simp), sealCount_zero,
    recordFor_old hr hs]; rfl

theorem noted_busy (s : State) (p : Part) (k : Packet) (port a b : Nat) : ((s.noted p k port).sh p).recv.busyWith a b = (s.sh p).recv.busyWith a b := by
  rw [← arrives_recv s p p k]; cases p <;> rfl

theorem class_known {s : State} {p : Part} {k : Packet} {port : Nat} {r : SrcRec} (hr : (s.sh p).recv.rec_ k.from_ = some r) :
    (s.noted p k port).seqClass p k = (match r.settledOf k.seq with
      | some x => .dup x
      | none => if (s.sh p).recv.busyWith k.from_ k.seq then .inProgress
                else if serialDiff k.seq r.base < 4096 then .fresh else .outside) := by
  unfold State.seqClass
  rw [noted_rec hr]; dsimp only
  rw [settledOf_noted, noted_busy]
  all_goals cases r.settledOf k.seq <;> rfl

end Sys2Proof.Machine
end

