-- ==== Sys2Proof/Laws/Onward.lean ====
section
/-! SUPPORT. `Onward`: its reflexivity and composition, and that the elementary updates of State go onward. -/

set_option Elab.async false

namespace Sys2Proof.Machine

theorem Onward.refl (s : State) : Onward s s :=
  ⟨rfl, rfl, Nat.le_refl _, List.prefix_refl _, id, Nat.min_le_left _ _, Nat.le_refl _⟩

theorem Onward.trans {a b c : State} (h : Onward a b) (k : Onward b c) : Onward a c :=
  ⟨k.pending.trans h.pending, k.clock.trans h.clock, Nat.le_trans h.draws k.draws, h.out.trans k.out, fun x => k.mem (h.mem x),
    by have := h.update; have := k.update; omega, Nat.le_trans h.next k.next⟩

/-- A change of fields that `Onward` does not speak of. -/
theorem Onward.same {a s t : State} (h : Onward a s) (hp : t.pending = s.pending) (hc : t.clock = s.clock) (hd : t.draws = s.draws)
    (ho : t.out = s.out) (hm : t.mod.mem = s.mod.mem) (hu : t.mod.meter = s.mod.meter) : Onward a t :=
  h.trans ⟨hp, hc, Nat.le_of_eq hd.symm, by simp [ho], by rw [hm]; exact id,
    by rw [hu]; exact Nat.min_le_left _ _, by simp [hu]⟩

theorem State.modEp_onward {a s : State} (f : Endpoint → Endpoint) (h : Onward a s) : Onward a (s.modEp f) :=
  h.same rfl rfl rfl rfl rfl rfl

theorem State.modSh_onward {a s : State} (p : Part) (f : Shared → Shared) (h : Onward a s) : Onward a (s.modSh p f) := by
  cases p <;> exact h.same rfl rfl rfl rfl rfl rfl

theorem State.modMod_onward {a s : State} (f : Module → Module) (hf : ∀ m, (f m).mem = m.mem ∧ (f m).meter = m.meter)
    (h : Onward a s) : Onward a (s.modMod f) :=
  h.same rfl rfl rfl rfl (hf _).1 (hf _).2

theorem State.emit_onward {a s : State} (o : Out) (h : Onward a s) : Onward a (s.emit o) :=
  h.trans ⟨rfl, rfl, Nat.le_refl _, List.prefix_append _ _, id, Nat.min_le_left _ _, Nat.le_refl _⟩

theorem State.drawn_onward {a s : State} (h : Onward a s) : Onward a s.drawn :=
  h.trans ⟨rfl, rfl, Nat.le_succ _, List.prefix_refl _, id, Nat.min_le_left _ _, Nat.le_refl _⟩

theorem State.modMeter_onward {a s : State} (f : Meter → Meter) (hf : ∀ m, min m.update updateFull ≤ (f m).update ∧ m.next ≤ (f m).next)
    (h : Onward a s) : Onward a (s.modMeter f) :=
  h.trans ⟨rfl, rfl, Nat.le_refl _, List.prefix_refl _, id, (hf _).1, (hf _).2⟩

theorem State.modLink_onward {a s : State} (l : Nat) (f : EriLink → EriLink) (h : Onward a s) : Onward a (s.modLink l f) :=
  State.modEp_onward _ h

theorem State.modTile_onward {a s : State} (t : Nat) (f : Tile → Tile) (h : Onward a s) : Onward a (s.modTile t f) :=
  State.modMod_onward _ (fun _ => ⟨rfl, rfl⟩) h

theorem State.modReq_onward {a s : State} (p : Part) (i : Nat) (f : Req → Req) (h : Onward a s) : Onward a (s.modReq p i f) :=
  State.modSh_onward _ _ h

theorem foldl_onward {α : Type} {a : State} {f : State → α → State} (hf : ∀ t x, Onward a t → Onward a (f t x)) :
    ∀ (l : List α) (s : State), Onward a s → Onward a (l.foldl f s)
  | [], _, h => h
  | x :: l, s, h => foldl_onward hf l _ (hf s x h)

theorem foldl_onward_fst {α β : Type} {a : State} {f : State × β → α → State × β} (hf : ∀ t x, Onward a t.1 → Onward a (f t x).1) :
    ∀ (l : List α) (s : State × β), Onward a s.1 → Onward a (l.foldl f s).1
  | [], _, h => h
  | x :: l, s, h => foldl_onward_fst hf l _ (hf s x h)

theorem ite_onward {a x y : State} {c : Prop} [Decidable c] (hx : Onward a x) (hy : Onward a y) :
    Onward a (if c then x else y) := by
  split <;> assumption

theorem ite_onward_fst {β : Type} {a : State} {x y : State × β} {c : Prop} [Decidable c] (hx : Onward a x.1) (hy : Onward a y.1) :
    Onward a (if c then x else y).1 := by
  split <;> assumption

theorem ite_onward_snd {β : Type} {a : State} {x y : β × State} {c : Prop} [Decidable c] (hx : Onward a x.2) (hy : Onward a y.2) :
    Onward a (if c then x else y).2 := by
  split <;> assumption

theorem onward_none (s : State) : OnwardOpt s none := fun _ h => by cases h

theorem onward_some {s t : State} (h : Onward s t) : OnwardOpt s (some t) := fun _ e => by cases e; exact h

theorem OnwardOpt.get {s t : State} {o : Option State} (h : OnwardOpt s o) (e : o = some t) : Onward s t := h _ e

theorem onward_pair_none (s : State) : OnwardPair s none := fun _ h => by cases h

theorem onward_pair_some {s : State} {r : Nat × State} (h : Onward s r.2) : OnwardPair s (some r) := fun _ e => by cases e; exact h

theorem OnwardPair.orElse {s : State} {o : Option (Nat × State)} {p : Unit → Option (Nat × State)} (ho : OnwardPair s o)
    (hp : OnwardPair s (p ())) : OnwardPair s (o.orElse p) := by
  cases o with
  | none => exact hp
  | some r => exact ho

theorem onward_next {s t : State} (h : Onward s t) : OnwardAns s (.next t) := fun _ e => by cases e; exact h

theorem onward_fault {s : State} (f : Fault) : OnwardAns s (.fault f) := fun _ e => by cases e

/-- What a meter's step may do to its counts, where it does nothing to them. -/
theorem meter_keeps {m : Meter} : min m.update updateFull ≤ m.update ∧ m.next ≤ m.next := ⟨Nat.min_le_left _ _, Nat.le_refl _⟩

theorem Meter.stop_keeps (m : Meter) (b : Bool) :
    min m.update updateFull ≤ (m.stop b).update ∧ m.next ≤ (m.stop b).next := by
  unfold Meter.stop
  split <;> exact meter_keeps

theorem Meter.append_keeps (m : Meter) (r : MRec) (n : Nat) :
    min m.update updateFull ≤ (m.append r n).update ∧ m.next ≤ (m.append r n).next :=
  ⟨Nat.min_le_left _ _, Nat.le_add_right _ _⟩

end Sys2Proof.Machine
end

