-- ==== Sys2Proof/Laws/Ops.lean ====
section
/-! SUPPORT. What the operations of Machine/Ops.lean never take back (`Onward`), once for each. -/

set_option linter.all false
set_option Elab.async false

namespace Sys2Proof.Machine

theorem State.setReg_onward {s0 s : State} (p : Part) (key v : Nat) (hOn : Onward s0 s) :
    Onward s0 (s.setReg p key v) := by
  unfold State.setReg
  repeat' first
    | with_reducible first
      | assumption | refine ite_onward ?_ ?_ | apply State.modSh_onward
    | split | dsimp only

theorem State.setRegFrom_onward {s0 s : State} (p : Part) (key v ep : Nat) (hOn : Onward s0 s) :
    Onward s0 (s.setRegFrom p key v ep) := by
  unfold State.setRegFrom
  repeat' first
    | with_reducible first
      | assumption | refine ite_onward ?_ ?_ | apply State.modSh_onward | apply State.setReg_onward
    | split | dsimp only

theorem State.setSel_onward {s0 s : State} (p : Part) (c : Ctx) (key v : Nat) (hOn : Onward s0 s) :
    Onward s0 (s.setSel p c key v) := by
  unfold State.setSel
  repeat' first
    | with_reducible first
      | assumption | refine ite_onward ?_ ?_ | apply State.modSh_onward
    | split | dsimp only

theorem State.logEvent_onward {s0 s : State} (p : Part) (severity code job detail : Nat) (hOn : Onward s0 s) :
    Onward s0 (s.logEvent p severity code job detail) := by
  unfold State.logEvent
  repeat' first
    | with_reducible first
      | assumption | refine ite_onward ?_ ?_ | apply State.modSh_onward
    | split | dsimp only

theorem State.count_onward {s0 s : State} (p : Part) (group inst pos n : Nat) (hOn : Onward s0 s) :
    Onward s0 (s.count p group inst pos n) := by
  unfold State.count
  repeat' first
    | with_reducible first
      | assumption | refine ite_onward ?_ ?_ | apply State.modSh_onward | apply State.logEvent_onward
      | refine foldl_onward (fun _ _ _ => ?_) _ _ ?_ | refine foldl_onward_fst (fun _ _ _ => ?_) _ _ ?_
    | split | dsimp only

theorem State.epCount_onward {s0 s : State} (pos : Nat) (hOn : Onward s0 s) : Onward s0 (s.epCount pos) := by
  unfold State.epCount
  repeat' first
    | with_reducible first
      | assumption | refine ite_onward ?_ ?_ | apply State.count_onward
    | split | dsimp only

theorem State.mgCount_onward {s0 s : State} (pos : Nat) (hOn : Onward s0 s) : Onward s0 (s.mgCount pos) := by
  unfold State.mgCount
  repeat' first
    | with_reducible first
      | assumption | refine ite_onward ?_ ?_ | apply State.count_onward
    | split | dsimp only

theorem State.coCount_onward {s0 s : State} (pos : Nat) (hOn : Onward s0 s) : Onward s0 (s.coCount pos) := by
  unfold State.coCount
  repeat' first
    | with_reducible first
      | assumption | refine ite_onward ?_ ?_ | apply State.count_onward
    | split | dsimp only

theorem State.tileCount_onward {s0 s : State} (tile pos : Nat) (hOn : Onward s0 s) :
    Onward s0 (s.tileCount tile pos) := by
  unfold State.tileCount
  repeat' first
    | with_reducible first
      | assumption | refine ite_onward ?_ ?_ | apply State.count_onward
    | split | dsimp only

theorem State.portCount_onward {s0 s : State} (p : Part) (port pos : Nat) (hOn : Onward s0 s) :
    Onward s0 (s.portCount p port pos) := by
  unfold State.portCount
  repeat' first
    | with_reducible first
      | assumption | refine ite_onward ?_ ?_ | apply State.count_onward
    | split | dsimp only

theorem State.bothCount_onward {s0 s : State} (p : Part) (epPos modPos : Nat) (hOn : Onward s0 s) :
    Onward s0 (s.bothCount p epPos modPos) := by
  unfold State.bothCount
  repeat' first
    | with_reducible first
      | assumption | refine ite_onward ?_ ?_ | apply State.epCount_onward | apply State.mgCount_onward
    | split | dsimp only

theorem State.partCount_onward {s0 s : State} (p : Part) (job pos n : Nat) (hOn : Onward s0 s) :
    Onward s0 (s.partCount p job pos n) := by
  unfold State.partCount
  repeat' first
    | with_reducible first
      | assumption | refine ite_onward ?_ ?_ | apply State.count_onward
    | split | dsimp only

theorem State.usageCount_onward {s0 s : State} (job port ingress egress : Nat) (hOn : Onward s0 s) :
    Onward s0 (s.usageCount job port ingress egress) := by
  unfold State.usageCount
  repeat' first
    | with_reducible first
      | assumption | refine ite_onward ?_ ?_ | apply State.modMod_onward
    | exact fun _ => ⟨rfl, rfl⟩ | split | dsimp only

theorem State.newPartition_onward {s0 s : State} (p : Part) (job : Nat) (hOn : Onward s0 s) :
    Onward s0 (s.newPartition p job) := by
  unfold State.newPartition
  repeat' first
    | with_reducible first
      | assumption | refine ite_onward ?_ ?_ | apply State.modSh_onward
    | split | dsimp only

end Sys2Proof.Machine
end

