-- ==== Sys2Proof/Laws/DirTable.lean ====
section
/-! SUPPORT. What the operations of Machine/DirTable.lean never take back (`Onward`), once for each. -/

set_option linter.all false
set_option Elab.async false

namespace Sys2Proof.Machine

theorem dirDenied_onward {s0 s : State} (p : Part) (a : Access) (key : Nat) (hOn : Onward s0 s) :
    Onward s0 (dirDenied p a key s) := by
  unfold dirDenied
  repeat' first
    | with_reducible first
      | assumption | refine ite_onward ?_ ?_ | apply State.logEvent_onward | apply State.bothCount_onward
    | split | dsimp only

theorem dirWriteWith_onward {s0 s : State} (p : Part) (a : Access) (key : Nat) (k : State → Nat × State)
    (hk : ∀ t, Onward s0 t → Onward s0 (k t).2) (h : Onward s0 s) : Onward s0 (dirWriteWith p a key k s).2 := by
  unfold dirWriteWith
  split <;> first | exact hk _ h | exact h | exact dirDenied_onward _ _ _ h

theorem dirAnswer_onward {s0 : State} (p : Part) (c : Ctx) (r : Nat × State) (h : Onward s0 r.2) :
    Onward s0 (dirAnswer p c r) :=
  State.emit_onward _ h

end Sys2Proof.Machine
end

