-- ==== Sys2Proof/Laws/Eri.lean ====
section
/-! SUPPORT. What the operations of Machine/Eri.lean never take back (`Onward`), once for each. -/

set_option linter.all false
set_option Elab.async false

namespace Sys2Proof.Machine

theorem State.giveCredit_onward {s0 s : State} (l cls units : Nat) (hOn : Onward s0 s) :
    Onward s0 (s.giveCredit l cls units) := by
  unfold State.giveCredit
  repeat' first
    | with_reducible first
      | assumption | refine ite_onward ?_ ?_ | apply State.modLink_onward | apply State.emit_onward
    | split | dsimp only

theorem State.returnReq_onward {s0 s : State} (l units : Nat) (hOn : Onward s0 s) :
    Onward s0 (s.returnReq l units) := by
  unfold State.returnReq
  repeat' first
    | with_reducible first
      | assumption | refine ite_onward ?_ ?_ | apply State.giveCredit_onward | apply State.modLink_onward
    | split | dsimp only

theorem State.payOwed_onward {s0 s : State} (hOn : Onward s0 s) : Onward s0 (s.payOwed) := by
  unfold State.payOwed
  repeat' first
    | with_reducible first
      | assumption | refine ite_onward ?_ ?_ | apply State.modLink_onward | apply State.giveCredit_onward
      | refine foldl_onward (fun _ _ _ => ?_) _ _ ?_
    | split | dsimp only

theorem State.payResp_onward {s0 s : State} (l : Nat) (hOn : Onward s0 s) : Onward s0 (s.payResp l) := by
  unfold State.payResp
  repeat' first
    | with_reducible first
      | assumption | refine ite_onward ?_ ?_ | apply State.modLink_onward | apply State.giveCredit_onward
    | split | dsimp only

theorem State.takeCredit_onward {s0 s : State} (l cls units : Nat) (hOn : Onward s0 s) :
    OnwardOpt s0 (s.takeCredit l cls units) := by
  unfold State.takeCredit
  repeat' first
    | with_reducible first
      | assumption | refine ite_onward ?_ ?_ | apply State.modLink_onward | exact onward_none _
      | refine onward_some ?_
    | split | dsimp only

theorem State.trySend_onward {s0 s : State} (w : EriWait) (hOn : Onward s0 s) : OnwardOpt s0 (s.trySend w) := by
  unfold State.trySend
  repeat' first
    | with_reducible first
      | assumption | refine ite_onward ?_ ?_ | apply State.modLink_onward | apply State.emit_onward
      | apply State.modEp_onward | exact onward_none _ | refine onward_some ?_
    | split | dsimp only

theorem State.flushTx_onward {s0 s : State} (hOn : Onward s0 s) : Onward s0 (s.flushTx) := by
  unfold State.flushTx
  repeat' first
    | with_reducible first
      | assumption | refine ite_onward ?_ ?_ | apply State.modEp_onward
      | refine OnwardOpt.get ?_ ‹State.trySend _ _ = some _› | apply State.trySend_onward
      | refine foldl_onward (fun _ _ _ => ?_) _ _ ?_ | refine foldl_onward_fst (fun _ _ _ => ?_) _ _ ?_
    | split | dsimp only

theorem State.sendComp_onward {s0 s : State} (l : Nat) (m : Eri) (hOn : Onward s0 s) :
    Onward s0 (s.sendComp l m) := by
  unfold State.sendComp
  repeat' first
    | with_reducible first
      | assumption | refine ite_onward ?_ ?_ | apply State.modEp_onward | apply State.flushTx_onward
    | split | dsimp only

theorem State.sendMem_onward {s0 s : State} (who : MemFor) (kind purpose addr len aop fmt : Nat) (data : List Byte) (hOn : Onward s0 s) :
    Onward s0 (s.sendMem who kind purpose addr len aop fmt data) := by
  unfold State.sendMem
  repeat' first
    | with_reducible first
      | assumption | refine ite_onward ?_ ?_ | apply State.modEp_onward | apply State.flushTx_onward
    | split | dsimp only

theorem State.jobNotice_onward {s0 s : State} (kind job plane node : Nat) (hOn : Onward s0 s) :
    Onward s0 (s.jobNotice kind job plane node) := by
  unfold State.jobNotice
  repeat' first
    | with_reducible first
      | assumption | refine ite_onward ?_ ?_ | apply State.sendComp_onward
    | split | dsimp only

theorem State.endTag_onward {s0 s : State} (l agent tag job code : Nat) (data : List Byte) (hOn : Onward s0 s) :
    Onward s0 (s.endTag l agent tag job code data) := by
  unfold State.endTag
  repeat' first
    | with_reducible first
      | assumption | refine ite_onward ?_ ?_ | apply State.modEp_onward | apply State.sendComp_onward
      | apply State.payOwed_onward
    | split | dsimp only

end Sys2Proof.Machine
end

