-- ==== Sys2Proof/Laws/Requests.lean ====
section
/-! SUPPORT. What the operations of Machine/Requests.lean never take back (`Onward`), once for each. -/

set_option linter.all false
set_option Elab.async false

namespace Sys2Proof.Machine

theorem State.traceEp_onward {s0 s : State} (k : Packet) (kind base : Nat) (offs : List Nat) (hOn : Onward s0 s) :
    Onward s0 (s.traceEp k kind base offs) := by
  unfold State.traceEp
  repeat' first
    | with_reducible first
      | assumption | refine ite_onward ?_ ?_ | apply State.modEp_onward
    | split | dsimp only

theorem State.traceSource_onward {s0 s : State} (r : Req) (hOn : Onward s0 s) : Onward s0 (s.traceSource r) := by
  unfold State.traceSource
  repeat' first
    | with_reducible first
      | assumption | refine ite_onward ?_ ?_ | apply State.traceEp_onward
    | split | dsimp only

theorem State.traceDest_onward {s0 s : State} (k : Packet) (hOn : Onward s0 s) : Onward s0 (s.traceDest k) := by
  unfold State.traceDest
  repeat' first
    | with_reducible first
      | assumption | refine ite_onward ?_ ?_ | apply State.traceEp_onward
    | split | dsimp only

theorem State.writePage_onward {s0 s : State} (tile kind : Nat) (who : SpillFor) (data : List Byte) (hOn : Onward s0 s) :
    Onward s0 (s.writePage tile kind who data) := by
  unfold State.writePage
  repeat' first
    | with_reducible first
      | assumption | refine ite_onward ?_ ?_ | apply State.modMod_onward
    | exact fun _ => ⟨rfl, rfl⟩ | split | dsimp only

theorem State.dropPages_onward {s0 s : State} (who : SpillFor) (hOn : Onward s0 s) : Onward s0 (s.dropPages who) := by
  unfold State.dropPages
  repeat' first
    | with_reducible first
      | assumption | refine ite_onward ?_ ?_ | apply State.modMod_onward
    | exact fun _ => ⟨rfl, rfl⟩ | split | dsimp only

theorem State.putFrame_onward {s0 s : State} (f : MFrame) (hOn : Onward s0 s) : Onward s0 (s.putFrame f) := by
  unfold State.putFrame
  repeat' first
    | with_reducible first
      | assumption | refine ite_onward ?_ ?_ | apply State.writePage_onward | apply State.modMod_onward
      | apply State.modTile_onward
    | exact fun _ => ⟨rfl, rfl⟩ | split | dsimp only

theorem State.takeFrame_onward {s0 s : State} (f : MFrame) (hOn : Onward s0 s) : Onward s0 (s.takeFrame f) := by
  unfold State.takeFrame
  repeat' first
    | with_reducible first
      | assumption | refine ite_onward ?_ ?_ | apply State.dropPages_onward | apply State.modMod_onward
      | apply State.modTile_onward
    | exact fun _ => ⟨rfl, rfl⟩ | split | dsimp only

theorem State.addFrame_onward {s0 s : State} (f : MFrame) (hOn : Onward s0 s) : Onward s0 (s.addFrame f) := by
  unfold State.addFrame
  repeat' first
    | with_reducible first
      | assumption | refine ite_onward ?_ ?_ | apply State.modMod_onward | apply State.putFrame_onward
    | exact fun _ => ⟨rfl, rfl⟩ | split | dsimp only

theorem State.newFrame_onward {s0 s : State} (tile dtile unit prio : Nat) (pkt : Packet) (ingress : Nat) (hOn : Onward s0 s) :
    Onward s0 (s.newFrame tile dtile unit prio pkt ingress) := by
  unfold State.newFrame
  repeat' first
    | with_reducible first
      | assumption | refine ite_onward ?_ ?_ | apply State.tileCount_onward | apply State.portCount_onward
      | apply State.addFrame_onward
    | split | dsimp only

theorem State.sendPacket_onward {s0 s : State} (p : Part) (tile port : Nat) (pkt : Packet) (sl : Seal) (hOn : Onward s0 s) :
    Onward s0 (s.sendPacket p tile port pkt sl) := by
  unfold State.sendPacket
  repeat' first
    | with_reducible first
      | assumption | refine ite_onward ?_ ?_ | apply State.emit_onward | apply State.modSh_onward
      | apply State.newFrame_onward
    | split | dsimp only

theorem State.ncFill_onward {s0 s : State} (slot line : Nat) (data : List Byte) (hOn : Onward s0 s) :
    Onward s0 (s.ncFill slot line data) := by
  unfold State.ncFill
  repeat' first
    | with_reducible first
      | assumption | refine ite_onward ?_ ?_ | apply State.modEp_onward
      | refine foldl_onward (fun _ _ _ => ?_) _ _ ?_
    | split | dsimp only

theorem State.ncCancel_onward {s0 s : State} (fpa n : Nat) (hOn : Onward s0 s) : Onward s0 (s.ncCancel fpa n) := by
  unfold State.ncCancel
  repeat' first
    | with_reducible first
      | assumption | refine ite_onward ?_ ?_ | apply State.modSh_onward
    | split | dsimp only

theorem State.ncWrite_onward {s0 s : State} (fpa : Nat) (data : List Byte) (hOn : Onward s0 s) :
    Onward s0 (s.ncWrite fpa data) := by
  unfold State.ncWrite
  repeat' first
    | with_reducible first
      | assumption | refine ite_onward ?_ ?_ | apply State.ncCancel_onward | apply State.modEp_onward
    | split | dsimp only

theorem State.ncDrop_onward {s0 s : State} (fpa n : Nat) (hOn : Onward s0 s) : Onward s0 (s.ncDrop fpa n) := by
  unfold State.ncDrop
  repeat' first
    | with_reducible first
      | assumption | refine ite_onward ?_ ?_ | apply State.ncCancel_onward | apply State.modEp_onward
    | split | dsimp only

theorem State.ncInvalidate_onward {s0 s : State} (slot : Nat) (hOn : Onward s0 s) :
    Onward s0 (s.ncInvalidate slot) := by
  unfold State.ncInvalidate
  repeat' first
    | with_reducible first
      | assumption | refine ite_onward ?_ ?_ | apply State.modEp_onward
    | split | dsimp only

theorem State.dropReq_onward {s0 s : State} (p : Part) (id : Nat) (hOn : Onward s0 s) :
    Onward s0 (s.dropReq p id) := by
  unfold State.dropReq
  repeat' first
    | with_reducible first
      | assumption | refine ite_onward ?_ ?_ | apply State.modSh_onward
    | split | dsimp only

theorem State.noteOwn_onward {s0 s : State} (r : Req) (code : Nat) (hOn : Onward s0 s) :
    Onward s0 (s.noteOwn r code) := by
  unfold State.noteOwn
  repeat' first
    | with_reducible first
      | assumption | refine ite_onward ?_ ?_ | apply State.modEp_onward
    | split | dsimp only

theorem State.noteEnd_onward {s0 s : State} (p : Part) (r : Req) (code : Nat) (hOn : Onward s0 s) :
    Onward s0 (s.noteEnd p r code) := by
  unfold State.noteEnd
  repeat' first
    | with_reducible first
      | assumption | refine ite_onward ?_ ?_ | apply State.noteOwn_onward | apply State.modSh_onward
    | split | dsimp only

theorem State.ownerDone_onward {s0 s : State} (r : Req) (code : Nat) (data : List Byte) (hOn : Onward s0 s) :
    Onward s0 (s.ownerDone r code data) := by
  unfold State.ownerDone
  repeat' first
    | with_reducible first
      | assumption | refine ite_onward ?_ ?_ | apply State.endTag_onward | apply State.modEp_onward
      | apply State.modMod_onward | apply State.modSh_onward
    | exact fun _ => ⟨rfl, rfl⟩ | split | dsimp only

theorem State.endReq_onward {s0 s : State} (p : Part) (id code : Nat) (data : List Byte) (hOn : Onward s0 s) :
    Onward s0 (s.endReq p id code data) := by
  unfold State.endReq
  repeat' first
    | with_reducible first
      | assumption | refine ite_onward ?_ ?_ | apply State.modSh_onward | apply State.noteEnd_onward
      | apply State.epCount_onward | apply State.partCount_onward | apply State.traceSource_onward
      | apply State.ncInvalidate_onward | apply State.ownerDone_onward
    | split | dsimp only

theorem State.fillAndTake_onward {s0 s : State} (r : Req) (data : List Byte) (hOn : Onward s0 s) :
    Onward s0 (s.fillAndTake r data).1 := by
  unfold State.fillAndTake
  repeat' first
    | with_reducible first
      | assumption | refine ite_onward ?_ ?_ | refine ite_onward_fst ?_ ?_ | refine ite_onward_snd ?_ ?_
      | apply State.ncFill_onward | refine foldl_onward (fun _ _ _ => ?_) _ _ ?_
      | refine foldl_onward_fst (fun _ _ _ => ?_) _ _ ?_
    | split | dsimp only

theorem State.deny_onward {s0 s : State} (p : Part) (job src off typ reason : Nat) (hOn : Onward s0 s) :
    Onward s0 (s.deny p job src off typ reason) := by
  unfold State.deny
  repeat' first
    | with_reducible first
      | assumption | refine ite_onward ?_ ?_ | apply State.modSh_onward | apply State.modEp_onward
      | apply State.modMod_onward | apply State.partCount_onward
    | exact fun _ => ⟨rfl, rfl⟩ | split | dsimp only

theorem State.admitOwn_onward {s0 s : State} (job off len want typ : Nat) (hOn : Onward s0 s) :
    Onward s0 (s.admitOwn job off len want typ).1 := by
  unfold State.admitOwn
  repeat' first
    | with_reducible first
      | assumption | refine ite_onward ?_ ?_ | refine ite_onward_fst ?_ ?_ | refine ite_onward_snd ?_ ?_
      | apply State.deny_onward | apply State.epCount_onward
    | split | dsimp only

theorem State.sendReq_onward {s0 s : State} (p : Part) (r : Req) (plane tile port : Nat) (hOn : Onward s0 s) :
    Onward s0 (s.sendReq p r plane tile port) := by
  unfold State.sendReq
  repeat' first
    | with_reducible first
      | assumption | refine ite_onward ?_ ?_ | apply State.modSh_onward | apply State.modReq_onward
      | apply State.partCount_onward | apply State.sendPacket_onward
    | split | dsimp only

theorem State.resend_onward {s0 s : State} (p : Part) (r : Req) (plane tile port : Nat) (hOn : Onward s0 s) :
    Onward s0 (s.resend p r plane tile port) := by
  unfold State.resend
  repeat' first
    | with_reducible first
      | assumption | refine ite_onward ?_ ?_ | apply State.modReq_onward | apply State.sendPacket_onward
    | split | dsimp only

theorem State.placeReq_onward {s0 s : State} (id : Nat) (hOn : Onward s0 s) : Onward s0 (s.placeReq id) := by
  unfold State.placeReq
  repeat' first
    | with_reducible first
      | assumption | refine ite_onward ?_ ?_ | apply State.modEp_onward
    | split | dsimp only

theorem State.ownClose_onward {s0 s : State} (r : Req) (hOn : Onward s0 s) : Onward s0 (s.ownClose r) := by
  unfold State.ownClose
  repeat' first
    | with_reducible first
      | assumption | refine ite_onward ?_ ?_ | apply State.modEp_onward
    | split | dsimp only

theorem State.serveOwn_onward {s0 s : State} (r : Req) (hOn : Onward s0 s) : Onward s0 (s.serveOwn r) := by
  unfold State.serveOwn
  repeat' first
    | with_reducible first
      | assumption | refine ite_onward ?_ ?_ | apply State.ownClose_onward | apply State.epCount_onward
      | apply State.endReq_onward | apply State.admitOwn_onward | apply State.modReq_onward
      | apply State.sendMem_onward
    | split | dsimp only

theorem State.sendMarker_onward {s0 s : State} (r : Req) (plane : Nat) (hOn : Onward s0 s) :
    Onward s0 (s.sendMarker r plane) := by
  unfold State.sendMarker
  repeat' first
    | with_reducible first
      | assumption | refine ite_onward ?_ ?_ | apply State.modSh_onward | apply State.sendReq_onward
    | split | dsimp only

theorem State.issueDrop_onward {s0 s : State} (r : Req) (hOn : Onward s0 s) : Onward s0 (s.issueDrop r) := by
  unfold State.issueDrop
  repeat' first
    | with_reducible first
      | assumption | refine ite_onward ?_ ?_ | apply State.ncDrop_onward
    | split | dsimp only

theorem State.issue_onward {s0 s : State} (id : Nat) (hOn : Onward s0 s) : Onward s0 (s.issue id) := by
  unfold State.issue
  repeat' first
    | with_reducible first
      | assumption | refine ite_onward ?_ ?_ | apply State.endReq_onward | apply State.serveOwn_onward
      | apply State.issueDrop_onward | apply State.sendReq_onward | apply State.sendMarker_onward
    | split | dsimp only

theorem State.ncEcc_onward {s0 s : State} (slot line ecc : Nat) (hOn : Onward s0 s) :
    Onward s0 (s.ncEcc slot line ecc) := by
  unfold State.ncEcc
  repeat' first
    | with_reducible first
      | assumption | refine ite_onward ?_ ?_ | apply State.epCount_onward | apply State.modEp_onward
    | split | dsimp only

theorem State.ncLook_onward {s0 s : State} (slot : Nat) (lines ecc : List Nat) (hOn : Onward s0 s) :
    Onward s0 (s.ncLook slot lines ecc) := by
  unfold State.ncLook
  repeat' first
    | with_reducible first
      | assumption | refine ite_onward ?_ ?_ | apply State.ncEcc_onward
      | refine foldl_onward (fun _ _ _ => ?_) _ _ ?_ | refine foldl_onward_fst (fun _ _ _ => ?_) _ _ ?_
    | split | dsimp only

theorem State.ncServe_onward {s0 s : State} (r : Req) (hits : List (Nat × List Byte)) (hOn : Onward s0 s) :
    Onward s0 (s.ncServe r hits) := by
  unfold State.ncServe
  repeat' first
    | with_reducible first
      | assumption | refine ite_onward ?_ ?_ | apply State.modEp_onward | apply State.epCount_onward
      | apply State.endReq_onward
    | split | dsimp only

theorem State.ncFetch_onward {s0 s : State} (r : Req) (hits : List (Nat × List Byte)) (missing : List Nat) (hOn : Onward s0 s) :
    Onward s0 (s.ncFetch r hits missing) := by
  unfold State.ncFetch
  repeat' first
    | with_reducible first
      | assumption | refine ite_onward ?_ ?_ | apply State.epCount_onward | apply State.modReq_onward
      | apply State.issue_onward
    | split | dsimp only

theorem State.tryIssue_onward {s0 s : State} (id : Nat) (hOn : Onward s0 s) : Onward s0 (s.tryIssue id) := by
  unfold State.tryIssue
  repeat' first
    | with_reducible first
      | assumption | refine ite_onward ?_ ?_ | apply State.ncLook_onward | apply State.ncServe_onward
      | apply State.ncFetch_onward | apply State.issue_onward
    | split | dsimp only

theorem State.tryIssueEcc_onward {s0 s : State} (id : Nat) (ecc : List Nat) (hOn : Onward s0 s) :
    Onward s0 (s.tryIssueEcc id ecc) := by
  unfold State.tryIssueEcc
  repeat' first
    | with_reducible first
      | assumption | refine ite_onward ?_ ?_ | apply State.modReq_onward | apply State.tryIssue_onward
    | split | dsimp only

end Sys2Proof.Machine
end

