-- ==== Sys2Proof/Laws/Translate.lean ====
section
/-! SUPPORT. What the operations of Machine/Translate.lean never take back (`Onward`), once for each. -/

set_option linter.all false
set_option Elab.async false

namespace Sys2Proof.Machine

theorem State.install_onward {s0 s : State} (a : AtuEntry) (hOn : Onward s0 s) : Onward s0 (s.install a) := by
  unfold State.install
  repeat' first
    | with_reducible first
      | assumption | refine ite_onward ?_ ?_ | apply State.modEp_onward | apply State.drawn_onward
    | split | dsimp only

theorem State.installPtr_onward {s0 s : State} (w : WalkPtr) (hOn : Onward s0 s) : Onward s0 (s.installPtr w) := by
  unfold State.installPtr
  repeat' first
    | with_reducible first
      | assumption | refine ite_onward ?_ ?_ | apply State.modEp_onward | apply State.drawn_onward
    | split | dsimp only

theorem State.modWalk_onward {s0 s : State} (id : Nat) (f : Walk → Walk) (hOn : Onward s0 s) :
    Onward s0 (s.modWalk id f) := by
  unfold State.modWalk
  repeat' first
    | with_reducible first
      | assumption | refine ite_onward ?_ ?_ | apply State.modEp_onward
    | split | dsimp only

theorem State.readEntry_onward {s0 s : State} (id level granule table : Nat) (hOn : Onward s0 s) :
    Onward s0 (s.readEntry id level granule table) := by
  unfold State.readEntry
  repeat' first
    | with_reducible first
      | assumption | refine ite_onward ?_ ?_ | apply State.sendMem_onward
    | split | dsimp only

theorem State.startWalk_onward {s0 s : State} (slot job granule want : Nat) (who : WalkFor) (hOn : Onward s0 s) :
    Onward s0 (s.startWalk slot job granule want who) := by
  unfold State.startWalk
  repeat' first
    | with_reducible first
      | assumption | refine ite_onward ?_ ?_ | apply State.modEp_onward | apply State.readEntry_onward
    | split | dsimp only

theorem State.walkAnswer_onward {s0 s : State} (id code : Nat) (data : List Byte) (hOn : Onward s0 s) :
    Onward s0 (s.walkAnswer id code data) := by
  unfold State.walkAnswer
  repeat' first
    | with_reducible first
      | assumption | refine ite_onward ?_ ?_ | apply State.epCount_onward | apply State.modWalk_onward
      | apply State.installPtr_onward | apply State.readEntry_onward
    | split | dsimp only

theorem State.listEnd_onward {s0 s : State} (slot code : Nat) (hOn : Onward s0 s) :
    Onward s0 (s.listEnd slot code) := by
  unfold State.listEnd
  repeat' first
    | with_reducible first
      | assumption | refine ite_onward ?_ ?_ | apply State.modEp_onward | apply State.endTag_onward
    | split | dsimp only

theorem State.listEndOf_onward {s0 s : State} (slot i code : Nat) (hOn : Onward s0 s) :
    Onward s0 (s.listEndOf slot i code) := by
  unfold State.listEndOf
  repeat' first
    | with_reducible first
      | assumption | refine ite_onward ?_ ?_ | apply State.listEnd_onward
    | split | dsimp only

theorem State.copyEnd_onward {s0 s : State} (id code : Nat) (hOn : Onward s0 s) : Onward s0 (s.copyEnd id code) := by
  unfold State.copyEnd
  repeat' first
    | with_reducible first
      | assumption | refine ite_onward ?_ ?_ | apply State.modEp_onward | apply State.endTag_onward
      | apply State.listEnd_onward
    | split | dsimp only

theorem State.collEnd_onward {s0 s : State} (c code : Nat) (hOn : Onward s0 s) : Onward s0 (s.collEnd c code) := by
  unfold State.collEnd
  repeat' first
    | with_reducible first
      | assumption | refine ite_onward ?_ ?_ | apply State.modEp_onward | apply State.partCount_onward
      | apply State.modSh_onward | apply State.endTag_onward
    | split | dsimp only

theorem State.failWho_onward {s0 s : State} (who : WalkFor) (code : Nat) (hOn : Onward s0 s) :
    Onward s0 (s.failWho who code) := by
  unfold State.failWho
  repeat' first
    | with_reducible first
      | assumption | refine ite_onward ?_ ?_ | apply State.endReq_onward | apply State.modEp_onward
      | apply State.collEnd_onward | apply State.listEndOf_onward
    | split | dsimp only

theorem State.faultNotice_onward {s0 s : State} (index : Nat) (f : FaultRec) (hOn : Onward s0 s) :
    Onward s0 (s.faultNotice index f) := by
  unfold State.faultNotice
  repeat' first
    | with_reducible first
      | assumption | refine ite_onward ?_ ?_ | apply State.sendComp_onward
    | split | dsimp only

theorem State.markFault_onward {s0 s : State} (who : WalkFor) (rec : Nat) (hOn : Onward s0 s) :
    Onward s0 (s.markFault who rec) := by
  unfold State.markFault
  repeat' first
    | with_reducible first
      | assumption | refine ite_onward ?_ ?_ | apply State.modReq_onward | apply State.modEp_onward
      | apply State.count_onward
    | split | dsimp only

theorem State.raiseFault_onward {s0 s : State} (job granule kind want : Nat) (who : WalkFor) (hOn : Onward s0 s) :
    Onward s0 (s.raiseFault job granule kind want who) := by
  unfold State.raiseFault
  repeat' first
    | with_reducible first
      | assumption | refine ite_onward ?_ ?_ | apply State.modEp_onward | apply State.markFault_onward
      | apply State.epCount_onward | apply State.failWho_onward | apply State.faultNotice_onward
    | split | dsimp only

theorem State.failRecord_onward {s0 s : State} (i code : Nat) (hOn : Onward s0 s) :
    Onward s0 (s.failRecord i code) := by
  unfold State.failRecord
  repeat' first
    | with_reducible first
      | assumption | refine ite_onward ?_ ?_ | apply State.modEp_onward | apply State.failWho_onward
      | refine foldl_onward (fun _ _ _ => ?_) _ _ ?_
    | split | dsimp only

theorem State.translatedReq_onward {s0 s : State} (id : Nat) (a : AtuEntry) (inv : Nat) (hOn : Onward s0 s) :
    Onward s0 (s.translatedReq id a inv) := by
  unfold State.translatedReq
  repeat' first
    | with_reducible first
      | assumption | refine ite_onward ?_ ?_ | apply State.epCount_onward | apply State.endReq_onward
      | apply State.modReq_onward | apply State.placeReq_onward | apply State.ncWrite_onward
    | split | dsimp only

theorem State.translate_onward {s0 s : State} (id : Nat) (hOn : Onward s0 s) : Onward s0 (s.translate id) := by
  unfold State.translate
  repeat' first
    | with_reducible first
      | assumption | refine ite_onward ?_ ?_ | apply State.translatedReq_onward | apply State.raiseFault_onward
      | apply State.modReq_onward | apply State.startWalk_onward
    | split | dsimp only

theorem State.granuleDone_onward {s0 s : State} (who : WalkFor) (slot granule want : Nat) (hOn : Onward s0 s) :
    Onward s0 (s.granuleDone who slot granule want) := by
  unfold State.granuleDone
  repeat' first
    | with_reducible first
      | assumption | refine ite_onward ?_ ?_ | apply State.modEp_onward
    | split | dsimp only

theorem State.needGranule_onward {s0 s : State} (who : WalkFor) (slot job granule want : Nat) (hOn : Onward s0 s) :
    Onward s0 (s.needGranule who slot job granule want) := by
  unfold State.needGranule
  repeat' first
    | with_reducible first
      | assumption | refine ite_onward ?_ ?_ | apply State.granuleDone_onward | apply State.raiseFault_onward
      | apply State.startWalk_onward
    | split | dsimp only

theorem State.again_onward {s0 s : State} (who : WalkFor) (slot job granule want : Nat) (hOn : Onward s0 s) :
    Onward s0 (s.again who slot job granule want) := by
  unfold State.again
  repeat' first
    | with_reducible first
      | assumption | refine ite_onward ?_ ?_ | apply State.translate_onward | apply State.tryIssue_onward
      | apply State.needGranule_onward
    | split | dsimp only

theorem State.ownLocal_onward {s0 s : State} (got : List (Nat × Nat)) (job vfa len want typ : Nat) (hOn : Onward s0 s) :
    Onward s0 (s.ownLocal got job vfa len want typ).1 := by
  unfold State.ownLocal
  repeat' first
    | with_reducible first
      | assumption | refine ite_onward ?_ ?_ | refine ite_onward_fst ?_ ?_ | refine ite_onward_snd ?_ ?_
      | apply State.admitOwn_onward
    | split | dsimp only

end Sys2Proof.Machine
end

