-- ==== Sys2Proof/Laws/Receiver.lean ====
section
/-! SUPPORT. What the operations of Machine/Receiver.lean never take back (`Onward`), once for each. -/

set_option linter.all false
set_option Elab.async false

namespace Sys2Proof.Machine

theorem State.respond_onward {s0 s : State} (p : Part) (req : Packet) (port code : Nat) (data : List Byte) (reads : Nat) (hOn : Onward s0 s) :
    Onward s0 (s.respond p req port code data reads) := by
  unfold State.respond
  repeat' first
    | with_reducible first
      | assumption | refine ite_onward ?_ ?_ | apply State.sendPacket_onward
    | split | dsimp only

theorem State.notice_onward {s0 s : State} (p : Part) (typ code src plane port seq : Nat) (hOn : Onward s0 s) :
    Onward s0 (s.notice p typ code src plane port seq) := by
  unfold State.notice
  repeat' first
    | with_reducible first
      | assumption | refine ite_onward ?_ ?_ | apply State.sendPacket_onward
    | split | dsimp only

theorem State.rcvCount_onward {s0 s : State} (p : Part) (epPos coPos : Nat) (hOn : Onward s0 s) :
    Onward s0 (s.rcvCount p epPos coPos) := by
  unfold State.rcvCount
  repeat' first
    | with_reducible first
      | assumption | refine ite_onward ?_ ?_ | apply State.epCount_onward | apply State.coCount_onward
    | split | dsimp only

theorem State.malformed_onward {s0 s : State} (p : Part) (port : Nat) (hOn : Onward s0 s) :
    Onward s0 (s.malformed p port) := by
  unfold State.malformed
  repeat' first
    | with_reducible first
      | assumption | refine ite_onward ?_ ?_ | apply State.epCount_onward | apply State.tileCount_onward
    | split | dsimp only

theorem State.refuse_onward {s0 s : State} (p : Part) (k : Packet) (port reason : Nat) (hOn : Onward s0 s) :
    Onward s0 (s.refuse p k port reason) := by
  unfold State.refuse
  repeat' first
    | with_reducible first
      | assumption | refine ite_onward ?_ ?_ | apply State.deny_onward | apply State.respond_onward
    | split | dsimp only

theorem State.sealCount_onward {s0 s : State} (p : Part) (r : Nat) (hOn : Onward s0 s) :
    Onward s0 (s.sealCount p r) := by
  unfold State.sealCount
  repeat' first
    | with_reducible first
      | assumption | refine ite_onward ?_ ?_ | apply State.bothCount_onward
    | split | dsimp only

theorem State.modRecv_onward {s0 s : State} (p : Part) (f : Receiver → Receiver) (hOn : Onward s0 s) :
    Onward s0 (s.modRecv p f) := by
  unfold State.modRecv
  repeat' first
    | with_reducible first
      | assumption | refine ite_onward ?_ ?_ | apply State.modSh_onward
    | split | dsimp only

theorem State.modRec_onward {s0 s : State} (p : Part) (src : Nat) (f : SrcRec → SrcRec) (hOn : Onward s0 s) :
    Onward s0 (s.modRec p src f) := by
  unfold State.modRec
  repeat' first
    | with_reducible first
      | assumption | refine ite_onward ?_ ?_ | apply State.modRecv_onward
    | split | dsimp only

theorem State.settle_onward {s0 s : State} (p : Part) (k : Packet) (code : Nat) (data : List Byte) (count : Bool) (hOn : Onward s0 s) :
    Onward s0 (s.settle p k code data count) := by
  unfold State.settle
  repeat' first
    | with_reducible first
      | assumption | refine ite_onward ?_ ?_ | apply State.modRec_onward | apply State.modRecv_onward
    | split | dsimp only

theorem State.finish_onward {s0 s : State} (p : Part) (k : Packet) (port code : Nat) (data : List Byte) (count : Bool) (hOn : Onward s0 s) :
    Onward s0 (s.finish p k port code data count) := by
  unfold State.finish
  repeat' first
    | with_reducible first
      | assumption | refine ite_onward ?_ ?_ | apply State.traceDest_onward | apply State.respond_onward
      | apply State.settle_onward
    | split | dsimp only

theorem State.finishProg_onward {s0 s : State} (p : Part) (id code : Nat) (data : List Byte) (hOn : Onward s0 s) :
    Onward s0 (s.finishProg p id code data) := by
  unfold State.finishProg
  repeat' first
    | with_reducible first
      | assumption | refine ite_onward ?_ ?_ | apply State.epCount_onward | apply State.finish_onward
      | apply State.modRecv_onward
    | split | dsimp only

theorem State.checks_onward {s0 s : State} (p : Part) (k : Packet) (hOn : Onward s0 s) :
    Onward s0 (s.checks p k).1 := by
  unfold State.checks
  repeat' first
    | with_reducible first
      | assumption | refine ite_onward ?_ ?_ | refine ite_onward_fst ?_ ?_ | refine ite_onward_snd ?_ ?_
      | apply State.deny_onward | apply State.rcvCount_onward | apply State.partCount_onward
    | split | dsimp only

theorem State.serveAt_onward {s0 s : State} (p : Part) (k : Packet) (port loc base : Nat) (hOn : Onward s0 s) :
    Onward s0 (s.serveAt p k port loc base).1 := by
  unfold State.serveAt
  repeat' first
    | with_reducible first
      | assumption | refine ite_onward ?_ ?_ | refine ite_onward_fst ?_ ?_ | refine ite_onward_snd ?_ ?_
      | apply State.finish_onward | apply State.modRecv_onward | apply State.sendMem_onward
    | split | dsimp only

theorem State.serve_onward {s0 s : State} (p : Part) (k : Packet) (port : Nat) (hOn : Onward s0 s) :
    Onward s0 (s.serve p k port).1 := by
  unfold State.serve
  repeat' first
    | with_reducible first
      | assumption | refine ite_onward ?_ ?_ | refine ite_onward_fst ?_ ?_ | refine ite_onward_snd ?_ ?_
      | apply State.checks_onward | apply State.finish_onward | apply State.serveAt_onward
    | split | dsimp only

theorem State.notOpen_onward {s0 s : State} (p : Part) (k : Packet) (port : Nat) (hOn : Onward s0 s) :
    Onward s0 (s.notOpen p k port) := by
  unfold State.notOpen
  repeat' first
    | with_reducible first
      | assumption | refine ite_onward ?_ ?_ | apply State.malformed_onward | apply State.deny_onward
      | apply State.finish_onward
    | split | dsimp only

theorem State.unhold_onward {s0 s : State} (p : Part) (h : HeldStore) (hOn : Onward s0 s) :
    Onward s0 (s.unhold p h) := by
  unfold State.unhold
  repeat' first
    | with_reducible first
      | assumption | refine ite_onward ?_ ?_ | apply State.modRecv_onward
    | split | dsimp only

theorem State.closeHeld_onward {s0 s : State} (p : Part) (h : HeldStore) (hOn : Onward s0 s) :
    Onward s0 (s.closeHeld p h) := by
  unfold State.closeHeld
  repeat' first
    | with_reducible first
      | assumption | refine ite_onward ?_ ?_ | apply State.unhold_onward | apply State.modRec_onward
    | split | dsimp only

theorem State.dropHeld_onward {s0 s : State} (p : Part) (h : HeldStore) (code : Nat) (count : State → State)
    (hc : ∀ t, Onward s0 t → Onward s0 (count t)) (hOn : Onward s0 s) : Onward s0 (s.dropHeld p h code count) := by
  unfold State.dropHeld
  refine ite_onward (State.closeHeld_onward _ _ hOn) ?_
  exact State.finish_onward _ _ _ _ _ _ (State.unhold_onward _ _ (hc _ hOn))

theorem State.restartRec_onward {s0 s : State} (p : Part) (src seq : Nat) (hOn : Onward s0 s) :
    Onward s0 (s.restartRec p src seq) := by
  unfold State.restartRec
  repeat' first
    | with_reducible first
      | assumption | refine ite_onward ?_ ?_ | apply State.unhold_onward | apply State.rcvCount_onward
      | apply State.respond_onward | apply State.modRec_onward | refine foldl_onward (fun _ _ _ => ?_) _ _ ?_
    | split | dsimp only

theorem State.recordFor_onward {s0 s : State} (p : Part) (k : Packet) (port : Nat) (hOn : Onward s0 s) :
    Onward s0 (s.recordFor p k port).1 := by
  unfold State.recordFor
  repeat' first
    | with_reducible first
      | assumption | refine ite_onward ?_ ?_ | refine ite_onward_fst ?_ ?_ | refine ite_onward_snd ?_ ?_
      | apply State.modRec_onward | apply State.restartRec_onward | apply State.notice_onward
      | apply State.modRecv_onward | apply State.respond_onward
    | split | dsimp only

theorem State.answerDup_onward {s0 s : State} (p : Part) (k : Packet) (port : Nat) (x : Settled) (hOn : Onward s0 s) :
    Onward s0 (s.answerDup p k port x).1 := by
  unfold State.answerDup
  repeat' first
    | with_reducible first
      | assumption | refine ite_onward ?_ ?_ | refine ite_onward_fst ?_ ?_ | refine ite_onward_snd ?_ ?_
      | apply State.modRec_onward | apply State.serve_onward | apply State.respond_onward
      | apply State.rcvCount_onward
    | split | dsimp only

theorem State.hold_onward {s0 s : State} (p : Part) (k : Packet) (port loc base : Nat) (ended : Bool) (hOn : Onward s0 s) :
    Onward s0 (s.hold p k port loc base ended) := by
  unfold State.hold
  repeat' first
    | with_reducible first
      | assumption | refine ite_onward ?_ ?_ | apply State.modRecv_onward
    | split | dsimp only

theorem State.takeFlagged_onward {s0 s : State} (p : Part) (k : Packet) (port : Nat) (hOn : Onward s0 s) :
    Onward s0 (s.takeFlagged p k port) := by
  unfold State.takeFlagged
  repeat' first
    | with_reducible first
      | assumption | refine ite_onward ?_ ?_ | apply State.checks_onward | apply State.hold_onward
      | apply State.finish_onward | apply State.rcvCount_onward | apply State.respond_onward
    | split | dsimp only

theorem State.takeNew_onward {s0 s : State} (p : Part) (k : Packet) (port : Nat) (hOn : Onward s0 s) :
    Onward s0 (s.takeNew p k port).1 := by
  unfold State.takeNew
  repeat' first
    | with_reducible first
      | assumption | refine ite_onward ?_ ?_ | refine ite_onward_fst ?_ ?_ | refine ite_onward_snd ?_ ?_
      | apply State.notOpen_onward | apply State.takeFlagged_onward | apply State.respond_onward
      | apply State.serve_onward
    | split | dsimp only

theorem State.admitPacket_onward {s0 s : State} (p : Part) (k : Packet) (port : Nat) (tagOk typOk : Bool) (hOn : Onward s0 s) :
    Onward s0 (s.admitPacket p k port tagOk typOk).1 := by
  unfold State.admitPacket
  repeat' first
    | with_reducible first
      | assumption | refine ite_onward ?_ ?_ | refine ite_onward_fst ?_ ?_ | refine ite_onward_snd ?_ ?_
      | apply State.malformed_onward | apply State.refuse_onward | apply State.sealCount_onward
      | apply State.respond_onward | apply State.recordFor_onward
    | split | dsimp only

theorem State.notNew_onward {s0 s : State} (p : Part) (k : Packet) (port : Nat) (c : SeqClass) (hOn : Onward s0 s) :
    Onward s0 (s.notNew p k port c).1 := by
  unfold State.notNew
  repeat' first
    | with_reducible first
      | assumption | refine ite_onward ?_ ?_ | refine ite_onward_fst ?_ ?_ | refine ite_onward_snd ?_ ?_
      | apply State.rcvCount_onward | apply State.answerDup_onward
    | split | dsimp only

theorem State.receive_onward {s0 s : State} (p : Part) (k : Packet) (port : Nat) (tagOk : Bool) (hOn : Onward s0 s) :
    Onward s0 (s.receive p k port tagOk).1 := by
  unfold State.receive
  repeat' first
    | with_reducible first
      | assumption | refine ite_onward ?_ ?_ | refine ite_onward_fst ?_ ?_ | refine ite_onward_snd ?_ ?_
      | apply State.admitPacket_onward | apply State.takeNew_onward | apply State.notNew_onward
    | split | dsimp only

theorem State.resolveHeld_onward {s0 s : State} (p : Part) (h : HeldStore) (hOn : Onward s0 s) :
    Onward s0 (s.resolveHeld p h).1 := by
  unfold State.resolveHeld
  repeat' first
    | with_reducible first
      | assumption | refine ite_onward ?_ ?_ | refine ite_onward_fst ?_ ?_ | refine ite_onward_snd ?_ ?_
      | apply State.closeHeld_onward | apply State.rcvCount_onward | apply State.unhold_onward
      | apply State.serveAt_onward
      | refine State.dropHeld_onward _ _ _ _ (fun _ ht => State.rcvCount_onward _ _ _ ht) ?_
    | split | dsimp only

theorem State.tornHeld_onward {s0 s : State} (p : Part) (job : Nat) (hOn : Onward s0 s) :
    Onward s0 (s.tornHeld p job) := by
  unfold State.tornHeld
  repeat' first
    | with_reducible first
      | assumption | refine ite_onward ?_ ?_ | apply State.rcvCount_onward | apply State.partCount_onward
      | refine foldl_onward (fun _ _ _ => ?_) _ _ ?_
      | refine State.dropHeld_onward _ _ _ _ (fun _ ht => State.partCount_onward _ _ _ _ (State.rcvCount_onward _ _ _ ht)) ?_
    | split | dsimp only

end Sys2Proof.Machine
end

