-- ==== Sys2Proof/Laws/Slots.lean ====
section
/-! SUPPORT. What the operations of Machine/Slots.lean never take back (`Onward`), once for each. -/

set_option linter.all false
set_option Elab.async false

namespace Sys2Proof.Machine

theorem State.setSlot_onward {s0 s : State} (n : Nat) (x : Slot) (hOn : Onward s0 s) : Onward s0 (s.setSlot n x) := by
  unfold State.setSlot
  repeat' first
    | with_reducible first
      | assumption | refine ite_onward ?_ ?_ | apply State.modEp_onward
    | split | dsimp only

theorem State.dropAtu_onward {s0 s : State} (n : Nat) (hOn : Onward s0 s) : Onward s0 (s.dropAtu n) := by
  unfold State.dropAtu
  repeat' first
    | with_reducible first
      | assumption | refine ite_onward ?_ ?_ | apply State.modEp_onward
    | split | dsimp only

theorem State.slotJobWrite_onward {s0 s : State} (n : Nat) (val : List Byte) (hOn : Onward s0 s) :
    Onward s0 (s.slotJobWrite n val).2 := by
  unfold State.slotJobWrite
  repeat' first
    | with_reducible first
      | assumption | refine ite_onward ?_ ?_ | refine ite_onward_snd ?_ ?_ | apply State.dropAtu_onward
      | apply State.setSlot_onward | apply State.modSh_onward | apply State.newPartition_onward
    | split | dsimp only

theorem State.slotRootWrite_onward {s0 s : State} (n : Nat) (val : List Byte) (hOn : Onward s0 s) :
    Onward s0 (s.slotRootWrite n val).2 := by
  unfold State.slotRootWrite
  repeat' first
    | with_reducible first
      | assumption | refine ite_onward ?_ ?_ | refine ite_onward_snd ?_ ?_ | apply State.setSlot_onward
    | split | dsimp only

theorem State.retranslate_onward {s0 s : State} (n job : Nat) (hOn : Onward s0 s) :
    Onward s0 (s.retranslate n job) := by
  unfold State.retranslate
  repeat' first
    | with_reducible first
      | assumption | refine ite_onward ?_ ?_ | apply State.needGranule_onward | apply State.modEp_onward
      | refine foldl_onward (fun _ _ _ => ?_) _ _ ?_ | refine foldl_onward_fst (fun _ _ _ => ?_) _ _ ?_
    | split | dsimp only

theorem State.invalidateWrite_onward {s0 s : State} (n : Nat) (val : List Byte) (hOn : Onward s0 s) :
    Onward s0 (s.invalidateWrite n val).2 := by
  unfold State.invalidateWrite
  repeat' first
    | with_reducible first
      | assumption | refine ite_onward ?_ ?_ | refine ite_onward_snd ?_ ?_ | apply State.dropAtu_onward
      | apply State.setSlot_onward | apply State.retranslate_onward
    | split | dsimp only

theorem State.invalidationDone_onward {s0 s : State} (n : Nat) (hOn : Onward s0 s) :
    Onward s0 (s.invalidationDone n) := by
  unfold State.invalidationDone
  repeat' first
    | with_reducible first
      | assumption | refine ite_onward ?_ ?_ | apply State.setSlot_onward
    | split | dsimp only

theorem State.retryRecord_onward {s0 s : State} (i : Nat) (hOn : Onward s0 s) : Onward s0 (s.retryRecord i) := by
  unfold State.retryRecord
  repeat' first
    | with_reducible first
      | assumption | refine ite_onward ?_ ?_ | apply State.modEp_onward | apply State.startWalk_onward
    | split | dsimp only

theorem State.resumeWrite_onward {s0 s : State} (val : List Byte) (hOn : Onward s0 s) :
    Onward s0 (s.resumeWrite val).2 := by
  unfold State.resumeWrite
  repeat' first
    | with_reducible first
      | assumption | refine ite_onward ?_ ?_ | refine ite_onward_snd ?_ ?_ | apply State.retryRecord_onward
      | apply State.failRecord_onward | refine foldl_onward (fun _ _ _ => ?_) _ _ ?_
      | refine foldl_onward_fst (fun _ _ _ => ?_) _ _ ?_
    | split | dsimp only

theorem State.faultExpire_onward {s0 s : State} (i : Nat) (hOn : Onward s0 s) : Onward s0 (s.faultExpire i) := by
  unfold State.faultExpire
  repeat' first
    | with_reducible first
      | assumption | refine ite_onward ?_ ?_ | apply State.epCount_onward | apply State.failRecord_onward
    | split | dsimp only

theorem State.recordWalkEnd_onward {s0 s : State} (i : Nat) (hOn : Onward s0 s) : Onward s0 (s.recordWalkEnd i) := by
  unfold State.recordWalkEnd
  repeat' first
    | with_reducible first
      | assumption | refine ite_onward ?_ ?_ | apply State.modEp_onward | apply State.failRecord_onward
      | apply State.startWalk_onward | apply State.count_onward | apply State.install_onward
      | apply State.faultNotice_onward | apply State.again_onward | refine foldl_onward (fun _ _ _ => ?_) _ _ ?_
    | split | dsimp only

theorem State.walkEnd_onward {s0 s : State} (id : Nat) (hOn : Onward s0 s) : Onward s0 (s.walkEnd id) := by
  unfold State.walkEnd
  repeat' first
    | with_reducible first
      | assumption | refine ite_onward ?_ ?_ | apply State.modEp_onward | apply State.startWalk_onward
      | apply State.install_onward | apply State.again_onward | apply State.raiseFault_onward
    | split | dsimp only

theorem State.admWrite_onward {s0 s : State} (p : Part) (index : Nat) (val : List Byte) (size : Nat) (extra : AdmEntry → Bool) (hOn : Onward s0 s) :
    Onward s0 (s.admWrite p index val size extra).2 := by
  unfold State.admWrite
  repeat' first
    | with_reducible first
      | assumption | refine ite_onward ?_ ?_ | refine ite_onward_snd ?_ ?_ | apply State.modSh_onward
    | split | dsimp only

theorem State.tearWaiting_onward {s0 s : State} (n job : Nat) (hOn : Onward s0 s) :
    Onward s0 (s.tearWaiting n job) := by
  unfold State.tearWaiting
  repeat' first
    | with_reducible first
      | assumption | refine ite_onward ?_ ?_ | apply State.endReq_onward
      | refine foldl_onward (fun _ _ _ => ?_) _ _ ?_
    | split | dsimp only

theorem State.tearFaults_onward {s0 s : State} (job : Nat) (hOn : Onward s0 s) : Onward s0 (s.tearFaults job) := by
  unfold State.tearFaults
  repeat' first
    | with_reducible first
      | assumption | refine ite_onward ?_ ?_ | apply State.failRecord_onward | apply State.modEp_onward
      | refine foldl_onward (fun _ _ _ => ?_) _ _ ?_ | refine foldl_onward_fst (fun _ _ _ => ?_) _ _ ?_
    | split | dsimp only

theorem State.tearWork_onward {s0 s : State} (n job : Nat) (hOn : Onward s0 s) : Onward s0 (s.tearWork n job) := by
  unfold State.tearWork
  repeat' first
    | with_reducible first
      | assumption | refine ite_onward ?_ ?_ | apply State.listEnd_onward | apply State.failWho_onward
      | apply State.copyEnd_onward | apply State.collEnd_onward | apply State.modEp_onward
      | refine foldl_onward (fun _ _ _ => ?_) _ _ ?_ | refine foldl_onward_fst (fun _ _ _ => ?_) _ _ ?_
    | split | dsimp only

theorem State.revokeSlot_onward {s0 s : State} (n : Nat) (hOn : Onward s0 s) : Onward s0 (s.revokeSlot n) := by
  unfold State.revokeSlot
  repeat' first
    | with_reducible first
      | assumption | refine ite_onward ?_ ?_ | apply State.setSlot_onward | apply State.tearFaults_onward
      | apply State.tearWaiting_onward | apply State.tearWork_onward | apply State.tornHeld_onward
      | apply State.jobNotice_onward
    | split | dsimp only

theorem State.revokeWrite_onward {s0 s : State} (n : Nat) (val : List Byte) (hOn : Onward s0 s) :
    Onward s0 (s.revokeWrite n val).2 := by
  unfold State.revokeWrite
  repeat' first
    | with_reducible first
      | assumption | refine ite_onward ?_ ?_ | refine ite_onward_snd ?_ ?_ | apply State.revokeSlot_onward
    | split | dsimp only

theorem State.slotDrained_onward {s0 s : State} (n : Nat) (hOn : Onward s0 s) : Onward s0 (s.slotDrained n) := by
  unfold State.slotDrained
  repeat' first
    | with_reducible first
      | assumption | refine ite_onward ?_ ?_ | apply State.modSh_onward | apply State.dropAtu_onward
      | apply State.setSlot_onward
    | split | dsimp only

end Sys2Proof.Machine
end

