-- ==== Sys2Proof/Laws/Copy.lean ====
section
/-! SUPPORT. What the operations of Machine/Copy.lean never take back (`Onward`), once for each. -/

set_option linter.all false
set_option Elab.async false

namespace Sys2Proof.Machine

theorem State.addCopy_onward {s0 s : State} (d : CopyDesc) (slot job agent tag link : Nat) (list : Option Nat) (hOn : Onward s0 s) :
    Onward s0 (s.addCopy d slot job agent tag link list) := by
  unfold State.addCopy
  repeat' first
    | with_reducible first
      | assumption | refine ite_onward ?_ ?_ | apply State.modEp_onward | apply State.copyEnd_onward
    | split | dsimp only

theorem State.takeTile_onward {s0 s : State} (c : Copy) (engine : Nat) (stolen : Bool) (hOn : Onward s0 s) :
    Onward s0 (s.takeTile c engine stolen) := by
  unfold State.takeTile
  repeat' first
    | with_reducible first
      | assumption | refine ite_onward ?_ ?_ | apply State.modEp_onward | apply State.count_onward
      | apply State.needGranule_onward | refine foldl_onward (fun _ _ _ => ?_) _ _ ?_
    | split | dsimp only

theorem State.tilePacket_onward {s0 s : State} (t : CTile) (c : Copy) (typ vfa pos : Nat) (len : Nat) (data : List Byte) (hOn : Onward s0 s) :
    Onward s0 (s.tilePacket t c typ vfa pos len data) := by
  unfold State.tilePacket
  repeat' first
    | with_reducible first
      | assumption | refine ite_onward ?_ ?_ | apply State.modEp_onward | apply State.modSh_onward
      | apply State.epCount_onward | apply State.endReq_onward | apply State.placeReq_onward
      | apply State.issue_onward
    | split | dsimp only

theorem State.tileDenied_onward {s0 s : State} (t : CTile) (c : Copy) (hOn : Onward s0 s) :
    Onward s0 (s.tileDenied t c).1 := by
  unfold State.tileDenied
  repeat' first
    | with_reducible first
      | assumption | refine ite_onward ?_ ?_ | refine ite_onward_fst ?_ ?_ | refine ite_onward_snd ?_ ?_
      | apply State.admitOwn_onward | refine foldl_onward (fun _ _ _ => ?_) _ _ ?_
      | refine foldl_onward_fst (fun _ _ _ => ?_) _ _ ?_
    | split | dsimp only

theorem State.moveTile_onward {s0 s : State} (t : CTile) (hOn : Onward s0 s) : Onward s0 (s.moveTile t) := by
  unfold State.moveTile
  repeat' first
    | with_reducible first
      | assumption | refine ite_onward ?_ ?_ | apply State.tileDenied_onward | apply State.failWho_onward
      | apply State.modEp_onward | apply State.count_onward | apply State.tilePacket_onward
      | refine foldl_onward (fun _ _ _ => ?_) _ _ ?_ | refine foldl_onward_fst (fun _ _ _ => ?_) _ _ ?_
    | split | dsimp only

theorem State.advanceTile_onward {s0 s : State} (t : CTile) (hOn : Onward s0 s) : Onward s0 (s.advanceTile t) := by
  unfold State.advanceTile
  repeat' first
    | with_reducible first
      | assumption | refine ite_onward ?_ ?_ | apply State.modEp_onward | apply State.tilePacket_onward
      | refine foldl_onward (fun _ _ _ => ?_) _ _ ?_ | refine foldl_onward_fst (fun _ _ _ => ?_) _ _ ?_
    | split | dsimp only

theorem State.moveReady_onward {s0 s : State} (g : Nat) (hOn : Onward s0 s) : Onward s0 (s.moveReady g) := by
  unfold State.moveReady
  repeat' first
    | with_reducible first
      | assumption | refine ite_onward ?_ ?_ | apply State.moveTile_onward
    | split | dsimp only

theorem State.engineIssue_onward {s0 s : State} (g : Nat) (hOn : Onward s0 s) : Onward s0 (s.engineIssue g) := by
  unfold State.engineIssue
  repeat' first
    | with_reducible first
      | assumption | refine ite_onward ?_ ?_ | apply State.moveTile_onward | apply State.takeTile_onward
      | apply State.moveReady_onward
    | split | dsimp only

theorem State.adoptTile_onward {s0 s : State} (t : CTile) (g : Nat) (hOn : Onward s0 s) :
    Onward s0 (s.adoptTile t g) := by
  unfold State.adoptTile
  repeat' first
    | with_reducible first
      | assumption | refine ite_onward ?_ ?_ | apply State.modEp_onward | apply State.count_onward
      | apply State.moveReady_onward
    | split | dsimp only

theorem State.steal_onward {s0 s : State} (g : Nat) (hOn : Onward s0 s) : Onward s0 (s.steal g) := by
  unfold State.steal
  repeat' first
    | with_reducible first
      | assumption | refine ite_onward ?_ ?_ | apply State.adoptTile_onward | apply State.takeTile_onward
      | apply State.moveReady_onward
    | split | dsimp only

theorem State.sendNotify_onward {s0 s : State} (c : Copy) (hOn : Onward s0 s) : Onward s0 (s.sendNotify c) := by
  unfold State.sendNotify
  repeat' first
    | with_reducible first
      | assumption | refine ite_onward ?_ ?_ | apply State.modEp_onward | apply State.modSh_onward
      | apply State.translate_onward | apply State.tryIssue_onward
    | split | dsimp only

theorem State.tileEnd_onward {s0 s : State} (t : CTile) (hOn : Onward s0 s) : Onward s0 (s.tileEnd t) := by
  unfold State.tileEnd
  repeat' first
    | with_reducible first
      | assumption | refine ite_onward ?_ ?_ | apply State.modEp_onward | apply State.copyEnd_onward
      | apply State.sendNotify_onward
    | split | dsimp only

theorem State.copiesDone_onward {s0 s : State} (hOn : Onward s0 s) : Onward s0 (s.copiesDone) := by
  unfold State.copiesDone
  repeat' first
    | with_reducible first
      | assumption | refine ite_onward ?_ ?_ | apply State.copyEnd_onward
      | refine foldl_onward (fun _ _ _ => ?_) _ _ ?_
    | split | dsimp only

theorem State.tilesOn_onward {s0 s : State} (hOn : Onward s0 s) : Onward s0 (s.tilesOn) := by
  unfold State.tilesOn
  repeat' first
    | with_reducible first
      | assumption | refine ite_onward ?_ ?_ | apply State.advanceTile_onward
      | refine foldl_onward (fun _ _ _ => ?_) _ _ ?_
    | split | dsimp only

theorem State.startDesc_onward {s0 s : State} (n : Nat) (l : ListSlot) (body : List Byte) (hOn : Onward s0 s) :
    Onward s0 (s.startDesc n l body) := by
  unfold State.startDesc
  repeat' first
    | with_reducible first
      | assumption | refine ite_onward ?_ ?_ | apply State.addCopy_onward
    | split | dsimp only

theorem State.startRead_onward {s0 s : State} (n : Nat) (hOn : Onward s0 s) : Onward s0 (s.startRead n) := by
  unfold State.startRead
  repeat' first
    | with_reducible first
      | assumption | refine ite_onward ?_ ?_ | apply State.modEp_onward | apply State.startDesc_onward
      | refine foldl_onward (fun _ _ _ => ?_) _ _ ?_
    | split | dsimp only

theorem State.listLost_onward {s0 s : State} (n pos len : Nat) (hOn : Onward s0 s) :
    Onward s0 (s.listLost n pos len) := by
  unfold State.listLost
  repeat' first
    | with_reducible first
      | assumption | refine ite_onward ?_ ?_ | apply State.count_onward | apply State.modEp_onward
      | apply State.listEnd_onward
    | split | dsimp only

theorem State.listReads_onward {s0 s : State} (n : Nat) (hOn : Onward s0 s) : Onward s0 (s.listReads n) := by
  unfold State.listReads
  repeat' first
    | with_reducible first
      | assumption | refine ite_onward ?_ ?_ | apply State.count_onward | apply State.ownLocal_onward
      | apply State.listEnd_onward | apply State.modEp_onward | apply State.sendMem_onward
      | refine foldl_onward (fun _ _ _ => ?_) _ _ ?_ | refine foldl_onward_fst (fun _ _ _ => ?_) _ _ ?_
    | split | dsimp only

theorem State.listsOn_onward {s0 s : State} (hOn : Onward s0 s) : Onward s0 (s.listsOn) := by
  unfold State.listsOn
  repeat' first
    | with_reducible first
      | assumption | refine ite_onward ?_ ?_ | apply State.listReads_onward
      | refine foldl_onward (fun _ _ _ => ?_) _ _ ?_ | refine foldl_onward_fst (fun _ _ _ => ?_) _ _ ?_
    | split | dsimp only

theorem State.listAnswer_onward {s0 s : State} (n i pos len code : Nat) (data : List Byte) (hOn : Onward s0 s) :
    Onward s0 (s.listAnswer n i pos len code data) := by
  unfold State.listAnswer
  repeat' first
    | with_reducible first
      | assumption | refine ite_onward ?_ ?_ | apply State.listLost_onward | apply State.listEnd_onward
      | apply State.modEp_onward | apply State.startRead_onward
    | split | dsimp only

theorem State.activate_onward {s0 s : State} (n : Nat) (late : Bool) (hOn : Onward s0 s) :
    Onward s0 (s.activate n late) := by
  unfold State.activate
  repeat' first
    | with_reducible first
      | assumption | refine ite_onward ?_ ?_ | apply State.epCount_onward | apply State.modEp_onward
      | apply State.count_onward | apply State.startRead_onward
    | split | dsimp only

theorem State.listRead_onward {s0 s : State} (n : Nat) (hOn : Onward s0 s) : Onward s0 (s.listRead n) := by
  unfold State.listRead
  repeat' first
    | with_reducible first
      | assumption | refine ite_onward ?_ ?_ | apply State.activate_onward | apply State.modEp_onward
    | split | dsimp only

theorem State.listTime_onward {s0 s : State} (n : Nat) (hOn : Onward s0 s) : Onward s0 (s.listTime n) := by
  unfold State.listTime
  repeat' first
    | with_reducible first
      | assumption | refine ite_onward ?_ ?_ | apply State.activate_onward
    | split | dsimp only

theorem State.tileComplete_onward {s0 s : State} (t : Nat) (hOn : Onward s0 s) : Onward s0 (s.tileComplete t) := by
  unfold State.tileComplete
  repeat' first
    | with_reducible first
      | assumption | refine ite_onward ?_ ?_ | apply State.tileEnd_onward
    | split | dsimp only

end Sys2Proof.Machine
end

