-- ==== Sys2Proof/Laws/CollEp.lean ====
section
/-! SUPPORT. What the operations of Machine/CollEp.lean never take back (`Onward`), once for each. -/

set_option linter.all false
set_option Elab.async false

namespace Sys2Proof.Machine

theorem State.modColl_onward {s0 s : State} (c : Nat) (f : EpColl → EpColl) (hOn : Onward s0 s) :
    Onward s0 (s.modColl c f) := by
  unfold State.modColl
  repeat' first
    | with_reducible first
      | assumption | refine ite_onward ?_ ?_ | apply State.modEp_onward
    | split | dsimp only

theorem State.collNeed_onward {s0 s : State} (x : EpColl) (hOn : Onward s0 s) : Onward s0 (s.collNeed x) := by
  unfold State.collNeed
  repeat' first
    | with_reducible first
      | assumption | refine ite_onward ?_ ?_ | apply State.modColl_onward | apply State.needGranule_onward
      | refine foldl_onward (fun _ _ _ => ?_) _ _ ?_ | refine foldl_onward_fst (fun _ _ _ => ?_) _ _ ?_
    | split | dsimp only

theorem State.collStart_onward {s0 s : State} (l slot : Nat) (m : Eri) (hOn : Onward s0 s) :
    Onward s0 (s.collStart l slot m) := by
  unfold State.collStart
  repeat' first
    | with_reducible first
      | assumption | refine ite_onward ?_ ?_ | apply State.epCount_onward | apply State.modSh_onward
      | apply State.modEp_onward | apply State.collNeed_onward
    | split | dsimp only

theorem State.collAdmit_onward {s0 s : State} (x : EpColl) (hOn : Onward s0 s) : Onward s0 (s.collAdmit x).1 := by
  unfold State.collAdmit
  repeat' first
    | with_reducible first
      | assumption | refine ite_onward ?_ ?_ | refine ite_onward_fst ?_ ?_ | refine ite_onward_snd ?_ ?_
      | apply State.admitOwn_onward | apply State.modColl_onward | refine foldl_onward (fun _ _ _ => ?_) _ _ ?_
      | refine foldl_onward_fst (fun _ _ _ => ?_) _ _ ?_
    | split | dsimp only

theorem State.collSubmit_onward {s0 s : State} (x : EpColl) (op phase plane piece : Nat) (payload : List Byte) (hOn : Onward s0 s) :
    Onward s0 (s.collSubmit x op phase plane piece payload) := by
  unfold State.collSubmit
  repeat' first
    | with_reducible first
      | assumption | refine ite_onward ?_ ?_ | apply State.modSh_onward | apply State.modColl_onward
      | apply State.issue_onward | apply State.endReq_onward
    | split | dsimp only

theorem State.collProbe_onward {s0 s : State} (x : EpColl) (hOn : Onward s0 s) : Onward s0 (s.collProbe x) := by
  unfold State.collProbe
  repeat' first
    | with_reducible first
      | assumption | refine ite_onward ?_ ?_ | apply State.modColl_onward | apply State.collSubmit_onward
      | refine foldl_onward (fun _ _ _ => ?_) _ _ ?_
    | split | dsimp only

theorem State.collPiece_onward {s0 s : State} (c : Nat) (sh : Shape) (k : Nat) (payload : Option (List Byte)) (hOn : Onward s0 s) :
    Onward s0 (s.collPiece c sh k payload) := by
  unfold State.collPiece
  repeat' first
    | with_reducible first
      | assumption | refine ite_onward ?_ ?_ | apply State.modColl_onward | apply State.collSubmit_onward
    | split | dsimp only

theorem State.collArrives_onward {s0 s : State} (c : Nat) (sh : Shape) (hOn : Onward s0 s) :
    Onward s0 (s.collArrives c sh) := by
  unfold State.collArrives
  repeat' first
    | with_reducible first
      | assumption | refine ite_onward ?_ ?_ | apply State.modColl_onward | apply State.collSubmit_onward
      | refine foldl_onward (fun _ _ _ => ?_) _ _ ?_
    | split | dsimp only

theorem State.collSent_onward {s0 s : State} (c : Nat) (sh : Shape) (hOn : Onward s0 s) :
    Onward s0 (s.collSent c sh) := by
  unfold State.collSent
  repeat' first
    | with_reducible first
      | assumption | refine ite_onward ?_ ?_ | apply State.collArrives_onward | apply State.modColl_onward
    | split | dsimp only

theorem State.collPump_onward {s0 s : State} (c : Nat) (sh : Shape) (hOn : Onward s0 s) :
    Onward s0 (s.collPump c sh) := by
  unfold State.collPump
  repeat' first
    | with_reducible first
      | assumption | refine ite_onward ?_ ?_ | apply State.collPiece_onward | apply State.collSent_onward
      | refine foldl_onward (fun _ _ _ => ?_) _ _ ?_ | refine foldl_onward_fst (fun _ _ _ => ?_) _ _ ?_
    | split | dsimp only

theorem State.mownPieceSend_onward {s0 s : State} (c k : Nat) (hOn : Onward s0 s) :
    Onward s0 (s.mownPieceSend c k) := by
  unfold State.mownPieceSend
  repeat' first
    | with_reducible first
      | assumption | refine ite_onward ?_ ?_ | apply State.collSent_onward | apply State.collPiece_onward
    | split | dsimp only

theorem State.collSend_onward {s0 s : State} (c : Nat) (hOn : Onward s0 s) : Onward s0 (s.collSend c) := by
  unfold State.collSend
  repeat' first
    | with_reducible first
      | assumption | refine ite_onward ?_ ?_ | apply State.modColl_onward | apply State.sendMem_onward
      | apply State.collPump_onward | refine foldl_onward (fun _ _ _ => ?_) _ _ ?_
      | refine foldl_onward_fst (fun _ _ _ => ?_) _ _ ?_
    | split | dsimp only

theorem State.collStartTime_onward {s0 s : State} (c : Nat) (hOn : Onward s0 s) : Onward s0 (s.collStartTime c) := by
  unfold State.collStartTime
  repeat' first
    | with_reducible first
      | assumption | refine ite_onward ?_ ?_ | apply State.collSend_onward
    | split | dsimp only

theorem State.collRoutes_onward {s0 s : State} (c : Nat) (hOn : Onward s0 s) : Onward s0 (s.collRoutes c) := by
  unfold State.collRoutes
  repeat' first
    | with_reducible first
      | assumption | refine ite_onward ?_ ?_ | apply State.modColl_onward | apply State.sendMem_onward
      | refine foldl_onward (fun _ _ _ => ?_) _ _ ?_ | refine foldl_onward_fst (fun _ _ _ => ?_) _ _ ?_
    | split | dsimp only

theorem State.collDrop_onward {s0 s : State} (c : Nat) (hOn : Onward s0 s) : Onward s0 (s.collDrop c) := by
  unfold State.collDrop
  repeat' first
    | with_reducible first
      | assumption | refine ite_onward ?_ ?_ | apply State.dropReq_onward
      | refine foldl_onward (fun _ _ _ => ?_) _ _ ?_
    | split | dsimp only

theorem State.collFinish_onward {s0 s : State} (c code : Nat) (hOn : Onward s0 s) :
    Onward s0 (s.collFinish c code) := by
  unfold State.collFinish
  repeat' first
    | with_reducible first
      | assumption | refine ite_onward ?_ ?_ | apply State.collEnd_onward | apply State.collDrop_onward
    | split | dsimp only

theorem State.collProbed_onward {s0 s : State} (x : EpColl) (hOn : Onward s0 s) : Onward s0 (s.collProbed x) := by
  unfold State.collProbed
  repeat' first
    | with_reducible first
      | assumption | refine ite_onward ?_ ?_ | apply State.collFinish_onward | apply State.modColl_onward
      | apply State.collNeed_onward
    | split | dsimp only

theorem State.collOn_onward {s0 s : State} (c : Nat) (hOn : Onward s0 s) : Onward s0 (s.collOn c) := by
  unfold State.collOn
  repeat' first
    | with_reducible first
      | assumption | refine ite_onward ?_ ?_ | apply State.collFinish_onward | apply State.collAdmit_onward
      | apply State.collProbe_onward | apply State.collProbed_onward | apply State.modColl_onward
      | apply State.collRoutes_onward | apply State.collSend_onward | apply State.collPump_onward
    | split | dsimp only

theorem State.collsOn_onward {s0 s : State} (hOn : Onward s0 s) : Onward s0 (s.collsOn) := by
  unfold State.collsOn
  repeat' first
    | with_reducible first
      | assumption | refine ite_onward ?_ ?_ | apply State.collOn_onward
      | refine foldl_onward (fun _ _ _ => ?_) _ _ ?_
    | split | dsimp only

theorem State.collPlaneLost_onward {s0 s : State} (p : Nat) (hOn : Onward s0 s) : Onward s0 (s.collPlaneLost p) := by
  unfold State.collPlaneLost
  repeat' first
    | with_reducible first
      | assumption | refine ite_onward ?_ ?_ | apply State.dropReq_onward | apply State.modColl_onward
      | refine foldl_onward (fun _ _ _ => ?_) _ _ ?_
    | split | dsimp only

theorem State.collTimeout_onward {s0 s : State} (c : Nat) (hOn : Onward s0 s) : Onward s0 (s.collTimeout c) := by
  unfold State.collTimeout
  repeat' first
    | with_reducible first
      | assumption | refine ite_onward ?_ ?_ | apply State.collFinish_onward
    | split | dsimp only

theorem State.pieceAnswer_onward {s0 s : State} (c k part code : Nat) (data : List Byte) (hOn : Onward s0 s) :
    Onward s0 (s.pieceAnswer c k part code data) := by
  unfold State.pieceAnswer
  repeat' first
    | with_reducible first
      | assumption | refine ite_onward ?_ ?_ | apply State.modColl_onward
    | split | dsimp only

theorem State.routeAnswer_onward {s0 s : State} (c pos code : Nat) (data : List Byte) (hOn : Onward s0 s) :
    Onward s0 (s.routeAnswer c pos code data) := by
  unfold State.routeAnswer
  repeat' first
    | with_reducible first
      | assumption | refine ite_onward ?_ ?_ | apply State.modColl_onward
    | split | dsimp only

theorem State.collUnknown_onward {s0 s : State} (k : Packet) (port : Nat) (hOn : Onward s0 s) :
    Onward s0 (s.collUnknown k port) := by
  unfold State.collUnknown
  repeat' first
    | with_reducible first
      | assumption | refine ite_onward ?_ ?_ | apply State.epCount_onward | apply State.finish_onward
    | split | dsimp only

theorem State.collWrite_onward {s0 s : State} (x : EpColl) (sh : Shape) (k : Packet) (port : Nat) (hOn : Onward s0 s) :
    Onward s0 (s.collWrite x sh k port) := by
  unfold State.collWrite
  repeat' first
    | with_reducible first
      | assumption | refine ite_onward ?_ ?_ | apply State.modRecv_onward | apply State.sendMem_onward
      | refine foldl_onward (fun _ _ _ => ?_) _ _ ?_ | refine foldl_onward_fst (fun _ _ _ => ?_) _ _ ?_
    | split | dsimp only

theorem State.collRelease_onward {s0 s : State} (x : EpColl) (plane : Nat) (hOn : Onward s0 s) :
    Onward s0 (s.collRelease x plane) := by
  unfold State.collRelease
  repeat' first
    | with_reducible first
      | assumption | refine ite_onward ?_ ?_ | apply State.modColl_onward
    | split | dsimp only

theorem State.collTake_onward {s0 s : State} (k : Packet) (port : Nat) (hOn : Onward s0 s) :
    Onward s0 (s.collTake k port) := by
  unfold State.collTake
  repeat' first
    | with_reducible first
      | assumption | refine ite_onward ?_ ?_ | apply State.deny_onward | apply State.finish_onward
      | apply State.epCount_onward | apply State.partCount_onward | apply State.modEp_onward
      | apply State.collUnknown_onward | apply State.respond_onward | apply State.collRelease_onward
      | apply State.collWrite_onward
    | split | dsimp only

theorem State.collReceive_onward {s0 s : State} (k : Packet) (port : Nat) (tagOk : Bool) (hOn : Onward s0 s) :
    Onward s0 (s.collReceive k port tagOk) := by
  unfold State.collReceive
  repeat' first
    | with_reducible first
      | assumption | refine ite_onward ?_ ?_ | apply State.admitPacket_onward | apply State.collTake_onward
      | apply State.notNew_onward
    | split | dsimp only

theorem State.resultAnswer_onward {s0 s : State} (prog c code : Nat) (hOn : Onward s0 s) :
    Onward s0 (s.resultAnswer prog c code) := by
  unfold State.resultAnswer
  repeat' first
    | with_reducible first
      | assumption | refine ite_onward ?_ ?_ | apply State.modRecv_onward | apply State.finishProg_onward
      | apply State.modColl_onward
    | split | dsimp only

end Sys2Proof.Machine
end

