-- ==== Sys2Proof/Laws/Responses.lean ====
section
/-! SUPPORT. What the operations of Machine/Responses.lean never take back (`Onward`), once for each. -/

set_option linter.all false
set_option Elab.async false

namespace Sys2Proof.Machine

theorem State.srcTakes_onward {s0 s : State} (p : Part) (k : Packet) (port typ : Nat) (tagOk : Bool) (hOn : Onward s0 s) :
    Onward s0 (s.srcTakes p k port typ tagOk).1 := by
  unfold State.srcTakes
  repeat' first
    | with_reducible first
      | assumption | refine ite_onward ?_ ?_ | refine ite_onward_fst ?_ ?_ | refine ite_onward_snd ?_ ?_
      | apply State.malformed_onward | apply State.sealCount_onward
    | split | dsimp only

theorem State.sendAgain_onward {s0 s : State} (p : Part) (r : Req) (hOn : Onward s0 s) :
    Onward s0 (s.sendAgain p r) := by
  unfold State.sendAgain
  repeat' first
    | with_reducible first
      | assumption | refine ite_onward ?_ ?_ | apply State.resend_onward
    | split | dsimp only

theorem State.retransmitReq_onward {s0 s : State} (p : Part) (r : Req) (hOn : Onward s0 s) :
    Onward s0 (s.retransmitReq p r) := by
  unfold State.retransmitReq
  repeat' first
    | with_reducible first
      | assumption | refine ite_onward ?_ ?_ | apply State.modReq_onward | apply State.epCount_onward
      | apply State.partCount_onward | apply State.sendAgain_onward
    | split | dsimp only

theorem State.onRetry_onward {s0 s : State} (p : Part) (r : Req) (hOn : Onward s0 s) : Onward s0 (s.onRetry p r) := by
  unfold State.onRetry
  repeat' first
    | with_reducible first
      | assumption | refine ite_onward ?_ ?_ | apply State.partCount_onward | apply State.endReq_onward
      | apply State.modReq_onward
    | split | dsimp only

theorem State.onHold_onward {s0 s : State} (r : Req) (c : Nat) (hOn : Onward s0 s) : Onward s0 (s.onHold r c) := by
  unfold State.onHold
  repeat' first
    | with_reducible first
      | assumption | refine ite_onward ?_ ?_ | apply State.partCount_onward | apply State.dropReq_onward
      | apply State.modReq_onward
    | split | dsimp only

theorem State.badResponse_onward {s0 s : State} (p : Part) (r : Req) (hOn : Onward s0 s) :
    Onward s0 (s.badResponse p r) := by
  unfold State.badResponse
  repeat' first
    | with_reducible first
      | assumption | refine ite_onward ?_ ?_ | apply State.epCount_onward | apply State.endReq_onward
    | split | dsimp only

theorem State.onResponse_onward {s0 s : State} (p : Part) (r : Req) (code : Nat) (data : List Byte) (hOn : Onward s0 s) :
    Onward s0 (s.onResponse p r code data) := by
  unfold State.onResponse
  repeat' first
    | with_reducible first
      | assumption | refine ite_onward ?_ ?_ | apply State.epCount_onward | apply State.endReq_onward
      | apply State.onHold_onward | apply State.badResponse_onward | apply State.fillAndTake_onward
      | apply State.onRetry_onward
    | split | dsimp only

theorem State.responseReceive_onward {s0 s : State} (p : Part) (k : Packet) (tagOk : Bool) (hOn : Onward s0 s) :
    Onward s0 (s.responseReceive p k tagOk) := by
  unfold State.responseReceive
  repeat' first
    | with_reducible first
      | assumption | refine ite_onward ?_ ?_ | apply State.srcTakes_onward | apply State.epCount_onward
      | apply State.onResponse_onward
    | split | dsimp only

theorem State.retryResend_onward {s0 s : State} (p : Part) (id : Nat) (hOn : Onward s0 s) :
    Onward s0 (s.retryResend p id) := by
  unfold State.retryResend
  repeat' first
    | with_reducible first
      | assumption | refine ite_onward ?_ ?_ | apply State.endReq_onward | apply State.sendAgain_onward
    | split | dsimp only

theorem State.holdResend_onward {s0 s : State} (id : Nat) (hOn : Onward s0 s) : Onward s0 (s.holdResend id) := by
  unfold State.holdResend
  repeat' first
    | with_reducible first
      | assumption | refine ite_onward ?_ ?_ | apply State.endReq_onward | apply State.modColl_onward
      | apply State.sendAgain_onward
    | split | dsimp only

theorem State.retransmitTimeout_onward {s0 s : State} (p : Part) (id : Nat) (hOn : Onward s0 s) :
    Onward s0 (s.retransmitTimeout p id) := by
  unfold State.retransmitTimeout
  repeat' first
    | with_reducible first
      | assumption | refine ite_onward ?_ ?_ | apply State.retransmitReq_onward | apply State.epCount_onward
      | apply State.endReq_onward
    | split | dsimp only

theorem State.lifetimeEnd_onward {s0 s : State} (p : Part) (id : Nat) (hOn : Onward s0 s) :
    Onward s0 (s.lifetimeEnd p id) := by
  unfold State.lifetimeEnd
  repeat' first
    | with_reducible first
      | assumption | refine ite_onward ?_ ?_ | apply State.epCount_onward | apply State.endReq_onward
    | split | dsimp only

theorem State.modPair_onward {s0 s : State} (p : Part) (dst : Nat) (f : Pair → Pair) (hOn : Onward s0 s) :
    Onward s0 (s.modPair p dst f) := by
  unfold State.modPair
  repeat' first
    | with_reducible first
      | assumption | refine ite_onward ?_ ?_ | apply State.modSh_onward
    | split | dsimp only

theorem State.restartPair_onward {s0 s : State} (p : Part) (dst : Nat) (hOn : Onward s0 s) :
    Onward s0 (s.restartPair p dst) := by
  unfold State.restartPair
  repeat' first
    | with_reducible first
      | assumption | refine ite_onward ?_ ?_ | apply State.endReq_onward | apply State.modPair_onward
      | refine foldl_onward (fun _ _ _ => ?_) _ _ ?_
    | split | dsimp only

theorem State.gapNotice_onward {s0 s : State} (p : Part) (k : Packet) (tagOk : Bool) (hOn : Onward s0 s) :
    Onward s0 (s.gapNotice p k tagOk) := by
  unfold State.gapNotice
  repeat' first
    | with_reducible first
      | assumption | refine ite_onward ?_ ?_ | apply State.srcTakes_onward | apply State.retransmitReq_onward
      | apply State.modPair_onward
    | split | dsimp only

theorem State.resyncNotice_onward {s0 s : State} (p : Part) (k : Packet) (tagOk : Bool) (hOn : Onward s0 s) :
    Onward s0 (s.resyncNotice p k tagOk) := by
  unfold State.resyncNotice
  repeat' first
    | with_reducible first
      | assumption | refine ite_onward ?_ ?_ | apply State.srcTakes_onward | apply State.restartPair_onward
    | split | dsimp only

theorem State.gapTimer_onward {s0 s : State} (p : Part) (src : Nat) (hOn : Onward s0 s) :
    Onward s0 (s.gapTimer p src) := by
  unfold State.gapTimer
  repeat' first
    | with_reducible first
      | assumption | refine ite_onward ?_ ?_ | apply State.modRec_onward | apply State.rcvCount_onward
      | apply State.notice_onward
    | split | dsimp only

theorem State.holdTimeout_onward {s0 s : State} (p : Part) (src seq : Nat) (hOn : Onward s0 s) :
    Onward s0 (s.holdTimeout p src seq) := by
  unfold State.holdTimeout
  repeat' first
    | with_reducible first
      | assumption | refine ite_onward ?_ ?_ | apply State.rcvCount_onward
      | refine State.dropHeld_onward _ _ _ _ (fun _ ht => State.rcvCount_onward _ _ _ ht) ?_
    | split | dsimp only

theorem State.holdResolve_onward {s0 s : State} (p : Part) (src seq : Nat) (hOn : Onward s0 s) :
    Onward s0 (s.holdResolve p src seq).1 := by
  unfold State.holdResolve
  repeat' first
    | with_reducible first
      | assumption | refine ite_onward ?_ ?_ | refine ite_onward_fst ?_ ?_ | refine ite_onward_snd ?_ ?_
      | apply State.resolveHeld_onward
    | split | dsimp only

end Sys2Proof.Machine
end

