-- ==== Sys2Proof/Laws/Reports.lean ====
section
/-! SUPPORT. What the operations of Machine/Reports.lean never take back (`Onward`), once for each. -/

set_option linter.all false
set_option Elab.async false

namespace Sys2Proof.Machine

theorem State.sendTiming_onward {s0 s : State} (p : Part) (body : TlBody) (hOn : Onward s0 s) :
    Onward s0 (s.sendTiming p body) := by
  unfold State.sendTiming
  repeat' first
    | with_reducible first
      | assumption | refine ite_onward ?_ ?_ | apply State.modSh_onward | apply State.emit_onward
    | split | dsimp only

theorem State.sendInBand_onward {s0 s : State} (p : Part) (v : VMsg) (dst plane port : Nat) (hOn : Onward s0 s) :
    Onward s0 (s.sendInBand p v dst plane port) := by
  unfold State.sendInBand
  repeat' first
    | with_reducible first
      | assumption | refine ite_onward ?_ ?_ | apply State.sendPacket_onward
    | split | dsimp only

theorem State.sendV_onward {s0 s : State} (p : Part) (v : VMsg) (hOn : Onward s0 s) : Onward s0 (s.sendV p v) := by
  unfold State.sendV
  repeat' first
    | with_reducible first
      | assumption | refine ite_onward ?_ ?_ | apply State.sendTiming_onward | apply State.sendInBand_onward
      | refine foldl_onward (fun _ _ _ => ?_) _ _ ?_ | refine foldl_onward_fst (fun _ _ _ => ?_) _ _ ?_
    | split | dsimp only

theorem State.report_onward {s0 s : State} (p : Part) (reason node plane : Nat) (hOn : Onward s0 s) :
    Onward s0 (s.report p reason node plane) := by
  unfold State.report
  repeat' first
    | with_reducible first
      | assumption | refine ite_onward ?_ ?_ | apply State.logEvent_onward | apply State.sendV_onward
    | split | dsimp only

theorem State.stopPorts_onward {s0 s : State} (hOn : Onward s0 s) : Onward s0 (s.stopPorts) := by
  unfold State.stopPorts
  repeat' first
    | with_reducible first
      | assumption | refine ite_onward ?_ ?_ | apply State.modSh_onward
    | split | dsimp only

theorem State.modVe_onward {s0 s : State} (f : VEngine → VEngine) (hOn : Onward s0 s) : Onward s0 (s.modVe f) := by
  unfold State.modVe
  repeat' first
    | with_reducible first
      | assumption | refine ite_onward ?_ ?_ | apply State.modMod_onward
    | exact fun _ => ⟨rfl, rfl⟩ | split | dsimp only

theorem State.takeVerdict_onward {s0 s : State} (p : Part) (v : VMsg) (hOn : Onward s0 s) :
    Onward s0 (s.takeVerdict p v) := by
  unfold State.takeVerdict
  repeat' first
    | with_reducible first
      | assumption | refine ite_onward ?_ ?_ | apply State.modSh_onward | apply State.mgCount_onward
      | apply State.modVe_onward
    | split | dsimp only

theorem State.issueVerdict_onward {s0 s : State} (vkind node plane mask : Nat) (hOn : Onward s0 s) :
    Onward s0 (s.issueVerdict vkind node plane mask) := by
  unfold State.issueVerdict
  repeat' first
    | with_reducible first
      | assumption | refine ite_onward ?_ ?_ | apply State.modVe_onward | apply State.sendV_onward
      | apply State.takeVerdict_onward
    | split | dsimp only

theorem State.selfFence_onward {s0 s : State} (hOn : Onward s0 s) : Onward s0 (s.selfFence) := by
  unfold State.selfFence
  repeat' first
    | with_reducible first
      | assumption | refine ite_onward ?_ ?_ | apply State.report_onward | apply State.issueVerdict_onward
      | apply State.modVe_onward | apply State.stopPorts_onward
    | split | dsimp only

end Sys2Proof.Machine
end

