-- ==== Sys2Proof/Laws/Commons.lean ====
section
/-! SUPPORT. What the operations of Machine/Commons.lean never take back (`Onward`), once for each. -/

set_option linter.all false
set_option Elab.async false

namespace Sys2Proof.Machine

theorem State.commonsWrite_onward {s0 s : State} (a : Nat) (data : List Byte) (hOn : Onward s0 s) :
    Onward s0 (s.commonsWrite a data) :=
  hOn.trans ⟨rfl, rfl, Nat.le_refl _, List.prefix_refl _, memoryWf_memWrite a data, Nat.min_le_left _ _, Nat.le_refl _⟩

theorem State.commonsZero_onward {s0 s : State} (a n : Nat) (hOn : Onward s0 s) : Onward s0 (s.commonsZero a n) :=
  hOn.trans ⟨rfl, rfl, Nat.le_refl _, List.prefix_refl _, memoryWf_filter _, Nat.min_le_left _ _, Nat.le_refl _⟩

theorem State.errorRecord_onward {s0 s : State} (line stack kind : Nat) (hOn : Onward s0 s) :
    Onward s0 (s.errorRecord line stack kind) := by
  unfold State.errorRecord
  repeat' first
    | with_reducible first
      | assumption | refine ite_onward ?_ ?_ | apply State.modMod_onward
    | exact fun _ => ⟨rfl, rfl⟩ | split | dsimp only

theorem State.lineFails_onward {s0 s : State} (line kind : Nat) (hOn : Onward s0 s) :
    Onward s0 (s.lineFails line kind) := by
  unfold State.lineFails
  repeat' first
    | with_reducible first
      | assumption | refine ite_onward ?_ ?_ | apply State.modMod_onward
    | exact fun _ => ⟨rfl, rfl⟩ | split | dsimp only

theorem State.failedStack_onward {s0 s : State} (lines : List Nat) (hOn : Onward s0 s) :
    Onward s0 (s.failedStack lines).1 := by
  unfold State.failedStack
  repeat' first
    | with_reducible first
      | assumption | refine ite_onward ?_ ?_ | refine ite_onward_fst ?_ ?_ | refine ite_onward_snd ?_ ?_
      | apply State.modMod_onward | apply State.errorRecord_onward
    | exact fun _ => ⟨rfl, rfl⟩ | split | dsimp only

theorem State.readCheckAs_onward {s0 s : State} (lines : List Nat) (err : Nat) (counts : Bool) (hOn : Onward s0 s) :
    Onward s0 (s.readCheckAs lines err counts).1 := by
  unfold State.readCheckAs
  repeat' first
    | with_reducible first
      | assumption | refine ite_onward ?_ ?_ | refine ite_onward_fst ?_ ?_ | refine ite_onward_snd ?_ ?_
      | apply State.failedStack_onward | apply State.lineFails_onward | apply State.errorRecord_onward
      | apply State.coCount_onward | apply State.modMod_onward | refine foldl_onward (fun _ _ _ => ?_) _ _ ?_
      | refine foldl_onward_fst (fun _ _ _ => ?_) _ _ ?_
    | exact fun _ => ⟨rfl, rfl⟩ | split | dsimp only

theorem State.readCheck_onward {s0 s : State} (lines : List Nat) (err : Nat) (hOn : Onward s0 s) :
    Onward s0 (s.readCheck lines err).1 := by
  unfold State.readCheck
  repeat' first
    | with_reducible first
      | assumption | refine ite_onward ?_ ?_ | refine ite_onward_fst ?_ ?_ | refine ite_onward_snd ?_ ?_
      | apply State.readCheckAs_onward
    | split | dsimp only

theorem State.checkedWrite_onward {s0 s : State} (a : Nat) (data : List Byte) (err : Nat) (hOn : Onward s0 s) :
    Onward s0 (s.checkedWrite a data err).1 := by
  unfold State.checkedWrite
  repeat' first
    | with_reducible first
      | assumption | refine ite_onward ?_ ?_ | refine ite_onward_fst ?_ ?_ | refine ite_onward_snd ?_ ?_
      | apply State.failedStack_onward | apply State.readCheck_onward | apply State.modMod_onward
      | apply State.commonsWrite_onward
    | exact fun _ => ⟨rfl, rfl⟩ | split | dsimp only

theorem State.modAlloc_onward {s0 s : State} (i : Nat) (f : Alloc → Alloc) (hOn : Onward s0 s) :
    Onward s0 (s.modAlloc i f) := by
  unfold State.modAlloc
  repeat' first
    | with_reducible first
      | assumption | refine ite_onward ?_ ?_ | apply State.modMod_onward
    | exact fun _ => ⟨rfl, rfl⟩ | split | dsimp only

theorem State.modProg_onward {s0 s : State} (id : Nat) (f : InProg → InProg) (hOn : Onward s0 s) :
    Onward s0 (s.modProg id f) := by
  unfold State.modProg
  repeat' first
    | with_reducible first
      | assumption | refine ite_onward ?_ ?_ | apply State.modRecv_onward
    | split | dsimp only

theorem State.answerLost_onward {s0 s : State} (g : InProg) (hOn : Onward s0 s) : Onward s0 (s.answerLost g) := by
  unfold State.answerLost
  repeat' first
    | with_reducible first
      | assumption | refine ite_onward ?_ ?_ | apply State.settle_onward | apply State.modRecv_onward
    | split | dsimp only

theorem State.sendBack_onward {s0 s : State} (g : InProg) (code : Nat) (data : List Byte) (hOn : Onward s0 s) :
    Onward s0 (s.sendBack g code data) := by
  unfold State.sendBack
  repeat' first
    | with_reducible first
      | assumption | refine ite_onward ?_ ?_ | apply State.newFrame_onward | apply State.tileCount_onward
      | apply State.answerLost_onward
    | split | dsimp only

theorem State.setResult_onward {s0 s : State} (id code : Nat) (data : List Byte) (hOn : Onward s0 s) :
    Onward s0 (s.setResult id code data) := by
  unfold State.setResult
  repeat' first
    | with_reducible first
      | assumption | refine ite_onward ?_ ?_ | apply State.modProg_onward | apply State.sendBack_onward
    | split | dsimp only

theorem State.memAccess_onward {s0 s : State} (g : InProg) (err : Nat) (hOn : Onward s0 s) :
    Onward s0 (s.memAccess g err) := by
  unfold State.memAccess
  repeat' first
    | with_reducible first
      | assumption | refine ite_onward ?_ ?_ | apply State.readCheckAs_onward | apply State.setResult_onward
      | apply State.deny_onward | apply State.readCheck_onward | apply State.checkedWrite_onward
    | split | dsimp only

theorem State.commonsAccess_onward {s0 s : State} (id err : Nat) (hOn : Onward s0 s) :
    OnwardAns s0 (s.commonsAccess id err) := by
  unfold State.commonsAccess
  repeat' first
    | with_reducible first
      | assumption | refine ite_onward ?_ ?_ | apply State.memAccess_onward | apply State.modProg_onward
      | apply State.newFrame_onward | refine onward_next ?_ | exact onward_fault _
    | split | dsimp only

theorem State.memoryPort_onward {s0 s : State} (k : Packet) (hOn : Onward s0 s) : Onward s0 (s.memoryPort k) := by
  unfold State.memoryPort
  repeat' first
    | with_reducible first
      | assumption | refine ite_onward ?_ ?_ | apply State.modProg_onward | apply State.modRecv_onward
      | apply State.memAccess_onward
    | split | dsimp only

theorem State.atomicRmw_onward {s0 s : State} (id op err : Nat) (f : Nat → Nat → List Byte → Nat) (hOn : Onward s0 s) :
    Onward s0 (s.atomicRmw id op err f) := by
  unfold State.atomicRmw
  repeat' first
    | with_reducible first
      | assumption | refine ite_onward ?_ ?_ | apply State.readCheck_onward | apply State.setResult_onward
      | apply State.commonsWrite_onward
    | split | dsimp only

theorem State.allocRun_onward {s0 s : State} (id op err : Nat) (hOn : Onward s0 s) :
    Onward s0 (s.allocRun id op err) := by
  unfold State.allocRun
  repeat' first
    | with_reducible first
      | assumption | refine ite_onward ?_ ?_ | apply State.malformed_onward | apply State.deny_onward
      | apply State.setResult_onward | apply State.readCheckAs_onward | apply State.modAlloc_onward
      | apply State.coCount_onward
    | split | dsimp only

theorem State.setRegion_onward {s0 s : State} (i : Nat) (r : Region) (hOn : Onward s0 s) :
    Onward s0 (s.setRegion i r) := by
  unfold State.setRegion
  repeat' first
    | with_reducible first
      | assumption | refine ite_onward ?_ ?_ | apply State.modMod_onward
    | exact fun _ => ⟨rfl, rfl⟩ | split | dsimp only

theorem State.admDrop_onward {s0 s : State} (r : Region) (hOn : Onward s0 s) : Onward s0 (s.admDrop r) := by
  unfold State.admDrop
  repeat' first
    | with_reducible first
      | assumption | refine ite_onward ?_ ?_ | apply State.modSh_onward
    | split | dsimp only

theorem State.regionEnter_onward {s0 s : State} (i st : Nat) (hOn : Onward s0 s) :
    Onward s0 (s.regionEnter i st) := by
  unfold State.regionEnter
  repeat' first
    | with_reducible first
      | assumption | refine ite_onward ?_ ?_ | apply State.setRegion_onward
    | split | dsimp only

theorem State.regionLeave_onward {s0 s : State} (i st : Nat) (hOn : Onward s0 s) :
    Onward s0 (s.regionLeave i st) := by
  unfold State.regionLeave
  repeat' first
    | with_reducible first
      | assumption | refine ite_onward ?_ ?_ | apply State.setRegion_onward | apply State.regionEnter_onward
    | split | dsimp only

theorem State.regionsOn_onward {s0 s : State} (hOn : Onward s0 s) : Onward s0 (s.regionsOn) := by
  unfold State.regionsOn
  repeat' first
    | with_reducible first
      | assumption | refine ite_onward ?_ ?_ | apply State.regionEnter_onward
      | refine foldl_onward (fun _ _ _ => ?_) _ _ ?_ | refine foldl_onward_fst (fun _ _ _ => ?_) _ _ ?_
    | split | dsimp only

theorem State.regionWrite_onward {s0 s : State} (i : Nat) (val : List Byte) (hOn : Onward s0 s) :
    Onward s0 (s.regionWrite i val).2 := by
  unfold State.regionWrite
  repeat' first
    | with_reducible first
      | assumption | refine ite_onward ?_ ?_ | refine ite_onward_snd ?_ ?_ | apply State.setRegion_onward
      | apply State.modMod_onward | apply State.regionEnter_onward | apply State.regionLeave_onward
    | exact fun _ => ⟨rfl, rfl⟩ | split | dsimp only

theorem State.regionInitDone_onward {s0 s : State} (i : Nat) (hOn : Onward s0 s) :
    Onward s0 (s.regionInitDone i) := by
  unfold State.regionInitDone
  repeat' first
    | with_reducible first
      | assumption | refine ite_onward ?_ ?_ | apply State.commonsZero_onward | apply State.commonsWrite_onward
      | apply State.setRegion_onward | apply State.regionEnter_onward
    | split | dsimp only

theorem State.regionScrubDone_onward {s0 s : State} (i : Nat) (hOn : Onward s0 s) :
    Onward s0 (s.regionScrubDone i) := by
  unfold State.regionScrubDone
  repeat' first
    | with_reducible first
      | assumption | refine ite_onward ?_ ?_ | apply State.commonsZero_onward | apply State.setRegion_onward
    | split | dsimp only

theorem State.handover_onward {s0 s : State} (i : Nat) (val : List Byte) (hOn : Onward s0 s) :
    Onward s0 (s.handover i val).2 := by
  unfold State.handover
  repeat' first
    | with_reducible first
      | assumption | refine ite_onward ?_ ?_ | refine ite_onward_snd ?_ ?_ | apply State.setRegion_onward
    | split | dsimp only

theorem State.clearStaleWrite_onward {s0 s : State} (i : Nat) (val : List Byte) (hOn : Onward s0 s) :
    Onward s0 (s.clearStaleWrite i val).2 := by
  unfold State.clearStaleWrite
  repeat' first
    | with_reducible first
      | assumption | refine ite_onward ?_ ?_ | refine ite_onward_snd ?_ ?_ | apply State.setRegion_onward
    | split | dsimp only

theorem State.retentionEnd_onward {s0 s : State} (i : Nat) (hOn : Onward s0 s) : Onward s0 (s.retentionEnd i) := by
  unfold State.retentionEnd
  repeat' first
    | with_reducible first
      | assumption | refine ite_onward ?_ ?_ | apply State.regionEnter_onward
    | split | dsimp only

theorem State.regionsTorn_onward {s0 s : State} (job : Nat) (hOn : Onward s0 s) : Onward s0 (s.regionsTorn job) := by
  unfold State.regionsTorn
  repeat' first
    | with_reducible first
      | assumption | refine ite_onward ?_ ?_ | apply State.admDrop_onward | apply State.regionLeave_onward
      | apply State.setRegion_onward | refine foldl_onward (fun _ _ _ => ?_) _ _ ?_
      | refine foldl_onward_fst (fun _ _ _ => ?_) _ _ ?_
    | split | dsimp only

theorem State.regionsScrub_onward {s0 s : State} (job : Nat) (hOn : Onward s0 s) :
    Onward s0 (s.regionsScrub job) := by
  unfold State.regionsScrub
  repeat' first
    | with_reducible first
      | assumption | refine ite_onward ?_ ?_ | apply State.regionEnter_onward | apply State.regionLeave_onward
      | refine foldl_onward (fun _ _ _ => ?_) _ _ ?_ | refine foldl_onward_fst (fun _ _ _ => ?_) _ _ ?_
    | split | dsimp only

theorem State.regionsRejoin_onward {s0 s : State} (hOn : Onward s0 s) : Onward s0 (s.regionsRejoin) := by
  unfold State.regionsRejoin
  repeat' first
    | with_reducible first
      | assumption | refine ite_onward ?_ ?_ | apply State.regionLeave_onward | apply State.admDrop_onward
      | refine foldl_onward (fun _ _ _ => ?_) _ _ ?_ | refine foldl_onward_fst (fun _ _ _ => ?_) _ _ ?_
    | split | dsimp only

theorem State.spillWrite_onward {s0 s : State} (val : List Byte) (hOn : Onward s0 s) :
    Onward s0 (s.spillWrite val).2 := by
  unfold State.spillWrite
  repeat' first
    | with_reducible first
      | assumption | refine ite_onward ?_ ?_ | refine ite_onward_snd ?_ ?_ | apply State.setReg_onward
    | split | dsimp only

theorem State.stackFail_onward {s0 s : State} (k : Nat) (retrain : Bool) (hOn : Onward s0 s) :
    Onward s0 (s.stackFail k retrain) := by
  unfold State.stackFail
  repeat' first
    | with_reducible first
      | assumption | refine ite_onward ?_ ?_ | apply State.modMod_onward | apply State.report_onward
      | apply State.selfFence_onward
    | exact fun _ => ⟨rfl, rfl⟩ | split | dsimp only

theorem State.checkpointSlot_onward {s0 s : State} (hOn : Onward s0 s) : Onward s0 (s.checkpointSlot) := by
  unfold State.checkpointSlot
  repeat' first
    | with_reducible first
      | assumption | refine ite_onward ?_ ?_ | apply State.modMod_onward
    | exact fun _ => ⟨rfl, rfl⟩ | split | dsimp only

theorem State.scrubOpen_onward {s0 s : State} (corrected failing : List Nat) (hOn : Onward s0 s) :
    Onward s0 (s.scrubOpen corrected failing) := by
  unfold State.scrubOpen
  repeat' first
    | with_reducible first
      | assumption | refine ite_onward ?_ ?_ | apply State.modMod_onward | apply State.count_onward
      | apply State.lineFails_onward | apply State.errorRecord_onward | refine foldl_onward (fun _ _ _ => ?_) _ _ ?_
    | exact fun _ => ⟨rfl, rfl⟩ | split | dsimp only

theorem State.scrubClose_onward {s0 s : State} (hOn : Onward s0 s) : Onward s0 (s.scrubClose) := by
  unfold State.scrubClose
  repeat' first
    | with_reducible first
      | assumption | refine ite_onward ?_ ?_ | apply State.modMod_onward
    | exact fun _ => ⟨rfl, rfl⟩ | split | dsimp only

theorem State.commonsResponse_onward {s0 s : State} (id : Nat) (hOn : Onward s0 s) :
    Onward s0 (s.commonsResponse id) := by
  unfold State.commonsResponse
  repeat' first
    | with_reducible first
      | assumption | refine ite_onward ?_ ?_ | apply State.partCount_onward | apply State.finishProg_onward
      | apply State.regionsOn_onward
    | split | dsimp only

theorem State.restoreCommand_onward {s0 s : State} (val : List Byte) (hOn : Onward s0 s) :
    Onward s0 (s.restoreCommand val).2 := by
  unfold State.restoreCommand
  repeat' first
    | with_reducible first
      | assumption | refine ite_onward ?_ ?_ | refine ite_onward_snd ?_ ?_ | apply State.modMod_onward
    | exact fun _ => ⟨rfl, rfl⟩ | split | dsimp only

theorem State.pushPacket_onward {s0 s : State} (port st j m : Nat) (hOn : Onward s0 s) :
    Onward s0 (s.pushPacket port st j m) := by
  unfold State.pushPacket
  repeat' first
    | with_reducible first
      | assumption | refine ite_onward ?_ ?_ | apply State.modSh_onward | apply State.sendReq_onward
    | split | dsimp only

theorem State.pushNext_onward {s0 s : State} (hOn : Onward s0 s) : Onward s0 (s.pushNext) := by
  unfold State.pushNext
  repeat' first
    | with_reducible first
      | assumption | refine ite_onward ?_ ?_ | apply State.modMod_onward | apply State.readCheckAs_onward
      | apply State.pushPacket_onward | refine foldl_onward (fun _ _ _ => ?_) _ _ ?_
      | refine foldl_onward_fst (fun _ _ _ => ?_) _ _ ?_
    | exact fun _ => ⟨rfl, rfl⟩ | split | dsimp only

theorem State.pushOn_onward {s0 s : State} (hOn : Onward s0 s) : Onward s0 (s.pushOn) := by
  unfold State.pushOn
  repeat' first
    | with_reducible first
      | assumption | refine ite_onward ?_ ?_ | apply State.pushNext_onward
      | refine foldl_onward (fun _ _ _ => ?_) _ _ ?_
    | split | dsimp only

theorem State.pushEnd_onward {s0 s : State} (hOn : Onward s0 s) : Onward s0 (s.pushEnd) := by
  unfold State.pushEnd
  repeat' first
    | with_reducible first
      | assumption | refine ite_onward ?_ ?_ | apply State.modMod_onward
    | exact fun _ => ⟨rfl, rfl⟩ | split | dsimp only

theorem State.restoreReceive_onward {s0 s : State} (k : Packet) (port : Nat) (tagOk : Bool) (hOn : Onward s0 s) :
    Onward s0 (s.restoreReceive k port tagOk) := by
  unfold State.restoreReceive
  repeat' first
    | with_reducible first
      | assumption | refine ite_onward ?_ ?_ | apply State.admitPacket_onward | apply State.deny_onward
      | apply State.finish_onward | apply State.modRecv_onward | apply State.sendMem_onward
      | apply State.notNew_onward
    | split | dsimp only

theorem State.restoreAnswer_onward {s0 s : State} (prog code : Nat) (hOn : Onward s0 s) :
    Onward s0 (s.restoreAnswer prog code) := by
  unfold State.restoreAnswer
  repeat' first
    | with_reducible first
      | assumption | refine ite_onward ?_ ?_ | apply State.modEp_onward | apply State.finishProg_onward
    | split | dsimp only

end Sys2Proof.Machine
end

