-- ==== Sys2Proof/Laws/ModColl.lean ====
section
/-! SUPPORT. What the operations of Machine/ModColl.lean never take back (`Onward`), once for each. -/

set_option linter.all false
set_option Elab.async false

namespace Sys2Proof.Machine

theorem State.setGroup_onward {s0 s : State} (i : Nat) (g : Group) (hOn : Onward s0 s) :
    Onward s0 (s.setGroup i g) := by
  unfold State.setGroup
  repeat' first
    | with_reducible first
      | assumption | refine ite_onward ?_ ?_ | apply State.modMod_onward
    | exact fun _ => ⟨rfl, rfl⟩ | split | dsimp only

theorem State.groupWrite_onward {s0 s : State} (i : Nat) (val : List Byte) (hOn : Onward s0 s) :
    Onward s0 (s.groupWrite i val).2 := by
  unfold State.groupWrite
  repeat' first
    | with_reducible first
      | assumption | refine ite_onward ?_ ?_ | refine ite_onward_snd ?_ ?_ | apply State.setGroup_onward
    | split | dsimp only

theorem State.memberWrite_onward {s0 s : State} (i : Nat) (val : List Byte) (hOn : Onward s0 s) :
    Onward s0 (s.memberWrite i val).2 := by
  unfold State.memberWrite
  repeat' first
    | with_reducible first
      | assumption | refine ite_onward ?_ ?_ | refine ite_onward_snd ?_ ?_ | apply State.setGroup_onward
    | split | dsimp only

theorem State.contextWrite_onward {s0 s : State} (i c : Nat) (val : List Byte) (hOn : Onward s0 s) :
    Onward s0 (s.contextWrite i c val).2 := by
  unfold State.contextWrite
  repeat' first
    | with_reducible first
      | assumption | refine ite_onward ?_ ?_ | refine ite_onward_snd ?_ ?_ | apply State.setGroup_onward
    | split | dsimp only

theorem State.programWrite_onward {s0 s : State} (i c : Nat) (val : List Byte) (hOn : Onward s0 s) :
    Onward s0 (s.programWrite i c val).2 := by
  unfold State.programWrite
  repeat' first
    | with_reducible first
      | assumption | refine ite_onward ?_ ?_ | refine ite_onward_snd ?_ ?_ | apply State.setGroup_onward
    | split | dsimp only

theorem State.groupsFreed_onward {s0 s : State} (job : Nat) (hOn : Onward s0 s) : Onward s0 (s.groupsFreed job) := by
  unfold State.groupsFreed
  repeat' first
    | with_reducible first
      | assumption | refine ite_onward ?_ ?_ | apply State.modMod_onward
    | exact fun _ => ⟨rfl, rfl⟩ | split | dsimp only

theorem State.modGroup_onward {s0 s : State} (i : Nat) (f : Group → Group) (hOn : Onward s0 s) :
    Onward s0 (s.modGroup i f) := by
  unfold State.modGroup
  repeat' first
    | with_reducible first
      | assumption | refine ite_onward ?_ ?_ | apply State.modMod_onward
    | exact fun _ => ⟨rfl, rfl⟩ | split | dsimp only

theorem State.modSlot_onward {s0 s : State} (gi seq : Nat) (f : SeqSlot → SeqSlot) (hOn : Onward s0 s) :
    Onward s0 (s.modSlot gi seq f) := by
  unfold State.modSlot
  repeat' first
    | with_reducible first
      | assumption | refine ite_onward ?_ ?_ | apply State.modGroup_onward
    | split | dsimp only

theorem State.modPiece_onward {s0 s : State} (gi seq k : Nat) (f : Piece → Piece) (hOn : Onward s0 s) :
    Onward s0 (s.modPiece gi seq k f) := by
  unfold State.modPiece
  repeat' first
    | with_reducible first
      | assumption | refine ite_onward ?_ ?_ | apply State.modSlot_onward
    | split | dsimp only

theorem State.openSlot_onward {s0 s : State} (gi seq cctx : Nat) (hOn : Onward s0 s) :
    Onward s0 (s.openSlot gi seq cctx) := by
  unfold State.openSlot
  repeat' first
    | with_reducible first
      | assumption | refine ite_onward ?_ ?_ | apply State.modGroup_onward
    | split | dsimp only

theorem State.spillRecord_onward {s0 s : State} (t : Nat) (but : Nat × Nat × Nat) (hOn : Onward s0 s) :
    OnwardOpt s0 (s.spillRecord t but) := by
  unfold State.spillRecord
  repeat' first
    | with_reducible first
      | assumption | refine ite_onward ?_ ?_ | apply State.modTile_onward | apply State.writePage_onward
      | apply State.modPiece_onward | exact onward_none _ | refine onward_some ?_
      | refine foldl_onward (fun _ _ _ => ?_) _ _ ?_ | refine foldl_onward_fst (fun _ _ _ => ?_) _ _ ?_
    | split | dsimp only

theorem State.takeCells_onward {s0 : State} (t c : Nat) (piece : Nat × Nat × Nat) (n : Nat) {s : State} (hOn : Onward s0 s) :
    OnwardOpt s0 (s.takeCells t c piece n) := by
  induction n generalizing s with
  | zero => exact onward_none _
  | succ n ih =>
    unfold State.takeCells
    split
    · exact onward_some (State.modTile_onward _ _ hOn)
    · split
      · exact ih (OnwardOpt.get (State.spillRecord_onward _ _ hOn) ‹_›)
      · exact onward_none _

theorem takeIf_onward {s0 s u : State} {c : Prop} [Decidable c] {t k n : Nat}
    {piece : Nat × Nat × Nat} (hOn : Onward s0 s) (h : (if c then some s else s.takeCells t k piece n) = some u) : Onward s0 u := by
  split at h
  · cases h; exact hOn
  · exact State.takeCells_onward _ _ _ _ hOn _ h

theorem State.waitersLeave_onward {s0 s : State} (gi seq k : Nat) (hOn : Onward s0 s) :
    Onward s0 (s.waitersLeave gi seq k) := by
  unfold State.waitersLeave
  repeat' first
    | with_reducible first
      | assumption | refine ite_onward ?_ ?_ | apply State.takeFrame_onward
      | refine foldl_onward (fun _ _ _ => ?_) _ _ ?_
    | split | dsimp only

theorem State.freePiece_onward {s0 s : State} (gi seq k : Nat) (hOn : Onward s0 s) :
    Onward s0 (s.freePiece gi seq k) := by
  unfold State.freePiece
  repeat' first
    | with_reducible first
      | assumption | refine ite_onward ?_ ?_ | apply State.waitersLeave_onward | apply State.dropPages_onward
      | apply State.modTile_onward | apply State.modPiece_onward
    | split | dsimp only

theorem State.engineAdds_onward {s0 s : State} (e elems bytes : Nat) (hOn : Onward s0 s) :
    Onward s0 (s.engineAdds e elems bytes) := by
  unfold State.engineAdds
  repeat' first
    | with_reducible first
      | assumption | refine ite_onward ?_ ?_ | apply State.count_onward
    | split | dsimp only

theorem State.engineConv_onward {s0 s : State} (e : Nat) (c : Conv) (hOn : Onward s0 s) :
    Onward s0 (s.engineConv e c) := by
  unfold State.engineConv
  repeat' first
    | with_reducible first
      | assumption | refine ite_onward ?_ ?_ | apply State.count_onward
    | split | dsimp only

theorem State.sendCopy_onward {s0 s : State} (from_ t : Nat) (k : Packet) (hOn : Onward s0 s) :
    Onward s0 (s.sendCopy from_ t k) := by
  unfold State.sendCopy
  repeat' first
    | with_reducible first
      | assumption | refine ite_onward ?_ ?_ | apply State.addFrame_onward | apply State.newFrame_onward
    | split | dsimp only

theorem State.tryDeliver_onward {s0 s : State} (id : Nat) (hOn : Onward s0 s) : Onward s0 (s.tryDeliver id) := by
  unfold State.tryDeliver
  repeat' first
    | with_reducible first
      | assumption | refine ite_onward ?_ ?_ | apply State.sendCopy_onward | apply State.sendReq_onward
      | apply State.modSlot_onward
    | split | dsimp only

theorem State.toMember_onward {s0 s : State} (owner : Owner) (w : Nat) (k : Packet) (hOn : Onward s0 s) :
    Onward s0 (s.toMember owner w k) := by
  unfold State.toMember
  repeat' first
    | with_reducible first
      | assumption | refine ite_onward ?_ ?_ | apply State.modSh_onward | apply State.tryDeliver_onward
    | split | dsimp only

theorem State.deliver_onward {s0 s : State} (gi seq k : Nat) (ranks : List Nat) (data : List Byte) (short : Bool) (hOn : Onward s0 s) :
    Onward s0 (s.deliver gi seq k ranks data short) := by
  unfold State.deliver
  repeat' first
    | with_reducible first
      | assumption | refine ite_onward ?_ ?_ | apply State.modPiece_onward | apply State.toMember_onward
      | refine foldl_onward (fun _ _ _ => ?_) _ _ ?_
    | split | dsimp only

theorem State.sendRelease_onward {s0 s : State} (gi seq : Nat) (hOn : Onward s0 s) :
    Onward s0 (s.sendRelease gi seq) := by
  unfold State.sendRelease
  repeat' first
    | with_reducible first
      | assumption | refine ite_onward ?_ ?_ | apply State.modSlot_onward | apply State.toMember_onward
      | apply State.sendTiming_onward | refine foldl_onward (fun _ _ _ => ?_) _ _ ?_
    | split | dsimp only

theorem State.toRack_onward {s0 s : State} (gi : Nat) (k : Packet) (rack j : Nat) (hOn : Onward s0 s) :
    Onward s0 (s.toRack gi k rack j) := by
  unfold State.toRack
  repeat' first
    | with_reducible first
      | assumption | refine ite_onward ?_ ?_ | apply State.sendPacket_onward
    | split | dsimp only

theorem State.sendUp_onward {s0 s : State} (gi seq k : Nat) (hOn : Onward s0 s) : Onward s0 (s.sendUp gi seq k) := by
  unfold State.sendUp
  repeat' first
    | with_reducible first
      | assumption | refine ite_onward ?_ ?_ | apply State.toRack_onward | apply State.modPiece_onward
      | refine foldl_onward (fun _ _ _ => ?_) _ _ ?_
    | split | dsimp only

theorem State.sendDown_onward {s0 s : State} (gi seq k rack racks : Nat) (data : List Byte) (hOn : Onward s0 s) :
    Onward s0 (s.sendDown gi seq k rack racks data) := by
  unfold State.sendDown
  repeat' first
    | with_reducible first
      | assumption | refine ite_onward ?_ ?_ | apply State.toRack_onward
      | refine foldl_onward (fun _ _ _ => ?_) _ _ ?_ | refine foldl_onward_fst (fun _ _ _ => ?_) _ _ ?_
    | split | dsimp only

theorem State.rootOn_onward {s0 s : State} (gi seq k : Nat) (hOn : Onward s0 s) : Onward s0 (s.rootOn gi seq k) := by
  unfold State.rootOn
  repeat' first
    | with_reducible first
      | assumption | refine ite_onward ?_ ?_ | apply State.drawn_onward | apply State.engineConv_onward
      | apply State.modPiece_onward | apply State.sendDown_onward | apply State.deliver_onward
      | refine foldl_onward (fun _ _ _ => ?_) _ _ ?_ | refine foldl_onward_fst (fun _ _ _ => ?_) _ _ ?_
    | split | dsimp only

theorem State.completePiece_onward {s0 s : State} (gi seq k : Nat) (hOn : Onward s0 s) :
    Onward s0 (s.completePiece gi seq k) := by
  unfold State.completePiece
  repeat' first
    | with_reducible first
      | assumption | refine ite_onward ?_ ?_ | apply State.waitersLeave_onward | apply State.modPiece_onward
      | apply State.deliver_onward | apply State.rootOn_onward | apply State.sendUp_onward | apply State.drawn_onward
      | apply State.engineConv_onward
    | split | dsimp only

theorem State.answerLate_onward {s0 s : State} (k : Packet) (port : Nat) (hOn : Onward s0 s) :
    Onward s0 (s.answerLate k port) := by
  unfold State.answerLate
  repeat' first
    | with_reducible first
      | assumption | refine ite_onward ?_ ?_ | apply State.count_onward | apply State.partCount_onward
      | apply State.finish_onward
    | split | dsimp only

theorem State.pieceCells_onward {s0 s : State} (gi : Nat) (g : Group) (x : SeqSlot) (k : Nat) (p : Piece) (hOn : Onward s0 s) :
    Onward s0 (s.pieceCells gi g x k p) := by
  unfold State.pieceCells
  repeat' first
    | with_reducible first
      | assumption | refine ite_onward ?_ ?_ | apply State.deliver_onward | apply State.freePiece_onward
    | split | dsimp only

theorem State.treeOn_onward {s0 s : State} (gi seq k : Nat) (hOn : Onward s0 s) : Onward s0 (s.treeOn gi seq k) := by
  unfold State.treeOn
  repeat' first
    | with_reducible first
      | assumption | refine ite_onward ?_ ?_ | apply State.modPiece_onward | apply State.deliver_onward
    | split | dsimp only

theorem State.pieceUp_onward {s0 s : State} (gi : Nat) (g : Group) (x : SeqSlot) (k : Nat) (p : Piece) (hOn : Onward s0 s) :
    Onward s0 (s.pieceUp gi g x k p) := by
  unfold State.pieceUp
  repeat' first
    | with_reducible first
      | assumption | refine ite_onward ?_ ?_ | apply State.deliver_onward | apply State.rootOn_onward
      | apply State.sendUp_onward
    | split | dsimp only

theorem State.slotOn_onward {s0 s : State} (gi seq : Nat) (hOn : Onward s0 s) : Onward s0 (s.slotOn gi seq) := by
  unfold State.slotOn
  repeat' first
    | with_reducible first
      | assumption | refine ite_onward ?_ ?_ | apply State.completePiece_onward | apply State.rootOn_onward
      | apply State.treeOn_onward | apply State.pieceUp_onward | apply State.pieceCells_onward
      | apply State.modSlot_onward | refine foldl_onward (fun _ _ _ => ?_) _ _ ?_
      | refine foldl_onward_fst (fun _ _ _ => ?_) _ _ ?_
    | split | dsimp only

theorem State.copiesReturn_onward {s0 s : State} (hOn : Onward s0 s) : Onward s0 (s.copiesReturn) := by
  unfold State.copiesReturn
  repeat' first
    | with_reducible first
      | assumption | refine ite_onward ?_ ?_ | apply State.takeFrame_onward
      | refine foldl_onward (fun _ _ _ => ?_) _ _ ?_
    | split | dsimp only

theorem State.copyArrives_onward {s0 s : State} (f : MFrame) (hOn : Onward s0 s) : Onward s0 (s.copyArrives f) := by
  unfold State.copyArrives
  repeat' first
    | with_reducible first
      | assumption | refine ite_onward ?_ ?_ | apply State.putFrame_onward | apply State.tryDeliver_onward
      | apply State.copiesReturn_onward | refine foldl_onward (fun _ _ _ => ?_) _ _ ?_
    | split | dsimp only

theorem State.forwardsOn_onward {s0 s : State} (hOn : Onward s0 s) : Onward s0 (s.forwardsOn) := by
  unfold State.forwardsOn
  repeat' first
    | with_reducible first
      | assumption | refine ite_onward ?_ ?_ | apply State.finishProg_onward | apply State.modSlot_onward
      | refine foldl_onward (fun _ _ _ => ?_) _ _ ?_
    | split | dsimp only

theorem State.mcOn_onward {s0 s : State} (hOn : Onward s0 s) : Onward s0 (s.mcOn) := by
  unfold State.mcOn
  repeat' first
    | with_reducible first
      | assumption | refine ite_onward ?_ ?_ | apply State.forwardsOn_onward | apply State.slotOn_onward
      | apply State.copiesReturn_onward | refine foldl_onward (fun _ _ _ => ?_) _ _ ?_
      | refine foldl_onward_fst (fun _ _ _ => ?_) _ _ ?_
    | split | dsimp only

theorem State.mcDeny_onward {s0 s : State} (k : Packet) (port reason : Nat) (hOn : Onward s0 s) :
    Onward s0 (s.mcDeny k port reason) := by
  unfold State.mcDeny
  repeat' first
    | with_reducible first
      | assumption | refine ite_onward ?_ ?_ | apply State.deny_onward | apply State.finish_onward
    | split | dsimp only

theorem State.notPlaced_onward {s0 s : State} (k : Packet) (port code : Nat) (hOn : Onward s0 s) :
    Onward s0 (s.notPlaced k port code) := by
  unfold State.notPlaced
  repeat' first
    | with_reducible first
      | assumption | refine ite_onward ?_ ?_ | apply State.count_onward | apply State.partCount_onward
      | apply State.respond_onward | apply State.finish_onward
    | split | dsimp only

theorem State.takeSize_onward {s0 s : State} (gi : Nat) (k : Packet) (hOn : Onward s0 s) :
    Onward s0 (s.takeSize gi k) := by
  unfold State.takeSize
  repeat' first
    | with_reducible first
      | assumption | refine ite_onward ?_ ?_ | apply State.modSlot_onward
    | split | dsimp only

theorem State.countContribution_onward {s0 s : State} (gi seq rank : Nat) (hOn : Onward s0 s) :
    Onward s0 (s.countContribution gi seq rank) := by
  unfold State.countContribution
  repeat' first
    | with_reducible first
      | assumption | refine ite_onward ?_ ?_ | apply State.modSlot_onward
    | split | dsimp only

theorem State.forwardItem_onward {s0 s : State} (gi : Nat) (g : Group) (x : SeqSlot) (k : Packet) (port : Nat) (hOn : Onward s0 s) :
    Onward s0 (s.forwardItem gi g x k port) := by
  unfold State.forwardItem
  repeat' first
    | with_reducible first
      | assumption | refine ite_onward ?_ ?_ | apply State.mcDeny_onward | apply State.takeSize_onward
      | apply State.modRecv_onward | apply State.toMember_onward
    | split | dsimp only

theorem State.waitFrame_onward {s0 s : State} (k : Packet) (port : Nat) (hOn : Onward s0 s) :
    Onward s0 (s.waitFrame k port) := by
  unfold State.waitFrame
  repeat' first
    | with_reducible first
      | assumption | refine ite_onward ?_ ?_ | apply State.addFrame_onward
    | split | dsimp only

theorem State.giveCells_onward {s0 s : State} (gi seq k t need : Nat) (hOn : Onward s0 s) :
    Onward s0 (s.giveCells gi seq k t need) := by
  unfold State.giveCells
  repeat' first
    | with_reducible first
      | assumption | refine ite_onward ?_ ?_ | apply State.modTile_onward | apply State.modPiece_onward
    | split | dsimp only

theorem State.addContribution_onward {s0 s : State} (gi : Nat) (g : Group) (x : SeqSlot) (sh : Shape) (rank : Nat) (k : Packet) (port : Nat) (hOn : Onward s0 s) :
    Onward s0 (s.addContribution gi g x sh rank k port) := by
  unfold State.addContribution
  repeat' first
    | with_reducible first
      | assumption | refine ite_onward ?_ ?_ | apply State.malformed_onward | apply State.partCount_onward
      | apply State.finish_onward | apply State.countContribution_onward | apply State.answerLate_onward
      | apply State.mcDeny_onward | apply State.takeSize_onward | apply State.mcOn_onward
      | apply State.tileCount_onward | apply State.respond_onward | apply State.modTile_onward
      | apply State.giveCells_onward | apply State.modPiece_onward | apply State.waitFrame_onward
      | apply State.drawn_onward | apply State.engineAdds_onward | refine takeIf_onward ?_ (by assumption)
    | split | dsimp only

theorem State.takeArrive_onward {s0 s : State} (gi rank : Nat) (k : Packet) (port : Nat) (late : Bool) (hOn : Onward s0 s) :
    Onward s0 (s.takeArrive gi rank k port late) := by
  unfold State.takeArrive
  repeat' first
    | with_reducible first
      | assumption | refine ite_onward ?_ ?_ | apply State.takeSize_onward | apply State.modSlot_onward
      | apply State.answerLate_onward | apply State.finish_onward | apply State.mcOn_onward
    | split | dsimp only

theorem State.sendHome_onward {s0 s : State} (home : Nat) (k : Packet) (port : Nat) (hOn : Onward s0 s) :
    Onward s0 (s.sendHome home k port) := by
  unfold State.sendHome
  repeat' first
    | with_reducible first
      | assumption | refine ite_onward ?_ ?_ | apply State.modRecv_onward | apply State.newFrame_onward
      | apply State.tileCount_onward
    | split | dsimp only

theorem State.memberPacket_onward {s0 s : State} (here : Bool) (gi : Nat) (g : Group) (rank : Nat) (k : Packet) (port : Nat) (hOn : Onward s0 s) :
    Onward s0 (s.memberPacket here gi g rank k port) := by
  unfold State.memberPacket
  repeat' first
    | with_reducible first
      | assumption | refine ite_onward ?_ ?_ | apply State.mcDeny_onward | apply State.malformed_onward
      | apply State.notPlaced_onward | apply State.openSlot_onward | apply State.takeSize_onward
      | apply State.finish_onward | apply State.takeArrive_onward | apply State.forwardItem_onward
      | apply State.sendHome_onward | apply State.addContribution_onward
    | split | dsimp only

theorem State.mcTake_onward {s0 s : State} (k : Packet) (port : Nat) (next : State → Group → State)
    (hn : ∀ t g, Onward s0 t → Onward s0 (next t g)) (hOn : Onward s0 s) : Onward s0 (s.mcTake k port next) := by
  unfold State.mcTake
  repeat' first
    | with_reducible first
      | assumption | apply State.mcDeny_onward | apply State.finish_onward | apply State.partCount_onward
      | apply State.coCount_onward | apply State.answerLate_onward | apply hn
    | split | dsimp only

theorem State.windrowArrives_onward {s0 s : State} (k : Packet) (hOn : Onward s0 s) :
    Onward s0 (s.windrowArrives k) := by
  unfold State.windrowArrives
  repeat' first
    | with_reducible first
      | assumption | refine ite_onward ?_ ?_ | apply State.modRecv_onward | apply State.memberPacket_onward
      | apply State.mcDeny_onward | refine State.mcTake_onward _ _ _ (fun _ _ _ => ?_) ?_
    | split | dsimp only

theorem State.mcMember_onward {s0 s : State} (k : Packet) (port : Nat) (tagOk : Bool) (hOn : Onward s0 s) :
    Onward s0 (s.mcMember k port tagOk) := by
  unfold State.mcMember
  have ha := State.admitPacket_onward .mod k port tagOk (isColl k.typ) hOn
  dsimp only
  split
  · exact ha
  · refine State.mcTake_onward _ _ _ (fun t g ht => ?_) ha
    split
    · exact State.memberPacket_onward _ _ _ _ _ _ ht
    · exact State.mcDeny_onward _ _ _ ht
  · exact State.notNew_onward _ _ _ _ ha

theorem State.mcBetween_onward {s0 s : State} (k : Packet) (port : Nat) (tagOk : Bool) (next : State → Group → State)
    (hn : ∀ t g, Onward s0 t → Onward s0 (next t g)) (hOn : Onward s0 s) : Onward s0 (s.mcBetween k port tagOk next) := by
  unfold State.mcBetween
  repeat' first
    | with_reducible first
      | assumption | apply State.refuse_onward | apply State.malformed_onward | apply State.sealCount_onward
      | apply State.respond_onward | refine State.mcTake_onward _ _ _ hn ?_
    | split | dsimp only

theorem State.podPartial_onward {s0 s : State} (gi : Nat) (g : Group) (k : Packet) (port : Nat) (hOn : Onward s0 s) :
    Onward s0 (s.podPartial gi g k port) := by
  unfold State.podPartial
  repeat' first
    | with_reducible first
      | assumption | refine ite_onward ?_ ?_ | apply State.openSlot_onward | apply State.toRack_onward
      | apply State.modPiece_onward | refine foldl_onward (fun _ _ _ => ?_) _ _ ?_
      | refine foldl_onward_fst (fun _ _ _ => ?_) _ _ ?_
    | split | dsimp only

theorem State.rackPartial_onward {s0 s : State} (k : Packet) (port : Nat) (tagOk : Bool) (hOn : Onward s0 s) :
    Onward s0 (s.rackPartial k port tagOk) := by
  unfold State.rackPartial
  refine State.mcBetween_onward _ _ _ _ (fun t g ht => ?_) hOn
  repeat' first
    | with_reducible first
      | assumption | refine ite_onward ?_ ?_
      | apply State.mcDeny_onward | apply State.malformed_onward | apply State.notPlaced_onward | apply State.podPartial_onward | apply State.openSlot_onward | apply State.sendDown_onward | apply State.rootOn_onward | apply State.modPiece_onward | apply State.mcOn_onward
    | split | dsimp only

theorem State.treeResult_onward {s0 s : State} (k : Packet) (port : Nat) (tagOk : Bool) (hOn : Onward s0 s) :
    Onward s0 (s.treeResult k port tagOk) := by
  unfold State.treeResult
  refine State.mcBetween_onward _ _ _ _ (fun t g ht => ?_) hOn
  repeat' first
    | with_reducible first
      | assumption | refine ite_onward ?_ ?_
      | apply State.toRack_onward | apply State.mcDeny_onward | apply State.malformed_onward | apply State.notPlaced_onward | apply State.openSlot_onward | apply State.respond_onward | apply State.modPiece_onward | apply State.deliver_onward | apply State.mcOn_onward
    | split | dsimp only

theorem State.treeResend_onward {s0 s : State} (gi i k : Nat) (hOn : Onward s0 s) :
    Onward s0 (s.treeResend gi i k) := by
  unfold State.treeResend
  repeat' first
    | with_reducible first
      | assumption | refine ite_onward ?_ ?_ | apply State.sendUp_onward | apply State.modPiece_onward
    | split | dsimp only

theorem State.lateField_onward {s0 s : State} (node pos old new : Nat) (hOn : Onward s0 s) :
    Onward s0 (s.lateField node pos old new).1 := by
  unfold State.lateField
  repeat' first
    | with_reducible first
      | assumption | refine ite_onward ?_ ?_ | refine ite_onward_fst ?_ ?_ | refine ite_onward_snd ?_ ?_
      | apply State.logEvent_onward
    | split | dsimp only

theorem State.recordLate_onward {s0 s : State} (node late : Nat) (last : Bool) (hOn : Onward s0 s) :
    Onward s0 (s.recordLate node late last) := by
  unfold State.recordLate
  repeat' first
    | with_reducible first
      | assumption | refine ite_onward ?_ ?_ | apply State.lateField_onward | apply State.modMod_onward
    | exact fun _ => ⟨rfl, rfl⟩ | split | dsimp only

theorem State.recordLateness_onward {s0 s : State} (g : Group) (x : SeqSlot) (hOn : Onward s0 s) :
    Onward s0 (s.recordLateness g x) := by
  unfold State.recordLateness
  repeat' first
    | with_reducible first
      | assumption | refine ite_onward ?_ ?_ | apply State.recordLate_onward
      | refine foldl_onward (fun _ _ _ => ?_) _ _ ?_
    | split | dsimp only

theorem State.lateClear_onward {s0 s : State} (node : Nat) (val : List Byte) (hOn : Onward s0 s) :
    Onward s0 (s.lateClear node val).2 := by
  unfold State.lateClear
  repeat' first
    | with_reducible first
      | assumption | refine ite_onward ?_ ?_ | refine ite_onward_snd ?_ ?_ | apply State.modMod_onward
    | exact fun _ => ⟨rfl, rfl⟩ | split | dsimp only

theorem State.slotEnds_onward {s0 s : State} (gi : Nat) (x : SeqSlot) (hOn : Onward s0 s) :
    Onward s0 (s.slotEnds gi x) := by
  unfold State.slotEnds
  repeat' first
    | with_reducible first
      | assumption | refine ite_onward ?_ ?_ | apply State.freePiece_onward | apply State.modGroup_onward
      | apply State.finish_onward | apply State.copiesReturn_onward | refine foldl_onward (fun _ _ _ => ?_) _ _ ?_
      | refine foldl_onward_fst (fun _ _ _ => ?_) _ _ ?_
    | split | dsimp only

theorem State.slotFinish_onward {s0 s : State} (gi i : Nat) (hOn : Onward s0 s) : Onward s0 (s.slotFinish gi i) := by
  unfold State.slotFinish
  repeat' first
    | with_reducible first
      | assumption | refine ite_onward ?_ ?_ | apply State.sendRelease_onward | apply State.recordLateness_onward
      | apply State.modSh_onward | apply State.partCount_onward | apply State.slotEnds_onward
    | split | dsimp only

theorem State.dropSequence_onward {s0 s : State} (gi seq : Nat) (all : Bool) (hOn : Onward s0 s) :
    Onward s0 (s.dropSequence gi seq all) := by
  unfold State.dropSequence
  repeat' first
    | with_reducible first
      | assumption | refine ite_onward ?_ ?_ | apply State.dropReq_onward
      | refine foldl_onward (fun _ _ _ => ?_) _ _ ?_
    | split | dsimp only

theorem State.slotTimeout_onward {s0 s : State} (gi i : Nat) (hOn : Onward s0 s) :
    Onward s0 (s.slotTimeout gi i) := by
  unfold State.slotTimeout
  repeat' first
    | with_reducible first
      | assumption | refine ite_onward ?_ ?_ | apply State.count_onward | apply State.dropSequence_onward
      | apply State.modRecv_onward | apply State.slotEnds_onward
    | split | dsimp only

theorem State.collsTorn_onward {s0 s : State} (job : Nat) (hOn : Onward s0 s) : Onward s0 (s.collsTorn job) := by
  unfold State.collsTorn
  repeat' first
    | with_reducible first
      | assumption | refine ite_onward ?_ ?_ | apply State.freePiece_onward | apply State.dropSequence_onward
      | apply State.modRecv_onward | apply State.modGroup_onward | apply State.copiesReturn_onward
      | refine foldl_onward (fun _ _ _ => ?_) _ _ ?_ | refine foldl_onward_fst (fun _ _ _ => ?_) _ _ ?_
    | split | dsimp only

theorem State.collsFenced_onward {s0 s : State} (hOn : Onward s0 s) : Onward s0 (s.collsFenced) := by
  unfold State.collsFenced
  repeat' first
    | with_reducible first
      | assumption | refine ite_onward ?_ ?_ | apply State.freePiece_onward | apply State.dropSequence_onward
      | apply State.modGroup_onward | refine foldl_onward (fun _ _ _ => ?_) _ _ ?_
      | refine foldl_onward_fst (fun _ _ _ => ?_) _ _ ?_
    | split | dsimp only

theorem State.residue_onward {s0 s : State} (port : Nat) (hOn : Onward s0 s) : Onward s0 (s.residue port) := by
  unfold State.residue
  repeat' first
    | with_reducible first
      | assumption | refine ite_onward ?_ ?_ | apply State.tryDeliver_onward
      | refine foldl_onward (fun _ _ _ => ?_) _ _ ?_
    | split | dsimp only

theorem State.copiesPortDown_onward {s0 s : State} (port : Nat) (hOn : Onward s0 s) :
    Onward s0 (s.copiesPortDown port) := by
  unfold State.copiesPortDown
  repeat' first
    | with_reducible first
      | assumption | refine ite_onward ?_ ?_ | apply State.portCount_onward | apply State.endReq_onward
      | apply State.mcOn_onward | refine foldl_onward (fun _ _ _ => ?_) _ _ ?_
    | split | dsimp only

theorem State.recordReturn_onward {s0 s : State} (gi i k : Nat) (ok : Bool) (hOn : Onward s0 s) :
    Onward s0 (s.recordReturn gi i k ok) := by
  unfold State.recordReturn
  repeat' first
    | with_reducible first
      | assumption | refine ite_onward ?_ ?_ | apply State.drawn_onward | apply State.count_onward
      | apply State.freePiece_onward | apply State.modSlot_onward | apply State.modTile_onward
      | apply State.dropPages_onward | apply State.modPiece_onward | apply State.completePiece_onward
      | apply State.mcOn_onward | refine takeIf_onward ?_ (by assumption)
    | split | dsimp only

end Sys2Proof.Machine
end

