-- ==== Sys2Proof/Laws/Tiles.lean ====
section
/-! SUPPORT. What the operations of Machine/Tiles.lean never take back (`Onward`), once for each. -/

set_option linter.all false
set_option Elab.async false

namespace Sys2Proof.Machine

theorem State.histogram_onward {s0 s : State} (offs : List Nat) (hOn : Onward s0 s) :
    Onward s0 (s.histogram offs) := by
  unfold State.histogram
  repeat' first
    | with_reducible first
      | assumption | refine ite_onward ?_ ?_ | apply State.modMod_onward
      | refine foldl_onward (fun _ _ _ => ?_) _ _ ?_
    | exact fun _ => ⟨rfl, rfl⟩ | split | dsimp only

theorem State.traceRing_onward {s0 s : State} (k : Packet) (ingress egress defl : Nat) (spilled : Bool) (base : Nat) (offs : List Nat) (hOn : Onward s0 s) :
    Onward s0 (s.traceRing k ingress egress defl spilled base offs) := by
  unfold State.traceRing
  repeat' first
    | with_reducible first
      | assumption | refine ite_onward ?_ ?_ | apply State.coCount_onward | apply State.histogram_onward
      | apply State.commonsWrite_onward
    | split | dsimp only

theorem State.traceFrame_onward {s0 s : State} (f : MFrame) (egress : Nat) (hOn : Onward s0 s) :
    Onward s0 (s.traceFrame f egress) := by
  unfold State.traceFrame
  repeat' first
    | with_reducible first
      | assumption | refine ite_onward ?_ ?_ | apply State.traceRing_onward
    | split | dsimp only

theorem State.loseFrame_onward {s0 s : State} (f : MFrame) (hOn : Onward s0 s) : Onward s0 (s.loseFrame f) := by
  unfold State.loseFrame
  repeat' first
    | with_reducible first
      | assumption | refine ite_onward ?_ ?_ | apply State.takeFrame_onward | apply State.answerLost_onward
      | apply State.modRecv_onward
    | split | dsimp only

theorem State.dropFrame_onward {s0 s : State} (f : MFrame) (pos : Nat) (hOn : Onward s0 s) :
    Onward s0 (s.dropFrame f pos) := by
  unfold State.dropFrame
  repeat' first
    | with_reducible first
      | assumption | refine ite_onward ?_ ?_ | apply State.loseFrame_onward | apply State.tileCount_onward
      | apply State.traceFrame_onward
    | split | dsimp only

theorem State.takeIn_onward {s0 s : State} (p : Part) (f : Packet → Bool) (hOn : Onward s0 s) :
    Onward s0 (s.takeIn p f) := by
  unfold State.takeIn
  repeat' first
    | with_reducible first
      | assumption | refine ite_onward ?_ ?_ | apply State.modEp_onward | apply State.takeFrame_onward
    | split | dsimp only

theorem State.takeOut_onward {s0 s : State} (tile plane o : Nat) (f : MFrame) (hOn : Onward s0 s) :
    Onward s0 (s.takeOut tile plane o f) := by
  unfold State.takeOut
  repeat' first
    | with_reducible first
      | assumption | refine ite_onward ?_ ?_ | apply State.modMod_onward
    | exact fun _ => ⟨rfl, rfl⟩ | split | dsimp only

theorem State.meshSlots_onward {s0 s : State} (f : MFrame) (discarded : Bool) (hOn : Onward s0 s) :
    Onward s0 (s.meshSlots f discarded) := by
  unfold State.meshSlots
  repeat' first
    | with_reducible first
      | assumption | refine ite_onward ?_ ?_ | apply State.count_onward
    | split | dsimp only

theorem State.toLink_onward {s0 s : State} (f : MFrame) (o : Nat) (hOn : Onward s0 s) : Onward s0 (s.toLink f o) := by
  unfold State.toLink
  repeat' first
    | with_reducible first
      | assumption | refine ite_onward ?_ ?_ | apply State.takeOut_onward | apply State.putFrame_onward
    | split | dsimp only

theorem State.intoUnit_onward {s0 s : State} (f : MFrame) (hOn : Onward s0 s) : Onward s0 (s.intoUnit f) := by
  unfold State.intoUnit
  repeat' first
    | with_reducible first
      | assumption | refine ite_onward ?_ ?_ | apply State.portCount_onward | apply State.traceFrame_onward
      | apply State.putFrame_onward | apply State.windrowArrives_onward | apply State.memoryPort_onward
      | apply State.copyArrives_onward
    | split | dsimp only

theorem State.eject_onward {s0 s : State} (f : MFrame) (hOn : Onward s0 s) : Onward s0 (s.eject f) := by
  unfold State.eject
  repeat' first
    | with_reducible first
      | assumption | refine ite_onward ?_ ?_ | apply State.takeOut_onward | apply State.intoUnit_onward
    | split | dsimp only

theorem State.park_onward {s0 s : State} (f : MFrame) (o : Nat) (hOn : Onward s0 s) : Onward s0 (s.park f o) := by
  unfold State.park
  repeat' first
    | with_reducible first
      | assumption | refine ite_onward ?_ ?_ | apply State.tileCount_onward | apply State.takeOut_onward
      | apply State.dropFrame_onward | apply State.takeFrame_onward | apply State.putFrame_onward
    | split | dsimp only

theorem State.decideOut_onward {s0 s : State} (f : MFrame) (hOn : Onward s0 s) : Onward s0 (s.decideOut f) := by
  unfold State.decideOut
  repeat' first
    | with_reducible first
      | assumption | refine ite_onward ?_ ?_ | apply State.takeFrame_onward | apply State.eject_onward
      | apply State.toLink_onward | apply State.tileCount_onward | apply State.park_onward
    | split | dsimp only

theorem State.headersArrive_onward {s0 s : State} (tile plane : Nat) (lost : List Nat) (hOn : Onward s0 s) :
    Onward s0 (s.headersArrive tile plane lost) := by
  unfold State.headersArrive
  repeat' first
    | with_reducible first
      | assumption | refine ite_onward ?_ ?_ | apply State.loseFrame_onward | apply State.meshSlots_onward
      | apply State.dropFrame_onward | apply State.decideOut_onward | refine foldl_onward (fun _ _ _ => ?_) _ _ ?_
    | split | dsimp only

theorem State.cellsLeave_onward {s0 s : State} (f : MFrame) (hOn : Onward s0 s) : Onward s0 (s.cellsLeave f) := by
  unfold State.cellsLeave
  repeat' first
    | with_reducible first
      | assumption | refine ite_onward ?_ ?_ | apply State.modMod_onward
    | exact fun _ => ⟨rfl, rfl⟩ | split | dsimp only

theorem State.injectFrame_onward {s0 s : State} (f : MFrame) (hOn : Onward s0 s) : Onward s0 (s.injectFrame f) := by
  unfold State.injectFrame
  repeat' first
    | with_reducible first
      | assumption | refine ite_onward ?_ ?_ | apply State.takeFrame_onward | apply State.intoUnit_onward
      | apply State.cellsLeave_onward | apply State.toLink_onward
    | split | dsimp only

theorem State.inject_onward {s0 : State} (tile n : Nat) {s : State} (hOn : Onward s0 s) : Onward s0 (s.inject tile n) := by
  induction n generalizing s with
  | zero => exact hOn
  | succ n ih =>
    unfold State.inject
    repeat' first
      | with_reducible first
        | assumption | apply ih | apply State.dropFrame_onward | apply State.injectFrame_onward
      | split | dsimp only

theorem State.spillFrame_onward {s0 s : State} (t : Nat) (hOn : Onward s0 s) : Onward s0 (s.spillFrame t) := by
  unfold State.spillFrame
  repeat' first
    | with_reducible first
      | assumption | refine ite_onward ?_ ?_ | apply State.modTile_onward | apply State.tileCount_onward
      | apply State.takeFrame_onward | apply State.putFrame_onward | apply State.partCount_onward
      | refine foldl_onward (fun _ _ _ => ?_) _ _ ?_
    | split | dsimp only

theorem State.readBack_onward {s0 s : State} (t : Nat) (ok : Bool) (hOn : Onward s0 s) :
    Onward s0 (s.readBack t ok) := by
  unfold State.readBack
  repeat' first
    | with_reducible first
      | assumption | refine ite_onward ?_ ?_ | apply State.dropFrame_onward | apply State.takeFrame_onward
      | apply State.portCount_onward | apply State.traceFrame_onward | apply State.putFrame_onward
      | apply State.tileCount_onward
    | split | dsimp only

theorem State.ingressRespond_onward {s0 s : State} (port : Nat) (k : Packet) (code : Nat) (hOn : Onward s0 s) :
    Onward s0 (s.ingressRespond port k code) := by
  unfold State.ingressRespond
  repeat' first
    | with_reducible first
      | assumption | refine ite_onward ?_ ?_ | apply State.partCount_onward | apply State.sendPacket_onward
    | split | dsimp only

theorem State.frameIn_onward {s0 s : State} (t dtile unit prio : Nat) (k : Packet) (port : Nat) (hOn : Onward s0 s) :
    Onward s0 (s.frameIn t dtile unit prio k port) := by
  unfold State.frameIn
  repeat' first
    | with_reducible first
      | assumption | refine ite_onward ?_ ?_ | apply State.newFrame_onward | apply State.traceFrame_onward
    | split | dsimp only

theorem State.enter_onward {s0 s : State} (port : Nat) (k : Packet) (hOn : Onward s0 s) :
    Onward s0 (s.enter port k) := by
  unfold State.enter
  repeat' first
    | with_reducible first
      | assumption | refine ite_onward ?_ ?_ | apply State.tileCount_onward | apply State.refuse_onward
      | apply State.ingressRespond_onward | apply State.portCount_onward | apply State.partCount_onward
      | apply State.usageCount_onward | apply State.frameIn_onward
    | split | dsimp only

theorem State.routeWrite_onward {s0 s : State} (node : Nat) (val : List Byte) (hOn : Onward s0 s) :
    Onward s0 (s.routeWrite node val).2 := by
  unfold State.routeWrite
  repeat' first
    | with_reducible first
      | assumption | refine ite_onward ?_ ?_ | refine ite_onward_snd ?_ ?_ | apply State.modMod_onward
    | exact fun _ => ⟨rfl, rfl⟩ | split | dsimp only

theorem State.rackRouteWrite_onward {s0 s : State} (rack : Nat) (val : List Byte) (hOn : Onward s0 s) :
    Onward s0 (s.rackRouteWrite rack val).2 := by
  unfold State.rackRouteWrite
  repeat' first
    | with_reducible first
      | assumption | refine ite_onward ?_ ?_ | refine ite_onward_snd ?_ ?_ | apply State.modMod_onward
    | exact fun _ => ⟨rfl, rfl⟩ | split | dsimp only

theorem State.poolWrite_onward {s0 s : State} (key v lo hi : Nat) (hOn : Onward s0 s) :
    Onward s0 (s.poolWrite key v lo hi).2 := by
  unfold State.poolWrite
  repeat' first
    | with_reducible first
      | assumption | refine ite_onward ?_ ?_ | refine ite_onward_snd ?_ ?_ | apply State.setReg_onward
    | split | dsimp only

theorem State.sliceWrite_onward {s0 s : State} (job : Nat) (val : List Byte) (hOn : Onward s0 s) :
    Onward s0 (s.sliceWrite job val).2 := by
  unfold State.sliceWrite
  repeat' first
    | with_reducible first
      | assumption | refine ite_onward ?_ ?_ | refine ite_onward_snd ?_ ?_ | apply State.modMod_onward
      | apply State.newPartition_onward | apply State.modSh_onward | apply State.groupsFreed_onward
    | exact fun _ => ⟨rfl, rfl⟩ | split | dsimp only

theorem State.sliceRevoke_onward {s0 s : State} (job : Nat) (hOn : Onward s0 s) : Onward s0 (s.sliceRevoke job) := by
  unfold State.sliceRevoke
  repeat' first
    | with_reducible first
      | assumption | refine ite_onward ?_ ?_ | apply State.modMod_onward | apply State.collsTorn_onward
      | apply State.tornHeld_onward | apply State.regionsTorn_onward
    | exact fun _ => ⟨rfl, rfl⟩ | split | dsimp only

theorem State.tileSweep_onward {s0 s : State} (tile job : Nat) (hOn : Onward s0 s) :
    Onward s0 (s.tileSweep tile job) := by
  unfold State.tileSweep
  repeat' first
    | with_reducible first
      | assumption | refine ite_onward ?_ ?_ | apply State.dropFrame_onward | apply State.modMod_onward
      | refine foldl_onward (fun _ _ _ => ?_) _ _ ?_
    | exact fun _ => ⟨rfl, rfl⟩ | split | dsimp only

theorem State.sliceDrained_onward {s0 s : State} (job : Nat) (hOn : Onward s0 s) :
    Onward s0 (s.sliceDrained job) := by
  unfold State.sliceDrained
  repeat' first
    | with_reducible first
      | assumption | refine ite_onward ?_ ?_ | apply State.modMod_onward
    | exact fun _ => ⟨rfl, rfl⟩ | split | dsimp only

theorem State.auditTile_onward {s0 s : State} (t : Nat) (hOn : Onward s0 s) : Onward s0 (s.auditTile t) := by
  unfold State.auditTile
  repeat' first
    | with_reducible first
      | assumption | refine ite_onward ?_ ?_ | apply State.modTile_onward | apply State.tileCount_onward
    | split | dsimp only

theorem State.auditWindows_onward {s0 s : State} (hOn : Onward s0 s) : Onward s0 (s.auditWindows) := by
  unfold State.auditWindows
  repeat' first
    | with_reducible first
      | assumption | refine ite_onward ?_ ?_ | apply State.modEp_onward | apply State.epCount_onward
      | apply State.modSh_onward | refine foldl_onward (fun _ _ _ => ?_) _ _ ?_
    | split | dsimp only

theorem State.dropAll_onward {s0 s : State} (hOn : Onward s0 s) : Onward s0 (s.dropAll) := by
  unfold State.dropAll
  repeat' first
    | with_reducible first
      | assumption | refine ite_onward ?_ ?_ | apply State.collsFenced_onward | apply State.loseFrame_onward
      | apply State.modMod_onward | apply State.modSh_onward | refine foldl_onward (fun _ _ _ => ?_) _ _ ?_
      | refine foldl_onward_fst (fun _ _ _ => ?_) _ _ ?_
    | exact fun _ => ⟨rfl, rfl⟩ | split | dsimp only

theorem State.fenceOn_onward {s0 s : State} (hOn : Onward s0 s) : Onward s0 (s.fenceOn) := by
  unfold State.fenceOn
  repeat' first
    | with_reducible first
      | assumption | refine ite_onward ?_ ?_ | apply State.dropAll_onward
    | split | dsimp only

end Sys2Proof.Machine
end

