-- ==== Sys2Proof/Laws/Links.lean ====
section
/-! SUPPORT. What the operations of Machine/Links.lean never take back (`Onward`), once for each. -/

set_option linter.all false
set_option Elab.async false

namespace Sys2Proof.Machine

theorem State.setPort_onward {s0 s : State} (p : Part) (n : Nat) (q : Port) (hOn : Onward s0 s) :
    Onward s0 (s.setPort p n q) := by
  unfold State.setPort
  repeat' first
    | with_reducible first
      | assumption | refine ite_onward ?_ ?_ | apply State.modSh_onward
    | split | dsimp only

theorem State.setLane_onward {s0 s : State} (p : Part) (n : Nat) (l : Lane) (hOn : Onward s0 s) :
    Onward s0 (s.setLane p n l) := by
  unfold State.setLane
  repeat' first
    | with_reducible first
      | assumption | refine ite_onward ?_ ?_ | apply State.modSh_onward
    | split | dsimp only

theorem State.setTx_onward {s0 s : State} (p : Part) (n : Nat) (t : TxPort) (hOn : Onward s0 s) :
    Onward s0 (s.setTx p n t) := by
  unfold State.setTx
  repeat' first
    | with_reducible first
      | assumption | refine ite_onward ?_ ?_ | apply State.modSh_onward
    | split | dsimp only

theorem State.modPort_onward {s0 s : State} (p : Part) (n : Nat) (f : Port → Port) (hOn : Onward s0 s) :
    Onward s0 (s.modPort p n f) := by
  unfold State.modPort
  repeat' first
    | with_reducible first
      | assumption | refine ite_onward ?_ ?_ | apply State.setPort_onward
    | split | dsimp only

theorem State.modLane_onward {s0 s : State} (p : Part) (n : Nat) (f : Lane → Lane) (hOn : Onward s0 s) :
    Onward s0 (s.modLane p n f) := by
  unfold State.modLane
  repeat' first
    | with_reducible first
      | assumption | refine ite_onward ?_ ?_ | apply State.setLane_onward
    | split | dsimp only

theorem State.modLanes_onward {s0 s : State} (p : Part) (n set : Nat) (f : Lane → Lane) (hOn : Onward s0 s) :
    Onward s0 (s.modLanes p n set f) := by
  unfold State.modLanes
  repeat' first
    | with_reducible first
      | assumption | refine ite_onward ?_ ?_ | apply State.modLane_onward
      | refine foldl_onward (fun _ _ _ => ?_) _ _ ?_
    | split | dsimp only

theorem State.planeOut_onward {s0 s : State} (pl : Nat) (hOn : Onward s0 s) : Onward s0 (s.planeOut pl) := by
  unfold State.planeOut
  repeat' first
    | with_reducible first
      | assumption | refine ite_onward ?_ ?_ | apply State.modEp_onward | apply State.jobNotice_onward
      | apply State.collPlaneLost_onward | apply State.endReq_onward | refine foldl_onward (fun _ _ _ => ?_) _ _ ?_
    | split | dsimp only

theorem State.replane_onward {s0 s : State} (pl : Nat) (hOn : Onward s0 s) : Onward s0 (s.replane pl) := by
  unfold State.replane
  repeat' first
    | with_reducible first
      | assumption | refine ite_onward ?_ ?_ | apply State.retransmitReq_onward
      | refine foldl_onward (fun _ _ _ => ?_) _ _ ?_
    | split | dsimp only

theorem State.planeIn_onward {s0 s : State} (pl : Nat) (hOn : Onward s0 s) : Onward s0 (s.planeIn pl) := by
  unfold State.planeIn
  repeat' first
    | with_reducible first
      | assumption | refine ite_onward ?_ ?_ | apply State.modEp_onward | apply State.jobNotice_onward
    | split | dsimp only

theorem State.planeVerdict_onward {s0 s : State} (pl : Nat) (hOn : Onward s0 s) : Onward s0 (s.planeVerdict pl) := by
  unfold State.planeVerdict
  repeat' first
    | with_reducible first
      | assumption | refine ite_onward ?_ ?_ | apply State.planeOut_onward | apply State.jobNotice_onward
    | split | dsimp only

theorem State.toDetect_onward {s0 s : State} (p : Part) (n : Nat) (hOn : Onward s0 s) :
    Onward s0 (s.toDetect p n) := by
  unfold State.toDetect
  repeat' first
    | with_reducible first
      | assumption | refine ite_onward ?_ ?_ | apply State.modLane_onward | apply State.modPort_onward
      | refine foldl_onward (fun _ _ _ => ?_) _ _ ?_
    | split | dsimp only

theorem State.goDown_onward {s0 s : State} (p : Part) (n : Nat) (hOn : Onward s0 s) : Onward s0 (s.goDown p n) := by
  unfold State.goDown
  repeat' first
    | with_reducible first
      | assumption | refine ite_onward ?_ ?_ | apply State.count_onward | apply State.toDetect_onward
      | apply State.modEp_onward | apply State.planeOut_onward | apply State.report_onward
      | apply State.takeFrame_onward | apply State.portCount_onward | apply State.traceFrame_onward
      | apply State.copiesPortDown_onward | refine foldl_onward (fun _ _ _ => ?_) _ _ ?_
    | split | dsimp only

theorem State.degraded_onward {s0 s : State} (hOn : Onward s0 s) : Onward s0 (s.degraded) := by
  unfold State.degraded
  repeat' first
    | with_reducible first
      | assumption | refine ite_onward ?_ ?_ | apply State.planeOut_onward | apply State.planeIn_onward
      | refine foldl_onward (fun _ _ _ => ?_) _ _ ?_ | refine foldl_onward_fst (fun _ _ _ => ?_) _ _ ?_
    | split | dsimp only

theorem State.sendMarkers_onward {s0 s : State} (p : Part) (n : Nat) (hOn : Onward s0 s) :
    Onward s0 (s.sendMarkers p n) := by
  unfold State.sendMarkers
  repeat' first
    | with_reducible first
      | assumption | refine ite_onward ?_ ?_ | apply State.setTx_onward | apply State.emit_onward
    | split | dsimp only

theorem State.sendFiller_onward {s0 s : State} (p : Part) (n : Nat) (hOn : Onward s0 s) :
    Onward s0 (s.sendFiller p n) := by
  unfold State.sendFiller
  repeat' first
    | with_reducible first
      | assumption | refine ite_onward ?_ ?_ | apply State.setTx_onward | apply State.emit_onward
      | refine foldl_onward (fun _ _ _ => ?_) _ _ ?_
    | split | dsimp only

theorem State.passSlot_onward {s0 s : State} (p : Part) (n slot : Nat) (hOn : Onward s0 s) :
    Onward s0 (s.passSlot p n slot) := by
  unfold State.passSlot
  repeat' first
    | with_reducible first
      | assumption | refine ite_onward ?_ ?_ | apply State.sendFiller_onward | apply State.sendMarkers_onward
    | split | dsimp only

theorem State.putBlock_onward {s0 s : State} (p : Part) (n : Nat) (b : Block) (hOn : Onward s0 s) :
    Onward s0 (s.putBlock p n b).1 := by
  unfold State.putBlock
  repeat' first
    | with_reducible first
      | assumption | refine ite_onward ?_ ?_ | refine ite_onward_fst ?_ ?_ | refine ite_onward_snd ?_ ?_
      | apply State.passSlot_onward | apply State.setTx_onward
    | split | dsimp only

theorem State.catchUp_onward {s0 s : State} (p : Part) (n : Nat) (hOn : Onward s0 s) : Onward s0 (s.catchUp p n) := by
  unfold State.catchUp
  repeat' first
    | with_reducible first
      | assumption | refine ite_onward ?_ ?_ | apply State.setTx_onward
    | split | dsimp only

theorem State.putBlocks_onward {s0 s : State} (p : Part) (n : Nat) (l : List Block) (hOn : Onward s0 s) :
    Onward s0 (s.putBlocks p n l).1 := by
  unfold State.putBlocks
  repeat' first
    | with_reducible first
      | assumption | refine ite_onward ?_ ?_ | refine ite_onward_fst ?_ ?_ | refine ite_onward_snd ?_ ?_
      | apply State.putBlock_onward | apply State.catchUp_onward | refine foldl_onward (fun _ _ _ => ?_) _ _ ?_
      | refine foldl_onward_fst (fun _ _ _ => ?_) _ _ ?_
    | split | dsimp only

theorem State.slotCount_onward {s0 s : State} (p : Part) (n cls k : Nat) (hOn : Onward s0 s) :
    Onward s0 (s.slotCount p n cls k) := by
  unfold State.slotCount
  repeat' first
    | with_reducible first
      | assumption | refine ite_onward ?_ ?_ | apply State.count_onward
    | split | dsimp only

theorem State.padSlots_onward {s0 s : State} (p : Part) (n blocks : Nat) (hOn : Onward s0 s) :
    Onward s0 (s.padSlots p n blocks) := by
  unfold State.padSlots
  repeat' first
    | with_reducible first
      | assumption | refine ite_onward ?_ ?_ | apply State.slotCount_onward
    | split | dsimp only

theorem State.sendBlock_onward {s0 s : State} (p : Part) (n : Nat) (b : Block) (o : Out) (hOn : Onward s0 s) :
    Onward s0 (s.sendBlock p n b o) := by
  unfold State.sendBlock
  repeat' first
    | with_reducible first
      | assumption | refine ite_onward ?_ ?_ | apply State.padSlots_onward | apply State.putBlocks_onward
      | apply State.emit_onward
    | split | dsimp only

theorem State.frameOut_onward {s0 s : State} (p : Part) (n seq : Nat) (k : Packet) (hOn : Onward s0 s) :
    Onward s0 (s.frameOut p n seq k) := by
  unfold State.frameOut
  repeat' first
    | with_reducible first
      | assumption | refine ite_onward ?_ ?_ | apply State.putBlocks_onward | apply State.emit_onward
    | split | dsimp only

theorem State.newWidth_onward {s0 s : State} (p : Part) (n old : Nat) (hOn : Onward s0 s) :
    Onward s0 (s.newWidth p n old) := by
  unfold State.newWidth
  repeat' first
    | with_reducible first
      | assumption | refine ite_onward ?_ ?_ | apply State.setTx_onward
    | split | dsimp only

theorem State.portSlots_onward {s0 s : State} (p : Part) (n l cls : Nat) (hOn : Onward s0 s) :
    Onward s0 (s.portSlots p n l cls) := by
  unfold State.portSlots
  repeat' first
    | with_reducible first
      | assumption | refine ite_onward ?_ ?_ | apply State.slotCount_onward
    | split | dsimp only

theorem State.idleBlocks_onward {s0 s : State} (p : Part) (n : Nat) (hOn : Onward s0 s) :
    Onward s0 (s.idleBlocks p n) := by
  unfold State.idleBlocks
  repeat' first
    | with_reducible first
      | assumption | refine ite_onward ?_ ?_ | apply State.catchUp_onward | apply State.slotCount_onward
    | split | dsimp only

theorem State.idlePorts_onward {s0 s : State} (p : Part) (hOn : Onward s0 s) : Onward s0 (s.idlePorts p) := by
  unfold State.idlePorts
  repeat' first
    | with_reducible first
      | assumption | refine ite_onward ?_ ?_ | apply State.idleBlocks_onward
      | refine foldl_onward (fun _ _ _ => ?_) _ _ ?_ | refine foldl_onward_fst (fun _ _ _ => ?_) _ _ ?_
    | split | dsimp only

theorem State.acked_onward {s0 s : State} (p : Part) (n seq : Nat) (hOn : Onward s0 s) :
    Onward s0 (s.acked p n seq) := by
  unfold State.acked
  repeat' first
    | with_reducible first
      | assumption | refine ite_onward ?_ ?_ | apply State.setPort_onward
    | split | dsimp only

theorem State.resendFrames_onward {s0 s : State} (p : Part) (n : Nat) (hOn : Onward s0 s) :
    Onward s0 (s.resendFrames p n) := by
  unfold State.resendFrames
  repeat' first
    | with_reducible first
      | assumption | refine ite_onward ?_ ?_ | apply State.setPort_onward | apply State.portSlots_onward
      | apply State.frameOut_onward | refine foldl_onward (fun _ _ _ => ?_) _ _ ?_
    | split | dsimp only

theorem State.replayAll_onward {s0 s : State} (p : Part) (n : Nat) (hOn : Onward s0 s) :
    Onward s0 (s.replayAll p n) := by
  unfold State.replayAll
  repeat' first
    | with_reducible first
      | assumption | refine ite_onward ?_ ?_ | apply State.goDown_onward | apply State.setPort_onward
      | apply State.portCount_onward | apply State.resendFrames_onward
    | split | dsimp only

theorem State.linkAck_onward {s0 s : State} (p : Part) (n seq : Nat) (hOn : Onward s0 s) :
    Onward s0 (s.linkAck p n seq) := by
  unfold State.linkAck
  repeat' first
    | with_reducible first
      | assumption | refine ite_onward ?_ ?_ | apply State.acked_onward
    | split | dsimp only

theorem State.linkNak_onward {s0 s : State} (p : Part) (n seq : Nat) (hOn : Onward s0 s) :
    Onward s0 (s.linkNak p n seq) := by
  unfold State.linkNak
  repeat' first
    | with_reducible first
      | assumption | refine ite_onward ?_ ?_ | apply State.setPort_onward | apply State.portCount_onward
      | apply State.replayAll_onward
    | split | dsimp only

theorem State.replayTimer_onward {s0 s : State} (p : Part) (n : Nat) (hOn : Onward s0 s) :
    Onward s0 (s.replayTimer p n) := by
  unfold State.replayTimer
  repeat' first
    | with_reducible first
      | assumption | refine ite_onward ?_ ?_ | apply State.replayAll_onward
    | split | dsimp only

theorem State.codeword_onward {s0 s : State} (p : Part) (l cw wrong : Nat) (hOn : Onward s0 s) :
    Onward s0 (s.codeword p l cw wrong) := by
  unfold State.codeword
  repeat' first
    | with_reducible first
      | assumption | refine ite_onward ?_ ?_ | apply State.setLane_onward | apply State.count_onward
    | split | dsimp only

theorem State.takeLinkFrame_onward {s0 s : State} (p : Part) (n : Nat) (f : LinkFrame) (hOn : Onward s0 s) :
    Onward s0 (s.takeLinkFrame p n f) := by
  unfold State.takeLinkFrame
  repeat' first
    | with_reducible first
      | assumption | refine ite_onward ?_ ?_ | apply State.acked_onward | apply State.setPort_onward
      | apply State.portCount_onward | apply State.sendBlock_onward | apply State.enter_onward
      | apply State.modEp_onward | apply State.modPort_onward
    | split | dsimp only

theorem State.frameReceive_onward {s0 s : State} (p : Part) (n : Nat) (f : RawFrame) (hOn : Onward s0 s) :
    Onward s0 (s.frameReceive p n f) := by
  unfold State.frameReceive
  repeat' first
    | with_reducible first
      | assumption | refine ite_onward ?_ ?_ | apply State.codeword_onward | apply State.malformed_onward
      | apply State.count_onward | apply State.takeLinkFrame_onward | refine foldl_onward (fun _ _ _ => ?_) _ _ ?_
      | refine foldl_onward_fst (fun _ _ _ => ?_) _ _ ?_
    | split | dsimp only

theorem State.sendFrame_onward {s0 s : State} (p : Part) (n : Nat) (k : Packet) (hOn : Onward s0 s) :
    Onward s0 (s.sendFrame p n k) := by
  unfold State.sendFrame
  repeat' first
    | with_reducible first
      | assumption | refine ite_onward ?_ ?_ | apply State.setPort_onward | apply State.portCount_onward
      | apply State.portSlots_onward | apply State.frameOut_onward
    | split | dsimp only

theorem State.egress_onward {s0 : State} (p n : Nat) {s : State} (hOn : Onward s0 s) : Onward s0 (s.egress p n) := by
  induction n generalizing s with
  | zero => exact hOn
  | succ n ih =>
    unfold State.egress
    repeat' first
      | with_reducible first
        | assumption | apply ih | apply State.dropFrame_onward | apply State.traceFrame_onward | apply State.sendFrame_onward
        | apply State.usageCount_onward | apply State.partCount_onward | apply State.modPort_onward | apply State.takeFrame_onward
      | split | dsimp only

theorem State.setRole_onward {s0 s : State} (p : Part) (n role : Nat) (hOn : Onward s0 s) :
    Onward s0 (s.setRole p n role) := by
  unfold State.setRole
  repeat' first
    | with_reducible first
      | assumption | refine ite_onward ?_ ?_ | apply State.modLane_onward | apply State.setPort_onward
      | apply State.modPort_onward | apply State.toDetect_onward | refine foldl_onward (fun _ _ _ => ?_) _ _ ?_
    | split | dsimp only

theorem State.rolesApply_onward {s0 s : State} (hOn : Onward s0 s) : Onward s0 (s.rolesApply) := by
  unfold State.rolesApply
  repeat' first
    | with_reducible first
      | assumption | refine ite_onward ?_ ?_ | apply State.setRole_onward
      | refine foldl_onward (fun _ _ _ => ?_) _ _ ?_
    | split | dsimp only

theorem State.portsLeaveOff_onward {s0 s : State} (hOn : Onward s0 s) : Onward s0 (s.portsLeaveOff) := by
  unfold State.portsLeaveOff
  repeat' first
    | with_reducible first
      | assumption | refine ite_onward ?_ ?_ | apply State.rolesApply_onward | apply State.toDetect_onward
      | refine foldl_onward (fun _ _ _ => ?_) _ _ ?_ | refine foldl_onward_fst (fun _ _ _ => ?_) _ _ ?_
    | split | dsimp only

theorem State.portStep_onward {s0 s : State} (p : Part) (n state : Nat) (hOn : Onward s0 s) :
    Onward s0 (s.portStep p n state) := by
  unfold State.portStep
  repeat' first
    | with_reducible first
      | assumption | refine ite_onward ?_ ?_ | apply State.modLane_onward | apply State.modPort_onward
      | refine foldl_onward (fun _ _ _ => ?_) _ _ ?_
    | split | dsimp only

theorem State.tryTrain_onward {s0 s : State} (p : Part) (n : Nat) (hOn : Onward s0 s) :
    Onward s0 (s.tryTrain p n) := by
  unfold State.tryTrain
  repeat' first
    | with_reducible first
      | assumption | refine ite_onward ?_ ?_ | apply State.portStep_onward
    | split | dsimp only

theorem State.tryBitLock_onward {s0 s : State} (p : Part) (n : Nat) (hOn : Onward s0 s) :
    Onward s0 (s.tryBitLock p n) := by
  unfold State.tryBitLock
  repeat' first
    | with_reducible first
      | assumption | refine ite_onward ?_ ?_ | apply State.portStep_onward
    | split | dsimp only

theorem State.laneAlone_onward {s0 s : State} (p : Part) (l : Nat) (hOn : Onward s0 s) :
    Onward s0 (s.laneAlone p l) := by
  unfold State.laneAlone
  repeat' first
    | with_reducible first
      | assumption | refine ite_onward ?_ ?_ | apply State.setLane_onward
    | split | dsimp only

theorem State.trainFrame_onward {s0 s : State} (p : Part) (l word crc : Nat) (adapted : Bool) (prbsErrors : Nat) (hOn : Onward s0 s) :
    Onward s0 (s.trainFrame p l word crc adapted prbsErrors) := by
  unfold State.trainFrame
  repeat' first
    | with_reducible first
      | assumption | refine ite_onward ?_ ?_ | apply State.count_onward | apply State.setLane_onward
      | apply State.emit_onward | apply State.tryTrain_onward | apply State.laneAlone_onward
      | apply State.tryBitLock_onward
    | split | dsimp only

theorem State.detectBurst_onward {s0 s : State} (p : Part) (l : Nat) (hOn : Onward s0 s) :
    Onward s0 (s.detectBurst p l) := by
  unfold State.detectBurst
  repeat' first
    | with_reducible first
      | assumption | refine ite_onward ?_ ?_ | apply State.setLane_onward | apply State.emit_onward
    | split | dsimp only

theorem State.countdownEnd_onward {s0 s : State} (p : Part) (l : Nat) (hOn : Onward s0 s) :
    Onward s0 (s.countdownEnd p l) := by
  unfold State.countdownEnd
  repeat' first
    | with_reducible first
      | assumption | refine ite_onward ?_ ?_ | apply State.count_onward | apply State.setLane_onward
      | apply State.emit_onward | apply State.modPort_onward | apply State.setTx_onward
    | split | dsimp only

theorem State.blockLock_onward {s0 s : State} (p : Part) (l : Nat) (headers : List Nat) (hOn : Onward s0 s) :
    Onward s0 (s.blockLock p l headers) := by
  unfold State.blockLock
  repeat' first
    | with_reducible first
      | assumption | refine ite_onward ?_ ?_ | apply State.setLane_onward | apply State.modLane_onward
      | apply State.modPort_onward | refine foldl_onward (fun _ _ _ => ?_) _ _ ?_
    | split | dsimp only

theorem State.toActive_onward {s0 s : State} (p : Part) (n : Nat) (c : Capability) (hOn : Onward s0 s) :
    Onward s0 (s.toActive p n c) := by
  unfold State.toActive
  repeat' first
    | with_reducible first
      | assumption | refine ite_onward ?_ ?_ | apply State.modPort_onward | apply State.modLanes_onward
      | apply State.newWidth_onward | apply State.degraded_onward
    | split | dsimp only

theorem State.tryActive_onward {s0 s : State} (p : Part) (n : Nat) (hOn : Onward s0 s) :
    Onward s0 (s.tryActive p n) := by
  unfold State.tryActive
  repeat' first
    | with_reducible first
      | assumption | refine ite_onward ?_ ?_ | apply State.toActive_onward
    | split | dsimp only

theorem State.sendCapability_onward {s0 s : State} (p : Part) (n : Nat) (hOn : Onward s0 s) :
    Onward s0 (s.sendCapability p n) := by
  unfold State.sendCapability
  repeat' first
    | with_reducible first
      | assumption | refine ite_onward ?_ ?_ | apply State.modPort_onward | apply State.sendBlock_onward
      | apply State.tryActive_onward
    | split | dsimp only

theorem State.deskewed_onward {s0 s : State} (p : Part) (n set : Nat) (hOn : Onward s0 s) :
    Onward s0 (s.deskewed p n set) := by
  unfold State.deskewed
  repeat' first
    | with_reducible first
      | assumption | refine ite_onward ?_ ?_ | apply State.modLanes_onward | apply State.modPort_onward
      | apply State.sendCapability_onward
    | split | dsimp only

theorem State.marker_onward {s0 s : State} (p : Part) (n : Nat) (marks : List MarkRx) (hOn : Onward s0 s) :
    Onward s0 (s.marker p n marks) := by
  unfold State.marker
  repeat' first
    | with_reducible first
      | assumption | refine ite_onward ?_ ?_ | apply State.blockLock_onward | apply State.setPort_onward
      | apply State.count_onward | apply State.deskewed_onward | apply State.modLane_onward
      | refine foldl_onward (fun _ _ _ => ?_) _ _ ?_
    | split | dsimp only

theorem State.capReceive_onward {s0 s : State} (p : Part) (n : Nat) (c : Capability) (hOn : Onward s0 s) :
    Onward s0 (s.capReceive p n c) := by
  unfold State.capReceive
  repeat' first
    | with_reducible first
      | assumption | refine ite_onward ?_ ?_ | apply State.setPort_onward | apply State.logEvent_onward
      | apply State.sendCapability_onward | apply State.tryActive_onward
    | split | dsimp only

theorem State.trainTimeout_onward {s0 s : State} (p : Part) (n : Nat) (hOn : Onward s0 s) :
    Onward s0 (s.trainTimeout p n) := by
  unfold State.trainTimeout
  repeat' first
    | with_reducible first
      | assumption | refine ite_onward ?_ ?_ | apply State.deskewed_onward | apply State.portCount_onward
      | apply State.toDetect_onward
    | split | dsimp only

theorem State.sendWidth_onward {s0 s : State} (p : Part) (n : Nat) (hOn : Onward s0 s) :
    Onward s0 (s.sendWidth p n) := by
  unfold State.sendWidth
  repeat' first
    | with_reducible first
      | assumption | refine ite_onward ?_ ?_ | apply State.modPort_onward | apply State.padSlots_onward
      | apply State.putBlocks_onward | apply State.emit_onward
    | split | dsimp only

theorem State.widthStart_onward {s0 s : State} (p : Part) (n mine reason : Nat) (hOn : Onward s0 s) :
    Onward s0 (s.widthStart p n mine reason) := by
  unfold State.widthStart
  repeat' first
    | with_reducible first
      | assumption | refine ite_onward ?_ ?_ | apply State.modPort_onward | apply State.sendWidth_onward
    | split | dsimp only

theorem State.widthReceive_onward {s0 s : State} (p : Part) (n : Nat) (b : WidthBlock) (hOn : Onward s0 s) :
    Onward s0 (s.widthReceive p n b) := by
  unfold State.widthReceive
  repeat' first
    | with_reducible first
      | assumption | refine ite_onward ?_ ?_ | apply State.goDown_onward | apply State.setPort_onward
      | apply State.sendWidth_onward
    | split | dsimp only

theorem State.widthDone_onward {s0 s : State} (p : Part) (n agreed : Nat) (hOn : Onward s0 s) :
    Onward s0 (s.widthDone p n agreed) := by
  unfold State.widthDone
  repeat' first
    | with_reducible first
      | assumption | refine ite_onward ?_ ?_ | apply State.modPort_onward | apply State.modLane_onward
      | apply State.degraded_onward | refine foldl_onward (fun _ _ _ => ?_) _ _ ?_
    | split | dsimp only

theorem State.widthSwitch_onward {s0 s : State} (p : Part) (n : Nat) (rx : Bool) (count : Nat) (hOn : Onward s0 s) :
    Onward s0 (s.widthSwitch p n rx count) := by
  unfold State.widthSwitch
  repeat' first
    | with_reducible first
      | assumption | refine ite_onward ?_ ?_ | apply State.modPort_onward | apply State.widthDone_onward
      | apply State.newWidth_onward | apply State.resendFrames_onward
    | split | dsimp only

theorem State.laneRestore_onward {s0 s : State} (p : Part) (l : Nat) (hOn : Onward s0 s) :
    Onward s0 (s.laneRestore p l) := by
  unfold State.laneRestore
  repeat' first
    | with_reducible first
      | assumption | refine ite_onward ?_ ?_ | apply State.blockLock_onward | apply State.widthStart_onward
    | split | dsimp only

theorem State.sendDue_onward {s0 s : State} (p : Part) (n : Nat) (hOn : Onward s0 s) : Onward s0 (s.sendDue p n) := by
  unfold State.sendDue
  repeat' first
    | with_reducible first
      | assumption | refine ite_onward ?_ ?_ | apply State.passSlot_onward | apply State.sendCapability_onward
      | apply State.sendWidth_onward
    | split | dsimp only

theorem State.sendNext_onward {s0 s : State} (p : Part) (n : Nat) (hOn : Onward s0 s) :
    Onward s0 (s.sendNext p n) := by
  unfold State.sendNext
  repeat' first
    | with_reducible first
      | assumption | refine ite_onward ?_ ?_ | apply State.egress_onward | apply State.setPort_onward
      | apply State.sendFrame_onward
    | split | dsimp only

theorem State.transmit_onward {s0 s : State} (p : Part) (n : Nat) (hOn : Onward s0 s) :
    Onward s0 (s.transmit p n) := by
  unfold State.transmit
  repeat' first
    | with_reducible first
      | assumption | refine ite_onward ?_ ?_ | apply State.sendDue_onward | apply State.sendNext_onward
    | split | dsimp only

theorem State.laneFailure_onward {s0 s : State} (p : Part) (l codewords : Nat) (signal : Bool) (hOn : Onward s0 s) :
    Onward s0 (s.laneFailure p l codewords signal) := by
  unfold State.laneFailure
  repeat' first
    | with_reducible first
      | assumption | refine ite_onward ?_ ?_ | apply State.modLane_onward | apply State.count_onward
      | apply State.goDown_onward | apply State.widthStart_onward
    | split | dsimp only

theorem State.portDownCause_onward {s0 s : State} (p : Part) (n cause : Nat) (hOn : Onward s0 s) :
    Onward s0 (s.portDownCause p n cause) := by
  unfold State.portDownCause
  repeat' first
    | with_reducible first
      | assumption | refine ite_onward ?_ ?_ | apply State.replayTimer_onward | apply State.goDown_onward
    | split | dsimp only

theorem State.rolesWrite_onward {s0 s : State} (val : List Byte) (hOn : Onward s0 s) :
    Onward s0 (s.rolesWrite val).2 := by
  unfold State.rolesWrite
  repeat' first
    | with_reducible first
      | assumption | refine ite_onward ?_ ?_ | refine ite_onward_snd ?_ ?_ | apply State.setReg_onward
      | apply State.rolesApply_onward
    | split | dsimp only

theorem State.widthWrite_onward {s0 s : State} (p : Part) (n v : Nat) (hOn : Onward s0 s) :
    Onward s0 (s.widthWrite p n v).2 := by
  unfold State.widthWrite
  repeat' first
    | with_reducible first
      | assumption | refine ite_onward ?_ ?_ | refine ite_onward_snd ?_ ?_ | apply State.setRole_onward
      | apply State.modLane_onward | apply State.modSh_onward | apply State.setReg_onward
      | apply State.toDetect_onward | refine foldl_onward (fun _ _ _ => ?_) _ _ ?_
      | refine foldl_onward_fst (fun _ _ _ => ?_) _ _ ?_
    | split | dsimp only

theorem State.clockingWrite_onward {s0 s : State} (p : Part) (n v : Nat) (hOn : Onward s0 s) :
    Onward s0 (s.clockingWrite p n v).2 := by
  unfold State.clockingWrite
  repeat' first
    | with_reducible first
      | assumption | refine ite_onward ?_ ?_ | refine ite_onward_snd ?_ ?_ | apply State.modSh_onward
      | apply State.setReg_onward
    | split | dsimp only

theorem State.eyeStart_onward {s0 s : State} (p : Part) (l : Nat) (val : List Byte) (hOn : Onward s0 s) :
    Onward s0 (s.eyeStart p l val).2 := by
  unfold State.eyeStart
  repeat' first
    | with_reducible first
      | assumption | refine ite_onward ?_ ?_ | refine ite_onward_snd ?_ ?_ | apply State.modLane_onward
    | split | dsimp only

theorem State.eyeDone_onward {s0 s : State} (p : Part) (l : Nat) (grid : List Byte) (hOn : Onward s0 s) :
    Onward s0 (s.eyeDone p l grid) := by
  unfold State.eyeDone
  repeat' first
    | with_reducible first
      | assumption | refine ite_onward ?_ ?_ | apply State.modLane_onward
    | split | dsimp only

theorem State.barrierRelease_onward {s0 s : State} (b : BarrierRel) (hOn : Onward s0 s) :
    Onward s0 (s.barrierRelease b) := by
  unfold State.barrierRelease
  repeat' first
    | with_reducible first
      | assumption | refine ite_onward ?_ ?_ | apply State.collRelease_onward | apply State.modEp_onward
    | split | dsimp only

theorem State.setQp_onward {s0 s : State} (n : Nat) (q : QPair) (hOn : Onward s0 s) : Onward s0 (s.setQp n q) := by
  unfold State.setQp
  repeat' first
    | with_reducible first
      | assumption | refine ite_onward ?_ ?_ | apply State.modMod_onward
    | exact fun _ => ⟨rfl, rfl⟩ | split | dsimp only

theorem State.qpWrite_onward {s0 s : State} (n : Nat) (val : List Byte) (hOn : Onward s0 s) :
    Onward s0 (s.qpWrite n val).2 := by
  unfold State.qpWrite
  repeat' first
    | with_reducible first
      | assumption | refine ite_onward ?_ ?_ | refine ite_onward_snd ?_ ?_ | apply State.setQp_onward
    | split | dsimp only

theorem State.qpsTorn_onward {s0 s : State} (job : Nat) (hOn : Onward s0 s) : Onward s0 (s.qpsTorn job) := by
  unfold State.qpsTorn
  repeat' first
    | with_reducible first
      | assumption | refine ite_onward ?_ ?_ | apply State.modMod_onward
    | exact fun _ => ⟨rfl, rfl⟩ | split | dsimp only

theorem State.roceEnd_onward {s0 s : State} (n result : Nat) (data : List Byte) (hOn : Onward s0 s) :
    Onward s0 (s.roceEnd n result data) := by
  unfold State.roceEnd
  repeat' first
    | with_reducible first
      | assumption | refine ite_onward ?_ ?_ | apply State.emit_onward
    | split | dsimp only

theorem State.congestion_onward {s0 s : State} (n : Nat) (ce : Bool) (hOn : Onward s0 s) :
    Onward s0 (s.congestion n ce) := by
  unfold State.congestion
  repeat' first
    | with_reducible first
      | assumption | refine ite_onward ?_ ?_ | apply State.modMod_onward | apply State.emit_onward
    | exact fun _ => ⟨rfl, rfl⟩ | split | dsimp only

theorem State.roceCode_onward {s0 s : State} (n code : Nat) (data : List Byte) (hOn : Onward s0 s) :
    Onward s0 (s.roceCode n code data) := by
  unfold State.roceCode
  repeat' first
    | with_reducible first
      | assumption | refine ite_onward ?_ ?_ | apply State.roceEnd_onward | apply State.setQp_onward
    | split | dsimp only

theorem State.hostAdmit_onward {s0 s : State} (job off len want typ : Nat) (hOn : Onward s0 s) :
    Onward s0 (s.hostAdmit job off len want typ).1 := by
  unfold State.hostAdmit
  repeat' first
    | with_reducible first
      | assumption | refine ite_onward ?_ ?_ | refine ite_onward_fst ?_ ?_ | refine ite_onward_snd ?_ ?_
      | apply State.deny_onward | apply State.coCount_onward | apply State.partCount_onward
    | split | dsimp only

theorem State.hostMetaDeny_onward {s0 s : State} (n va typ : Nat) (hOn : Onward s0 s) :
    Onward s0 (s.hostMetaDeny n va typ) := by
  unfold State.hostMetaDeny
  repeat' first
    | with_reducible first
      | assumption | refine ite_onward ?_ ?_ | apply State.deny_onward | apply State.roceCode_onward
    | split | dsimp only

theorem State.hostRead_onward {s0 s : State} (n va loc len err : Nat) (hOn : Onward s0 s) :
    OnwardAns s0 (s.hostRead n va loc len err) := by
  unfold State.hostRead
  repeat' first
    | with_reducible first
      | assumption | refine ite_onward ?_ ?_ | apply State.readCheckAs_onward | apply State.roceCode_onward
      | apply State.hostMetaDeny_onward | apply State.readCheck_onward | refine onward_next ?_ | exact onward_fault _
    | split | dsimp only

theorem State.roceWrite_onward {s0 s : State} (n rkey va : Nat) (data : List Byte) (err : Nat) (hOn : Onward s0 s) :
    OnwardAns s0 (s.roceWrite n rkey va data err) := by
  unfold State.roceWrite
  repeat' first
    | with_reducible first
      | assumption | refine ite_onward ?_ ?_ | apply State.roceEnd_onward | apply State.modMod_onward
      | apply State.hostAdmit_onward | apply State.roceCode_onward | apply State.hostMetaDeny_onward
      | apply State.checkedWrite_onward | refine onward_next ?_ | exact onward_fault _
    | exact fun _ => ⟨rfl, rfl⟩ | split | dsimp only

theorem State.roceRead_onward {s0 s : State} (n rkey va len err : Nat) (hOn : Onward s0 s) :
    OnwardAns s0 (s.roceRead n rkey va len err) := by
  unfold State.roceRead
  repeat' first
    | with_reducible first
      | assumption | refine ite_onward ?_ ?_ | apply State.roceEnd_onward | apply State.hostAdmit_onward
      | apply State.roceCode_onward | refine onward_next ?_ | exact onward_fault _ | apply State.hostRead_onward
    | split | dsimp only

theorem State.roceAtomic_onward {s0 s : State} (n rkey va err : Nat) (f : Nat → Nat) (hOn : Onward s0 s) :
    OnwardAns s0 (s.roceAtomic n rkey va err f) := by
  unfold State.roceAtomic
  repeat' first
    | with_reducible first
      | assumption | refine ite_onward ?_ ?_ | apply State.roceEnd_onward | apply State.hostAdmit_onward
      | apply State.roceCode_onward | apply State.hostMetaDeny_onward | apply State.readCheck_onward
      | apply State.checkedWrite_onward | refine onward_next ?_ | exact onward_fault _
    | split | dsimp only

end Sys2Proof.Machine
end

