-- ==== Sys2Proof/Laws/RackTime.lean ====
section
/-! SUPPORT. What the operations of Machine/RackTime.lean never take back (`Onward`), once for each. -/

set_option linter.all false
set_option Elab.async false

namespace Sys2Proof.Machine

theorem State.idleLink_onward {s0 s : State} (since t plane d : Nat) (hOn : Onward s0 s) :
    Onward s0 (s.idleLink since t plane d) := by
  unfold State.idleLink
  repeat' first
    | with_reducible first
      | assumption | refine ite_onward ?_ ?_ | apply State.count_onward
    | split | dsimp only

theorem State.idleMesh_onward {s0 s : State} (since : Nat) (hOn : Onward s0 s) : Onward s0 (s.idleMesh since) := by
  unfold State.idleMesh
  repeat' first
    | with_reducible first
      | assumption | refine ite_onward ?_ ?_ | apply State.idleLink_onward
      | refine foldl_onward (fun _ _ _ => ?_) _ _ ?_
    | split | dsimp only

theorem State.mownEvent_onward {s0 s : State} (p : Part) (what cause : Nat) (hOn : Onward s0 s) :
    Onward s0 (s.mownEvent p what cause) := by
  unfold State.mownEvent
  repeat' first
    | with_reducible first
      | assumption | refine ite_onward ?_ ?_ | apply State.logEvent_onward
    | split | dsimp only

theorem State.leaveMown_onward {s0 s : State} (p : Part) (cause : Nat) (hOn : Onward s0 s) :
    Onward s0 (s.leaveMown p cause) := by
  unfold State.leaveMown
  repeat' first
    | with_reducible first
      | assumption | refine ite_onward ?_ ?_ | apply State.mownEvent_onward | apply State.modSh_onward
      | apply State.count_onward | apply State.mcOn_onward | apply State.collsOn_onward
    | split | dsimp only

theorem State.alignLost_onward {s0 s : State} (cause : Nat) (hOn : Onward s0 s) : Onward s0 (s.alignLost cause) := by
  unfold State.alignLost
  repeat' first
    | with_reducible first
      | assumption | refine ite_onward ?_ ?_ | apply State.modMod_onward | apply State.modSh_onward
      | apply State.leaveMown_onward
    | exact fun _ => ⟨rfl, rfl⟩ | split | dsimp only

theorem State.mownFallback_onward {s0 s : State} (i : Nat) (hOn : Onward s0 s) : Onward s0 (s.mownFallback i) := by
  unfold State.mownFallback
  repeat' first
    | with_reducible first
      | assumption | refine ite_onward ?_ ?_ | apply State.modSh_onward | apply State.mgCount_onward
      | apply State.mcOn_onward
    | split | dsimp only

theorem State.mownTileLost_onward {s0 s : State} (t : Nat) (hOn : Onward s0 s) : Onward s0 (s.mownTileLost t) := by
  unfold State.mownTileLost
  repeat' first
    | with_reducible first
      | assumption | refine ite_onward ?_ ?_ | apply State.mownFallback_onward
      | refine foldl_onward (fun _ _ _ => ?_) _ _ ?_ | refine foldl_onward_fst (fun _ _ _ => ?_) _ _ ?_
    | split | dsimp only

theorem State.modRt_onward {s0 s : State} (p : Part) (f : RackTime → RackTime) (hOn : Onward s0 s) :
    Onward s0 (s.modRt p f) := by
  unfold State.modRt
  repeat' first
    | with_reducible first
      | assumption | refine ite_onward ?_ ?_ | apply State.modSh_onward
    | split | dsimp only

theorem State.rtState_onward {s0 s : State} (p : Part) (st : Nat) (hOn : Onward s0 s) :
    Onward s0 (s.rtState p st) := by
  unfold State.rtState
  repeat' first
    | with_reducible first
      | assumption | refine ite_onward ?_ ?_ | apply State.modRt_onward | apply State.logEvent_onward
    | split | dsimp only

theorem State.trySwitch_onward {s0 s : State} (p : Part) (ok : TLane → Bool) (hOn : Onward s0 s) :
    Onward s0 (s.trySwitch p ok) := by
  unfold State.trySwitch
  repeat' first
    | with_reducible first
      | assumption | refine ite_onward ?_ ?_ | apply State.modRt_onward | apply State.bothCount_onward
    | split | dsimp only

theorem State.tick_onward {s0 s : State} (p : Part) (l : Nat) (epoch : Bool) (hOn : Onward s0 s) :
    Onward s0 (s.tick p l epoch) := by
  unfold State.tick
  repeat' first
    | with_reducible first
      | assumption | refine ite_onward ?_ ?_ | apply State.modRt_onward | apply State.setLane_onward
      | apply State.trySwitch_onward
    | split | dsimp only

theorem State.bothFail_onward {s0 s : State} (p : Part) (d : Int) (hOn : Onward s0 s) :
    Onward s0 (s.bothFail p d) := by
  unfold State.bothFail
  repeat' first
    | with_reducible first
      | assumption | refine ite_onward ?_ ?_ | apply State.modRt_onward
    | split | dsimp only

theorem State.timeSet_onward {s0 s : State} (p : Part) (l value : Nat) (ok : Bool) (hOn : Onward s0 s) :
    Onward s0 (s.timeSet p l value ok) := by
  unfold State.timeSet
  repeat' first
    | with_reducible first
      | assumption | refine ite_onward ?_ ?_ | apply State.count_onward | apply State.modRt_onward
      | apply State.setLane_onward | apply State.rtState_onward | apply State.trySwitch_onward
      | apply State.bothFail_onward
    | split | dsimp only

theorem State.unlock_onward {s0 s : State} (p : Part) (hOn : Onward s0 s) : Onward s0 (s.unlock p) := by
  unfold State.unlock
  repeat' first
    | with_reducible first
      | assumption | refine ite_onward ?_ ?_ | apply State.modSh_onward | apply State.alignLost_onward
      | apply State.leaveMown_onward
    | split | dsimp only

theorem State.laneSilent_onward {s0 s : State} (p : Part) (l : Nat) (hOn : Onward s0 s) :
    Onward s0 (s.laneSilent p l) := by
  unfold State.laneSilent
  repeat' first
    | with_reducible first
      | assumption | refine ite_onward ?_ ?_ | apply State.modRt_onward | apply State.setLane_onward
      | apply State.tick_onward | apply State.rtState_onward | apply State.unlock_onward
      | apply State.bothCount_onward
    | split | dsimp only

theorem State.holdoverLimit_onward {s0 s : State} (p : Part) (hOn : Onward s0 s) : Onward s0 (s.holdoverLimit p) := by
  unfold State.holdoverLimit
  repeat' first
    | with_reducible first
      | assumption | refine ite_onward ?_ ?_ | apply State.rtState_onward | apply State.bothCount_onward
    | split | dsimp only

theorem State.stepCounter_onward {s0 s : State} (p : Part) (d : Int) (hOn : Onward s0 s) :
    Onward s0 (s.stepCounter p d) := by
  unfold State.stepCounter
  repeat' first
    | with_reducible first
      | assumption | refine ite_onward ?_ ?_ | apply State.modRt_onward | apply State.leaveMown_onward
    | split | dsimp only

theorem State.mownWrite_onward {s0 s : State} (p : Part) (i : Nat) (val : List Byte) (hOn : Onward s0 s) :
    Onward s0 (s.mownWrite p i val).2 := by
  unfold State.mownWrite
  repeat' first
    | with_reducible first
      | assumption | refine ite_onward ?_ ?_ | refine ite_onward_snd ?_ ?_ | apply State.modSh_onward
    | split | dsimp only

theorem State.mownCompile_onward {s0 s : State} (i : Nat) (hOn : Onward s0 s) : Onward s0 (s.mownCompile i) := by
  unfold State.mownCompile
  repeat' first
    | with_reducible first
      | assumption | refine ite_onward ?_ ?_ | apply State.modSh_onward
    | split | dsimp only

theorem State.switchTimeWrite_onward {s0 s : State} (p : Part) (v : Nat) (hOn : Onward s0 s) :
    Onward s0 (s.switchTimeWrite p v).2 := by
  unfold State.switchTimeWrite
  repeat' first
    | with_reducible first
      | assumption | refine ite_onward ?_ ?_ | refine ite_onward_snd ?_ ?_ | apply State.setReg_onward
      | apply State.modSh_onward | apply State.bothCount_onward
    | split | dsimp only

theorem State.modeSwitch_onward {s0 s : State} (p : Part) (hOn : Onward s0 s) : Onward s0 (s.modeSwitch p) := by
  unfold State.modeSwitch
  repeat' first
    | with_reducible first
      | assumption | refine ite_onward ?_ ?_ | apply State.modSh_onward | apply State.leaveMown_onward
      | apply State.bothCount_onward | apply State.mownEvent_onward
    | split | dsimp only

theorem State.mownStart_onward {s0 s : State} (i : Nat) (hOn : Onward s0 s) : Onward s0 (s.mownStart i) := by
  unfold State.mownStart
  repeat' first
    | with_reducible first
      | assumption | refine ite_onward ?_ ?_ | apply State.modSh_onward | apply State.openSlot_onward
    | split | dsimp only

theorem State.mownSlot_onward {s0 s : State} (i k : Nat) (hOn : Onward s0 s) : Onward s0 (s.mownSlot i k) := by
  unfold State.mownSlot
  repeat' first
    | with_reducible first
      | assumption | refine ite_onward ?_ ?_ | apply State.modPiece_onward | apply State.sendRelease_onward
      | apply State.mcOn_onward | apply State.completePiece_onward
    | split | dsimp only

end Sys2Proof.Machine
end

