-- ==== Sys2Proof/Laws/Verdicts.lean ====
section
/-! SUPPORT. What the operations of Machine/Verdicts.lean never take back (`Onward`), once for each. -/

set_option linter.all false
set_option Elab.async false

namespace Sys2Proof.Machine

theorem State.vote_onward {s0 s : State} (part : Nat) (hOn : Onward s0 s) : Onward s0 (s.vote part) := by
  unfold State.vote
  repeat' first
    | with_reducible first
      | assumption | refine ite_onward ?_ ?_ | apply State.modVe_onward | apply State.sendV_onward
    | split | dsimp only

theorem State.suspect_onward {s0 s : State} (part : Nat) (hOn : Onward s0 s) : Onward s0 (s.suspect part) := by
  unfold State.suspect
  repeat' first
    | with_reducible first
      | assumption | refine ite_onward ?_ ?_ | apply State.mgCount_onward | apply State.modVe_onward
      | apply State.vote_onward
    | split | dsimp only

theorem State.voteRepeat_onward {s0 s : State} (part : Nat) (hOn : Onward s0 s) : Onward s0 (s.voteRepeat part) := by
  unfold State.voteRepeat
  repeat' first
    | with_reducible first
      | assumption | refine ite_onward ?_ ?_ | apply State.vote_onward
    | split | dsimp only

theorem State.hear_onward {s0 s : State} (part : Nat) (hOn : Onward s0 s) : Onward s0 (s.hear part) := by
  unfold State.hear
  repeat' first
    | with_reducible first
      | assumption | refine ite_onward ?_ ?_ | apply State.modVe_onward | apply State.sendV_onward
    | split | dsimp only

theorem State.heartbeat_onward {s0 s : State} (p : Part) (hOn : Onward s0 s) : Onward s0 (s.heartbeat p) := by
  unfold State.heartbeat
  repeat' first
    | with_reducible first
      | assumption | refine ite_onward ?_ ?_ | apply State.modSh_onward | apply State.sendV_onward
      | apply State.modVe_onward | refine foldl_onward (fun _ _ _ => ?_) _ _ ?_
    | split | dsimp only

theorem State.condemn_onward {s0 s : State} (part : Nat) (hOn : Onward s0 s) : Onward s0 (s.condemn part) := by
  unfold State.condemn
  repeat' first
    | with_reducible first
      | assumption | refine ite_onward ?_ ?_ | apply State.issueVerdict_onward
    | split | dsimp only

theorem State.relayV_onward {s0 s : State} (v : VMsg) (hOn : Onward s0 s) : Onward s0 (s.relayV v) := by
  unfold State.relayV
  repeat' first
    | with_reducible first
      | assumption | refine ite_onward ?_ ?_ | apply State.sendInBand_onward
      | refine foldl_onward (fun _ _ _ => ?_) _ _ ?_
    | split | dsimp only

theorem State.heartbeatIn_onward {s0 s : State} (v : VMsg) (hOn : Onward s0 s) : Onward s0 (s.heartbeatIn v) := by
  unfold State.heartbeatIn
  repeat' first
    | with_reducible first
      | assumption | refine ite_onward ?_ ?_ | apply State.hear_onward | apply State.modVe_onward
      | apply State.emit_onward
    | split | dsimp only

theorem State.verdictIn_onward {s0 s : State} (p : Part) (v : VMsg) (inBand : Bool) (hOn : Onward s0 s) :
    Onward s0 (s.verdictIn p v inBand) := by
  unfold State.verdictIn
  repeat' first
    | with_reducible first
      | assumption | refine ite_onward ?_ ?_ | apply State.dropFrame_onward | apply State.takeIn_onward
      | apply State.malformed_onward | apply State.mgCount_onward | apply State.relayV_onward
      | apply State.takeVerdict_onward | apply State.heartbeatIn_onward | apply State.modVe_onward
      | apply State.issueVerdict_onward
    | split | dsimp only

theorem State.takeTiming_onward {s0 s : State} (p : Part) (l : Nat) (m : TlMsg) (hOn : Onward s0 s) :
    Onward s0 (s.takeTiming p l m) := by
  unfold State.takeTiming
  repeat' first
    | with_reducible first
      | assumption | refine ite_onward ?_ ?_ | apply State.count_onward | apply State.mgCount_onward
      | apply State.modSh_onward | apply State.verdictIn_onward | apply State.barrierRelease_onward
    | split | dsimp only

theorem State.setTiming_onward {s0 s : State} (p : Part) (l : Nat) (t : TlPart) (hOn : Onward s0 s) :
    Onward s0 (s.setTiming p l t) := by
  unfold State.setTiming
  repeat' first
    | with_reducible first
      | assumption | refine ite_onward ?_ ?_ | apply State.modSh_onward
    | split | dsimp only

theorem State.timingIn_onward {s0 s : State} (p : Part) (l : Nat) (chars : List TlChar) (hOn : Onward s0 s) :
    Onward s0 (s.timingIn p l chars) := by
  unfold State.timingIn
  repeat' first
    | with_reducible first
      | assumption | refine ite_onward ?_ ?_ | apply State.setTiming_onward | apply State.count_onward
      | apply State.takeTiming_onward | refine foldl_onward (fun _ _ _ => ?_) _ _ ?_
    | split | dsimp only

theorem State.abortMessage_onward {s0 s : State} (p : Part) (l : Nat) (hOn : Onward s0 s) :
    Onward s0 (s.abortMessage p l) := by
  unfold State.abortMessage
  repeat' first
    | with_reducible first
      | assumption | refine ite_onward ?_ ?_ | apply State.setTiming_onward
    | split | dsimp only

theorem State.modRoute_onward {s0 s : State} (node : Nat) (f : Route → Route) (hOn : Onward s0 s) :
    Onward s0 (s.modRoute node f) := by
  unfold State.modRoute
  repeat' first
    | with_reducible first
      | assumption | refine ite_onward ?_ ?_ | apply State.modMod_onward
    | exact fun _ => ⟨rfl, rfl⟩ | split | dsimp only

theorem State.unfence_onward {s0 s : State} (hOn : Onward s0 s) : Onward s0 (s.unfence) := by
  unfold State.unfence
  repeat' first
    | with_reducible first
      | assumption | refine ite_onward ?_ ?_ | apply State.modVe_onward | apply State.rolesApply_onward
      | apply State.regionsRejoin_onward
    | split | dsimp only

theorem State.fenceSelf_onward {s0 s : State} (hOn : Onward s0 s) : Onward s0 (s.fenceSelf) := by
  unfold State.fenceSelf
  repeat' first
    | with_reducible first
      | assumption | refine ite_onward ?_ ?_ | apply State.modVe_onward | apply State.stopPorts_onward
      | apply State.fenceOn_onward
    | split | dsimp only

theorem State.applyMod_onward {s0 s : State} (v : VMsg) (hOn : Onward s0 s) : Onward s0 (s.applyMod v) := by
  unfold State.applyMod
  repeat' first
    | with_reducible first
      | assumption | refine ite_onward ?_ ?_ | apply State.modSh_onward | apply State.modRoute_onward
      | apply State.modVe_onward | apply State.fenceSelf_onward | apply State.unfence_onward
      | apply State.modMod_onward | apply State.modRecv_onward
    | exact fun _ => ⟨rfl, rfl⟩ | split | dsimp only

theorem State.poisonNode_onward {s0 s : State} (node : Nat) (hOn : Onward s0 s) : Onward s0 (s.poisonNode node) := by
  unfold State.poisonNode
  repeat' first
    | with_reducible first
      | assumption | refine ite_onward ?_ ?_ | apply State.endReq_onward
      | refine foldl_onward (fun _ _ _ => ?_) _ _ ?_
    | split | dsimp only

theorem State.dieSelf_onward {s0 s : State} (hOn : Onward s0 s) : Onward s0 (s.dieSelf) := by
  unfold State.dieSelf
  repeat' first
    | with_reducible first
      | assumption | refine ite_onward ?_ ?_ | apply State.modEp_onward | apply State.endReq_onward
      | refine foldl_onward (fun _ _ _ => ?_) _ _ ?_
    | split | dsimp only

theorem State.exclude_onward {s0 s : State} (node plane : Nat) (hOn : Onward s0 s) :
    Onward s0 (s.exclude node plane) := by
  unfold State.exclude
  repeat' first
    | with_reducible first
      | assumption | refine ite_onward ?_ ?_ | apply State.epCount_onward | apply State.modEp_onward
      | apply State.jobNotice_onward
    | split | dsimp only

theorem State.unexclude_onward {s0 s : State} (node plane : Nat) (hOn : Onward s0 s) :
    Onward s0 (s.unexclude node plane) := by
  unfold State.unexclude
  repeat' first
    | with_reducible first
      | assumption | refine ite_onward ?_ ?_ | apply State.modEp_onward | apply State.jobNotice_onward
    | split | dsimp only

theorem State.applyEp_onward {s0 s : State} (v : VMsg) (hOn : Onward s0 s) : Onward s0 (s.applyEp v) := by
  unfold State.applyEp
  repeat' first
    | with_reducible first
      | assumption | refine ite_onward ?_ ?_ | apply State.modSh_onward | apply State.unexclude_onward
      | apply State.dieSelf_onward | apply State.poisonNode_onward | apply State.planeVerdict_onward
      | apply State.replane_onward | apply State.exclude_onward | apply State.modEp_onward
      | apply State.planeIn_onward | apply State.report_onward | apply State.restartPair_onward
      | refine foldl_onward (fun _ _ _ => ?_) _ _ ?_ | refine foldl_onward_fst (fun _ _ _ => ?_) _ _ ?_
    | split | dsimp only

theorem State.applyVerdict_onward {s0 s : State} (p : Part) (number : Nat) (hOn : Onward s0 s) :
    Onward s0 (s.applyVerdict p number) := by
  unfold State.applyVerdict
  repeat' first
    | with_reducible first
      | assumption | refine ite_onward ?_ ?_ | apply State.modSh_onward | apply State.logEvent_onward
      | apply State.applyEp_onward | apply State.applyMod_onward
    | split | dsimp only

theorem State.portFailed_onward {s0 s : State} (node : Nat) (hOn : Onward s0 s) : Onward s0 (s.portFailed node) := by
  unfold State.portFailed
  repeat' first
    | with_reducible first
      | assumption | refine ite_onward ?_ ?_ | apply State.issueVerdict_onward
    | split | dsimp only

theorem State.portRestored_onward {s0 s : State} (node : Nat) (hOn : Onward s0 s) :
    Onward s0 (s.portRestored node) := by
  unfold State.portRestored
  repeat' first
    | with_reducible first
      | assumption | refine ite_onward ?_ ?_ | apply State.issueVerdict_onward
    | split | dsimp only

theorem State.quorumLoss_onward {s0 s : State} (hOn : Onward s0 s) : Onward s0 (s.quorumLoss) := by
  unfold State.quorumLoss
  repeat' first
    | with_reducible first
      | assumption | refine ite_onward ?_ ?_ | apply State.selfFence_onward | apply State.fenceOn_onward
    | split | dsimp only

theorem State.rebindRequest_onward {s0 s : State} (val : List Byte) (hOn : Onward s0 s) :
    Onward s0 (s.rebindRequest val).2 := by
  unfold State.rebindRequest
  repeat' first
    | with_reducible first
      | assumption | refine ite_onward ?_ ?_ | refine ite_onward_snd ?_ ?_ | apply State.modVe_onward
    | split | dsimp only

theorem State.restoreRequest_onward {s0 s : State} (val : List Byte) (hOn : Onward s0 s) :
    Onward s0 (s.restoreRequest val).2 := by
  unfold State.restoreRequest
  repeat' first
    | with_reducible first
      | assumption | refine ite_onward ?_ ?_ | refine ite_onward_snd ?_ ?_ | apply State.modVe_onward
    | split | dsimp only

theorem State.verdictIssue_onward {s0 s : State} (vkind node plane : Nat) (ready : Bool) (hOn : Onward s0 s) :
    Onward s0 (s.verdictIssue vkind node plane ready) := by
  unfold State.verdictIssue
  repeat' first
    | with_reducible first
      | assumption | refine ite_onward ?_ ?_ | apply State.condemn_onward | apply State.portFailed_onward
      | apply State.portRestored_onward | apply State.issueVerdict_onward
    | split | dsimp only

theorem State.tileClean_onward {s0 s : State} (t : Nat) (hOn : Onward s0 s) : Onward s0 (s.tileClean t) := by
  unfold State.tileClean
  repeat' first
    | with_reducible first
      | assumption | refine ite_onward ?_ ?_ | apply State.goDown_onward | apply State.modPort_onward
      | apply State.dropFrame_onward | apply State.mownTileLost_onward | apply State.report_onward
      | apply State.selfFence_onward | apply State.fenceOn_onward | refine foldl_onward (fun _ _ _ => ?_) _ _ ?_
    | split | dsimp only

theorem State.tileOut_onward {s0 s : State} (t : Nat) (hOn : Onward s0 s) : Onward s0 (s.tileOut t) := by
  unfold State.tileOut
  repeat' first
    | with_reducible first
      | assumption | refine ite_onward ?_ ?_ | apply State.modTile_onward | apply State.tileClean_onward
    | split | dsimp only

theorem State.engineOut_onward {s0 s : State} (e : Nat) (hOn : Onward s0 s) : Onward s0 (s.engineOut e) := by
  unfold State.engineOut
  repeat' first
    | with_reducible first
      | assumption | refine ite_onward ?_ ?_ | apply State.mownFallback_onward | apply State.modMod_onward
      | refine foldl_onward (fun _ _ _ => ?_) _ _ ?_ | refine foldl_onward_fst (fun _ _ _ => ?_) _ _ ?_
    | exact fun _ => ⟨rfl, rfl⟩ | split | dsimp only

theorem State.coreStop_onward {s0 s : State} (pair : Nat) (hOn : Onward s0 s) : Onward s0 (s.coreStop pair) := by
  unfold State.coreStop
  repeat' first
    | with_reducible first
      | assumption | refine ite_onward ?_ ?_ | apply State.modMod_onward | apply State.modSh_onward
      | apply State.logEvent_onward | apply State.report_onward | apply State.selfFence_onward
      | apply State.fenceOn_onward
    | exact fun _ => ⟨rfl, rfl⟩ | split | dsimp only

theorem State.engineWatchdog_onward {s0 s : State} (hOn : Onward s0 s) : Onward s0 (s.engineWatchdog) := by
  unfold State.engineWatchdog
  repeat' first
    | with_reducible first
      | assumption | refine ite_onward ?_ ?_ | apply State.modVe_onward | apply State.stopPorts_onward
      | apply State.fenceOn_onward
    | split | dsimp only

theorem State.rotFault_onward {s0 s : State} (hOn : Onward s0 s) : Onward s0 (s.rotFault) := by
  unfold State.rotFault
  repeat' first
    | with_reducible first
      | assumption | refine ite_onward ?_ ?_ | apply State.selfFence_onward | apply State.fenceOn_onward
    | split | dsimp only

theorem State.crossingFault_onward {s0 s : State} (d : Nat) (hOn : Onward s0 s) : Onward s0 (s.crossingFault d) := by
  unfold State.crossingFault
  repeat' first
    | with_reducible first
      | assumption | refine ite_onward ?_ ?_ | apply State.selfFence_onward | apply State.fenceOn_onward
    | split | dsimp only

theorem State.canaryFail_onward {s0 s : State} (e at_ : Nat) (hOn : Onward s0 s) :
    Onward s0 (s.canaryFail e at_) := by
  unfold State.canaryFail
  repeat' first
    | with_reducible first
      | assumption | refine ite_onward ?_ ?_ | apply State.engineOut_onward | apply State.count_onward
      | apply State.logEvent_onward | apply State.sendV_onward
    | split | dsimp only

theorem State.canaryRun_onward {s0 s : State} (e exact ordered : Nat) (o : Option Nat) (hOn : Onward s0 s) :
    Onward s0 (s.canaryRun e exact ordered o) := by
  cases o with
  | none => exact hOn
  | some at_ =>
    refine ite_onward hOn (ite_onward ?_ ?_)
    · exact State.modMod_onward _ (fun _ => ⟨rfl, rfl⟩) hOn
    · exact State.canaryFail_onward _ _ hOn

theorem State.canary_onward {s0 s : State} (e exact ordered : Nat) (hOn : Onward s0 s) :
    Onward s0 (s.canary e exact ordered) := by
  unfold State.canary
  repeat' first
    | with_reducible first
      | assumption | refine ite_onward ?_ ?_ | apply State.canaryRun_onward
    | split | dsimp only

theorem State.corruption_onward {s0 s : State} (a : Access) (val : List Byte) (failing : List Nat) (hOn : Onward s0 s) :
    Onward s0 (s.corruption a val failing).2 := by
  unfold State.corruption
  repeat' first
    | with_reducible first
      | assumption | refine ite_onward ?_ ?_ | refine ite_onward_snd ?_ ?_ | apply State.mgCount_onward
      | apply State.canaryFail_onward | apply State.logEvent_onward | refine foldl_onward (fun _ _ _ => ?_) _ _ ?_
      | refine foldl_onward_fst (fun _ _ _ => ?_) _ _ ?_
    | split | dsimp only

theorem State.suspectEval_onward {s0 s : State} (hOn : Onward s0 s) : Onward s0 (s.suspectEval) := by
  unfold State.suspectEval
  repeat' first
    | with_reducible first
      | assumption | refine ite_onward ?_ ?_ | apply State.modVe_onward | apply State.issueVerdict_onward
      | apply State.modMod_onward | refine foldl_onward (fun _ _ _ => ?_) _ _ ?_
      | refine foldl_onward_fst (fun _ _ _ => ?_) _ _ ?_
    | exact fun _ => ⟨rfl, rfl⟩ | split | dsimp only

theorem State.clearSuspect_onward {s0 s : State} (val : List Byte) (hOn : Onward s0 s) :
    Onward s0 (s.clearSuspect val).2 := by
  unfold State.clearSuspect
  repeat' first
    | with_reducible first
      | assumption | refine ite_onward ?_ ?_ | refine ite_onward_snd ?_ ?_ | apply State.modVe_onward
      | apply State.issueVerdict_onward
    | split | dsimp only

theorem State.epochAudit_onward {s0 s : State} (p : Part) (hOn : Onward s0 s) : Onward s0 (s.epochAudit p) := by
  unfold State.epochAudit
  repeat' first
    | with_reducible first
      | assumption | refine ite_onward ?_ ?_ | apply State.auditTile_onward | apply State.report_onward
      | apply State.tileOut_onward | apply State.auditWindows_onward | apply State.modEp_onward
      | refine foldl_onward (fun _ _ _ => ?_) _ _ ?_
    | split | dsimp only

theorem State.windowWrite_onward {s0 s : State} (p : Part) (i : Nat) (val : List Byte) (hOn : Onward s0 s) :
    Onward s0 (s.windowWrite p i val).2 := by
  unfold State.windowWrite
  repeat' first
    | with_reducible first
      | assumption | refine ite_onward ?_ ?_ | refine ite_onward_snd ?_ ?_ | apply State.modSh_onward
      | apply State.modTile_onward
    | split | dsimp only

theorem State.windowState_onward {s0 s : State} (p : Part) (i st : Nat) (hOn : Onward s0 s) :
    Onward s0 (s.windowState p i st) := by
  unfold State.windowState
  repeat' first
    | with_reducible first
      | assumption | refine ite_onward ?_ ?_ | apply State.modSh_onward
    | split | dsimp only

theorem State.windowStart_onward {s0 s : State} (p : Part) (i : Nat) (hOn : Onward s0 s) :
    Onward s0 (s.windowStart p i) := by
  unfold State.windowStart
  repeat' first
    | with_reducible first
      | assumption | refine ite_onward ?_ ?_ | apply State.windowState_onward | apply State.modTile_onward
      | apply State.mgCount_onward | apply State.engineOut_onward | apply State.modSh_onward
      | apply State.modEp_onward
    | split | dsimp only

theorem State.windowEnd_onward {s0 s : State} (p : Part) (i : Nat) (passed : Bool) (hOn : Onward s0 s) :
    Onward s0 (s.windowEnd p i passed) := by
  unfold State.windowEnd
  repeat' first
    | with_reducible first
      | assumption | refine ite_onward ?_ ?_ | apply State.windowState_onward | apply State.modMod_onward
      | apply State.modTile_onward | apply State.modSh_onward | apply State.modEp_onward | apply State.mgCount_onward
      | apply State.report_onward
    | exact fun _ => ⟨rfl, rfl⟩ | split | dsimp only

end Sys2Proof.Machine
end

