-- ==== Sys2Proof/Laws/EndpointCare.lean ====
section
/-! SUPPORT. What the operations of Machine/EndpointCare.lean never take back (`Onward`), once for each. -/

set_option linter.all false
set_option Elab.async false

namespace Sys2Proof.Machine

theorem State.setEriLink_onward {s0 s : State} (l : Nat) (x : EriLink) (hOn : Onward s0 s) :
    Onward s0 (s.setEriLink l x) := by
  unfold State.setEriLink
  repeat' first
    | with_reducible first
      | assumption | refine ite_onward ?_ ?_ | apply State.modEp_onward
    | split | dsimp only

theorem State.linkComesUp_onward {s0 s : State} (l : Nat) (hOn : Onward s0 s) : Onward s0 (s.linkComesUp l) := by
  unfold State.linkComesUp
  repeat' first
    | with_reducible first
      | assumption | refine ite_onward ?_ ?_ | apply State.setEriLink_onward | apply State.emit_onward
    | split | dsimp only

theorem State.initIn_onward {s0 s : State} (l : Nat) (m : Eri) (hOn : Onward s0 s) : Onward s0 (s.initIn l m) := by
  unfold State.initIn
  repeat' first
    | with_reducible first
      | assumption | refine ite_onward ?_ ?_ | apply State.epCount_onward | apply State.modLink_onward
      | apply State.payResp_onward | apply State.payOwed_onward | apply State.flushTx_onward
    | split | dsimp only

theorem State.creditIn_onward {s0 s : State} (l : Nat) (m : Eri) (hOn : Onward s0 s) :
    Onward s0 (s.creditIn l m) := by
  unfold State.creditIn
  repeat' first
    | with_reducible first
      | assumption | refine ite_onward ?_ ?_ | apply State.epCount_onward | apply State.modLink_onward
      | apply State.flushTx_onward
    | split | dsimp only

theorem State.linkLost_onward {s0 s : State} (l : Nat) (hOn : Onward s0 s) : Onward s0 (s.linkLost l) := by
  unfold State.linkLost
  repeat' first
    | with_reducible first
      | assumption | refine ite_onward ?_ ?_ | apply State.setEriLink_onward | apply State.logEvent_onward
      | apply State.report_onward | apply State.flushTx_onward
    | split | dsimp only

theorem State.linkEnableWrite_onward {s0 s : State} (v : Nat) (hOn : Onward s0 s) :
    Onward s0 (s.linkEnableWrite v).2 := by
  unfold State.linkEnableWrite
  repeat' first
    | with_reducible first
      | assumption | refine ite_onward ?_ ?_ | refine ite_onward_snd ?_ ?_ | apply State.setReg_onward
      | apply State.setEriLink_onward | refine foldl_onward (fun _ _ _ => ?_) _ _ ?_
      | refine foldl_onward_fst (fun _ _ _ => ?_) _ _ ?_
    | split | dsimp only

theorem State.stopEndpoint_onward {s0 s : State} (hOn : Onward s0 s) : Onward s0 (s.stopEndpoint) := by
  unfold State.stopEndpoint
  repeat' first
    | with_reducible first
      | assumption | refine ite_onward ?_ ?_ | apply State.planeOut_onward | apply State.modSh_onward
      | apply State.modEp_onward | refine foldl_onward (fun _ _ _ => ?_) _ _ ?_
      | refine foldl_onward_fst (fun _ _ _ => ?_) _ _ ?_
    | split | dsimp only

theorem State.throttleTemp_onward {s0 s : State} (t : Int) (hOn : Onward s0 s) : Onward s0 (s.throttleTemp t) := by
  unfold State.throttleTemp
  repeat' first
    | with_reducible first
      | assumption | refine ite_onward ?_ ?_ | apply State.modEp_onward
    | split | dsimp only

theorem State.endpointTrip_onward {s0 s : State} (t : Int) (hOn : Onward s0 s) : Onward s0 (s.endpointTrip t) := by
  unfold State.endpointTrip
  repeat' first
    | with_reducible first
      | assumption | refine ite_onward ?_ ?_ | apply State.modEp_onward | apply State.logEvent_onward
      | apply State.stopEndpoint_onward
    | split | dsimp only

theorem State.supplyOut_onward {s0 s : State} (n : Nat) (hOn : Onward s0 s) : Onward s0 (s.supplyOut n) := by
  unfold State.supplyOut
  repeat' first
    | with_reducible first
      | assumption | refine ite_onward ?_ ?_ | apply State.logEvent_onward | apply State.modEp_onward
      | apply State.stopEndpoint_onward
    | split | dsimp only

end Sys2Proof.Machine
end

