-- ==== Sys2Proof/Laws/Clocks.lean ====
section
/-! SUPPORT. What the operations of Machine/Clocks.lean never take back (`Onward`), once for each. -/

set_option linter.all false
set_option Elab.async false

namespace Sys2Proof.Machine

theorem State.modDomain_onward {s0 s : State} (p : Part) (d : Nat) (f : Domain → Domain) (hOn : Onward s0 s) :
    Onward s0 (s.modDomain p d f) := by
  unfold State.modDomain
  repeat' first
    | with_reducible first
      | assumption | refine ite_onward ?_ ?_ | apply State.modSh_onward
    | split | dsimp only

theorem State.muxStart_onward {s0 s : State} (p : Part) (d ref : Nat) (hOn : Onward s0 s) :
    Onward s0 (s.muxStart p d ref) := by
  unfold State.muxStart
  repeat' first
    | with_reducible first
      | assumption | refine ite_onward ?_ ?_ | apply State.modDomain_onward
    | split | dsimp only

theorem State.muxDone_onward {s0 s : State} (p : Part) (d : Nat) (hOn : Onward s0 s) : Onward s0 (s.muxDone p d) := by
  unfold State.muxDone
  repeat' first
    | with_reducible first
      | assumption | refine ite_onward ?_ ?_ | apply State.modDomain_onward
    | split | dsimp only

theorem State.refsReturn_onward {s0 s : State} (p : Part) (hOn : Onward s0 s) : Onward s0 (s.refsReturn p) := by
  unfold State.refsReturn
  repeat' first
    | with_reducible first
      | assumption | refine ite_onward ?_ ?_ | apply State.muxStart_onward
      | refine foldl_onward (fun _ _ _ => ?_) _ _ ?_
    | split | dsimp only

theorem State.crystalStable_onward {s0 s : State} (p : Part) (hOn : Onward s0 s) : Onward s0 (s.crystalStable p) := by
  unfold State.crystalStable
  repeat' first
    | with_reducible first
      | assumption | refine ite_onward ?_ ?_ | apply State.modSh_onward | apply State.refsReturn_onward
    | split | dsimp only

theorem State.crystalTimeout_onward {s0 s : State} (p : Part) (hOn : Onward s0 s) :
    Onward s0 (s.crystalTimeout p) := by
  unfold State.crystalTimeout
  repeat' first
    | with_reducible first
      | assumption | refine ite_onward ?_ ?_ | apply State.modSh_onward | apply State.bothCount_onward
    | split | dsimp only

theorem State.retrim_onward {s0 s : State} (p : Part) (kHz : Nat) (hOn : Onward s0 s) :
    Onward s0 (s.retrim p kHz) := by
  unfold State.retrim
  repeat' first
    | with_reducible first
      | assumption | refine ite_onward ?_ ?_ | apply State.modSh_onward
    | split | dsimp only

theorem State.alignFail_onward {s0 s : State} (bad : List Nat) (hOn : Onward s0 s) : Onward s0 (s.alignFail bad) := by
  unfold State.alignFail
  repeat' first
    | with_reducible first
      | assumption | refine ite_onward ?_ ?_ | apply State.modMod_onward | apply State.modSh_onward
    | exact fun _ => ⟨rfl, rfl⟩ | split | dsimp only

theorem State.coveredLost_onward {s0 s : State} (d : Nat) (hOn : Onward s0 s) : Onward s0 (s.coveredLost d) := by
  unfold State.coveredLost
  repeat' first
    | with_reducible first
      | assumption | refine ite_onward ?_ ?_ | apply State.alignFail_onward | apply State.alignLost_onward
    | split | dsimp only

theorem State.monitorWindow_onward {s0 s : State} (p : Part) (d flags kHz : Nat) (hOn : Onward s0 s) :
    Onward s0 (s.monitorWindow p d flags kHz) := by
  unfold State.monitorWindow
  repeat' first
    | with_reducible first
      | assumption | refine ite_onward ?_ ?_ | apply State.modDomain_onward | apply State.coveredLost_onward
    | split | dsimp only

theorem State.eioDown_onward {s0 s : State} (k : Nat) (hOn : Onward s0 s) : Onward s0 (s.eioDown k) := by
  unfold State.eioDown
  repeat' first
    | with_reducible first
      | assumption | refine ite_onward ?_ ?_ | apply State.modMod_onward
    | exact fun _ => ⟨rfl, rfl⟩ | split | dsimp only

theorem State.crystalLost_onward {s0 s : State} (p : Part) (hOn : Onward s0 s) : Onward s0 (s.crystalLost p) := by
  unfold State.crystalLost
  repeat' first
    | with_reducible first
      | assumption | refine ite_onward ?_ ?_ | apply State.goDown_onward | apply State.rtState_onward
      | apply State.bothCount_onward | refine foldl_onward (fun _ _ _ => ?_) _ _ ?_
      | refine foldl_onward_fst (fun _ _ _ => ?_) _ _ ?_
    | split | dsimp only

theorem State.pllCoast_onward {s0 s : State} (p : Part) (d : Nat) (hOn : Onward s0 s) :
    Onward s0 (s.pllCoast p d) := by
  unfold State.pllCoast
  repeat' first
    | with_reducible first
      | assumption | refine ite_onward ?_ ?_ | apply State.linkLost_onward | apply State.modDomain_onward
      | apply State.bothCount_onward | apply State.muxStart_onward | apply State.coveredLost_onward
      | apply State.eioDown_onward | apply State.crystalLost_onward
    | split | dsimp only

theorem State.muxComplete_onward {s0 s : State} (p : Part) (d : Nat) (hOn : Onward s0 s) :
    Onward s0 (s.muxComplete p d) := by
  unfold State.muxComplete
  repeat' first
    | with_reducible first
      | assumption | refine ite_onward ?_ ?_ | apply State.muxDone_onward
    | split | dsimp only

theorem State.runtFault_onward {s0 s : State} (p : Part) (d : Nat) (hOn : Onward s0 s) :
    Onward s0 (s.runtFault p d) := by
  unfold State.runtFault
  repeat' first
    | with_reducible first
      | assumption | refine ite_onward ?_ ?_ | apply State.stopEndpoint_onward | apply State.tileOut_onward
      | apply State.crossingFault_onward | apply State.coreStop_onward
    | split | dsimp only

theorem State.muxWatchdog_onward {s0 s : State} (p : Part) (d : Nat) (edges : Bool) (hOn : Onward s0 s) :
    Onward s0 (s.muxWatchdog p d edges) := by
  unfold State.muxWatchdog
  repeat' first
    | with_reducible first
      | assumption | refine ite_onward ?_ ?_ | apply State.muxDone_onward | apply State.bothCount_onward
      | apply State.runtFault_onward
    | split | dsimp only

theorem State.pllRelock_onward {s0 s : State} (p : Part) (d : Nat) (primary : Bool) (hOn : Onward s0 s) :
    Onward s0 (s.pllRelock p d primary) := by
  unfold State.pllRelock
  repeat' first
    | with_reducible first
      | assumption | refine ite_onward ?_ ?_ | apply State.modDomain_onward | apply State.muxStart_onward
    | split | dsimp only

theorem State.alignRequest_onward {s0 s : State} (val : List Byte) (hOn : Onward s0 s) :
    Onward s0 (s.alignRequest val).2 := by
  unfold State.alignRequest
  repeat' first
    | with_reducible first
      | assumption | refine ite_onward ?_ ?_ | refine ite_onward_snd ?_ ?_ | apply State.modMod_onward
    | exact fun _ => ⟨rfl, rfl⟩ | split | dsimp only

theorem State.alignStart_onward {s0 s : State} (hOn : Onward s0 s) : Onward s0 (s.alignStart) := by
  unfold State.alignStart
  repeat' first
    | with_reducible first
      | assumption | refine ite_onward ?_ ?_ | apply State.alignLost_onward | apply State.modMod_onward
      | apply State.modSh_onward | apply State.modDomain_onward | apply State.muxStart_onward
      | refine foldl_onward (fun _ _ _ => ?_) _ _ ?_
    | exact fun _ => ⟨rfl, rfl⟩ | split | dsimp only

theorem State.alignPulse_onward {s0 s : State} (unlocked : List Nat) (hOn : Onward s0 s) :
    Onward s0 (s.alignPulse unlocked) := by
  unfold State.alignPulse
  repeat' first
    | with_reducible first
      | assumption | refine ite_onward ?_ ?_ | apply State.modMod_onward | apply State.alignFail_onward
    | exact fun _ => ⟨rfl, rfl⟩ | split | dsimp only

theorem State.alignCheck_onward {s0 s : State} (bad : List Nat) (hOn : Onward s0 s) :
    Onward s0 (s.alignCheck bad) := by
  unfold State.alignCheck
  repeat' first
    | with_reducible first
      | assumption | refine ite_onward ?_ ?_ | apply State.modMod_onward | apply State.alignFail_onward
    | exact fun _ => ⟨rfl, rfl⟩ | split | dsimp only

end Sys2Proof.Machine
end

