-- ==== Sys2Proof/Laws/Meter.lean ====
section
/-! SUPPORT. What the operations of Machine/Meter.lean never take back (`Onward`), once for each. -/

set_option linter.all false
set_option Elab.async false

namespace Sys2Proof.Machine

theorem State.meterSend_onward {s0 s : State} (kind : Nat) (body : List Byte) (hOn : Onward s0 s) :
    Onward s0 (s.meterSend kind body) := by
  unfold State.meterSend
  repeat' first
    | with_reducible first
      | assumption | refine ite_onward ?_ ?_ | apply State.modMeter_onward | apply State.emit_onward
    | exact fun _ => meter_keeps | split | dsimp only

theorem State.meterEvent_onward {s0 s : State} (code cause : Nat) (hOn : Onward s0 s) :
    Onward s0 (s.meterEvent code cause) := by
  unfold State.meterEvent
  repeat' first
    | with_reducible first
      | assumption | refine ite_onward ?_ ?_ | apply State.meterSend_onward
    | split | dsimp only

theorem State.mirror_onward {s0 s : State} (key : Nat) (val : List Byte) (hOn : Onward s0 s) :
    Onward s0 (s.mirror key val) := by
  unfold State.mirror
  repeat' first
    | with_reducible first
      | assumption | refine ite_onward ?_ ?_ | apply State.meterSend_onward
    | split | dsimp only

theorem State.meterPut_onward {s0 s : State} (r : MRec) (hOn : Onward s0 s) : Onward s0 (s.meterPut r) := by
  unfold State.meterPut
  repeat' first
    | with_reducible first
      | assumption | refine ite_onward ?_ ?_ | apply State.modMeter_onward | apply State.meterEvent_onward
    | exact fun _ => meter_keeps | exact fun m => Meter.append_keeps m r _ | split | dsimp only

theorem State.toMeter_onward {s0 s : State} (h : MeterHdr) (kind len : Nat) (f : State → State) (hf : ∀ t, Onward s0 t → Onward s0 (f t))
    (hOn : Onward s0 s) : Onward s0 (s.toMeter h kind len f) := by
  unfold State.toMeter
  split
  · exact State.mgCount_onward _ hOn
  · split
    · exact hf _ hOn
    · exact hOn

theorem State.meterTimeIn_onward {s0 s : State} (hOn : Onward s0 s) : Onward s0 (s.meterTimeIn) := by
  unfold State.meterTimeIn
  repeat' first
    | with_reducible first
      | assumption | refine ite_onward ?_ ?_ | apply State.modMeter_onward | apply State.meterPut_onward
    | exact fun _ => meter_keeps | split | dsimp only

theorem State.fullScale_onward {s0 s : State} (full old new which : Nat) (hOn : Onward s0 s) :
    Onward s0 (s.fullScale full old new which) := by
  unfold State.fullScale
  repeat' first
    | with_reducible first
      | assumption | refine ite_onward ?_ ?_ | apply State.meterEvent_onward
    | split | dsimp only

theorem State.usageEntry_onward {s0 s : State} (u : UsageEntry) (hOn : Onward s0 s) : Onward s0 (s.usageEntry u) := by
  unfold State.usageEntry
  repeat' first
    | with_reducible first
      | assumption | refine ite_onward ?_ ?_ | apply State.egress_onward | apply State.modMeter_onward
      | apply State.fullScale_onward
    | exact fun _ => meter_keeps | split | dsimp only

theorem State.chargeEntry_onward {s0 s : State} (job gib : Nat) (hOn : Onward s0 s) :
    Onward s0 (s.chargeEntry job gib) := by
  unfold State.chargeEntry
  repeat' first
    | with_reducible first
      | assumption | refine ite_onward ?_ ?_ | apply State.modMeter_onward | apply State.fullScale_onward
    | exact fun _ => meter_keeps | split | dsimp only

theorem State.meterUsageIn_onward {s0 s : State} (h : MeterHdr) (hOn : Onward s0 s) : Onward s0 (s.meterUsageIn h) := by
  unfold State.meterUsageIn
  refine State.toMeter_onward _ _ _ _ (fun _ ht => foldl_onward (fun _ _ hu => State.usageEntry_onward _ hu) _ _ ht) ?_
  exact State.modMod_onward _ (fun _ => ⟨rfl, rfl⟩) hOn

theorem State.meterChargeIn_onward {s0 s : State} (h : MeterHdr) (hOn : Onward s0 s) : Onward s0 (s.meterChargeIn h) :=
  State.toMeter_onward _ _ _ _ (fun _ ht => foldl_onward (fun _ _ hu => State.chargeEntry_onward _ _ hu) _ _ ht) hOn

theorem State.meterAck_onward {s0 s : State} (index : Nat) (hOn : Onward s0 s) : Onward s0 (s.meterAck index) := by
  unfold State.meterAck
  split
  · refine State.modMeter_onward _ (fun m => ?_) hOn
    dsimp only
    split <;> exact meter_keeps
  · exact hOn

theorem State.closeEnergy_onward {s0 s : State} (energy : Nat) (hOn : Onward s0 s) :
    Onward s0 (s.closeEnergy energy) := by
  unfold State.closeEnergy
  repeat' first
    | with_reducible first
      | assumption | refine ite_onward ?_ ?_ | apply State.fullScale_onward | apply State.modMeter_onward
    | exact fun _ => meter_keeps | split | dsimp only

theorem State.closeRecords_onward {s0 s : State} (start energy : Nat) (hOn : Onward s0 s) :
    Onward s0 (s.closeRecords start energy) := by
  unfold State.closeRecords
  repeat' first
    | with_reducible first
      | assumption | refine ite_onward ?_ ?_ | apply State.meterPut_onward | apply State.egress_onward
      | refine foldl_onward (fun _ _ _ => ?_) _ _ ?_ | refine foldl_onward_fst (fun _ _ _ => ?_) _ _ ?_
    | split | dsimp only

theorem State.closeSign_onward {s0 s : State} (start : Nat) (hOn : Onward s0 s) : Onward s0 (s.closeSign start) := by
  unfold State.closeSign
  repeat' first
    | with_reducible first
      | assumption | refine ite_onward ?_ ?_ | apply State.meterPut_onward | apply State.drawn_onward
    | split | dsimp only

theorem State.closeReset_onward {s0 s : State} (hOn : Onward s0 s) : Onward s0 (s.closeReset) := by
  unfold State.closeReset
  repeat' first
    | with_reducible first
      | assumption | refine ite_onward ?_ ?_ | apply State.modMeter_onward
    | exact fun _ => meter_keeps | split | dsimp only

theorem State.closeOne_onward {s0 s : State} (energy : Nat) (hOn : Onward s0 s) : Onward s0 (s.closeOne energy) := by
  unfold State.closeOne
  repeat' first
    | with_reducible first
      | assumption | refine ite_onward ?_ ?_ | apply State.closeEnergy_onward | apply State.closeRecords_onward
      | apply State.closeSign_onward | apply State.closeReset_onward
    | split | dsimp only

theorem State.mirrorAll_onward {s0 s : State} (hOn : Onward s0 s) : Onward s0 (s.mirrorAll) := by
  unfold State.mirrorAll
  repeat' first
    | with_reducible first
      | assumption | refine ite_onward ?_ ?_ | apply State.mirror_onward
    | split | dsimp only

theorem State.intervalClose_onward {s0 s : State} (energy : Nat) (hOn : Onward s0 s) :
    Onward s0 (s.intervalClose energy) := by
  unfold State.intervalClose
  repeat' first
    | with_reducible first
      | assumption | refine ite_onward ?_ ?_ | apply State.closeOne_onward | apply State.mirrorAll_onward
      | refine foldl_onward (fun _ _ _ => ?_) _ _ ?_
    | split | dsimp only

theorem State.sealRecord_onward {s0 s : State} (cause detail : Nat) (hOn : Onward s0 s) : Onward s0 (s.sealRecord cause detail) := by
  unfold State.sealRecord
  repeat' first
    | with_reducible first
      | assumption | apply State.mirror_onward | apply State.meterEvent_onward | apply State.meterPut_onward
      | apply State.fullScale_onward | apply State.modMeter_onward
    | exact fun m => ⟨by simp only [satAdd, updateFull]; omega, Nat.le_refl _⟩
    | dsimp only

theorem State.meterStart_onward {s0 s : State} (hOn : Onward s0 s) : Onward s0 (s.meterStart) := by
  unfold State.meterStart
  repeat' first
    | with_reducible first
      | assumption | refine ite_onward ?_ ?_ | apply State.modMeter_onward | apply State.mirror_onward
    | exact fun _ => meter_keeps | split | dsimp only

theorem State.sealEvent_onward {s0 s : State} (cause detail : Nat) (hOn : Onward s0 s) :
    Onward s0 (s.sealEvent cause detail) := by
  unfold State.sealEvent
  repeat' first
    | with_reducible first
      | assumption | refine ite_onward ?_ ?_ | apply State.meterStart_onward | apply State.sealRecord_onward
    | split | dsimp only

theorem State.meterStopped_onward {s0 s : State} (faulted : Bool) (hOn : Onward s0 s) : Onward s0 (s.meterStopped faulted) := by
  unfold State.meterStopped
  split
  · exact State.logEvent_onward _ _ _ _ _ (State.setReg_onward _ _ _ (State.modMeter_onward _ (fun m => Meter.stop_keeps m _) hOn))
  · exact hOn

theorem State.meterEventIn_onward {s0 s : State} (code detail : Nat) (hOn : Onward s0 s) :
    Onward s0 (s.meterEventIn code detail) := by
  unfold State.meterEventIn
  repeat' first
    | with_reducible first
      | assumption | refine ite_onward ?_ ?_ | apply State.logEvent_onward
    | split | dsimp only

theorem State.mirrorIn_onward {s0 s : State} (key : Nat) (val : List Byte) (hOn : Onward s0 s) : Onward s0 (s.mirrorIn key val) := by
  refine dirWriteWith_onward _ _ _ _ (fun t ht => ?_) hOn
  repeat' first
    | with_reducible first | assumption | refine ite_onward_snd ?_ ?_ | apply State.setReg_onward
    | split

theorem State.logRead_onward {s0 s : State} (first count : Nat) (hOn : Onward s0 s) :
    Onward s0 (s.logRead first count) := by
  unfold State.logRead
  repeat' first
    | with_reducible first
      | assumption | refine ite_onward ?_ ?_ | apply State.meterSend_onward
    | split | dsimp only

theorem State.ackRecordWrite_onward {s0 s : State} (val : List Byte) (hOn : Onward s0 s) :
    Onward s0 (s.ackRecordWrite val).2 := by
  unfold State.ackRecordWrite
  repeat' first
    | with_reducible first
      | assumption | refine ite_onward ?_ ?_ | refine ite_onward_snd ?_ ?_ | apply State.setReg_onward
      | apply State.modMod_onward | apply State.emit_onward
    | exact fun _ => ⟨rfl, rfl⟩ | split | dsimp only

end Sys2Proof.Machine
end

