-- ==== Sys2Proof/Laws/Power.lean ====
section
/-! SUPPORT. What the operations of Machine/Power.lean never take back (`Onward`), once for each. -/

set_option linter.all false
set_option Elab.async false

namespace Sys2Proof.Machine

theorem State.modPower_onward {s0 s : State} (f : Power → Power) (hOn : Onward s0 s) : Onward s0 (s.modPower f) := by
  unfold State.modPower
  repeat' first
    | with_reducible first
      | assumption | refine ite_onward ?_ ?_ | apply State.modMod_onward
    | exact fun _ => ⟨rfl, rfl⟩ | split | dsimp only

theorem State.powerLost_onward {s0 s : State} (st : Nat) (hOn : Onward s0 s) : Onward s0 (s.powerLost st) :=
  State.modPower_onward _ (hOn.trans ⟨rfl, rfl, Nat.le_refl _, List.prefix_refl _, fun _ => rfl,
    (Meter.stop_keeps _ _).1, (Meter.stop_keeps _ _).2⟩)

theorem State.goOff_onward {s0 s : State} (cause : Nat) (hOn : Onward s0 s) : Onward s0 (s.goOff cause) := by
  unfold State.goOff
  repeat' first
    | with_reducible first
      | assumption | refine ite_onward ?_ ?_ | apply State.powerLost_onward | apply State.modPower_onward
    | split | dsimp only

theorem State.enterFallow_onward {s0 s : State} (hOn : Onward s0 s) : Onward s0 (s.enterFallow) := by
  unfold State.enterFallow
  repeat' first
    | with_reducible first
      | assumption | refine ite_onward ?_ ?_ | apply State.powerLost_onward
    | split | dsimp only

theorem State.startBoot_onward {s0 s : State} (hOn : Onward s0 s) : Onward s0 (s.startBoot) := by
  unfold State.startBoot
  repeat' first
    | with_reducible first
      | assumption | refine ite_onward ?_ ?_ | apply State.modPower_onward | apply State.modSh_onward
    | split | dsimp only

theorem State.trySoft_onward {s0 s : State} (hOn : Onward s0 s) : Onward s0 (s.trySoft) := by
  unfold State.trySoft
  repeat' first
    | with_reducible first
      | assumption | refine ite_onward ?_ ?_ | apply State.modPower_onward
    | split | dsimp only

theorem State.inEnOn_onward {s0 s : State} (hOn : Onward s0 s) : Onward s0 (s.inEnOn) := by
  unfold State.inEnOn
  repeat' first
    | with_reducible first
      | assumption | refine ite_onward ?_ ?_ | apply State.modPower_onward | apply State.trySoft_onward
    | split | dsimp only

theorem State.inEnOff_onward {s0 s : State} (hOn : Onward s0 s) : Onward s0 (s.inEnOff) := by
  unfold State.inEnOff
  repeat' first
    | with_reducible first
      | assumption | refine ite_onward ?_ ?_ | apply State.goOff_onward | apply State.modPower_onward
    | split | dsimp only

theorem State.softPermitted_onward {s0 s : State} (mV : Nat) (hOn : Onward s0 s) :
    Onward s0 (s.softPermitted mV) := by
  unfold State.softPermitted
  repeat' first
    | with_reducible first
      | assumption | refine ite_onward ?_ ?_ | apply State.modPower_onward | apply State.trySoft_onward
    | split | dsimp only

theorem State.softDone_onward {s0 s : State} (reached : Bool) (hOn : Onward s0 s) :
    Onward s0 (s.softDone reached) := by
  unfold State.softDone
  repeat' first
    | with_reducible first
      | assumption | refine ite_onward ?_ ?_ | apply State.modPower_onward | apply State.startBoot_onward
      | apply State.goOff_onward
    | split | dsimp only

theorem State.voltageTrip_onward {s0 s : State} (mV : Nat) (hOn : Onward s0 s) : Onward s0 (s.voltageTrip mV) := by
  unfold State.voltageTrip
  repeat' first
    | with_reducible first
      | assumption | refine ite_onward ?_ ?_ | apply State.goOff_onward | apply State.modPower_onward
    | split | dsimp only

theorem State.breakerTrip_onward {s0 s : State} (mA : Nat) (hOn : Onward s0 s) : Onward s0 (s.breakerTrip mA) := by
  unfold State.breakerTrip
  repeat' first
    | with_reducible first
      | assumption | refine ite_onward ?_ ?_ | apply State.goOff_onward | apply State.modPower_onward
      | apply State.mgCount_onward
    | split | dsimp only

theorem State.breakerRetry_onward {s0 s : State} (hOn : Onward s0 s) : Onward s0 (s.breakerRetry) := by
  unfold State.breakerRetry
  repeat' first
    | with_reducible first
      | assumption | refine ite_onward ?_ ?_ | apply State.modPower_onward | apply State.trySoft_onward
    | split | dsimp only

theorem State.alignStop_onward {s0 s : State} (hOn : Onward s0 s) : Onward s0 (s.alignStop) := by
  unfold State.alignStop
  repeat' first
    | with_reducible first
      | assumption | refine ite_onward ?_ ?_ | apply State.modMod_onward | apply State.alignLost_onward
    | exact fun _ => ⟨rfl, rfl⟩ | split | dsimp only

theorem State.enterRest_onward {s0 s : State} (hOn : Onward s0 s) : Onward s0 (s.enterRest) := by
  unfold State.enterRest
  repeat' first
    | with_reducible first
      | assumption | refine ite_onward ?_ ?_ | apply State.alignStop_onward | apply State.dropAll_onward
      | apply State.modSh_onward | apply State.modMod_onward | apply State.modPower_onward
    | exact fun _ => ⟨rfl, rfl⟩ | split | dsimp only

theorem State.requestState_onward {s0 s : State} (v : Nat) (hOn : Onward s0 s) : Onward s0 (s.requestState v).2 := by
  unfold State.requestState
  repeat' first
    | with_reducible first
      | assumption | refine ite_onward ?_ ?_ | refine ite_onward_snd ?_ ?_ | apply State.modPower_onward
      | apply State.enterRest_onward | apply State.enterFallow_onward
    | split | dsimp only

theorem State.restartRun_onward {s0 s : State} (hOn : Onward s0 s) : Onward s0 (s.restartRun) := by
  unfold State.restartRun
  repeat' first
    | with_reducible first
      | assumption | refine ite_onward ?_ ?_ | apply State.modSh_onward | apply State.modMod_onward
      | apply State.drawn_onward | apply State.regionEnter_onward | refine foldl_onward (fun _ _ _ => ?_) _ _ ?_
      | refine foldl_onward_fst (fun _ _ _ => ?_) _ _ ?_
    | exact fun _ => ⟨rfl, rfl⟩ | split | dsimp only

theorem State.entryTests_onward {s0 s : State} (results : List TestResult) (hOn : Onward s0 s) :
    Onward s0 (s.entryTests results) := by
  unfold State.entryTests
  repeat' first
    | with_reducible first
      | assumption | refine ite_onward ?_ ?_ | apply State.modMod_onward | apply State.tileOut_onward
      | apply State.canaryFail_onward | apply State.stackFail_onward | apply State.crossingFault_onward
      | refine foldl_onward (fun _ _ _ => ?_) _ _ ?_ | refine foldl_onward_fst (fun _ _ _ => ?_) _ _ ?_
    | exact fun _ => ⟨rfl, rfl⟩ | split | dsimp only

theorem State.enterRun_onward {s0 s : State} (results : List TestResult) (hOn : Onward s0 s) :
    Onward s0 (s.enterRun results) := by
  unfold State.enterRun
  repeat' first
    | with_reducible first
      | assumption | refine ite_onward ?_ ?_ | apply State.restartRun_onward | apply State.entryTests_onward
      | apply State.modPower_onward | apply State.refsReturn_onward | apply State.fenceOn_onward
      | apply State.portsLeaveOff_onward
    | split | dsimp only

theorem State.wake_onward {s0 s : State} (address : Nat) (hOn : Onward s0 s) : Onward s0 (s.wake address) := by
  unfold State.wake
  repeat' first
    | with_reducible first
      | assumption | refine ite_onward ?_ ?_ | apply State.startBoot_onward
    | split | dsimp only

theorem State.brownOut_onward {s0 s : State} (mA : Nat) (hOn : Onward s0 s) : Onward s0 (s.brownOut mA) := by
  unfold State.brownOut
  repeat' first
    | with_reducible first
      | assumption | refine ite_onward ?_ ?_ | apply State.enterFallow_onward | apply State.modPower_onward
      | apply State.startBoot_onward
    | split | dsimp only

theorem State.renewLease_onward {s0 s : State} (hOn : Onward s0 s) : Onward s0 (s.renewLease) := by
  unfold State.renewLease
  repeat' first
    | with_reducible first
      | assumption | refine ite_onward ?_ ?_ | apply State.modPower_onward
    | split | dsimp only

theorem State.capStep_onward {s0 s : State} (val : List Byte) (hOn : Onward s0 s) : Onward s0 (s.capStep val).2 := by
  unfold State.capStep
  repeat' first
    | with_reducible first
      | assumption | refine ite_onward ?_ ?_ | refine ite_onward_snd ?_ ?_ | apply State.setReg_onward
      | apply State.renewLease_onward | apply State.modPower_onward | apply State.mgCount_onward
    | split | dsimp only

theorem State.capEffective_onward {s0 s : State} (hOn : Onward s0 s) : Onward s0 (s.capEffective) := by
  unfold State.capEffective
  repeat' first
    | with_reducible first
      | assumption | refine ite_onward ?_ ?_ | apply State.modPower_onward
    | split | dsimp only

theorem State.leaseExpiry_onward {s0 s : State} (hOn : Onward s0 s) : Onward s0 (s.leaseExpiry) := by
  unfold State.leaseExpiry
  repeat' first
    | with_reducible first
      | assumption | refine ite_onward ?_ ?_ | apply State.hold_onward | apply State.modPower_onward
    | split | dsimp only

theorem State.holdExpiry_onward {s0 s : State} (hOn : Onward s0 s) : Onward s0 (s.holdExpiry) := by
  unfold State.holdExpiry
  repeat' first
    | with_reducible first
      | assumption | refine ite_onward ?_ ?_ | apply State.hold_onward | apply State.modPower_onward
    | split | dsimp only

theorem State.powerWidth_onward {s0 s : State} (l : Nat) (narrow : Bool) (hOn : Onward s0 s) :
    Onward s0 (s.powerWidth l narrow) := by
  unfold State.powerWidth
  repeat' first
    | with_reducible first
      | assumption | refine ite_onward ?_ ?_ | apply State.widthStart_onward
      | refine foldl_onward (fun _ _ _ => ?_) _ _ ?_ | refine foldl_onward_fst (fun _ _ _ => ?_) _ _ ?_
    | split | dsimp only

theorem State.takeLevel_onward {s0 s : State} (hOn : Onward s0 s) : Onward s0 (s.takeLevel) := by
  unfold State.takeLevel
  repeat' first
    | with_reducible first
      | assumption | refine ite_onward ?_ ?_ | apply State.modPower_onward
    | split | dsimp only

theorem State.ladder_onward {s0 s : State} (hOn : Onward s0 s) : Onward s0 (s.ladder) := by
  unfold State.ladder
  repeat' first
    | with_reducible first
      | assumption | refine ite_onward ?_ ?_ | apply State.takeLevel_onward | apply State.modPower_onward
      | apply State.powerWidth_onward
    | split | dsimp only

theorem State.powerTick_onward {s0 s : State} (watts mV mA : Nat) (hOn : Onward s0 s) :
    Onward s0 (s.powerTick watts mV mA) := by
  unfold State.powerTick
  repeat' first
    | with_reducible first
      | assumption | refine ite_onward ?_ ?_ | apply State.modPower_onward | apply State.mgCount_onward
      | apply State.ladder_onward
    | split | dsimp only

theorem State.levelEffective_onward {s0 s : State} (hOn : Onward s0 s) : Onward s0 (s.levelEffective) := by
  unfold State.levelEffective
  repeat' first
    | with_reducible first
      | assumption | refine ite_onward ?_ ?_ | apply State.modPower_onward | apply State.alignStop_onward
      | apply State.powerWidth_onward
    | split | dsimp only

theorem State.thermalReading_onward {s0 s : State} (inlet scd : Int) (hbm : List Int) (hOn : Onward s0 s) :
    Onward s0 (s.thermalReading inlet scd hbm) := by
  unfold State.thermalReading
  repeat' first
    | with_reducible first
      | assumption | refine ite_onward ?_ ?_ | apply State.modPower_onward
      | refine foldl_onward (fun _ _ _ => ?_) _ _ ?_
    | split | dsimp only

theorem State.thermalTrip_onward {s0 s : State} (inlet scd hbm : Int) (hOn : Onward s0 s) :
    Onward s0 (s.thermalTrip inlet scd hbm) := by
  unfold State.thermalTrip
  repeat' first
    | with_reducible first
      | assumption | refine ite_onward ?_ ?_ | apply State.enterFallow_onward | apply State.modPower_onward
    | split | dsimp only

end Sys2Proof.Machine
end

