-- ==== Sys2Proof/Laws/Security.lean ====
section
/-! SUPPORT. What the operations of Machine/Security.lean never take back (`Onward`), once for each. -/

set_option linter.all false
set_option Elab.async false

namespace Sys2Proof.Machine

theorem State.modRot_onward {s0 s : State} (p : Part) (f : Rot → Rot) (hOn : Onward s0 s) :
    Onward s0 (s.modRot p f) := by
  unfold State.modRot
  repeat' first
    | with_reducible first
      | assumption | refine ite_onward ?_ ?_ | apply State.modSh_onward
    | split | dsimp only

theorem State.bundleEvent_onward {s0 s : State} (p : Part) (slot reason version : Nat) (hOn : Onward s0 s) :
    Onward s0 (s.bundleEvent p slot reason version) := by
  unfold State.bundleEvent
  repeat' first
    | with_reducible first
      | assumption | refine ite_onward ?_ ?_ | apply State.logEvent_onward
    | split | dsimp only

theorem State.epPorts_onward {s0 s : State} (hOn : Onward s0 s) : Onward s0 (s.epPorts) := by
  unfold State.epPorts
  repeat' first
    | with_reducible first
      | assumption | refine ite_onward ?_ ?_ | apply State.setRole_onward
      | refine foldl_onward (fun _ _ _ => ?_) _ _ ?_
    | split | dsimp only

theorem State.bundleLoad_onward {s0 s : State} (b : BundleInfo) (hOn : Onward s0 s) :
    Onward s0 (s.bundleLoad b).2 := by
  unfold State.bundleLoad
  repeat' first
    | with_reducible first
      | assumption | refine ite_onward ?_ ?_ | refine ite_onward_snd ?_ ?_ | apply State.modRot_onward
      | apply State.epPorts_onward | apply State.bundleEvent_onward
    | split | dsimp only

theorem State.epReset_onward {s0 s : State} (cycled : Bool) (hOn : Onward s0 s) : Onward s0 (s.epReset cycled) := by
  unfold State.epReset
  repeat' first
    | with_reducible first
      | assumption | refine ite_onward ?_ ?_ | apply State.modEp_onward | apply State.modSh_onward
    | split | dsimp only

theorem State.bootSlots_onward {s0 : State} (l : List (Nat × BundleInfo)) {s : State} (hOn : Onward s0 s) :
    Onward s0 (s.bootSlots l) := by
  induction l generalizing s with
  | nil => exact State.modRot_onward _ _ hOn
  | cons x l ih =>
    unfold State.bootSlots
    split
    · exact State.modRot_onward _ _ hOn
    · exact ih (State.bundleEvent_onward _ _ _ _ (State.modRot_onward _ _ hOn))

theorem State.metroBoot_onward {s0 s : State} (img : Option MetroImage) (hOn : Onward s0 s) : Onward s0 (s.metroBoot img) := by
  have hs := State.modMeter_onward (fun m => m.stop false) (fun m => Meter.stop_keeps m _) hOn
  unfold State.metroBoot
  repeat' first
    | with_reducible first
      | assumption | apply State.sealRecord_onward | apply State.meterStart_onward | apply State.logEvent_onward
      | apply State.setReg_onward | apply State.modMeter_onward
    | exact fun _ => meter_keeps | split | dsimp only

theorem State.modReset_onward {s0 s : State} (unwrapOk : Bool) (img : Option MetroImage) (hOn : Onward s0 s) :
    Onward s0 (s.modReset unwrapOk img) := by
  have hc : Onward s0 (s.modMod fun m => m.cold) :=
    hOn.trans ⟨rfl, rfl, Nat.le_refl _, List.prefix_refl _, fun _ => rfl, Nat.min_le_left _ _, Nat.le_refl _⟩
  unfold State.modReset
  dsimp only
  have hb := State.modPower_onward (fun p => { p with state := 2, booting := false, lease := s.ns })
    (State.modSh_onward .mod (fun sh => { sh with clk := { sh.clk with started := s.clock } }) hc)
  split
  · exact State.modRot_onward _ _ hb
  · have hs := State.bootSlots_onward s.mod.cold.sh.rot.order (State.modRot_onward .mod (fun r => { r with identity := true }) hb)
    split
    · exact State.modPower_onward _ (State.metroBoot_onward _ hs)
    · exact hs

theorem State.bundleUpload_onward {s0 s : State} (hOn : Onward s0 s) : Onward s0 (s.bundleUpload) := by
  unfold State.bundleUpload
  repeat' first
    | with_reducible first
      | assumption | refine ite_onward ?_ ?_ | apply State.modRot_onward | apply State.setSlot_onward
    | split | dsimp only

theorem State.bundleCommit_onward {s0 s : State} (b : BundleInfo) (hOn : Onward s0 s) :
    Onward s0 (s.bundleCommit b).2 := by
  unfold State.bundleCommit
  repeat' first
    | with_reducible first
      | assumption | refine ite_onward ?_ ?_ | refine ite_onward_snd ?_ ?_ | apply State.modRot_onward
      | apply State.setSlot_onward | apply State.bundleEvent_onward
    | split | dsimp only

theorem State.nonceWrite_onward {s0 s : State} (p : Part) (val : List Byte) (hOn : Onward s0 s) :
    Onward s0 (s.nonceWrite p val).2 := by
  unfold State.nonceWrite
  repeat' first
    | with_reducible first
      | assumption | refine ite_onward ?_ ?_ | refine ite_onward_snd ?_ ?_ | apply State.modRot_onward
    | split | dsimp only

theorem State.reportReady_onward {s0 s : State} (p : Part) (hOn : Onward s0 s) : Onward s0 (s.reportReady p) := by
  unfold State.reportReady
  repeat' first
    | with_reducible first
      | assumption | refine ite_onward ?_ ?_ | apply State.modRot_onward | apply State.drawn_onward
    | split | dsimp only

theorem State.setKeys_onward {s0 s : State} (p : Part) (k : JobKeys) (hOn : Onward s0 s) :
    Onward s0 (s.setKeys p k) := by
  unfold State.setKeys
  repeat' first
    | with_reducible first
      | assumption | refine ite_onward ?_ ?_ | apply State.modSh_onward
    | split | dsimp only

theorem State.keyInstall_onward {s0 s : State} (p : Part) (a : Access) (key : Nat) (val : List Byte) (unwrapOk : Bool) (hOn : Onward s0 s) :
    Onward s0 (s.keyInstall p a key val unwrapOk).2 := by
  unfold State.keyInstall
  repeat' first
    | with_reducible first
      | assumption | refine ite_onward ?_ ?_ | refine ite_onward_snd ?_ ?_ | apply dirDenied_onward
      | apply State.bothCount_onward | apply State.setKeys_onward
    | split | dsimp only

theorem State.keyActivate_onward {s0 s : State} (p : Part) (job : Nat) (hOn : Onward s0 s) :
    Onward s0 (s.keyActivate p job) := by
  unfold State.keyActivate
  repeat' first
    | with_reducible first
      | assumption | refine ite_onward ?_ ?_ | apply State.setKeys_onward | apply State.jobNotice_onward
      | apply State.modMod_onward
    | exact fun _ => ⟨rfl, rfl⟩ | split | dsimp only

theorem State.keyPeriodKeys_onward {s0 s : State} (p : Part) (hOn : Onward s0 s) : Onward s0 (s.keyPeriodKeys p) := by
  unfold State.keyPeriodKeys
  repeat' first
    | with_reducible first
      | assumption | refine ite_onward ?_ ?_ | apply State.modRot_onward
    | split | dsimp only

theorem State.jobRetire_onward {s0 s : State} (p : Part) (val : List Byte) (hOn : Onward s0 s) :
    Onward s0 (s.jobRetire p val).2 := by
  unfold State.jobRetire
  repeat' first
    | with_reducible first
      | assumption | refine ite_onward ?_ ?_ | refine ite_onward_snd ?_ ?_ | apply State.setKeys_onward
    | split | dsimp only

theorem State.tearSlice_onward {s0 s : State} (job : Nat) (hOn : Onward s0 s) : Onward s0 (s.tearSlice job) := by
  unfold State.tearSlice
  repeat' first
    | with_reducible first
      | assumption | refine ite_onward ?_ ?_ | apply State.sliceRevoke_onward | apply State.qpsTorn_onward
    | split | dsimp only

theorem State.retireTime_onward {s0 s : State} (p : Part) (job : Nat) (hOn : Onward s0 s) :
    Onward s0 (s.retireTime p job) := by
  unfold State.retireTime
  repeat' first
    | with_reducible first
      | assumption | refine ite_onward ?_ ?_ | apply State.setKeys_onward | apply State.revokeSlot_onward
      | apply State.tearSlice_onward | refine foldl_onward (fun _ _ _ => ?_) _ _ ?_
    | split | dsimp only

theorem State.noteScrubbed_onward {s0 s : State} (p : Part) (hOn : Onward s0 s) : Onward s0 (s.noteScrubbed p) := by
  unfold State.noteScrubbed
  repeat' first
    | with_reducible first
      | assumption | refine ite_onward ?_ ?_ | apply State.modSh_onward
    | split | dsimp only

theorem State.removalScrub_onward {s0 s : State} (p : Part) (job : Nat) (hOn : Onward s0 s) :
    Onward s0 (s.removalScrub p job) := by
  unfold State.removalScrub
  repeat' first
    | with_reducible first
      | assumption | refine ite_onward ?_ ?_ | apply State.setKeys_onward | apply State.noteScrubbed_onward
      | apply State.regionsScrub_onward
    | split | dsimp only

theorem State.finalSnapshot_onward {s0 s : State} (p : Part) (job : Nat) (hOn : Onward s0 s) :
    Onward s0 (s.finalSnapshot p job) := by
  unfold State.finalSnapshot
  repeat' first
    | with_reducible first
      | assumption | refine ite_onward ?_ ?_ | apply State.modSh_onward
    | split | dsimp only

theorem State.removalSettle_onward {s0 s : State} (p : Part) (job : Nat) (hOn : Onward s0 s) : Onward s0 (s.removalSettle p job) := by
  unfold State.removalSettle
  repeat' first
    | with_reducible first
      | assumption | refine ite_onward ?_ ?_ | apply State.modMeter_onward | apply State.setKeys_onward | apply State.finalSnapshot_onward | apply State.noteScrubbed_onward
    | exact fun _ => meter_keeps | split | dsimp only

end Sys2Proof.Machine
end

