-- ==== Sys2Proof/Laws/Counters.lean ====
section
/-! SUPPORT. What the operations of Machine/Counters.lean never take back (`Onward`), once for each. -/

set_option linter.all false
set_option Elab.async false

namespace Sys2Proof.Machine

theorem State.modCtr_onward {s0 s : State} (p : Part) (f : Counters → Counters) (hOn : Onward s0 s) :
    Onward s0 (s.modCtr p f) := by
  unfold State.modCtr
  repeat' first
    | with_reducible first
      | assumption | refine ite_onward ?_ ?_ | apply State.modSh_onward
    | split | dsimp only

theorem State.snapshot_onward {s0 s : State} (p : Part) (hOn : Onward s0 s) : Onward s0 (s.snapshot p) := by
  unfold State.snapshot
  repeat' first
    | with_reducible first
      | assumption | refine ite_onward ?_ ?_ | apply State.modCtr_onward
    | split | dsimp only

theorem State.chainWrite_onward {s0 s : State} (p : Part) (g inst mask : Nat) (hOn : Onward s0 s) :
    Onward s0 (s.chainWrite p g inst mask).2 := by
  unfold State.chainWrite
  repeat' first
    | with_reducible first
      | assumption | refine ite_onward ?_ ?_ | refine ite_onward_snd ?_ ?_ | apply State.modCtr_onward
    | split | dsimp only

theorem State.resetWrite_onward {s0 s : State} (p : Part) (g inst : Nat) (hOn : Onward s0 s) :
    Onward s0 (s.resetWrite p g inst).2 := by
  unfold State.resetWrite
  repeat' first
    | with_reducible first
      | assumption | refine ite_onward ?_ ?_ | refine ite_onward_snd ?_ ?_ | apply State.modCtr_onward
    | split | dsimp only

theorem State.chainEffective_onward {s0 s : State} (p : Part) (g inst : Nat) (hOn : Onward s0 s) :
    Onward s0 (s.chainEffective p g inst) := by
  unfold State.chainEffective
  repeat' first
    | with_reducible first
      | assumption | refine ite_onward ?_ ?_ | apply State.modCtr_onward
    | split | dsimp only

theorem State.groupIndex_onward {s0 s : State} (p : Part) (c : Ctx) (val : List Byte) (hOn : Onward s0 s) :
    Onward s0 (s.groupIndex p c val).2 := by
  unfold State.groupIndex
  repeat' first
    | with_reducible first
      | assumption | refine ite_onward ?_ ?_ | refine ite_onward_snd ?_ ?_ | apply State.setSel_onward
    | split | dsimp only

theorem State.instanceIndex_onward {s0 s : State} (p : Part) (c : Ctx) (v : Nat) (hOn : Onward s0 s) :
    Onward s0 (s.instanceIndex p c v).2 := by
  unfold State.instanceIndex
  repeat' first
    | with_reducible first
      | assumption | refine ite_onward ?_ ?_ | refine ite_onward_snd ?_ ?_ | apply State.setSel_onward
    | split | dsimp only

theorem State.hostLink_onward {s0 s : State} (port st : Nat) (hOn : Onward s0 s) :
    Onward s0 (s.hostLink port st) := by
  unfold State.hostLink
  repeat' first
    | with_reducible first
      | assumption | refine ite_onward ?_ ?_ | apply State.modMod_onward
    | exact fun _ => ⟨rfl, rfl⟩ | split | dsimp only

theorem State.hostFrame_onward {s0 s : State} (port kind : Nat) (own : Bool) (hOn : Onward s0 s) :
    Onward s0 (s.hostFrame port kind own) := by
  unfold State.hostFrame
  repeat' first
    | with_reducible first
      | assumption | refine ite_onward ?_ ?_ | apply State.modMod_onward | apply State.emit_onward
    | exact fun _ => ⟨rfl, rfl⟩ | split | dsimp only

end Sys2Proof.Machine
end

