-- ==== Sys2Proof/Laws/DirRead.lean ====
section
/-! SUPPORT. What the operations of Machine/DirRead.lean never take back (`Onward`), once for each. -/

set_option linter.all false
set_option Elab.async false

namespace Sys2Proof.Machine

theorem State.dirRead_onward {s0 s : State} (p : Part) (a : Access) (key : Nat) (hOn : Onward s0 s) :
    Onward s0 (s.dirRead p a key).1 := by
  unfold State.dirRead
  repeat' first
    | with_reducible first
      | assumption | refine ite_onward ?_ ?_ | refine ite_onward_fst ?_ ?_ | refine ite_onward_snd ?_ ?_
      | apply dirDenied_onward
    | split | dsimp only

theorem State.segRead_onward {s0 s : State} (p : Part) (a : Access) (key off count : Nat) (hOn : Onward s0 s) :
    Onward s0 (s.segRead p a key off count).1 := by
  unfold State.segRead
  repeat' first
    | with_reducible first
      | assumption | refine ite_onward ?_ ?_ | refine ite_onward_fst ?_ ?_ | refine ite_onward_snd ?_ ?_
      | apply State.modSh_onward | apply State.dirRead_onward | apply dirDenied_onward
    | split | dsimp only

end Sys2Proof.Machine
end

