-- ==== Sys2Proof/Laws/DirWrite.lean ====
section
/-! SUPPORT. What the operations of Machine/DirWrite.lean never take back (`Onward`), once for each. -/

set_option linter.all false
set_option Elab.async false

namespace Sys2Proof.Machine

theorem State.putNum_onward {s0 s : State} (p : Part) (key v : Nat) (ok busy : Bool) (hOn : Onward s0 s) :
    Onward s0 (s.putNum p key v ok busy).2 := by
  unfold State.putNum
  repeat' first
    | with_reducible first
      | assumption | refine ite_onward ?_ ?_ | refine ite_onward_snd ?_ ?_ | apply State.setReg_onward
    | split | dsimp only

theorem State.putCoord_onward {s0 s : State} (p : Part) (key v : Nat) (ok : Bool) (hOn : Onward s0 s) :
    Onward s0 (s.putCoord p key v ok).2 := by
  unfold State.putCoord
  repeat' first
    | with_reducible first
      | assumption | refine ite_onward ?_ ?_ | refine ite_onward_snd ?_ ?_ | apply State.setReg_onward
      | apply State.modSh_onward
    | split | dsimp only

theorem State.putLater_onward {s0 s : State} (p : Part) (key v : Nat) (ok : Bool) (hOn : Onward s0 s) :
    Onward s0 (s.putLater p key v ok).2 := by
  unfold State.putLater
  repeat' first
    | with_reducible first
      | assumption | refine ite_onward ?_ ?_ | refine ite_onward_snd ?_ ?_ | apply State.setRegFrom_onward
    | split | dsimp only

theorem State.selWrite_onward {s0 s : State} (p : Part) (c : Ctx) (key : Nat) (val : List Byte) (hOn : Onward s0 s) :
    Onward s0 (s.selWrite p c key val).2 := by
  unfold State.selWrite
  repeat' first
    | with_reducible first
      | assumption | refine ite_onward ?_ ?_ | refine ite_onward_snd ?_ ?_ | apply State.setSel_onward
      | apply State.groupIndex_onward | apply State.instanceIndex_onward
    | split | dsimp only

theorem State.planesWrite_onward {s0 s : State} (v : Nat) (hOn : Onward s0 s) : Onward s0 (s.planesWrite v).2 := by
  unfold State.planesWrite
  repeat' first
    | with_reducible first
      | assumption | refine ite_onward ?_ ?_ | refine ite_onward_snd ?_ ?_ | apply State.setReg_onward
      | apply State.epPorts_onward
    | split | dsimp only

theorem State.restoreWindow_onward {s0 s : State} (key v : Nat) (hOn : Onward s0 s) :
    Onward s0 (s.restoreWindow key v).2 := by
  unfold State.restoreWindow
  repeat' first
    | with_reducible first
      | assumption | refine ite_onward ?_ ?_ | refine ite_onward_snd ?_ ?_ | apply State.putNum_onward
      | apply State.setReg_onward | apply State.modEp_onward
    | split | dsimp only

theorem State.ncEnable_onward {s0 s : State} (v : Nat) (hOn : Onward s0 s) : Onward s0 (s.ncEnable v) := by
  unfold State.ncEnable
  repeat' first
    | with_reducible first
      | assumption | refine ite_onward ?_ ?_ | apply State.setReg_onward | apply State.modEp_onward
    | split | dsimp only

theorem State.throttleWrite_onward {s0 s : State} (v : Nat) (hOn : Onward s0 s) :
    Onward s0 (s.throttleWrite v).2 := by
  unfold State.throttleWrite
  repeat' first
    | with_reducible first
      | assumption | refine ite_onward ?_ ?_ | refine ite_onward_snd ?_ ?_ | apply State.setReg_onward
      | apply State.modEp_onward
    | split | dsimp only

theorem State.identityLoad_onward {s0 s : State} (unwrapOk : Bool) (hOn : Onward s0 s) :
    Onward s0 (s.identityLoad unwrapOk) := by
  unfold State.identityLoad
  repeat' first
    | with_reducible first
      | assumption | refine ite_onward ?_ ?_ | apply State.modRot_onward
    | split | dsimp only

theorem State.epApply_onward {s0 s : State} (a : Access) (key : Nat) (val : List Byte) (x : DirAux) (hOn : Onward s0 s) :
    OnwardPair s0 (s.epApply a key val x) := by
  unfold State.epApply
  repeat' first
    | with_reducible first
      | assumption | refine ite_onward_snd ?_ ?_ | apply State.resumeWrite_onward | apply State.slotJobWrite_onward
      | apply State.slotRootWrite_onward | apply State.invalidateWrite_onward | apply State.revokeWrite_onward
      | apply State.putNum_onward | apply State.admWrite_onward | apply State.ncEnable_onward
      | apply State.putCoord_onward | apply State.linkEnableWrite_onward | apply State.restoreWindow_onward
      | apply State.planesWrite_onward | apply State.setReg_onward | apply State.degraded_onward
      | apply State.bundleLoad_onward | apply State.identityLoad_onward | apply State.nonceWrite_onward
      | apply State.keyInstall_onward | apply State.jobRetire_onward | apply State.throttleWrite_onward
      | apply State.windowWrite_onward | exact onward_pair_none _ | refine onward_pair_some ?_
    | split | dsimp only

theorem State.credInstall_onward {s0 s : State} (val : List Byte) (unwrapOk : Bool) (hOn : Onward s0 s) :
    Onward s0 (s.credInstall val unwrapOk).2 := by
  unfold State.credInstall
  repeat' first
    | with_reducible first
      | assumption | refine ite_onward ?_ ?_ | refine ite_onward_snd ?_ ?_ | apply State.modMod_onward
      | apply State.logEvent_onward
    | exact fun _ => ⟨rfl, rfl⟩ | split | dsimp only

theorem State.partitionWrite_onward {s0 s : State} (job v : Nat) (hOn : Onward s0 s) :
    Onward s0 (s.partitionWrite job v).2 := by
  unfold State.partitionWrite
  repeat' first
    | with_reducible first
      | assumption | refine ite_onward ?_ ?_ | refine ite_onward_snd ?_ ?_ | apply State.modSh_onward
      | apply State.setReg_onward
    | split | dsimp only

theorem State.limitWrite_onward {s0 s : State} (key v : Nat) (hOn : Onward s0 s) :
    Onward s0 (s.limitWrite key v).2 := by
  unfold State.limitWrite
  repeat' first
    | with_reducible first
      | assumption | refine ite_onward ?_ ?_ | refine ite_onward_snd ?_ ?_ | apply State.putLater_onward
    | split | dsimp only

theorem State.modApply_onward {s0 s : State} (a : Access) (key : Nat) (val : List Byte) (hOn : Onward s0 s) :
    OnwardPair s0 (s.modApply a key val) := by
  unfold State.modApply
  repeat' first
    | with_reducible first
      | assumption | refine ite_onward_snd ?_ ?_ | apply State.groupWrite_onward | apply State.memberWrite_onward
      | apply State.contextWrite_onward | apply State.programWrite_onward | apply State.lateClear_onward
      | apply State.spillWrite_onward | apply State.regionWrite_onward | apply State.handover_onward
      | apply State.clearStaleWrite_onward | apply State.admWrite_onward | apply State.restoreCommand_onward
      | apply State.limitWrite_onward | apply State.putNum_onward | apply State.rolesWrite_onward
      | apply State.putCoord_onward | apply State.poolWrite_onward | apply State.routeWrite_onward
      | apply State.rackRouteWrite_onward | apply State.sliceWrite_onward | apply State.tearSlice_onward
      | apply State.qpWrite_onward | apply State.alignRequest_onward | exact onward_pair_none _
      | refine onward_pair_some ?_
    | split | dsimp only

theorem State.modApply2_onward {s0 s : State} (a : Access) (key : Nat) (val : List Byte) (x : DirAux) (hOn : Onward s0 s) :
    OnwardPair s0 (s.modApply2 a key val x) := by
  unfold State.modApply2
  repeat' first
    | with_reducible first
      | assumption | refine ite_onward_snd ?_ ?_ | apply State.restoreRequest_onward
      | apply State.rebindRequest_onward | apply State.corruption_onward | apply State.windowWrite_onward
      | apply State.clearSuspect_onward | apply State.bundleUpload_onward | apply State.bundleCommit_onward
      | apply State.nonceWrite_onward | apply State.keyInstall_onward | apply State.jobRetire_onward
      | apply State.credInstall_onward | apply State.partitionWrite_onward | apply State.requestState_onward
      | apply State.putNum_onward | apply State.modPower_onward | apply State.capStep_onward
      | apply State.renewLease_onward | apply State.ackRecordWrite_onward | exact onward_pair_none _
      | refine onward_pair_some ?_
    | split | dsimp only

theorem State.bothApply_onward {s0 s : State} (p : Part) (a : Access) (key : Nat) (val : List Byte) (hOn : Onward s0 s) :
    OnwardPair s0 (s.bothApply p a key val) := by
  unfold State.bothApply
  repeat' first
    | with_reducible first
      | assumption | refine ite_onward_snd ?_ ?_ | apply State.widthWrite_onward | apply State.clockingWrite_onward
      | apply State.eyeStart_onward | apply State.switchTimeWrite_onward | apply State.putNum_onward
      | apply State.mownWrite_onward | apply dirDenied_onward | apply State.modSh_onward
      | apply State.modDomain_onward | apply State.chainWrite_onward | apply State.resetWrite_onward
      | apply State.putLater_onward | exact onward_pair_none _ | refine onward_pair_some ?_
    | split | dsimp only

theorem State.dirApply_onward {s0 s : State} (p : Part) (a : Access) (key : Nat) (val : List Byte) (x : DirAux)
    (hOn : Onward s0 s) : Onward s0 (s.dirApply p a key val x).2 := by
  have own : OnwardPair s0 (match p with
      | .ep => s.epApply a key val x
      | .mod => (s.modApply a key val).orElse fun _ => s.modApply2 a key val x) := by
    cases p
    · exact State.epApply_onward _ _ _ _ hOn
    · exact OnwardPair.orElse (State.modApply_onward _ _ _ hOn) (State.modApply2_onward _ _ _ _ hOn)
  have all := OnwardPair.orElse (p := fun _ => s.bothApply p a key val) own (State.bothApply_onward _ _ _ _ hOn)
  unfold State.dirApply
  split
  · exact hOn
  · split
    · exact hOn
    · split
      · exact State.selWrite_onward _ _ _ _ hOn
      · dsimp only
        split
        · rename_i r hr; exact all r hr
        · split
          · exact State.setRegFrom_onward _ _ _ _ hOn
          · exact State.modSh_onward p (fun sh => sh.setReg key (s.instOf p a.ctx key) (beNat val)) hOn

theorem State.dirWriteAny_onward {s0 s : State} (p : Part) (a : Access) (key : Nat) (val : List Byte) (hOn : Onward s0 s) :
    Onward s0 (s.dirWriteAny p a key val).2 :=
  dirWriteWith_onward _ _ _ _ (fun _ ht => State.dirApply_onward _ _ _ _ _ (State.drawn_onward ht)) hOn

theorem State.putAssembly_onward {s0 s : State} (p : Part) (c : Ctx) (key : Nat) (data : List Byte) (hOn : Onward s0 s) :
    Onward s0 (s.putAssembly p c key data) := by
  unfold State.putAssembly
  repeat' first
    | with_reducible first
      | assumption | refine ite_onward ?_ ?_ | apply State.modSh_onward
    | split | dsimp only

theorem State.dropAssembly_onward {s0 s : State} (p : Part) (c : Ctx) (key : Nat) (hOn : Onward s0 s) :
    Onward s0 (s.dropAssembly p c key) := by
  unfold State.dropAssembly
  repeat' first
    | with_reducible first
      | assumption | refine ite_onward ?_ ?_ | apply State.modSh_onward
    | split | dsimp only

theorem State.segTake_onward {s0 s : State} (p : Part) (a : Access) (e : Entry) (key : Nat) (data seg : List Byte) (hOn : Onward s0 s) :
    Onward s0 (s.segTake p a e key data seg).2 := by
  unfold State.segTake
  repeat' first
    | with_reducible first
      | assumption | refine ite_onward ?_ ?_ | refine ite_onward_snd ?_ ?_ | apply State.dropAssembly_onward
      | apply State.drawn_onward | apply State.dirApply_onward | apply State.putAssembly_onward
    | split | dsimp only

theorem State.segTakeAt_onward {s0 s : State} (p : Part) (a : Access) (key off : Nat) (seg : List Byte) (most : Nat) (hOn : Onward s0 s) :
    Onward s0 (s.segTakeAt p a key off seg most).2 := by
  unfold State.segTakeAt
  repeat' first
    | with_reducible first
      | assumption | refine ite_onward ?_ ?_ | refine ite_onward_snd ?_ ?_ | apply State.dropAssembly_onward
      | apply State.segTake_onward
    | split | dsimp only

theorem State.segWrite_onward {s0 s : State} (p : Part) (a : Access) (key off : Nat) (seg : List Byte) (most : Nat)
    (hOn : Onward s0 s) : Onward s0 (s.segWrite p a key off seg most).2 :=
  dirWriteWith_onward _ _ _ _ (fun _ ht => State.segTakeAt_onward _ _ _ _ _ _ ht) hOn

theorem State.blobExpire_onward {s0 s : State} (p : Part) (c : Ctx) (key : Nat) (hOn : Onward s0 s) :
    Onward s0 (s.blobExpire p c key) := by
  unfold State.blobExpire
  repeat' first
    | with_reducible first
      | assumption | refine ite_onward ?_ ?_ | apply State.modSh_onward
    | split | dsimp only

end Sys2Proof.Machine
end

