-- ==== Sys2Proof/Laws/EriReq.lean ====
section
/-! SUPPORT. What the operations of Machine/EriReq.lean never take back (`Onward`), once for each. -/

set_option linter.all false
set_option Elab.async false

namespace Sys2Proof.Machine

theorem State.eriAnswer_onward {s0 s : State} (l : Nat) (m : Eri) (code : Nat) (coll : Bool) (hOn : Onward s0 s) :
    Onward s0 (s.eriAnswer l m code coll) := by
  unfold State.eriAnswer
  repeat' first
    | with_reducible first
      | assumption | refine ite_onward ?_ ?_ | apply State.sendComp_onward
    | split | dsimp only

theorem State.eriMalformed_onward {s0 s : State} (l : Nat) (m : Eri) (hOn : Onward s0 s) :
    Onward s0 (s.eriMalformed l m) := by
  unfold State.eriMalformed
  repeat' first
    | with_reducible first
      | assumption | refine ite_onward ?_ ?_ | apply State.epCount_onward | apply State.eriAnswer_onward
    | split | dsimp only

theorem State.noSlot_onward {s0 s : State} (l : Nat) (m : Eri) (code : Nat) (hOn : Onward s0 s) :
    Onward s0 (s.noSlot l m code) := by
  unfold State.noSlot
  repeat' first
    | with_reducible first
      | assumption | refine ite_onward ?_ ?_ | apply State.epCount_onward | apply State.eriAnswer_onward
    | split | dsimp only

theorem State.takeTag_onward {s0 s : State} (m : Eri) (hOn : Onward s0 s) : Onward s0 (s.takeTag m) := by
  unfold State.takeTag
  repeat' first
    | with_reducible first
      | assumption | refine ite_onward ?_ ?_ | apply State.modEp_onward
    | split | dsimp only

theorem State.eriAccess_onward {s0 s : State} (l : Nat) (m : Eri) (ecc : List Nat) (hOn : Onward s0 s) :
    Onward s0 (s.eriAccess l m ecc) := by
  unfold State.eriAccess
  repeat' first
    | with_reducible first
      | assumption | refine ite_onward ?_ ?_ | apply State.eriMalformed_onward | apply State.noSlot_onward
      | apply State.takeTag_onward | apply State.modSh_onward | apply State.translate_onward
      | apply State.tryIssue_onward
    | split | dsimp only

theorem State.fenceComplete_onward {s0 s : State} (order : Nat) (hOn : Onward s0 s) :
    Onward s0 (s.fenceComplete order) := by
  unfold State.fenceComplete
  repeat' first
    | with_reducible first
      | assumption | refine ite_onward ?_ ?_ | apply State.modEp_onward | apply State.endTag_onward
    | split | dsimp only

theorem State.eriFence_onward {s0 s : State} (l : Nat) (m : Eri) (hOn : Onward s0 s) :
    Onward s0 (s.eriFence l m) := by
  unfold State.eriFence
  repeat' first
    | with_reducible first
      | assumption | refine ite_onward ?_ ?_ | apply State.eriMalformed_onward | apply State.takeTag_onward
      | apply State.modSh_onward | apply State.modEp_onward | apply State.fenceComplete_onward
    | split | dsimp only

theorem State.eriInvalidate_onward {s0 s : State} (l : Nat) (m : Eri) (hOn : Onward s0 s) :
    Onward s0 (s.eriInvalidate l m) := by
  unfold State.eriInvalidate
  repeat' first
    | with_reducible first
      | assumption | refine ite_onward ?_ ?_ | apply State.ncInvalidate_onward | apply State.eriAnswer_onward
    | split | dsimp only

theorem State.eriCopy_onward {s0 s : State} (l : Nat) (m : Eri) (hOn : Onward s0 s) : Onward s0 (s.eriCopy l m) := by
  unfold State.eriCopy
  repeat' first
    | with_reducible first
      | assumption | refine ite_onward ?_ ?_ | apply State.eriMalformed_onward | apply State.noSlot_onward
      | apply State.epCount_onward | apply State.eriAnswer_onward | apply State.takeTag_onward
      | apply State.addCopy_onward
    | split | dsimp only

theorem State.eriListArm_onward {s0 s : State} (l : Nat) (m : Eri) (hOn : Onward s0 s) :
    Onward s0 (s.eriListArm l m) := by
  unfold State.eriListArm
  repeat' first
    | with_reducible first
      | assumption | refine ite_onward ?_ ?_ | apply State.noSlot_onward | apply State.eriAnswer_onward
      | apply State.takeTag_onward | apply State.modEp_onward | apply State.needGranule_onward
      | refine foldl_onward (fun _ _ _ => ?_) _ _ ?_ | refine foldl_onward_fst (fun _ _ _ => ?_) _ _ ?_
    | split | dsimp only

theorem State.eriListCancel_onward {s0 s : State} (l : Nat) (m : Eri) (hOn : Onward s0 s) :
    Onward s0 (s.eriListCancel l m) := by
  unfold State.eriListCancel
  repeat' first
    | with_reducible first
      | assumption | refine ite_onward ?_ ?_ | apply State.eriAnswer_onward | apply State.listEnd_onward
    | split | dsimp only

theorem State.eriCollective_onward {s0 s : State} (l : Nat) (m : Eri) (hOn : Onward s0 s) :
    Onward s0 (s.eriCollective l m) := by
  unfold State.eriCollective
  repeat' first
    | with_reducible first
      | assumption | refine ite_onward ?_ ?_ | apply State.noSlot_onward | apply State.eriAnswer_onward
      | apply State.takeTag_onward | apply State.collStart_onward
    | split | dsimp only

theorem State.eriRun_onward {s0 s : State} (l : Nat) (m : Eri) (ecc : List Nat) (hOn : Onward s0 s) :
    Onward s0 (s.eriRun l m ecc) := by
  unfold State.eriRun
  repeat' first
    | with_reducible first
      | assumption | refine ite_onward ?_ ?_ | apply State.eriAnswer_onward | apply State.eriAccess_onward
      | apply State.eriFence_onward | apply State.eriInvalidate_onward | apply State.eriCopy_onward
      | apply State.eriListArm_onward | apply State.eriListCancel_onward | apply State.eriCollective_onward
      | apply State.eriMalformed_onward
    | split | dsimp only

end Sys2Proof.Machine
end

