-- ==== Sys2Proof/Laws/Protocol.lean ====
section
/-! SUPPORT. What the operations of Machine/Protocol.lean never take back (`Onward`), once for each. -/

set_option linter.all false
set_option Elab.async false

namespace Sys2Proof.Machine

theorem State.authFail_onward {s0 s : State} (hOn : Onward s0 s) : Onward s0 (s.authFail) := by
  unfold State.authFail
  repeat' first
    | with_reducible first
      | assumption | refine ite_onward ?_ ?_ | apply State.mgCount_onward
    | split | dsimp only

theorem State.protoGate_onward {s0 s : State} (m : PMsg) (hOn : Onward s0 s) : Onward s0 (s.protoGate m).1 := by
  unfold State.protoGate
  repeat' first
    | with_reducible first
      | assumption | refine ite_onward ?_ ?_ | refine ite_onward_fst ?_ ?_ | refine ite_onward_snd ?_ ?_
      | apply State.mgCount_onward | apply State.modMod_onward
    | exact fun _ => ⟨rfl, rfl⟩ | split | dsimp only

theorem State.openFails_onward {s0 s : State} (m : PMsg) (hOn : Onward s0 s) : Onward s0 (s.openFails m) := by
  unfold State.openFails
  repeat' first
    | with_reducible first
      | assumption | refine ite_onward ?_ ?_ | apply State.authFail_onward | apply State.modMod_onward
    | exact fun _ => ⟨rfl, rfl⟩ | split | dsimp only

theorem State.dropCtx_onward {s0 s : State} (p : Part) (c : Ctx) (hOn : Onward s0 s) : Onward s0 (s.dropCtx p c) := by
  unfold State.dropCtx
  repeat' first
    | with_reducible first
      | assumption | refine ite_onward ?_ ?_ | apply State.modSh_onward
    | split | dsimp only

theorem State.protoOpen_onward {s0 s : State} (m : PMsg) (hOn : Onward s0 s) : Onward s0 (s.protoOpen m).1 := by
  unfold State.protoOpen
  repeat' first
    | with_reducible first
      | assumption | refine ite_onward ?_ ?_ | refine ite_onward_fst ?_ ?_ | refine ite_onward_snd ?_ ?_
      | apply State.openFails_onward | apply State.authFail_onward | apply State.drawn_onward
      | apply State.dropCtx_onward | apply State.modMod_onward
    | exact fun _ => ⟨rfl, rfl⟩ | split | dsimp only

theorem State.commit_onward {s0 s : State} (a : Access) (m : PMsg) (hOn : Onward s0 s) :
    Onward s0 (s.commit a m).2 := by
  unfold State.commit
  repeat' first
    | with_reducible first
      | assumption | refine ite_onward ?_ ?_ | refine ite_onward_snd ?_ ?_ | apply State.dirWriteAny_onward
    | split | dsimp only

theorem State.protoRun_onward {s0 s : State} (a : Access) (m : PMsg) (hOn : Onward s0 s) :
    Onward s0 (s.protoRun a m).1 := by
  unfold State.protoRun
  repeat' first
    | with_reducible first
      | assumption | refine ite_onward ?_ ?_ | refine ite_onward_fst ?_ ?_ | refine ite_onward_snd ?_ ?_
      | apply State.dirRead_onward | apply State.dirWriteAny_onward | apply State.segRead_onward
      | apply State.segWrite_onward | apply State.commit_onward
    | split | dsimp only

theorem State.protoSession_onward {s0 s : State} (path : Path) (m : PMsg) (hOn : Onward s0 s) :
    Onward s0 (s.protoSession path m).1 := by
  unfold State.protoSession
  repeat' first
    | with_reducible first
      | assumption | refine ite_onward ?_ ?_ | refine ite_onward_fst ?_ ?_ | refine ite_onward_snd ?_ ?_
      | apply State.authFail_onward | apply State.modMod_onward | apply State.protoRun_onward
    | exact fun _ => ⟨rfl, rfl⟩ | split | dsimp only

theorem State.proto_onward {s0 s : State} (path : Path) (op : Nat) (m : PMsg) (hOn : Onward s0 s) :
    Onward s0 (s.proto path op m).1 := by
  unfold State.proto
  repeat' first
    | with_reducible first
      | assumption | refine ite_onward ?_ ?_ | refine ite_onward_fst ?_ ?_ | refine ite_onward_snd ?_ ?_
      | apply State.protoGate_onward | apply State.authFail_onward | apply State.protoOpen_onward
      | apply State.protoSession_onward
    | split | dsimp only

theorem State.protoUdp_onward {s0 s : State} (op : Nat) (m : PMsg) (hOn : Onward s0 s) :
    Onward s0 (s.protoUdp op m) := by
  unfold State.protoUdp
  repeat' first
    | with_reducible first
      | assumption | refine ite_onward ?_ ?_ | apply State.proto_onward | apply State.emit_onward
    | split | dsimp only

theorem State.roceSend_onward {s0 s : State} (n : Nat) (m : PMsg) (hOn : Onward s0 s) :
    Onward s0 (s.roceSend n m) := by
  unfold State.roceSend
  repeat' first
    | with_reducible first
      | assumption | refine ite_onward ?_ ?_ | apply State.proto_onward | apply State.roceEnd_onward
    | split | dsimp only

theorem State.sessionIdle_onward {s0 s : State} (id : Nat) (hOn : Onward s0 s) : Onward s0 (s.sessionIdle id) := by
  unfold State.sessionIdle
  repeat' first
    | with_reducible first
      | assumption | refine ite_onward ?_ ?_ | apply State.modMod_onward
    | exact fun _ => ⟨rfl, rfl⟩ | split | dsimp only

theorem State.smbAnswer_onward {s0 s : State} (p : Part) (cmd : Nat) (sent : List Byte) (r : State × Nat × List Byte) (h : Onward s0 r.1)
    (hOn : Onward s0 s) : Onward s0 (s.smbAnswer p cmd sent r) := by
  unfold State.smbAnswer
  dsimp only
  refine ite_onward (State.emit_onward _ ?_) hOn
  split <;> exact h

theorem State.smbRead_onward {s0 s : State} (p : Part) (key : Nat) (hOn : Onward s0 s) : Onward s0 (s.smbRead p key) :=
  State.smbAnswer_onward _ _ _ _ (State.dirRead_onward _ _ _ hOn) hOn

theorem State.smbWriteWith_onward {s0 s : State} (p : Part) (pecOk : Bool) (f : State → Nat × State)
    (hf : ∀ t, Onward s0 t → Onward s0 (f t).2) (hOn : Onward s0 s) : Onward s0 (s.smbWriteWith p pecOk f) := by
  unfold State.smbWriteWith
  split
  · exact hOn
  · exact State.modSh_onward _ _ (ite_onward_snd (hf _ hOn) hOn)

theorem State.smbWrite_onward {s0 s : State} (p : Part) (key : Nat) (val : List Byte) (pec : Nat) (hOn : Onward s0 s) :
    Onward s0 (s.smbWrite p key val pec) :=
  State.smbWriteWith_onward _ _ _ (fun _ ht => State.dirWriteAny_onward _ _ _ _ ht) hOn

theorem State.smbSegWrite_onward {s0 s : State} (p : Part) (key off : Nat) (data : List Byte) (pec : Nat) (hOn : Onward s0 s) :
    Onward s0 (s.smbSegWrite p key off data pec) :=
  State.smbWriteWith_onward _ _ _ (fun _ ht => State.segWrite_onward _ _ _ _ _ _ ht) hOn

theorem State.smbSegRead_onward {s0 s : State} (p : Part) (key off count : Nat) (hOn : Onward s0 s) :
    Onward s0 (s.smbSegRead p key off count) :=
  State.smbAnswer_onward _ _ _ _ (State.segRead_onward _ _ _ _ _ hOn) hOn

theorem State.smbStatusRead_onward {s0 s : State} (p : Part) (hOn : Onward s0 s) : Onward s0 (s.smbStatusRead p) := by
  unfold State.smbStatusRead
  repeat' first
    | with_reducible first
      | assumption | refine ite_onward ?_ ?_ | apply State.emit_onward
    | split | dsimp only

theorem State.eriDirRun_onward {s0 s : State} (m : Eri) (hOn : Onward s0 s) : Onward s0 (s.eriDirRun m).1 := by
  unfold State.eriDirRun
  repeat' first
    | with_reducible first
      | assumption | refine ite_onward ?_ ?_ | refine ite_onward_fst ?_ ?_ | refine ite_onward_snd ?_ ?_
      | apply State.segWrite_onward | apply State.dirWriteAny_onward | apply State.segRead_onward
      | apply State.dirRead_onward
    | split | dsimp only

theorem State.eriDir_onward {s0 s : State} (l : Nat) (m : Eri) (hOn : Onward s0 s) : Onward s0 (s.eriDir l m) := by
  unfold State.eriDir
  repeat' first
    | with_reducible first
      | assumption | refine ite_onward ?_ ?_ | apply State.eriAnswer_onward | apply State.eriDirRun_onward
      | apply State.sendComp_onward
    | split | dsimp only

end Sys2Proof.Machine
end

