-- ==== Sys2Proof/Laws/EndpointRun.lean ====
section
/-! SUPPORT. What the operations of Machine/EndpointRun.lean never take back (`Onward`), once for each. -/

set_option linter.all false
set_option Elab.async false

namespace Sys2Proof.Machine

theorem State.eriAccept_onward {s0 s : State} (l : Nat) (m : Eri) (ecc : List Nat) (hOn : Onward s0 s) :
    Onward s0 (s.eriAccept l m ecc) := by
  unfold State.eriAccept
  repeat' first
    | with_reducible first
      | assumption | refine ite_onward ?_ ?_ | apply State.returnReq_onward | apply State.eriDir_onward
      | apply State.eriRun_onward
    | split | dsimp only

theorem State.drainEri_onward {s0 s : State} (hOn : Onward s0 s) : Onward s0 (s.drainEri) := by
  unfold State.drainEri
  repeat' first
    | with_reducible first
      | assumption | refine ite_onward ?_ ?_ | apply State.eriAccept_onward | apply State.modEp_onward
      | refine foldl_onward (fun _ _ _ => ?_) _ _ ?_ | refine foldl_onward_fst (fun _ _ _ => ?_) _ _ ?_
    | split | dsimp only

theorem State.epOn_onward {s0 s : State} (hOn : Onward s0 s) : Onward s0 (s.epOn) := by
  unfold State.epOn
  repeat' first
    | with_reducible first
      | assumption | refine ite_onward ?_ ?_ | apply State.collsOn_onward | apply State.tilesOn_onward
      | apply State.copiesDone_onward | apply State.listsOn_onward | apply State.drainEri_onward
    | split | dsimp only

theorem State.modOn_onward {s0 s : State} (hOn : Onward s0 s) : Onward s0 (s.modOn) := by
  unfold State.modOn
  repeat' first
    | with_reducible first
      | assumption | refine ite_onward ?_ ?_ | apply State.regionsOn_onward | apply State.mcOn_onward
      | apply State.pushOn_onward | apply State.pushEnd_onward | apply State.fenceOn_onward
    | split | dsimp only

theorem State.partOn_onward {s0 s : State} (p : Part) (hOn : Onward s0 s) : Onward s0 (s.partOn p) := by
  unfold State.partOn
  repeat' first
    | with_reducible first
      | assumption | refine ite_onward ?_ ?_ | apply State.epOn_onward | apply State.modOn_onward
    | split | dsimp only

theorem State.eriRequest_onward {s0 s : State} (l : Nat) (kind : Nat) (m : Eri) (ecc : List Nat) (hOn : Onward s0 s) :
    Onward s0 (s.eriRequest l kind m ecc) := by
  unfold State.eriRequest
  repeat' first
    | with_reducible first
      | assumption | refine ite_onward ?_ ?_ | apply State.epCount_onward | apply State.returnReq_onward
      | apply State.eriMalformed_onward | apply State.eriAnswer_onward | apply State.eriAccept_onward
      | apply State.modEp_onward | refine OnwardOpt.get ?_ ‹State.takeCredit _ _ _ _ = some _›
      | apply State.takeCredit_onward
    | split | dsimp only

theorem State.ownAnswer_onward {s0 s : State} (id code : Nat) (data : List Byte) (hOn : Onward s0 s) :
    Onward s0 (s.ownAnswer id code data) := by
  unfold State.ownAnswer
  repeat' first
    | with_reducible first
      | assumption | refine ite_onward ?_ ?_ | apply State.epCount_onward | apply State.endReq_onward
      | apply State.fillAndTake_onward
    | split | dsimp only

theorem State.memTo_onward {s0 s : State} (who : MemFor) (code : Nat) (data : List Byte) (hOn : Onward s0 s) :
    Onward s0 (s.memTo who code data) := by
  unfold State.memTo
  repeat' first
    | with_reducible first
      | assumption | refine ite_onward ?_ ?_ | apply State.finishProg_onward | apply State.ownAnswer_onward
      | apply State.walkAnswer_onward | apply State.listAnswer_onward | apply State.pieceAnswer_onward
      | apply State.resultAnswer_onward | apply State.restoreAnswer_onward | apply State.routeAnswer_onward
    | split | dsimp only

theorem State.memDrop_onward {s0 s : State} (tag : Nat) (hOn : Onward s0 s) : Onward s0 (s.memDrop tag) := by
  unfold State.memDrop
  repeat' first
    | with_reducible first
      | assumption | refine ite_onward ?_ ?_ | apply State.modEp_onward
    | split | dsimp only

theorem State.memTake_onward {s0 s : State} (w : MemMsg) (m : Eri) (hOn : Onward s0 s) :
    Onward s0 (s.memTake w m) := by
  unfold State.memTake
  repeat' first
    | with_reducible first
      | assumption | refine ite_onward ?_ ?_ | apply State.memDrop_onward | apply State.epCount_onward
      | apply State.memTo_onward | apply State.flushTx_onward
    | split | dsimp only

theorem State.memAnswer_onward {s0 s : State} (l : Nat) (m : Eri) (hOn : Onward s0 s) :
    Onward s0 (s.memAnswer l m) := by
  unfold State.memAnswer
  repeat' first
    | with_reducible first
      | assumption | refine ite_onward ?_ ?_ | apply State.epCount_onward | apply State.giveCredit_onward
      | apply State.memTake_onward | apply State.epOn_onward
      | refine OnwardOpt.get ?_ ‹State.takeCredit _ _ _ _ = some _› | apply State.takeCredit_onward
    | split | dsimp only

theorem State.memTimeout_onward {s0 s : State} (tag : Nat) (hOn : Onward s0 s) : Onward s0 (s.memTimeout tag) := by
  unfold State.memTimeout
  repeat' first
    | with_reducible first
      | assumption | refine ite_onward ?_ ?_ | apply State.memDrop_onward | apply State.epCount_onward
      | apply State.memTo_onward | apply State.flushTx_onward | apply State.epOn_onward
    | split | dsimp only

theorem State.arrives_onward {s0 s : State} (p : Part) (k : Packet) (hOn : Onward s0 s) :
    Onward s0 (s.arrives p k) := by
  unfold State.arrives
  repeat' first
    | with_reducible first
      | assumption | refine ite_onward ?_ ?_ | apply State.takeIn_onward
    | split | dsimp only

theorem State.fabricIn_onward {s0 s : State} (p : Part) (k : Packet) (f : State → State) (hf : ∀ t, Onward s0 t → Onward s0 (f t))
    (hOn : Onward s0 s) : Onward s0 (s.fabricIn p k f) := by
  unfold State.fabricIn
  split
  · exact hOn
  · split
    · exact State.dropFrame_onward _ _ hOn
    · exact State.partOn_onward _ (hf _ (State.arrives_onward _ _ hOn))

theorem State.fabricRequest_onward {s0 s : State} (p : Part) (k : Packet) (port : Nat) (tagOk : Bool) (err : Nat) (hOn : Onward s0 s) :
    OnwardAns s0 (s.fabricRequest p k port tagOk err) := by
  unfold State.fabricRequest
  repeat' first
    | with_reducible first
      | assumption | refine ite_onward ?_ ?_ | apply State.dropFrame_onward | apply State.arrives_onward
      | apply State.receive_onward | apply State.epOn_onward | refine onward_next ?_ | exact onward_fault _
      | apply State.commonsAccess_onward
    | split | dsimp only

theorem State.flagResolve_onward {s0 s : State} (p : Part) (src seq : Nat) (hOn : Onward s0 s) :
    OnwardAns s0 (s.flagResolve p src seq) := by
  unfold State.flagResolve
  repeat' first
    | with_reducible first
      | assumption | refine ite_onward ?_ ?_ | apply State.holdResolve_onward | refine onward_next ?_
      | exact onward_fault _ | apply State.commonsAccess_onward
    | split | dsimp only

theorem State.issueAny_onward {s0 s : State} (p : Part) (id : Nat) (ecc : List Nat) (hOn : Onward s0 s) :
    Onward s0 (s.issueAny p id ecc) := by
  unfold State.issueAny
  repeat' first
    | with_reducible first
      | assumption | refine ite_onward ?_ ?_ | apply State.tryIssueEcc_onward | apply State.tryDeliver_onward
    | split | dsimp only

end Sys2Proof.Machine
end

