-- ==== Sys2Proof/Laws/Fields.lean ====
section
/-! SUPPORT. Reads of registers, clock domains, ports, lanes, tiles and keys after writes of them. -/

set_option Elab.async false

namespace Sys2Proof.Machine

theorem tabGetD_put_same {α : Type} [DecidableEq α] (t : Tab α) (k : Nat) (v d : α) : tabGetD (tabPut t k v d) k d = v :=
  tabGetD_tabPut_same t k v d

theorem tabGetD_put_other {α : Type} [DecidableEq α] (t : Tab α) {k l : Nat} (v d d' : α) (h : l ≠ k) :
    tabGetD (tabPut t k v d) l d' = tabGetD t l d' := by
  unfold tabPut tabGetD; split
  · rw [tabGet_tabDel_other _ h]
  · rw [tabGet_tabSet_other _ _ h]

theorem Shared.reg_setReg_same (sh : Shared) (key inst v : Nat) : (sh.setReg key inst v).reg key inst = v := by
  simp [Shared.reg, Shared.setReg, tabGetD_tabPut_same]

theorem State.reg_setReg_same (s : State) (p : Part) (key v : Nat) : (s.setReg p key v).reg p key = v := by
  simp [State.reg, State.setReg, Shared.reg_setReg_same]

theorem State.domain_mod_same (s : State) (p : Part) (d : Nat) (f : Domain → Domain) :
    (s.modDomain p d f).domain p d = f (s.domain p d) := by
  simp [State.modDomain, State.domain, tabGetD_tabPut_same]

theorem State.domain_mod_other (s : State) (p : Part) {d e : Nat} (f : Domain → Domain) (h : e ≠ d) :
    (s.modDomain p d f).domain p e = s.domain p e := by
  simp [State.modDomain, State.domain, tabGetD_put_other _ _ _ _ h]

theorem State.domain_muxStart_other (s : State) (p : Part) {d e : Nat} (r : Nat) (h : e ≠ d) :
    (s.muxStart p d r).domain p e = s.domain p e := by
  unfold State.muxStart; split
  · rfl
  · exact State.domain_mod_other _ _ _ h

theorem State.port_setPort_same (s : State) (p : Part) (n : Nat) (q : Port) : (s.setPort p n q).port p n = q := by
  cases p <;> exact tabGetD_put_same _ _ _ _

theorem State.port_setPort_other (s : State) (p : Part) {n m : Nat} (q : Port) (h : m ≠ n) :
    (s.setPort p n q).port p m = s.port p m := by
  cases p <;> exact tabGetD_put_other _ _ _ _ h

theorem State.port_setLane (s : State) (p : Part) (n m : Nat) (l : Lane) : (s.setLane p n l).port p m = s.port p m := by
  cases p <;> rfl

theorem State.lane_setLane_same (s : State) (p : Part) (n : Nat) (l : Lane) : (s.setLane p n l).lane p n = l := by
  cases p <;> exact tabGetD_put_same _ _ _ _

theorem State.lane_setLane_other (s : State) (p : Part) {n m : Nat} (l : Lane) (h : m ≠ n) :
    (s.setLane p n l).lane p m = s.lane p m := by
  cases p <;> exact tabGetD_put_other _ _ _ _ h

theorem State.lane_setPort (s : State) (p : Part) (n m : Nat) (q : Port) : (s.setPort p n q).lane p m = s.lane p m := by
  cases p <;> rfl

theorem State.port_portCount (s : State) (p : Part) (n k m : Nat) : (s.portCount p n k).port p m = s.port p m := by
  cases p <;> exact State.count_keeps _ (fun t => t.port _ m) _ (fun _ _ => rfl) (fun _ _ => rfl) ..

theorem State.port_count (s : State) (p : Part) (g i k n m : Nat) : (s.count p g i k n).port p m = s.port p m := by
  exact State.count_keeps _ (fun t => t.port p m) p (by cases p <;> exact fun _ _ => rfl) (by cases p <;> exact fun _ _ => rfl) ..

theorem State.out_count (s : State) (p : Part) (g i k n : Nat) : (s.count p g i k n).out = s.out :=
  State.count_keeps _ (fun t => t.out) p (by cases p <;> exact fun _ _ => rfl) (by cases p <;> exact fun _ _ => rfl) ..

theorem State.out_portCount (s : State) (p : Part) (n k : Nat) : (s.portCount p n k).out = s.out := by
  cases p <;> exact State.out_count ..

/-- Counting slots keeps the ports and what was sent. -/
theorem State.portSlots_keeps (s : State) (p : Part) (n l c m : Nat) :
    (s.portSlots p n l c).port p m = s.port p m ∧ (s.portSlots p n l c).out = s.out := by
  unfold State.portSlots State.slotCount
  exact ⟨(State.port_count ..).trans (State.port_count ..), (State.out_count ..).trans (State.out_count ..)⟩

theorem State.tile_modTile_same (s : State) (t : Nat) (f : Tile → Tile) : (s.modTile t f).tile t = f (s.tile t) := by
  simp [State.modTile, State.tile, tabGetD_tabPut_same]

theorem State.tile_modTile_other (s : State) {t r : Nat} (f : Tile → Tile) (h : r ≠ t) : (s.modTile t f).tile r = s.tile r := by
  simp [State.modTile, State.tile, tabGetD_put_other _ _ _ _ h]

/-- Changing some lanes keeps every port; those lanes are changed once and the others not at all. -/
theorem State.foldl_modLane (p : Part) (f : Lane → Lane) (l : List Nat) (hl : l.Nodup) (s : State) :
    (∀ n, (l.foldl (fun s i => s.modLane p i f) s).port p n = s.port p n) ∧
    (∀ i ∈ l, (l.foldl (fun s i => s.modLane p i f) s).lane p i = f (s.lane p i)) ∧
    (∀ i, i ∉ l → (l.foldl (fun s i => s.modLane p i f) s).lane p i = s.lane p i) ∧
    (l.foldl (fun s i => s.modLane p i f) s).out = s.out := by
  induction l generalizing s with
  | nil => simp
  | cons x l ih =>
    rw [List.nodup_cons] at hl
    obtain ⟨h1, h2, h3, h4⟩ := ih hl.2 (s.modLane p x f)
    rw [List.foldl_cons]
    refine ⟨fun n => (h1 n).trans (State.port_setLane ..), ?_, ?_, ?_⟩
    · intro i hi
      rcases List.mem_cons.1 hi with rfl | hi
      · rw [h3 _ hl.1, State.modLane, State.lane_setLane_same]
      · have hne : i ≠ x := fun h => hl.1 (h ▸ hi)
        rw [h2 _ hi, State.modLane, State.lane_setLane_other _ _ _ hne]
    · intro i hi
      simp only [List.mem_cons, not_or] at hi
      rw [h3 _ hi.2, State.modLane, State.lane_setLane_other _ _ _ hi.1]
    · rw [h4]; cases p <;> rfl

end Sys2Proof.Machine
end

