-- ==== Sys2Proof/Laws/Named.lean ====
section
/-! SUPPORT. Writes of named Directory entries (R327): what carries out a write that steps 1 to 4 let through and whose value
has the form of the entry. -/

set_option Elab.async false

namespace Sys2Proof.Machine

/-- R327: a write that steps 1 to 4 let through is carried out and answered. -/
theorem State.writeEntry_of {s : State} {p : Part} {a : Access} {key : Nat} (k : State → Nat × State)
    (hd : dirCheck p a key true s = 0) : s.writeEntry p a key k = dirAnswer p a.ctx (k s) := by
  unfold State.writeEntry dirWriteWith
  rw [hd]
  rfl

theorem State.writeNamed_of {s : State} {p : Part} {a : Access} {key : Nat} {val : List Byte}
    (hd : dirCheck p a key true s = 0) : s.writeNamed p a key val = dirAnswer p a.ctx (s.dirApply p a key val DirAux.none_) :=
  State.writeEntry_of _ hd

/-- R327 step 3: turning a principal away keeps whatever neither the counters nor the log of the part is part of. -/
theorem dirDenied_keeps {β : Type} (g : State → β) (s : State) (p : Part) (a : Access) (key : Nat)
    (hl : ∀ (t : State) (f : EventLog → EventLog), g (t.modSh p fun sh => { sh with log := f sh.log }) = g t)
    (hc : ∀ (t : State) (f : Counters → Counters), g (t.modSh p fun sh => { sh with ctr := f sh.ctr }) = g t) :
    g (dirDenied p a key s) = g s := by
  unfold dirDenied
  dsimp only
  rw [State.bothCount_keeps _ g p hl hc, State.logEvent_keeps _ g p hl]

/-- R46: the entries of the 64 slots are spelled by the slot. -/
theorem slotKey_slotEntry {n k : Nat} (hn : n < 64) (hk : k < 256) : slotKey (slotEntry n k) = (0xD21000 + k, n) := by
  have h1 : slotEntry n k / 256 = 0xD210 + n := by unfold slotEntry; omega
  have h2 : slotEntry n k % 256 = k := by unfold slotEntry; omega
  unfold slotKey
  rw [h1, h2, if_pos (by omega)]
  simp

theorem dirApply_resume {s : State} {a : Access} {val : List Byte} {x : DirAux} (hv : val.length = 16) :
    s.dirApply .ep a 0xD20005 val x = s.resumeWrite val := by
  have he : entryOf .ep 0xD20005 = some { key := 13762565, span := 1, part := 1, kind := 4, size := 16, acc := 2, lo := 0, hi := 0, wr := 2, rd := 1, later := false } := by decide +kernel
  have h1 : s.epApply a 0xD20005 val x = some (s.resumeWrite val) := rfl
  simp [State.dirApply, he, valueOk, hv, h1]

theorem dirApply_admission {s : State} {a : Access} {val : List Byte} {x : DirAux} (hv : val.length = 16) :
    s.dirApply .ep a 0xD30004 val x = s.admWrite .ep (s.sel .ep a.ctx 0xD30003) val (s.reg .ep 0xD30002) (fun _ => true) := by
  have he : entryOf .ep 0xD30004 = some { key := 13828100, span := 1, part := 1, kind := 4, size := 16, acc := 1, lo := 0, hi := 0, wr := 2, rd := 1, later := false } := by decide +kernel
  have h1 : s.epApply a 0xD30004 val x = some (s.admWrite .ep (s.sel .ep a.ctx 0xD30003) val (s.reg .ep 0xD30002) (fun _ => true)) := rfl
  simp [State.dirApply, he, valueOk, hv, h1]

theorem dirApply_commonsAdmission {s : State} {a : Access} {val : List Byte} {x : DirAux} (hv : val.length = 16) :
    s.dirApply .mod a 0x720004 val x = s.admWrite .mod (s.sel .mod a.ctx 0x720003) val s.usableBytes s.commonsAdmOk := by
  have he : entryOf .mod 0x720004 = some { key := 7471108, span := 1, part := 2, kind := 4, size := 16, acc := 1, lo := 0, hi := 0, wr := 3, rd := 1, later := false } := by decide +kernel
  have h1 : s.modApply a 0x720004 val = some (s.admWrite .mod (s.sel .mod a.ctx 0x720003) val s.usableBytes s.commonsAdmOk) := rfl
  simp [State.dirApply, he, valueOk, hv, h1]

theorem dirApply_groupEntry {s : State} {a : Access} {val : List Byte} {x : DirAux} (hv : val.length = 16) :
    s.dirApply .mod a 0x610007 val x = s.groupWrite (s.sel .mod a.ctx 0x610006) val := by
  have he : entryOf .mod 0x610007 = some { key := 6356999, span := 1, part := 2, kind := 4, size := 16, acc := 1, lo := 0, hi := 0, wr := 2, rd := 1, later := false } := by decide +kernel
  have h1 : s.modApply a 0x610007 val = some (s.groupWrite (s.sel .mod a.ctx 0x610006) val) := rfl
  simp [State.dirApply, he, valueOk, hv, h1]

theorem dirApply_memberTable {s : State} {a : Access} {val : List Byte} {x : DirAux} (hv : val.length ≤ 4096) :
    s.dirApply .mod a 0x610008 val x = s.memberWrite (s.sel .mod a.ctx 0x610006) val := by
  have he : entryOf .mod 0x610008 = some { key := 6357000, span := 1, part := 2, kind := 5, size := 4096, acc := 1, lo := 0, hi := 0, wr := 2, rd := 1, later := false } := by decide +kernel
  have h1 : s.modApply a 0x610008 val = some (s.memberWrite (s.sel .mod a.ctx 0x610006) val) := rfl
  simp [State.dirApply, he, valueOk, hv, h1]

theorem dirApply_contextEntry {s : State} {a : Access} {val : List Byte} {x : DirAux} (hv : val.length = 16) :
    s.dirApply .mod a 0x61000A val x = s.contextWrite (s.sel .mod a.ctx 0x610006) (s.sel .mod a.ctx 0x610009) val := by
  have he : entryOf .mod 0x61000A = some { key := 6357002, span := 1, part := 2, kind := 4, size := 16, acc := 1, lo := 0, hi := 0, wr := 2, rd := 1, later := false } := by decide +kernel
  have h1 : s.modApply a 0x61000A val = some (s.contextWrite (s.sel .mod a.ctx 0x610006) (s.sel .mod a.ctx 0x610009) val) := rfl
  simp [State.dirApply, he, valueOk, hv, h1]

theorem dirApply_programBlock {s : State} {a : Access} {val : List Byte} {x : DirAux} (hv : val.length = 192) :
    s.dirApply .mod a 0x61000B val x = s.programWrite (s.sel .mod a.ctx 0x610006) (s.sel .mod a.ctx 0x610009) val := by
  have he : entryOf .mod 0x61000B = some { key := 6357003, span := 1, part := 2, kind := 4, size := 192, acc := 1, lo := 0, hi := 0, wr := 2, rd := 1, later := false } := by decide +kernel
  have h1 : s.modApply a 0x61000B val = some (s.programWrite (s.sel .mod a.ctx 0x610006) (s.sel .mod a.ctx 0x610009) val) := rfl
  simp [State.dirApply, he, valueOk, hv, h1]

theorem dirApply_lateness {s : State} {a : Access} {val : List Byte} {x : DirAux} (hv : val.length = 16) :
    s.dirApply .mod a 0x620002 val x = s.lateClear (s.sel .mod a.ctx 0x620001) val := by
  have he : entryOf .mod 0x620002 = some { key := 6422530, span := 1, part := 2, kind := 4, size := 16, acc := 4, lo := 0, hi := 0, wr := 1, rd := 0, later := false } := by decide +kernel
  have h1 : s.modApply a 0x620002 val = some (s.lateClear (s.sel .mod a.ctx 0x620001) val) := rfl
  simp [State.dirApply, he, valueOk, hv, h1]

theorem dirApply_spillReserve {s : State} {a : Access} {val : List Byte} {x : DirAux} (hv : val.length = 2 ∧ 6 ≤ beNat val ∧ beNat val ≤ 244) :
    s.dirApply .mod a 0x700002 val x = s.spillWrite val := by
  have he : entryOf .mod 0x700002 = some { key := 7340034, span := 1, part := 2, kind := 0, size := 2, acc := 3, lo := 6, hi := 244, wr := 1, rd := 1, later := false } := by decide +kernel
  have h1 : s.modApply a 0x700002 val = some (s.spillWrite val) := rfl
  simp [State.dirApply, he, valueOk, hv, h1]

theorem dirApply_regionDescriptor {s : State} {a : Access} {val : List Byte} {x : DirAux} (hv : val.length = 16) :
    s.dirApply .mod a 0x701002 val x = s.regionWrite (s.sel .mod a.ctx 0x701001) val := by
  have he : entryOf .mod 0x701002 = some { key := 7344130, span := 1, part := 2, kind := 4, size := 16, acc := 1, lo := 0, hi := 0, wr := 1, rd := 1, later := false } := by decide +kernel
  have h1 : s.modApply a 0x701002 val = some (s.regionWrite (s.sel .mod a.ctx 0x701001) val) := rfl
  simp [State.dirApply, he, valueOk, hv, h1]

theorem dirApply_handover {s : State} {a : Access} {val : List Byte} {x : DirAux} (hv : val.length = 2 ∧ 1 ≤ beNat val ∧ beNat val ≤ 65534) :
    s.dirApply .mod a 0x701004 val x = s.handover (s.sel .mod a.ctx 0x701001) val := by
  have he : entryOf .mod 0x701004 = some { key := 7344132, span := 1, part := 2, kind := 0, size := 2, acc := 2, lo := 1, hi := 65534, wr := 1, rd := 1, later := false } := by decide +kernel
  have h1 : s.modApply a 0x701004 val = some (s.handover (s.sel .mod a.ctx 0x701001) val) := rfl
  simp [State.dirApply, he, valueOk, hv, h1]

theorem dirApply_clearStale {s : State} {a : Access} {val : List Byte} {x : DirAux} (hv : val.length = 1 ∧ 1 ≤ beNat val ∧ beNat val ≤ 1) :
    s.dirApply .mod a 0x701005 val x = s.clearStaleWrite (s.sel .mod a.ctx 0x701001) val := by
  have he : entryOf .mod 0x701005 = some { key := 7344133, span := 1, part := 2, kind := 2, size := 1, acc := 2, lo := 1, hi := 1, wr := 1, rd := 1, later := false } := by decide +kernel
  have h1 : s.modApply a 0x701005 val = some (s.clearStaleWrite (s.sel .mod a.ctx 0x701001) val) := rfl
  simp [State.dirApply, he, valueOk, hv, h1]

theorem dirApply_restore {s : State} {a : Access} {val : List Byte} {x : DirAux} (hv : val.length = 16) :
    s.dirApply .mod a 0x760001 val x = s.restoreCommand val := by
  have he : entryOf .mod 0x760001 = some { key := 7733249, span := 1, part := 2, kind := 4, size := 16, acc := 2, lo := 0, hi := 0, wr := 1, rd := 1, later := false } := by decide +kernel
  have h1 : s.modApply a 0x760001 val = some (s.restoreCommand val) := rfl
  simp [State.dirApply, he, valueOk, hv, h1]

theorem dirApply_sliceEntry {s : State} {a : Access} {val : List Byte} {x : DirAux} (hv : val.length = 80) :
    s.dirApply .mod a 0x550002 val x = s.sliceWrite (s.sel .mod a.ctx 0x550001) val := by
  have he : entryOf .mod 0x550002 = some { key := 5570562, span := 1, part := 2, kind := 4, size := 80, acc := 1, lo := 0, hi := 0, wr := 1, rd := 1, later := false } := by decide +kernel
  have h1 : s.modApply a 0x550002 val = some (s.sliceWrite (s.sel .mod a.ctx 0x550001) val) := rfl
  simp [State.dirApply, he, valueOk, hv, h1]

theorem dirApply_sliceRevoke {s : State} {a : Access} {val : List Byte} {x : DirAux} (hv : val.length = 2 ∧ 0 ≤ beNat val ∧ beNat val ≤ 65535) :
    s.dirApply .mod a 0x550004 val x = (if s.hasSlice (beNat val) then (stOk, s.tearSlice (beNat val)) else (stRange, s)) := by
  have he : entryOf .mod 0x550004 = some { key := 5570564, span := 1, part := 2, kind := 0, size := 2, acc := 2, lo := 0, hi := 65535, wr := 1, rd := 1, later := false } := by decide +kernel
  have h1 : s.modApply a 0x550004 val = some ((if s.hasSlice (beNat val) then (stOk, s.tearSlice (beNat val)) else (stRange, s))) := rfl
  simp [State.dirApply, he, valueOk, hv, h1]

theorem dirApply_portRole {s : State} {a : Access} {val : List Byte} {x : DirAux} (hv : val.length = 64) :
    s.dirApply .mod a 0x500002 val x = s.rolesWrite val := by
  have he : entryOf .mod 0x500002 = some { key := 5242882, span := 1, part := 2, kind := 4, size := 64, acc := 3, lo := 0, hi := 0, wr := 1, rd := 1, later := false } := by decide +kernel
  have h1 : s.modApply a 0x500002 val = some (s.rolesWrite val) := rfl
  simp [State.dirApply, he, valueOk, hv, h1]

theorem dirApply_eyeScan {s : State} {p : Part} {a : Access} {val : List Byte} {x : DirAux} (hv : val.length = 1 ∧ 0 ≤ beNat val ∧ beNat val ≤ 1) :
    s.dirApply p a 0x430005 val x = s.eyeStart p (s.sel p a.ctx 0x430001) val := by
  have he : entryOf p 0x430005 = some { key := 4390917, span := 1, part := 0, kind := 2, size := 1, acc := 2, lo := 0, hi := 1, wr := 1, rd := 1, later := false } := by cases p <;> decide +kernel
  have h1 : s.epApply a 0x430005 val x = none := rfl
  have h2 : s.modApply a 0x430005 val = none := rfl
  have h3 : s.modApply2 a 0x430005 val x = none := rfl
  have h4 : s.bothApply p a 0x430005 val = some (s.eyeStart p (s.sel p a.ctx 0x430001) val) := rfl
  cases p <;> simp [State.dirApply, he, valueOk, hv, h1, h2, h3, h4]

theorem dirApply_alignment {s : State} {a : Access} {val : List Byte} {x : DirAux} (hv : val.length = 1 ∧ 1 ≤ beNat val ∧ beNat val ≤ 1) :
    s.dirApply .mod a 0xC10002 val x = s.alignRequest val := by
  have he : entryOf .mod 0xC10002 = some { key := 12648450, span := 1, part := 2, kind := 2, size := 1, acc := 2, lo := 1, hi := 1, wr := 1, rd := 1, later := false } := by decide +kernel
  have h1 : s.modApply a 0xC10002 val = some (s.alignRequest val) := rfl
  simp [State.dirApply, he, valueOk, hv, h1]

theorem dirApply_mownEntry {s : State} {p : Part} {a : Access} {val : List Byte} {x : DirAux} (hv : val.length = 32) :
    s.dirApply p a 0xC30003 val x = (if hostHolds p a (mownOf (beNat val)).job s then s.mownWrite p (s.sel p a.ctx 0xC30002) val
      else (stDenied, dirDenied p a 0xC30003 s)) := by
  have he : entryOf p 0xC30003 = some { key := 12779523, span := 1, part := 0, kind := 4, size := 32, acc := 1, lo := 0, hi := 0, wr := 2, rd := 1, later := false } := by cases p <;> decide +kernel
  have h1 : s.epApply a 0xC30003 val x = none := rfl
  have h2 : s.modApply a 0xC30003 val = none := rfl
  have h3 : s.modApply2 a 0xC30003 val x = none := rfl
  have h4 : s.bothApply p a 0xC30003 val = some (if hostHolds p a (mownOf (beNat val)).job s then
      s.mownWrite p (s.sel p a.ctx 0xC30002) val else (stDenied, dirDenied p a 0xC30003 s)) := rfl
  cases p <;> simp [State.dirApply, he, valueOk, hv, h1, h2, h3, h4]

theorem dirApply_corruption {s : State} {a : Access} {val : List Byte} {x : DirAux} (hv : val.length = 16) :
    s.dirApply .mod a 0xA30004 val x = s.corruption a val x.failing := by
  have he : entryOf .mod 0xA30004 = some { key := 10682372, span := 1, part := 2, kind := 4, size := 16, acc := 2, lo := 0, hi := 0, wr := 3, rd := 1, later := false } := by decide +kernel
  have h1 : s.modApply a 0xA30004 val = none := rfl
  have h2 : s.modApply2 a 0xA30004 val x = some (s.corruption a val x.failing) := rfl
  simp [State.dirApply, he, valueOk, hv, h1, h2]

theorem dirApply_suspect {s : State} {a : Access} {val : List Byte} {x : DirAux} (hv : val.length = 2 ∧ 0 ≤ beNat val ∧ beNat val ≤ 511) :
    s.dirApply .mod a 0xA50006 val x = s.clearSuspect val := by
  have he : entryOf .mod 0xA50006 = some { key := 10813446, span := 1, part := 2, kind := 0, size := 2, acc := 2, lo := 0, hi := 511, wr := 1, rd := 1, later := false } := by decide +kernel
  have h1 : s.modApply a 0xA50006 val = none := rfl
  have h2 : s.modApply2 a 0xA50006 val x = some (s.clearSuspect val) := rfl
  simp [State.dirApply, he, valueOk, hv, h1, h2]

theorem dirApply_epWindow {s : State} {a : Access} {val : List Byte} {x : DirAux} (hv : val.length = 16) :
    s.dirApply .ep a 0xDA0002 val x = s.windowWrite .ep (s.sel .ep a.ctx 0xDA0001) val := by
  have he : entryOf .ep 0xDA0002 = some { key := 14286850, span := 1, part := 1, kind := 4, size := 16, acc := 1, lo := 0, hi := 0, wr := 1, rd := 1, later := false } := by decide +kernel
  have h1 : s.epApply a 0xDA0002 val x = some (s.windowWrite .ep (s.sel .ep a.ctx 0xDA0001) val) := rfl
  simp [State.dirApply, he, valueOk, hv, h1]

theorem dirApply_modWindow {s : State} {a : Access} {val : List Byte} {x : DirAux} (hv : val.length = 16) :
    s.dirApply .mod a 0xA40002 val x = s.windowWrite .mod (s.sel .mod a.ctx 0xA40001) val := by
  have he : entryOf .mod 0xA40002 = some { key := 10747906, span := 1, part := 2, kind := 4, size := 16, acc := 1, lo := 0, hi := 0, wr := 1, rd := 1, later := false } := by decide +kernel
  have h1 : s.modApply a 0xA40002 val = none := rfl
  have h2 : s.modApply2 a 0xA40002 val x = some (s.windowWrite .mod (s.sel .mod a.ctx 0xA40001) val) := rfl
  simp [State.dirApply, he, valueOk, hv, h1, h2]

theorem dirApply_rebind {s : State} {a : Access} {val : List Byte} {x : DirAux} (hv : val.length = 2 ∧ 0 ≤ beNat val ∧ beNat val ≤ 511) :
    s.dirApply .mod a 0xA10002 val x = s.rebindRequest val := by
  have he : entryOf .mod 0xA10002 = some { key := 10551298, span := 1, part := 2, kind := 0, size := 2, acc := 2, lo := 0, hi := 511, wr := 1, rd := 1, later := false } := by decide +kernel
  have h1 : s.modApply a 0xA10002 val = none := rfl
  have h2 : s.modApply2 a 0xA10002 val x = some (s.rebindRequest val) := rfl
  simp [State.dirApply, he, valueOk, hv, h1, h2]

theorem dirApply_planeRestore {s : State} {a : Access} {val : List Byte} {x : DirAux} (hv : val.length = 1 ∧ 0 ≤ beNat val ∧ beNat val ≤ 15) :
    s.dirApply .mod a 0xA10001 val x = s.restoreRequest val := by
  have he : entryOf .mod 0xA10001 = some { key := 10551297, span := 1, part := 2, kind := 0, size := 1, acc := 2, lo := 0, hi := 15, wr := 1, rd := 1, later := false } := by decide +kernel
  have h1 : s.modApply a 0xA10001 val = none := rfl
  have h2 : s.modApply2 a 0xA10001 val x = some (s.restoreRequest val) := rfl
  simp [State.dirApply, he, valueOk, hv, h1, h2]

theorem dirApply_commitBundle {s : State} {a : Access} {val : List Byte} {x : DirAux} (hv : val.length = 1 ∧ 1 ≤ beNat val ∧ beNat val ≤ 1) :
    s.dirApply .mod a 0x800007 val x = s.bundleCommit x.bundle := by
  have he : entryOf .mod 0x800007 = some { key := 8388615, span := 1, part := 2, kind := 2, size := 1, acc := 2, lo := 1, hi := 1, wr := 1, rd := 1, later := false } := by decide +kernel
  have h1 : s.modApply a 0x800007 val = none := rfl
  have h2 : s.modApply2 a 0x800007 val x = some (s.bundleCommit x.bundle) := rfl
  simp [State.dirApply, he, valueOk, hv, h1, h2]

theorem dirApply_epNonce {s : State} {a : Access} {val : List Byte} {x : DirAux} (hv : val.length = 32) :
    s.dirApply .ep a 0xD80006 val x = s.nonceWrite .ep val := by
  have he : entryOf .ep 0xD80006 = some { key := 14155782, span := 1, part := 1, kind := 4, size := 32, acc := 2, lo := 0, hi := 0, wr := 4, rd := 1, later := false } := by decide +kernel
  have h1 : s.epApply a 0xD80006 val x = some (s.nonceWrite .ep val) := rfl
  simp [State.dirApply, he, valueOk, hv, h1]

theorem dirApply_modNonce {s : State} {a : Access} {val : List Byte} {x : DirAux} (hv : val.length = 32) :
    s.dirApply .mod a 0x801003 val x = s.nonceWrite .mod val := by
  have he : entryOf .mod 0x801003 = some { key := 8392707, span := 1, part := 2, kind := 4, size := 32, acc := 2, lo := 0, hi := 0, wr := 4, rd := 1, later := false } := by decide +kernel
  have h1 : s.modApply a 0x801003 val = none := rfl
  have h2 : s.modApply2 a 0x801003 val x = some (s.nonceWrite .mod val) := rfl
  simp [State.dirApply, he, valueOk, hv, h1, h2]

theorem dirApply_epKey {s : State} {a : Access} {val : List Byte} {x : DirAux} (hv : val.length = 576) :
    s.dirApply .ep a 0xD80008 val x = s.keyInstall .ep a 0xD80008 val x.unwrapOk := by
  have he : entryOf .ep 0xD80008 = some { key := 14155784, span := 1, part := 1, kind := 4, size := 576, acc := 2, lo := 0, hi := 0, wr := 3, rd := 1, later := false } := by decide +kernel
  have h1 : s.epApply a 0xD80008 val x = some (s.keyInstall .ep a 0xD80008 val x.unwrapOk) := rfl
  simp [State.dirApply, he, valueOk, hv, h1]

theorem dirApply_modKey {s : State} {a : Access} {val : List Byte} {x : DirAux} (hv : val.length = 576) :
    s.dirApply .mod a 0x810001 val x = s.keyInstall .mod a 0x810001 val x.unwrapOk := by
  have he : entryOf .mod 0x810001 = some { key := 8454145, span := 1, part := 2, kind := 4, size := 576, acc := 2, lo := 0, hi := 0, wr := 1, rd := 1, later := false } := by decide +kernel
  have h1 : s.modApply a 0x810001 val = none := rfl
  have h2 : s.modApply2 a 0x810001 val x = some (s.keyInstall .mod a 0x810001 val x.unwrapOk) := rfl
  simp [State.dirApply, he, valueOk, hv, h1, h2]

theorem dirApply_epRetire {s : State} {a : Access} {val : List Byte} {x : DirAux} (hv : val.length = 16) :
    s.dirApply .ep a 0xD80009 val x = s.jobRetire .ep val := by
  have he : entryOf .ep 0xD80009 = some { key := 14155785, span := 1, part := 1, kind := 4, size := 16, acc := 2, lo := 0, hi := 0, wr := 1, rd := 1, later := false } := by decide +kernel
  have h1 : s.epApply a 0xD80009 val x = some (s.jobRetire .ep val) := rfl
  simp [State.dirApply, he, valueOk, hv, h1]

theorem dirApply_modRetire {s : State} {a : Access} {val : List Byte} {x : DirAux} (hv : val.length = 16) :
    s.dirApply .mod a 0x820001 val x = s.jobRetire .mod val := by
  have he : entryOf .mod 0x820001 = some { key := 8519681, span := 1, part := 2, kind := 4, size := 16, acc := 2, lo := 0, hi := 0, wr := 1, rd := 1, later := false } := by decide +kernel
  have h1 : s.modApply a 0x820001 val = none := rfl
  have h2 : s.modApply2 a 0x820001 val x = some (s.jobRetire .mod val) := rfl
  simp [State.dirApply, he, valueOk, hv, h1, h2]

theorem dirApply_credential {s : State} {a : Access} {val : List Byte} {x : DirAux} (hv : val.length = 576) :
    s.dirApply .mod a 0x830002 val x = s.credInstall val x.unwrapOk := by
  have he : entryOf .mod 0x830002 = some { key := 8585218, span := 1, part := 2, kind := 4, size := 576, acc := 2, lo := 0, hi := 0, wr := 1, rd := 1, later := false } := by decide +kernel
  have h1 : s.modApply a 0x830002 val = none := rfl
  have h2 : s.modApply2 a 0x830002 val x = some (s.credInstall val x.unwrapOk) := rfl
  simp [State.dirApply, he, valueOk, hv, h1, h2]

theorem dirApply_ackSequence {s : State} {p : Part} {a : Access} {val : List Byte} {x : DirAux} (hv : val.length = 4 ∧ 0 ≤ beNat val ∧ beNat val ≤ 4294967295) :
    s.dirApply p a 0xA80003 val x = (if (s.sh p).log.next < beNat val then (stRange, s) else (stOk, s.modSh p fun sh => { sh with log := { sh.log with acked := beNat val } })) := by
  have he : entryOf p 0xA80003 = some { key := 11010051, span := 1, part := 0, kind := 0, size := 4, acc := 1, lo := 0, hi := 4294967295, wr := 1, rd := 0, later := false } := by cases p <;> decide +kernel
  have h1 : s.epApply a 0xA80003 val x = none := rfl
  have h2 : s.modApply a 0xA80003 val = none := rfl
  have h3 : s.modApply2 a 0xA80003 val x = none := rfl
  have h4 : s.bothApply p a 0xA80003 val = some ((if (s.sh p).log.next < beNat val then (stRange, s) else (stOk, s.modSh p fun sh => { sh with log := { sh.log with acked := beNat val } }))) := rfl
  cases p <;> simp [State.dirApply, he, valueOk, hv, h1, h2, h3, h4]

theorem dirApply_request {s : State} {a : Access} {val : List Byte} {x : DirAux} (hv : val.length = 1 ∧ 0 ≤ beNat val ∧ beNat val ≤ 3) :
    s.dirApply .mod a 0x200002 val x = s.requestState (beNat val) := by
  have he : entryOf .mod 0x200002 = some { key := 2097154, span := 1, part := 2, kind := 0, size := 1, acc := 2, lo := 0, hi := 3, wr := 1, rd := 1, later := false } := by decide +kernel
  have h1 : s.modApply a 0x200002 val = none := rfl
  have h2 : s.modApply2 a 0x200002 val x = some (s.requestState (beNat val)) := rfl
  simp [State.dirApply, he, valueOk, hv, h1, h2]

theorem dirApply_cap {s : State} {a : Access} {val : List Byte} {x : DirAux} (hv : val.length = 16) :
    s.dirApply .mod a 0x201001 val x = s.capStep val := by
  have he : entryOf .mod 0x201001 = some { key := 2101249, span := 1, part := 2, kind := 4, size := 16, acc := 1, lo := 0, hi := 0, wr := 1, rd := 1, later := false } := by decide +kernel
  have h1 : s.modApply a 0x201001 val = none := rfl
  have h2 : s.modApply2 a 0x201001 val x = some (s.capStep val) := rfl
  simp [State.dirApply, he, valueOk, hv, h1, h2]

theorem dirApply_lease {s : State} {a : Access} {val : List Byte} {x : DirAux} (hv : val.length = 1 ∧ 1 ≤ beNat val ∧ beNat val ≤ 1) :
    s.dirApply .mod a 0x201003 val x = (stOk, s.renewLease) := by
  have he : entryOf .mod 0x201003 = some { key := 2101251, span := 1, part := 2, kind := 2, size := 1, acc := 2, lo := 1, hi := 1, wr := 1, rd := 1, later := false } := by decide +kernel
  have h1 : s.modApply a 0x201003 val = none := rfl
  have h2 : s.modApply2 a 0x201003 val x = some ((stOk, s.renewLease)) := rfl
  simp [State.dirApply, he, valueOk, hv, h1, h2]

theorem dirApply_ackRecord {s : State} {a : Access} {val : List Byte} {x : DirAux} (hv : val.length = 8 ∧ 0 ≤ beNat val ∧ beNat val ≤ 18446744073709551615) :
    s.dirApply .mod a 0xB10002 val x = s.ackRecordWrite val := by
  have he : entryOf .mod 0xB10002 = some { key := 11599874, span := 1, part := 2, kind := 0, size := 8, acc := 1, lo := 0, hi := 18446744073709551615, wr := 1, rd := 0, later := false } := by decide +kernel
  have h1 : s.modApply a 0xB10002 val = none := rfl
  have h2 : s.modApply2 a 0xB10002 val x = some (s.ackRecordWrite val) := rfl
  simp [State.dirApply, he, valueOk, hv, h1, h2]

theorem dirApply_groupIndex {s : State} {p : Part} {a : Access} {val : List Byte} {x : DirAux} (hv : val.length = 2 ∧ 0 ≤ beNat val ∧ beNat val ≤ 65535) :
    s.dirApply p a 0x900001 val x = s.selWrite p a.ctx 0x900001 val := by
  have he : entryOf p 0x900001 = some { key := 9437185, span := 1, part := 0, kind := 0, size := 2, acc := 1, lo := 0, hi := 65535, wr := 6, rd := 1, later := false } := by cases p <;> decide +kernel
  simp [State.dirApply, he, valueOk, hv]

theorem dirApply_slotJob {s : State} {a : Access} {n : Nat} {val : List Byte} {x : DirAux} (hn : n < 64) (hv : val.length = 2 ∧ 0 ≤ beNat val ∧ beNat val ≤ 65535) :
    s.dirApply .ep a (slotEntry n 1) val x = s.slotJobWrite n val := by
  have hk := slotKey_slotEntry (n := n) (k := 1) hn (by omega)
  have he : entryOf .ep (slotEntry n 1) = some { key := 13766657, span := 1, part := 1, kind := 0, size := 2, acc := 1, lo := 0, hi := 65535, wr := 2, rd := 1, later := false } := by
    unfold entryOf; rw [hk]; rfl
  simp [State.dirApply, he, hk, valueOk, hv, State.epApply]

theorem dirApply_slotInvalidate {s : State} {a : Access} {n : Nat} {val : List Byte} {x : DirAux} (hn : n < 64) (hv : val.length = 4 ∧ 0 ≤ beNat val ∧ beNat val ≤ 4294967295) :
    s.dirApply .ep a (slotEntry n 3) val x = s.invalidateWrite n val := by
  have hk := slotKey_slotEntry (n := n) (k := 3) hn (by omega)
  have he : entryOf .ep (slotEntry n 3) = some { key := 13766659, span := 1, part := 1, kind := 0, size := 4, acc := 2, lo := 0, hi := 4294967295, wr := 2, rd := 1, later := false } := by
    unfold entryOf; rw [hk]; rfl
  simp [State.dirApply, he, hk, valueOk, hv, State.epApply]

theorem dirApply_slotRevoke {s : State} {a : Access} {n : Nat} {val : List Byte} {x : DirAux} (hn : n < 64) (hv : val.length = 1 ∧ 1 ≤ beNat val ∧ beNat val ≤ 1) :
    s.dirApply .ep a (slotEntry n 6) val x = s.revokeWrite n val := by
  have hk := slotKey_slotEntry (n := n) (k := 6) hn (by omega)
  have he : entryOf .ep (slotEntry n 6) = some { key := 13766662, span := 1, part := 1, kind := 2, size := 1, acc := 2, lo := 1, hi := 1, wr := 1, rd := 1, later := false } := by
    unfold entryOf; rw [hk]; rfl
  simp [State.dirApply, he, hk, valueOk, hv, State.epApply]

end Sys2Proof.Machine
end

