-- ==== Sys2Proof/Laws/Schedule.lean ====
section
/-! SUPPORT. What the operations of Machine/Schedule.lean never take back (`Onward`), once for each. -/

set_option linter.all false
set_option Elab.async false

namespace Sys2Proof.Machine

theorem State.intervalsPassed_onward {s0 s : State} (energy : Nat) (hOn : Onward s0 s) :
    Onward s0 (s.intervalsPassed energy) := by
  unfold State.intervalsPassed
  repeat' first
    | with_reducible first
      | assumption | refine ite_onward ?_ ?_ | apply State.meterTimeIn_onward | apply State.intervalClose_onward
    | split | dsimp only

theorem State.takeEvent_onward {s0 s : State} (p : Part) (energy : Nat) (e : Event) (hOn : Onward s0 s) :
    Onward s0 (s.takeEvent p energy e) := by
  unfold State.takeEvent
  repeat' first
    | with_reducible first
      | assumption | refine ite_onward ?_ ?_ | apply State.modeSwitch_onward | apply State.capStep_onward
      | apply State.capEffective_onward | apply State.intervalsPassed_onward | apply State.snapshot_onward
      | apply State.modCtr_onward | apply State.checkpointSlot_onward | apply State.scrubOpen_onward
      | apply State.alignStart_onward | apply State.windowStart_onward | apply State.activate_onward
      | apply State.collSend_onward
    | split | dsimp only

theorem State.rackStep_onward {s0 s : State} (p : Part) (energy : Nat) (hOn : Onward s0 s) :
    Onward s0 (s.rackStep p energy) := by
  unfold State.rackStep
  repeat' first
    | with_reducible first
      | assumption | refine ite_onward ?_ ?_ | apply State.stepCounter_onward | apply State.bothCount_onward
      | apply State.takeEvent_onward | refine foldl_onward (fun _ _ _ => ?_) _ _ ?_
    | split | dsimp only

end Sys2Proof.Machine
end

