-- ==== Sys2Proof/Laws/RegisterEffects.lean ====
section
/-! SUPPORT. What the operations over slots, sessions, clock domains, the meter, rack time, verdicts and windows leave and write. -/

set_option linter.all false
set_option Elab.async false

namespace Sys2Proof.Machine

theorem slot_setSlot_same (s : State) (n : Nat) (x : Slot) : (s.setSlot n x).slot n = x := by
  simp [State.slot, State.setSlot, tabGetD, tabGet_tabSet_same]

theorem slot_setSlot_other (s : State) (n m : Nat) (x : Slot) (h : m ≠ n) : (s.setSlot n x).slot m = s.slot m := by
  simp [State.slot, State.setSlot, tabGetD, tabGet_tabSet_other _ _ h]

theorem freshSession_unused (s : State) (h : s.mod.sessions.length ≤ 16) : s.freshSession ≠ 0 ∧ ∀ y ∈ s.mod.sessions, y.id ≠ s.freshSession := by
  unfold State.freshSession
  dsimp only
  split
  · rename_i hu
    refine ⟨by omega, ?_⟩
    have : ∃ i, lowestFree (fun i => s.mod.sessions.any fun t => t.id == i + 1) 17 = some i := by
      cases hc : lowestFree (fun i => s.mod.sessions.any fun t => t.id == i + 1) 17 with
      | some i => exact ⟨i, rfl⟩
      | none =>
        exfalso
        unfold lowestFree at hc
        rw [List.find?_eq_none] at hc
        have hsub : (List.range 17).map (· + 1) ⊆ s.mod.sessions.map (·.id) := by
          intro j hj
          rw [List.mem_map] at hj
          obtain ⟨i, hi, rfl⟩ := hj
          have := hc i hi
          simp at this
          obtain ⟨t, ht, hh⟩ := this
          exact List.mem_map.2 ⟨t, ht, hh⟩
        have hn : ((List.range 17).map (· + 1)).Nodup := by decide
        have := List.Nodup.subperm hn hsub
        have := this.length_le
        simp at this
        omega
    obtain ⟨i, hi⟩ := this
    rw [hi]
    unfold lowestFree at hi
    have := List.find?_some hi
    simp at this
    intro y hy
    have := this y hy
    simp; omega
  · rename_i hu
    refine ⟨by omega, ?_⟩
    simpa using hu

theorem protoGate_keeps {β : Type} (g : State → β) (s : State) (m : PMsg) (h : (s.protoGate m).2 = true) (hg : ∀ (t : State) x, g (t.modMod fun d => { d with arrivals := x }) = g t) : g (s.protoGate m).1 = g s := by
  unfold State.protoGate at *
  dsimp only at *
  split at h
  · cases h
  · rename_i hh; rw [if_neg hh]; exact hg _ _

theorem tabGetD_tabPut_default {α : Type} [DecidableEq α] (t : Tab α) {k l : Nat} (v d d' : α) (h : l ≠ k) : tabGetD (tabPut t k v d) l d' = tabGetD t l d' := by
  unfold tabPut tabGetD; split
  · rw [tabGet_tabDel_other _ h]
  · rw [tabGet_tabSet_other _ _ h]

theorem domain_modDomain_same (s : State) (p : Part) (d : Nat) (f : Domain → Domain) : (s.modDomain p d f).domain p d = f (s.domain p d) := by
  simp [State.modDomain, State.domain, tabGetD_tabPut_same]

theorem domain_modDomain_other (s : State) (p : Part) (d e : Nat) (f : Domain → Domain) (h : e ≠ d) : (s.modDomain p d f).domain p e = s.domain p e := by
  simp [State.modDomain, State.domain, tabGetD_tabPut_default _ _ _ _ h]

theorem domain_muxStart_other (s : State) (p : Part) (d e r : Nat) (h : e ≠ d) : (s.muxStart p d r).domain p e = s.domain p e := by
  unfold State.muxStart; split
  · rfl
  · exact domain_modDomain_other _ _ _ _ _ h

theorem target_muxStart (s : State) (p : Part) (d r : Nat) (h : (s.domain p d).ref ≠ r) : ((s.muxStart p d r).domain p d).target = some r := by
  unfold State.muxStart; rw [if_neg h, domain_modDomain_same]

theorem muxStart_same_reference (s : State) (p : Part) (d r : Nat) (h : (s.domain p d).ref = r) : (s.muxStart p d r).domain p d = s.domain p d := by
  unfold State.muxStart; rw [if_pos h]

theorem muxStart_fold_keeps (p : Part) (r : Nat → Nat) (l : List Nat) (s : State) : (l.foldl (fun s d => s.muxStart p d (r d)) s).out = s.out ∧ ((l.foldl (fun s d => s.muxStart p d (r d)) s).sh p).regs = (s.sh p).regs ∧ ((l.foldl (fun s d => s.muxStart p d (r d)) s).sh p).clk.crystal = (s.sh p).clk.crystal := by
  induction l generalizing s with
  | nil => exact ⟨rfl, rfl, rfl⟩
  | cons x l ih =>
    have : ∀ t : State, (t.muxStart p x (r x)).out = t.out ∧ ((t.muxStart p x (r x)).sh p).regs = (t.sh p).regs ∧ ((t.muxStart p x (r x)).sh p).clk.crystal = (t.sh p).clk.crystal := by
      intro t; unfold State.muxStart; split
      · exact ⟨rfl, rfl, rfl⟩
      · simp [State.modDomain]
    obtain ⟨h1, h2, h3⟩ := ih (s.muxStart p x (r x))
    obtain ⟨g1, g2, g3⟩ := this s
    exact ⟨h1.trans g1, h2.trans g2, h3.trans g3⟩

theorem muxStart_fold_other (p : Part) (r : Nat → Nat) (l : List Nat) (s : State) (e : Nat) (h : e ∉ l) : (l.foldl (fun s d => s.muxStart p d (r d)) s).domain p e = s.domain p e := by
  induction l generalizing s with
  | nil => rfl
  | cons x l ih =>
    simp only [List.mem_cons, not_or] at h
    exact (ih _ h.2).trans (domain_muxStart_other _ _ _ _ _ h.1)

theorem muxStart_congr (s t : State) (p : Part) (e r : Nat) (h : s.domain p e = t.domain p e) (hc : s.clock = t.clock) : (s.muxStart p e r).domain p e = (t.muxStart p e r).domain p e := by
  unfold State.muxStart
  rw [h]
  split
  · exact h
  · rw [domain_modDomain_same, domain_modDomain_same, h, hc]

theorem muxStart_clock (s : State) (p : Part) (d r : Nat) : (s.muxStart p d r).clock = s.clock := by
  unfold State.muxStart; split
  · rfl
  · simp [State.modDomain]

theorem muxStart_fold_mem (p : Part) (r : Nat → Nat) (l : List Nat) (hl : l.Nodup) (s : State) (e : Nat) (h : e ∈ l) : (l.foldl (fun s d => s.muxStart p d (r d)) s).domain p e = (s.muxStart p e (r e)).domain p e := by
  induction l generalizing s with
  | nil => cases h
  | cons x l ih =>
    rw [List.nodup_cons] at hl
    rw [List.foldl_cons]
    rcases List.mem_cons.1 h with rfl | h
    · exact muxStart_fold_other _ _ _ _ _ hl.1
    · rw [ih hl.2 _ h]
      have hne : e ≠ x := fun hx => hl.1 (hx ▸ h)
      exact muxStart_congr _ _ _ _ _ (domain_muxStart_other s p x e (r x) hne) (muxStart_clock _ _ _ _)

theorem bit_setFlag_zero (w : Nat) (h : bit w 0 = false) : bit (setFlag w 0 true) 0 = true := by
  simp only [bit, setFlag] at *
  simp at h ⊢
  omega

theorem fullScale_keeps (s : State) (a b c d : Nat) : ∃ o l q, (s.fullScale a b c d) = { s with out := s.out ++ o, mod := { s.mod with meter := { s.mod.meter with lastSent := l, seq := q } } } := by
  unfold State.fullScale; split
  · exact ⟨_, _, _, rfl⟩
  · exact ⟨[], s.mod.meter.lastSent, s.mod.meter.seq, by simp⟩

theorem append_interval (m : Meter) (r : MRec) (n : Nat) : (m.append r n).interval = m.interval := rfl

theorem meterPut_keeps (s : State) (r : MRec) : (s.meterPut r).mod.meter.interval = s.mod.meter.interval ∧ (s.meterPut r).draws = s.draws ∧ (s.meterPut r).ep = s.ep ∧ (s.meterPut r).mod.sh = s.mod.sh := by
  have h1 : ∀ t : State, (t.modMeter fun m => m.append r 0).mod.meter.interval = t.mod.meter.interval ∧ (t.modMeter fun m => m.append r 0).draws = t.draws ∧ (t.modMeter fun m => m.append r 0).ep = t.ep ∧ (t.modMeter fun m => m.append r 0).mod.sh = t.mod.sh := fun t => ⟨rfl, rfl, rfl, rfl⟩
  have h2 : ∀ t : State, (t.modMeter fun m => { m.append r (m.reserve + r.positions) with reserve := m.reserve + r.positions }).mod.meter.interval = t.mod.meter.interval ∧ (t.modMeter fun m => { m.append r (m.reserve + r.positions) with reserve := m.reserve + r.positions }).draws = t.draws ∧ (t.modMeter fun m => { m.append r (m.reserve + r.positions) with reserve := m.reserve + r.positions }).ep = t.ep ∧ (t.modMeter fun m => { m.append r (m.reserve + r.positions) with reserve := m.reserve + r.positions }).mod.sh = t.mod.sh := fun t => ⟨rfl, rfl, rfl, rfl⟩
  have h3 : ∀ t : State, ((t.modMeter fun m => { m with state := 3 }).meterEvent 2 0).mod.meter.interval = t.mod.meter.interval ∧ ((t.modMeter fun m => { m with state := 3 }).meterEvent 2 0).draws = t.draws ∧ ((t.modMeter fun m => { m with state := 3 }).meterEvent 2 0).ep = t.ep ∧ ((t.modMeter fun m => { m with state := 3 }).meterEvent 2 0).mod.sh = t.mod.sh := fun t => ⟨rfl, rfl, rfl, rfl⟩
  have ite4 : ∀ (c : Prop) [Decidable c] (x y : State), (x.mod.meter.interval = s.mod.meter.interval ∧ x.draws = s.draws ∧ x.ep = s.ep ∧ x.mod.sh = s.mod.sh) → (y.mod.meter.interval = s.mod.meter.interval ∧ y.draws = s.draws ∧ y.ep = s.ep ∧ y.mod.sh = s.mod.sh) → ((if c then x else y).mod.meter.interval = s.mod.meter.interval ∧ (if c then x else y).draws = s.draws ∧ (if c then x else y).ep = s.ep ∧ (if c then x else y).mod.sh = s.mod.sh) := by
    intro c _ x y hx hy
    by_cases h : c
    · rw [if_pos h]; exact hx
    · rw [if_neg h]; exact hy
  have h5 := ite4 (s.mod.meter.state = 3) s _ ⟨rfl, rfl, rfl, rfl⟩ (h3 s)
  rw [State.meterPut]
  refine ite4 _ _ _ (ite4 _ _ _ h5 ?_) (h1 s)
  obtain ⟨a, b, c, d⟩ := h2 (if s.mod.meter.state = 3 then s else (s.modMeter fun m => { m with state := 3 }).meterEvent 2 0)
  obtain ⟨a', b', c', d'⟩ := h5
  exact ⟨a.trans a', b.trans b', c.trans c', d.trans d'⟩

theorem meterPut_fold_interval {α : Type} (f : State → α → MRec) (l : List α) (s : State) : (l.foldl (fun s u => s.meterPut (f s u)) s).mod.meter.interval = s.mod.meter.interval := by
  induction l generalizing s with
  | nil => rfl
  | cons x l ih => rw [List.foldl_cons, ih, (meterPut_keeps _ _).1]

theorem fullScale_interval (s : State) (a b c d : Nat) : (s.fullScale a b c d).mod.meter.interval = s.mod.meter.interval := by
  obtain ⟨o, l, q, h⟩ := fullScale_keeps s a b c d; rw [h]

theorem bootSlots_keeps (l : List (Nat × BundleInfo)) (s : State) : (s.bootSlots l).mod.power = s.mod.power ∧ (s.bootSlots l).mod.mem = s.mod.mem ∧ (s.bootSlots l).mod.creds = s.mod.creds ∧ (s.bootSlots l).ep = s.ep := by
  induction l generalizing s with
  | nil => exact ⟨rfl, rfl, rfl, rfl⟩
  | cons x l ih =>
    obtain ⟨n, b⟩ := x
    unfold State.bootSlots
    split
    · exact ⟨rfl, rfl, rfl, rfl⟩
    · obtain ⟨a, b, c, d⟩ := ih (((s.modRot .mod fun r => { r with reason := if r.reason = 0 then _ else r.reason }).bundleEvent .mod n _ b.version))
      exact ⟨a.trans rfl, b.trans rfl, c.trans rfl, d.trans rfl⟩

theorem lane_setLane_same (r : RackTime) (l : Nat) (x : TLane) : (r.setLane l x).lane l = x := by
  unfold RackTime.setLane RackTime.lane; split <;> simp_all

theorem lane_setLane_other (r : RackTime) (l : Nat) (x : TLane) (h : l < 2) : (r.setLane l x).lane (1 - l) = r.lane (1 - l) := by
  have : l = 0 ∨ l = 1 := by omega
  rcases this with rfl | rfl <;> rfl

theorem setLane_keeps (r : RackTime) (l : Nat) (x : TLane) : (r.setLane l x).units = r.units ∧ (r.setLane l x).state = r.state ∧ (r.setLane l x).source = r.source ∧ (r.setLane l x).agrees = r.agrees ∧ (r.setLane l x).step = r.step ∧ (r.setLane l x).since = r.since := by
  unfold RackTime.setLane; split <;> exact ⟨rfl, rfl, rfl, rfl, rfl, rfl⟩

theorem trySwitch_skips (s : State) (p : Part) (ok : TLane → Bool) (h : (s.sh p).rt.state ≠ 2) : s.trySwitch p ok = s := by
  unfold State.trySwitch; dsimp only; rw [if_neg]; simp [h]

theorem units_move (r : RackTime) (d : Int) : (r.move d).units = ((r.units : Int) + d).toNat := rfl

theorem set_move (r : RackTime) (d : Int) (l : Nat) : ((r.move d).lane l).set = (r.lane l).set := by
  unfold RackTime.move RackTime.lane; split <;> rfl

theorem timingRead_plain (mid : List TlChar) : ∀ (m : List TlChar) (w : List (List TlChar)) (o : Nat), m ≠ [] → (∀ c ∈ mid, ∀ n, c ≠ .k n) →
    mid.foldl TlRead.next { part := { chars := m, skip := 0 }, whole := w, others := o } = { part := { chars := m ++ mid, skip := 0 }, whole := w, others := o } := by
  induction mid with
  | nil => intro m w o _ _; simp
  | cons c mid ih =>
    intro m w o hm h
    have hc := h c (by simp)
    have e : TlRead.next { part := { chars := m, skip := 0 }, whole := w, others := o } c = { part := { chars := m ++ [c], skip := 0 }, whole := w, others := o } := by
      unfold TlRead.next
      have hu : c.unknown = false := by cases c with | k n => exact absurd rfl (hc n) | d n => rfl | violation => rfl
      have hmm : m.isEmpty = false := by cases m <;> simp_all
      simp [kTick, kEpoch, kAbort, kStart, kEnd, hc, hu, hmm]
    rw [List.foldl_cons, e, ih _ _ _ (by simp) (fun x hx => h x (by simp [hx]))]
    simp

theorem timingRead_whole (mid : List TlChar) (h : ∀ c ∈ mid, ∀ n, c ≠ .k n) :
    (kStart :: mid ++ [kEnd]).foldl TlRead.next { part := { chars := [], skip := 0 }, whole := [], others := 0 } = { part := { chars := [], skip := 0 }, whole := [kStart :: mid ++ [kEnd]], others := 0 } := by
  have e : TlRead.next { part := { chars := [], skip := 0 }, whole := [], others := 0 } kStart = { part := { chars := [kStart], skip := 0 }, whole := [], others := 0 } := by decide
  rw [List.cons_append, List.foldl_cons, e, List.foldl_append, timingRead_plain mid _ _ _ (by simp) h]
  rfl

theorem timingWhole_read (s : State) (p : Part) (l : Nat) (mid : List TlChar) (hp : (if l = 0 then (s.sh p).tl.partA else (s.sh p).tl.partB) = { chars := [], skip := 0 })
    (h : ∀ c ∈ mid, ∀ n, c ≠ .k n) : s.timingIn p l (kStart :: mid ++ [kEnd]) = s.takeTiming p l (readMessage (kStart :: mid ++ [kEnd])) := by
  unfold State.timingIn
  dsimp only
  rw [hp, timingRead_whole mid h]
  have hs : s.setTiming p l { chars := [], skip := 0 } = s := by
    unfold State.setTiming
    by_cases hl : l = 0
    · rw [if_pos hl] at hp; simp only [hl, if_true]; rw [← hp]; cases p <;> rfl
    · rw [if_neg hl] at hp; simp only [hl, if_false]; rw [← hp]; cases p <;> rfl
  rw [hs]; rfl

theorem timingSkip_next (r : TlRead) (c : TlChar) (h : r.part.skip = 0) (hc : c ≠ kEpoch) : (TlRead.next r c).part.skip = 0 := by
  unfold TlRead.next
  dsimp only
  rw [if_neg (by simp [h])]
  by_cases h1 : c = kTick
  · rw [if_pos h1]; exact h
  · rw [if_neg h1, if_neg hc]
    repeat' split
    all_goals exact h

theorem timingRead_ticks (l : List TlChar) : ∀ (r : TlRead) (n : Nat), r.part.skip = 0 → kEpoch ∉ l → (withTicks n l).foldl TlRead.next r = l.foldl TlRead.next r := by
  induction l with
  | nil => intro r n _ _; rfl
  | cons c l ih =>
    intro r n h hc
    simp only [List.mem_cons, not_or] at hc
    have ht : TlRead.next r kTick = r := by unfold TlRead.next; simp [h]
    unfold withTicks
    split
    · simp only [List.foldl_cons, ht]; exact ih _ _ (timingSkip_next r c h (Ne.symm hc.1)) hc.2
    · simp only [List.foldl_cons]; exact ih _ _ (timingSkip_next r c h (Ne.symm hc.1)) hc.2

theorem mem_setIns (l : List Nat) (k x : Nat) : x ∈ setIns l k ↔ x = k ∨ x ∈ l := by
  induction l with
  | nil => simp [setIns]
  | cons j l ih =>
    unfold setIns
    split
    · simp
    · split
      · subst_vars; simp
      · simp [ih]; tauto

theorem verdictIn_eq (s : State) (p : Part) (v : VMsg) : s.verdictIn p v false = (if !s.macRight p v || decide (4 < v.kind) || v.reserved then (if p = Part.mod then s.mgCount 6 else s)
  else match p with
    | .ep =>
      if v.kind = 2 then s.takeVerdict .ep v else s
    | .mod => match v.kind with
      | 0 => s.heartbeatIn v
      | 1 =>
        if v.origin < 512 ∨ (v.vkind ≠ 1 ∧ v.vkind ≠ 2) then s
        else s.modVe fun e =>
          { e with votes := e.votes.filter (fun w => !(w.plane == v.origin - 512 && w.node == subjectOf v)) ++
                              [{ plane := v.origin - 512, node := subjectOf v, at_ := s.ns }] }
      | 2 => s.takeVerdict .mod v
      | 3 => s.modVe fun e => { e with votes := e.votes.filter fun w => !(512 + w.plane == v.origin && w.node == subjectOf v) }
      | _ =>
        if v.reason = 1 ∧ 512 ≤ v.origin then
          if s.leader = s.plane ∧ ¬ s.mod.sh.verd.failed.contains (v.origin - 512) ∧
              ¬ s.verdictPending 2 0 (v.origin - 512) then s.issueVerdict 2 0 (v.origin - 512) 0 else s
        else if v.reason = 4 ∧ v.origin < 512 then s.modVe fun e => { e with suspectMask := setIns e.suspectMask v.origin }
        else s) := by
  cases p <;> rfl

theorem windowState_entry (s : State) (p : Part) (i st : Nat) (x : Window) (h : tabGet (s.sh p).windows i = some x) : tabGet ((s.windowState p i st).sh p).windows i = some { x with state := st } := by
  unfold State.windowState tabMod
  simp [h, tabGet_tabSet_same]

end Sys2Proof.Machine
end

