-- ==== Sys2Proof/Laws/LinkTileEffects.lean ====
section
/-! SUPPORT. What the operations over ports, lanes, frames and tiles leave and write. -/

set_option linter.all false
set_option Elab.async false

namespace Sys2Proof.Machine

theorem dropWhile_before (pre post : List ReplayFrame) (f : ReplayFrame) (h : ∀ g ∈ pre, g.seq ≠ f.seq) : (pre ++ f :: post).dropWhile (fun g => g.seq != f.seq) = f :: post := by
  induction pre with
  | nil => simp
  | cons x l ih =>
    have := h x (by simp)
    simp [this]
    exact ih fun g hg => h g (by simp [hg])

theorem any_seq_false {l : List ReplayFrame} {seq : Nat} (h : ∀ g ∈ l, g.seq ≠ seq) : (l.any fun f => f.seq == seq) = false := by
  rw [List.any_eq_false]; intro x hx; simpa using h x hx

theorem port_modPort_same (s : State) (p : Part) (n : Nat) (f : Port → Port) : (s.modPort p n f).port p n = f (s.port p n) := State.port_setPort_same ..

theorem ns_modSh (s : State) (p : Part) (f : Shared → Shared) : (s.modSh p f).ns = s.ns := by cases p <;> rfl

theorem out_modSh (s : State) (p : Part) (f : Shared → Shared) : (s.modSh p f).out = s.out := by cases p <;> rfl

/-- A port has only sent marker and filler sets: its transmitter and what was sent have changed, nothing else. -/
def TxOnly (s : State) (p : Part) (u : State) : Prop :=
  ∃ t l, u = { s.modSh p (fun sh => { sh with tx := t }) with out := s.out ++ l } ∧ ∀ o ∈ l, Out.isSet o = true

theorem txOnly_refl (s : State) (p : Part) : TxOnly s p s := by
  refine ⟨(s.sh p).tx, [], ?_, by simp⟩; cases p <;> simp [State.modSh]

theorem txOnly_trans {s t u : State} {p : Part} (h : TxOnly s p t) (g : TxOnly t p u) : TxOnly s p u := by
  obtain ⟨a, l, rfl, hl⟩ := h
  obtain ⟨b, m, rfl, hm⟩ := g
  refine ⟨b, l ++ m, by cases p <;> simp [State.modSh, List.append_assoc], ?_⟩
  intro o ho
  rcases List.mem_append.1 ho with h | h
  · exact hl o h
  · exact hm o h

theorem txOnly_setTx (s : State) (p : Part) (n : Nat) (t : TxPort) : TxOnly s p (s.setTx p n t) := by
  refine ⟨tabPut (s.sh p).tx n t TxPort.zero, [], ?_, by simp⟩; cases p <;> simp [State.setTx, State.modSh]

theorem txOnly_emit (s : State) (p : Part) (o : Out) (h : o.isSet = true) : TxOnly s p (s.emit o) := by
  refine ⟨(s.sh p).tx, [o], ?_, by simpa using h⟩; cases p <;> simp [State.modSh, State.emit]

theorem txOnly_pass (s : State) (p : Part) (n slot : Nat) : TxOnly s p (s.passSlot p n slot) := by
  unfold State.passSlot; dsimp only
  split
  · unfold State.sendFiller; dsimp only
    split
    · exact txOnly_trans (txOnly_setTx ..) (txOnly_emit _ _ _ rfl)
    · exact txOnly_setTx ..
  · split
    · unfold State.sendMarkers; exact txOnly_trans (txOnly_setTx ..) (txOnly_emit _ _ _ rfl)
    · exact txOnly_refl ..

theorem txOnly_put (s : State) (p : Part) (n : Nat) (b : Block) : TxOnly s p (s.putBlock p n b).1 ∧ (s.putBlock p n b).2.block = b := by
  unfold State.putBlock; dsimp only
  exact ⟨txOnly_trans (txOnly_trans (txOnly_pass ..) (txOnly_pass ..)) (txOnly_setTx ..), rfl⟩

theorem put_blocks (s : State) (p : Part) (n : Nat) (l : List Block) :
    TxOnly s p (s.putBlocks p n l).1 ∧ (s.putBlocks p n l).2.map (fun b => b.block) = l := by
  have h : ∀ (l : List Block) (r : State × List LaneBlock), TxOnly r.1 p (l.foldl (fun r b => ((r.1.putBlock p n b).1, r.2 ++ [(r.1.putBlock p n b).2])) r).1 ∧
      (l.foldl (fun r b => ((r.1.putBlock p n b).1, r.2 ++ [(r.1.putBlock p n b).2])) r).2.map (fun b => b.block) = r.2.map (fun b => b.block) ++ l := by
    intro l
    induction l with
    | nil => intro r; exact ⟨txOnly_refl .., by simp⟩
    | cons b l ih =>
      intro r
      obtain ⟨h1, h2⟩ := ih ((r.1.putBlock p n b).1, r.2 ++ [(r.1.putBlock p n b).2])
      refine ⟨txOnly_trans (txOnly_put r.1 p n b).1 h1, ?_⟩
      rw [List.foldl_cons, h2]
      simp [(txOnly_put r.1 p n b).2]
  obtain ⟨h1, h2⟩ := h l (s.catchUp p n, [])
  refine ⟨txOnly_trans ?_ h1, by simpa [State.putBlocks] using h2⟩
  unfold State.catchUp; exact txOnly_setTx ..

theorem txOnly_keep {β : Type} (g : State → β) {s u : State} {p : Part} (h : TxOnly s p u)
    (hg : ∀ (t : State) x, g (t.modSh p fun sh => { sh with tx := x }) = g t) (ho : ∀ (t : State) l, g { t with out := l } = g t) : g u = g s := by
  obtain ⟨a, l, rfl, -⟩ := h
  exact (ho _ _).trans (hg _ _)

theorem txOnly_port {s u : State} {p : Part} (h : TxOnly s p u) (m : Nat) : u.port p m = s.port p m :=
  txOnly_keep (fun t => t.port p m) h (fun _ _ => by cases p <;> rfl) (fun _ _ => by cases p <;> rfl)

theorem txOnly_lane {s u : State} {p : Part} (h : TxOnly s p u) (m : Nat) : u.lane p m = s.lane p m :=
  txOnly_keep (fun t => t.lane p m) h (fun _ _ => by cases p <;> rfl) (fun _ _ => by cases p <;> rfl)

theorem txOnly_out {s u : State} {p : Part} (h : TxOnly s p u) : ∃ l, u.out = s.out ++ l ∧ ∀ o ∈ l, Out.isSet o = true := by
  obtain ⟨a, l, rfl, hl⟩ := h
  exact ⟨l, rfl, hl⟩

/-- The bytes of a packet depend on the group tables and the endpoint's collectives only. -/
theorem wire_congr {s u : State} (p : Part) (k : Packet) (h1 : u.mod.groups = s.mod.groups) (h2 : u.ep.colls = s.ep.colls) : u.wire p k = s.wire p k := by
  have : u.contributor p k = s.contributor p k := by
    unfold State.contributor; cases p
    · simp [State.collNamed, h2]
    · simp [State.group, h1]
  unfold State.wire State.cipher; rw [this]

theorem keep_portCount {β : Type} (g : State → β) (s : State) (p : Part) (n k : Nat) (hl : ∀ (t : State) (x : EventLog), g (t.modSh p fun sh => { sh with log := x }) = g t) (hc : ∀ (t : State) (x : Counters), g (t.modSh p fun sh => { sh with ctr := x }) = g t) : g (s.portCount p n k) = g s := by
  have e1 : ∀ (t : State) a b c d, g (t.count p a b c d) = g t := fun t a b c d => State.count_keeps t g p (fun t f => (by have := hl t (f (t.sh p).log); cases p <;> exact this)) (fun t f => (by have := hc t (f (t.sh p).ctr); cases p <;> exact this)) ..
  cases p <;> exact e1 ..

theorem keep_portSlots {β : Type} (g : State → β) (s : State) (p : Part) (n l c : Nat) (hl : ∀ (t : State) (x : EventLog), g (t.modSh p fun sh => { sh with log := x }) = g t) (hc : ∀ (t : State) (x : Counters), g (t.modSh p fun sh => { sh with ctr := x }) = g t) : g (s.portSlots p n l c) = g s := by
  have e1 : ∀ (t : State) a b c d, g (t.count p a b c d) = g t := fun t a b c d => State.count_keeps t g p (fun t f => (by have := hl t (f (t.sh p).log); cases p <;> exact this)) (fun t f => (by have := hc t (f (t.sh p).ctr); cases p <;> exact this)) ..
  unfold State.portSlots State.slotCount
  exact (e1 ..).trans (e1 ..)

theorem keep_padSlots {β : Type} (g : State → β) (s : State) (p : Part) (n k : Nat) (hl : ∀ (t : State) (x : EventLog), g (t.modSh p fun sh => { sh with log := x }) = g t) (hc : ∀ (t : State) (x : Counters), g (t.modSh p fun sh => { sh with ctr := x }) = g t) : g (s.padSlots p n k) = g s := by
  unfold State.padSlots State.slotCount
  split
  · exact State.count_keeps s g p (fun t f => (by have := hl t (f (t.sh p).log); cases p <;> exact this)) (fun t f => (by have := hc t (f (t.sh p).ctr); cases p <;> exact this)) ..
  · rfl

theorem port_padSlots (s : State) (p : Part) (n k m : Nat) : (s.padSlots p n k).port p m = s.port p m :=
  keep_padSlots (fun t => t.port p m) _ _ _ _ (fun _ _ => by cases p <;> rfl) (fun _ _ => by cases p <;> rfl)

theorem lane_padSlots (s : State) (p : Part) (n k m : Nat) : (s.padSlots p n k).lane p m = s.lane p m :=
  keep_padSlots (fun t => t.lane p m) _ _ _ _ (fun _ _ => by cases p <;> rfl) (fun _ _ => by cases p <;> rfl)

theorem out_padSlots (s : State) (p : Part) (n k : Nat) : (s.padSlots p n k).out = s.out :=
  keep_padSlots (fun t => t.out) _ _ _ _ (fun _ _ => by cases p <;> rfl) (fun _ _ => by cases p <;> rfl)

theorem out_modLane (s : State) (p : Part) (n : Nat) (f : Lane → Lane) : (s.modLane p n f).out = s.out := by cases p <;> rfl

theorem nodup_portLanes (s : State) (p : Part) (n : Nat) : (s.portLanes p n).Nodup := by
  unfold State.portLanes bitsSet
  refine List.Nodup.map ?_ (List.Nodup.filter _ List.nodup_range)
  intro a b h; simpa using h

theorem eraseDups_nodup {l : List Nat} (h : l.Nodup) : l.eraseDups = l := by
  induction l with
  | nil => rfl
  | cons a l ih =>
    rw [List.nodup_cons] at h
    rw [List.eraseDups_cons]
    have : l.filter (fun b => !b == a) = l := by
      rw [List.filter_eq_self]
      intro x hx
      have : x ≠ a := fun e => h.1 (e ▸ hx)
      simp [this]
    rw [this, ih h.2]

theorem out_modLane_fold (p : Part) (f : Lane → Lane) (a : Nat) (l : List Nat) (s : State) : (l.foldl (fun s i => s.modLane p (a + i) f) s).out = s.out := by
  induction l generalizing s with
  | nil => rfl
  | cons x l ih => rw [List.foldl_cons, ih, out_modLane]

theorem ns_modLane (s : State) (p : Part) (n : Nat) (f : Lane → Lane) : (s.modLane p n f).ns = s.ns := by cases p <;> rfl

theorem fold_ns (s : State) (p : Part) (l : List Nat) : (l.foldl (fun s l => s.modLane p l fun x => { x with state := 2, since := s.ns }) s).ns = s.ns := by
  induction l generalizing s with
  | nil => rfl
  | cons x l ih => rw [List.foldl_cons, ih, ns_modLane]

theorem fold_since (s : State) (p : Part) (l : List Nat) (u : State) (h : u.ns = s.ns) :
    l.foldl (fun s l => s.modLane p l fun x => { x with state := 2, since := s.ns }) u =
      l.foldl (fun u l => u.modLane p l fun x => { x with state := 2, since := s.ns }) u := by
  induction l generalizing u with
  | nil => rfl
  | cons x l ih =>
    rw [List.foldl_cons, List.foldl_cons, h]
    exact ih _ ((ns_modLane ..).trans h)

theorem capability_setPort (s : State) (p : Part) (n : Nat) (q : Port) (h : q.role = (s.port p n).role) :
    (s.setPort p n q).capability p n false false = s.capability p n false false := by
  unfold State.capability State.clockingEntry
  have h1 : ((s.setPort p n q).port p n).role = (s.port p n).role := by rw [State.port_setPort_same, h]
  cases p <;> simp only [h1] <;> rfl

theorem peerOk_setPort (s : State) (p : Part) (n : Nat) (c : Capability) (q : Port) (h : q.role = (s.port p n).role) :
    (s.setPort p n q).peerOk p n c = s.peerOk p n c := by
  unfold State.peerOk
  rw [capability_setPort s p n q h]

theorem out_setPort (s : State) (p : Part) (n : Nat) (q : Port) : (s.setPort p n q).out = s.out := by cases p <;> rfl

theorem port_emit (s : State) (o : Out) (p : Part) (n : Nat) : (s.emit o).port p n = s.port p n := by cases p <;> rfl

theorem lane_emit (s : State) (o : Out) (p : Part) (n : Nat) : (s.emit o).lane p n = s.lane p n := by cases p <;> rfl

theorem capDue_setPort (s : State) (p : Part) (n : Nat) (q : Port) (h : q.capAt = (s.port p n).capAt) : (s.setPort p n q).capDue p n = s.capDue p n := by
  unfold State.capDue
  rw [State.port_setPort_same, h, show (s.setPort p n q).ns = s.ns by cases p <;> rfl]

theorem capReceive_eq (s : State) (p : Part) (n : Nat) (c : Capability) (h6 : (s.port p n).state = 6) : s.capReceive p n c =
    (let same : Bool := match (s.port p n).peer with
        | some d => ({ d with seen := false, accepted := false } : Capability) == { c with seen := false, accepted := false }
        | none => false
      let cnt := if same then min 3 ((s.port p n).capCount + 1) else 1
      let t := s.setPort p n { s.port p n with peer := some c, capCount := cnt }
      let bytes := c.port + c.node * 2 ^ 8 + c.slot * 2 ^ 18 + c.plane * 2 ^ 26 + c.rack * 2 ^ 30 + c.pod * 2 ^ 34
      let t := if cnt = 3 ∧ (s.port p n).capCount < 3 ∧ ¬ t.accepts p n ∧ c.valid then t.logEvent p 1 0x0001 0 (n * 2 ^ 104 + bytes) else t
      if t.capDue p n then t.sendCapability p n else t.tryActive p n) := by
  unfold State.capReceive
  dsimp only
  rw [if_neg (by omega), if_neg (by omega)]
  all_goals rfl

theorem tryActive_waits (s : State) (p : Part) (n : Nat) (h : (s.port p n).capAcc = false) : s.tryActive p n = s := by
  unfold State.tryActive
  dsimp only
  split
  · rw [if_neg]; rintro ⟨-, h1, -⟩; rw [h] at h1; cases h1
  · rfl

theorem sendCapability_unaccepted (s : State) (p : Part) (n : Nat) (ha : s.accepts p n = false) (hc : (s.port p n).capCount ≠ 3) :
    ∃ (u : State) (x : Capability) (l : List Out), s.sendCapability p n = u ∧ u.port p n = { s.port p n with capAt := some s.ns, capAcc := false } ∧
      (∀ m, m ≠ n → u.port p m = s.port p m) ∧ x.seen = false ∧ x.accepted = false ∧ u.out = s.out ++ l ++ [.capability p n x] ∧ ∀ o ∈ l, o.isSet = true := by
  have hb : ((s.port p n).capCount == 3) = false := by simpa using hc
  have key : s.sendCapability p n = ((s.modPort p n fun q => { q with capAt := some s.ns, capAcc := false }).sendBlock p n (s.capability p n false false).block (.capability p n (s.capability p n false false))).tryActive p n := by
    unfold State.sendCapability; dsimp only; rw [ha, hb]
  have hsame := port_modPort_same s p n fun q => { q with capAt := some s.ns, capAcc := false }
  have hoth : ∀ m, m ≠ n → (s.modPort p n fun q => { q with capAt := some s.ns, capAcc := false }).port p m = s.port p m := fun m hm => State.port_setPort_other _ _ _ hm
  have hout : (s.modPort p n fun q => { q with capAt := some s.ns, capAcc := false }).out = s.out := out_setPort ..
  generalize (s.modPort p n fun q => { q with capAt := some s.ns, capAcc := false }) = A at *
  rw [State.sendBlock] at key
  rw [← port_padSlots A p n 1] at hsame
  simp only [← port_padSlots A p n 1] at hoth
  rw [← out_padSlots A p n 1] at hout
  generalize A.padSlots p n 1 = A at *
  have hT := (put_blocks A p n [(s.capability p n false false).block]).1
  obtain ⟨l, hl, hset⟩ := txOnly_out hT
  have hprt := fun m => txOnly_port hT m
  generalize (A.putBlocks p n [(s.capability p n false false).block]).1 = D at *
  have hD : ∀ m, (D.emit (.capability p n (s.capability p n false false))).port p m = A.port p m := fun m => (show _ = D.port p m by cases p <;> rfl).trans (hprt m)
  rw [tryActive_waits _ _ _ (by rw [hD, hsame])] at key
  refine ⟨_, s.capability p n false false, l, key, by rw [hD, hsame], fun m hm => by rw [hD, hoth m hm], rfl, rfl, ?_, hset⟩
  show D.out ++ [_] = _
  rw [hl, hout]

theorem port_modLane_fold_all (p : Part) (n : Nat) (f : Lane → Lane) (l : List Nat) : ∀ (s : State), (∀ m, (l.foldl (fun s i => s.modLane p (s.laneAt p n i) f) s).port p m = s.port p m) ∧ (l.foldl (fun s i => s.modLane p (s.laneAt p n i) f) s).out = s.out := by
  induction l with
  | nil => intro s; exact ⟨fun _ => rfl, rfl⟩
  | cons x l ih =>
    intro s
    obtain ⟨h1, h2⟩ := ih (s.modLane p (s.laneAt p n x) f)
    exact ⟨fun m => (h1 m).trans (State.port_setLane ..), h2.trans (out_modLane ..)⟩

theorem port_modLanes (s : State) (p : Part) (n set : Nat) (f : Lane → Lane) (m : Nat) : (s.modLanes p n set f).port p m = s.port p m :=
  (port_modLane_fold_all p n f _ s).1 m

theorem out_modLanes (s : State) (p : Part) (n set : Nat) (f : Lane → Lane) : (s.modLanes p n set f).out = s.out :=
  (port_modLane_fold_all p n f _ s).2

theorem deskewed_sends (s : State) (p : Part) (n set : Nat) : ∃ (u : State) (c : Capability) (l : List Out), s.deskewed p n set = u ∧
    (u.port p n).state = 6 ∧ (u.port p n).lanes = set ∧ (u.port p n).peer = none ∧ u.out = s.out ++ l ++ [.capability p n c] ∧ ∀ o ∈ l, o.isSet = true := by
  have key : s.deskewed p n set = ((s.modLanes p n set fun x => { x with state := 6 }).modPort p n fun q => { q with state := 6, lanes := set, since := (s.modLanes p n set fun x => { x with state := 6 }).ns, capCount := 0, peer := none, capAt := none, capAcc := false }).sendCapability p n := rfl
  have hout := out_modLanes s p n set fun x => { x with state := 6 }
  generalize (s.modLanes p n set fun x => { x with state := 6 }) = A at *
  have hs := port_modPort_same A p n fun q => { q with state := 6, lanes := set, since := A.ns, capCount := 0, peer := none, capAt := none, capAcc := false }
  have ho : (A.modPort p n fun q => { q with state := 6, lanes := set, since := A.ns, capCount := 0, peer := none, capAt := none, capAcc := false }).out = A.out := out_setPort ..
  generalize (A.modPort p n fun q => { q with state := 6, lanes := set, since := A.ns, capCount := 0, peer := none, capAt := none, capAcc := false }) = B at *
  obtain ⟨u, x, l, h1, h2, -, -, -, h7, h8⟩ := sendCapability_unaccepted B p n (by unfold State.accepts; rw [hs]) (by rw [hs]; simp)
  exact ⟨u, x, l, by rw [key, h1], by rw [h2, hs], by rw [h2, hs], by rw [h2, hs], by rw [h7, ho, hout], h8⟩

theorem toActive_state (s : State) (n : Nat) (c : Capability) : ((s.toActive .mod n c).port .mod n).state = 7 := by
  unfold State.toActive
  dsimp only
  rw [if_neg (by simp)]
  unfold State.newWidth
  dsimp only
  rw [show ∀ (t : State) x, (t.setTx .mod n x).port .mod n = t.port .mod n from fun t x => rfl, port_modLanes, port_modPort_same]

theorem port_modLane (s : State) (p : Part) (n m : Nat) (f : Lane → Lane) : (s.modLane p n f).port p m = s.port p m := State.port_setLane ..

theorem port_modLane_fold (p : Part) (f : Lane → Lane) (a : Nat) (l : List Nat) (s : State) (n : Nat) : (l.foldl (fun s i => s.modLane p (a + i) f) s).port p n = s.port p n := by
  induction l generalizing s with
  | nil => rfl
  | cons x l ih => rw [List.foldl_cons, ih, port_modLane]

theorem out_setLane (s : State) (p : Part) (l : Nat) (x : Lane) : (s.setLane p l x).out = s.out := by cases p <;> rfl

theorem ep_modLane_fold (f : Lane → Lane) (a : Nat) (l : List Nat) (s : State) : (l.foldl (fun s i => s.modLane .mod (a + i) f) s).ep = s.ep := by
  induction l generalizing s with
  | nil => rfl
  | cons x l ih => rw [List.foldl_cons, ih]; rfl

theorem lane_count (s : State) (p : Part) (g i k n l : Nat) : (s.count p g i k n).lane p l = s.lane p l :=
  State.count_keeps s (fun t => t.lane p l) p (fun _ _ => by cases p <;> rfl) (fun _ _ => by cases p <;> rfl) ..

theorem laneFailure_eq (s : State) (p : Part) (l : Nat) (h0 : (s.lane p l).state ≠ 0) :
    ∃ t : State, (t.lane p l = (s.lane p l).restart 8 s.ns ∧ (∀ m, m ≠ l → t.lane p m = s.lane p m) ∧
      (∀ n, t.port p n = s.port p n) ∧ t.out = s.out ∧ (t.sh p).regs = (s.sh p).regs) ∧
      s.laneFailure p l 0 false = (if !((s.port p (s.portOfLane p l)).state == 7 && bit (s.port p (s.portOfLane p l)).lanes ((s.port p (s.portOfLane p l)).indexOf (l - 4 * s.portOfLane p l))) then t
        else if (t.sh p).reg 0x410007 (s.portOfLane p l) = 0 ∨ widest (t.cfgWidth p (s.portOfLane p l)) ((s.port p (s.portOfLane p l)).lanes &&& t.sound p (s.portOfLane p l)) = 0 then
          t.goDown p (s.portOfLane p l)
        else t.widthStart p (s.portOfLane p l) ((s.port p (s.portOfLane p l)).lanes &&& t.sound p (s.portOfLane p l)) 0) := by
  have hA : ∃ A : State, A = s.modLane p l (fun x => x) ∧ A.lane p l = s.lane p l ∧ (∀ m, m ≠ l → A.lane p m = s.lane p m) ∧
      (∀ n, A.port p n = s.port p n) ∧ A.out = s.out ∧ (A.sh p).regs = (s.sh p).regs ∧ A.ns = s.ns :=
    ⟨_, rfl, State.lane_setLane_same .., fun m hm => State.lane_setLane_other _ _ _ hm, fun n => State.port_setLane .., out_modLane .., by cases p <;> rfl, by cases p <;> rfl⟩
  obtain ⟨A, hA0, a1, a2, a3, a4, a5, a6⟩ := hA
  refine ⟨A.modLane p l fun x => x.restart 8 A.ns, ⟨?_, fun m hm => (State.lane_setLane_other _ _ _ hm).trans (a2 m hm), fun n => (State.port_setLane ..).trans (a3 n), (out_modLane ..).trans a4, ?_⟩, ?_⟩
  · unfold State.modLane; rw [State.lane_setLane_same, a1, a6]
  · rw [← a5]; cases p <;> rfl
  · have hf : ∀ t : State, t.laneFailed p l false = true := by intro t; simp [State.laneFailed]
    unfold State.laneFailure
    dsimp only
    rw [if_pos rfl]
    have e : (s.modLane p l fun x => if (0 : Nat) = 0 then x else { x with hist := tabPut x.hist 15 (tabGetD x.hist 15 0 + 0) 0, errs := (s.rackNs p / 1000, (if x.errs.1 = s.rackNs p / 1000 then x.errs.2 else 0) + 0) }) = A := by
      rw [hA0]; rfl
    rw [e, if_neg (by rw [hf, a1]; simp [h0])]

theorem widthSwitch_sent (s : State) (p : Part) (n : Nat) (w : WidthState) (hw : (s.port p n).wc = some w) :
    ∃ (u : State) (l : List Out), s.sendWidth p n = u ∧ u.port p n = { s.port p n with wc := some { w with sent := s.ns } } ∧
      (∀ m, m ≠ n → u.port p m = s.port p m) ∧ (∀ m, u.lane p m = s.lane p m) ∧ (p = Part.ep → u.mod = s.mod) ∧
      u.out = s.out ++ l ++ [.width p n (widthBlock w)] ∧ ∀ o ∈ l, o.isSet = true := by
  have key : s.sendWidth p n = (((s.modPort p n fun q => { q with wc := some { w with sent := s.ns } }).padSlots p n ((s.modPort p n fun q => { q with wc := some { w with sent := s.ns } }).txLanes p n).length).putBlocks p n (((s.modPort p n fun q => { q with wc := some { w with sent := s.ns } }).txLanes p n).map fun _ => (widthBlock w).block)).1.emit (.width p n (widthBlock w)) := by
    unfold State.sendWidth; rw [hw]
  have hsame := port_modPort_same s p n fun q => { q with wc := some { w with sent := s.ns } }
  have hoth : ∀ m, m ≠ n → (s.modPort p n fun q => { q with wc := some { w with sent := s.ns } }).port p m = s.port p m := fun m hm => State.port_setPort_other _ _ _ hm
  have hout : (s.modPort p n fun q => { q with wc := some { w with sent := s.ns } }).out = s.out := out_setPort ..
  have hlane : ∀ m, (s.modPort p n fun q => { q with wc := some { w with sent := s.ns } }).lane p m = s.lane p m := fun m => State.lane_setPort ..
  have hmod : p = Part.ep → (s.modPort p n fun q => { q with wc := some { w with sent := s.ns } }).mod = s.mod := by rintro rfl; rfl
  generalize (s.modPort p n fun q => { q with wc := some { w with sent := s.ns } }) = A at *
  have hpm : p = Part.ep → (A.padSlots p n (A.txLanes p n).length).mod = s.mod := by
    rintro rfl
    exact (keep_padSlots (fun t => t.mod) _ _ _ _ (fun _ _ => rfl) (fun _ _ => rfl)).trans (hmod rfl)
  rw [← port_padSlots A p n (A.txLanes p n).length] at hsame
  simp only [← port_padSlots A p n (A.txLanes p n).length] at hoth
  rw [← out_padSlots A p n (A.txLanes p n).length] at hout
  simp only [← lane_padSlots A p n (A.txLanes p n).length] at hlane
  clear hmod
  generalize A.padSlots p n (A.txLanes p n).length = E at *
  generalize (A.txLanes p n).map (fun _ => (widthBlock w).block) = bs at *
  have hT := (put_blocks E p n bs).1
  obtain ⟨l, hl, hset⟩ := txOnly_out hT
  have hprt := fun m => txOnly_port hT m
  have hln := fun m => txOnly_lane hT m
  have hmd : p = Part.ep → (E.putBlocks p n bs).1.mod = E.mod := by
    obtain ⟨t, l, h, -⟩ := hT
    rintro rfl; rw [h]; rfl
  generalize (E.putBlocks p n bs).1 = D at *
  refine ⟨_, l, key, ?_, fun m hm => ?_, fun m => ?_, fun h => ?_, ?_, hset⟩
  · rw [port_emit, hprt, hsame]
  · rw [port_emit, hprt, hoth m hm]
  · rw [lane_emit, hln, hlane]
  · exact (hmd h).trans (hpm h)
  · show D.out ++ [_] = _
    rw [hl, hout]

theorem writeNamed_eq {s : State} {p : Part} {a : Access} {key : Nat} {val : List Byte} {c : Nat} {t : State} (hd : dirCheck p a key true s = 0)
    (h : s.dirApply p a key val DirAux.none_ = (c, t)) : s.writeNamed p a key val = t.emit (.dir p a.ctx c []) := by
  rw [State.writeNamed_of hd, h]; rfl

theorem laneDone_fold (n : Nat) (f : Nat → Lane → Lane) (l : List Nat) : ∀ (s : State),
    (∀ m, (l.foldl (fun s i => s.modLane .mod (s.laneAt .mod n i) (f i)) s).port .mod m = s.port .mod m) ∧
    (l.foldl (fun s i => s.modLane .mod (s.laneAt .mod n i) (f i)) s).ep = s.ep ∧
    (l.foldl (fun s i => s.modLane .mod (s.laneAt .mod n i) (f i)) s).out = s.out := by
  induction l with
  | nil => intro s; exact ⟨fun _ => rfl, rfl, rfl⟩
  | cons x l ih =>
    intro s
    obtain ⟨h1, h2, h3⟩ := ih (s.modLane .mod (s.laneAt .mod n x) (f x))
    exact ⟨fun m => (h1 m).trans (State.port_setLane ..), h2.trans rfl, h3.trans (out_modLane ..)⟩

theorem inOrder_one (s : State) (f : MFrame) : s.inOrder [f] = [f] := by simp [State.inOrder]

theorem inOrder_nil (s : State) : s.inOrder [] = [] := rfl

theorem tile_modTile_same (s : State) (t : Nat) (f : Tile → Tile) : (s.modTile t f).tile t = f (s.tile t) := by
  unfold State.tile State.modTile State.modMod
  exact tabGetD_tabPut_same _ _ _ _

theorem tile_modTile_other (s : State) {t k : Nat} (f : Tile → Tile) (h : k ≠ t) : (s.modTile t f).tile k = s.tile k := by
  unfold State.tile State.modTile State.modMod
  exact tabGetD_tabPut_other _ _ _ h

theorem count_mod_keeps (s : State) {β : Type} (g : State → β) (hl : ∀ (t : State) (f : EventLog → EventLog), g (t.modSh .mod fun sh => { sh with log := f sh.log }) = g t)
    (hc : ∀ (t : State) (f : Counters → Counters), g (t.modSh .mod fun sh => { sh with ctr := f sh.ctr }) = g t) (a b c d : Nat) :
    g (s.count .mod a b c d) = g s := State.count_keeps s g .mod hl hc ..

theorem frames_count (s : State) (a b c d : Nat) : (s.count .mod a b c d).mod.frames = s.mod.frames := count_mod_keeps s (fun t => t.mod.frames) (fun _ _ => rfl) (fun _ _ => rfl) ..

theorem ep_count (s : State) (a b c d : Nat) : (s.count .mod a b c d).ep = s.ep := count_mod_keeps s (fun t => t.ep) (fun _ _ => rfl) (fun _ _ => rfl) ..

theorem frames_partCount (s : State) (j c d : Nat) : (s.partCount .mod j c d).mod.frames = s.mod.frames := by
  unfold State.partCount; split; exacts [frames_count .., rfl]

theorem ep_partCount (s : State) (j c d : Nat) : (s.partCount .mod j c d).ep = s.ep := by
  unfold State.partCount; split; exacts [ep_count .., rfl]

theorem out_partCount (s : State) (j c d : Nat) : (s.partCount .mod j c d).out = s.out := by
  unfold State.partCount; split; exacts [State.out_count .., rfl]

theorem partCount_zero (s : State) (p : Part) (j c : Nat) : s.partCount p j c 0 = s := by
  unfold State.partCount State.count; split; exacts [if_pos (by simp), rfl]

theorem spillFrame_one (s : State) (t : Nat) (f : MFrame) (h1 : s.freeCells t < s.regNow .mod 0x510005) (h2 : s.mayTakePages t 1 = true)
    (h3 : s.outQueue t 0 = [f]) (h4 : s.outQueue t 1 = []) (h5 : s.outQueue t 2 = []) (h6 : s.outQueue t 3 = []) :
    ∃ (u : State) (x : Tile → Tile), s.spillFrame t = u.modTile t x ∧
      u = ((((s.takeFrame f).putFrame (MFrame.mark { f with place := 4, spilled := true } 3 s.ns)).tileCount t 17).partCount .mod f.pkt.job 9 1) := by
  have hl : ([0, 1, 2, 3].map fun u => s.outQueue t u).foldl (fun b q => if queueBytes b < queueBytes q then q else b) [] = [f] := by
    simp only [List.map_cons, List.map_nil, h3, h4, h5, h6, List.foldl_cons, List.foldl_nil]
    simp [queueBytes]
  unfold State.spillFrame
  dsimp only
  rw [if_neg (by omega), hl]
  dsimp only [List.getLast?_singleton]
  rw [if_neg (by simp [h2])]
  exact ⟨_, _, rfl, rfl⟩

theorem frames_putFrame (s : State) (f : MFrame) : (s.putFrame f).mod.frames = s.mod.frames ++ [f] := by
  unfold State.putFrame; dsimp only; split <;> rfl

theorem frames_takeFrame (s : State) (f : MFrame) : (s.takeFrame f).mod.frames = delFirst (fun x => x.id == f.id) s.mod.frames := by
  unfold State.takeFrame; dsimp only; split <;> rfl

theorem frames_takeOut (s : State) (t p o : Nat) (f : MFrame) : (s.takeOut t p o f).mod.frames = s.mod.frames := rfl

theorem sh_putFrame (s : State) (f : MFrame) : (s.putFrame f).mod.sh = s.mod.sh := by
  unfold State.putFrame; dsimp only; split <;> rfl

theorem sh_takeFrame (s : State) (f : MFrame) : (s.takeFrame f).mod.sh = s.mod.sh := by
  unfold State.takeFrame; dsimp only; split <;> rfl

theorem sh_takeOut (s : State) (t p o : Nat) (f : MFrame) : (s.takeOut t p o f).mod.sh = s.mod.sh := rfl

theorem ep_putFrame (s : State) (f : MFrame) : (s.putFrame f).ep = s.ep := by
  unfold State.putFrame; dsimp only; split <;> rfl

theorem ep_takeFrame (s : State) (f : MFrame) : (s.takeFrame f).ep = s.ep := by
  unfold State.takeFrame; dsimp only; split <;> rfl

theorem ep_takeOut (s : State) (t p o : Nat) (f : MFrame) : (s.takeOut t p o f).ep = s.ep := rfl

theorem out_putFrame (s : State) (f : MFrame) : (s.putFrame f).out = s.out := by
  unfold State.putFrame; dsimp only; split <;> rfl

theorem out_takeFrame (s : State) (f : MFrame) : (s.takeFrame f).out = s.out := by
  unfold State.takeFrame; dsimp only; split <;> rfl

theorem out_takeOut (s : State) (t p o : Nat) (f : MFrame) : (s.takeOut t p o f).out = s.out := rfl

theorem moved (s : State) (t p o : Nat) (f g h : MFrame) : ((((s.takeFrame f).cellsLeave f).takeOut t p o g).putFrame h).mod.frames = delFirst (fun x => x.id == f.id) s.mod.frames ++ [h] ∧ ((((s.takeFrame f).cellsLeave f).takeOut t p o g).putFrame h).mod.sh = s.mod.sh ∧ ((((s.takeFrame f).cellsLeave f).takeOut t p o g).putFrame h).ep = s.ep ∧ ((((s.takeFrame f).cellsLeave f).takeOut t p o g).putFrame h).out = s.out := by
  rw [frames_putFrame, sh_putFrame, ep_putFrame, out_putFrame, frames_takeOut, sh_takeOut, ep_takeOut, out_takeOut]
  exact ⟨congrArg (· ++ _) (frames_takeFrame s f), sh_takeFrame s f, ep_takeFrame s f, out_takeFrame s f⟩

theorem ep_frame_moves (s : State) (t p o : Nat) (f g h : MFrame) : (((s.takeFrame f).takeOut t p o g).putFrame h).ep = s.ep := by rw [ep_putFrame, ep_takeOut, ep_takeFrame]

theorem out_frame_moves (s : State) (t p o : Nat) (f g h : MFrame) : (((s.takeFrame f).takeOut t p o g).putFrame h).out = s.out := by rw [out_putFrame, out_takeOut, out_takeFrame]

theorem foldl_keeps {α β : Type} (g : State → β) (f : State → α → State) (h : ∀ s x, g (f s x) = g s) (l : List α) (s : State) :
    g (l.foldl f s) = g s := by
  induction l generalizing s with
  | nil => rfl
  | cons x l ih => rw [List.foldl_cons, ih, h]

theorem tile_count (s : State) (a b c d t : Nat) : (s.count .mod a b c d).tile t = s.tile t := count_mod_keeps s (fun u => u.tile t) (fun _ _ => rfl) (fun _ _ => rfl) ..

theorem groups_count (s : State) (a b c d : Nat) : (s.count .mod a b c d).mod.groups = s.mod.groups := count_mod_keeps s (fun u => u.mod.groups) (fun _ _ => rfl) (fun _ _ => rfl) ..

theorem mem_count (s : State) (a b c d : Nat) : (s.count .mod a b c d).mod.mem = s.mod.mem := count_mod_keeps s (fun u => u.mod.mem) (fun _ _ => rfl) (fun _ _ => rfl) ..

theorem tileMap_congr {s u : State} (hf : u.mod.frames = s.mod.frames) (hg : u.mod.groups = s.mod.groups) (t : Nat) : u.tileMap t = s.tileMap t := by
  unfold State.tileMap; rw [hf, hg]

theorem auditTile_eq (s : State) (t : Nat) : (s.auditTile t).mod.frames = s.mod.frames ∧ (s.auditTile t).mod.groups = s.mod.groups ∧
    (s.auditTile t).mod.mem = s.mod.mem ∧ (s.auditTile t).ep = s.ep ∧ (s.auditTile t).out = s.out ∧
    (∀ k, k ≠ t → (s.auditTile t).tile k = s.tile k) ∧
    (((s.auditTile t).tile t).frameUsed, ((s.auditTile t).tile t).parkUsed, ((s.auditTile t).tile t).windUsed) = s.tileMap t ∧
    ((s.auditTile t).tile t).inService = (s.tile t).inService ∧ ((s.auditTile t).tile t).auditRun ≤ (s.tile t).auditRun + 1 := by
  unfold State.auditTile
  dsimp only
  split
  · refine ⟨rfl, rfl, rfl, rfl, rfl, fun k hk => tile_modTile_other _ _ hk, ?_⟩
    rw [tile_modTile_same]
    exact ⟨by assumption, rfl, by simp⟩
  · refine ⟨frames_count .., groups_count .., mem_count .., ep_count .., State.out_count .., fun k hk => (tile_modTile_other _ _ hk).trans (tile_count ..), ?_⟩
    rw [tile_modTile_same]
    unfold State.tileCount
    rw [tile_count]
    exact ⟨rfl, rfl, by simp⟩

theorem auditTile_fold (l : List Nat) (hl : l.Nodup) (s : State) :
    (l.foldl (fun s t => s.auditTile t) s).mod.frames = s.mod.frames ∧ (l.foldl (fun s t => s.auditTile t) s).mod.groups = s.mod.groups ∧
    (l.foldl (fun s t => s.auditTile t) s).mod.mem = s.mod.mem ∧ (l.foldl (fun s t => s.auditTile t) s).ep = s.ep ∧
    (l.foldl (fun s t => s.auditTile t) s).out = s.out ∧
    (∀ k, k ∉ l → (l.foldl (fun s t => s.auditTile t) s).tile k = s.tile k) ∧
    ∀ t ∈ l, (((l.foldl (fun s t => s.auditTile t) s).tile t).frameUsed, ((l.foldl (fun s t => s.auditTile t) s).tile t).parkUsed,
        ((l.foldl (fun s t => s.auditTile t) s).tile t).windUsed) = s.tileMap t ∧
      ((l.foldl (fun s t => s.auditTile t) s).tile t).inService = (s.tile t).inService ∧
      ((l.foldl (fun s t => s.auditTile t) s).tile t).auditRun ≤ (s.tile t).auditRun + 1 := by
  induction l generalizing s with
  | nil => exact ⟨rfl, rfl, rfl, rfl, rfl, fun _ _ => rfl, fun _ h => absurd h (by simp)⟩
  | cons x l ih =>
    rw [List.foldl_cons]
    obtain ⟨a1, a2, a3, a4, a5, a6, a7⟩ := auditTile_eq s x
    obtain ⟨hx, hl⟩ := List.nodup_cons.mp hl
    obtain ⟨b1, b2, b3, b4, b5, b6, b7⟩ := ih hl (s.auditTile x)
    refine ⟨b1.trans a1, b2.trans a2, b3.trans a3, b4.trans a4, b5.trans a5, ?_, ?_⟩
    · intro k hk
      simp only [List.mem_cons, not_or] at hk
      rw [b6 k hk.2, a6 k hk.1]
    · intro t ht
      rcases List.mem_cons.mp ht with h | h
      · rw [h, b6 x hx]; exact a7
      · have hne : t ≠ x := fun e => hx (e ▸ h)
        have := b7 t h
        rw [a6 t hne, tileMap_congr a1 a2] at this
        exact this

theorem run_reg (s : State) (k : Nat) : (s.modEp fun e => { e with auditRun := 0 }).reg .ep k = s.reg .ep k := rfl

theorem slices_emit (s : State) (o : Out) : (s.emit o).mod.slices = s.mod.slices := rfl

theorem slices_newPartition (s : State) (j : Nat) : (s.newPartition .mod j).mod.slices = s.mod.slices := rfl

theorem slices_modMod (s : State) (f : Module → Module) : (s.modMod f).mod.slices = (f s.mod).slices := rfl

theorem foldl_keep {α β : Type} (g : State → β) (f : State → α → State) (h : ∀ s a, g (f s a) = g s) (l : List α) (s : State) :
    g (l.foldl f s) = g s := by
  induction l generalizing s with
  | nil => rfl
  | cons x l ih => exact (ih _).trans (h _ _)

/-- What an idle step does beside the cycle that passes: it writes counters, their events and what ports have transmitted. -/
theorem State.idle_keeps {β : Type} (g : State → β) (s : State)
    (hl : ∀ (p : Part) (t : State) (x : EventLog), g (t.modSh p fun sh => { sh with log := x }) = g t)
    (hc : ∀ (p : Part) (t : State) (x : Counters), g (t.modSh p fun sh => { sh with ctr := x }) = g t)
    (ht : ∀ (p : Part) (t : State) (x : Tab TxPort), g (t.modSh p fun sh => { sh with tx := x }) = g t) : g s.idle = g s.cycle := by
  have e1 : ∀ (p : Part) (t : State) a b c d, g (t.count p a b c d) = g t := fun p t a b c d =>
    State.count_keeps t g p (fun t f => (by have := hl p t (f (t.sh p).log); cases p <;> exact this))
      (fun t f => (by have := hc p t (f (t.sh p).ctr); cases p <;> exact this)) ..
  have e2 : ∀ (p : Part) (t : State) (n : Nat), g (t.catchUp p n) = g t := fun p t n => by
    unfold State.catchUp State.setTx
    have := ht p t (tabPut (t.sh p).tx n { t.txPort p n with next := max (t.txPort p n).next ((t.txLanes p n).length * (rowsBefore (t.slotNow p n) - (t.txPort p n).fillers)) } TxPort.zero)
    cases p <;> exact this
  have e3 : ∀ (p : Part) (t : State), g (t.idlePorts p) = g t := fun p t => by
    unfold State.idlePorts
    refine foldl_keep g _ (fun t q => ?_) _ _
    split
    · unfold State.idleBlocks State.slotCount
      dsimp only
      split
      · exact (e1 ..).trans (e2 ..)
      · exact e2 ..
    · rfl
  have e4 : ∀ (t : State) (a : Nat), g (t.idleMesh a) = g t := fun t a => by
    unfold State.idleMesh
    split
    · rfl
    · refine foldl_keep g _ (fun t i => ?_) _ _
      split
      · unfold State.idleLink
        split
        · rfl
        · exact e1 ..
      · rfl
  unfold State.idle
  exact (e4 ..).trans ((e3 ..).trans (e3 ..))

end Sys2Proof.Machine
end

