-- ==== Sys2Proof/Laws/EriEffects.lean ====
section
/-! SUPPORT. What the accelerator interface does with each kind of message, once for each. -/

set_option linter.all false
set_option Elab.async false

namespace Sys2Proof.Machine

theorem sameTab_two {α : Type} (t : Tab α) (l : Nat) (f g : α → α) (k : α) (h : tabGet t l = some k) (hf : g (f k) = k) :
    sameTab (tabMod (tabMod t l f) l g) t := by
  intro j
  unfold tabMod; rw [h]; simp only [tabGet_tabSet_same]
  by_cases hj : j = l
  · subst hj; rw [tabGet_tabSet_same, h, hf]
  · rw [tabGet_tabSet_other _ _ hj, tabGet_tabSet_other _ _ hj]

theorem linkUp_get {s : State} {l : Nat} (h : s.linkUp l = true) : ∃ k, tabGet s.ep.links l = some k ∧ k.up = true := by
  unfold State.linkUp at h
  split at h
  · rename_i k e; exact ⟨k, e, h⟩
  · cases h

theorem linkUp_of {s : State} {l : Nat} {k : EriLink} (h : tabGet s.ep.links l = some k) (u : k.up = true) : s.linkUp l = true := by
  unfold State.linkUp; rw [h]; exact u

theorem initIn_eq {s : State} {l : Nat} {k : EriLink} (h : tabGet s.ep.links l = some k) (u : s.initDone l = true) : k.gotInit = true := by
  unfold State.initDone at u; rw [h] at u; exact u

/-- A message that brings its credits: what is left of `eriRequest`. -/
theorem eriRequest_brings {s : State} {l : Nat} {m : Eri} (kd : Nat) (ecc : List Nat) (h : s.eriBrings l m) :
    ∃ L, sameTab L s.ep.links ∧ 
      (eriFormBad kd m = true → s.eriRequest l kd m ecc = (({ s with ep := { s.ep with links := L } } : State).emit (.eri l (creditFor 0 m.units))).eriMalformed l m) ∧
      (eriFormBad kd m = false → s.pairOut m = true → s.eriRequest l kd m ecc = ((({ s with ep := { s.ep with links := L } } : State).emit (.eri l (creditFor 0 m.units))).epCount 19).eriAnswer l m cDenied true) ∧
      (eriFormBad kd m = false → s.pairOut m = false → s.mayAccept l m s.ep.eriWait = true → s.eriRequest l kd m ecc =
      (let u := ({ s with ep := { s.ep with links := L } } : State).emit (.eri l (creditFor 0 m.units))
       if m.kind = 0x06 then u.eriDir l m else u.eriRun l m ecc)) := by
  obtain ⟨hu, hi, hc, ht⟩ := h
  obtain ⟨k, hk, hup⟩ := linkUp_get hu
  have hle := hc k hk
  have hg := initIn_eq hk hi
  have ret : (s.modLink l fun k => { k with reqCr := k.reqCr - m.units }).returnReq l m.units =
      (({ s with ep := { s.ep with links := tabMod (tabMod s.ep.links l fun k => { k with reqCr := k.reqCr - m.units }) l fun k => { k with reqCr := k.reqCr + m.units } } } : State).emit (.eri l (creditFor 0 m.units))) := by
    unfold State.returnReq State.giveCredit
    dsimp only
    rw [if_pos (show (s.modLink l fun k => { k with reqCr := k.reqCr - m.units }).ep.tags.length < agentPlaces from ht), if_pos]
    · rfl
    · unfold State.initDone
      rw [show tabGet (s.modLink l fun k => { k with reqCr := k.reqCr - m.units }).ep.links l = some { k with reqCr := k.reqCr - m.units } by
        show tabGet (tabMod _ _ _) _ = _
        unfold tabMod; rw [hk]; exact tabGet_tabSet_same ..]
      exact hg
  have e1 : s.takeCredit l 0 m.units = some (s.modLink l fun k => { k with reqCr := k.reqCr - m.units }) := by
    unfold State.takeCredit; rw [hk]; simp [hup, hle]
  refine ⟨_, sameTab_two s.ep.links l (fun k => { k with reqCr := k.reqCr - m.units }) (fun k => { k with reqCr := k.reqCr + m.units }) k hk ?_, ?_, ?_, ?_⟩
  · show { k with reqCr := k.reqCr - m.units + m.units } = k
    rw [Nat.sub_add_cancel hle]
  · intro hf
    unfold State.eriRequest
    rw [if_neg (by simp [hu]), e1]; dsimp only
    rw [if_pos hf, ret]
  · intro hf hp
    unfold State.eriRequest
    rw [if_neg (by simp [hu]), e1]; dsimp only
    rw [if_neg (by simp [hf]), if_pos (by exact hp), ret]
  · intro hf hp ha
    unfold State.eriRequest
    rw [if_neg (by simp [hu]), e1]; dsimp only
    rw [if_neg (by simp [hf]), if_neg (by rw [show (s.modLink l fun k => { k with reqCr := k.reqCr - m.units }).pairOut m = s.pairOut m from rfl, hp]; simp)]
    refine (if_pos (by exact ha)).trans ?_
    unfold State.eriAccept
    dsimp only
    rw [ret]

theorem eriRequest_takes {s : State} {l : Nat} {m : Eri} (ecc : List Nat) (h : s.eriTakes l m) :
    ∃ L, sameTab L s.ep.links ∧ s.eriRequest l m.kind m ecc =
      (let u := ({ s with ep := { s.ep with links := L } } : State).emit (.eri l (creditFor 0 m.units))
       if m.kind = 0x06 then u.eriDir l m else u.eriRun l m ecc) := by
  obtain ⟨L, hL, -, -, e⟩ := eriRequest_brings m.kind ecc h.1
  exact ⟨L, hL, e h.2.1 h.2.2.1 h.2.2.2⟩

structure EriPass (u : State) (m : Eri) : Prop where
  h1 : u.ep.sh.rot.boot = 1
  h2 : u.ep.selfDead = false
  h3 : badJob m = false

theorem eriPass_taken {s : State} {l : Nat} {m : Eri} (L : Tab EriLink) (h : s.eriPasses l m) (o : Out) :
    EriPass (({ s with ep := { s.ep with links := L } } : State).emit o) m := ⟨h.2.1, h.2.2.1, h.2.2.2⟩

theorem eriRun_access {u : State} {l : Nat} {m : Eri} {ecc : List Nat} (h : EriPass u m) (hk : m.kind = 1 ∨ m.kind = 2 ∨ m.kind = 3) :
    u.eriRun l m ecc = u.eriAccess l m ecc := by
  unfold State.eriRun
  rw [if_neg (by simp [h.h1]), if_neg (by simp [h.h2]), if_neg (by simp [h.h3])]
  rcases hk with hk | hk | hk <;> rw [hk] <;> rfl

theorem eriRun_fence {u : State} {l : Nat} {m : Eri} {ecc : List Nat} (h : EriPass u m) (hk : m.kind = 4) :
    u.eriRun l m ecc = u.eriFence l m := by
  unfold State.eriRun
  rw [if_neg (by simp [h.h1]), if_neg (by simp [h.h2]), if_neg (by simp [h.h3]), hk]
  rfl

theorem eriRun_invalidate {u : State} {l : Nat} {m : Eri} {ecc : List Nat} (h : EriPass u m) (hk : m.kind = 5) :
    u.eriRun l m ecc = u.eriInvalidate l m := by
  unfold State.eriRun
  rw [if_neg (by simp [h.h1]), if_neg (by simp [h.h2]), if_neg (by simp [h.h3]), hk]
  rfl

theorem eriRun_copy {u : State} {l : Nat} {m : Eri} {ecc : List Nat} (h : EriPass u m) (hk : m.kind = 8) :
    u.eriRun l m ecc = u.eriCopy l m := by
  unfold State.eriRun
  rw [if_neg (by simp [h.h1]), if_neg (by simp [h.h2]), if_neg (by simp [h.h3]), hk]
  rfl

theorem eriRun_listArm {u : State} {l : Nat} {m : Eri} {ecc : List Nat} (h : EriPass u m) (hk : m.kind = 9) :
    u.eriRun l m ecc = u.eriListArm l m := by
  unfold State.eriRun
  rw [if_neg (by simp [h.h1]), if_neg (by simp [h.h2]), if_neg (by simp [h.h3]), hk]
  rfl

theorem eriRun_listCancel {u : State} {l : Nat} {m : Eri} {ecc : List Nat} (h : EriPass u m) (hk : m.kind = 10) :
    u.eriRun l m ecc = u.eriListCancel l m := by
  unfold State.eriRun
  rw [if_neg (by simp [h.h1]), if_neg (by simp [h.h2]), if_neg (by simp [h.h3]), hk]
  rfl

theorem eriRun_collective {u : State} {l : Nat} {m : Eri} {ecc : List Nat} (h : EriPass u m) (hk : m.kind = 12) :
    u.eriRun l m ecc = u.eriCollective l m := by
  unfold State.eriRun
  rw [if_neg (by simp [h.h1]), if_neg (by simp [h.h2]), if_neg (by simp [h.h3]), hk]
  rfl

theorem eriInvalidate_eq {u : State} {l : Nat} {m : Eri} {n : Nat} {x : Slot} (hx : u.ep.slotOf m.job = some (n, x)) :
    u.eriInvalidate l m = (u.ncInvalidate n).eriAnswer l m cDone false := by
  unfold State.eriInvalidate; rw [hx]

theorem eriListCancel_eq {u : State} {l : Nat} {m : Eri} {x : ListSlot} (h : tabGet u.ep.lists (bits m.aux 42 37) = some x)
    (hj : x.job = m.job) (hs : x.state ≠ 3) :
    u.eriListCancel l m = (u.listEnd (bits m.aux 42 37) cDenied).eriAnswer l m cDone false := by
  unfold State.eriListCancel listFields; dsimp only; rw [h]; dsimp only; rw [if_neg (by simp [hj, hs])]

theorem listEnd_eq {u : State} {n code : Nat} {x : ListSlot} (h : tabGet u.ep.lists n = some x) :
    u.listEnd n code = (({ u with ep := { u.ep with lists := tabDel u.ep.lists n } } : State)).endTag x.link x.agent x.tag x.job code [] := by
  unfold State.listEnd; rw [h]; rfl

theorem eriDir_eq {u : State} {l : Nat} {m : Eri} (hb : badJob m = false) :
    u.eriDir l m = (u.eriDirRun m).1.sendComp l { Eri.zero with
        kind := 0x24, agent := m.agent, tag := m.tag, len := (u.eriDirRun m).2.2.length, aux := (u.eriDirRun m).2.1 * 2 ^ 48,
        body := (u.eriDirRun m).2.2 } := by
  unfold State.eriDir
  rw [if_neg (by simp [hb])]

theorem eriCopy_taken {u : State} {l : Nat} {m : Eri} {n : Nat} (hl : m.body.length = 64) (hj : u.jobSlot m.job = .inl n)
    (hp : u.copyPlaces < 4096) : u.eriCopy l m = (u.takeTag m).addCopy (copyDescOf m.body) n m.job m.agent m.tag l none := by
  unfold State.eriCopy; rw [if_neg (by simp [hl]), hj]; dsimp only; rw [if_neg (by omega)]

theorem eriCopy_full {u : State} {l : Nat} {m : Eri} {n : Nat} (hl : m.body.length = 64) (hj : u.jobSlot m.job = .inl n)
    (hp : 4096 ≤ u.copyPlaces) : u.eriCopy l m = (u.epCount 21).eriAnswer l m cRetry false := by
  unfold State.eriCopy; rw [if_neg (by simp [hl]), hj]; dsimp only; rw [if_pos hp]

theorem addCopy_eq {u : State} {d : CopyDesc} {n j a tg l : Nat} {li : Option Nat} (hs : u.slotRevoked n j = false) (hb : d.bad (u.rack .ep) = false) :
    ∃ c : Copy, c.id = u.ep.nextCopy ∧ c.job = j ∧ c.slot = n ∧ c.agent = a ∧ c.tag = tg ∧ c.list = li ∧ c.src = d.src ∧
      c.dst = d.dst ∧ c.len = d.len ∧ c.engine = u.pickEngine d ∧ c.issued = 0 ∧ c.open_ = 0 ∧ c.state = 0 ∧
      u.addCopy d n j a tg l li = { u with ep := { u.ep with copies := u.ep.copies ++ [c], nextCopy := u.ep.nextCopy + 1 } } := by
  unfold State.addCopy; dsimp only
  refine ⟨_, ?_, ?_, ?_, ?_, ?_, ?_, ?_, ?_, ?_, ?_, ?_, ?_, ?_, (if_neg (fun h => by have h' : u.slotRevoked n j = true := h; rw [hs] at h'; cases h')).trans ((if_neg (fun h => by have h' : d.bad (u.rack .ep) = true := h; rw [hb] at h'; cases h')).trans rfl)⟩ <;> rfl

theorem eriListArm_taken {u : State} {l : Nat} {m : Eri} {n : Nat} (hj : u.jobSlot m.job = .inl n) (hv : m.value % 1000 = 0)
    (h1 : 1 ≤ bits m.aux 55 43) (h2 : bits m.aux 55 43 ≤ 4096) (hf : tabGet u.ep.lists (bits m.aux 42 37) = none)
    (hp : u.copyPlaces + bits m.aux 55 43 ≤ 4096) :
    ∃ x : ListSlot, x.state = 1 ∧ x.job = m.job ∧ x.agent = m.agent ∧ x.tag = m.tag ∧ x.vfa = m.addr ∧
      x.count = bits m.aux 55 43 ∧ x.act = m.value ∧ x.started = false ∧ x.id = u.ep.nextList ∧
      x.todo = (granulesOf m.addr (bits m.aux 55 43 * 64)).map (fun g => g * 4) ∧
      u.eriListArm l m = x.todo.foldl (fun s k => s.needGranule (.list (bits m.aux 42 37) x.id) n m.job (k / 4) 0)
        (((u.takeTag m).modEp fun e => { e with lists := tabSet e.lists (bits m.aux 42 37) x, nextList := u.ep.nextList + 1 })) := by
  unfold State.eriListArm listFields; dsimp only
  rw [hj]; dsimp only
  rw [if_neg (by rw [hf]; simp; omega), if_neg (by omega)]
  refine ⟨{ id := u.ep.nextList, state := 1, job := m.job, agent := m.agent, tag := m.tag, link := l, vfa := m.addr, todo := (granulesOf m.addr (bits m.aux 55 43 * 64)).map (fun g => g * 4), got := [], count := bits m.aux 55 43, act := m.value, data := [], begun := [], started := false, reads := 0, left := 0, worst := 0 }, rfl, rfl, rfl, rfl, rfl, rfl, rfl, rfl, rfl, rfl, rfl⟩

theorem eriCollective_refused {u : State} {l : Nat} {m : Eri} {n code : Nat} (hj : u.jobSlot m.job = .inl n) (hr : u.collRefused m = some code) :
    u.eriCollective l m = u.eriAnswer l m code false := by
  unfold State.eriCollective; rw [hj]; dsimp only; rw [hr]

theorem eriCollective_taken {u : State} {l : Nat} {m : Eri} {n : Nat} (hj : u.jobSlot m.job = .inl n) (hr : u.collRefused m = none) :
    u.eriCollective l m = (u.takeTag m).collStart l n m := by
  unfold State.eriCollective; rw [hj]; dsimp only; rw [hr]

theorem memAnswer_takes {s : State} {l : Nat} {m : Eri} {k : EriLink} (hk : tabGet s.ep.links l = some k) (hu : k.up = true)
    (hg : k.gotInit = true) (hc : m.units ≤ k.respCr) : ∃ L, sameTab L s.ep.links ∧ s.memAnswer l m =
      (if (m.kind ≠ 0x10 ∧ m.kind ≠ 0x11) ∨ !m.unusedZero then (({ s with ep := { s.ep with links := L } } : State).emit (.eri l (creditFor 1 m.units))).epCount 0
       else match s.memOf m.tag with
       | none => ((({ s with ep := { s.ep with links := L } } : State).emit (.eri l (creditFor 1 m.units))).epCount 20)
       | some w => ((({ s with ep := { s.ep with links := L } } : State).emit (.eri l (creditFor 1 m.units))).memTake w m).epOn) := by
  refine ⟨_, sameTab_two s.ep.links l (fun k => { k with respCr := k.respCr - m.units }) (fun k => { k with respCr := k.respCr + m.units }) k hk ?_, ?_⟩
  · show { k with respCr := k.respCr - m.units + m.units } = k
    rw [Nat.sub_add_cancel hc]
  · have e1 : s.takeCredit l 1 m.units = some (s.modLink l fun k => { k with respCr := k.respCr - m.units }) := by
      unfold State.takeCredit; rw [hk]; simp [hu, hc]
    have ret : (s.modLink l fun k => { k with respCr := k.respCr - m.units }).giveCredit l 1 m.units =
      (({ s with ep := { s.ep with links := tabMod (tabMod s.ep.links l fun k => { k with respCr := k.respCr - m.units }) l fun k => { k with respCr := k.respCr + m.units } } } : State).emit (.eri l (creditFor 1 m.units))) := by
      unfold State.giveCredit
      rw [if_pos]
      · rfl
      · unfold State.initDone
        rw [show tabGet (s.modLink l fun k => { k with respCr := k.respCr - m.units }).ep.links l = some { k with respCr := k.respCr - m.units } by
          show tabGet (tabMod _ _ _) _ = _
          unfold tabMod; rw [hk]; exact tabGet_tabSet_same ..]
        exact hg
    unfold State.memAnswer
    rw [if_neg (by simp [linkUp_of hk hu]), e1]; dsimp only
    rw [ret]
    rfl

theorem memTake_good {u : State} {w : MemMsg} {m : Eri} (h2 : m.kind = (if w.kind = 0x29 then 0x11 else 0x10))
    (h3 : m.code = 0) (h4 : m.body.length = w.want) (h5 : m.len = m.body.length) :
    u.memTake w m = ((u.memDrop w.tag).memTo w.who cDone m.body).flushTx := by
  unfold State.memTake; dsimp only
  have : (m.kind == (if w.kind = 0x29 then 0x11 else 0x10) && (m.code == 0 || m.code == 4) &&
    (m.code != 0 || m.body.length == w.want) && m.len == m.body.length) = true := by
    rw [h2, h3, h4]; rw [h4] at h5; simp [h5]
  rw [this, h3]; rfl

theorem memTake_bad {u : State} {w : MemMsg} {m : Eri}
    (h : m.body.length ≠ m.len ∨ m.code ≠ 0 ∧ m.code ≠ 4 ∨ m.kind ≠ (if w.kind = 0x29 then 0x11 else 0x10)) :
    u.memTake w m = (((u.memDrop w.tag).epCount 12).memTo w.who cPoison []).flushTx := by
  unfold State.memTake; dsimp only
  have : (m.kind == (if w.kind = 0x29 then 0x11 else 0x10) && (m.code == 0 || m.code == 4) &&
    (m.code != 0 || m.body.length == w.want) && m.len == m.body.length) = false := by
    rw [Bool.eq_false_iff]; intro hh
    simp only [Bool.and_eq_true, Bool.or_eq_true, beq_iff_eq, bne_iff_ne] at hh
    rcases h with h | ⟨h, h'⟩ | h
    · exact h hh.2.symm
    · rcases hh.1.1.2 with x | x
      · exact h x
      · exact h' x
    · exact h hh.1.1.1
  rw [this]; rfl

end Sys2Proof.Machine
end

