-- ==== Sys2Proof/Laws/ReceiverEffects.lean ====
section
/-! SUPPORT. What admission, serving and answering requests leave and write. -/

set_option linter.all false
set_option Elab.async false

namespace Sys2Proof.Machine

theorem exec_fabricRequestReceive_none (s : State) (p : Part) (k : Packet) (port : Nat) (t : Bool) (err : Nat) (h : s.fabricOff p = false) (hx : s.expired p (fun x => x == k) = none) (u : State)
    (hu : (s.arrives p k).receive p k port t = (u, none)) :
    exec (.fabricRequestReceive p k port t err) s = .next (u.afterRequest p) := by
  show s.fabricRequest p k port t err = _
  unfold State.fabricRequest
  rw [if_neg (by simp [h]), hx]; dsimp only; rw [hu]
  cases p <;> rfl

theorem receive_refused {s : State} {p : Part} {k : Packet} {port : Nat} {t : Bool} {u : State}
    (h : s.admitPacket p k port t (decide (1 ≤ k.typ ∧ k.typ ≤ 5)) = (u, none)) : s.receive p k port t = (u, none) := by
  unfold State.receive; dsimp only; rw [h]

theorem receive_fresh {s : State} {p : Part} {k : Packet} {port : Nat} {t : Bool} {r : SrcRec} (h : FreshRequest s p k t r) :
    (s.arrives p k).receive p k port t = (s.noted p k port).takeNew p k port := by
  unfold State.receive; dsimp only
  rw [admit_known h.form h.typ.1 h.typ.2 h.job.1 h.job.2 h.node h.tag h.known h.noStart, class_known h.known, h.unsettled]
  dsimp only
  rw [if_neg (by simp [h.idle]), if_pos h.near]

theorem noted_keeps_recv (s : State) (p : Part) (k : Packet) (port : Nat) : ((s.noted p k port).sh p).recv.held = (s.sh p).recv.held ∧ ((s.noted p k port).sh p).recv.inprog = (s.sh p).recv.inprog ∧ ((s.noted p k port).sh p).recv.nextId = (s.sh p).recv.nextId := by
  rw [← arrives_recv s p p k]; cases p <;> exact ⟨rfl, rfl, rfl⟩

theorem noted_held (s : State) (p : Part) (k : Packet) (port : Nat) : ((s.noted p k port).sh p).recv.held = (s.sh p).recv.held := (noted_keeps_recv s p k port).1

theorem noted_inprog (s : State) (p : Part) (k : Packet) (port : Nat) : ((s.noted p k port).sh p).recv.inprog = (s.sh p).recv.inprog := (noted_keeps_recv s p k port).2.1

/-- A packet that the module takes leaves its frame, and nothing else. -/
theorem arrives_mod_eq (s : State) (k : Packet) : ∃ (fr : List MFrame) (sp : Tab SpillPage) (ti : Tab Tile),
    s.arrives .mod k = s.modMod fun m => { m with frames := fr, spill := sp, tiles := ti } := by
  unfold State.arrives State.takeIn State.takeFrame
  dsimp only
  split
  · split <;> exact ⟨_, _, _, rfl⟩
  · exact ⟨_, _, _, rfl⟩

theorem noted_keep {β : Type} (g : State → β) (s : State) (k : Packet) (port : Nat)
    (h : ∀ (fr : List MFrame) (sp : Tab SpillPage) (ti : Tab Tile) (x : Receiver), g ((s.modMod fun m => { m with frames := fr, spill := sp, tiles := ti }).modRecv .mod fun _ => x) = g s) :
    g (s.noted .mod k port) = g s := by
  obtain ⟨fr, sp, ti, e⟩ := arrives_mod_eq s k
  unfold State.noted State.modRec
  rw [e]
  exact h fr sp ti _

theorem noted_adm (s : State) (p : Part) (k : Packet) (port : Nat) : ((s.noted p k port).sh p).adm = (s.sh p).adm := by
  cases p
  · rfl
  · exact noted_keep (fun t => (t.sh .mod).adm) s k port fun _ _ _ _ => rfl

theorem noted_jobState (s : State) (p : Part) (k : Packet) (port j : Nat) : (s.noted p k port).jobState p j = s.jobState p j := by
  cases p
  · rfl
  · exact noted_keep (fun t => t.jobState .mod j) s k port fun _ _ _ _ => rfl

theorem noted_reg (s : State) (p : Part) (k : Packet) (port j : Nat) : (s.noted p k port).reg p j = s.reg p j := by
  cases p
  · rfl
  · exact noted_keep (fun t => t.reg .mod j) s k port fun _ _ _ _ => rfl

theorem noted_ns (s : State) (p : Part) (k : Packet) (port : Nat) : (s.noted p k port).ns = s.ns := by
  cases p
  · rfl
  · exact noted_keep (fun t => t.ns) s k port fun _ _ _ _ => rfl

theorem takeNew_serve {s : State} {p : Part} {k : Packet} {port : Nat} {t : Bool} {r : SrcRec} (h : FreshRequest s p k t r)
    (hi : k.isCounted = true → r.isOpen k.interval = true) (hf : ¬ (k.typ = 0x02 ∧ k.f = true))
    (ha : k.typ = 0x03 → s.atomFull p = false) :
    (s.noted p k port).takeNew p k port = (s.noted p k port).serve p k port := by
  unfold State.takeNew
  rw [noted_rec h.known]; dsimp only
  rw [if_neg, if_neg hf, if_neg]
  · unfold State.atomFull; rw [noted_inprog]; rintro ⟨x, y⟩; have := ha x; unfold State.atomFull at this; rw [this] at y; cases y
  · intro hc
    simp only [Bool.and_eq_true, Bool.not_eq_true'] at hc
    have := hi hc.1
    have h2 : r.isOpen k.interval = false := hc.2
    rw [this] at h2; cases h2

theorem serve_code {s u : State} {p : Part} {k : Packet} {port code : Nat} (h : s.checks p k = (u, .inr code)) :
    s.serve p k port = (u.finish p k port code [] true, none) := by
  unfold State.serve; dsimp only; rw [h]

theorem isMarker_false {k : Packet} {b : Bool} (_h : formOk k b = true) (hf : ¬ (k.typ = 0x02 ∧ k.f = true)) : k.isMarker = false := by
  unfold Packet.isMarker
  rw [Bool.eq_false_iff]; intro h
  simp only [Bool.and_eq_true, beq_iff_eq] at h
  exact hf ⟨h.1.1, h.1.2⟩

theorem checks_pass {s : State} {p : Part} {k : Packet} {e : AdmEntry} (hj : s.jobState p k.job = 0)
    (he : admFind (s.sh p).adm k.job k.off k.len = some e) (hr : k.isMarker = true ∨ e.has (rightOf k.typ) = true) :
    s.checks p k = (s, .inl (e.local_ k.off, e.offBase * 65536)) := by
  unfold State.checks; rw [hj, he]
  exact if_pos (by rcases hr with h | h <;> simp [h])

theorem serve_ep {s : State} {k : Packet} {port : Nat} {e : AdmEntry} (h : s.checks .ep k = (s, .inl (e.local_ k.off, e.offBase * 65536)))
    (hm : k.isMarker = false) : ∃ g : InProg, g.id = s.ep.sh.recv.nextId ∧ g.src = k.from_ ∧ g.pkt = k ∧ g.port = port ∧ g.result = none ∧
      g.loc = e.local_ k.off ∧ s.serve .ep k port = ((s.modRecv .ep fun q =>
        { q with inprog := q.inprog ++ [g], nextId := g.id + 1 }).sendMem (.fabric g.id)
          (if k.typ = 0x01 ∨ k.typ = 0x05 then 0x28 else if k.typ = 0x03 then 0x2A else 0x29) 0 g.loc k.len k.aop k.fmt
          k.payload, some g.id) := by
  unfold State.serve; dsimp only; rw [h]; dsimp only
  unfold State.serveAt
  rw [if_neg (by simp [hm])]
  exact ⟨{ id := s.ep.sh.recv.nextId, src := k.from_, pkt := k, loc := e.local_ k.off, offBase := e.offBase * 65536, port := port, result := none, at_ := s.ns, err := 0, stage := 0 },
    rfl, rfl, rfl, rfl, rfl, rfl, rfl⟩

theorem serve_mod {s : State} {k : Packet} {port : Nat} {e : AdmEntry} (h : s.checks .mod k = (s, .inl (e.local_ k.off, e.offBase * 65536)))
    (hm : k.isMarker = false) : ∃ g : InProg, g.id = s.mod.sh.recv.nextId ∧ g.src = k.from_ ∧ g.pkt = k ∧ g.port = port ∧ g.result = none ∧
      g.loc = e.local_ k.off ∧ g.stage = 0 ∧ s.serve .mod k port = (s.modRecv .mod fun q =>
        { q with inprog := q.inprog ++ [g], nextId := g.id + 1 }, some g.id) := by
  unfold State.serve; dsimp only; rw [h]; dsimp only
  unfold State.serveAt
  rw [if_neg (by simp [hm])]
  exact ⟨{ id := s.mod.sh.recv.nextId, src := k.from_, pkt := k, loc := e.local_ k.off, offBase := e.offBase * 65536, port := port, result := none, at_ := s.ns, err := 0, stage := 0 },
    rfl, rfl, rfl, rfl, rfl, rfl, rfl, rfl⟩

theorem exec_fabricRequestReceive_mod (s : State) (k : Packet) (port : Nat) (t : Bool) (err : Nat) (h : s.fabricOff .mod = false) (hx : s.expired .mod (fun x => x == k) = none) (u : State) (i : Nat)
    (hu : (s.arrives .mod k).receive .mod k port t = (u, some i)) :
    exec (.fabricRequestReceive .mod k port t err) s = u.commonsAccess i err := by
  show s.fabricRequest .mod k port t err = _
  unfold State.fabricRequest
  rw [if_neg (by simp [h]), hx]; dsimp only; rw [hu]

theorem formOk_length {k : Packet} {b : Bool} (h : formOk k b = true) (h1 : k.typ = 2 ∨ k.typ = 4) : k.payload.length = k.len := by
  unfold formOk at h
  have hc : isColl k.typ = false := by rcases h1 with x | x <;> rw [x] <;> rfl
  simp only [Bool.and_eq_true, hc] at h
  have := h.2
  simp only [Bool.false_eq_true, if_false, Bool.and_eq_true, beq_iff_eq] at this
  rw [this.2, if_neg (by omega)]

theorem formOk_aop {k : Packet} {b : Bool} (h : formOk k b = true) (h1 : k.typ ≠ 3) (hc : isColl k.typ = false) : k.aop = 0 := by
  unfold formOk at h
  simp only [Bool.and_eq_true, hc, Bool.false_eq_true, if_false, h1, if_false, beq_iff_eq] at h
  exact h.2.1.2.1

theorem commonsAccess_outside {u : State} {g : InProg} (hf : u.mod.sh.recv.inprog.find? (fun y => y.id == g.id) = some g)
    (hb : u.usableBytes < g.loc + g.pkt.len) :
    u.commonsAccess g.id 0 = .fault (.outsideCommons g.loc) := by
  unfold State.commonsAccess; rw [hf]; dsimp only; rw [if_pos hb]

theorem commons_here {u : State} {g : InProg} (hf : u.mod.sh.recv.inprog.find? (fun y => y.id == g.id) = some g)
    (hs : u.stackTile (tileOfPort g.port) g.loc = tileOfPort g.port) (hb : g.loc + g.pkt.len ≤ u.usableBytes) :
    u.commonsAccess g.id 0 = .next (u.memAccess g 0) := by
  unfold State.commonsAccess; rw [hf]; dsimp only; rw [if_neg (by omega), if_pos hs]

theorem plain_region {u : State} {a : Nat} (hr : ∀ x, u.regionAt a = some x → x.2.alloc = none ∧ x.2.state ≠ 5) (q : Nat × Region → Bool) :
    ((u.regionAt a).filter fun x => x.2.meta_ a && q x) = none ∧ u.staleAt a = false := by
  unfold State.staleAt
  cases hx : u.regionAt a with
  | none => exact ⟨rfl, rfl⟩
  | some x =>
    have hm : x.2.meta_ a = false := by unfold Region.meta_; rw [(hr x hx).1]
    exact ⟨by simp [Option.filter, hm], by simpa using (hr x hx).2⟩

theorem commonsAccess_load {u : State} {g : InProg} (hf : u.mod.sh.recv.inprog.find? (fun y => y.id == g.id) = some g)
    (hs : u.stackTile (tileOfPort g.port) g.loc = tileOfPort g.port) (hb : g.loc + g.pkt.len ≤ u.usableBytes)
    (hr : ∀ x, u.regionAt g.loc = some x → x.2.alloc = none ∧ x.2.state ≠ 5) (hl : g.pkt.typ = 1 ∨ g.pkt.typ = 5)
    (hg : u.linesGood g.loc g.pkt.len) :
    u.commonsAccess g.id 0 = .next (u.setResult g.id cDone (u.commonsRead g.loc g.pkt.len)) := by
  have ht : g.pkt.typ ≠ 3 := by omega
  rw [commons_here hf hs hb]
  unfold State.memAccess; dsimp only
  rw [(plain_region hr fun _ => !isAllocOp g.pkt.aop).1, (plain_region hr fun _ => true).2]
  dsimp only
  rw [if_neg ht, if_pos hl, if_neg (by simp)]
  split
  · rfl
  · rw [readCheck_good hg]; rfl

theorem commonsAccess_store {u : State} {g : InProg} (hf : u.mod.sh.recv.inprog.find? (fun y => y.id == g.id) = some g)
    (hs : u.stackTile (tileOfPort g.port) g.loc = tileOfPort g.port) (hb : g.loc + g.pkt.len ≤ u.usableBytes)
    (hr : ∀ x, u.regionAt g.loc = some x → x.2.alloc = none ∧ x.2.state ≠ 5) (hl : g.pkt.typ = 2 ∨ g.pkt.typ = 4)
    (hg : u.linesGood g.loc g.pkt.payload.length) :
    ∃ b, u.commonsAccess g.id 0 = .next (((u.modMod fun m => { m with bad := b }).commonsWrite g.loc g.pkt.payload).setResult g.id cDone []) := by
  have ht : g.pkt.typ ≠ 3 := by omega
  have hn : ¬ (g.pkt.typ = 1 ∨ g.pkt.typ = 5) := by omega
  obtain ⟨b, e⟩ := checkedWrite_good hg
  refine ⟨b, ?_⟩
  rw [commons_here hf hs hb]
  unfold State.memAccess; dsimp only
  rw [(plain_region hr fun _ => !isAllocOp g.pkt.aop).1]
  dsimp only
  rw [if_neg ht, if_neg hn, e]; rfl

theorem set_plain {w : State} {g : InProg} {c : Nat} {d : List Byte} (hf : w.mod.sh.recv.inprog.find? (fun y => y.id == g.id && y.stage == 2) = none) :
    w.setResult g.id c d = w.modProg g.id fun (g : InProg) => { g with result := some (c, d), stage := if g.stage = 2 then 3 else g.stage } := by
  unfold State.setResult; dsimp only; rw [hf]

theorem none_back {l : List InProg} {g : InProg} (hid : l.all (fun y => !(y.id == g.id)) = true) (hs : g.stage = 0) :
    (l ++ [g]).find? (fun y => y.id == g.id && y.stage == 2) = none := by
  rw [List.find?_eq_none]
  intro x hx
  rw [List.mem_append] at hx
  rcases hx with h | h
  · have := List.all_eq_true.mp hid x h
    simp at this; simp [this]
  · rw [List.mem_singleton] at h; subst h; simp [hs]

theorem inprog_setResult_last {w : State} {l : List InProg} {g : InProg} {d : List Byte} (hid : l.all (fun y => !(y.id == g.id)) = true) (hs : g.stage = 0)
    (hw : w.mod.sh.recv.inprog = l ++ [g]) :
    (w.setResult g.id cDone d).mod.sh.recv.inprog = l ++ [{ g with result := some (cDone, d) }] := by
  rw [set_plain (by rw [hw]; exact none_back hid hs)]
  show modFirst _ _ w.mod.sh.recv.inprog = _
  rw [hw, modFirst_append _ _ _ _ hid (by simp)]
  simp [hs]

/-- A request of the module has taken its place: the rest of the machine is as before it came. -/
structure Placed (s u : State) (g : InProg) : Prop where
  inprog : u.mod.sh.recv.inprog = s.mod.sh.recv.inprog ++ [g]
  ep : u.ep = s.ep
  out : u.out = s.out
  regions : u.mod.regions = s.mod.regions
  mem : u.mod.mem = s.mod.mem
  bytes : u.usableBytes = s.usableBytes
  region : ∀ a, u.regionAt a = s.regionAt a
  tile : ∀ t a, u.stackTile t a = s.stackTile t a
  good : ∀ a n, s.linesGood a n → u.linesGood a n
  read : ∀ a n, u.commonsRead a n = s.commonsRead a n

theorem placed (s : State) (k : Packet) (port : Nat) (g : InProg) :
    Placed s ((s.noted .mod k port).modRecv .mod fun q => { q with inprog := q.inprog ++ [g], nextId := g.id + 1 }) g := by
  constructor
  · show ((s.noted .mod k port).sh .mod).recv.inprog ++ [g] = _
    rw [noted_inprog]; rfl
  · exact noted_keep (fun t => t.ep) s k port fun _ _ _ _ => rfl
  · exact noted_keep (fun t => t.out) s k port fun _ _ _ _ => rfl
  · exact noted_keep (fun t => t.mod.regions) s k port fun _ _ _ _ => rfl
  · exact noted_keep (fun t => t.mod.mem) s k port fun _ _ _ _ => rfl
  · exact noted_keep (fun t => (t.modRecv .mod fun q => { q with inprog := q.inprog ++ [g], nextId := g.id + 1 }).usableBytes) s k port fun _ _ _ _ => rfl
  · intro a; exact noted_keep (fun t => t.regionAt a) s k port fun _ _ _ _ => rfl
  · intro t a; exact noted_keep (fun u => u.stackTile t a) s k port fun _ _ _ _ => rfl
  · intro a n h
    have := noted_keep (fun u => u.linesGood a n) s k port fun _ _ _ _ => rfl
    exact this ▸ h
  · intro a n; exact noted_keep (fun u => u.commonsRead a n) s k port fun _ _ _ _ => rfl

theorem set_keep {β : Type} (f : State → β) {w : State} {l : List InProg} {g : InProg} {d : List Byte} (hid : l.all (fun y => !(y.id == g.id)) = true) (hs : g.stage = 0)
    (hw : w.mod.sh.recv.inprog = l ++ [g]) (hf : ∀ (t : State) (x : Receiver → Receiver), f (t.modRecv .mod x) = f t) :
    f (w.setResult g.id cDone d) = f w := by
  rw [set_plain (by rw [hw]; exact none_back hid hs)]
  exact hf _ _

theorem sendPacket_ep {s : State} {tile port : Nat} {k : Packet} {sl : Seal} (h : s.ep.selfDead = false) :
    (s.sendPacket .ep tile port k sl).out = s.out ++ [.packet .ep port k sl] ∧ (s.sendPacket .ep tile port k sl).mod = s.mod ∧
    (s.sendPacket .ep tile port k sl).ep.sh.pairs = s.ep.sh.pairs := by
  unfold State.sendPacket
  rw [if_neg (by simp [h])]
  exact ⟨rfl, rfl, rfl⟩

theorem sendReq_ep {s : State} {r : Req} {pl : Nat} {q : Pair} (hq : q = s.ep.sh.pairOf r.pkt.to_) (hd : s.ep.selfDead = false) :
    ∃ k : Packet, ∃ sl, (s.sendReq .ep r pl 0 pl).out = s.out ++ [.packet .ep pl k sl] ∧
      k.typ = r.pkt.typ ∧ k.job = r.pkt.job ∧ k.dst = r.pkt.dst ∧ k.off = r.pkt.off ∧ k.len = r.pkt.len ∧ k.payload = r.pkt.payload ∧
      k.plane = pl ∧ k.src = s.node .ep ∧ k.seq = q.next ∧ k.s = (q.start || q.restart) ∧ k.f = r.flagged ∧
      ((s.sendReq .ep r pl 0 pl).ep.sh.pairOf r.pkt.to_).next = (q.next + 1) % 2 ^ 32 ∧
      ((s.sendReq .ep r pl 0 pl).ep.sh.pairOf r.pkt.to_).start = false ∧
      ((s.sendReq .ep r pl 0 pl).ep.sh.pairOf r.pkt.to_).charged = q.charged + max 64 (ceil64 r.pkt.len) ∧
      (s.sendReq .ep r pl 0 pl).mod = s.mod := by
  have hdst : q.dst = r.pkt.to_ := by rw [hq]; exact pairOf_dst _ _
  have hq' : q = (s.sh .ep).pairOf r.pkt.to_ := hq
  obtain ⟨k, hk⟩ : ∃ k, k = s.firstPacket .ep r pl := ⟨_, rfl⟩
  obtain ⟨sl, hsl⟩ : ∃ sl, sl = s.sealOf .ep k 0 := ⟨_, rfl⟩
  obtain ⟨q', hq2⟩ : ∃ q', q' = s.pairNext .ep r := ⟨_, rfl⟩
  obtain ⟨F, hF⟩ : ∃ F, F = s.asSent .ep k sl := ⟨_, rfl⟩
  obtain ⟨n, hn⟩ : ∃ n, n = 1 := ⟨_, rfl⟩
  obtain ⟨m, hm⟩ : ∃ m, m = k.payload.length := ⟨_, rfl⟩
  have e : s.sendReq .ep r pl 0 pl = ((((s.modSh .ep fun sh => sh.setPair q').modReq .ep r.id F).partCount .ep k.job 0 n).partCount .ep k.job 1 m).sendPacket
        .ep 0 pl k sl := by rw [hn, hm, hF, hq2, hsl, hk]; rfl
  have h5 : q'.dst = q.dst := by rw [hq2, hq']; rfl
  have h6 : q'.next = (q.next + 1) % 2 ^ 32 := by rw [hq2, hq']; rfl
  have h7 : q'.start = false := by rw [hq2]; rfl
  have h8 : q'.charged = q.charged + max 64 (ceil64 r.pkt.len) := by rw [hq2, hq']; rfl
  have a1 : k.typ = r.pkt.typ := by rw [hk]; rfl
  have a2 : k.job = r.pkt.job := by rw [hk]; rfl
  have a3 : k.dst = r.pkt.dst := by rw [hk]; rfl
  have a4 : k.off = r.pkt.off := by rw [hk]; rfl
  have a5 : k.len = r.pkt.len := by rw [hk]; rfl
  have a6 : k.payload = r.pkt.payload := by rw [hk]; rfl
  have a7 : k.plane = pl := by rw [hk]; rfl
  have a8 : k.src = s.node .ep := by rw [hk]; rfl
  have a9 : k.seq = q.next := by rw [hk, hq']; rfl
  have b1 : k.s = (q.start || q.restart) := by rw [hk, hq']; rfl
  have b2 : k.f = r.flagged := by rw [hk]; rfl
  have keep : ∀ {β : Type} (g : State → β), (∀ (t : State) (f : EventLog → EventLog), g (t.modSh .ep fun sh => { sh with log := f sh.log }) = g t) →
      (∀ (t : State) (f : Counters → Counters), g (t.modSh .ep fun sh => { sh with ctr := f sh.ctr }) = g t) →
      g ((((s.modSh .ep fun sh => sh.setPair q').modReq .ep r.id F).partCount .ep k.job 0 n).partCount .ep k.job 1 m) =
      g ((s.modSh .ep fun sh => sh.setPair q').modReq .ep r.id F) :=
    fun g hl hc => (State.partCount_keeps _ g hl hc ..).trans (State.partCount_keeps _ g hl hc ..)
  have h1 := keep (fun t => t.out) (fun _ _ => rfl) (fun _ _ => rfl)
  have h2 := keep (fun t => t.mod) (fun _ _ => rfl) (fun _ _ => rfl)
  have h3 := keep (fun t => t.ep.selfDead) (fun _ _ => rfl) (fun _ _ => rfl)
  have h4 := keep (fun t => t.ep.sh.pairs) (fun _ _ => rfl) (fun _ _ => rfl)
  obtain ⟨o, mm, pr⟩ := sendPacket_ep (tile := 0) (port := pl) (k := k) (sl := sl) (h3.trans hd)
  have pe : (s.sendReq .ep r pl 0 pl).ep.sh.pairOf r.pkt.to_ = q' := by
    rw [e, pairOf_congr (pr.trans h4)]; exact pair_next s.ep.sh _ _ (h5.trans hdst)
  refine ⟨k, sl, ?_, a1, a2, a3, a4, a5, a6, a7, a8, a9, b1, b2, ?_, ?_, ?_, ?_⟩
  · rw [e, o, h1]; rfl
  · rw [pe, h6]
  · rw [pe, h7]
  · rw [pe, h8]
  · rw [e, mm, h2]; rfl

theorem srcTakes_same {s u : State} {p : Part} {k : Packet} {port typ : Nat} {t : Bool} (h1 : u.node p = s.node p) (h2 : u.sealCheck p k t = s.sealCheck p k t)
    (h : (s.srcTakes p k port typ t).2 = true) : u.srcTakes p k port typ t = (u, true) := by
  unfold State.srcTakes at h ⊢
  dsimp only at h ⊢
  rw [h1, h2]
  split at h
  · cases h
  · rename_i a1; rw [if_neg a1]
    split at h
    · cases h
    · rename_i a2; rw [if_neg a2]
      split at h
      · cases h
      · rename_i a3; rw [if_neg a3]
        split at h
        · rename_i a4; rw [if_pos a4]
        · cases h

theorem srcTakes_arrives {s : State} {p : Part} {k : Packet} {port typ : Nat} {t : Bool} (h : (s.srcTakes p k port typ t).2 = true) :
    (s.arrives p k).srcTakes p k port typ t = (s.arrives p k, true) := by
  exact srcTakes_same (arrives_node ..) (arrives_seal ..) h

theorem sentReq_arrives (s : State) (p : Part) (k : Packet) (d q : Nat) : (s.arrives p k).sentReq p d q = s.sentReq p d q := by
  cases p
  · rfl
  · unfold State.sentReq; rw [arrives_sh]

theorem exec_responseReceive_eq {s : State} {p : Part} {k : Packet} {t : Bool} (h : s.fabricOff p = false) (hx : s.expired p (fun x => x == k) = none) (ht : (s.srcTakes p k k.plane 0x10 t).2 = true) :
    ((∀ r, s.sentReq p k.from_ k.seq = some r → r.pkt.job ≠ k.job) → exec (.responseReceive p k t) s =
      .next ((if p = .ep then (s.arrives p k).epCount 11 else s.arrives p k).partOn p)) ∧
    (∀ r, s.sentReq p k.from_ k.seq = some r → r.pkt.job = k.job → exec (.responseReceive p k t) s =
      .next (((s.arrives p k).onResponse p r k.code k.payload).partOn p)) := by
  have ex : exec (.responseReceive p k t) s = .next (((s.arrives p k).responseReceive p k t).partOn p) := by
    show Host.Outcome.next (s.fabricIn p k fun s => s.responseReceive p k t) = _
    unfold State.fabricIn; rw [if_neg (by simp [h]), hx]
  rw [ex]; unfold State.responseReceive
  dsimp only; rw [srcTakes_arrives ht]; dsimp only
  rw [if_neg (by simp), sentReq_arrives]
  constructor
  · intro hn
    rw [show (s.sentReq p k.from_ k.seq).filter (fun r => r.pkt.job == k.job) = none by
      cases h : s.sentReq p k.from_ k.seq with
      | none => rfl
      | some r => simp [Option.filter, hn r h]]
  · intro r hr hj; rw [hr]; simp [Option.filter, hj]

theorem onResponse_codes {u : State} {p : Part} {r : Req} {d : List Byte} (hs : p = .ep → u.slotRevoked r.slot r.pkt.job = false) :
    u.onResponse p r 2 d = u.endReq p r.id 2 [] ∧ u.onResponse p r 4 d = u.endReq p r.id 4 [] ∧
    u.onResponse p r 6 d = u.endReq p r.id 6 [] ∧ u.onResponse p r 1 d = u.onRetry p r ∧
    (r.fillLen = 0 → r.doneLen d.length = true → u.onResponse p r 0 d = u.endReq p r.id cDone d) ∧
    (r.doneLen d.length = false → u.onResponse p r 0 d = u.badResponse p r) ∧ (∀ c, 8 ≤ c → u.onResponse p r c d = u.badResponse p r) := by
  have ne : ∀ _ : Nat, ¬ (p = .ep ∧ u.slotRevoked r.slot r.pkt.job = true) := by
    rintro - ⟨h1, h2⟩; rw [hs h1] at h2; cases h2
  have h := ne 0
  refine ⟨?_, ?_, ?_, ?_, ?_, ?_, ?_⟩
  · unfold State.onResponse; rw [if_neg h]; cases r.owner <;> rfl
  · unfold State.onResponse; rw [if_neg h]; cases r.owner <;> rfl
  · unfold State.onResponse; rw [if_neg h]; cases r.owner <;> rfl
  · unfold State.onResponse; rw [if_neg h]; cases r.owner <;> rfl
  · intro hf hl
    have e : u.fillAndTake r d = (u, d) := by unfold State.fillAndTake; rw [if_pos (.inl hf)]
    have hb : ¬ (!r.doneLen d.length) = true := by simp [hl]
    unfold State.onResponse; rw [if_neg h]
    cases p
    · cases r.owner <;> (refine (if_neg hb).trans ?_; dsimp only; rw [e])
    · cases r.owner <;> exact (if_neg hb)
  · intro hl
    have hb : (!r.doneLen d.length) = true := by simp [hl]
    unfold State.onResponse; rw [if_neg h]
    cases r.owner <;> exact (if_pos hb)
  · intro c hc
    unfold State.onResponse; rw [if_neg h]
    split <;> first | rfl | omega

theorem tryIssue_issue {s : State} {id : Nat} {r : Req} (h : s.ep.sh.req id = some r) (hs : r.st = .waiting) (ha : s.heldByAgent r = false)
    (hc : s.cacheable r = false ∨ r.fillLen ≠ 0) : s.tryIssue id = s.issue id := by
  unfold State.tryIssue; rw [h]; dsimp only
  rw [if_neg (by simp [hs, ha]), if_neg]
  rintro ⟨x, y⟩; rcases hc with hc | hc
  · rw [x] at hc; cases hc
  · exact hc y

theorem issueDrop_keep (s : State) (r : Req) : (s.issueDrop r).ep.sh.pairs = s.ep.sh.pairs ∧ (s.issueDrop r).ep.selfDead = s.ep.selfDead ∧
    (s.issueDrop r).out = s.out ∧ (s.issueDrop r).mod = s.mod ∧ (s.issueDrop r).node .ep = s.node .ep := by
  unfold State.issueDrop
  split <;> exact ⟨rfl, rfl, rfl, rfl, rfl⟩

theorem resend_ep {s : State} {r : Req} {pl tile : Nat} (h : s.ep.selfDead = false) :
    (s.resend .ep r pl tile pl).out = s.out ++ [.packet .ep pl { r.pkt with plane := pl } r.sl] ∧
    (s.resend .ep r pl tile pl).ep.sh.pairs = s.ep.sh.pairs ∧ (s.resend .ep r pl tile pl).mod = s.mod := by
  unfold State.resend; dsimp only
  obtain ⟨a, b, c⟩ := sendPacket_ep (s := s.modReq .ep r.id fun r_1 => { r_1 with pkt := { r.pkt with plane := pl }, st := .sent, last := s.ns, sends := r_1.sends + 1, due := s.ns + r_1.timeout })
    (tile := tile) (port := pl) (k := { r.pkt with plane := pl }) (sl := r.sl) h
  exact ⟨a, c, b⟩

theorem sendAgain_ep {s : State} {r : Req} {pl : Nat} (hc : isColl r.pkt.typ = false) (hp : s.planeAgain r.pkt.dst r.pkt.off r.first = some pl) :
    s.sendAgain .ep r = s.resend .ep r pl 0 pl := by
  unfold State.sendAgain; dsimp only; rw [hc]; simp only [Bool.false_eq_true, if_false]; rw [hp]

theorem count_ep_keeps {β : Type} (s : State) (g : State → β)
    (hl : ∀ (t : State) (f : EventLog → EventLog), g (t.modSh .ep fun sh => { sh with log := f sh.log }) = g t)
    (hc : ∀ (t : State) (f : Counters → Counters), g (t.modSh .ep fun sh => { sh with ctr := f sh.ctr }) = g t) (j pos n c : Nat) :
    g ((s.epCount c).partCount .ep j pos n) = g s :=
  (State.partCount_keeps _ g hl hc ..).trans (State.count_keeps s g .ep hl hc ..)

theorem beforeStart_arrives (s : State) (p : Part) (k : Packet) (d q : Nat) : (s.arrives p k).beforeStart p d q = s.beforeStart p d q := by
  cases p
  · rfl
  · unfold State.beforeStart; rw [arrives_sh]

theorem atomicRmw_good {s : State} {id op : Nat} {g : InProg} {f : Nat → Nat → List Byte → Nat} (h : s.waitingAtomic id op = some g)
    (hg : s.linesGood g.loc (fmtSize g.pkt.fmt)) :
    (s.staleAt g.loc = true → s.atomicRmw id op 0 f = s.setResult id cPoison []) ∧
    (s.staleAt g.loc = false → s.atomicRmw id op 0 f = (s.commonsWrite g.loc (leBytes (fmtSize g.pkt.fmt)
      (f g.pkt.fmt (leNat (s.commonsRead g.loc (fmtSize g.pkt.fmt))) g.pkt.payload))).setResult id cDone (s.commonsRead g.loc (fmtSize g.pkt.fmt))) := by
  constructor
  · intro hs; unfold State.atomicRmw; rw [h]; dsimp only; rw [readCheck_good hg]; dsimp only; rw [if_pos (by simp [hs])]
  · intro hs; unfold State.atomicRmw; rw [h]; dsimp only; rw [readCheck_good hg]; dsimp only; rw [if_neg (by simp [hs])]

end Sys2Proof.Machine
end

