-- ==== Sys2Proof/Laws/CommonsEffects.lean ====
section
/-! SUPPORT. What the copy engines and the Commons operations leave and write, once for each. -/

set_option linter.all false
set_option Elab.async false

namespace Sys2Proof.Machine

theorem engineIssue_take {s : State} {g : Nat} {c : Copy} (h1 : s.readyTile g = none) (h2 : s.engineBusy g = false)
    (h3 : s.ep.enginesOut.contains g = false)
    (h4 : s.ep.copies.find? (fun c => c.engine == g && c.gives && !s.slotRevoked c.slot c.job) = some c) :
    s.engineIssue g = (s.takeTile c g false).moveReady g := by
  unfold State.engineIssue; rw [h1]; dsimp only; rw [if_neg (by rw [h2, h3]; simp), h4]

theorem stealBetter_fold (s : State) (c : Copy) (h1 : c.pin = false) (h2 : c.gives = true) (h3 : s.slotRevoked c.slot c.job = false) :
    (∀ (pre : List Copy) (b : Option Copy), (∀ d, b = some d → d.unissued < c.unissued) →
      (∀ x ∈ pre, x.pin = true ∨ x.gives = false ∨ s.slotRevoked x.slot x.job = true ∨ x.unissued < c.unissued) →
      ∀ d, pre.foldl s.stealBetter b = some d → d.unissued < c.unissued) ∧
    (∀ (post : List Copy), (∀ x ∈ post, x.pin = true ∨ x.gives = false ∨ s.slotRevoked x.slot x.job = true ∨ x.unissued ≤ c.unissued) →
      post.foldl s.stealBetter (some c) = some c) := by
  constructor
  · intro pre
    induction pre with
    | nil => intro b hb _ d hd; exact hb d hd
    | cons x t ih =>
      intro b hb hx d hd
      rw [List.foldl_cons] at hd
      refine ih _ ?_ (fun y hy => hx y (List.mem_cons_of_mem _ hy)) d hd
      intro e he
      unfold State.stealBetter at he
      split at he
      · exact hb e he
      · rename_i hn
        have hlt : x.unissued < c.unissued := by
          rcases hx x (List.mem_cons_self ..) with h | h | h | h
          · simp [h] at hn
          · simp [h] at hn
          · simp [h] at hn
          · exact h
        split at he
        · cases he; exact hlt
        · split at he
          · cases he; exact hlt
          · rename_i d' _ _; exact hb e he
  · intro post
    induction post with
    | nil => intro _; rfl
    | cons x t ih =>
      intro hx
      rw [List.foldl_cons]
      have : s.stealBetter (some c) x = some c := by
        unfold State.stealBetter
        split
        · rfl
        · rename_i hn
          have hle : x.unissued ≤ c.unissued := by
            rcases hx x (List.mem_cons_self ..) with h | h | h | h
            · simp [h] at hn
            · simp [h] at hn
            · simp [h] at hn
            · exact h
          dsimp only
          rw [if_neg (by omega)]
      rw [this]
      exact ih fun y hy => hx y (List.mem_cons_of_mem _ hy)

theorem stealBetter_best {s : State} {c : Copy} {pre post : List Copy} (h1 : c.pin = false) (h2 : c.gives = true)
    (h3 : s.slotRevoked c.slot c.job = false)
    (hp : ∀ x ∈ pre, x.pin = true ∨ x.gives = false ∨ s.slotRevoked x.slot x.job = true ∨ x.unissued < c.unissued)
    (hq : ∀ x ∈ post, x.pin = true ∨ x.gives = false ∨ s.slotRevoked x.slot x.job = true ∨ x.unissued ≤ c.unissued) :
    (pre ++ c :: post).foldl s.stealBetter none = some c := by
  rw [List.foldl_append, List.foldl_cons]
  have key : s.stealBetter (pre.foldl s.stealBetter none) c = some c := by
    have := (stealBetter_fold s c h1 h2 h3).1 pre none (by intro d h; cases h) hp
    cases hh : pre.foldl s.stealBetter none with
    | none => unfold State.stealBetter; rw [if_neg (by simp [h1, h2, h3])]
    | some d => unfold State.stealBetter; rw [if_neg (by simp [h1, h2, h3])]; dsimp only; rw [if_pos (this d hh)]
  rw [key]
  exact (stealBetter_fold s c h1 h2 h3).2 post hq

theorem spillOk_range {n : Nat} (h : spillOk n = true) : 6 ≤ n ∧ n ≤ 244 := by
  unfold spillOk at h
  simp only [List.any_eq_true, List.mem_range, beq_iff_eq] at h
  obtain ⟨k, hk, he⟩ := h
  omega

theorem region_setRegion (s : State) (i j : Nat) (r : Region) : (s.setRegion i r).region j = if j = i then r else s.region j := by
  unfold State.region State.setRegion State.modMod
  dsimp only
  split
  · subst_vars; exact tabGetD_tabPut_same _ _ _ _
  · exact tabGetD_tabPut_other _ _ _ ‹_›

theorem tabSet_twice {α : Type} (t : Tab α) (k : Nat) (a b : α) : tabSet (tabSet t k a) k b = tabSet t k b := by
  induction t with
  | nil => simp [tabSet]
  | cons x t ih =>
    obtain ⟨j, v⟩ := x
    by_cases h1 : k < j
    · simp [tabSet, h1]
    · by_cases h2 : k = j
      · simp [tabSet, h2]
      · simp [tabSet, h1, h2, ih]

theorem setRegion_twice (s : State) (i : Nat) (a b : Region) (ha : a.state ≠ 0) (hb : b.state ≠ 0) :
    (s.setRegion i a).setRegion i b = s.setRegion i b := by
  have f : ∀ r : Region, r.state ≠ 0 → r ≠ Region.free := by
    intro r h e; apply h; rw [e]; decide
  unfold State.setRegion State.modMod
  dsimp only
  unfold tabPut
  rw [if_neg (f _ ha), if_neg (f _ hb), if_neg (f _ hb), tabSet_twice]

theorem regionEnter_eq (s : State) (i : Nat) (h : (s.region i).state ≠ 0) :
    (s.setRegion i { s.region i with v := false }).regionEnter i 3 =
      s.setRegion i { s.region i with v := false, state := 3, next := none, torn := false } := by
  unfold State.regionEnter
  dsimp only
  rw [region_setRegion, if_pos rfl]
  exact setRegion_twice s i { s.region i with v := false } _ h (Nat.succ_ne_zero 2)

theorem regionInitDone_eq {s : State} {i : Nat} {r : Region} (hr : s.region i = r) (h1 : r.state = 1) (hin : s.mod.inSlot = false)
    (ht : r.torn = true → r.retain = true) :
    ∃ w : State, s.regionInitDone i = (w.setRegion i { r with alloc := if r.kind = 1 then some (newAlloc r) else none }).regionEnter i
        (if r.torn && r.retain then 4 else 2) ∧
      w = (if r.kind = 3 then (s.commonsZero r.first r.bytes).commonsWrite r.first (ringHeader 0 ((r.bytes - 4096) / 64) 0)
        else s.commonsZero r.first r.bytes) := by
  refine ⟨_, ?_, rfl⟩
  unfold State.regionInitDone
  dsimp only
  rw [hr, if_neg (by simp [h1, hin]; exact ht)]

theorem ringHeader_length (a b c : Nat) : (ringHeader a b c).length = 64 := by unfold ringHeader; exact beBytes_length _ _

theorem memWrite_read_back (t : Tab Byte) (a : Nat) (d : List Byte) :
    (List.range d.length).map (fun i => tabGetD (memWrite t a d) (a + i) 0#8) = d := by
  apply List.ext_getElem
  · simp
  · intro n h1 h2
    simp only [List.getElem_map, List.getElem_range]
    exact memWrite_same d h2

theorem commonsZero_at (s : State) (a n x : Nat) : tabGetD (s.commonsZero a n).mod.mem x 0#8 = if a ≤ x ∧ x < a + n then 0#8 else tabGetD s.mod.mem x 0#8 := by
  have := tabGetD_filter s.mod.mem (fun k => !decide (a ≤ k ∧ k < a + n)) x 0#8
  refine this.trans ?_
  by_cases h : a ≤ x ∧ x < a + n
  · simp [h]
  · rw [if_neg h, if_pos (by simp only [Bool.not_eq_true', decide_eq_false_iff_not]; exact h)]

theorem regionBusy_setRegion (s : State) (i : Nat) (r : Region) : (s.setRegion i { r with v := false }).regionBusy { r with v := false } = s.regionBusy r := rfl

theorem commonsRead_memWrite {u : State} {t : Tab Byte} {a n : Nat} {d : List Byte} (h : u.mod.mem = memWrite t a d) (hl : d.length = n) :
    u.commonsRead a n = d := by
  unfold State.commonsRead
  rw [h]; subst hl; exact memWrite_read_back t a d

theorem mem_commonsWrite (s : State) (a : Nat) (d : List Byte) : (s.commonsWrite a d).mod.mem = memWrite s.mod.mem a d := rfl

theorem region_commonsWrite (s : State) (a : Nat) (d : List Byte) : ∀ j, (s.commonsWrite a d).region j = s.region j := fun _ => rfl

theorem commonsWrite_keeps (s : State) (a : Nat) (d : List Byte) : (s.commonsWrite a d).ep = s.ep ∧ (s.commonsWrite a d).out = s.out ∧
    (s.commonsWrite a d).ns = s.ns := ⟨rfl, rfl, rfl⟩

theorem regionInit_contents {u w : State} {r : Region} {d : List Byte} {Z M : Tab Byte} (hd : d.length = 64) (hu : u.mod.mem = w.mod.mem)
    (wm : w.mod.mem = (if r.kind = 3 then memWrite Z r.first d else Z))
    (hz : ∀ x, tabGetD Z x 0#8 = if r.first ≤ x ∧ x < r.first + r.bytes then 0#8 else tabGetD M x 0#8) :
    (∀ x, r.first ≤ x → x < r.first + r.bytes → (r.kind = 3 → r.first + 64 ≤ x) → tabGetD u.mod.mem x 0#8 = 0#8) ∧
    (r.kind = 3 → u.commonsRead r.first 64 = d) ∧
    (∀ x, (x < r.first ∨ r.first + r.bytes ≤ x) → tabGetD u.mod.mem x 0#8 = tabGetD M x 0#8) := by
  rw [wm] at hu
  refine ⟨?_, ?_, ?_⟩
  · intro x h1 h2 h3
    rw [hu]
    split
    · rw [memWrite_other _ (by rw [hd]; right; exact h3 ‹_›), hz, if_pos ⟨h1, h2⟩]
    · rw [hz, if_pos ⟨h1, h2⟩]
  · intro hk
    exact commonsRead_memWrite (hu.trans (if_pos hk)) hd
  · intro x hx
    rw [hu]
    have hb : 2 ^ 30 ≤ r.bytes := by unfold Region.bytes; omega
    split
    · rw [memWrite_other _ (by rw [hd]; omega), hz, if_neg (by omega)]
    · rw [hz, if_neg (by omega)]

theorem regionLeave_eq (s : State) (i : Nat) (h : (s.region i).state ≠ 0) (hb : s.regionBusy (s.region i) = false) :
    (s.setRegion i { s.region i with v := false }).regionLeave i 3 =
      s.setRegion i { s.region i with v := false, state := 3, next := none, torn := false } := by
  unfold State.regionLeave
  rw [region_setRegion, if_pos rfl, regionBusy_setRegion, if_neg (by simp [hb]), regionEnter_eq _ _ h]

theorem regionWrite_clear (s : State) (i : Nat) (val : List Byte) (hl : val.length = 16) (hv : (regionOf (beNat val)).1.v = false)
    (h2 : (regionOf (beNat val)).2 = 0) :
    (((s.region i).state = 1 ∨ (s.region i).state = 4 ∨ (s.region i).state = 2 ∧ s.admCovers (s.region i) = false ∧
        (s.region i).next = none ∧ s.regionBusy (s.region i) = false) →
      s.regionWrite i val = (stOk, s.setRegion i { s.region i with v := false, state := 3, next := none, torn := false })) ∧
    (((s.region i).state = 3 ∨ (s.region i).state = 2 ∧ s.admCovers (s.region i) = true) → s.regionWrite i val = (stBusy, s)) := by
  have e3 := regionEnter_eq s i
  have l3 := regionLeave_eq s i
  unfold State.regionWrite
  dsimp only
  rw [if_neg (by simp [hl]), if_neg (by simp [hv]), if_neg (by simp [h2])]
  generalize s.setRegion i { s.region i with v := false, state := 3, next := none, torn := false } = U at *
  constructor
  · rintro (h | h | ⟨h, h3, h4, h5⟩)
    · rw [e3 (by omega)]; simp only [h]
    · rw [e3 (by omega)]; simp only [h]
    · rw [l3 (by omega) h5, e3 (by omega)]; simp [h, h3, h4]
  · rintro (h | ⟨h, h3⟩)
    · simp only [h]
    · simp [h, h3]

theorem errorRecord_keeps (s : State) (l st k : Nat) : (s.errorRecord l st k).mod.bad = s.mod.bad ∧ (s.errorRecord l st k).mod.mem = s.mod.mem ∧
    (s.errorRecord l st k).ep = s.ep ∧ ∃ e : MemError, (s.errorRecord l st k).mod.errors = (e :: s.mod.errors).take 64 ∧ e.line = l ∧
      e.kind = k ∧ e.stack = st := by
  unfold State.errorRecord State.modMod
  exact ⟨rfl, rfl, rfl, _, rfl, rfl, rfl, rfl⟩

theorem lineFails_keeps (s : State) (l k : Nat) (hk : k < 2) : ((s.lineFails l k).mod.bad.any fun b => b / 2 == l) = true ∧ (s.lineFails l k).mod.mem = s.mod.mem ∧
    (s.lineFails l k).ep = s.ep ∧ (s.lineFails l k).mod.errors = s.mod.errors ∧ (s.lineFails l k).mod.regions = s.mod.regions := by
  unfold State.lineFails
  split
  · exact ⟨‹_›, rfl, rfl, rfl, rfl⟩
  · refine ⟨?_, rfl, rfl, rfl, rfl⟩
    rw [List.any_eq_true]
    exact ⟨l * 2 + k, by rw [show ((s.modMod fun m => _).mod.bad) = setIns s.mod.bad (l * 2 + k) from rfl]; exact (mem_setIns _ _ _).2 (.inl rfl), by simp; omega⟩

theorem scrubOpen_eq {s : State} {c f : List Nat} {held : List (Nat × Nat)} {len total from_ n : Nat} (hl : len = s.regNow .mod 0x730003) (h1 : len ≠ 0)
    (h2 : s.slotCovers (s.epochOf .mod) = false) (h3 : s.mod.scrubEpoch ≤ s.epochOf .mod) (h4 : s.rackNs .mod % 1000000 < 1000 * len)
    (hh : held = s.heldLines) (ht : total = held.foldl (fun n r => n + r.2) 0) (hf : from_ = heldBelow held s.mod.scrubAt)
    (hn : n = min total (s.regNow .mod 0x730004 * len / 128)) (R : Nat → Bool)
    (hR : R = fun l => (s.regionAt (l * 128)).isSome && decide ((heldBelow held l + total - from_) % max 1 total < n)) :
    ∃ w w2 : State, w = (((s.modMod fun m => { m with scrubOn := true, scrubEpoch := s.epochOf .mod + 1, scrubEnds := s.epochOf .mod * 1000000 + 1000 * len, scrubAt := heldAt held ((from_ + n) % max 1 total) }).count .mod 0x06 0 8
          (c.filter R).length).modMod fun m => { m with corrected := m.corrected.filter fun l => !(c.contains l && R l) }) ∧
      w2 = (f.filter R).foldl (fun s l => s.lineFails l 1) w ∧
      s.scrubOpen c f = (w2.mod.bad.filter fun b => R (b / 2)).foldl (fun s b => s.errorRecord (b / 2) (s.stackOf (b / 2 * 128)) 2) w2 := by
  refine ⟨_, _, rfl, rfl, ?_⟩
  subst hR hn hf ht hh hl
  unfold State.scrubOpen
  dsimp only
  rw [if_neg (by simp [h1, h2]; omega)]

theorem scrubOpen_keeps {s : State} {c : List Nat} {len e a n : Nat} {R : Nat → Bool} {w : State}
    (hw : w = ((s.modMod fun m => { m with scrubOn := true, scrubEpoch := e + 1, scrubEnds := e * 1000000 + 1000 * len, scrubAt := a }).count
      .mod 0x06 0 8 n).modMod fun m => { m with corrected := m.corrected.filter fun l => !(c.contains l && R l) }) :
    w.mod.scrubOn = true ∧ w.mod.scrubEpoch = e + 1 ∧ w.mod.scrubEnds = e * 1000000 + 1000 * len ∧ w.mod.scrubAt = a ∧
    (∀ l, l ∈ w.mod.corrected ↔ l ∈ s.mod.corrected ∧ ¬ (l ∈ c ∧ R l = true)) ∧ w.mod.mem = s.mod.mem ∧ w.mod.bad = s.mod.bad ∧
    w.mod.errors = s.mod.errors ∧ w.mod.regions = s.mod.regions ∧ w.ep = s.ep ∧ w.out = s.out := by
  have k : ∀ {β : Type} (g : State → β) (_ : ∀ (t : State) (f : EventLog → EventLog), g (t.modSh .mod fun sh => { sh with log := f sh.log }) = g t)
      (_ : ∀ (t : State) (f : Counters → Counters), g (t.modSh .mod fun sh => { sh with ctr := f sh.ctr }) = g t)
      (_ : ∀ t : State, g (t.modMod fun m => { m with corrected := m.corrected.filter fun l => !(c.contains l && R l) }) = g t),
      g w = g (s.modMod fun m => { m with scrubOn := true, scrubEpoch := e + 1, scrubEnds := e * 1000000 + 1000 * len, scrubAt := a }) := by
    intro β g hl hc hd; rw [hw, hd]; exact State.count_keeps _ g .mod hl hc ..
  refine ⟨k (·.mod.scrubOn) (fun _ _ => rfl) (fun _ _ => rfl) (fun _ => rfl), k (·.mod.scrubEpoch) (fun _ _ => rfl) (fun _ _ => rfl) (fun _ => rfl),
    k (·.mod.scrubEnds) (fun _ _ => rfl) (fun _ _ => rfl) (fun _ => rfl), k (·.mod.scrubAt) (fun _ _ => rfl) (fun _ _ => rfl) (fun _ => rfl), ?_,
    k (·.mod.mem) (fun _ _ => rfl) (fun _ _ => rfl) (fun _ => rfl), k (·.mod.bad) (fun _ _ => rfl) (fun _ _ => rfl) (fun _ => rfl),
    k (·.mod.errors) (fun _ _ => rfl) (fun _ _ => rfl) (fun _ => rfl), k (·.mod.regions) (fun _ _ => rfl) (fun _ _ => rfl) (fun _ => rfl),
    k (·.ep) (fun _ _ => rfl) (fun _ _ => rfl) (fun _ => rfl), k (·.out) (fun _ _ => rfl) (fun _ _ => rfl) (fun _ => rfl)⟩
  intro l
  have hc : ∀ v : State, v.mod.corrected = s.mod.corrected → (l ∈ (v.modMod fun m => { m with corrected := m.corrected.filter fun l => !(c.contains l && R l) }).mod.corrected ↔
      l ∈ s.mod.corrected ∧ ¬ (l ∈ c ∧ R l = true)) := by
    intro v hv; unfold State.modMod; dsimp only; rw [hv, List.mem_filter]; by_cases h : l ∈ c <;> cases hr : R l <;> simp [h, hr]
  rw [hw]
  exact hc _ (State.count_keeps _ (·.mod.corrected) .mod (fun _ _ => rfl) (fun _ _ => rfl) ..)

theorem reg_noted (s : State) (q : Part) (k : Packet) (port key : Nat) : (s.noted .ep k port).reg q key = s.reg q key := by
  cases q <;> rfl

theorem admitPacket_restore {s : State} {k : Packet} {t : Bool} {r : SrcRec} (hf : formOk k true = true) (h2 : k.typ = 0x31) (h3 : k.job = 0)
    (h4 : k.dst = s.node .ep) (h5 : s.sealCheck .ep k t = 0) (h6 : s.ep.sh.recv.rec_ k.from_ = some r) (h7 : k.s = false)
    (h8 : r.settledOf k.seq = none) (h9 : s.ep.sh.recv.busyWith k.from_ k.seq = false) (h10 : serialDiff k.seq r.base < 4096) :
    (s.arrives .ep k).admitPacket .ep k k.plane t (k.typ == 0x31) = (s.noted .ep k k.plane, some .fresh) := by
  unfold State.admitPacket
  rw [if_neg (by rw [show (Part.ep == Part.ep) = true from rfl, hf, h2]; simp), if_neg (by rw [h2, h3]; simp), arrives_node, if_neg (by simp [h4]), arrives_seal, h5]
  dsimp only
  rw [if_neg (by decide), if_neg (by decide), sealCount_zero, recordFor_old (p := .ep) h6 h7]
  dsimp only
  rw [if_neg (by decide), class_known (p := .ep) h6, h8]
  dsimp only
  rw [show (s.sh Part.ep).recv.busyWith k.from_ k.seq = false from h9, if_neg (by decide), if_pos h10]

theorem takes_fields {q : QPair} {u rk va : Nat} (h : q.takes u rk va = true) : q.use = u ∧ q.state = 1 := by
  unfold QPair.takes at h
  simp only [Bool.and_eq_true, beq_iff_eq] at h
  exact ⟨h.1.1.2, h.1.1.1⟩

theorem congestion_eq (s : State) (n : Nat) (ce : Bool) : ∃ (c : Tab Nat) (o : List Out),
    s.congestion n ce = { s with mod := { s.mod with cnps := c }, out := o } := by
  unfold State.congestion
  dsimp only
  generalize (ce && (s.qp n).state == 1 && _) = b
  cases b
  · exact ⟨s.mod.cnps, s.out, rfl⟩
  · exact ⟨_, _, rfl⟩

/-- A CNP leaves everything but the queue pair's mark and the output. -/
theorem congestion_keep {β : Type} (g : State → β) {s w : State} {n : Nat} {ce : Bool} (hw : w = s.congestion n ce)
    (h : ∀ (c : Tab Nat) (o : List Out), g { s with mod := { s.mod with cnps := c }, out := o } = g s) : g w = g s := by
  obtain ⟨c, o, e⟩ := congestion_eq s n ce
  rw [hw, e, h]

theorem roceAtomic_bad {s : State} {n rk va err : Nat} {f : Nat → Nat} (hf : s.mod.ve.fenced = false) (h : (s.qp n).use = 2 ∨ va % 8 ≠ 0) :
    s.roceAtomic n rk va err f = .next (s.emit (.roce n 4 [])) := by
  unfold State.roceAtomic; dsimp only; rw [if_neg (by simp [hf]), if_pos h]; rfl

theorem roceCode_denied (s : State) (n : Nat) : s.roceCode n cDenied [] = s.emit (.roce n 1 []) := rfl

theorem roceCode_poison (s : State) (n : Nat) : s.roceCode n cPoison [] = s.emit (.roce n 2 []) := rfl

theorem roceCode_done (s : State) (n : Nat) (d : List Byte) : s.roceCode n cDone d = s.emit (.roce n 0 d) := rfl

theorem hostAdmit_removed {s : State} {j off len w t : Nat} (h : s.jobState .mod j = 1) :
    s.hostAdmit j off len w t = (s.deny .mod j 0 off t 0, .inr cDenied) := by unfold State.hostAdmit; simp only [h]

theorem hostAdmit_none {s : State} {j off len w t : Nat} (h : s.jobState .mod j = 0) (ha : admFind s.mod.sh.adm j off len = none) :
    s.hostAdmit j off len w t = (s.deny .mod j 0 off t 1, .inr cDenied) := by unfold State.hostAdmit; simp only [h, ha]

theorem hostAdmit_right {s : State} {j off len w t : Nat} {e : AdmEntry} (h : s.jobState .mod j = 0) (ha : admFind s.mod.sh.adm j off len = some e)
    (hw : e.has w = false) : s.hostAdmit j off len w t = (s.deny .mod j 0 off t 2, .inr cDenied) := by
  unfold State.hostAdmit; simp only [h, ha, hw]; rfl

theorem hostAdmit_ok {s : State} {j off len w t : Nat} {e : AdmEntry} (h : s.jobState .mod j = 0) (ha : admFind s.mod.sh.adm j off len = some e)
    (hw : e.has w = true) : s.hostAdmit j off len w t = (s, .inl (e.local_ off)) := by
  unfold State.hostAdmit; simp only [h, ha, hw]; rfl

theorem roceRead_code {s t : State} {n rk va len err c : Nat} (hf : s.mod.ve.fenced = false) (hl : len ≤ 2 ^ 30) (h : (s.qp n).takes 1 rk va = true)
    (ha : s.hostAdmit (s.qp n).job va len 0 0x01 = (t, .inr c)) : s.roceRead n rk va len err = .next (t.roceCode n c []) := by
  have hu : (s.qp n).use ≠ 2 := by rw [(takes_fields h).1]; decide
  unfold State.roceRead; dsimp only
  rw [if_neg (by simp [hf]), if_neg (by unfold roceMost; omega)]; simp only [h, ha, if_false, Bool.not_true, Bool.false_eq_true]

theorem roceRead_ok {s : State} {n rk va len err l : Nat} (hf : s.mod.ve.fenced = false) (hl : len ≤ 2 ^ 30) (h : (s.qp n).takes 1 rk va = true)
    (ha : s.hostAdmit (s.qp n).job va len 0 0x01 = (s, .inl l)) : s.roceRead n rk va len err = s.hostRead n va l len err := by
  have hu : (s.qp n).use ≠ 2 := by rw [(takes_fields h).1]; decide
  unfold State.roceRead; dsimp only
  rw [if_neg (by simp [hf]), if_neg (by unfold roceMost; omega)]; simp only [h, ha, if_false, Bool.not_true, Bool.false_eq_true]

theorem roceWrite_code {s t : State} {n rk va err c : Nat} {d : List Byte} (hf : s.mod.ve.fenced = false) (hl : d.length ≤ 2 ^ 30) (h : (s.qp n).takes 1 rk va = true)
    (ha : s.hostAdmit (s.qp n).job va d.length 1 0x02 = (t, .inr c)) : s.roceWrite n rk va d err = .next (t.roceCode n c []) := by
  have hu : (s.qp n).use ≠ 2 := by rw [(takes_fields h).1]; decide
  unfold State.roceWrite; dsimp only
  rw [if_neg (by simp [hf]), if_neg (by unfold roceMost; omega), if_neg (fun x => hu x.1)]
  simp only [h, ha, if_false, Bool.not_true, Bool.false_eq_true]

theorem roceWrite_ok {s : State} {n rk va err l : Nat} {d : List Byte} (hf : s.mod.ve.fenced = false) (hl : d.length ≤ 2 ^ 30) (h : (s.qp n).takes 1 rk va = true)
    (ha : s.hostAdmit (s.qp n).job va d.length 1 0x02 = (s, .inl l)) : s.roceWrite n rk va d err =
      if s.usableBytes < l + d.length then .fault (.outsideCommons l)
      else if s.metaAt l then .next (s.hostMetaDeny n va 0x02)
      else .next ((s.checkedWrite l d err).1.roceCode n (if (s.checkedWrite l d err).2 then cDone else cPoison) []) := by
  have hu : (s.qp n).use ≠ 2 := by rw [(takes_fields h).1]; decide
  unfold State.roceWrite; dsimp only
  rw [if_neg (by simp [hf]), if_neg (by unfold roceMost; omega), if_neg (fun x => hu x.1)]
  simp only [h, ha, if_false, Bool.not_true, Bool.false_eq_true]

theorem linesOf_one {l : Nat} (h8 : l % 8 = 0) : linesOf l 8 = [l / 128] := by
  unfold linesOf
  rw [show (l + max 8 1 - 1) / 128 + 1 - l / 128 = 1 by omega]; simp

theorem roceAtomic_ok {s : State} {n rk va l : Nat} {e : AdmEntry} {f : Nat → Nat} (hf : s.mod.ve.fenced = false) (h : (s.qp n).takes 1 rk va = true) (hv : va % 8 = 0)
    (hc : (s.mod.sh.recv.inprog.filter fun g => g.pkt.typ == 0x03).length < atomCap .mod) (hj : s.jobState .mod (s.qp n).job = 0)
    (ha : admFind s.mod.sh.adm (s.qp n).job va 8 = some e) (hr : e.a = true) (hl : l = e.localBase * 65536 + (va - e.offBase * 65536))
    (hb : l + 8 ≤ s.usableBytes) (hm : s.metaAt l = false) (hs : s.staleAt l = false) (hg : s.linesGood l 8) (h8 : l % 8 = 0) :
    ∃ u : State, s.roceAtomic n rk va 0 f = .next (u.emit (.roce n 0 (leBytes 8 (leNat (s.commonsRead l 8))))) ∧
        u.mod.mem = memWrite s.mod.mem l (leBytes 8 (f (leNat (s.commonsRead l 8)))) ∧ u.mod.regions = s.mod.regions ∧
        u.mod.sh = s.mod.sh ∧ u.ep = s.ep ∧ u.out = s.out := by
  have hu : (s.qp n).use ≠ 2 := by rw [(takes_fields h).1]; decide
  have ad := hostAdmit_ok (w := 2) (t := 3) hj ha hr
  rw [show e.local_ va = l from hl.symm] at ad
  have rc : s.readCheck [l / 128] 0 = (s, true) := by rw [← linesOf_one h8]; exact readCheck_good hg
  obtain ⟨b, hw⟩ := checkedWrite_good (s := s) (a := l) (d := leBytes 8 (f (leNat (s.commonsRead l 8)))) (by rw [leBytes_length]; exact hg)
  refine ⟨(s.modMod fun m => { m with bad := b }).commonsWrite l (leBytes 8 (f (leNat (s.commonsRead l 8)))), ?_, rfl, rfl, rfl, rfl, rfl⟩
  unfold State.roceAtomic
  simp only [h, ad, Bool.not_true, Bool.false_eq_true, if_false, hm, hs, rc, hw, if_true, roceCode_done]
  rw [if_neg (by simp [hf]), if_neg (by simp [hu, hv]), if_neg (by omega), if_neg (by omega)]

end Sys2Proof.Machine
end

