-- ==== Sys2Proof/Laws/CollectiveEffects.lean ====
section
/-! SUPPORT. What the collective tables and the sequencer do with a packet, once for each. -/

set_option linter.all false
set_option Elab.async false

namespace Sys2Proof.Machine

theorem groupWrite_cases (s : State) (i : Nat) (val : List Byte) (n : Group × Nat) (new : Group) (hl : val.length = 16) (hn : n = groupOf (beNat val))
    (h2 : n.2 = 0)
    (hw : new = { s.group i with v := n.1.v, job := n.1.job, members := n.1.members, rackMask := n.1.rackMask, lateness := n.1.lateness,
                                 firstSeq := n.1.firstSeq, base := if n.1.v && !(s.group i).v then n.1.firstSeq else (s.group i).base }) :
    (s.hasSlice n.1.job = true → (n.1.v = true → new.tableOk = true ∧ ∀ c ∈ new.ctxs, c.2.v = true →
        s.contextOk new c.2 (new.prog c.1) = true) →
      ((s.group i).slots = [] → s.groupWrite i val = (stOk, s.setGroup i new)) ∧
      ((s.group i).slots ≠ [] → s.groupWrite i val = (stBusy, s))) ∧
    (n.1.job ≠ 0 → s.hasSlice n.1.job = false → s.groupWrite i val = (stRange, s)) ∧
    (n.1.v = true → new.tableOk = false → s.groupWrite i val = (stRange, s)) := by
  have E : s.groupWrite i val = (if val.length ≠ 16 ∨ n.2 ≠ 0 ∨ ((n.1.v ∨ n.1.job ≠ 0) ∧ ¬ s.hasSlice n.1.job) ∨
      (n.1.v ∧ (¬ new.tableOk ∨ new.ctxs.any fun c => c.2.v && !s.contextOk new c.2 (new.prog c.1))) then (stRange, s)
      else if (s.group i).busy then (stBusy, s) else (stOk, s.setGroup i new)) := by
    subst hw; subst hn; rfl
  rw [E]
  refine ⟨fun h g => ?_, fun h g => ?_, fun h g => ?_⟩
  · rw [if_neg (by
      rintro (x | x | ⟨-, x⟩ | ⟨x, y | y⟩)
      · exact x hl
      · exact x h2
      · exact x h
      · rw [(g x).1] at y; exact y rfl
      · simp only [List.any_eq_true, Bool.and_eq_true, Bool.not_eq_true'] at y
        obtain ⟨c, c1, c2, c3⟩ := y
        rw [(g x).2 c c1 c2] at c3; cases c3)]
    constructor
    · intro e; rw [if_neg (by unfold Group.busy; simp [e])]
    · intro e; rw [if_pos (by unfold Group.busy; simpa using e)]
  · rw [if_pos (.inr (.inr (.inl ⟨.inr h, by simp [g]⟩)))]
  · rw [if_pos (.inr (.inr (.inr ⟨h, .inl (by simp [g])⟩)))]

theorem busy_iff_slots (g : Group) : g.busy = true ↔ g.slots ≠ [] := by unfold Group.busy; simp

theorem isColl_ne_restore {n : Nat} (h : isColl n = true) : n ≠ 0x31 := by rintro rfl; revert h; decide

theorem admitPacket_collective {s : State} {p : Part} {k : Packet} {port : Nat} {t : Bool} {r : SrcRec} (h : FreshCollective s p k t r) :
    (s.arrives p k).admitPacket p k port t (isColl k.typ) = (s.noted p k port, some .fresh) := by
  unfold State.admitPacket
  rw [if_neg (by rw [h.form, h.typ]; simp), if_neg (by
    rintro (⟨-, x⟩ | ⟨x, -⟩)
    · rcases x with x | x
      · exact h.job.1 x
      · exact h.job.2 x
    · exact isColl_ne_restore h.typ x), arrives_node, if_neg (by simp [h.node]), arrives_seal, h.tag]
  dsimp only
  rw [if_neg (by decide), if_neg (by decide), sealCount_zero, recordFor_old h.known h.noStart]
  dsimp only
  rw [if_neg (by decide), class_known h.known, h.unsettled]
  dsimp only
  rw [h.idle, if_neg (by decide), if_pos h.near]

def memberNext (k : Packet) (port : Nat) : State → Group → State := fun s g =>
      match g.rankOf k.srcRack k.src with
      | some rank => s.memberPacket false k.group g rank k port
      | none => s.mcDeny k port 2

theorem exec_member {s : State} {k : Packet} {port : Nat} {t : Bool} {r : SrcRec} {c : Instr} (ho : s.fabricOff .mod = false)
    (hx : s.expired .mod (· == k) = none)
    (hc : c = .probe k port t ∨ c = .contribution k port t ∨ c = .arrive k port t) (h : FreshCollective s .mod k t r) :
    exec c s = .next (((s.noted .mod k port).mcTake k port (memberNext k port)).modOn) := by
  have e : (s.arrives .mod k).mcMember k port t = (s.noted .mod k port).mcTake k port (memberNext k port) := by
    unfold State.mcMember; dsimp only; rw [admitPacket_collective h]; dsimp only
    exact congrArg (State.mcTake _ k port) rfl
  have f : s.fabricIn .mod k (fun s => s.mcMember k port t) = ((s.noted .mod k port).mcTake k port (memberNext k port)).modOn := by
    unfold State.fabricIn; rw [if_neg (by simp [ho])]
    show (match s.expired .mod (· == k) with | some (g, c) => s.dropFrame g c | none => _) = _
    rw [hx]; dsimp only
    rw [e]; rfl
  rcases hc with rfl | rfl | rfl
  · exact congrArg Host.Outcome.next f
  · exact congrArg Host.Outcome.next f
  · exact congrArg Host.Outcome.next f

theorem collectiveOf_noted {s : State} {k : Packet} {g : Group} (port : Nat) (h : CollectiveOf s k g) : CollectiveOf (s.noted .mod k port) k g :=
  ⟨(noted_jobState ..).trans h.serves, (noted_keep (fun t => t.group k.group) s k port fun _ _ _ _ => rfl).trans h.group, h.valid,
    fun c => (noted_keep (fun t => t.mownNamed k.group k.job c k.cseq) s k port fun _ _ _ _ => rfl).trans (h.mown c), h.context, h.same⟩

theorem mcTake_member {u : State} {k : Packet} {port : Nat} {g : Group} (h : CollectiveOf u k g) (f : State → Group → State) :
    u.mcTake k port f = (if (k.phase != 6 && (g.ctx k.cctx).op != k.typ - 0x20) || (k.phase == 6 && k.typ != 0x20) then u.mcDeny k port 1
      else if k.phase = 2 ∧ ¬ bit g.rackMask k.srcRack then u.mcDeny k port 2
      else if (k.phase = 0 ∨ k.phase = 4 ∨ k.phase = 6) ∧
            (k.srcRack ≠ u.rack .mod ∨ (g.rankOf k.srcRack k.src).isNone) then u.mcDeny k port 2
      else if !u.phaseOk g (g.ctx k.cctx).op k.phase k.tree then u.mcDeny k port 5 else f u g) := by
  unfold State.mcTake
  simp only [h.serves, h.group, h.mown, h.context, h.valid.1, h.valid.2, Option.map_none, bne_self_eq_false, Bool.not_true,
    Bool.or_false, Bool.false_or, Bool.false_eq_true, if_false]

theorem mcTake_memberPacket {u : State} {k : Packet} {port rank : Nat} {g : Group} (h : CollectiveOf u k g)
    (hp : k.phase = 6 ∧ k.typ = 0x20 ∨ (k.phase = 0 ∨ k.phase = 4) ∧ (g.ctx k.cctx).op = k.typ - 0x20) (hr : k.srcRack = u.rack .mod)
    (hk : g.rankOf k.srcRack k.src = some rank) (hph : u.phaseOk g (g.ctx k.cctx).op k.phase k.tree = true) :
    u.mcTake k port (memberNext k port) = u.memberPacket false k.group g rank k port := by
  rw [mcTake_member h, if_neg (by
      rcases hp with ⟨x, y⟩ | ⟨x, y⟩
      · simp [x, y]
      · simp only [y]; simp; omega), if_neg (by omega), if_neg (by
      rintro ⟨-, x | x⟩
      · exact x hr
      · rw [hk] at x; cases x), hph, if_neg (by decide)]
  unfold memberNext
  simp only [hk]

theorem memberPacket_refused {u : State} {k : Packet} {port rank gi : Nat} {g : Group} {sh : Shape}
    (hs : sh = g.shape (u.heldContext k) ((u.heldSize k).getD k.size)) :
    (memberForm sh k (u.heldSize k) = 1 → u.memberPacket false gi g rank k port = u.mcDeny k port 5) ∧
    (memberForm sh k (u.heldSize k) = 2 → u.memberPacket false gi g rank k port = (u.malformed .mod port).mcDeny k port 5) ∧
    (memberForm sh k (u.heldSize k) = 0 → g.place k.cseq ≠ cDone → u.memberPacket false gi g rank k port = u.notPlaced k port (g.place k.cseq)) := by
  subst hs
  refine ⟨fun h => ?_, fun h => ?_, fun h hp => ?_⟩
  · unfold State.memberPacket; dsimp only; rw [h]; rfl
  · unfold State.memberPacket; dsimp only; rw [h]; rfl
  · unfold State.memberPacket; dsimp only; rw [h]; exact if_pos hp

theorem memberPacket_placed {u : State} {k : Packet} {port rank gi : Nat} {g : Group} {sh : Shape} {x : SeqSlot}
    (hs : sh = g.shape (u.heldContext k) ((u.heldSize k).getD k.size)) (hf : memberForm sh k (u.heldSize k) = 0) (hp : g.place k.cseq = cDone)
    (hx : (u.openSlot gi k.cseq k.cctx).seqSlot gi k.cseq = some x) :
    u.memberPacket false gi g rank k port = (
        if x.state = 2 ∧ k.phase = 0 ∧ (tabGet x.pieces k.piece).isNone ∧ sh.op ≠ 5 then u.mcDeny k port 5
        else match k.phase with
          | 6 => ((u.openSlot gi k.cseq k.cctx).takeSize gi k).finish .mod k port cDone (beBytes 8 ((g.ctx k.cctx).bits_ / 2 ^ 64)) false
          | 4 => (u.openSlot gi k.cseq k.cctx).takeArrive gi rank k port (sh.op == 3 && u.slotBegun gi g x.cctx k.cseq sh 0)
          | _ =>
            if sh.op = 5 then (u.openSlot gi k.cseq k.cctx).forwardItem gi g x k port
            else if !false && (u.openSlot gi k.cseq k.cctx).sentHome gi g x sh k port then (u.openSlot gi k.cseq k.cctx).sendHome (x.home gi k.piece) k port
            else (u.openSlot gi k.cseq k.cctx).addContribution gi g x sh rank k port) := by
  subst hs
  unfold State.memberPacket
  dsimp only
  rw [hf]
  show (if g.place k.cseq ≠ cDone then _ else _) = _
  rw [hp, if_neg (by simp), hx]; all_goals rfl

theorem openSlot_opens {u : State} {k : Packet} {g : Group} (h : CollectiveOf u k g) :
    ∃ x, (u.openSlot k.group k.cseq k.cctx).seqSlot k.group k.cseq = some x := by
  unfold State.openSlot
  rw [h.group]
  cases e : tabGet g.slots (k.cseq % 4) with
  | some x =>
    have := h.same x e
    refine ⟨x, ?_⟩
    simp only [State.seqSlot, h.group, e, this, if_true]
  | none =>
    have hl : tabGet u.mod.groups k.group = some g := by
      have := h.group
      unfold State.group tabGetD at this
      cases e2 : tabGet u.mod.groups k.group with
      | some y => rw [e2] at this; exact congrArg some this
      | none =>
        rw [e2] at this
        have hv := h.valid.1
        rw [← this] at hv; cases hv
    dsimp only
    unfold State.seqSlot State.group State.modGroup State.modMod tabGetD
    dsimp only
    rw [tabGet_tabMod, if_pos rfl, hl]
    dsimp only [Option.map, Option.getD]
    rw [tabGet_tabSet_same]
    exact ⟨_, if_pos rfl⟩

theorem openSlot_groups (u : State) (gi seq c : Nat) : ∃ gs, u.openSlot gi seq c = u.modMod fun m => { m with groups := gs } := by
  unfold State.openSlot
  split
  · exact ⟨u.mod.groups, rfl⟩
  · exact ⟨_, rfl⟩

theorem openSlot_keep {β : Type} (f : State → β) (s : State) (k : Packet) (port gi seq c : Nat)
    (h0 : ∀ (gs : Tab Group), f (s.modMod fun m => { m with groups := gs }) = f s)
    (h : ∀ (fr : List MFrame) (sp : Tab SpillPage) (ti : Tab Tile) (x : Receiver) (gs : Tab Group),
      f (((s.modMod fun m => { m with frames := fr, spill := sp, tiles := ti }).modRecv .mod fun _ => x).modMod fun m => { m with groups := gs }) = f (s.modMod fun m => { m with groups := gs })) :
    f ((s.noted .mod k port).openSlot gi seq c) = f s := by
  obtain ⟨gs, e⟩ := openSlot_groups (s.noted .mod k port) gi seq c
  rw [e]
  exact (noted_keep (fun t => f (t.modMod fun m => { m with groups := gs })) s k port fun fr sp ti x => h fr sp ti x gs).trans (h0 gs)

theorem addContribution_eq {u : State} {gi : Nat} {g : Group} {x : SeqSlot} {sh : Shape} {rank : Nat} {k : Packet} {port home n : Nat} {p : Piece}
    (hh : home = x.home gi k.piece) (hpp : p = x.piece k.piece)
    (gate : ((sh.op == 0 || sh.op == 4) && !(u.tile home).inService) = false) (hpo : x.poisoned.contains (k.piece / 2 ^ sh.order) = false)
    (kB : u.slotBegun gi g x.cctx k.cseq sh k.piece = false) (hra : p.ranks.contains rank = false)
    (hdn : (p.done || (!(sh.op == 0 || sh.op == 4) && !p.ranks.isEmpty)) = false) (kw : u.mownWaits gi g.job x.cctx k.cseq = false)
    (hn : n = if (sh.op == 0 || sh.op == 4) then (p.take sh false (g.ranksIn (u.rack .mod)).length (g.placeIn (u.rack .mod) rank) rank u.clock
      k.payload).cellsFor sh else p.cells) :
    u.addContribution gi g x sh rank k port = (match (if n ≤ p.cells then some u else u.takeCells home (n - p.cells) (gi, k.cseq, k.piece) 4096) with
    | none =>
      ((if (u.tileCount home 14).mayTakePages home 1 then (u.tileCount home 14) else (u.tileCount home 14).tileCount home 13).partCount .mod k.job 6 1).respond .mod k port cHold [] 0
    | some s =>
      let s := if n ≤ p.cells then s else s.modTile home fun y => { y with windUsed := y.windUsed - (n - p.cells) }
      let s := s.takeSize gi k
      let s := (s.giveCells gi k.cseq k.piece home n).modPiece gi k.cseq k.piece fun p =>
        p.take sh false (g.ranksIn (u.rack .mod)).length (g.placeIn (u.rack .mod) rank) rank s.clock k.payload
      let s := if (sh.op == 0 || sh.op == 4) then (s.drawn).engineAdds (s.engineFor gi g x k.piece) (sh.elems k.piece) k.payload.length else s
      ((s.countContribution gi k.cseq rank).finish .mod k port cDone [] false).mcOn) := by
  unfold State.addContribution
  dsimp only
  rw [← hh, gate, if_neg (by decide), hpo, if_neg (by decide), kB, if_neg (by decide), ← hpp, hra, if_neg (by decide), hdn, if_neg (by decide), kw]
  rw [show ((sh.op == 0 || sh.op == 4) && !false) = (sh.op == 0 || sh.op == 4) by simp, ← hn]
  generalize (if n ≤ p.cells then some u else u.takeCells home (n - p.cells) (gi, k.cseq, k.piece) 4096) = o
  cases o
  · rfl
  · dsimp only; rw [if_neg (show ¬ (false = true) by decide)]

theorem exec_collectiveAtEndpoint {s : State} {k : Packet} {t : Bool} {r : SrcRec} {c : Instr} (ho : s.fabricOff .ep = false) (hx : s.expired .ep (· == k) = none)
    (hc : c = .result k t ∨ c = .release k t) (h : FreshCollective s .ep k t r) :
    exec c s = .next (((s.noted .ep k k.plane).collTake k k.plane).epOn) := by
  have e : (s.arrives .ep k).collReceive k k.plane t = (s.noted .ep k k.plane).collTake k k.plane := by
    unfold State.collReceive; dsimp only; rw [admitPacket_collective h]
  have f : s.fabricIn .ep k (fun s => s.collReceive k k.plane t) = ((s.noted .ep k k.plane).collTake k k.plane).epOn := by
    unfold State.fabricIn; rw [if_neg (by simp [ho])]
    show (match s.expired .ep (· == k) with | some (g, c) => s.dropFrame g c | none => _) = _
    rw [hx]; dsimp only
    exact congrArg State.epOn e
  rcases hc with rfl | rfl
  · exact congrArg Host.Outcome.next f
  · exact congrArg Host.Outcome.next f

theorem collTake_removed {u : State} {k : Packet} (h : u.jobState .ep k.job = 1) :
    u.collTake k k.plane = (u.deny .ep k.job k.src 0 k.typ 0).finish .ep k k.plane cDenied [] false := by
  unfold State.collTake; rw [h]; rfl

theorem collTake_second {u : State} {k : Packet} (h : u.jobState .ep k.job = 0) (hn : u.collNamed k.job k.group k.cseq = none) (hp : k.phase = 5)
    (hr : u.ep.released.contains (k.job, k.group, k.cseq) = true) :
    u.collTake k k.plane = (u.modEp fun e => { e with released := e.released.filter fun r => r != (k.job, k.group, k.cseq) }).finish .ep k
      k.plane cDone [] false := by
  unfold State.collTake; rw [h, hn]; exact if_pos ⟨hp, hr⟩

theorem collTake_unknown {u : State} {k : Packet} (h : u.jobState .ep k.job = 0) (hn : u.collNamed k.job k.group k.cseq = none)
    (hr : k.phase ≠ 5 ∨ u.ep.released.contains (k.job, k.group, k.cseq) = false) :
    u.collTake k k.plane = (u.epCount 27).finish .ep k k.plane cDenied [] false := by
  unfold State.collTake; rw [h, hn]
  exact if_neg (by rintro ⟨a, b⟩; rcases hr with h3 | h3; exact h3 a; rw [h3] at b; cases b)

theorem collTake_named {u : State} {k : Packet} {x : EpColl} (h : u.jobState .ep k.job = 0) (hn : u.collNamed k.job k.group k.cseq = some x) :
    u.collTake k k.plane = (if (x.state = 0 ∨ x.state = 6) ∧ ¬ x.todo.isEmpty then u.respond .ep k k.plane cRetry [] 0
      else match x.shape with
        | none => u.respond .ep k k.plane cRetry [] 0
        | some sh =>
          if k.phase = 5 then
            if (sh.op = 3 ∨ sh.op = 5) ∧ k.typ = 0x20 + sh.op ∧ k.payload.isEmpty then
              (u.collRelease x k.plane).finish .ep k k.plane cDone [] false
            else u.collUnknown k k.plane
          else if k.phase ≠ 1 then u.collUnknown k k.plane
          else match x.fitsResult sh k with
            | 0 => u.collWrite x sh k k.plane
            | 1 => u.collUnknown k k.plane
            | _ => (u.epCount 28).finish .ep k k.plane cDenied [] false) := by
  unfold State.collTake; rw [h, hn]; rfl

theorem arrives_mod_keep {β : Type} (g : State → β) (s : State) (k : Packet)
    (h : ∀ (fr : List MFrame) (sp : Tab SpillPage) (ti : Tab Tile), g (s.modMod fun m => { m with frames := fr, spill := sp, tiles := ti }) = g s) :
    g (s.arrives .mod k) = g s := by
  obtain ⟨fr, sp, ti, e⟩ := arrives_mod_eq s k
  rw [e]; exact h fr sp ti

theorem collectiveOf_arrives {s : State} {k : Packet} {g : Group} (h : CollectiveOf s k g) : CollectiveOf (s.arrives .mod k) k g :=
  ⟨(arrives_mod_keep (fun t => t.jobState .mod k.job) s k fun _ _ _ => rfl).trans h.serves, (arrives_mod_keep (fun t => t.group k.group) s k fun _ _ _ => rfl).trans h.group, h.valid,
    fun c => (arrives_mod_keep (fun t => t.mownNamed k.group k.job c k.cseq) s k fun _ _ _ => rfl).trans (h.mown c), h.context, h.same⟩

theorem mcBetween_eq {s : State} {k : Packet} {port : Nat} {t : Bool} {g : Group} {f : State → Group → State} (hf : formOk k false = true) (hc : isColl k.typ = true)
    (h1 : k.job ≠ 0) (h2 : k.job ≠ 0xFFFF) (h3 : k.dst = s.node .mod) (h4 : s.sealCheck .mod k t = 0) (hg : CollectiveOf s k g)
    (ho : (g.ctx k.cctx).op = k.typ - 0x20) (h2r : k.phase = 2 ∨ k.phase = 3) (hm : k.phase = 2 → bit g.rackMask k.srcRack = true)
    (hp : s.phaseOk g (g.ctx k.cctx).op k.phase k.tree = true) :
    (s.arrives .mod k).mcBetween k port t f = f (s.arrives .mod k) g := by
  have hu := collectiveOf_arrives hg
  unfold State.mcBetween
  rw [if_neg (by simp [hf, hc]), if_neg (by omega), arrives_node, if_neg (by simp [h3]), arrives_seal, h4]
  dsimp only
  rw [if_neg (by decide), if_neg (by decide), sealCount_zero, mcTake_member hu, if_neg (by
    simp only [ho]; rcases h2r with x | x <;> simp [x]), if_neg (by
    rintro ⟨x, y⟩; exact y (hm x)), if_neg (by omega)]
  rw [(arrives_mod_keep (fun t => t.phaseOk g (g.ctx k.cctx).op k.phase k.tree) s k fun _ _ _ => rfl).trans hp, if_neg (by decide)]

theorem rackPartial_form {u : State} {k : Packet} {port form : Nat} {g : Group} {sh : Shape} {held : Option Nat} {v : State}
    (hv : v = (match treeForm g sh k (held.map fun _ => sh.pieces) with
    | 1 => u.mcDeny k port 5
    | 2 => (u.malformed .mod port).mcDeny k port 5
    | _ =>
      if g.place k.cseq ≠ cDone then u.notPlaced k port (g.place k.cseq)
      else if u.reg .mod 0x500001 = 1 then u.podPartial k.group g k port
      else
        match (u.openSlot k.group k.cseq k.cctx).seqSlot k.group k.cseq with
        | none => u.openSlot k.group k.cseq k.cctx
        | some x =>
          if (x.piece k.piece).treeDone then (u.openSlot k.group k.cseq k.cctx).sendDown k.group k.cseq k.piece k.srcRack (x.piece k.piece).racks (x.piece k.piece).result
          else if (x.piece k.piece).partials.any fun t => partsMeet t.2 k.payload then u.openSlot k.group k.cseq k.cctx
          else
            (((u.openSlot k.group k.cseq k.cctx).modPiece k.group k.cseq k.piece fun p =>
              { p with partials := p.partials ++ [((partFields k.payload).1, k.payload)] }).rootOn k.group k.cseq k.piece).mcOn))
    (hf : form = treeForm g sh k (held.map fun _ => sh.pieces)) :
    (form = 1 → v = u.mcDeny k port 5) ∧ (form = 2 → v = (u.malformed .mod port).mcDeny k port 5) ∧
    (form = 0 → g.place k.cseq ≠ cDone → v = u.notPlaced k port (g.place k.cseq)) ∧
    (form = 0 → g.place k.cseq = cDone → v = (if u.reg .mod 0x500001 = 1 then u.podPartial k.group g k port
      else
        match (u.openSlot k.group k.cseq k.cctx).seqSlot k.group k.cseq with
        | none => u.openSlot k.group k.cseq k.cctx
        | some x =>
          if (x.piece k.piece).treeDone then (u.openSlot k.group k.cseq k.cctx).sendDown k.group k.cseq k.piece k.srcRack (x.piece k.piece).racks (x.piece k.piece).result
          else if (x.piece k.piece).partials.any fun t => partsMeet t.2 k.payload then u.openSlot k.group k.cseq k.cctx
          else
            (((u.openSlot k.group k.cseq k.cctx).modPiece k.group k.cseq k.piece fun p =>
              { p with partials := p.partials ++ [((partFields k.payload).1, k.payload)] }).rootOn k.group k.cseq k.piece).mcOn)) := by
  subst hv
  refine ⟨fun h => ?_, fun h => ?_, fun h hp => ?_, fun h hp => ?_⟩
  · rw [← hf, h]; rfl
  · rw [← hf, h]; rfl
  · rw [← hf, h]; exact if_pos hp
  · rw [← hf, h]; exact if_neg (by simp [hp])

theorem treeResult_form {u : State} {k : Packet} {port form : Nat} {g : Group} {sh : Shape} {held : Option Nat} {v : State}
    (hv : v = (match treeForm g sh k (held.map fun _ => sh.pieces) with
    | 1 => u.mcDeny k port 5
    | 2 => (u.malformed .mod port).mcDeny k port 5
    | _ =>
      if g.place k.cseq ≠ cDone then u.notPlaced k port (g.place k.cseq)
      else if u.reg .mod 0x500001 = 1 then
        u.toRack k.group { k with src := u.node .mod } k.dstRack (u.treeOf k.group g k.cctx k.cseq sh k.piece).2
      else
        match (u.openSlot k.group k.cseq k.cctx).seqSlot k.group k.cseq with
        | none => u.openSlot k.group k.cseq k.cctx
        | some x =>
          if (x.piece k.piece).treeDone then (u.openSlot k.group k.cseq k.cctx).respond .mod k port cDone [] 0
          else if Piece.treeOnly sh (partFields k.payload).1 ((u.openSlot k.group k.cseq k.cctx).rack .mod) then
            (((u.openSlot k.group k.cseq k.cctx).respond .mod k port cDone [] 0).modPiece k.group k.cseq k.piece fun p => { p with treeDone := true, done := true }).mcOn
          else
            if ((x.piece k.piece).partials.filter fun t => t.1 != 2 ^ (u.openSlot k.group k.cseq k.cctx).rack .mod).any fun t => partsMeet t.2 k.payload then
              (u.openSlot k.group k.cseq k.cctx).respond .mod k port cDone [] 0
            else (((u.openSlot k.group k.cseq k.cctx).respond .mod k port cDone [] 0).modPiece k.group k.cseq k.piece fun p => { p with
              partials := ((x.piece k.piece).partials.filter fun t => t.1 != 2 ^ (u.openSlot k.group k.cseq k.cctx).rack .mod) ++ [((partFields k.payload).1, k.payload)] }).mcOn))
    (hf : form = treeForm g sh k (held.map fun _ => sh.pieces)) :
    (form = 1 → v = u.mcDeny k port 5) ∧ (form = 2 → v = (u.malformed .mod port).mcDeny k port 5) ∧
    (form = 0 → g.place k.cseq ≠ cDone → v = u.notPlaced k port (g.place k.cseq)) ∧
    (form = 0 → g.place k.cseq = cDone → v = (if u.reg .mod 0x500001 = 1 then
        u.toRack k.group { k with src := u.node .mod } k.dstRack (u.treeOf k.group g k.cctx k.cseq sh k.piece).2
      else
        match (u.openSlot k.group k.cseq k.cctx).seqSlot k.group k.cseq with
        | none => u.openSlot k.group k.cseq k.cctx
        | some x =>
          if (x.piece k.piece).treeDone then (u.openSlot k.group k.cseq k.cctx).respond .mod k port cDone [] 0
          else if Piece.treeOnly sh (partFields k.payload).1 ((u.openSlot k.group k.cseq k.cctx).rack .mod) then
            (((u.openSlot k.group k.cseq k.cctx).respond .mod k port cDone [] 0).modPiece k.group k.cseq k.piece fun p => { p with treeDone := true, done := true }).mcOn
          else
            if ((x.piece k.piece).partials.filter fun t => t.1 != 2 ^ (u.openSlot k.group k.cseq k.cctx).rack .mod).any fun t => partsMeet t.2 k.payload then
              (u.openSlot k.group k.cseq k.cctx).respond .mod k port cDone [] 0
            else (((u.openSlot k.group k.cseq k.cctx).respond .mod k port cDone [] 0).modPiece k.group k.cseq k.piece fun p => { p with
              partials := ((x.piece k.piece).partials.filter fun t => t.1 != 2 ^ (u.openSlot k.group k.cseq k.cctx).rack .mod) ++ [((partFields k.payload).1, k.payload)] }).mcOn)) := by
  subst hv
  refine ⟨fun h => ?_, fun h => ?_, fun h hp => ?_, fun h hp => ?_⟩
  · rw [← hf, h]; rfl
  · rw [← hf, h]; rfl
  · rw [← hf, h]; exact if_pos hp
  · rw [← hf, h]; exact if_neg (by simp [hp])

theorem cells_taken {n c : Nat} {s v : State} {o : Option State} (h : n ≤ c ∧ v = s ∨ c < n ∧ o = some v) : (if n ≤ c then some s else o) = some v := by
  rcases h with ⟨a, b⟩ | ⟨a, b⟩
  · rw [if_pos a, b]
  · rw [if_neg (by omega), b]

end Sys2Proof.Machine
end

