-- ==== Sys2Proof/WellFormed.lean ====
section
/-! DEFINITION. Well-formed commands: every operand lies within the width or the range that the spec gives it. A packet or a
message that breaks the spec's rules for its form is still a well-formed command: refusing it is the receiver's work. -/

namespace Sys2Proof

/-! ### Numbers and bytes -/

/-- A number below its bound. -/
def below (n v : Nat) : Bool := decide (v < n)

/-- Numbers that all lie below a bound. -/
def allBelow (n : Nat) (l : List Nat) : Bool := l.all fun v => below n v

/-- The bytes of a value or of a transfer: no BLOB is longer than 64 MiB (R325). -/
def bytesOk (l : List Byte) : Bool := decide (l.length ≤ 67108864)

/-! ### What commands carry -/

/-- R328: a session or an agent within its width. -/
def Ctx.wf (c : Ctx) : Bool :=
  match c with
  | .smbus => true
  | .session i => below (2 ^ 32) i
  | .agent i => below 4096 i

/-- R330: 16 Host partitions, and 0xFF for none. -/
def Access.wf (a : Access) : Bool := (below 16 a.partition || a.partition == 0xFF) && below 65536 a.job && a.ctx.wf

/-- R73, R162: the fields of a packet below their widths, in either layout, and at most 4,096 bytes of payload. -/
def Packet.wf (p : Packet) : Bool :=
  below 64 p.typ && below 16 p.plane && below 16 p.code && below 65536 p.job && below 1024 p.src && below 1024 p.dst &&
  below 16 p.srcRack && below 16 p.dstRack && below (2 ^ 32) p.seq && below (2 ^ 46) p.off && below 8192 p.len &&
  below 256 p.epoch && below 4 p.interval && below 65536 p.pred && below 32 p.aop && below 16 p.fmt && below (2 ^ 14) p.group &&
  below (2 ^ 32) p.cseq && below 8 p.phase && below 4 p.tree && below 4 p.cctx && below (2 ^ 20) p.piece &&
  below (2 ^ 32) p.size && decide (p.payload.length ≤ 4096)

/-- R101: the fields of an ERI message below their widths, and at most 4,096 bytes of payload or body. -/
def Eri.wf (m : Eri) : Bool :=
  below 64 m.kind && below 4096 m.agent && below 16384 m.tag && below 65536 m.job && below 16 m.code && below 4 m.rel &&
  below 4 m.acq && below 8192 m.len && below 32 m.aop && below 16 m.fmt && below (2 ^ 56) m.addr && below (2 ^ 56) m.aux &&
  below (2 ^ 64) m.value && decide (m.body.length ≤ 4096)

/-- R233: a block: 2 bits of sync header and 256 of payload. -/
def Block.wf (b : Block) : Bool := below 4 b.sync && below (2 ^ 256) b.payload

/-- R232 to R236: what the lanes of a port bring: lanes 0 to 7, and at most the 544 symbols of a codeword wrong. -/
def RawFrame.wf (f : RawFrame) : Bool :=
  (f.blocks.all fun b => below 8 b.lane && b.block.wf) && f.errs.all fun e => below 8 e.1 && below 545 e.2.2

/-- R246: a marker on a lane. -/
def MarkRx.wf (m : MarkRx) : Bool := below 8 m.lane && below (2 ^ 256) m.payload && below 256 m.bip

/-- R255: a character holds a byte. -/
def TlChar.wf : TlChar → Bool
  | .k n | .d n => below 256 n
  | .violation => true

/-- R247: the fields of a Capability block. -/
def Capability.wf (c : Capability) : Bool :=
  below 256 c.linkRev && below 4 c.partKind && below 16 c.pod && below 16 c.rack && below 16 c.plane && below 256 c.slot &&
  below 1024 c.node && below 256 c.port && below 4 c.role && below 8 c.widths && below 4 c.width && below 2 c.clocking

/-- R251: the fields of a Width change block. -/
def WidthBlock.wf (b : WidthBlock) : Bool :=
  below 256 b.proposed && below 256 b.agreed && below 4 b.reason && below 65536 b.switchAfter

/-- R286: the fields of a Verdict message. -/
def VMsg.wf (v : VMsg) : Bool :=
  below 16 v.kind && below 16 v.vkind && below 1024 v.origin && below 1024 v.subjNode && below 16 v.subjPlane &&
  below 256 v.reason && below 65536 v.voteMask && below (2 ^ 32) v.number && below (2 ^ 64) v.time && below (2 ^ 64) v.mac

/-- R305: the fields of a bundle header and its images. -/
def BundleInfo.wf (b : BundleInfo) : Bool :=
  below 256 b.format && below 256 b.partKind && below (2 ^ 32) b.version && below 65536 b.silMin && below 65536 b.silMax &&
  b.images.all fun i => below 256 i.kind

/-- R307: the fields of a metrology image, where there is one. -/
def imgOk (i : Option MetroImage) : Bool :=
  match i with
  | some i => below 65536 i.iface && below (2 ^ 32) i.version
  | none => true

/-- R332, R333: the fields of a protocol message. A value is at most what a UDP datagram carries; one above the 1,024 bytes of
R332 is a message that the module refuses, so it is well formed here. -/
def PMsg.wf (m : PMsg) : Bool :=
  below 4 m.port && below (2 ^ 128) m.source && below 256 m.version && below 256 m.op && below (2 ^ 32) m.session && below (2 ^ 32) m.seq &&
  below (2 ^ 24) m.key && below (2 ^ 32) m.segOff && below 256 m.credSlot && decide (m.value.length ≤ 65507) &&
  m.auth.length == 64

/-- R384: the sequence of a metrology message. -/
def MeterHdr.wf (h : MeterHdr) : Bool :=
  below 256 h.version && below 256 h.kind && below 65536 h.len && below (2 ^ 32) h.seq && below (2 ^ 64) h.reserved

/-- R349: entry tests 0 to 5, on the targets that the module has. -/
def testsOk (l : List TestResult) : Bool := l.all fun t => below 6 t.test && allBelow 512 t.failed

/-! ### Commands -/

/-- A well-formed command. Identifiers of the model's own tables (walks, requests, collectives, tiles of copies) have no width. -/
def Instr.wf : Instr → Bool
  | .directoryWrite _ a key val => a.wf && below (2 ^ 24) key && bytesOk val
  | .managementCorePairStop pair => below 4 pair
  | .tableWalkComplete _ => true
  | .slotJobIdWrite a slot val => a.wf && below 64 slot && bytesOk val
  | .invalidateGeneration a slot val => a.wf && below 64 slot && bytesOk val
  | .invalidationComplete slot => below 64 slot
  | .resumeRetry a val => a.wf && bytesOk val
  | .resumeFail a val => a.wf && bytesOk val
  | .faultTimeout rec => below 256 rec
  | .faultWalkComplete rec => below 256 rec
  | .admissionEntryWrite a val => a.wf && bytesOk val
  | .commonsAdmissionEntryWrite a val => a.wf && bytesOk val
  | .eriLoad link m ecc => below 8 link && m.wf && ecc.all (below 3)
  | .eriStore link m => below 8 link && m.wf
  | .eriAtomic link m => below 8 link && m.wf
  | .eriFence link m => below 8 link && m.wf
  | .fenceComplete _ => true
  | .eriCacheInvalidate link m => below 8 link && m.wf
  | .eriDirectoryRequest link m => below 8 link && m.wf
  | .eriCopy link m => below 8 link && m.wf
  | .listArm link m => below 8 link && m.wf
  | .listCancel link m => below 8 link && m.wf
  | .collectiveStart link m => below 8 link && m.wf
  | .memoryData link m => below 8 link && m.wf
  | .memoryAck link m => below 8 link && m.wf
  | .memoryTimeout mtag => below 16384 mtag
  | .initLink link m => below 8 link && m.wf
  | .credit link m => below 8 link && m.wf
  | .requestIssue _ _ ecc => ecc.all (below 3)
  | .responseReceive _ pkt _ => pkt.wf
  | .fabricRequestReceive _ pkt port _ err => pkt.wf && below 256 port && below 4 err
  | .flaggedStoreResolve _ src seq => below 16384 src && below (2 ^ 32) seq
  | .flagHoldTimeout _ src seq => below 16384 src && below (2 ^ 32) seq
  | .fetchAdd _ err => below 4 err
  | .fetchMin _ err => below 4 err
  | .fetchMax _ err => below 4 err
  | .compareSwap _ err => below 4 err
  | .swap _ err => below 4 err
  | .allocate _ err => below 4 err
  | .free _ err => below 4 err
  | .referenceAdd _ err => below 4 err
  | .referenceRelease _ err => below 4 err
  | .retryResend _ _ => true
  | .gapTimerExpiry _ src => below 16384 src
  | .gapNotice _ pkt _ => pkt.wf
  | .resyncNotice _ pkt _ => pkt.wf
  | .retransmitTimeout _ _ => true
  | .requestLifetimeExpiry _ _ => true
  | .slotRevoke a slot val => a.wf && below 64 slot && bytesOk val
  | .slotDrained slot => below 64 slot
  | .ucieLinkLost link => below 8 link
  | .copyTileIssue engine => below 32 engine
  | .workStealing engine => below 32 engine
  | .copyTileComplete _ => true
  | .listReadComplete slot => below 64 slot
  | .listActivation slot => below 64 slot
  | .throttleTemperature _ => true
  | .endpointThermalTrip _ => true
  | .supplyOutOfRange supply => below 256 supply
  | .endpointResetRelease _ => true
  | .bundleLoad a b => a.wf && b.wf
  | .groupEntryWrite a val => a.wf && bytesOk val
  | .memberTableWrite a val => a.wf && bytesOk val
  | .contextEntryWrite a val => a.wf && bytesOk val
  | .programBlockWrite a val => a.wf && bytesOk val
  | .probe pkt port _ => pkt.wf && below 256 port
  | .contribution pkt port _ => pkt.wf && below 256 port
  | .arrive pkt port _ => pkt.wf && below 256 port
  | .result pkt _ => pkt.wf
  | .release pkt _ => pkt.wf
  | .rackPartial pkt port _ => pkt.wf && below 256 port
  | .treeResult pkt port _ => pkt.wf && below 256 port
  | .sequenceSlotFinish group slot => below 16384 group && below 4 slot
  | .slotTimeout group slot => below 16384 group && below 4 slot
  | .treeResend group slot piece => below 16384 group && below 4 slot && below (2 ^ 20) piece
  | .holdResend _ => true
  | .resultResend _ => true
  | .collectiveSendStart _ => true
  | .collectiveTimeout _ => true
  | .residueDelivery port => below 256 port
  | .latenessRecordClear a val => a.wf && bytesOk val
  | .spillRecordReturn group slot piece _ => below 16384 group && below 4 slot && below (2 ^ 20) piece
  | .spillReserveWrite a val => a.wf && bytesOk val
  | .regionDescriptorWrite a val => a.wf && bytesOk val
  | .regionInitComplete region => below 256 region
  | .regionScrubComplete region => below 256 region
  | .handover a val => a.wf && bytesOk val
  | .clearStale a val => a.wf && bytesOk val
  | .retentionLimit region => below 256 region
  | .stackFailed stack _ => below 24 stack
  | .scrubWindow corrected failing => allBelow (2 ^ 34) corrected && allBelow (2 ^ 34) failing
  | .scrubWindowEnd => true
  | .checkpointSlot => true
  | .restoreCommand a val => a.wf && bytesOk val
  | .restorePushComplete => true
  | .checkpointRestore pkt _ => pkt.wf
  | .rdmaWrite qp rkey va data err _ => below 1024 qp && below (2 ^ 32) rkey && below (2 ^ 64) va && bytesOk data && below 4 err
  | .rdmaRead qp rkey va len err _ => below 1024 qp && below (2 ^ 32) rkey && below (2 ^ 64) va && below (2 ^ 31) len && below 4 err
  | .atomicFetchAndAdd qp rkey va addend err _ => below 1024 qp && below (2 ^ 32) rkey && below (2 ^ 64) va && below (2 ^ 64) addend && below 4 err
  | .atomicCompareAndSwap qp rkey va cmp new err _ => below 1024 qp && below (2 ^ 32) rkey && below (2 ^ 64) va && below (2 ^ 64) cmp && below (2 ^ 64) new && below 4 err
  | .send qp m _ => below 1024 qp && m.wf
  | .frameReceive _ port fr => below 256 port && fr.wf
  | .meshHeaderArrival tile plane lost => below 64 tile && below 16 plane && allBelow 5 lost
  | .meshInject tile => below 64 tile
  | .spill tile => below 64 tile
  | .readBack tile _ => below 64 tile
  | .portTransmit _ port => below 256 port
  | .commonsMemoryResponse _ => true
  | .sliceEntryWrite a val => a.wf && bytesOk val
  | .sliceRevoke a val => a.wf && bytesOk val
  | .tileSweep tile job => below 64 tile && below 65536 job
  | .sliceDrained job => below 65536 job
  | .epochAudit _ => true
  | .ack _ port seq => below 256 port && below 65536 seq
  | .nak _ port seq => below 256 port && below 65536 seq
  | .replayTimer _ port => below 256 port
  | .trainingFrame _ lane word crc _ prbsErrors =>
    below 1024 lane && below (2 ^ 64) word && below 65536 crc && below (2 ^ 26 + 1) prbsErrors
  | .detectBurst _ lane => below 1024 lane
  | .countdownEnd _ lane => below 1024 lane
  | .blockLock _ lane headers => below 1024 lane && allBelow 4 headers
  | .alignmentMarker _ port marks => below 256 port && marks.all MarkRx.wf
  | .capabilityBlock _ port cap => below 256 port && cap.wf
  | .trainingTimeout _ port => below 256 port
  | .retrainBackoffEnd _ port => below 256 port
  | .widthChange _ port b => below 256 port && b.wf
  | .widthSwitch _ port _ count => below 256 port && below 65536 count
  | .laneRestore _ lane => below 1024 lane
  | .laneFailure _ lane codewords _ => below 1024 lane && below 65536 codewords
  | .portDown _ port cause => below 256 port && below 4 cause
  | .portRoleWrite a val => a.wf && bytesOk val
  | .eyeScanStart _ a val => a.wf && bytesOk val
  | .eyeScanComplete _ lane grid => below 1024 lane && grid.length == 1024
  | .tick _ lane _ => below 2 lane
  | .timeSet _ lane value _ => below 2 lane && below (2 ^ 64) value
  | .laneSilent _ lane => below 2 lane
  | .holdoverLimit _ => true
  | .rackTimeStep _ energy => below (2 ^ 64) energy
  | .timingLaneMessage _ lane chars => below 2 lane && chars.all TlChar.wf
  | .abort _ lane => below 2 lane
  | .smbDirectoryRead _ key => below (2 ^ 24) key
  | .smbDirectoryWrite _ key val pec => below (2 ^ 24) key && bytesOk val && below 256 pec
  | .smbBlobSegmentWrite _ key off data pec =>
    below (2 ^ 24) key && below (2 ^ 32) off && bytesOk data && below 256 pec
  | .smbBlobSegmentRead _ key off count => below (2 ^ 24) key && below (2 ^ 32) off && below 65536 count
  | .smbStatusRead _ => true
  | .alignmentRequest a val => a.wf && bytesOk val
  | .alignmentStart => true
  | .alignPulse unlocked => allBelow 100 unlocked
  | .alignmentCheck bad => allBelow 100 bad
  | .alignmentLost cause => below 256 cause
  | .mownEntryWrite _ a val => a.wf && bytesOk val
  | .mownCompileComplete entry => below 1024 entry
  | .modeSwitch _ => true
  | .mownStart entry => below 1024 entry
  | .mownPieceSend _ piece => below (2 ^ 20) piece
  | .mownPieceSlot entry piece => below 1024 entry && below (2 ^ 20) piece
  | .mownFallback entry cause => below 1024 entry && below 256 cause
  | .heartbeat _ => true
  | .suspicion node => below 528 node
  | .voteRepeat node => below 528 node
  | .verdictMessage _ v _ => v.wf
  | .verdictIssue kind node plane _ => below 16 kind && below 528 node && below 16 plane
  | .verdictApply _ number => below (2 ^ 64) number
  | .portFailed node => below 528 node
  | .portRestored node => below 528 node
  | .quorumLossFence => true
  | .tileFault tile => below 64 tile
  | .verdictEngineWatchdog => true
  | .canary engine exact ordered => below 512 engine && below (2 ^ 64) exact && below (2 ^ 64) ordered
  | .corruptionReport a val failing => a.wf && bytesOk val && allBelow 512 failing
  | .suspectEvaluation => true
  | .clearSuspect a val => a.wf && bytesOk val
  | .windowEntryWrite _ a val => a.wf && bytesOk val
  | .windowStart _ window => below 16 window
  | .windowEnd _ window _ => below 16 window
  | .rebindRequest a val => a.wf && bytesOk val
  | .planeRestoreRequest a val => a.wf && bytesOk val
  | .moduleResetRelease _ img => imgOk img
  | .bundleCommit a val b => a.wf && bytesOk val && b.wf
  | .attestationNonce _ a val => a.wf && bytesOk val
  | .attestationReportReady _ => true
  | .keyInstallation _ a val _ => a.wf && bytesOk val
  | .keyActivation _ job => below 65536 job
  | .keyPeriod _ => true
  | .jobRetire _ a val => a.wf && bytesOk val
  | .retireTime _ job => below 65536 job
  | .removalScrub _ job => below 65536 job
  | .removalSettle _ job => below 65536 job
  | .openMsg m => m.wf
  | .close m => m.wf
  | .read m => m.wf
  | .write m => m.wf
  | .segmentRead m => m.wf
  | .segmentWrite m => m.wf
  | .commitStaged m => m.wf
  | .sessionIdleTimeout session => below (2 ^ 32) session
  | .blobAssemblyExpiry _ ctx key => ctx.wf && below (2 ^ 24) key
  | .credentialInstallation a val _ => a.wf && bytesOk val
  | .acknowledgedSequenceWrite _ a val => a.wf && bytesOk val
  | .inEnAssert => true
  | .inEnDeassert => true
  | .softStartComplete _ => true
  | .inputVoltageTrip mV => below (2 ^ 32) mV
  | .breakerTrip mA => below (2 ^ 32) mA
  | .breakerRetry => true
  | .requestRest a => a.wf
  | .requestRun a => a.wf
  | .requestFallow a => a.wf
  | .entryTestsComplete results => testsOk results
  | .wake address => below 128 address
  | .fallowBrownOut mA => below (2 ^ 32) mA
  | .capStep a val => a.wf && bytesOk val
  | .capStepEffective => true
  | .capRefresh a val => a.wf && bytesOk val
  | .powerControlTick watts mV mA => below (2 ^ 32) watts && below (2 ^ 32) mV && below (2 ^ 32) mA
  | .ladderLevelEffective => true
  | .leaseExpiry => true
  | .holdTimeExpiry => true
  | .thermalReading _ _ _ => true
  | .thermalTrip _ _ _ => true
  | .crystalStable _ => true
  | .crystalTimeout _ => true
  | .oscillatorRetrim _ kHz => below (2 ^ 32) kHz
  | .clockMonitorWindow _ domain flags kHz => below 100 domain && below 256 flags && below (2 ^ 32) kHz
  | .pllCoast _ domain => below 100 domain
  | .pllRelock _ domain _ => below 100 domain
  | .muxSwitchComplete _ domain => below 100 domain
  | .muxWatchdog _ domain _ => below 100 domain
  | .time h => h.wf
  | .usage h => h.wf
  | .commonsCharge h => h.wf
  | .acknowledge h index => h.wf && below (2 ^ 64) index
  | .mirrorWrite h key val => h.wf && below (2 ^ 24) key && bytesOk val
  | .event h code detail => h.wf && below 65536 code && below (2 ^ 112) detail
  | .logRead h first count => h.wf && below (2 ^ 64) first && below 65536 count
  | .acknowledgedRecordWrite a val => a.wf && bytesOk val
  | .intervalClose energy => below (2 ^ 64) energy
  | .sealEvent cause detail => below 16 cause && below (2 ^ 112) detail
  | .meterStopped _ => true
  | .counterSnapshot _ => true
  | .chainMaskEffective _ group inst => below 256 group && below 65536 inst
  | .groupIndexWrite _ a val => a.wf && bytesOk val
  | .ucieLinkUp link => below 8 link
  | .rootOfTrustCoreFault => true
  | .dieCrossingDomainFault domain => below 100 domain
  | .hostLinkStateChange port state => below 4 port && below 2 state
  | .arpNeighbourDiscoveryIcmpEcho port kind _ => below 4 port && below 3 kind
  | .softStartPermitted mV => below (2 ^ 32) mV

end Sys2Proof
end

