-- ==== Sys2Proof/Tests/Slice0.lean ====
section
/-! SUPPORT. Smoke tests of well-formedness (for each check of WellFormed.lean, a term that breaks it and that it
refuses), and for every obligation with hypotheses a theorem test_hyps_<Name> with a concrete state and operands for
each of its clauses that meet all the hypotheses of that clause, and the worked examples of the spec. -/

namespace Sys2Proof.Tests

set_option Elab.async false
set_option linter.unusedVariables false

/-- Every command of the list is ill formed. -/
def refuses (l : List Instr) : Bool := l.all fun i => !i.wf

def okAccess : Access := ⟨.udp, .operator, 0xFF, 0, .smbus⟩
def okBlock : Block := ⟨1, 0⟩
def badBlock : Block := ⟨4, 0⟩
def okFrame : RawFrame := ⟨[⟨0, 0, okBlock⟩], [(0, 0, 0)]⟩
def badFrame : RawFrame := ⟨[⟨8, 0, okBlock⟩], []⟩
def okMark : MarkRx := ⟨0, 0, 0, 0⟩
def okCapability : Capability := ⟨0, 0, false, 0, 0, 0, 0, 0, 0, 0, 0, 0, 0, false, false⟩
def okWidth : WidthBlock := ⟨0, 0, false, 0, 0⟩
def okVerdict : VMsg := ⟨0, 0, 0, 0, 0, 0, false, 0, 0, 0, false, 0⟩
def okBundle : BundleInfo := ⟨false, 0, true, true, 0, 0, 0, 0, []⟩
def okMessage : PMsg := ⟨0, 0, 0, 0, false, false, 0, 0, 0, 0, 0, [], List.replicate 64 0#8⟩
def okHeader : MeterHdr := ⟨0, 0, 0, 0, 0⟩

def badAccess : Access := { okAccess with partition := 16 }
def badPacket : Packet := { Packet.zero with typ := 64 }
def badEri : Eri := { Eri.zero with kind := 64 }
def badCapability : Capability := { okCapability with port := 256 }
def badWidth : WidthBlock := { okWidth with reason := 4 }
def badVerdict : VMsg := { okVerdict with kind := 16 }
def badBundle : BundleInfo := { okBundle with format := 256 }
def badMessage : PMsg := { okMessage with version := 256 }
def badHeader : MeterHdr := ⟨0, 0, 0, 2 ^ 32, 0⟩
def badTest : TestResult := ⟨6, []⟩
def badImage : MetroImage := ⟨true, 65536, 0⟩

/-- One byte more than the longest BLOB (R325: 64 MiB). -/
def bigVal : List Byte := List.replicate 67108865 0#8

theorem bigVal_length : bigVal.length = 67108865 := List.length_replicate

theorem bigVal_bad : bytesOk bigVal = false := by
  simp only [bytesOk, bigVal_length, Nat.reduceLeDiff, decide_false]

/-- The terms that the tests below break in one field are well formed. -/
theorem test_plain_terms_well_formed :
    (okAccess.wf && Packet.zero.wf && Eri.zero.wf && okFrame.wf && okMark.wf && okCapability.wf && okWidth.wf &&
      okVerdict.wf && okBundle.wf && okMessage.wf && okHeader.wf) = true := by
  decide

theorem test_accesses_refused :
    ([{ okAccess with partition := 16 }, { okAccess with job := 65536 }, { okAccess with ctx := .session 4294967296 },
       { okAccess with ctx := .agent 4096 }] : List Access).all (fun x => !x.wf) = true := by
  decide

theorem test_packets_refused :
    ([{ Packet.zero with typ := 64 }, { Packet.zero with plane := 16 }, { Packet.zero with code := 16 },
       { Packet.zero with job := 65536 }, { Packet.zero with src := 1024 }, { Packet.zero with dst := 1024 },
       { Packet.zero with srcRack := 16 }, { Packet.zero with dstRack := 16 }, { Packet.zero with seq := 2 ^ 32 },
       { Packet.zero with off := 2 ^ 46 }, { Packet.zero with len := 8192 }, { Packet.zero with epoch := 256 },
       { Packet.zero with interval := 4 }, { Packet.zero with pred := 65536 }, { Packet.zero with aop := 32 },
       { Packet.zero with fmt := 16 }, { Packet.zero with group := 16384 }, { Packet.zero with cseq := 2 ^ 32 },
       { Packet.zero with phase := 8 }, { Packet.zero with tree := 4 }, { Packet.zero with cctx := 4 },
       { Packet.zero with piece := 2 ^ 20 }, { Packet.zero with size := 2 ^ 32 }] : List Packet).all (fun x => !x.wf) = true := by
  decide

theorem test_messages_refused :
    ([{ Eri.zero with kind := 64 }, { Eri.zero with agent := 4096 }, { Eri.zero with tag := 16384 },
       { Eri.zero with job := 65536 }, { Eri.zero with code := 16 }, { Eri.zero with rel := 4 },
       { Eri.zero with acq := 4 }, { Eri.zero with len := 8192 }, { Eri.zero with aop := 32 },
       { Eri.zero with fmt := 16 }, { Eri.zero with addr := 2 ^ 56 }, { Eri.zero with aux := 2 ^ 56 },
       { Eri.zero with value := 2 ^ 64 }] : List Eri).all (fun x => !x.wf) = true := by
  decide

theorem test_blocks_refused :
    ([{ okBlock with sync := 4 }, { okBlock with payload := 2 ^ 256 }] : List Block).all (fun x => !x.wf) = true := by
  decide

theorem test_frames_refused :
    ([{ okFrame with blocks := [⟨8, 0, okBlock⟩] }, { okFrame with blocks := [⟨0, 0, badBlock⟩] },
       { okFrame with errs := [(8, 0, 0)] }, { okFrame with errs := [(0, 0, 545)] }] : List RawFrame).all (fun x => !x.wf) = true := by
  decide

theorem test_markers_refused :
    ([{ okMark with lane := 8 }, { okMark with payload := 2 ^ 256 }, { okMark with bip := 256 }] : List MarkRx).all (fun x => !x.wf) = true := by
  decide

theorem test_capabilities_refused :
    ([{ okCapability with linkRev := 256 }, { okCapability with partKind := 4 }, { okCapability with pod := 16 },
       { okCapability with rack := 16 }, { okCapability with plane := 16 }, { okCapability with slot := 256 },
       { okCapability with node := 1024 }, { okCapability with port := 256 }, { okCapability with role := 4 },
       { okCapability with widths := 8 }, { okCapability with width := 4 }, { okCapability with clocking := 2 }] : List Capability).all (fun x => !x.wf) = true := by
  decide

theorem test_width_blocks_refused :
    ([{ okWidth with proposed := 256 }, { okWidth with agreed := 256 }, { okWidth with reason := 4 },
       { okWidth with switchAfter := 65536 }] : List WidthBlock).all (fun x => !x.wf) = true := by
  decide

theorem test_verdict_messages_refused :
    ([{ okVerdict with kind := 16 }, { okVerdict with vkind := 16 }, { okVerdict with origin := 1024 },
       { okVerdict with subjNode := 1024 }, { okVerdict with subjPlane := 16 }, { okVerdict with reason := 256 },
       { okVerdict with voteMask := 65536 }, { okVerdict with number := 2 ^ 32 }, { okVerdict with time := 2 ^ 64 },
       { okVerdict with mac := 2 ^ 64 }] : List VMsg).all (fun x => !x.wf) = true := by
  decide

theorem test_bundles_refused :
    ([{ okBundle with format := 256 }, { okBundle with partKind := 256 }, { okBundle with version := 2 ^ 32 },
       { okBundle with silMin := 65536 }, { okBundle with silMax := 65536 }, { okBundle with images := [⟨256, true⟩] }] : List BundleInfo).all (fun x => !x.wf) = true := by
  decide

theorem test_meter_headers_refused :
    ([{ okHeader with version := 256 }, { okHeader with kind := 256 }, { okHeader with len := 65536 },
       { okHeader with seq := 2 ^ 32 }, { okHeader with reserved := 2 ^ 64 }] : List MeterHdr).all (fun x => !x.wf) = true := by
  decide

theorem test_protocol_messages_refused :
    ([{ okMessage with port := 4 }, { okMessage with source := 2 ^ 128 }, { okMessage with version := 256 },
       { okMessage with op := 256 }, { okMessage with session := 2 ^ 32 }, { okMessage with seq := 2 ^ 32 },
       { okMessage with key := 2 ^ 24 }, { okMessage with segOff := 2 ^ 32 }, { okMessage with credSlot := 256 },
       { okMessage with auth := [] }] : List PMsg).all (fun x => !x.wf) = true := by
  decide

theorem test_images_refused : (imgOk (some badImage) || imgOk (some ⟨true, 0, 2 ^ 32⟩)) = false := by
  decide

theorem test_entry_tests_refused : (testsOk [badTest] || testsOk [⟨0, [512]⟩]) = false := by
  decide

/-- A payload or a body of 4,097 bytes. -/
theorem test_long_payloads_refused :
    Packet.wf { Packet.zero with payload := List.replicate 4097 0#8 } = false ∧
      Eri.wf { Eri.zero with body := List.replicate 4097 0#8 } = false := by
  simp only [Packet.wf, Eri.wf, List.length_replicate, Nat.reduceLeDiff, decide_false, Bool.and_false, and_self]

/-- A protocol message whose value is longer than a UDP datagram can be. -/
theorem test_long_protocol_value_refused : PMsg.wf { okMessage with value := List.replicate 65508 0#8 } = false := by
  simp only [PMsg.wf, List.length_replicate, Nat.reduceLeDiff, decide_false, Bool.and_false, Bool.false_and]

/-- Commands with one operand out of its range, piece 1 of the table: each is ill formed. -/
theorem test_commands_refused_1 :
    refuses
      [.directoryWrite .ep badAccess 0 [], .directoryWrite .ep okAccess (2 ^ 24) [], .managementCorePairStop 4,
       .slotJobIdWrite badAccess 0 [], .slotJobIdWrite okAccess 64 [], .invalidateGeneration badAccess 0 [],
       .invalidateGeneration okAccess 64 [], .invalidationComplete 64, .resumeRetry badAccess [],
       .resumeFail badAccess [], .faultTimeout 256, .faultWalkComplete 256, .admissionEntryWrite badAccess [],
       .commonsAdmissionEntryWrite badAccess [], .eriLoad 8 Eri.zero [], .eriLoad 0 badEri [], .eriLoad 0 Eri.zero [3],
       .eriStore 8 Eri.zero, .eriStore 0 badEri, .eriAtomic 8 Eri.zero, .eriAtomic 0 badEri, .eriFence 8 Eri.zero,
       .eriFence 0 badEri, .eriCacheInvalidate 8 Eri.zero, .eriCacheInvalidate 0 badEri,
       .eriDirectoryRequest 8 Eri.zero, .eriDirectoryRequest 0 badEri, .eriCopy 8 Eri.zero, .eriCopy 0 badEri,
       .listArm 8 Eri.zero, .listArm 0 badEri, .listCancel 8 Eri.zero, .listCancel 0 badEri,
       .collectiveStart 8 Eri.zero, .collectiveStart 0 badEri, .memoryData 8 Eri.zero, .memoryData 0 badEri,
       .memoryAck 8 Eri.zero, .memoryAck 0 badEri, .memoryTimeout 16384] = true := by
  decide

/-- Commands with one operand out of its range, piece 2 of the table: each is ill formed. -/
theorem test_commands_refused_2 :
    refuses
      [.initLink 8 Eri.zero, .initLink 0 badEri, .credit 8 Eri.zero, .credit 0 badEri, .requestIssue .ep 0 [3],
       .responseReceive .ep badPacket false, .fabricRequestReceive .ep badPacket 0 false 0,
       .fabricRequestReceive .ep Packet.zero 256 false 0, .fabricRequestReceive .ep Packet.zero 0 false 4,
       .flaggedStoreResolve .ep 16384 0, .flaggedStoreResolve .ep 0 (2 ^ 32), .flagHoldTimeout .ep 16384 0,
       .flagHoldTimeout .ep 0 (2 ^ 32), .fetchAdd 0 4, .fetchMin 0 4, .fetchMax 0 4, .compareSwap 0 4, .swap 0 4,
       .allocate 0 4, .free 0 4, .referenceAdd 0 4, .referenceRelease 0 4, .gapTimerExpiry .ep 16384,
       .gapNotice .ep badPacket false, .resyncNotice .ep badPacket false, .slotRevoke badAccess 0 [],
       .slotRevoke okAccess 64 [], .slotDrained 64, .ucieLinkLost 8, .copyTileIssue 32, .workStealing 32,
       .listReadComplete 64, .listActivation 64, .supplyOutOfRange 256, .bundleLoad badAccess okBundle,
       .bundleLoad okAccess badBundle, .groupEntryWrite badAccess [], .memberTableWrite badAccess [],
       .contextEntryWrite badAccess [], .programBlockWrite badAccess []] = true := by
  decide

/-- Commands with one operand out of its range, piece 3 of the table: each is ill formed. -/
theorem test_commands_refused_3 :
    refuses
      [.probe badPacket 0 false, .probe Packet.zero 256 false, .contribution badPacket 0 false,
       .contribution Packet.zero 256 false, .arrive badPacket 0 false, .arrive Packet.zero 256 false,
       .result badPacket false, .release badPacket false, .rackPartial badPacket 0 false,
       .rackPartial Packet.zero 256 false, .treeResult badPacket 0 false, .treeResult Packet.zero 256 false,
       .sequenceSlotFinish 16384 0, .sequenceSlotFinish 0 4, .slotTimeout 16384 0, .slotTimeout 0 4,
       .treeResend 16384 0 0, .treeResend 0 4 0, .treeResend 0 0 (2 ^ 20), .residueDelivery 256,
       .latenessRecordClear badAccess [], .spillRecordReturn 16384 0 0 false, .spillRecordReturn 0 4 0 false,
       .spillRecordReturn 0 0 (2 ^ 20) false, .spillReserveWrite badAccess [], .regionDescriptorWrite badAccess [],
       .regionInitComplete 256, .regionScrubComplete 256, .handover badAccess [], .clearStale badAccess [],
       .retentionLimit 256, .stackFailed 24 false, .scrubWindow [2 ^ 34] [], .scrubWindow [] [2 ^ 34],
       .restoreCommand badAccess [], .checkpointRestore badPacket false, .rdmaWrite 1024 0 0 [] 0 false,
       .rdmaWrite 0 (2 ^ 32) 0 [] 0 false, .rdmaWrite 0 0 (2 ^ 64) [] 0 false, .rdmaWrite 0 0 0 [] 4 false] = true := by
  decide

/-- Commands with one operand out of its range, piece 4 of the table: each is ill formed. -/
theorem test_commands_refused_4 :
    refuses
      [.rdmaRead 1024 0 0 0 0 false, .rdmaRead 0 (2 ^ 32) 0 0 0 false, .rdmaRead 0 0 (2 ^ 64) 0 0 false,
       .rdmaRead 0 0 0 (2 ^ 31) 0 false, .rdmaRead 0 0 0 0 4 false, .atomicFetchAndAdd 1024 0 0 0 0 false,
       .atomicFetchAndAdd 0 (2 ^ 32) 0 0 0 false, .atomicFetchAndAdd 0 0 (2 ^ 64) 0 0 false,
       .atomicFetchAndAdd 0 0 0 (2 ^ 64) 0 false, .atomicFetchAndAdd 0 0 0 0 4 false,
       .atomicCompareAndSwap 1024 0 0 0 0 0 false, .atomicCompareAndSwap 0 (2 ^ 32) 0 0 0 0 false,
       .atomicCompareAndSwap 0 0 (2 ^ 64) 0 0 0 false, .atomicCompareAndSwap 0 0 0 (2 ^ 64) 0 0 false,
       .atomicCompareAndSwap 0 0 0 0 (2 ^ 64) 0 false, .atomicCompareAndSwap 0 0 0 0 0 4 false,
       .send 1024 okMessage false, .send 0 badMessage false, .frameReceive .ep 256 okFrame,
       .frameReceive .ep 0 badFrame, .meshHeaderArrival 64 0 [], .meshHeaderArrival 0 16 [],
       .meshHeaderArrival 0 0 [5], .meshInject 64, .spill 64, .readBack 64 false, .portTransmit .ep 256,
       .sliceEntryWrite badAccess [], .sliceRevoke badAccess [], .tileSweep 64 0, .tileSweep 0 65536,
       .sliceDrained 65536, .ack .ep 256 0, .ack .ep 0 65536, .nak .ep 256 0, .nak .ep 0 65536, .replayTimer .ep 256,
       .trainingFrame .ep 1024 0 0 false 0, .trainingFrame .ep 0 (2 ^ 64) 0 false 0,
       .trainingFrame .ep 0 0 65536 false 0] = true := by
  decide

/-- Commands with one operand out of its range, piece 5 of the table: each is ill formed. -/
theorem test_commands_refused_5 :
    refuses
      [.trainingFrame .ep 0 0 0 false (2 ^ 26 + 1), .detectBurst .ep 1024, .countdownEnd .ep 1024,
       .blockLock .ep 1024 [], .blockLock .ep 0 [4], .alignmentMarker .ep 256 [],
       .alignmentMarker .ep 0 [⟨8, 0, 0, 0⟩], .capabilityBlock .ep 256 okCapability,
       .capabilityBlock .ep 0 badCapability, .trainingTimeout .ep 256, .retrainBackoffEnd .ep 256,
       .widthChange .ep 256 okWidth, .widthChange .ep 0 badWidth, .widthSwitch .ep 256 false 0,
       .widthSwitch .ep 0 false 65536, .laneRestore .ep 1024, .laneFailure .ep 1024 0 false,
       .laneFailure .ep 0 65536 false, .portDown .ep 256 0, .portDown .ep 0 4, .portRoleWrite badAccess [],
       .eyeScanStart .ep badAccess [], .eyeScanComplete .ep 1024 [], .eyeScanComplete .ep 0 [], .tick .ep 2 false,
       .timeSet .ep 2 0 false, .timeSet .ep 0 (2 ^ 64) false, .laneSilent .ep 2, .rackTimeStep .ep (2 ^ 64),
       .timingLaneMessage .ep 2 [], .timingLaneMessage .ep 0 [.k 256], .abort .ep 2, .smbDirectoryRead .ep (2 ^ 24),
       .smbDirectoryWrite .ep (2 ^ 24) [] 0, .smbDirectoryWrite .ep 0 [] 256, .smbBlobSegmentWrite .ep (2 ^ 24) 0 [] 0,
       .smbBlobSegmentWrite .ep 0 (2 ^ 32) [] 0, .smbBlobSegmentWrite .ep 0 0 [] 256,
       .smbBlobSegmentRead .ep (2 ^ 24) 0 0, .smbBlobSegmentRead .ep 0 (2 ^ 32) 0] = true := by
  decide

/-- Commands with one operand out of its range, piece 6 of the table: each is ill formed. -/
theorem test_commands_refused_6 :
    refuses
      [.smbBlobSegmentRead .ep 0 0 65536, .alignmentRequest badAccess [], .alignPulse [100], .alignmentCheck [100],
       .alignmentLost 256, .mownEntryWrite .ep badAccess [], .mownCompileComplete 1024, .mownStart 1024,
       .mownPieceSend 0 (2 ^ 20), .mownPieceSlot 1024 0, .mownPieceSlot 0 (2 ^ 20), .mownFallback 1024 0,
       .mownFallback 0 256, .suspicion 528, .voteRepeat 528, .verdictMessage .ep badVerdict false,
       .verdictIssue 16 0 0 false, .verdictIssue 0 528 0 false, .verdictIssue 0 0 16 false, .verdictApply .ep (2 ^ 64),
       .portFailed 528, .portRestored 528, .tileFault 64, .canary 512 0 0, .canary 0 (2 ^ 64) 0, .canary 0 0 (2 ^ 64),
       .corruptionReport badAccess [] [], .corruptionReport okAccess [] [512], .clearSuspect badAccess [],
       .windowEntryWrite .ep badAccess [], .windowStart .ep 16, .windowEnd .ep 16 false, .rebindRequest badAccess [],
       .planeRestoreRequest badAccess [], .moduleResetRelease false (some badImage),
       .bundleCommit badAccess [] okBundle, .bundleCommit okAccess [] badBundle, .attestationNonce .ep badAccess [],
       .keyInstallation .ep badAccess [] false, .keyActivation .ep 65536] = true := by
  decide

/-- Commands with one operand out of its range, piece 7 of the table: each is ill formed. -/
theorem test_commands_refused_7 :
    refuses
      [.jobRetire .ep badAccess [], .retireTime .ep 65536, .removalScrub .ep 65536, .removalSettle .ep 65536,
       .openMsg badMessage, .close badMessage, .read badMessage, .write badMessage, .segmentRead badMessage,
       .segmentWrite badMessage, .commitStaged badMessage, .sessionIdleTimeout (2 ^ 32),
       .blobAssemblyExpiry .ep (.agent 4096) 0, .blobAssemblyExpiry .ep .smbus (2 ^ 24),
       .credentialInstallation badAccess [] false, .acknowledgedSequenceWrite .ep badAccess [],
       .inputVoltageTrip (2 ^ 32), .breakerTrip (2 ^ 32), .requestRest badAccess, .requestRun badAccess,
       .requestFallow badAccess, .entryTestsComplete [badTest], .wake 128, .fallowBrownOut (2 ^ 32),
       .capStep badAccess [], .capRefresh badAccess [], .powerControlTick (2 ^ 32) 0 0, .powerControlTick 0 (2 ^ 32) 0,
       .powerControlTick 0 0 (2 ^ 32), .oscillatorRetrim .ep (2 ^ 32), .clockMonitorWindow .ep 100 0 0,
       .clockMonitorWindow .ep 0 256 0, .clockMonitorWindow .ep 0 0 (2 ^ 32), .pllCoast .ep 100,
       .pllRelock .ep 100 false, .muxSwitchComplete .ep 100, .muxWatchdog .ep 100 false, .time badHeader,
       .usage badHeader, .commonsCharge badHeader] = true := by
  decide

/-- Commands with one operand out of its range, piece 8 of the table: each is ill formed. -/
theorem test_commands_refused_8 :
    refuses
      [.acknowledge badHeader 0, .acknowledge okHeader (2 ^ 64), .mirrorWrite badHeader 0 [],
       .mirrorWrite okHeader (2 ^ 24) [], .event badHeader 0 0, .event okHeader 65536 0, .event okHeader 0 (2 ^ 112),
       .logRead badHeader 0 0, .logRead okHeader (2 ^ 64) 0, .logRead okHeader 0 65536,
       .acknowledgedRecordWrite badAccess [], .intervalClose (2 ^ 64), .sealEvent 16 0, .sealEvent 0 (2 ^ 112),
       .chainMaskEffective .ep 256 0, .chainMaskEffective .ep 0 65536, .groupIndexWrite .ep badAccess [],
       .ucieLinkUp 8, .dieCrossingDomainFault 100, .hostLinkStateChange 4 0, .hostLinkStateChange 0 2,
       .arpNeighbourDiscoveryIcmpEcho 4 0 false, .arpNeighbourDiscoveryIcmpEcho 0 3 false,
       .softStartPermitted (2 ^ 32)] = true := by
  decide

/-- Commands whose value is longer than a BLOB may be, piece 1: each is ill formed. -/
theorem test_long_values_refused_1 :
    refuses
      [.directoryWrite .ep okAccess 0 bigVal, .slotJobIdWrite okAccess 0 bigVal,
       .invalidateGeneration okAccess 0 bigVal, .resumeRetry okAccess bigVal, .resumeFail okAccess bigVal,
       .admissionEntryWrite okAccess bigVal, .commonsAdmissionEntryWrite okAccess bigVal,
       .slotRevoke okAccess 0 bigVal, .groupEntryWrite okAccess bigVal, .memberTableWrite okAccess bigVal,
       .contextEntryWrite okAccess bigVal, .programBlockWrite okAccess bigVal, .latenessRecordClear okAccess bigVal,
       .spillReserveWrite okAccess bigVal, .regionDescriptorWrite okAccess bigVal, .handover okAccess bigVal,
       .clearStale okAccess bigVal, .restoreCommand okAccess bigVal, .rdmaWrite 0 0 0 bigVal 0 false,
       .sliceEntryWrite okAccess bigVal, .sliceRevoke okAccess bigVal, .portRoleWrite okAccess bigVal,
       .eyeScanStart .ep okAccess bigVal, .smbDirectoryWrite .ep 0 bigVal 0, .smbBlobSegmentWrite .ep 0 0 bigVal 0] = true := by
  simp only [refuses, Instr.wf, bigVal_bad, Bool.and_false, Bool.false_and, Bool.not_false, List.all_cons, List.all_nil,
    Bool.and_self]

/-- Commands whose value is longer than a BLOB may be, piece 2: each is ill formed. -/
theorem test_long_values_refused_2 :
    refuses
      [.alignmentRequest okAccess bigVal, .mownEntryWrite .ep okAccess bigVal, .corruptionReport okAccess bigVal [],
       .clearSuspect okAccess bigVal, .windowEntryWrite .ep okAccess bigVal, .rebindRequest okAccess bigVal,
       .planeRestoreRequest okAccess bigVal, .bundleCommit okAccess bigVal okBundle,
       .attestationNonce .ep okAccess bigVal, .keyInstallation .ep okAccess bigVal false,
       .jobRetire .ep okAccess bigVal, .credentialInstallation okAccess bigVal false,
       .acknowledgedSequenceWrite .ep okAccess bigVal, .capStep okAccess bigVal, .capRefresh okAccess bigVal,
       .mirrorWrite okHeader 0 bigVal, .acknowledgedRecordWrite okAccess bigVal, .groupIndexWrite .ep okAccess bigVal] = true := by
  simp only [refuses, Instr.wf, bigVal_bad, Bool.and_false, Bool.false_and, Bool.not_false, List.all_cons, List.all_nil,
    Bool.and_self]

open Sys2Proof Sys2Proof.Machine

/-- Both parts after reset with their firmware accepted. -/
def base : State := { State.reset with ep.sh.rot.boot := 1, mod.sh.rot.boot := 1 }

/-- A directory request of the operator, and one of Host partition 0. -/
def opA : Access := ⟨.udp, .operator, 0xFF, 0, .session 1⟩
def hostA : Access := ⟨.udp, .host, 0, 0, .session 2⟩
def jobA : Access := ⟨.eri, .job, 0xFF, 5, .agent 1⟩

/-- A collective of one member with one element, its context read. -/
def coll0 : EpColl where
  id := 1
  job := 5
  slot := 0
  agent := 1
  tag := 2
  link := 0
  group := 1
  cctx := 0
  planes := 1
  cseq := 9
  vfas := [0, 0, 0, 0]
  size := 1
  rank := 0
  members := 0
  root := 0
  units := 0
  recvSlots := 0
  start := 0
  state := 3
  cword := some 0
  seen := []
  probes := []
  todo := []
  got := []
  arrays := []
  passed := []
  sentOn := []
  arrived := []
  open_ := 0
  written := []
  recvd := 0
  digest := 0
  short := 0
  late := 0
  holds := 0
  worst := 0
  rel := []
  accepted := 0
  limit := 0
  dead := []
  bufs := [(0, 0, []), (0, 1, [])]
  routes := []
  routeReads := 0

theorem takes_of {s : State} {l : Nat} {m : Eri}
    (h : (s.linkUp l = true ∧ s.initDone l = true ∧ s.ep.tags.length < agentPlaces) ∧
      ((tabGet s.ep.links l).all fun k => decide (m.units ≤ k.reqCr)) = true ∧ eriFormBad m.kind m = false ∧
      s.pairOut m = false ∧ s.mayAccept l m s.ep.eriWait = true) : s.eriTakes l m := by
  obtain ⟨⟨a, b, c⟩, d, e⟩ := h
  exact ⟨⟨a, b, fun k hk => by simpa [hk] using d, c⟩, e⟩

theorem passes_of {s : State} {l : Nat} {m : Eri} (h : s.eriTakes l m)
    (h' : s.ep.sh.rot.boot = 1 ∧ s.ep.selfDead = false ∧ badJob m = false) : s.eriPasses l m := ⟨h, h'⟩

theorem brings_of {s : State} {l : Nat} {m : Eri}
    (h : (s.linkUp l = true ∧ s.initDone l = true ∧ s.ep.tags.length < agentPlaces) ∧
      ((tabGet s.ep.links l).all fun k => decide (m.units ≤ k.reqCr)) = true) : s.eriBrings l m := by
  obtain ⟨⟨a, b, c⟩, d⟩ := h
  exact ⟨a, b, fun k hk => by simpa [hk] using d, c⟩

theorem fresh_of {s : State} {p : Part} {k : Packet} {t : Bool} {r : SrcRec}
    (h : formOk k (p == Part.ep) = true ∧ (1 ≤ k.typ ∧ k.typ ≤ 5) ∧ (k.job ≠ 0 ∧ k.job ≠ 0xFFFF) ∧ k.dst = s.node p ∧
      s.sealCheck p k t = 0 ∧ (s.sh p).recv.rec_ k.from_ = some r ∧ k.s = false ∧ r.settledOf k.seq = none ∧
      (s.sh p).recv.busyWith k.from_ k.seq = false ∧ serialDiff k.seq r.base < 4096) : FreshRequest s p k t r :=
  let ⟨a, b, c, d, e, f, g, i, j, l⟩ := h
  ⟨a, b, c, d, e, f, g, i, j, l⟩

theorem freshc_of {s : State} {p : Part} {k : Packet} {t : Bool} {r : SrcRec}
    (h : formOk k (p == Part.ep) = true ∧ isColl k.typ = true ∧ (k.job ≠ 0 ∧ k.job ≠ 0xFFFF) ∧ k.dst = s.node p ∧
      s.sealCheck p k t = 0 ∧ (s.sh p).recv.rec_ k.from_ = some r ∧ k.s = false ∧ r.settledOf k.seq = none ∧
      (s.sh p).recv.busyWith k.from_ k.seq = false ∧ serialDiff k.seq r.base < 4096) : FreshCollective s p k t r :=
  let ⟨a, b, c, d, e, f, g, i, j, l⟩ := h
  ⟨a, b, c, d, e, f, g, i, j, l⟩

theorem coll_of {s : State} {k : Packet} {g : Group}
    (h : s.jobState .mod k.job = 0 ∧ s.group k.group = g ∧ (g.v = true ∧ g.job = k.job) ∧ (g.ctx k.cctx).v = true)
    (n : (s.mod.sh.mown.all fun e => !(e.2.job == k.job && e.2.group == k.group && e.2.cseq == k.cseq)) = true)
    (h' : ((tabGet g.slots (k.cseq % 4)).all fun x => x.cseq == k.cseq) = true) : CollectiveOf s k g := by
  obtain ⟨a, b, c, e⟩ := h
  refine ⟨a, b, c, fun x => ?_, e, fun x hx => ?_⟩
  · simp only [State.mownNamed, List.find?_eq_none]
    intro y hy hq
    have := List.all_eq_true.mp n y hy
    simp_all
  · simpa [hx] using h'

theorem lines_of {s : State} {a n : Nat}
    (h : (∀ l ∈ linesOf a n, s.mod.failedStacks.contains (s.stackOf (l * 128)) = false) ∧ s.badIn (linesOf a n) = []) :
    s.linesGood a n := h

theorem of_all {α : Type} {o : Option α} {P : α → Prop} [DecidablePred P] (h : (o.all fun x => decide (P x)) = true) :
    ∀ x, o = some x → P x := by
  intro x hx
  simpa [hx] using h

/-- An admission entry of Job 5 over the first 64 KiB, and a source record. -/
def adm5 : AdmEntry := ⟨true, 5, 0, 0, 0, true, true, true, true⟩
def rec5 : SrcRec := ⟨7, 0, 0, [], 0, [], 0, 0, none, 0⟩

/-- Both parts with a slot, a slice and an admission entry of Job 5, a record of node 7 and the endpoint at node 3. -/
def fab : State := { base with
  ep.slots := [(0, ⟨5, 4096, 0, 1, 0, 0, []⟩)], ep.sh.adm := [(0, adm5)], ep.sh.recv.recs := [rec5],
  ep.sh.regs := [(0xD00004 * 65536, 3)], mod.slices := [(5, ⟨true, 1, true, true, 5, 1, 528, 0, []⟩)],
  mod.sh.adm := [(0, adm5)], mod.sh.recv.recs := [rec5],
  mod.regions := [(0, ⟨true, 0, 0, false, 0, 3, 5, 0, 0, false, 2, 1, false, none, 0, none, none⟩)] }

/-- A load and a store of Job 5 from node 7. -/
def load5 (dst : Nat) : Packet := { Packet.zero with typ := 1, job := 5, src := 7, dst := dst, len := 8 }
def store5 (dst : Nat) : Packet := { load5 dst with typ := 2, payload := List.replicate 8 9#8 }

/-- A request of an agent for Job 5: a store to node 9. -/
def req0 : Req where
  id := 1
  order := 1
  agent := 1
  tag := 2
  link := 0
  owner := .agent
  st := .waiting
  slot := 0
  gen := 0
  vfa := 0
  want := 1
  rel := .none
  acq := .none
  noCache := false
  cgen := 0
  fillOff := 0
  fillLen := 0
  forced := false
  pkt := { Packet.zero with typ := 2, job := 5, src := 3, dst := 9, len := 8, payload := List.replicate 8 9#8 }
  first := 0
  last := 0
  sends := 0
  retrans := 0
  retries := 0
  due := 0
  timeout := 0
  reLimit := 8
  retryLimit := 16
  life := 0
  waits := []
  bad := []
  sl := ⟨0, 0, 0, 0⟩
  accAt := 0
  trAt := 0
  trSeq := 0
  near := []
  ecc := []

/-- A response of node 9 to the endpoint, and of node 9 to the module. -/
def resp9 (typ code dst : Nat) : Packet := { Packet.zero with typ := typ, code := code, src := 9, dst := dst }

/-- A copy and a tile of it. -/
def copy0 : Copy where
  id := 1
  job := 5
  slot := 0
  agent := 1
  tag := 2
  link := 0
  list := none
  src := 0
  dst := 65536
  len := 8
  srcRack := 0
  dstRack := 0
  engine := 3
  pin := false
  notify := false
  notifyVfa := 0
  notifyVal := 0
  issued := 0
  open_ := 0
  worst := 0
  state := 0

def tile0 : CTile where
  id := 4
  copy := 1
  engine := 3
  src := 0
  dst := 65536
  len := 8
  state := 0
  todo := []
  got := [(0, 9 * 2 ^ 46), (5, 9 * 2 ^ 46)]
  parts := 0
  worst := 0
  stolen := false
  buf := []

/-- For each clause of SlotCommandsMoveSlotStates, a state and operands that meet its hypotheses. -/
theorem test_hyps_SlotCommandsMoveSlotStates :
    (∃ (s : State) (a : Access) (n : Nat) (val : List Byte), n < 64 ∧ dirCheck .ep a (slotEntry n 1) true s = 0 ∧
      val.length = 2 ∧ beNat val ≠ 0 ∧ beNat val ≠ 0xFFFF ∧ (s.slot n).state = 0 ∧ (s.slot n).root ≠ 0 ∧ (s.slot
      n).root % 4096 = 0 ∧ (s.slot n).root + 4096 ≤ s.reg .ep 0xD30002 ∧ ((s.ep.slots.any fun e => e.1 != n &&
      e.2.job == beNat val && e.2.state != 0) = false)) ∧
    (∃ (s : State) (a : Access) (n : Nat) (val : List Byte), n < 64 ∧ dirCheck .ep a (slotEntry n 3) true s = 0 ∧
      val.length = 4 ∧ (s.slot n).state = 1 ∧ beNat val = ((s.slot n).gen + 1) % 2 ^ 32) ∧
    (∃ (s : State) (n : Nat), (s.slot n).state = 2 ∧ ((s.slot n).waits.any s.stillThere) = false) ∧
    (∃ (s : State) (a : Access) (n : Nat) (val : List Byte), n < 64 ∧ dirCheck .ep a (slotEntry n 6) true s = 0 ∧
      val.length = 1 ∧ beNat val = 1 ∧ ((s.slot n).state = 1 ∨ (s.slot n).state = 2)) ∧
    (∃ (s : State) (a : Access) (n : Nat) (val : List Byte), n < 64 ∧ dirCheck .ep a (slotEntry n 6) true s = 0 ∧
      val.length = 1 ∧ beNat val = 1 ∧ ((s.slot n).state = 0 ∨ (s.slot n).state = 3)) ∧
    (∃ (s : State) (n : Nat), (s.slot n).state = 3 ∧ s.slotEmpty n (s.slot n).job = true) :=
  ⟨⟨{ base with ep.slots := [(0, ⟨0, 4096, 0, 0, 0, 0, []⟩)], ep.sh.regs := [(0xD30002 * 65536, 8192)] }, hostA, 0,
     [0#8, 5#8], by decide +kernel⟩,
   ⟨{ base with ep.slots := [(0, ⟨5, 4096, 7, 1, 0, 0, []⟩)] }, hostA, 0, [0#8, 0#8, 0#8, 8#8], by decide +kernel⟩,
   ⟨{ base with ep.slots := [(0, ⟨5, 4096, 7, 2, 0, 0, []⟩)] }, 0, by decide +kernel⟩,
   ⟨{ base with ep.slots := [(0, ⟨5, 4096, 7, 1, 0, 0, []⟩)] }, opA, 0, [1#8], by decide +kernel⟩,
   ⟨{ base with ep.slots := [(0, ⟨5, 4096, 7, 3, 0, 0, []⟩)] }, opA, 0, [1#8], by decide +kernel⟩,
   ⟨{ base with ep.slots := [(0, ⟨5, 4096, 7, 3, 0, 0, []⟩)] }, 0, by decide +kernel⟩⟩

/-- For each clause of WalksAndFaultRecordsEnd, a state and operands that meet its hypotheses. -/
theorem test_hyps_WalksAndFaultRecordsEnd :
    (∃ (s : State) (id : Nat) (w : Walk) (e : AtuEntry), (∀ i, w.who ≠ .record i) ∧ ((s.ep.walks.find? fun w =>
      w.id == id) = some w) ∧ w.ended = some (.leaf e) ∧ (s.slot w.slot).job = w.job ∧ ((s.slot w.slot).state = 1 ∨
      (s.slot w.slot).state = 2) ∧ (s.slot w.slot).inv = w.inv) ∧
    (∃ (s : State) (id : Nat) (w : Walk), (∀ i, w.who ≠ .record i) ∧ ((s.ep.walks.find? fun w => w.id == id) = some
      w) ∧ w.ended = some .unmapped ∧ (s.slot w.slot).job = w.job ∧ ((s.slot w.slot).state = 1 ∨ (s.slot
      w.slot).state = 2) ∧ (s.slot w.slot).inv = w.inv) ∧
    (∃ (s : State) (a : Access) (val : List Byte) (job first n : Nat), dirCheck .ep a 0xD20005 true s = 0 ∧
      val.length = 16 ∧ resumeFields (beNat val) = (job, first, n, 1, 0) ∧ n ≠ 0 ∧ (s.ep.slotOf job).isSome = true) ∧
    (∃ (s : State) (a : Access) (val : List Byte) (job first n : Nat), dirCheck .ep a 0xD20005 true s = 0 ∧
      val.length = 16 ∧ resumeFields (beNat val) = (job, first, n, 2, 0) ∧ n ≠ 0 ∧ (s.ep.slotOf job).isSome = true) ∧
    (∃ (s : State) (a : Access) (val : List Byte) (job first n act reserved : Nat), dirCheck .ep a 0xD20005 true s
      = 0 ∧ val.length = 16 ∧ resumeFields (beNat val) = (job, first, n, act, reserved) ∧ (reserved ≠ 0 ∨ (act ≠ 1
      ∧ act ≠ 2) ∨ n = 0 ∨ s.ep.slotOf job = none)) ∧
    (∃ (s : State) (a : Access) (val : List Byte) (job first n act reserved : Nat), dirCheck .ep a 0xD20005 true s
      = 0 ∧ val.length = 16 ∧ resumeFields (beNat val) = (job, first, n, act, reserved) ∧ reserved = 0 ∧ (act = 1 ∨
      act = 2) ∧ n ≠ 0 ∧ (s.ep.slotOf job).isSome = true ∧ s.covered job first n = []) ∧
    (∃ (s : State) (i : Nat) (f : FaultRec), tabGet s.ep.faults i = some f ∧ f.state = 1 ∧ f.timer + f.limit ≤
      s.ns) ∧
    (∃ (s : State) (i : Nat) (f : FaultRec) (w : Walk) (e : AtuEntry), tabGet s.ep.faults i = some f ∧
      ((s.ep.walks.find? fun w => w.who == WalkFor.record i) = some w) ∧ w.ended = some (.leaf e) ∧ f.revoked =
      false ∧ (s.slot w.slot).inv = w.inv ∧ f.waiters ≠ [] ∧ (∀ u ∈ f.waiters, e.has u.want = true)) :=
  ⟨⟨{ base with ep.slots := [(0, ⟨5, 4096, 7, 1, 0, 0, []⟩)], ep.walks := [⟨1, 0, 5, 2, 2, 1, 0, .req 3, some (.leaf ⟨0, 2, 0, 0, true, true, true, true, false, false⟩)⟩] },
     1, ⟨1, 0, 5, 2, 2, 1, 0, .req 3, some (.leaf ⟨0, 2, 0, 0, true, true, true, true, false, false⟩)⟩, ⟨0, 2, 0,
     0, true, true, true, true, false, false⟩, fun _ h => WalkFor.noConfusion h, by decide +kernel⟩,
   ⟨{ base with ep.slots := [(0, ⟨5, 4096, 7, 1, 0, 0, []⟩)], ep.walks := [⟨1, 0, 5, 2, 2, 1, 0, .req 3, some (.unmapped)⟩] },
     1, ⟨1, 0, 5, 2, 2, 1, 0, .req 3, some (.unmapped)⟩, fun _ h => WalkFor.noConfusion h, by decide +kernel⟩,
   ⟨{ base with ep.slots := [(0, ⟨5, 4096, 7, 1, 0, 0, []⟩)] }, hostA, beBytes 16 (5 * 2 ^ 112 + 2 ^ 72 + 2 * 2 ^
     40 + 1 * 2 ^ 38), 5, 1, 2, by decide +kernel⟩,
   ⟨{ base with ep.slots := [(0, ⟨5, 4096, 7, 1, 0, 0, []⟩)] }, hostA, beBytes 16 (5 * 2 ^ 112 + 2 ^ 72 + 2 * 2 ^
     40 + 2 * 2 ^ 38), 5, 1, 2, by decide +kernel⟩,
   ⟨{ base with ep.slots := [(0, ⟨5, 4096, 7, 1, 0, 0, []⟩)] }, hostA, beBytes 16 (5 * 2 ^ 112 + 2 ^ 72 + 2 * 2 ^
     40 + 3 * 2 ^ 38), 5, 1, 2, 3, 0, by decide +kernel⟩,
   ⟨{ base with ep.slots := [(0, ⟨5, 4096, 7, 1, 0, 0, []⟩)] }, hostA, beBytes 16 (5 * 2 ^ 112 + 2 ^ 72 + 2 * 2 ^
     40 + 2 * 2 ^ 38), 5, 1, 2, 2, 0, by decide +kernel⟩,
   ⟨{ base with ep.faults := [(0, ⟨5, 2, 0, 1, [], 0, 0, 0, false⟩)] }, 0, ⟨5, 2, 0, 1, [], 0, 0, 0, false⟩, by
     decide +kernel⟩,
   ⟨{ base with ep.slots := [(0, ⟨5, 4096, 7, 1, 0, 0, []⟩)], ep.walks := [⟨1, 0, 5, 2, 2, 1, 0, .record 9, some (.leaf ⟨0, 2, 0, 0, true, true, true, true, false, false⟩)⟩], ep.faults := [(9, ⟨5, 2, 0, 2, [⟨.req 3, 1⟩], 0, 0, 0, false⟩)] },
     9, ⟨5, 2, 0, 2, [⟨.req 3, 1⟩], 0, 0, 0, false⟩, ⟨1, 0, 5, 2, 2, 1, 0, .record 9, some (.leaf ⟨0, 2, 0, 0,
     true, true, true, true, false, false⟩)⟩, ⟨0, 2, 0, 0, true, true, true, true, false, false⟩, by
     decide +kernel⟩⟩

/-- For each clause of AdmissionWritesStoreEntry, a state and operands that meet its hypotheses. -/
theorem test_hyps_AdmissionWritesStoreEntry :
    (∃ (s : State) (a : Access) (val : List Byte) (e : AdmEntry), dirCheck .ep a 0xD30004 true s = 0 ∧ val.length =
      16 ∧ admOf (beNat val) = (e, 0) ∧ e.v = true ∧ e.job ≠ 0 ∧ e.job ≠ 0xFFFF ∧ e.offBase + e.len + 1 ≤ 2 ^ 30 ∧
      (e.localBase + e.len + 1) * 65536 ≤ s.reg .ep 0xD30002 ∧ (∀ x ∈ s.ep.sh.adm, x.1 ≠ s.sel .ep a.ctx 0xD30003 →
      x.2.v = true → x.2.job = e.job → x.2.offBase + x.2.len + 1 ≤ e.offBase ∨ e.offBase + e.len + 1 ≤
      x.2.offBase)) ∧
    (∃ (s : State) (a : Access) (val : List Byte) (e : AdmEntry), dirCheck .mod a 0x720004 true s = 0 ∧ val.length
      = 16 ∧ admOf (beNat val) = (e, 0) ∧ e.v = true ∧ e.job ≠ 0 ∧ e.job ≠ 0xFFFF ∧ e.offBase + e.len + 1 ≤ 2 ^ 30
      ∧ (e.localBase + e.len + 1) * 65536 ≤ s.usableBytes ∧ s.commonsAdmOk e = true ∧ (∀ x ∈ s.mod.sh.adm, x.1 ≠
      s.sel .mod a.ctx 0x720003 → x.2.v = true → x.2.job = e.job → x.2.offBase + x.2.len + 1 ≤ e.offBase ∨
      e.offBase + e.len + 1 ≤ x.2.offBase)) :=
  ⟨⟨{ base with ep.sh.regs := [(0xD30002 * 65536, 5 * 65536)], ep.sh.adm := [(7, ⟨true, 5, 0, 1, 0, true, true, true, true⟩)] },
     hostA, beBytes 16 (AdmEntry.word ⟨true, 5, 2, 1, 3, true, true, true, true⟩), ⟨true, 5, 2, 1, 3, true, true,
     true, true⟩, by decide +kernel⟩,
   ⟨{ base with mod.regions := [(0, ⟨true, 0, 0, false, 0, 3, 5, 0, 0, false, 2, 1, false, none, 0, none, none⟩)], mod.sh.adm := [(7, ⟨true, 5, 0, 1, 0, true, true, true, true⟩)] },
     opA, beBytes 16 (AdmEntry.word ⟨true, 5, 2, 1, 3, true, true, true, true⟩), ⟨true, 5, 2, 1, 3, true, true,
     true, true⟩, by decide +kernel⟩⟩

/-- For each clause of DirectoryWriteIsCheckedInOrder, a state and operands that meet its hypotheses. -/
theorem test_hyps_DirectoryWriteIsCheckedInOrder :
    (∃ (s : State) (p : Part) (a : Access) (key : Nat) (val : List Byte), entryOf p key = none) ∧
    (∃ (s : State) (p : Part) (a : Access) (key : Nat) (val : List Byte) (e : Entry), entryOf p key = some e ∧
      pathReaches p a.path key true s = false) ∧
    (∃ (s : State) (p : Part) (a : Access) (key : Nat) (val : List Byte) (e : Entry), entryOf p key = some e ∧
      pathReaches p a.path key true s = true ∧ mayWrite p a e key s = false) ∧
    (∃ (s : State) (p : Part) (a : Access) (key : Nat) (val : List Byte) (e : Entry), entryOf p key = some e ∧
      pathReaches p a.path key true s = true ∧ mayWrite p a e key s = true ∧ e.acc = 0 ∧ a.principal ≠ .metrology) :=
  ⟨⟨base, .ep, opA, 0x831001, [1#8], by decide +kernel⟩,
   ⟨State.reset, .ep, jobA, 0xD20005, [1#8],
     { key := 13762565, span := 1, part := 1, kind := 4, size := 16, acc := 2, lo := 0, hi := 0, wr := 2, rd := 1, later := false },
     by decide +kernel⟩,
   ⟨base, .ep, opA, 0xD20005, [1#8],
     { key := 13762565, span := 1, part := 1, kind := 4, size := 16, acc := 2, lo := 0, hi := 0, wr := 2, rd := 1, later := false },
     by decide +kernel⟩,
   ⟨base, .mod, opA, 0x100001, [1#8],
     { key := 1048577, span := 1, part := 0, kind := 0, size := 1, acc := 0, lo := 0, hi := 255, wr := 0, rd := 2, later := false },
     by decide +kernel⟩⟩

/-- A state and operands that meet the hypotheses of DirectoryWriteStoresValue. -/
theorem test_hyps_DirectoryWriteStoresValue :
    ∃ (s : State) (p : Part) (a : Access) (key : Nat) (val : List Byte) (e : Entry), (∀ t x, State.epApply t a key
      val x = none) ∧ (∀ t : State, t.modApply a key val = none) ∧ (∀ t x, State.modApply2 t a key val x = none) ∧ (∀
      t : State, t.bothApply p a key val = none) ∧ entryOf p key = some e ∧ dirCheck p a key true s = 0 ∧ valueOk e
      val = true ∧ e.wr ≠ 6 ∧ e.later = false :=
  ⟨base, .mod, opA, 0x201004, [0#8, 0#8, 0#8, 5#8],
    { key := 2101252, span := 1, part := 2, kind := 0, size := 4, acc := 1, lo := 1, hi := 60, wr := 1, rd := 1, later := false },
    fun _ _ => rfl, fun _ => rfl, fun _ _ => rfl, fun _ => rfl, by decide +kernel⟩

/-- A message of the protocol from host port 1, signed under a key. -/
def pm (op session seq key off slot : Nat) (val : List Byte) : PMsg :=
  ⟨1, 77, 1, op, false, false, session, seq, key, off, slot, val, []⟩
def signed (k : List Byte) (m : PMsg) : PMsg := { m with auth := protoAuth m 0 k }
def key1 : List Byte := List.replicate 32 1#8

/-- A state and operands that meet the hypotheses of OpenStartsSession. -/
theorem test_hyps_OpenStartsSession :
    ∃ (s : State) (m : PMsg) (c : Credential), m.auth = protoAuth m 0 c.secret ∧ s.mod.sh.clk.crystal ≠ 2 ∧
      (s.protoGate m).2 = true ∧ protoForm m 1 = true ∧ tabGetD s.mod.muted m.source 0 ≤ s.ns ∧ tabGet s.mod.creds
      m.credSlot = some c ∧ m.seq = 0 ∧ m.session = 0 ∧ m.value.length = 32 ∧ s.mod.sessions.length < 16 :=
  ⟨{ base with mod.creds := [(7, ⟨.host, 3, key1⟩)] }, signed key1 (pm 1 0 0 0 0 7 (List.replicate 32 0#8)), ⟨.host,
    3, key1⟩, rfl, by decide +kernel⟩

/-- For each clause of SessionRequestsAreAnswered, a state and operands that meet its hypotheses. -/
theorem test_hyps_SessionRequestsAreAnswered :
    (∃ (s : State) (m : PMsg) (t : Session), m.auth = protoAuth m 0 t.key ∧ s.mod.sh.clk.crystal ≠ 2 ∧ (s.protoGate
      m).2 = true ∧ protoForm m 2 = true ∧ ((s.mod.sessions.find? fun t => t.id == m.session) = some t) ∧ m.seq =
      (t.seq + 1) % 2 ^ 32) ∧
    (∃ (s : State) (m : PMsg) (t : Session) (e : Entry) (v : List Byte), m.auth = protoAuth m 0 t.key ∧
      s.mod.sh.clk.crystal ≠ 2 ∧ (s.protoGate m).2 = true ∧ protoForm m 3 = true ∧ ((s.mod.sessions.find? fun t =>
      t.id == m.session) = some t) ∧ m.seq = (t.seq + 1) % 2 ^ 32 ∧ entryOf .mod m.key = some e ∧ dirCheck .mod
      (t.access .udp) m.key false (s.protoGate m).1 = 0 ∧ (s.protoGate m).1.dirValue .mod (t.access .udp) e m.key =
      some v ∧ v.length ≤ 1024) ∧
    (∃ (s : State) (m : PMsg), s.mod.sh.clk.crystal = 2) ∧
    (∃ (s : State) (m : PMsg) (t : Session), m.auth = protoAuth m 0 t.key ∧ s.mod.sh.clk.crystal ≠ 2 ∧ (s.protoGate
      m).2 = true ∧ ((s.mod.sessions.find? fun t => t.id == m.session) = some t) ∧ m.seq = (t.seq + 1) % 2 ^ 32 ∧
      protoForm m 4 = true) ∧
    (∃ (s : State) (m : PMsg) (t : Session), m.auth = protoAuth m 0 t.key ∧ s.mod.sh.clk.crystal ≠ 2 ∧ (s.protoGate
      m).2 = true ∧ ((s.mod.sessions.find? fun t => t.id == m.session) = some t) ∧ m.seq = (t.seq + 1) % 2 ^ 32 ∧
      protoForm m 5 = true) ∧
    (∃ (s : State) (m : PMsg) (t : Session), m.auth = protoAuth m 0 t.key ∧ s.mod.sh.clk.crystal ≠ 2 ∧ (s.protoGate
      m).2 = true ∧ ((s.mod.sessions.find? fun t => t.id == m.session) = some t) ∧ m.seq = (t.seq + 1) % 2 ^ 32 ∧
      protoForm m 6 = true) ∧
    (∃ (s : State) (m : PMsg) (t : Session) (staged : List Byte), m.auth = protoAuth m 0 t.key ∧ sliceBytes m.value
      12 64 = sliceBytes (Config.sha512 staged) 0 64 ∧ s.mod.sh.clk.crystal ≠ 2 ∧ (s.protoGate m).2 = true ∧
      ((s.mod.sessions.find? fun t => t.id == m.session) = some t) ∧ m.seq = (t.seq + 1) % 2 ^ 32 ∧ protoForm m 7 =
      true ∧ m.value.length = 76 ∧ beNat (sliceBytes m.value 0 8) + beNat (sliceBytes m.value 8 4) ≤ 2 ^ 28 ∧
      (staged = (List.range (beNat (sliceBytes m.value 8 4))).map (fun i => tabGetD s.mod.staging (beNat
      (sliceBytes m.value 0 8) + i) 0#8))) :=
  ⟨⟨{ base with mod.sessions := [⟨9, 1, 2, .operator, 0, key1, 3, none, 0⟩] }, signed key1 (pm 2 9 4 0 0 0 ([])),
     ⟨9, 1, 2, .operator, 0, key1, 3, none, 0⟩, rfl, by decide +kernel⟩,
   ⟨{ base with mod.sessions := [⟨9, 1, 2, .operator, 0, key1, 3, none, 0⟩] }, signed key1 (pm 3 9 4 0x100001 0 0
     ([])), ⟨9, 1, 2, .operator, 0, key1, 3, none, 0⟩,
     { key := 1048577, span := 1, part := 0, kind := 0, size := 1, acc := 0, lo := 0, hi := 255, wr := 0, rd := 2, later := false },
     [1#8], rfl, by decide +kernel⟩,
   ⟨{ base with mod.sh.clk.crystal := 2 }, signed key1 (pm 3 9 4 0x100001 0 0 ([])), by decide +kernel⟩,
   ⟨{ base with mod.sessions := [⟨9, 1, 2, .operator, 0, key1, 3, none, 0⟩] }, signed key1 (pm 4 9 4 0x201004 0 0
     ([5#8])), ⟨9, 1, 2, .operator, 0, key1, 3, none, 0⟩, rfl, by decide +kernel⟩,
   ⟨{ base with mod.sessions := [⟨9, 1, 2, .operator, 0, key1, 3, none, 0⟩] }, signed key1 (pm 5 9 4 0x201004 0 0
     ([])), ⟨9, 1, 2, .operator, 0, key1, 3, none, 0⟩, rfl, by decide +kernel⟩,
   ⟨{ base with mod.sessions := [⟨9, 1, 2, .operator, 0, key1, 3, none, 0⟩] }, signed key1 (pm 6 9 4 0x201004 0 0
     ([5#8])), ⟨9, 1, 2, .operator, 0, key1, 3, none, 0⟩, rfl, by decide +kernel⟩,
   ⟨{ base with mod.sessions := [⟨9, 1, 2, .operator, 0, key1, 3, none, 0⟩] }, signed key1 (pm 7 9 4 0x201004 0 0
     (beBytes 8 0 ++ beBytes 4 4 ++ sliceBytes (Config.sha512 [0#8, 0#8, 0#8, 0#8]) 0 64)), ⟨9, 1, 2, .operator, 0,
     key1, 3, none, 0⟩, [0#8, 0#8, 0#8, 0#8], rfl, rfl, by decide +kernel⟩⟩

/-- For each clause of SessionsAndCredentialsEnd, a state and operands that meet its hypotheses. -/
theorem test_hyps_SessionsAndCredentialsEnd :
    (∃ (s : State) (id : Nat) (t : Session), ((s.mod.sessions.find? fun t => t.id == id) = some t) ∧ t.last +
      1000000000 * s.reg .mod 0x830004 ≤ s.ns) ∧
    (∃ (s : State) (p : Part) (c : Ctx) (key : Nat) (b : _), b ∈ (s.sh p).assemblies ∧ (b.ctx ≠ c ∨ b.key ≠ key ∨
      s.ns < b.at_ + 10000000000)) ∧
    (∃ (s : State) (a : Access) (val : List Byte) (slot kind part : Nat), dirCheck .mod a 0x830002 true s = 0 ∧
      val.length = 576 ∧ credFields val = (slot, kind, part, 0) ∧ slot ≤ 7 ∧ (kind = 1 ∨ kind = 2) ∧ (kind = 1 →
      part = 0)) ∧
    (∃ (s : State) (pair : Nat), pair < 2 ∧ s.mod.coresStopped = [] ∧ s.mod.dirCore = pair) :=
  ⟨⟨{ base with mod.sessions := [⟨9, 1, 2, .operator, 0, key1, 3, none, 0⟩], clock := 300000000000 }, 9, ⟨9, 1, 2,
     .operator, 0, key1, 3, none, 0⟩, by decide +kernel⟩,
   ⟨{ base with mod.sh.assemblies := [⟨.smbus, 8, [1#8], 0, false⟩] }, .mod, .smbus, 7, ⟨.smbus, 8, [1#8], 0,
     false⟩, by decide +kernel⟩,
   ⟨base, opA, beBytes 576 ((7 * 2 ^ 504 + 2 * 2 ^ 500 + 3 * 2 ^ 496) * 2 ^ 4096), 7, 2, 3, by decide +kernel⟩,
   ⟨base, 0, by decide +kernel⟩⟩

/-- For each clause of SidebandTransfers, a state and operands that meet its hypotheses. -/
theorem test_hyps_SidebandTransfers :
    (∃ (s : State) (p : Part) (key : Nat) (e : Entry) (v : List Byte), s.smbOn p = true ∧ entryOf p key = some e ∧
      dirCheck p smbAccess key false s = 0 ∧ s.dirValue p smbAccess e key = some v ∧ v.length ≤ 250) ∧
    (∃ (s : State) (p : Part) (key : Nat) (val : List Byte) (pec : Nat), pec ≠ s.smbPec p 0x11 (beBytes 3 key ++
      val) ∧ s.smbOn p = true) ∧
    (∃ (s : State) (p : Part) (key off n : Nat) (b : Blob), s.smbOn p = true ∧ entryOf p key ≠ none ∧ dirCheck p
      smbAccess key false s = 0 ∧ 0 < off ∧ n ≤ 250 ∧ blobOf (s.sh p).snaps .smbus key = some b ∧ b.expired = false
      ∧ s.ns < b.at_ + 10000000000 ∧ off ≤ b.data.length) :=
  ⟨⟨base, .ep, 0x100001,
     { key := 1048577, span := 1, part := 0, kind := 0, size := 1, acc := 0, lo := 0, hi := 255, wr := 0, rd := 2, later := false },
     base.dirValue .ep smbAccess
     { key := 1048577, span := 1, part := 0, kind := 0, size := 1, acc := 0, lo := 0, hi := 255, wr := 0, rd := 2, later := false }
     0x100001 |>.getD [], by decide +kernel⟩,
   ⟨base, .ep, 0x100001, [1#8], (base.smbPec .ep 0x11 (beBytes 3 0x100001 ++ [1#8]) + 1), by decide +kernel, by
     decide +kernel⟩,
   ⟨{ base with mod.power.state := 2, mod.sh.snaps := [⟨.smbus, 0xA80002, [1#8, 2#8], 0, false⟩] }, .mod, 0xA80002,
     2, 250, ⟨.smbus, 0xA80002, [1#8, 2#8], 0, false⟩, by decide +kernel⟩⟩

/-- For each clause of LogAndCounterControls, a state and operands that meet its hypotheses. -/
theorem test_hyps_LogAndCounterControls :
    (∃ (s : State) (p : Part) (a : Access) (val : List Byte), dirCheck p a 0xA80003 true s = 0 ∧ val.length = 4 ∧
      beNat val ≤ (s.sh p).log.next) ∧
    (∃ (s : State) (p : Part), s.epochOf p % max 1 (s.reg p 0x901001) = 0 ∧ ((s.sh p).ctr.bankTime = 0 ∨ (s.sh
      p).ctr.bankTime < s.epochOf p * 1000000)) ∧
    (∃ (s : State) (p : Part) (g inst v : Nat), tabGet (s.sh p).ctr.pendChain (g * 65536 + inst) = some v ∧ v / 2 ^
      64 ≤ s.epochOf p ∧ tabGet (s.sh p).ctr.pendReset (g * 65536 + inst) = none) ∧
    (∃ (s : State) (p : Part) (a : Access) (val : List Byte), dirCheck p a 0x900001 true s = 0 ∧ val.length = 2 ∧
      (groupShape p (beNat val)).isSome = true) :=
  ⟨⟨base, .ep, opA, [0#8, 0#8, 0#8, 0#8], by decide +kernel⟩,
   ⟨base, .mod, by decide +kernel⟩,
   ⟨{ base with mod.sh.ctr.pendChain := [(3 * 65536 + 2, 5)] }, .mod, 3, 2, 5, by decide +kernel⟩,
   ⟨base, .mod, opA, [0#8, 3#8], by decide +kernel⟩⟩

/-- For each clause of InputStartsAndStops, a state and operands that meet its hypotheses. -/
theorem test_hyps_InputStartsAndStops :
    (∃ (s : State), s.mod.power.inputBad = false ∧ s.mod.power.latched = false ∧ s.mod.power.retryAt = none ∧
      s.mod.power.state = 4 ∧ s.mod.power.soft = none ∧ s.mod.power.booting = false) ∧
    (∃ (s : State) (mV : Nat), 57600 ≤ mV ∧ mV < 72000 ∧ s.mod.power.inEn = true ∧ s.mod.power.latched = false ∧
      s.mod.power.retryAt = none ∧ s.mod.power.state = 4 ∧ s.mod.power.soft = none ∧ s.mod.power.booting = false) ∧
    (∃ (s : State) (t : Nat), s.mod.power.soft = some t) ∧
    (∃ (s : State), s.mod.power.state ≤ 3) ∧
    (∃ (s : State) (mV : Nat), s.mod.power.state ≤ 3 ∧ 10000 ≤ mV ∧ mV < 54000) ∧
    (∃ (s : State) (mV : Nat), s.mod.power.state ≤ 3 ∧ 74000 < mV) ∧
    (∃ (s : State) (mA : Nat), 75000 < mA ∧ s.mod.power.state ≤ 3 ∧ ((s.mod.power.trips.filter fun t => decide
      (s.ns < 60000000000 + t)).length < 2)) ∧
    (∃ (s : State) (mA : Nat), 75000 < mA ∧ s.mod.power.state ≤ 3 ∧ (2 ≤ ((s.mod.power.trips.filter fun t => decide
      (s.ns < 60000000000 + t)).length))) ∧
    (∃ (s : State) (t : Nat), s.mod.power.retryAt = some t ∧ t ≤ s.ns ∧ s.mod.power.inEn = true ∧
      s.mod.power.inputBad = false ∧ s.mod.power.latched = false ∧ s.mod.power.state = 4 ∧ s.mod.power.soft = none
      ∧ s.mod.power.booting = false) :=
  ⟨⟨base, by decide +kernel⟩,
   ⟨{ base with mod.power.inEn := true }, 57600, by decide +kernel⟩,
   ⟨{ base with mod.power.soft := some 0 }, 0, by decide +kernel⟩,
   ⟨{ base with mod.power.state := 3 }, by decide +kernel⟩,
   ⟨{ base with mod.power.state := 3 }, 53999, by decide +kernel⟩,
   ⟨{ base with mod.power.state := 0 }, 74001, by decide +kernel⟩,
   ⟨{ base with mod.power.state := 0, mod.power.trips := [0] }, 75001, by decide +kernel⟩,
   ⟨{ base with mod.power.state := 0, mod.power.trips := [0, 0] }, 75001, by decide +kernel⟩,
   ⟨{ base with mod.power.retryAt := some 0, mod.power.inEn := true }, 0, by decide +kernel⟩⟩

/-- For each clause of PowerStatesFollowRequests, a state and operands that meet its hypotheses. -/
theorem test_hyps_PowerStatesFollowRequests :
    (∃ (s : State) (a : Access), dirCheck .mod a 0x200002 true s = 0 ∧ s.mod.power.state = 2) ∧
    (∃ (s : State) (a : Access), dirCheck .mod a 0x200002 true s = 0 ∧ s.mod.power.state ≤ 1 ∧
      (s.mod.sh.verd.failed.contains s.plane = true ∨ (s.mod.sh.ports.any fun q => q.2.state == 7) = false)) ∧
    (∃ (s : State) (a : Access) (v : Nat), dirCheck .mod a 0x200002 true s = 0 ∧ 2 < s.mod.power.state) ∧
    (∃ (s : State) (results : List TestResult), s.mod.power.state = 2 ∧ s.mod.power.entering = true) ∧
    (∃ (s : State), s.mod.power.state = 3 ∧ s.mod.power.booting = false) ∧
    (∃ (s : State) (mA : Nat), s.mod.power.state = 3 ∧ 150 < mA) :=
  ⟨⟨{ base with mod.power.state := 2 }, opA, by decide +kernel⟩,
   ⟨{ base with mod.power.state := 1 }, opA, by decide +kernel⟩,
   ⟨{ base with mod.power.state := 3 }, opA, 0, by decide +kernel⟩,
   ⟨{ base with mod.power.state := 2, mod.power.entering := true }, [⟨0, [5]⟩], by decide +kernel⟩,
   ⟨{ base with mod.power.state := 3 }, by decide +kernel⟩,
   ⟨{ base with mod.power.state := 3 }, 151, by decide +kernel⟩⟩

/-- For each clause of CapStepsAndLease, a state and operands that meet its hypotheses. -/
theorem test_hyps_CapStepsAndLease :
    (∃ (s : State) (a : Access) (val : List Byte), dirCheck .mod a 0x201001 true s = 0 ∧ val.length = 16 ∧ bits
      (beNat val) 31 0 = 0 ∧ bits (beNat val) 127 64 % 1000 = 0 ∧ 1800 ≤ bits (beNat val) 63 32 ∧ bits (beNat val)
      63 32 ≤ 3600 ∧ s.rackNs .mod < bits (beNat val) 127 64) ∧
    (∃ (s : State) (t cap : Nat), s.mod.power.step = some (t, cap) ∧ t ≤ s.rackNs .mod) ∧
    (∃ (s : State) (a : Access), dirCheck .mod a 0x201003 true s = 0) ∧
    (∃ (s : State), s.mod.power.state ≤ 2 ∧ s.mod.power.safe = false ∧ s.mod.power.hold = none ∧ s.mod.power.lease
      + 1000000000 * s.reg .mod 0x201004 ≤ s.ns) ∧
    (∃ (s : State) (t : Nat), s.mod.power.hold = some t ∧ t + 1000000000 * s.reg .mod 0x201005 ≤ s.ns) :=
  ⟨⟨base, opA, beBytes 16 (1000 * 2 ^ 64 + 1800 * 2 ^ 32), by decide +kernel⟩,
   ⟨{ base with mod.power.step := some (0, 2000) }, 0, 2000, by decide +kernel⟩,
   ⟨base, opA, by decide +kernel⟩,
   ⟨{ base with mod.power.state := 2, clock := 25000000000 }, by decide +kernel⟩,
   ⟨{ base with mod.power.hold := some 0, clock := 150000000000 }, 0, by decide +kernel⟩⟩

/-- For each clause of PowerControlAndTemperature, a state and operands that meet its hypotheses. -/
theorem test_hyps_PowerControlAndTemperature :
    (∃ (s : State) (watts mV mA : Nat), s.mod.power.state = 2) ∧
    (∃ (s : State) (l t : Nat), s.mod.power.decided = some (l, t) ∧ t ≤ s.rackNs .mod ∧ s.mod.power.state ≤ 1) ∧
    (∃ (s : State) (inlet scd : Int) (hbm : List Int), s.mod.power.state ≤ 2 ∧ s.mod.power.sensorLatch = false ∧
      -10000 ≤ inlet ∧ inlet ≤ 100000 ∧ scd < 100000 ∧ ((hbm.any fun t => decide (95000 ≤ t)) = false)) ∧
    (∃ (s : State) (inlet scd : Int) (hbm : List Int), s.mod.power.state ≤ 2 ∧ (inlet < -10000 ∨ 100000 < inlet)) ∧
    (∃ (s : State) (inlet scd hbm : Int), s.mod.power.state ≤ 2 ∧ (110000 ≤ scd ∨ 105000 ≤ hbm ∨ 60000 ≤ inlet)) :=
  ⟨⟨{ base with mod.power.state := 2 }, 0, 0, 0, by decide +kernel⟩,
   ⟨{ base with mod.power.state := 1, mod.power.decided := some (4, 0) }, 4, 0, by decide +kernel⟩,
   ⟨{ base with mod.power.state := 2 }, -10000, 99999, [94999], by decide +kernel⟩,
   ⟨{ base with mod.power.state := 2 }, 100001, 0, [], by decide +kernel⟩,
   ⟨{ base with mod.power.state := 0 }, 0, 0, 105000, by decide +kernel⟩⟩

/-- For each clause of CrystalStartsReferences, a state and operands that meet its hypotheses. -/
theorem test_hyps_CrystalStartsReferences :
    (∃ (s : State) (p : Part) (d : _), (s.sh p).clk.crystal = 0 ∧ d < domainCount p ∧ (s.domain p d).ref ≠
      domainRef p d) ∧
    (∃ (s : State) (p : Part) (d : _), (s.sh p).clk.crystal = 0 ∧ (d < domainCount p → (s.domain p d).ref =
      domainRef p d)) ∧
    (∃ (s : State) (p : Part), (s.sh p).clk.crystal = 0 ∧ (s.sh p).clk.started + 100000000 ≤ s.clock) ∧
    (∃ (s : State) (p : Part) (kHz : Nat), (s.sh p).clk.crystal = 1) :=
  ⟨⟨base, .ep, 0, by decide +kernel⟩,
   ⟨base, .ep, 5000, by decide +kernel⟩,
   ⟨{ base with clock := 100000000 }, .mod, by decide +kernel⟩,
   ⟨{ base with ep.sh.clk.crystal := 1 }, .ep, 100000, by decide +kernel⟩⟩

/-- For each clause of ClockDomainsFollowMonitors, a state and operands that meet its hypotheses. -/
theorem test_hyps_ClockDomainsFollowMonitors :
    (∃ (s : State) (p : Part) (d flags kHz : Nat), d < domainCount p ∧ bit flags 1 = false ∧ bit flags 3 = false ∧
      bit flags 4 = false) ∧
    (∃ (s : State) (d : Nat), 1 ≤ d ∧ d ≤ 8 ∧ bit (s.domain .ep d).flags 0 = false ∧ bit (s.domain .ep d).flags 3 =
      true) ∧
    (∃ (s : State) (p : Part) (d f : Nat), coastKHz p d = some f ∧ (p = .mod → 69 ≤ d ∧ (d < 93 ∨ 95 ≤ d)) ∧ bit
      (s.domain p d).flags 0 = false ∧ (bit (s.domain p d).flags 3 = true ∨ bit (s.domain p d).flags 4 = true)) ∧
    (∃ (s : State) (d f : Nat), d < 68 ∧ coastKHz .mod d = some f ∧ bit (s.domain .mod d).flags 0 = false ∧ (bit
      (s.domain .mod d).flags 3 = true ∨ bit (s.domain .mod d).flags 4 = true)) ∧
    (∃ (s : State) (p : Part) (d : Nat), d < domainCount p ∧ (s.domain p d).target = none ∧ bit (s.domain p
      d).flags 0 = true ∧ (s.backupRef p d).isSome = true) ∧
    (∃ (s : State) (p : Part) (d r : Nat), (s.domain p d).target = some r ∧ bit (s.domain p d).flags 3 = false) ∧
    (∃ (s : State) (p : Part) (d r : Nat), (s.domain p d).target = some r ∧ (s.domain p d).since + s.regNow p
      0x303002 * 5000 ≤ s.clock) :=
  ⟨⟨base, .mod, 3, 0b100101, 5, by decide +kernel⟩,
   ⟨{ base with ep.sh.clk.domains := [(8, ⟨1, 8, 0, 0, none, 0, 0, false⟩)] }, 8, by decide +kernel⟩,
   ⟨{ base with mod.sh.clk.domains := [(69, ⟨1, 8, 0, 0, none, 0, 0, false⟩)] }, .mod, 69, (coastKHz .mod 69).getD
     0, by decide +kernel⟩,
   ⟨{ base with mod.sh.clk.domains := [(67, ⟨1, 16, 0, 0, none, 0, 0, false⟩)] }, 67, (coastKHz .mod 67).getD 0, by
     decide +kernel⟩,
   ⟨{ base with ep.sh.clk.domains := [(0, ⟨1, 1, 0, 0, none, 0, 0, false⟩)] }, .ep, 0, by decide +kernel⟩,
   ⟨{ base with ep.sh.clk.domains := [(0, ⟨1, 0, 0, 0, some 1, 0, 0, false⟩)] }, .ep, 0, 1, by decide +kernel⟩,
   ⟨{ base with clock := 10000, ep.sh.clk.domains := [(0, ⟨1, 0, 0, 0, some 1, 0, 0, false⟩)] }, .ep, 0, 1, by
     decide +kernel⟩⟩

/-- For each clause of AlignmentRunsItsSteps, a state and operands that meet its hypotheses. -/
theorem test_hyps_AlignmentRunsItsSteps :
    (∃ (s : State) (a : Access), dirCheck .mod a 0xC10002 true s = 0 ∧ s.locked .mod = true ∧ s.coveredOk = true) ∧
    (∃ (s : State) (a : Access), dirCheck .mod a 0xC10002 true s = 0 ∧ s.locked .mod = false) ∧
    (∃ (s : State) (d : _), (s.mod.alignTry = 1 ∨ s.mod.alignTry = 4) ∧ s.mod.align ≠ 2 ∧ s.mod.alignAt ≤ s.rackNs
      .mod ∧ d < 68) ∧
    (∃ (s : State) (d : _), (s.mod.alignTry = 1 ∨ s.mod.alignTry = 4) ∧ s.mod.align ≠ 2 ∧ s.mod.alignAt ≤ s.rackNs
      .mod ∧ 68 ≤ d) ∧
    (∃ (s : State), (s.mod.alignTry = 2 ∨ s.mod.alignTry = 5) ∧ s.mod.alignAt + 1000000 ≤ s.rackNs .mod) ∧
    (∃ (s : State) (d : Nat) (l : List Nat), s.mod.alignTry = 2 ∧ s.mod.alignAt + 1000000 ≤ s.rackNs .mod) ∧
    (∃ (s : State), (s.mod.alignTry = 3 ∨ s.mod.alignTry = 6) ∧ s.mod.alignAt + 1000480 ≤ s.rackNs .mod) ∧
    (∃ (s : State) (d : Nat) (l : List Nat), s.mod.alignTry = 6 ∧ s.mod.alignAt + 1000480 ≤ s.rackNs .mod) ∧
    (∃ (s : State) (cause : Nat), s.mod.align = 2) :=
  ⟨⟨{ base with mod.sh.rt.state := 2, mod.power.state := 0, mod.sh.clk.domains := (List.range 69).map fun d => (d, ⟨1, 0, 0, 0, none, 0, 0, false⟩) },
     opA, by decide +kernel⟩,
   ⟨base, opA, by decide +kernel⟩,
   ⟨{ base with mod.alignTry := 1, mod.alignAt := 0, mod.align := 0, mod.sh.rt.units := 0 }, 67, by decide +kernel⟩,
   ⟨{ base with mod.alignTry := 4, mod.alignAt := 0, mod.align := 0, mod.sh.rt.units := 0 }, 68, by decide +kernel⟩,
   ⟨{ base with mod.alignTry := 5, mod.alignAt := 0, mod.align := 0, mod.sh.rt.units := 5000000 }, by
     decide +kernel⟩,
   ⟨{ base with mod.alignTry := 2, mod.alignAt := 0, mod.align := 0, mod.sh.rt.units := 5000000 }, 3, [], by
     decide +kernel⟩,
   ⟨{ base with mod.alignTry := 3, mod.alignAt := 0, mod.align := 0, mod.sh.rt.units := 5002400 }, by
     decide +kernel⟩,
   ⟨{ base with mod.alignTry := 6, mod.alignAt := 0, mod.align := 0, mod.sh.rt.units := 5002400 }, 3, [], by
     decide +kernel⟩,
   ⟨{ base with mod.alignTry := 0, mod.alignAt := 0, mod.align := 2, mod.sh.rt.units := 0 }, 3, by decide +kernel⟩⟩

/-- For each clause of MeterMessagesAreTaken, a state and operands that meet its hypotheses. -/
theorem test_hyps_MeterMessagesAreTaken :
    (∃ (s : State) (h : MeterHdr) (n c k : Nat) (v : List Byte), meterBad h 1 9 = true) ∧
    (∃ (s : State) (h : MeterHdr) (n c k : Nat) (v : List Byte), meterBad h 3 (4 * s.commonsCharge.length) = true) ∧
    (∃ (s : State) (h : MeterHdr) (n c k : Nat) (v : List Byte), meterBad h 4 8 = true) ∧
    (∃ (s : State) (h : MeterHdr) (n c k : Nat) (v : List Byte), meterBad h 7 10 = true) ∧
    (∃ (s : State) (h : MeterHdr) (n c k : Nat) (v : List Byte), meterBad h 5 (3 + v.length) = true) ∧
    (∃ (s : State) (h : MeterHdr) (n c k : Nat) (v : List Byte), meterBad h 6 14 = true) ∧
    (∃ (s : State) (h : MeterHdr), meterBad h 1 9 = false ∧ s.mod.meter.runs = true ∧ s.mod.meter.gapFrom = none) ∧
    (∃ (s : State) (h : MeterHdr), meterBad h 2 (16 * s.mod.usage.length) = false ∧ s.mod.meter.runs = true) ∧
    (∃ (s : State) (h : MeterHdr), meterBad h 3 (4 * s.commonsCharge.length) = false ∧ s.mod.meter.runs = true) ∧
    (∃ (s : State) (h : MeterHdr) (n : Nat), meterBad h 4 8 = false ∧ s.mod.meter.runs = true ∧ s.mod.meter.state =
      1 ∧ s.mod.meter.acked < n) ∧
    (∃ (s : State) (h : MeterHdr) (n : Nat), meterBad h 4 8 = false ∧ n ≤ s.mod.meter.acked) ∧
    (∃ (s : State) (h : MeterHdr) (first count : Nat), meterBad h 7 10 = false ∧ s.mod.meter.runs = true) ∧
    (∃ (s : State) (h : MeterHdr) (val : List Byte), meterBad h 5 7 = false ∧ val.length = 4 ∧ dirCheck .mod
      meterAccess 0xB00005 true s = 0) ∧
    (∃ (s : State) (h : MeterHdr) (code detail : Nat), meterBad h 6 14 = false) :=
  ⟨⟨base, ⟨1, 0, 0, 0, 0⟩, 0, 0, 0, [], by decide +kernel⟩,
   ⟨base, ⟨1, 0, 0, 0, 0⟩, 0, 0, 0, [], by decide +kernel⟩,
   ⟨base, ⟨1, 0, 0, 0, 0⟩, 0, 0, 0, [], by decide +kernel⟩,
   ⟨base, ⟨1, 0, 0, 0, 0⟩, 0, 0, 0, [], by decide +kernel⟩,
   ⟨base, ⟨1, 0, 0, 0, 0⟩, 0, 0, 0, [], by decide +kernel⟩,
   ⟨base, ⟨1, 0, 0, 0, 0⟩, 0, 0, 0, [], by decide +kernel⟩,
   ⟨{ base with mod.meter.state := 1 }, ⟨1, 1, 9, 0, 0⟩, by decide +kernel⟩,
   ⟨{ base with mod.meter.state := 1 }, ⟨1, 2, 16 * ({ base with mod.meter.state := 1 } : State).mod.usage.length,
     0, 0⟩, by decide +kernel⟩,
   ⟨{ base with mod.meter.state := 1 }, ⟨1, 3, 4 * ({ base with mod.meter.state := 1 } :
     State).commonsCharge.length, 0, 0⟩, by decide +kernel⟩,
   ⟨{ base with mod.meter.state := 1, mod.meter.acked := 3 }, ⟨1, 4, 8, 0, 0⟩, 4, by decide +kernel⟩,
   ⟨{ base with mod.meter.state := 1, mod.meter.acked := 3 }, ⟨1, 4, 8, 0, 0⟩, 3, by decide +kernel⟩,
   ⟨{ base with mod.meter.state := 1 }, ⟨1, 7, 10, 0, 0⟩, 0, 0, by decide +kernel⟩,
   ⟨base, ⟨1, 5, 7, 0, 0⟩, [0#8, 0#8, 0#8, 9#8], by decide +kernel⟩,
   ⟨base, ⟨1, 6, 14, 0, 0⟩, 0, 0, by decide +kernel⟩⟩

/-- For each clause of MeterRecordsAreSealed, a state and operands that meet its hypotheses. -/
theorem test_hyps_MeterRecordsAreSealed :
    (∃ (s : State) (cause detail : Nat), s.mod.meter.runs = true ∧ s.mod.meter.update < 2 ^ 32 - 1 ∧
      s.mod.meter.full 1 = false) ∧
    (∃ (s : State) (faulted : Bool), s.mod.meter.runs = true) ∧
    (∃ (s : State) (energy : Nat), s.mod.meter.runs = true ∧ s.mod.meter.synced = true ∧ s.meterTime / 1000000000 =
      s.mod.meter.interval + 1) ∧
    (∃ (s : State) (a : Access) (val : List Byte), dirCheck .mod a 0xB10002 true s = 0 ∧ val.length = 8 ∧ beNat val
      ≤ s.reg .mod 0xB10001 ∧ s.reg .mod 0xB10002 ≤ beNat val) :=
  ⟨⟨{ base with mod.meter.state := 1, mod.meter.update := 2 ^ 32 - 2 }, 2, 5, by decide +kernel⟩,
   ⟨{ base with mod.meter.state := 3 }, false, by decide +kernel⟩,
   ⟨{ base with mod.meter.state := 1, mod.meter.synced := true, mod.meter.time := 1000000000 }, 5, by
     decide +kernel⟩,
   ⟨(base.setReg .mod 0xB10001 4), opA, [0#8, 0#8, 0#8, 0#8, 0#8, 0#8, 0#8, 4#8], by decide +kernel⟩⟩

/-- A bundle for the module that every check of R305 passes, whatever the silicon revision is. -/
def okModBundle (r : Nat) : BundleInfo := ⟨false, 1, true, true, 1, 7, r, r, [⟨1, true⟩, ⟨2, true⟩, ⟨3, true⟩, ⟨4, true⟩, ⟨5, true⟩]⟩

theorem okModBundle_passes : bundleCheck .mod (okModBundle (siliconRev .mod)) = 0 := by
  simp [bundleCheck, okModBundle, imageKinds, partNo]

/-- A bundle of format 2, which R305 refuses. -/
def badModBundle : BundleInfo := { okModBundle 0 with format := 2 }

/-- For each clause of BootCommitAndAttest, a state and operands that meet its hypotheses. -/
theorem test_hyps_BootCommitAndAttest :
    (∃ (s : State) (img : Option MetroImage) (n : Nat) (b : BundleInfo) (l : List (Nat × BundleInfo)),
      s.mod.sh.rot.order = (n, b) :: l ∧ bundleCheck .mod b = 0) ∧
    (∃ (s : State) (img : Option MetroImage) (n : Nat) (b : BundleInfo), s.mod.sh.rot.order = [(n, b)] ∧
      bundleCheck .mod b ≠ 0) ∧
    (∃ (s : State) (a : Access) (b : BundleInfo), dirCheck .mod a 0x800007 true s = 0 ∧ (s.mod.sh.rot.slot (1 -
      s.mod.sh.rot.active)).state = 3) ∧
    (∃ (s : State) (a : Access) (b : BundleInfo), dirCheck .mod a 0x800007 true s = 0 ∧ (s.mod.sh.rot.slot (1 -
      s.mod.sh.rot.active)).state ≠ 3) ∧
    (∃ (s : State) (p : Part) (a : Access) (val : List Byte), dirCheck p a (nonceKey p) true s = 0 ∧ val.length =
      32) ∧
    (∃ (s : State) (p : Part) (n : List Byte), (s.sh p).rot.nonce = some n ∧ (s.sh p).rot.boot = 1 ∧ p = .ep) ∧
    (∃ (s : State) (p : Part), (s.sh p).rot.boot ≠ 1) :=
  ⟨⟨{ base with mod.sh.rot.slot0 := ⟨1, some (okModBundle (siliconRev .mod))⟩ }, none, 0, okModBundle (siliconRev
     .mod), [], rfl, okModBundle_passes⟩,
   ⟨{ base with mod.sh.rot.slot1 := ⟨1, some badModBundle⟩ }, none, 1, badModBundle, by decide +kernel⟩,
   ⟨{ base with mod.sh.rot.slot1 := ⟨3, none⟩ }, opA, badModBundle, by decide +kernel⟩,
   ⟨{ base with mod.sh.rot.slot1 := ⟨2, none⟩ }, opA, badModBundle, by decide +kernel⟩,
   ⟨base, .ep, opA, List.replicate 32 7#8, by decide +kernel⟩,
   ⟨{ base with ep.sh.rot.nonce := some [1#8] }, .ep, [1#8], by decide +kernel⟩,
   ⟨State.reset, .mod, by decide +kernel⟩⟩

/-- For each clause of KeysAreInstalledAndActivated, a state and operands that meet its hypotheses. -/
theorem test_hyps_KeysAreInstalledAndActivated :
    (∃ (s : State) (p : Part) (a : Access) (val : List Byte) (unwrapOk : Bool), dirCheck p a (installKey p) true s
      = 0 ∧ val.length = 576 ∧ (p = .ep → ((installFields val).2.2.1 == 3) = (a.principal == .operator)) ∧ (s.sh
      p).rot.boot ≠ 2 ∧ s.installBad p val unwrapOk = false ∧ (s.keys p (installFields val).1).pend = none ∧
      ((s.keys p (installFields val).1).removal = 0 ∨ (s.keys p (installFields val).1).removal = 4)) ∧
    (∃ (s : State) (p : Part) (a : Access) (val : List Byte) (unwrapOk : Bool), dirCheck p a (installKey p) true s
      = 0 ∧ val.length = 576 ∧ (p = .ep → ((installFields val).2.2.1 == 3) = (a.principal == .operator)) ∧ (s.sh
      p).rot.boot ≠ 2 ∧ ((s.keys p (installFields val).1).removal = 0 ∨ (s.keys p (installFields val).1).removal =
      4) ∧ s.installBad p val unwrapOk = true) ∧
    (∃ (s : State) (p : Part) (a : Access) (val : List Byte) (unwrapOk : Bool), dirCheck p a (installKey p) true s
      = 0 ∧ val.length = 576 ∧ (p = .ep → ((installFields val).2.2.1 == 3) = (a.principal == .operator)) ∧ 1 ≤
      (s.keys p (installFields val).1).removal ∧ (s.keys p (installFields val).1).removal ≤ 3) ∧
    (∃ (s : State) (job e kind t : Nat), (s.keys .mod job).pend = some (e, kind, t) ∧ t ≤ s.rackNs .mod ∧ kind ≠ 2) ∧
    (∃ (s : State) (job e kind t : Nat), (s.keys .ep job).pend = some (e, kind, t) ∧ t ≤ s.rackNs .ep ∧ job ≠ 0) ∧
    (∃ (s : State) (p : Part) (job e kind t : Nat), (s.keys p job).pend = some (e, kind, t) ∧ s.rackNs p < t) ∧
    (∃ (s : State) (p : Part), 99999000 ≤ s.rackNs p % 100000000) :=
  ⟨⟨{ base with ep.slots := [(0, ⟨5, 4096, 0, 1, 0, 0, []⟩)] }, .ep, hostA, beBytes 576 ((5 * 2 ^ 496 + 3 * 2 ^ 488
     + 0 * 2 ^ 484 + 200000000 * 2 ^ 416) * 2 ^ 4096), true, by decide +kernel⟩,
   ⟨base, .mod, opA, beBytes 576 ((0 * 2 ^ 496 + 3 * 2 ^ 488 + 3 * 2 ^ 484 + 200000001 * 2 ^ 416) * 2 ^ 4096),
     true, by decide +kernel⟩,
   ⟨{ base with ep.slots := [(0, ⟨5, 4096, 0, 1, 0, 0, []⟩)], ep.sh.keys := [⟨5, some 3, none, false, none, [], 1, 0, none⟩] },
     .ep, hostA, beBytes 576 ((5 * 2 ^ 496 + 3 * 2 ^ 488 + 0 * 2 ^ 484 + 200000000 * 2 ^ 416) * 2 ^ 4096), true, by
     decide +kernel⟩,
   ⟨{ base with mod.sh.keys := [⟨5, some 3, none, false, some (4, 1, 0), [], 0, 0, none⟩] }, 5, 4, 1, 0, by
     decide +kernel⟩,
   ⟨{ base with ep.sh.keys := [⟨5, some 3, none, false, some (4, 0, 0), [], 0, 0, none⟩] }, 5, 4, 0, 0, by
     decide +kernel⟩,
   ⟨{ base with ep.sh.keys := [⟨5, some 3, none, false, some (4, 0, 1), [], 0, 0, none⟩] }, .ep, 5, 4, 0, 1, by
     decide +kernel⟩,
   ⟨{ base with mod.sh.rt.units := 499995000 }, .mod, by decide +kernel⟩⟩

/-- For each clause of TenantRemovalRunsItsSteps, a state and operands that meet its hypotheses. -/
theorem test_hyps_TenantRemovalRunsItsSteps :
    (∃ (s : State) (p : Part) (a : Access) (val : List Byte) (job at_ : Nat), dirCheck p a (retireKey p) true s = 0
      ∧ val.length = 16 ∧ job = bits (beNat val) 127 112 ∧ at_ = bits (beNat val) 111 48 ∧ bits (beNat val) 47 0 =
      0 ∧ at_ % 1000 = 0 ∧ s.rackNs p + 1000000 ≤ at_ ∧ ((s.keys p job).removal = 0 ∨ (s.keys p job).removal = 4) ∧
      s.keepsJob p job = true) ∧
    (∃ (s : State) (p : Part) (job : Nat), (s.keys p job).removal = 1 ∧ (s.keys p job).retireAt ≤ s.rackNs p) ∧
    (∃ (s : State) (p : Part) (job : Nat), (s.keys p job).removal = 2 ∧ s.jobGone p job = true) ∧
    (∃ (s : State) (p : Part) (job e : Nat), (s.keys p job).removal = 3 ∧ (s.keys p job).readyAt = some e ∧ e <
      s.epochOf p ∧ p = .mod) :=
  ⟨⟨{ base with ep.slots := [(0, ⟨5, 4096, 0, 1, 0, 0, []⟩)] }, .ep, opA, beBytes 16 (5 * 2 ^ 112 + 1000000 * 2 ^
     48), 5, 1000000, by decide +kernel⟩,
   ⟨{ base with mod.sh.keys := [⟨5, some 3, none, false, none, [], 1, 0, none⟩] }, .mod, 5, by decide +kernel⟩,
   ⟨{ base with mod.sh.keys := [⟨5, some 3, none, false, none, [], 2, 0, none⟩] }, .mod, 5, by decide +kernel⟩,
   ⟨{ base with mod.sh.rt.units := 500000000, mod.sh.keys := [⟨5, some 3, none, false, none, [], 3, 0, some 1⟩] },
     .mod, 5, 1, by decide +kernel⟩⟩

/-- For each clause of RackTimeFollowsLanes, a state and operands that meet its hypotheses. -/
theorem test_hyps_RackTimeFollowsLanes :
    (∃ (s : State) (p : Part) (l : Nat) (epoch : Bool), l < 2 ∧ (s.sh p).rt.state ≠ 2 ∧ epoch = true) ∧
    (∃ (s : State) (p : Part) (l value : Nat), l < 2 ∧ (s.sh p).rt.state = 0 ∧ l = (s.sh p).rt.source) ∧
    (∃ (s : State) (p : Part) (l value : Nat), l < 2 ∧ (s.sh p).rt.state = 1 ∧ l = (s.sh p).rt.source ∧ 1 ≤ (s.sh
      p).rt.agrees ∧ (((value * 5 : Nat) : Int) - ((s.sh p).rt.lane l).epoch).natAbs ≤ s.tickTol p) ∧
    (∃ (s : State) (p : Part) (l value : Nat), l < 2 ∧ (s.sh p).rt.state = 4) ∧
    (∃ (s : State) (p : Part) (l : Nat), l < 2 ∧ (s.sh p).rt.state = 2 ∧ l = (s.sh p).rt.source ∧ ((s.sh p).rt.lane
      (1 - l)).sync = true) ∧
    (∃ (s : State) (p : Part) (l : Nat), l < 2 ∧ (s.sh p).rt.state = 2 ∧ ((s.sh p).rt.lane (1 - l)).sync = false) ∧
    (∃ (s : State) (p : Part), (s.sh p).rt.state = 3 ∧ (s.sh p).rt.since + 5000000 * s.reg p 0xC00007 ≤ s.clock) ∧
    (∃ (s : State) (p : Part) (energy : Nat) (d : Int), (s.sh p).rt.step = some d ∧ d ≤ 0 ∧ (s.sh p).mode = 0) :=
  ⟨⟨base, .ep, 1, true, by decide +kernel⟩,
   ⟨base, .ep, 0, 7, by decide +kernel⟩,
   ⟨{ base with ep.sh.rt.state := 1, ep.sh.rt.agrees := 1 }, .ep, 0, 4, by decide +kernel⟩,
   ⟨{ base with ep.sh.rt.state := 4 }, .ep, 1, 7, by decide +kernel⟩,
   ⟨{ base with ep.sh.rt.state := 2, ep.sh.rt.laneB := ⟨true, 0, true, 0, none, true⟩ }, .ep, 0, by decide +kernel⟩,
   ⟨{ base with ep.sh.rt.state := 2 }, .ep, 0, by decide +kernel⟩,
   ⟨{ base with ep.sh.rt.state := 3, clock := 5000000000 }, .ep, by decide +kernel⟩,
   ⟨{ base with ep.sh.rt.step := some 0 }, .ep, 0, 0, by decide +kernel⟩⟩

/-- A Verdict message under its authenticator of epoch 3 of the rack secret, and what a part then holds for that secret. -/
def macd (v : VMsg) : VMsg := { v with mac := v.macUnder 3 }
def keys3 : JobKeys := ⟨0, some 3, none, false, none, [], 0, 0, none⟩

theorem macd_right {s : State} {p : Part} {v : VMsg} (h : (s.sh p).keysOf 0 = some keys3) : s.macRight p (macd v) = true := by
  unfold State.macRight; rw [h]
  show ((v.macUnder 3 == v.macUnder 3) || false) = true
  simp

theorem macd_good {s : State} {p : Part} {v : VMsg} (h : (s.sh p).keysOf 0 = some keys3) (k : v.kind ≤ 4 ∧ v.reserved = false) :
    s.vBad p (macd v) = false := by
  unfold State.vBad; rw [macd_right h]
  show (!true || decide (4 < v.kind) || v.reserved) = false
  rw [k.2, decide_eq_false (by omega)]; rfl

theorem foldl_lt {α : Type} (f : Nat → α → Nat) (n : Nat) (hf : ∀ r a, r < n → f r a < n) (l : List α) :
    ∀ r, r < n → l.foldl f r < n := by
  induction l with
  | nil => intro r h; exact h
  | cons a l ih => intro r h; exact ih _ (hf r a h)

theorem crc16_lt (l : List Byte) : crc16 l < 65536 :=
  foldl_lt _ 65536 (fun r a h => foldl_lt _ 65536 (fun r i _ => by
    split
    · exact Nat.mod_lt _ (by decide)
    · exact Nat.xor_lt_two_pow (n := 16) (Nat.mod_lt _ (by decide)) (by decide)) _ r h) l _ (by decide)

theorem beNat_append (a b : List Byte) : beNat (a ++ b) = beNat a * 256 ^ b.length + beNat b := by
  induction b using List.reverseRecOn with
  | nil => simp [beNat]
  | append_singleton b x ih =>
    rw [← List.append_assoc, beNat_append_one, ih, beNat_append_one, List.length_append, List.length_singleton, Nat.pow_succ]; ring

/-- The characters between the ends of a message. -/
def midOf (h : Nat) (p : List Byte) : List TlChar :=
  (beBytes 10 h ++ p ++ beBytes 2 (crc16 (beBytes 10 h ++ p))).map fun x => TlChar.d x.toNat

theorem mid_ok (h : Nat) (p : List Byte) : ∀ c ∈ midOf h p, ∀ n, c ≠ .k n := by
  intro c hc n e
  obtain ⟨x, _, rfl⟩ := List.mem_map.mp hc
  cases e

theorem read_verdict (h : Nat) (p : List Byte) (hp : p.length = 32) (hh : bits (h % 2 ^ 80) 79 72 = 1 ∧ bits (h % 2 ^ 80) 31 24 = 32 ∧
    bits (h % 2 ^ 80) 70 68 = 0 ∧ bits (h % 2 ^ 80) 23 0 = 0) :
    readMessage (kStart :: midOf h p ++ [kEnd]) =
      { broadcast := bit (h % 2 ^ 80) 71, source := bits (h % 2 ^ 80) 67 58, dest := bits (h % 2 ^ 80) 57 48,
        seq := bits (h % 2 ^ 80) 47 32, bad := false, body := .verdict (verdictOf (beNat p)) } := by
  have e1 : ((kStart :: midOf h p ++ [kEnd]).drop 1).dropLast = midOf h p := by simp
  have e2 : ((midOf h p).filterMap TlChar.byte).map (BitVec.ofNat 8) = beBytes 10 h ++ p ++ beBytes 2 (crc16 (beBytes 10 h ++ p)) := by
    rw [midOf, List.filterMap_map, show (TlChar.byte ∘ fun x : Byte => TlChar.d x.toNat) = some ∘ BitVec.toNat from rfl,
      List.filterMap_eq_map, List.map_map]
    conv_rhs => rw [← List.map_id (beBytes 10 h ++ p ++ beBytes 2 (crc16 (beBytes 10 h ++ p)))]
    exact List.map_congr_left fun x _ => by simp
  have e3 : (midOf h p).any (fun c => c.byte.isNone) = false := by
    rw [List.any_eq_false]; intro c hc
    obtain ⟨x, _, rfl⟩ := List.mem_map.mp hc
    simp [TlChar.byte]
  have l : (beBytes 10 h ++ p).length = 42 := by rw [List.length_append, beBytes_length, hp]
  unfold readMessage
  dsimp only
  rw [e1, e2, e3]
  have n : (beBytes 10 h ++ p ++ beBytes 2 (crc16 (beBytes 10 h ++ p))).length - 12 = 32 := by
    rw [List.length_append, l, beBytes_length]
  have t1 : (beBytes 10 h ++ p ++ beBytes 2 (crc16 (beBytes 10 h ++ p))).take 10 = beBytes 10 h := by
    rw [List.append_assoc]; exact List.take_left' (beBytes_length _ _)
  have t2 : ((beBytes 10 h ++ p ++ beBytes 2 (crc16 (beBytes 10 h ++ p))).drop 10).take 32 = p := by
    rw [List.append_assoc, List.drop_left' (beBytes_length _ _)]; exact List.take_left' hp
  have t3 : (beBytes 10 h ++ p ++ beBytes 2 (crc16 (beBytes 10 h ++ p))).take (10 + 32) = beBytes 10 h ++ p := List.take_left' l
  have t4 : (beBytes 10 h ++ p ++ beBytes 2 (crc16 (beBytes 10 h ++ p))).drop (10 + 32) = beBytes 2 (crc16 (beBytes 10 h ++ p)) :=
    List.drop_left' l
  have c : beNat (beBytes 2 (crc16 (beBytes 10 h ++ p))) = crc16 (beBytes 10 h ++ p) := by
    rw [beNat_beBytes]; exact Nat.mod_eq_of_lt (crc16_lt _)
  rw [n, t1, t2, t3, t4, c, beNat_beBytes, show (256 : Nat) ^ 10 = 2 ^ 80 from rfl]
  obtain ⟨h1, h2, h3, h4⟩ := hh
  rw [h1, h2, h3, h4]
  have g1 : (kStart :: midOf h p ++ [kEnd]).head? = some kStart := rfl
  have g2 : (kStart :: midOf h p ++ [kEnd]).getLast? = some kEnd := List.getLast?_concat
  rw [g1, g2]
  rw [show decide ((beBytes 10 h ++ p ++ beBytes 2 (crc16 (beBytes 10 h ++ p))).length < 12) = false from
    decide_eq_false (by rw [List.length_append, l, beBytes_length]; decide)]
  simp

/-- A Verdict message that suspends part 7, under the authenticator of epoch 3 of the rack secret. -/
def vm3 : VMsg := macd ⟨1, 1, 515, 7, 0, 0, false, 0, 0, 0, false, 0⟩

theorem vm3_mac : vm3.mac < 2 ^ 64 := by
  have := beNat_lt (sliceBytes (Config.cmac (Config.kdf (Config.secret 0 3) "SNH verdict" [] 256)
    (⟨1, 1, 515, 7, 0, 0, false, 0, 0, 0, false, 0⟩ : VMsg).body) 0 8)
  rw [sliceBytes, List.length_map, List.length_range] at this
  exact this

theorem vm3_payload : beNat (vPayload vm3) = beNat vm3.body * 2 ^ 64 + vm3.mac := by
  have h := vm3_mac
  rw [vPayload, beNat_append, beBytes_length, beNat_beBytes]
  generalize vm3.mac = m at h ⊢
  generalize beNat vm3.body = b
  omega

theorem vm3_read : verdictOf (beNat (vPayload vm3)) = vm3 := by
  have h := vm3_mac
  have f : beNat vm3.body = 429170750859110349941699553931685506379927284072205778944 := by decide +kernel
  rw [vm3_payload, f]
  have g : vm3 = ⟨1, 1, 515, 7, 0, 0, false, 0, 0, 0, false, vm3.mac⟩ := rfl
  rw [g]
  generalize vm3.mac = m at h
  simp only [verdictOf, bits, bit, VMsg.mk.injEq]
  refine ⟨?_, ?_, ?_, ?_, ?_, ?_, ?_, ?_, ?_, ?_, ?_, ?_⟩ <;>
    first | omega | exact decide_eq_false (by omega) | (simp only [Bool.or_eq_false_iff, bne_eq_false_iff_eq]; omega)

/-- A Barrier release for node 9 from part 4, and a Verdict message whose authenticator no part takes. -/
def barMsg : TlMsg := ⟨false, 4, 9, 9, false, .barrier ⟨5, 1, 0, 9, 0⟩⟩
def verMsg : TlMsg := ⟨true, 4, 0, 9, false, .verdict ⟨0, 0, 0, 0, 0, 0, false, 0, 0, 0, false, 0⟩⟩
def midB : List TlChar := midOf (barMsg.header 2 12) (BarrierRel.bytes ⟨5, 1, 0, 9, 0⟩)
def midV : List TlChar := midOf (verMsg.header 1 32) (vPayload ⟨0, 0, 0, 0, 0, 0, false, 0, 0, 0, false, 0⟩)
def midG : List TlChar := midOf (verMsg.header 1 32) (vPayload vm3)

theorem midB_read : barMsg = readMessage (kStart :: midB ++ [kEnd]) := by decide +kernel
theorem midV_read : verMsg = readMessage (kStart :: midV ++ [kEnd]) := by decide +kernel

theorem midG_read : (⟨true, 4, 0, 9, false, .verdict vm3⟩ : TlMsg) = readMessage (kStart :: midG ++ [kEnd]) := by
  rw [midG, read_verdict _ _ (by rw [vPayload, List.length_append, beBytes_length, VMsg.body, beBytes_length]) (by decide), vm3_read,
    TlMsg.mk.injEq]
  exact ⟨by decide +kernel, by decide +kernel, by decide +kernel, by decide +kernel, rfl, rfl⟩

/-- For each clause of TimingLaneMessagesAreTakenOnce, a state and operands that meet its hypotheses. -/
theorem test_hyps_TimingLaneMessagesAreTakenOnce :
    (∃ (s : State) (p : Part) (l : Nat) (mid chars : List TlChar) (m : TlMsg), (∀ c ∈ mid, ∀ n, c ≠ .k n) ∧ chars =
      kStart :: mid ++ [kEnd] ∧ m = readMessage chars ∧ (if l = 0 then (s.sh p).tl.partA else (s.sh p).tl.partB) =
      { chars := [], skip := 0 } ∧ m.bad = true) ∧
    (∃ (s : State) (p : Part) (l : Nat) (mid chars : List TlChar) (m : TlMsg), (∀ c ∈ mid, ∀ n, c ≠ .k n) ∧ chars =
      kStart :: mid ++ [kEnd] ∧ m = readMessage chars ∧ (if l = 0 then (s.sh p).tl.partA else (s.sh p).tl.partB) =
      { chars := [], skip := 0 } ∧ m.bad = false ∧ m.body ≠ .undefined ∧ m.broadcast = false ∧ m.dest ≠ s.node p) ∧
    (∃ (s : State) (p : Part) (l : Nat) (mid chars : List TlChar) (m : TlMsg), (∀ c ∈ mid, ∀ n, c ≠ .k n) ∧ chars =
      kStart :: mid ++ [kEnd] ∧ m = readMessage chars ∧ (∀ v, m.body = .verdict v → s.vBad p v = false) ∧ (if l = 0
      then (s.sh p).tl.partA else (s.sh p).tl.partB) = { chars := [], skip := 0 } ∧ m.bad = false ∧ m.body ≠
      .undefined ∧ m.seq ∈ tabGetD (s.sh p).tl.seen m.source []) ∧
    (∃ (s : State) (p : Part) (l : Nat) (mid chars : List TlChar) (m : TlMsg) (v : _), (∀ c ∈ mid, ∀ n, c ≠ .k n) ∧
      chars = kStart :: mid ++ [kEnd] ∧ m = readMessage chars ∧ m.body = .verdict v ∧ (if l = 0 then (s.sh
      p).tl.partA else (s.sh p).tl.partB) = { chars := [], skip := 0 } ∧ m.bad = false ∧ (m.broadcast = true ∨
      m.dest = s.node p) ∧ s.vBad p v = true) ∧
    (∃ (s : State) (p : Part) (l : Nat) (mid chars : List TlChar) (m : TlMsg) (v : _), (∀ c ∈ mid, ∀ n, c ≠ .k n) ∧
      chars = kStart :: mid ++ [kEnd] ∧ m = readMessage chars ∧ m.body = .verdict v ∧ s.vBad p v = false ∧ (if l =
      0 then (s.sh p).tl.partA else (s.sh p).tl.partB) = { chars := [], skip := 0 } ∧ m.bad = false ∧ (m.broadcast
      = true ∨ m.dest = s.node p) ∧ m.seq ∉ tabGetD (s.sh p).tl.seen m.source []) ∧
    (∃ (s : State) (p : Part) (l at_ : Nat) (chars : List TlChar), (if l = 0 then (s.sh p).tl.partA else (s.sh
      p).tl.partB).skip = 0 ∧ kEpoch ∉ chars) ∧
    (∃ (s : State) (p : Part) (l : Nat), l = 0) ∧
    (∃ (s : State) (p : Part) (l : Nat), l ≠ 0) :=
  ⟨⟨base, .ep, 0, [], kStart :: [] ++ [kEnd], readMessage [kStart, kEnd], (fun _ h => by cases h), rfl, by
     decide +kernel, by decide +kernel⟩,
   ⟨base, .ep, 0, midB, kStart :: midB ++ [kEnd], barMsg, mid_ok _ _, rfl, midB_read, by decide +kernel⟩,
   ⟨{ base with ep.sh.tl.seen := [(4, [9])] }, .ep, 0, midB, kStart :: midB ++ [kEnd], barMsg, mid_ok _ _, rfl,
     midB_read, (fun _ h => by cases h), by decide +kernel⟩,
   ⟨base, .ep, 0, midV, kStart :: midV ++ [kEnd], verMsg, ⟨0, 0, 0, 0, 0, 0, false, 0, 0, 0, false, 0⟩, mid_ok _ _,
     rfl, midV_read, rfl, by decide +kernel⟩,
   ⟨{ base with ep.sh.keys := [keys3] }, .ep, 0, midG, kStart :: midG ++ [kEnd], ⟨true, 4, 0, 9, false, .verdict
     vm3⟩, vm3, mid_ok _ _, rfl, midG_read, rfl, macd_good rfl (by decide), by decide +kernel⟩,
   ⟨base, .ep, 0, 0, [], by decide +kernel⟩,
   ⟨base, .ep, 0, by decide +kernel⟩,
   ⟨base, .ep, 1, by decide +kernel⟩⟩

/-- For each clause of MownEntriesRunTheirStates, a state and operands that meet its hypotheses. -/
theorem test_hyps_MownEntriesRunTheirStates :
    (∃ (s : State) (a : Access) (val : List Byte), dirCheck .ep a 0xC30003 true s = 0 ∧ val.length = 32 ∧ hostHolds
      .ep a (mownOf (beNat val)).job s = true ∧ bits (beNat val) 75 0 = 0 ∧ (mownOf (beNat val)).start % 1000 = 0 ∧
      20 ≤ (mownOf (beNat val)).interval ∧ 500 ≤ (mownOf (beNat val)).lead ∧ (mownOf (beNat val)).lead ≤ 100000 ∧
      tabGet s.ep.sh.mown (s.sel .ep a.ctx 0xC30002) = none) ∧
    (∃ (s : State) (a : Access) (val : List Byte), dirCheck .mod a 0xC30003 true s = 0 ∧ val.length = 32 ∧
      hostHolds .mod a (mownOf (beNat val)).job s = true ∧ bits (beNat val) 75 0 = 0 ∧ (mownOf (beNat val)).start %
      1000 = 0 ∧ 20 ≤ (mownOf (beNat val)).interval ∧ 500 ≤ (mownOf (beNat val)).lead ∧ (mownOf (beNat val)).lead ≤
      100000 ∧ tabGet s.mod.sh.mown (s.sel .mod a.ctx 0xC30002) = none ∧ s.mownOk (mownOf (beNat val)) = true) ∧
    (∃ (s : State) (a : Access) (val : List Byte), dirCheck .mod a 0xC30003 true s = 0 ∧ val.length = 32 ∧
      hostHolds .mod a (mownOf (beNat val)).job s = true ∧ bits (beNat val) 75 0 = 0 ∧ (mownOf (beNat val)).start %
      1000 = 0 ∧ 20 ≤ (mownOf (beNat val)).interval ∧ 500 ≤ (mownOf (beNat val)).lead ∧ (mownOf (beNat val)).lead ≤
      100000 ∧ tabGet s.mod.sh.mown (s.sel .mod a.ctx 0xC30002) = none ∧ s.mownOk (mownOf (beNat val)) = false) ∧
    (∃ (s : State) (p : Part) (a : Access) (val : List Byte), dirCheck p a 0xC30003 true s = 0 ∧ val.length = 32 ∧
      hostHolds p a (mownOf (beNat val)).job s = false) ∧
    (∃ (s : State) (i : Nat) (e : MownEntry), tabGet s.mod.sh.mown i = some e ∧ e.state = 1) ∧
    (∃ (s : State) (i : Nat) (e : MownEntry), tabGet s.mod.sh.mown i = some e ∧ e.state = 2 ∧ e.start ≤ s.rackNs
      .mod ∧ s.mod.sh.mode = 1 ∧ ((s.group e.group).v = false ∨ (s.group e.group).job ≠ e.job ∨ (s.group
      e.group).place e.cseq ≠ cDone)) ∧
    (∃ (s : State) (i : Nat) (e : MownEntry), tabGet s.mod.sh.mown i = some e ∧ e.state = 2 ∧ e.start ≤ s.rackNs
      .mod ∧ s.mod.sh.mode = 1 ∧ (s.group e.group).v = true ∧ (s.group e.group).job = e.job ∧ (s.group
      e.group).place e.cseq = cDone) ∧
    (∃ (s : State) (i k : Nat) (e : MownEntry) (x : SeqSlot), tabGet s.mod.sh.mown i = some e ∧ s.seqSlot e.group
      e.cseq = some x ∧ e.state = 3 ∧ s.mod.sh.mode = 1 ∧ (e.slotOf ((s.group e.group).shape x.cctx (x.size.getD
      0)) k).1 = s.plane ∧ (e.slotOf ((s.group e.group).shape x.cctx (x.size.getD 0)) k).2 ≤ s.rackNs .mod ∧
      ((s.group e.group).shape x.cctx (x.size.getD 0)).op ≠ 3 ∧ x.size.isSome = true ∧ k < ((s.group e.group).shape
      x.cctx (x.size.getD 0)).pieces ∧ (x.piece k).done = false ∧ (x.piece k).spilled = false ∧ k / 2 ^ ((s.group
      e.group).shape x.cctx (x.size.getD 0)).order ∉ x.poisoned) ∧
    (∃ (s : State) (i cause : Nat) (e : MownEntry), tabGet s.mod.sh.mown i = some e ∧ (e.state = 2 ∨ e.state = 3)) :=
  ⟨⟨{ base with ep.slots := [(0, ⟨5, 4096, 0, 1, 0, 0, []⟩)] }, hostA, beBytes 32 (MownEntry.word ⟨5, 1, 0, 9, 0,
     20, 500, 1, 0, [], [], 0⟩), by decide +kernel⟩,
   ⟨{ base with mod.sh.regs := [(0x831002 * 65536 + 5, 0)], mod.groups := [(1, ⟨true, 5, 1, 1, false, 0, [3], [(0, ⟨true, 2, 0, 0, 0⟩)], [], 9, []⟩)] },
     hostA, beBytes 32 (MownEntry.word ⟨5, 1, 0, 9, 1000000, 20, 500, 1, 0, [], [], 0⟩), by decide +kernel⟩,
   ⟨{ base with mod.sh.regs := [(0x831002 * 65536 + 5, 0)] }, hostA, beBytes 32 (MownEntry.word ⟨5, 1, 0, 9, 0, 20,
     500, 1, 0, [], [], 0⟩), by decide +kernel⟩,
   ⟨base, .ep, hostA, beBytes 32 (MownEntry.word ⟨5, 1, 0, 9, 0, 20, 500, 1, 0, [], [], 0⟩), by decide +kernel⟩,
   ⟨{ base with mod.sh.mown := [(3, ⟨5, 1, 0, 9, 0, 20, 500, 1, 1, [], [], 0⟩)] }, 3, ⟨5, 1, 0, 9, 0, 20, 500, 1,
     1, [], [], 0⟩, by decide +kernel⟩,
   ⟨{ base with mod.sh.mode := 1, mod.sh.mown := [(3, ⟨5, 1, 0, 9, 0, 20, 500, 1, 2, [], [], 0⟩)] }, 3, ⟨5, 1, 0,
     9, 0, 20, 500, 1, 2, [], [], 0⟩, by decide +kernel⟩,
   ⟨{ base with mod.sh.mode := 1, mod.sh.mown := [(3, ⟨5, 1, 0, 9, 0, 20, 500, 1, 2, [], [], 0⟩)], mod.groups := [(1, ⟨true, 5, 1, 1, false, 0, [3], [(0, ⟨true, 2, 0, 0, 0⟩)], [], 9, []⟩)] },
     3, ⟨5, 1, 0, 9, 0, 20, 500, 1, 2, [], [], 0⟩, by decide +kernel⟩,
   ⟨{ base with mod.sh.mode := 1, mod.sh.rt.units := 2500, mod.sh.mown := [(3, ⟨5, 1, 0, 9, 0, 20, 500, 1, 3, [], [], 0⟩)], mod.groups := [(1, ⟨true, 5, 1, 1, false, 0, [3], [(0, ⟨true, 2, 0, 0, 0⟩)], [], 9, [(1, ⟨1, 9, 0, 0, 1000, 0, 0, some 64, [], [], [], [], false, []⟩)]⟩)] },
     3, 0, ⟨5, 1, 0, 9, 0, 20, 500, 1, 3, [], [], 0⟩, ⟨1, 9, 0, 0, 1000, 0, 0, some 64, [], [], [], [], false, []⟩,
     by decide +kernel⟩,
   ⟨{ base with mod.sh.mown := [(3, ⟨5, 1, 0, 9, 0, 20, 500, 1, 3, [], [], 0⟩)] }, 3, 0, ⟨5, 1, 0, 9, 0, 20, 500,
     1, 3, [], [], 0⟩, by decide +kernel⟩⟩

/-- For each clause of MownModeSwitches, a state and operands that meet its hypotheses. -/
theorem test_hyps_MownModeSwitches :
    (∃ (s : State) (p : Part) (t : Nat), (s.sh p).switchAt = some t ∧ t ≤ s.rackNs p ∧ s.reg p 0xC20003 ≠ 0 ∧ (s.sh
      p).mode = 0 ∧ s.mownBar p = none) ∧
    (∃ (s : State) (p : Part) (t : Nat), (s.sh p).switchAt = some t ∧ t ≤ s.rackNs p ∧ s.reg p 0xC20003 ≠ 0 ∧ (s.sh
      p).mode = 0 ∧ s.locked p = false) ∧
    (∃ (s : State) (p : Part) (t : Nat), (s.sh p).switchAt = some t ∧ t ≤ s.rackNs p ∧ s.reg p 0xC20003 = 0) ∧
    (∃ (s : State) (c k : Nat) (x : EpColl) (sh : Shape) (e : MownEntry) (d : Option (List Byte)), (∀ j ∈ x.left
      sh, j < k → x.planeOf sh j ≠ x.planeOf sh k) ∧ s.coll c = some x ∧ x.shape = some sh ∧ s.epEntry x = some e ∧
      s.ep.sh.mode = 1 ∧ x.state = 3 ∧ e.start + x.localIndex sh k * e.interval ≤ s.rackNs .ep ∧ sh.op ≠ 3 ∧ k ∈
      x.left sh ∧ x.assemble sh k = some d) ∧
    (∃ (s : State) (c k : Nat) (x : EpColl), s.coll c = some x ∧ s.ep.sh.mode ≠ 1) :=
  ⟨⟨({ base with ep.sh.switchAt := some 0, ep.sh.rt.state := 2 }.setReg .ep 0xC20003 1), .ep, 0, by decide +kernel⟩,
   ⟨({ base with mod.sh.switchAt := some 0 }.setReg .mod 0xC20003 1), .mod, 0, by decide +kernel⟩,
   ⟨{ base with ep.sh.switchAt := some 0 }, .ep, 0, by decide +kernel⟩,
   ⟨{ base with ep.sh.mode := 1, ep.sh.mown := [(3, ⟨5, 1, 0, 9, 0, 20, 500, 1, 2, [], [], 0⟩)], ep.colls := [coll0] },
     1, 0, coll0, coll0.shapeFrom 0, ⟨5, 1, 0, 9, 0, 20, 500, 1, 2, [], [], 0⟩, none, by decide +kernel, by
     decide +kernel⟩,
   ⟨{ base with ep.colls := [coll0] }, 1, 0, coll0, by decide +kernel⟩⟩

/-- For each clause of ModulesSuspectAndVote, a state and operands that meet its hypotheses. -/
theorem test_hyps_ModulesSuspectAndVote :
    (∃ (s : State), s.rackNs .mod / 1000 % 10 = 0 ∧ s.mod.sh.rot.boot = 1 ∧ s.mod.sh.verd.beat ≠ some (s.rackNs
      .mod / 1000) ∧ s.mod.power.state < 3) ∧
    (∃ (s : State), s.rackNs .ep / 1000 % 10 = 0 ∧ s.ep.sh.rot.boot = 1 ∧ s.ep.sh.verd.beat ≠ some (s.rackNs .ep /
      1000) ∧ s.ep.tripped = false ∧ s.ep.supply = 0 ∧ s.ep.inReset = false) ∧
    (∃ (s : State) (p : Part), (s.rackNs p / 1000 % 10 ≠ 0 ∨ (s.sh p).verd.beat = some (s.rackNs p / 1000) ∨ (s.sh
      p).rot.boot ≠ 1)) ∧
    (∃ (s : State) (part : Nat), s.isPart part = true ∧ tabGet s.mod.ve.suspects part = none ∧ s.heardAt part +
      35000 ≤ s.ns) ∧
    (∃ (s : State) (part t : Nat), tabGet s.mod.ve.suspects part = some t ∧ s.voteDue part = true) ∧
    (∃ (s : State) (part : Nat), (tabGet s.mod.ve.suspects part = none ∨ s.voteDue part = false)) ∧
    (∃ (s : State) (p : Part) (v : VMsg), (s.macRight p v = false ∨ 4 < v.kind ∨ v.reserved = true)) ∧
    (∃ (s : State) (v : VMsg), s.macRight .mod v = true ∧ v.reserved = false ∧ v.kind = 0 ∧ v.origin < 512 ∧ tabGet
      s.mod.ve.suspects v.origin = none) ∧
    (∃ (s : State) (v : VMsg) (w : Vote), s.macRight .mod v = true ∧ v.reserved = false ∧ v.kind = 1 ∧ 512 ≤
      v.origin ∧ (v.vkind = 1 ∨ v.vkind = 2) ∧ (w.plane ≠ v.origin - 512 ∨ w.node ≠ subjectOf v)) ∧
    (∃ (s : State) (p : Part) (v : VMsg), s.macRight p v = true ∧ v.reserved = false ∧ v.kind = 2 ∧ serialAfter
      v.number (s.sh p).verd.last = true ∧ (∀ x ∈ (s.sh p).verd.pending, x.v.number ≠ v.number)) :=
  ⟨⟨{ base with mod.power.state := 2 }, by decide +kernel⟩,
   ⟨base, by decide +kernel⟩,
   ⟨{ base with mod.sh.rt.units := 5000 }, .mod, by decide +kernel⟩,
   ⟨{ base with clock := 175000 }, 513, by decide +kernel⟩,
   ⟨{ base with mod.ve.suspects := [(7, 3)] }, 7, 3, by decide +kernel⟩,
   ⟨base, 7, by decide +kernel⟩,
   ⟨base, .ep, ⟨5, 0, 0, 0, 0, 0, false, 0, 0, 0, false, 0⟩, by decide +kernel⟩,
   ⟨{ base with mod.sh.keys := [keys3] }, macd ⟨0, 0, 7, 0, 0, 0, false, 0, 0, 0, false, 0⟩, macd_right rfl, by
     decide +kernel⟩,
   ⟨{ base with mod.sh.keys := [keys3] }, macd ⟨1, 2, 515, 0, 3, 0, false, 0, 0, 0, false, 0⟩, ⟨1, 2, 0⟩,
     macd_right rfl, by decide +kernel⟩,
   ⟨{ base with ep.sh.keys := [keys3] }, .ep, macd ⟨2, 1, 0, 0, 0, 0, false, 0, 1, 0, false, 0⟩, macd_right rfl, by
     decide +kernel⟩⟩

/-- For each clause of VerdictsAreIssued, a state and operands that meet its hypotheses. -/
theorem test_hyps_VerdictsAreIssued :
    (∃ (s : State) (node plane : Nat) (ready : Bool), node < 512 ∧ s.mayCondemn node = true ∧ node ∉
      s.mod.sh.verd.dead ∧ s.verdictPending 1 node 0 = false) ∧
    (∃ (s : State) (node plane : Nat) (ready : Bool), plane < s.planeCount ∧ s.mayCondemn (512 + plane) = true ∧
      plane ∉ s.mod.sh.verd.failed ∧ s.verdictPending 2 0 plane = false) ∧
    (∃ (s : State) (node plane : Nat), s.leader = s.plane ∧ plane ∈ s.mod.ve.restores ∧ plane ∈
      s.mod.sh.verd.failed ∧ s.heardByQuorum (512 + plane) = true ∧ s.verdictPending 5 0 plane = false) ∧
    (∃ (s : State) (node plane : Nat) (ready : Bool), s.leader = s.plane ∧ node ∈ s.mod.ve.rebinds ∧ node ∈
      s.mod.sh.verd.dead ∧ s.heardByQuorum node = true ∧ tabGetD s.mod.ve.deadAt node 0 + 200000000 ≤ s.ns ∧
      s.verdictPending 6 node 0 = false) ∧
    (∃ (s : State) (node port : Nat) (q : Port), s.nodePort node = some (port, q) ∧ q.state ≠ 7 ∧ (s.route
      node).fenced = false ∧ s.suspected node = false ∧ s.mod.ve.fenced = false ∧ s.verdictPending 3 node s.plane =
      false ∧ q.downSince + s.regNow .mod 0xA00007 * 1000 ≤ s.ns) ∧
    (∃ (s : State) (node port : Nat) (q : Port), s.nodePort node = some (port, q) ∧ q.state = 7 ∧ (s.route
      node).fenced = true ∧ node ∉ s.mod.sh.verd.dead ∧ s.verdictPending 4 node s.plane = false ∧ q.activeSince +
      1000000 * s.regNow .mod 0xA00008 ≤ s.ns) ∧
    (∃ (s : State) (at_ : Nat), (at_ = s.ns - s.regNow .mod 0xA00003 * 1000 ∨ ∃ q, (q, at_) ∈ s.mod.ve.heardSince ∧
      s.ns < at_ + s.regNow .mod 0xA00003 * 1000) ∧ s.quorum ≤ 1 + s.planesHeard at_) ∧
    (∃ (s : State), s.regNow .mod 0xA00003 * 1000 ≤ s.ns ∧ 1 + s.planesHeard (s.ns - s.regNow .mod 0xA00003 * 1000)
      < s.quorum ∧ (∀ x ∈ s.mod.ve.heardSince, s.ns < x.2 + s.regNow .mod 0xA00003 * 1000 → 1 + s.planesHeard x.2 <
      s.quorum)) ∧
    (∃ (s : State) (a : Access) (val : List Byte), dirCheck .mod a 0xA10002 true s = 0 ∧ val.length = 2 ∧ beNat val
      ≤ 511 ∧ beNat val ∈ s.mod.sh.verd.dead) ∧
    (∃ (s : State) (a : Access) (val : List Byte), dirCheck .mod a 0xA10001 true s = 0 ∧ val.length = 1 ∧ beNat val
      ≤ 15 ∧ beNat val ∈ s.mod.sh.verd.failed) :=
  ⟨⟨({ base with clock := 90000, mod.ve.suspects := [(7, 0)], mod.ve.votes := [0, 1, 2, 3, 4, 5, 6, 7, 8, 9].map (fun p => ⟨p, 7, 10000⟩) }.setReg
     .mod 0xA00003 10), 7, 0, false, by decide +kernel⟩,
   ⟨({ base with clock := 90000, mod.ve.suspects := [(515, 0)], mod.ve.votes := [0, 1, 2, 3, 4, 5, 6, 7, 8, 9].map (fun p => ⟨p, 515, 10000⟩) }.setReg
     .mod 0xA00003 10), 0, 3, false, by decide +kernel⟩,
   ⟨({ base with clock := 90000, mod.ve.restores := [3], mod.sh.verd.failed := [3], mod.ve.heardSince := [(515, 0)], mod.ve.heard := [(515, 18000)] }.setReg
     .mod 0xA00008 0), 0, 3, by decide +kernel⟩,
   ⟨({ base with clock := 1000000000, mod.ve.rebinds := [3], mod.sh.verd.dead := [3], mod.ve.heardSince := [(3, 0)], mod.ve.heard := [(3, 200000000)] }.setReg
     .mod 0xA00008 0), 3, 0, false, by decide +kernel⟩,
   ⟨{ base with clock := 500000, mod.routes := [(3, ⟨true, false, 9⟩)] }, 3, 9, base.port .mod 9, by
     decide +kernel⟩,
   ⟨{ base with clock := 50000000, mod.routes := [(3, ⟨true, true, 9⟩)], mod.sh.ports := [(9, ⟨1, 7, 8, 15, 0, 0, [], [], 0, none, none, 0, 0, 0, 0, 0, 8, none, [], 0, 0, [], none, false⟩)] },
     3, 9, ⟨1, 7, 8, 15, 0, 0, [], [], 0, none, none, 0, 0, 0, 0, 0, 8, none, [], 0, 0, [], none, false⟩, by
     decide +kernel⟩,
   ⟨base, 0, .inl (by decide +kernel), by decide +kernel⟩,
   ⟨{ base with clock := 500000000000 }, by decide +kernel⟩,
   ⟨{ base with mod.sh.verd.dead := [511] }, opA, [1#8, 0xFF#8], by decide +kernel⟩,
   ⟨{ base with mod.sh.verd.failed := [15] }, opA, [15#8], by decide +kernel⟩⟩

/-- For each clause of VerdictsAreApplied, a state and operands that meet its hypotheses. -/
theorem test_hyps_VerdictsAreApplied :
    (∃ (s : State) (p : Part) (number : Nat) (x : PendVerdict), (((s.sh p).verd.pending.find? fun x => x.v.number
      == number) = some x) ∧ x.at_ + 10000 ≤ s.ns ∧ (∀ y ∈ (s.sh p).verd.pending, serialAfter number y.v.number =
      false)) ∧
    (∃ (s : State) (p : Part) (number : Nat) (x : PendVerdict), (((s.sh p).verd.pending.find? fun x => x.v.number
      == number) = some x) ∧ s.ns < x.at_ + 10000) ∧
    (∃ (s : State) (number : Nat) (x : PendVerdict), ((s.mod.sh.verd.pending.find? fun x => x.v.number == number) =
      some x) ∧ x.at_ + 10000 ≤ s.ns ∧ (∀ y ∈ s.mod.sh.verd.pending, serialAfter number y.v.number = false) ∧
      x.v.vkind = 1) ∧
    (∃ (s : State) (number : Nat) (x : PendVerdict), ((s.ep.sh.verd.pending.find? fun x => x.v.number == number) =
      some x) ∧ x.at_ + 10000 ≤ s.ns ∧ (∀ y ∈ s.ep.sh.verd.pending, serialAfter number y.v.number = false) ∧
      x.v.vkind = 3 ∧ (x.v.subjNode, x.v.subjPlane) ∉ s.ep.exclusions ∧ s.ep.exclusions.length < 64) :=
  ⟨⟨{ base with clock := 50000, ep.sh.verd.pending := [⟨⟨2, 1, 0, 3, 0, 0, false, 0, 4, 0, false, 0⟩, 0⟩, ⟨⟨2, 1, 0, 3, 0, 0, false, 0, 5, 0, false, 0⟩, 0⟩] },
     .ep, 4, ⟨⟨2, 1, 0, 3, 0, 0, false, 0, 4, 0, false, 0⟩, 0⟩, by decide +kernel⟩,
   ⟨{ base with clock := 49995, ep.sh.verd.pending := [⟨⟨2, 1, 0, 3, 0, 0, false, 0, 4, 0, false, 0⟩, 0⟩] }, .ep,
     4, ⟨⟨2, 1, 0, 3, 0, 0, false, 0, 4, 0, false, 0⟩, 0⟩, by decide +kernel⟩,
   ⟨{ base with clock := 50000, mod.sh.verd.pending := [⟨⟨2, 1, 0, 3, 0, 0, false, 0, 4, 0, false, 0⟩, 0⟩] }, 4,
     ⟨⟨2, 1, 0, 3, 0, 0, false, 0, 4, 0, false, 0⟩, 0⟩, by decide +kernel⟩,
   ⟨{ base with clock := 50000, ep.sh.verd.pending := [⟨⟨2, 3, 0, 3, 0, 0, false, 0, 4, 0, false, 0⟩, 0⟩] }, 4,
     ⟨⟨2, 3, 0, 3, 0, 0, false, 0, 4, 0, false, 0⟩, 0⟩, by decide +kernel⟩⟩

/-- For each clause of FaultsWithdrawUnits, a state and operands that meet its hypotheses. -/
theorem test_hyps_FaultsWithdrawUnits :
    (∃ (s : State) (t : Nat), (s.tile t).inService = false) ∧
    (∃ (s : State) (t : Nat), (s.tile t).inService = true) ∧
    (∃ (s : State) (d : Nat), 64 ≤ d ∧ d < 68) ∧
    (∃ (s : State) (d : Nat), (¬(64 ≤ d ∧ d < 68))) ∧
    (∃ (s : State) (e exact ordered at_ ver : Nat), s.canaryStart e = some at_ ∧ tabGet s.mod.canaryLast e ≠ some
      at_ ∧ e < 512 ∧ e ∉ s.mod.engOut ∧ s.mod.sh.mode = 0 ∧ ver = s.mod.sh.rot.version) ∧
    (∃ (s : State) (e exact ordered at_ : Nat), s.canaryStart e = some at_ ∧ tabGet s.mod.canaryLast e = some at_) ∧
    (∃ (s : State) (a : Access) (val : List Byte) (failing : List Nat), dirCheck .mod a 0xA30004 true s = 0 ∧
      val.length = 16 ∧ s.partitionOf (bits (beNat val) 127 112) = a.partition ∧ failing = []) ∧
    (∃ (s : State), s.epochOf .mod % max 1 (s.regNow .mod 0xA50001) = 0 ∧ (∀ r ∈ s.mod.late, s.lateSuspect r.2 =
      false)) ∧
    (∃ (s : State), s.epochOf .mod % max 1 (s.regNow .mod 0xA50001) ≠ 0) ∧
    (∃ (s : State) (a : Access) (val : List Byte), dirCheck .mod a 0xA50006 true s = 0 ∧ val.length = 2 ∧ beNat val
      ≤ 511) :=
  ⟨⟨{ base with mod.tiles := [(63, ⟨false, false, 0, 0, 0, 0, false⟩)] }, 63, by decide +kernel⟩,
   ⟨base, 63, by decide +kernel⟩,
   ⟨base, 64, by decide +kernel⟩,
   ⟨base, 68, by decide +kernel⟩,
   ⟨base, 0, 1, 2, 0, 0, by decide +kernel⟩,
   ⟨{ base with mod.canaryLast := [(0, 0)] }, 0, 1, 2, 0, by decide +kernel⟩,
   ⟨{ base with mod.sh.regs := [(0x831002 * 65536 + 5, 0)] }, hostA, beBytes 16 (5 * 2 ^ 112), [], by
     decide +kernel⟩,
   ⟨{ base with mod.late := [(3, ⟨99, 99, 100000, 9⟩)] }, by decide +kernel⟩,
   ⟨{ base with mod.sh.rt.units := 5000000 }, by decide +kernel⟩,
   ⟨base, opA, [1#8, 0xFF#8], by decide +kernel⟩⟩

/-- For each clause of WindowsRunTheirStates, a state and operands that meet its hypotheses. -/
theorem test_hyps_WindowsRunTheirStates :
    (∃ (s : State) (p : Part) (a : Access) (val : List Byte) (x : Window) (i : Nat), dirCheck p a (windowKey p)
      true s = 0 ∧ val.length = 16 ∧ windowOf (beNat val) = (x, 0) ∧ i = s.sel p a.ctx (windowKey p - 1) ∧
      windowTarget p x = true ∧ 1 ≤ x.length ∧ x.action = 0 ∧ x.start % 1000 = 0 ∧ s.rackNs p + 100000 ≤ x.start ∧
      (s.sh p).windows = [] ∧ (x.kind = 0 ∨ x.kind = 3) ∧ s.poolAllows x = true ∧ (s.sh p).mown = []) ∧
    (∃ (s : State) (i : Nat) (x : Window), tabGet s.mod.sh.windows i = some x ∧ x.state = 1 ∧ x.kind = 0 ∧ x.start
      ≤ s.rackNs .mod ∧ s.rackNs .mod < x.start + x.length * 1000 ∧ (∀ y ∈ s.mod.sh.mown, y.2.names (x.target / 8)
      = false)) ∧
    (∃ (s : State) (i : Nat) (x : Window), tabGet s.mod.sh.windows i = some x ∧ x.state = 1 ∧ x.kind = 0 ∧ x.start
      ≤ s.rackNs .mod ∧ x.start + x.length * 1000 ≤ s.rackNs .mod) ∧
    (∃ (s : State) (i : Nat) (x : Window), tabGet s.ep.sh.windows i = some x ∧ x.state = 1 ∧ x.kind = 3 ∧ x.start ≤
      s.rackNs .ep ∧ s.rackNs .ep < x.start + x.length * 1000) ∧
    (∃ (s : State) (i : Nat) (x : Window), tabGet s.mod.sh.windows i = some x ∧ x.state = 2 ∧ x.kind = 0 ∧ x.action
      = 0) ∧
    (∃ (s : State) (i : Nat) (x : Window), tabGet s.ep.sh.windows i = some x ∧ x.state = 2 ∧ x.kind = 3) :=
  ⟨⟨base, .mod, opA, beBytes 16 (Window.word ⟨0, 3, 100000, 1, 0, 1⟩), ⟨0, 3, 100000, 1, 0, 1⟩, base.sel .mod
     opA.ctx 0xA40001, by decide +kernel⟩,
   ⟨{ base with mod.sh.rt.units := 4999, mod.sh.windows := [(2, ⟨0, 3, 0, 1, 0, 1⟩)] }, 2, ⟨0, 3, 0, 1, 0, 1⟩, by
     decide +kernel⟩,
   ⟨{ base with mod.sh.rt.units := 5000, mod.sh.windows := [(2, ⟨0, 3, 0, 1, 0, 1⟩)] }, 2, ⟨0, 3, 0, 1, 0, 1⟩, by
     decide +kernel⟩,
   ⟨{ base with ep.sh.rt.units := 4999, ep.sh.windows := [(2, ⟨3, 3, 0, 1, 0, 1⟩)] }, 2, ⟨3, 3, 0, 1, 0, 1⟩, by
     decide +kernel⟩,
   ⟨{ base with mod.sh.windows := [(2, ⟨0, 3, 0, 1, 0, 2⟩)] }, 2, ⟨0, 3, 0, 1, 0, 2⟩, by decide +kernel⟩,
   ⟨{ base with ep.sh.windows := [(2, ⟨3, 3, 0, 1, 0, 2⟩)] }, 2, ⟨3, 3, 0, 1, 0, 2⟩, by decide +kernel⟩⟩

/-- The blocks of a frame of 48 bytes with a sequence, and the same with another CRC. -/
def raw (seq : Nat) : RawFrame := ⟨(frameBlocks seq none (List.replicate 48 0#8)).mapIdx fun i b => ⟨i % 4, i / 4, b⟩, []⟩
def badRaw : RawFrame := ⟨((frameBlocks 4 none (List.replicate 48 0#8)).take 2 ++ [control 0x4B 0]).mapIdx fun i b => ⟨i % 4, i / 4, b⟩, []⟩

/-- For each clause of LinkRetryKeepsTheSequence, a state and operands that meet its hypotheses. -/
theorem test_hyps_LinkRetryKeepsTheSequence :
    (∃ (s : State) (n : Nat) (r : RawFrame) (sc : FrameScan) (f : LinkFrame), sc = r.scan (s.port .ep n).indexOf ∧
      f = sc.frame (s.unwire .ep) ∧ (s.port .ep n).state = 7 ∧ r.errs = [] ∧ sc.malformed = 0 ∧ f.errored = false ∧
      f.crcOk = true ∧ f.dataBlocks = dataBlocks f.frameLen ∧ 48 ≤ f.frameLen ∧ f.frameLen ≤ 4144 ∧ f.ackValid =
      false ∧ f.seq = (s.port .ep n).rxSeq) ∧
    (∃ (s : State) (p : Part) (n : Nat) (r : RawFrame) (sc : FrameScan) (f : LinkFrame), sc = r.scan (s.port p
      n).indexOf ∧ f = sc.frame (s.unwire p) ∧ (s.port p n).state = 7 ∧ r.errs = [] ∧ sc.malformed = 0 ∧
      (sc.start.isSome = true ∨ sc.errored = true) ∧ (f.errored = true ∨ f.crcOk = false) ∧ (s.port p n).nakAt =
      none) ∧
    (∃ (s : State) (p : Part) (n : Nat) (r : RawFrame), (s.port p n).state ≠ 7) ∧
    (∃ (s : State) (p : Part) (n seq : Nat), (∀ g ∈ (s.port p n).replay, g.seq ≠ seq)) ∧
    (∃ (s : State) (p : Part) (n : Nat) (f : ReplayFrame) (pre post : List ReplayFrame), (s.port p n).state = 7 ∧
      (s.port p n).replay = pre ++ f :: post ∧ (∀ g ∈ pre, g.seq ≠ f.seq) ∧ f.seq ≠ (s.port p n).txSeq) ∧
    (∃ (s : State) (p : Part) (n : Nat), (s.port p n).state = 7 ∧ (s.port p n).replay ≠ []) ∧
    (∃ (s : State) (p : Part) (n seq : Nat), (s.port p n).state = 7 ∧ (∀ g ∈ (s.port p n).replay, g.seq ≠ seq) ∧
      (seq ≠ (s.port p n).txSeq ∨ (s.port p n).replay = [])) ∧
    (∃ (s : State) (p : Part) (n : Nat) (f : ReplayFrame) (l : List ReplayFrame), (s.port p n).state = 7 ∧ (s.port
      p n).replay = f :: l ∧ f.sent + (s.port p n).replayTimer ≤ s.ns ∧ (s.port p n).wc = none ∧ (s.port p
      n).retryLimit ≤ (s.port p n).replays) ∧
    (∃ (s : State) (p : Part) (n : Nat) (f : ReplayFrame), (s.port p n).state = 7 ∧ (s.port p n).replay = [f] ∧
      f.sent + (s.port p n).replayTimer ≤ s.ns ∧ (s.port p n).wc = none ∧ (s.port p n).replays < (s.port p
      n).retryLimit) ∧
    (∃ (s : State) (n : Nat) (k : Packet) (rest : List Packet), (s.port .ep n).state = 7 ∧ s.txDue .ep n = false ∧
      (s.port .ep n).wc = none ∧ (s.port .ep n).queue = k :: rest ∧ (s.port .ep n).room k.wireLen = true) :=
  ⟨⟨{ base with ep.sh.ports := [(3, ⟨1, 7, 8, 15, 0, 4, [], [], 0, none, none, 0, 0, 0, 0, 0, 8, none, [], 0, 0, [], none, false⟩)] },
     3, raw 4, (raw 4).scan
     (({ base with ep.sh.ports := [(3, ⟨1, 7, 8, 15, 0, 4, [], [], 0, none, none, 0, 0, 0, 0, 0, 8, none, [], 0, 0, [], none, false⟩)] }
     : State).port .ep 3).indexOf, ((raw 4).scan
     (({ base with ep.sh.ports := [(3, ⟨1, 7, 8, 15, 0, 4, [], [], 0, none, none, 0, 0, 0, 0, 0, 8, none, [], 0, 0, [], none, false⟩)] }
     : State).port .ep 3).indexOf).frame
     (({ base with ep.sh.ports := [(3, ⟨1, 7, 8, 15, 0, 4, [], [], 0, none, none, 0, 0, 0, 0, 0, 8, none, [], 0, 0, [], none, false⟩)] }
     : State).unwire .ep), rfl, rfl, by decide +kernel⟩,
   ⟨{ base with mod.sh.ports := [(3, ⟨1, 7, 8, 15, 0, 0, [], [], 0, none, none, 0, 0, 0, 0, 0, 8, none, [], 0, 0, [], none, false⟩)] },
     .mod, 3, badRaw, (badRaw).scan
     (({ base with mod.sh.ports := [(3, ⟨1, 7, 8, 15, 0, 0, [], [], 0, none, none, 0, 0, 0, 0, 0, 8, none, [], 0, 0, [], none, false⟩)] }
     : State).port .mod 3).indexOf, ((badRaw).scan
     (({ base with mod.sh.ports := [(3, ⟨1, 7, 8, 15, 0, 0, [], [], 0, none, none, 0, 0, 0, 0, 0, 8, none, [], 0, 0, [], none, false⟩)] }
     : State).port .mod 3).indexOf).frame
     (({ base with mod.sh.ports := [(3, ⟨1, 7, 8, 15, 0, 0, [], [], 0, none, none, 0, 0, 0, 0, 0, 8, none, [], 0, 0, [], none, false⟩)] }
     : State).unwire .mod), rfl, rfl, by decide +kernel⟩,
   ⟨base, .mod, 3, raw 4, by decide +kernel⟩,
   ⟨{ base with mod.sh.ports := [(3, ⟨1, 7, 8, 15, 0, 0, [⟨1, 48, Packet.zero, 0⟩], [], 0, none, none, 0, 0, 0, 0, 0, 8, none, [], 0, 0, [], none, false⟩)] },
     .mod, 3, 4, by decide +kernel⟩,
   ⟨{ base with mod.sh.ports := [(3, ⟨1, 7, 8, 15, 0, 0, [⟨1, 48, Packet.zero, 0⟩, ⟨2, 48, Packet.zero, 0⟩, ⟨3, 48, Packet.zero, 0⟩], [], 0, none, none, 0, 0, 0, 0, 0, 8, none, [], 0, 0, [], none, false⟩)] },
     .mod, 3, ⟨2, 48, Packet.zero, 0⟩, [⟨1, 48, Packet.zero, 0⟩], [⟨3, 48, Packet.zero, 0⟩], by decide +kernel⟩,
   ⟨{ base with mod.sh.ports := [(3, ⟨1, 7, 8, 15, 0, 0, [⟨1, 48, Packet.zero, 0⟩], [], 0, none, none, 0, 0, 0, 0, 0, 8, none, [], 0, 0, [], none, false⟩)] },
     .mod, 3, by decide +kernel⟩,
   ⟨{ base with mod.sh.ports := [(3, ⟨1, 7, 8, 15, 0, 0, [⟨1, 48, Packet.zero, 0⟩], [], 0, none, none, 0, 0, 0, 0, 0, 8, none, [], 0, 0, [], none, false⟩)] },
     .mod, 3, 4, by decide +kernel⟩,
   ⟨{ base with mod.sh.ports := [(3, ⟨1, 7, 8, 15, 0, 0, [⟨1, 48, Packet.zero, 0⟩], [], 8, none, none, 0, 0, 0, 0, 0, 8, none, [], 0, 0, [], none, false⟩)] },
     .mod, 3, ⟨1, 48, Packet.zero, 0⟩, [], by decide +kernel⟩,
   ⟨{ base with mod.sh.ports := [(3, ⟨1, 7, 8, 15, 0, 0, [⟨1, 48, Packet.zero, 0⟩], [], 7, none, none, 0, 0, 0, 0, 0, 8, none, [], 0, 0, [], none, false⟩)] },
     .mod, 3, ⟨1, 48, Packet.zero, 0⟩, by decide +kernel⟩,
   ⟨{ base with ep.sh.ports := [(3, ⟨1, 7, 8, 15, 0, 0, [], [Packet.zero], 0, none, none, 0, 0, 0, 0, 0, 8, none, [], 0, 0, [], (some 0), false⟩)], ep.sh.tx := [(3, ⟨0, 0, 1, 0, 5, [], []⟩)] },
     3, Packet.zero, [], by decide +kernel⟩⟩

/-- What the cabling table places on port 3 of the endpoint. -/
def peer3 : Capability := { base.capability .ep 3 true true with partKind := 1, valid := true, plane := 3, port := 0, accepted := true }

/-- For each clause of PortsTrain, a state and operands that meet its hypotheses. -/
theorem test_hyps_PortsTrain :
    (∃ (s : State) (p : Part) (l word crc errors : Nat) (adapted : Bool) (x y : Lane), y = (x.train (trainWordOf
      word (crc == crc16 (beBytes 8 word))) adapted errors).countDown ∧ x = s.lane p l ∧ x.state = 1 ∧ s.mayTrain p
      (s.portOfLane p l) = true ∧ s.laneOut p l = false ∧ x.count = none ∧ (s.port p (s.portOfLane p l)).state = 1
      ∧ (∃ m ∈ s.portLanes p (s.portOfLane p l), m ≠ l ∧ (s.lane p m).found < 8) ∧ crc ≠ crc16 (beBytes 8 word)) ∧
    (∃ (s : State) (p : Part) (l word crc errors : Nat) (adapted : Bool), (s.lane p l).state = 0) ∧
    (∃ (s : State) (p : Part) (l : Nat), (s.lane p l).state = 1 ∧ s.mayTrain p (s.portOfLane p l) = true ∧
      s.laneOut p l = false ∧ ((s.lane p l).burst = false ∨ (s.lane p l).since + 1000000 ≤ s.ns)) ∧
    (∃ (s : State) (p : Part) (l : Nat), (s.lane p l).state = 3 ∧ (s.lane p l).count = some 0 ∧ (s.port p
      (s.portOfLane p l)).state = 3 ∧ (∀ m ∈ s.portLanes p (s.portOfLane p l), m ≠ l → (s.lane p m).state = 4)) ∧
    (∃ (s : State) (p : Part) (l : Nat) (x : Lane), x = s.lane p l ∧ 4 ≤ x.state ∧ x.state ≠ 8 ∧ x.peerDone = true
      ∧ (s.port p (s.portOfLane p l)).state ≠ 4 ∧ (s.port p (s.portOfLane p l)).state ≠ 7 ∧ x.blockLock = false ∧
      x.hunt = 63) ∧
    (∃ (s : State) (p : Part) (l : Nat) (x : Lane), x = s.lane p l ∧ 4 ≤ x.state ∧ x.state ≠ 8 ∧ x.peerDone = true
      ∧ (s.port p (s.portOfLane p l)).state ≠ 4 ∧ x.blockLock = true ∧ x.invalid.length = 15 ∧ (∀ i ∈ x.invalid,
      x.seen < i + 1024)) ∧
    (∃ (s : State) (p : Part) (n : Nat) (m : MarkRx), (s.port p n).state = 7 ∧ m.wellFormed = true ∧ (s.lane p (4 *
      n + m.lane)).blockLock = true ∧ m.bip = m.parity ∧ bit (s.port p n).lanes m.index = false) ∧
    (∃ (s : State) (p : Part) (n set : Nat) (marks : List MarkRx), (s.port p n).state = 5 ∧ (∀ m ∈ marks,
      m.wellFormed = true ∧ (s.lane p (4 * n + m.lane)).blockLock = true) ∧ marks ≠ [] ∧ alignedMarks marks = marks
      ∧ (set = marks.foldl (fun a m => a ||| 2 ^ m.index) 0) ∧ set &&& widthMask (s.cfgWidth p n) = widthMask
      (s.cfgWidth p n)) ∧
    (∃ (s : State) (p : Part) (n : Nat) (c : Capability), (s.port p n).state = 6 ∧ (s.port p n).peer = none ∧
      s.capDue p n = false) ∧
    (∃ (s : State) (p : Part) (n : Nat) (c : Capability), (s.port p n).state = 6 ∧ (s.port p n).peer = none ∧
      s.capDue p n = true) ∧
    (∃ (s : State) (p : Part) (n : Nat) (c : Capability), (s.port p n).state = 6 ∧ (s.port p n).peer = some c ∧
      (s.port p n).capCount = 2 ∧ s.coordsSet p = true ∧ s.peerOk p n c = true ∧ c.accepted = true ∧ (s.port p
      n).capAcc = true ∧ s.capDue p n = false) ∧
    (∃ (s : State) (p : Part) (n : Nat), (s.port p n).state = 2 ∧ (s.port p n).since + 50000000 ≤ s.ns) ∧
    (∃ (s : State) (p : Part) (n : Nat), (s.port p n).state = 1 ∧ (s.port p n).downSince + s.reg p 0x420005 * 1000
      ≤ s.ns ∧ (∀ l ∈ s.portLanes p n, 8 ≤ (s.lane p l).found)) :=
  ⟨⟨{ base with ep.sh.lanes := [(12, ⟨1, [], [], false, false, false, 0, none, false, false, 0, 0, 0, 0, [], 0, (0, 0), false, 0, 0, false, [], []⟩)], ep.sh.ports := [(3, ⟨1, 1, 8, 15, 0, 0, [], [], 0, none, none, 0, 0, 0, 0, 0, 8, none, [], 0, 0, [], none, false⟩)], ep.sh.coords := coordKeys .ep },
     .ep, 12, 0, crc16 (beBytes 8 0) + 1, 0, false, ⟨1, [], [], false, false, false, 0, none, false, false, 0, 0,
     0, 0, [], 0, (0, 0), false, 0, 0, false, [], []⟩, ((⟨1, [], [], false, false, false, 0, none, false, false, 0,
     0, 0, 0, [], 0, (0, 0), false, 0, 0, false, [], []⟩ : Lane).train (trainWordOf 0 (crc16 (beBytes 8 0) + 1 ==
     crc16 (beBytes 8 0))) false 0).countDown, rfl, by decide +kernel⟩,
   ⟨base, .ep, 12, 0, 0, 0, false, by decide +kernel⟩,
   ⟨{ base with ep.sh.lanes := [(12, ⟨1, [], [], false, false, false, 0, none, false, false, 0, 0, 0, 0, [], 0, (0, 0), false, 0, 0, false, [], []⟩)], ep.sh.coords := coordKeys .ep },
     .ep, 12, by decide +kernel⟩,
   ⟨{ base with ep.sh.lanes := [(12, ⟨3, [], [], false, false, false, 0, (some 0), false, false, 0, 0, 0, 0, [], 0, (0, 0), false, 0, 0, false, [], []⟩), (13, ⟨4, [], [], false, false, false, 0, none, false, false, 0, 0, 0, 0, [], 0, (0, 0), false, 0, 0, false, [], []⟩), (14, ⟨4, [], [], false, false, false, 0, none, false, false, 0, 0, 0, 0, [], 0, (0, 0), false, 0, 0, false, [], []⟩), (15, ⟨4, [], [], false, false, false, 0, none, false, false, 0, 0, 0, 0, [], 0, (0, 0), false, 0, 0, false, [], []⟩)], ep.sh.ports := [(3, ⟨1, 3, 8, 15, 0, 0, [], [], 0, none, none, 0, 0, 0, 0, 0, 8, none, [], 0, 0, [], none, false⟩)] },
     .ep, 12, by decide +kernel⟩,
   ⟨{ base with ep.sh.lanes := [(12, ⟨4, [], [], false, false, false, 0, none, true, false, 0, 0, 63, 0, [], 0, (0, 0), false, 0, 0, false, [], []⟩)] },
     .ep, 12, ⟨4, [], [], false, false, false, 0, none, true, false, 0, 0, 63, 0, [], 0, (0, 0), false, 0, 0,
     false, [], []⟩, by decide +kernel⟩,
   ⟨{ base with ep.sh.lanes := [(12, ⟨5, [], [], false, false, false, 0, none, true, false, 0, 0, 0, 100, (List.range 15), 0, (0, 0), true, 0, 0, false, [], []⟩)] },
     .ep, 12, ⟨5, [], [], false, false, false, 0, none, true, false, 0, 0, 0, 100, (List.range 15), 0, (0, 0),
     true, 0, 0, false, [], []⟩, by decide +kernel⟩,
   ⟨{ base with ep.sh.lanes := [(12, ⟨7, [], [], false, false, false, 0, none, false, false, 0, 0, 0, 0, [], 0, (0, 0), true, 0, 0, false, [], []⟩)], ep.sh.ports := [(3, ⟨1, 7, 8, 14, 0, 0, [], [], 0, none, none, 0, 0, 0, 0, 0, 8, none, [], 0, 0, [], none, false⟩)] },
     .ep, 3, ⟨0, 0, (markerBlock 3 0 0 0).payload, 0⟩, by decide +kernel⟩,
   ⟨{ base with ep.sh.ports := [(3, ⟨1, 5, 8, 15, 0, 0, [], [], 0, none, none, 0, 0, 0, 0, 0, 8, none, [], 0, 0, [], none, false⟩)], ep.sh.lanes := [(12, ⟨5, [], [], false, false, false, 0, none, false, false, 0, 0, 0, 0, [], 0, (0, 0), true, 0, 0, false, [], []⟩), (13, ⟨5, [], [], false, false, false, 0, none, false, false, 0, 0, 0, 0, [], 0, (0, 0), true, 0, 0, false, [], []⟩), (14, ⟨5, [], [], false, false, false, 0, none, false, false, 0, 0, 0, 0, [], 0, (0, 0), true, 0, 0, false, [], []⟩), (15, ⟨5, [], [], false, false, false, 0, none, false, false, 0, 0, 0, 0, [], 0, (0, 0), true, 0, 0, false, [], []⟩)] },
     .ep, 3, 15, [⟨0, 0, (markerBlock 3 0 0 0).payload, 0⟩, ⟨1, 0, (markerBlock 3 1 0 0).payload, 0⟩, ⟨2, 0,
     (markerBlock 3 2 0 0).payload, 0⟩, ⟨3, 0, (markerBlock 3 3 0 0).payload, 0⟩], by decide +kernel⟩,
   ⟨{ base with mod.sh.ports := [(3, ⟨1, 6, 8, 15, 0, 0, [], [], 0, none, none, 0, 0, 0, 0, 0, 8, none, [], 0, 0, [], (some 0), false⟩)] },
     .mod, 3, base.capability .mod 3 false false, by decide +kernel⟩,
   ⟨{ base with mod.sh.ports := [(3, ⟨1, 6, 8, 15, 0, 0, [], [], 0, none, none, 0, 0, 0, 0, 0, 8, none, [], 0, 0, [], none, false⟩)] },
     .mod, 3, base.capability .mod 3 false false, by decide +kernel⟩,
   ⟨{ base with ep.sh.ports := [(3, ⟨1, 6, 8, 15, 0, 0, [], [], 0, none, (some peer3), 2, 0, 0, 0, 0, 8, none, [], 0, 0, [], (some 0), true⟩)], ep.sh.coords := coordKeys .ep },
     .ep, 3, peer3, by decide +kernel⟩,
   ⟨{ base with clock := 250000000, ep.sh.ports := [(3, ⟨1, 2, 8, 15, 0, 0, [], [], 0, none, none, 0, 0, 0, 0, 0, 8, none, [], 0, 0, [], none, false⟩)] },
     .ep, 3, by decide +kernel⟩,
   ⟨{ base with clock := 5000000, ep.sh.ports := [(3, ⟨1, 1, 8, 15, 0, 0, [], [], 0, none, none, 0, 0, 0, 0, 0, 8, none, [], 0, 0, [], none, false⟩)], ep.sh.lanes := [(12, ⟨1, [], [], false, false, false, 0, none, false, false, 8, 0, 0, 0, [], 0, (0, 0), false, 0, 0, false, [], []⟩), (13, ⟨1, [], [], false, false, false, 0, none, false, false, 8, 0, 0, 0, [], 0, (0, 0), false, 0, 0, false, [], []⟩), (14, ⟨1, [], [], false, false, false, 0, none, false, false, 8, 0, 0, 0, [], 0, (0, 0), false, 0, 0, false, [], []⟩), (15, ⟨1, [], [], false, false, false, 0, none, false, false, 8, 0, 0, 0, [], 0, (0, 0), false, 0, 0, false, [], []⟩)] },
     .ep, 3, by decide +kernel⟩⟩

/-- For each clause of PortsChangeWidthAndFail, a state and operands that meet its hypotheses. -/
theorem test_hyps_PortsChangeWidthAndFail :
    (∃ (s : State) (p : Part) (n : Nat) (b : WidthBlock) (w : WidthState), (s.port p n).state = 7 ∧ (s.port p n).wc
      = some w ∧ w.peer ≠ some b.proposed ∧ widest (s.cfgWidth p n) (w.mine &&& b.proposed) ≠ 0 ∧ b.ack = true) ∧
    (∃ (s : State) (p : Part) (n : Nat) (b : WidthBlock) (w : WidthState), (s.port p n).state = 7 ∧ (s.port p n).wc
      = some w ∧ w.peer ≠ some b.proposed ∧ widest (s.cfgWidth p n) (w.mine &&& b.proposed) ≠ 0) ∧
    (∃ (s : State) (p : Part) (n : Nat) (b : WidthBlock) (w : WidthState), (s.port p n).state = 7 ∧ (s.port p n).wc
      = some w ∧ w.peer = some b.proposed ∧ widest (s.cfgWidth p n) (w.mine &&& b.proposed) ≠ 0) ∧
    (∃ (s : State) (p : Part) (n : Nat) (b : WidthBlock) (w : WidthState), (s.port p n).state = 7 ∧ (s.port p n).wc
      = some w ∧ widest (s.cfgWidth p n) (w.mine &&& b.proposed) = 0) ∧
    (∃ (s : State) (p : Part) (n count t : Nat) (w : WidthState), (s.port p n).wc = some w ∧ w.txAfter = some t ∧
      (65536 + count - t) % 65536 < 32768 ∧ w.txDone = false ∧ w.rxDone = false ∧ (s.port p n).replay = []) ∧
    (∃ (s : State) (n count t : Nat) (w : WidthState), (s.port .mod n).wc = some w ∧ w.rxAfter = some t ∧ (65536 +
      count - t) % 65536 < 32768 ∧ w.txDone = true) ∧
    (∃ (s : State) (l : Nat), (s.port .ep (s.portOfLane .ep l)).state = 7 ∧ (s.port .ep (s.portOfLane .ep l)).wc =
      none ∧ (s.lane .ep l).state = 6 ∧ (s.lane .ep l).blockLock = true ∧ s.laneOut .ep l = false) ∧
    (∃ (s : State) (p : Part) (l : Nat), (s.lane p l).state ≠ 0 ∧ (s.port p (s.portOfLane p l)).state ≠ 7) ∧
    (∃ (s : State) (p : Part) (l : Nat), (s.lane p l).state ≠ 0 ∧ (s.port p (s.portOfLane p l)).state = 7 ∧ bit
      (s.port p (s.portOfLane p l)).lanes ((s.port p (s.portOfLane p l)).indexOf (l - 4 * s.portOfLane p l)) = true
      ∧ (s.sh p).reg 0x410007 (s.portOfLane p l) = 0) ∧
    (∃ (s : State) (p : Part) (n : Nat) (w : WidthState), (s.port p n).wc = some w ∧ w.since + 5 * markerPeriod ≤
      s.ns) ∧
    (∃ (s : State) (p : Part) (n : Nat), (s.port p n).wc = none) ∧
    (∃ (s : State) (a : Access) (val : List Byte), dirCheck .mod a 0x500002 true s = 0 ∧ val.length = 64 ∧ (∀ n <
      256, leNat val / 4 ^ n % 4 ≠ 3) ∧ (∀ q ∈ s.mod.sh.ports, q.2.state ≠ 7)) ∧
    (∃ (s : State) (a : Access) (val : List Byte) (q : Nat × Port), dirCheck .mod a 0x500002 true s = 0 ∧
      val.length = 64 ∧ (∀ n < 256, leNat val / 4 ^ n % 4 ≠ 3) ∧ q ∈ s.mod.sh.ports ∧ q.2.state = 7) ∧
    (∃ (s : State) (p : Part) (a : Access) (l : Nat), dirCheck p a 0x430005 true s = 0 ∧ l = s.sel p a.ctx 0x430001
      ∧ (¬ ((s.port p (s.portOfLane p l)).state = 7 ∧ bit (s.port p (s.portOfLane p l)).lanes ((s.port p
      (s.portOfLane p l)).indexOf (l - 4 * s.portOfLane p l)) = true))) ∧
    (∃ (s : State) (p : Part) (l : Nat) (grid : List Byte), (s.lane p l).scanning = true ∧ grid.length = 1024) :=
  ⟨⟨{ base with ep.sh.ports := [(3, ⟨1, 7, 8, 15, 0, 0, [], [], 0, none, none, 0, 0, 0, 0, 0, 8, (some ⟨15, none, 0, (some 5), none, 0, false, false, 0, 0⟩), [], 0, 0, [], none, false⟩)] },
     .ep, 3, ⟨15, 0, true, 0, 7⟩, ⟨15, none, 0, (some 5), none, 0, false, false, 0, 0⟩, by decide +kernel⟩,
   ⟨{ base with ep.sh.ports := [(3, ⟨1, 7, 8, 15, 0, 0, [], [], 0, none, none, 0, 0, 0, 0, 0, 8, (some ⟨15, none, 0, none, none, 0, false, false, 0, 0⟩), [], 0, 0, [], none, false⟩)] },
     .ep, 3, ⟨15, 0, true, 0, 7⟩, ⟨15, none, 0, none, none, 0, false, false, 0, 0⟩, by decide +kernel⟩,
   ⟨{ base with ep.sh.ports := [(3, ⟨1, 7, 8, 15, 0, 0, [], [], 0, none, none, 0, 0, 0, 0, 0, 8, (some ⟨15, (some 15), 0, none, none, 0, false, false, 0, 0⟩), [], 0, 0, [], none, false⟩)] },
     .ep, 3, ⟨15, 0, true, 0, 7⟩, ⟨15, (some 15), 0, none, none, 0, false, false, 0, 0⟩, by decide +kernel⟩,
   ⟨{ base with ep.sh.ports := [(3, ⟨1, 7, 8, 15, 0, 0, [], [], 0, none, none, 0, 0, 0, 0, 0, 8, (some ⟨15, none, 0, none, none, 0, false, false, 0, 0⟩), [], 0, 0, [], none, false⟩)] },
     .ep, 3, ⟨0, 0, true, 0, 7⟩, ⟨15, none, 0, none, none, 0, false, false, 0, 0⟩, by decide +kernel⟩,
   ⟨{ base with ep.sh.ports := [(3, ⟨1, 7, 8, 15, 0, 0, [], [], 0, none, none, 0, 0, 0, 0, 0, 8, (some ⟨15, none, 0, (some 5), none, 0, false, false, 0, 0⟩), [], 0, 0, [], none, false⟩)] },
     .ep, 3, 5, 5, ⟨15, none, 0, (some 5), none, 0, false, false, 0, 0⟩, by decide +kernel⟩,
   ⟨{ base with mod.sh.ports := [(3, ⟨1, 7, 8, 15, 0, 0, [], [], 0, none, none, 0, 0, 0, 0, 0, 8, (some ⟨15, none, 0, (some 5), (some 5), 0, true, false, 0, 0⟩), [], 0, 0, [], none, false⟩)] },
     3, 32772, 5, ⟨15, none, 0, (some 5), (some 5), 0, true, false, 0, 0⟩, by decide +kernel⟩,
   ⟨{ base with ep.sh.lanes := [(12, ⟨6, [], [], false, false, false, 0, none, false, false, 0, 0, 0, 0, [], 0, (0, 0), true, 0, 0, false, [], []⟩)], ep.sh.ports := [(3, ⟨1, 7, 8, 14, 0, 0, [], [], 0, none, none, 0, 0, 0, 0, 0, 8, none, [], 0, 0, [], none, false⟩)] },
     12, by decide +kernel⟩,
   ⟨{ base with ep.sh.lanes := [(12, ⟨4, [], [], false, false, false, 0, none, false, false, 0, 0, 0, 0, [], 0, (0, 0), false, 0, 0, false, [], []⟩)] },
     .ep, 12, by decide +kernel⟩,
   ⟨({ base with ep.sh.lanes := [(12, ⟨7, [], [], false, false, false, 0, none, false, false, 0, 0, 0, 0, [], 0, (0, 0), false, 0, 0, false, [], []⟩)], ep.sh.ports := [(3, ⟨1, 7, 8, 15, 0, 0, [], [], 0, none, none, 0, 0, 0, 0, 0, 8, none, [], 0, 0, [], none, false⟩)], ep.sh.regs := [(0x410007 * 65536 + 3, 0)] }),
     .ep, 12, by decide +kernel⟩,
   ⟨{ base with clock := 100000000000, ep.sh.ports := [(3, ⟨1, 7, 8, 15, 0, 0, [], [], 0, none, none, 0, 0, 0, 0, 0, 8, (some ⟨15, none, 0, none, none, 0, false, false, 0, 0⟩), [], 0, 0, [], none, false⟩)] },
     .ep, 3, ⟨15, none, 0, none, none, 0, false, false, 0, 0⟩, by decide +kernel⟩,
   ⟨{ base with ep.sh.ports := [(3, ⟨1, 7, 8, 15, 0, 0, [], [], 0, none, none, 0, 0, 0, 0, 0, 8, none, [], 0, 0, [], none, false⟩)] },
     .ep, 3, by decide +kernel⟩,
   ⟨base, opA, List.replicate 64 0#8, by decide +kernel⟩,
   ⟨{ base with mod.sh.ports := [(3, ⟨1, 7, 8, 15, 0, 0, [], [], 0, none, none, 0, 0, 0, 0, 0, 8, none, [], 0, 0, [], none, false⟩)] },
     opA, List.replicate 64 0#8, (3, ⟨1, 7, 8, 15, 0, 0, [], [], 0, none, none, 0, 0, 0, 0, 0, 8, none, [], 0, 0,
     [], none, false⟩), by decide +kernel⟩,
   ⟨base, .ep, opA, base.sel .ep opA.ctx 0x430001, by decide +kernel⟩,
   ⟨{ base with ep.sh.lanes := [(12, ⟨7, [], [], false, false, false, 0, none, false, false, 0, 0, 0, 0, [], 0, (0, 0), false, 0, 0, true, [], []⟩)] },
     .ep, 12, List.replicate 1024 0#8, by decide +kernel⟩⟩

/-- For each clause of FramesCrossTheMesh, a state and operands that meet its hypotheses. -/
theorem test_hyps_FramesCrossTheMesh :
    (∃ (s : State) (tile plane : Nat) (lost : List Nat), ((s.mod.frames.filter fun f => f.place == 3 && f.tile ==
      tile && f.mplane == plane) = [])) ∧
    (∃ (s : State) (tile plane : Nat) (lost : List Nat) (f : MFrame), ((s.mod.frames.filter fun f => f.place == 3
      && f.tile == tile && f.mplane == plane) = [f]) ∧ f.id ∈ lost ∧ f.unit < 4) ∧
    (∃ (s : State) (tile plane : Nat) (f : MFrame), ((s.mod.frames.filter fun f => f.place == 3 && f.tile == tile
      && f.mplane == plane) = [f])) ∧
    (∃ (s : State) (tile : Nat), s.injectNext tile = none) ∧
    (∃ (s : State) (tile p o n : Nat) (f : MFrame), s.injectNext tile = some (f, none) ∧ f.dtile ≠ f.tile ∧
      s.injectAt f = some (p, o) ∧ neighbour f.tile o = some n ∧ (tabGet f.stages 1).isSome = true) ∧
    (∃ (s : State) (t : Nat), s.regNow .mod 0x510005 ≤ s.freeCells t ∧ (s.tile t).spilling = false) ∧
    (∃ (s : State) (t : Nat) (f : MFrame), s.freeCells t < s.regNow .mod 0x510005 ∧ s.mayTakePages t 1 = true ∧
      s.outQueue t 0 = [f] ∧ s.outQueue t 1 = [] ∧ s.outQueue t 2 = [] ∧ s.outQueue t 3 = []) ∧
    (∃ (s : State) (t : Nat) (f : MFrame) (l : List MFrame), s.regNow .mod 0x510006 < s.freeCells t ∧ (s.inOrder
      (s.mod.frames.filter fun f => f.place == 4 && f.tile == t) = f :: l) ∧ s.checkPoint f = none ∧ s.pagesOf
      (.frame f.id) ≠ 0 ∧ (f.unit < 4 → s.mod.sh.portActive (firstPort f.dtile + f.unit) = true)) ∧
    (∃ (s : State) (id code : Nat) (g : InProg) (data : List Byte), ((s.mod.sh.recv.inprog.find? fun g => g.id ==
      id && g.stage != 3) = some g) ∧ g.result = some (code, data) ∧ code ≠ cTorn ∧ code ≠ cPoison) ∧
    (∃ (s : State) (id : Nat) (g : InProg), ((s.mod.sh.recv.inprog.find? fun g => g.id == id && g.stage != 3) =
      some g) ∧ g.result = none) :=
  ⟨⟨base, 4, 0, [], by decide +kernel⟩,
   ⟨{ base with mod.frames := [⟨1, 4, 3, 0, 4, 1, 0, 0, 48, 0, 0, 0, false, Packet.zero, 0, []⟩] }, 4, 0, [1], ⟨1,
     4, 3, 0, 4, 1, 0, 0, 48, 0, 0, 0, false, Packet.zero, 0, []⟩, by decide +kernel⟩,
   ⟨{ base with mod.frames := [⟨1, 4, 3, 0, 4, 1, 0, 0, 48, 0, 0, 0, false, Packet.zero, 0, []⟩] }, 4, 0, ⟨1, 4, 3,
     0, 4, 1, 0, 0, 48, 0, 0, 0, false, Packet.zero, 0, []⟩, by decide +kernel⟩,
   ⟨base, 4, by decide +kernel⟩,
   ⟨{ base with mod.frames := [⟨1, 4, 1, 0, 5, 1, 0, 0, 48, 0, 0, 0, false, Packet.zero, 0, [(1, 0)]⟩] }, 4, 0, 2,
     5, ⟨1, 4, 1, 0, 5, 1, 0, 0, 48, 0, 0, 0, false, Packet.zero, 0, [(1, 0)]⟩, by decide +kernel⟩,
   ⟨base, 63, by decide +kernel⟩,
   ⟨{ base with mod.frames := [⟨1, 4, 0, 0, 4, 0, 0, 0, 48, 0, 0, 0, false, Packet.zero, 0, []⟩], mod.tiles := [(4, ⟨true, false, 18000, 0, 0, 0, false⟩)] },
     4, ⟨1, 4, 0, 0, 4, 0, 0, 0, 48, 0, 0, 0, false, Packet.zero, 0, []⟩, by decide +kernel⟩,
   ⟨{ base with mod.frames := [⟨1, 4, 4, 0, 4, 4, 0, 0, 48, 0, 0, 0, true, Packet.zero, 0, []⟩], mod.spill := [(0, ⟨4, 0, .frame 1, [], 0⟩)] },
     4, ⟨1, 4, 4, 0, 4, 4, 0, 0, 48, 0, 0, 0, true, Packet.zero, 0, []⟩, [], by decide +kernel⟩,
   ⟨{ base with mod.sh.recv.inprog := [⟨4, 9, Packet.zero, 0, 0, 0, some (cDone, [1#8]), 0, 0, 2⟩] }, 4, cDone, ⟨4,
     9, Packet.zero, 0, 0, 0, some (cDone, [1#8]), 0, 0, 2⟩, [1#8], by decide +kernel⟩,
   ⟨{ base with mod.sh.recv.inprog := [⟨4, 9, Packet.zero, 0, 0, 0, none, 0, 0, 2⟩] }, 4, ⟨4, 9, Packet.zero, 0, 0,
     0, none, 0, 0, 2⟩, by decide +kernel⟩⟩

/-- For each clause of SlicesAndAudit, a state and operands that meet its hypotheses. -/
theorem test_hyps_SlicesAndAudit :
    (∃ (s : State) (a : Access) (val : List Byte) (job : Nat), dirCheck .mod a 0x550002 true s = 0 ∧ val.length =
      80 ∧ job = s.sel .mod a.ctx 0x550001 ∧ bits (beNat val) 602 512 = 0 ∧ bit (beNat val) 639 = true ∧ bits
      (beNat val) 634 619 = job ∧ tabGet s.mod.slices job = none ∧ s.mod.slices.length < 4096) ∧
    (∃ (s : State) (a : Access) (val : List Byte), dirCheck .mod a 0x550004 true s = 0 ∧ val.length = 2 ∧
      s.hasSlice (beNat val) = true) ∧
    (∃ (s : State) (a : Access) (val : List Byte), dirCheck .mod a 0x550004 true s = 0 ∧ val.length = 2 ∧
      s.hasSlice (beNat val) = false) ∧
    (∃ (s : State) (tile job : Nat) (e : Slice), tabGet s.mod.slices job = some e ∧ e.state = 2 ∧ (∀ f ∈
      s.mod.frames, f.tile = tile → f.pkt.job ≠ job)) ∧
    (∃ (s : State) (job : Nat) (e : Slice), tabGet s.mod.slices job = some e ∧ e.state = 2 ∧ (∀ t < 64, t ∈
      e.swept) ∧ e.revokedAt + s.regNow .mod 0x510008 * 1000 ≤ s.ns) ∧
    (∃ (s : State) (job : Nat) (e : Slice), tabGet s.mod.slices job = some e ∧ (∃ t < 64, t ∉ e.swept)) ∧
    (∃ (s : State), (∀ t < 64, (s.tile t).auditRun + 1 < s.regNow .mod 0xA60003)) ∧
    (∃ (s : State), (∀ q ∈ s.ep.sh.pairs, q.charged = 0) ∧ 0 < s.reg .ep 0xA60003) :=
  ⟨⟨base, opA, beBytes 80 (2 ^ 639 + base.sel .mod opA.ctx 0x550001 * 2 ^ 619), base.sel .mod opA.ctx 0x550001, by
     decide +kernel⟩,
   ⟨{ base with mod.slices := [(5, ⟨true, 1, true, true, 5, 1, 528, 0, []⟩)] }, opA, [0#8, 5#8], by decide +kernel⟩,
   ⟨base, opA, [0#8, 5#8], by decide +kernel⟩,
   ⟨{ base with mod.slices := [(5, ⟨true, 2, true, true, 5, 1, 528, 0, []⟩)] }, 4, 5, ⟨true, 2, true, true, 5, 1,
     528, 0, []⟩, by decide +kernel⟩,
   ⟨{ base with clock := 10000000, mod.slices := [(5, ⟨true, 2, true, true, 5, 1, 528, 0, List.range 64⟩)] }, 5,
     ⟨true, 2, true, true, 5, 1, 528, 0, List.range 64⟩, by decide +kernel⟩,
   ⟨{ base with mod.slices := [(5, ⟨true, 2, true, true, 5, 1, 528, 0, List.range 63⟩)] }, 5, ⟨true, 2, true, true,
     5, 1, 528, 0, List.range 63⟩, by decide +kernel⟩,
   ⟨base, by decide +kernel⟩,
   ⟨base, by decide +kernel⟩⟩

/-- For each clause of AcceleratorRequestsAreTaken, a state and operands that meet its hypotheses. -/
theorem test_hyps_AcceleratorRequestsAreTaken :
    (∃ (s : State) (l : Nat) (m : Eri) (ecc : List Nat) (n : Nat) (c : Instr), s.eriPasses l m ∧ (c = .eriLoad l m
      ecc ∧ m.kind = 0x01 ∨ c = .eriStore l m ∧ m.kind = 0x02 ∧ ecc = [] ∨ c = .eriAtomic l m ∧ m.kind = 0x03 ∧ ecc
      = []) ∧ eriFormOk m = true ∧ s.jobSlot m.job = .inl n) ∧
    (∃ (s : State) (l : Nat) (m : Eri), s.eriPasses l m ∧ m.kind = 0x04 ∧ m.rel ≠ 0 ∧ m.body = []) ∧
    (∃ (s : State) (id : Nat) (f : Fence), (s.ep.fences.find? (fun f => f.order == id) = some f) ∧ s.fenceReady f =
      true) ∧
    (∃ (s : State) (l : Nat) (m : Eri) (n : Nat) (x : Slot), s.eriPasses l m ∧ m.kind = 0x05 ∧ s.ep.slotOf m.job =
      some (n, x)) ∧
    (∃ (s : State) (l : Nat) (m : Eri), s.eriTakes l m ∧ m.kind = 0x06 ∧ badJob m = false) :=
  ⟨⟨{ base with ep.links := [(0, ⟨true, false, true, true, 4, 4, 4, 4, 0, 0⟩)], ep.slots := [(0, ⟨5, 4096, 0, 1, 0, 0, []⟩)] },
     0, { Eri.zero with kind := 1, job := 5, agent := 1, tag := 2, len := 8 }, [], 0, .eriLoad 0
     ({ Eri.zero with kind := 1, job := 5, agent := 1, tag := 2, len := 8 }) [], passes_of (takes_of (by
     decide +kernel)) (by decide +kernel), .inl ⟨rfl, rfl⟩, by decide +kernel⟩,
   ⟨{ base with ep.links := [(0, ⟨true, false, true, true, 4, 4, 4, 4, 0, 0⟩)], ep.slots := [(0, ⟨5, 4096, 0, 1, 0, 0, []⟩)] },
     0, { Eri.zero with kind := 4, job := 5, agent := 1, tag := 2, rel := 3 }, passes_of (takes_of (by
     decide +kernel)) (by decide +kernel), by decide +kernel⟩,
   ⟨{ base with ep.fences := [⟨4, 1, 2, 5, 0, true, []⟩] }, 4, ⟨4, 1, 2, 5, 0, true, []⟩, by decide +kernel⟩,
   ⟨{ base with ep.links := [(0, ⟨true, false, true, true, 4, 4, 4, 4, 0, 0⟩)], ep.slots := [(0, ⟨5, 4096, 0, 1, 0, 0, []⟩)] },
     0, { Eri.zero with kind := 5, job := 5, agent := 1, tag := 2 }, 0, ⟨5, 4096, 0, 1, 0, 0, []⟩, passes_of
     (takes_of (by decide +kernel)) (by decide +kernel), by decide +kernel⟩,
   ⟨{ base with ep.links := [(0, ⟨true, false, true, true, 4, 4, 4, 4, 0, 0⟩)], ep.slots := [(0, ⟨5, 4096, 0, 1, 0, 0, []⟩)] },
     0, { Eri.zero with kind := 6, job := 5, agent := 1, tag := 2, aux := 0x100001 * 2 ^ 32 }, takes_of (by
     decide +kernel), by decide +kernel⟩⟩

/-- For each clause of AcceleratorRequestsAreRefused, a state and operands that meet its hypotheses. -/
theorem test_hyps_AcceleratorRequestsAreRefused :
    (∃ (s : State) (l kd : Nat) (m : Eri) (ecc : List Nat) (c : Instr), (c = .eriLoad l m ecc ∧ kd = 0x01 ∨ c =
      .eriStore l m ∧ kd = 0x02 ∨ c = .eriAtomic l m ∧ kd = 0x03 ∨ c = .eriFence l m ∧ kd = 0x04 ∨ c =
      .eriCacheInvalidate l m ∧ kd = 0x05 ∨ c = .eriDirectoryRequest l m ∧ kd = 0x06 ∨ c = .eriCopy l m ∧ kd = 0x08
      ∨ c = .listArm l m ∧ kd = 0x09 ∨ c = .listCancel l m ∧ kd = 0x0A ∨ c = .collectiveStart l m ∧ kd = 0x0C) ∧
      s.eriBrings l m ∧ eriFormBad kd m = true) ∧
    (∃ (s : State) (l kd : Nat) (m : Eri) (ecc : List Nat) (c : Instr), (c = .eriLoad l m ecc ∧ kd = 0x01 ∨ c =
      .eriStore l m ∧ kd = 0x02 ∨ c = .eriAtomic l m ∧ kd = 0x03 ∨ c = .eriFence l m ∧ kd = 0x04 ∨ c =
      .eriCacheInvalidate l m ∧ kd = 0x05 ∨ c = .eriDirectoryRequest l m ∧ kd = 0x06 ∨ c = .eriCopy l m ∧ kd = 0x08
      ∨ c = .listArm l m ∧ kd = 0x09 ∨ c = .listCancel l m ∧ kd = 0x0A ∨ c = .collectiveStart l m ∧ kd = 0x0C) ∧
      s.eriBrings l m ∧ eriFormBad kd m = false ∧ s.pairOut m = true) ∧
    (∃ (s : State) (l : Nat) (m : Eri) (ecc : List Nat) (c : Instr), (c = .eriLoad l m ecc ∧ m.kind = 0x01 ∨ c =
      .eriStore l m ∧ m.kind = 0x02 ∨ c = .eriAtomic l m ∧ m.kind = 0x03 ∨ c = .eriFence l m ∧ m.kind = 0x04 ∨ c =
      .eriCacheInvalidate l m ∧ m.kind = 0x05 ∨ c = .eriCopy l m ∧ m.kind = 0x08 ∨ c = .listArm l m ∧ m.kind = 0x09
      ∨ c = .listCancel l m ∧ m.kind = 0x0A ∨ c = .collectiveStart l m ∧ m.kind = 0x0C) ∧ s.eriTakes l m ∧
      s.ep.sh.rot.boot ≠ 1) ∧
    (∃ (s : State) (l : Nat) (m : Eri) (ecc : List Nat) (c : Instr), (c = .eriLoad l m ecc ∧ m.kind = 0x01 ∨ c =
      .eriStore l m ∧ m.kind = 0x02 ∨ c = .eriAtomic l m ∧ m.kind = 0x03 ∨ c = .eriFence l m ∧ m.kind = 0x04 ∨ c =
      .eriCacheInvalidate l m ∧ m.kind = 0x05 ∨ c = .eriCopy l m ∧ m.kind = 0x08 ∨ c = .listArm l m ∧ m.kind = 0x09
      ∨ c = .listCancel l m ∧ m.kind = 0x0A ∨ c = .collectiveStart l m ∧ m.kind = 0x0C) ∧ s.eriTakes l m ∧
      s.ep.sh.rot.boot = 1 ∧ s.ep.selfDead = true) ∧
    (∃ (s : State) (l : Nat) (m : Eri) (ecc : List Nat) (c : Instr), (c = .eriLoad l m ecc ∧ m.kind = 0x01 ∨ c =
      .eriStore l m ∧ m.kind = 0x02 ∨ c = .eriAtomic l m ∧ m.kind = 0x03 ∨ c = .eriFence l m ∧ m.kind = 0x04 ∨ c =
      .eriCacheInvalidate l m ∧ m.kind = 0x05 ∨ c = .eriCopy l m ∧ m.kind = 0x08 ∨ c = .listArm l m ∧ m.kind = 0x09
      ∨ c = .listCancel l m ∧ m.kind = 0x0A ∨ c = .collectiveStart l m ∧ m.kind = 0x0C) ∧ s.eriTakes l m ∧
      s.ep.sh.rot.boot = 1 ∧ s.ep.selfDead = false ∧ badJob m = true) ∧
    (∃ (s : State) (l : Nat) (m : Eri) (ecc : List Nat) (c : Instr), (c = .eriLoad l m ecc ∧ m.kind = 0x01 ∧
      eriFormOk m = true ∨ c = .eriStore l m ∧ m.kind = 0x02 ∧ eriFormOk m = true ∨ c = .eriAtomic l m ∧ m.kind =
      0x03 ∧ eriFormOk m = true ∨ c = .eriCopy l m ∧ m.kind = 0x08 ∧ m.body.length = 64 ∨ c = .listArm l m ∧ m.kind
      = 0x09 ∨ c = .collectiveStart l m ∧ m.kind = 0x0C) ∧ s.eriPasses l m ∧ s.ep.slotOf m.job = none) ∧
    (∃ (s : State) (l : Nat) (m : Eri) (ecc : List Nat) (c : Instr) (n : Nat) (x : Slot), (c = .eriLoad l m ecc ∧
      m.kind = 0x01 ∧ eriFormOk m = true ∨ c = .eriStore l m ∧ m.kind = 0x02 ∧ eriFormOk m = true ∨ c = .eriAtomic
      l m ∧ m.kind = 0x03 ∧ eriFormOk m = true ∨ c = .eriCopy l m ∧ m.kind = 0x08 ∧ m.body.length = 64 ∨ c =
      .listArm l m ∧ m.kind = 0x09 ∨ c = .collectiveStart l m ∧ m.kind = 0x0C) ∧ s.eriPasses l m ∧ s.ep.slotOf
      m.job = some (n, x) ∧ x.state = 3) ∧
    (∃ (s : State) (l : Nat) (m : Eri) (ecc : List Nat) (k : EriLink) (c : Instr), (c = .eriLoad l m ecc ∨ c =
      .eriStore l m ∨ c = .eriAtomic l m ∨ c = .eriFence l m ∨ c = .eriCacheInvalidate l m ∨ c =
      .eriDirectoryRequest l m ∨ c = .eriCopy l m ∨ c = .listArm l m ∨ c = .listCancel l m ∨ c = .collectiveStart l
      m) ∧ tabGet s.ep.links l = some k ∧ k.up = true ∧ k.reqCr < m.units) :=
  ⟨⟨{ base with ep.links := [(0, ⟨true, false, true, true, 4, 4, 4, 4, 0, 0⟩)], ep.slots := [(0, ⟨5, 4096, 0, 1, 0, 0, []⟩)] },
     0, 1, { Eri.zero with kind := 1, job := 5, agent := 1, tag := 2, len := 8, aux := 1 }, [], .eriLoad 0
     { Eri.zero with kind := 1, job := 5, agent := 1, tag := 2, len := 8, aux := 1 } [], .inl ⟨rfl, rfl⟩, brings_of
     (by decide +kernel), by decide +kernel⟩,
   ⟨{ base with ep.links := [(0, ⟨true, false, true, true, 4, 4, 4, 4, 0, 0⟩)], ep.slots := [(0, ⟨5, 4096, 0, 1, 0, 0, []⟩)], ep.tags := [(1, 2)] },
     0, 1, { Eri.zero with kind := 1, job := 5, agent := 1, tag := 2, len := 8 }, [], .eriLoad 0
     { Eri.zero with kind := 1, job := 5, agent := 1, tag := 2, len := 8 } [], .inl ⟨rfl, rfl⟩, brings_of (by
     decide +kernel), by decide +kernel⟩,
   ⟨{ base with ep.links := [(0, ⟨true, false, true, true, 4, 4, 4, 4, 0, 0⟩)], ep.slots := [(0, ⟨5, 4096, 0, 1, 0, 0, []⟩)], ep.sh.rot.boot := 0 },
     0, { Eri.zero with kind := 1, job := 5, agent := 1, tag := 2, len := 8 }, [], .eriLoad 0
     { Eri.zero with kind := 1, job := 5, agent := 1, tag := 2, len := 8 } [], .inl ⟨rfl, rfl⟩, takes_of (by
     decide +kernel), by decide +kernel⟩,
   ⟨{ base with ep.links := [(0, ⟨true, false, true, true, 4, 4, 4, 4, 0, 0⟩)], ep.slots := [(0, ⟨5, 4096, 0, 1, 0, 0, []⟩)], ep.selfDead := true },
     0, { Eri.zero with kind := 1, job := 5, agent := 1, tag := 2, len := 8 }, [], .eriLoad 0
     { Eri.zero with kind := 1, job := 5, agent := 1, tag := 2, len := 8 } [], .inl ⟨rfl, rfl⟩, takes_of (by
     decide +kernel), by decide +kernel⟩,
   ⟨{ base with ep.links := [(0, ⟨true, false, true, true, 4, 4, 4, 4, 0, 0⟩)], ep.slots := [(0, ⟨5, 4096, 0, 1, 0, 0, []⟩)] },
     0, { Eri.zero with kind := 1, agent := 1, tag := 2, len := 8, job := 0 }, [], .eriLoad 0
     { Eri.zero with kind := 1, agent := 1, tag := 2, len := 8, job := 0 } [], .inl ⟨rfl, rfl⟩, takes_of (by
     decide +kernel), by decide +kernel⟩,
   ⟨{ base with ep.links := [(0, ⟨true, false, true, true, 4, 4, 4, 4, 0, 0⟩)] }, 0,
     { Eri.zero with kind := 1, job := 5, agent := 1, tag := 2, len := 8 }, [], .eriLoad 0
     { Eri.zero with kind := 1, job := 5, agent := 1, tag := 2, len := 8 } [], .inl ⟨rfl, rfl, by decide +kernel⟩,
     passes_of (takes_of (by decide +kernel)) (by decide +kernel), by decide +kernel⟩,
   ⟨{ base with ep.links := [(0, ⟨true, false, true, true, 4, 4, 4, 4, 0, 0⟩)], ep.slots := [(0, ⟨5, 4096, 0, 3, 0, 0, []⟩)] },
     0, { Eri.zero with kind := 1, job := 5, agent := 1, tag := 2, len := 8 }, [], .eriLoad 0
     { Eri.zero with kind := 1, job := 5, agent := 1, tag := 2, len := 8 } [], 0, ⟨5, 4096, 0, 3, 0, 0, []⟩, .inl
     ⟨rfl, rfl, by decide +kernel⟩, passes_of (takes_of (by decide +kernel)) (by decide +kernel), by
     decide +kernel⟩,
   ⟨{ base with ep.links := [(0, ⟨true, false, true, true, 0, 4, 4, 4, 0, 0⟩)] }, 0,
     { Eri.zero with kind := 1, job := 5, agent := 1, tag := 2, len := 8 }, [], ⟨true, false, true, true, 0, 4, 4,
     4, 0, 0⟩, .eriLoad 0 { Eri.zero with kind := 1, job := 5, agent := 1, tag := 2, len := 8 } [], .inl rfl, by
     decide +kernel⟩⟩

/-- For each clause of CopiesListsAndCollectivesAreAccepted, a state and operands that meet its hypotheses. -/
theorem test_hyps_CopiesListsAndCollectivesAreAccepted :
    (∃ (s : State) (l : Nat) (m : Eri) (n : Nat), s.eriPasses l m ∧ m.kind = 0x08 ∧ m.body.length = 64 ∧ s.jobSlot
      m.job = .inl n ∧ s.copyPlaces < 4096 ∧ s.slotRevoked n m.job = false ∧ (copyDescOf m.body).bad (s.rack .ep) =
      false) ∧
    (∃ (s : State) (l : Nat) (m : Eri) (n : Nat), s.eriPasses l m ∧ m.kind = 0x08 ∧ m.body.length = 64 ∧ s.jobSlot
      m.job = .inl n ∧ 4096 ≤ s.copyPlaces) ∧
    (∃ (s : State) (l : Nat) (m : Eri) (n count slot : Nat), s.eriPasses l m ∧ m.kind = 0x09 ∧ s.jobSlot m.job =
      .inl n ∧ count = bits m.aux 55 43 ∧ slot = bits m.aux 42 37 ∧ m.value % 1000 = 0 ∧ 1 ≤ count ∧ count ≤ 4096 ∧
      tabGet s.ep.lists slot = none ∧ s.copyPlaces + count ≤ 4096) ∧
    (∃ (s : State) (l : Nat) (m : Eri) (slot : Nat) (x : ListSlot), s.eriPasses l m ∧ m.kind = 0x0A ∧ slot = bits
      m.aux 42 37 ∧ tabGet s.ep.lists slot = some x ∧ x.job = m.job ∧ x.state ≠ 3) ∧
    (∃ (s : State) (l : Nat) (m : Eri) (n : Nat), s.eriPasses l m ∧ m.kind = 0x0C ∧ s.jobSlot m.job = .inl n ∧
      s.collRefused m = none ∧ s.ep.sh.mode = 0 ∧ bits (beNat (sliceBytes m.body 0 64)) 176 113 = 0) ∧
    (∃ (s : State) (l : Nat) (m : Eri) (n code : Nat), s.eriPasses l m ∧ m.kind = 0x0C ∧ s.jobSlot m.job = .inl n ∧
      s.collRefused m = some code) :=
  ⟨⟨{ base with ep.links := [(0, ⟨true, false, true, true, 4, 4, 4, 4, 0, 0⟩)], ep.slots := [(0, ⟨5, 4096, 0, 1, 0, 0, []⟩)] },
     0, { Eri.zero with kind := 8, job := 5, agent := 1, tag := 2, body := beBytes 64 (4096 * 2 ^ 360) }, 0,
     passes_of (takes_of (by decide +kernel)) (by decide +kernel), by decide +kernel⟩,
   ⟨{ base with ep.links := [(0, ⟨true, false, true, true, 4, 4, 4, 4, 0, 0⟩)], ep.slots := [(0, ⟨5, 4096, 0, 1, 0, 0, []⟩)], ep.lists := [(3, ⟨1, 2, 5, 1, 2, 0, 0, [], [], 4096, 0, [], [], false, 0, 0, 0⟩)] },
     0, { Eri.zero with kind := 8, job := 5, agent := 1, tag := 2, body := beBytes 64 (4096 * 2 ^ 360) }, 0,
     passes_of (takes_of (by decide +kernel)) (by decide +kernel), by decide +kernel⟩,
   ⟨{ base with ep.links := [(0, ⟨true, false, true, true, 4, 4, 4, 4, 0, 0⟩)], ep.slots := [(0, ⟨5, 4096, 0, 1, 0, 0, []⟩)] },
     0, { Eri.zero with kind := 9, job := 5, agent := 1, tag := 2, aux := 4096 * 2 ^ 43 + 63 * 2 ^ 37 }, 0, 4096,
     63, passes_of (takes_of (by decide +kernel)) (by decide +kernel), by decide +kernel⟩,
   ⟨{ base with ep.links := [(0, ⟨true, false, true, true, 4, 4, 4, 4, 0, 0⟩)], ep.slots := [(0, ⟨5, 4096, 0, 1, 0, 0, []⟩)], ep.lists := [(3, ⟨1, 2, 5, 1, 2, 0, 0, [], [], 4096, 0, [], [], false, 0, 0, 0⟩)] },
     0, { Eri.zero with kind := 10, job := 5, agent := 1, tag := 2, aux := 3 * 2 ^ 37 }, 3, ⟨1, 2, 5, 1, 2, 0, 0,
     [], [], 4096, 0, [], [], false, 0, 0, 0⟩, passes_of (takes_of (by decide +kernel)) (by decide +kernel), by
     decide +kernel⟩,
   ⟨{ base with ep.links := [(0, ⟨true, false, true, true, 4, 4, 4, 4, 0, 0⟩)], ep.slots := [(0, ⟨5, 4096, 0, 1, 0, 0, []⟩)], ep.live := [0] },
     0,
     { Eri.zero with kind := 12, job := 5, agent := 1, tag := 2, len := 64, aux := 2 ^ 24, body := beBytes 64 (2 ^ 244 + 2 ^ 232) },
     0, passes_of (takes_of (by decide +kernel)) (by decide +kernel), by decide +kernel⟩,
   ⟨{ base with ep.links := [(0, ⟨true, false, true, true, 4, 4, 4, 4, 0, 0⟩)], ep.slots := [(0, ⟨5, 4096, 0, 1, 0, 0, []⟩)], ep.live := [0] },
     0,
     { Eri.zero with kind := 12, job := 5, agent := 1, tag := 2, len := 64, body := beBytes 64 (2 ^ 244 + 2 ^ 232) },
     0, cDenied, passes_of (takes_of (by decide +kernel)) (by decide +kernel), by decide +kernel⟩⟩

/-- For each clause of MemoryAnswersAndLinkCredits, a state and operands that meet its hypotheses. -/
theorem test_hyps_MemoryAnswersAndLinkCredits :
    (∃ (s : State) (l : Nat) (m : Eri) (k : EriLink) (w : MemMsg) (c : Instr), (c = .memoryData l m ∨ c =
      .memoryAck l m) ∧ tabGet s.ep.links l = some k ∧ k.up = true ∧ k.gotInit = true ∧ m.units ≤ k.respCr ∧
      s.memOf m.tag = some w ∧ m.unusedZero = true ∧ m.kind = (if w.kind = 0x29 then 0x11 else 0x10) ∧ m.code = 0 ∧
      m.body.length = w.want ∧ m.len = m.body.length) ∧
    (∃ (s : State) (l : Nat) (m : Eri) (k : EriLink) (w : MemMsg) (c : Instr), (c = .memoryData l m ∨ c =
      .memoryAck l m) ∧ tabGet s.ep.links l = some k ∧ k.up = true ∧ k.gotInit = true ∧ m.units ≤ k.respCr ∧
      s.memOf m.tag = some w ∧ m.unusedZero = true ∧ (m.kind = 0x10 ∨ m.kind = 0x11) ∧ (m.body.length ≠ m.len ∨
      m.code ≠ 0 ∧ m.code ≠ 4 ∨ m.kind ≠ (if w.kind = 0x29 then 0x11 else 0x10))) ∧
    (∃ (s : State) (l : Nat) (m : Eri) (k : EriLink) (c : Instr), (c = .memoryData l m ∨ c = .memoryAck l m) ∧
      tabGet s.ep.links l = some k ∧ k.up = true ∧ k.gotInit = true ∧ m.units ≤ k.respCr ∧ s.memOf m.tag = none ∧
      m.unusedZero = true ∧ (m.kind = 0x10 ∨ m.kind = 0x11)) ∧
    (∃ (s : State) (l : Nat) (m : Eri) (k : EriLink) (c : Instr), (c = .memoryData l m ∨ c = .memoryAck l m) ∧
      tabGet s.ep.links l = some k ∧ k.up = true ∧ k.gotInit = true ∧ m.units ≤ k.respCr ∧ (m.kind ≠ 0x10 ∧ m.kind
      ≠ 0x11 ∨ m.unusedZero = false)) ∧
    (∃ (s : State) (tag : Nat) (w : MemMsg), s.memOf tag = some w ∧ w.sent + w.limit ≤ s.ns) ∧
    (∃ (s : State) (tag : Nat) (w : MemMsg), s.memOf tag = some w ∧ s.ns < w.sent + w.limit) ∧
    (∃ (s : State) (l : Nat) (m : Eri) (k : EriLink), tabGet s.ep.links l = some k ∧ k.up = true ∧ m.kind = 0x3E ∧
      m.unusedZero = true) ∧
    (∃ (s : State) (l : Nat) (m : Eri), s.linkUp l = true ∧ (m.kind ≠ 0x3E ∨ m.unusedZero = false)) ∧
    (∃ (s : State) (l : Nat) (m : Eri) (k : EriLink), tabGet s.ep.links l = some k ∧ k.up = true ∧ m.kind = 0x3F ∧
      m.unusedZero = true) ∧
    (∃ (s : State) (l : Nat) (m : Eri), s.linkUp l = true ∧ (m.kind ≠ 0x3F ∨ m.unusedZero = false)) ∧
    (∃ (s : State) (l : Nat), l < 8 ∧ bit (s.reg .ep 0xD10001) l = true ∧ tabGet s.ep.links l = none ∧ s.ep.tripped
      = false ∧ s.ep.inReset = false ∧ s.ep.sh.clk.crystal ≠ 2) ∧
    (∃ (s : State) (l : Nat), s.linkUp l = false) ∧
    (∃ (s : State) (l : Nat), s.linkUp l = true) :=
  ⟨⟨{ base with ep.links := [(0, ⟨true, false, true, true, 4, 4, 4, 4, 0, 0⟩)], ep.mem := [⟨9, 0, 40, 4, .fabric 3, 0, 0⟩] },
     0, { Eri.zero with kind := 0x10, tag := 9, len := 4, body := [1#8, 2#8, 3#8, 4#8] }, ⟨true, false, true, true,
     4, 4, 4, 4, 0, 0⟩, ⟨9, 0, 40, 4, .fabric 3, 0, 0⟩, .memoryData 0
     ({ Eri.zero with kind := 0x10, tag := 9, len := 4, body := [1#8, 2#8, 3#8, 4#8] }), .inl rfl, by
     decide +kernel⟩,
   ⟨{ base with ep.links := [(0, ⟨true, false, true, true, 4, 4, 4, 4, 0, 0⟩)], ep.mem := [⟨9, 0, 40, 4, .fabric 3, 0, 0⟩] },
     0, { Eri.zero with kind := 0x10, tag := 9, len := 4, body := [1#8, 2#8, 3#8, 4#8], code := 3 }, ⟨true, false,
     true, true, 4, 4, 4, 4, 0, 0⟩, ⟨9, 0, 40, 4, .fabric 3, 0, 0⟩, .memoryData 0
     ({ Eri.zero with kind := 0x10, tag := 9, len := 4, body := [1#8, 2#8, 3#8, 4#8], code := 3 }), .inl rfl, by
     decide +kernel⟩,
   ⟨{ base with ep.links := [(0, ⟨true, false, true, true, 4, 4, 4, 4, 0, 0⟩)], ep.mem := [] }, 0,
     { Eri.zero with kind := 0x10, tag := 9, len := 4, body := [1#8, 2#8, 3#8, 4#8] }, ⟨true, false, true, true, 4,
     4, 4, 4, 0, 0⟩, .memoryData 0
     ({ Eri.zero with kind := 0x10, tag := 9, len := 4, body := [1#8, 2#8, 3#8, 4#8] }), .inl rfl, by
     decide +kernel⟩,
   ⟨{ base with ep.links := [(0, ⟨true, false, true, true, 4, 4, 4, 4, 0, 0⟩)], ep.mem := [⟨9, 0, 40, 4, .fabric 3, 0, 0⟩] },
     0, { Eri.zero with kind := 0x10, tag := 9, len := 4, body := [1#8, 2#8, 3#8, 4#8], agent := 5 }, ⟨true, false,
     true, true, 4, 4, 4, 4, 0, 0⟩, .memoryData 0
     ({ Eri.zero with kind := 0x10, tag := 9, len := 4, body := [1#8, 2#8, 3#8, 4#8], agent := 5 }), .inl rfl, by
     decide +kernel⟩,
   ⟨{ base with ep.links := [(0, ⟨true, false, true, true, 4, 4, 4, 4, 0, 0⟩)], ep.mem := [⟨9, 0, 40, 4, .fabric 3, 0, 0⟩] },
     9, ⟨9, 0, 40, 4, .fabric 3, 0, 0⟩, by decide +kernel⟩,
   ⟨{ base with ep.links := [(0, ⟨true, false, true, true, 4, 4, 4, 4, 0, 0⟩)], ep.mem := [⟨9, 0, 40, 4, .fabric 3, 0, 1⟩] },
     9, ⟨9, 0, 40, 4, .fabric 3, 0, 1⟩, by decide +kernel⟩,
   ⟨{ base with ep.links := [(0, ⟨true, false, true, true, 4, 4, 4, 4, 0, 0⟩)], ep.mem := [] }, 0,
     { Eri.zero with kind := 0x3E }, ⟨true, false, true, true, 4, 4, 4, 4, 0, 0⟩, by decide +kernel⟩,
   ⟨{ base with ep.links := [(0, ⟨true, false, true, true, 4, 4, 4, 4, 0, 0⟩)], ep.mem := [] }, 0,
     { Eri.zero with kind := 0x3F }, by decide +kernel⟩,
   ⟨{ base with ep.links := [(0, ⟨true, false, true, true, 4, 4, 4, 4, 0, 0⟩)], ep.mem := [] }, 0,
     { Eri.zero with kind := 0x3F }, ⟨true, false, true, true, 4, 4, 4, 4, 0, 0⟩, by decide +kernel⟩,
   ⟨{ base with ep.links := [(0, ⟨true, false, true, true, 4, 4, 4, 4, 0, 0⟩)], ep.mem := [] }, 0,
     { Eri.zero with kind := 0x3E }, by decide +kernel⟩,
   ⟨base, 7, by decide +kernel⟩,
   ⟨base, 7, by decide +kernel⟩,
   ⟨{ base with ep.links := [(0, ⟨true, false, true, true, 4, 4, 4, 4, 0, 0⟩)], ep.mem := [] }, 0, by
     decide +kernel⟩⟩

/-- For each clause of FabricRequestsAreChecked, a state and operands that meet its hypotheses. -/
theorem test_hyps_FabricRequestsAreChecked :
    (∃ (s : State) (p : Part) (k : Packet) (port : Nat) (tagOk : Bool) (err : Nat), s.fabricOff p = true) ∧
    (∃ (s : State) (k : Packet) (port : Nat) (tagOk : Bool) (err : Nat) (f : MFrame) (c : Nat), s.fabricOff .mod =
      false ∧ (s.ownFrame (fun x => x == k) = some f) ∧ s.checkPoint f = some c) ∧
    (∃ (s : State) (p : Part) (k : Packet) (port : Nat) (tagOk : Bool) (err : Nat), s.fabricOff p = false ∧
      (s.expired p (fun x => x == k) = none) ∧ (formOk k (p == .ep) = false ∨ 5 < k.typ)) ∧
    (∃ (s : State) (p : Part) (k : Packet) (port : Nat) (tagOk : Bool) (err : Nat), s.fabricOff p = false ∧
      (s.expired p (fun x => x == k) = none) ∧ formOk k (p == .ep) = true ∧ 1 ≤ k.typ ∧ k.typ ≤ 5 ∧ (k.job = 0 ∨
      k.job = 0xFFFF)) ∧
    (∃ (s : State) (p : Part) (k : Packet) (port : Nat) (tagOk : Bool) (err : Nat), s.fabricOff p = false ∧
      (s.expired p (fun x => x == k) = none) ∧ formOk k (p == .ep) = true ∧ 1 ≤ k.typ ∧ k.typ ≤ 5 ∧ k.job ≠ 0 ∧
      k.job ≠ 0xFFFF ∧ k.dst ≠ s.node p) ∧
    (∃ (s : State) (p : Part) (k : Packet) (port : Nat) (tagOk : Bool) (err : Nat), s.fabricOff p = false ∧
      (s.expired p (fun x => x == k) = none) ∧ formOk k (p == .ep) = true ∧ 1 ≤ k.typ ∧ k.typ ≤ 5 ∧ k.job ≠ 0 ∧
      k.job ≠ 0xFFFF ∧ k.dst = s.node p ∧ s.sealCheck p k tagOk = 1) ∧
    (∃ (s : State) (p : Part) (k : Packet) (port : Nat) (tagOk : Bool) (err : Nat), s.fabricOff p = false ∧
      (s.expired p (fun x => x == k) = none) ∧ formOk k (p == .ep) = true ∧ 1 ≤ k.typ ∧ k.typ ≤ 5 ∧ k.job ≠ 0 ∧
      k.job ≠ 0xFFFF ∧ k.dst = s.node p ∧ s.sealCheck p k tagOk = 2) ∧
    (∃ (s : State) (p : Part) (k : Packet) (port : Nat) (tagOk : Bool) (err : Nat) (r : SrcRec), FreshRequest s p k
      tagOk r ∧ s.fabricOff p = false ∧ (s.expired p (fun x => x == k) = none) ∧ (k.isCounted = true → r.isOpen
      k.interval = true) ∧ (¬ (k.typ = 0x02 ∧ k.f = true)) ∧ (k.typ = 0x03 → s.atomFull p = false) ∧ s.jobState p
      k.job = 1) ∧
    (∃ (s : State) (p : Part) (k : Packet) (port : Nat) (tagOk : Bool) (err : Nat) (r : SrcRec), FreshRequest s p k
      tagOk r ∧ s.fabricOff p = false ∧ (s.expired p (fun x => x == k) = none) ∧ (k.isCounted = true → r.isOpen
      k.interval = true) ∧ (¬ (k.typ = 0x02 ∧ k.f = true)) ∧ (k.typ = 0x03 → s.atomFull p = false) ∧ s.jobState p
      k.job = 0 ∧ admFind (s.sh p).adm k.job k.off k.len = none) ∧
    (∃ (s : State) (p : Part) (k : Packet) (port : Nat) (tagOk : Bool) (err : Nat) (r : SrcRec) (e : AdmEntry),
      FreshRequest s p k tagOk r ∧ s.fabricOff p = false ∧ (s.expired p (fun x => x == k) = none) ∧ (k.isCounted =
      true → r.isOpen k.interval = true) ∧ (¬ (k.typ = 0x02 ∧ k.f = true)) ∧ (k.typ = 0x03 → s.atomFull p = false)
      ∧ s.jobState p k.job = 0 ∧ admFind (s.sh p).adm k.job k.off k.len = some e ∧ e.has (rightOf k.typ) = false) ∧
    (∃ (s : State) (p : Part) (k : Packet) (port : Nat) (tagOk : Bool) (err : Nat) (r : SrcRec), s.fabricOff p =
      false ∧ (s.expired p (fun x => x == k) = none) ∧ formOk k (p == .ep) = true ∧ 1 ≤ k.typ ∧ k.typ ≤ 5 ∧ k.job ≠
      0 ∧ k.job ≠ 0xFFFF ∧ k.dst = s.node p ∧ s.sealCheck p k tagOk = 0 ∧ (s.sh p).recv.rec_ k.from_ = some r ∧ k.s
      = false ∧ r.settledOf k.seq = none ∧ (s.sh p).recv.busyWith k.from_ k.seq = false ∧ 4096 ≤ serialDiff k.seq
      r.base) ∧
    (∃ (s : State) (p : Part) (k : Packet) (port : Nat) (tagOk : Bool) (err : Nat) (r : SrcRec), s.fabricOff p =
      false ∧ (s.expired p (fun x => x == k) = none) ∧ formOk k (p == .ep) = true ∧ 1 ≤ k.typ ∧ k.typ ≤ 5 ∧ k.job ≠
      0 ∧ k.job ≠ 0xFFFF ∧ k.dst = s.node p ∧ s.sealCheck p k tagOk = 0 ∧ (s.sh p).recv.rec_ k.from_ = some r ∧ k.s
      = false ∧ r.settledOf k.seq = none ∧ (s.sh p).recv.busyWith k.from_ k.seq = true) ∧
    (∃ (s : State) (p : Part) (k : Packet) (port : Nat) (tagOk : Bool) (err : Nat) (r : SrcRec) (x : Settled),
      s.fabricOff p = false ∧ (s.expired p (fun x => x == k) = none) ∧ formOk k (p == .ep) = true ∧ 1 ≤ k.typ ∧
      k.typ ≤ 5 ∧ k.job ≠ 0 ∧ k.job ≠ 0xFFFF ∧ k.dst = s.node p ∧ s.sealCheck p k tagOk = 0 ∧ (s.sh p).recv.rec_
      k.from_ = some r ∧ k.s = false ∧ r.settledOf k.seq = some x ∧ (k.typ = 0x02 ∨ k.typ = 0x04)) :=
  ⟨⟨{ base with ep.tripped := true }, .ep, load5 3, 0, false, 0, by decide +kernel⟩,
   ⟨{ fab with mod.frames := [⟨1, 4, 0, 0, 4, 5, 0, 0, 48, 4174304, 0, 0, false, load5 512, 0, []⟩] }, load5 512,
     0, false, 0, ⟨1, 4, 0, 0, 4, 5, 0, 0, 48, 4174304, 0, 0, false, load5 512, 0, []⟩, 2, by decide +kernel⟩,
   ⟨fab, .ep, { load5 3 with len := 0 }, 0, false, 0, by decide +kernel⟩,
   ⟨fab, .ep, { load5 3 with job := 0xFFFF }, 0, false, 0, by decide +kernel⟩,
   ⟨fab, .ep, load5 4, 0, false, 0, by decide +kernel⟩,
   ⟨{ fab with ep.sh.keys := [⟨5, some 3, none, false, none, [], 0, 0, none⟩] }, .ep, { load5 3 with epoch := 9 },
     0, false, 0, by decide +kernel⟩,
   ⟨{ fab with ep.sh.keys := [⟨5, some 3, none, false, none, [], 0, 0, none⟩] }, .ep, { load5 3 with epoch := 3 },
     0, false, 0, by decide +kernel⟩,
   ⟨{ fab with ep.slots := [] }, .ep, load5 3, 0, false, 0, rec5, fresh_of (by decide +kernel), by decide +kernel⟩,
   ⟨{ fab with ep.sh.adm := [] }, .ep, load5 3, 0, false, 0, rec5, fresh_of (by decide +kernel), by decide +kernel⟩,
   ⟨{ fab with ep.sh.adm := [(0, { adm5 with r := false })] }, .ep, load5 3, 0, false, 0, rec5,
     { adm5 with r := false }, fresh_of (by decide +kernel), by decide +kernel⟩,
   ⟨fab, .ep, { load5 3 with seq := 4096 }, 0, false, 0, rec5, by decide +kernel⟩,
   ⟨{ fab with ep.sh.recv.inprog := [⟨4, 7, { load5 3 with typ := 1 }, 0, 0, 0, none, 0, 0, 0⟩] }, .ep, load5 3, 0,
     false, 0, rec5, by decide +kernel⟩,
   ⟨{ fab with ep.sh.recv.recs := [{ rec5 with settled := [⟨0, 0, 2, 0, []⟩] }] }, .ep, store5 3, 0, false, 0,
     { rec5 with settled := [⟨0, 0, 2, 0, []⟩] }, ⟨0, 0, 2, 0, []⟩, by decide +kernel⟩⟩

/-- For each clause of FabricRequestsReachMemory, a state and operands that meet its hypotheses. -/
theorem test_hyps_FabricRequestsReachMemory :
    (∃ (s : State) (k : Packet) (port : Nat) (tagOk : Bool) (err : Nat) (r : SrcRec) (e : AdmEntry), FreshRequest s
      .ep k tagOk r ∧ s.fabricOff .ep = false ∧ (k.isCounted = true → r.isOpen k.interval = true) ∧ (¬ (k.typ =
      0x02 ∧ k.f = true)) ∧ (k.typ = 0x03 → s.atomFull .ep = false) ∧ s.jobState .ep k.job = 0 ∧ admFind
      s.ep.sh.adm k.job k.off k.len = some e ∧ e.has (rightOf k.typ) = true) ∧
    (∃ (s : State) (k : Packet) (port : Nat) (tagOk : Bool) (r : SrcRec) (e : AdmEntry), FreshRequest s .mod k
      tagOk r ∧ s.fabricOff .mod = false ∧ (s.expired .mod (fun x => x == k) = none) ∧ (k.isCounted = true →
      r.isOpen k.interval = true) ∧ k.f = false ∧ (k.typ = 0x01 ∨ k.typ = 0x02 ∨ k.typ = 0x04 ∨ k.typ = 0x05) ∧
      s.jobState .mod k.job = 0 ∧ admFind s.mod.sh.adm k.job k.off k.len = some e ∧ e.has (rightOf k.typ) = true ∧
      s.stackTile (tileOfPort port) (e.local_ k.off) = tileOfPort port ∧ (s.mod.sh.recv.inprog.all (fun g => g.id
      != s.mod.sh.recv.nextId) = true) ∧ s.usableBytes < e.local_ k.off + k.len) ∧
    (∃ (s : State) (k : Packet) (port : Nat) (tagOk : Bool) (r : SrcRec) (e : AdmEntry), FreshRequest s .mod k
      tagOk r ∧ s.linesGood (e.local_ k.off) k.len ∧ (∀ x, s.regionAt (e.local_ k.off) = some x → x.2.alloc = none
      ∧ x.2.state ≠ 5) ∧ s.fabricOff .mod = false ∧ (s.expired .mod (fun x => x == k) = none) ∧ (k.isCounted = true
      → r.isOpen k.interval = true) ∧ k.f = false ∧ (k.typ = 0x01 ∨ k.typ = 0x02 ∨ k.typ = 0x04 ∨ k.typ = 0x05) ∧
      s.jobState .mod k.job = 0 ∧ admFind s.mod.sh.adm k.job k.off k.len = some e ∧ e.has (rightOf k.typ) = true ∧
      s.stackTile (tileOfPort port) (e.local_ k.off) = tileOfPort port ∧ (s.mod.sh.recv.inprog.all (fun g => g.id
      != s.mod.sh.recv.nextId) = true) ∧ e.local_ k.off + k.len ≤ s.usableBytes) ∧
    (∃ (s : State) (p : Part) (k : Packet) (port : Nat) (tagOk : Bool) (err : Nat) (r : SrcRec) (e : AdmEntry),
      FreshRequest s p k tagOk r ∧ s.fabricOff p = false ∧ (s.expired p (fun x => x == k) = none) ∧ k.typ = 0x02 ∧
      k.f = true ∧ r.isOpen k.interval = true ∧ (r.interval k.interval).closed = false ∧ (s.sh p).recv.closing
      k.from_ k.interval = false ∧ s.jobState p k.job = 0 ∧ admFind (s.sh p).adm k.job k.off k.len = some e ∧
      (k.isMarker = true ∨ e.has (rightOf k.typ) = true) ∧ s.holdFull p = false) ∧
    (∃ (s : State) (p : Part) (k : Packet) (port : Nat) (tagOk : Bool) (err : Nat) (r : SrcRec), FreshRequest s p k
      tagOk r ∧ s.fabricOff p = false ∧ (s.expired p (fun x => x == k) = none) ∧ k.typ = 0x02 ∧ k.f = true ∧
      r.isOpen k.interval = true ∧ (r.interval k.interval).closed = false ∧ (s.sh p).recv.closing k.from_
      k.interval = false ∧ s.jobState p k.job = 1) ∧
    (∃ (s : State) (p : Part) (src seq : Nat) (h : HeldStore) (r : SrcRec), (s.sh p).recv.heldOf src seq = some h ∧
      (s.sh p).recv.rec_ h.src = some r ∧ (r.interval h.pkt.interval).settled < h.pkt.pred) ∧
    (∃ (s : State) (p : Part) (src seq : Nat) (h : HeldStore) (r : SrcRec), (s.sh p).recv.heldOf src seq = some h ∧
      (s.sh p).recv.rec_ h.src = some r ∧ h.pkt.pred ≤ (r.interval h.pkt.interval).settled ∧ h.ended = true) ∧
    (∃ (s : State) (p : Part) (src seq : Nat) (h : HeldStore) (r : SrcRec), (s.sh p).recv.heldOf src seq = some h ∧
      (s.sh p).recv.rec_ h.src = some r ∧ h.pkt.pred ≤ (r.interval h.pkt.interval).settled ∧ h.ended = false ∧
      (r.interval h.pkt.interval).refused.contains h.pkt.job = true) ∧
    (∃ (s : State) (p : Part) (src seq : Nat) (h : HeldStore) (r : SrcRec), (s.sh p).recv.heldOf src seq = some h ∧
      (s.sh p).recv.rec_ h.src = some r ∧ h.pkt.pred ≤ (r.interval h.pkt.interval).settled ∧ h.ended = false ∧
      (r.interval h.pkt.interval).refused.contains h.pkt.job = false ∧ h.pkt.isMarker = true) ∧
    (∃ (s : State) (p : Part) (src seq : Nat) (h : HeldStore) (r : SrcRec), (s.sh p).recv.heldOf src seq = some h ∧
      (s.sh p).recv.rec_ h.src = some r ∧ s.ns ≤ h.since + h.limit) ∧
    (∃ (s : State) (p : Part) (src seq : Nat) (h : HeldStore) (r : SrcRec), (s.sh p).recv.heldOf src seq = some h ∧
      (s.sh p).recv.rec_ h.src = some r ∧ h.since + h.limit < s.ns ∧ h.ended = false) :=
  ⟨⟨fab, load5 3, 0, false, 0, rec5, adm5, fresh_of (by decide +kernel), by decide +kernel⟩,
   ⟨{ fab with mod.sh.adm := [(0, { adm5 with localBase := 2 ^ 25 })] }, load5 512, 64, false, rec5,
     { adm5 with localBase := 2 ^ 25 }, fresh_of (by decide +kernel), by decide +kernel⟩,
   ⟨fab, load5 512, 0, false, rec5, adm5, fresh_of (by decide +kernel), lines_of (by decide +kernel), of_all (by
     decide +kernel), by decide +kernel⟩,
   ⟨fab, .ep, { store5 3 with f := true, pred := 1 }, 0, false, 0, rec5, adm5, fresh_of (by decide +kernel), by
     decide +kernel⟩,
   ⟨{ fab with ep.slots := [] }, .ep, { store5 3 with f := true, pred := 1 }, 0, false, 0, rec5, fresh_of (by
     decide +kernel), by decide +kernel⟩,
   ⟨{ fab with ep.sh.recv.held := [⟨7, { store5 3 with f := true, pred := 2 }, 0, 0, false, 0, 0, 5⟩], ep.sh.recv.recs := [{ rec5 with intervals := [⟨0, 1, [], false⟩] }] },
     .ep, 7, 0, ⟨7, { store5 3 with f := true, pred := 2 }, 0, 0, false, 0, 0, 5⟩,
     { rec5 with intervals := [⟨0, 1, [], false⟩] }, by decide +kernel⟩,
   ⟨{ fab with ep.sh.recv.held := [⟨7, { store5 3 with f := true, pred := 2 }, 0, 0, true, 0, 0, 5⟩], ep.sh.recv.recs := [{ rec5 with intervals := [⟨0, 2, [], false⟩] }] },
     .ep, 7, 0, ⟨7, { store5 3 with f := true, pred := 2 }, 0, 0, true, 0, 0, 5⟩,
     { rec5 with intervals := [⟨0, 2, [], false⟩] }, by decide +kernel⟩,
   ⟨{ fab with ep.sh.recv.held := [⟨7, { store5 3 with f := true, pred := 2 }, 0, 0, false, 0, 0, 5⟩], ep.sh.recv.recs := [{ rec5 with intervals := [⟨0, 2, [5], false⟩] }] },
     .ep, 7, 0, ⟨7, { store5 3 with f := true, pred := 2 }, 0, 0, false, 0, 0, 5⟩,
     { rec5 with intervals := [⟨0, 2, [5], false⟩] }, by decide +kernel⟩,
   ⟨{ fab with ep.sh.recv.held := [⟨7, { load5 3 with typ := 2, f := true, len := 0, pred := 0 }, 0, 0, false, 0, 0, 5⟩], ep.sh.recv.recs := [{ rec5 with intervals := [⟨0, 2, [], false⟩] }] },
     .ep, 7, 0, ⟨7, { load5 3 with typ := 2, f := true, len := 0, pred := 0 }, 0, 0, false, 0, 0, 5⟩,
     { rec5 with intervals := [⟨0, 2, [], false⟩] }, by decide +kernel⟩,
   ⟨{ fab with clock := 25, ep.sh.recv.held := [⟨7, { store5 3 with f := true, pred := 2 }, 0, 0, false, 0, 0, 5⟩], ep.sh.recv.recs := [{ rec5 with intervals := [⟨0, 1, [], false⟩] }] },
     .ep, 7, 0, ⟨7, { store5 3 with f := true, pred := 2 }, 0, 0, false, 0, 0, 5⟩,
     { rec5 with intervals := [⟨0, 1, [], false⟩] }, by decide +kernel⟩,
   ⟨{ fab with clock := 30, ep.sh.recv.held := [⟨7, { store5 3 with f := true, pred := 2 }, 0, 0, false, 0, 0, 5⟩], ep.sh.recv.recs := [{ rec5 with intervals := [⟨0, 1, [], false⟩] }] },
     .ep, 7, 0, ⟨7, { store5 3 with f := true, pred := 2 }, 0, 0, false, 0, 0, 5⟩,
     { rec5 with intervals := [⟨0, 1, [], false⟩] }, by decide +kernel⟩⟩

/-- For each clause of RequestsLeaveAndAreAnswered, a state and operands that meet its hypotheses. -/
theorem test_hyps_RequestsLeaveAndAreAnswered :
    (∃ (s : State) (id : Nat) (r : Req) (pl : Nat) (q : Pair), s.ep.sh.req id = some r ∧ r.st = .waiting ∧
      s.heldByAgent r = false ∧ (s.cacheable r = false ∨ r.fillLen ≠ 0) ∧ s.maySend r = true ∧ (r.rel = .rack →
      r.badCode = 0) ∧ (¬ (r.pkt.dst = s.node .ep ∧ r.pkt.dstRack = s.rack .ep)) ∧ s.planeFor r.pkt.dst r.pkt.off =
      some pl ∧ q = s.ep.sh.pairOf r.pkt.to_ ∧ q.writes < 65535 ∧ s.ep.selfDead = false) ∧
    (∃ (s : State) (id : Nat) (ecc : List Nat), ecc ≠ []) ∧
    (∃ (s : State) (id : Nat) (r : Req), s.ep.sh.req id = some r ∧ (r.st ≠ .waiting ∨ s.heldByAgent r = true ∨
      (s.cacheable r = false ∨ r.fillLen ≠ 0) ∧ s.maySend r = false)) ∧
    (∃ (s : State) (id loc : Nat) (r : Req) (e : AdmEntry) (n : Nat) (x : Slot), s.ep.sh.req id = some r ∧ r.st =
      .waiting ∧ s.heldByAgent r = false ∧ s.cacheable r = false ∧ s.maySend r = true ∧ r.rel = .none ∧ r.flagged =
      false ∧ r.owner = .agent ∧ r.pkt.dst = s.node .ep ∧ r.pkt.dstRack = s.rack .ep ∧ s.ep.slotOf r.pkt.job = some
      (n, x) ∧ x.state ≠ 3 ∧ admFind s.ep.sh.adm r.pkt.job r.pkt.off r.pkt.len = some e ∧ e.has (rightOf r.pkt.typ)
      = true ∧ r.id = id ∧ loc = e.localBase * 65536 + (r.pkt.off - e.offBase * 65536)) ∧
    (∃ (s : State) (p : Part) (k : Packet) (tagOk : Bool), s.fabricOff p = true) ∧
    (∃ (s : State) (p : Part) (k : Packet) (tagOk : Bool), (∀ r, s.sentReq p k.from_ k.seq = some r → r.pkt.job ≠
      k.job) ∧ s.fabricOff p = false ∧ (s.expired p (fun x => x == k) = none) ∧ (s.srcTakes p k k.plane 0x10
      tagOk).2 = true) ∧
    (∃ (s : State) (p : Part) (k : Packet) (tagOk : Bool) (r : Req), s.fabricOff p = false ∧ (s.expired p (fun x =>
      x == k) = none) ∧ (s.srcTakes p k k.plane 0x10 tagOk).2 = true ∧ s.sentReq p k.from_ k.seq = some r ∧
      r.pkt.job = k.job ∧ (p = .ep → s.slotRevoked r.slot r.pkt.job = false) ∧ (k.code = 2 ∨ k.code = 4 ∨ k.code =
      6)) ∧
    (∃ (s : State) (p : Part) (k : Packet) (tagOk : Bool) (r : Req), s.fabricOff p = false ∧ (s.expired p (fun x =>
      x == k) = none) ∧ (s.srcTakes p k k.plane 0x10 tagOk).2 = true ∧ s.sentReq p k.from_ k.seq = some r ∧
      r.pkt.job = k.job ∧ (p = .ep → s.slotRevoked r.slot r.pkt.job = false) ∧ k.code = 0 ∧ r.fillLen = 0 ∧
      r.doneLen k.payload.length = true) ∧
    (∃ (s : State) (p : Part) (k : Packet) (tagOk : Bool) (r : Req), s.fabricOff p = false ∧ (s.expired p (fun x =>
      x == k) = none) ∧ (s.srcTakes p k k.plane 0x10 tagOk).2 = true ∧ s.sentReq p k.from_ k.seq = some r ∧
      r.pkt.job = k.job ∧ (p = .ep → s.slotRevoked r.slot r.pkt.job = false) ∧ k.code = 0 ∧ r.doneLen
      k.payload.length = false) ∧
    (∃ (s : State) (p : Part) (k : Packet) (tagOk : Bool) (r : Req), s.fabricOff p = false ∧ (s.expired p (fun x =>
      x == k) = none) ∧ (s.srcTakes p k k.plane 0x10 tagOk).2 = true ∧ s.sentReq p k.from_ k.seq = some r ∧
      r.pkt.job = k.job ∧ (p = .ep → s.slotRevoked r.slot r.pkt.job = false) ∧ 8 ≤ k.code) ∧
    (∃ (s : State) (p : Part) (k : Packet) (tagOk : Bool) (r : Req), s.fabricOff p = false ∧ (s.expired p (fun x =>
      x == k) = none) ∧ (s.srcTakes p k k.plane 0x10 tagOk).2 = true ∧ s.sentReq p k.from_ k.seq = some r ∧
      r.pkt.job = k.job ∧ (p = .ep → s.slotRevoked r.slot r.pkt.job = false) ∧ k.code = 1 ∧ r.retries <
      r.retryLimit) ∧
    (∃ (s : State) (p : Part) (k : Packet) (tagOk : Bool) (r : Req), s.fabricOff p = false ∧ (s.expired p (fun x =>
      x == k) = none) ∧ (s.srcTakes p k k.plane 0x10 tagOk).2 = true ∧ s.sentReq p k.from_ k.seq = some r ∧
      r.pkt.job = k.job ∧ (p = .ep → s.slotRevoked r.slot r.pkt.job = false) ∧ k.code = 1 ∧ r.retryLimit ≤
      r.retries ∧ r.owner = .agent) :=
  ⟨⟨{ fab with ep.live := [0], ep.sh.reqs := [req0] }, 1, req0, 0, fab.ep.sh.pairOf 9, by decide +kernel⟩,
   ⟨fab, 1, [1], by decide +kernel⟩,
   ⟨{ fab with ep.live := [0], ep.sh.reqs := [{ req0 with st := .sent }] }, 1, { req0 with st := .sent }, by
     decide +kernel⟩,
   ⟨{ fab with ep.live := [0], ep.sh.reqs := [{ req0 with pkt := { Packet.zero with typ := 2, job := 5, src := 3, dst := 3, len := 8, payload := List.replicate 8 9#8 } }] },
     1, 0,
     { req0 with pkt := { Packet.zero with typ := 2, job := 5, src := 3, dst := 3, len := 8, payload := List.replicate 8 9#8 } },
     adm5, 0, ⟨5, 4096, 0, 1, 0, 0, []⟩, by decide +kernel⟩,
   ⟨{ base with ep.tripped := true }, .ep, { resp9 0x10 0 3 with job := 5 }, false, by decide +kernel⟩,
   ⟨fab, .ep, { resp9 0x10 0 3 with job := 5 }, false, of_all (by decide +kernel), by decide +kernel⟩,
   ⟨{ fab with ep.live := [0], ep.sh.reqs := [{ req0 with st := .sent }] }, .ep, { resp9 0x10 6 3 with job := 5 },
     false, { req0 with st := .sent }, by decide +kernel⟩,
   ⟨{ fab with ep.live := [0], ep.sh.reqs := [{ req0 with st := .sent }] }, .ep, { resp9 0x10 0 3 with job := 5 },
     false, { req0 with st := .sent }, by decide +kernel⟩,
   ⟨{ fab with ep.live := [0], ep.sh.reqs := [{ req0 with st := .sent }] }, .ep,
     { resp9 0x10 0 3 with job := 5, len := 1, payload := [1#8] }, false, { req0 with st := .sent }, by
     decide +kernel⟩,
   ⟨{ fab with ep.live := [0], ep.sh.reqs := [{ req0 with st := .sent }] }, .ep, { resp9 0x10 8 3 with job := 5 },
     false, { req0 with st := .sent }, by decide +kernel⟩,
   ⟨{ fab with ep.live := [0], ep.sh.reqs := [{ req0 with st := .sent, retries := 15 }] }, .ep,
     { resp9 0x10 1 3 with job := 5 }, false, { req0 with st := .sent, retries := 15 }, by decide +kernel⟩,
   ⟨{ fab with ep.live := [0], ep.sh.reqs := [{ req0 with st := .sent, retries := 16 }] }, .ep,
     { resp9 0x10 1 3 with job := 5 }, false, { req0 with st := .sent, retries := 16 }, by decide +kernel⟩⟩

/-- For each clause of RequestTimersAndNotices, a state and operands that meet its hypotheses. -/
theorem test_hyps_RequestTimersAndNotices :
    (∃ (s : State) (p : Part) (id : Nat) (r : Req), (s.sh p).req id = some r ∧ (r.st ≠ .retryWait ∨ s.ns < r.due)) ∧
    (∃ (s : State) (p : Part) (id : Nat) (r : Req), (s.sh p).req id = some r ∧ (r.st ≠ .sent ∨ s.ns < r.due)) ∧
    (∃ (s : State) (p : Part) (id : Nat) (r : Req), (s.sh p).req id = some r ∧ (r.isSent = false ∨ s.ns < r.first +
      r.life)) ∧
    (∃ (s : State) (p : Part) (id : Nat) (r : Req), (s.sh p).req id = some r ∧ r.st = .sent ∧ r.due ≤ s.ns ∧
      r.reLimit ≤ r.retrans) ∧
    (∃ (s : State) (p : Part) (id : Nat) (r : Req), (s.sh p).req id = some r ∧ r.isSent = true ∧ r.first + r.life ≤
      s.ns) ∧
    (∃ (s : State) (id pl : Nat) (r : Req), s.ep.sh.req id = some r ∧ r.st = .retryWait ∧ r.due ≤ s.ns ∧
      s.slotRevoked r.slot r.pkt.job = false ∧ isColl r.pkt.typ = false ∧ s.planeAgain r.pkt.dst r.pkt.off r.first
      = some pl ∧ s.ep.selfDead = false) ∧
    (∃ (s : State) (id port : Nat) (r : Req), s.mod.sh.req id = some r ∧ r.st = .retryWait ∧ r.due ≤ s.ns ∧
      s.routePort r.pkt.dst = some port) ∧
    (∃ (s : State) (id pl : Nat) (r : Req), s.ep.sh.req id = some r ∧ r.st = .sent ∧ r.due ≤ s.ns ∧ r.retrans <
      r.reLimit ∧ s.slotRevoked r.slot r.pkt.job = false ∧ isColl r.pkt.typ = false ∧ s.planeAgain r.pkt.dst
      r.pkt.off r.first = some pl ∧ s.ep.selfDead = false) ∧
    (∃ (s : State) (p : Part) (src : Nat) (r : SrcRec), (s.sh p).recv.rec_ src = some r ∧ r.gapSince = none) ∧
    (∃ (s : State) (p : Part) (src : Nat) (r : SrcRec) (t : Nat), (s.sh p).recv.rec_ src = some r ∧ r.gapSince =
      some t ∧ s.ns < t + r.gapLimit) ∧
    (∃ (s : State) (p : Part) (src : Nat) (r : SrcRec) (t : Nat), (s.sh p).recv.rec_ src = some r ∧ r.gapSince =
      some t ∧ t + r.gapLimit ≤ s.ns) ∧
    (∃ (s : State) (p : Part) (k : Packet) (tagOk : Bool) (r : Req), s.fabricOff p = false ∧ (s.expired p (fun x =>
      x == k) = none) ∧ (s.srcTakes p k k.plane 0x11 tagOk).2 = true ∧ s.sentReq p k.from_ k.seq = some r) ∧
    (∃ (s : State) (p : Part) (k : Packet) (tagOk : Bool), s.fabricOff p = false ∧ (s.expired p (fun x => x == k) =
      none) ∧ (s.srcTakes p k k.plane 0x11 tagOk).2 = true ∧ s.sentReq p k.from_ k.seq = none ∧ s.beforeStart p
      k.from_ k.seq = true) ∧
    (∃ (s : State) (p : Part) (k : Packet) (tagOk : Bool), s.fabricOff p = false ∧ (s.expired p (fun x => x == k) =
      none) ∧ (s.srcTakes p k k.plane 0x11 tagOk).2 = true ∧ s.sentReq p k.from_ k.seq = none ∧ s.beforeStart p
      k.from_ k.seq = false) ∧
    (∃ (s : State) (p : Part) (k : Packet) (tagOk : Bool), s.fabricOff p = false ∧ (s.expired p (fun x => x == k) =
      none) ∧ (s.srcTakes p k k.plane 0x12 tagOk).2 = true ∧ s.sentReq p k.from_ k.seq = none ∧ s.beforeStart p
      k.from_ k.seq = true) ∧
    (∃ (s : State) (p : Part) (k : Packet) (tagOk : Bool), s.fabricOff p = false ∧ (s.expired p (fun x => x == k) =
      none) ∧ (s.srcTakes p k k.plane 0x12 tagOk).2 = true ∧ (s.sentReq p k.from_ k.seq).isSome = true) ∧
    (∃ (s : State) (p : Part) (k : Packet) (tagOk : Bool), s.fabricOff p = false ∧ (s.expired p (fun x => x == k) =
      none) ∧ (s.srcTakes p k k.plane 0x12 tagOk).2 = true ∧ s.beforeStart p k.from_ k.seq = false) :=
  ⟨⟨{ fab with ep.live := [0], ep.sh.reqs := [{ req0 with st := .retryWait, due := 1 }] }, .ep, 1,
     { req0 with st := .retryWait, due := 1 }, by decide +kernel⟩,
   ⟨{ fab with ep.live := [0], ep.sh.reqs := [{ req0 with st := .sent, due := 1 }] }, .ep, 1,
     { req0 with st := .sent, due := 1 }, by decide +kernel⟩,
   ⟨{ fab with ep.live := [0], ep.sh.reqs := [{ req0 with st := .sent, life := 1 }] }, .ep, 1,
     { req0 with st := .sent, life := 1 }, by decide +kernel⟩,
   ⟨{ fab with ep.live := [0], ep.sh.reqs := [{ req0 with st := .sent, retrans := 8 }] }, .ep, 1,
     { req0 with st := .sent, retrans := 8 }, by decide +kernel⟩,
   ⟨{ fab with ep.live := [0], ep.sh.reqs := [{ req0 with st := .sent }] }, .ep, 1, { req0 with st := .sent }, by
     decide +kernel⟩,
   ⟨{ fab with ep.live := [0], ep.sh.reqs := [{ req0 with st := .retryWait }] }, 1, 0,
     { req0 with st := .retryWait }, by decide +kernel⟩,
   ⟨{ fab with mod.sh.reqs := [{ req0 with st := .retryWait }], mod.routes := [(9, ⟨true, false, 8⟩)] }, 1, 8,
     { req0 with st := .retryWait }, by decide +kernel⟩,
   ⟨{ fab with ep.live := [0], ep.sh.reqs := [{ req0 with st := .sent, retrans := 7 }] }, 1, 0,
     { req0 with st := .sent, retrans := 7 }, by decide +kernel⟩,
   ⟨fab, .ep, 7, rec5, by decide +kernel⟩,
   ⟨{ fab with clock := 999999, ep.sh.recv.recs := [{ rec5 with gapSince := some 0, gapLimit := 200000 }] }, .ep,
     7, { rec5 with gapSince := some 0, gapLimit := 200000 }, 0, by decide +kernel⟩,
   ⟨{ fab with clock := 1000000, ep.sh.recv.recs := [{ rec5 with gapSince := some 0, gapLimit := 200000 }] }, .ep,
     7, { rec5 with gapSince := some 0, gapLimit := 200000 }, 0, by decide +kernel⟩,
   ⟨{ fab with ep.live := [0], ep.sh.reqs := [{ req0 with st := .sent }] }, .ep, resp9 0x11 0 3, false,
     { req0 with st := .sent }, by decide +kernel⟩,
   ⟨{ fab with ep.sh.pairs := [⟨9, 4, false, 2, 0, 0, 0, false⟩] }, .ep, { resp9 0x11 0 3 with seq := 1 }, false,
     by decide +kernel⟩,
   ⟨{ fab with ep.sh.pairs := [⟨9, 4, false, 2, 0, 0, 0, false⟩] }, .ep, { resp9 0x11 0 3 with seq := 2 }, false,
     by decide +kernel⟩,
   ⟨{ fab with ep.sh.pairs := [⟨9, 4, false, 2, 0, 0, 0, false⟩] }, .ep, { resp9 0x12 0 3 with seq := 1 }, false,
     by decide +kernel⟩,
   ⟨{ fab with ep.live := [0], ep.sh.reqs := [{ req0 with st := .sent }] }, .ep, resp9 0x12 0 3, false, by
     decide +kernel⟩,
   ⟨{ fab with ep.sh.pairs := [⟨9, 4, false, 2, 0, 0, 0, false⟩] }, .ep, { resp9 0x12 0 3 with seq := 2 }, false,
     by decide +kernel⟩⟩

/-- For each clause of AtomicsReadModifyWrite, a state and operands that meet its hypotheses. -/
theorem test_hyps_AtomicsReadModifyWrite :
    (∃ (s : State) (id op : Nat) (g : InProg) (c : Instr) (f : Nat → Nat → List Byte → Nat), (c = .fetchAdd id 0 ∧
      op = 1 ∧ f = atomAdd ∨ c = .fetchMin id 0 ∧ op = 2 ∧ f = atomMin ∨ c = .fetchMax id 0 ∧ op = 3 ∧ f = atomMax
      ∨ c = .compareSwap id 0 ∧ op = 4 ∧ f = atomCas ∨ c = .swap id 0 ∧ op = 5 ∧ f = atomSwap) ∧ s.linesGood g.loc
      (fmtSize g.pkt.fmt) ∧ s.waitingAtomic id op = some g ∧ s.staleAt g.loc = true) ∧
    (∃ (s : State) (id op : Nat) (g : InProg) (c : Instr) (f : Nat → Nat → List Byte → Nat) (a : Nat), (c =
      .fetchAdd id 0 ∧ op = 1 ∧ f = atomAdd ∨ c = .fetchMin id 0 ∧ op = 2 ∧ f = atomMin ∨ c = .fetchMax id 0 ∧ op =
      3 ∧ f = atomMax ∨ c = .compareSwap id 0 ∧ op = 4 ∧ f = atomCas ∨ c = .swap id 0 ∧ op = 5 ∧ f = atomSwap) ∧
      s.linesGood g.loc (fmtSize g.pkt.fmt) ∧ s.waitingAtomic id op = some g ∧ s.staleAt g.loc = false ∧ (a < g.loc
      ∨ g.loc + fmtSize g.pkt.fmt ≤ a)) ∧
    (∃ (fmt old cmp new : Nat), cmp < 256 ^ fmtSize fmt ∧ new < 256 ^ fmtSize fmt) ∧
    (∃ (s : State) (id op err : Nat) (g : InProg) (c : Instr), (c = .allocate id err ∧ op = 8 ∨ c = .free id err ∧
      op = 9 ∨ c = .referenceAdd id err ∧ op = 10 ∨ c = .referenceRelease id err ∧ op = 11) ∧ (∀ x, s.regionAt
      g.loc = some x → x.2.alloc = none) ∧ s.waitingAtomic id op = some g ∧ s.allocAhead g = false) ∧
    (∃ (s : State) (id op i : Nat) (g : InProg) (c : Instr) (r : Region) (a : Alloc) (index : Option Nat) (x :
      Alloc) (v : List Byte) (lines : List Nat), (c = .allocate id 0 ∧ op = 8 ∨ c = .free id 0 ∧ op = 9 ∨ c =
      .referenceAdd id 0 ∧ op = 10 ∨ c = .referenceRelease id 0 ∧ op = 11) ∧ s.waitingAtomic id op = some g ∧
      s.regionAt g.loc = some (i, r) ∧ r.alloc = some a ∧ a.poisoned = false ∧ r.state ≠ 5 ∧ s.allocAhead g = false
      ∧ lines = setIns (((if op = 8 then a.top else index).map r.recordLine).toList) (r.first / 128) ∧ (∀ l ∈
      lines, s.mod.failedStacks.contains (s.stackOf (l * 128)) = false) ∧ s.badIn lines = [] ∧ index = (if (g.loc -
      r.first) % pageBytes r.page = 0 ∧ a.first ≤ (g.loc - r.first) / pageBytes r.page ∧ (g.loc - r.first) /
      pageBytes r.page < a.first + a.pages then some ((g.loc - r.first) / pageBytes r.page) else none) ∧ a.run op
      (g.loc - r.first == 0) index (leNat g.pkt.payload) (g.pkt.off - (g.loc - r.first)) (pageBytes r.page) = (x,
      { code := cDone, data := v, reason := 0 })) ∧
    (∃ (a : Alloc) (payload base size p : Nat), payload ≠ 0 ∧ payload < 2 ^ 32 ∧ a.top = some p) ∧
    (∃ (a : Alloc) (payload base size : Nat), payload ≠ 0 ∧ payload < 2 ^ 32 ∧ a.top = none) ∧
    (∃ (a : Alloc) (base size p n : Nat), tabGetD a.counts p 0 = n ∧ n = 1) ∧
    (∃ (a : Alloc) (base size p n : Nat), tabGetD a.counts p 0 = n ∧ n ≠ 1) ∧
    (∃ (a : Alloc) (base size p n : Nat), tabGetD a.counts p 0 = n ∧ 1 < n) ∧
    (∃ (a : Alloc) (base size p n k : Nat), tabGetD a.counts p 0 = n ∧ 0 < k ∧ 0 < n ∧ n + k < 2 ^ 32) :=
  ⟨⟨{ fab with mod.sh.recv.inprog := [⟨4, 7, { load5 512 with typ := 3, aop := 1, fmt := 9 }, 0, 0, 0, none, 0, 0, 0⟩], mod.regions := [(0, ⟨true, 0, 0, false, 0, 3, 5, 0, 0, false, 5, 1, false, none, 0, none, none⟩)] },
     4, 1, ⟨4, 7, { load5 512 with typ := 3, aop := 1, fmt := 9 }, 0, 0, 0, none, 0, 0, 0⟩, .fetchAdd 4 0, atomAdd,
     .inl ⟨rfl, rfl, rfl⟩, lines_of (by decide +kernel), by decide +kernel⟩,
   ⟨{ fab with mod.sh.recv.inprog := [⟨4, 7, { load5 512 with typ := 3, aop := 1, fmt := 9 }, 0, 0, 0, none, 0, 0, 0⟩] },
     4, 1, ⟨4, 7, { load5 512 with typ := 3, aop := 1, fmt := 9 }, 0, 0, 0, none, 0, 0, 0⟩, .fetchAdd 4 0, atomAdd,
     200, .inl ⟨rfl, rfl, rfl⟩, lines_of (by decide +kernel), by decide +kernel⟩,
   ⟨9, 5, 6, 7, by decide +kernel⟩,
   ⟨{ fab with mod.sh.recv.inprog := [⟨4, 7, { load5 512 with typ := 3, aop := 9, fmt := 9 }, 0, 0, 0, none, 0, 0, 0⟩] },
     4, 9, 0, ⟨4, 7, { load5 512 with typ := 3, aop := 9, fmt := 9 }, 0, 0, 0, none, 0, 0, 0⟩, .free 4 0, .inr
     (.inl ⟨rfl, rfl⟩), of_all (by decide +kernel), by decide +kernel⟩,
   ⟨{ fab with mod.sh.recv.inprog := [⟨4, 7, { load5 512 with typ := 3, aop := 8, fmt := 8, payload := [1#8, 0#8, 0#8, 0#8, 0#8, 0#8, 0#8, 0#8] }, 0, 0, 0, none, 0, 0, 0⟩], mod.regions := [(0, ⟨true, 3, 0, false, 0, 3, 5, 3, 0, false, 2, 1, false, none, 0, some ⟨1, 8, 1, [], [(2, 0)], 0, 0, false⟩, none⟩)] },
     4, 8, 0, ⟨4, 7,
     { load5 512 with typ := 3, aop := 8, fmt := 8, payload := [1#8, 0#8, 0#8, 0#8, 0#8, 0#8, 0#8, 0#8] }, 0, 0, 0,
     none, 0, 0, 0⟩, .allocate 4 0, ⟨true, 3, 0, false, 0, 3, 5, 3, 0, false, 2, 1, false, none, 0, some ⟨1, 8, 1,
     [], [(2, 0)], 0, 0, false⟩, none⟩, ⟨1, 8, 1, [], [(2, 0)], 0, 0, false⟩, none, (Alloc.run ⟨1, 8, 1, [], [(2,
     0)], 0, 0, false⟩ 8 true none 1 0 (pageBytes 3)).1, (Alloc.run ⟨1, 8, 1, [], [(2, 0)], 0, 0, false⟩ 8 true
     none 1 0 (pageBytes 3)).2.data, setIns (((⟨1, 8, 1, [], [(2, 0)], 0, 0, false⟩ : Alloc).top.map
     (Region.recordLine (⟨true, 3, 0, false, 0, 3, 5, 3, 0, false, 2, 1, false, none, 0, some ⟨1, 8, 1, [], [(2,
     0)], 0, 0, false⟩, none⟩ : Region))).toList) ((⟨true, 3, 0, false, 0, 3, 5, 3, 0, false, 2, 1, false, none, 0,
     some ⟨1, 8, 1, [], [(2, 0)], 0, 0, false⟩, none⟩ : Region).first / 128), .inl ⟨rfl, rfl⟩, by decide +kernel⟩,
   ⟨⟨1, 8, 1, [], [(2, 0)], 0, 0, false⟩, 2 ^ 32 - 1, 0, 0, 1, by decide +kernel⟩,
   ⟨⟨1, 0, 1, [], [], 0, 0, false⟩, 1, 0, 0, by decide +kernel⟩,
   ⟨⟨1, 8, 1, [], [(2, 1)], 0, 0, false⟩, 0, 0, 2, 1, by decide +kernel⟩,
   ⟨⟨1, 8, 1, [], [(2, 2)], 0, 0, false⟩, 0, 0, 2, 2, by decide +kernel⟩,
   ⟨⟨1, 8, 1, [], [(2, 2)], 0, 0, false⟩, 0, 0, 2, 2, by decide +kernel⟩,
   ⟨⟨1, 8, 1, [], [(2, 2)], 0, 0, false⟩, 0, 0, 2, 2, 2 ^ 32 - 3, by decide +kernel⟩⟩

/-- For each clause of EnginesMoveTiles, a state and operands that meet its hypotheses. -/
theorem test_hyps_EnginesMoveTiles :
    (∃ (s : State) (g : Nat) (c : Copy), s.readyTile g = none ∧ s.engineBusy g = false ∧ s.ep.enginesOut.contains g
      = false ∧ (s.ep.copies.find? (fun c => c.engine == g && c.gives && !s.slotRevoked c.slot c.job) = some c)) ∧
    (∃ (s : State) (g : Nat), s.readyTile g = none ∧ (s.engineBusy g = true ∨ s.ep.enginesOut.contains g = true)) ∧
    (∃ (s : State) (g : Nat) (t : CTile) (c : Copy), s.readyTile g = some t ∧ (s.ep.copies.find? (fun c => c.id ==
      t.copy) = some c) ∧ s.engineMoves g = false ∧ s.tileDenied t c = (s, false)) ∧
    (∃ (s : State) (g : Nat) (t : CTile), s.readyTile g = some t ∧ s.engineMoves g = true) ∧
    (∃ (s : State) (g : Nat), (s.ep.sh.mode = 1 ∨ s.reg .ep 0xD60003 ≠ 1 ∨ s.engineBusy g = true)) ∧
    (∃ (s : State) (g : Nat) (c : Copy) (pre post : List Copy), g < 32 ∧ s.ep.sh.mode = 0 ∧ s.reg .ep 0xD60003 = 1
      ∧ s.readyTile g = none ∧ s.engineBusy g = false ∧ s.ep.enginesOut.contains g = false ∧ s.strayTile = none ∧
      s.ep.copies = pre ++ c :: post ∧ c.pin = false ∧ c.gives = true ∧ s.slotRevoked c.slot c.job = false ∧ (∀ x ∈
      pre, x.pin = true ∨ x.gives = false ∨ s.slotRevoked x.slot x.job = true ∨ x.unissued < c.unissued) ∧ (∀ x ∈
      post, x.pin = true ∨ x.gives = false ∨ s.slotRevoked x.slot x.job = true ∨ x.unissued ≤ c.unissued)) ∧
    (∃ (s : State) (g : Nat) (t : CTile), g < 32 ∧ s.ep.sh.mode = 0 ∧ s.reg .ep 0xD60003 = 1 ∧ s.readyTile g = none
      ∧ s.engineBusy g = false ∧ s.ep.enginesOut.contains g = false ∧ s.strayTile = some t) ∧
    (∃ (s : State) (t : Nat) (x : CTile), (s.ep.tiles.find? (fun x => x.id == t) = some x) ∧ (x.parts ≠ 0 ∨ x.state
      ≤ 2)) ∧
    (∃ (s : State) (t : Nat) (x : CTile) (c d : Copy), (s.ep.tiles.find? (fun x => x.id == t) = some x) ∧
      (s.ep.copies.find? (fun c => c.id == x.copy) = some c) ∧ d =
      { c with open_ := c.open_ - 1, worst := worse c.worst x.worst } ∧ x.parts = 0 ∧ (x.state = 3 ∨ x.state = 4) ∧
      d.open_ ≠ 0) ∧
    (∃ (s : State) (t : Nat) (x : CTile) (c d : Copy), (s.ep.tiles.find? (fun x => x.id == t) = some x) ∧
      (s.ep.copies.find? (fun c => c.id == x.copy) = some c) ∧ d =
      { c with open_ := c.open_ - 1, worst := worse c.worst x.worst } ∧ x.parts = 0 ∧ (x.state = 3 ∨ x.state = 4) ∧
      d.open_ = 0 ∧ d.worst ≠ 0) ∧
    (∃ (s : State) (t : Nat) (x : CTile) (c d : Copy), (s.ep.tiles.find? (fun x => x.id == t) = some x) ∧
      (s.ep.copies.find? (fun c => c.id == x.copy) = some c) ∧ d =
      { c with open_ := c.open_ - 1, worst := worse c.worst x.worst } ∧ x.parts = 0 ∧ (x.state = 3 ∨ x.state = 4) ∧
      d.open_ = 0 ∧ d.worst = 0 ∧ c.issued < c.len ∧ s.slotRevoked c.slot c.job = false) ∧
    (∃ (s : State) (t : Nat) (x : CTile) (c d : Copy), (s.ep.tiles.find? (fun x => x.id == t) = some x) ∧
      (s.ep.copies.find? (fun c => c.id == x.copy) = some c) ∧ d =
      { c with open_ := c.open_ - 1, worst := worse c.worst x.worst } ∧ x.parts = 0 ∧ (x.state = 3 ∨ x.state = 4) ∧
      d.open_ = 0 ∧ d.worst = 0 ∧ c.len ≤ c.issued ∧ c.notify = false) ∧
    (∃ (s : State) (t : Nat) (x : CTile) (c d : Copy), (s.ep.tiles.find? (fun x => x.id == t) = some x) ∧
      (s.ep.copies.find? (fun c => c.id == x.copy) = some c) ∧ d =
      { c with open_ := c.open_ - 1, worst := worse c.worst x.worst } ∧ x.parts = 0 ∧ (x.state = 3 ∨ x.state = 4) ∧
      d.open_ = 0 ∧ d.worst = 0 ∧ c.len ≤ c.issued ∧ c.notify = true ∧ s.slotRevoked c.slot c.job = false) :=
  ⟨⟨{ fab with ep.copies := [copy0] }, 3, copy0, by decide +kernel⟩,
   ⟨{ fab with ep.enginesOut := [3] }, 3, by decide +kernel⟩,
   ⟨{ fab with ep.tiles := [tile0], ep.copies := [copy0] }, 3, tile0, copy0, by decide +kernel⟩,
   ⟨{ fab with ep.tiles := [{ tile0 with id := 9, state := 2 }, tile0], ep.copies := [copy0] }, 3, tile0, by
     decide +kernel⟩,
   ⟨{ fab with ep.sh.mode := 1 }, 3, by decide +kernel⟩,
   ⟨{ fab with ep.copies := [{ copy0 with id := 2, engine := 9, len := 7 }, { copy0 with engine := 9 }, { copy0 with id := 3, engine := 9 }] },
     31, { copy0 with engine := 9 }, [{ copy0 with id := 2, engine := 9, len := 7 }],
     [{ copy0 with id := 3, engine := 9 }], by decide +kernel⟩,
   ⟨{ fab with ep.tiles := [{ tile0 with state := 1 }], ep.copies := [copy0], ep.enginesOut := [3] }, 31,
     { tile0 with state := 1 }, by decide +kernel⟩,
   ⟨{ fab with ep.tiles := [{ tile0 with state := 2 }], ep.copies := [copy0] }, 4, { tile0 with state := 2 }, by
     decide +kernel⟩,
   ⟨{ fab with ep.tiles := [{ tile0 with state := 3 }], ep.copies := [{ copy0 with open_ := 2 }] }, 4,
     { tile0 with state := 3 }, { copy0 with open_ := 2 },
     { ({ copy0 with open_ := 2 }) with open_ := ({ copy0 with open_ := 2 }).open_ - 1, worst := worse ({ copy0 with open_ := 2 }).worst ({ tile0 with state := 3 }).worst },
     rfl, rfl, rfl, by decide +kernel⟩,
   ⟨{ fab with ep.tiles := [{ tile0 with state := 4, worst := 2 }], ep.copies := [{ copy0 with open_ := 1 }] }, 4,
     { tile0 with state := 4, worst := 2 }, { copy0 with open_ := 1 },
     { ({ copy0 with open_ := 1 }) with open_ := ({ copy0 with open_ := 1 }).open_ - 1, worst := worse ({ copy0 with open_ := 1 }).worst ({ tile0 with state := 4, worst := 2 }).worst },
     rfl, rfl, rfl, by decide +kernel⟩,
   ⟨{ fab with ep.tiles := [{ tile0 with state := 3 }], ep.copies := [{ copy0 with open_ := 1, issued := 7 }] }, 4,
     { tile0 with state := 3 }, { copy0 with open_ := 1, issued := 7 },
     { ({ copy0 with open_ := 1, issued := 7 }) with open_ := ({ copy0 with open_ := 1, issued := 7 }).open_ - 1, worst := worse ({ copy0 with open_ := 1, issued := 7 }).worst ({ tile0 with state := 3 }).worst },
     rfl, rfl, rfl, by decide +kernel⟩,
   ⟨{ fab with ep.tiles := [{ tile0 with state := 3 }], ep.copies := [{ copy0 with open_ := 1, issued := 8 }] }, 4,
     { tile0 with state := 3 }, { copy0 with open_ := 1, issued := 8 },
     { ({ copy0 with open_ := 1, issued := 8 }) with open_ := ({ copy0 with open_ := 1, issued := 8 }).open_ - 1, worst := worse ({ copy0 with open_ := 1, issued := 8 }).worst ({ tile0 with state := 3 }).worst },
     rfl, rfl, rfl, by decide +kernel⟩,
   ⟨{ fab with ep.tiles := [{ tile0 with state := 3 }], ep.copies := [{ copy0 with open_ := 1, issued := 8, notify := true }] },
     4, { tile0 with state := 3 }, { copy0 with open_ := 1, issued := 8, notify := true },
     { ({ copy0 with open_ := 1, issued := 8, notify := true }) with open_ := ({ copy0 with open_ := 1, issued := 8, notify := true }).open_ - 1, worst := worse ({ copy0 with open_ := 1, issued := 8, notify := true }).worst ({ tile0 with state := 3 }).worst },
     rfl, rfl, rfl, by decide +kernel⟩⟩

/-- A bundle for the endpoint that every check of R305 passes, whatever the silicon revision is. -/
def okEpBundle (r : Nat) : BundleInfo := ⟨false, 1, true, true, 0, 7, r, r, [⟨0x11, true⟩, ⟨0x12, true⟩]⟩

theorem okEpBundle_passes : bundleCheck .ep (okEpBundle (siliconRev .ep)) = 0 := by
  simp [bundleCheck, okEpBundle, imageKinds, partNo]

/-- For each clause of ListsStartAndEndpointCare, a state and operands that meet its hypotheses. -/
theorem test_hyps_ListsStartAndEndpointCare :
    (∃ (s : State) (n : Nat) (l : ListSlot), tabGet s.ep.lists n = some l ∧ l.state = 1 ∧ l.started = true ∧
      l.reads = 0 ∧ s.rackNs .ep < l.act) ∧
    (∃ (s : State) (n : Nat) (l : ListSlot), tabGet s.ep.lists n = some l ∧ l.state = 1 ∧ l.started = true ∧
      l.reads = 0 ∧ l.act ≤ s.rackNs .ep) ∧
    (∃ (s : State) (n : Nat) (l : ListSlot), tabGet s.ep.lists n = some l ∧ (l.state ≠ 1 ∨ l.started = false ∨
      l.reads ≠ 0)) ∧
    (∃ (s : State) (n : Nat) (l : ListSlot), tabGet s.ep.lists n = some l ∧ s.rackNs .ep < l.act) ∧
    (∃ (s : State) (n : Nat) (l : ListSlot), tabGet s.ep.lists n = some l ∧ l.act ≤ s.rackNs .ep ∧ l.state = 2) ∧
    (∃ (s : State) (n : Nat) (l : ListSlot), tabGet s.ep.lists n = some l ∧ l.act ≤ s.rackNs .ep ∧ l.state = 1) ∧
    (∃ (s : State) (t : Int), t < 110000) ∧
    (∃ (s : State) (t : Int), 110000 ≤ t) ∧
    (∃ (s : State) (n : Nat), n < 7) ∧
    (∃ (s : State) (cycled : Bool), (s.ep.inReset = false ∨ cycled = true)) ∧
    (∃ (s : State), s.ep.inReset = true) ∧
    (∃ (s : State) (a : Access) (b : BundleInfo), dirCheck .ep a 0xD80003 true s = 0 ∧ s.ep.sh.rot.boot = 1) ∧
    (∃ (s : State) (a : Access) (b : BundleInfo), dirCheck .ep a 0xD80003 true s = 0 ∧ s.ep.sh.rot.boot = 2 ∧
      s.ep.sh.rot.reason = 7) ∧
    (∃ (s : State) (a : Access) (b : BundleInfo), bundleCheck .ep b = 0 ∧ dirCheck .ep a 0xD80003 true s = 0 ∧
      s.ep.sh.rot.boot = 0) ∧
    (∃ (s : State) (a : Access) (b : BundleInfo) (n : Nat), dirCheck .ep a 0xD80003 true s = 0 ∧ s.ep.sh.rot.boot =
      0 ∧ bundleCheck .ep b = n ∧ n ≠ 0) :=
  ⟨⟨{ base with ep.lists := [(63, ⟨1, 1, 5, 1, 2, 0, 0, [], [], 1, 1, [], [], true, 0, 1, 0⟩)] }, 63, ⟨1, 1, 5, 1,
     2, 0, 0, [], [], 1, 1, [], [], true, 0, 1, 0⟩, by decide +kernel⟩,
   ⟨{ base with ep.lists := [(63, ⟨1, 1, 5, 1, 2, 0, 0, [], [], 1, 0, [], [], true, 0, 1, 0⟩)] }, 63, ⟨1, 1, 5, 1,
     2, 0, 0, [], [], 1, 0, [], [], true, 0, 1, 0⟩, by decide +kernel⟩,
   ⟨{ base with ep.lists := [(63, ⟨1, 1, 5, 1, 2, 0, 0, [], [], 1, 0, [], [], true, 1, 1, 0⟩)] }, 63, ⟨1, 1, 5, 1,
     2, 0, 0, [], [], 1, 0, [], [], true, 1, 1, 0⟩, by decide +kernel⟩,
   ⟨{ base with ep.lists := [(63, ⟨1, 2, 5, 1, 2, 0, 0, [], [], 1, 1, [], [], true, 0, 1, 0⟩)] }, 63, ⟨1, 2, 5, 1,
     2, 0, 0, [], [], 1, 1, [], [], true, 0, 1, 0⟩, by decide +kernel⟩,
   ⟨{ base with ep.lists := [(63, ⟨1, 2, 5, 1, 2, 0, 0, [], [], 1, 0, [], [], true, 0, 1, 0⟩)] }, 63, ⟨1, 2, 5, 1,
     2, 0, 0, [], [], 1, 0, [], [], true, 0, 1, 0⟩, by decide +kernel⟩,
   ⟨{ base with ep.lists := [(63, ⟨1, 1, 5, 1, 2, 0, 0, [], [], 1, 0, [], [], true, 0, 1, 0⟩)] }, 63, ⟨1, 1, 5, 1,
     2, 0, 0, [], [], 1, 0, [], [], true, 0, 1, 0⟩, by decide +kernel⟩,
   ⟨base, 109999, by decide +kernel⟩,
   ⟨base, 110000, by decide +kernel⟩,
   ⟨base, 6, by decide +kernel⟩,
   ⟨base, false, by decide +kernel⟩,
   ⟨{ base with ep.inReset := true }, by decide +kernel⟩,
   ⟨base, hostA, okEpBundle 0, by decide +kernel⟩,
   ⟨{ base with ep.sh.rot.boot := 2, ep.sh.rot.reason := 7 }, hostA, okEpBundle 0, by decide +kernel⟩,
   ⟨State.reset, hostA, okEpBundle (siliconRev .ep), okEpBundle_passes, by decide +kernel⟩,
   ⟨State.reset, hostA, { okEpBundle 0 with format := 2 }, 6, by decide +kernel⟩⟩

/-- For each clause of RegionsRunTheirStates, a state and operands that meet its hypotheses. -/
theorem test_hyps_RegionsRunTheirStates :
    (∃ (s : State) (a : Access) (val : List Byte), dirCheck .mod a 0x700002 true s = 0 ∧ val.length = 2 ∧ spillOk
      (beNat val) = true ∧ (∀ x ∈ s.mod.regions, x.2.state = 0)) ∧
    (∃ (s : State) (a : Access) (val : List Byte), dirCheck .mod a 0x700002 true s = 0 ∧ val.length = 2 ∧ spillOk
      (beNat val) = true ∧ (∃ x ∈ s.mod.regions, x.2.state ≠ 0)) ∧
    (∃ (s : State) (a : Access) (val : List Byte) (i : Nat) (d : Region × Nat), dirCheck .mod a 0x701002 true s = 0
      ∧ val.length = 16 ∧ i = s.sel .mod a.ctx 0x701001 ∧ d = regionOf (beNat val) ∧ d.1.v = true ∧ (s.region
      i).state = 0 ∧ s.regionBad i d.1 d.2 = false) ∧
    (∃ (s : State) (a : Access) (val : List Byte) (i : Nat) (d : Region × Nat), dirCheck .mod a 0x701002 true s = 0
      ∧ val.length = 16 ∧ i = s.sel .mod a.ctx 0x701001 ∧ d = regionOf (beNat val) ∧ d.1.v = true ∧ (s.region
      i).state = 0 ∧ s.regionBad i d.1 d.2 = true) ∧
    (∃ (s : State) (a : Access) (val : List Byte) (i : Nat) (d : Region × Nat), dirCheck .mod a 0x701002 true s = 0
      ∧ val.length = 16 ∧ i = s.sel .mod a.ctx 0x701001 ∧ d = regionOf (beNat val) ∧ d.1.v = true ∧ (s.region
      i).state ≠ 0) ∧
    (∃ (s : State) (a : Access) (val : List Byte) (i : Nat) (d : Region × Nat), dirCheck .mod a 0x701002 true s = 0
      ∧ val.length = 16 ∧ i = s.sel .mod a.ctx 0x701001 ∧ d = regionOf (beNat val) ∧ d.1.v = false ∧ d.2 = 0 ∧
      ((s.region i).state = 1 ∨ (s.region i).state = 4 ∨ (s.region i).state = 2 ∧ s.admCovers (s.region i) = false
      ∧ (s.region i).next = none ∧ s.regionBusy (s.region i) = false)) ∧
    (∃ (s : State) (a : Access) (val : List Byte) (i : Nat) (d : Region × Nat), dirCheck .mod a 0x701002 true s = 0
      ∧ val.length = 16 ∧ i = s.sel .mod a.ctx 0x701001 ∧ d = regionOf (beNat val) ∧ d.1.v = false ∧ d.2 = 0 ∧
      ((s.region i).state = 3 ∨ (s.region i).state = 2 ∧ s.admCovers (s.region i) = true)) ∧
    (∃ (s : State) (i : Nat) (r : Region), s.region i = r ∧ r.state = 1 ∧ s.mod.inSlot = false ∧ r.torn = true ∧
      r.retain = false) ∧
    (∃ (s : State) (i : Nat) (r : Region) (x : Nat), s.region i = r ∧ r.state = 1 ∧ s.mod.inSlot = false ∧ (r.torn
      = true → r.retain = true) ∧ r.first ≤ x ∧ x < r.first + r.bytes ∧ (r.kind = 3 → r.first + 64 ≤ x)) ∧
    (∃ (s : State) (i : Nat) (r : Region), s.region i = r ∧ r.state = 1 ∧ s.mod.inSlot = false ∧ (r.torn = true →
      r.retain = true) ∧ r.kind = 3) ∧
    (∃ (s : State) (i : Nat) (r : Region) (x : Nat), s.region i = r ∧ r.state = 1 ∧ s.mod.inSlot = false ∧ (r.torn
      = true → r.retain = true) ∧ (x < r.first ∨ r.first + r.bytes ≤ x)) ∧
    (∃ (s : State) (i : Nat) (r : Region) (x : Nat), s.region i = r ∧ r.state = 3 ∧ s.mod.inSlot = false ∧ r.first
      ≤ x ∧ x < r.first + r.bytes) ∧
    (∃ (s : State) (i : Nat) (r : Region) (x : Nat), s.region i = r ∧ r.state = 3 ∧ s.mod.inSlot = false ∧ (x <
      r.first ∨ r.first + r.bytes ≤ x)) ∧
    (∃ (s : State) (i : Nat), (s.region i).state ≠ 1) ∧
    (∃ (s : State) (i : Nat), (s.region i).state ≠ 3) ∧
    (∃ (s : State) (i : Nat), (s.region i).state ≠ 4) ∧
    (∃ (s : State) (i : Nat), s.ns < (s.region i).retainedAt + 1000000000 * s.regNow .mod 0x760007) ∧
    (∃ (s : State) (i : Nat), (s.region i).state = 4 ∧ (s.region i).retainedAt + 1000000000 * s.regNow .mod
      0x760007 ≤ s.ns) ∧
    (∃ (s : State) (a : Access) (val : List Byte) (i : Nat), dirCheck .mod a 0x701004 true s = 0 ∧ val.length = 2 ∧
      1 ≤ beNat val ∧ beNat val ≤ 0xFFFE ∧ i = s.sel .mod a.ctx 0x701001 ∧ (s.region i).state ≠ 4) ∧
    (∃ (s : State) (a : Access) (val : List Byte) (i : Nat), dirCheck .mod a 0x701004 true s = 0 ∧ val.length = 2 ∧
      1 ≤ beNat val ∧ beNat val ≤ 0xFFFE ∧ i = s.sel .mod a.ctx 0x701001 ∧ (s.region i).state = 4 ∧ s.hasSlice
      (beNat val) = false) ∧
    (∃ (s : State) (a : Access) (val : List Byte) (i : Nat), dirCheck .mod a 0x701004 true s = 0 ∧ val.length = 2 ∧
      1 ≤ beNat val ∧ beNat val ≤ 0xFFFE ∧ i = s.sel .mod a.ctx 0x701001 ∧ (s.region i).state = 4 ∧ s.hasSlice
      (beNat val) = true) ∧
    (∃ (s : State) (a : Access) (i : Nat), dirCheck .mod a 0x701005 true s = 0 ∧ i = s.sel .mod a.ctx 0x701001 ∧
      (s.region i).state = 5) ∧
    (∃ (s : State) (a : Access) (i : Nat), dirCheck .mod a 0x701005 true s = 0 ∧ i = s.sel .mod a.ctx 0x701001 ∧
      (s.region i).state ≠ 5) :=
  ⟨⟨base, opA, [0#8, 6#8], by decide +kernel⟩,
   ⟨{ base with mod.regions := [(255, ⟨true, 0, 0, false, 0, 3, 5, 0, 0, false, 2, 1, false, none, 0, none, none⟩)] },
     opA, [0#8, 244#8], by decide +kernel⟩,
   ⟨{ base with mod.regions := [(base.sel .mod opA.ctx 0x701001, ⟨true, 0, 0, false, 0, 3, 5, 0, 0, false, 0, 1, false, none, 0, none, none⟩)], mod.slices := [(5, ⟨true, 1, true, true, 5, 1, 528, 0, []⟩)] },
     opA, beBytes 16 (Region.word ⟨true, 0, 0, false, 0, 3, 5, 0, 0, false, 0, 0, false, none, 0, none, none⟩),
     base.sel .mod opA.ctx 0x701001, regionOf (beNat (beBytes 16 (Region.word ⟨true, 0, 0, false, 0, 3, 5, 0, 0,
     false, 0, 0, false, none, 0, none, none⟩))), by decide +kernel⟩,
   ⟨{ base with mod.regions := [(base.sel .mod opA.ctx 0x701001, ⟨true, 0, 0, false, 0, 3, 5, 0, 0, false, 0, 1, false, none, 0, none, none⟩)], mod.slices := [(5, ⟨true, 1, true, true, 5, 1, 528, 0, []⟩)] },
     opA, beBytes 16 (Region.word ⟨true, 4, 0, false, 0, 3, 5, 0, 0, false, 0, 0, false, none, 0, none, none⟩),
     base.sel .mod opA.ctx 0x701001, regionOf (beNat (beBytes 16 (Region.word ⟨true, 4, 0, false, 0, 3, 5, 0, 0,
     false, 0, 0, false, none, 0, none, none⟩))), by decide +kernel⟩,
   ⟨{ base with mod.regions := [(base.sel .mod opA.ctx 0x701001, ⟨true, 0, 0, false, 0, 3, 5, 0, 0, false, 2, 1, false, none, 0, none, none⟩)], mod.slices := [(5, ⟨true, 1, true, true, 5, 1, 528, 0, []⟩)] },
     opA, beBytes 16 (Region.word ⟨true, 0, 0, false, 0, 3, 5, 0, 0, false, 0, 0, false, none, 0, none, none⟩),
     base.sel .mod opA.ctx 0x701001, regionOf (beNat (beBytes 16 (Region.word ⟨true, 0, 0, false, 0, 3, 5, 0, 0,
     false, 0, 0, false, none, 0, none, none⟩))), by decide +kernel⟩,
   ⟨{ base with mod.regions := [(base.sel .mod opA.ctx 0x701001, ⟨true, 0, 0, false, 0, 3, 5, 0, 0, false, 2, 1, false, none, 0, none, none⟩)], mod.slices := [(5, ⟨true, 1, true, true, 5, 1, 528, 0, []⟩)] },
     opA, beBytes 16 (Region.word ⟨false, 0, 0, false, 0, 0, 0, 0, 0, false, 0, 0, false, none, 0, none, none⟩),
     base.sel .mod opA.ctx 0x701001, regionOf (beNat (beBytes 16 (Region.word ⟨false, 0, 0, false, 0, 0, 0, 0, 0,
     false, 0, 0, false, none, 0, none, none⟩))), by decide +kernel⟩,
   ⟨{ base with mod.regions := [(base.sel .mod opA.ctx 0x701001, ⟨true, 0, 0, false, 0, 3, 5, 0, 0, false, 3, 1, false, none, 0, none, none⟩)], mod.slices := [(5, ⟨true, 1, true, true, 5, 1, 528, 0, []⟩)] },
     opA, beBytes 16 (Region.word ⟨false, 0, 0, false, 0, 0, 0, 0, 0, false, 0, 0, false, none, 0, none, none⟩),
     base.sel .mod opA.ctx 0x701001, regionOf (beNat (beBytes 16 (Region.word ⟨false, 0, 0, false, 0, 0, 0, 0, 0,
     false, 0, 0, false, none, 0, none, none⟩))), by decide +kernel⟩,
   ⟨{ base with mod.regions := [(255, ⟨true, 0, 0, false, 0, 3, 5, 0, 0, false, 1, 1, true, none, 0, none, none⟩)] },
     255, ⟨true, 0, 0, false, 0, 3, 5, 0, 0, false, 1, 1, true, none, 0, none, none⟩, by decide +kernel⟩,
   ⟨{ base with mod.regions := [(255, ⟨true, 3, 0, false, 0, 3, 5, 0, 0, false, 1, 1, false, none, 0, none, none⟩)] },
     255, ⟨true, 3, 0, false, 0, 3, 5, 0, 0, false, 1, 1, false, none, 0, none, none⟩, 64, by decide +kernel⟩,
   ⟨{ base with mod.regions := [(255, ⟨true, 3, 0, false, 0, 3, 5, 0, 0, false, 1, 1, false, none, 0, none, none⟩)] },
     255, ⟨true, 3, 0, false, 0, 3, 5, 0, 0, false, 1, 1, false, none, 0, none, none⟩, by decide +kernel⟩,
   ⟨{ base with mod.regions := [(255, ⟨true, 0, 0, false, 0, 3, 5, 0, 0, false, 1, 1, false, none, 0, none, none⟩)] },
     255, ⟨true, 0, 0, false, 0, 3, 5, 0, 0, false, 1, 1, false, none, 0, none, none⟩, 4 * 2 ^ 30, by
     decide +kernel⟩,
   ⟨{ base with mod.regions := [(255, ⟨true, 0, 0, false, 0, 3, 5, 0, 0, false, 3, 1, false, none, 0, none, none⟩)] },
     255, ⟨true, 0, 0, false, 0, 3, 5, 0, 0, false, 3, 1, false, none, 0, none, none⟩, 4 * 2 ^ 30 - 1, by
     decide +kernel⟩,
   ⟨{ base with mod.regions := [(255, ⟨true, 0, 0, false, 0, 3, 5, 0, 0, false, 3, 1, false, none, 0, none, none⟩)] },
     255, ⟨true, 0, 0, false, 0, 3, 5, 0, 0, false, 3, 1, false, none, 0, none, none⟩, 4 * 2 ^ 30, by
     decide +kernel⟩,
   ⟨{ base with mod.regions := [(255, ⟨true, 0, 0, false, 0, 3, 5, 0, 0, false, 2, 1, false, none, 0, none, none⟩)] },
     255, by decide +kernel⟩,
   ⟨{ base with mod.regions := [(255, ⟨true, 0, 0, false, 0, 3, 5, 0, 0, false, 2, 1, false, none, 0, none, none⟩)] },
     255, by decide +kernel⟩,
   ⟨{ base with mod.regions := [(255, ⟨true, 0, 0, false, 0, 3, 5, 0, 0, false, 2, 1, false, none, 0, none, none⟩)] },
     255, by decide +kernel⟩,
   ⟨{ base with mod.regions := [(255, ⟨true, 0, 0, false, 0, 3, 5, 0, 0, false, 4, 1, false, none, 0, none, none⟩)] },
     255, by decide +kernel⟩,
   ⟨{ base with clock := 3000000000000, mod.regions := [(255, ⟨true, 0, 0, false, 0, 3, 5, 0, 0, false, 4, 1, false, none, 0, none, none⟩)] },
     255, by decide +kernel⟩,
   ⟨{ base with mod.regions := [(base.sel .mod opA.ctx 0x701001, ⟨true, 0, 0, false, 0, 3, 5, 0, 0, false, 2, 1, false, none, 0, none, none⟩)], mod.slices := [(5, ⟨true, 1, true, true, 5, 1, 528, 0, []⟩)] },
     opA, [0#8, 5#8], base.sel .mod opA.ctx 0x701001, by decide +kernel⟩,
   ⟨{ base with mod.regions := [(base.sel .mod opA.ctx 0x701001, ⟨true, 0, 0, false, 0, 3, 5, 0, 0, false, 4, 1, false, none, 0, none, none⟩)], mod.slices := [(5, ⟨true, 1, true, true, 5, 1, 528, 0, []⟩)] },
     opA, [0xFF#8, 0xFE#8], base.sel .mod opA.ctx 0x701001, by decide +kernel⟩,
   ⟨{ base with mod.regions := [(base.sel .mod opA.ctx 0x701001, ⟨true, 0, 0, false, 0, 3, 5, 0, 0, false, 4, 1, false, none, 0, none, none⟩)], mod.slices := [(5, ⟨true, 1, true, true, 5, 1, 528, 0, []⟩)] },
     opA, [0#8, 5#8], base.sel .mod opA.ctx 0x701001, by decide +kernel⟩,
   ⟨{ base with mod.regions := [(base.sel .mod opA.ctx 0x701001, ⟨true, 0, 0, false, 0, 3, 5, 0, 0, false, 5, 1, false, none, 0, none, none⟩)], mod.slices := [(5, ⟨true, 1, true, true, 5, 1, 528, 0, []⟩)] },
     opA, base.sel .mod opA.ctx 0x701001, by decide +kernel⟩,
   ⟨{ base with mod.regions := [(base.sel .mod opA.ctx 0x701001, ⟨true, 0, 0, false, 0, 3, 5, 0, 0, false, 4, 1, false, none, 0, none, none⟩)], mod.slices := [(5, ⟨true, 1, true, true, 5, 1, 528, 0, []⟩)] },
     opA, base.sel .mod opA.ctx 0x701001, by decide +kernel⟩⟩

/-- For each clause of ScrubCheckpointAndRestore, a state and operands that meet its hypotheses. -/
theorem test_hyps_ScrubCheckpointAndRestore :
    (∃ (s : State) (k : Nat) (retrain : Bool), k < 24 ∧ s.mod.failedStacks.contains k = false ∧ (retrain = true ∨
      tabGetD s.mod.uncorr k 0 / 2 ^ 32 = s.epochOf .mod ∧ s.regNow .mod 0x730002 < tabGetD s.mod.uncorr k 0 % 2 ^
      32)) ∧
    (∃ (s : State) (k : Nat) (retrain : Bool), (24 ≤ k ∨ s.mod.failedStacks.contains k = true ∨ (retrain = false ∧
      (tabGetD s.mod.uncorr k 0 / 2 ^ 32 ≠ s.epochOf .mod ∨ tabGetD s.mod.uncorr k 0 % 2 ^ 32 ≤ s.regNow .mod
      0x730002)))) ∧
    (∃ (s : State), s.mod.scrubOn = true ∧ s.mod.scrubEnds ≤ s.rackNs .mod) ∧
    (∃ (s : State), (s.mod.scrubOn = false ∨ s.rackNs .mod < s.mod.scrubEnds)) ∧
    (∃ (s : State) (c f : List Nat), (s.regNow .mod 0x730003 = 0 ∨ s.slotCovers (s.epochOf .mod) = true ∨ s.epochOf
      .mod + 1 ≤ s.mod.scrubEpoch ∨ 1000 * s.regNow .mod 0x730003 ≤ s.rackNs .mod % 1000000)) ∧
    (∃ (s : State) (len total from_ n : Nat) (held : List (Nat × Nat)) (reads : Nat → Prop) (l : _), (∀ l, reads l
      ↔ (s.regionAt (l * 128)).isSome = true ∧ (heldBelow held l + total - from_) % max 1 total < n) ∧ reads l ∧
      len = s.regNow .mod 0x730003 ∧ len ≠ 0 ∧ s.slotCovers (s.epochOf .mod) = false ∧ s.mod.scrubEpoch ≤ s.epochOf
      .mod ∧ s.rackNs .mod % 1000000 < 1000 * len ∧ s.mod.bad = [] ∧ held = s.heldLines ∧ (total = held.foldl (fun
      n r => n + r.2) 0) ∧ from_ = heldBelow held s.mod.scrubAt ∧ n = min total (s.regNow .mod 0x730004 * len /
      128)) ∧
    (∃ (s : State) (len total from_ n : Nat) (held : List (Nat × Nat)) (reads : Nat → Prop) (l : _), (∀ l, reads l
      ↔ (s.regionAt (l * 128)).isSome = true ∧ (heldBelow held l + total - from_) % max 1 total < n) ∧ (¬ reads l)
      ∧ len = s.regNow .mod 0x730003 ∧ len ≠ 0 ∧ s.slotCovers (s.epochOf .mod) = false ∧ s.mod.scrubEpoch ≤
      s.epochOf .mod ∧ s.rackNs .mod % 1000000 < 1000 * len ∧ s.mod.bad = [] ∧ held = s.heldLines ∧ (total =
      held.foldl (fun n r => n + r.2) 0) ∧ from_ = heldBelow held s.mod.scrubAt ∧ n = min total (s.regNow .mod
      0x730004 * len / 128)) ∧
    (∃ (s : State) (a : Access) (val : List Byte) (w : Nat), dirCheck .mod a 0x760001 true s = 0 ∧ val.length = 16
      ∧ w = beNat val ∧ s.mod.push.state = 1) ∧
    (∃ (s : State) (a : Access) (val : List Byte) (w : Nat), dirCheck .mod a 0x760001 true s = 0 ∧ val.length = 16
      ∧ w = beNat val ∧ s.mod.push.state ≠ 1 ∧ (s.region (bits w 127 120)).kind = 2 ∧ ((s.region (bits w 127
      120)).state = 2 ∨ (s.region (bits w 127 120)).state = 4) ∧ bits w 119 110 < s.endpoints ∧ bits w 44 0 = 0 ∧
      bits w 77 46 ≠ 0 ∧ (bits w 109 78 + bits w 77 46) * 65536 ≤ (s.region (bits w 127 120)).bytes) ∧
    (∃ (s : State), s.mod.push.state = 1 ∧ s.mod.push.stripes ≤ s.mod.push.next ∧ s.mod.push.open_ = []) ∧
    (∃ (s : State), (s.mod.push.state ≠ 1 ∨ s.mod.push.next < s.mod.push.stripes ∨ s.mod.push.open_ ≠ [])) ∧
    (∃ (s : State) (k : Packet) (tagOk : Bool), s.fabricOff .ep = true) ∧
    (∃ (s : State) (k : Packet) (tagOk : Bool) (r : SrcRec), s.fabricOff .ep = false ∧ formOk k true = true ∧ k.typ
      = 0x31 ∧ k.job = 0 ∧ k.dst = s.node .ep ∧ s.sealCheck .ep k tagOk = 0 ∧ s.ep.sh.recv.rec_ k.from_ = some r ∧
      k.s = false ∧ r.settledOf k.seq = none ∧ s.ep.sh.recv.busyWith k.from_ k.seq = false ∧ serialDiff k.seq
      r.base < 4096 ∧ (s.reg .ep 0xD62003 ≠ 1 ∨ k.src < 512 ∨ 527 < k.src ∨ s.reg .ep 0xD62002 < k.off + k.len)) ∧
    (∃ (s : State) (k : Packet) (tagOk : Bool) (r : SrcRec), s.fabricOff .ep = false ∧ formOk k true = true ∧ k.typ
      = 0x31 ∧ k.job = 0 ∧ k.dst = s.node .ep ∧ s.sealCheck .ep k tagOk = 0 ∧ s.ep.sh.recv.rec_ k.from_ = some r ∧
      k.s = false ∧ r.settledOf k.seq = none ∧ s.ep.sh.recv.busyWith k.from_ k.seq = false ∧ serialDiff k.seq
      r.base < 4096 ∧ s.reg .ep 0xD62003 = 1 ∧ 512 ≤ k.src ∧ k.src ≤ 527 ∧ k.off + k.len ≤ s.reg .ep 0xD62002) ∧
    (∃ (s : State) (k : Nat) (u : State), k < 24 ∧ s.mod.failedStacks.contains k = false ∧ u =
      ({ s with mod := { s.mod with failedStacks := setIns s.mod.failedStacks k, spill := s.mod.spill.filter fun x => pageStack x.1 != k } }
      : State).report .mod 2 0 s.plane ∧ u.mod.failedStacks.length < u.regNow .mod 0xA60002) ∧
    (∃ (s : State) (k : Nat) (u : State), k < 24 ∧ s.mod.failedStacks.contains k = false ∧ u =
      ({ s with mod := { s.mod with failedStacks := setIns s.mod.failedStacks k, spill := s.mod.spill.filter fun x => pageStack x.1 != k } }
      : State).report .mod 2 0 s.plane ∧ u.regNow .mod 0xA60002 ≤ u.mod.failedStacks.length) :=
  ⟨⟨base, 23, true, by decide +kernel⟩,
   ⟨base, 24, true, by decide +kernel⟩,
   ⟨{ base with mod.scrubOn := true }, by decide +kernel⟩,
   ⟨base, by decide +kernel⟩,
   ⟨(base.setReg .mod 0x730003 0), [], [], by decide +kernel⟩,
   ⟨{ base with mod.regions := [(255, ⟨true, 0, 0, false, 0, 3, 5, 0, 0, false, 2, 1, false, none, 0, none, none⟩)] },
     ({ base with mod.regions := [(255, ⟨true, 0, 0, false, 0, 3, 5, 0, 0, false, 2, 1, false, none, 0, none, none⟩)] }
     : State).regNow .mod 0x730003,
     ({ base with mod.regions := [(255, ⟨true, 0, 0, false, 0, 3, 5, 0, 0, false, 2, 1, false, none, 0, none, none⟩)] }
     : State).heldLines.foldl (fun n r => n + r.2) 0, heldBelow
     ({ base with mod.regions := [(255, ⟨true, 0, 0, false, 0, 3, 5, 0, 0, false, 2, 1, false, none, 0, none, none⟩)] }
     : State).heldLines
     ({ base with mod.regions := [(255, ⟨true, 0, 0, false, 0, 3, 5, 0, 0, false, 2, 1, false, none, 0, none, none⟩)] }
     : State).mod.scrubAt, min
     (({ base with mod.regions := [(255, ⟨true, 0, 0, false, 0, 3, 5, 0, 0, false, 2, 1, false, none, 0, none, none⟩)] }
     : State).heldLines.foldl (fun n r => n + r.2) 0)
     (({ base with mod.regions := [(255, ⟨true, 0, 0, false, 0, 3, 5, 0, 0, false, 2, 1, false, none, 0, none, none⟩)] }
     : State).regNow .mod 0x730004 *
     ({ base with mod.regions := [(255, ⟨true, 0, 0, false, 0, 3, 5, 0, 0, false, 2, 1, false, none, 0, none, none⟩)] }
     : State).regNow .mod 0x730003 / 128),
     ({ base with mod.regions := [(255, ⟨true, 0, 0, false, 0, 3, 5, 0, 0, false, 2, 1, false, none, 0, none, none⟩)] }
     : State).heldLines, (fun l =>
     (({ base with mod.regions := [(255, ⟨true, 0, 0, false, 0, 3, 5, 0, 0, false, 2, 1, false, none, 0, none, none⟩)] }
     : State).regionAt (l * 128)).isSome = true ∧ (heldBelow
     ({ base with mod.regions := [(255, ⟨true, 0, 0, false, 0, 3, 5, 0, 0, false, 2, 1, false, none, 0, none, none⟩)] }
     : State).heldLines l +
     ({ base with mod.regions := [(255, ⟨true, 0, 0, false, 0, 3, 5, 0, 0, false, 2, 1, false, none, 0, none, none⟩)] }
     : State).heldLines.foldl (fun n r => n + r.2) 0 - heldBelow
     ({ base with mod.regions := [(255, ⟨true, 0, 0, false, 0, 3, 5, 0, 0, false, 2, 1, false, none, 0, none, none⟩)] }
     : State).heldLines
     ({ base with mod.regions := [(255, ⟨true, 0, 0, false, 0, 3, 5, 0, 0, false, 2, 1, false, none, 0, none, none⟩)] }
     : State).mod.scrubAt) % max 1
     (({ base with mod.regions := [(255, ⟨true, 0, 0, false, 0, 3, 5, 0, 0, false, 2, 1, false, none, 0, none, none⟩)] }
     : State).heldLines.foldl (fun n r => n + r.2) 0) < min
     (({ base with mod.regions := [(255, ⟨true, 0, 0, false, 0, 3, 5, 0, 0, false, 2, 1, false, none, 0, none, none⟩)] }
     : State).heldLines.foldl (fun n r => n + r.2) 0)
     (({ base with mod.regions := [(255, ⟨true, 0, 0, false, 0, 3, 5, 0, 0, false, 2, 1, false, none, 0, none, none⟩)] }
     : State).regNow .mod 0x730004 *
     ({ base with mod.regions := [(255, ⟨true, 0, 0, false, 0, 3, 5, 0, 0, false, 2, 1, false, none, 0, none, none⟩)] }
     : State).regNow .mod 0x730003 / 128)), 0, fun _ => Iff.rfl, ⟨by decide +kernel, by decide +kernel⟩, by
     decide +kernel⟩,
   ⟨{ base with mod.regions := [(255, ⟨true, 0, 0, false, 0, 3, 5, 0, 0, false, 2, 1, false, none, 0, none, none⟩)] },
     ({ base with mod.regions := [(255, ⟨true, 0, 0, false, 0, 3, 5, 0, 0, false, 2, 1, false, none, 0, none, none⟩)] }
     : State).regNow .mod 0x730003,
     ({ base with mod.regions := [(255, ⟨true, 0, 0, false, 0, 3, 5, 0, 0, false, 2, 1, false, none, 0, none, none⟩)] }
     : State).heldLines.foldl (fun n r => n + r.2) 0, heldBelow
     ({ base with mod.regions := [(255, ⟨true, 0, 0, false, 0, 3, 5, 0, 0, false, 2, 1, false, none, 0, none, none⟩)] }
     : State).heldLines
     ({ base with mod.regions := [(255, ⟨true, 0, 0, false, 0, 3, 5, 0, 0, false, 2, 1, false, none, 0, none, none⟩)] }
     : State).mod.scrubAt, min
     (({ base with mod.regions := [(255, ⟨true, 0, 0, false, 0, 3, 5, 0, 0, false, 2, 1, false, none, 0, none, none⟩)] }
     : State).heldLines.foldl (fun n r => n + r.2) 0)
     (({ base with mod.regions := [(255, ⟨true, 0, 0, false, 0, 3, 5, 0, 0, false, 2, 1, false, none, 0, none, none⟩)] }
     : State).regNow .mod 0x730004 *
     ({ base with mod.regions := [(255, ⟨true, 0, 0, false, 0, 3, 5, 0, 0, false, 2, 1, false, none, 0, none, none⟩)] }
     : State).regNow .mod 0x730003 / 128),
     ({ base with mod.regions := [(255, ⟨true, 0, 0, false, 0, 3, 5, 0, 0, false, 2, 1, false, none, 0, none, none⟩)] }
     : State).heldLines, (fun l =>
     (({ base with mod.regions := [(255, ⟨true, 0, 0, false, 0, 3, 5, 0, 0, false, 2, 1, false, none, 0, none, none⟩)] }
     : State).regionAt (l * 128)).isSome = true ∧ (heldBelow
     ({ base with mod.regions := [(255, ⟨true, 0, 0, false, 0, 3, 5, 0, 0, false, 2, 1, false, none, 0, none, none⟩)] }
     : State).heldLines l +
     ({ base with mod.regions := [(255, ⟨true, 0, 0, false, 0, 3, 5, 0, 0, false, 2, 1, false, none, 0, none, none⟩)] }
     : State).heldLines.foldl (fun n r => n + r.2) 0 - heldBelow
     ({ base with mod.regions := [(255, ⟨true, 0, 0, false, 0, 3, 5, 0, 0, false, 2, 1, false, none, 0, none, none⟩)] }
     : State).heldLines
     ({ base with mod.regions := [(255, ⟨true, 0, 0, false, 0, 3, 5, 0, 0, false, 2, 1, false, none, 0, none, none⟩)] }
     : State).mod.scrubAt) % max 1
     (({ base with mod.regions := [(255, ⟨true, 0, 0, false, 0, 3, 5, 0, 0, false, 2, 1, false, none, 0, none, none⟩)] }
     : State).heldLines.foldl (fun n r => n + r.2) 0) < min
     (({ base with mod.regions := [(255, ⟨true, 0, 0, false, 0, 3, 5, 0, 0, false, 2, 1, false, none, 0, none, none⟩)] }
     : State).heldLines.foldl (fun n r => n + r.2) 0)
     (({ base with mod.regions := [(255, ⟨true, 0, 0, false, 0, 3, 5, 0, 0, false, 2, 1, false, none, 0, none, none⟩)] }
     : State).regNow .mod 0x730004 *
     ({ base with mod.regions := [(255, ⟨true, 0, 0, false, 0, 3, 5, 0, 0, false, 2, 1, false, none, 0, none, none⟩)] }
     : State).regNow .mod 0x730003 / 128)), 2 ^ 30, fun _ => Iff.rfl, fun h => absurd h.1 (by decide +kernel), by
     decide +kernel⟩,
   ⟨{ base with mod.push.state := 1, mod.push.stripes := 0, mod.push.next := 0, mod.push.open_ := [] }, opA,
     List.replicate 16 0#8, 0, by decide +kernel⟩,
   ⟨{ base with mod.regions := [(255, ⟨true, 2, 0, false, 0, 3, 5, 0, 0, false, 4, 1, false, none, 0, none, none⟩)] },
     opA, beBytes 16 (255 * 2 ^ 120 + 3 * 2 ^ 110 + 2 ^ 46), beNat (beBytes 16 (255 * 2 ^ 120 + 3 * 2 ^ 110 + 2 ^
     46)), by decide +kernel⟩,
   ⟨{ base with mod.push.state := 1, mod.push.stripes := 4, mod.push.next := 4, mod.push.open_ := [] }, by
     decide +kernel⟩,
   ⟨{ base with mod.push.state := 1, mod.push.stripes := 4, mod.push.next := 3, mod.push.open_ := [] }, by
     decide +kernel⟩,
   ⟨{ base with ep.inReset := true },
     { Packet.zero with typ := 0x31, src := 512, dst := 3, off := 64, len := 8, payload := List.replicate 8 9#8 },
     false, by decide +kernel⟩,
   ⟨{ fab with ep.sh.recv.recs := [{ rec5 with src := 512 }], ep.sh.regs := [(0xD00004 * 65536, 3)] },
     { Packet.zero with typ := 0x31, src := 512, dst := 3, off := 64, len := 8, payload := List.replicate 8 9#8 },
     false, { rec5 with src := 512 }, by decide +kernel⟩,
   ⟨{ fab with ep.sh.recv.recs := [{ rec5 with src := 512 }], ep.sh.regs := [(0xD00004 * 65536, 3), (0xD62002 * 65536, 72), (0xD62003 * 65536, 1)] },
     { Packet.zero with typ := 0x31, src := 512, dst := 3, off := 64, len := 8, payload := List.replicate 8 9#8 },
     false, { rec5 with src := 512 }, by decide +kernel⟩,
   ⟨base, 23, _, by decide +kernel, by decide +kernel, rfl, by decide +kernel⟩,
   ⟨{ base with mod.failedStacks := [1, 2] }, 0, _, by decide +kernel, by decide +kernel, rfl, by decide +kernel⟩⟩

/-- For each clause of HostAccessesReachCommons, a state and operands that meet its hypotheses. -/
theorem test_hyps_HostAccessesReachCommons :
    (∃ (s : State) (n : Nat), (s.qp n).state ≠ 1) ∧
    (∃ (s : State) (n : Nat), (∀ t, tabGet s.mod.cnps n = some t → t + 50000 ≤ s.ns) ∧ (s.qp n).state = 1) ∧
    (∃ (s : State) (n t : Nat), tabGet s.mod.cnps n = some t ∧ s.ns < t + 50000) ∧
    (∃ (s w : State) (n rkey va len err : Nat) (data : List Byte) (ce : Bool), w = s.congestion n ce ∧
      s.mod.ve.fenced = true ∧ (s.qp n).use = 1) ∧
    (∃ (s w : State) (n rkey va len err : Nat) (data : List Byte) (ce : Bool), w = s.congestion n ce ∧
      s.mod.ve.fenced = false ∧ (s.qp n).use ≠ 2 ∧ (s.qp n).takes 1 rkey va = false ∧ len ≤ 2 ^ 30) ∧
    (∃ (s w : State) (n rkey va len err : Nat) (data : List Byte) (ce : Bool), w = s.congestion n ce ∧
      s.mod.ve.fenced = false ∧ (s.qp n).use ≠ 2 ∧ (s.qp n).takes 1 rkey va = false ∧ data.length ≤ 2 ^ 30) ∧
    (∃ (s w : State) (n rkey va x y err : Nat) (data : List Byte) (ce : Bool), w = s.congestion n ce ∧
      s.mod.ve.fenced = false ∧ ((s.qp n).use = 2 ∨ va % 8 ≠ 0)) ∧
    (∃ (s w : State) (n rkey va x y err : Nat) (data : List Byte) (ce : Bool), w = s.congestion n ce ∧
      s.mod.ve.fenced = false ∧ ((s.qp n).use = 2 ∨ 2 ^ 30 < x)) ∧
    (∃ (s w : State) (n rkey va x y err : Nat) (data : List Byte) (ce : Bool), w = s.congestion n ce ∧ 2 ^ 30 <
      data.length ∧ s.mod.ve.fenced = false) ∧
    (∃ (s w : State) (n rkey va : Nat) (data : List Byte) (err : Nat) (ce : Bool), w = s.congestion n ce ∧ (s.qp
      n).takes 2 rkey va = true ∧ data.length ≤ 2 ^ 30 ∧ va + data.length ≤ 2 ^ 28) ∧
    (∃ (s w : State) (n rkey va : Nat) (data : List Byte) (err : Nat) (ce : Bool), w = s.congestion n ce ∧ (s.qp
      n).takes 2 rkey va = true ∧ data.length ≤ 2 ^ 30 ∧ 2 ^ 28 < va + data.length) ∧
    (∃ (s w : State) (n rkey va len err : Nat) (data : List Byte) (ce : Bool), w = s.congestion n ce ∧
      s.mod.ve.fenced = false ∧ (s.qp n).takes 1 rkey va = true ∧ len ≤ 2 ^ 30 ∧ data.length ≤ 2 ^ 30 ∧ s.jobState
      .mod (s.qp n).job = 1) ∧
    (∃ (s w : State) (n rkey va len err : Nat) (data : List Byte) (ce : Bool), w = s.congestion n ce ∧
      s.mod.ve.fenced = false ∧ (s.qp n).takes 1 rkey va = true ∧ len ≤ 2 ^ 30 ∧ data.length ≤ 2 ^ 30 ∧ s.jobState
      .mod (s.qp n).job = 0 ∧ admFind s.mod.sh.adm (s.qp n).job va len = none) ∧
    (∃ (s w : State) (n rkey va len err : Nat) (data : List Byte) (ce : Bool) (e : AdmEntry), w = s.congestion n ce
      ∧ e.w = false ∧ s.mod.ve.fenced = false ∧ (s.qp n).takes 1 rkey va = true ∧ len ≤ 2 ^ 30 ∧ data.length ≤ 2 ^
      30 ∧ s.jobState .mod (s.qp n).job = 0 ∧ admFind s.mod.sh.adm (s.qp n).job va data.length = some e) ∧
    (∃ (s w : State) (n rkey va len loc : Nat) (e : AdmEntry) (ce : Bool), w = s.congestion n ce ∧ s.mod.ve.fenced
      = false ∧ (s.qp n).takes 1 rkey va = true ∧ len ≤ 2 ^ 30 ∧ s.jobState .mod (s.qp n).job = 0 ∧ admFind
      s.mod.sh.adm (s.qp n).job va len = some e ∧ e.r = true ∧ loc = e.localBase * 65536 + (va - e.offBase * 65536)
      ∧ loc + len ≤ s.usableBytes ∧ s.metaAt loc = false ∧ s.staleAt loc = true) ∧
    (∃ (s w : State) (n rkey va len loc : Nat) (e : AdmEntry) (ce : Bool), w = s.congestion n ce ∧ s.linesGood loc
      len ∧ s.mod.ve.fenced = false ∧ (s.qp n).takes 1 rkey va = true ∧ len ≤ 2 ^ 30 ∧ s.jobState .mod (s.qp n).job
      = 0 ∧ admFind s.mod.sh.adm (s.qp n).job va len = some e ∧ e.r = true ∧ loc = e.localBase * 65536 + (va -
      e.offBase * 65536) ∧ loc + len ≤ s.usableBytes ∧ s.metaAt loc = false ∧ s.staleAt loc = false) ∧
    (∃ (s w : State) (n rkey va loc : Nat) (data : List Byte) (e : AdmEntry) (ce : Bool), w = s.congestion n ce ∧
      e.w = true ∧ s.mod.ve.fenced = false ∧ (s.qp n).takes 1 rkey va = true ∧ data.length ≤ 2 ^ 30 ∧ s.jobState
      .mod (s.qp n).job = 0 ∧ admFind s.mod.sh.adm (s.qp n).job va data.length = some e ∧ loc = e.localBase * 65536
      + (va - e.offBase * 65536) ∧ loc + data.length ≤ s.usableBytes ∧ s.metaAt loc = true) ∧
    (∃ (s w : State) (n rkey va loc : Nat) (data : List Byte) (e : AdmEntry) (ce : Bool) (x : Nat), w =
      s.congestion n ce ∧ e.w = true ∧ s.linesGood loc data.length ∧ s.mod.ve.fenced = false ∧ (s.qp n).takes 1
      rkey va = true ∧ data.length ≤ 2 ^ 30 ∧ s.jobState .mod (s.qp n).job = 0 ∧ admFind s.mod.sh.adm (s.qp n).job
      va data.length = some e ∧ loc = e.localBase * 65536 + (va - e.offBase * 65536) ∧ loc + data.length ≤
      s.usableBytes ∧ s.metaAt loc = false ∧ (x < loc ∨ loc + data.length ≤ x)) ∧
    (∃ (s w : State) (n rkey va loc x y old new : Nat) (c : Instr) (e : AdmEntry) (ce : Bool), w = s.congestion n
      ce ∧ s.linesGood loc 8 ∧ (c = .atomicFetchAndAdd n rkey va x 0 ce ∧ new = (old + x) % 2 ^ 64 ∨ c =
      .atomicCompareAndSwap n rkey va x y 0 ce ∧ new = if old = x then y else old) ∧ s.mod.ve.fenced = false ∧
      (s.qp n).takes 1 rkey va = true ∧ va % 8 = 0 ∧ ((s.mod.sh.recv.inprog.filter fun g => g.pkt.typ ==
      0x03).length < atomCap .mod) ∧ s.jobState .mod (s.qp n).job = 0 ∧ admFind s.mod.sh.adm (s.qp n).job va 8 =
      some e ∧ e.a = true ∧ loc = e.localBase * 65536 + (va - e.offBase * 65536) ∧ loc + 8 ≤ s.usableBytes ∧
      s.metaAt loc = false ∧ s.staleAt loc = false ∧ loc % 8 = 0 ∧ old = leNat (s.commonsRead loc 8) ∧ x < 2 ^ 64 ∧
      y < 2 ^ 64) ∧
    (∃ (s w : State) (n : Nat) (m : PMsg) (ce : Bool), w = s.congestion n ce ∧ (s.qp n).state ≠ 1) ∧
    (∃ (s w : State) (n : Nat) (m : PMsg) (ce : Bool), w = s.congestion n ce ∧ (s.qp n).state = 1 ∧ (s.qp n).use =
      1) ∧
    (∃ (s w : State) (n : Nat) (m : PMsg) (ce : Bool), w = s.congestion n ce ∧ (s.qp n).state = 1 ∧ (s.qp n).use =
      2) ∧
    (∃ (s : State) (port st kind : Nat) (own : Bool), port < 4 ∧ kind < 3 ∧ st < 3 ∧ (st = 0 ∨ s.mod.sh.clk.crystal
      ≠ 2)) ∧
    (∃ (s : State) (port st kind : Nat) (own : Bool), port < 4 ∧ kind < 3 ∧ st ≠ 0 ∧ s.mod.sh.clk.crystal = 2) ∧
    (∃ (s : State) (port st kind : Nat) (own : Bool), port < 4 ∧ kind < 3 ∧ own = true ∧ tabGetD s.mod.hosts port 0
      = 2) ∧
    (∃ (s : State) (port st kind : Nat) (own : Bool), port < 4 ∧ kind < 3 ∧ tabGetD s.mod.hosts port 0 ≠ 2) ∧
    (∃ (a : Nat) (data : List Byte) (b n : Nat), b + n ≤ a ∨ a + data.length ≤ b) :=
  ⟨⟨{ fab with mod.qps := [(1023, ⟨1, 5, 77, 0⟩)] }, 1023, by decide +kernel⟩,
   ⟨{ fab with mod.qps := [(1023, ⟨1, 5, 77, 1⟩)] }, 1023, of_all (by decide +kernel), by decide +kernel⟩,
   ⟨{ fab with mod.qps := [(1023, ⟨1, 5, 77, 1⟩)], mod.cnps := [(1023, 0)] }, 1023, 0, by decide +kernel⟩,
   ⟨{ fab with mod.qps := [(1023, ⟨1, 5, 77, 1⟩)], mod.ve.fenced := true },
     ({ fab with mod.qps := [(1023, ⟨1, 5, 77, 1⟩)], mod.ve.fenced := true } : State).congestion 1023 false, 1023,
     77, 0, 0, 0, [], false, rfl, by decide +kernel⟩,
   ⟨{ fab with mod.qps := [(1023, ⟨1, 5, 77, 1⟩)] }, ({ fab with mod.qps := [(1023, ⟨1, 5, 77, 1⟩)] } :
     State).congestion 1023 false, 1023, 76, 0, 0, 0, [], false, rfl, by decide +kernel⟩,
   ⟨{ fab with mod.qps := [(1023, ⟨1, 5, 77, 1⟩)] }, ({ fab with mod.qps := [(1023, ⟨1, 5, 77, 1⟩)] } :
     State).congestion 1023 false, 1023, 76, 0, 0, 0, [], false, rfl, by decide +kernel⟩,
   ⟨{ fab with mod.qps := [(1023, ⟨2, 5, 77, 1⟩)] }, ({ fab with mod.qps := [(1023, ⟨2, 5, 77, 1⟩)] } :
     State).congestion 1023 false, 1023, 77, 0, 0, 0, 0, [], false, rfl, by decide +kernel⟩,
   ⟨{ fab with mod.qps := [(1023, ⟨2, 5, 77, 1⟩)] }, ({ fab with mod.qps := [(1023, ⟨2, 5, 77, 1⟩)] } :
     State).congestion 1023 false, 1023, 77, 0, 0, 0, 0, [], false, rfl, by decide +kernel⟩,
   ⟨{ fab with mod.qps := [(1023, ⟨2, 5, 77, 1⟩)] }, ({ fab with mod.qps := [(1023, ⟨2, 5, 77, 1⟩)] } :
     State).congestion 1023 false, 1023, 77, 0, 0, 0, 0, List.replicate (2 ^ 30 + 1) 0#8, false, rfl,
     List.length_replicate ▸ by decide, by decide +kernel⟩,
   ⟨{ fab with mod.qps := [(1023, ⟨2, 5, 77, 1⟩)] }, ({ fab with mod.qps := [(1023, ⟨2, 5, 77, 1⟩)] } :
     State).congestion 1023 false, 1023, 77, 2 ^ 28 - 8, List.replicate 8 9#8, 0, false, rfl, by decide +kernel⟩,
   ⟨{ fab with mod.qps := [(1023, ⟨2, 5, 77, 1⟩)] }, ({ fab with mod.qps := [(1023, ⟨2, 5, 77, 1⟩)] } :
     State).congestion 1023 false, 1023, 77, 2 ^ 28 - 7, List.replicate 8 9#8, 0, false, rfl, by decide +kernel⟩,
   ⟨{ fab with mod.qps := [(1023, ⟨1, 5, 77, 1⟩)], mod.slices := [] },
     ({ fab with mod.qps := [(1023, ⟨1, 5, 77, 1⟩)], mod.slices := [] } : State).congestion 1023 false, 1023, 77,
     0, 0, 0, [], false, rfl, by decide +kernel⟩,
   ⟨{ fab with mod.qps := [(1023, ⟨1, 5, 77, 1⟩)] }, ({ fab with mod.qps := [(1023, ⟨1, 5, 77, 1⟩)] } :
     State).congestion 1023 false, 1023, 77, 65536, 8, 0, [], false, rfl, by decide +kernel⟩,
   ⟨{ fab with mod.qps := [(1023, ⟨1, 5, 77, 1⟩)], mod.sh.adm := [(0, { adm5 with w := false })] },
     ({ fab with mod.qps := [(1023, ⟨1, 5, 77, 1⟩)], mod.sh.adm := [(0, { adm5 with w := false })] } :
     State).congestion 1023 false, 1023, 77, 0, 0, 0, List.replicate 8 9#8, false, { adm5 with w := false }, rfl,
     rfl, by decide +kernel⟩,
   ⟨{ fab with mod.qps := [(1023, ⟨1, 5, 77, 1⟩)], mod.regions := [(0, ⟨true, 0, 0, false, 0, 3, 5, 0, 0, false, 5, 1, false, none, 0, none, none⟩)] },
     ({ fab with mod.qps := [(1023, ⟨1, 5, 77, 1⟩)], mod.regions := [(0, ⟨true, 0, 0, false, 0, 3, 5, 0, 0, false, 5, 1, false, none, 0, none, none⟩)] }
     : State).congestion 1023 false, 1023, 77, 0, 8, 0, adm5, false, rfl, by decide +kernel⟩,
   ⟨{ fab with mod.qps := [(1023, ⟨1, 5, 77, 1⟩)] }, ({ fab with mod.qps := [(1023, ⟨1, 5, 77, 1⟩)] } :
     State).congestion 1023 false, 1023, 77, 0, 8, 0, adm5, false, rfl, lines_of (by decide +kernel), by
     decide +kernel⟩,
   ⟨{ fab with mod.qps := [(1023, ⟨1, 5, 77, 1⟩)], mod.regions := [(0, ⟨true, 1, 0, false, 0, 3, 5, 0, 0, false, 2, 1, false, none, 0, some ⟨1, 8, 1, [], [], 0, 0, false⟩, none⟩)] },
     ({ fab with mod.qps := [(1023, ⟨1, 5, 77, 1⟩)], mod.regions := [(0, ⟨true, 1, 0, false, 0, 3, 5, 0, 0, false, 2, 1, false, none, 0, some ⟨1, 8, 1, [], [], 0, 0, false⟩, none⟩)] }
     : State).congestion 1023 false, 1023, 77, 0, 0, List.replicate 8 9#8, adm5, false, rfl, rfl, by
     decide +kernel⟩,
   ⟨{ fab with mod.qps := [(1023, ⟨1, 5, 77, 1⟩)] }, ({ fab with mod.qps := [(1023, ⟨1, 5, 77, 1⟩)] } :
     State).congestion 1023 false, 1023, 77, 0, 0, List.replicate 8 9#8, adm5, false, 8, rfl, rfl, lines_of (by
     decide +kernel), by decide +kernel⟩,
   ⟨{ fab with mod.qps := [(1023, ⟨1, 5, 77, 1⟩)] }, ({ fab with mod.qps := [(1023, ⟨1, 5, 77, 1⟩)] } :
     State).congestion 1023 false, 1023, 77, 0, 0, 1, 2, 0, 1, .atomicFetchAndAdd 1023 77 0 1 0 false, adm5, false,
     rfl, lines_of (by decide +kernel), .inl ⟨rfl, by decide +kernel⟩, by decide +kernel⟩,
   ⟨{ fab with mod.qps := [(1023, ⟨1, 5, 77, 0⟩)] }, ({ fab with mod.qps := [(1023, ⟨1, 5, 77, 0⟩)] } :
     State).congestion 1023 false, 1023, pm 1 9 4 0 0 0 [], false, rfl, by decide +kernel⟩,
   ⟨{ fab with mod.qps := [(1023, ⟨1, 5, 77, 1⟩)] }, ({ fab with mod.qps := [(1023, ⟨1, 5, 77, 1⟩)] } :
     State).congestion 1023 false, 1023, pm 1 9 4 0 0 0 [], false, rfl, by decide +kernel⟩,
   ⟨{ fab with mod.qps := [(1023, ⟨2, 5, 77, 1⟩)] }, ({ fab with mod.qps := [(1023, ⟨2, 5, 77, 1⟩)] } :
     State).congestion 1023 false, 1023, pm 1 9 4 0 0 0 [], false, rfl, by decide +kernel⟩,
   ⟨base, 3, 2, 2, false, by decide +kernel⟩,
   ⟨{ base with mod.sh.clk.crystal := 2 }, 3, 1, 2, false, by decide +kernel⟩,
   ⟨{ base with mod.hosts := [(3, 2)] }, 3, 0, 2, true, by decide +kernel⟩,
   ⟨base, 3, 0, 2, false, by decide +kernel⟩,
   ⟨4, List.replicate 8 9#8, 0, 4, by decide⟩⟩

/-- For each clause of CollectiveTablesAreWritten, a state and operands that meet its hypotheses. -/
theorem test_hyps_CollectiveTablesAreWritten :
    (∃ (s : State) (a : Access) (val : List Byte) (i : Nat) (n : Group × Nat) (new : Group), new =
      { s.group i with v := n.1.v, job := n.1.job, members := n.1.members, rackMask := n.1.rackMask, lateness := n.1.lateness, firstSeq := n.1.firstSeq, base := if n.1.v && !(s.group i).v then n.1.firstSeq else (s.group i).base }
      ∧ dirCheck .mod a 0x610007 true s = 0 ∧ val.length = 16 ∧ i = s.sel .mod a.ctx 0x610006 ∧ n = groupOf (beNat
      val) ∧ n.2 = 0 ∧ s.hasSlice n.1.job = true ∧ (n.1.v = true → new.tableOk = true ∧ ∀ c ∈ new.ctxs, c.2.v =
      true → s.contextOk new c.2 (new.prog c.1) = true) ∧ (s.group i).slots = []) ∧
    (∃ (s : State) (a : Access) (val : List Byte) (i : Nat) (n : Group × Nat) (new : Group), new =
      { s.group i with v := n.1.v, job := n.1.job, members := n.1.members, rackMask := n.1.rackMask, lateness := n.1.lateness, firstSeq := n.1.firstSeq, base := if n.1.v && !(s.group i).v then n.1.firstSeq else (s.group i).base }
      ∧ dirCheck .mod a 0x610007 true s = 0 ∧ val.length = 16 ∧ i = s.sel .mod a.ctx 0x610006 ∧ n = groupOf (beNat
      val) ∧ n.2 = 0 ∧ s.hasSlice n.1.job = true ∧ (n.1.v = true → new.tableOk = true ∧ ∀ c ∈ new.ctxs, c.2.v =
      true → s.contextOk new c.2 (new.prog c.1) = true) ∧ (s.group i).slots ≠ []) ∧
    (∃ (s : State) (a : Access) (val : List Byte) (i : Nat) (n : Group × Nat) (new : Group), new =
      { s.group i with v := n.1.v, job := n.1.job, members := n.1.members, rackMask := n.1.rackMask, lateness := n.1.lateness, firstSeq := n.1.firstSeq, base := if n.1.v && !(s.group i).v then n.1.firstSeq else (s.group i).base }
      ∧ dirCheck .mod a 0x610007 true s = 0 ∧ val.length = 16 ∧ i = s.sel .mod a.ctx 0x610006 ∧ n = groupOf (beNat
      val) ∧ n.2 = 0 ∧ n.1.job ≠ 0 ∧ s.hasSlice n.1.job = false) ∧
    (∃ (s : State) (a : Access) (val : List Byte) (i : Nat) (n : Group × Nat) (new : Group), new =
      { s.group i with v := n.1.v, job := n.1.job, members := n.1.members, rackMask := n.1.rackMask, lateness := n.1.lateness, firstSeq := n.1.firstSeq, base := if n.1.v && !(s.group i).v then n.1.firstSeq else (s.group i).base }
      ∧ dirCheck .mod a 0x610007 true s = 0 ∧ val.length = 16 ∧ i = s.sel .mod a.ctx 0x610006 ∧ n = groupOf (beNat
      val) ∧ n.2 = 0 ∧ n.1.v = true ∧ new.tableOk = false) ∧
    (∃ (s : State) (a : Access) (val : List Byte) (i : Nat), dirCheck .mod a 0x610008 true s = 0 ∧ val.length % 2 =
      0 ∧ 2 ≤ val.length ∧ val.length ≤ 4096 ∧ i = s.sel .mod a.ctx 0x610006 ∧ s.hasSlice (s.group i).job = true ∧
      tableWordsOk (tableOf val) = true ∧ ((s.group i).v = true → ({ s.group i with table := tableOf val } :
      Group).tableOk = true) ∧ (s.group i).slots = []) ∧
    (∃ (s : State) (a : Access) (val : List Byte) (i : Nat), dirCheck .mod a 0x610008 true s = 0 ∧ val.length % 2 =
      0 ∧ 2 ≤ val.length ∧ val.length ≤ 4096 ∧ i = s.sel .mod a.ctx 0x610006 ∧ s.hasSlice (s.group i).job = true ∧
      tableWordsOk (tableOf val) = true ∧ ((s.group i).v = true → ({ s.group i with table := tableOf val } :
      Group).tableOk = true) ∧ (s.group i).slots ≠ []) ∧
    (∃ (s : State) (a : Access) (val : List Byte) (i : Nat), dirCheck .mod a 0x610008 true s = 0 ∧ val.length % 2 =
      0 ∧ 2 ≤ val.length ∧ val.length ≤ 4096 ∧ i = s.sel .mod a.ctx 0x610006 ∧ s.hasSlice (s.group i).job = true ∧
      tableWordsOk (tableOf val) = false) ∧
    (∃ (s : State) (a : Access) (val : List Byte) (i c : Nat) (n : CContext × Nat), dirCheck .mod a 0x61000A true s
      = 0 ∧ val.length = 16 ∧ i = s.sel .mod a.ctx 0x610006 ∧ c = s.sel .mod a.ctx 0x610009 ∧ n = contextOf (beNat
      val) ∧ s.hasSlice (s.group i).job = true ∧ n.2 = 0 ∧ s.contextOk (s.group i) n.1 ((s.group i).prog c) = true
      ∧ (s.group i).slots = []) ∧
    (∃ (s : State) (a : Access) (val : List Byte) (i c : Nat) (n : CContext × Nat), dirCheck .mod a 0x61000A true s
      = 0 ∧ val.length = 16 ∧ i = s.sel .mod a.ctx 0x610006 ∧ c = s.sel .mod a.ctx 0x610009 ∧ n = contextOf (beNat
      val) ∧ s.hasSlice (s.group i).job = true ∧ n.2 = 0 ∧ s.contextOk (s.group i) n.1 ((s.group i).prog c) = true
      ∧ (s.group i).slots ≠ []) ∧
    (∃ (s : State) (a : Access) (val : List Byte) (i c : Nat) (n : CContext × Nat), dirCheck .mod a 0x61000A true s
      = 0 ∧ val.length = 16 ∧ i = s.sel .mod a.ctx 0x610006 ∧ c = s.sel .mod a.ctx 0x610009 ∧ n = contextOf (beNat
      val) ∧ s.hasSlice (s.group i).job = true ∧ s.contextOk (s.group i) n.1 ((s.group i).prog c) = false) ∧
    (∃ (s : State) (a : Access) (val : List Byte) (i c : Nat), dirCheck .mod a 0x61000B true s = 0 ∧ val.length =
      192 ∧ i = s.sel .mod a.ctx 0x610006 ∧ c = s.sel .mod a.ctx 0x610009 ∧ s.hasSlice (s.group i).job = true ∧
      ((aword ((s.group i).ctx c).word).prog = true → progOk (aword ((s.group i).ctx c).word) val = true) ∧
      (s.group i).slots = []) ∧
    (∃ (s : State) (a : Access) (val : List Byte) (i c : Nat), dirCheck .mod a 0x61000B true s = 0 ∧ val.length =
      192 ∧ i = s.sel .mod a.ctx 0x610006 ∧ c = s.sel .mod a.ctx 0x610009 ∧ s.hasSlice (s.group i).job = true ∧
      (aword ((s.group i).ctx c).word).prog = true ∧ progOk (aword ((s.group i).ctx c).word) val = false) ∧
    (∃ (s : State) (a : Access) (val : List Byte) (n : Nat) (z r : Lateness), dirCheck .mod a 0x620002 true s = 0 ∧
      val.length = 16 ∧ n = s.sel .mod a.ctx 0x620001 ∧ z = { barriers := 0, last := 0, sum := 0, max := 0 } ∧ r =
      tabGetD s.mod.late n z) :=
  ⟨⟨{ base with mod.slices := [(5, ⟨true, 1, true, true, 5, 1, 528, 0, []⟩)], mod.sh.regs := [(0x831002 * 65536 + 5, 0)], mod.groups := [(base.sel .mod hostA.ctx 0x610006, ⟨false, 5, 0, 0, false, 0, [3], [], [], 0, []⟩)] },
     hostA, beBytes 16 (Group.word ⟨true, 5, 0, 1, false, 0, [], [], [], 0, []⟩), base.sel .mod hostA.ctx 0x610006,
     groupOf (beNat (beBytes 16 (Group.word ⟨true, 5, 0, 1, false, 0, [], [], [], 0, []⟩))),
     { State.group ({ base with mod.slices := [(5, ⟨true, 1, true, true, 5, 1, 528, 0, []⟩)], mod.sh.regs := [(0x831002 * 65536 + 5, 0)], mod.groups := [(base.sel .mod hostA.ctx 0x610006, ⟨false, 5, 0, 0, false, 0, [3], [], [], 0, []⟩)] }) (base.sel .mod hostA.ctx 0x610006) with v := (groupOf (beNat (beBytes 16 (Group.word ⟨true, 5, 0, 1, false, 0, [], [], [], 0, []⟩)))).1.v, job := (groupOf (beNat (beBytes 16 (Group.word ⟨true, 5, 0, 1, false, 0, [], [], [], 0, []⟩)))).1.job, members := (groupOf (beNat (beBytes 16 (Group.word ⟨true, 5, 0, 1, false, 0, [], [], [], 0, []⟩)))).1.members, rackMask := (groupOf (beNat (beBytes 16 (Group.word ⟨true, 5, 0, 1, false, 0, [], [], [], 0, []⟩)))).1.rackMask, lateness := (groupOf (beNat (beBytes 16 (Group.word ⟨true, 5, 0, 1, false, 0, [], [], [], 0, []⟩)))).1.lateness, firstSeq := (groupOf (beNat (beBytes 16 (Group.word ⟨true, 5, 0, 1, false, 0, [], [], [], 0, []⟩)))).1.firstSeq, base := if (groupOf (beNat (beBytes 16 (Group.word ⟨true, 5, 0, 1, false, 0, [], [], [], 0, []⟩)))).1.v && !(State.group ({ base with mod.slices := [(5, ⟨true, 1, true, true, 5, 1, 528, 0, []⟩)], mod.sh.regs := [(0x831002 * 65536 + 5, 0)], mod.groups := [(base.sel .mod hostA.ctx 0x610006, ⟨false, 5, 0, 0, false, 0, [3], [], [], 0, []⟩)] }) (base.sel .mod hostA.ctx 0x610006)).v then (groupOf (beNat (beBytes 16 (Group.word ⟨true, 5, 0, 1, false, 0, [], [], [], 0, []⟩)))).1.firstSeq else (State.group ({ base with mod.slices := [(5, ⟨true, 1, true, true, 5, 1, 528, 0, []⟩)], mod.sh.regs := [(0x831002 * 65536 + 5, 0)], mod.groups := [(base.sel .mod hostA.ctx 0x610006, ⟨false, 5, 0, 0, false, 0, [3], [], [], 0, []⟩)] }) (base.sel .mod hostA.ctx 0x610006)).base },
     rfl, by decide +kernel⟩,
   ⟨{ base with mod.slices := [(5, ⟨true, 1, true, true, 5, 1, 528, 0, []⟩)], mod.sh.regs := [(0x831002 * 65536 + 5, 0)], mod.groups := [(base.sel .mod hostA.ctx 0x610006, ⟨false, 5, 0, 0, false, 0, [3], [], [], 0, [(1, ⟨1, 1, 0, 0, 9, 0, 0, none, [], [], [], [], false, []⟩)]⟩)] },
     hostA, beBytes 16 (Group.word ⟨true, 5, 0, 1, false, 0, [], [], [], 0, []⟩), base.sel .mod hostA.ctx 0x610006,
     groupOf (beNat (beBytes 16 (Group.word ⟨true, 5, 0, 1, false, 0, [], [], [], 0, []⟩))),
     { State.group ({ base with mod.slices := [(5, ⟨true, 1, true, true, 5, 1, 528, 0, []⟩)], mod.sh.regs := [(0x831002 * 65536 + 5, 0)], mod.groups := [(base.sel .mod hostA.ctx 0x610006, ⟨false, 5, 0, 0, false, 0, [3], [], [], 0, [(1, ⟨1, 1, 0, 0, 9, 0, 0, none, [], [], [], [], false, []⟩)]⟩)] }) (base.sel .mod hostA.ctx 0x610006) with v := (groupOf (beNat (beBytes 16 (Group.word ⟨true, 5, 0, 1, false, 0, [], [], [], 0, []⟩)))).1.v, job := (groupOf (beNat (beBytes 16 (Group.word ⟨true, 5, 0, 1, false, 0, [], [], [], 0, []⟩)))).1.job, members := (groupOf (beNat (beBytes 16 (Group.word ⟨true, 5, 0, 1, false, 0, [], [], [], 0, []⟩)))).1.members, rackMask := (groupOf (beNat (beBytes 16 (Group.word ⟨true, 5, 0, 1, false, 0, [], [], [], 0, []⟩)))).1.rackMask, lateness := (groupOf (beNat (beBytes 16 (Group.word ⟨true, 5, 0, 1, false, 0, [], [], [], 0, []⟩)))).1.lateness, firstSeq := (groupOf (beNat (beBytes 16 (Group.word ⟨true, 5, 0, 1, false, 0, [], [], [], 0, []⟩)))).1.firstSeq, base := if (groupOf (beNat (beBytes 16 (Group.word ⟨true, 5, 0, 1, false, 0, [], [], [], 0, []⟩)))).1.v && !(State.group ({ base with mod.slices := [(5, ⟨true, 1, true, true, 5, 1, 528, 0, []⟩)], mod.sh.regs := [(0x831002 * 65536 + 5, 0)], mod.groups := [(base.sel .mod hostA.ctx 0x610006, ⟨false, 5, 0, 0, false, 0, [3], [], [], 0, [(1, ⟨1, 1, 0, 0, 9, 0, 0, none, [], [], [], [], false, []⟩)]⟩)] }) (base.sel .mod hostA.ctx 0x610006)).v then (groupOf (beNat (beBytes 16 (Group.word ⟨true, 5, 0, 1, false, 0, [], [], [], 0, []⟩)))).1.firstSeq else (State.group ({ base with mod.slices := [(5, ⟨true, 1, true, true, 5, 1, 528, 0, []⟩)], mod.sh.regs := [(0x831002 * 65536 + 5, 0)], mod.groups := [(base.sel .mod hostA.ctx 0x610006, ⟨false, 5, 0, 0, false, 0, [3], [], [], 0, [(1, ⟨1, 1, 0, 0, 9, 0, 0, none, [], [], [], [], false, []⟩)]⟩)] }) (base.sel .mod hostA.ctx 0x610006)).base },
     rfl, by decide +kernel⟩,
   ⟨{ base with mod.slices := [], mod.sh.regs := [(0x831002 * 65536 + 5, 0)], mod.groups := [(base.sel .mod hostA.ctx 0x610006, ⟨false, 5, 0, 0, false, 0, [3], [], [], 0, []⟩)] },
     hostA, beBytes 16 (Group.word ⟨true, 5, 0, 1, false, 0, [], [], [], 0, []⟩), base.sel .mod hostA.ctx 0x610006,
     groupOf (beNat (beBytes 16 (Group.word ⟨true, 5, 0, 1, false, 0, [], [], [], 0, []⟩))),
     { State.group ({ base with mod.slices := [], mod.sh.regs := [(0x831002 * 65536 + 5, 0)], mod.groups := [(base.sel .mod hostA.ctx 0x610006, ⟨false, 5, 0, 0, false, 0, [3], [], [], 0, []⟩)] }) (base.sel .mod hostA.ctx 0x610006) with v := (groupOf (beNat (beBytes 16 (Group.word ⟨true, 5, 0, 1, false, 0, [], [], [], 0, []⟩)))).1.v, job := (groupOf (beNat (beBytes 16 (Group.word ⟨true, 5, 0, 1, false, 0, [], [], [], 0, []⟩)))).1.job, members := (groupOf (beNat (beBytes 16 (Group.word ⟨true, 5, 0, 1, false, 0, [], [], [], 0, []⟩)))).1.members, rackMask := (groupOf (beNat (beBytes 16 (Group.word ⟨true, 5, 0, 1, false, 0, [], [], [], 0, []⟩)))).1.rackMask, lateness := (groupOf (beNat (beBytes 16 (Group.word ⟨true, 5, 0, 1, false, 0, [], [], [], 0, []⟩)))).1.lateness, firstSeq := (groupOf (beNat (beBytes 16 (Group.word ⟨true, 5, 0, 1, false, 0, [], [], [], 0, []⟩)))).1.firstSeq, base := if (groupOf (beNat (beBytes 16 (Group.word ⟨true, 5, 0, 1, false, 0, [], [], [], 0, []⟩)))).1.v && !(State.group ({ base with mod.slices := [], mod.sh.regs := [(0x831002 * 65536 + 5, 0)], mod.groups := [(base.sel .mod hostA.ctx 0x610006, ⟨false, 5, 0, 0, false, 0, [3], [], [], 0, []⟩)] }) (base.sel .mod hostA.ctx 0x610006)).v then (groupOf (beNat (beBytes 16 (Group.word ⟨true, 5, 0, 1, false, 0, [], [], [], 0, []⟩)))).1.firstSeq else (State.group ({ base with mod.slices := [], mod.sh.regs := [(0x831002 * 65536 + 5, 0)], mod.groups := [(base.sel .mod hostA.ctx 0x610006, ⟨false, 5, 0, 0, false, 0, [3], [], [], 0, []⟩)] }) (base.sel .mod hostA.ctx 0x610006)).base },
     rfl, by decide +kernel⟩,
   ⟨{ base with mod.slices := [(5, ⟨true, 1, true, true, 5, 1, 528, 0, []⟩)], mod.sh.regs := [(0x831002 * 65536 + 5, 0)], mod.groups := [(base.sel .mod hostA.ctx 0x610006, ⟨false, 5, 0, 0, false, 0, [], [], [], 0, []⟩)] },
     hostA, beBytes 16 (Group.word ⟨true, 5, 0, 1, false, 0, [], [], [], 0, []⟩), base.sel .mod hostA.ctx 0x610006,
     groupOf (beNat (beBytes 16 (Group.word ⟨true, 5, 0, 1, false, 0, [], [], [], 0, []⟩))),
     { State.group ({ base with mod.slices := [(5, ⟨true, 1, true, true, 5, 1, 528, 0, []⟩)], mod.sh.regs := [(0x831002 * 65536 + 5, 0)], mod.groups := [(base.sel .mod hostA.ctx 0x610006, ⟨false, 5, 0, 0, false, 0, [], [], [], 0, []⟩)] }) (base.sel .mod hostA.ctx 0x610006) with v := (groupOf (beNat (beBytes 16 (Group.word ⟨true, 5, 0, 1, false, 0, [], [], [], 0, []⟩)))).1.v, job := (groupOf (beNat (beBytes 16 (Group.word ⟨true, 5, 0, 1, false, 0, [], [], [], 0, []⟩)))).1.job, members := (groupOf (beNat (beBytes 16 (Group.word ⟨true, 5, 0, 1, false, 0, [], [], [], 0, []⟩)))).1.members, rackMask := (groupOf (beNat (beBytes 16 (Group.word ⟨true, 5, 0, 1, false, 0, [], [], [], 0, []⟩)))).1.rackMask, lateness := (groupOf (beNat (beBytes 16 (Group.word ⟨true, 5, 0, 1, false, 0, [], [], [], 0, []⟩)))).1.lateness, firstSeq := (groupOf (beNat (beBytes 16 (Group.word ⟨true, 5, 0, 1, false, 0, [], [], [], 0, []⟩)))).1.firstSeq, base := if (groupOf (beNat (beBytes 16 (Group.word ⟨true, 5, 0, 1, false, 0, [], [], [], 0, []⟩)))).1.v && !(State.group ({ base with mod.slices := [(5, ⟨true, 1, true, true, 5, 1, 528, 0, []⟩)], mod.sh.regs := [(0x831002 * 65536 + 5, 0)], mod.groups := [(base.sel .mod hostA.ctx 0x610006, ⟨false, 5, 0, 0, false, 0, [], [], [], 0, []⟩)] }) (base.sel .mod hostA.ctx 0x610006)).v then (groupOf (beNat (beBytes 16 (Group.word ⟨true, 5, 0, 1, false, 0, [], [], [], 0, []⟩)))).1.firstSeq else (State.group ({ base with mod.slices := [(5, ⟨true, 1, true, true, 5, 1, 528, 0, []⟩)], mod.sh.regs := [(0x831002 * 65536 + 5, 0)], mod.groups := [(base.sel .mod hostA.ctx 0x610006, ⟨false, 5, 0, 0, false, 0, [], [], [], 0, []⟩)] }) (base.sel .mod hostA.ctx 0x610006)).base },
     rfl, by decide +kernel⟩,
   ⟨{ base with mod.slices := [(5, ⟨true, 1, true, true, 5, 1, 528, 0, []⟩)], mod.sh.regs := [(0x831002 * 65536 + 5, 0)], mod.groups := [(base.sel .mod hostA.ctx 0x610006, ⟨false, 5, 0, 0, false, 0, [3], [], [], 0, []⟩)] },
     hostA, [0#8, 3#8], base.sel .mod hostA.ctx 0x610006, by decide +kernel⟩,
   ⟨{ base with mod.slices := [(5, ⟨true, 1, true, true, 5, 1, 528, 0, []⟩)], mod.sh.regs := [(0x831002 * 65536 + 5, 0)], mod.groups := [(base.sel .mod hostA.ctx 0x610006, ⟨false, 5, 0, 0, false, 0, [3], [], [], 0, [(1, ⟨1, 1, 0, 0, 9, 0, 0, none, [], [], [], [], false, []⟩)]⟩)] },
     hostA, [0#8, 3#8], base.sel .mod hostA.ctx 0x610006, by decide +kernel⟩,
   ⟨{ base with mod.slices := [(5, ⟨true, 1, true, true, 5, 1, 528, 0, []⟩)], mod.sh.regs := [(0x831002 * 65536 + 5, 0)], mod.groups := [(base.sel .mod hostA.ctx 0x610006, ⟨false, 5, 0, 0, false, 0, [3], [], [], 0, []⟩)] },
     hostA, [0#8, 3#8, 0#8, 3#8], base.sel .mod hostA.ctx 0x610006, by decide +kernel⟩,
   ⟨{ base with mod.slices := [(5, ⟨true, 1, true, true, 5, 1, 528, 0, []⟩)], mod.sh.regs := [(0x831002 * 65536 + 5, 0)], mod.groups := [(base.sel .mod hostA.ctx 0x610006, ⟨true, 5, 0, 1, false, 0, [3], [(base.sel .mod hostA.ctx 0x610009, ⟨true, 0, 0, 2 ^ 16, 1⟩)], [], 0, []⟩)] },
     hostA, beBytes 16 (CContext.bits_ ⟨true, 3, 0, 0, 1⟩), base.sel .mod hostA.ctx 0x610006, base.sel .mod
     hostA.ctx 0x610009, contextOf (beNat (beBytes 16 (CContext.bits_ ⟨true, 3, 0, 0, 1⟩))), by decide +kernel⟩,
   ⟨{ base with mod.slices := [(5, ⟨true, 1, true, true, 5, 1, 528, 0, []⟩)], mod.sh.regs := [(0x831002 * 65536 + 5, 0)], mod.groups := [(base.sel .mod hostA.ctx 0x610006, ⟨true, 5, 0, 1, false, 0, [3], [(base.sel .mod hostA.ctx 0x610009, ⟨true, 0, 0, 2 ^ 16, 1⟩)], [], 0, [(1, ⟨1, 1, 0, 0, 9, 0, 0, none, [], [], [], [], false, []⟩)]⟩)] },
     hostA, beBytes 16 (CContext.bits_ ⟨true, 3, 0, 0, 1⟩), base.sel .mod hostA.ctx 0x610006, base.sel .mod
     hostA.ctx 0x610009, contextOf (beNat (beBytes 16 (CContext.bits_ ⟨true, 3, 0, 0, 1⟩))), by decide +kernel⟩,
   ⟨{ base with mod.slices := [(5, ⟨true, 1, true, true, 5, 1, 528, 0, []⟩)], mod.sh.regs := [(0x831002 * 65536 + 5, 0)], mod.groups := [(base.sel .mod hostA.ctx 0x610006, ⟨true, 5, 0, 1, false, 0, [3], [(base.sel .mod hostA.ctx 0x610009, ⟨true, 0, 0, 2 ^ 16, 1⟩)], [], 0, []⟩)] },
     hostA, beBytes 16 (CContext.bits_ ⟨true, 6, 0, 0, 1⟩), base.sel .mod hostA.ctx 0x610006, base.sel .mod
     hostA.ctx 0x610009, contextOf (beNat (beBytes 16 (CContext.bits_ ⟨true, 6, 0, 0, 1⟩))), by decide +kernel⟩,
   ⟨{ base with mod.slices := [(5, ⟨true, 1, true, true, 5, 1, 528, 0, []⟩)], mod.sh.regs := [(0x831002 * 65536 + 5, 0)], mod.groups := [(base.sel .mod hostA.ctx 0x610006, ⟨false, 5, 0, 0, false, 0, [3], [], [], 0, []⟩)] },
     hostA, List.replicate 192 0#8, base.sel .mod hostA.ctx 0x610006, base.sel .mod hostA.ctx 0x610009, by
     decide +kernel⟩,
   ⟨{ base with mod.slices := [(5, ⟨true, 1, true, true, 5, 1, 528, 0, []⟩)], mod.sh.regs := [(0x831002 * 65536 + 5, 0)], mod.groups := [(base.sel .mod hostA.ctx 0x610006, ⟨true, 5, 0, 1, false, 0, [3], [(base.sel .mod hostA.ctx 0x610009, ⟨true, 0, 0, 2 ^ 16, 1⟩)], [], 0, []⟩)] },
     hostA, List.replicate 192 1#8, base.sel .mod hostA.ctx 0x610006, base.sel .mod hostA.ctx 0x610009, by
     decide +kernel⟩,
   ⟨base, opA, List.replicate 16 0#8, base.sel .mod opA.ctx 0x620001, ⟨0, 0, 0, 0⟩, ⟨0, 0, 0, 0⟩, by
     decide +kernel⟩⟩

/-- A collective packet of Job 5 from node 7 to the module: group 1, sequence 9. -/
def coll5 (op phase : Nat) : Packet :=
  { Packet.zero with typ := 0x20 + op, job := 5, src := 7, dst := 512, group := 1, cseq := 9, phase := phase }

/-- A group of Job 5 whose one member is node 7, with one context of an operation. -/
def grp5 (op word base : Nat) (slots : Tab SeqSlot) : Group :=
  ⟨true, 5, 0, 1, false, 0, [7], [(0, ⟨true, op, 0, word, 1⟩)], [], base, slots⟩

def mod5 (g : Group) : State := { fab with mod.groups := [(1, g)] }

/-- What a state and a packet of a member give: the shape, the state with the slot open, the slot, and the piece after its
contribution. -/
def shp (s : State) (k : Packet) : Shape := (s.group 1).shape (s.heldContext k) ((s.heldSize k).getD k.size)
def opn (s : State) (k : Packet) (port : Nat) : State := (s.noted .mod k port).openSlot k.group k.cseq k.cctx
def slt (s : State) (k : Packet) (port : Nat) : SeqSlot :=
  ((opn s k port).seqSlot k.group k.cseq).getD ⟨0, 0, 0, 0, 0, 0, 0, none, [], [], [], [], false, []⟩
def tkn (s : State) (k : Packet) (port : Nat) : Piece :=
  ((slt s k port).piece k.piece).take (shp s k) false ((s.group 1).ranksIn (s.rack .mod)).length ((s.group 1).placeIn (s.rack .mod) 0) 0
    s.clock k.payload

/-- For each clause of CollectivePacketsOfMembers, a state and operands that meet its hypotheses. -/
theorem test_hyps_CollectivePacketsOfMembers :
    (∃ (s : State) (k : Packet) (port : Nat) (t : Bool) (c : Instr), (c = .probe k port t ∨ c = .contribution k
      port t ∨ c = .arrive k port t) ∧ s.fabricOff .mod = true) ∧
    (∃ (s : State) (k : Packet) (port : Nat) (t : Bool) (r : SrcRec) (c : Instr) (g : Group), (c = .probe k port t
      ∨ c = .contribution k port t ∨ c = .arrive k port t) ∧ FreshCollective s .mod k t r ∧ s.fabricOff .mod =
      false ∧ s.expired .mod (· == k) = none ∧ s.jobState .mod k.job = 1) ∧
    (∃ (s : State) (k : Packet) (port : Nat) (t : Bool) (r : SrcRec) (c : Instr) (g : Group), (c = .probe k port t
      ∨ c = .contribution k port t ∨ c = .arrive k port t) ∧ FreshCollective s .mod k t r ∧ s.fabricOff .mod =
      false ∧ s.expired .mod (· == k) = none ∧ s.jobState .mod k.job = 0 ∧ g = s.group k.group ∧ (g.v = false ∨
      g.job ≠ k.job)) ∧
    (∃ (s : State) (k : Packet) (port : Nat) (t : Bool) (r : SrcRec) (c : Instr) (g : Group), (c = .probe k port t
      ∨ c = .contribution k port t ∨ c = .arrive k port t) ∧ FreshCollective s .mod k t r ∧ CollectiveOf s k g ∧
      s.fabricOff .mod = false ∧ s.expired .mod (· == k) = none ∧ (k.phase ≠ 6 ∧ (g.ctx k.cctx).op ≠ k.typ - 0x20 ∨
      k.phase = 6 ∧ k.typ ≠ 0x20)) ∧
    (∃ (s : State) (k : Packet) (port : Nat) (t : Bool) (r : SrcRec) (c : Instr) (g : Group), (c = .probe k port t
      ∨ c = .contribution k port t ∨ c = .arrive k port t) ∧ FreshCollective s .mod k t r ∧ CollectiveOf s k g ∧
      s.fabricOff .mod = false ∧ s.expired .mod (· == k) = none ∧ (k.phase = 6 ∧ k.typ = 0x20 ∨ (k.phase = 0 ∨
      k.phase = 4) ∧ (g.ctx k.cctx).op = k.typ - 0x20) ∧ (k.srcRack ≠ s.rack .mod ∨ g.rankOf k.srcRack k.src =
      none)) ∧
    (∃ (s : State) (k : Packet) (port : Nat) (t : Bool) (r : SrcRec) (c : Instr) (g : Group), (c = .probe k port t
      ∨ c = .contribution k port t ∨ c = .arrive k port t) ∧ FreshCollective s .mod k t r ∧ CollectiveOf s k g ∧
      s.fabricOff .mod = false ∧ s.expired .mod (· == k) = none ∧ (k.phase = 6 ∧ k.typ = 0x20 ∨ (k.phase = 0 ∨
      k.phase = 4) ∧ (g.ctx k.cctx).op = k.typ - 0x20) ∧ k.srcRack = s.rack .mod ∧ g.rankOf k.srcRack k.src ≠ none
      ∧ s.phaseOk g (g.ctx k.cctx).op k.phase k.tree = false) ∧
    (∃ (s : State) (k : Packet) (port : Nat) (t : Bool) (r : SrcRec) (c : Instr) (g : Group) (sh : Shape) (rank
      form : Nat), (c = .probe k port t ∨ c = .contribution k port t ∨ c = .arrive k port t) ∧ FreshCollective s
      .mod k t r ∧ CollectiveOf s k g ∧ s.fabricOff .mod = false ∧ s.expired .mod (· == k) = none ∧ (k.phase = 6 ∧
      k.typ = 0x20 ∨ (k.phase = 0 ∨ k.phase = 4) ∧ (g.ctx k.cctx).op = k.typ - 0x20) ∧ k.srcRack = s.rack .mod ∧
      g.rankOf k.srcRack k.src = some rank ∧ s.phaseOk g (g.ctx k.cctx).op k.phase k.tree = true ∧ sh = g.shape
      (s.heldContext k) ((s.heldSize k).getD k.size) ∧ form = memberForm sh k (s.heldSize k) ∧ form = 1) ∧
    (∃ (s : State) (k : Packet) (port : Nat) (t : Bool) (r : SrcRec) (c : Instr) (g : Group) (sh : Shape) (rank
      form : Nat), (c = .probe k port t ∨ c = .contribution k port t ∨ c = .arrive k port t) ∧ FreshCollective s
      .mod k t r ∧ CollectiveOf s k g ∧ s.fabricOff .mod = false ∧ s.expired .mod (· == k) = none ∧ (k.phase = 6 ∧
      k.typ = 0x20 ∨ (k.phase = 0 ∨ k.phase = 4) ∧ (g.ctx k.cctx).op = k.typ - 0x20) ∧ k.srcRack = s.rack .mod ∧
      g.rankOf k.srcRack k.src = some rank ∧ s.phaseOk g (g.ctx k.cctx).op k.phase k.tree = true ∧ sh = g.shape
      (s.heldContext k) ((s.heldSize k).getD k.size) ∧ form = memberForm sh k (s.heldSize k) ∧ form = 2) ∧
    (∃ (s : State) (k : Packet) (port : Nat) (t : Bool) (r : SrcRec) (c : Instr) (g : Group) (sh : Shape) (rank
      form : Nat), (c = .probe k port t ∨ c = .contribution k port t ∨ c = .arrive k port t) ∧ FreshCollective s
      .mod k t r ∧ CollectiveOf s k g ∧ s.fabricOff .mod = false ∧ s.expired .mod (· == k) = none ∧ (k.phase = 6 ∧
      k.typ = 0x20 ∨ (k.phase = 0 ∨ k.phase = 4) ∧ (g.ctx k.cctx).op = k.typ - 0x20) ∧ k.srcRack = s.rack .mod ∧
      g.rankOf k.srcRack k.src = some rank ∧ s.phaseOk g (g.ctx k.cctx).op k.phase k.tree = true ∧ sh = g.shape
      (s.heldContext k) ((s.heldSize k).getD k.size) ∧ form = memberForm sh k (s.heldSize k) ∧ form = 0 ∧ g.place
      k.cseq = cHold) ∧
    (∃ (s : State) (k : Packet) (port : Nat) (t : Bool) (r : SrcRec) (c : Instr) (g : Group) (sh : Shape) (rank
      form : Nat), (c = .probe k port t ∨ c = .contribution k port t ∨ c = .arrive k port t) ∧ FreshCollective s
      .mod k t r ∧ CollectiveOf s k g ∧ s.fabricOff .mod = false ∧ s.expired .mod (· == k) = none ∧ (k.phase = 6 ∧
      k.typ = 0x20 ∨ (k.phase = 0 ∨ k.phase = 4) ∧ (g.ctx k.cctx).op = k.typ - 0x20) ∧ k.srcRack = s.rack .mod ∧
      g.rankOf k.srcRack k.src = some rank ∧ s.phaseOk g (g.ctx k.cctx).op k.phase k.tree = true ∧ sh = g.shape
      (s.heldContext k) ((s.heldSize k).getD k.size) ∧ form = memberForm sh k (s.heldSize k) ∧ form = 0 ∧ g.place
      k.cseq = cPoison) ∧
    (∃ (s : State) (k : Packet) (port : Nat) (t : Bool) (r : SrcRec) (c : Instr) (g : Group) (sh : Shape) (rank
      form : Nat) (u : State) (x : SeqSlot), (c = .probe k port t ∨ c = .contribution k port t ∨ c = .arrive k port
      t) ∧ FreshCollective s .mod k t r ∧ CollectiveOf s k g ∧ u = (s.noted .mod k port).openSlot k.group k.cseq
      k.cctx ∧ s.fabricOff .mod = false ∧ s.expired .mod (· == k) = none ∧ (k.phase = 6 ∧ k.typ = 0x20 ∨ (k.phase =
      0 ∨ k.phase = 4) ∧ (g.ctx k.cctx).op = k.typ - 0x20) ∧ k.srcRack = s.rack .mod ∧ g.rankOf k.srcRack k.src =
      some rank ∧ s.phaseOk g (g.ctx k.cctx).op k.phase k.tree = true ∧ sh = g.shape (s.heldContext k) ((s.heldSize
      k).getD k.size) ∧ form = memberForm sh k (s.heldSize k) ∧ form = 0 ∧ g.place k.cseq = cDone ∧ u.seqSlot
      k.group k.cseq = some x ∧ k.phase = 6) ∧
    (∃ (s : State) (k : Packet) (port : Nat) (t : Bool) (r : SrcRec) (c : Instr) (g : Group) (sh : Shape) (rank
      form : Nat) (u : State) (x : SeqSlot), (c = .probe k port t ∨ c = .contribution k port t ∨ c = .arrive k port
      t) ∧ FreshCollective s .mod k t r ∧ CollectiveOf s k g ∧ u = (s.noted .mod k port).openSlot k.group k.cseq
      k.cctx ∧ s.fabricOff .mod = false ∧ s.expired .mod (· == k) = none ∧ (k.phase = 6 ∧ k.typ = 0x20 ∨ (k.phase =
      0 ∨ k.phase = 4) ∧ (g.ctx k.cctx).op = k.typ - 0x20) ∧ k.srcRack = s.rack .mod ∧ g.rankOf k.srcRack k.src =
      some rank ∧ s.phaseOk g (g.ctx k.cctx).op k.phase k.tree = true ∧ sh = g.shape (s.heldContext k) ((s.heldSize
      k).getD k.size) ∧ form = memberForm sh k (s.heldSize k) ∧ form = 0 ∧ g.place k.cseq = cDone ∧ u.seqSlot
      k.group k.cseq = some x ∧ k.phase = 4) ∧
    (∃ (s : State) (k : Packet) (port : Nat) (t : Bool) (r : SrcRec) (c : Instr) (g : Group) (sh : Shape) (rank
      form : Nat) (u : State) (x : SeqSlot), (c = .probe k port t ∨ c = .contribution k port t ∨ c = .arrive k port
      t) ∧ FreshCollective s .mod k t r ∧ CollectiveOf s k g ∧ u = (s.noted .mod k port).openSlot k.group k.cseq
      k.cctx ∧ s.fabricOff .mod = false ∧ s.expired .mod (· == k) = none ∧ (k.phase = 6 ∧ k.typ = 0x20 ∨ (k.phase =
      0 ∨ k.phase = 4) ∧ (g.ctx k.cctx).op = k.typ - 0x20) ∧ k.srcRack = s.rack .mod ∧ g.rankOf k.srcRack k.src =
      some rank ∧ s.phaseOk g (g.ctx k.cctx).op k.phase k.tree = true ∧ sh = g.shape (s.heldContext k) ((s.heldSize
      k).getD k.size) ∧ form = memberForm sh k (s.heldSize k) ∧ form = 0 ∧ g.place k.cseq = cDone ∧ u.seqSlot
      k.group k.cseq = some x ∧ k.phase = 0 ∧ sh.op ≠ 5 ∧ x.state = 2 ∧ tabGet x.pieces k.piece = none) ∧
    (∃ (s : State) (k : Packet) (port : Nat) (t : Bool) (r : SrcRec) (c : Instr) (g : Group) (sh : Shape) (rank
      form : Nat) (u : State) (x : SeqSlot) (home n : Nat) (p p' : Piece) (v : State), (c = .probe k port t ∨ c =
      .contribution k port t ∨ c = .arrive k port t) ∧ FreshCollective s .mod k t r ∧ CollectiveOf s k g ∧ u =
      (s.noted .mod k port).openSlot k.group k.cseq k.cctx ∧ s.fabricOff .mod = false ∧ s.expired .mod (· == k) =
      none ∧ (k.phase = 6 ∧ k.typ = 0x20 ∨ (k.phase = 0 ∨ k.phase = 4) ∧ (g.ctx k.cctx).op = k.typ - 0x20) ∧
      k.srcRack = s.rack .mod ∧ g.rankOf k.srcRack k.src = some rank ∧ s.phaseOk g (g.ctx k.cctx).op k.phase k.tree
      = true ∧ sh = g.shape (s.heldContext k) ((s.heldSize k).getD k.size) ∧ form = memberForm sh k (s.heldSize k)
      ∧ form = 0 ∧ g.place k.cseq = cDone ∧ u.seqSlot k.group k.cseq = some x ∧ k.phase = 0 ∧ (x.state = 2 →
      (tabGet x.pieces k.piece).isSome = true ∨ sh.op = 5) ∧ home = x.home k.group k.piece ∧ p = x.piece k.piece ∧
      p' = p.take sh false (g.ranksIn (s.rack .mod)).length (g.placeIn (s.rack .mod) rank) rank s.clock k.payload ∧
      (n = (if sh.op = 0 ∨ sh.op = 4 then p'.cellsFor sh else p.cells)) ∧ sh.op = 5 ∧ g.table.length ≤ bits (beNat
      (k.payload.take 16)) 127 116) ∧
    (∃ (s : State) (k : Packet) (port : Nat) (t : Bool) (r : SrcRec) (c : Instr) (g : Group) (sh : Shape) (rank
      form : Nat) (u : State) (x : SeqSlot) (home n : Nat) (p p' : Piece) (v : State), (c = .probe k port t ∨ c =
      .contribution k port t ∨ c = .arrive k port t) ∧ FreshCollective s .mod k t r ∧ CollectiveOf s k g ∧ u =
      (s.noted .mod k port).openSlot k.group k.cseq k.cctx ∧ s.fabricOff .mod = false ∧ s.expired .mod (· == k) =
      none ∧ (k.phase = 6 ∧ k.typ = 0x20 ∨ (k.phase = 0 ∨ k.phase = 4) ∧ (g.ctx k.cctx).op = k.typ - 0x20) ∧
      k.srcRack = s.rack .mod ∧ g.rankOf k.srcRack k.src = some rank ∧ s.phaseOk g (g.ctx k.cctx).op k.phase k.tree
      = true ∧ sh = g.shape (s.heldContext k) ((s.heldSize k).getD k.size) ∧ form = memberForm sh k (s.heldSize k)
      ∧ form = 0 ∧ g.place k.cseq = cDone ∧ u.seqSlot k.group k.cseq = some x ∧ k.phase = 0 ∧ (x.state = 2 →
      (tabGet x.pieces k.piece).isSome = true ∨ sh.op = 5) ∧ home = x.home k.group k.piece ∧ p = x.piece k.piece ∧
      p' = p.take sh false (g.ranksIn (s.rack .mod)).length (g.placeIn (s.rack .mod) rank) rank s.clock k.payload ∧
      (n = (if sh.op = 0 ∨ sh.op = 4 then p'.cellsFor sh else p.cells)) ∧ sh.op = 5 ∧ bits (beNat (k.payload.take
      16)) 127 116 < g.table.length) ∧
    (∃ (s : State) (k : Packet) (port : Nat) (t : Bool) (r : SrcRec) (c : Instr) (g : Group) (sh : Shape) (rank
      form : Nat) (u : State) (x : SeqSlot) (home n : Nat) (p p' : Piece) (v : State), (c = .probe k port t ∨ c =
      .contribution k port t ∨ c = .arrive k port t) ∧ FreshCollective s .mod k t r ∧ CollectiveOf s k g ∧ u =
      (s.noted .mod k port).openSlot k.group k.cseq k.cctx ∧ s.fabricOff .mod = false ∧ s.expired .mod (· == k) =
      none ∧ (k.phase = 6 ∧ k.typ = 0x20 ∨ (k.phase = 0 ∨ k.phase = 4) ∧ (g.ctx k.cctx).op = k.typ - 0x20) ∧
      k.srcRack = s.rack .mod ∧ g.rankOf k.srcRack k.src = some rank ∧ s.phaseOk g (g.ctx k.cctx).op k.phase k.tree
      = true ∧ sh = g.shape (s.heldContext k) ((s.heldSize k).getD k.size) ∧ form = memberForm sh k (s.heldSize k)
      ∧ form = 0 ∧ g.place k.cseq = cDone ∧ u.seqSlot k.group k.cseq = some x ∧ k.phase = 0 ∧ (x.state = 2 →
      (tabGet x.pieces k.piece).isSome = true ∨ sh.op = 5) ∧ home = x.home k.group k.piece ∧ p = x.piece k.piece ∧
      p' = p.take sh false (g.ranksIn (s.rack .mod)).length (g.placeIn (s.rack .mod) rank) rank s.clock k.payload ∧
      (n = (if sh.op = 0 ∨ sh.op = 4 then p'.cellsFor sh else p.cells)) ∧ (sh.op = 0 ∨ sh.op = 4) ∧ home ≠
      tileOfPort port ∧ u.hasCells (tileOfPort port) k.wireLen = false) ∧
    (∃ (s : State) (k : Packet) (port : Nat) (t : Bool) (r : SrcRec) (c : Instr) (g : Group) (sh : Shape) (rank
      form : Nat) (u : State) (x : SeqSlot) (home n : Nat) (p p' : Piece) (v : State), (c = .probe k port t ∨ c =
      .contribution k port t ∨ c = .arrive k port t) ∧ FreshCollective s .mod k t r ∧ CollectiveOf s k g ∧ u =
      (s.noted .mod k port).openSlot k.group k.cseq k.cctx ∧ s.fabricOff .mod = false ∧ s.expired .mod (· == k) =
      none ∧ (k.phase = 6 ∧ k.typ = 0x20 ∨ (k.phase = 0 ∨ k.phase = 4) ∧ (g.ctx k.cctx).op = k.typ - 0x20) ∧
      k.srcRack = s.rack .mod ∧ g.rankOf k.srcRack k.src = some rank ∧ s.phaseOk g (g.ctx k.cctx).op k.phase k.tree
      = true ∧ sh = g.shape (s.heldContext k) ((s.heldSize k).getD k.size) ∧ form = memberForm sh k (s.heldSize k)
      ∧ form = 0 ∧ g.place k.cseq = cDone ∧ u.seqSlot k.group k.cseq = some x ∧ k.phase = 0 ∧ (x.state = 2 →
      (tabGet x.pieces k.piece).isSome = true ∨ sh.op = 5) ∧ home = x.home k.group k.piece ∧ p = x.piece k.piece ∧
      p' = p.take sh false (g.ranksIn (s.rack .mod)).length (g.placeIn (s.rack .mod) rank) rank s.clock k.payload ∧
      (n = (if sh.op = 0 ∨ sh.op = 4 then p'.cellsFor sh else p.cells)) ∧ (sh.op = 0 ∨ sh.op = 4) ∧ home ≠
      tileOfPort port ∧ u.hasCells (tileOfPort port) k.wireLen = true) ∧
    (∃ (s : State) (k : Packet) (port : Nat) (t : Bool) (r : SrcRec) (c : Instr) (g : Group) (sh : Shape) (rank
      form : Nat) (u : State) (x : SeqSlot) (home n : Nat) (p p' : Piece) (v : State), (c = .probe k port t ∨ c =
      .contribution k port t ∨ c = .arrive k port t) ∧ FreshCollective s .mod k t r ∧ CollectiveOf s k g ∧ u =
      (s.noted .mod k port).openSlot k.group k.cseq k.cctx ∧ s.fabricOff .mod = false ∧ s.expired .mod (· == k) =
      none ∧ (k.phase = 6 ∧ k.typ = 0x20 ∨ (k.phase = 0 ∨ k.phase = 4) ∧ (g.ctx k.cctx).op = k.typ - 0x20) ∧
      k.srcRack = s.rack .mod ∧ g.rankOf k.srcRack k.src = some rank ∧ s.phaseOk g (g.ctx k.cctx).op k.phase k.tree
      = true ∧ sh = g.shape (s.heldContext k) ((s.heldSize k).getD k.size) ∧ form = memberForm sh k (s.heldSize k)
      ∧ form = 0 ∧ g.place k.cseq = cDone ∧ u.seqSlot k.group k.cseq = some x ∧ k.phase = 0 ∧ (x.state = 2 →
      (tabGet x.pieces k.piece).isSome = true ∨ sh.op = 5) ∧ home = x.home k.group k.piece ∧ p = x.piece k.piece ∧
      p' = p.take sh false (g.ranksIn (s.rack .mod)).length (g.placeIn (s.rack .mod) rank) rank s.clock k.payload ∧
      (n = (if sh.op = 0 ∨ sh.op = 4 then p'.cellsFor sh else p.cells)) ∧ ((sh.op = 0 ∨ sh.op = 4) ∧ home =
      tileOfPort port ∨ sh.op = 1 ∨ sh.op = 2) ∧ (sh.op = 0 ∨ sh.op = 4) ∧ (u.tile home).inService = false) ∧
    (∃ (s : State) (k : Packet) (port : Nat) (t : Bool) (r : SrcRec) (c : Instr) (g : Group) (sh : Shape) (rank
      form : Nat) (u : State) (x : SeqSlot) (home n : Nat) (p p' : Piece) (v : State), (c = .probe k port t ∨ c =
      .contribution k port t ∨ c = .arrive k port t) ∧ FreshCollective s .mod k t r ∧ CollectiveOf s k g ∧ u =
      (s.noted .mod k port).openSlot k.group k.cseq k.cctx ∧ s.fabricOff .mod = false ∧ s.expired .mod (· == k) =
      none ∧ (k.phase = 6 ∧ k.typ = 0x20 ∨ (k.phase = 0 ∨ k.phase = 4) ∧ (g.ctx k.cctx).op = k.typ - 0x20) ∧
      k.srcRack = s.rack .mod ∧ g.rankOf k.srcRack k.src = some rank ∧ s.phaseOk g (g.ctx k.cctx).op k.phase k.tree
      = true ∧ sh = g.shape (s.heldContext k) ((s.heldSize k).getD k.size) ∧ form = memberForm sh k (s.heldSize k)
      ∧ form = 0 ∧ g.place k.cseq = cDone ∧ u.seqSlot k.group k.cseq = some x ∧ k.phase = 0 ∧ (x.state = 2 →
      (tabGet x.pieces k.piece).isSome = true ∨ sh.op = 5) ∧ home = x.home k.group k.piece ∧ p = x.piece k.piece ∧
      p' = p.take sh false (g.ranksIn (s.rack .mod)).length (g.placeIn (s.rack .mod) rank) rank s.clock k.payload ∧
      (n = (if sh.op = 0 ∨ sh.op = 4 then p'.cellsFor sh else p.cells)) ∧ ((sh.op = 0 ∨ sh.op = 4) ∧ home =
      tileOfPort port ∨ sh.op = 1 ∨ sh.op = 2) ∧ ((sh.op = 0 ∨ sh.op = 4) → (u.tile home).inService = true) ∧
      x.poisoned.contains (k.piece / 2 ^ sh.order) = true) ∧
    (∃ (s : State) (k : Packet) (port : Nat) (t : Bool) (r : SrcRec) (c : Instr) (g : Group) (sh : Shape) (rank
      form : Nat) (u : State) (x : SeqSlot) (home n : Nat) (p p' : Piece) (v : State), (c = .probe k port t ∨ c =
      .contribution k port t ∨ c = .arrive k port t) ∧ FreshCollective s .mod k t r ∧ CollectiveOf s k g ∧ u =
      (s.noted .mod k port).openSlot k.group k.cseq k.cctx ∧ s.fabricOff .mod = false ∧ s.expired .mod (· == k) =
      none ∧ (k.phase = 6 ∧ k.typ = 0x20 ∨ (k.phase = 0 ∨ k.phase = 4) ∧ (g.ctx k.cctx).op = k.typ - 0x20) ∧
      k.srcRack = s.rack .mod ∧ g.rankOf k.srcRack k.src = some rank ∧ s.phaseOk g (g.ctx k.cctx).op k.phase k.tree
      = true ∧ sh = g.shape (s.heldContext k) ((s.heldSize k).getD k.size) ∧ form = memberForm sh k (s.heldSize k)
      ∧ form = 0 ∧ g.place k.cseq = cDone ∧ u.seqSlot k.group k.cseq = some x ∧ k.phase = 0 ∧ (x.state = 2 →
      (tabGet x.pieces k.piece).isSome = true ∨ sh.op = 5) ∧ home = x.home k.group k.piece ∧ p = x.piece k.piece ∧
      p' = p.take sh false (g.ranksIn (s.rack .mod)).length (g.placeIn (s.rack .mod) rank) rank s.clock k.payload ∧
      (n = (if sh.op = 0 ∨ sh.op = 4 then p'.cellsFor sh else p.cells)) ∧ ((sh.op = 0 ∨ sh.op = 4) ∧ home =
      tileOfPort port ∨ sh.op = 1 ∨ sh.op = 2) ∧ ((sh.op = 0 ∨ sh.op = 4) → (u.tile home).inService = true) ∧
      x.poisoned.contains (k.piece / 2 ^ sh.order) = false ∧ p.ranks.contains rank = true) ∧
    (∃ (s : State) (k : Packet) (port : Nat) (t : Bool) (r : SrcRec) (c : Instr) (g : Group) (sh : Shape) (rank
      form : Nat) (u : State) (x : SeqSlot) (home n : Nat) (p p' : Piece) (v : State), (c = .probe k port t ∨ c =
      .contribution k port t ∨ c = .arrive k port t) ∧ FreshCollective s .mod k t r ∧ CollectiveOf s k g ∧ u =
      (s.noted .mod k port).openSlot k.group k.cseq k.cctx ∧ s.fabricOff .mod = false ∧ s.expired .mod (· == k) =
      none ∧ (k.phase = 6 ∧ k.typ = 0x20 ∨ (k.phase = 0 ∨ k.phase = 4) ∧ (g.ctx k.cctx).op = k.typ - 0x20) ∧
      k.srcRack = s.rack .mod ∧ g.rankOf k.srcRack k.src = some rank ∧ s.phaseOk g (g.ctx k.cctx).op k.phase k.tree
      = true ∧ sh = g.shape (s.heldContext k) ((s.heldSize k).getD k.size) ∧ form = memberForm sh k (s.heldSize k)
      ∧ form = 0 ∧ g.place k.cseq = cDone ∧ u.seqSlot k.group k.cseq = some x ∧ k.phase = 0 ∧ (x.state = 2 →
      (tabGet x.pieces k.piece).isSome = true ∨ sh.op = 5) ∧ home = x.home k.group k.piece ∧ p = x.piece k.piece ∧
      p' = p.take sh false (g.ranksIn (s.rack .mod)).length (g.placeIn (s.rack .mod) rank) rank s.clock k.payload ∧
      (n = (if sh.op = 0 ∨ sh.op = 4 then p'.cellsFor sh else p.cells)) ∧ ((sh.op = 0 ∨ sh.op = 4) ∧ home =
      tileOfPort port ∨ sh.op = 1 ∨ sh.op = 2) ∧ ((sh.op = 0 ∨ sh.op = 4) → (u.tile home).inService = true) ∧
      x.poisoned.contains (k.piece / 2 ^ sh.order) = false ∧ p.ranks.contains rank = false ∧ (p.done = true ∨
      (sh.op = 1 ∨ sh.op = 2) ∧ p.ranks ≠ [])) ∧
    (∃ (s : State) (k : Packet) (port : Nat) (t : Bool) (r : SrcRec) (c : Instr) (g : Group) (sh : Shape) (rank
      form : Nat) (u : State) (x : SeqSlot) (home n : Nat) (p p' : Piece) (v : State), (c = .probe k port t ∨ c =
      .contribution k port t ∨ c = .arrive k port t) ∧ FreshCollective s .mod k t r ∧ CollectiveOf s k g ∧ u =
      (s.noted .mod k port).openSlot k.group k.cseq k.cctx ∧ s.fabricOff .mod = false ∧ s.expired .mod (· == k) =
      none ∧ (k.phase = 6 ∧ k.typ = 0x20 ∨ (k.phase = 0 ∨ k.phase = 4) ∧ (g.ctx k.cctx).op = k.typ - 0x20) ∧
      k.srcRack = s.rack .mod ∧ g.rankOf k.srcRack k.src = some rank ∧ s.phaseOk g (g.ctx k.cctx).op k.phase k.tree
      = true ∧ sh = g.shape (s.heldContext k) ((s.heldSize k).getD k.size) ∧ form = memberForm sh k (s.heldSize k)
      ∧ form = 0 ∧ g.place k.cseq = cDone ∧ u.seqSlot k.group k.cseq = some x ∧ k.phase = 0 ∧ (x.state = 2 →
      (tabGet x.pieces k.piece).isSome = true ∨ sh.op = 5) ∧ home = x.home k.group k.piece ∧ p = x.piece k.piece ∧
      p' = p.take sh false (g.ranksIn (s.rack .mod)).length (g.placeIn (s.rack .mod) rank) rank s.clock k.payload ∧
      (n = (if sh.op = 0 ∨ sh.op = 4 then p'.cellsFor sh else p.cells)) ∧ ((sh.op = 0 ∨ sh.op = 4) ∧ home =
      tileOfPort port ∨ sh.op = 1 ∨ sh.op = 2) ∧ ((sh.op = 0 ∨ sh.op = 4) → (u.tile home).inService = true) ∧
      x.poisoned.contains (k.piece / 2 ^ sh.order) = false ∧ p.ranks.contains rank = false ∧ p.done = false ∧
      ((sh.op = 1 ∨ sh.op = 2) → p.ranks = []) ∧ p.cells < n ∧ u.takeCells home (n - p.cells) (k.group, k.cseq,
      k.piece) 4096 = none) ∧
    (∃ (s : State) (k : Packet) (port : Nat) (t : Bool) (r : SrcRec) (c : Instr) (g : Group) (sh : Shape) (rank
      form : Nat) (u : State) (x : SeqSlot) (home n : Nat) (p p' : Piece) (v : State), (c = .probe k port t ∨ c =
      .contribution k port t ∨ c = .arrive k port t) ∧ FreshCollective s .mod k t r ∧ CollectiveOf s k g ∧ u =
      (s.noted .mod k port).openSlot k.group k.cseq k.cctx ∧ (n ≤ p.cells ∧ v = u ∨ p.cells < n ∧ ∃ v0, u.takeCells
      home (n - p.cells) (k.group, k.cseq, k.piece) 4096 = some v0 ∧ v = v0.modTile home fun y =>
      { y with windUsed := y.windUsed - (n - p.cells) }) ∧ s.fabricOff .mod = false ∧ s.expired .mod (· == k) =
      none ∧ (k.phase = 6 ∧ k.typ = 0x20 ∨ (k.phase = 0 ∨ k.phase = 4) ∧ (g.ctx k.cctx).op = k.typ - 0x20) ∧
      k.srcRack = s.rack .mod ∧ g.rankOf k.srcRack k.src = some rank ∧ s.phaseOk g (g.ctx k.cctx).op k.phase k.tree
      = true ∧ sh = g.shape (s.heldContext k) ((s.heldSize k).getD k.size) ∧ form = memberForm sh k (s.heldSize k)
      ∧ form = 0 ∧ g.place k.cseq = cDone ∧ u.seqSlot k.group k.cseq = some x ∧ k.phase = 0 ∧ (x.state = 2 →
      (tabGet x.pieces k.piece).isSome = true ∨ sh.op = 5) ∧ home = x.home k.group k.piece ∧ p = x.piece k.piece ∧
      p' = p.take sh false (g.ranksIn (s.rack .mod)).length (g.placeIn (s.rack .mod) rank) rank s.clock k.payload ∧
      (n = (if sh.op = 0 ∨ sh.op = 4 then p'.cellsFor sh else p.cells)) ∧ ((sh.op = 0 ∨ sh.op = 4) ∧ home =
      tileOfPort port ∨ sh.op = 1 ∨ sh.op = 2) ∧ ((sh.op = 0 ∨ sh.op = 4) → (u.tile home).inService = true) ∧
      x.poisoned.contains (k.piece / 2 ^ sh.order) = false ∧ p.ranks.contains rank = false ∧ p.done = false ∧
      ((sh.op = 1 ∨ sh.op = 2) → p.ranks = []) ∧ (sh.op = 0 ∨ sh.op = 4)) ∧
    (∃ (s : State) (k : Packet) (port : Nat) (t : Bool) (r : SrcRec) (c : Instr) (g : Group) (sh : Shape) (rank
      form : Nat) (u : State) (x : SeqSlot) (home n : Nat) (p p' : Piece) (v : State), (c = .probe k port t ∨ c =
      .contribution k port t ∨ c = .arrive k port t) ∧ FreshCollective s .mod k t r ∧ CollectiveOf s k g ∧ u =
      (s.noted .mod k port).openSlot k.group k.cseq k.cctx ∧ (n ≤ p.cells ∧ v = u ∨ p.cells < n ∧ ∃ v0, u.takeCells
      home (n - p.cells) (k.group, k.cseq, k.piece) 4096 = some v0 ∧ v = v0.modTile home fun y =>
      { y with windUsed := y.windUsed - (n - p.cells) }) ∧ s.fabricOff .mod = false ∧ s.expired .mod (· == k) =
      none ∧ (k.phase = 6 ∧ k.typ = 0x20 ∨ (k.phase = 0 ∨ k.phase = 4) ∧ (g.ctx k.cctx).op = k.typ - 0x20) ∧
      k.srcRack = s.rack .mod ∧ g.rankOf k.srcRack k.src = some rank ∧ s.phaseOk g (g.ctx k.cctx).op k.phase k.tree
      = true ∧ sh = g.shape (s.heldContext k) ((s.heldSize k).getD k.size) ∧ form = memberForm sh k (s.heldSize k)
      ∧ form = 0 ∧ g.place k.cseq = cDone ∧ u.seqSlot k.group k.cseq = some x ∧ k.phase = 0 ∧ (x.state = 2 →
      (tabGet x.pieces k.piece).isSome = true ∨ sh.op = 5) ∧ home = x.home k.group k.piece ∧ p = x.piece k.piece ∧
      p' = p.take sh false (g.ranksIn (s.rack .mod)).length (g.placeIn (s.rack .mod) rank) rank s.clock k.payload ∧
      (n = (if sh.op = 0 ∨ sh.op = 4 then p'.cellsFor sh else p.cells)) ∧ ((sh.op = 0 ∨ sh.op = 4) ∧ home =
      tileOfPort port ∨ sh.op = 1 ∨ sh.op = 2) ∧ ((sh.op = 0 ∨ sh.op = 4) → (u.tile home).inService = true) ∧
      x.poisoned.contains (k.piece / 2 ^ sh.order) = false ∧ p.ranks.contains rank = false ∧ p.done = false ∧
      ((sh.op = 1 ∨ sh.op = 2) → p.ranks = []) ∧ (sh.op = 1 ∨ sh.op = 2)) ∧
    (∃ (p : Piece) (sh : Shape) (n at_ rank now : Nat) (b : List Byte) (q : Piece), q =
      { p with ranks := p.ranks ++ [rank], touched := now } ∧ (sh.op = 1 ∨ sh.op = 2)) ∧
    (∃ (p : Piece) (sh : Shape) (n at_ rank now : Nat) (b : List Byte) (q : Piece), q =
      { p with ranks := p.ranks ++ [rank], touched := now } ∧ sh.op = 0 ∧ (aword sh.word).mode = 0 ∧ p.spilled =
      false) ∧
    (∃ (p : Piece) (sh : Shape) (n at_ rank now : Nat) (b : List Byte) (q : Piece), q =
      { p with ranks := p.ranks ++ [rank], touched := now } ∧ sh.op = 0 ∧ (aword sh.word).mode = 0 ∧ p.spilled =
      true) ∧
    (∃ (p : Piece) (sh : Shape) (n at_ rank now : Nat) (b : List Byte) (q : Piece), q =
      { p with ranks := p.ranks ++ [rank], touched := now } ∧ sh.op = 0 ∧ (aword sh.word).mode ≠ 0 ∧ p.spilled =
      false) ∧
    (∃ (p : Piece) (sh : Shape) (n at_ rank now : Nat) (b : List Byte) (q : Piece), q =
      { p with ranks := p.ranks ++ [rank], touched := now } ∧ sh.op = 0 ∧ (aword sh.word).mode ≠ 0 ∧ p.spilled =
      true) ∧
    (∃ (p : Piece) (sh : Shape) (n at_ rank now : Nat) (b : List Byte) (q : Piece), q =
      { p with ranks := p.ranks ++ [rank], touched := now } ∧ sh.op = 4 ∧ p.spilled = false) ∧
    (∃ (p : Piece) (sh : Shape) (n at_ rank now : Nat) (b : List Byte) (q : Piece), q =
      { p with ranks := p.ranks ++ [rank], touched := now } ∧ sh.op = 4 ∧ p.spilled = true) :=
  ⟨⟨{ base with mod.ve.fenced := true }, coll5 0 6, 0, false, .probe (coll5 0 6) 0 false, .inl rfl, by
     decide +kernel⟩,
   ⟨{ mod5 (grp5 0 0 9 []) with mod.slices := [] }, coll5 0 6, 0, true, rec5, .probe (coll5 0 6) 0 true, grp5 0 0 9
     [], .inl rfl, freshc_of (by decide +kernel), by decide +kernel⟩,
   ⟨mod5 (grp5 0 0 9 []), { coll5 0 6 with group := 2 }, 0, true, rec5, .probe ({ coll5 0 6 with group := 2 }) 0
     true, (mod5 (grp5 0 0 9 [])).group 2, .inl rfl, freshc_of (by decide +kernel), by decide +kernel⟩,
   ⟨mod5 (grp5 0 0 9 []), coll5 1 0, 0, true, rec5, .probe (coll5 1 0) 0 true, grp5 0 0 9 [], .inl rfl, freshc_of
     (by decide +kernel), coll_of (by decide +kernel) (by decide +kernel) (by decide +kernel), by decide +kernel⟩,
   ⟨{ mod5 (grp5 0 0 9 []) with mod.sh.recv.recs := [{ rec5 with src := 8 }] },
     { coll5 0 0 with srcRack := 0, src := 8 }, 0, true, { rec5 with src := 8 }, .probe
     ({ coll5 0 0 with srcRack := 0, src := 8 }) 0 true, grp5 0 0 9 [], .inl rfl, freshc_of (by decide +kernel),
     coll_of (by decide +kernel) (by decide +kernel) (by decide +kernel), by decide +kernel⟩,
   ⟨mod5 (grp5 3 0 9 []), coll5 3 0, 0, true, rec5, .contribution (coll5 3 0) 0 true, grp5 3 0 9 [], .inr (.inl
     rfl), freshc_of (by decide +kernel), coll_of (by decide +kernel) (by decide +kernel) (by decide +kernel), by
     decide +kernel⟩,
   ⟨mod5 (grp5 0 0 9 []), { coll5 0 0 with len := 8, payload := List.replicate 8 0#8, size := 1, piece := 5 }, 0,
     true, rec5, .contribution
     ({ coll5 0 0 with len := 8, payload := List.replicate 8 0#8, size := 1, piece := 5 }) 0 true, grp5 0 0 9 [],
     shp (mod5 (grp5 0 0 9 []))
     ({ coll5 0 0 with len := 8, payload := List.replicate 8 0#8, size := 1, piece := 5 }), 0, 1, .inr (.inl rfl),
     freshc_of (by decide +kernel), coll_of (by decide +kernel) (by decide +kernel) (by decide +kernel), by
     decide +kernel⟩,
   ⟨mod5 (grp5 0 0 9 []), { coll5 0 0 with len := 7, payload := List.replicate 7 0#8, size := 1 }, 0, true, rec5,
     .contribution ({ coll5 0 0 with len := 7, payload := List.replicate 7 0#8, size := 1 }) 0 true, grp5 0 0 9 [],
     shp (mod5 (grp5 0 0 9 [])) ({ coll5 0 0 with len := 7, payload := List.replicate 7 0#8, size := 1 }), 0, 2,
     .inr (.inl rfl), freshc_of (by decide +kernel), coll_of (by decide +kernel) (by decide +kernel) (by
     decide +kernel), by decide +kernel⟩,
   ⟨mod5 (grp5 0 0 5 []), coll5 0 6, 0, true, rec5, .probe (coll5 0 6) 0 true, grp5 0 0 5 [], shp (mod5 (grp5 0 0 5
     [])) (coll5 0 6), 0, 0, .inl rfl, freshc_of (by decide +kernel), coll_of (by decide +kernel) (by
     decide +kernel) (by decide +kernel), by decide +kernel⟩,
   ⟨mod5 (grp5 0 0 10 []), coll5 0 6, 0, true, rec5, .probe (coll5 0 6) 0 true, grp5 0 0 10 [], shp (mod5 (grp5 0 0
     10 [])) (coll5 0 6), 0, 0, .inl rfl, freshc_of (by decide +kernel), coll_of (by decide +kernel) (by
     decide +kernel) (by decide +kernel), by decide +kernel⟩,
   ⟨mod5 (grp5 0 0 9 []), coll5 0 6, 0, true, rec5, .probe (coll5 0 6) 0 true, grp5 0 0 9 [], shp (mod5 (grp5 0 0 9
     [])) (coll5 0 6), 0, 0, opn (mod5 (grp5 0 0 9 [])) (coll5 0 6) 0, slt (mod5 (grp5 0 0 9 [])) (coll5 0 6) 0,
     .inl rfl, freshc_of (by decide +kernel), coll_of (by decide +kernel) (by decide +kernel) (by decide +kernel),
     rfl, by decide +kernel⟩,
   ⟨mod5 (grp5 3 0 9 []), coll5 3 4, 0, true, rec5, .arrive (coll5 3 4) 0 true, grp5 3 0 9 [], shp (mod5 (grp5 3 0
     9 [])) (coll5 3 4), 0, 0, opn (mod5 (grp5 3 0 9 [])) (coll5 3 4) 0, slt (mod5 (grp5 3 0 9 [])) (coll5 3 4) 0,
     .inr (.inr rfl), freshc_of (by decide +kernel), coll_of (by decide +kernel) (by decide +kernel) (by
     decide +kernel), rfl, by decide +kernel⟩,
   ⟨mod5 (grp5 0 0 9 [(1, ⟨2, 9, 0, 0, 16000000, 500000, 8, none, List.range 64, [], [], [], false, []⟩)]),
     { coll5 0 0 with len := 8, payload := List.replicate 8 0#8, size := 1 }, 0, true, rec5, .contribution
     ({ coll5 0 0 with len := 8, payload := List.replicate 8 0#8, size := 1 }) 0 true, grp5 0 0 9 [(1, ⟨2, 9, 0, 0,
     16000000, 500000, 8, none, List.range 64, [], [], [], false, []⟩)], shp (mod5 (grp5 0 0 9 [(1, ⟨2, 9, 0, 0,
     16000000, 500000, 8, none, List.range 64, [], [], [], false, []⟩)]))
     ({ coll5 0 0 with len := 8, payload := List.replicate 8 0#8, size := 1 }), 0, 0, opn (mod5 (grp5 0 0 9 [(1,
     ⟨2, 9, 0, 0, 16000000, 500000, 8, none, List.range 64, [], [], [], false, []⟩)]))
     ({ coll5 0 0 with len := 8, payload := List.replicate 8 0#8, size := 1 }) 0, slt (mod5 (grp5 0 0 9 [(1, ⟨2, 9,
     0, 0, 16000000, 500000, 8, none, List.range 64, [], [], [], false, []⟩)]))
     ({ coll5 0 0 with len := 8, payload := List.replicate 8 0#8, size := 1 }) 0, .inr (.inl rfl), freshc_of (by
     decide +kernel), coll_of (by decide +kernel) (by decide +kernel) (by decide +kernel), rfl, by decide +kernel⟩,
   ⟨mod5 (grp5 5 0 9 []), { coll5 5 0 with len := 16, payload := 0#8 :: 16#8 :: List.replicate 14 0#8, size := 1 },
     0, true, rec5, .contribution
     ({ coll5 5 0 with len := 16, payload := 0#8 :: 16#8 :: List.replicate 14 0#8, size := 1 }) 0 true, grp5 5 0 9
     [], shp (mod5 (grp5 5 0 9 []))
     ({ coll5 5 0 with len := 16, payload := 0#8 :: 16#8 :: List.replicate 14 0#8, size := 1 }), 0, 0, opn (mod5
     (grp5 5 0 9 [])) ({ coll5 5 0 with len := 16, payload := 0#8 :: 16#8 :: List.replicate 14 0#8, size := 1 }) 0,
     slt (mod5 (grp5 5 0 9 []))
     ({ coll5 5 0 with len := 16, payload := 0#8 :: 16#8 :: List.replicate 14 0#8, size := 1 }) 0, 1, (if (shp
     (mod5 (grp5 5 0 9 []))
     ({ coll5 5 0 with len := 16, payload := 0#8 :: 16#8 :: List.replicate 14 0#8, size := 1 })).op = 0 ∨ (shp
     (mod5 (grp5 5 0 9 []))
     ({ coll5 5 0 with len := 16, payload := 0#8 :: 16#8 :: List.replicate 14 0#8, size := 1 })).op = 4 then (tkn
     (mod5 (grp5 5 0 9 []))
     ({ coll5 5 0 with len := 16, payload := 0#8 :: 16#8 :: List.replicate 14 0#8, size := 1 }) 0).cellsFor (shp
     (mod5 (grp5 5 0 9 []))
     ({ coll5 5 0 with len := 16, payload := 0#8 :: 16#8 :: List.replicate 14 0#8, size := 1 })) else ((slt (mod5
     (grp5 5 0 9 [])) ({ coll5 5 0 with len := 16, payload := 0#8 :: 16#8 :: List.replicate 14 0#8, size := 1 })
     0).piece (Packet.piece
     ({ coll5 5 0 with len := 16, payload := 0#8 :: 16#8 :: List.replicate 14 0#8, size := 1 }))).cells), (slt
     (mod5 (grp5 5 0 9 []))
     ({ coll5 5 0 with len := 16, payload := 0#8 :: 16#8 :: List.replicate 14 0#8, size := 1 }) 0).piece
     (Packet.piece ({ coll5 5 0 with len := 16, payload := 0#8 :: 16#8 :: List.replicate 14 0#8, size := 1 })), tkn
     (mod5 (grp5 5 0 9 []))
     ({ coll5 5 0 with len := 16, payload := 0#8 :: 16#8 :: List.replicate 14 0#8, size := 1 }) 0, opn (mod5 (grp5
     5 0 9 [])) ({ coll5 5 0 with len := 16, payload := 0#8 :: 16#8 :: List.replicate 14 0#8, size := 1 }) 0, .inr
     (.inl rfl), freshc_of (by decide +kernel), coll_of (by decide +kernel) (by decide +kernel) (by
     decide +kernel), rfl, by decide +kernel⟩,
   ⟨mod5 (grp5 5 0 9 []), { coll5 5 0 with len := 16, payload := List.replicate 16 0#8, size := 1 }, 0, true, rec5,
     .contribution ({ coll5 5 0 with len := 16, payload := List.replicate 16 0#8, size := 1 }) 0 true, grp5 5 0 9
     [], shp (mod5 (grp5 5 0 9 [])) ({ coll5 5 0 with len := 16, payload := List.replicate 16 0#8, size := 1 }), 0,
     0, opn (mod5 (grp5 5 0 9 [])) ({ coll5 5 0 with len := 16, payload := List.replicate 16 0#8, size := 1 }) 0,
     slt (mod5 (grp5 5 0 9 [])) ({ coll5 5 0 with len := 16, payload := List.replicate 16 0#8, size := 1 }) 0, 1,
     (if (shp (mod5 (grp5 5 0 9 []))
     ({ coll5 5 0 with len := 16, payload := List.replicate 16 0#8, size := 1 })).op = 0 ∨ (shp (mod5 (grp5 5 0 9
     [])) ({ coll5 5 0 with len := 16, payload := List.replicate 16 0#8, size := 1 })).op = 4 then (tkn (mod5 (grp5
     5 0 9 [])) ({ coll5 5 0 with len := 16, payload := List.replicate 16 0#8, size := 1 }) 0).cellsFor (shp (mod5
     (grp5 5 0 9 [])) ({ coll5 5 0 with len := 16, payload := List.replicate 16 0#8, size := 1 })) else ((slt (mod5
     (grp5 5 0 9 [])) ({ coll5 5 0 with len := 16, payload := List.replicate 16 0#8, size := 1 }) 0).piece
     (Packet.piece ({ coll5 5 0 with len := 16, payload := List.replicate 16 0#8, size := 1 }))).cells), (slt (mod5
     (grp5 5 0 9 [])) ({ coll5 5 0 with len := 16, payload := List.replicate 16 0#8, size := 1 }) 0).piece
     (Packet.piece ({ coll5 5 0 with len := 16, payload := List.replicate 16 0#8, size := 1 })), tkn (mod5 (grp5 5
     0 9 [])) ({ coll5 5 0 with len := 16, payload := List.replicate 16 0#8, size := 1 }) 0, opn (mod5 (grp5 5 0 9
     [])) ({ coll5 5 0 with len := 16, payload := List.replicate 16 0#8, size := 1 }) 0, .inr (.inl rfl), freshc_of
     (by decide +kernel), coll_of (by decide +kernel) (by decide +kernel) (by decide +kernel), rfl, by
     decide +kernel⟩,
   ⟨{ mod5 (grp5 0 0 9 []) with mod.tiles := [(0, ⟨true, false, 30000, 0, 0, 0, false⟩)] },
     { coll5 0 0 with len := 8, payload := List.replicate 8 0#8, size := 1 }, 0, true, rec5, .contribution
     ({ coll5 0 0 with len := 8, payload := List.replicate 8 0#8, size := 1 }) 0 true, grp5 0 0 9 [], shp
     ({ mod5 (grp5 0 0 9 []) with mod.tiles := [(0, ⟨true, false, 30000, 0, 0, 0, false⟩)] })
     ({ coll5 0 0 with len := 8, payload := List.replicate 8 0#8, size := 1 }), 0, 0, opn
     ({ mod5 (grp5 0 0 9 []) with mod.tiles := [(0, ⟨true, false, 30000, 0, 0, 0, false⟩)] })
     ({ coll5 0 0 with len := 8, payload := List.replicate 8 0#8, size := 1 }) 0, slt
     ({ mod5 (grp5 0 0 9 []) with mod.tiles := [(0, ⟨true, false, 30000, 0, 0, 0, false⟩)] })
     ({ coll5 0 0 with len := 8, payload := List.replicate 8 0#8, size := 1 }) 0, 1, (if (shp
     ({ mod5 (grp5 0 0 9 []) with mod.tiles := [(0, ⟨true, false, 30000, 0, 0, 0, false⟩)] })
     ({ coll5 0 0 with len := 8, payload := List.replicate 8 0#8, size := 1 })).op = 0 ∨ (shp
     ({ mod5 (grp5 0 0 9 []) with mod.tiles := [(0, ⟨true, false, 30000, 0, 0, 0, false⟩)] })
     ({ coll5 0 0 with len := 8, payload := List.replicate 8 0#8, size := 1 })).op = 4 then (tkn
     ({ mod5 (grp5 0 0 9 []) with mod.tiles := [(0, ⟨true, false, 30000, 0, 0, 0, false⟩)] })
     ({ coll5 0 0 with len := 8, payload := List.replicate 8 0#8, size := 1 }) 0).cellsFor (shp
     ({ mod5 (grp5 0 0 9 []) with mod.tiles := [(0, ⟨true, false, 30000, 0, 0, 0, false⟩)] })
     ({ coll5 0 0 with len := 8, payload := List.replicate 8 0#8, size := 1 })) else ((slt
     ({ mod5 (grp5 0 0 9 []) with mod.tiles := [(0, ⟨true, false, 30000, 0, 0, 0, false⟩)] })
     ({ coll5 0 0 with len := 8, payload := List.replicate 8 0#8, size := 1 }) 0).piece (Packet.piece
     ({ coll5 0 0 with len := 8, payload := List.replicate 8 0#8, size := 1 }))).cells), (slt
     ({ mod5 (grp5 0 0 9 []) with mod.tiles := [(0, ⟨true, false, 30000, 0, 0, 0, false⟩)] })
     ({ coll5 0 0 with len := 8, payload := List.replicate 8 0#8, size := 1 }) 0).piece (Packet.piece
     ({ coll5 0 0 with len := 8, payload := List.replicate 8 0#8, size := 1 })), tkn
     ({ mod5 (grp5 0 0 9 []) with mod.tiles := [(0, ⟨true, false, 30000, 0, 0, 0, false⟩)] })
     ({ coll5 0 0 with len := 8, payload := List.replicate 8 0#8, size := 1 }) 0, opn
     ({ mod5 (grp5 0 0 9 []) with mod.tiles := [(0, ⟨true, false, 30000, 0, 0, 0, false⟩)] })
     ({ coll5 0 0 with len := 8, payload := List.replicate 8 0#8, size := 1 }) 0, .inr (.inl rfl), freshc_of (by
     decide +kernel), coll_of (by decide +kernel) (by decide +kernel) (by decide +kernel), rfl, by decide +kernel⟩,
   ⟨mod5 (grp5 0 0 9 []), { coll5 0 0 with len := 8, payload := List.replicate 8 0#8, size := 1 }, 0, true, rec5,
     .contribution ({ coll5 0 0 with len := 8, payload := List.replicate 8 0#8, size := 1 }) 0 true, grp5 0 0 9 [],
     shp (mod5 (grp5 0 0 9 [])) ({ coll5 0 0 with len := 8, payload := List.replicate 8 0#8, size := 1 }), 0, 0,
     opn (mod5 (grp5 0 0 9 [])) ({ coll5 0 0 with len := 8, payload := List.replicate 8 0#8, size := 1 }) 0, slt
     (mod5 (grp5 0 0 9 [])) ({ coll5 0 0 with len := 8, payload := List.replicate 8 0#8, size := 1 }) 0, 1, (if
     (shp (mod5 (grp5 0 0 9 [])) ({ coll5 0 0 with len := 8, payload := List.replicate 8 0#8, size := 1 })).op = 0
     ∨ (shp (mod5 (grp5 0 0 9 [])) ({ coll5 0 0 with len := 8, payload := List.replicate 8 0#8, size := 1 })).op =
     4 then (tkn (mod5 (grp5 0 0 9 [])) ({ coll5 0 0 with len := 8, payload := List.replicate 8 0#8, size := 1 })
     0).cellsFor (shp (mod5 (grp5 0 0 9 []))
     ({ coll5 0 0 with len := 8, payload := List.replicate 8 0#8, size := 1 })) else ((slt (mod5 (grp5 0 0 9 []))
     ({ coll5 0 0 with len := 8, payload := List.replicate 8 0#8, size := 1 }) 0).piece (Packet.piece
     ({ coll5 0 0 with len := 8, payload := List.replicate 8 0#8, size := 1 }))).cells), (slt (mod5 (grp5 0 0 9
     [])) ({ coll5 0 0 with len := 8, payload := List.replicate 8 0#8, size := 1 }) 0).piece (Packet.piece
     ({ coll5 0 0 with len := 8, payload := List.replicate 8 0#8, size := 1 })), tkn (mod5 (grp5 0 0 9 []))
     ({ coll5 0 0 with len := 8, payload := List.replicate 8 0#8, size := 1 }) 0, opn (mod5 (grp5 0 0 9 []))
     ({ coll5 0 0 with len := 8, payload := List.replicate 8 0#8, size := 1 }) 0, .inr (.inl rfl), freshc_of (by
     decide +kernel), coll_of (by decide +kernel) (by decide +kernel) (by decide +kernel), rfl, by decide +kernel⟩,
   ⟨{ mod5 (grp5 0 0 9 [(1, ⟨1, 9, 0, 0, 16000000, 500000, 8, none, List.range 64, [], [], [], false, []⟩)]) with mod.tiles := [(1, ⟨false, false, 0, 0, 0, 0, false⟩)] },
     { coll5 0 0 with len := 8, payload := List.replicate 8 0#8, size := 1 }, 4, true, rec5, .contribution
     ({ coll5 0 0 with len := 8, payload := List.replicate 8 0#8, size := 1 }) 4 true, grp5 0 0 9 [(1, ⟨1, 9, 0, 0,
     16000000, 500000, 8, none, List.range 64, [], [], [], false, []⟩)], shp
     ({ mod5 (grp5 0 0 9 [(1, ⟨1, 9, 0, 0, 16000000, 500000, 8, none, List.range 64, [], [], [], false, []⟩)]) with mod.tiles := [(1, ⟨false, false, 0, 0, 0, 0, false⟩)] })
     ({ coll5 0 0 with len := 8, payload := List.replicate 8 0#8, size := 1 }), 0, 0, opn
     ({ mod5 (grp5 0 0 9 [(1, ⟨1, 9, 0, 0, 16000000, 500000, 8, none, List.range 64, [], [], [], false, []⟩)]) with mod.tiles := [(1, ⟨false, false, 0, 0, 0, 0, false⟩)] })
     ({ coll5 0 0 with len := 8, payload := List.replicate 8 0#8, size := 1 }) 4, slt
     ({ mod5 (grp5 0 0 9 [(1, ⟨1, 9, 0, 0, 16000000, 500000, 8, none, List.range 64, [], [], [], false, []⟩)]) with mod.tiles := [(1, ⟨false, false, 0, 0, 0, 0, false⟩)] })
     ({ coll5 0 0 with len := 8, payload := List.replicate 8 0#8, size := 1 }) 4, 1, (if (shp
     ({ mod5 (grp5 0 0 9 [(1, ⟨1, 9, 0, 0, 16000000, 500000, 8, none, List.range 64, [], [], [], false, []⟩)]) with mod.tiles := [(1, ⟨false, false, 0, 0, 0, 0, false⟩)] })
     ({ coll5 0 0 with len := 8, payload := List.replicate 8 0#8, size := 1 })).op = 0 ∨ (shp
     ({ mod5 (grp5 0 0 9 [(1, ⟨1, 9, 0, 0, 16000000, 500000, 8, none, List.range 64, [], [], [], false, []⟩)]) with mod.tiles := [(1, ⟨false, false, 0, 0, 0, 0, false⟩)] })
     ({ coll5 0 0 with len := 8, payload := List.replicate 8 0#8, size := 1 })).op = 4 then (tkn
     ({ mod5 (grp5 0 0 9 [(1, ⟨1, 9, 0, 0, 16000000, 500000, 8, none, List.range 64, [], [], [], false, []⟩)]) with mod.tiles := [(1, ⟨false, false, 0, 0, 0, 0, false⟩)] })
     ({ coll5 0 0 with len := 8, payload := List.replicate 8 0#8, size := 1 }) 4).cellsFor (shp
     ({ mod5 (grp5 0 0 9 [(1, ⟨1, 9, 0, 0, 16000000, 500000, 8, none, List.range 64, [], [], [], false, []⟩)]) with mod.tiles := [(1, ⟨false, false, 0, 0, 0, 0, false⟩)] })
     ({ coll5 0 0 with len := 8, payload := List.replicate 8 0#8, size := 1 })) else ((slt
     ({ mod5 (grp5 0 0 9 [(1, ⟨1, 9, 0, 0, 16000000, 500000, 8, none, List.range 64, [], [], [], false, []⟩)]) with mod.tiles := [(1, ⟨false, false, 0, 0, 0, 0, false⟩)] })
     ({ coll5 0 0 with len := 8, payload := List.replicate 8 0#8, size := 1 }) 4).piece (Packet.piece
     ({ coll5 0 0 with len := 8, payload := List.replicate 8 0#8, size := 1 }))).cells), (slt
     ({ mod5 (grp5 0 0 9 [(1, ⟨1, 9, 0, 0, 16000000, 500000, 8, none, List.range 64, [], [], [], false, []⟩)]) with mod.tiles := [(1, ⟨false, false, 0, 0, 0, 0, false⟩)] })
     ({ coll5 0 0 with len := 8, payload := List.replicate 8 0#8, size := 1 }) 4).piece (Packet.piece
     ({ coll5 0 0 with len := 8, payload := List.replicate 8 0#8, size := 1 })), tkn
     ({ mod5 (grp5 0 0 9 [(1, ⟨1, 9, 0, 0, 16000000, 500000, 8, none, List.range 64, [], [], [], false, []⟩)]) with mod.tiles := [(1, ⟨false, false, 0, 0, 0, 0, false⟩)] })
     ({ coll5 0 0 with len := 8, payload := List.replicate 8 0#8, size := 1 }) 4, opn
     ({ mod5 (grp5 0 0 9 [(1, ⟨1, 9, 0, 0, 16000000, 500000, 8, none, List.range 64, [], [], [], false, []⟩)]) with mod.tiles := [(1, ⟨false, false, 0, 0, 0, 0, false⟩)] })
     ({ coll5 0 0 with len := 8, payload := List.replicate 8 0#8, size := 1 }) 4, .inr (.inl rfl), freshc_of (by
     decide +kernel), coll_of (by decide +kernel) (by decide +kernel) (by decide +kernel), rfl, by decide +kernel⟩,
   ⟨mod5 (grp5 0 0 9 [(1, ⟨1, 9, 0, 0, 16000000, 500000, 8, none, List.range 64, [], [], [], false, [0]⟩)]),
     { coll5 0 0 with len := 8, payload := List.replicate 8 0#8, size := 1 }, 4, true, rec5, .contribution
     ({ coll5 0 0 with len := 8, payload := List.replicate 8 0#8, size := 1 }) 4 true, grp5 0 0 9 [(1, ⟨1, 9, 0, 0,
     16000000, 500000, 8, none, List.range 64, [], [], [], false, [0]⟩)], shp (mod5 (grp5 0 0 9 [(1, ⟨1, 9, 0, 0,
     16000000, 500000, 8, none, List.range 64, [], [], [], false, [0]⟩)]))
     ({ coll5 0 0 with len := 8, payload := List.replicate 8 0#8, size := 1 }), 0, 0, opn (mod5 (grp5 0 0 9 [(1,
     ⟨1, 9, 0, 0, 16000000, 500000, 8, none, List.range 64, [], [], [], false, [0]⟩)]))
     ({ coll5 0 0 with len := 8, payload := List.replicate 8 0#8, size := 1 }) 4, slt (mod5 (grp5 0 0 9 [(1, ⟨1, 9,
     0, 0, 16000000, 500000, 8, none, List.range 64, [], [], [], false, [0]⟩)]))
     ({ coll5 0 0 with len := 8, payload := List.replicate 8 0#8, size := 1 }) 4, 1, (if (shp (mod5 (grp5 0 0 9
     [(1, ⟨1, 9, 0, 0, 16000000, 500000, 8, none, List.range 64, [], [], [], false, [0]⟩)]))
     ({ coll5 0 0 with len := 8, payload := List.replicate 8 0#8, size := 1 })).op = 0 ∨ (shp (mod5 (grp5 0 0 9
     [(1, ⟨1, 9, 0, 0, 16000000, 500000, 8, none, List.range 64, [], [], [], false, [0]⟩)]))
     ({ coll5 0 0 with len := 8, payload := List.replicate 8 0#8, size := 1 })).op = 4 then (tkn (mod5 (grp5 0 0 9
     [(1, ⟨1, 9, 0, 0, 16000000, 500000, 8, none, List.range 64, [], [], [], false, [0]⟩)]))
     ({ coll5 0 0 with len := 8, payload := List.replicate 8 0#8, size := 1 }) 4).cellsFor (shp (mod5 (grp5 0 0 9
     [(1, ⟨1, 9, 0, 0, 16000000, 500000, 8, none, List.range 64, [], [], [], false, [0]⟩)]))
     ({ coll5 0 0 with len := 8, payload := List.replicate 8 0#8, size := 1 })) else ((slt (mod5 (grp5 0 0 9 [(1,
     ⟨1, 9, 0, 0, 16000000, 500000, 8, none, List.range 64, [], [], [], false, [0]⟩)]))
     ({ coll5 0 0 with len := 8, payload := List.replicate 8 0#8, size := 1 }) 4).piece (Packet.piece
     ({ coll5 0 0 with len := 8, payload := List.replicate 8 0#8, size := 1 }))).cells), (slt (mod5 (grp5 0 0 9
     [(1, ⟨1, 9, 0, 0, 16000000, 500000, 8, none, List.range 64, [], [], [], false, [0]⟩)]))
     ({ coll5 0 0 with len := 8, payload := List.replicate 8 0#8, size := 1 }) 4).piece (Packet.piece
     ({ coll5 0 0 with len := 8, payload := List.replicate 8 0#8, size := 1 })), tkn (mod5 (grp5 0 0 9 [(1, ⟨1, 9,
     0, 0, 16000000, 500000, 8, none, List.range 64, [], [], [], false, [0]⟩)]))
     ({ coll5 0 0 with len := 8, payload := List.replicate 8 0#8, size := 1 }) 4, opn (mod5 (grp5 0 0 9 [(1, ⟨1, 9,
     0, 0, 16000000, 500000, 8, none, List.range 64, [], [], [], false, [0]⟩)]))
     ({ coll5 0 0 with len := 8, payload := List.replicate 8 0#8, size := 1 }) 4, .inr (.inl rfl), freshc_of (by
     decide +kernel), coll_of (by decide +kernel) (by decide +kernel) (by decide +kernel), rfl, by decide +kernel⟩,
   ⟨mod5 (grp5 0 0 9 [(1, ⟨1, 9, 0, 0, 16000000, 500000, 8, none, List.range 64, [(0,
     { Piece.empty with ranks := [0] })], [], [], false, []⟩)]),
     { coll5 0 0 with len := 8, payload := List.replicate 8 0#8, size := 1 }, 4, true, rec5, .contribution
     ({ coll5 0 0 with len := 8, payload := List.replicate 8 0#8, size := 1 }) 4 true, grp5 0 0 9 [(1, ⟨1, 9, 0, 0,
     16000000, 500000, 8, none, List.range 64, [(0, { Piece.empty with ranks := [0] })], [], [], false, []⟩)], shp
     (mod5 (grp5 0 0 9 [(1, ⟨1, 9, 0, 0, 16000000, 500000, 8, none, List.range 64, [(0,
     { Piece.empty with ranks := [0] })], [], [], false, []⟩)]))
     ({ coll5 0 0 with len := 8, payload := List.replicate 8 0#8, size := 1 }), 0, 0, opn (mod5 (grp5 0 0 9 [(1,
     ⟨1, 9, 0, 0, 16000000, 500000, 8, none, List.range 64, [(0, { Piece.empty with ranks := [0] })], [], [],
     false, []⟩)])) ({ coll5 0 0 with len := 8, payload := List.replicate 8 0#8, size := 1 }) 4, slt (mod5 (grp5 0
     0 9 [(1, ⟨1, 9, 0, 0, 16000000, 500000, 8, none, List.range 64, [(0, { Piece.empty with ranks := [0] })], [],
     [], false, []⟩)])) ({ coll5 0 0 with len := 8, payload := List.replicate 8 0#8, size := 1 }) 4, 1, (if (shp
     (mod5 (grp5 0 0 9 [(1, ⟨1, 9, 0, 0, 16000000, 500000, 8, none, List.range 64, [(0,
     { Piece.empty with ranks := [0] })], [], [], false, []⟩)]))
     ({ coll5 0 0 with len := 8, payload := List.replicate 8 0#8, size := 1 })).op = 0 ∨ (shp (mod5 (grp5 0 0 9
     [(1, ⟨1, 9, 0, 0, 16000000, 500000, 8, none, List.range 64, [(0, { Piece.empty with ranks := [0] })], [], [],
     false, []⟩)])) ({ coll5 0 0 with len := 8, payload := List.replicate 8 0#8, size := 1 })).op = 4 then (tkn
     (mod5 (grp5 0 0 9 [(1, ⟨1, 9, 0, 0, 16000000, 500000, 8, none, List.range 64, [(0,
     { Piece.empty with ranks := [0] })], [], [], false, []⟩)]))
     ({ coll5 0 0 with len := 8, payload := List.replicate 8 0#8, size := 1 }) 4).cellsFor (shp (mod5 (grp5 0 0 9
     [(1, ⟨1, 9, 0, 0, 16000000, 500000, 8, none, List.range 64, [(0, { Piece.empty with ranks := [0] })], [], [],
     false, []⟩)])) ({ coll5 0 0 with len := 8, payload := List.replicate 8 0#8, size := 1 })) else ((slt (mod5
     (grp5 0 0 9 [(1, ⟨1, 9, 0, 0, 16000000, 500000, 8, none, List.range 64, [(0,
     { Piece.empty with ranks := [0] })], [], [], false, []⟩)]))
     ({ coll5 0 0 with len := 8, payload := List.replicate 8 0#8, size := 1 }) 4).piece (Packet.piece
     ({ coll5 0 0 with len := 8, payload := List.replicate 8 0#8, size := 1 }))).cells), (slt (mod5 (grp5 0 0 9
     [(1, ⟨1, 9, 0, 0, 16000000, 500000, 8, none, List.range 64, [(0, { Piece.empty with ranks := [0] })], [], [],
     false, []⟩)])) ({ coll5 0 0 with len := 8, payload := List.replicate 8 0#8, size := 1 }) 4).piece
     (Packet.piece ({ coll5 0 0 with len := 8, payload := List.replicate 8 0#8, size := 1 })), tkn (mod5 (grp5 0 0
     9 [(1, ⟨1, 9, 0, 0, 16000000, 500000, 8, none, List.range 64, [(0, { Piece.empty with ranks := [0] })], [],
     [], false, []⟩)])) ({ coll5 0 0 with len := 8, payload := List.replicate 8 0#8, size := 1 }) 4, opn (mod5
     (grp5 0 0 9 [(1, ⟨1, 9, 0, 0, 16000000, 500000, 8, none, List.range 64, [(0,
     { Piece.empty with ranks := [0] })], [], [], false, []⟩)]))
     ({ coll5 0 0 with len := 8, payload := List.replicate 8 0#8, size := 1 }) 4, .inr (.inl rfl), freshc_of (by
     decide +kernel), coll_of (by decide +kernel) (by decide +kernel) (by decide +kernel), rfl, by decide +kernel⟩,
   ⟨mod5 (grp5 0 0 9 [(1, ⟨1, 9, 0, 0, 16000000, 500000, 8, none, List.range 64, [(0,
     { Piece.empty with done := true })], [], [], false, []⟩)]),
     { coll5 0 0 with len := 8, payload := List.replicate 8 0#8, size := 1 }, 4, true, rec5, .contribution
     ({ coll5 0 0 with len := 8, payload := List.replicate 8 0#8, size := 1 }) 4 true, grp5 0 0 9 [(1, ⟨1, 9, 0, 0,
     16000000, 500000, 8, none, List.range 64, [(0, { Piece.empty with done := true })], [], [], false, []⟩)], shp
     (mod5 (grp5 0 0 9 [(1, ⟨1, 9, 0, 0, 16000000, 500000, 8, none, List.range 64, [(0,
     { Piece.empty with done := true })], [], [], false, []⟩)]))
     ({ coll5 0 0 with len := 8, payload := List.replicate 8 0#8, size := 1 }), 0, 0, opn (mod5 (grp5 0 0 9 [(1,
     ⟨1, 9, 0, 0, 16000000, 500000, 8, none, List.range 64, [(0, { Piece.empty with done := true })], [], [],
     false, []⟩)])) ({ coll5 0 0 with len := 8, payload := List.replicate 8 0#8, size := 1 }) 4, slt (mod5 (grp5 0
     0 9 [(1, ⟨1, 9, 0, 0, 16000000, 500000, 8, none, List.range 64, [(0, { Piece.empty with done := true })], [],
     [], false, []⟩)])) ({ coll5 0 0 with len := 8, payload := List.replicate 8 0#8, size := 1 }) 4, 1, (if (shp
     (mod5 (grp5 0 0 9 [(1, ⟨1, 9, 0, 0, 16000000, 500000, 8, none, List.range 64, [(0,
     { Piece.empty with done := true })], [], [], false, []⟩)]))
     ({ coll5 0 0 with len := 8, payload := List.replicate 8 0#8, size := 1 })).op = 0 ∨ (shp (mod5 (grp5 0 0 9
     [(1, ⟨1, 9, 0, 0, 16000000, 500000, 8, none, List.range 64, [(0, { Piece.empty with done := true })], [], [],
     false, []⟩)])) ({ coll5 0 0 with len := 8, payload := List.replicate 8 0#8, size := 1 })).op = 4 then (tkn
     (mod5 (grp5 0 0 9 [(1, ⟨1, 9, 0, 0, 16000000, 500000, 8, none, List.range 64, [(0,
     { Piece.empty with done := true })], [], [], false, []⟩)]))
     ({ coll5 0 0 with len := 8, payload := List.replicate 8 0#8, size := 1 }) 4).cellsFor (shp (mod5 (grp5 0 0 9
     [(1, ⟨1, 9, 0, 0, 16000000, 500000, 8, none, List.range 64, [(0, { Piece.empty with done := true })], [], [],
     false, []⟩)])) ({ coll5 0 0 with len := 8, payload := List.replicate 8 0#8, size := 1 })) else ((slt (mod5
     (grp5 0 0 9 [(1, ⟨1, 9, 0, 0, 16000000, 500000, 8, none, List.range 64, [(0,
     { Piece.empty with done := true })], [], [], false, []⟩)]))
     ({ coll5 0 0 with len := 8, payload := List.replicate 8 0#8, size := 1 }) 4).piece (Packet.piece
     ({ coll5 0 0 with len := 8, payload := List.replicate 8 0#8, size := 1 }))).cells), (slt (mod5 (grp5 0 0 9
     [(1, ⟨1, 9, 0, 0, 16000000, 500000, 8, none, List.range 64, [(0, { Piece.empty with done := true })], [], [],
     false, []⟩)])) ({ coll5 0 0 with len := 8, payload := List.replicate 8 0#8, size := 1 }) 4).piece
     (Packet.piece ({ coll5 0 0 with len := 8, payload := List.replicate 8 0#8, size := 1 })), tkn (mod5 (grp5 0 0
     9 [(1, ⟨1, 9, 0, 0, 16000000, 500000, 8, none, List.range 64, [(0, { Piece.empty with done := true })], [],
     [], false, []⟩)])) ({ coll5 0 0 with len := 8, payload := List.replicate 8 0#8, size := 1 }) 4, opn (mod5
     (grp5 0 0 9 [(1, ⟨1, 9, 0, 0, 16000000, 500000, 8, none, List.range 64, [(0,
     { Piece.empty with done := true })], [], [], false, []⟩)]))
     ({ coll5 0 0 with len := 8, payload := List.replicate 8 0#8, size := 1 }) 4, .inr (.inl rfl), freshc_of (by
     decide +kernel), coll_of (by decide +kernel) (by decide +kernel) (by decide +kernel), rfl, by decide +kernel⟩,
   ⟨{ mod5 (grp5 0 0 9 []) with mod.tiles := [(1, ⟨true, false, 0, 0, 12288, 0, false⟩)], mod.sh.regs := [(0x520003 * 65536, 0)] },
     { coll5 0 0 with len := 8, payload := List.replicate 8 0#8, size := 1 }, 4, true, rec5, .contribution
     ({ coll5 0 0 with len := 8, payload := List.replicate 8 0#8, size := 1 }) 4 true, grp5 0 0 9 [], shp
     ({ mod5 (grp5 0 0 9 []) with mod.tiles := [(1, ⟨true, false, 0, 0, 12288, 0, false⟩)], mod.sh.regs := [(0x520003 * 65536, 0)] })
     ({ coll5 0 0 with len := 8, payload := List.replicate 8 0#8, size := 1 }), 0, 0, opn
     ({ mod5 (grp5 0 0 9 []) with mod.tiles := [(1, ⟨true, false, 0, 0, 12288, 0, false⟩)], mod.sh.regs := [(0x520003 * 65536, 0)] })
     ({ coll5 0 0 with len := 8, payload := List.replicate 8 0#8, size := 1 }) 4, slt
     ({ mod5 (grp5 0 0 9 []) with mod.tiles := [(1, ⟨true, false, 0, 0, 12288, 0, false⟩)], mod.sh.regs := [(0x520003 * 65536, 0)] })
     ({ coll5 0 0 with len := 8, payload := List.replicate 8 0#8, size := 1 }) 4, 1, (if (shp
     ({ mod5 (grp5 0 0 9 []) with mod.tiles := [(1, ⟨true, false, 0, 0, 12288, 0, false⟩)], mod.sh.regs := [(0x520003 * 65536, 0)] })
     ({ coll5 0 0 with len := 8, payload := List.replicate 8 0#8, size := 1 })).op = 0 ∨ (shp
     ({ mod5 (grp5 0 0 9 []) with mod.tiles := [(1, ⟨true, false, 0, 0, 12288, 0, false⟩)], mod.sh.regs := [(0x520003 * 65536, 0)] })
     ({ coll5 0 0 with len := 8, payload := List.replicate 8 0#8, size := 1 })).op = 4 then (tkn
     ({ mod5 (grp5 0 0 9 []) with mod.tiles := [(1, ⟨true, false, 0, 0, 12288, 0, false⟩)], mod.sh.regs := [(0x520003 * 65536, 0)] })
     ({ coll5 0 0 with len := 8, payload := List.replicate 8 0#8, size := 1 }) 4).cellsFor (shp
     ({ mod5 (grp5 0 0 9 []) with mod.tiles := [(1, ⟨true, false, 0, 0, 12288, 0, false⟩)], mod.sh.regs := [(0x520003 * 65536, 0)] })
     ({ coll5 0 0 with len := 8, payload := List.replicate 8 0#8, size := 1 })) else ((slt
     ({ mod5 (grp5 0 0 9 []) with mod.tiles := [(1, ⟨true, false, 0, 0, 12288, 0, false⟩)], mod.sh.regs := [(0x520003 * 65536, 0)] })
     ({ coll5 0 0 with len := 8, payload := List.replicate 8 0#8, size := 1 }) 4).piece (Packet.piece
     ({ coll5 0 0 with len := 8, payload := List.replicate 8 0#8, size := 1 }))).cells), (slt
     ({ mod5 (grp5 0 0 9 []) with mod.tiles := [(1, ⟨true, false, 0, 0, 12288, 0, false⟩)], mod.sh.regs := [(0x520003 * 65536, 0)] })
     ({ coll5 0 0 with len := 8, payload := List.replicate 8 0#8, size := 1 }) 4).piece (Packet.piece
     ({ coll5 0 0 with len := 8, payload := List.replicate 8 0#8, size := 1 })), tkn
     ({ mod5 (grp5 0 0 9 []) with mod.tiles := [(1, ⟨true, false, 0, 0, 12288, 0, false⟩)], mod.sh.regs := [(0x520003 * 65536, 0)] })
     ({ coll5 0 0 with len := 8, payload := List.replicate 8 0#8, size := 1 }) 4, opn
     ({ mod5 (grp5 0 0 9 []) with mod.tiles := [(1, ⟨true, false, 0, 0, 12288, 0, false⟩)], mod.sh.regs := [(0x520003 * 65536, 0)] })
     ({ coll5 0 0 with len := 8, payload := List.replicate 8 0#8, size := 1 }) 4, .inr (.inl rfl), freshc_of (by
     decide +kernel), coll_of (by decide +kernel) (by decide +kernel) (by decide +kernel), rfl, by decide +kernel⟩,
   ⟨mod5 (grp5 0 0 9 [(1, ⟨1, 9, 0, 0, 16000000, 500000, 8, none, List.range 64, [(0,
     { Piece.empty with cells := 1000 })], [], [], false, []⟩)]),
     { coll5 0 0 with len := 8, payload := List.replicate 8 0#8, size := 1 }, 4, true, rec5, .contribution
     ({ coll5 0 0 with len := 8, payload := List.replicate 8 0#8, size := 1 }) 4 true, grp5 0 0 9 [(1, ⟨1, 9, 0, 0,
     16000000, 500000, 8, none, List.range 64, [(0, { Piece.empty with cells := 1000 })], [], [], false, []⟩)], shp
     (mod5 (grp5 0 0 9 [(1, ⟨1, 9, 0, 0, 16000000, 500000, 8, none, List.range 64, [(0,
     { Piece.empty with cells := 1000 })], [], [], false, []⟩)]))
     ({ coll5 0 0 with len := 8, payload := List.replicate 8 0#8, size := 1 }), 0, 0, opn (mod5 (grp5 0 0 9 [(1,
     ⟨1, 9, 0, 0, 16000000, 500000, 8, none, List.range 64, [(0, { Piece.empty with cells := 1000 })], [], [],
     false, []⟩)])) ({ coll5 0 0 with len := 8, payload := List.replicate 8 0#8, size := 1 }) 4, slt (mod5 (grp5 0
     0 9 [(1, ⟨1, 9, 0, 0, 16000000, 500000, 8, none, List.range 64, [(0, { Piece.empty with cells := 1000 })], [],
     [], false, []⟩)])) ({ coll5 0 0 with len := 8, payload := List.replicate 8 0#8, size := 1 }) 4, 1, (if (shp
     (mod5 (grp5 0 0 9 [(1, ⟨1, 9, 0, 0, 16000000, 500000, 8, none, List.range 64, [(0,
     { Piece.empty with cells := 1000 })], [], [], false, []⟩)]))
     ({ coll5 0 0 with len := 8, payload := List.replicate 8 0#8, size := 1 })).op = 0 ∨ (shp (mod5 (grp5 0 0 9
     [(1, ⟨1, 9, 0, 0, 16000000, 500000, 8, none, List.range 64, [(0, { Piece.empty with cells := 1000 })], [], [],
     false, []⟩)])) ({ coll5 0 0 with len := 8, payload := List.replicate 8 0#8, size := 1 })).op = 4 then (tkn
     (mod5 (grp5 0 0 9 [(1, ⟨1, 9, 0, 0, 16000000, 500000, 8, none, List.range 64, [(0,
     { Piece.empty with cells := 1000 })], [], [], false, []⟩)]))
     ({ coll5 0 0 with len := 8, payload := List.replicate 8 0#8, size := 1 }) 4).cellsFor (shp (mod5 (grp5 0 0 9
     [(1, ⟨1, 9, 0, 0, 16000000, 500000, 8, none, List.range 64, [(0, { Piece.empty with cells := 1000 })], [], [],
     false, []⟩)])) ({ coll5 0 0 with len := 8, payload := List.replicate 8 0#8, size := 1 })) else ((slt (mod5
     (grp5 0 0 9 [(1, ⟨1, 9, 0, 0, 16000000, 500000, 8, none, List.range 64, [(0,
     { Piece.empty with cells := 1000 })], [], [], false, []⟩)]))
     ({ coll5 0 0 with len := 8, payload := List.replicate 8 0#8, size := 1 }) 4).piece (Packet.piece
     ({ coll5 0 0 with len := 8, payload := List.replicate 8 0#8, size := 1 }))).cells), (slt (mod5 (grp5 0 0 9
     [(1, ⟨1, 9, 0, 0, 16000000, 500000, 8, none, List.range 64, [(0, { Piece.empty with cells := 1000 })], [], [],
     false, []⟩)])) ({ coll5 0 0 with len := 8, payload := List.replicate 8 0#8, size := 1 }) 4).piece
     (Packet.piece ({ coll5 0 0 with len := 8, payload := List.replicate 8 0#8, size := 1 })), tkn (mod5 (grp5 0 0
     9 [(1, ⟨1, 9, 0, 0, 16000000, 500000, 8, none, List.range 64, [(0, { Piece.empty with cells := 1000 })], [],
     [], false, []⟩)])) ({ coll5 0 0 with len := 8, payload := List.replicate 8 0#8, size := 1 }) 4, opn (mod5
     (grp5 0 0 9 [(1, ⟨1, 9, 0, 0, 16000000, 500000, 8, none, List.range 64, [(0,
     { Piece.empty with cells := 1000 })], [], [], false, []⟩)]))
     ({ coll5 0 0 with len := 8, payload := List.replicate 8 0#8, size := 1 }) 4, .inr (.inl rfl), freshc_of (by
     decide +kernel), coll_of (by decide +kernel) (by decide +kernel) (by decide +kernel), rfl, .inl ⟨by
     decide +kernel, rfl⟩, by decide +kernel⟩,
   ⟨mod5 (grp5 1 0 9 []), { coll5 1 0 with len := 8, payload := List.replicate 8 0#8, size := 1 }, 4, true, rec5,
     .contribution ({ coll5 1 0 with len := 8, payload := List.replicate 8 0#8, size := 1 }) 4 true, grp5 1 0 9 [],
     shp (mod5 (grp5 1 0 9 [])) ({ coll5 1 0 with len := 8, payload := List.replicate 8 0#8, size := 1 }), 0, 0,
     opn (mod5 (grp5 1 0 9 [])) ({ coll5 1 0 with len := 8, payload := List.replicate 8 0#8, size := 1 }) 4, slt
     (mod5 (grp5 1 0 9 [])) ({ coll5 1 0 with len := 8, payload := List.replicate 8 0#8, size := 1 }) 4, 1, (if
     (shp (mod5 (grp5 1 0 9 [])) ({ coll5 1 0 with len := 8, payload := List.replicate 8 0#8, size := 1 })).op = 0
     ∨ (shp (mod5 (grp5 1 0 9 [])) ({ coll5 1 0 with len := 8, payload := List.replicate 8 0#8, size := 1 })).op =
     4 then (tkn (mod5 (grp5 1 0 9 [])) ({ coll5 1 0 with len := 8, payload := List.replicate 8 0#8, size := 1 })
     4).cellsFor (shp (mod5 (grp5 1 0 9 []))
     ({ coll5 1 0 with len := 8, payload := List.replicate 8 0#8, size := 1 })) else ((slt (mod5 (grp5 1 0 9 []))
     ({ coll5 1 0 with len := 8, payload := List.replicate 8 0#8, size := 1 }) 4).piece (Packet.piece
     ({ coll5 1 0 with len := 8, payload := List.replicate 8 0#8, size := 1 }))).cells), (slt (mod5 (grp5 1 0 9
     [])) ({ coll5 1 0 with len := 8, payload := List.replicate 8 0#8, size := 1 }) 4).piece (Packet.piece
     ({ coll5 1 0 with len := 8, payload := List.replicate 8 0#8, size := 1 })), tkn (mod5 (grp5 1 0 9 []))
     ({ coll5 1 0 with len := 8, payload := List.replicate 8 0#8, size := 1 }) 4, opn (mod5 (grp5 1 0 9 []))
     ({ coll5 1 0 with len := 8, payload := List.replicate 8 0#8, size := 1 }) 4, .inr (.inl rfl), freshc_of (by
     decide +kernel), coll_of (by decide +kernel) (by decide +kernel) (by decide +kernel), rfl, .inl ⟨by
     decide +kernel, rfl⟩, by decide +kernel⟩,
   ⟨Piece.empty, ⟨1, 0, 1, 0, 1, 1, 1, 1⟩, 1, 0, 0, 0, List.replicate 8 0#8,
     { (Piece.empty : Piece) with ranks := (Piece.empty : Piece).ranks ++ [0], touched := 0 }, rfl, by
     decide +kernel⟩,
   ⟨Piece.empty, ⟨0, 0, 1, 0, 1, 1, 1, 1⟩, 1, 0, 0, 0, List.replicate 8 0#8,
     { (Piece.empty : Piece) with ranks := (Piece.empty : Piece).ranks ++ [0], touched := 0 }, rfl, by
     decide +kernel⟩,
   ⟨{ Piece.empty with spilled := true }, ⟨0, 0, 1, 0, 1, 1, 1, 1⟩, 1, 0, 0, 0, List.replicate 8 0#8,
     { ({ Piece.empty with spilled := true } : Piece) with ranks := ({ Piece.empty with spilled := true } : Piece).ranks ++ [0], touched := 0 },
     rfl, by decide +kernel⟩,
   ⟨Piece.empty, ⟨0, 2 ^ 31, 1, 0, 1, 1, 1, 1⟩, 1, 0, 0, 0, List.replicate 8 0#8,
     { (Piece.empty : Piece) with ranks := (Piece.empty : Piece).ranks ++ [0], touched := 0 }, rfl, by
     decide +kernel⟩,
   ⟨{ Piece.empty with spilled := true }, ⟨0, 2 ^ 31, 1, 0, 1, 1, 1, 1⟩, 1, 0, 0, 0, List.replicate 8 0#8,
     { ({ Piece.empty with spilled := true } : Piece) with ranks := ({ Piece.empty with spilled := true } : Piece).ranks ++ [0], touched := 0 },
     rfl, by decide +kernel⟩,
   ⟨Piece.empty, ⟨4, 0, 1, 0, 1, 1, 1, 1⟩, 1, 0, 0, 0, List.replicate 8 0#8,
     { (Piece.empty : Piece) with ranks := (Piece.empty : Piece).ranks ++ [0], touched := 0 }, rfl, by
     decide +kernel⟩,
   ⟨{ Piece.empty with spilled := true }, ⟨4, 0, 1, 0, 1, 1, 1, 1⟩, 1, 0, 0, 0, List.replicate 8 0#8,
     { ({ Piece.empty with spilled := true } : Piece) with ranks := ({ Piece.empty with spilled := true } : Piece).ranks ++ [0], touched := 0 },
     rfl, by decide +kernel⟩⟩

/-- For each clause of CollectivesAtTheEndpoint, a state and operands that meet its hypotheses. -/
theorem test_hyps_CollectivesAtTheEndpoint :
    (∃ (s : State) (k : Packet) (t : Bool) (c : Instr), (c = .result k t ∨ c = .release k t) ∧ s.fabricOff .ep =
      true) ∧
    (∃ (s : State) (k : Packet) (t : Bool) (r : SrcRec) (c : Instr), (c = .result k t ∨ c = .release k t) ∧
      FreshCollective s .ep k t r ∧ s.fabricOff .ep = false ∧ s.jobState .ep k.job = 1) ∧
    (∃ (s : State) (k : Packet) (t : Bool) (r : SrcRec) (c : Instr), (c = .result k t ∨ c = .release k t) ∧
      FreshCollective s .ep k t r ∧ s.fabricOff .ep = false ∧ s.jobState .ep k.job = 0 ∧ s.collNamed k.job k.group
      k.cseq = none ∧ k.phase = 5 ∧ s.ep.released.contains (k.job, k.group, k.cseq) = true) ∧
    (∃ (s : State) (k : Packet) (t : Bool) (r : SrcRec) (c : Instr), (c = .result k t ∨ c = .release k t) ∧
      FreshCollective s .ep k t r ∧ s.fabricOff .ep = false ∧ s.jobState .ep k.job = 0 ∧ s.collNamed k.job k.group
      k.cseq = none ∧ (k.phase ≠ 5 ∨ s.ep.released.contains (k.job, k.group, k.cseq) = false)) ∧
    (∃ (s : State) (k : Packet) (t : Bool) (r : SrcRec) (c : Instr) (x : EpColl), (c = .result k t ∨ c = .release k
      t) ∧ FreshCollective s .ep k t r ∧ s.fabricOff .ep = false ∧ s.jobState .ep k.job = 0 ∧ s.collNamed k.job
      k.group k.cseq = some x ∧ ((x.state = 0 ∨ x.state = 6) ∧ x.todo ≠ [] ∨ x.shape = none)) ∧
    (∃ (s : State) (k : Packet) (t : Bool) (r : SrcRec) (c : Instr) (x : EpColl) (sh : Shape), (c = .result k t ∨ c
      = .release k t) ∧ FreshCollective s .ep k t r ∧ s.fabricOff .ep = false ∧ s.jobState .ep k.job = 0 ∧
      s.collNamed k.job k.group k.cseq = some x ∧ (x.state = 0 ∨ x.state = 6 → x.todo = []) ∧ x.shape = some sh ∧
      k.phase = 5 ∧ (sh.op = 3 ∨ sh.op = 5) ∧ k.typ = 0x20 + sh.op ∧ k.payload = []) ∧
    (∃ (s : State) (k : Packet) (t : Bool) (r : SrcRec) (c : Instr) (x : EpColl) (sh : Shape), (c = .result k t ∨ c
      = .release k t) ∧ FreshCollective s .ep k t r ∧ s.fabricOff .ep = false ∧ s.jobState .ep k.job = 0 ∧
      s.collNamed k.job k.group k.cseq = some x ∧ (x.state = 0 ∨ x.state = 6 → x.todo = []) ∧ x.shape = some sh ∧
      (k.phase = 5 ∧ (sh.op ≠ 3 ∧ sh.op ≠ 5 ∨ k.typ ≠ 0x20 + sh.op ∨ k.payload ≠ []) ∨ k.phase ≠ 5 ∧ k.phase ≠ 1 ∨
      k.phase = 1 ∧ x.fitsResult sh k = 1)) ∧
    (∃ (s : State) (k : Packet) (t : Bool) (r : SrcRec) (c : Instr) (x : EpColl) (sh : Shape), (c = .result k t ∨ c
      = .release k t) ∧ FreshCollective s .ep k t r ∧ s.fabricOff .ep = false ∧ s.jobState .ep k.job = 0 ∧
      s.collNamed k.job k.group k.cseq = some x ∧ (x.state = 0 ∨ x.state = 6 → x.todo = []) ∧ x.shape = some sh ∧
      k.phase = 1 ∧ x.fitsResult sh k = 2) ∧
    (∃ (s : State) (k : Packet) (t : Bool) (r : SrcRec) (c : Instr) (x : EpColl) (sh : Shape), (c = .result k t ∨ c
      = .release k t) ∧ FreshCollective s .ep k t r ∧ s.fabricOff .ep = false ∧ s.jobState .ep k.job = 0 ∧
      s.collNamed k.job k.group k.cseq = some x ∧ (x.state = 0 ∨ x.state = 6 → x.todo = []) ∧ x.shape = some sh ∧
      k.phase = 1 ∧ x.fitsResult sh k = 0) ∧
    (∃ (s : State) (c : Nat) (x : EpColl), s.coll c = some x ∧ (x.state ≠ 2 ∨ x.routeReads ≠ 0 ∨ s.rackNs .ep <
      x.start)) ∧
    (∃ (s : State) (c : Nat) (x : EpColl), s.coll c = some x ∧ x.state = 2 ∧ x.routeReads = 0 ∧ x.start ≤ s.rackNs
      .ep) ∧
    (∃ (s : State) (c : Nat) (x : EpColl), s.coll c = some x ∧ s.ns < x.accepted + x.limit) ∧
    (∃ (s : State) (c : Nat) (x : EpColl), s.coll c = some x ∧ x.accepted + x.limit ≤ s.ns) ∧
    (∃ (s : State) (id : Nat) (r : Req), s.ep.sh.req id = some r ∧ (r.st ≠ .holdWait ∨ s.ns < r.due)) ∧
    (∃ (s : State) (id : Nat) (r : Req), s.ep.sh.req id = some r ∧ r.st = .holdWait ∧ r.due ≤ s.ns ∧ s.slotRevoked
      r.slot r.pkt.job = true) ∧
    (∃ (s : State) (id : Nat) (r : Req) (c : Nat), s.ep.sh.req id = some r ∧ r.st = .holdWait ∧ r.due ≤ s.ns ∧
      s.slotRevoked r.slot r.pkt.job = false ∧ r.owner = .coll c ∧ isColl r.pkt.typ = true ∧ s.ep.live.contains
      r.pkt.plane = true ∧ s.planeSince r.pkt.plane r.first = true) ∧
    (∃ (s : State) (id : Nat) (r : Req), s.mod.sh.req id = some r ∧ (r.st ≠ .retryWait ∨ s.ns < r.due)) ∧
    (∃ (s : State) (id : Nat) (r : Req) (port : Nat), s.mod.sh.req id = some r ∧ r.st = .retryWait ∧ r.due ≤ s.ns ∧
      s.routePort r.pkt.dst = some port) ∧
    (∃ (s : State) (port : Nat) (l : List Req), (l = s.mod.sh.reqs.filter (fun r => r.st == .waiting && s.routePort
      r.pkt.dst == some port)) ∧ l = []) ∧
    (∃ (s : State) (port : Nat) (l : List Req) (r : Req), (l = s.mod.sh.reqs.filter (fun r => r.st == .waiting &&
      s.routePort r.pkt.dst == some port)) ∧ l = [r]) ∧
    (∃ (s : State) (port : Nat) (l : List Req) (a b : Req) (ga : _) (ca : _) (ka : _) (ra : _) (gb : _) (cb : _)
      (kb : _) (rb : _), (l = s.mod.sh.reqs.filter (fun r => r.st == .waiting && s.routePort r.pkt.dst == some
      port)) ∧ l = [a, b] ∧ a.owner = .result ga ca ka ra ∧ b.owner = .result gb cb kb rb ∧ ra ≤ rb) ∧
    (∃ (s : State) (port : Nat) (l : List Req) (a b : Req) (ga : _) (ca : _) (ka : _) (ra : _) (gb : _) (cb : _)
      (kb : _) (rb : _), (l = s.mod.sh.reqs.filter (fun r => r.st == .waiting && s.routePort r.pkt.dst == some
      port)) ∧ l = [a, b] ∧ a.owner = .result ga ca ka ra ∧ b.owner = .result gb cb kb rb ∧ rb < ra) :=
  ⟨⟨{ base with ep.inReset := true }, { coll5 0 1 with dst := 3 }, false, .result ({ coll5 0 1 with dst := 3 })
     false, .inl rfl, by decide +kernel⟩,
   ⟨{ fab with ep.slots := [] }, { coll5 0 1 with dst := 3 }, true, rec5, .result ({ coll5 0 1 with dst := 3 })
     true, .inl rfl, freshc_of (by decide +kernel), by decide +kernel⟩,
   ⟨{ fab with ep.released := [(5, 1, 9)] }, { coll5 3 5 with dst := 3 }, true, rec5, .result
     ({ coll5 3 5 with dst := 3 }) true, .inl rfl, freshc_of (by decide +kernel), by decide +kernel⟩,
   ⟨fab, { coll5 0 1 with dst := 3 }, true, rec5, .result ({ coll5 0 1 with dst := 3 }) true, .inl rfl, freshc_of
     (by decide +kernel), by decide +kernel⟩,
   ⟨{ fab with ep.colls := [{ coll0 with state := 0, todo := [1] }] }, { coll5 0 1 with dst := 3 }, true, rec5,
     .result ({ coll5 0 1 with dst := 3 }) true, { coll0 with state := 0, todo := [1] }, .inl rfl, freshc_of (by
     decide +kernel), by decide +kernel⟩,
   ⟨{ fab with ep.colls := [{ coll0 with cword := some (3 * 2 ^ 59) }] }, { coll5 3 5 with dst := 3 }, true, rec5,
     .result ({ coll5 3 5 with dst := 3 }) true, { coll0 with cword := some (3 * 2 ^ 59) },
     ({ coll0 with cword := some (3 * 2 ^ 59) }).shapeFrom (3 * 2 ^ 59), .inl rfl, freshc_of (by decide +kernel),
     by decide +kernel⟩,
   ⟨{ fab with ep.colls := [coll0] }, { coll5 0 5 with dst := 3 }, true, rec5, .result
     ({ coll5 0 5 with dst := 3 }) true, coll0, (coll0).shapeFrom (0), .inl rfl, freshc_of (by decide +kernel), by
     decide +kernel⟩,
   ⟨{ fab with ep.colls := [{ coll0 with cword := some (5 * 2 ^ 59) }] },
     { coll5 5 1 with dst := 3, len := 17, payload := List.replicate 17 0#8 }, true, rec5, .result
     ({ coll5 5 1 with dst := 3, len := 17, payload := List.replicate 17 0#8 }) true,
     { coll0 with cword := some (5 * 2 ^ 59) }, ({ coll0 with cword := some (5 * 2 ^ 59) }).shapeFrom (5 * 2 ^ 59),
     .inl rfl, freshc_of (by decide +kernel), by decide +kernel⟩,
   ⟨{ fab with ep.colls := [coll0] },
     { coll5 0 1 with dst := 3, len := (coll0.shapeFrom 0).outBytes 0, payload := List.replicate ((coll0.shapeFrom 0).outBytes 0) 0#8 },
     true, rec5, .result
     ({ coll5 0 1 with dst := 3, len := (coll0.shapeFrom 0).outBytes 0, payload := List.replicate ((coll0.shapeFrom 0).outBytes 0) 0#8 })
     true, coll0, (coll0).shapeFrom (0), .inl rfl, freshc_of (by decide +kernel), by decide +kernel⟩,
   ⟨{ fab with ep.colls := [coll0] }, 1, coll0, by decide +kernel⟩,
   ⟨{ fab with ep.colls := [{ coll0 with state := 2 }] }, 1, { coll0 with state := 2 }, by decide +kernel⟩,
   ⟨{ fab with ep.colls := [{ coll0 with limit := 1 }] }, 1, { coll0 with limit := 1 }, by decide +kernel⟩,
   ⟨{ fab with ep.colls := [coll0] }, 1, coll0, by decide +kernel⟩,
   ⟨{ fab with ep.live := [0], ep.sh.reqs := [{ req0 with st := .holdWait, due := 1 }] }, 1,
     { req0 with st := .holdWait, due := 1 }, by decide +kernel⟩,
   ⟨{ fab with ep.slots := [(0, ⟨5, 4096, 0, 3, 0, 0, []⟩)], ep.sh.reqs := [{ req0 with st := .holdWait }] }, 1,
     { req0 with st := .holdWait }, by decide +kernel⟩,
   ⟨{ fab with ep.live := [0], ep.sh.reqs := [{ req0 with st := .holdWait, owner := .coll 4, pkt := coll5 0 0 }] },
     1, { req0 with st := .holdWait, owner := .coll 4, pkt := coll5 0 0 }, 4, by decide +kernel⟩,
   ⟨{ fab with mod.sh.reqs := [req0] }, 1, req0, by decide +kernel⟩,
   ⟨{ fab with mod.sh.reqs := [{ req0 with st := .retryWait }], mod.routes := [(9, ⟨true, false, 8⟩)] }, 1,
     { req0 with st := .retryWait }, 8, by decide +kernel⟩,
   ⟨fab, 8, [], by decide +kernel⟩,
   ⟨{ fab with mod.sh.reqs := [req0], mod.routes := [(9, ⟨true, false, 8⟩)] }, 8, [req0], req0, by decide +kernel⟩,
   ⟨{ fab with mod.sh.reqs := [{ req0 with id := 1, owner := .result 1 9 0 2, st := .waiting }, { req0 with id := 2, owner := .result 1 9 0 2, st := .waiting }], mod.routes := [(9, ⟨true, false, 8⟩)] },
     8, [{ req0 with id := 1, owner := .result 1 9 0 2, st := .waiting },
     { req0 with id := 2, owner := .result 1 9 0 2, st := .waiting }],
     { req0 with id := 1, owner := .result 1 9 0 2, st := .waiting },
     { req0 with id := 2, owner := .result 1 9 0 2, st := .waiting }, 1, 9, 0, 2, 1, 9, 0, 2, by decide +kernel⟩,
   ⟨{ fab with mod.sh.reqs := [{ req0 with id := 1, owner := .result 1 9 0 3, st := .waiting }, { req0 with id := 2, owner := .result 1 9 0 2, st := .waiting }], mod.routes := [(9, ⟨true, false, 8⟩)] },
     8, [{ req0 with id := 1, owner := .result 1 9 0 3, st := .waiting },
     { req0 with id := 2, owner := .result 1 9 0 2, st := .waiting }],
     { req0 with id := 1, owner := .result 1 9 0 3, st := .waiting },
     { req0 with id := 2, owner := .result 1 9 0 2, st := .waiting }, 1, 9, 0, 3, 1, 9, 0, 2, by decide +kernel⟩⟩

/-- What a state and a tree packet give: the shape, the state with the slot open and the slot. -/
def shT (s : State) (k : Packet) : Shape := (s.group 1).shape (s.heldContext k) ((s.heldSize k).getD 0)
def opT (s : State) (k : Packet) : State := (s.arrives .mod k).openSlot k.group k.cseq k.cctx
def slT (s : State) (k : Packet) : SeqSlot :=
  ((opT s k).seqSlot k.group k.cseq).getD ⟨0, 0, 0, 0, 0, 0, 0, none, [], [], [], [], false, []⟩

/-- A piece's record read back from spill. -/
def backS (s : State) (t need : Nat) (p q : Piece) : State :=
  ((s.modTile t fun y => { y with windUsed := if need ≤ p.cells then y.windUsed + need - p.cells else y.windUsed }).dropPages
    (.piece 1 9 0)).modPiece 1 9 0 fun _ => { q with cells := need, touched := s.clock }

/-- For each clause of CollectiveSlotsAndTrees, a state and operands that meet its hypotheses. -/
theorem test_hyps_CollectiveSlotsAndTrees :
    (∃ (s : State) (gi i : Nat) (g : Group) (x : SeqSlot), s.group gi = g ∧ tabGet g.slots i = some x ∧
      s.slotSettled gi g x = false) ∧
    (∃ (s : State) (gi i : Nat) (g : Group) (x : SeqSlot), (∀ e, s.mownNamed gi g.job x.cctx x.cseq = some e →
      e.2.state ≠ 3 ∧ e.2.state ≠ 7) ∧ s.group gi = g ∧ tabGet g.slots i = some x ∧ s.slotSettled gi g x = true ∧
      (g.ctx x.cctx).op ≠ 3 ∧ (g.ctx x.cctx).op ≠ 5) ∧
    (∃ (s : State) (gi i : Nat) (g : Group) (x : SeqSlot) (w : State), w = (if (g.ctx x.cctx).op = 3 && g.lateness
      then (s.sendRelease gi x.cseq).recordLateness g x else s.sendRelease gi x.cseq) ∧ (∀ e, w.mownNamed gi g.job
      x.cctx x.cseq = some e → e.2.state ≠ 3 ∧ e.2.state ≠ 7) ∧ s.group gi = g ∧ tabGet g.slots i = some x ∧
      s.slotSettled gi g x = true ∧ ((g.ctx x.cctx).op = 3 ∨ (g.ctx x.cctx).op = 5)) ∧
    (∃ (s : State) (gi i : Nat) (g : Group) (x : SeqSlot), s.group gi = g ∧ tabGet g.slots i = some x ∧ ((x.state ≠
      1 ∧ x.state ≠ 2) ∨ s.ns < x.opened + x.timeout)) ∧
    (∃ (s : State) (gi i : Nat) (g : Group) (x : SeqSlot), s.group gi = g ∧ tabGet g.slots i = some x ∧ (x.state =
      1 ∨ x.state = 2) ∧ x.opened + x.timeout ≤ s.ns) ∧
    (∃ (g : Group) (q : Nat) (x : SeqSlot), q ≠ g.base ∧ tabGet g.slots (q % 4) = some x) ∧
    (∃ (g : Group) (q : Nat), (∀ x, tabGet g.slots ((q + 1) % 2 ^ 32 % 4) = some x → x.state ≠ 3) ∧ q = g.base ∧ q
      < 2 ^ 32) ∧
    (∃ (s : State) (gi i k : Nat) (x : SeqSlot), tabGet (s.group gi).slots i = some x ∧ (x.piece k).sentUp = none) ∧
    (∃ (s : State) (gi i k : Nat) (x : SeqSlot) (t : Nat), tabGet (s.group gi).slots i = some x ∧ (x.piece
      k).sentUp = some t ∧ ((x.piece k).treeDone = true ∨ s.ns < t + x.resendTime ∨ x.resendLimit ≤ (x.piece
      k).resends)) ∧
    (∃ (s : State) (gi i k : Nat) (x : SeqSlot) (t : Nat), tabGet (s.group gi).slots i = some x ∧ (x.piece
      k).sentUp = some t ∧ (x.piece k).treeDone = false ∧ t + x.resendTime ≤ s.ns ∧ (x.piece k).resends <
      x.resendLimit) ∧
    (∃ (s : State) (k : Packet) (port : Nat) (tagOk : Bool) (g : Group) (sh : Shape) (held : Option Nat) (form :
      Nat) (c : Instr), CollectiveOf s k g ∧ (k.phase = 2 ∧ bit g.rackMask k.srcRack = true ∧ c = .rackPartial k
      port tagOk ∨ k.phase = 3 ∧ c = .treeResult k port tagOk) ∧ s.fabricOff .mod = false ∧ s.expired .mod (· == k)
      = none ∧ formOk k false = true ∧ isColl k.typ = true ∧ k.job ≠ 0 ∧ k.job ≠ 0xFFFF ∧ k.dst = s.node .mod ∧
      s.sealCheck .mod k tagOk = 0 ∧ (g.ctx k.cctx).op = k.typ - 0x20 ∧ held = s.heldSize k ∧ sh = g.shape
      (s.heldContext k) (held.getD 0) ∧ (form = treeForm g sh k (held.map fun _ => sh.pieces)) ∧ s.phaseOk g (g.ctx
      k.cctx).op k.phase k.tree = true ∧ form = 1) ∧
    (∃ (s : State) (k : Packet) (port : Nat) (tagOk : Bool) (g : Group) (sh : Shape) (held : Option Nat) (form :
      Nat) (c : Instr), CollectiveOf s k g ∧ (k.phase = 2 ∧ bit g.rackMask k.srcRack = true ∧ c = .rackPartial k
      port tagOk ∨ k.phase = 3 ∧ c = .treeResult k port tagOk) ∧ s.fabricOff .mod = false ∧ s.expired .mod (· == k)
      = none ∧ formOk k false = true ∧ isColl k.typ = true ∧ k.job ≠ 0 ∧ k.job ≠ 0xFFFF ∧ k.dst = s.node .mod ∧
      s.sealCheck .mod k tagOk = 0 ∧ (g.ctx k.cctx).op = k.typ - 0x20 ∧ held = s.heldSize k ∧ sh = g.shape
      (s.heldContext k) (held.getD 0) ∧ (form = treeForm g sh k (held.map fun _ => sh.pieces)) ∧ s.phaseOk g (g.ctx
      k.cctx).op k.phase k.tree = true ∧ form = 2) ∧
    (∃ (s : State) (k : Packet) (port : Nat) (tagOk : Bool) (g : Group) (sh : Shape) (held : Option Nat) (form :
      Nat) (c : Instr), CollectiveOf s k g ∧ (k.phase = 2 ∧ bit g.rackMask k.srcRack = true ∧ c = .rackPartial k
      port tagOk ∨ k.phase = 3 ∧ c = .treeResult k port tagOk) ∧ s.fabricOff .mod = false ∧ s.expired .mod (· == k)
      = none ∧ formOk k false = true ∧ isColl k.typ = true ∧ k.job ≠ 0 ∧ k.job ≠ 0xFFFF ∧ k.dst = s.node .mod ∧
      s.sealCheck .mod k tagOk = 0 ∧ (g.ctx k.cctx).op = k.typ - 0x20 ∧ held = s.heldSize k ∧ sh = g.shape
      (s.heldContext k) (held.getD 0) ∧ (form = treeForm g sh k (held.map fun _ => sh.pieces)) ∧ s.phaseOk g (g.ctx
      k.cctx).op k.phase k.tree = true ∧ form = 0 ∧ g.place k.cseq ≠ cDone) ∧
    (∃ (s : State) (k : Packet) (port : Nat) (tagOk : Bool) (g : Group) (sh : Shape) (held : Option Nat) (form :
      Nat), CollectiveOf s k g ∧ s.fabricOff .mod = false ∧ s.expired .mod (· == k) = none ∧ formOk k false = true
      ∧ isColl k.typ = true ∧ k.job ≠ 0 ∧ k.job ≠ 0xFFFF ∧ k.dst = s.node .mod ∧ s.sealCheck .mod k tagOk = 0 ∧
      (g.ctx k.cctx).op = k.typ - 0x20 ∧ held = s.heldSize k ∧ sh = g.shape (s.heldContext k) (held.getD 0) ∧ (form
      = treeForm g sh k (held.map fun _ => sh.pieces)) ∧ s.phaseOk g (g.ctx k.cctx).op k.phase k.tree = true ∧
      k.phase = 2 ∧ bit g.rackMask k.srcRack = false) ∧
    (∃ (s : State) (k : Packet) (port : Nat) (tagOk : Bool) (g : Group) (sh : Shape) (held : Option Nat) (form :
      Nat), CollectiveOf s k g ∧ s.fabricOff .mod = false ∧ s.expired .mod (· == k) = none ∧ formOk k false = true
      ∧ isColl k.typ = true ∧ k.job ≠ 0 ∧ k.job ≠ 0xFFFF ∧ k.dst = s.node .mod ∧ s.sealCheck .mod k tagOk = 0 ∧
      (g.ctx k.cctx).op = k.typ - 0x20 ∧ held = s.heldSize k ∧ sh = g.shape (s.heldContext k) (held.getD 0) ∧ (form
      = treeForm g sh k (held.map fun _ => sh.pieces)) ∧ s.phaseOk g (g.ctx k.cctx).op k.phase k.tree = true ∧ form
      = 0 ∧ g.place k.cseq = cDone ∧ s.reg .mod 0x500001 = 1 ∧ k.phase = 2 ∧ bit g.rackMask k.srcRack = true) ∧
    (∃ (s : State) (k : Packet) (port : Nat) (tagOk : Bool) (g : Group) (sh : Shape) (held : Option Nat) (form :
      Nat), CollectiveOf s k g ∧ s.fabricOff .mod = false ∧ s.expired .mod (· == k) = none ∧ formOk k false = true
      ∧ isColl k.typ = true ∧ k.job ≠ 0 ∧ k.job ≠ 0xFFFF ∧ k.dst = s.node .mod ∧ s.sealCheck .mod k tagOk = 0 ∧
      (g.ctx k.cctx).op = k.typ - 0x20 ∧ held = s.heldSize k ∧ sh = g.shape (s.heldContext k) (held.getD 0) ∧ (form
      = treeForm g sh k (held.map fun _ => sh.pieces)) ∧ s.phaseOk g (g.ctx k.cctx).op k.phase k.tree = true ∧ form
      = 0 ∧ g.place k.cseq = cDone ∧ s.reg .mod 0x500001 = 1 ∧ k.phase = 3) ∧
    (∃ (s : State) (k : Packet) (port : Nat) (tagOk : Bool) (g : Group) (sh : Shape) (held : Option Nat) (form :
      Nat) (u : State) (x : SeqSlot), CollectiveOf s k g ∧ u = (s.arrives .mod k).openSlot k.group k.cseq k.cctx ∧
      s.fabricOff .mod = false ∧ s.expired .mod (· == k) = none ∧ formOk k false = true ∧ isColl k.typ = true ∧
      k.job ≠ 0 ∧ k.job ≠ 0xFFFF ∧ k.dst = s.node .mod ∧ s.sealCheck .mod k tagOk = 0 ∧ (g.ctx k.cctx).op = k.typ -
      0x20 ∧ held = s.heldSize k ∧ sh = g.shape (s.heldContext k) (held.getD 0) ∧ (form = treeForm g sh k (held.map
      fun _ => sh.pieces)) ∧ s.phaseOk g (g.ctx k.cctx).op k.phase k.tree = true ∧ form = 0 ∧ g.place k.cseq =
      cDone ∧ s.reg .mod 0x500001 ≠ 1 ∧ u.seqSlot k.group k.cseq = some x ∧ k.phase = 2 ∧ bit g.rackMask k.srcRack
      = true ∧ (x.piece k.piece).treeDone = false ∧ (∃ t ∈ (x.piece k.piece).partials, partsMeet t.2 k.payload =
      true)) ∧
    (∃ (s : State) (k : Packet) (port : Nat) (tagOk : Bool) (g : Group) (sh : Shape) (held : Option Nat) (form :
      Nat) (u : State) (x : SeqSlot), CollectiveOf s k g ∧ u = (s.arrives .mod k).openSlot k.group k.cseq k.cctx ∧
      s.fabricOff .mod = false ∧ s.expired .mod (· == k) = none ∧ formOk k false = true ∧ isColl k.typ = true ∧
      k.job ≠ 0 ∧ k.job ≠ 0xFFFF ∧ k.dst = s.node .mod ∧ s.sealCheck .mod k tagOk = 0 ∧ (g.ctx k.cctx).op = k.typ -
      0x20 ∧ held = s.heldSize k ∧ sh = g.shape (s.heldContext k) (held.getD 0) ∧ (form = treeForm g sh k (held.map
      fun _ => sh.pieces)) ∧ s.phaseOk g (g.ctx k.cctx).op k.phase k.tree = true ∧ form = 0 ∧ g.place k.cseq =
      cDone ∧ s.reg .mod 0x500001 ≠ 1 ∧ u.seqSlot k.group k.cseq = some x ∧ k.phase = 2 ∧ bit g.rackMask k.srcRack
      = true ∧ (x.piece k.piece).treeDone = false ∧ (∀ t ∈ (x.piece k.piece).partials, partsMeet t.2 k.payload =
      false)) ∧
    (∃ (s : State) (k : Packet) (port : Nat) (tagOk : Bool) (g : Group) (sh : Shape) (held : Option Nat) (form :
      Nat) (u : State) (x : SeqSlot), CollectiveOf s k g ∧ u = (s.arrives .mod k).openSlot k.group k.cseq k.cctx ∧
      s.fabricOff .mod = false ∧ s.expired .mod (· == k) = none ∧ formOk k false = true ∧ isColl k.typ = true ∧
      k.job ≠ 0 ∧ k.job ≠ 0xFFFF ∧ k.dst = s.node .mod ∧ s.sealCheck .mod k tagOk = 0 ∧ (g.ctx k.cctx).op = k.typ -
      0x20 ∧ held = s.heldSize k ∧ sh = g.shape (s.heldContext k) (held.getD 0) ∧ (form = treeForm g sh k (held.map
      fun _ => sh.pieces)) ∧ s.phaseOk g (g.ctx k.cctx).op k.phase k.tree = true ∧ form = 0 ∧ g.place k.cseq =
      cDone ∧ s.reg .mod 0x500001 ≠ 1 ∧ u.seqSlot k.group k.cseq = some x ∧ k.phase = 2 ∧ bit g.rackMask k.srcRack
      = true ∧ (x.piece k.piece).treeDone = true) ∧
    (∃ (s : State) (k : Packet) (port : Nat) (tagOk : Bool) (g : Group) (sh : Shape) (held : Option Nat) (form :
      Nat) (u : State) (x : SeqSlot), CollectiveOf s k g ∧ u = (s.arrives .mod k).openSlot k.group k.cseq k.cctx ∧
      s.fabricOff .mod = false ∧ s.expired .mod (· == k) = none ∧ formOk k false = true ∧ isColl k.typ = true ∧
      k.job ≠ 0 ∧ k.job ≠ 0xFFFF ∧ k.dst = s.node .mod ∧ s.sealCheck .mod k tagOk = 0 ∧ (g.ctx k.cctx).op = k.typ -
      0x20 ∧ held = s.heldSize k ∧ sh = g.shape (s.heldContext k) (held.getD 0) ∧ (form = treeForm g sh k (held.map
      fun _ => sh.pieces)) ∧ s.phaseOk g (g.ctx k.cctx).op k.phase k.tree = true ∧ form = 0 ∧ g.place k.cseq =
      cDone ∧ s.reg .mod 0x500001 ≠ 1 ∧ u.seqSlot k.group k.cseq = some x ∧ k.phase = 3 ∧ (x.piece
      k.piece).treeDone = true) ∧
    (∃ (s : State) (k : Packet) (port : Nat) (tagOk : Bool) (g : Group) (sh : Shape) (held : Option Nat) (form :
      Nat) (u : State) (x : SeqSlot), CollectiveOf s k g ∧ u = (s.arrives .mod k).openSlot k.group k.cseq k.cctx ∧
      s.fabricOff .mod = false ∧ s.expired .mod (· == k) = none ∧ formOk k false = true ∧ isColl k.typ = true ∧
      k.job ≠ 0 ∧ k.job ≠ 0xFFFF ∧ k.dst = s.node .mod ∧ s.sealCheck .mod k tagOk = 0 ∧ (g.ctx k.cctx).op = k.typ -
      0x20 ∧ held = s.heldSize k ∧ sh = g.shape (s.heldContext k) (held.getD 0) ∧ (form = treeForm g sh k (held.map
      fun _ => sh.pieces)) ∧ s.phaseOk g (g.ctx k.cctx).op k.phase k.tree = true ∧ form = 0 ∧ g.place k.cseq =
      cDone ∧ s.reg .mod 0x500001 ≠ 1 ∧ u.seqSlot k.group k.cseq = some x ∧ k.phase = 3 ∧ (x.piece
      k.piece).treeDone = false ∧ Piece.treeOnly sh (partFields k.payload).1 (s.rack .mod) = true) ∧
    (∃ (s : State) (k : Packet) (port : Nat) (tagOk : Bool) (g : Group) (sh : Shape) (held : Option Nat) (form :
      Nat) (u : State) (x : SeqSlot) (fresh : List (Nat × List Byte)), CollectiveOf s k g ∧ u = (s.arrives .mod
      k).openSlot k.group k.cseq k.cctx ∧ s.fabricOff .mod = false ∧ s.expired .mod (· == k) = none ∧ formOk k
      false = true ∧ isColl k.typ = true ∧ k.job ≠ 0 ∧ k.job ≠ 0xFFFF ∧ k.dst = s.node .mod ∧ s.sealCheck .mod k
      tagOk = 0 ∧ (g.ctx k.cctx).op = k.typ - 0x20 ∧ held = s.heldSize k ∧ sh = g.shape (s.heldContext k)
      (held.getD 0) ∧ (form = treeForm g sh k (held.map fun _ => sh.pieces)) ∧ s.phaseOk g (g.ctx k.cctx).op
      k.phase k.tree = true ∧ form = 0 ∧ g.place k.cseq = cDone ∧ s.reg .mod 0x500001 ≠ 1 ∧ u.seqSlot k.group
      k.cseq = some x ∧ k.phase = 3 ∧ (x.piece k.piece).treeDone = false ∧ Piece.treeOnly sh (partFields
      k.payload).1 (s.rack .mod) = false ∧ (fresh = (x.piece k.piece).partials.filter (fun t => t.1 != 2 ^ s.rack
      .mod)) ∧ (∃ t ∈ fresh, partsMeet t.2 k.payload = true)) ∧
    (∃ (s : State) (k : Packet) (port : Nat) (tagOk : Bool) (g : Group) (sh : Shape) (held : Option Nat) (form :
      Nat) (u : State) (x : SeqSlot) (fresh : List (Nat × List Byte)), CollectiveOf s k g ∧ u = (s.arrives .mod
      k).openSlot k.group k.cseq k.cctx ∧ s.fabricOff .mod = false ∧ s.expired .mod (· == k) = none ∧ formOk k
      false = true ∧ isColl k.typ = true ∧ k.job ≠ 0 ∧ k.job ≠ 0xFFFF ∧ k.dst = s.node .mod ∧ s.sealCheck .mod k
      tagOk = 0 ∧ (g.ctx k.cctx).op = k.typ - 0x20 ∧ held = s.heldSize k ∧ sh = g.shape (s.heldContext k)
      (held.getD 0) ∧ (form = treeForm g sh k (held.map fun _ => sh.pieces)) ∧ s.phaseOk g (g.ctx k.cctx).op
      k.phase k.tree = true ∧ form = 0 ∧ g.place k.cseq = cDone ∧ s.reg .mod 0x500001 ≠ 1 ∧ u.seqSlot k.group
      k.cseq = some x ∧ k.phase = 3 ∧ (x.piece k.piece).treeDone = false ∧ Piece.treeOnly sh (partFields
      k.payload).1 (s.rack .mod) = false ∧ (fresh = (x.piece k.piece).partials.filter (fun t => t.1 != 2 ^ s.rack
      .mod)) ∧ (∀ t ∈ fresh, partsMeet t.2 k.payload = false)) ∧
    (∃ (s : State) (gi i k t need : Nat) (g : Group) (x : SeqSlot) (sh : Shape) (p q : Piece) (ok : Bool), s.group
      gi = g ∧ tabGet g.slots i = some x ∧ p = x.piece k ∧ t = x.home gi k ∧ sh = g.shape x.cctx (x.size.getD 0) ∧
      p.spilled = false) ∧
    (∃ (s : State) (gi i k t need : Nat) (g : Group) (x : SeqSlot) (sh : Shape) (p q : Piece) (ok : Bool), s.group
      gi = g ∧ tabGet g.slots i = some x ∧ p = x.piece k ∧ t = x.home gi k ∧ sh = g.shape x.cctx (x.size.getD 0) ∧
      p.spilled = true ∧ (ok = false ∨ s.pagesOf (.piece gi x.cseq k) < p.pagesFor sh) ∧ p.done = true) ∧
    (∃ (s : State) (gi i k t need : Nat) (g : Group) (x : SeqSlot) (sh : Shape) (p q : Piece) (ok : Bool), s.group
      gi = g ∧ tabGet g.slots i = some x ∧ p = x.piece k ∧ t = x.home gi k ∧ sh = g.shape x.cctx (x.size.getD 0) ∧
      p.spilled = true ∧ (ok = false ∨ s.pagesOf (.piece gi x.cseq k) < p.pagesFor sh) ∧ p.done = false) ∧
    (∃ (s : State) (gi i k t need : Nat) (g : Group) (x : SeqSlot) (sh : Shape) (p q : Piece), q = p.merged sh
      (g.ranksIn (s.rack .mod)).length ∧ s.group gi = g ∧ tabGet g.slots i = some x ∧ p = x.piece k ∧ t = x.home gi
      k ∧ sh = g.shape x.cctx (x.size.getD 0) ∧ p.spilled = true ∧ p.pagesFor sh ≤ s.pagesOf (.piece gi x.cseq k) ∧
      need = q.cellsFor sh ∧ p.cells < need ∧ s.takeCells t (need - p.cells) (gi, x.cseq, k) 4096 = none) ∧
    (∃ (s : State) (gi i k t need : Nat) (g : Group) (x : SeqSlot) (sh : Shape) (p q : Piece) (v w : State), q =
      p.merged sh (g.ranksIn (s.rack .mod)).length ∧ (need ≤ p.cells ∧ v = s ∨ p.cells < need ∧ s.takeCells t (need
      - p.cells) (gi, x.cseq, k) 4096 = some v) ∧ (w = (((v.modTile t fun y =>
      { y with windUsed := if need ≤ p.cells then y.windUsed + need - p.cells else y.windUsed }).dropPages (.piece
      gi x.cseq k)).modPiece gi x.cseq k fun _ => { q with cells := need, touched := v.clock })) ∧ s.group gi = g ∧
      tabGet g.slots i = some x ∧ p = x.piece k ∧ t = x.home gi k ∧ sh = g.shape x.cctx (x.size.getD 0) ∧ p.spilled
      = true ∧ p.pagesFor sh ≤ s.pagesOf (.piece gi x.cseq k) ∧ need = q.cellsFor sh ∧ w.slotBegun gi g x.cctx
      x.cseq sh k = false) ∧
    (∃ (s : State) (gi i k t need : Nat) (g : Group) (x : SeqSlot) (sh : Shape) (p q : Piece) (v w : State), q =
      p.merged sh (g.ranksIn (s.rack .mod)).length ∧ (need ≤ p.cells ∧ v = s ∨ p.cells < need ∧ s.takeCells t (need
      - p.cells) (gi, x.cseq, k) 4096 = some v) ∧ (w = (((v.modTile t fun y =>
      { y with windUsed := if need ≤ p.cells then y.windUsed + need - p.cells else y.windUsed }).dropPages (.piece
      gi x.cseq k)).modPiece gi x.cseq k fun _ => { q with cells := need, touched := v.clock })) ∧ s.group gi = g ∧
      tabGet g.slots i = some x ∧ p = x.piece k ∧ t = x.home gi k ∧ sh = g.shape x.cctx (x.size.getD 0) ∧ p.spilled
      = true ∧ p.pagesFor sh ≤ s.pagesOf (.piece gi x.cseq k) ∧ need = q.cellsFor sh ∧ w.slotBegun gi g x.cctx
      x.cseq sh k = true) ∧
    (∃ (p : Piece) (sh : Shape) (n : Nat) (q : Piece), q = p.merged sh n ∧ p.side = []) ∧
    (∃ (p : Piece) (sh : Shape) (n : Nat) (q : Piece), q = p.merged sh n ∧ p.side ≠ []) ∧
    (∃ (p : Piece) (sh : Shape) (n : Nat) (q : Piece), q = p.merged sh n ∧ p.sideNodes ≠ []) ∧
    (∃ (p : Piece) (sh : Shape) (n : Nat) (q : Piece), q = p.merged sh n ∧ p.sideNodes = []) ∧
    (∃ (p : Piece) (sh : Shape) (n : Nat) (q : Piece), q = p.merged sh n ∧ p.sideHeld ≠ []) ∧
    (∃ (p : Piece) (sh : Shape) (n : Nat) (q : Piece), q = p.merged sh n ∧ p.sideHeld = []) :=
  ⟨⟨mod5 (grp5 0 0 9 [(1, ⟨1, 9, 0, 0, 1000, 0, 0, none, [], [], [], [], false, []⟩)]), 1, 1, grp5 0 0 9 [(1, ⟨1,
     9, 0, 0, 1000, 0, 0, none, [], [], [], [], false, []⟩)], ⟨1, 9, 0, 0, 1000, 0, 0, none, [], [], [], [], false,
     []⟩, by decide +kernel⟩,
   ⟨mod5 (grp5 0 0 9 [(1, ⟨2, 9, 0, 0, 1000, 0, 0, none, [], [], [], [], false, []⟩)]), 1, 1, grp5 0 0 9 [(1, ⟨2,
     9, 0, 0, 1000, 0, 0, none, [], [], [], [], false, []⟩)], ⟨2, 9, 0, 0, 1000, 0, 0, none, [], [], [], [], false,
     []⟩, of_all (by decide +kernel), by decide +kernel⟩,
   ⟨mod5 (grp5 5 0 9 [(1, ⟨2, 9, 0, 0, 1000, 0, 0, none, [], [], [], [], false, []⟩)]), 1, 1, grp5 5 0 9 [(1, ⟨2,
     9, 0, 0, 1000, 0, 0, none, [], [], [], [], false, []⟩)], ⟨2, 9, 0, 0, 1000, 0, 0, none, [], [], [], [], false,
     []⟩, (mod5 (grp5 5 0 9 [(1, ⟨2, 9, 0, 0, 1000, 0, 0, none, [], [], [], [], false, []⟩)])).sendRelease 1 9,
     rfl, of_all (by decide +kernel), by decide +kernel⟩,
   ⟨mod5 (grp5 0 0 9 [(1, ⟨3, 9, 0, 0, 1000, 0, 0, none, [], [], [], [], false, []⟩)]), 1, 1, grp5 0 0 9 [(1, ⟨3,
     9, 0, 0, 1000, 0, 0, none, [], [], [], [], false, []⟩)], ⟨3, 9, 0, 0, 1000, 0, 0, none, [], [], [], [], false,
     []⟩, by decide +kernel⟩,
   ⟨mod5 (grp5 0 0 9 [(1, ⟨2, 9, 0, 0, 0, 0, 0, none, [], [], [], [], false, []⟩)]), 1, 1, grp5 0 0 9 [(1, ⟨2, 9,
     0, 0, 0, 0, 0, none, [], [], [], [], false, []⟩)], ⟨2, 9, 0, 0, 0, 0, 0, none, [], [], [], [], false, []⟩, by
     decide +kernel⟩,
   ⟨grp5 0 0 9 [(2, ⟨2, 10, 0, 0, 1000, 0, 0, some 64, [], [], [], [], false, []⟩)], 10, ⟨2, 10, 0, 0, 1000, 0, 0,
     some 64, [], [], [], [], false, []⟩, by decide +kernel, by decide +kernel⟩,
   ⟨grp5 0 0 9 [], 9, of_all (by decide +kernel), by decide +kernel⟩,
   ⟨mod5 (grp5 0 0 9 [(1, ⟨2, 9, 0, 0, 1000, 0, 0, none, [], [], [], [], false, []⟩)]), 1, 1, 0, ⟨2, 9, 0, 0, 1000,
     0, 0, none, [], [], [], [], false, []⟩, by decide +kernel⟩,
   ⟨mod5 (grp5 0 0 9 [(1, ⟨2, 9, 0, 0, 1000, 0, 3, none, [], [(0,
     { Piece.empty with sentUp := some 0, resends := 3 })], [], [], false, []⟩)]), 1, 1, 0, ⟨2, 9, 0, 0, 1000, 0,
     3, none, [], [(0, { Piece.empty with sentUp := some 0, resends := 3 })], [], [], false, []⟩, 0, by
     decide +kernel⟩,
   ⟨mod5 (grp5 0 0 9 [(1, ⟨2, 9, 0, 0, 1000, 0, 3, none, [], [(0,
     { Piece.empty with sentUp := some 0, resends := 2 })], [], [], false, []⟩)]), 1, 1, 0, ⟨2, 9, 0, 0, 1000, 0,
     3, none, [], [(0, { Piece.empty with sentUp := some 0, resends := 2 })], [], [], false, []⟩, 0, by
     decide +kernel⟩,
   ⟨mod5 (⟨true, 5, 0, 3, false, 0, [7], [(0, ⟨true, 3, 0, 0, 1⟩)], [], 9, []⟩),
     { coll5 3 2 with srcRack := 1, src := 512, tree := 1, len := 16, payload := beBytes 16 (0 * 2 ^ 112 + 0 * 2 ^ 86) ++ List.replicate 0 255#8 },
     0, true, ⟨true, 5, 0, 3, false, 0, [7], [(0, ⟨true, 3, 0, 0, 1⟩)], [], 9, []⟩, shT (mod5 (⟨true, 5, 0, 3,
     false, 0, [7], [(0, ⟨true, 3, 0, 0, 1⟩)], [], 9, []⟩))
     ({ coll5 3 2 with srcRack := 1, src := 512, tree := 1, len := 16, payload := beBytes 16 (0 * 2 ^ 112 + 0 * 2 ^ 86) ++ List.replicate 0 255#8 }),
     State.heldSize (mod5 (⟨true, 5, 0, 3, false, 0, [7], [(0, ⟨true, 3, 0, 0, 1⟩)], [], 9, []⟩))
     ({ coll5 3 2 with srcRack := 1, src := 512, tree := 1, len := 16, payload := beBytes 16 (0 * 2 ^ 112 + 0 * 2 ^ 86) ++ List.replicate 0 255#8 }),
     1, .rackPartial
     ({ coll5 3 2 with srcRack := 1, src := 512, tree := 1, len := 16, payload := beBytes 16 (0 * 2 ^ 112 + 0 * 2 ^ 86) ++ List.replicate 0 255#8 })
     0 true, coll_of (by decide +kernel) (by decide +kernel) (by decide +kernel), .inl ⟨rfl, by decide, rfl⟩, by
     decide +kernel⟩,
   ⟨mod5 (⟨true, 5, 0, 3, false, 0, [7], [(0, ⟨true, 0, 0, 0, 1⟩)], [], 9, []⟩),
     { coll5 0 2 with srcRack := 1, src := 512, tree := 1, len := 20, payload := beBytes 16 (2 * 2 ^ 112 + 1 * 2 ^ 86) ++ List.replicate 4 255#8 },
     0, true, ⟨true, 5, 0, 3, false, 0, [7], [(0, ⟨true, 0, 0, 0, 1⟩)], [], 9, []⟩, shT (mod5 (⟨true, 5, 0, 3,
     false, 0, [7], [(0, ⟨true, 0, 0, 0, 1⟩)], [], 9, []⟩))
     ({ coll5 0 2 with srcRack := 1, src := 512, tree := 1, len := 20, payload := beBytes 16 (2 * 2 ^ 112 + 1 * 2 ^ 86) ++ List.replicate 4 255#8 }),
     State.heldSize (mod5 (⟨true, 5, 0, 3, false, 0, [7], [(0, ⟨true, 0, 0, 0, 1⟩)], [], 9, []⟩))
     ({ coll5 0 2 with srcRack := 1, src := 512, tree := 1, len := 20, payload := beBytes 16 (2 * 2 ^ 112 + 1 * 2 ^ 86) ++ List.replicate 4 255#8 }),
     2, .rackPartial
     ({ coll5 0 2 with srcRack := 1, src := 512, tree := 1, len := 20, payload := beBytes 16 (2 * 2 ^ 112 + 1 * 2 ^ 86) ++ List.replicate 4 255#8 })
     0 true, coll_of (by decide +kernel) (by decide +kernel) (by decide +kernel), .inl ⟨rfl, by decide, rfl⟩, by
     decide +kernel⟩,
   ⟨mod5 (⟨true, 5, 0, 3, false, 0, [7], [(0, ⟨true, 3, 0, 0, 1⟩)], [], 5, []⟩),
     { coll5 3 2 with srcRack := 1, src := 512, tree := 1, len := 16, payload := beBytes 16 (2 * 2 ^ 112 + 0 * 2 ^ 86) ++ List.replicate 0 255#8 },
     0, true, ⟨true, 5, 0, 3, false, 0, [7], [(0, ⟨true, 3, 0, 0, 1⟩)], [], 5, []⟩, shT (mod5 (⟨true, 5, 0, 3,
     false, 0, [7], [(0, ⟨true, 3, 0, 0, 1⟩)], [], 5, []⟩))
     ({ coll5 3 2 with srcRack := 1, src := 512, tree := 1, len := 16, payload := beBytes 16 (2 * 2 ^ 112 + 0 * 2 ^ 86) ++ List.replicate 0 255#8 }),
     State.heldSize (mod5 (⟨true, 5, 0, 3, false, 0, [7], [(0, ⟨true, 3, 0, 0, 1⟩)], [], 5, []⟩))
     ({ coll5 3 2 with srcRack := 1, src := 512, tree := 1, len := 16, payload := beBytes 16 (2 * 2 ^ 112 + 0 * 2 ^ 86) ++ List.replicate 0 255#8 }),
     0, .rackPartial
     ({ coll5 3 2 with srcRack := 1, src := 512, tree := 1, len := 16, payload := beBytes 16 (2 * 2 ^ 112 + 0 * 2 ^ 86) ++ List.replicate 0 255#8 })
     0 true, coll_of (by decide +kernel) (by decide +kernel) (by decide +kernel), .inl ⟨rfl, by decide, rfl⟩, by
     decide +kernel⟩,
   ⟨mod5 (⟨true, 5, 0, 3, false, 0, [7], [(0, ⟨true, 3, 0, 0, 1⟩)], [], 9, []⟩),
     { coll5 3 2 with src := 512, tree := 1, len := 16, payload := beBytes 16 (2 * 2 ^ 112 + 0 * 2 ^ 86) ++ List.replicate 0 255#8, srcRack := 5 },
     0, true, ⟨true, 5, 0, 3, false, 0, [7], [(0, ⟨true, 3, 0, 0, 1⟩)], [], 9, []⟩, shT (mod5 (⟨true, 5, 0, 3,
     false, 0, [7], [(0, ⟨true, 3, 0, 0, 1⟩)], [], 9, []⟩))
     ({ coll5 3 2 with src := 512, tree := 1, len := 16, payload := beBytes 16 (2 * 2 ^ 112 + 0 * 2 ^ 86) ++ List.replicate 0 255#8, srcRack := 5 }),
     State.heldSize (mod5 (⟨true, 5, 0, 3, false, 0, [7], [(0, ⟨true, 3, 0, 0, 1⟩)], [], 9, []⟩))
     ({ coll5 3 2 with src := 512, tree := 1, len := 16, payload := beBytes 16 (2 * 2 ^ 112 + 0 * 2 ^ 86) ++ List.replicate 0 255#8, srcRack := 5 }),
     0, coll_of (by decide +kernel) (by decide +kernel) (by decide +kernel), by decide +kernel⟩,
   ⟨{ mod5 (⟨true, 5, 0, 3, false, 0, [7], [(0, ⟨true, 3, 0, 0, 1⟩)], [], 9, []⟩) with mod.sh.regs := [(0x500001 * 65536, 1)] },
     { coll5 3 2 with srcRack := 1, src := 512, tree := 1, len := 16, payload := beBytes 16 (2 * 2 ^ 112 + 0 * 2 ^ 86) ++ List.replicate 0 255#8 },
     0, true, ⟨true, 5, 0, 3, false, 0, [7], [(0, ⟨true, 3, 0, 0, 1⟩)], [], 9, []⟩, shT
     ({ mod5 (⟨true, 5, 0, 3, false, 0, [7], [(0, ⟨true, 3, 0, 0, 1⟩)], [], 9, []⟩) with mod.sh.regs := [(0x500001 * 65536, 1)] })
     ({ coll5 3 2 with srcRack := 1, src := 512, tree := 1, len := 16, payload := beBytes 16 (2 * 2 ^ 112 + 0 * 2 ^ 86) ++ List.replicate 0 255#8 }),
     State.heldSize
     ({ mod5 (⟨true, 5, 0, 3, false, 0, [7], [(0, ⟨true, 3, 0, 0, 1⟩)], [], 9, []⟩) with mod.sh.regs := [(0x500001 * 65536, 1)] })
     ({ coll5 3 2 with srcRack := 1, src := 512, tree := 1, len := 16, payload := beBytes 16 (2 * 2 ^ 112 + 0 * 2 ^ 86) ++ List.replicate 0 255#8 }),
     0, coll_of (by decide +kernel) (by decide +kernel) (by decide +kernel), by decide +kernel⟩,
   ⟨{ mod5 (⟨true, 5, 0, 3, false, 0, [7], [(0, ⟨true, 3, 0, 0, 1⟩)], [], 9, []⟩) with mod.sh.regs := [(0x500001 * 65536, 1)] },
     { coll5 3 3 with srcRack := 1, src := 512, tree := 1, len := 16, payload := beBytes 16 (2 * 2 ^ 112 + 0 * 2 ^ 86) ++ List.replicate 0 255#8 },
     0, true, ⟨true, 5, 0, 3, false, 0, [7], [(0, ⟨true, 3, 0, 0, 1⟩)], [], 9, []⟩, shT
     ({ mod5 (⟨true, 5, 0, 3, false, 0, [7], [(0, ⟨true, 3, 0, 0, 1⟩)], [], 9, []⟩) with mod.sh.regs := [(0x500001 * 65536, 1)] })
     ({ coll5 3 3 with srcRack := 1, src := 512, tree := 1, len := 16, payload := beBytes 16 (2 * 2 ^ 112 + 0 * 2 ^ 86) ++ List.replicate 0 255#8 }),
     State.heldSize
     ({ mod5 (⟨true, 5, 0, 3, false, 0, [7], [(0, ⟨true, 3, 0, 0, 1⟩)], [], 9, []⟩) with mod.sh.regs := [(0x500001 * 65536, 1)] })
     ({ coll5 3 3 with srcRack := 1, src := 512, tree := 1, len := 16, payload := beBytes 16 (2 * 2 ^ 112 + 0 * 2 ^ 86) ++ List.replicate 0 255#8 }),
     0, coll_of (by decide +kernel) (by decide +kernel) (by decide +kernel), by decide +kernel⟩,
   ⟨mod5 (⟨true, 5, 0, 3, false, 0, [7], [(0, ⟨true, 3, 0, 0, 1⟩)], [], 9, [(1, ⟨1, 9, 0, 0, 16000000, 500000, 8,
     none, List.range 64, [(0,
     { Piece.empty with partials := [(2, beBytes 16 (2 * 2 ^ 112 + 0 * 2 ^ 86) ++ List.replicate 0 255#8)] })], [],
     [], false, []⟩)]⟩),
     { coll5 3 2 with srcRack := 1, src := 512, tree := 1, len := 16, payload := beBytes 16 (2 * 2 ^ 112 + 0 * 2 ^ 86) ++ List.replicate 0 255#8 },
     0, true, ⟨true, 5, 0, 3, false, 0, [7], [(0, ⟨true, 3, 0, 0, 1⟩)], [], 9, [(1, ⟨1, 9, 0, 0, 16000000, 500000,
     8, none, List.range 64, [(0,
     { Piece.empty with partials := [(2, beBytes 16 (2 * 2 ^ 112 + 0 * 2 ^ 86) ++ List.replicate 0 255#8)] })], [],
     [], false, []⟩)]⟩, shT (mod5 (⟨true, 5, 0, 3, false, 0, [7], [(0, ⟨true, 3, 0, 0, 1⟩)], [], 9, [(1, ⟨1, 9, 0,
     0, 16000000, 500000, 8, none, List.range 64, [(0,
     { Piece.empty with partials := [(2, beBytes 16 (2 * 2 ^ 112 + 0 * 2 ^ 86) ++ List.replicate 0 255#8)] })], [],
     [], false, []⟩)]⟩))
     ({ coll5 3 2 with srcRack := 1, src := 512, tree := 1, len := 16, payload := beBytes 16 (2 * 2 ^ 112 + 0 * 2 ^ 86) ++ List.replicate 0 255#8 }),
     State.heldSize (mod5 (⟨true, 5, 0, 3, false, 0, [7], [(0, ⟨true, 3, 0, 0, 1⟩)], [], 9, [(1, ⟨1, 9, 0, 0,
     16000000, 500000, 8, none, List.range 64, [(0,
     { Piece.empty with partials := [(2, beBytes 16 (2 * 2 ^ 112 + 0 * 2 ^ 86) ++ List.replicate 0 255#8)] })], [],
     [], false, []⟩)]⟩))
     ({ coll5 3 2 with srcRack := 1, src := 512, tree := 1, len := 16, payload := beBytes 16 (2 * 2 ^ 112 + 0 * 2 ^ 86) ++ List.replicate 0 255#8 }),
     0, opT (mod5 (⟨true, 5, 0, 3, false, 0, [7], [(0, ⟨true, 3, 0, 0, 1⟩)], [], 9, [(1, ⟨1, 9, 0, 0, 16000000,
     500000, 8, none, List.range 64, [(0,
     { Piece.empty with partials := [(2, beBytes 16 (2 * 2 ^ 112 + 0 * 2 ^ 86) ++ List.replicate 0 255#8)] })], [],
     [], false, []⟩)]⟩))
     ({ coll5 3 2 with srcRack := 1, src := 512, tree := 1, len := 16, payload := beBytes 16 (2 * 2 ^ 112 + 0 * 2 ^ 86) ++ List.replicate 0 255#8 }),
     slT (mod5 (⟨true, 5, 0, 3, false, 0, [7], [(0, ⟨true, 3, 0, 0, 1⟩)], [], 9, [(1, ⟨1, 9, 0, 0, 16000000,
     500000, 8, none, List.range 64, [(0,
     { Piece.empty with partials := [(2, beBytes 16 (2 * 2 ^ 112 + 0 * 2 ^ 86) ++ List.replicate 0 255#8)] })], [],
     [], false, []⟩)]⟩))
     ({ coll5 3 2 with srcRack := 1, src := 512, tree := 1, len := 16, payload := beBytes 16 (2 * 2 ^ 112 + 0 * 2 ^ 86) ++ List.replicate 0 255#8 }),
     coll_of (by decide +kernel) (by decide +kernel) (by decide +kernel), rfl, by decide +kernel⟩,
   ⟨mod5 (⟨true, 5, 0, 3, false, 0, [7], [(0, ⟨true, 3, 0, 0, 1⟩)], [], 9, [(1, ⟨1, 9, 0, 0, 16000000, 500000, 8,
     none, List.range 64, [], [], [], false, []⟩)]⟩),
     { coll5 3 2 with srcRack := 1, src := 512, tree := 1, len := 16, payload := beBytes 16 (2 * 2 ^ 112 + 0 * 2 ^ 86) ++ List.replicate 0 255#8 },
     0, true, ⟨true, 5, 0, 3, false, 0, [7], [(0, ⟨true, 3, 0, 0, 1⟩)], [], 9, [(1, ⟨1, 9, 0, 0, 16000000, 500000,
     8, none, List.range 64, [], [], [], false, []⟩)]⟩, shT (mod5 (⟨true, 5, 0, 3, false, 0, [7], [(0, ⟨true, 3, 0,
     0, 1⟩)], [], 9, [(1, ⟨1, 9, 0, 0, 16000000, 500000, 8, none, List.range 64, [], [], [], false, []⟩)]⟩))
     ({ coll5 3 2 with srcRack := 1, src := 512, tree := 1, len := 16, payload := beBytes 16 (2 * 2 ^ 112 + 0 * 2 ^ 86) ++ List.replicate 0 255#8 }),
     State.heldSize (mod5 (⟨true, 5, 0, 3, false, 0, [7], [(0, ⟨true, 3, 0, 0, 1⟩)], [], 9, [(1, ⟨1, 9, 0, 0,
     16000000, 500000, 8, none, List.range 64, [], [], [], false, []⟩)]⟩))
     ({ coll5 3 2 with srcRack := 1, src := 512, tree := 1, len := 16, payload := beBytes 16 (2 * 2 ^ 112 + 0 * 2 ^ 86) ++ List.replicate 0 255#8 }),
     0, opT (mod5 (⟨true, 5, 0, 3, false, 0, [7], [(0, ⟨true, 3, 0, 0, 1⟩)], [], 9, [(1, ⟨1, 9, 0, 0, 16000000,
     500000, 8, none, List.range 64, [], [], [], false, []⟩)]⟩))
     ({ coll5 3 2 with srcRack := 1, src := 512, tree := 1, len := 16, payload := beBytes 16 (2 * 2 ^ 112 + 0 * 2 ^ 86) ++ List.replicate 0 255#8 }),
     slT (mod5 (⟨true, 5, 0, 3, false, 0, [7], [(0, ⟨true, 3, 0, 0, 1⟩)], [], 9, [(1, ⟨1, 9, 0, 0, 16000000,
     500000, 8, none, List.range 64, [], [], [], false, []⟩)]⟩))
     ({ coll5 3 2 with srcRack := 1, src := 512, tree := 1, len := 16, payload := beBytes 16 (2 * 2 ^ 112 + 0 * 2 ^ 86) ++ List.replicate 0 255#8 }),
     coll_of (by decide +kernel) (by decide +kernel) (by decide +kernel), rfl, by decide +kernel⟩,
   ⟨mod5 (⟨true, 5, 0, 3, false, 0, [7], [(0, ⟨true, 3, 0, 0, 1⟩)], [], 9, [(1, ⟨1, 9, 0, 0, 16000000, 500000, 8,
     none, List.range 64, [(0, { Piece.empty with treeDone := true })], [], [], false, []⟩)]⟩),
     { coll5 3 2 with srcRack := 1, src := 512, tree := 1, len := 16, payload := beBytes 16 (2 * 2 ^ 112 + 0 * 2 ^ 86) ++ List.replicate 0 255#8 },
     0, true, ⟨true, 5, 0, 3, false, 0, [7], [(0, ⟨true, 3, 0, 0, 1⟩)], [], 9, [(1, ⟨1, 9, 0, 0, 16000000, 500000,
     8, none, List.range 64, [(0, { Piece.empty with treeDone := true })], [], [], false, []⟩)]⟩, shT (mod5 (⟨true,
     5, 0, 3, false, 0, [7], [(0, ⟨true, 3, 0, 0, 1⟩)], [], 9, [(1, ⟨1, 9, 0, 0, 16000000, 500000, 8, none,
     List.range 64, [(0, { Piece.empty with treeDone := true })], [], [], false, []⟩)]⟩))
     ({ coll5 3 2 with srcRack := 1, src := 512, tree := 1, len := 16, payload := beBytes 16 (2 * 2 ^ 112 + 0 * 2 ^ 86) ++ List.replicate 0 255#8 }),
     State.heldSize (mod5 (⟨true, 5, 0, 3, false, 0, [7], [(0, ⟨true, 3, 0, 0, 1⟩)], [], 9, [(1, ⟨1, 9, 0, 0,
     16000000, 500000, 8, none, List.range 64, [(0, { Piece.empty with treeDone := true })], [], [], false,
     []⟩)]⟩))
     ({ coll5 3 2 with srcRack := 1, src := 512, tree := 1, len := 16, payload := beBytes 16 (2 * 2 ^ 112 + 0 * 2 ^ 86) ++ List.replicate 0 255#8 }),
     0, opT (mod5 (⟨true, 5, 0, 3, false, 0, [7], [(0, ⟨true, 3, 0, 0, 1⟩)], [], 9, [(1, ⟨1, 9, 0, 0, 16000000,
     500000, 8, none, List.range 64, [(0, { Piece.empty with treeDone := true })], [], [], false, []⟩)]⟩))
     ({ coll5 3 2 with srcRack := 1, src := 512, tree := 1, len := 16, payload := beBytes 16 (2 * 2 ^ 112 + 0 * 2 ^ 86) ++ List.replicate 0 255#8 }),
     slT (mod5 (⟨true, 5, 0, 3, false, 0, [7], [(0, ⟨true, 3, 0, 0, 1⟩)], [], 9, [(1, ⟨1, 9, 0, 0, 16000000,
     500000, 8, none, List.range 64, [(0, { Piece.empty with treeDone := true })], [], [], false, []⟩)]⟩))
     ({ coll5 3 2 with srcRack := 1, src := 512, tree := 1, len := 16, payload := beBytes 16 (2 * 2 ^ 112 + 0 * 2 ^ 86) ++ List.replicate 0 255#8 }),
     coll_of (by decide +kernel) (by decide +kernel) (by decide +kernel), rfl, by decide +kernel⟩,
   ⟨mod5 (⟨true, 5, 0, 3, false, 0, [7], [(0, ⟨true, 3, 0, 0, 1⟩)], [], 9, [(1, ⟨1, 9, 0, 0, 16000000, 500000, 8,
     none, List.range 64, [(0, { Piece.empty with treeDone := true })], [], [], false, []⟩)]⟩),
     { coll5 3 3 with srcRack := 1, src := 512, tree := 1, len := 16, payload := beBytes 16 (2 * 2 ^ 112 + 0 * 2 ^ 86) ++ List.replicate 0 255#8 },
     0, true, ⟨true, 5, 0, 3, false, 0, [7], [(0, ⟨true, 3, 0, 0, 1⟩)], [], 9, [(1, ⟨1, 9, 0, 0, 16000000, 500000,
     8, none, List.range 64, [(0, { Piece.empty with treeDone := true })], [], [], false, []⟩)]⟩, shT (mod5 (⟨true,
     5, 0, 3, false, 0, [7], [(0, ⟨true, 3, 0, 0, 1⟩)], [], 9, [(1, ⟨1, 9, 0, 0, 16000000, 500000, 8, none,
     List.range 64, [(0, { Piece.empty with treeDone := true })], [], [], false, []⟩)]⟩))
     ({ coll5 3 3 with srcRack := 1, src := 512, tree := 1, len := 16, payload := beBytes 16 (2 * 2 ^ 112 + 0 * 2 ^ 86) ++ List.replicate 0 255#8 }),
     State.heldSize (mod5 (⟨true, 5, 0, 3, false, 0, [7], [(0, ⟨true, 3, 0, 0, 1⟩)], [], 9, [(1, ⟨1, 9, 0, 0,
     16000000, 500000, 8, none, List.range 64, [(0, { Piece.empty with treeDone := true })], [], [], false,
     []⟩)]⟩))
     ({ coll5 3 3 with srcRack := 1, src := 512, tree := 1, len := 16, payload := beBytes 16 (2 * 2 ^ 112 + 0 * 2 ^ 86) ++ List.replicate 0 255#8 }),
     0, opT (mod5 (⟨true, 5, 0, 3, false, 0, [7], [(0, ⟨true, 3, 0, 0, 1⟩)], [], 9, [(1, ⟨1, 9, 0, 0, 16000000,
     500000, 8, none, List.range 64, [(0, { Piece.empty with treeDone := true })], [], [], false, []⟩)]⟩))
     ({ coll5 3 3 with srcRack := 1, src := 512, tree := 1, len := 16, payload := beBytes 16 (2 * 2 ^ 112 + 0 * 2 ^ 86) ++ List.replicate 0 255#8 }),
     slT (mod5 (⟨true, 5, 0, 3, false, 0, [7], [(0, ⟨true, 3, 0, 0, 1⟩)], [], 9, [(1, ⟨1, 9, 0, 0, 16000000,
     500000, 8, none, List.range 64, [(0, { Piece.empty with treeDone := true })], [], [], false, []⟩)]⟩))
     ({ coll5 3 3 with srcRack := 1, src := 512, tree := 1, len := 16, payload := beBytes 16 (2 * 2 ^ 112 + 0 * 2 ^ 86) ++ List.replicate 0 255#8 }),
     coll_of (by decide +kernel) (by decide +kernel) (by decide +kernel), rfl, by decide +kernel⟩,
   ⟨mod5 (⟨true, 5, 0, 3, false, 0, [7], [(0, ⟨true, 3, 0, 0, 1⟩)], [], 9, [(1, ⟨1, 9, 0, 0, 16000000, 500000, 8,
     none, List.range 64, [], [], [], false, []⟩)]⟩),
     { coll5 3 3 with srcRack := 1, src := 512, tree := 1, len := 16, payload := beBytes 16 (2 * 2 ^ 112 + 0 * 2 ^ 86) ++ List.replicate 0 255#8 },
     0, true, ⟨true, 5, 0, 3, false, 0, [7], [(0, ⟨true, 3, 0, 0, 1⟩)], [], 9, [(1, ⟨1, 9, 0, 0, 16000000, 500000,
     8, none, List.range 64, [], [], [], false, []⟩)]⟩, shT (mod5 (⟨true, 5, 0, 3, false, 0, [7], [(0, ⟨true, 3, 0,
     0, 1⟩)], [], 9, [(1, ⟨1, 9, 0, 0, 16000000, 500000, 8, none, List.range 64, [], [], [], false, []⟩)]⟩))
     ({ coll5 3 3 with srcRack := 1, src := 512, tree := 1, len := 16, payload := beBytes 16 (2 * 2 ^ 112 + 0 * 2 ^ 86) ++ List.replicate 0 255#8 }),
     State.heldSize (mod5 (⟨true, 5, 0, 3, false, 0, [7], [(0, ⟨true, 3, 0, 0, 1⟩)], [], 9, [(1, ⟨1, 9, 0, 0,
     16000000, 500000, 8, none, List.range 64, [], [], [], false, []⟩)]⟩))
     ({ coll5 3 3 with srcRack := 1, src := 512, tree := 1, len := 16, payload := beBytes 16 (2 * 2 ^ 112 + 0 * 2 ^ 86) ++ List.replicate 0 255#8 }),
     0, opT (mod5 (⟨true, 5, 0, 3, false, 0, [7], [(0, ⟨true, 3, 0, 0, 1⟩)], [], 9, [(1, ⟨1, 9, 0, 0, 16000000,
     500000, 8, none, List.range 64, [], [], [], false, []⟩)]⟩))
     ({ coll5 3 3 with srcRack := 1, src := 512, tree := 1, len := 16, payload := beBytes 16 (2 * 2 ^ 112 + 0 * 2 ^ 86) ++ List.replicate 0 255#8 }),
     slT (mod5 (⟨true, 5, 0, 3, false, 0, [7], [(0, ⟨true, 3, 0, 0, 1⟩)], [], 9, [(1, ⟨1, 9, 0, 0, 16000000,
     500000, 8, none, List.range 64, [], [], [], false, []⟩)]⟩))
     ({ coll5 3 3 with srcRack := 1, src := 512, tree := 1, len := 16, payload := beBytes 16 (2 * 2 ^ 112 + 0 * 2 ^ 86) ++ List.replicate 0 255#8 }),
     coll_of (by decide +kernel) (by decide +kernel) (by decide +kernel), rfl, by decide +kernel⟩,
   ⟨mod5 (⟨true, 5, 0, 3, false, 0, [7], [(0, ⟨true, 0, 0, 0, 1⟩)], [], 9, [(1, ⟨1, 9, 0, 0, 16000000, 500000, 8,
     none, List.range 64, [(0,
     { Piece.empty with partials := [(2, beBytes 16 (2 * 2 ^ 112 + 1 * 2 ^ 86) ++ List.replicate 4 255#8)] })], [],
     [], false, []⟩)]⟩),
     { coll5 0 3 with srcRack := 1, src := 512, tree := 1, len := 20, payload := beBytes 16 (2 * 2 ^ 112 + 1 * 2 ^ 86) ++ List.replicate 4 255#8 },
     0, true, ⟨true, 5, 0, 3, false, 0, [7], [(0, ⟨true, 0, 0, 0, 1⟩)], [], 9, [(1, ⟨1, 9, 0, 0, 16000000, 500000,
     8, none, List.range 64, [(0,
     { Piece.empty with partials := [(2, beBytes 16 (2 * 2 ^ 112 + 1 * 2 ^ 86) ++ List.replicate 4 255#8)] })], [],
     [], false, []⟩)]⟩, shT (mod5 (⟨true, 5, 0, 3, false, 0, [7], [(0, ⟨true, 0, 0, 0, 1⟩)], [], 9, [(1, ⟨1, 9, 0,
     0, 16000000, 500000, 8, none, List.range 64, [(0,
     { Piece.empty with partials := [(2, beBytes 16 (2 * 2 ^ 112 + 1 * 2 ^ 86) ++ List.replicate 4 255#8)] })], [],
     [], false, []⟩)]⟩))
     ({ coll5 0 3 with srcRack := 1, src := 512, tree := 1, len := 20, payload := beBytes 16 (2 * 2 ^ 112 + 1 * 2 ^ 86) ++ List.replicate 4 255#8 }),
     State.heldSize (mod5 (⟨true, 5, 0, 3, false, 0, [7], [(0, ⟨true, 0, 0, 0, 1⟩)], [], 9, [(1, ⟨1, 9, 0, 0,
     16000000, 500000, 8, none, List.range 64, [(0,
     { Piece.empty with partials := [(2, beBytes 16 (2 * 2 ^ 112 + 1 * 2 ^ 86) ++ List.replicate 4 255#8)] })], [],
     [], false, []⟩)]⟩))
     ({ coll5 0 3 with srcRack := 1, src := 512, tree := 1, len := 20, payload := beBytes 16 (2 * 2 ^ 112 + 1 * 2 ^ 86) ++ List.replicate 4 255#8 }),
     0, opT (mod5 (⟨true, 5, 0, 3, false, 0, [7], [(0, ⟨true, 0, 0, 0, 1⟩)], [], 9, [(1, ⟨1, 9, 0, 0, 16000000,
     500000, 8, none, List.range 64, [(0,
     { Piece.empty with partials := [(2, beBytes 16 (2 * 2 ^ 112 + 1 * 2 ^ 86) ++ List.replicate 4 255#8)] })], [],
     [], false, []⟩)]⟩))
     ({ coll5 0 3 with srcRack := 1, src := 512, tree := 1, len := 20, payload := beBytes 16 (2 * 2 ^ 112 + 1 * 2 ^ 86) ++ List.replicate 4 255#8 }),
     slT (mod5 (⟨true, 5, 0, 3, false, 0, [7], [(0, ⟨true, 0, 0, 0, 1⟩)], [], 9, [(1, ⟨1, 9, 0, 0, 16000000,
     500000, 8, none, List.range 64, [(0,
     { Piece.empty with partials := [(2, beBytes 16 (2 * 2 ^ 112 + 1 * 2 ^ 86) ++ List.replicate 4 255#8)] })], [],
     [], false, []⟩)]⟩))
     ({ coll5 0 3 with srcRack := 1, src := 512, tree := 1, len := 20, payload := beBytes 16 (2 * 2 ^ 112 + 1 * 2 ^ 86) ++ List.replicate 4 255#8 }),
     [(2, beBytes 16 (2 * 2 ^ 112 + 1 * 2 ^ 86) ++ List.replicate 4 255#8)], coll_of (by decide +kernel) (by
     decide +kernel) (by decide +kernel), rfl, by decide +kernel⟩,
   ⟨mod5 (⟨true, 5, 0, 3, false, 0, [7], [(0, ⟨true, 0, 0, 0, 1⟩)], [], 9, [(1, ⟨1, 9, 0, 0, 16000000, 500000, 8,
     none, List.range 64, [], [], [], false, []⟩)]⟩),
     { coll5 0 3 with srcRack := 1, src := 512, tree := 1, len := 20, payload := beBytes 16 (2 * 2 ^ 112 + 1 * 2 ^ 86) ++ List.replicate 4 255#8 },
     0, true, ⟨true, 5, 0, 3, false, 0, [7], [(0, ⟨true, 0, 0, 0, 1⟩)], [], 9, [(1, ⟨1, 9, 0, 0, 16000000, 500000,
     8, none, List.range 64, [], [], [], false, []⟩)]⟩, shT (mod5 (⟨true, 5, 0, 3, false, 0, [7], [(0, ⟨true, 0, 0,
     0, 1⟩)], [], 9, [(1, ⟨1, 9, 0, 0, 16000000, 500000, 8, none, List.range 64, [], [], [], false, []⟩)]⟩))
     ({ coll5 0 3 with srcRack := 1, src := 512, tree := 1, len := 20, payload := beBytes 16 (2 * 2 ^ 112 + 1 * 2 ^ 86) ++ List.replicate 4 255#8 }),
     State.heldSize (mod5 (⟨true, 5, 0, 3, false, 0, [7], [(0, ⟨true, 0, 0, 0, 1⟩)], [], 9, [(1, ⟨1, 9, 0, 0,
     16000000, 500000, 8, none, List.range 64, [], [], [], false, []⟩)]⟩))
     ({ coll5 0 3 with srcRack := 1, src := 512, tree := 1, len := 20, payload := beBytes 16 (2 * 2 ^ 112 + 1 * 2 ^ 86) ++ List.replicate 4 255#8 }),
     0, opT (mod5 (⟨true, 5, 0, 3, false, 0, [7], [(0, ⟨true, 0, 0, 0, 1⟩)], [], 9, [(1, ⟨1, 9, 0, 0, 16000000,
     500000, 8, none, List.range 64, [], [], [], false, []⟩)]⟩))
     ({ coll5 0 3 with srcRack := 1, src := 512, tree := 1, len := 20, payload := beBytes 16 (2 * 2 ^ 112 + 1 * 2 ^ 86) ++ List.replicate 4 255#8 }),
     slT (mod5 (⟨true, 5, 0, 3, false, 0, [7], [(0, ⟨true, 0, 0, 0, 1⟩)], [], 9, [(1, ⟨1, 9, 0, 0, 16000000,
     500000, 8, none, List.range 64, [], [], [], false, []⟩)]⟩))
     ({ coll5 0 3 with srcRack := 1, src := 512, tree := 1, len := 20, payload := beBytes 16 (2 * 2 ^ 112 + 1 * 2 ^ 86) ++ List.replicate 4 255#8 }),
     [], coll_of (by decide +kernel) (by decide +kernel) (by decide +kernel), rfl, by decide +kernel⟩,
   ⟨mod5 (grp5 0 0 9 [(1, ⟨2, 9, 0, 0, 1000, 0, 0, none, [], [], [], [], false, []⟩)]), 1, 1, 0, 0, (((⟨2, 9, 0, 0,
     1000, 0, 0, none, [], [], [], [], false, []⟩ : SeqSlot).piece 0).merged ((grp5 0 0 9 [(1, ⟨2, 9, 0, 0, 1000,
     0, 0, none, [], [], [], [], false, []⟩)] : Group).shape 0 0) 1).cellsFor ((grp5 0 0 9 [(1, ⟨2, 9, 0, 0, 1000,
     0, 0, none, [], [], [], [], false, []⟩)] : Group).shape 0 0), grp5 0 0 9 [(1, ⟨2, 9, 0, 0, 1000, 0, 0, none,
     [], [], [], [], false, []⟩)], ⟨2, 9, 0, 0, 1000, 0, 0, none, [], [], [], [], false, []⟩, (grp5 0 0 9 [(1, ⟨2,
     9, 0, 0, 1000, 0, 0, none, [], [], [], [], false, []⟩)] : Group).shape 0 0, (⟨2, 9, 0, 0, 1000, 0, 0, none,
     [], [], [], [], false, []⟩ : SeqSlot).piece 0, ((⟨2, 9, 0, 0, 1000, 0, 0, none, [], [], [], [], false, []⟩ :
     SeqSlot).piece 0).merged ((grp5 0 0 9 [(1, ⟨2, 9, 0, 0, 1000, 0, 0, none, [], [], [], [], false, []⟩)] :
     Group).shape 0 0) 1, false, by decide +kernel⟩,
   ⟨mod5 (grp5 0 0 9 [(1, ⟨2, 9, 0, 0, 1000, 0, 0, none, [], [(0,
     { Piece.empty with spilled := true, done := true })], [], [], false, []⟩)]), 1, 1, 0, 0, (((⟨2, 9, 0, 0, 1000,
     0, 0, none, [], [(0, { Piece.empty with spilled := true, done := true })], [], [], false, []⟩ : SeqSlot).piece
     0).merged ((grp5 0 0 9 [(1, ⟨2, 9, 0, 0, 1000, 0, 0, none, [], [(0,
     { Piece.empty with spilled := true, done := true })], [], [], false, []⟩)] : Group).shape 0 0) 1).cellsFor
     ((grp5 0 0 9 [(1, ⟨2, 9, 0, 0, 1000, 0, 0, none, [], [(0,
     { Piece.empty with spilled := true, done := true })], [], [], false, []⟩)] : Group).shape 0 0), grp5 0 0 9
     [(1, ⟨2, 9, 0, 0, 1000, 0, 0, none, [], [(0, { Piece.empty with spilled := true, done := true })], [], [],
     false, []⟩)], ⟨2, 9, 0, 0, 1000, 0, 0, none, [], [(0, { Piece.empty with spilled := true, done := true })],
     [], [], false, []⟩, (grp5 0 0 9 [(1, ⟨2, 9, 0, 0, 1000, 0, 0, none, [], [(0,
     { Piece.empty with spilled := true, done := true })], [], [], false, []⟩)] : Group).shape 0 0, (⟨2, 9, 0, 0,
     1000, 0, 0, none, [], [(0, { Piece.empty with spilled := true, done := true })], [], [], false, []⟩ :
     SeqSlot).piece 0, ((⟨2, 9, 0, 0, 1000, 0, 0, none, [], [(0,
     { Piece.empty with spilled := true, done := true })], [], [], false, []⟩ : SeqSlot).piece 0).merged ((grp5 0 0
     9 [(1, ⟨2, 9, 0, 0, 1000, 0, 0, none, [], [(0, { Piece.empty with spilled := true, done := true })], [], [],
     false, []⟩)] : Group).shape 0 0) 1, false, by decide +kernel⟩,
   ⟨mod5 (grp5 0 0 9 [(1, ⟨2, 9, 0, 0, 1000, 0, 0, none, [], [(0, { Piece.empty with spilled := true })], [], [],
     false, []⟩)]), 1, 1, 0, 0, (((⟨2, 9, 0, 0, 1000, 0, 0, none, [], [(0, { Piece.empty with spilled := true })],
     [], [], false, []⟩ : SeqSlot).piece 0).merged ((grp5 0 0 9 [(1, ⟨2, 9, 0, 0, 1000, 0, 0, none, [], [(0,
     { Piece.empty with spilled := true })], [], [], false, []⟩)] : Group).shape 0 0) 1).cellsFor ((grp5 0 0 9 [(1,
     ⟨2, 9, 0, 0, 1000, 0, 0, none, [], [(0, { Piece.empty with spilled := true })], [], [], false, []⟩)] :
     Group).shape 0 0), grp5 0 0 9 [(1, ⟨2, 9, 0, 0, 1000, 0, 0, none, [], [(0,
     { Piece.empty with spilled := true })], [], [], false, []⟩)], ⟨2, 9, 0, 0, 1000, 0, 0, none, [], [(0,
     { Piece.empty with spilled := true })], [], [], false, []⟩, (grp5 0 0 9 [(1, ⟨2, 9, 0, 0, 1000, 0, 0, none,
     [], [(0, { Piece.empty with spilled := true })], [], [], false, []⟩)] : Group).shape 0 0, (⟨2, 9, 0, 0, 1000,
     0, 0, none, [], [(0, { Piece.empty with spilled := true })], [], [], false, []⟩ : SeqSlot).piece 0, ((⟨2, 9,
     0, 0, 1000, 0, 0, none, [], [(0, { Piece.empty with spilled := true })], [], [], false, []⟩ : SeqSlot).piece
     0).merged ((grp5 0 0 9 [(1, ⟨2, 9, 0, 0, 1000, 0, 0, none, [], [(0, { Piece.empty with spilled := true })],
     [], [], false, []⟩)] : Group).shape 0 0) 1, false, by decide +kernel⟩,
   ⟨{ mod5 (grp5 0 0 9 [(1, ⟨2, 9, 0, 0, 1000, 0, 0, none, [], [(0, { Piece.empty with spilled := true, side := [Acc.zero] })], [], [], false, []⟩)]) with mod.tiles := [(0, ⟨true, false, 0, 0, 12288, 0, false⟩)] },
     1, 1, 0, 0, (((⟨2, 9, 0, 0, 1000, 0, 0, none, [], [(0,
     { Piece.empty with spilled := true, side := [Acc.zero] })], [], [], false, []⟩ : SeqSlot).piece 0).merged
     ((grp5 0 0 9 [(1, ⟨2, 9, 0, 0, 1000, 0, 0, none, [], [(0,
     { Piece.empty with spilled := true, side := [Acc.zero] })], [], [], false, []⟩)] : Group).shape 0 0)
     1).cellsFor ((grp5 0 0 9 [(1, ⟨2, 9, 0, 0, 1000, 0, 0, none, [], [(0,
     { Piece.empty with spilled := true, side := [Acc.zero] })], [], [], false, []⟩)] : Group).shape 0 0), grp5 0 0
     9 [(1, ⟨2, 9, 0, 0, 1000, 0, 0, none, [], [(0, { Piece.empty with spilled := true, side := [Acc.zero] })], [],
     [], false, []⟩)], ⟨2, 9, 0, 0, 1000, 0, 0, none, [], [(0,
     { Piece.empty with spilled := true, side := [Acc.zero] })], [], [], false, []⟩, (grp5 0 0 9 [(1, ⟨2, 9, 0, 0,
     1000, 0, 0, none, [], [(0, { Piece.empty with spilled := true, side := [Acc.zero] })], [], [], false, []⟩)] :
     Group).shape 0 0, (⟨2, 9, 0, 0, 1000, 0, 0, none, [], [(0,
     { Piece.empty with spilled := true, side := [Acc.zero] })], [], [], false, []⟩ : SeqSlot).piece 0, ((⟨2, 9, 0,
     0, 1000, 0, 0, none, [], [(0, { Piece.empty with spilled := true, side := [Acc.zero] })], [], [], false, []⟩ :
     SeqSlot).piece 0).merged ((grp5 0 0 9 [(1, ⟨2, 9, 0, 0, 1000, 0, 0, none, [], [(0,
     { Piece.empty with spilled := true, side := [Acc.zero] })], [], [], false, []⟩)] : Group).shape 0 0) 1, rfl,
     by decide +kernel⟩,
   ⟨mod5 (grp5 0 0 9 [(1, ⟨2, 9, 0, 0, 1000, 0, 0, none, [], [(0,
     { Piece.empty with spilled := true, cells := 5 })], [], [], false, []⟩)]), 1, 1, 0, 0, (((⟨2, 9, 0, 0, 1000,
     0, 0, none, [], [(0, { Piece.empty with spilled := true, cells := 5 })], [], [], false, []⟩ : SeqSlot).piece
     0).merged ((grp5 0 0 9 [(1, ⟨2, 9, 0, 0, 1000, 0, 0, none, [], [(0,
     { Piece.empty with spilled := true, cells := 5 })], [], [], false, []⟩)] : Group).shape 0 0) 1).cellsFor
     ((grp5 0 0 9 [(1, ⟨2, 9, 0, 0, 1000, 0, 0, none, [], [(0, { Piece.empty with spilled := true, cells := 5 })],
     [], [], false, []⟩)] : Group).shape 0 0), grp5 0 0 9 [(1, ⟨2, 9, 0, 0, 1000, 0, 0, none, [], [(0,
     { Piece.empty with spilled := true, cells := 5 })], [], [], false, []⟩)], ⟨2, 9, 0, 0, 1000, 0, 0, none, [],
     [(0, { Piece.empty with spilled := true, cells := 5 })], [], [], false, []⟩, (grp5 0 0 9 [(1, ⟨2, 9, 0, 0,
     1000, 0, 0, none, [], [(0, { Piece.empty with spilled := true, cells := 5 })], [], [], false, []⟩)] :
     Group).shape 0 0, (⟨2, 9, 0, 0, 1000, 0, 0, none, [], [(0, { Piece.empty with spilled := true, cells := 5 })],
     [], [], false, []⟩ : SeqSlot).piece 0, ((⟨2, 9, 0, 0, 1000, 0, 0, none, [], [(0,
     { Piece.empty with spilled := true, cells := 5 })], [], [], false, []⟩ : SeqSlot).piece 0).merged ((grp5 0 0 9
     [(1, ⟨2, 9, 0, 0, 1000, 0, 0, none, [], [(0, { Piece.empty with spilled := true, cells := 5 })], [], [],
     false, []⟩)] : Group).shape 0 0) 1, mod5 (grp5 0 0 9 [(1, ⟨2, 9, 0, 0, 1000, 0, 0, none, [], [(0,
     { Piece.empty with spilled := true, cells := 5 })], [], [], false, []⟩)]), backS (mod5 (grp5 0 0 9 [(1, ⟨2, 9,
     0, 0, 1000, 0, 0, none, [], [(0, { Piece.empty with spilled := true, cells := 5 })], [], [], false, []⟩)])) 0
     ((((⟨2, 9, 0, 0, 1000, 0, 0, none, [], [(0, { Piece.empty with spilled := true, cells := 5 })], [], [], false,
     []⟩ : SeqSlot).piece 0).merged ((grp5 0 0 9 [(1, ⟨2, 9, 0, 0, 1000, 0, 0, none, [], [(0,
     { Piece.empty with spilled := true, cells := 5 })], [], [], false, []⟩)] : Group).shape 0 0) 1).cellsFor
     ((grp5 0 0 9 [(1, ⟨2, 9, 0, 0, 1000, 0, 0, none, [], [(0, { Piece.empty with spilled := true, cells := 5 })],
     [], [], false, []⟩)] : Group).shape 0 0)) ((⟨2, 9, 0, 0, 1000, 0, 0, none, [], [(0,
     { Piece.empty with spilled := true, cells := 5 })], [], [], false, []⟩ : SeqSlot).piece 0) (((⟨2, 9, 0, 0,
     1000, 0, 0, none, [], [(0, { Piece.empty with spilled := true, cells := 5 })], [], [], false, []⟩ :
     SeqSlot).piece 0).merged ((grp5 0 0 9 [(1, ⟨2, 9, 0, 0, 1000, 0, 0, none, [], [(0,
     { Piece.empty with spilled := true, cells := 5 })], [], [], false, []⟩)] : Group).shape 0 0) 1), rfl, .inl ⟨by
     decide +kernel, rfl⟩, rfl, by decide +kernel⟩,
   ⟨{ mod5 (grp5 0 0 9 [(1, ⟨2, 9, 0, 0, 1000, 0, 0, none, [], [(0, { Piece.empty with spilled := true, cells := 5 })], [], [], false, []⟩)]) with mod.sh.mode := 1, mod.sh.rt.units := 50000, mod.sh.mown := [(3, ⟨5, 1, 0, 9, 0, 20, 500, 1, 3, [], [], 0⟩)] },
     1, 1, 0, 0, (((⟨2, 9, 0, 0, 1000, 0, 0, none, [], [(0, { Piece.empty with spilled := true, cells := 5 })], [],
     [], false, []⟩ : SeqSlot).piece 0).merged ((grp5 0 0 9 [(1, ⟨2, 9, 0, 0, 1000, 0, 0, none, [], [(0,
     { Piece.empty with spilled := true, cells := 5 })], [], [], false, []⟩)] : Group).shape 0 0) 1).cellsFor
     ((grp5 0 0 9 [(1, ⟨2, 9, 0, 0, 1000, 0, 0, none, [], [(0, { Piece.empty with spilled := true, cells := 5 })],
     [], [], false, []⟩)] : Group).shape 0 0), grp5 0 0 9 [(1, ⟨2, 9, 0, 0, 1000, 0, 0, none, [], [(0,
     { Piece.empty with spilled := true, cells := 5 })], [], [], false, []⟩)], ⟨2, 9, 0, 0, 1000, 0, 0, none, [],
     [(0, { Piece.empty with spilled := true, cells := 5 })], [], [], false, []⟩, (grp5 0 0 9 [(1, ⟨2, 9, 0, 0,
     1000, 0, 0, none, [], [(0, { Piece.empty with spilled := true, cells := 5 })], [], [], false, []⟩)] :
     Group).shape 0 0, (⟨2, 9, 0, 0, 1000, 0, 0, none, [], [(0, { Piece.empty with spilled := true, cells := 5 })],
     [], [], false, []⟩ : SeqSlot).piece 0, ((⟨2, 9, 0, 0, 1000, 0, 0, none, [], [(0,
     { Piece.empty with spilled := true, cells := 5 })], [], [], false, []⟩ : SeqSlot).piece 0).merged ((grp5 0 0 9
     [(1, ⟨2, 9, 0, 0, 1000, 0, 0, none, [], [(0, { Piece.empty with spilled := true, cells := 5 })], [], [],
     false, []⟩)] : Group).shape 0 0) 1,
     { mod5 (grp5 0 0 9 [(1, ⟨2, 9, 0, 0, 1000, 0, 0, none, [], [(0, { Piece.empty with spilled := true, cells := 5 })], [], [], false, []⟩)]) with mod.sh.mode := 1, mod.sh.rt.units := 50000, mod.sh.mown := [(3, ⟨5, 1, 0, 9, 0, 20, 500, 1, 3, [], [], 0⟩)] },
     backS
     ({ mod5 (grp5 0 0 9 [(1, ⟨2, 9, 0, 0, 1000, 0, 0, none, [], [(0, { Piece.empty with spilled := true, cells := 5 })], [], [], false, []⟩)]) with mod.sh.mode := 1, mod.sh.rt.units := 50000, mod.sh.mown := [(3, ⟨5, 1, 0, 9, 0, 20, 500, 1, 3, [], [], 0⟩)] })
     0 ((((⟨2, 9, 0, 0, 1000, 0, 0, none, [], [(0, { Piece.empty with spilled := true, cells := 5 })], [], [],
     false, []⟩ : SeqSlot).piece 0).merged ((grp5 0 0 9 [(1, ⟨2, 9, 0, 0, 1000, 0, 0, none, [], [(0,
     { Piece.empty with spilled := true, cells := 5 })], [], [], false, []⟩)] : Group).shape 0 0) 1).cellsFor
     ((grp5 0 0 9 [(1, ⟨2, 9, 0, 0, 1000, 0, 0, none, [], [(0, { Piece.empty with spilled := true, cells := 5 })],
     [], [], false, []⟩)] : Group).shape 0 0)) ((⟨2, 9, 0, 0, 1000, 0, 0, none, [], [(0,
     { Piece.empty with spilled := true, cells := 5 })], [], [], false, []⟩ : SeqSlot).piece 0) (((⟨2, 9, 0, 0,
     1000, 0, 0, none, [], [(0, { Piece.empty with spilled := true, cells := 5 })], [], [], false, []⟩ :
     SeqSlot).piece 0).merged ((grp5 0 0 9 [(1, ⟨2, 9, 0, 0, 1000, 0, 0, none, [], [(0,
     { Piece.empty with spilled := true, cells := 5 })], [], [], false, []⟩)] : Group).shape 0 0) 1), rfl, .inl ⟨by
     decide +kernel, rfl⟩, rfl, by decide +kernel⟩,
   ⟨Piece.empty, ⟨0, 0, 1, 0, 1, 1, 1, 1⟩, 1, Piece.merged Piece.empty ⟨0, 0, 1, 0, 1, 1, 1, 1⟩ 1, rfl, by
     decide +kernel⟩,
   ⟨{ Piece.empty with side := [Acc.zero] }, ⟨0, 0, 1, 0, 1, 1, 1, 1⟩, 1, Piece.merged
     { Piece.empty with side := [Acc.zero] } ⟨0, 0, 1, 0, 1, 1, 1, 1⟩ 1, rfl, by decide +kernel⟩,
   ⟨{ Piece.empty with sideNodes := [⟨0, 1, []⟩] }, ⟨0, 0, 1, 0, 1, 1, 1, 1⟩, 1, Piece.merged
     { Piece.empty with sideNodes := [⟨0, 1, []⟩] } ⟨0, 0, 1, 0, 1, 1, 1, 1⟩ 1, rfl, by decide +kernel⟩,
   ⟨Piece.empty, ⟨0, 0, 1, 0, 1, 1, 1, 1⟩, 1, Piece.merged Piece.empty ⟨0, 0, 1, 0, 1, 1, 1, 1⟩ 1, rfl, by
     decide +kernel⟩,
   ⟨{ Piece.empty with sideHeld := [(0, [])] }, ⟨0, 0, 1, 0, 1, 1, 1, 1⟩, 1, Piece.merged
     { Piece.empty with sideHeld := [(0, [])] } ⟨0, 0, 1, 0, 1, 1, 1, 1⟩ 1, rfl, by decide +kernel⟩,
   ⟨Piece.empty, ⟨0, 0, 1, 0, 1, 1, 1, 1⟩, 1, Piece.merged Piece.empty ⟨0, 0, 1, 0, 1, 1, 1, 1⟩ 1, rfl, by
     decide +kernel⟩⟩

/-- A state and operands that meet the hypotheses of StepRunsFrontCommand. -/
theorem test_hyps_StepRunsFrontCommand :
    ∃ (s : State), s.pending = [] :=
  ⟨State.reset, by decide +kernel⟩

/-- A state and operands that meet the hypotheses of StepKeepsMemoryCanonical. -/
theorem test_hyps_StepKeepsMemoryCanonical :
    ∃ (s t : State), step s = .next t ∧ memoryWf s.mod.mem = true :=
  ⟨State.reset, State.reset.idle, by rfl, by decide +kernel⟩

/-- For each clause of HeadersRoundTrip, a state and operands that meet its hypotheses. -/
theorem test_hyps_HeadersRoundTrip :
    (∃ (p : Packet), p.fits = true) ∧
    (∃ (m : Eri), m.fits = true) :=
  ⟨⟨Packet.zero, by decide +kernel⟩,
   ⟨Eri.zero, by decide +kernel⟩⟩

/-- For each clause of EntriesReadAsWritten, a state and operands that meet its hypotheses. -/
theorem test_hyps_EntriesReadAsWritten :
    (∃ (w : _), w < 2 ^ 128 ∧ (admOf w).2 = 0) ∧
    (∃ (w : _), w < 2 ^ 128 ∧ (groupOf w).2 = 0) ∧
    (∃ (w : _), w < 2 ^ 128 ∧ (contextOf w).2 = 0) ∧
    (∃ (w : _), w < 2 ^ 128 ∧ (regionOf w).2 = 0) ∧
    (∃ (w : _), w < 2 ^ 128 ∧ (windowOf w).2 = 0) ∧
    (∃ (w : _), w < 2 ^ 256 ∧ bits w 75 0 = 0) :=
  ⟨⟨AdmEntry.word ⟨true, 5, 2, 1, 3, true, true, true, true⟩, by decide +kernel⟩,
   ⟨Group.word ⟨true, 5, 0, 1, false, 0, [], [], [], 0, []⟩, by decide +kernel⟩,
   ⟨CContext.bits_ ⟨true, 3, 1, 7, 2⟩, by decide +kernel⟩,
   ⟨Region.word ⟨true, 2, 0, false, 0, 3, 5, 0, 0, false, 0, 0, false, none, 0, none, none⟩, by decide +kernel⟩,
   ⟨Window.word ⟨3, 3, 7, 1, 0, 1⟩, by decide +kernel⟩,
   ⟨MownEntry.word ⟨5, 1, 0, 9, 7, 20, 500, 1, 0, [], [], 0⟩, by decide +kernel⟩⟩

/-! ### The worked examples of the spec: every expected value below is one that the spec prints. -/

/-- R22, the example of the stripe map: offset 0x0040_1000 of node 37 on 16 planes, and after plane 1 has left. -/
theorem test_stripe_map :
    { base with ep.live := List.range 16 }.planeFor 37 0x401000 = some 1 ∧
      { base with ep.live := [0, 2, 3, 4, 5, 6, 7, 8, 9, 10, 11, 12, 13, 14, 15] }.planeFor 37 0x401000 = some 6 := by
  decide +kernel

/-- R17, the example of ports 137 and 37. -/
theorem test_port_tiles : tileOfPort 137 = 34 ∧ tileOfPort 37 = 17 := by decide

/-- R29 to R31, the example of VFA 0x01_0000_4060_3A10: the indices, and the page of its leaf at L3. -/
theorem test_translation_example :
    [0, 1, 2, 3].map (fun l => walkIndex l (0x01000040603A10 / 65536)) = [1, 0, 1, 3] ∧
      (match tableEntry 0 3 (0x01000040603A10 / 65536) (2 * 2 ^ 126 + 2 ^ 124 + 3 * 2 ^ 122 + 0x0940001A60 * 2 ^ 40) (2 ^ 40) with
        | .inr (.leaf e) => (e.page, e.r, e.w, e.a) == (0x0940001A60, true, true, false)
        | _ => false) = true ∧
      { base with ep.live := List.range 16 }.planeFor 37 0x1A603A10 = some 3 := by
  decide +kernel

/-- R313, the nonce of the store of node 5 to node 37 with Sequence 0x1F41. -/
theorem test_nonce_example :
    pairNonce { Packet.zero with typ := 2, src := 5, dst := 37, seq := 0x1F41 } 0 = 0x001402508000000000001F41 := by decide

/-- R235, R236, the example of a 4,144-byte frame (131 blocks) and of a 48-byte response (3 blocks). -/
theorem test_frame_blocks : 1 + dataBlocks 4144 + 1 = 131 ∧ 1 + dataBlocks 48 + 1 = 3 := by decide

/-- R222, the route of the session example: V = 1 and Port = 37. -/
theorem test_route_word : (Route.word ⟨true, false, 37⟩) = 0x89400000 := by decide

def x0 : Machine.Num := decodeF kFp32 0x4B800000
def x1 : Machine.Num := decodeF kFp32 0x3F800000
def x2 : Machine.Num := decodeF kFp32 0x3F800000
def x3 : Machine.Num := decodeF kFp32 0xCB800000

/-- R132, R138, R141, R142, the example of 2^24, 1, 1 and -2^24: exact mode gives 2.0, ordered mode 1.0. -/
theorem test_exact_and_ordered_sums :
    (convF kFp32 ((((Acc.zero.add x3).add x1).add x0).add x2).value 0 false).w = 0x40000000 ∧
      (convF kFp32 (treeSum kFp32 4 [x0, x1, x2, x3]) 0 false).w = 0x3F800000 ∧
      (convF kFp32 (addNum kFp32 x2 x3) 0 false).w = 0xCB7FFFFF := by
  decide +kernel

/-- R145, the compact record of A = 2^150. -/
theorem test_compact_record :
    ((((Acc.zero.add x3).add x1).add x0).add x2).partial_ = [0x96#8, 0x00#8, 0x01#8] ++ List.replicate 15 0#8 := by
  decide +kernel

/-- R146, the MXFP8 example: scale 0x7F, element 0 0x79, element 5 0x06. -/
theorem test_mx_block :
    (mxBlock 5 ((List.range 32).map fun i =>
      if i = 0 then .fin false (unitsOf 300 0) else if i = 5 then .fin false (unitsOf 11 (-10)) else .fin false 0) 0 false).1 =
      [0x7F#8, 0x79#8, 0x00#8, 0x00#8, 0x00#8, 0x00#8, 0x06#8] ++ List.replicate 26 0#8 := by
  decide +kernel

/-- The program of the example: LDC, MUL, LDC, LDC, CLP, OUT, and its constants. -/
def progBlock : List Byte :=
  [0x11000000, 0x28040000, 0x12000001, 0x13000002, 0x50098000, 0x80000080].flatMap (leBytes 4) ++ List.replicate 104 0#8 ++
    [0x3E000000, 0xC0800000, 0x40800000].flatMap (leBytes 4) ++ List.replicate 52 0#8

/-- R150 to R155, the program example: sums 41.0 and -10.0 are written as 0x4080 and 0xBFA0. -/
theorem test_program_example :
    ((aword 0x04212800).ok && progOk (aword 0x04212800) progBlock) = true ∧
      (finishNums (aword 0x04212800) progBlock [.fin false (unitsOf 41 0), .fin true (unitsOf 10 0)]).1 =
        [0x80#8, 0x40#8, 0xA0#8, 0xBF#8] := by
  decide +kernel

/-- R156 to R158, the reduce-scatter of 64 MiB of BF16 over 128 members: E, Q, and piece 1,000. -/
theorem test_reduce_scatter_shape :
    (fun s : Shape => s.e = 2048 ∧ s.q = 128 ∧ s.pieces = 16384 ∧ s.shard 1000 = 7 ∧ s.part 1000 = 104 ∧
      s.first 1000 = 2048000 ∧ s.elems 1000 = 2048) (shapeOf 0 0x04200000 0 3 262144 128) ∧
      planeOfChunk (List.range 16) (1000 / 8) = 13 ∧ treeOfPiece 16 3 1000 = 1 := by
  decide +kernel

/-- A candidate row of the merge example. -/
def row (l : List (Nat × Nat)) : List Byte := rowBytes l

/-- R165, the merge example: 3.0 of index 900, 2.5 of index 40, 2.5 of index 101. -/
theorem test_merge_example :
    mergeTopK 3 [row [(0x40200000, 101), (0x3F800000, 7), (0x3F000000, 300)],
      row [(0x40200000, 40), (0x40400000, 900), (0xBF800000, 12)],
      row [(0x3F800000, 5), (0x7FC00000, 77), (0x40200000, 101)],
      row [(0x80000000, 3), (0x00000000, 2), (0x3F400000, 64)]] =
      [0x00#8, 0x00#8, 0x40#8, 0x40#8, 0x84#8, 0x03#8, 0x00#8, 0x00#8, 0x00#8, 0x00#8, 0x20#8, 0x40#8, 0x28#8, 0x00#8,
        0x00#8, 0x00#8, 0x00#8, 0x00#8, 0x20#8, 0x40#8, 0x65#8, 0x00#8, 0x00#8, 0x00#8] := by
  decide +kernel

/-- R180, R191, R192, the region example: its fields, its allocator, and the first page that Allocate returns. -/
theorem test_region_example :
    (fun r : Region => r.v ∧ r.kind = 1 ∧ r.placement = 0 ∧ r.first = 0x1000000000 ∧ r.bytes = 2 ^ 30 ∧ r.owner = 0x0A41 ∧
      pageBytes r.page = 65536 ∧ (newAlloc r).pages = 16381 ∧ (newAlloc r).top = some 3 ∧
      ((newAlloc r).run 8 true none 1 0x001200000000 65536).2.data = leBytes 8 0x001200030000)
      (regionOf 0x90080000290480000000000000000000).1 := by
  decide +kernel

/-- R181, the stacks of the region example: the page at 0x10_0040_0000 starts on stack 8, its record lies on stack 16. -/
theorem test_stack_example :
    (fun s : State => s.stackOf 0x1000400000 = 8 ∧ s.stackOf 0x100040F000 = 23 ∧ s.stackOf 0x1000000240 = 16)
      { base with mod.regions := [(3, (regionOf 0x90080000290480000000000000000000).1)] } := by
  decide +kernel

/-- R83, the reference example: add, release, and the release that frees the page before a late add. -/
theorem test_reference_example :
    (fun a : Alloc =>
      let b := a.run 10 false (some 64) 1 0 65536
      let c := b.1.run 11 false (some 64) 0 0 65536
      let d := c.1.run 11 false (some 64) 0 0 65536
      let e := d.1.run 10 false (some 64) 1 0 65536
      [b, c, d, e].map (fun x => leNat x.2.data) = [1, 2, 1, 0] ∧ tabGetD d.1.counts 64 0 = 0 ∧ e.1 = d.1)
      { newAlloc (regionOf 0x90080000290480000000000000000000).1 with counts := [(64, 1)], fresh := 65 } := by
  decide +kernel

/-- R177, the barrier example: 0, 350 and 12,900 ns late. -/
theorem test_lateness_example :
    (fun s : State => tabGet s.mod.late 90 = some ⟨1, 1, 12, 12900⟩ ∧ tabGet s.mod.late 37 = some ⟨1, 0, 0, 350⟩)
      (((base.recordLate 5 0 false).recordLate 37 350 false).recordLate 90 12900 true) := by
  decide +kernel

/-- R296, the example of a period's records: node 90 is marked, node 37 is not. -/
theorem test_suspect_example :
    base.lateSuspect ⟨400, 130, 9600, 0⟩ = true ∧ base.lateSuspect ⟨400, 40, 1200, 0⟩ = false := by
  decide +kernel

/-- A frame at an input of tile 4 on mesh plane 2. -/
def meshFrame (id dir dtile prio len stamp : Nat) : MFrame :=
  ⟨id, 4, 3, dir, dtile, 0, 2, prio, len, stamp, 0, 0, false, Packet.zero, 0, []⟩

def tileOn : Tile := ⟨true, false, 0, 0, 0, 0, false⟩

/-- The three headers of the router example at rack time 9,000,000,400 ns, with the East output of tile 4 busy. -/
def router : State := { base with
  clock := 1, mod.sh.rt.units := 45000002000, mod.busy := [(outNo 4 2 2, 100)],
  mod.tiles := [(2, tileOn), (4, tileOn), (36, tileOn), (60, tileOn)],
  mod.frames := [meshFrame 1 0 36 1 4136 1853086, meshFrame 2 2 60 2 4144 1853106, meshFrame 3 3 2 0 4136 1852846] }

/-- R211, R213, the router example: C leaves West, A leaves South, B is parked with one deflection and 17 cells. -/
theorem test_router_example :
    (fun s : State => s.mod.frames.map (fun f => (f.id, f.tile, f.place, f.defl)) = [(3, 3, 3, 0), (1, 12, 3, 0), (2, 4, 2, 1)] ∧
      s.counter .mod 0x03 4 0 = 1 ∧ s.counter .mod 0x03 4 1 = 1 ∧ cellsOf 4144 = 17) (router.headersArrive 4 2 []) := by
  decide +kernel

end Sys2Proof.Tests
end

section
/-! PROOFS. Walks, resume commands and the ends of fault records (R32, R38 to R41). What carries a walk or a record away is named
once, each branch of the model's operation has its equation, and each constructor of the statement has its own theorem. -/

namespace Sys2Proof.Machine

/-! ### Walks and records leave their tables -/

/-- The walk `id` has left the list of walks. -/
def State.dropWalk (s : State) (id : Nat) : State := s.modEp fun e => { e with walks := delFirst (fun v => v.id == id) e.walks }

/-- The fault record `i` is Free. -/
def State.dropRecord (s : State) (i : Nat) : State := s.modEp fun e => { e with faults := tabDel e.faults i }

@[simp] theorem State.dropWalk_walks (s : State) (id : Nat) :
    (s.dropWalk id).ep.walks = delFirst (fun v => v.id == id) s.ep.walks := rfl

@[simp] theorem State.dropWalk_slots (s : State) (id : Nat) : (s.dropWalk id).ep.slots = s.ep.slots := rfl

@[simp] theorem State.dropWalk_faults (s : State) (id : Nat) : (s.dropWalk id).ep.faults = s.ep.faults := rfl

@[simp] theorem State.dropWalk_mod (s : State) (id : Nat) : (s.dropWalk id).mod = s.mod := rfl

@[simp] theorem State.dropRecord_mod (s : State) (i : Nat) : (s.dropRecord i).mod = s.mod := rfl

@[simp] theorem State.dropRecord_same (s : State) (i : Nat) : tabGet (s.dropRecord i).ep.faults i = none :=
  tabGet_tabDel_same _ _

theorem State.dropRecord_other (s : State) {i j : Nat} (h : j ≠ i) :
    tabGet (s.dropRecord i).ep.faults j = tabGet s.ep.faults j :=
  tabGet_tabDel_other _ h

@[simp] theorem State.epCount_faults (s : State) (pos : Nat) : (s.epCount pos).ep.faults = s.ep.faults :=
  State.count_keeps s (·.ep.faults) .ep (fun _ _ => rfl) (fun _ _ => rfl) _ _ _ _

@[simp] theorem State.epCount_mod (s : State) (pos : Nat) : (s.epCount pos).mod = s.mod := State.count_ep_mod s _ _ _ _

/-- A leaf that is installed changes the ATU alone: it replaces its own entry, is added, or takes a chosen entry's place. -/
theorem State.install_keeps {β : Type} (g : State → β) (s : State) (a : AtuEntry)
    (hu : ∀ (t : State) (f : List AtuEntry → List AtuEntry), g (t.modEp fun e => { e with atu := f e.atu }) = g t)
    (hd : ∀ t : State, g t.drawn = g t) : g (s.install a) = g s := by
  unfold State.install
  dsimp only
  split
  · exact hu s (List.map _)
  · split
    · exact hu s (· ++ [a])
    · rw [hd]
      exact hu s fun l => l.eraseIdx _ ++ [a]

@[simp] theorem State.install_faults (s : State) (a : AtuEntry) : (s.install a).ep.faults = s.ep.faults :=
  State.install_keeps (·.ep.faults) s a (fun _ _ => rfl) fun _ => rfl

@[simp] theorem State.install_mod (s : State) (a : AtuEntry) : (s.install a).mod = s.mod :=
  State.install_keeps (·.mod) s a (fun _ _ => rfl) fun _ => rfl

/-! ### The end of a walk that is not a record's (R32, R38) -/

/-- What a walk that is still in force brings its waiter: a leaf to translate by, or a fault of kind Unmapped or Table error. -/
def State.walkBrings (s : State) (w : Walk) : WalkEnd → State
  | .leaf a => (s.install a).again w.who w.slot w.job w.granule w.want
  | .unmapped => s.raiseFault w.job w.granule 0 w.want w.who
  | .tableError => s.raiseFault w.job w.granule 2 w.want w.who

theorem exec_tableWalkComplete (id : Nat) (s : State) : exec (.tableWalkComplete id) s = .next (s.walkEnd id).epOn := rfl

theorem State.walkEnd_eq {s : State} {id : Nat} {w : Walk} {e : WalkEnd} (hw : (s.ep.walks.find? fun w => w.id == id) = some w)
    (he : w.ended = some e) (hwho : ∀ i, w.who ≠ .record i) (hjob : (s.slot w.slot).job = w.job)
    (hst : (s.slot w.slot).state = 1 ∨ (s.slot w.slot).state = 2) (hinv : (s.slot w.slot).inv = w.inv) :
    s.walkEnd id = (s.dropWalk id).walkBrings w e := by
  have hslot : ¬ ((s.slot w.slot).job ≠ w.job ∨ ((s.slot w.slot).state ≠ 1 ∧ (s.slot w.slot).state ≠ 2)) := by omega
  unfold State.walkEnd
  rw [hw]
  dsimp only
  rw [he]
  cases hk : w.who with
  | record i => exact absurd hk (hwho i)
  | req _ | tile _ | coll _ | list _ _ =>
    cases e <;> simp only [State.walkBrings, hk] <;> exact (if_neg hslot).trans (if_neg (not_not.mpr hinv))

/-! ### A record fails, expires or is walked to its end (R41) -/

theorem exec_faultTimeout (i : Nat) (s : State) : exec (.faultTimeout i) s = .next (s.faultExpire i).epOn := rfl

theorem exec_faultWalkComplete (i : Nat) (s : State) : exec (.faultWalkComplete i) s = .next (s.recordWalkEnd i).epOn := rfl

theorem State.failRecord_eq {s : State} {i : Nat} {f : FaultRec} (hf : tabGet s.ep.faults i = some f) (code : Nat) :
    s.failRecord i code = f.waiters.foldl (fun s w => s.failWho w.who code) (s.dropRecord i) := by
  unfold State.failRecord
  rw [hf]
  rfl

theorem State.faultExpire_due {s : State} {i : Nat} {f : FaultRec} (hf : tabGet s.ep.faults i = some f) (hst : f.state = 1)
    (hdue : f.timer + f.limit ≤ s.ns) :
    s.faultExpire i = f.waiters.foldl (fun s w => s.failWho w.who cFault) ((s.epCount 4).dropRecord i) := by
  have hcount : tabGet (s.epCount 4).ep.faults i = some f := by rw [State.epCount_faults, hf]
  unfold State.faultExpire
  rw [hf, ← State.failRecord_eq hcount]
  exact if_pos ⟨hst, hdue⟩

/-- A leaf with the right of every waiter frees the record, and all of them translate again. -/
theorem State.recordWalkEnd_leaf {s : State} {i : Nat} {f : FaultRec} {w : Walk} {e : AtuEntry} (hf : tabGet s.ep.faults i = some f)
    (hw : (s.ep.walks.find? fun w => w.who == WalkFor.record i) = some w) (he : w.ended = some (.leaf e))
    (hrev : f.revoked = false) (hinv : (s.slot w.slot).inv = w.inv) (hne : f.waiters ≠ [])
    (hhas : ∀ u ∈ f.waiters, e.has u.want = true) :
    s.recordWalkEnd i = f.waiters.foldl (fun s x => s.again x.who w.slot w.job w.granule x.want)
      (((s.dropWalk w.id).install e).dropRecord i) := by
  have hok : f.waiters.filter (fun u => e.has u.want) = f.waiters := List.filter_eq_self.mpr hhas
  have hrest : f.waiters.filter (fun u => !e.has u.want) = [] :=
    List.filter_eq_nil_iff.mpr fun u hu => by simp [hhas u hu]
  unfold State.recordWalkEnd
  rw [hf, hw]
  dsimp only
  rw [he]
  dsimp only
  rw [hrev, hok, hrest]
  exact (if_neg Bool.false_ne_true).trans ((if_neg (not_not.mpr hinv)).trans (if_neg (by simpa using hne)))

/-! ### The resume command (R40) -/

theorem State.resumeWrite_refused {s : State} {val : List Byte} {job first n act reserved : Nat}
    (hw : resumeFields (beNat val) = (job, first, n, act, reserved))
    (h : reserved ≠ 0 ∨ (act ≠ 1 ∧ act ≠ 2) ∨ n = 0 ∨ s.ep.slotOf job = none) : s.resumeWrite val = (stRange, s) := by
  unfold State.resumeWrite
  rw [hw]
  exact if_pos (.inr (by simpa using h))

theorem State.resumeWrite_accepted {s : State} {val : List Byte} {job first n act : Nat} (hv : val.length = 16)
    (hw : resumeFields (beNat val) = (job, first, n, act, 0)) (hact : act = 1 ∨ act = 2) (hn : n ≠ 0)
    (hjob : (s.ep.slotOf job).isSome = true) :
    s.resumeWrite val = (stOk, if act = 1 then (s.covered job first n).foldl State.retryRecord s
      else (s.covered job first n).foldl (fun s i => s.failRecord i cFault) s) := by
  have hform : ¬ (val.length ≠ 16 ∨ (0 : Nat) ≠ 0 ∨ (act ≠ 1 ∧ act ≠ 2) ∨ n = 0 ∨ (s.ep.slotOf job).isNone) := by
    have hkind : ¬ (act ≠ 1 ∧ act ≠ 2) := by omega
    simp [hv, hkind, hn, Option.isSome_iff_ne_none.mp hjob]
  unfold State.resumeWrite
  rw [hw]
  refine (if_neg hform).trans ?_
  split <;> rfl

theorem exec_resumeRetry {s : State} {a : Access} {val : List Byte} (hd : dirCheck .ep a 0xD20005 true s = 0)
    (hv : val.length = 16) : exec (.resumeRetry a val) s = .next (dirAnswer .ep a.ctx (s.resumeWrite val)) := by
  rw [show exec (.resumeRetry a val) s = .next (s.writeNamed .ep a 0xD20005 val) from rfl,
    State.writeNamed_of hd, dirApply_resume hv]

theorem exec_resumeFail {s : State} {a : Access} {val : List Byte} (hd : dirCheck .ep a 0xD20005 true s = 0)
    (hv : val.length = 16) : exec (.resumeFail a val) s = .next (dirAnswer .ep a.ctx (s.resumeWrite val)).epOn := by
  rw [show exec (.resumeFail a val) s = .next (s.writeNamed .ep a 0xD20005 val).epOn from rfl,
    State.writeNamed_of hd, dirApply_resume hv]

theorem exec_resume_refused {s : State} {a : Access} {val : List Byte} {job first n act reserved : Nat}
    (hd : dirCheck .ep a 0xD20005 true s = 0) (hv : val.length = 16)
    (hw : resumeFields (beNat val) = (job, first, n, act, reserved))
    (h : reserved ≠ 0 ∨ (act ≠ 1 ∧ act ≠ 2) ∨ n = 0 ∨ s.ep.slotOf job = none) :
    exec (.resumeRetry a val) s = .next (s.emit (.dir .ep a.ctx stRange [])) ∧
      exec (.resumeFail a val) s = .next (s.emit (.dir .ep a.ctx stRange [])).epOn := by
  rw [exec_resumeRetry hd hv, exec_resumeFail hd hv, State.resumeWrite_refused hw h]
  exact ⟨rfl, rfl⟩

/-- R40: a resume command whose range holds no record is accepted and has no effect. -/
theorem exec_resume_of_covered_nil {s : State} {a : Access} {val : List Byte} {job first n act : Nat}
    (hd : dirCheck .ep a 0xD20005 true s = 0) (hv : val.length = 16) (hw : resumeFields (beNat val) = (job, first, n, act, 0))
    (hact : act = 1 ∨ act = 2) (hn : n ≠ 0) (hjob : (s.ep.slotOf job).isSome = true) (hnone : s.covered job first n = []) :
    exec (.resumeRetry a val) s = .next (s.emit (.dir .ep a.ctx stOk [])) ∧
      exec (.resumeFail a val) s = .next (s.emit (.dir .ep a.ctx stOk [])).epOn := by
  have hsame : s.resumeWrite val = (stOk, s) := by
    rw [State.resumeWrite_accepted hv hw hact hn hjob, hnone, List.foldl_nil, List.foldl_nil, ite_self]
  rw [exec_resumeRetry hd hv, exec_resumeFail hd hv, hsame]
  exact ⟨rfl, rfl⟩

/-- Settles O8: each command's operation is rewritten by its equation for the branch of the clause, and the states in between are
those that the walk, the leaf and the record leave behind. -/
theorem walksAndFaultRecordsEnd : Obligations.WalksAndFaultRecordsEnd := by
  unfold Obligations.WalksAndFaultRecordsEnd
  refine ⟨?leaf, ?unmapped, ?retry, ?fail, ?resume, ?timeout, ?recordLeaf⟩
  case leaf =>
    intro s id w e hw he hwho hjob hst hinv
    refine ⟨s.dropWalk id, ?_, State.dropWalk_walks _ _, State.dropWalk_slots _ _, State.dropWalk_mod _ _⟩
    rw [exec_tableWalkComplete, State.walkEnd_eq hw he hwho hjob hst hinv]
    rfl
  case unmapped =>
    intro s id w hw he hwho hjob hst hinv
    refine ⟨s.dropWalk id, ?_, State.dropWalk_walks _ _, State.dropWalk_faults _ _, State.dropWalk_mod _ _⟩
    rw [exec_tableWalkComplete, State.walkEnd_eq hw he hwho hjob hst hinv]
    rfl
  case retry =>
    intro s a val job first n hd hv hw hn hjob
    rw [exec_resumeRetry hd hv, State.resumeWrite_accepted hv hw (.inl rfl) hn hjob, if_pos rfl]
  case fail =>
    intro s a val job first n hd hv hw hn hjob
    rw [exec_resumeFail hd hv, State.resumeWrite_accepted hv hw (.inr rfl) hn hjob, if_neg (by decide)]
  case resume =>
    intro s a val job first n act reserved hd hv hw
    refine ⟨exec_resume_refused hd hv hw, ?_⟩
    rintro rfl hact hn hjob hnone
    exact exec_resume_of_covered_nil hd hv hw hact hn hjob hnone
  case timeout =>
    intro s i f hf hst hdue
    refine ⟨(s.epCount 4).dropRecord i, ?_, State.dropRecord_same _ _, fun j hj => ?_, by simp⟩
    · rw [exec_faultTimeout, State.faultExpire_due hf hst hdue]
    · rw [State.dropRecord_other _ hj, State.epCount_faults]
  case recordLeaf =>
    intro s i f w e hf hw he hrev hinv hne hhas
    refine ⟨((s.dropWalk w.id).install e).dropRecord i, ?_, State.dropRecord_same _ _, fun j hj => ?_, by simp⟩
    · rw [exec_faultWalkComplete, State.recordWalkEnd_leaf hf hw he hrev hinv hne hhas]
    · rw [State.dropRecord_other _ hj, State.install_faults, State.dropWalk_faults]

end Sys2Proof.Machine
end

section
/-! PROOFS. Atomics and allocator operations at the point of coherence (R79 to R83, R182, R191, R192). Each command is tied once to the
shared operation that it runs; the arithmetic of an atomic and the steps of the allocator unit have their equations apart from it. -/

namespace Sys2Proof.Machine

/-! ### The commands run the shared operations -/

theorem exec_atomic {s : State} {id op : Nat} {c : Instr} {f : Nat → Nat → List Byte → Nat}
    (hc : c = .fetchAdd id 0 ∧ op = 1 ∧ f = atomAdd ∨ c = .fetchMin id 0 ∧ op = 2 ∧ f = atomMin ∨
      c = .fetchMax id 0 ∧ op = 3 ∧ f = atomMax ∨ c = .compareSwap id 0 ∧ op = 4 ∧ f = atomCas ∨
      c = .swap id 0 ∧ op = 5 ∧ f = atomSwap) :
    exec c s = .next (s.atomicRmw id op 0 f) := by
  obtain ⟨rfl, rfl, rfl⟩ | ⟨rfl, rfl, rfl⟩ | ⟨rfl, rfl, rfl⟩ | ⟨rfl, rfl, rfl⟩ | ⟨rfl, rfl, rfl⟩ := hc <;> rfl

theorem exec_allocator {s : State} {id op err : Nat} {c : Instr}
    (hc : c = .allocate id err ∧ op = 8 ∨ c = .free id err ∧ op = 9 ∨ c = .referenceAdd id err ∧ op = 10 ∨
      c = .referenceRelease id err ∧ op = 11) :
    exec c s = .next (s.allocRun id op err) := by
  obtain ⟨rfl, rfl⟩ | ⟨rfl, rfl⟩ | ⟨rfl, rfl⟩ | ⟨rfl, rfl⟩ := hc <;> rfl

/-! ### What an atomic writes -/

theorem State.commonsWrite_other (s : State) {a b : Nat} (data : List Byte) (h : b < a ∨ a + data.length ≤ b) :
    tabGetD (s.commonsWrite a data).mod.mem b 0#8 = tabGetD s.mod.mem b 0#8 := by
  rw [mem_commonsWrite, memWrite_other data h]

theorem leNat_leBytes_of_lt {n v : Nat} (h : v < 256 ^ n) : leNat (leBytes n v) = v := by
  rw [leNat_leBytes, Nat.mod_eq_of_lt h]

theorem atomMin_uint64 (old : Nat) (b : List Byte) : atomMin 3 old b = min old (leNat b) := by
  have hmin : atomMin 3 old b = if leNat b < old then leNat b else old := by simp [atomMin, atomKind, atomLt, atomSigned]
  rw [hmin]
  split <;> omega

theorem atomMax_uint64 (old : Nat) (b : List Byte) : atomMax 3 old b = max old (leNat b) := by
  have hmax : atomMax 3 old b = if old < leNat b then leNat b else old := by simp [atomMax, atomKind, atomLt, atomSigned]
  rw [hmax]
  split <;> omega

theorem atomSwap_leBytes {fmt new : Nat} (old : Nat) (h : new < 256 ^ fmtSize fmt) :
    atomSwap fmt old (leBytes (fmtSize fmt) new) = new :=
  leNat_leBytes_of_lt h

/-- R82: the compare value is the first operand of the payload, the new value the second. -/
theorem atomCas_leBytes {fmt cmp new : Nat} (old : Nat) (hcmp : cmp < 256 ^ fmtSize fmt) (hnew : new < 256 ^ fmtSize fmt) :
    atomCas fmt old (leBytes (fmtSize fmt) cmp ++ leBytes (fmtSize fmt) new) = if cmp = old then new else old := by
  have hfirst : (leBytes (fmtSize fmt) cmp ++ leBytes (fmtSize fmt) new).take (fmtSize fmt) = leBytes (fmtSize fmt) cmp :=
    List.take_left' (leBytes_length _ _)
  have hsecond : (leBytes (fmtSize fmt) cmp ++ leBytes (fmtSize fmt) new).drop (fmtSize fmt) = leBytes (fmtSize fmt) new :=
    List.drop_left' (leBytes_length _ _)
  unfold atomCas
  dsimp only
  rw [hfirst, hsecond, List.take_of_length_le (leBytes_length _ _).le, leNat_leBytes_of_lt hcmp, leNat_leBytes_of_lt hnew]

/-! ### The allocator unit (R83, R191, R192) -/

/-- R83: the page of an allocator that begins `x` bytes into its region. -/
def Alloc.pageAt (a : Alloc) (size x : Nat) : Option Nat :=
  if x % size = 0 ∧ a.first ≤ x / size ∧ x / size < a.first + a.pages then some (x / size) else none

/-- R192: the lines that an operation reads: the region's head and the record of the page that it changes. -/
def Region.unitLines (r : Region) (page : Option Nat) : List Nat := setIns ((page.map r.recordLine).toList) (r.first / 128)

theorem readCheckAs_of {s : State} {ls : List Nat} (counts : Bool)
    (h : ∀ l ∈ ls, s.mod.failedStacks.contains (s.stackOf (l * 128)) = false) (hb : s.badIn ls = []) :
    s.readCheckAs ls 0 counts = (s, true) := by
  unfold State.readCheckAs
  rw [failed_none h]
  simp [hb]

/-- R191: outside an Allocator region an operation is Denied with reason 1. -/
theorem State.allocRun_noAllocator {s : State} {id op err : Nat} {g : InProg} (hw : s.waitingAtomic id op = some g)
    (hahead : s.allocAhead g = false) (hr : ∀ x, s.regionAt g.loc = some x → x.2.alloc = none) :
    s.allocRun id op err = (s.deny .mod g.pkt.job g.pkt.src g.pkt.off g.pkt.typ 1).setResult id cDenied [] := by
  unfold State.allocRun
  rw [hw]
  dsimp only
  rw [hahead]
  cases hreg : s.regionAt g.loc with
  | none => rfl
  | some x =>
    obtain ⟨i, r⟩ := x
    have hnone : r.alloc = none := hr _ hreg
    dsimp only
    rw [hnone]
    rfl

/-- R192: an operation whose lines are good and that is Done leaves the allocator that `Alloc.run` gives. -/
theorem State.allocRun_done {s : State} {id op i : Nat} {g : InProg} {r : Region} {a x : Alloc} {v : List Byte}
    (hw : s.waitingAtomic id op = some g) (hahead : s.allocAhead g = false) (hreg : s.regionAt g.loc = some (i, r))
    (ha : r.alloc = some a) (hpois : a.poisoned = false) (hst : r.state ≠ 5) {index : Option Nat}
    (hi : index = a.pageAt (pageBytes r.page) (g.loc - r.first)) {lines : List Nat}
    (hl : lines = r.unitLines (if op = 8 then a.top else index))
    (hup : ∀ l ∈ lines, s.mod.failedStacks.contains (s.stackOf (l * 128)) = false) (hgood : s.badIn lines = [])
    (hrun : a.run op (g.loc - r.first == 0) index (leNat g.pkt.payload) (g.pkt.off - (g.loc - r.first)) (pageBytes r.page) =
      (x, { code := cDone, data := v, reason := 0 })) :
    s.allocRun id op 0 = (if a.empties < x.empties then (s.modAlloc i fun _ => x).coCount 7
      else s.modAlloc i fun _ => x).setResult id cDone v := by
  subst hi hl
  have hread := readCheckAs_of false hup hgood
  unfold Alloc.pageAt at hrun hread
  unfold Region.unitLines at hread
  unfold State.allocRun
  rw [hw]
  dsimp only
  rw [hahead, hreg]
  dsimp only
  rw [ha]
  dsimp only
  rw [hread, hrun, hpois]
  simp [hst, cDone, cDenied]

section
variable {a : Alloc} {base size p n k : Nat}

/-- R83: a Count of 32 bits is its own low half, the high half is 0, and only a Count of 0 is refused. -/
theorem count_halves (h0 : k ≠ 0) (hlt : k < 2 ^ 32) : k % 2 ^ 32 = k ∧ k / 2 ^ 32 = 0 ∧ ¬ (k = 0 ∨ (0 : Nat) ≠ 0) :=
  ⟨Nat.mod_eq_of_lt hlt, Nat.div_eq_of_lt hlt, by omega⟩

theorem Alloc.run_allocate_page (h0 : k ≠ 0) (hlt : k < 2 ^ 32) (htop : a.top = some p) :
    a.run 8 true none k base size =
      ({ a.pop with counts := tabPut a.counts p k 0, allocations := a.allocations + 1 }, allocDone (base + p * size)) := by
  obtain ⟨hlow, hhigh, hform⟩ := count_halves h0 hlt
  unfold Alloc.run
  dsimp only
  rw [hlow, hhigh, htop]
  exact (if_pos rfl).trans ((if_neg Bool.false_ne_true).trans (if_neg hform))

theorem Alloc.run_allocate_empty (h0 : k ≠ 0) (hlt : k < 2 ^ 32) (htop : a.top = none) :
    a.run 8 true none k base size = ({ a with empties := a.empties + 1 }, allocDone (2 ^ 64 - 1)) := by
  obtain ⟨hlow, hhigh, hform⟩ := count_halves h0 hlt
  unfold Alloc.run
  dsimp only
  rw [hlow, hhigh, htop]
  exact (if_pos rfl).trans ((if_neg Bool.false_ne_true).trans (if_neg hform))

theorem Alloc.run_free_one (hn : tabGetD a.counts p 0 = 1) :
    a.run 9 false (some p) 0 base size = ({ a with counts := tabPut a.counts p 0 0, freed := p :: a.freed }, allocDone 1) := by
  simp [Alloc.run, hn]

theorem Alloc.run_free_shared (hn : tabGetD a.counts p 0 = n) (h : n ≠ 1) :
    a.run 9 false (some p) 0 base size = (a, allocDone n) := by
  simp [Alloc.run, hn, h]

theorem Alloc.run_release_one (hn : tabGetD a.counts p 0 = 1) :
    a.run 11 false (some p) 0 base size = ({ a with counts := tabPut a.counts p 0 0, freed := p :: a.freed }, allocDone 1) := by
  simp [Alloc.run, hn]

theorem Alloc.run_release_shared (hn : tabGetD a.counts p 0 = n) (h : 1 < n) :
    a.run 11 false (some p) 0 base size = ({ a with counts := tabPut a.counts p (n - 1) 0 }, allocDone n) := by
  have h0 : n ≠ 0 := by omega
  have h1 : n ≠ 1 := by omega
  simp [Alloc.run, hn, h0, h1]

theorem Alloc.run_referenceAdd (hn : tabGetD a.counts p 0 = n) (hk : 0 < k) (h0 : 0 < n) (hlt : n + k < 2 ^ 32) :
    a.run 10 false (some p) k base size = ({ a with counts := tabPut a.counts p (n + k) 0 }, allocDone n) := by
  obtain ⟨hlow, hhigh, hform⟩ := count_halves hk.ne' (by omega)
  have hfits : n ≠ 0 ∧ n + k < 2 ^ 32 := ⟨h0.ne', hlt⟩
  unfold Alloc.run
  dsimp only
  rw [hn, hlow, hhigh, if_neg (by decide), if_neg (by decide), if_pos rfl, if_neg hform, if_pos hfits]

end

/-- Settles O51: a command is rewritten to the operation that it runs; an atomic then reads and writes by `atomicRmw_good`, an
allocator operation ends Denied or Done by the equation of the allocator unit. -/
theorem atomicsReadModifyWrite : Obligations.AtomicsReadModifyWrite := by
  unfold Obligations.AtomicsReadModifyWrite
  refine ⟨?rmw, ?arithmetic, ?swaps, ?denied, ?done, ?page, ?empty, ?counts⟩
  case rmw =>
    intro s id op g c f hw hc hgood
    obtain ⟨hstale, hfresh⟩ := atomicRmw_good (f := f) hw hgood
    rw [exec_atomic hc]
    refine ⟨fun h => congrArg _ (hstale h), fun h => ⟨_, congrArg _ (hfresh h), rfl, fun a ha => ?_⟩⟩
    exact State.commonsWrite_other s _ (by rwa [leBytes_length])
  case arithmetic =>
    exact fun old b => ⟨rfl, rfl, atomMin_uint64 old b, atomMax_uint64 old b⟩
  case swaps =>
    exact fun fmt old cmp new hcmp hnew => ⟨atomSwap_leBytes old hnew, atomCas_leBytes old hcmp hnew⟩
  case denied =>
    intro s id op err g c hw hc hr hahead
    rw [exec_allocator hc, State.allocRun_noAllocator hw hahead hr]
  case done =>
    intro s id op i g c r a index x v lines hw hc hreg ha hpois hst hahead hl hup hgood hi hrun
    exact ⟨_, by rw [exec_allocator hc, State.allocRun_done hw hahead hreg ha hpois hst hi hl hup hgood hrun], rfl⟩
  case page =>
    exact fun a payload base size p => Alloc.run_allocate_page
  case empty =>
    exact fun a payload base size => Alloc.run_allocate_empty
  case counts =>
    intro a base size p n hn
    refine ⟨?_, Alloc.run_free_shared hn, Alloc.run_release_shared hn, fun k => Alloc.run_referenceAdd hn⟩
    rintro rfl
    exact ⟨Alloc.run_free_one hn, Alloc.run_release_one hn⟩

end Sys2Proof.Machine
end

section
/-! PROOFS. Requests of the accelerator that complete at once (R6, R9, R33, R54, R102, R103, R116, R290). The ten commands are tied
once to `State.eriRequest`; each check that refuses has its equation, in the order of the checks (log entry 168). -/

namespace Sys2Proof.Machine

/-! ### The commands run the request that they bring -/

/-- Each command of an accelerator request names the kind `kd` of its message (R101). -/
theorem exec_eriRequest {l kd : Nat} {m : Eri} {ecc : List Nat} {c : Instr}
    (hc : c = .eriLoad l m ecc ∧ kd = 0x01 ∨ c = .eriStore l m ∧ kd = 0x02 ∨ c = .eriAtomic l m ∧ kd = 0x03 ∨
      c = .eriFence l m ∧ kd = 0x04 ∨ c = .eriCacheInvalidate l m ∧ kd = 0x05 ∨ c = .eriDirectoryRequest l m ∧ kd = 0x06 ∨
      c = .eriCopy l m ∧ kd = 0x08 ∨ c = .listArm l m ∧ kd = 0x09 ∨ c = .listCancel l m ∧ kd = 0x0A ∨
      c = .collectiveStart l m ∧ kd = 0x0C) :
    ∃ e, ∀ s, exec c s = .next (s.eriRequest l kd m e).epOn := by
  obtain ⟨rfl, rfl⟩ | ⟨rfl, rfl⟩ | ⟨rfl, rfl⟩ | ⟨rfl, rfl⟩ | ⟨rfl, rfl⟩ | ⟨rfl, rfl⟩ | ⟨rfl, rfl⟩ | ⟨rfl, rfl⟩ | ⟨rfl, rfl⟩ |
    ⟨rfl, rfl⟩ := hc <;> exact ⟨_, fun _ => rfl⟩

/-- R102: a message without credits is discarded and counted. -/
theorem State.eriRequest_noCredit {s : State} {l : Nat} {m : Eri} {k : EriLink} (kd : Nat) (ecc : List Nat)
    (hk : tabGet s.ep.links l = some k) (hup : k.up = true) (hcr : k.reqCr < m.units) :
    s.eriRequest l kd m ecc = s.epCount 18 := by
  have hnone : s.takeCredit l 0 m.units = none := by
    unfold State.takeCredit
    rw [hk]
    simp [hcr]
  unfold State.eriRequest
  rw [linkUp_of hk hup, hnone]
  rfl

/-! ### The checks of an accepted message (R9, R116, R290) -/

section
variable {u : State} {l : Nat} {m : Eri} {ecc : List Nat}

theorem eriRun_noBundle (hb : u.ep.sh.rot.boot ≠ 1) : u.eriRun l m ecc = u.eriAnswer l m cDenied false := if_pos hb

theorem eriRun_selfDead (hb : u.ep.sh.rot.boot = 1) (hd : u.ep.selfDead = true) :
    u.eriRun l m ecc = u.eriAnswer l m cPoison false :=
  (if_neg (not_not.mpr hb)).trans (if_pos hd)

theorem eriRun_badJob (hb : u.ep.sh.rot.boot = 1) (hd : u.ep.selfDead = false) (hj : badJob m = true) :
    u.eriRun l m ecc = u.eriAnswer l m cDenied false :=
  (if_neg (not_not.mpr hb)).trans ((if_neg (by simp [hd])).trans (if_pos hj))

end

/-! ### No slot serves the job (R33, R96) -/

theorem State.jobSlot_none {s : State} {job : Nat} (h : s.ep.slotOf job = none) : s.jobSlot job = .inr cDenied := by
  unfold State.jobSlot
  rw [h]

theorem State.jobSlot_revoked {s : State} {job n : Nat} {x : Slot} (h : s.ep.slotOf job = some (n, x)) (hx : x.state = 3) :
    s.jobSlot job = .inr cTorn := by
  unfold State.jobSlot
  rw [h]
  exact if_neg (by omega)

theorem State.noSlot_denied (s : State) (l : Nat) (m : Eri) : s.noSlot l m cDenied = s.eriAnswer l m cDenied false := rfl

theorem State.noSlot_torn (s : State) (l : Nat) (m : Eri) : s.noSlot l m cTorn = (s.epCount 10).eriAnswer l m cTorn false := rfl

/-- A request of a kind that a job slot serves, with the form that its kind asks for before the slot is looked up (R54, R109). -/
def wantsSlot (m : Eri) : Prop :=
  (m.kind = 1 ∨ m.kind = 2 ∨ m.kind = 3) ∧ eriFormOk m = true ∨ m.kind = 8 ∧ m.body.length = 64 ∨ m.kind = 9 ∨ m.kind = 12

section
variable {u : State} {l code : Nat} {m : Eri} {ecc : List Nat}

theorem eriAccess_noSlot (hf : eriFormOk m = true) (hs : u.jobSlot m.job = .inr code) :
    u.eriAccess l m ecc = u.noSlot l m code := by
  unfold State.eriAccess
  rw [hf, hs]
  rfl

theorem eriCopy_noSlot (hl : m.body.length = 64) (hs : u.jobSlot m.job = .inr code) : u.eriCopy l m = u.noSlot l m code := by
  unfold State.eriCopy
  rw [if_neg (not_not.mpr hl), hs]

theorem eriListArm_noSlot (hs : u.jobSlot m.job = .inr code) : u.eriListArm l m = u.noSlot l m code := by
  unfold State.eriListArm
  dsimp only
  rw [hs]

theorem eriCollective_noSlot (hs : u.jobSlot m.job = .inr code) : u.eriCollective l m = u.noSlot l m code := by
  unfold State.eriCollective
  rw [hs]

theorem eriRun_noSlot (hp : EriPass u m) (hw : wantsSlot m) (hs : u.jobSlot m.job = .inr code) :
    u.eriRun l m ecc = u.noSlot l m code := by
  obtain ⟨hk, hf⟩ | ⟨hk, hl⟩ | hk | hk := hw
  · rw [eriRun_access hp hk, eriAccess_noSlot hf hs]
  · rw [eriRun_copy hp hk, eriCopy_noSlot hl hs]
  · rw [eriRun_listArm hp hk, eriListArm_noSlot hs]
  · rw [eriRun_collective hp hk, eriCollective_noSlot hs]

end

/-! ### The state that a refused request is answered in -/

/-- `s` once the credits of the message `m` have gone back on the link `l` (R102), with its links written as `L`. -/
def State.creditBack (s : State) (l : Nat) (m : Eri) (L : Tab EriLink) : State :=
  ({ s with ep := { s.ep with links := L } } : State).emit (.eri l (creditFor 0 m.units))

/-- A message that the endpoint takes at once and that is not a Directory request runs with its credits returned (R102, R104). -/
theorem eriRequest_takes_run {s : State} {l : Nat} {m : Eri} (ecc : List Nat) (h : s.eriTakes l m) (hk : m.kind ≠ 0x06) :
    ∃ L, sameTab L s.ep.links ∧ s.eriRequest l m.kind m ecc = (s.creditBack l m L).eriRun l m ecc := by
  obtain ⟨L, hL, he⟩ := eriRequest_takes ecc h
  exact ⟨L, hL, he.trans (if_neg hk)⟩

/-- Settles O44: each command is rewritten to the request that it brings, and the request to the answer of the first check that
refuses it. -/
theorem acceleratorRequestsAreRefused : Obligations.AcceleratorRequestsAreRefused := by
  unfold Obligations.AcceleratorRequestsAreRefused
  refine ⟨?arrival, ?checks, ?slot, ?credits⟩
  case arrival =>
    intro s l kd m ecc c hc hb
    obtain ⟨e, hexec⟩ := exec_eriRequest hc
    obtain ⟨L, hL, hform, hpair, -⟩ := eriRequest_brings kd e hb
    refine ⟨s.creditBack l m L, L, hL, rfl, fun hf => ?_, fun hf hp => ?_⟩
    · rw [hexec, hform hf]
      rfl
    · rw [hexec, hpair hf hp]
      rfl
  case checks =>
    intro s l m ecc c hc ht
    have hk : m.kind ≠ 0x06 := by omega
    obtain ⟨e, hexec⟩ := exec_eriRequest (l := l) (kd := m.kind) (m := m) (ecc := ecc) (c := c) (by grind only)
    obtain ⟨L, hL, hrun⟩ := eriRequest_takes_run e ht hk
    refine ⟨s.creditBack l m L, L, hL, rfl, fun hboot => ?_, fun hboot hdead => ?_, fun hboot hdead hjob => ?_⟩
    · rw [hexec, hrun, eriRun_noBundle (u := s.creditBack l m L) hboot]
      rfl
    · rw [hexec, hrun, eriRun_selfDead (u := s.creditBack l m L) hboot hdead]
      rfl
    · rw [hexec, hrun, eriRun_badJob (u := s.creditBack l m L) hboot hdead hjob]
      rfl
  case slot =>
    intro s l m ecc c hc hp
    have hk : m.kind ≠ 0x06 := by omega
    have hw : wantsSlot m := by
      unfold wantsSlot
      grind only
    obtain ⟨e, hexec⟩ := exec_eriRequest (l := l) (kd := m.kind) (m := m) (ecc := ecc) (c := c) (by grind only)
    obtain ⟨L, hL, hrun⟩ := eriRequest_takes_run e hp.1 hk
    have hpass : EriPass (s.creditBack l m L) m := eriPass_taken L hp _
    refine ⟨s.creditBack l m L, L, hL, rfl, fun hnone => ?_, fun n x hslot hx => ?_⟩
    · rw [hexec, hrun, eriRun_noSlot hpass hw (State.jobSlot_none hnone), State.noSlot_denied]
      rfl
    · rw [hexec, hrun, eriRun_noSlot hpass hw (State.jobSlot_revoked hslot hx), State.noSlot_torn]
      rfl
  case credits =>
    intro s l m ecc k c hc hk hup hcr
    have hkd : ∃ kd e, exec c s = .next (s.eriRequest l kd m e).epOn := by
      obtain rfl | rfl | rfl | rfl | rfl | rfl | rfl | rfl | rfl | rfl := hc <;> exact ⟨_, _, rfl⟩
    obtain ⟨kd, e, hexec⟩ := hkd
    rw [hexec, State.eriRequest_noCredit kd e hk hup hcr]

end Sys2Proof.Machine
end

section
/-! PROOFS. What no command takes back (R378, R382) and the canonical Commons memory. Each command goes onward by the law of the
operation that it runs; only the six that reach the Commons at an address of their own may stop the machine (R179). -/

namespace Sys2Proof.Machine

/-! ### Shared wrappers of the commands go onward -/

theorem State.writeEntry_onward {s0 s : State} (p : Part) (a : Access) (key : Nat) (k : State → Nat × State)
    (hk : ∀ t, Onward s0 t → Onward s0 (k t).2) (h : Onward s0 s) : Onward s0 (s.writeEntry p a key k) :=
  dirAnswer_onward _ _ _ (dirWriteWith_onward _ _ _ _ hk h)

theorem State.writeNamed_onward {s0 s : State} (p : Part) (a : Access) (key : Nat) (val : List Byte) (h : Onward s0 s) :
    Onward s0 (s.writeNamed p a key val) :=
  State.writeEntry_onward _ _ _ _ (fun _ => State.dirApply_onward _ _ _ _ _) h

/-! ### A command's answer -/

/-- An answer of a next state that goes onward. -/
def GoesOn (s : State) (o : Answer) : Prop := ∃ t, o = .next t ∧ Onward s t

/-- A stop at an access that leads outside the Commons (R179). -/
def StopsOutside (o : Answer) : Prop := ∃ a, o = .fault (.outsideCommons a)

/-- The commands that bring an address of the Commons. -/
def reachesCommons (c : Instr) : Prop :=
  (∃ k port tagOk err, c = .fabricRequestReceive .mod k port tagOk err) ∨ (∃ src seq, c = .flaggedStoreResolve .mod src seq) ∨
    (∃ qp rkey va data err ce, c = .rdmaWrite qp rkey va data err ce) ∨ (∃ qp rkey va len err ce, c = .rdmaRead qp rkey va len err ce) ∨
    (∃ qp rkey va v err ce, c = .atomicFetchAndAdd qp rkey va v err ce) ∨
    (∃ qp rkey va x y err ce, c = .atomicCompareAndSwap qp rkey va x y err ce)

theorem goesOn {s t : State} (h : Onward s t) : GoesOn s (.next t) := ⟨t, rfl, h⟩

theorem goesOn_or_stops {s : State} {o : Answer} (h : OnwardAns s o) (hr : ∀ r, o ≠ .refused r) : GoesOn s o ∨ StopsOutside o := by
  cases o with
  | next t => exact .inl (goesOn (h t rfl))
  | fault f => cases f with | outsideCommons a => exact .inr ⟨a, rfl⟩
  | refused r => exact absurd rfl (hr r)

/-! ### The accesses to the Commons are never refused, and those of the endpoint never stop -/

section
variable (s : State) (r : Refusal)

@[simp] theorem State.commonsAccess_not_refused (id err : Nat) : s.commonsAccess id err ≠ .refused r := by
  unfold State.commonsAccess
  dsimp only
  repeat' split
  all_goals simp

@[simp] theorem State.fabricRequest_not_refused (p : Part) (k : Packet) (port : Nat) (tagOk : Bool) (err : Nat) :
    s.fabricRequest p k port tagOk err ≠ .refused r := by
  unfold State.fabricRequest
  dsimp only
  repeat' split
  all_goals simp

@[simp] theorem State.flagResolve_not_refused (p : Part) (src seq : Nat) : s.flagResolve p src seq ≠ .refused r := by
  unfold State.flagResolve
  dsimp only
  split <;> simp

@[simp] theorem State.hostRead_not_refused (n va loc len err : Nat) : s.hostRead n va loc len err ≠ .refused r := by
  unfold State.hostRead
  dsimp only
  repeat' split
  all_goals simp

@[simp] theorem State.roceWrite_not_refused (n rkey va : Nat) (data : List Byte) (err : Nat) :
    s.roceWrite n rkey va data err ≠ .refused r := by
  unfold State.roceWrite
  dsimp only
  repeat' split
  all_goals simp

@[simp] theorem State.roceRead_not_refused (n rkey va len err : Nat) : s.roceRead n rkey va len err ≠ .refused r := by
  unfold State.roceRead
  dsimp only
  repeat' split
  all_goals simp

@[simp] theorem State.roceAtomic_not_refused (n rkey va err : Nat) (f : Nat → Nat) : s.roceAtomic n rkey va err f ≠ .refused r := by
  unfold State.roceAtomic
  dsimp only
  repeat' split
  all_goals simp

end

theorem State.fabricRequest_ep_goesOn (s : State) (k : Packet) (port : Nat) (tagOk : Bool) (err : Nat) :
    GoesOn s (s.fabricRequest .ep k port tagOk err) := by
  have hOn := State.fabricRequest_onward .ep k port tagOk err (Onward.refl s)
  obtain ⟨t, ht⟩ : ∃ t, s.fabricRequest .ep k port tagOk err = .next t := by
    unfold State.fabricRequest
    dsimp only
    repeat' split
    all_goals exact ⟨_, rfl⟩
  exact ⟨t, ht, hOn t ht⟩

theorem State.flagResolve_ep_goesOn (s : State) (src seq : Nat) : GoesOn s (s.flagResolve .ep src seq) :=
  goesOn (State.flagResolve_onward .ep src seq (Onward.refl s) _ rfl)

/-! ### Every command -/

/-- A command goes on, or it brings an address of the Commons and may stop outside it. -/
def OnwardOrOutside (s : State) (c : Instr) : Prop :=
  GoesOn s (exec c s) ∨ (GoesOn s (exec c s) ∨ StopsOutside (exec c s)) ∧ reachesCommons c

theorem fabricRequestReceive_onwardOrOutside (s : State) (p : Part) (k : Packet) (port : Nat) (tagOk : Bool) (err : Nat) :
    OnwardOrOutside s (.fabricRequestReceive p k port tagOk err) := by
  cases p with
  | ep => exact .inl (State.fabricRequest_ep_goesOn s k port tagOk err)
  | mod => exact .inr ⟨goesOn_or_stops (State.fabricRequest_onward _ _ _ _ _ (Onward.refl s))
      fun r => State.fabricRequest_not_refused s r _ _ _ _ _, .inl ⟨_, _, _, _, rfl⟩⟩

theorem flaggedStoreResolve_onwardOrOutside (s : State) (p : Part) (src seq : Nat) :
    OnwardOrOutside s (.flaggedStoreResolve p src seq) := by
  cases p with
  | ep => exact .inl (State.flagResolve_ep_goesOn s src seq)
  | mod => exact .inr ⟨goesOn_or_stops (State.flagResolve_onward _ _ _ (Onward.refl s))
      fun r => State.flagResolve_not_refused s r _ _ _, .inr (.inl ⟨_, _, rfl⟩)⟩

theorem atomic_onwardOrOutside {s : State} {c : Instr} {qp rkey va err : Nat} {ce : Bool} {f : Nat → Nat}
    (he : exec c s = (s.congestion qp ce).roceAtomic qp rkey va err f) (hc : reachesCommons c) : OnwardOrOutside s c := by
  refine .inr ⟨?_, hc⟩
  rw [he]
  exact goesOn_or_stops (State.roceAtomic_onward _ _ _ _ _ (State.congestion_onward _ _ (Onward.refl s)))
    fun r => State.roceAtomic_not_refused _ r _ _ _ _ _

theorem atomicFetchAndAdd_onwardOrOutside (s : State) (qp rkey va addend err : Nat) (ce : Bool) :
    OnwardOrOutside s (.atomicFetchAndAdd qp rkey va addend err ce) :=
  atomic_onwardOrOutside (qp := qp) (rkey := rkey) (va := va) (err := err) (ce := ce)
    (f := fun old => atomAdd 3 old (leBytes 8 addend)) rfl (.inr (.inr (.inr (.inr (.inl ⟨_, _, _, _, _, _, rfl⟩)))))

theorem atomicCompareAndSwap_onwardOrOutside (s : State) (qp rkey va cmp new err : Nat) (ce : Bool) :
    OnwardOrOutside s (.atomicCompareAndSwap qp rkey va cmp new err ce) :=
  atomic_onwardOrOutside (qp := qp) (rkey := rkey) (va := va) (err := err) (ce := ce)
    (f := fun old => atomCas 9 old (leBytes 8 cmp ++ leBytes 8 new)) rfl
    (.inr (.inr (.inr (.inr (.inr ⟨_, _, _, _, _, _, _, rfl⟩)))))

theorem exec_onwardOrOutside (c : Instr) (s : State) : OnwardOrOutside s c := by
  cases c with
  | directoryWrite => exact .inl (goesOn (State.partOn_onward _ (dirAnswer_onward _ _ _ (State.dirWriteAny_onward _ _ _ _ (Onward.refl s)))))
  | managementCorePairStop => exact .inl (goesOn (State.coreStop_onward _ (Onward.refl s)))
  | tableWalkComplete => exact .inl (goesOn (State.epOn_onward (State.walkEnd_onward _ (Onward.refl s))))
  | slotJobIdWrite => exact .inl (goesOn (State.writeNamed_onward _ _ _ _ (Onward.refl s)))
  | invalidateGeneration => exact .inl (goesOn (State.epOn_onward (State.writeNamed_onward _ _ _ _ (Onward.refl s))))
  | invalidationComplete => exact .inl (goesOn (State.invalidationDone_onward _ (Onward.refl s)))
  | resumeRetry => exact .inl (goesOn (State.writeNamed_onward _ _ _ _ (Onward.refl s)))
  | resumeFail => exact .inl (goesOn (State.epOn_onward (State.writeNamed_onward _ _ _ _ (Onward.refl s))))
  | faultTimeout => exact .inl (goesOn (State.epOn_onward (State.faultExpire_onward _ (Onward.refl s))))
  | faultWalkComplete => exact .inl (goesOn (State.epOn_onward (State.recordWalkEnd_onward _ (Onward.refl s))))
  | admissionEntryWrite => exact .inl (goesOn (State.writeNamed_onward _ _ _ _ (Onward.refl s)))
  | commonsAdmissionEntryWrite => exact .inl (goesOn (State.writeNamed_onward _ _ _ _ (Onward.refl s)))
  | eriLoad => exact .inl (goesOn (State.epOn_onward (State.eriRequest_onward _ _ _ _ (Onward.refl s))))
  | eriStore => exact .inl (goesOn (State.epOn_onward (State.eriRequest_onward _ _ _ _ (Onward.refl s))))
  | eriAtomic => exact .inl (goesOn (State.epOn_onward (State.eriRequest_onward _ _ _ _ (Onward.refl s))))
  | eriFence => exact .inl (goesOn (State.epOn_onward (State.eriRequest_onward _ _ _ _ (Onward.refl s))))
  | fenceComplete => exact .inl (goesOn (State.epOn_onward (State.fenceComplete_onward _ (Onward.refl s))))
  | eriCacheInvalidate => exact .inl (goesOn (State.epOn_onward (State.eriRequest_onward _ _ _ _ (Onward.refl s))))
  | eriDirectoryRequest => exact .inl (goesOn (State.epOn_onward (State.eriRequest_onward _ _ _ _ (Onward.refl s))))
  | eriCopy => exact .inl (goesOn (State.epOn_onward (State.eriRequest_onward _ _ _ _ (Onward.refl s))))
  | listArm => exact .inl (goesOn (State.epOn_onward (State.eriRequest_onward _ _ _ _ (Onward.refl s))))
  | listCancel => exact .inl (goesOn (State.epOn_onward (State.eriRequest_onward _ _ _ _ (Onward.refl s))))
  | collectiveStart => exact .inl (goesOn (State.epOn_onward (State.eriRequest_onward _ _ _ _ (Onward.refl s))))
  | memoryData => exact .inl (goesOn (State.memAnswer_onward _ _ (Onward.refl s)))
  | memoryAck => exact .inl (goesOn (State.memAnswer_onward _ _ (Onward.refl s)))
  | memoryTimeout => exact .inl (goesOn (State.memTimeout_onward _ (Onward.refl s)))
  | initLink => exact .inl (goesOn (State.initIn_onward _ _ (Onward.refl s)))
  | credit => exact .inl (goesOn (State.creditIn_onward _ _ (Onward.refl s)))
  | requestIssue => exact .inl (goesOn (State.partOn_onward _ (State.issueAny_onward _ _ _ (Onward.refl s))))
  | responseReceive => exact .inl (goesOn (State.fabricIn_onward _ _ _ (fun _ => State.responseReceive_onward _ _ _) (Onward.refl s)))
  | fabricRequestReceive => exact fabricRequestReceive_onwardOrOutside _ _ _ _ _ _
  | flaggedStoreResolve => exact flaggedStoreResolve_onwardOrOutside _ _ _ _
  | flagHoldTimeout => exact .inl (goesOn (State.holdTimeout_onward _ _ _ (Onward.refl s)))
  | fetchAdd => exact .inl (goesOn (State.atomicRmw_onward _ _ _ _ (Onward.refl s)))
  | fetchMin => exact .inl (goesOn (State.atomicRmw_onward _ _ _ _ (Onward.refl s)))
  | fetchMax => exact .inl (goesOn (State.atomicRmw_onward _ _ _ _ (Onward.refl s)))
  | compareSwap => exact .inl (goesOn (State.atomicRmw_onward _ _ _ _ (Onward.refl s)))
  | swap => exact .inl (goesOn (State.atomicRmw_onward _ _ _ _ (Onward.refl s)))
  | allocate => exact .inl (goesOn (State.allocRun_onward _ _ _ (Onward.refl s)))
  | free => exact .inl (goesOn (State.allocRun_onward _ _ _ (Onward.refl s)))
  | referenceAdd => exact .inl (goesOn (State.allocRun_onward _ _ _ (Onward.refl s)))
  | referenceRelease => exact .inl (goesOn (State.allocRun_onward _ _ _ (Onward.refl s)))
  | retryResend => exact .inl (goesOn (State.partOn_onward _ (State.retryResend_onward _ _ (Onward.refl s))))
  | gapTimerExpiry => exact .inl (goesOn (State.gapTimer_onward _ _ (Onward.refl s)))
  | gapNotice => exact .inl (goesOn (State.fabricIn_onward _ _ _ (fun _ => State.gapNotice_onward _ _ _) (Onward.refl s)))
  | resyncNotice => exact .inl (goesOn (State.fabricIn_onward _ _ _ (fun _ => State.resyncNotice_onward _ _ _) (Onward.refl s)))
  | retransmitTimeout => exact .inl (goesOn (State.partOn_onward _ (State.retransmitTimeout_onward _ _ (Onward.refl s))))
  | requestLifetimeExpiry => exact .inl (goesOn (State.partOn_onward _ (State.lifetimeEnd_onward _ _ (Onward.refl s))))
  | slotRevoke => exact .inl (goesOn (State.epOn_onward (State.writeNamed_onward _ _ _ _ (Onward.refl s))))
  | slotDrained => exact .inl (goesOn (State.slotDrained_onward _ (Onward.refl s)))
  | ucieLinkLost => exact .inl (goesOn (State.linkLost_onward _ (Onward.refl s)))
  | copyTileIssue => exact .inl (goesOn (State.engineIssue_onward _ (Onward.refl s)))
  | workStealing => exact .inl (goesOn (State.steal_onward _ (Onward.refl s)))
  | copyTileComplete => exact .inl (goesOn (State.epOn_onward (State.tileComplete_onward _ (Onward.refl s))))
  | listReadComplete => exact .inl (goesOn (State.epOn_onward (State.listRead_onward _ (Onward.refl s))))
  | listActivation => exact .inl (goesOn (State.epOn_onward (State.listTime_onward _ (Onward.refl s))))
  | throttleTemperature => exact .inl (goesOn (State.throttleTemp_onward _ (Onward.refl s)))
  | endpointThermalTrip => exact .inl (goesOn (State.endpointTrip_onward _ (Onward.refl s)))
  | supplyOutOfRange => exact .inl (goesOn (State.supplyOut_onward _ (Onward.refl s)))
  | endpointResetRelease => exact .inl (goesOn (State.epReset_onward _ (Onward.refl s)))
  | bundleLoad => exact .inl (goesOn (State.epOn_onward (State.writeEntry_onward _ _ _ _ (fun _ => State.bundleLoad_onward _) (Onward.refl s))))
  | groupEntryWrite => exact .inl (goesOn (State.writeNamed_onward _ _ _ _ (Onward.refl s)))
  | memberTableWrite => exact .inl (goesOn (State.writeNamed_onward _ _ _ _ (Onward.refl s)))
  | contextEntryWrite => exact .inl (goesOn (State.writeNamed_onward _ _ _ _ (Onward.refl s)))
  | programBlockWrite => exact .inl (goesOn (State.writeNamed_onward _ _ _ _ (Onward.refl s)))
  | probe => exact .inl (goesOn (State.fabricIn_onward _ _ _ (fun _ => State.mcMember_onward _ _ _) (Onward.refl s)))
  | contribution => exact .inl (goesOn (State.fabricIn_onward _ _ _ (fun _ => State.mcMember_onward _ _ _) (Onward.refl s)))
  | arrive => exact .inl (goesOn (State.fabricIn_onward _ _ _ (fun _ => State.mcMember_onward _ _ _) (Onward.refl s)))
  | result => exact .inl (goesOn (State.fabricIn_onward _ _ _ (fun _ => State.collReceive_onward _ _ _) (Onward.refl s)))
  | release => exact .inl (goesOn (State.fabricIn_onward _ _ _ (fun _ => State.collReceive_onward _ _ _) (Onward.refl s)))
  | rackPartial => exact .inl (goesOn (State.fabricIn_onward _ _ _ (fun _ => State.rackPartial_onward _ _ _) (Onward.refl s)))
  | treeResult => exact .inl (goesOn (State.fabricIn_onward _ _ _ (fun _ => State.treeResult_onward _ _ _) (Onward.refl s)))
  | sequenceSlotFinish => exact .inl (goesOn (State.modOn_onward (State.slotFinish_onward _ _ (Onward.refl s))))
  | slotTimeout => exact .inl (goesOn (State.modOn_onward (State.slotTimeout_onward _ _ (Onward.refl s))))
  | treeResend => exact .inl (goesOn (State.treeResend_onward _ _ _ (Onward.refl s)))
  | holdResend => exact .inl (goesOn (State.epOn_onward (State.holdResend_onward _ (Onward.refl s))))
  | resultResend => exact .inl (goesOn (State.modOn_onward (State.retryResend_onward _ _ (Onward.refl s))))
  | collectiveSendStart => exact .inl (goesOn (State.epOn_onward (State.collStartTime_onward _ (Onward.refl s))))
  | collectiveTimeout => exact .inl (goesOn (State.epOn_onward (State.collTimeout_onward _ (Onward.refl s))))
  | residueDelivery => exact .inl (goesOn (State.residue_onward _ (Onward.refl s)))
  | latenessRecordClear => exact .inl (goesOn (State.writeNamed_onward _ _ _ _ (Onward.refl s)))
  | spillRecordReturn => exact .inl (goesOn (State.recordReturn_onward _ _ _ _ (Onward.refl s)))
  | spillReserveWrite => exact .inl (goesOn (State.writeNamed_onward _ _ _ _ (Onward.refl s)))
  | regionDescriptorWrite => exact .inl (goesOn (State.writeNamed_onward _ _ _ _ (Onward.refl s)))
  | regionInitComplete => exact .inl (goesOn (State.regionInitDone_onward _ (Onward.refl s)))
  | regionScrubComplete => exact .inl (goesOn (State.noteScrubbed_onward _ (State.regionScrubDone_onward _ (Onward.refl s))))
  | handover => exact .inl (goesOn (State.writeNamed_onward _ _ _ _ (Onward.refl s)))
  | clearStale => exact .inl (goesOn (State.writeNamed_onward _ _ _ _ (Onward.refl s)))
  | retentionLimit => exact .inl (goesOn (State.retentionEnd_onward _ (Onward.refl s)))
  | stackFailed => exact .inl (goesOn (State.fenceOn_onward (State.stackFail_onward _ _ (Onward.refl s))))
  | scrubWindow => exact .inl (goesOn (State.scrubOpen_onward _ _ (Onward.refl s)))
  | scrubWindowEnd => exact .inl (goesOn (State.scrubClose_onward (Onward.refl s)))
  | checkpointSlot => exact .inl (goesOn (State.checkpointSlot_onward (Onward.refl s)))
  | restoreCommand => exact .inl (goesOn (State.modOn_onward (State.writeNamed_onward _ _ _ _ (Onward.refl s))))
  | restorePushComplete => exact .inl (goesOn (State.pushEnd_onward (Onward.refl s)))
  | checkpointRestore => exact .inl (goesOn (State.fabricIn_onward _ _ _ (fun _ => State.restoreReceive_onward _ _ _) (Onward.refl s)))
  | rdmaWrite => exact .inr ⟨goesOn_or_stops (State.roceWrite_onward _ _ _ _ _ (State.congestion_onward _ _ (Onward.refl s)))
      (fun r => State.roceWrite_not_refused _ r _ _ _ _ _), .inr (.inr (.inl ⟨_, _, _, _, _, _, rfl⟩))⟩
  | rdmaRead => exact .inr ⟨goesOn_or_stops (State.roceRead_onward _ _ _ _ _ (State.congestion_onward _ _ (Onward.refl s)))
      (fun r => State.roceRead_not_refused _ r _ _ _ _ _), .inr (.inr (.inr (.inl ⟨_, _, _, _, _, _, rfl⟩)))⟩
  | atomicFetchAndAdd => exact atomicFetchAndAdd_onwardOrOutside _ _ _ _ _ _ _
  | atomicCompareAndSwap => exact atomicCompareAndSwap_onwardOrOutside _ _ _ _ _ _ _ _
  | send => exact .inl (goesOn (State.roceSend_onward _ _ (State.congestion_onward _ _ (Onward.refl s))))
  | frameReceive => exact .inl (goesOn (State.frameReceive_onward _ _ _ (Onward.refl s)))
  | meshHeaderArrival => exact .inl (goesOn (State.headersArrive_onward _ _ _ (Onward.refl s)))
  | meshInject => exact .inl (goesOn (State.inject_onward _ _ (Onward.refl s)))
  | spill => exact .inl (goesOn (State.spillFrame_onward _ (Onward.refl s)))
  | readBack => exact .inl (goesOn (State.readBack_onward _ _ (Onward.refl s)))
  | portTransmit => exact .inl (goesOn (State.partOn_onward _ (State.transmit_onward _ _ (Onward.refl s))))
  | commonsMemoryResponse => exact .inl (goesOn (State.commonsResponse_onward _ (Onward.refl s)))
  | sliceEntryWrite => exact .inl (goesOn (State.writeNamed_onward _ _ _ _ (Onward.refl s)))
  | sliceRevoke => exact .inl (goesOn (State.modOn_onward (State.writeNamed_onward _ _ _ _ (Onward.refl s))))
  | tileSweep => exact .inl (goesOn (State.tileSweep_onward _ _ (Onward.refl s)))
  | sliceDrained => exact .inl (goesOn (State.sliceDrained_onward _ (Onward.refl s)))
  | epochAudit => exact .inl (goesOn (State.epochAudit_onward _ (Onward.refl s)))
  | ack => exact .inl (goesOn (State.linkAck_onward _ _ _ (Onward.refl s)))
  | nak => exact .inl (goesOn (State.partOn_onward _ (State.linkNak_onward _ _ _ (Onward.refl s))))
  | replayTimer => exact .inl (goesOn (State.partOn_onward _ (State.replayTimer_onward _ _ (Onward.refl s))))
  | trainingFrame => exact .inl (goesOn (State.trainFrame_onward _ _ _ _ _ _ (Onward.refl s)))
  | detectBurst => exact .inl (goesOn (State.detectBurst_onward _ _ (Onward.refl s)))
  | countdownEnd => exact .inl (goesOn (State.countdownEnd_onward _ _ (Onward.refl s)))
  | blockLock => exact .inl (goesOn (State.blockLock_onward _ _ _ (Onward.refl s)))
  | alignmentMarker => exact .inl (goesOn (State.partOn_onward _ (State.marker_onward _ _ _ (Onward.refl s))))
  | capabilityBlock => exact .inl (goesOn (State.partOn_onward _ (State.capReceive_onward _ _ _ (Onward.refl s))))
  | trainingTimeout => exact .inl (goesOn (State.partOn_onward _ (State.trainTimeout_onward _ _ (Onward.refl s))))
  | retrainBackoffEnd => exact .inl (goesOn (State.tryTrain_onward _ _ (Onward.refl s)))
  | widthChange => exact .inl (goesOn (State.widthReceive_onward _ _ _ (Onward.refl s)))
  | widthSwitch => exact .inl (goesOn (State.widthSwitch_onward _ _ _ _ (Onward.refl s)))
  | laneRestore => exact .inl (goesOn (State.laneRestore_onward _ _ (Onward.refl s)))
  | laneFailure => exact .inl (goesOn (State.partOn_onward _ (State.laneFailure_onward _ _ _ _ (Onward.refl s))))
  | portDown => exact .inl (goesOn (State.partOn_onward _ (State.portDownCause_onward _ _ _ (Onward.refl s))))
  | portRoleWrite => exact .inl (goesOn (State.modOn_onward (State.writeNamed_onward _ _ _ _ (Onward.refl s))))
  | eyeScanStart => exact .inl (goesOn (State.writeNamed_onward _ _ _ _ (Onward.refl s)))
  | eyeScanComplete => exact .inl (goesOn (State.eyeDone_onward _ _ _ (Onward.refl s)))
  | tick => exact .inl (goesOn (State.tick_onward _ _ _ (Onward.refl s)))
  | timeSet => exact .inl (goesOn (State.timeSet_onward _ _ _ _ (Onward.refl s)))
  | laneSilent => exact .inl (goesOn (State.laneSilent_onward _ _ (Onward.refl s)))
  | holdoverLimit => exact .inl (goesOn (State.holdoverLimit_onward _ (Onward.refl s)))
  | rackTimeStep => exact .inl (goesOn (State.partOn_onward _ (State.rackStep_onward _ _ (Onward.refl s))))
  | timingLaneMessage => exact .inl (goesOn (State.partOn_onward _ (State.timingIn_onward _ _ _ (Onward.refl s))))
  | abort => exact .inl (goesOn (State.abortMessage_onward _ _ (Onward.refl s)))
  | smbDirectoryRead => exact .inl (goesOn (State.smbRead_onward _ _ (Onward.refl s)))
  | smbDirectoryWrite => exact .inl (goesOn (State.partOn_onward _ (State.smbWrite_onward _ _ _ _ (Onward.refl s))))
  | smbBlobSegmentWrite => exact .inl (goesOn (State.partOn_onward _ (State.smbSegWrite_onward _ _ _ _ _ (Onward.refl s))))
  | smbBlobSegmentRead => exact .inl (goesOn (State.smbSegRead_onward _ _ _ _ (Onward.refl s)))
  | smbStatusRead => exact .inl (goesOn (State.smbStatusRead_onward _ (Onward.refl s)))
  | alignmentRequest => exact .inl (goesOn (State.writeNamed_onward _ _ _ _ (Onward.refl s)))
  | alignmentStart => exact .inl (goesOn (State.alignStart_onward (Onward.refl s)))
  | alignPulse => exact .inl (goesOn (State.alignPulse_onward _ (Onward.refl s)))
  | alignmentCheck => exact .inl (goesOn (State.alignCheck_onward _ (Onward.refl s)))
  | alignmentLost => exact .inl (goesOn (State.alignLost_onward _ (Onward.refl s)))
  | mownEntryWrite => exact .inl (goesOn (State.writeNamed_onward _ _ _ _ (Onward.refl s)))
  | mownCompileComplete => exact .inl (goesOn (State.mownCompile_onward _ (Onward.refl s)))
  | modeSwitch => exact .inl (goesOn (State.partOn_onward _ (State.modeSwitch_onward _ (Onward.refl s))))
  | mownStart => exact .inl (goesOn (State.modOn_onward (State.mownStart_onward _ (Onward.refl s))))
  | mownPieceSend => exact .inl (goesOn (State.epOn_onward (State.mownPieceSend_onward _ _ (Onward.refl s))))
  | mownPieceSlot => exact .inl (goesOn (State.mownSlot_onward _ _ (Onward.refl s)))
  | mownFallback => exact .inl (goesOn (State.mownFallback_onward _ (Onward.refl s)))
  | heartbeat => exact .inl (goesOn (State.heartbeat_onward _ (Onward.refl s)))
  | suspicion => exact .inl (goesOn (State.suspect_onward _ (Onward.refl s)))
  | voteRepeat => exact .inl (goesOn (State.voteRepeat_onward _ (Onward.refl s)))
  | verdictMessage => exact .inl (goesOn (State.verdictIn_onward _ _ _ (Onward.refl s)))
  | verdictIssue => exact .inl (goesOn (State.verdictIssue_onward _ _ _ _ (Onward.refl s)))
  | verdictApply => exact .inl (goesOn (State.partOn_onward _ (State.applyVerdict_onward _ _ (Onward.refl s))))
  | portFailed => exact .inl (goesOn (State.portFailed_onward _ (Onward.refl s)))
  | portRestored => exact .inl (goesOn (State.portRestored_onward _ (Onward.refl s)))
  | quorumLossFence => exact .inl (goesOn (State.quorumLoss_onward (Onward.refl s)))
  | tileFault => exact .inl (goesOn (State.modOn_onward (State.tileOut_onward _ (Onward.refl s))))
  | verdictEngineWatchdog => exact .inl (goesOn (State.engineWatchdog_onward (Onward.refl s)))
  | canary => exact .inl (goesOn (State.canary_onward _ _ _ (Onward.refl s)))
  | corruptionReport => exact .inl (goesOn (State.writeEntry_onward _ _ _ _ (fun _ => State.dirApply_onward _ _ _ _ _) (Onward.refl s)))
  | suspectEvaluation => exact .inl (goesOn (State.suspectEval_onward (Onward.refl s)))
  | clearSuspect => exact .inl (goesOn (State.writeNamed_onward _ _ _ _ (Onward.refl s)))
  | windowEntryWrite => exact .inl (goesOn (State.writeNamed_onward _ _ _ _ (Onward.refl s)))
  | windowStart => exact .inl (goesOn (State.windowStart_onward _ _ (Onward.refl s)))
  | windowEnd => exact .inl (goesOn (State.windowEnd_onward _ _ _ (Onward.refl s)))
  | rebindRequest => exact .inl (goesOn (State.writeNamed_onward _ _ _ _ (Onward.refl s)))
  | planeRestoreRequest => exact .inl (goesOn (State.writeNamed_onward _ _ _ _ (Onward.refl s)))
  | moduleResetRelease => exact .inl (goesOn (State.modReset_onward _ _ (Onward.refl s)))
  | bundleCommit => exact .inl (goesOn (State.writeEntry_onward _ _ _ _ (fun _ => State.dirApply_onward _ _ _ _ _) (Onward.refl s)))
  | attestationNonce => exact .inl (goesOn (State.writeNamed_onward _ _ _ _ (Onward.refl s)))
  | attestationReportReady => exact .inl (goesOn (State.reportReady_onward _ (Onward.refl s)))
  | keyInstallation => exact .inl (goesOn (State.writeEntry_onward _ _ _ _ (fun _ => State.dirApply_onward _ _ _ _ _) (Onward.refl s)))
  | keyActivation => exact .inl (goesOn (State.keyActivate_onward _ _ (Onward.refl s)))
  | keyPeriod => exact .inl (goesOn (State.keyPeriodKeys_onward _ (Onward.refl s)))
  | jobRetire => exact .inl (goesOn (State.writeNamed_onward _ _ _ _ (Onward.refl s)))
  | retireTime => exact .inl (goesOn (State.partOn_onward _ (State.retireTime_onward _ _ (Onward.refl s))))
  | removalScrub => exact .inl (goesOn (State.removalScrub_onward _ _ (Onward.refl s)))
  | removalSettle => exact .inl (goesOn (State.removalSettle_onward _ _ (Onward.refl s)))
  | openMsg => exact .inl (goesOn (State.protoUdp_onward _ _ (Onward.refl s)))
  | close => exact .inl (goesOn (State.protoUdp_onward _ _ (Onward.refl s)))
  | read => exact .inl (goesOn (State.protoUdp_onward _ _ (Onward.refl s)))
  | write => exact .inl (goesOn (State.modOn_onward (State.protoUdp_onward _ _ (Onward.refl s))))
  | segmentRead => exact .inl (goesOn (State.protoUdp_onward _ _ (Onward.refl s)))
  | segmentWrite => exact .inl (goesOn (State.modOn_onward (State.protoUdp_onward _ _ (Onward.refl s))))
  | commitStaged => exact .inl (goesOn (State.modOn_onward (State.protoUdp_onward _ _ (Onward.refl s))))
  | sessionIdleTimeout => exact .inl (goesOn (State.sessionIdle_onward _ (Onward.refl s)))
  | blobAssemblyExpiry => exact .inl (goesOn (State.blobExpire_onward _ _ _ (Onward.refl s)))
  | credentialInstallation => exact .inl (goesOn (State.writeEntry_onward _ _ _ _ (fun _ => State.dirApply_onward _ _ _ _ _) (Onward.refl s)))
  | acknowledgedSequenceWrite => exact .inl (goesOn (State.writeNamed_onward _ _ _ _ (Onward.refl s)))
  | inEnAssert => exact .inl (goesOn (State.inEnOn_onward (Onward.refl s)))
  | inEnDeassert => exact .inl (goesOn (State.inEnOff_onward (Onward.refl s)))
  | softStartComplete => exact .inl (goesOn (State.softDone_onward _ (Onward.refl s)))
  | inputVoltageTrip => exact .inl (goesOn (State.voltageTrip_onward _ (Onward.refl s)))
  | breakerTrip => exact .inl (goesOn (State.breakerTrip_onward _ (Onward.refl s)))
  | breakerRetry => exact .inl (goesOn (State.breakerRetry_onward (Onward.refl s)))
  | requestRest => exact .inl (goesOn (State.writeNamed_onward _ _ _ _ (Onward.refl s)))
  | requestRun => exact .inl (goesOn (State.writeNamed_onward _ _ _ _ (Onward.refl s)))
  | requestFallow => exact .inl (goesOn (State.writeNamed_onward _ _ _ _ (Onward.refl s)))
  | entryTestsComplete => exact .inl (goesOn (State.enterRun_onward _ (Onward.refl s)))
  | wake => exact .inl (goesOn (State.wake_onward _ (Onward.refl s)))
  | fallowBrownOut => exact .inl (goesOn (State.brownOut_onward _ (Onward.refl s)))
  | capStep => exact .inl (goesOn (State.writeNamed_onward _ _ _ _ (Onward.refl s)))
  | capStepEffective => exact .inl (goesOn (State.capEffective_onward (Onward.refl s)))
  | capRefresh => exact .inl (goesOn (State.writeNamed_onward _ _ _ _ (Onward.refl s)))
  | powerControlTick => exact .inl (goesOn (State.powerTick_onward _ _ _ (Onward.refl s)))
  | ladderLevelEffective => exact .inl (goesOn (State.levelEffective_onward (Onward.refl s)))
  | leaseExpiry => exact .inl (goesOn (State.leaseExpiry_onward (Onward.refl s)))
  | holdTimeExpiry => exact .inl (goesOn (State.holdExpiry_onward (Onward.refl s)))
  | thermalReading => exact .inl (goesOn (State.thermalReading_onward _ _ _ (Onward.refl s)))
  | thermalTrip => exact .inl (goesOn (State.thermalTrip_onward _ _ _ (Onward.refl s)))
  | crystalStable => exact .inl (goesOn (State.crystalStable_onward _ (Onward.refl s)))
  | crystalTimeout => exact .inl (goesOn (State.crystalTimeout_onward _ (Onward.refl s)))
  | oscillatorRetrim => exact .inl (goesOn (State.retrim_onward _ _ (Onward.refl s)))
  | clockMonitorWindow => exact .inl (goesOn (State.partOn_onward _ (State.monitorWindow_onward _ _ _ _ (Onward.refl s))))
  | pllCoast => exact .inl (goesOn (State.pllCoast_onward _ _ (Onward.refl s)))
  | pllRelock => exact .inl (goesOn (State.pllRelock_onward _ _ _ (Onward.refl s)))
  | muxSwitchComplete => exact .inl (goesOn (State.muxComplete_onward _ _ (Onward.refl s)))
  | muxWatchdog => exact .inl (goesOn (State.partOn_onward _ (State.muxWatchdog_onward _ _ _ (Onward.refl s))))
  | time => exact .inl (goesOn (State.toMeter_onward _ _ _ _ (fun _ => State.meterTimeIn_onward) (Onward.refl s)))
  | usage => exact .inl (goesOn (State.meterUsageIn_onward _ (Onward.refl s)))
  | commonsCharge => exact .inl (goesOn (State.meterChargeIn_onward _ (Onward.refl s)))
  | acknowledge => exact .inl (goesOn (State.toMeter_onward _ _ _ _ (fun _ => State.meterAck_onward _) (Onward.refl s)))
  | mirrorWrite => exact .inl (goesOn (ite_onward (State.mgCount_onward _ (Onward.refl s)) (State.mirrorIn_onward _ _ (Onward.refl s))))
  | event => exact .inl (goesOn (ite_onward (State.mgCount_onward _ (Onward.refl s)) (State.meterEventIn_onward _ _ (Onward.refl s))))
  | logRead => exact .inl (goesOn (State.toMeter_onward _ _ _ _ (fun _ => State.logRead_onward _ _) (Onward.refl s)))
  | acknowledgedRecordWrite => exact .inl (goesOn (State.writeNamed_onward _ _ _ _ (Onward.refl s)))
  | intervalClose => exact .inl (goesOn (State.intervalClose_onward _ (Onward.refl s)))
  | sealEvent => exact .inl (goesOn (State.sealEvent_onward _ _ (Onward.refl s)))
  | meterStopped => exact .inl (goesOn (State.meterStopped_onward _ (Onward.refl s)))
  | counterSnapshot => exact .inl (goesOn (State.snapshot_onward _ (Onward.refl s)))
  | chainMaskEffective => exact .inl (goesOn (State.chainEffective_onward _ _ _ (Onward.refl s)))
  | groupIndexWrite => exact .inl (goesOn (State.writeNamed_onward _ _ _ _ (Onward.refl s)))
  | ucieLinkUp => exact .inl (goesOn (State.linkComesUp_onward _ (Onward.refl s)))
  | rootOfTrustCoreFault => exact .inl (goesOn (State.rotFault_onward (Onward.refl s)))
  | dieCrossingDomainFault => exact .inl (goesOn (State.crossingFault_onward _ (Onward.refl s)))
  | hostLinkStateChange => exact .inl (goesOn (State.hostLink_onward _ _ (Onward.refl s)))
  | arpNeighbourDiscoveryIcmpEcho => exact .inl (goesOn (State.hostFrame_onward _ _ _ (Onward.refl s)))
  | softStartPermitted => exact .inl (goesOn (State.softPermitted_onward _ (Onward.refl s)))

/-- Settles O2: each command goes onward by `exec_onwardOrOutside`, which names the six that may stop. -/
theorem everyCommandGoesOn : Obligations.EveryCommandGoesOn := by
  intro c s
  obtain hgo | ⟨hgo | ⟨a, ha⟩, hc⟩ := exec_onwardOrOutside c s
  · exact .inl hgo
  · exact .inl hgo
  · exact .inr ⟨a, ha, hc⟩

/-- A command that answers a next state keeps the canonical form of the Commons memory. -/
theorem exec_keeps_memoryWf {c : Instr} {s t : State} (hw : memoryWf s.mod.mem = true) (ht : exec c s = .next t) :
    memoryWf t.mod.mem = true := by
  obtain ⟨u, hu, hOn⟩ | ⟨a, ha, -⟩ := everyCommandGoesOn c s
  · rw [ht] at hu
    injection hu with hu
    rw [hu]
    exact hOn.mem hw
  · rw [ht] at ha
    injection ha

/-- An idle step leaves the Commons memory as it was. -/
theorem State.idle_mem (s : State) : s.idle.mod.mem = s.mod.mem :=
  (State.idle_keeps (·.mod.mem) s (by rintro (_ | _) <;> intros <;> rfl) (by rintro (_ | _) <;> intros <;> rfl)
    (by rintro (_ | _) <;> intros <;> rfl)).trans rfl

/-- Settles O3: a step is an idle cycle, which leaves the memory, or runs a command, which keeps its form. -/
theorem stepKeepsMemoryCanonical : Obligations.StepKeepsMemoryCanonical := by
  intro s t hw ht
  unfold step at ht
  split at ht
  case h_1 =>
    injection ht with ht
    rw [← ht, State.idle_mem]
    exact hw
  case h_2 c rest _ => exact exec_keeps_memoryWf (s := { s with pending := rest }) hw ht

end Sys2Proof.Machine
end

section
/-! PROOFS. The header words of packets and ERI messages decode to the packet or message that they spell (R73, R101, R162), and the
words of entries read as they were written (R43, R151, R154, R180, R275, R297). -/

namespace Sys2Proof.Machine

/-! ### A word as its fields from the top: each with its lowest bit and its value -/

def spell : List (Nat × Nat) → Nat
  | [] => 0
  | (lo, v) :: fs => v * 2 ^ lo + spell fs

/-- The fields fill the bits below `hi` and read as their values in `w`. -/
def Reads (w : Nat) : Nat → List (Nat × Nat) → Prop
  | hi, [] => hi = 0
  | hi, (lo, v) :: fs => lo < hi ∧ bits w (hi - 1) lo = v ∧ Reads w lo fs

/-- The fields fill the bits below `hi` and each value has its width. -/
def Fit : Nat → List (Nat × Nat) → Prop
  | hi, [] => hi = 0
  | hi, (lo, v) :: fs => lo < hi ∧ v < 2 ^ (hi - lo) ∧ Fit lo fs

/-- The lowest `hi` bits are a field's and those below it. -/
theorem mod_eq_bits_add {w hi lo : Nat} (h : lo < hi) : w % 2 ^ hi = bits w (hi - 1) lo * 2 ^ lo + w % 2 ^ lo := by
  obtain ⟨d, rfl⟩ := Nat.exists_eq_add_of_lt h
  unfold bits
  rw [show lo + d + 1 - 1 + 1 - lo = d + 1 by omega, show lo + d + 1 = lo + (d + 1) by omega, Nat.pow_add, Nat.mod_mul]
  ring

theorem spell_of_reads {w hi : Nat} {fs : List (Nat × Nat)} (h : Reads w hi fs) : spell fs = w % 2 ^ hi := by
  induction fs generalizing hi with
  | nil => rw [show hi = 0 from h, spell, pow_zero, Nat.mod_one]
  | cons e fs ih =>
    obtain ⟨hlo, hv, hrest⟩ := h
    rw [mod_eq_bits_add hlo, hv, spell, ih hrest]

theorem spell_eq_of_reads {w hi : Nat} {fs : List (Nat × Nat)} (hw : w < 2 ^ hi) (h : Reads w hi fs) : spell fs = w :=
  (spell_of_reads h).trans (Nat.mod_eq_of_lt hw)

theorem spell_lt {hi : Nat} {fs : List (Nat × Nat)} (h : Fit hi fs) : spell fs < 2 ^ hi := by
  induction fs generalizing hi with
  | nil => exact Nat.two_pow_pos hi
  | cons e fs ih =>
    obtain ⟨hlo, hv, hrest⟩ := h
    calc e.2 * 2 ^ e.1 + spell fs < e.2 * 2 ^ e.1 + 2 ^ e.1 := Nat.add_lt_add_left (ih hrest) _
      _ = (e.2 + 1) * 2 ^ e.1 := by ring
      _ ≤ 2 ^ (hi - e.1) * 2 ^ e.1 := Nat.mul_le_mul_right _ hv
      _ = 2 ^ hi := by rw [← Nat.pow_add, Nat.sub_add_cancel hlo.le]

theorem reads_of_mod {w hi : Nat} {fs : List (Nat × Nat)} (hw : w % 2 ^ hi = spell fs) (h : Fit hi fs) : Reads w hi fs := by
  induction fs generalizing hi with
  | nil => exact h
  | cons e fs ih =>
    obtain ⟨hlo, hv, hrest⟩ := h
    have hparts : bits w (hi - 1) e.1 * 2 ^ e.1 + w % 2 ^ e.1 = e.2 * 2 ^ e.1 + spell fs := (mod_eq_bits_add hlo).symm.trans hw
    have hdiv := congrArg (· / 2 ^ e.1) hparts
    have hmod := congrArg (· % 2 ^ e.1) hparts
    simp only [Nat.mul_add_mod', Nat.mod_mod, Nat.mod_eq_of_lt (spell_lt hrest)] at hmod
    simp only [Nat.mul_comm _ (2 ^ e.1), Nat.mul_add_div (Nat.two_pow_pos e.1), Nat.div_eq_of_lt (spell_lt hrest),
      Nat.div_eq_of_lt (Nat.mod_lt w (Nat.two_pow_pos e.1)), Nat.add_zero] at hdiv
    exact ⟨hlo, hdiv, ih hmod hrest⟩

theorem reads_spell {hi : Nat} {fs : List (Nat × Nat)} (h : Fit hi fs) : Reads (spell fs) hi fs :=
  reads_of_mod (Nat.mod_eq_of_lt (spell_lt h)) h

/-! ### A bit as a field -/

theorem ofBool_le (b : Bool) : ofBool b ≤ 1 := by cases b <;> decide

theorem ofBool_bit (w n : Nat) : ofBool (bit w n) = bits w n n := by
  unfold bit bits ofBool
  rw [Nat.add_sub_cancel_left, pow_one]
  rcases Nat.mod_two_eq_zero_or_one (w / 2 ^ n) with h | h <;> simp [h]

theorem ofBool_inj {a b : Bool} (h : ofBool a = ofBool b) : a = b := by
  cases a <;> cases b <;> simp [ofBool] at h ⊢

theorem bit_of_bits {w n : Nat} {b : Bool} (h : bits w n n = ofBool b) : bit w n = b :=
  ofBool_inj ((ofBool_bit w n).trans h)

/-! ### ERI messages (R101) -/

def eriFields (m : Eri) : List (Nat × Nat) :=
  [(250, m.kind), (238, m.agent), (224, m.tag), (208, m.job), (204, m.code), (202, m.rel), (200, m.acq), (199, ofBool m.vol),
   (198, ofBool m.coll), (185, m.len), (180, m.aop), (176, m.fmt), (120, m.addr), (64, m.aux), (0, m.value)]

theorem eriHeader_eq (m : Eri) : m.header = spell (eriFields m) := by
  simp only [Eri.header, eriFields, spell, pow_zero, Nat.mul_one, Nat.add_zero, Nat.add_assoc]

theorem fit_eriFields {m : Eri} (h : m.fits = true) : Fit 256 (eriFields m) := by
  simp only [Eri.fits, Bool.and_eq_true, decide_eq_true_eq] at h
  simpa [eriFields, Fit, ofBool_le] using h.1

theorem eriOf_header (m : Eri) (h : m.fits = true) : eriOf m.header m.body = m ∧ m.header < 2 ^ 256 := by
  have hfit := fit_eriFields h
  rw [eriHeader_eq]
  refine ⟨?_, spell_lt hfit⟩
  have hres : m.reserved = false := by simpa using (Bool.and_eq_true_iff.mp h).2
  have hr := reads_spell hfit
  generalize spell (eriFields m) = w at hr
  simp only [eriFields, Reads] at hr
  obtain ⟨-, h1, -, h2, -, h3, -, h4, -, h5, -, h6, -, h7, -, h8, -, h9, -, h10, -, h11, -, h12, -, h13, -, h14, -, h15, -⟩ := hr
  rw [eriOf, h1, h2, h3, h4, h5, h6, h7, bit_of_bits h8, bit_of_bits h9, h10, h11, h12, h13, h14, h15, ← hres]

/-! ### Packets (R73, R162): the upper fields, which all packets share, and the two layouts below them -/

def packetFields (p : Packet) : List (Nat × Nat) :=
  [(250, p.typ), (249, ofBool p.f), (248, ofBool p.vol), (244, p.plane), (240, p.code), (224, p.job), (214, p.src), (204, p.dst),
   (200, p.srcRack), (196, p.dstRack), (195, ofBool p.s), (192, 0), (160, p.seq)] ++
  if isColl p.typ then
    [(146, p.group), (114, p.cseq), (101, p.len), (93, p.epoch), (90, p.phase), (88, p.tree), (86, p.cctx), (66, p.piece),
     (34, p.size), (0, 0)]
  else
    [(114, p.off), (101, p.len), (93, p.epoch), (91, p.interval), (75, p.pred), (70, p.aop), (66, p.fmt), (0, 0)]

theorem packetHeader_eq (p : Packet) : p.header = spell (packetFields p) := by
  unfold Packet.header packetFields
  split <;> simp only [List.cons_append, List.nil_append, spell, Nat.zero_mul, Nat.add_zero, Nat.zero_add, Nat.add_assoc]

theorem fit_packetFields {p : Packet} (h : p.fits = true) : Fit 256 (packetFields p) := by
  cases hc : isColl p.typ <;> simp [Packet.fits, packetFields, Fit, ofBool_le, hc] at h ⊢ <;> simp [h]

theorem packetOf_header (p : Packet) (h : p.fits = true) : packetOf p.header p.payload = p ∧ p.header < 2 ^ 256 := by
  have hfit := fit_packetFields h
  rw [packetHeader_eq]
  refine ⟨?_, spell_lt hfit⟩
  have hr := reads_spell hfit
  generalize spell (packetFields p) = w at hr
  simp only [packetFields, List.cons_append, List.nil_append, Reads] at hr
  obtain ⟨-, h1, -, h2, -, h3, -, h4, -, h5, -, h6, -, h7, -, h8, -, h9, -, h10, -, h11, -, h12, -, h13, hr⟩ := hr
  rw [packetOf, h1, bit_of_bits h2, bit_of_bits h3, h4, h5, h6, h7, h8, h9, h10, bit_of_bits h11, h12, h13]
  simp only [Packet.fits, Bool.and_eq_true, Bool.not_eq_true'] at h
  obtain ⟨⟨-, hres⟩, hlow⟩ := h
  split at hr
  case isTrue hc =>
    simp only [hc, if_true, decide_eq_true_eq] at hlow ⊢
    obtain ⟨-, -, -, -, -, -, -, g1, g2, g3, g4, g5⟩ := hlow
    obtain ⟨-, l1, -, l2, -, l3, -, l4, -, l5, -, l6, -, l7, -, l8, -, l9, -, l10, -⟩ := hr
    cases p
    simp_all
  case isFalse hc =>
    simp only [hc, if_false, decide_eq_true_eq, Bool.false_eq_true] at hlow ⊢
    obtain ⟨-, -, -, -, -, g1, g2, g3, g4, g5, g6, g7⟩ := hlow
    obtain ⟨-, l1, -, l2, -, l3, -, l4, -, l5, -, l6, -, l7, -, l8, -⟩ := hr
    cases p
    simp_all

/-- Settles O5: a header word reads as the fields that it spells. -/
theorem headersRoundTrip : Obligations.HeadersRoundTrip := ⟨packetOf_header, eriOf_header⟩

/-! ### Entries: their words spell the fields that they read -/

theorem word_admOf {w : Nat} (hw : w < 2 ^ 128) (hres : (admOf w).2 = 0) : (admOf w).1.word = w := by
  have hreads : Reads w 128 [(127, ofBool (bit w 127)), (111, bits w 126 111), (81, bits w 110 81), (51, bits w 80 51), (15, bits w 50 15), (14, ofBool (bit w 14)), (13, ofBool (bit w 13)), (12, ofBool (bit w 12)), (11, ofBool (bit w 11)), (0, 0)] := by
    simp [Reads, ofBool_bit, show bits w 10 0 = 0 from hres]
  refine Eq.trans ?_ (spell_eq_of_reads hw hreads)
  simp [admOf, AdmEntry.word, spell, Nat.add_assoc]

theorem word_groupOf {w : Nat} (hw : w < 2 ^ 128) (hres : (groupOf w).2 = 0) : (groupOf w).1.word = w := by
  have hreads : Reads w 128 [(127, ofBool (bit w 127)), (111, bits w 126 111), (99, bits w 110 99), (83, bits w 98 83), (82, ofBool (bit w 82)), (50, bits w 81 50), (0, 0)] := by
    simp [Reads, ofBool_bit, show bits w 49 0 = 0 from hres]
  refine Eq.trans ?_ (spell_eq_of_reads hw hreads)
  simp [groupOf, Group.word, spell, Nat.add_assoc]

theorem word_contextOf {w : Nat} (hw : w < 2 ^ 128) (hres : (contextOf w).2 = 0) : (contextOf w).1.bits_ = w := by
  have hreads : Reads w 128 [(127, ofBool (bit w 127)), (123, bits w 126 123), (119, bits w 122 119), (87, bits w 118 87), (79, bits w 86 79), (0, 0)] := by
    simp [Reads, ofBool_bit, show bits w 78 0 = 0 from hres]
  refine Eq.trans ?_ (spell_eq_of_reads hw hreads)
  simp [contextOf, CContext.bits_, spell, Nat.add_assoc]

theorem word_regionOf {w : Nat} (hw : w < 2 ^ 128) (hres : (regionOf w).2 = 0) : (regionOf w).1.word = w := by
  have hreads : Reads w 128 [(127, ofBool (bit w 127)), (124, bits w 126 124), (121, bits w 123 121), (120, ofBool (bit w 120)), (109, bits w 119 109), (98, bits w 108 98), (82, bits w 97 82), (79, bits w 81 79), (77, bits w 78 77), (76, ofBool (bit w 76)), (0, 0)] := by
    simp [Reads, ofBool_bit, show bits w 75 0 = 0 from hres]
  refine Eq.trans ?_ (spell_eq_of_reads hw hreads)
  simp [regionOf, Region.word, spell, Nat.add_assoc]

theorem word_windowOf {w : Nat} (hw : w < 2 ^ 128) (hres : (windowOf w).2 = 0) : (windowOf w).1.word = w := by
  have hreads : Reads w 128 [(124, bits w 127 124), (114, bits w 123 114), (50, bits w 113 50), (34, bits w 49 34), (32, bits w 33 32), (0, 0)] := by
    simp [Reads, show bits w 31 0 = 0 from hres]
  refine Eq.trans ?_ (spell_eq_of_reads hw hreads)
  simp [windowOf, Window.word, spell, Nat.add_assoc]

theorem word_mownOf {w : Nat} (hw : w < 2 ^ 256) (hres : bits w 75 0 = 0) : (mownOf w).word = w := by
  have hreads : Reads w 256 [(240, bits w 255 240), (226, bits w 239 226), (224, bits w 225 224), (192, bits w 223 192), (128, bits w 191 128), (112, bits w 127 112), (92, bits w 111 92), (76, bits w 91 76), (0, 0)] := by
    simp [Reads, hres]
  refine Eq.trans ?_ (spell_eq_of_reads hw hreads)
  simp [mownOf, MownEntry.word, spell, Nat.add_assoc]

/-- Settles O6: the word of each entry spells the fields that it reads, and its Reserved field is zero. -/
theorem entriesReadAsWritten : Obligations.EntriesReadAsWritten :=
  ⟨fun _ => word_admOf, fun _ => word_groupOf, fun _ => word_contextOf, fun _ => word_regionOf, fun _ => word_windowOf,
    fun _ => word_mownOf⟩

end Sys2Proof.Machine
end

section
/-! PROOFS. A step runs the front command or passes a cycle, and the state at reset (log entry 2; R7, R48, R182, R265, R325). -/

namespace Sys2Proof.Machine

/-- What an idle step keeps of the state but for its clock. -/
def State.kept (s : State) :=
  (s.clock, s.pending, s.out, s.draws, s.mod.mem, s.mod.sh.regs, s.ep.sh.regs)

theorem State.idle_kept (s : State) : s.idle.kept = s.cycle.kept :=
  State.idle_keeps State.kept s (by rintro (_ | _) <;> intros <;> rfl) (by rintro (_ | _) <;> intros <;> rfl)
    (by rintro (_ | _) <;> intros <;> rfl)

/-- Settles O1: a step with nothing pending is `State.idle`, of which `State.idle_kept` says what stays. -/
theorem stepRunsFrontCommand : Obligations.StepRunsFrontCommand := by
  refine ⟨fun c s => rfl, fun s hs => ?_⟩
  have hstep : step s = .next s.idle := by
    unfold step
    rw [hs]
  have hk := State.idle_kept s
  simp only [State.kept, Prod.mk.injEq] at hk
  obtain ⟨hclock, hpending, hout, hdraws, hmem, hmod, hep⟩ := hk
  exact ⟨s.idle, hstep, hclock, hpending.trans hs, hout, hdraws, hmem, hmod, hep⟩

/-- Settles O4: each table of the reset state is empty, so each read falls to its default. -/
theorem resetIsCanonical : Obligations.ResetIsCanonical := by
  refine ⟨rfl, rfl, rfl, ?reg, ?counter, fun _ => ⟨rfl, rfl⟩, fun _ => ⟨rfl, rfl⟩, fun _ => rfl, fun _ => rfl, ?source⟩
  case reg => 
    rintro (_ | _) key <;> rfl
  case counter => rintro (_ | _) g i c <;> rfl
  case source => rintro (_ | _) <;> rfl

end Sys2Proof.Machine
end

section
/-! PROOFS. Link-level retry accepts, acknowledges, replays and sends frames in sequence (R207, R208, R234 to R240). -/

namespace Sys2Proof.Machine

/-! ### A command's answer, by the state that it answers -/

theorem next_congr {t u : State} (h : t = u) : (.next t : Answer) = .next u := h ▸ rfl

theorem nextOn_congr (p : Part) {t u : State} (h : t = u) : (.next (t.partOn p) : Answer) = .next (u.partOn p) := h ▸ rfl

/-! ### What blocks that leave a port change -/

/-- What a state holds but for what a part that sends blocks writes: its counters, its log, its transmitters and what was sent. -/
def State.beyondLink (p : Part) (s : State) : State :=
  { s.modSh p (fun sh => { sh with log := State.reset.mod.sh.log, ctr := State.reset.mod.sh.ctr, tx := [] }) with out := [] }

theorem beyondLink_log (p : Part) (s : State) (x : EventLog) :
    (s.modSh p fun sh => { sh with log := x }).beyondLink p = s.beyondLink p := by cases p <;> rfl

theorem beyondLink_ctr (p : Part) (s : State) (x : Counters) :
    (s.modSh p fun sh => { sh with ctr := x }).beyondLink p = s.beyondLink p := by cases p <;> rfl

theorem beyondLink_tx (p : Part) (s : State) (x : Tab TxPort) :
    (s.modSh p fun sh => { sh with tx := x }).beyondLink p = s.beyondLink p := by cases p <;> rfl

theorem beyondLink_emit (p : Part) (s : State) (o : Out) : (s.emit o).beyondLink p = s.beyondLink p := by cases p <;> rfl

theorem beyondLink_portCount (p : Part) (s : State) (n k : Nat) : (s.portCount p n k).beyondLink p = s.beyondLink p :=
  keep_portCount (State.beyondLink p) s p n k (beyondLink_log p) (beyondLink_ctr p)

theorem beyondLink_portSlots (p : Part) (s : State) (n l c : Nat) : (s.portSlots p n l c).beyondLink p = s.beyondLink p :=
  keep_portSlots (State.beyondLink p) s p n l c (beyondLink_log p) (beyondLink_ctr p)

theorem beyondLink_padSlots (p : Part) (s : State) (n k : Nat) : (s.padSlots p n k).beyondLink p = s.beyondLink p :=
  keep_padSlots (State.beyondLink p) s p n k (beyondLink_log p) (beyondLink_ctr p)

theorem beyondLink_txOnly {p : Part} {s u : State} (h : TxOnly s p u) : u.beyondLink p = s.beyondLink p :=
  txOnly_keep (State.beyondLink p) h (beyondLink_tx p) (fun _ _ => by cases p <;> rfl)

theorem port_of_beyondLink {p : Part} {u s : State} (h : u.beyondLink p = s.beyondLink p) (m : Nat) : u.port p m = s.port p m :=
  Eq.trans (by cases p <;> rfl) ((congrArg (fun v => v.port p m) h).trans (by cases p <;> rfl))

/-- What a state holds but for that and for the part's ports. -/
def State.beyondPorts (p : Part) (s : State) : State := (s.beyondLink p).modSh p fun sh => { sh with ports := [] }

/-- A port of a part has taken the state `q`, and blocks may have left. -/
structure PortSet (s : State) (p : Part) (n : Nat) (q : Port) (u : State) : Prop where
  port_same : u.port p n = q
  port_other : ∀ m, m ≠ n → u.port p m = s.port p m
  beyond : u.beyondPorts p = s.beyondPorts p

theorem portSet_setPort (s : State) (p : Part) (n : Nat) (q : Port) : PortSet s p n q (s.setPort p n q) :=
  ⟨State.port_setPort_same .., fun _ hm => State.port_setPort_other _ _ _ hm, by cases p <;> rfl⟩

/-- Blocks leave after the port's change. -/
theorem PortSet.sent {s t u : State} {p : Part} {n : Nat} {q : Port} (h : PortSet s p n q t)
    (hu : u.beyondLink p = t.beyondLink p) : PortSet s p n q u :=
  ⟨(port_of_beyondLink hu n).trans h.port_same, fun m hm => (port_of_beyondLink hu m).trans (h.port_other m hm),
    (congrArg (fun v => v.modSh p fun sh => { sh with ports := [] }) hu).trans h.beyond⟩

/-- The port changes again. -/
theorem PortSet.again {s t u : State} {p : Part} {n : Nat} {q r : Port} (h : PortSet s p n q t) (hu : PortSet t p n r u) :
    PortSet s p n r u :=
  ⟨hu.port_same, fun m hm => (hu.port_other m hm).trans (h.port_other m hm), hu.beyond.trans h.beyond⟩

section
variable {s u : State} {p : Part} {n : Nat} {q : Port} (h : PortSet s p n q u)
include h

theorem PortSet.reqs : (u.sh p).reqs = (s.sh p).reqs :=
  Eq.trans (by cases p <;> rfl) ((congrArg (fun v => (v.sh p).reqs) h.beyond).trans (by cases p <;> rfl))

theorem PortSet.inbox : u.ep.inbox = s.ep.inbox :=
  Eq.trans (by cases p <;> rfl) ((congrArg (fun v => v.ep.inbox) h.beyond).trans (by cases p <;> rfl))

theorem PortSet.frames : u.mod.frames = s.mod.frames :=
  Eq.trans (by cases p <;> rfl) ((congrArg (fun v => v.mod.frames) h.beyond).trans (by cases p <;> rfl))

theorem PortSet.ns : u.ns = s.ns :=
  Eq.trans (by cases p <;> rfl) ((congrArg (fun v => v.ns) h.beyond).trans (by cases p <;> rfl))

theorem PortSet.wire (k : Packet) : u.wire p k = s.wire p k :=
  wire_congr p k (Eq.trans (by cases p <;> rfl) ((congrArg (fun v => v.mod.groups) h.beyond).trans (by cases p <;> rfl)))
    (Eq.trans (by cases p <;> rfl) ((congrArg (fun v => v.ep.colls) h.beyond).trans (by cases p <;> rfl)))

end

theorem PortSet.mod_ep {s u : State} {n : Nat} {q : Port} (h : PortSet s .ep n q u) : u.mod = s.mod :=
  show (u.beyondPorts .ep).mod = (s.beyondPorts .ep).mod from congrArg (fun v => v.mod) h.beyond

theorem ctr_emit (s : State) (p : Part) (o : Out) : ((s.emit o).sh p).ctr = (s.sh p).ctr := by cases p <;> rfl

theorem ctr_txOnly {s u : State} {p : Part} (h : TxOnly s p u) : (u.sh p).ctr = (s.sh p).ctr :=
  txOnly_keep (fun t => (t.sh p).ctr) h (fun _ _ => by cases p <;> rfl) (fun _ _ => by cases p <;> rfl)

/-- R237, R239: a block alone leaves after the sets that are due before it. -/
theorem sendBlock_sent (s : State) (p : Part) (n : Nat) (b : Block) (o : Out) :
    (s.sendBlock p n b o).beyondLink p = s.beyondLink p ∧ ((s.sendBlock p n b o).sh p).ctr = ((s.padSlots p n 1).sh p).ctr ∧
    ∃ l, (s.sendBlock p n b o).out = s.out ++ l ++ [o] ∧ ∀ x ∈ l, x.isSet = true := by
  obtain ⟨hT, -⟩ := put_blocks (s.padSlots p n 1) p n [b]
  obtain ⟨l, hl, hset⟩ := txOnly_out hT
  rw [out_padSlots] at hl
  exact ⟨(beyondLink_emit ..).trans ((beyondLink_txOnly hT).trans (beyondLink_padSlots ..)), (ctr_emit ..).trans (ctr_txOnly hT), l,
    congrArg (· ++ [o]) hl, hset⟩

/-- R236: a frame leaves as the blocks that its packet's bytes make. -/
theorem frameOut_sent (s : State) (p : Part) (n seq : Nat) (k : Packet) :
    (s.frameOut p n seq k).beyondLink p = s.beyondLink p ∧
    ∃ l fr, (s.frameOut p n seq k).out = s.out ++ l ++ [.frame p n fr] ∧ (∀ x ∈ l, x.isSet = true) ∧
      fr.blocks.map (fun b => b.block) = frameBlocks seq none (s.wire p k) := by
  obtain ⟨hT, hb⟩ := put_blocks s p n (frameBlocks seq none (s.wire p k))
  obtain ⟨l, hl, hset⟩ := txOnly_out hT
  exact ⟨(beyondLink_emit ..).trans (beyondLink_txOnly hT), l, { blocks := _, errs := [] }, congrArg (· ++ [_]) hl, hset, hb⟩

/-! ### Frames that arrive (R234 to R239) -/

/-- R234: a frame without wrong symbols whose blocks have their form is read as it is. -/
theorem frameReceive_formed {s : State} {p : Part} {n : Nat} {r : RawFrame} (h7 : (s.port p n).state = 7) (herr : r.errs = [])
    (hm : (r.scan (s.port p n).indexOf).malformed = 0)
    (hs : (r.scan (s.port p n).indexOf).start.isSome = true ∨ (r.scan (s.port p n).indexOf).errored = true) :
    s.frameReceive p n r = s.takeLinkFrame p n ((r.scan (s.port p n).indexOf).frame (s.unwire p)) := by
  unfold State.frameReceive
  dsimp only
  rw [if_neg (by simp [h7]), herr, List.foldl_nil, if_pos hm, if_neg]
  rcases hs with hs | hs
  · exact fun h => by simp [Option.isNone_iff_eq_none.mp h.1] at hs
  · exact fun h => h.2 hs

/-- R238: at the endpoint the expected frame joins the packets that have come, and is acknowledged. -/
theorem takeLinkFrame_accepts {s : State} {n : Nat} {f : LinkFrame} {q : Port} (herr : f.errored = false) (hcrc : f.crcOk = true)
    (hd : f.dataBlocks = dataBlocks f.frameLen) (hlo : 48 ≤ f.frameLen) (hhi : f.frameLen ≤ 4144) (ha : f.ackValid = false)
    (hseq : f.seq = (s.port .ep n).rxSeq)
    (hq : q = { s.port .ep n with rxSeq := ((s.port .ep n).rxSeq + 1) % 65536, nakAt := none }) :
    ∃ (u : State) (l : List Out), s.takeLinkFrame .ep n f = u.modEp (fun e => { e with inbox := e.inbox ++ [f.pkt] }) ∧
      PortSet s .ep n q u ∧ u.out = s.out ++ l ++ [.ack .ep n f.seq] ∧ ∀ o ∈ l, o.isSet = true := by
  have htake : s.takeLinkFrame .ep n f = (((s.setPort .ep n q).portCount .ep n 11).sendBlock .ep n (ackBlock f.seq)
        (.ack .ep n f.seq)).modEp fun e => { e with inbox := e.inbox ++ [f.pkt] } := by
    unfold State.takeLinkFrame
    simp [herr, hcrc, hd, hlo, hhi, ha, hseq, hq]
  obtain ⟨hb, -, l, hl, hset⟩ := sendBlock_sent ((s.setPort .ep n q).portCount .ep n 11) .ep n (ackBlock f.seq) (.ack .ep n f.seq)
  rw [State.out_portCount, out_setPort] at hl
  exact ⟨_, l, htake, ((portSet_setPort ..).sent (beyondLink_portCount ..)).sent hb, hl, hset⟩

/-- R239: a frame that is not whole is answered with a Nak of the expected sequence. -/
theorem takeLinkFrame_broken {s : State} {p : Part} {n : Nat} {f : LinkFrame} (hf : f.errored = true ∨ f.crcOk = false)
    (hn : (s.port p n).nakAt = none) :
    s.takeLinkFrame p n f = (s.modPort p n fun q => { q with nakAt := some s.ns }).sendBlock p n (nakBlock (s.port p n).rxSeq)
      (.nak p n (s.port p n).rxSeq) := by
  unfold State.takeLinkFrame
  rcases hf with hf | hf <;> simp [hf, hn]

/-! ### Acknowledgements and replays (R237, R239, R240) -/

theorem any_seq_true {l : List ReplayFrame} {f : ReplayFrame} (h : f ∈ l) : (l.any fun g => g.seq == f.seq) = true :=
  List.any_eq_true.mpr ⟨f, h, by simp⟩

theorem not_changing {q : Port} (h : q.wc = none) : q.changing = false := by
  unfold Port.changing
  rw [h]

/-- R240: what the replay timer of a port does once it is due. -/
theorem replayTimer_due {s : State} {p : Part} {n : Nat} {f : ReplayFrame} {l : List ReplayFrame} {q : Port}
    (h7 : (s.port p n).state = 7) (hr : (s.port p n).replay = f :: l) (hdue : f.sent + (s.port p n).replayTimer ≤ s.ns)
    (hw : (s.port p n).wc = none) (hq : q = { s.port p n with replays := (s.port p n).replays + 1 }) :
    s.replayTimer p n = if (s.port p n).retryLimit ≤ (s.port p n).replays then s.goDown p n
      else ((s.setPort p n q).portCount p n 5).resendFrames p n := by
  unfold State.replayTimer State.replayAll
  simp [hr, h7, hdue, not_changing hw, hq]

/-- R239: one frame that waits is sent again as it was. -/
theorem resendFrames_one {s : State} {p : Part} {n : Nat} {f : ReplayFrame} {q : Port} (hr : (s.port p n).replay = [f])
    (hq : q = { s.port p n with replay := [{ f with sent := s.ns }] }) :
    ∃ (u : State) (l : List Out) (fr : RawFrame), s.resendFrames p n = u ∧ PortSet s p n q u ∧
      u.out = s.out ++ l ++ [.frame p n fr] ∧ (∀ o ∈ l, o.isSet = true) ∧
      fr.blocks.map (fun b => b.block) = frameBlocks f.seq none (s.wire p f.pkt) := by
  have hk : s.resendFrames p n = ((s.setPort p n q).portSlots p n f.pkt.wireLen 1).frameOut p n f.seq f.pkt := by
    unfold State.resendFrames
    simp [hr, hq]
  have hset := (portSet_setPort s p n q).sent (beyondLink_portSlots p (s.setPort p n q) n f.pkt.wireLen 1)
  obtain ⟨hb, l, fr, hl, hsets, hblocks⟩ := frameOut_sent ((s.setPort p n q).portSlots p n f.pkt.wireLen 1) p n f.seq f.pkt
  rw [(State.portSlots_keeps _ _ _ _ _ n).2, out_setPort] at hl
  exact ⟨_, l, fr, hk, hset.sent hb, hl, hsets, hset.wire f.pkt ▸ hblocks⟩

/-! ### Egress (R207, R208) -/

/-- R207, R208: the endpoint's oldest packet leaves and takes a place in the replay buffer. -/
theorem transmit_ep {s : State} {n : Nat} {k : Packet} {rest : List Packet} {q : Port} (h7 : (s.port .ep n).state = 7)
    (hdue : s.txDue .ep n = false) (hw : (s.port .ep n).wc = none) (hk : (s.port .ep n).queue = k :: rest)
    (hroom : (s.port .ep n).room k.wireLen = true) (hq : q = { s.port .ep n with
      queue := rest
      txSeq := ((s.port .ep n).txSeq + 1) % 65536
      replay := (s.port .ep n).replay ++ [{ seq := (s.port .ep n).txSeq, charge := ceil64 k.wireLen, pkt := k, sent := s.ns }] }) :
    ∃ (u : State) (l : List Out) (fr : RawFrame), s.transmit .ep n = u ∧ PortSet s .ep n q u ∧
      u.out = s.out ++ l ++ [.frame .ep n fr] ∧ (∀ o ∈ l, o.isSet = true) ∧
      fr.blocks.map (fun b => b.block) = frameBlocks (s.port .ep n).txSeq none (s.wire .ep k) := by
  have ht : s.transmit .ep n = (s.setPort .ep n { s.port .ep n with queue := rest }).sendFrame .ep n k := by
    unfold State.transmit State.sendNext
    simp [h7, hdue, not_changing hw, hk, hroom]
  obtain ⟨r, hr⟩ : ∃ r : Port, { s.port .ep n with queue := rest } = r := ⟨_, rfl⟩
  rw [hr] at ht
  have hs : (s.setPort .ep n r).sendFrame .ep n k = ((((s.setPort .ep n r).setPort .ep n q).portCount .ep n 12).portSlots .ep n
      k.wireLen 0).frameOut .ep n (s.port .ep n).txSeq k := by
    unfold State.sendFrame
    rw [State.port_setPort_same, hq, ← hr]
    rfl
  have hset := (((portSet_setPort s .ep n r).again (portSet_setPort _ .ep n q)).sent (beyondLink_portCount ..)).sent
    (beyondLink_portSlots .ep (((s.setPort .ep n r).setPort .ep n q).portCount .ep n 12) n k.wireLen 0)
  obtain ⟨hb, l, fr, hl, hsets, hblocks⟩ := frameOut_sent ((((s.setPort .ep n r).setPort .ep n q).portCount .ep n 12).portSlots .ep n
    k.wireLen 0) .ep n (s.port .ep n).txSeq k
  rw [(State.portSlots_keeps _ _ _ _ _ n).2, State.out_portCount, out_setPort, out_setPort] at hl
  exact ⟨_, l, fr, ht.trans hs, hset.sent hb, hl, hsets, hset.wire k ▸ hblocks⟩

/-- Settles O38: a lemma for each command says what its port does, and `PortSet` what stays. -/
theorem linkRetryKeepsTheSequence : Obligations.LinkRetryKeepsTheSequence := by
  refine ⟨?accept, ?nakSent, ?notActive, ?ack, ?ackUnknown, ?nak, ?nakAll, ?nakUnknown, ?replayLimit, ?replay, ?transmit⟩
  case accept =>
    rintro s n r sc f h7 hr rfl hm rfl herr hcrc hd hlo hhi ha hseq
    have hstart : (r.scan (s.port .ep n).indexOf).start.isSome = true := by
      simp only [FrameScan.frame, Bool.or_eq_false_iff] at herr
      exact Option.isSome_iff_ne_none.mpr fun h => by simp [h] at herr
    obtain ⟨u, l, hu, hset, hl, hsets⟩ := takeLinkFrame_accepts herr hcrc hd hlo hhi ha hseq rfl
    exact ⟨_, l, next_congr ((frameReceive_formed h7 hr hm (.inl hstart)).trans hu), congrArg (· ++ [_]) hset.inbox,
      hset.port_same, hset.port_other, hset.reqs, hset.mod_ep, hl, hsets⟩
  case nakSent =>
    rintro s p n r sc f h7 hr rfl hm hs rfl hbad hn
    obtain ⟨hb, hctr, l, hl, hsets⟩ := sendBlock_sent (s.modPort p n fun q => { q with nakAt := some s.ns }) p n
      (nakBlock (s.port p n).rxSeq) (.nak p n (s.port p n).rxSeq)
    rw [State.modPort, out_setPort] at hl
    have hset := (portSet_setPort s p n _).sent hb
    exact ⟨_, l, next_congr ((frameReceive_formed h7 hr hm hs).trans (takeLinkFrame_broken hbad hn)), hset.port_same,
      hset.port_other, hset.inbox, hctr, hset.frames, hl, hsets⟩
  case notActive =>
    intro s p n r h7
    exact next_congr (if_pos h7)
  case ack =>
    intro s p n f pre post h7 hr hpre
    have ha : s.linkAck p n f.seq = s.setPort p n { s.port p n with replay := post, replays := 0 } := by
      rw [State.linkAck, if_pos h7, State.acked, if_pos (by rw [hr]; exact any_seq_true (by simp)), hr,
        dropWhile_before pre post f hpre]
      rfl
    exact ⟨_, next_congr ha, State.port_setPort_same .., fun m hm => State.port_setPort_other _ _ _ hm, by cases p <;> rfl,
      out_setPort ..⟩
  case ackUnknown =>
    intro s p n seq hno
    have ha : s.linkAck p n seq = s := by
      unfold State.linkAck State.acked
      simp [any_seq_false hno]
    exact next_congr ha
  case nak =>
    intro s p n f pre post h7 hr hpre hseq
    have hk : s.linkNak p n f.seq = (s.setPort p n { s.port p n with
        replay := f :: post
        replays := if pre = [] then (s.port p n).replays else 0 }).replayAll p n := by
      unfold State.linkNak
      simp only [hr, any_seq_true (l := pre ++ f :: post) (f := f) (by simp), dropWhile_before pre post f hpre, h7]
      cases pre <;> simp [hseq]
    exact ⟨_, nextOn_congr p hk, State.port_setPort_same .., fun m hm => State.port_setPort_other _ _ _ hm, out_setPort ..⟩
  case nakAll =>
    intro s p n h7 hne
    have hk : s.linkNak p n (s.port p n).txSeq = s.setPort p n { s.port p n with replay := [], replays := 0 } := by
      unfold State.linkNak
      simp [h7, hne]
    exact ⟨_, nextOn_congr p hk, State.port_setPort_same .., fun m hm => State.port_setPort_other _ _ _ hm, out_setPort ..⟩
  case nakUnknown =>
    intro s p n seq h7 hno htx
    have hk : s.linkNak p n seq = s.portCount p n 7 := by
      unfold State.linkNak
      simp only [any_seq_false hno]
      rcases htx with h | h <;> simp [h7, h]
    exact nextOn_congr p hk
  case replayLimit =>
    intro s p n f l h7 hr hdue hw hlim
    exact nextOn_congr p ((replayTimer_due h7 hr hdue hw rfl).trans (if_pos hlim))
  case replay =>
    intro s p n f h7 hr hdue hw hlim
    obtain ⟨q, hq⟩ : ∃ q : Port, q = { s.port p n with replays := (s.port p n).replays + 1 } := ⟨_, rfl⟩
    have hk := (replayTimer_due h7 hr hdue hw hq).trans (if_neg (by omega))
    have hfirst := (portSet_setPort s p n q).sent (beyondLink_portCount p (s.setPort p n q) n 5)
    have hq' : ((s.setPort p n q).portCount p n 5).port p n = q := hfirst.port_same
    obtain ⟨u, l, fr, hu, hset, hl, hsets, hblocks⟩ := resendFrames_one (s := (s.setPort p n q).portCount p n 5) (p := p) (n := n)
      (f := f) (by rw [hq', hq]; exact hr) rfl
    rw [State.out_portCount, out_setPort] at hl
    rw [hfirst.wire] at hblocks
    refine ⟨u, l, fr, nextOn_congr p (hk.trans hu), ?_, hl, hsets, hblocks⟩
    rw [hset.port_same, hq', hfirst.ns, hq]
  case transmit =>
    intro s n k rest h7 hdue hw hq hroom
    obtain ⟨u, l, fr, hu, hset, hl, hsets, hblocks⟩ := transmit_ep h7 hdue hw hq hroom rfl
    exact ⟨u, l, fr, nextOn_congr .ep hu, by rw [hset.port_same], by rw [hset.port_same], by rw [hset.port_same], hset.port_other,
      hset.mod_ep, hl, hsets, hblocks⟩

end Sys2Proof.Machine
end

section
/-! PROOFS. Bring-up takes lanes and ports through their states to Active (R242 to R247). -/

namespace Sys2Proof.Machine

/-! ### Lanes -/

theorem train_found (x : Lane) (w : TrainWord) (a : Bool) (e : Nat) : (x.train w a e).countDown.found = min 8 (x.found + 1) := by
  unfold Lane.countDown Lane.train Lane.apply
  dsimp only
  repeat' split
  all_goals rfl

theorem train_ready (x : Lane) (w : TrainWord) (a : Bool) (e : Nat) : (x.train w a e).countDown.ready = (x.ready || a) := by
  unfold Lane.countDown Lane.train Lane.apply
  dsimp only
  repeat' split
  all_goals rfl

/-- R242: a training frame whose CRC-16 fails moves no tap. -/
theorem train_taps {x : Lane} {w : TrainWord} (hw : w.crcOk = false) (a : Bool) (e : Nat) : (x.train w a e).countDown.taps = x.taps := by
  unfold Lane.countDown Lane.train
  simp [hw]

theorem lane_setLane_emit (s : State) (p : Part) (l : Nat) (x : Lane) (o : Out) : ((s.setLane p l x).emit o).lane p l = x :=
  (lane_emit ..).trans (State.lane_setLane_same ..)

theorem lane_setLane_emit_other (s : State) (p : Part) {l m : Nat} (x : Lane) (o : Out) (h : m ≠ l) :
    ((s.setLane p l x).emit o).lane p m = s.lane p m :=
  (lane_emit ..).trans (State.lane_setLane_other _ _ _ h)

theorem port_setLane_emit (s : State) (p : Part) (l n : Nat) (x : Lane) (o : Out) : ((s.setLane p l x).emit o).port p n = s.port p n :=
  (port_emit ..).trans (State.port_setLane ..)

theorem out_setLane_emit (s : State) (p : Part) (l : Nat) (x : Lane) (o : Out) : ((s.setLane p l x).emit o).out = s.out ++ [o] :=
  congrArg (· ++ [o]) (out_setLane s p l x)

theorem portLanes_setLane_emit (s : State) (p : Part) (l n : Nat) (x : Lane) (o : Out) :
    ((s.setLane p l x).emit o).portLanes p n = s.portLanes p n := by cases p <;> rfl

theorem lane_setTx (s : State) (p : Part) (n m : Nat) (x : TxPort) : (s.setTx p n x).lane p m = s.lane p m := by cases p <;> rfl

theorem port_setTx (s : State) (p : Part) (n m : Nat) (x : TxPort) : (s.setTx p n x).port p m = s.port p m := by cases p <;> rfl

theorem out_setTx (s : State) (p : Part) (n : Nat) (x : TxPort) : (s.setTx p n x).out = s.out := by cases p <;> rfl

theorem txPort_setTx (s : State) (p : Part) (n : Nat) (x : TxPort) : (s.setTx p n x).txPort p n = x := by
  cases p <;> exact tabGetD_put_same ..

/-- R247: a port one of whose lanes has not found eight training frames stays in Detect. -/
theorem tryTrain_waits {s : State} {p : Part} {n : Nat} (h : ∃ m ∈ s.portLanes p n, (s.lane p m).found < 8) : s.tryTrain p n = s := by
  obtain ⟨m, hm, hf⟩ := h
  refine if_neg fun hc => ?_
  have := List.all_eq_true.mp hc.2.2 m hm
  simp only [decide_eq_true_eq] at this
  omega

/-- R242, R243: a lane in Detect reads a training frame and answers with its own. -/
theorem trainFrame_detect {s : State} {p : Part} {l word crc errors : Nat} {adapted : Bool} {y : Lane} (h1 : (s.lane p l).state = 1)
    (hmay : s.mayTrain p (s.portOfLane p l) = true) (hout : s.laneOut p l = false) (hc : (s.lane p l).count = none)
    (hp : (s.port p (s.portOfLane p l)).state = 1)
    (hwait : ∃ m ∈ s.portLanes p (s.portOfLane p l), m ≠ l ∧ (s.lane p m).found < 8)
    (hy : y = ((s.lane p l).train (trainWordOf word (crc == crc16 (beBytes 8 word))) adapted errors).countDown) :
    s.trainFrame p l word crc adapted errors =
      (s.setLane p l y).emit (.training p l (y.word.bits_ (l - 4 * s.portOfLane p l)) 1) := by
  have ht : s.trainFrame p l word crc adapted errors =
      ((s.setLane p l y).emit (.training p l (y.word.bits_ (l - 4 * s.portOfLane p l)) 1)).tryTrain p (s.portOfLane p l) := by
    unfold State.trainFrame
    dsimp only
    rw [if_neg (by simp [h1, hmay, hout]), if_neg (by simp [hc, h1]), ← hy, port_setLane_emit, hp]
    rfl
  obtain ⟨m, hm, hne, hf⟩ := hwait
  rw [ht]
  exact tryTrain_waits ⟨m, by rwa [portLanes_setLane_emit], by rwa [lane_setLane_emit_other _ _ _ _ hne]⟩

/-- R244: a lane whose countdown has ended sends codewords; with its last lane the port does. -/
theorem countdownEnd_eq {s : State} {p : Part} {l : Nat} (h3 : (s.lane p l).state = 3) (hc : (s.lane p l).count = some 0) :
    ∃ t : State, t = (s.setLane p l { s.lane p l with state := 4, since := s.ns }).emit (.codewords p l) ∧
      s.countdownEnd p l = if (t.port p (s.portOfLane p l)).state = 3 ∧ (t.portLanes p (s.portOfLane p l)).all fun l => (t.lane p l).state == 4
        then (t.modPort p (s.portOfLane p l) fun q => { q with state := 4, since := t.ns }).setTx p (s.portOfLane p l)
          { TxPort.zero with start := t.clock }
        else t := by
  refine ⟨_, rfl, ?_⟩
  unfold State.countdownEnd
  dsimp only
  rw [if_pos ⟨h3, hc⟩]

/-- R245: a lane that finds its sixty-fourth valid header in a row has block lock. -/
theorem header_locks {x : Lane} (hb : x.blockLock = false) (hh : x.hunt = 63) (now : Nat) :
    x.header now 1 = { x with blockLock := true, hunt := 0, seen := 0, invalid := [] } := by
  unfold Lane.header
  simp [hb, hh]

/-- R245: sixteen invalid headers among 1,024 lose it. -/
theorem header_loses {x : Lane} (hb : x.blockLock = true) (hl : x.invalid.length = 15) (hi : ∀ i ∈ x.invalid, x.seen < i + 1024)
    (now : Nat) : x.header now 0 = { x with blockLock := false, lostAt := now, hunt := 0, invalid := [] } := by
  have hf : (x.invalid.filter fun i => decide (x.seen < i + 1024)) = x.invalid :=
    List.filter_eq_self.mpr fun i h => by simpa using hi i h
  unfold Lane.header
  simp [hb, hf, hl]

/-- R245: a header of a lane of a port that does not wait for its lanes' lock changes that lane only. -/
theorem blockLock_lane {s : State} {p : Part} {l h : Nat} {y : Lane} (h4 : 4 ≤ (s.lane p l).state) (h8 : (s.lane p l).state ≠ 8)
    (hd : (s.lane p l).peerDone = true) (hp : (s.port p (s.portOfLane p l)).state ≠ 4) (hy : (s.lane p l).header s.ns h = y)
    (hrun : ¬ (y.blockLock = true ∧ y.state = 4 ∧ (s.port p (s.portOfLane p l)).state = 7)) :
    s.blockLock p l [h] = s.setLane p l y := by
  unfold State.blockLock
  dsimp only
  rw [if_neg (by simp [hd, h8]; omega), List.foldl_cons, List.foldl_nil, hy, if_neg hrun, if_neg (by rw [State.port_setLane]; simp [hp])]

/-! ### Alignment markers (R246) -/

theorem alignedMarks_one (m : MarkRx) : alignedMarks [m] = [m] := by
  have h : (m :: ([] : List MarkRx)).map MarkRx.index = [m.index] := rfl
  simp [alignedMarks, List.eraseDups_cons]

/-- R246: in Active a marker on a lane that is not in service gives the lane's place and the Marker count. -/
theorem marker_active {s : State} {p : Part} {n : Nat} {m : MarkRx} (h7 : (s.port p n).state = 7) (hw : m.wellFormed = true)
    (hl : (s.lane p (4 * n + m.lane)).blockLock = true) (hb : m.bip = m.parity) (hi : bit (s.port p n).lanes m.index = false) :
    s.marker p n [m] = s.setPort p n { s.port p n with place := tabSet (s.port p n).place m.lane m.index, marker := m.count } := by
  have hf : [m].filter (fun m => m.wellFormed && (s.lane p (4 * n + m.lane)).blockLock) = [m] := by simp [hw, hl]
  unfold State.marker
  simp only [hf, alignedMarks_one, h7]
  simp [hb, hi]

/-- R246: in Deskew markers of every lane align the port. -/
theorem marker_deskew {s : State} {p : Part} {n : Nat} {marks : List MarkRx} (h5 : (s.port p n).state = 5)
    (hok : ∀ m ∈ marks, m.wellFormed = true ∧ (s.lane p (4 * n + m.lane)).blockLock = true) (hne : marks ≠ [])
    (hal : alignedMarks marks = marks)
    (hfull : marks.foldl (fun a m => a ||| 2 ^ m.index) 0 &&& widthMask (s.cfgWidth p n) = widthMask (s.cfgWidth p n)) :
    ∃ q, s.marker p n marks = (s.setPort p n q).deskewed p n (widthMask (s.cfgWidth p n)) := by
  suffices h : s.marker p n marks = (s.setPort p n { s.port p n with
      aligned := marks.foldl (fun a m => a ||| 2 ^ m.index) 0
      place := marks.foldl (fun t m => tabSet t m.lane m.index) (s.port p n).place
      marker := (marks.head?.map MarkRx.count).getD 0 }).deskewed p n (widthMask (s.cfgWidth p n)) from ⟨_, h⟩
  have hf : marks.filter (fun m => m.wellFormed && (s.lane p (4 * n + m.lane)).blockLock) = marks :=
    List.filter_eq_self.mpr fun m h => by simp [hok m h]
  unfold State.marker
  simp only [hf, hal, h5]
  rw [if_pos trivial, if_neg (by simp [hne]), if_pos hfull]

/-! ### Capability blocks (R247) -/

/-- R247: the first Capability block of a peer. -/
theorem capReceive_first {s : State} {p : Part} {n : Nat} {c : Capability} {q : Port} (h6 : (s.port p n).state = 6)
    (hn : (s.port p n).peer = none) (hq : q = { s.port p n with peer := some c, capCount := 1 }) :
    s.capReceive p n c = if (s.setPort p n q).capDue p n then (s.setPort p n q).sendCapability p n else (s.setPort p n q).tryActive p n := by
  rw [capReceive_eq s p n c h6]
  simp [hn, hq]

/-- R247: a port that has its peer's block once does not accept it yet. -/
theorem accepts_first {s : State} {p : Part} {n : Nat} (h : (s.port p n).capCount = 1) : s.accepts p n = false := by
  unfold State.accepts
  split
  · simp [h]
  · rfl

theorem tryActive_first {s : State} {p : Part} {n : Nat} (h : (s.port p n).capCount = 1) : s.tryActive p n = s := by
  unfold State.tryActive
  simp only [accepts_first h]
  split
  · simp
  · rfl

/-- R247: with the third equal block a port whose peer is the one that the cabling table names, and has accepted, is Active. -/
theorem capReceive_third {s : State} {p : Part} {n : Nat} {c : Capability} {q : Port} (h6 : (s.port p n).state = 6)
    (hpeer : (s.port p n).peer = some c) (h2 : (s.port p n).capCount = 2) (hco : s.coordsSet p = true) (hok : s.peerOk p n c = true)
    (hacc : c.accepted = true) (hown : (s.port p n).capAcc = true) (hdue : s.capDue p n = false)
    (hq : q = { s.port p n with peer := some c, capCount := 3 }) : s.capReceive p n c = (s.setPort p n q).toActive p n c := by
  have hrole : q.role = (s.port p n).role := by rw [hq]
  have hport := State.port_setPort_same s p n q
  have haccepts : (s.setPort p n q).accepts p n = true := by
    have hcoords : (s.setPort p n q).coordsSet p = true := Eq.trans (by cases p <;> rfl) hco
    unfold State.accepts
    rw [hport, hq]
    dsimp only
    rw [← hq, hcoords, peerOk_setPort s p n c q hrole, hok]
    rfl
  have hd : (s.setPort p n q).capDue p n = false := (capDue_setPort s p n q (by rw [hq])).trans hdue
  have hactive : (s.setPort p n q).tryActive p n = (s.setPort p n q).toActive p n c := by
    have hqpeer : q.peer = some c := by rw [hq]
    unfold State.tryActive
    simp only [hport, hqpeer]
    exact if_pos ⟨by rw [hq]; exact h6, by rw [hq]; exact hown, hacc, haccepts⟩
  rw [capReceive_eq s p n c h6]
  simp only [hpeer, h2, beq_self_eq_true, if_true]
  dsimp only at hq
  rw [show min 3 (2 + 1) = 3 from rfl, ← hq]
  simp [haccepts, hd, hactive]

/-! ### The way back to Train (R247) -/

/-- R247: the lanes of a port and the port enter a training state. -/
theorem portStep_lanes (s : State) (p : Part) (n : Nat) :
    ((s.portStep p n 2).port p n).state = 2 ∧ ((s.portStep p n 2).port p n).since = s.ns ∧
    (∀ l ∈ s.portLanes p n, ((s.portStep p n 2).lane p l).state = 2) ∧ (∀ m, m ≠ n → (s.portStep p n 2).port p m = s.port p m) ∧
    (s.portStep p n 2).out = s.out := by
  unfold State.portStep
  have hns := fold_ns s p (s.portLanes p n)
  rw [fold_since s p (s.portLanes p n) s rfl] at hns ⊢
  obtain ⟨hport, hlane, -, hout⟩ := State.foldl_modLane p (fun x => { x with state := 2, since := s.ns }) (s.portLanes p n)
    (nodup_portLanes s p n) s
  generalize (s.portLanes p n).foldl (fun u l => u.modLane p l fun x => { x with state := 2, since := s.ns }) s = A at *
  refine ⟨by rw [port_modPort_same], by rw [port_modPort_same, ← hns], fun l hl => ?_, fun m hm => ?_, (out_setPort ..).trans hout⟩
  · rw [State.modPort, State.lane_setPort, hlane l hl]
  · rw [State.modPort, State.port_setPort_other _ _ _ hm, hport]

/-- Settles O39: each clause by the lemma of its command. -/
theorem portsTrain : Obligations.PortsTrain := by
  refine ⟨?train, ?trainOff, ?burst, ?countdown, ?countdownPort, ?locks, ?loses, ?markActive, ?markDeskew, ?capFirst, ?capDue,
    ?capThird, ?timeout, ?backoff⟩
  case train =>
    rintro s p l word crc errors adapted x y rfl h1 hmay hout hc hp hwait hy
    refine ⟨_, next_congr (trainFrame_detect h1 hmay hout hc hp hwait hy), lane_setLane_emit .., ?_, ?_, ?_,
      fun m hm => lane_setLane_emit_other _ _ _ _ hm, fun n => port_setLane_emit .., out_setLane_emit ..⟩
    · rw [hy, train_found]
    · rw [hy, train_ready]
    · intro hcrc
      rw [hy, train_taps (by simp [trainWordOf, hcrc])]
  case trainOff =>
    intro s p l word crc errors adapted h0
    exact next_congr (if_pos (.inl h0))
  case burst =>
    intro s p l h1 hmay hout hdue
    have hb : s.detectBurst p l = (s.setLane p l { s.lane p l with burst := true, since := s.ns }).emit
        (.training p l ((s.lane p l).word.bits_ (l - 4 * s.portOfLane p l)) 64) :=
      if_pos ⟨.inl h1, hmay, by simp [hout], by rw [Bool.not_eq_true, Nat.add_comm]; exact hdue⟩
    exact ⟨_, next_congr hb, lane_setLane_emit .., fun m hm => lane_setLane_emit_other _ _ _ _ hm, fun n => port_setLane_emit ..,
      out_setLane_emit ..⟩
  case countdown =>
    intro s p l h3 hc
    obtain ⟨t, ht, hk⟩ := countdownEnd_eq h3 hc
    have hl : t.lane p l = { s.lane p l with state := 4, since := s.ns } := ht ▸ lane_setLane_emit ..
    have ho : ∀ m, m ≠ l → t.lane p m = s.lane p m := fun m hm => ht ▸ lane_setLane_emit_other _ _ _ _ hm
    have hout : t.out = s.out ++ [.codewords p l] := ht ▸ out_setLane_emit ..
    refine ⟨_, next_congr hk, ?_⟩
    split
    · exact ⟨(lane_setTx ..).trans ((State.lane_setPort ..).trans hl),
        fun m hm => (lane_setTx ..).trans ((State.lane_setPort ..).trans (ho m hm)), (out_setTx ..).trans ((out_setPort ..).trans hout)⟩
    · exact ⟨hl, ho, hout⟩
  case countdownPort =>
    intro s p l h3 hc hp hall
    obtain ⟨t, ht, hk⟩ := countdownEnd_eq h3 hc
    have hall' : ((t.portLanes p (s.portOfLane p l)).all fun l => (t.lane p l).state == 4) = true := by
      rw [List.all_eq_true, ht, portLanes_setLane_emit]
      intro m hm
      rcases eq_or_ne m l with rfl | hne
      · rw [lane_setLane_emit]; rfl
      · rw [lane_setLane_emit_other _ _ _ _ hne, hall m hm hne]; rfl
    rw [if_pos ⟨by rw [ht, port_setLane_emit, hp], hall'⟩] at hk
    refine ⟨_, next_congr hk, ?_, ?_, ?_⟩
    · rw [port_setTx, port_modPort_same]
    · rw [txPort_setTx, ht]
      cases p <;> rfl
    · rw [txPort_setTx]
      rfl
  case locks =>
    rintro s p l x rfl h4 h8 hd hp hp7 hb hh
    exact ⟨_, next_congr (blockLock_lane h4 h8 hd hp (header_locks hb hh _) fun h => hp7 h.2.2), State.lane_setLane_same ..,
      fun m hm => State.lane_setLane_other _ _ _ hm, fun n => State.port_setLane .., out_setLane ..⟩
  case loses =>
    rintro s p l x rfl h4 h8 hd hp hb hl hi
    exact ⟨_, next_congr (blockLock_lane h4 h8 hd hp (header_loses hb hl hi _) (by simp)), State.lane_setLane_same ..,
      fun m hm => State.lane_setLane_other _ _ _ hm, fun n => State.port_setLane .., out_setLane ..⟩
  case markActive =>
    intro s p n m h7 hw hl hb hi
    exact ⟨_, nextOn_congr p (marker_active h7 hw hl hb hi), State.port_setPort_same ..,
      fun k hk => State.port_setPort_other _ _ _ hk, fun k => State.lane_setPort .., out_setPort ..⟩
  case markDeskew =>
    rintro s p n set marks h5 hok hne hal rfl hfull
    obtain ⟨q, hm⟩ := marker_deskew h5 hok hne hal hfull
    obtain ⟨u, c, l, hu, h6, hlanes, hpeer, hout, hsets⟩ := deskewed_sends (s.setPort p n q) p n (widthMask (s.cfgWidth p n))
    exact ⟨u, c, l, nextOn_congr p (hm.trans hu), h6, hlanes, hpeer, by rw [hout, out_setPort], hsets⟩
  case capFirst =>
    intro s p n c h6 hn hdue
    obtain ⟨q, hq⟩ : ∃ q : Port, q = { s.port p n with peer := some c, capCount := 1 } := ⟨_, rfl⟩
    have hc : s.capReceive p n c = s.setPort p n q := by
      rw [capReceive_first h6 hn hq, capDue_setPort s p n q (by rw [hq]), hdue, if_neg (by simp), tryActive_first]
      rw [State.port_setPort_same, hq]
    exact ⟨_, nextOn_congr p hc, (State.port_setPort_same ..).trans hq, fun m hm => State.port_setPort_other _ _ _ hm, out_setPort ..⟩
  case capDue =>
    intro s p n c h6 hn hdue
    obtain ⟨q, hq⟩ : ∃ q : Port, q = { s.port p n with peer := some c, capCount := 1 } := ⟨_, rfl⟩
    have hport := State.port_setPort_same s p n q
    have hc : s.capReceive p n c = (s.setPort p n q).sendCapability p n := by
      rw [capReceive_first h6 hn hq, capDue_setPort s p n q (by rw [hq]), hdue, if_pos rfl]
    obtain ⟨u, x, l, hu, hpu, hou, hseen, hxacc, hout, hsets⟩ := sendCapability_unaccepted (s.setPort p n q) p n
      (accepts_first (by rw [hport, hq])) (by rw [hport, hq]; simp)
    refine ⟨u, x, l, nextOn_congr p (hc.trans hu), ?_, fun m hm => (hou m hm).trans (State.port_setPort_other _ _ _ hm), hseen, hxacc,
      by rw [hout, out_setPort], hsets⟩
    rw [hpu, hport, hq]
    cases p <;> rfl
  case capThird =>
    intro s p n c h6 hpeer h2 hco hok hacc hown hdue
    exact ⟨_, nextOn_congr p (capReceive_third h6 hpeer h2 hco hok hacc hown hdue rfl), State.port_setPort_same .., out_setPort ..,
      toActive_state ..⟩
  case timeout =>
    intro s p n h2 hdue
    have ht : s.trainTimeout p n = (s.portCount p n 8).toDetect p n := by
      unfold State.trainTimeout
      simp [h2]
      omega
    exact nextOn_congr p ht
  case backoff =>
    intro s p n h1 hdue hfound
    have ht : s.tryTrain p n = s.portStep p n 2 :=
      if_pos ⟨h1, decide_eq_true hdue, List.all_eq_true.mpr fun l hl => decide_eq_true (hfound l hl)⟩
    exact ⟨_, next_congr ht, portStep_lanes s p n⟩

end Sys2Proof.Machine
end

section
/-! PROOFS. Mesh headers are decided, frames injected, spilled and read back, and the Commons answers (R209 to R219, R226). -/

namespace Sys2Proof.Machine

/-- A frame at a port of its tile is lost without any request of its own (R216). -/
theorem loseFrame_port {s : State} {f : MFrame} (h : f.unit < 4) : s.loseFrame f = s.takeFrame f :=
  if_pos (.inr h)

theorem headersArrive_none {s : State} {tile plane : Nat} (lost : List Nat)
    (h : (s.mod.frames.filter fun f => f.place == 3 && f.tile == tile && f.mplane == plane) = []) :
    s.headersArrive tile plane lost = s := by
  unfold State.headersArrive
  rw [h]
  rfl

/-- R209: the one frame at a router input is lost on its link. -/
theorem headersArrive_lost {s : State} {tile plane : Nat} {lost : List Nat} {f : MFrame}
    (h : (s.mod.frames.filter fun f => f.place == 3 && f.tile == tile && f.mplane == plane) = [f]) (hl : f.id ∈ lost) :
    s.headersArrive tile plane lost = s.loseFrame f := by
  have hc : lost.contains f.id = true := by simpa using hl
  unfold State.headersArrive
  simp only [h, List.filter_cons, List.filter_nil, hc]
  rfl

/-- R211: the one frame at a router input is decided, or discarded. -/
theorem headersArrive_one {s : State} {tile plane : Nat} {f : MFrame}
    (h : (s.mod.frames.filter fun f => f.place == 3 && f.tile == tile && f.mplane == plane) = [f]) :
    s.headersArrive tile plane [] = if s.badHeader f then (s.meshSlots f true).dropFrame f 6
      else if s.checkPoint f = none then (s.meshSlots f false).decideOut f
      else (s.meshSlots f true).dropFrame f ((s.checkPoint f).getD 0) := by
  unfold State.headersArrive
  rw [h]
  show (s.inOrder [f]).foldl _ s = _
  rw [inOrder_one, List.foldl_cons, List.foldl_nil]
  cases hc : s.checkPoint f <;> simp

theorem inject_none {s : State} {tile : Nat} (n : Nat) (h : s.injectNext tile = none) : s.inject tile (n + 1) = s := by
  rw [State.inject, h]

/-- R212: the frame that a tile injects next leaves for its link. -/
theorem inject_link {s : State} {tile p o k : Nat} {f : MFrame} (h : s.injectNext tile = some (f, none)) (hd : f.dtile ≠ f.tile)
    (ha : s.injectAt f = some (p, o)) (hm : (tabGet f.stages 1).isSome = true) :
    s.inject tile (k + 1) = ((s.takeFrame f).cellsLeave f).toLink { f with mplane := p } o := by
  rw [State.inject, h]
  simp only [State.injectFrame, if_neg hd, ha, hm, if_true]

/-- R210: a frame crosses a link to the neighbouring tile. -/
theorem toLink_neighbour {s : State} {f : MFrame} {o n : Nat} (h : neighbour f.tile o = some n) :
    s.toLink f o = (s.takeOut f.tile f.mplane o f).putFrame { f with tile := n, place := 3, dir := (o + 2) % 4 } := by
  unfold State.toLink
  rw [h]

/-- R218: the oldest spilled frame returns to its queue. -/
theorem readBack_returns {s : State} {t : Nat} {f : MFrame} {l : List MFrame} (hfree : s.regNow .mod 0x510006 < s.freeCells t)
    (hq : s.inOrder (s.mod.frames.filter fun f => f.place == 4 && f.tile == t) = f :: l) (hc : s.checkPoint f = none)
    (hp : s.pagesOf (.frame f.id) ≠ 0) (ha : f.unit < 4 → s.mod.sh.portActive (firstPort f.dtile + f.unit) = true) :
    s.readBack t true = ((s.takeFrame f).putFrame (MFrame.mark { f with place := 0 } 4 s.ns)).tileCount t 18 := by
  have hdown : s.portDownFor (MFrame.mark { f with place := 0 } 4 s.ns) = false := by
    simp only [State.portDownFor, MFrame.mark, Bool.and_eq_false_iff, Bool.not_eq_false']
    by_cases hu : f.unit < 4
    · exact .inr (ha hu)
    · exact .inl (.inr (decide_eq_false hu))
  unfold State.readBack
  simp [if_neg (show ¬ s.freeCells t ≤ s.regNow .mod 0x510006 by omega), hq, hp, hc, hdown]

/-- R218: a frame whose page fails its tag is lost. -/
theorem readBack_fails {s : State} {t : Nat} {f : MFrame} {l : List MFrame} (hfree : s.regNow .mod 0x510006 < s.freeCells t)
    (hq : s.inOrder (s.mod.frames.filter fun f => f.place == 4 && f.tile == t) = f :: l) :
    s.readBack t false = s.dropFrame f 15 := by
  unfold State.readBack
  simp [if_neg (show ¬ s.freeCells t ≤ s.regNow .mod 0x510006 by omega), hq]

/-- R226: a result other than Poison and Torn answers its source. -/
theorem commonsResponse_good {s : State} {id code : Nat} {g : InProg} {data : List Byte}
    (hg : (s.mod.sh.recv.inprog.find? fun g => g.id == id && g.stage != 3) = some g) (hr : g.result = some (code, data))
    (ht : code ≠ cTorn) (hp : code ≠ cPoison) : s.commonsResponse id = (s.finishProg .mod id code data).regionsOn := by
  unfold State.commonsResponse
  simp only [hg, hr]
  rw [if_neg ht, if_neg (by simp [ht, hp]), partCount_zero]

/-- Settles O41: each clause by the lemma of its command. -/
theorem framesCrossTheMesh : Obligations.FramesCrossTheMesh := by
  refine ⟨?noHeader, ?lost, ?decided, ?noFrame, ?inject, ?noSpill, ?spill, ?readBack, ?readFails, ?responds, ?notYet⟩
  case noHeader => exact fun s tile plane lost h => next_congr (headersArrive_none lost h)
  case lost =>
    intro s tile plane lost f h hl hu
    exact ⟨_, next_congr ((headersArrive_lost h hl).trans (loseFrame_port hu)), frames_takeFrame .., sh_takeFrame .., ep_takeFrame ..,
      out_takeFrame ..⟩
  case decided =>
    intro s tile plane f h
    exact next_congr (headersArrive_one h)
  case noFrame => exact fun s tile h => next_congr (inject_none _ h)
  case inject =>
    intro s tile p o n f h hd ha hn hm
    exact ⟨_, next_congr ((inject_link h hd ha hm).trans (toLink_neighbour hn)), moved ..⟩
  case noSpill =>
    intro s t hfree hs
    have hk : s.spillFrame t = s.modTile t fun x => { x with spilling := false } := if_pos ⟨hfree, by simp [hs]⟩
    refine ⟨_, next_congr hk, ?_, rfl, rfl, rfl, rfl⟩
    rw [tile_modTile_same, ← hs]
  case spill =>
    intro s t f h1 h2 h3 h4 h5 h6
    obtain ⟨u, x, hk, hu⟩ := spillFrame_one s t f h1 h2 h3 h4 h5 h6
    refine ⟨_, next_congr hk, ?_, ?_, ?_⟩
    · show u.mod.frames = _
      rw [hu, frames_partCount, State.tileCount, frames_count, frames_putFrame, frames_takeFrame]
    · show u.ep = _
      rw [hu, ep_partCount, State.tileCount, ep_count, ep_putFrame, ep_takeFrame]
    · show u.out = _
      rw [hu, out_partCount, State.tileCount, State.out_count, out_putFrame, out_takeFrame]
  case readBack =>
    intro s t f l hfree hq hc hp ha
    refine ⟨_, next_congr (readBack_returns hfree hq hc hp ha), ?_, ?_, ?_⟩
    · rw [State.tileCount, frames_count, frames_putFrame, frames_takeFrame]
    · rw [State.tileCount, ep_count, ep_putFrame, ep_takeFrame]
    · rw [State.tileCount, State.out_count, out_putFrame, out_takeFrame]
  case readFails => exact fun s t f l hfree hq => next_congr (readBack_fails hfree hq)
  case responds => exact fun s id code g data hg hr ht hp => next_congr (commonsResponse_good hg hr ht hp)
  case notYet =>
    intro s id g hg hr
    refine next_congr (?_ : s.commonsResponse id = s)
    unfold State.commonsResponse
    simp only [hg, hr]

end Sys2Proof.Machine
end

section
/-! PROOFS. Slices are created, torn, swept and drained; the audit sets tile counters from its map (R224, R225, R230). -/

namespace Sys2Proof.Machine

/-! ### Values and tables -/

/-- A value of `n` bytes lies in the whole range of its entry. -/
theorem wholeRange {val : List Byte} {n m : Nat} (h : val.length = n) (hm : 256 ^ n = m + 1) :
    val.length = n ∧ 0 ≤ beNat val ∧ beNat val ≤ m := by
  have := beNat_lt val
  rw [h, hm] at this
  exact ⟨h, Nat.zero_le _, by omega⟩

theorem tabGet_tabPut {α : Type} [DecidableEq α] (t : Tab α) {k : Nat} {v d : α} (h : v ≠ d) : tabGet (tabPut t k v d) k = some v := by
  rw [tabPut, if_neg h, tabGet_tabSet_same]

theorem tabGet_tabPut_other {α : Type} [DecidableEq α] (t : Tab α) {k l : Nat} (v d : α) (h : l ≠ k) :
    tabGet (tabPut t k v d) l = tabGet t l := by
  unfold tabPut
  split
  · exact tabGet_tabDel_other _ h
  · exact tabGet_tabSet_other _ _ h

theorem tabGet_tabMod_same {α : Type} (t : Tab α) (k : Nat) (f : α → α) : tabGet (tabMod t k f) k = (tabGet t k).map f := by
  rw [tabGet_tabMod, if_pos rfl]

theorem tabGet_tabMod_other {α : Type} (t : Tab α) {k l : Nat} (f : α → α) (h : l ≠ k) : tabGet (tabMod t k f) l = tabGet t l := by
  rw [tabGet_tabMod, if_neg h]

/-! ### Slices (R224, R225) -/

/-- R224: a Job ID without a slice gets the one that the value spells. -/
theorem sliceWrite_new {s : State} {job : Nat} {val : List Byte} {e : Slice} (hv : val.length = 80) (hr : bits (beNat val) 602 512 = 0)
    (hb : bit (beNat val) 639 = true) (hj : bits (beNat val) 634 619 = job) (hn : tabGet s.mod.slices job = none)
    (hl : s.mod.slices.length < 4096) (he : e = { Slice.free with
      v := true
      state := 1
      commons := bit (beNat val) 635
      job := job
      rackMask := bits (beNat val) 618 603
      nodes := bits (beNat val) 511 0 }) :
    s.sliceWrite job val = (stOk, (s.modMod fun m => { m with slices := tabPut m.slices job e Slice.free }).newPartition .mod job) := by
  have hold : tabGetD s.mod.slices job Slice.free = Slice.free := by rw [tabGetD, hn]; rfl
  have hfree : Slice.free.v = false := rfl
  unfold State.sliceWrite
  simp [hv, hr, hb, hj, hold, hfree, he]
  omega

/-- Settles O42: each clause by the lemma of its command; the audit by `auditTile_fold`. -/
theorem slicesAndAudit : Obligations.SlicesAndAudit := by
  refine ⟨?create, ?revoke, ?revokeNone, ?sweep, ?drained, ?undrained, ?audit, ?auditEp⟩
  case create =>
    rintro s a val job hd hv rfl hr hb hj hn hl
    obtain ⟨e, he⟩ : ∃ e : Slice, e = { Slice.free with
      v := true
      state := 1
      commons := bit (beNat val) 635
      job := s.sel .mod a.ctx 0x550001
      rackMask := bits (beNat val) 618 603
      nodes := bits (beNat val) 511 0 } := ⟨_, rfl⟩
    have hw := writeNamed_eq hd ((dirApply_sliceEntry hv).trans (sliceWrite_new hv hr hb hj hn hl he))
    have hget : tabGet (tabPut s.mod.slices (s.sel .mod a.ctx 0x550001) e Slice.free) (s.sel .mod a.ctx 0x550001) = some e :=
      tabGet_tabPut _ fun h => by cases he.symm.trans h
    exact ⟨_, e, next_congr hw, hget, by rw [he], by rw [he], by rw [he], by rw [he], by rw [he], by rw [he],
      fun j hne => tabGet_tabPut_other _ _ _ hne, rfl, rfl, rfl⟩
  case revoke =>
    intro s a val hd hv hs
    have hw := writeNamed_eq hd ((dirApply_sliceRevoke (wholeRange hv rfl)).trans (if_pos hs))
    refine ⟨s.modMod fun m => { m with slices := tabMod m.slices (beNat val) fun e => { e with state := 2, revokedAt := s.ns, swept := [] } },
      tabGet_tabMod_same .., fun j hne => tabGet_tabMod_other _ _ hne, rfl, rfl, rfl, rfl, rfl, rfl, nextOn_congr .mod (hw.trans ?_)⟩
    rw [State.tearSlice, State.sliceRevoke, if_pos hs]
  case revokeNone =>
    intro s a val hd hv hs
    exact nextOn_congr .mod (writeNamed_eq hd ((dirApply_sliceRevoke (wholeRange hv rfl)).trans (if_neg (by simp [hs]))))
  case sweep =>
    intro s tile job e he h2 hno
    have hk : s.tileSweep tile job = s.modMod fun m => { m with slices := tabMod m.slices job fun e => { e with swept := setIns e.swept tile } } := by
      have hf : (s.mod.frames.filter fun f => f.tile == tile && f.pkt.job == job && f.place != 4 && f.place != 3 && s.tornFrame f) = [] := by
        rw [List.filter_eq_nil_iff]
        intro f hf hc
        simp only [Bool.and_eq_true, beq_iff_eq] at hc
        exact hno f hf hc.1.1.1.1 hc.1.1.1.2
      unfold State.tileSweep
      simp [he, h2, hf]
    refine ⟨_, next_congr hk, ?_, fun j hne => tabGet_tabMod_other _ _ hne, rfl, rfl, rfl, rfl⟩
    show tabGet (tabMod _ _ _) _ = _
    rw [tabGet_tabMod_same, he]
    rfl
  case drained =>
    intro s job e he h2 hswept hage
    have hk : s.sliceDrained job = s.modMod fun m => { m with slices := tabMod m.slices job fun e => { e with state := 3 } } := by
      unfold State.sliceDrained
      simp only [he]
      exact if_pos ⟨h2, by simpa using hswept, hage⟩
    refine ⟨_, next_congr hk, ?_, fun j hne => tabGet_tabMod_other _ _ hne, rfl, rfl, rfl, rfl⟩
    show tabGet (tabMod _ _ _) _ = _
    rw [tabGet_tabMod_same, he]
    rfl
  case undrained =>
    intro s job e he ⟨t, ht, hns⟩
    have hk : s.sliceDrained job = s := by
      unfold State.sliceDrained
      simp only [he]
      exact if_neg fun hc => hns (by simpa using List.all_eq_true.mp hc.2.1 t (List.mem_range.mpr ht))
    exact next_congr hk
  case audit =>
    intro s hrun
    obtain ⟨hframes, hgroups, hmem, hep, hout, -, htile⟩ := auditTile_fold (List.range 64) List.nodup_range s
    have hk : s.epochAudit .mod = (List.range 64).foldl (fun s t => s.auditTile t) s := by
      unfold State.epochAudit
      dsimp only
      rw [List.filter_eq_nil_iff.mpr, List.foldl_nil]
      intro t ht hc
      obtain ⟨-, -, hlast⟩ := htile t ht
      have hlim := hrun t (List.mem_range.mp ht)
      simp only [Bool.and_eq_true, decide_eq_true_eq] at hc
      omega
    exact ⟨_, next_congr hk, fun t ht => ⟨(htile t (List.mem_range.mpr ht)).1, (htile t (List.mem_range.mpr ht)).2.1⟩, hframes, hgroups,
      hmem, hep, hout⟩
  case auditEp =>
    intro s hpairs hpos
    have hbad : (s.ep.sh.pairs.filter fun q => q.charged != 0 && !(s.ep.sh.reqs.any fun r => r.sends != 0 && r.pkt.to_ == q.dst)) = [] := by
      rw [List.filter_eq_nil_iff]
      intro q hq
      simp [hpairs q hq]
    have hw : s.auditWindows = s.modEp fun e => { e with auditRun := 0 } := by
      unfold State.auditWindows
      rw [hbad]
      rfl
    refine next_congr (?_ : s.epochAudit .ep = s.modEp fun e => { e with auditRun := 0 })
    unfold State.epochAudit
    dsimp only
    rw [hw, if_neg]
    rw [run_reg]
    exact Nat.not_le.mpr hpos

end Sys2Proof.Machine
end

section
/-! PROOFS. Accelerator requests that pass their checks are taken and begin their work (R33, R63, R67, R100 to R105). -/

namespace Sys2Proof.Machine

/-- A message that passes its checks runs with its credits returned. -/
theorem eriRequest_passes {s : State} {l : Nat} {m : Eri} (ecc : List Nat) (h : s.eriPasses l m) (hk : m.kind ≠ 0x06) :
    ∃ L, sameTab L s.ep.links ∧ EriPass (s.creditBack l m L) m ∧ s.eriRequest l m.kind m ecc = (s.creditBack l m L).eriRun l m ecc := by
  obtain ⟨L, hL, hrun⟩ := eriRequest_takes_run ecc h.1 hk
  exact ⟨L, hL, eriPass_taken L h _, hrun⟩

section
variable {u : State} {l : Nat} {m : Eri} {ecc : List Nat}

/-- A load, store or atomic enters the outstanding table, and translates and issues. -/
theorem eriAccess_taken {n : Nat} (hf : eriFormOk m = true) (hj : u.jobSlot m.job = .inl n) :
    ∃ r : Req, r.id = u.ep.sh.nextReq ∧ r.order = u.ep.sh.nextReq ∧ r.agent = m.agent ∧ r.tag = m.tag ∧ r.link = l ∧ r.slot = n ∧
      r.vfa = m.addr ∧ r.st = .walking ∧ r.rel = scopeOf m.rel ∧ r.acq = scopeOf m.acq ∧ r.pkt = eriPacket m ∧ r.sends = 0 ∧ r.ecc = ecc ∧
      u.eriAccess l m ecc = (((u.takeTag m).modSh .ep fun sh => { sh with reqs := sh.reqs ++ [r], nextReq := u.ep.sh.nextReq + 1 }).translate
        u.ep.sh.nextReq).tryIssue u.ep.sh.nextReq := by
  unfold State.eriAccess
  rw [hf, hj]
  exact ⟨_, rfl, rfl, rfl, rfl, rfl, rfl, rfl, rfl, rfl, rfl, rfl, rfl, rfl, rfl⟩

/-- R63: a fence takes its place among the fences and completes once it waits for nothing. -/
theorem eriFence_taken (hr : m.rel ≠ 0) (hb : m.body = []) :
    ∃ f : Fence, f.order = u.ep.sh.nextReq ∧ f.agent = m.agent ∧ f.tag = m.tag ∧ f.job = m.job ∧ f.link = l ∧
      f.rack = decide (2 ≤ m.rel) ∧ u.eriFence l m = (((u.takeTag m).modSh .ep fun sh => { sh with nextReq := u.ep.sh.nextReq + 1 }).modEp
        fun e => { e with fences := e.fences ++ [f] }).fenceComplete u.ep.sh.nextReq := by
  unfold State.eriFence
  rw [if_neg (by simp [hr, hb])]
  exact ⟨_, rfl, rfl, rfl, rfl, rfl, rfl, rfl⟩

end

theorem fenceComplete_ready {s : State} {id : Nat} {f : Fence} (hf : s.ep.fences.find? (fun f => f.order == id) = some f)
    (hr : s.fenceReady f = true) :
    s.fenceComplete id = (s.modEp fun e => { e with fences := delFirst (fun g => g.order == id) e.fences }).endTag f.link f.agent f.tag
      f.job cDone [] := by
  unfold State.fenceComplete
  rw [hf]
  simp [hr]

/-- Settles O43: each message runs with its credits returned, and its kind has its equation. -/
theorem acceleratorRequestsAreTaken : Obligations.AcceleratorRequestsAreTaken := by
  refine ⟨?access, ?fence, ?fenceEnds, ?invalidate, ?directory⟩
  case access =>
    intro s l m ecc n c hp hf hj hc
    have hk : m.kind = 1 ∨ m.kind = 2 ∨ m.kind = 3 := by omega
    obtain ⟨L, hL, hpass, hrun⟩ := eriRequest_passes ecc hp (by omega)
    obtain ⟨r, h1, h2, h3, h4, h5, h6, h7, h8, h9, h10, h11, h12, h13, hacc⟩ :=
      eriAccess_taken (u := s.creditBack l m L) (l := l) (ecc := ecc) hf hj
    have hexec : exec c s = .next (s.eriRequest l m.kind m ecc).epOn := by
      obtain ⟨rfl, hm⟩ | ⟨rfl, hm, rfl⟩ | ⟨rfl, hm, rfl⟩ := hc <;> rw [hm] <;> rfl
    refine ⟨r, L, hL, h1, h2, h3, h4, h5, h6, h7, h8, h9, h10, h11, h12, h13, ?_⟩
    rw [hexec, hrun, eriRun_access hpass hk, hacc]
    rfl
  case fence =>
    intro s l m hp hk hr hb
    obtain ⟨L, hL, hpass, hrun⟩ := eriRequest_passes [] hp (by omega)
    obtain ⟨f, h1, h2, h3, h4, h5, h6, hf⟩ := eriFence_taken (u := s.creditBack l m L) (l := l) hr hb
    refine ⟨f, L, hL, h1, h2, h3, h4, h5, h6, nextOn_congr .ep ?_⟩
    rw [← hk, hrun, eriRun_fence hpass hk, hf]
    rfl
  case fenceEnds => exact fun s id f hf hr => nextOn_congr .ep (fenceComplete_ready hf hr)
  case invalidate =>
    intro s l m n x hp hk hx
    obtain ⟨L, hL, hpass, hrun⟩ := eriRequest_passes [] hp (by omega)
    refine ⟨L, hL, nextOn_congr .ep ?_⟩
    rw [← hk, hrun, eriRun_invalidate hpass hk, eriInvalidate_eq (u := s.creditBack l m L) hx]
    rfl
  case directory =>
    intro s l m ht hk hb
    obtain ⟨L, hL, hrun⟩ := eriRequest_takes [] ht
    refine ⟨s.creditBack l m L, L, hL, rfl, nextOn_congr .ep ?_⟩
    rw [← hk, hrun, if_pos hk]
    exact eriDir_eq hb

end Sys2Proof.Machine
end

section
/-! PROOFS. A receiver applies its checks to a request in order (R44 to R46, R62, R89, R315). -/

namespace Sys2Proof.Machine

section
variable {s : State} {p : Part} {k : Packet} {port : Nat} {tagOk : Bool} {err : Nat}

/-- A part that receives nothing changes nothing. -/
theorem exec_fabricRequestReceive_off (h : s.fabricOff p = true) : exec (.fabricRequestReceive p k port tagOk err) s = .next s :=
  if_pos h

/-- R215: a frame that a check point discards does not reach the receiver. -/
theorem exec_fabricRequestReceive_expired {f : MFrame} {c : Nat} (h : s.fabricOff .mod = false)
    (hx : s.expired .mod (fun x => x == k) = some (f, c)) :
    exec (.fabricRequestReceive .mod k port tagOk err) s = .next (s.dropFrame f c) := by
  show s.fabricRequest .mod k port tagOk err = _
  unfold State.fabricRequest
  rw [if_neg (by simp [h]), hx]

/-! ### Checks 1 to 5 (R44, R315) -/

theorem receive_malformed (h : formOk k (p == .ep) = false ∨ 5 < k.typ) :
    (s.arrives p k).receive p k port tagOk = (((s.arrives p k).malformed p port).refuse p k port 5, none) := by
  refine receive_refused (if_pos ?_)
  obtain h | h := h
  · simp [h]
  · simp [show ¬ k.typ ≤ 5 by omega]

variable (hf : formOk k (p == .ep) = true) (h1 : 1 ≤ k.typ) (h5 : k.typ ≤ 5)
include hf h1 h5

theorem receive_badJob (hj : k.job = 0 ∨ k.job = 0xFFFF) :
    (s.arrives p k).receive p k port tagOk = ((s.arrives p k).refuse p k port 4, none) :=
  receive_refused ((admit_pass hf h1 h5).trans (if_pos hj))

variable (hj : k.job ≠ 0) (hj' : k.job ≠ 0xFFFF)
include hj hj'

theorem receive_badNode (hd : k.dst ≠ s.node p) :
    (s.arrives p k).receive p k port tagOk = ((s.arrives p k).refuse p k port 3, none) :=
  receive_refused ((admit_pass hf h1 h5).trans ((if_neg (by simp [hj, hj'])).trans (if_pos hd)))

variable (hd : k.dst = s.node p)
include hd

theorem receive_unsealed (hc : s.sealCheck p k tagOk = 1) :
    (s.arrives p k).receive p k port tagOk = ((s.arrives p k).sealCount p 1, none) :=
  receive_refused ((admit_pass hf h1 h5).trans ((if_neg (by simp [hj, hj'])).trans ((if_neg (not_not.mpr hd)).trans (if_pos hc))))

theorem receive_badTag (hc : s.sealCheck p k tagOk = 2) :
    (s.arrives p k).receive p k port tagOk = (((s.arrives p k).sealCount p 2).respond p k port cPoison [] 0, none) :=
  receive_refused ((admit_pass hf h1 h5).trans ((if_neg (by simp [hj, hj'])).trans ((if_neg (not_not.mpr hd)).trans
    ((if_neg (by rw [hc]; decide)).trans (if_pos hc)))))

/-! ### The source's window (R62, R89) -/

/-- A request of a known source stands in its window as its record says. -/
theorem receive_known {r : SrcRec} {c : SeqClass} (hc : s.sealCheck p k tagOk = 0) (hr : (s.sh p).recv.rec_ k.from_ = some r)
    (hs : k.s = false) (hclass : (s.noted p k port).seqClass p k = c) (hn : c ≠ .fresh) :
    (s.arrives p k).receive p k port tagOk = (s.noted p k port).notNew p k port c := by
  unfold State.receive
  rw [admit_known hf h1 h5 hj hj' hd hc hr hs, hclass]
  cases c with
  | fresh => exact absurd rfl hn
  | _ => rfl

end

theorem seqClass_outside {s : State} {p : Part} {k : Packet} {port : Nat} {r : SrcRec} (hr : (s.sh p).recv.rec_ k.from_ = some r)
    (hset : r.settledOf k.seq = none) (hbusy : (s.sh p).recv.busyWith k.from_ k.seq = false) (hfar : 4096 ≤ serialDiff k.seq r.base) :
    (s.noted p k port).seqClass p k = .outside := by
  rw [class_known hr, hset]
  simp [hbusy, Nat.not_lt.mpr hfar]

theorem seqClass_inProgress {s : State} {p : Part} {k : Packet} {port : Nat} {r : SrcRec} (hr : (s.sh p).recv.rec_ k.from_ = some r)
    (hset : r.settledOf k.seq = none) (hbusy : (s.sh p).recv.busyWith k.from_ k.seq = true) :
    (s.noted p k port).seqClass p k = .inProgress := by
  rw [class_known hr, hset]
  simp [hbusy]

theorem seqClass_settled {s : State} {p : Part} {k : Packet} {port : Nat} {r : SrcRec} {x : Settled}
    (hr : (s.sh p).recv.rec_ k.from_ = some r) (hset : r.settledOf k.seq = some x) : (s.noted p k port).seqClass p k = .dup x := by
  rw [class_known hr, hset]

/-- R62: a settled write is answered again with its code. -/
theorem answerDup_write (s : State) (p : Part) {k : Packet} (port : Nat) (x : Settled) (h : k.typ = 0x02 ∨ k.typ = 0x04) :
    s.answerDup p k port x = (s.respond p k port x.code [] 0, none) := by
  unfold State.answerDup
  have hc : isColl k.typ = false := by obtain h | h := h <;> rw [h] <;> rfl
  rw [if_neg (by omega), if_neg (by simp [hc]), if_neg (by omega)]

/-! ### Checks 6 to 8 of a fresh request (R44 to R46) -/

/-- A fresh request that a check refuses is answered with its code. -/
theorem receive_denied {s u : State} {p : Part} {k : Packet} {port code : Nat} {tagOk : Bool} {r : SrcRec}
    (h : FreshRequest s p k tagOk r) (hi : k.isCounted = true → r.isOpen k.interval = true) (hf : ¬ (k.typ = 0x02 ∧ k.f = true))
    (ha : k.typ = 0x03 → s.atomFull p = false) (hc : (s.noted p k port).checks p k = (u, .inr code)) :
    (s.arrives p k).receive p k port tagOk = (u.finish p k port code [] true, none) := by
  rw [receive_fresh h, takeNew_serve h hi hf ha, serve_code hc]

theorem checks_noSlice {s : State} {p : Part} {k : Packet} (hj : s.jobState p k.job = 1) :
    s.checks p k = (s.deny p k.job k.src k.off k.typ 0, .inr cDenied) := by
  unfold State.checks
  rw [hj]
  rfl

theorem checks_noEntry {s : State} {p : Part} {k : Packet} (hj : s.jobState p k.job = 0)
    (he : admFind (s.sh p).adm k.job k.off k.len = none) :
    s.checks p k = (s.deny p k.job k.src k.off k.typ 1, .inr cDenied) := by
  unfold State.checks
  rw [hj, he]
  rfl

theorem checks_noRight {s : State} {p : Part} {k : Packet} {e : AdmEntry} (hj : s.jobState p k.job = 0)
    (he : admFind (s.sh p).adm k.job k.off k.len = some e) (hm : k.isMarker = false) (hr : e.has (rightOf k.typ) = false) :
    s.checks p k = (s.deny p k.job k.src k.off k.typ 2, .inr cDenied) := by
  unfold State.checks
  rw [hj, he]
  simp [hm, hr]

/-- Settles O47: the receiver's answer by the first check that the request fails. -/
theorem fabricRequestsAreChecked : Obligations.FabricRequestsAreChecked := by
  refine ⟨?off, ?expired, ?form, ?checks, ?fresh, ?window⟩
  case off => exact fun s p k port tagOk err h => exec_fabricRequestReceive_off h
  case expired =>
    intro s k port tagOk err f c hoff hown hc
    refine exec_fabricRequestReceive_expired hoff ?_
    unfold State.expired
    simp [hown, hc]
  case form =>
    exact fun s p k port tagOk err hoff hx h => exec_fabricRequestReceive_none _ _ _ _ _ _ hoff hx _ (receive_malformed h)
  case checks =>
    intro s p k port tagOk err hoff hx hf h1 h5
    have hnone := exec_fabricRequestReceive_none s p k port tagOk err hoff hx
    exact ⟨fun hj => hnone _ (receive_badJob hf h1 h5 hj), fun hj hj' hd => hnone _ (receive_badNode hf h1 h5 hj hj' hd),
      fun hj hj' hd hc => hnone _ (receive_unsealed hf h1 h5 hj hj' hd hc),
      fun hj hj' hd hc => hnone _ (receive_badTag hf h1 h5 hj hj' hd hc)⟩
  case fresh =>
    intro s p k port tagOk err r hoff hx h hi hf ha
    have hnone := exec_fabricRequestReceive_none s p k port tagOk err hoff hx
    have hjob := noted_jobState s p k port k.job
    have hadm := noted_adm s p k port
    exact ⟨fun hj => hnone _ (receive_denied h hi hf ha (checks_noSlice (hjob.trans hj))),
      fun hj he => hnone _ (receive_denied h hi hf ha (checks_noEntry (hjob.trans hj) (hadm ▸ he))),
      fun e hj he hr => hnone _ (receive_denied h hi hf ha (checks_noRight (hjob.trans hj) (hadm ▸ he) (isMarker_false h.form hf) hr))⟩
  case window =>
    intro s p k port tagOk err r hoff hx hf h1 h5 hj hj' hd hc hr hs
    have hnone := exec_fabricRequestReceive_none s p k port tagOk err hoff hx
    have hknown {c : SeqClass} := receive_known (port := port) (c := c) hf h1 h5 hj hj' hd hc hr hs
    exact ⟨fun hset hbusy hfar => hnone _ (hknown (seqClass_outside hr hset hbusy hfar) nofun),
      fun hset hbusy => hnone _ (hknown (seqClass_inProgress hr hset hbusy) nofun),
      fun x hset hw => hnone _ ((hknown (seqClass_settled hr hset) nofun).trans (answerDup_write _ _ _ _ hw))⟩

end Sys2Proof.Machine
end

section
/-! PROOFS. A request that passes every check reaches memory at its local address (R26, R44, R50, R58 to R60, R179, R187). -/

namespace Sys2Proof.Machine

/-! ### Requests that are served (R26, R44, R50) -/

/-- A fresh request that passes every check is served. -/
theorem receive_served {s : State} {p : Part} {k : Packet} {port : Nat} {tagOk : Bool} {r : SrcRec} (h : FreshRequest s p k tagOk r)
    (hi : k.isCounted = true → r.isOpen k.interval = true) (hf : ¬ (k.typ = 0x02 ∧ k.f = true))
    (ha : k.typ = 0x03 → s.atomFull p = false) : (s.arrives p k).receive p k port tagOk = (s.noted p k port).serve p k port :=
  (receive_fresh h).trans (takeNew_serve h hi hf ha)

theorem noted_checks {s : State} {p : Part} {k : Packet} {port : Nat} {e : AdmEntry} (hj : s.jobState p k.job = 0)
    (he : admFind (s.sh p).adm k.job k.off k.len = some e) (hr : k.isMarker = true ∨ e.has (rightOf k.typ) = true) :
    (s.noted p k port).checks p k = (s.noted p k port, .inl (e.local_ k.off, e.offBase * 65536)) :=
  checks_pass ((noted_jobState ..).trans hj) ((noted_adm s p k port).symm ▸ he) hr

/-- The last request in progress is found by its number. -/
theorem find_last {l : List InProg} {g : InProg} (h : l.all (fun y => y.id != g.id) = true) :
    (l ++ [g]).find? (fun y => y.id == g.id) = some g := by
  have hnone : l.find? (fun y => y.id == g.id) = none := by
    rw [List.find?_eq_none]
    intro y hy
    simpa using List.all_eq_true.mp h y hy
  rw [List.find?_append, hnone]
  simp

/-- At the module the request has taken its place, with the number `g.id`, and reaches the Commons. -/
theorem exec_reaches_commons {s : State} {k : Packet} {port : Nat} {tagOk : Bool} {r : SrcRec} {e : AdmEntry}
    (hoff : s.fabricOff .mod = false) (hx : s.expired .mod (fun x => x == k) = none) (h : FreshRequest s .mod k tagOk r)
    (hi : k.isCounted = true → r.isOpen k.interval = true) (hf : k.f = false)
    (ht : k.typ = 0x01 ∨ k.typ = 0x02 ∨ k.typ = 0x04 ∨ k.typ = 0x05) (hj : s.jobState .mod k.job = 0)
    (he : admFind s.mod.sh.adm k.job k.off k.len = some e) (hr : e.has (rightOf k.typ) = true) :
    ∃ (g : InProg) (u : State), Placed s u g ∧ g.id = s.mod.sh.recv.nextId ∧ g.src = k.from_ ∧ g.pkt = k ∧ g.port = port ∧
      g.loc = e.local_ k.off ∧ g.stage = 0 ∧ exec (.fabricRequestReceive .mod k port tagOk 0) s = u.commonsAccess g.id 0 := by
  have hflag : ¬ (k.typ = 0x02 ∧ k.f = true) := by simp [hf]
  obtain ⟨g, hid, hsrc, hpkt, hport, -, hloc, hstage, hserve⟩ := serve_mod (port := port) (noted_checks (port := port) hj he (.inr hr))
    (isMarker_false h.form hflag)
  exact ⟨g, _, placed s k port g, hid.trans (noted_keeps_recv s .mod k port).2.2, hsrc, hpkt, hport, hloc, hstage,
    exec_fabricRequestReceive_mod _ _ _ _ _ hoff hx _ _ ((receive_served h hi hflag (by omega)).trans hserve)⟩

/-! ### Flagged stores (R58 to R60) -/

theorem noted_closing (s : State) (p : Part) (k : Packet) (port src i : Nat) :
    ((s.noted p k port).sh p).recv.closing src i = (s.sh p).recv.closing src i := by
  unfold Receiver.closing
  rw [noted_held, noted_inprog]

theorem noted_holdFull (s : State) (p : Part) (k : Packet) (port : Nat) : (s.noted p k port).holdFull p = s.holdFull p := by
  unfold State.holdFull
  rw [noted_held]

/-- R58, R85: a fresh flagged store of an open interval is held, or refused. -/
theorem receive_flagged {s : State} {p : Part} {k : Packet} {port : Nat} {tagOk : Bool} {r : SrcRec} (h : FreshRequest s p k tagOk r)
    (ht : k.typ = 0x02) (hf : k.f = true) (hopen : r.isOpen k.interval = true) (hclosed : (r.interval k.interval).closed = false)
    (hclosing : (s.sh p).recv.closing k.from_ k.interval = false) :
    (s.arrives p k).receive p k port tagOk = ((s.noted p k port).takeFlagged p k port, none) := by
  rw [receive_fresh h]
  unfold State.takeNew
  rw [noted_rec h.known]
  refine (if_neg ?_).trans ((if_pos ⟨ht, hf⟩).trans (if_neg ?_))
  · simp [show ({ r with lastArrival := s.ns, lastPort := if p = Part.ep then k.plane else port } : SrcRec).isOpen k.interval = true
      from hopen]
  · simp [noted_closing, hclosing, show (({ r with lastArrival := s.ns, lastPort := if p = Part.ep then k.plane else port } : SrcRec).interval
      k.interval).closed = false from hclosed]

/-- A held store keeps its packet and where it was admitted, from now on to the hold limit (R60). -/
theorem hold_eq (s : State) (p : Part) (k : Packet) (port loc base : Nat) (ended : Bool) :
    ∃ x : HeldStore, x.src = k.from_ ∧ x.pkt = k ∧ x.port = port ∧ x.loc = loc ∧ x.ended = ended ∧ x.since = s.ns ∧
      x.limit = s.reg p (if p = Part.ep then 0xD40003 else 0x740003) * 1000 ∧
      s.hold p k port loc base ended = s.modRecv p fun q => { q with held := q.held ++ [x] } :=
  ⟨_, rfl, rfl, rfl, rfl, rfl, rfl, rfl, rfl⟩

/-- R58: one that passes its checks is held while a slot is free. -/
theorem takeFlagged_held {s : State} {p : Part} {k : Packet} {port loc base : Nat} (hc : s.checks p k = (s, .inl (loc, base)))
    (hfull : s.holdFull p = false) : s.takeFlagged p k port = s.hold p k port loc base false := by
  unfold State.takeFlagged
  simp [hc, hfull]

/-- R85: one that a check refuses is answered, and holds its place until its interval closes. -/
theorem takeFlagged_refused {s u : State} {p : Part} {k : Packet} {port code : Nat} (hc : s.checks p k = (u, .inr code)) :
    s.takeFlagged p k port = (u.hold p k port 0 0 true).finish p k port code [] false := by
  unfold State.takeFlagged
  rw [hc]

section
variable {s : State} {p : Part} {src seq : Nat} {h : HeldStore} {r : SrcRec} (hh : (s.sh p).recv.heldOf src seq = some h)
include hh

/-- R59: the answer of a resolution that starts no request is its state. -/
theorem flagResolve_none {u : State} (hu : s.resolveHeld p h = (u, none)) : exec (.flaggedStoreResolve p src seq) s = .next u := by
  have hres : s.holdResolve p src seq = (u, none) := by
    unfold State.holdResolve
    rw [hh]
    exact hu
  show s.flagResolve p src seq = _
  unfold State.flagResolve
  rw [hres]
  cases p <;> rfl

theorem holdTimeout_early (hn : s.ns ≤ h.since + h.limit) : s.holdTimeout p src seq = s := by
  unfold State.holdTimeout
  rw [hh]
  exact if_neg (by omega)

theorem holdTimeout_late (hn : h.since + h.limit < s.ns) (he : h.ended = false) :
    s.holdTimeout p src seq = ((s.rcvCount p 8 1).unhold p h).finish p h.pkt h.port cPoison [] true := by
  unfold State.holdTimeout
  rw [hh]
  exact (if_pos hn).trans (if_neg (by simp [he]))

end

/-- Settles O48: a request that is served takes its place among those in progress and reaches memory from there. -/
theorem fabricRequestsReachMemory : Obligations.FabricRequestsReachMemory := by
  refine ⟨?ep, ?mod, ?flagged, ?resolve⟩
  case ep =>
    intro s k port tagOk err r e hoff h hi hf ha hj he hr
    obtain ⟨g, hid, hsrc, hpkt, hport, hres, hloc, hserve⟩ := serve_ep (port := port) (noted_checks (port := port) hj he (.inr hr))
      (isMarker_false h.form hf)
    refine ⟨g, hid.trans (noted_keeps_recv s .ep k port).2.2, hsrc, hpkt, hport, hres, hloc, ?_⟩
    show s.fabricRequest .ep k port tagOk err = _
    unfold State.fabricRequest
    rw [if_neg (by simp [hoff]), show s.expired .ep (fun x => x == k) = none from rfl]
    dsimp only
    rw [receive_served h hi hf ha, hserve]
  case mod =>
    intro s k port tagOk r e hoff hx h hi hf ht hj he hr htile hall
    obtain ⟨g, u, hplaced, hid, hsrc, hpkt, hport, hloc, hstage, hexec⟩ :=
      exec_reaches_commons (port := port) hoff hx h hi hf ht hj he hr
    have hfind : u.mod.sh.recv.inprog.find? (fun y => y.id == g.id) = some g := by
      rw [hplaced.inprog]
      exact find_last (hid ▸ hall)
    have hall' : s.mod.sh.recv.inprog.all (fun y => !(y.id == g.id)) = true := hid ▸ hall
    have hstack : u.stackTile (tileOfPort g.port) g.loc = tileOfPort g.port := by rw [hplaced.tile, hport, hloc, htile]
    rw [hexec]
    refine ⟨fun hout => ?_, fun hin hgood hregion => ?_⟩
    · rw [commonsAccess_outside hfind (by rw [hplaced.bytes, hloc, hpkt]; exact hout), hloc]
    have hbytes : g.loc + g.pkt.len ≤ u.usableBytes := by rw [hplaced.bytes, hloc, hpkt]; exact hin
    have hreg : ∀ x, u.regionAt g.loc = some x → x.2.alloc = none ∧ x.2.state ≠ 5 := by
      rw [hplaced.region, hloc]
      exact hregion
    by_cases hload : k.typ = 0x01 ∨ k.typ = 0x05
    · have hgood' : u.linesGood g.loc g.pkt.len := hplaced.good _ _ (by rw [hloc, hpkt]; exact hgood)
      rw [commonsAccess_load hfind hstack hbytes hreg (by rw [hpkt]; exact hload) hgood', if_pos hload]
      refine ⟨{ g with result := some (cDone, u.commonsRead g.loc g.pkt.len) }, hid, hsrc, hpkt, hloc, hport, ?_, _, rfl, ?_, ?_,
        inprog_setResult_last hall' hstage hplaced.inprog, ?_, ?_⟩
      · rw [hplaced.read, hloc, hpkt]
      · rw [set_keep (fun t => t.ep) hall' hstage hplaced.inprog fun _ _ => rfl, hplaced.ep]
      · rw [set_keep (fun t => t.out) hall' hstage hplaced.inprog fun _ _ => rfl, hplaced.out]
      · rw [set_keep (fun t => t.mod.regions) hall' hstage hplaced.inprog fun _ _ => rfl, hplaced.regions]
      · rw [set_keep (fun t => t.mod.mem) hall' hstage hplaced.inprog fun _ _ => rfl, hplaced.mem, if_pos hload]
    · have hlen : k.payload.length = k.len := formOk_length h.form (by omega)
      have hgood' : u.linesGood g.loc g.pkt.payload.length := hplaced.good _ _ (by rw [hloc, hpkt, hlen]; exact hgood)
      obtain ⟨b, hb⟩ := commonsAccess_store hfind hstack hbytes hreg (by rw [hpkt]; omega) hgood'
      have hprog : ((u.modMod fun m => { m with bad := b }).commonsWrite g.loc g.pkt.payload).mod.sh.recv.inprog =
        s.mod.sh.recv.inprog ++ [g] := hplaced.inprog
      rw [hb, if_neg hload]
      refine ⟨{ g with result := some (cDone, []) }, hid, hsrc, hpkt, hloc, hport, ?_, _, rfl, ?_, ?_,
        inprog_setResult_last hall' hstage hprog, ?_, ?_⟩
      · rfl
      · rw [set_keep (fun t => t.ep) hall' hstage hprog fun _ _ => rfl]
        exact hplaced.ep
      · rw [set_keep (fun t => t.out) hall' hstage hprog fun _ _ => rfl]
        exact hplaced.out
      · rw [set_keep (fun t => t.mod.regions) hall' hstage hprog fun _ _ => rfl]
        exact hplaced.regions
      · rw [set_keep (fun t => t.mod.mem) hall' hstage hprog fun _ _ => rfl]
        show memWrite u.mod.mem g.loc g.pkt.payload = _
        rw [hplaced.mem, hloc, hpkt, if_neg hload]
  case flagged =>
    intro s p k port tagOk err r hoff hx h ht hf hopen hclosed hclosing
    have hnone := exec_fabricRequestReceive_none s p k port tagOk err hoff hx
    have hrec := receive_flagged (port := port) h ht hf hopen hclosed hclosing
    refine ⟨fun e hj he hr hfull => ?_, fun hj => ?_⟩
    · have htake := takeFlagged_held (port := port) (noted_checks (port := port) hj he hr) ((noted_holdFull s p k port).trans hfull)
      obtain ⟨x, h1, h2, h3, h4, h5, h6, h7, hx⟩ := hold_eq (s.noted p k port) p k port (e.local_ k.off) (e.offBase * 65536) false
      refine ⟨x, h1, h2, h3, h4, h5, h6.trans (noted_ns ..), h7.trans (by rw [noted_reg]), ?_⟩
      rw [hnone _ hrec, htake, hx]
    · have htake := takeFlagged_refused (port := port) (checks_noSlice ((noted_jobState s p k port k.job).trans hj))
      obtain ⟨x, h1, h2, -, -, h5, -, -, hx⟩ := hold_eq ((s.noted p k port).deny p k.job k.src k.off k.typ 0) p k port 0 0 true
      refine ⟨x, h1, h2, h5, ?_⟩
      rw [hnone _ hrec, htake, hx]
  case resolve =>
    intro s p src seq h r hh hr
    refine ⟨fun hlt => flagResolve_none hh ?_, fun hle hend => flagResolve_none hh ?_, fun hle hend href => flagResolve_none hh ?_,
      fun hle hend href hm => flagResolve_none hh ?_, fun hn => next_congr (holdTimeout_early hh hn),
      fun hn hend => next_congr (holdTimeout_late hh hn hend)⟩
    all_goals unfold State.resolveHeld; rw [hr]
    · exact if_pos hlt
    · exact (if_neg (Nat.not_lt.mpr hle)).trans (if_pos hend)
    · refine (if_neg (Nat.not_lt.mpr hle)).trans ((if_neg (by simp [hend])).trans ((if_pos href).trans ?_))
      unfold State.dropHeld
      rw [hend]
      rfl
    · refine (if_neg (Nat.not_lt.mpr hle)).trans ((if_neg (by simp [hend])).trans ((if_neg (by rw [href]; simp)).trans ?_))
      exact if_pos hm

end Sys2Proof.Machine
end

section
/-! PROOFS. The transfer tiles of the copy engines (R109 to R113). -/

namespace Sys2Proof.Machine

theorem engineIssue_waits {s : State} {g : Nat} (h : s.readyTile g = none)
    (hb : s.engineBusy g = true ∨ s.ep.enginesOut.contains g = true) : s.engineIssue g = s := by
  unfold State.engineIssue
  rw [h]
  exact if_pos (Bool.or_eq_true_iff.mpr hb)

theorem engineIssue_ready {s : State} {g : Nat} {t : CTile} (h : s.readyTile g = some t) :
    s.engineIssue g = if s.engineMoves g then s else s.moveTile t := by
  unfold State.engineIssue
  rw [h]

/-- The reads of a tile whose local side is admitted. -/
theorem moveTile_reads {s : State} {t : CTile} {c : Copy} (hc : s.ep.copies.find? (fun c => c.id == t.copy) = some c)
    (hd : s.tileDenied t c = (s, false)) :
    s.moveTile t = (pieces4k t.src t.len).foldl (fun s p => s.tilePacket t c 0x05 (t.src + p.1) p.1 p.2 [])
      ((({ s with ep := { s.ep with
          tiles := modFirst (fun x => x.id == t.id) (fun x => { x with state := 2 }) s.ep.tiles } } : State).count .ep 0x14 t.engine 0 1).count .ep 0x14 t.engine 1 t.len) := by
  unfold State.moveTile
  rw [hc]
  dsimp only
  rw [hd]
  rfl

/-- R110: the next tile that an engine takes of a copy, cut at the tile size. -/
def Copy.nextTile (c : Copy) (size id g : Nat) : CTile :=
  { id := id, copy := c.id, engine := g, src := c.src + c.issued, dst := c.dst + c.issued, len := c.nextLen size, state := 0,
    todo := (granulesOf (c.src + c.issued) (c.nextLen size)).map (fun g => g * 4) ++
      (granulesOf (c.dst + c.issued) (c.nextLen size)).map (fun g => g * 4 + 1),
    got := [], parts := 0, worst := 0, stolen := false, buf := [] }

theorem takeTile_own (s : State) (c : Copy) (g : Nat) (t : CTile) (ht : t = c.nextTile (s.reg .ep 0xD60002) s.ep.nextTile g) :
    s.takeTile c g false = t.todo.foldl (fun s k => s.needGranule (.tile t.id) c.slot c.job (k / 4) (k % 4))
      { s with ep := { s.ep with
          tiles := s.ep.tiles ++ [t]
          nextTile := s.ep.nextTile + 1
          copies := modFirst (fun x => x.id == c.id)
            (fun x => { x with issued := x.issued + t.len, open_ := x.open_ + 1 }) s.ep.copies } } := by
  subst ht
  rfl

/-- R113: an engine that may steal does so from a tile left behind, then from the copy with the most unissued bytes. -/
theorem steal_free {s : State} {g : Nat} (hg : g < 32) (hm : s.ep.sh.mode = 0) (hr : s.reg .ep 0xD60003 = 1)
    (h : s.readyTile g = none) (hb : s.engineBusy g = false) (ho : s.ep.enginesOut.contains g = false) :
    s.steal g = match s.strayTile, s.stealFrom with
      | some t, _ => s.adoptTile t g
      | none, some c => (s.takeTile c g true).moveReady g
      | none, none => s := by
  unfold State.steal
  refine (if_neg ?_).trans rfl
  rw [hm, hr, h, hb, ho]
  simp [Nat.not_le.mpr hg]

theorem steal_off {s : State} {g : Nat} (h : s.ep.sh.mode = 1 ∨ s.reg .ep 0xD60003 ≠ 1 ∨ s.engineBusy g = true) : s.steal g = s := by
  unfold State.steal
  refine if_pos ?_
  rcases h with h | h | h
  · exact .inr (.inl h)
  · exact .inr (.inr (.inl h))
  · exact .inr (.inr (.inr (.inr (.inl h))))

theorem tileComplete_on {s : State} {t : Nat} {x : CTile} (hx : s.ep.tiles.find? (fun x => x.id == t) = some x) :
    s.tileComplete t = if x.parts = 0 ∧ (x.state = 3 ∨ x.state = 4) then s.tileEnd x else s := by
  unfold State.tileComplete
  rw [hx]

/-- R111: what the end of a tile does to its copy, once the tile is gone from the table and the copy counts it. -/
def State.copyOn (u : State) (c d : Copy) : State :=
  if d.open_ ≠ 0 then u
  else if d.worst ≠ 0 then u.copyEnd c.id d.worst
  else if d.issued < d.len then (if u.slotRevoked c.slot c.job then u.copyEnd c.id cTorn else u)
  else if d.notify && !u.slotRevoked c.slot c.job then u.sendNotify d
  else u.copyEnd c.id cDone

theorem tileEnd_copyOn {s : State} {x : CTile} {c d : Copy} (hc : s.ep.copies.find? (fun c => c.id == x.copy) = some c)
    (hd : d = { c with open_ := c.open_ - 1, worst := worse c.worst x.worst }) :
    s.tileEnd x = State.copyOn { s with ep := { s.ep with
        tiles := delFirst (fun y => y.id == x.id) s.ep.tiles,
        copies := modFirst (fun y => y.id == c.id) (fun _ => d) s.ep.copies } } c d := by
  unfold State.tileEnd
  dsimp only [State.modEp]
  rw [hc, hd]
  rfl

/-- Settles O52: each command comes down to the one function of the engines that it runs. -/
theorem enginesMoveTiles : Obligations.EnginesMoveTiles := by
  refine ⟨?take, ?waits, ?reads, ?moves, ?off, ?steals, ?adopts, ?open_, ?ends⟩
  case take =>
    intro s g c hr hb ho hc
    obtain ⟨t, ht⟩ : ∃ t, t = c.nextTile (s.reg .ep 0xD60002) s.ep.nextTile g := ⟨_, rfl⟩
    have hexec : exec (.copyTileIssue g) s = .next ((s.takeTile c g false).moveReady g) :=
      next_congr (engineIssue_take hr hb ho hc)
    rw [takeTile_own s c g t ht] at hexec
    refine ⟨t, ?_, ?_, ?_, ?_, ?_, ?_, ?_, ?_, hexec⟩ <;> rw [ht] <;> rfl
  case waits => exact fun s g hr hb => next_congr (engineIssue_waits hr hb)
  case reads =>
    intro s g t c hr hc hm hd
    exact next_congr ((engineIssue_ready hr).trans ((if_neg (by rw [hm]; exact Bool.false_ne_true)).trans (moveTile_reads hc hd)))
  case moves => exact fun s g t hr hm => next_congr ((engineIssue_ready hr).trans (if_pos hm))
  case off => exact fun s g h => next_congr (steal_off h)
  case steals =>
    intro s g c pre post hg hm hr h hb ho hstray hcopies hpin hgives hrev hpre hpost
    have hfrom : s.stealFrom = some c := by
      unfold State.stealFrom
      rw [hcopies]
      exact stealBetter_best hpin hgives hrev hpre hpost
    refine next_congr ((steal_free hg hm hr h hb ho).trans ?_)
    rw [hstray, hfrom]
  case adopts =>
    intro s g t hg hm hr h hb ho hstray
    refine next_congr ((steal_free hg hm hr h hb ho).trans ?_)
    rw [hstray]
    rfl
  case open_ =>
    intro s t x hx hopen
    exact next_congr (congrArg State.epOn ((tileComplete_on hx).trans (if_neg (by omega))))
  case ends =>
    intro s t x c d hx hparts hstate hc hd
    obtain ⟨u, hu⟩ : ∃ u : State, u = { s with ep := { s.ep with
        tiles := delFirst (fun y => y.id == x.id) s.ep.tiles
        copies := modFirst (fun y => y.id == c.id) (fun _ => d) s.ep.copies } } := ⟨_, rfl⟩
    have hexec : exec (.copyTileComplete t) s = .next (u.copyOn c d).epOn := by
      refine next_congr (congrArg State.epOn ((tileComplete_on hx).trans ((if_pos ⟨hparts, hstate⟩).trans ?_)))
      rw [tileEnd_copyOn hc hd, hu]
    have hrev : u.slotRevoked c.slot c.job = s.slotRevoked c.slot c.job := by rw [hu]; rfl
    have hlen : d.len = c.len ∧ d.issued = c.issued ∧ d.notify = c.notify := by rw [hd]; exact ⟨rfl, rfl, rfl⟩
    obtain ⟨hdlen, hdissued, hdnotify⟩ := hlen
    rw [hexec]
    unfold State.copyOn
    rw [hrev, hdlen, hdissued, hdnotify]
    refine ⟨u, hu, fun ho => ?_, fun ho hw => ?_, fun ho hw hi hr => ?_, fun ho hw hi hn => ?_, fun ho hw hi hn hr => ?_⟩
    · rw [if_pos ho]
    · rw [if_neg (not_not.mpr ho), if_pos hw]
    · rw [if_neg (not_not.mpr ho), if_neg (not_not.mpr hw), if_pos hi, if_neg (by simp [hr])]
    · rw [if_neg (not_not.mpr ho), if_neg (not_not.mpr hw), if_neg (Nat.not_lt.mpr hi), if_neg (by simp [hn])]
    · rw [if_neg (not_not.mpr ho), if_neg (not_not.mpr hw), if_neg (Nat.not_lt.mpr hi), if_pos (by simp [hn, hr])]

end Sys2Proof.Machine
end

section
/-! PROOFS. The states of the Commons regions (R179, R180, R182, R191, R200). -/

namespace Sys2Proof.Machine

/-- A Directory write that its entry's function answers at once. -/
theorem write_answer {s : State} {p : Part} {a : Access} {key : Nat} {val : List Byte} {c : Nat} {t : State}
    (hd : dirCheck p a key true s = 0) (h : s.dirApply p a key val DirAux.none_ = (c, t)) :
    (.next (s.writeNamed p a key val) : Answer) = .next (t.emit (.dir p a.ctx c [])) :=
  next_congr (writeNamed_eq hd h)

theorem region_setRegion_same (s : State) (i : Nat) (r : Region) : (s.setRegion i r).region i = r := by
  rw [region_setRegion, if_pos rfl]

theorem region_setRegion_other {s : State} {i j : Nat} (r : Region) (h : j ≠ i) : (s.setRegion i r).region j = s.region j := by
  rw [region_setRegion, if_neg h]

theorem spillWrite_free {s : State} {val : List Byte} (hl : val.length = 2) (hok : spillOk (beNat val) = true)
    (h : ∀ x ∈ s.mod.regions, x.2.state = 0) : s.spillWrite val = (stOk, s.setReg .mod 0x700002 (beNat val)) := by
  unfold State.spillWrite
  rw [if_neg (by simp [hl, hok]), if_neg]
  simpa using h

theorem spillWrite_busy {s : State} {val : List Byte} (hl : val.length = 2) (hok : spillOk (beNat val) = true)
    (h : ∃ x ∈ s.mod.regions, x.2.state ≠ 0) : s.spillWrite val = (stBusy, s) := by
  unfold State.spillWrite
  rw [if_neg (by simp [hl, hok]), if_pos]
  simpa using h

/-- R182: a descriptor write with V set takes a Free region only. -/
theorem regionWrite_set {s : State} {i : Nat} {val : List Byte} (hl : val.length = 16) (hv : (regionOf (beNat val)).1.v = true) :
    s.regionWrite i val =
      if (s.region i).state ≠ 0 then (stBusy, s)
      else if s.regionBad i (regionOf (beNat val)).1 (regionOf (beNat val)).2 then (stRange, s)
      else (stOk, (s.modMod fun m => { m with serial := s.mod.serial + 1 }).setRegion i
        { (regionOf (beNat val)).1 with
          state := 1
          serial := s.mod.serial
          key := some (s.keyFor i (regionOf (beNat val)).1 s.mod.serial) }) := by
  unfold State.regionWrite
  dsimp only
  rw [if_neg (by simp [hl]), if_pos hv]

theorem handover_eq {s : State} {i : Nat} {val : List Byte} (hl : val.length = 2) (h1 : 1 ≤ beNat val) (h2 : beNat val ≤ 0xFFFE) :
    s.handover i val =
      if (s.region i).state ≠ 4 then (stBusy, s)
      else if !s.hasSlice (beNat val) then (stRange, s)
      else (stOk, s.setRegion i { s.region i with owner := beNat val, state := 2 }) :=
  if_neg (by omega)

theorem retentionEnd_early {s : State} {i : Nat}
    (h : (s.region i).state ≠ 4 ∨ s.ns < (s.region i).retainedAt + 1000000000 * s.regNow .mod 0x760007) : s.retentionEnd i = s :=
  if_neg (by rintro ⟨h4, hle⟩; omega)

/-- R182: what a region keeps when it becomes Ready or Retained. -/
theorem regionEnter_ready {s : State} {i : Nat} {r : Region} (hr : s.region i = r) {st : Nat} (b : Bool) (hst : st = if b then 4 else 2) :
    (s.regionEnter i st).region i =
      { r with state := st, next := none, torn := false, retainedAt := if b then s.ns else r.retainedAt } := by
  unfold State.regionEnter
  rw [region_setRegion_same, hr, hst]
  cases b <;> rfl

theorem regionEnter_other {s : State} {i j st : Nat} (h : j ≠ i) : (s.regionEnter i st).region j = s.region j :=
  region_setRegion_other _ h

theorem regionInitDone_waits {s : State} {i : Nat}
    (h : (s.region i).state ≠ 1 ∨ ((s.region i).torn = true ∧ (s.region i).retain = false)) : s.regionInitDone i = s := by
  unfold State.regionInitDone
  refine if_pos (h.imp_right fun ⟨ht, hn⟩ => .inr ⟨ht, ?_⟩)
  rw [hn]
  exact Bool.false_ne_true

/-- R182: a region initialised is the one that it was, Ready or Retained, over memory that holds zeros and its header. -/
theorem regionInitDone_region {s : State} {i : Nat} {r : Region} (hr : s.region i = r) (h1 : r.state = 1) (hin : s.mod.inSlot = false)
    (ht : r.torn = true → r.retain = true) :
    (s.regionInitDone i).region i = { r with
      state := if r.torn then 4 else 2
      next := none
      torn := false
      retainedAt := if r.torn then s.ns else r.retainedAt
      alloc := if r.kind = 1 then some (newAlloc r) else none } ∧
    (∀ j, j ≠ i → (s.regionInitDone i).region j = s.region j) ∧
    (s.regionInitDone i).ep = s.ep ∧ (s.regionInitDone i).out = s.out ∧
    (s.regionInitDone i).mod.mem = (if r.kind = 3 then
      memWrite (s.commonsZero r.first r.bytes).mod.mem r.first (ringHeader 0 ((r.bytes - 4096) / 64) 0)
      else (s.commonsZero r.first r.bytes).mod.mem) := by
  have hboth : (r.torn && r.retain) = r.torn := by
    cases hx : r.torn with
    | true => rw [ht hx, Bool.and_self]
    | false => rfl
  obtain ⟨w, heq, hw⟩ := regionInitDone_eq hr h1 hin ht
  rw [hboth] at heq
  have hkeep : (∀ j, w.region j = s.region j) ∧ w.ep = s.ep ∧ w.out = s.out ∧ w.ns = s.ns ∧
      w.mod.mem = (if r.kind = 3 then
        memWrite (s.commonsZero r.first r.bytes).mod.mem r.first (ringHeader 0 ((r.bytes - 4096) / 64) 0)
        else (s.commonsZero r.first r.bytes).mod.mem) := by
    rw [hw]
    generalize ringHeader 0 ((r.bytes - 4096) / 64) 0 = d
    by_cases hk : r.kind = 3
    · rw [if_pos hk, if_pos hk]
      obtain ⟨hwep, hwout, hwns⟩ := commonsWrite_keeps (s.commonsZero r.first r.bytes) r.first d
      exact ⟨region_commonsWrite _ _ _, hwep, hwout, hwns, mem_commonsWrite _ _ _⟩
    · rw [if_neg hk, if_neg hk]
      exact ⟨fun _ => rfl, rfl, rfl, rfl, rfl⟩
  obtain ⟨hreg, hep, hout, hns, hmem⟩ := hkeep
  rw [heq]
  refine ⟨?_, fun j hj => ?_, hep, hout, hmem⟩
  · rw [regionEnter_ready (region_setRegion_same _ _ _) r.torn rfl]
    exact congrArg (fun n => { r with
      state := if r.torn then 4 else 2
      next := none
      torn := false
      retainedAt := if r.torn then n else r.retainedAt
      alloc := if r.kind = 1 then some (newAlloc r) else none }) hns
  · rw [regionEnter_other hj, region_setRegion_other _ hj, hreg]

theorem regionScrubDone_eq {s : State} {i : Nat} {r : Region} (hr : s.region i = r) (h3 : r.state = 3) (hin : s.mod.inSlot = false) :
    s.regionScrubDone i = (s.commonsZero r.first r.bytes).setRegion i Region.free := by
  unfold State.regionScrubDone
  dsimp only
  rw [hr, if_neg (by simp [h3, hin])]

/-- Settles O54: each command is a write of one region's descriptor, or its step to the next state. -/
theorem regionsRunTheirStates : Obligations.RegionsRunTheirStates := by
  refine ⟨?spill, ?set, ?clear, ?torn, ?init, ?scrub, ?others, ?handover, ?stale⟩
  case spill =>
    intro s a val hd hl hok
    have hv := dirApply_spillReserve (s := s) (a := a) (x := .none_) ⟨hl, spillOk_range hok⟩
    exact ⟨fun h => write_answer hd (hv.trans (spillWrite_free hl hok h)), fun h => write_answer hd (hv.trans (spillWrite_busy hl hok h))⟩
  case set =>
    rintro s a val _ _ hd hl rfl rfl hv
    have hw := (dirApply_regionDescriptor (s := s) (a := a) (x := .none_) hl).trans (regionWrite_set hl hv)
    refine ⟨fun h0 hb => ?_, fun h0 hb => ?_, fun h0 => ?_⟩
    · exact ⟨_, write_answer hd (hw.trans ((if_neg (not_not.mpr h0)).trans (if_neg (by simp [hb])))), rfl⟩
    · exact write_answer hd (hw.trans ((if_neg (not_not.mpr h0)).trans (if_pos hb)))
    · exact write_answer hd (hw.trans (if_pos h0))
  case clear =>
    rintro s a val _ _ hd hl rfl rfl hv h2
    have hw := dirApply_regionDescriptor (s := s) (a := a) (x := .none_) hl
    obtain ⟨hok, hbusy⟩ := regionWrite_clear s (s.sel .mod a.ctx 0x701001) val hl hv h2
    exact ⟨fun h => write_answer hd (hw.trans (hok h)), fun h => write_answer hd (hw.trans (hbusy h))⟩
  case torn =>
    rintro s i _ rfl h1 hin ht hr
    exact next_congr (regionInitDone_waits (.inr ⟨ht, hr⟩))
  case init =>
    intro s i r hr h1 hin ht
    obtain ⟨hself, hother, hep, hout, hmem⟩ := regionInitDone_region hr h1 hin ht
    obtain ⟨hzero, hhead, hout'⟩ := regionInit_contents (ringHeader_length 0 ((r.bytes - 4096) / 64) 0) rfl hmem
      (commonsZero_at s r.first r.bytes)
    exact ⟨_, rfl, hself, hother, hzero, hhead, hout', hep, hout⟩
  case scrub =>
    intro s i r hr h3 hin
    obtain ⟨u, hu⟩ : ∃ u, u = (s.commonsZero r.first r.bytes).setRegion i Region.free := ⟨_, rfl⟩
    have hself : u.region i = Region.free := by rw [hu, region_setRegion_same]
    have hother : ∀ j, j ≠ i → u.region j = s.region j := fun j hj => by rw [hu, region_setRegion_other _ hj]; rfl
    have hmem : u.mod.mem = (s.commonsZero r.first r.bytes).mod.mem := by rw [hu]; rfl
    have hkeep : u.mod.sh.keys = s.mod.sh.keys ∧ u.epochOf .mod = s.epochOf .mod ∧ u.ep = s.ep ∧ u.out = s.out := by
      rw [hu]
      exact ⟨rfl, rfl, rfl, rfl⟩
    obtain ⟨hkeys, hepoch, hep, hout⟩ := hkeep
    refine ⟨u.noteScrubbed .mod, next_congr (congrArg (fun t : State => t.noteScrubbed .mod) ((regionScrubDone_eq hr h3 hin).trans hu.symm)),
      hself, hother, fun x hlo hhi => ?_, fun x hx => ?_, ?_, hep, hout⟩
    rotate_right
    · rw [← hkeys, ← hepoch]
      rfl
    all_goals show tabGetD u.mod.mem x 0#8 = _; rw [hmem]
    · exact (commonsZero_at s r.first r.bytes x).trans (if_pos ⟨hlo, hhi⟩)
    · exact (commonsZero_at s r.first r.bytes x).trans (if_neg (by omega))
  case others =>
    intro s i
    refine ⟨fun h => next_congr (regionInitDone_waits (.inl h)), fun h => next_congr (congrArg (fun t : State => t.noteScrubbed .mod) (if_pos (.inl h))),
      fun h => next_congr (retentionEnd_early (.inl h)), fun h => next_congr (retentionEnd_early (.inr h)),
      fun h4 hle => next_congr (if_pos ⟨h4, hle⟩)⟩
  case handover =>
    rintro s a val _ hd hl hlo hhi rfl
    have hw := (dirApply_handover (s := s) (a := a) (x := .none_) ⟨hl, hlo, hhi⟩).trans (handover_eq hl hlo hhi)
    refine ⟨fun h4 => write_answer hd (hw.trans (if_pos h4)), fun h4 hs => write_answer hd (hw.trans ((if_neg (not_not.mpr h4)).trans (if_pos ?_))),
      fun h4 hs => write_answer hd (hw.trans ((if_neg (not_not.mpr h4)).trans (if_neg ?_)))⟩
    · rw [hs]; rfl
    · simp [hs]
  case stale =>
    rintro s a _ hd rfl
    have hw := dirApply_clearStale (s := s) (a := a) (val := [1#8]) (x := .none_) (by decide)
    have hone : ¬ (([1#8] : List Byte).length ≠ 1 ∨ beNat [1#8] ≠ 1) := by decide
    exact ⟨fun h5 => write_answer hd (hw.trans ((if_neg hone).trans (if_neg (not_not.mpr h5)))),
      fun h5 => write_answer hd (hw.trans ((if_neg hone).trans (if_pos h5)))⟩

end Sys2Proof.Machine
end

section
/-! PROOFS. Host accesses to the Commons over RoCEv2 (R191, R201, R202, R260 to R262, R338). -/

namespace Sys2Proof.Machine

theorem commonsRead_congr {s u : State} {a n : Nat} (h : ∀ x, a ≤ x → x < a + n → tabGetD u.mod.mem x 0#8 = tabGetD s.mod.mem x 0#8) :
    u.commonsRead a n = s.commonsRead a n := by
  unfold State.commonsRead
  refine List.map_congr_left fun i hi => ?_
  have hlt := List.mem_range.mp hi
  exact h _ (by omega) (by omega)

/-- What a CNP leaves as it was: everything that a host access reads. -/
structure CnpOnly (s w : State) : Prop where
  fenced : w.mod.ve.fenced = s.mod.ve.fenced
  qp : ∀ n, w.qp n = s.qp n
  job : ∀ j, w.jobState .mod j = s.jobState .mod j
  sh : w.mod.sh = s.mod.sh
  bytes : w.usableBytes = s.usableBytes
  meta_ : ∀ l, w.metaAt l = s.metaAt l
  stale : ∀ l, w.staleAt l = s.staleAt l
  good : ∀ l n, s.linesGood l n → w.linesGood l n
  mem : w.mod.mem = s.mod.mem
  read : ∀ l n, w.commonsRead l n = s.commonsRead l n
  staging : w.mod.staging = s.mod.staging
  regions : w.mod.regions = s.mod.regions
  ep : w.ep = s.ep

theorem congestion_only {s w : State} {n : Nat} {ce : Bool} (hw : w = s.congestion n ce) : CnpOnly s w where
  fenced := congestion_keep (·.mod.ve.fenced) hw fun _ _ => rfl
  qp m := congestion_keep (·.qp m) hw fun _ _ => rfl
  job j := congestion_keep (·.jobState .mod j) hw fun _ _ => rfl
  sh := congestion_keep (·.mod.sh) hw fun _ _ => rfl
  bytes := congestion_keep (·.usableBytes) hw fun _ _ => rfl
  meta_ l := congestion_keep (·.metaAt l) hw fun _ _ => rfl
  stale l := congestion_keep (·.staleAt l) hw fun _ _ => rfl
  good l m h := (congestion_keep (·.linesGood l m) hw fun _ _ => rfl).mpr h
  mem := congestion_keep (·.mod.mem) hw fun _ _ => rfl
  read l m := congestion_keep (·.commonsRead l m) hw fun _ _ => rfl
  staging := congestion_keep (·.mod.staging) hw fun _ _ => rfl
  regions := congestion_keep (·.mod.regions) hw fun _ _ => rfl
  ep := congestion_keep (·.ep) hw fun _ _ => rfl

section
variable {s w : State} {n rk va len err x y : Nat} {d : List Byte} {m : PMsg} {ce : Bool}

theorem exec_rdmaRead (hw : w = s.congestion n ce) : exec (.rdmaRead n rk va len err ce) s = w.roceRead n rk va len err := hw ▸ rfl

theorem exec_rdmaWrite (hw : w = s.congestion n ce) : exec (.rdmaWrite n rk va d err ce) s = w.roceWrite n rk va d err := hw ▸ rfl

theorem exec_fetchAndAdd (hw : w = s.congestion n ce) : exec (.atomicFetchAndAdd n rk va x err ce) s =
    w.roceAtomic n rk va err fun old => atomAdd 3 old (leBytes 8 x) := hw ▸ rfl

theorem exec_compareAndSwap (hw : w = s.congestion n ce) : exec (.atomicCompareAndSwap n rk va x y err ce) s =
    w.roceAtomic n rk va err fun old => atomCas 9 old (leBytes 8 x ++ leBytes 8 y) := hw ▸ rfl

theorem exec_send (hw : w = s.congestion n ce) : exec (.send n m ce) s = .next (w.roceSend n m) := hw ▸ rfl

/-! ### What a queue pair does not take -/

theorem roceRead_fenced (h : w.mod.ve.fenced = true) (hu : (w.qp n).use = 1) : w.roceRead n rk va len err = .next w := if_pos ⟨h, hu⟩

theorem roceWrite_fenced (h : w.mod.ve.fenced = true) (hu : (w.qp n).use = 1) : w.roceWrite n rk va d err = .next w := if_pos ⟨h, hu⟩

theorem roceAtomic_fenced {f : Nat → Nat} (h : w.mod.ve.fenced = true) (hu : (w.qp n).use = 1) :
    w.roceAtomic n rk va err f = .next w := if_pos ⟨h, hu⟩

theorem roceRead_long (h : w.mod.ve.fenced = false) (hl : (w.qp n).use = 2 ∨ 2 ^ 30 < len) :
    w.roceRead n rk va len err = .next (w.emit (.roce n 4 [])) :=
  (if_neg (by simp [h])).trans (if_pos hl)

theorem roceWrite_long (h : w.mod.ve.fenced = false) (hl : 2 ^ 30 < d.length) :
    w.roceWrite n rk va d err = .next (w.emit (.roce n 4 [])) :=
  (if_neg (by simp [h])).trans (if_pos hl)

theorem roceRead_unbound (h : w.mod.ve.fenced = false) (hl : len ≤ 2 ^ 30) (hu : (w.qp n).use ≠ 2) (ht : (w.qp n).takes 1 rk va = false) :
    w.roceRead n rk va len err = .next (w.emit (.roce n 1 [])) := by
  refine (if_neg (by simp [h])).trans ((if_neg (not_or.mpr ⟨hu, Nat.not_lt.mpr hl⟩)).trans (if_pos ?_))
  rw [ht]
  rfl

theorem roceWrite_unbound (h : w.mod.ve.fenced = false) (hl : d.length ≤ 2 ^ 30) (hu : (w.qp n).use ≠ 2)
    (ht : (w.qp n).takes 1 rk va = false) : w.roceWrite n rk va d err = .next (w.emit (.roce n 1 [])) := by
  refine (if_neg (by simp [h])).trans ((if_neg (Nat.not_lt.mpr hl)).trans ((if_neg fun hx => hu hx.1).trans (if_pos ?_)))
  rw [ht]
  rfl

/-- R338: a directory queue pair writes the staging area. -/
theorem roceWrite_staging (ht : (w.qp n).takes 2 rk va = true) (hl : d.length ≤ 2 ^ 30) :
    w.roceWrite n rk va d err = if va + d.length ≤ 2 ^ 28 then
      .next (({ w with mod := { w.mod with staging := memWrite w.mod.staging va d } } : State).emit (.roce n 0 []))
      else .next (w.emit (.roce n 1 [])) := by
  obtain ⟨huse, -⟩ := takes_fields ht
  exact (if_neg (by rw [huse]; simp)).trans ((if_neg (Nat.not_lt.mpr hl)).trans (if_pos ⟨huse, ht⟩))

/-! ### Admitted accesses -/

theorem hostRead_data {loc : Nat} (hin : loc + len ≤ w.usableBytes) (hm : w.metaAt loc = false) :
    (w.staleAt loc = true → w.hostRead n va loc len 0 = .next (w.emit (.roce n 2 []))) ∧
    (w.staleAt loc = false → w.linesGood loc len → w.hostRead n va loc len 0 = .next (w.emit (.roce n 0 (w.commonsRead loc len)))) := by
  have hstart : ∀ {b c : Answer}, (if w.usableBytes < loc + len then b else if w.metaAt loc then c else
      if w.staleAt loc then .next (w.roceCode n cPoison []) else
        .next (if (w.readCheck (linesOf loc len) 0).2 then
          (w.readCheck (linesOf loc len) 0).1.roceCode n cDone ((w.readCheck (linesOf loc len) 0).1.commonsRead loc len)
          else (w.readCheck (linesOf loc len) 0).1.roceCode n cPoison [])) = (if w.staleAt loc then .next (w.roceCode n cPoison []) else
        .next (if (w.readCheck (linesOf loc len) 0).2 then
          (w.readCheck (linesOf loc len) 0).1.roceCode n cDone ((w.readCheck (linesOf loc len) 0).1.commonsRead loc len)
          else (w.readCheck (linesOf loc len) 0).1.roceCode n cPoison [])) := fun {b c} =>
    (if_neg (Nat.not_lt.mpr hin)).trans (if_neg (by simp [hm]))
  refine ⟨fun hs => hstart.trans (if_pos hs), fun hs hg => hstart.trans ((if_neg (by simp [hs])).trans ?_)⟩
  rw [readCheck_good hg]
  rfl

/-- A host write that was admitted, to memory that is no metadata page and whose lines are good. -/
theorem roceWrite_stores {loc : Nat} {e : AdmEntry} (h : w.mod.ve.fenced = false) (hl : d.length ≤ 2 ^ 30) (ht : (w.qp n).takes 1 rk va = true)
    (hj : w.jobState .mod (w.qp n).job = 0) (he : admFind w.mod.sh.adm (w.qp n).job va d.length = some e) (hr : e.w = true)
    (hloc : loc = e.localBase * 65536 + (va - e.offBase * 65536)) (hin : loc + d.length ≤ w.usableBytes) :
    (w.metaAt loc = true → w.roceWrite n rk va d 0 = .next ((w.deny .mod (w.qp n).job 0 va 0x02 1).emit (.roce n 1 []))) ∧
    (w.metaAt loc = false → w.linesGood loc d.length → ∃ u : State, w.roceWrite n rk va d 0 = .next (u.emit (.roce n 0 [])) ∧
      u.mod.mem = memWrite w.mod.mem loc d ∧ u.mod.regions = w.mod.regions ∧ u.mod.sh = w.mod.sh ∧ u.ep = w.ep ∧ u.out = w.out) := by
  have had : w.hostAdmit (w.qp n).job va d.length 1 0x02 = (w, .inl loc) := hloc ▸ hostAdmit_ok (w := 1) hj he hr
  have hok := (roceWrite_ok (err := 0) h hl ht had).trans (if_neg (Nat.not_lt.mpr hin))
  refine ⟨fun hm => hok.trans (if_pos hm), fun hm hg => ?_⟩
  obtain ⟨b, hb⟩ := checkedWrite_good hg
  refine ⟨(w.modMod fun m => { m with bad := b }).commonsWrite loc d, hok.trans ((if_neg (by simp [hm])).trans ?_), rfl, rfl, rfl, rfl, rfl⟩
  rw [hb]
  rfl

end

/-- R261: which value an atomic of a queue pair leaves. -/
theorem host_atomic_value {s w : State} {n rk va x y old new : Nat} {c : Instr} {ce : Bool} (hw : w = s.congestion n ce)
    (hx : x < 2 ^ 64) (hy : y < 2 ^ 64)
    (hc : c = .atomicFetchAndAdd n rk va x 0 ce ∧ new = (old + x) % 2 ^ 64 ∨
      c = .atomicCompareAndSwap n rk va x y 0 ce ∧ new = if old = x then y else old) :
    ∃ f : Nat → Nat, exec c s = w.roceAtomic n rk va 0 f ∧ f old = new := by
  obtain ⟨rfl, rfl⟩ | ⟨rfl, rfl⟩ := hc
  · refine ⟨_, exec_fetchAndAdd hw, ?_⟩
    show (old + leNat (leBytes 8 x)) % 2 ^ 64 = _
    rw [leNat_leBytes_of_lt hx]
  · refine ⟨_, exec_compareAndSwap hw, ?_⟩
    exact (atomCas_leBytes (fmt := 9) old hx hy).trans (if_congr eq_comm rfl rfl)

/-- Settles O56: a host access sees the state through the CNP, which leaves all that the access reads. -/
theorem hostAccessesReachCommons : Obligations.HostAccessesReachCommons := by
  refine ⟨?cnp, ?unbound, ?invalid, ?staging, ?denied, ?reads, ?writes, ?atomics, ?sends, ?hosts, ?memory⟩
  case cnp =>
    intro s n
    refine ⟨rfl, fun hq => if_neg (by simp [hq]), fun hq hdue => if_pos ?_, fun t ht hlt => if_neg ?_⟩
    · cases ht : tabGet s.mod.cnps n with
      | none => simp [hq]
      | some t => simpa [hq] using hdue t ht
    · rw [ht]
      simp [Nat.not_le.mpr hlt]
  case unbound =>
    intro s w n rkey va len err data ce hw
    have k := congestion_only hw
    rw [← k.fenced, ← k.qp]
    refine ⟨fun hf hu => ⟨?_, ?_, ?_, ?_⟩, fun hf hu ht => ⟨fun hl => ?_, fun hl => ?_⟩⟩
    · exact (exec_rdmaRead hw).trans (roceRead_fenced hf hu)
    · exact (exec_rdmaWrite hw).trans (roceWrite_fenced hf hu)
    · exact (exec_fetchAndAdd hw).trans (roceAtomic_fenced hf hu)
    · exact (exec_compareAndSwap hw).trans (roceAtomic_fenced hf hu)
    · exact (exec_rdmaRead hw).trans (roceRead_unbound hf hl hu ht)
    · exact (exec_rdmaWrite hw).trans (roceWrite_unbound hf hl hu ht)
  case invalid =>
    intro s w n rkey va x y err data ce hw
    have k := congestion_only hw
    rw [← k.fenced, ← k.qp]
    refine fun hf => ⟨fun h => ⟨?_, ?_⟩, fun h => ?_, fun h => ?_⟩
    · exact (exec_fetchAndAdd hw).trans (roceAtomic_bad hf h)
    · exact (exec_compareAndSwap hw).trans (roceAtomic_bad hf h)
    · exact (exec_rdmaRead hw).trans (roceRead_long hf h)
    · exact (exec_rdmaWrite hw).trans (roceWrite_long hf h)
  case staging =>
    intro s w n rkey va data err ce hw
    have k := congestion_only hw
    rw [← k.qp, ← k.staging]
    intro ht hl
    have h := (exec_rdmaWrite (err := err) hw).trans (roceWrite_staging ht hl)
    exact ⟨fun hin => h.trans (if_pos hin), fun hout => h.trans (if_neg (Nat.not_le.mpr hout))⟩
  case denied =>
    intro s w n rkey va len err data ce hw
    have k := congestion_only hw
    rw [← k.fenced, ← k.qp, ← k.job, ← k.sh]
    refine fun hf ht hl hd => ⟨fun hj => ⟨?_, ?_⟩, fun hj he => ?_, fun e hj he hr => ?_⟩
    · exact (exec_rdmaRead hw).trans (roceRead_code hf hl ht (hostAdmit_removed hj))
    · exact (exec_rdmaWrite hw).trans (roceWrite_code hf hd ht (hostAdmit_removed hj))
    · exact (exec_rdmaRead hw).trans (roceRead_code hf hl ht (hostAdmit_none hj he))
    · exact (exec_rdmaWrite hw).trans (roceWrite_code hf hd ht (hostAdmit_right hj he hr))
  case reads =>
    intro s w n rkey va len loc e ce hw
    have k := congestion_only hw
    rw [← k.fenced, ← k.qp, ← k.job, ← k.sh, ← k.bytes, ← k.meta_, ← k.stale, ← k.read]
    intro hf ht hl hj he hr hloc hin hm
    have h := (exec_rdmaRead (err := 0) hw).trans (roceRead_ok hf hl ht (hostAdmit_ok (w := 0) hj he hr))
    rw [show e.local_ va = loc from hloc.symm] at h
    obtain ⟨hstale, hgood⟩ := hostRead_data (n := n) (va := va) hin hm
    exact ⟨fun hs => h.trans (hstale hs), fun hs hg => h.trans (hgood hs (k.good _ _ hg))⟩
  case writes =>
    intro s w n rkey va loc data e ce hw
    have k := congestion_only hw
    rw [← k.fenced, ← k.qp, ← k.job, ← k.bytes, ← k.meta_, ← k.mem, ← k.regions, ← k.ep, ← k.sh]
    intro hf ht hl hj he hr hloc hin
    obtain ⟨hmeta, hgood⟩ := roceWrite_stores hf hl ht hj he hr hloc hin
    refine ⟨fun hm => (exec_rdmaWrite hw).trans (hmeta hm), fun hm hg => ?_⟩
    obtain ⟨u, hu, hmem, hregions, hsh, hep, hout⟩ := hgood hm (k.good _ _ hg)
    exact ⟨u, (exec_rdmaWrite hw).trans hu, hmem, fun x hx => by rw [hmem, memWrite_other _ hx], hregions, hsh, hep, hout⟩
  case atomics =>
    intro s w n rkey va loc x y old new c e ce hw
    have k := congestion_only hw
    rw [← k.fenced, ← k.qp, ← k.job, ← k.bytes, ← k.meta_, ← k.stale, ← k.mem, ← k.regions, ← k.ep, ← k.read, ← k.sh]
    intro hf ht h8 hcap hj he hr hloc hin hm hs hg hal hold hx hy hc
    obtain ⟨f, hexec, hf'⟩ := host_atomic_value (old := old) hw hx hy hc
    obtain ⟨u, hu, hmem, hregions, hsh, hep, hout⟩ :=
      roceAtomic_ok (f := f) hf ht h8 hcap hj he hr hloc hin hm hs (k.good _ _ hg) hal
    rw [← hold, hf'] at hmem
    rw [← hold] at hu
    refine ⟨u, hexec.trans hu, hmem, fun z hz => ?_, hregions, hsh, hep, hout⟩
    rw [hmem, memWrite_other _ (by rw [leBytes_length]; exact hz)]
  case sends =>
    intro s w n m ce hw
    have k := congestion_only hw
    rw [← k.qp]
    have h := exec_send (m := m) hw
    refine ⟨fun hst => h.trans (next_congr ((if_neg fun hx => hst hx.1).trans (if_neg fun hx => hst hx.1))),
      fun hst hu => h.trans (next_congr ((if_neg fun hx => ?_).trans (if_pos ⟨hst, hu⟩))), fun hst hu => h.trans (next_congr (if_pos ⟨hst, hu⟩))⟩
    rw [hu] at hx
    exact absurd hx.2 (by decide)
  case hosts =>
    intro s port st kind own hp hk
    refine ⟨fun hst hc => next_congr (if_neg ?_), fun hst hc => next_congr (if_pos (.inr (.inr ⟨hst, hc⟩))),
      fun ho ht => next_congr ((if_neg (Nat.ne_of_lt hk)).trans (if_pos ⟨hp, hk, ho, ht⟩)),
      fun ht => next_congr ((if_neg (Nat.ne_of_lt hk)).trans (if_neg fun hx => ht hx.2.2.2)), rfl⟩
    rintro (h | h | ⟨h0, h2⟩)
    · omega
    · omega
    · exact hc.elim h0 fun hc => hc h2
  case memory =>
    intro s a data
    refine ⟨commonsRead_memWrite (mem_commonsWrite s a data) rfl, fun b n hb => commonsRead_congr fun x hlo hhi => ?_⟩
    rw [mem_commonsWrite, memWrite_other _ (by omega)]

end Sys2Proof.Machine
end

section
/-! PROOFS. Probes, contributions and Arrives of members (R153, R160 to R168, R219, R220, R227, R229). -/

namespace Sys2Proof.Machine

/-! ### A packet that no slice, group or member stands behind -/

section
variable {u : State} {k : Packet} {port : Nat} {g : Group} {f : State → Group → State}

theorem mcTake_removed (h : u.jobState .mod k.job = 1) : u.mcTake k port f = u.mcDeny k port 0 := by
  unfold State.mcTake
  rw [h]
  rfl

theorem mcTake_noGroup (h : u.jobState .mod k.job = 0) (hg : g = u.group k.group) (hv : g.v = false ∨ g.job ≠ k.job) :
    u.mcTake k port f = u.mcDeny k port 1 := by
  unfold State.mcTake
  rw [h]
  refine if_pos ?_
  rw [← hg]
  rcases hv with hv | hv <;> simp [hv]

theorem mcTake_noContext (h : CollectiveOf u k g)
    (hp : k.phase ≠ 6 ∧ (g.ctx k.cctx).op ≠ k.typ - 0x20 ∨ k.phase = 6 ∧ k.typ ≠ 0x20) : u.mcTake k port f = u.mcDeny k port 1 := by
  rw [mcTake_member h]
  refine if_pos ?_
  rcases hp with ⟨h1, h2⟩ | ⟨h1, h2⟩ <;> simp [h1, h2]

/-- The phase and the operation of a member's packet: a Probe of a reduction, or a contribution or Arrive of its context. -/
def MemberPhase (g : Group) (k : Packet) : Prop :=
  k.phase = 6 ∧ k.typ = 0x20 ∨ (k.phase = 0 ∨ k.phase = 4) ∧ (g.ctx k.cctx).op = k.typ - 0x20

theorem mcTake_phase (h : CollectiveOf u k g) (hp : MemberPhase g k) :
    u.mcTake k port f = (if k.srcRack ≠ u.rack .mod ∨ (g.rankOf k.srcRack k.src).isNone then u.mcDeny k port 2
      else if !u.phaseOk g (g.ctx k.cctx).op k.phase k.tree then u.mcDeny k port 5 else f u g) := by
  have hphase : k.phase = 0 ∨ k.phase = 4 ∨ k.phase = 6 := by
    obtain ⟨h6, -⟩ | ⟨h04, -⟩ := hp <;> omega
  have hop : ((k.phase != 6 && (g.ctx k.cctx).op != k.typ - 0x20) || (k.phase == 6 && k.typ != 0x20)) = false := by
    obtain ⟨h6, ht⟩ | ⟨h04, ho⟩ := hp
    · simp [h6, ht]
    · rcases h04 with h | h <;> simp [h, ho]
  rw [mcTake_member h, hop, if_neg Bool.false_ne_true, if_neg (by omega)]
  simp only [hphase, true_and]

end

/-! ### What a slot of the sequence finds -/

/-- What the opening of a slot leaves of the state that a packet came to. -/
structure OpenedFrom (s u : State) (k : Packet) (g : Group) : Prop where
  mown : ∀ c, u.mownNamed k.group g.job c k.cseq = none
  rack : u.rack .mod = s.rack .mod
  rackNs : u.rackNs .mod = s.rackNs .mod
  clock : u.clock = s.clock

theorem openedFrom {s u : State} {k : Packet} {port : Nat} {g : Group} (h : CollectiveOf s k g)
    (hu : u = (s.noted .mod k port).openSlot k.group k.cseq k.cctx) : OpenedFrom s u k g where
  mown c := by
    rw [hu, h.valid.2]
    exact (openSlot_keep (fun t => t.mownNamed k.group k.job c k.cseq) s k port _ _ _ (fun _ => rfl) fun _ _ _ _ _ => rfl).trans (h.mown c)
  rack := hu ▸ openSlot_keep (·.rack .mod) s k port _ _ _ (fun _ => rfl) fun _ _ _ _ _ => rfl
  rackNs := hu ▸ openSlot_keep (·.rackNs .mod) s k port _ _ _ (fun _ => rfl) fun _ _ _ _ _ => rfl
  clock := hu ▸ openSlot_keep (·.clock) s k port _ _ _ (fun _ => rfl) fun _ _ _ _ _ => rfl

section
variable {s u : State} {k : Packet} {g : Group} {x : SeqSlot} {sh : Shape} {rank port : Nat}

theorem slotBegun_noMown {c : Nat} (i : Nat) (h : u.mownNamed k.group g.job c k.cseq = none) :
    u.slotBegun k.group g c k.cseq sh i = false := by
  unfold State.slotBegun
  rw [h]

theorem slotBegun_free (h : OpenedFrom s u k g) (c i : Nat) : u.slotBegun k.group g c k.cseq sh i = false :=
  slotBegun_noMown i (h.mown c)

theorem mownWaits_free (h : OpenedFrom s u k g) (c : Nat) : u.mownWaits k.group g.job c k.cseq = false := by
  unfold State.mownWaits
  rw [h.mown]

/-- R167: does a contribution move on the Sward, to the home tile of its piece? -/
theorem moves_iff : (sh.op == 0 || sh.op == 4) = true ↔ sh.op = 0 ∨ sh.op = 4 := by simp

theorem sentHome_away (h : OpenedFrom s u k g) (hop : sh.op = 0 ∨ sh.op = 4) (hh : x.home k.group k.piece ≠ tileOfPort port) :
    u.sentHome k.group g x sh k port = true := by
  unfold State.sentHome
  rw [mownWaits_free h, moves_iff.mpr hop]
  simp [hh]

theorem sentHome_here (hl : (sh.op = 0 ∨ sh.op = 4) ∧ x.home k.group k.piece = tileOfPort port ∨ sh.op = 1 ∨ sh.op = 2) :
    u.sentHome k.group g x sh k port = false := by
  unfold State.sentHome
  rcases hl with ⟨-, hh⟩ | ho | ho
  · simp [hh]
  · simp [ho]
  · simp [ho]

/-! ### An exchange item -/

theorem forwardItem_noRank (h : g.table.length ≤ bits (beNat (k.payload.take 16)) 127 116) :
    u.forwardItem k.group g x k port = u.mcDeny k port 5 := if_pos h

theorem forwardItem_on (h : bits (beNat (k.payload.take 16)) 127 116 < g.table.length) :
    ∃ q : InProg, q.id = u.mod.sh.recv.nextId ∧ q.src = k.from_ ∧ q.pkt = k ∧ q.port = port ∧ q.result = none ∧
      u.forwardItem k.group g x k port =
        ((u.takeSize k.group k).modRecv .mod fun r => { r with inprog := r.inprog ++ [q], nextId := q.id + 1 }).toMember (.forward q.id)
          (g.table.getD (bits (beNat (k.payload.take 16)) 127 116) 0) (u.collPacket k.group g x 1 0 k.piece k.payload) := by
  obtain ⟨q, hq⟩ : ∃ q : InProg, q = ⟨u.mod.sh.recv.nextId, k.from_, k, 0, 0, port, none, u.ns, 0, 0⟩ := ⟨_, rfl⟩
  refine ⟨q, by rw [hq], by rw [hq], by rw [hq], by rw [hq], by rw [hq], ?_⟩
  rw [hq]
  exact if_neg (Nat.not_le.mpr h)

/-! ### A contribution on its way to the home tile -/

theorem sendHome_full {home : Nat} (h : u.hasCells (tileOfPort port) k.wireLen = false) :
    u.sendHome home k port = u.tileCount (tileOfPort port) 4 := if_neg (by simp [h])

theorem sendHome_framed {home : Nat} (h : u.hasCells (tileOfPort port) k.wireLen = true) :
    ∃ q : InProg, q.id = u.mod.sh.recv.nextId ∧ q.src = k.from_ ∧ q.pkt = k ∧ q.port = port ∧ q.stage = 1 ∧ q.result = none ∧
      u.sendHome home k port = (u.modRecv .mod fun r => { r with inprog := r.inprog ++ [q], nextId := q.id + 1 }).newFrame
        (tileOfPort port) home 4 2 k port := by
  obtain ⟨q, hq⟩ : ∃ q : InProg, q = ⟨u.mod.sh.recv.nextId, k.from_, k, 0, 0, port, none, u.ns, 0, 1⟩ := ⟨_, rfl⟩
  refine ⟨q, by rw [hq], by rw [hq], by rw [hq], by rw [hq], by rw [hq], by rw [hq], ?_⟩
  rw [hq]
  exact if_pos h

/-! ### A contribution at its tile -/

theorem addContribution_noTile (hop : sh.op = 0 ∨ sh.op = 4) (ht : (u.tile (x.home k.group k.piece)).inService = false) :
    u.addContribution k.group g x sh rank k port = u.malformed .mod port := by
  refine if_pos ?_
  rw [moves_iff.mpr hop, ht]
  rfl

theorem serving_gate {n : Nat} (ht : (sh.op = 0 ∨ sh.op = 4) → (u.tile n).inService = true) :
    ((sh.op == 0 || sh.op == 4) && !(u.tile n).inService) = false := by
  cases hm : (sh.op == 0 || sh.op == 4) with
  | false => rfl
  | true => rw [ht (moves_iff.mp hm)]; rfl

section
variable (ht : (sh.op = 0 ∨ sh.op = 4) → (u.tile (x.home k.group k.piece)).inService = true)
include ht

theorem addContribution_poisoned (hp : x.poisoned.contains (k.piece / 2 ^ sh.order) = true) :
    u.addContribution k.group g x sh rank k port = (u.partCount .mod k.job 5 1).finish .mod k port cPoison [] false :=
  (if_neg (by rw [serving_gate ht]; exact Bool.false_ne_true)).trans (if_pos hp)

/-- The checks of a contribution to a chunk that is not poisoned, with no Mown entry for its sequence. -/
theorem addContribution_whole (h : OpenedFrom s u k g) (hp : x.poisoned.contains (k.piece / 2 ^ sh.order) = false) :
    ∃ v, u.addContribution k.group g x sh rank k port =
      if (x.piece k.piece).ranks.contains rank then u.mcDeny k port 2
      else if (x.piece k.piece).done || (!(sh.op == 0 || sh.op == 4) && !(x.piece k.piece).ranks.isEmpty) then
        (((u.takeSize k.group k).countContribution k.group k.cseq rank).finish .mod k port cDone [] false).mcOn
      else v :=
  ⟨_, (if_neg (by rw [serving_gate ht]; exact Bool.false_ne_true)).trans ((if_neg (by rw [hp]; exact Bool.false_ne_true)).trans
    (if_neg (by rw [slotBegun_free h]; exact Bool.false_ne_true)))⟩

theorem addContribution_twice (h : OpenedFrom s u k g) (hp : x.poisoned.contains (k.piece / 2 ^ sh.order) = false)
    (hr : (x.piece k.piece).ranks.contains rank = true) : u.addContribution k.group g x sh rank k port = u.mcDeny k port 2 := by
  obtain ⟨v, hv⟩ := addContribution_whole (rank := rank) (port := port) ht h hp
  exact hv.trans (if_pos hr)

theorem addContribution_unneeded (h : OpenedFrom s u k g) (hp : x.poisoned.contains (k.piece / 2 ^ sh.order) = false)
    (hr : (x.piece k.piece).ranks.contains rank = false)
    (hd : (x.piece k.piece).done = true ∨ (sh.op = 1 ∨ sh.op = 2) ∧ (x.piece k.piece).ranks ≠ []) :
    u.addContribution k.group g x sh rank k port =
      (((u.takeSize k.group k).countContribution k.group k.cseq rank).finish .mod k port cDone [] false).mcOn := by
  obtain ⟨v, hv⟩ := addContribution_whole (rank := rank) (port := port) ht h hp
  refine hv.trans ((if_neg (by rw [hr]; exact Bool.false_ne_true)).trans (if_pos ?_))
  rcases hd with hd | ⟨ho | ho, hne⟩
  · rw [hd, Bool.true_or]
  · simp [ho, hne]
  · simp [ho, hne]

end

/-- A contribution that its piece still needs. -/
structure Needed (x : SeqSlot) (k : Packet) (sh : Shape) (rank : Nat) : Prop where
  whole : x.poisoned.contains (k.piece / 2 ^ sh.order) = false
  fresh : (x.piece k.piece).ranks.contains rank = false
  open_ : (x.piece k.piece).done = false
  first : (sh.op = 1 ∨ sh.op = 2) → (x.piece k.piece).ranks = []

theorem Needed.gate (h : Needed x k sh rank) (ho : (sh.op = 0 ∨ sh.op = 4) ∨ sh.op = 1 ∨ sh.op = 2) :
    ((x.piece k.piece).done || (!(sh.op == 0 || sh.op == 4) && !(x.piece k.piece).ranks.isEmpty)) = false := by
  rw [h.open_]
  rcases ho with ho | ho
  · rw [moves_iff.mpr ho]; rfl
  · rw [h.first ho]; simp

/-- R168: the piece of a contribution with the contribution in it. -/
def State.pieceWith (s : State) (g : Group) (x : SeqSlot) (sh : Shape) (rank : Nat) (k : Packet) : Piece :=
  (x.piece k.piece).take sh false (g.ranksIn (s.rack .mod)).length (g.placeIn (s.rack .mod) rank) rank s.clock k.payload

/-- R166: the Windrow cells that a contribution needs at its tile. -/
def State.cellsWith (s : State) (g : Group) (x : SeqSlot) (sh : Shape) (rank : Nat) (k : Packet) : Nat :=
  if sh.op = 0 ∨ sh.op = 4 then (s.pieceWith g x sh rank k).cellsFor sh else (x.piece k.piece).cells

theorem cellsWith_eq (h : OpenedFrom s u k g) :
    s.cellsWith g x sh rank k = if (sh.op == 0 || sh.op == 4) then ((x.piece k.piece).take sh false (g.ranksIn (u.rack .mod)).length
      (g.placeIn (u.rack .mod) rank) rank u.clock k.payload).cellsFor sh else (x.piece k.piece).cells := by
  rw [h.rack, h.clock]
  unfold State.cellsWith State.pieceWith
  exact if_congr moves_iff.symm rfl rfl

theorem addContribution_noCells (h : OpenedFrom s u k g) (ht : (sh.op = 0 ∨ sh.op = 4) → (u.tile (x.home k.group k.piece)).inService = true)
    (hn : Needed x k sh rank) (ho : (sh.op = 0 ∨ sh.op = 4) ∨ sh.op = 1 ∨ sh.op = 2)
    (hlt : (x.piece k.piece).cells < s.cellsWith g x sh rank k)
    (hno : u.takeCells (x.home k.group k.piece) (s.cellsWith g x sh rank k - (x.piece k.piece).cells) (k.group, k.cseq, k.piece) 4096 = none) :
    u.addContribution k.group g x sh rank k port =
      ((if (u.tileCount (x.home k.group k.piece) 14).mayTakePages (x.home k.group k.piece) 1 then u.tileCount (x.home k.group k.piece) 14
        else (u.tileCount (x.home k.group k.piece) 14).tileCount (x.home k.group k.piece) 13).partCount .mod k.job 6 1).respond
          .mod k port cHold [] 0 := by
  rw [addContribution_eq rfl rfl (serving_gate ht) hn.whole (slotBegun_free h _ _) hn.fresh (hn.gate ho) (mownWaits_free h _)
    (cellsWith_eq h), if_neg (Nat.not_le.mpr hlt), hno]

theorem addContribution_added {v : State} (h : OpenedFrom s u k g)
    (ht : (sh.op = 0 ∨ sh.op = 4) → (u.tile (x.home k.group k.piece)).inService = true)
    (hn : Needed x k sh rank) (ho : (sh.op = 0 ∨ sh.op = 4) ∨ sh.op = 1 ∨ sh.op = 2)
    (hv : s.cellsWith g x sh rank k ≤ (x.piece k.piece).cells ∧ v = u ∨ (x.piece k.piece).cells < s.cellsWith g x sh rank k ∧
      ∃ v0, u.takeCells (x.home k.group k.piece) (s.cellsWith g x sh rank k - (x.piece k.piece).cells) (k.group, k.cseq, k.piece) 4096 =
        some v0 ∧ v = v0.modTile (x.home k.group k.piece) fun y =>
          { y with windUsed := y.windUsed - (s.cellsWith g x sh rank k - (x.piece k.piece).cells) }) :
    ∃ w : State, w = ((v.takeSize k.group k).giveCells k.group k.cseq k.piece (x.home k.group k.piece) (s.cellsWith g x sh rank k)).modPiece
        k.group k.cseq k.piece (fun p =>
          p.take sh false (g.ranksIn (s.rack .mod)).length (g.placeIn (s.rack .mod) rank) rank v.clock k.payload) ∧
      ((sh.op = 0 ∨ sh.op = 4) → u.addContribution k.group g x sh rank k port =
        ((((w.drawn).engineAdds (w.engineFor k.group g x k.piece) (sh.elems k.piece) k.payload.length).countContribution
          k.group k.cseq rank).finish .mod k port cDone [] false).mcOn) ∧
      ((sh.op = 1 ∨ sh.op = 2) → u.addContribution k.group g x sh rank k port =
        ((w.countContribution k.group k.cseq rank).finish .mod k port cDone [] false).mcOn) := by
  obtain ⟨v1, hcells, hv1⟩ : ∃ v1, (if s.cellsWith g x sh rank k ≤ (x.piece k.piece).cells then some u
      else u.takeCells (x.home k.group k.piece) (s.cellsWith g x sh rank k - (x.piece k.piece).cells) (k.group, k.cseq, k.piece) 4096) = some v1 ∧
      (if s.cellsWith g x sh rank k ≤ (x.piece k.piece).cells then v1 else v1.modTile (x.home k.group k.piece) fun y =>
        { y with windUsed := y.windUsed - (s.cellsWith g x sh rank k - (x.piece k.piece).cells) }) = v := by
    obtain ⟨hle, hvu⟩ | ⟨hlt, v0, hcells, hv0⟩ := hv
    · exact ⟨u, if_pos hle, (if_pos hle).trans hvu.symm⟩
    · exact ⟨v0, (if_neg (Nat.not_le.mpr hlt)).trans hcells, (if_neg (Nat.not_le.mpr hlt)).trans hv0.symm⟩
  have heq := addContribution_eq (port := port) rfl rfl (serving_gate ht) hn.whole (slotBegun_free h _ _) hn.fresh (hn.gate ho)
    (mownWaits_free h _) (cellsWith_eq (x := x) (sh := sh) (rank := rank) h)
  rw [hcells, h.rack] at heq
  dsimp only at heq
  rw [hv1] at heq
  refine ⟨_, rfl, fun hop => heq.trans ?_, fun hop => heq.trans ?_⟩
  · rw [if_pos (moves_iff.mpr hop)]
    rfl
  · rw [if_neg (by rcases hop with h | h <;> rw [h] <;> decide)]
    rfl

end

/-! ### The whole command -/

section
variable {s : State} {k : Packet} {port : Nat} {t : Bool} {r : SrcRec} {c : Instr} {g : Group} {sh : Shape} {rank form : Nat}

/-- R164: a packet of a member whose phase its sequence allows comes to the slot of its sequence. -/
theorem exec_memberPacket (ho : s.fabricOff .mod = false) (hx : s.expired .mod (· == k) = none)
    (hc : c = .probe k port t ∨ c = .contribution k port t ∨ c = .arrive k port t) (h : FreshCollective s .mod k t r)
    (hof : CollectiveOf s k g) (hp : MemberPhase g k) (hr : k.srcRack = s.rack .mod) (hk : g.rankOf k.srcRack k.src = some rank)
    (hph : s.phaseOk g (g.ctx k.cctx).op k.phase k.tree = true) :
    exec c s = .next (((s.noted .mod k port).memberPacket false k.group g rank k port).modOn) := by
  rw [exec_member ho hx hc h, mcTake_memberPacket (collectiveOf_noted port hof) hp ?_ hk ?_]
  · exact hr.trans (noted_keep (fun t => t.rack .mod) s k port fun _ _ _ _ => rfl).symm
  · exact (noted_keep (fun t => t.phaseOk g (g.ctx k.cctx).op k.phase k.tree) s k port fun _ _ _ _ => rfl).trans hph

/-- R162: the shape that a packet of a sequence has, read past its arrival. -/
theorem shape_noted (s : State) (k : Packet) (port : Nat) (hs : sh = g.shape (s.heldContext k) ((s.heldSize k).getD k.size)) :
    sh = g.shape ((s.noted .mod k port).heldContext k) (((s.noted .mod k port).heldSize k).getD k.size) ∧
    (s.noted .mod k port).heldSize k = s.heldSize k := by
  have hsize := noted_keep (fun t => t.heldSize k) s k port fun _ _ _ _ => rfl
  have hctx := noted_keep (fun t => t.heldContext k) s k port fun _ _ _ _ => rfl
  exact ⟨by rw [hsize, hctx]; exact hs, hsize⟩

/-- A packet of a member whose form is right comes to the open slot `x` of its sequence. -/
structure AtSlot (b u : State) (k : Packet) (g : Group) (sh : Shape) (x : SeqSlot) : Prop where
  shape : sh = g.shape (b.heldContext k) ((b.heldSize k).getD k.size)
  form : memberForm sh k (b.heldSize k) = 0
  placed : g.place k.cseq = cDone
  opened : u = b.openSlot k.group k.cseq k.cctx
  slot : u.seqSlot k.group k.cseq = some x

section
variable {b u : State} {x : SeqSlot}

theorem memberPacket_probe (h : AtSlot b u k g sh x) (h6 : k.phase = 6) : b.memberPacket false k.group g rank k port =
    (u.takeSize k.group k).finish .mod k port cDone (beBytes 8 ((g.ctx k.cctx).bits_ / 2 ^ 64)) false := by
  rw [memberPacket_placed h.shape h.form h.placed (h.opened ▸ h.slot), if_neg (by omega), h6, ← h.opened]
  rfl

theorem memberPacket_arrive (h : AtSlot b u k g sh x) (h4 : k.phase = 4) (hfree : b.slotBegun k.group g x.cctx k.cseq sh 0 = false) :
    b.memberPacket false k.group g rank k port = u.takeArrive k.group rank k port false := by
  rw [memberPacket_placed h.shape h.form h.placed (h.opened ▸ h.slot), if_neg (by omega), h4, ← h.opened, hfree, Bool.and_false]
  rfl

theorem memberPacket_noPiece (h : AtSlot b u k g sh x) (h0 : k.phase = 0) (hop : sh.op ≠ 5) (h2 : x.state = 2)
    (hnone : tabGet x.pieces k.piece = none) : b.memberPacket false k.group g rank k port = b.mcDeny k port 5 := by
  rw [memberPacket_placed h.shape h.form h.placed (h.opened ▸ h.slot), if_pos ⟨h2, h0, by rw [hnone]; rfl, hop⟩]

theorem memberPacket_contribution (h : AtSlot b u k g sh x) (h0 : k.phase = 0)
    (hknown : x.state = 2 → (tabGet x.pieces k.piece).isSome = true ∨ sh.op = 5) : b.memberPacket false k.group g rank k port =
      if sh.op = 5 then u.forwardItem k.group g x k port
      else if u.sentHome k.group g x sh k port then u.sendHome (x.home k.group k.piece) k port
      else u.addContribution k.group g x sh rank k port := by
  rw [memberPacket_placed h.shape h.form h.placed (h.opened ▸ h.slot), if_neg ?_, h0, ← h.opened]
  · rfl
  · rintro ⟨h2, -, hnone, hop⟩
    rcases hknown h2 with hsome | h5
    · rw [Option.isNone_iff_eq_none.mp hnone] at hsome
      cases hsome
    · exact hop h5

end

end

/-- Settles O58: a member's packet passes the checks of `mcTake`, then those of `memberPacket`, and reaches the slot of its
sequence; a contribution then goes on, goes home, or is added at its tile. -/
theorem collectivePacketsOfMembers : Obligations.CollectivePacketsOfMembers := by
  refine ⟨?off, ?refused, ?member, ?piece⟩
  case off =>
    intro s k port t c h hc
    rcases hc with rfl | rfl | rfl <;> exact next_congr (if_pos h)
  case refused =>
    intro s k port t r c g ho hx hc h
    have hrack : (s.noted .mod k port).rack .mod = s.rack .mod := noted_keep (fun t => t.rack .mod) s k port fun _ _ _ _ => rfl
    have hgroup : (s.noted .mod k port).group k.group = s.group k.group :=
      noted_keep (fun t => t.group k.group) s k port fun _ _ _ _ => rfl
    rw [exec_member ho hx hc h]
    refine ⟨fun hj => nextOn_congr .mod (mcTake_removed ((noted_jobState ..).trans hj)),
      fun hj hg hv => nextOn_congr .mod (mcTake_noGroup ((noted_jobState ..).trans hj) (hg.trans hgroup.symm) hv),
      fun hof hp => nextOn_congr .mod (mcTake_noContext (collectiveOf_noted port hof) hp), fun hof hp => ⟨fun hr => ?_, fun hr hk hph => ?_⟩⟩
    · refine nextOn_congr .mod ((mcTake_phase (collectiveOf_noted port hof) hp).trans (if_pos ?_))
      rw [hrack]
      exact hr.imp_right fun hk => by rw [hk]; rfl
    · refine nextOn_congr .mod ((mcTake_phase (collectiveOf_noted port hof) hp).trans ((if_neg ?_).trans (if_pos ?_)))
      · rw [hrack]
        exact not_or.mpr ⟨not_not.mpr hr, fun hnone => hk (Option.isNone_iff_eq_none.mp hnone)⟩
      · rw [(noted_keep (fun t => t.phaseOk g (g.ctx k.cctx).op k.phase k.tree) s k port fun _ _ _ _ => rfl).trans hph]
        rfl
  case member =>
    intro s k port t r c g sh rank form ho hx hc h hof hp hr hk hph hs hform
    rw [exec_memberPacket ho hx hc h hof hp hr hk hph]
    obtain ⟨hshape, hsize⟩ := shape_noted s k port hs
    rw [← hsize] at hform
    obtain ⟨hwrong, hbroken, hplace⟩ := memberPacket_refused (port := port) (rank := rank) (gi := k.group) hshape
    refine ⟨fun h1 => nextOn_congr .mod (hwrong (hform ▸ h1)), fun h2 => nextOn_congr .mod (hbroken (hform ▸ h2)), fun h0 hhold => ?_,
      fun h0 hpois => ?_, fun h0 hdone => ?_⟩
    · rw [hplace (hform ▸ h0) (by rw [hhold]; decide), hhold]
      rfl
    · rw [hplace (hform ▸ h0) (by rw [hpois]; decide), hpois]
      rfl
    obtain ⟨x, hslot⟩ := openSlot_opens (collectiveOf_noted port hof)
    obtain ⟨u, hu⟩ : ∃ u, u = (s.noted .mod k port).openSlot k.group k.cseq k.cctx := ⟨_, rfl⟩
    rw [← hu] at hslot
    have hat : AtSlot (s.noted .mod k port) u k g sh x := ⟨hshape, hform ▸ h0, hdone, hu, hslot⟩
    have hfrom : OpenedFrom s u k g := openedFrom hof hu
    refine ⟨u, x, hu, hslot, fun h6 => nextOn_congr .mod (memberPacket_probe hat h6), fun h4 => ?_,
      fun hc0 hop h2 hnone => nextOn_congr .mod (memberPacket_noPiece hat hc0 hop h2 hnone), ?_⟩
    · refine ⟨⟨rank, k.piece, u.rackNs .mod⟩, rfl, rfl, hfrom.rackNs, ?_⟩
      refine nextOn_congr .mod (memberPacket_arrive hat h4 (slotBegun_noMown 0 ?_))
      rw [hof.valid.2]
      exact (collectiveOf_noted port hof).mown _
    rintro _ _ _ _ v hc0 hknown rfl rfl rfl rfl
    have hcontr := memberPacket_contribution (rank := rank) (port := port) hat hc0 hknown
    have haway : (sh.op = 0 ∨ sh.op = 4) → x.home k.group k.piece ≠ tileOfPort port →
        (s.noted .mod k port).memberPacket false k.group g rank k port = u.sendHome (x.home k.group k.piece) k port :=
      fun hop hh => hcontr.trans ((if_neg (by omega)).trans (if_pos (sentHome_away hfrom hop hh)))
    refine ⟨fun h5 hlen => nextOn_congr .mod (hcontr.trans ((if_pos h5).trans (forwardItem_noRank hlen))), fun h5 hlen => ?_,
      fun hop hh => ⟨fun hcells => nextOn_congr .mod ((haway hop hh).trans (sendHome_full hcells)), fun hcells => ?_⟩, fun hl => ?_⟩
    · obtain ⟨q, hid, hsrc, hpkt, hport, hres, hq⟩ := forwardItem_on (u := u) (x := x) (port := port) hlen
      exact ⟨q, hid, hsrc, hpkt, hport, hres, nextOn_congr .mod (hcontr.trans ((if_pos h5).trans hq))⟩
    · obtain ⟨q, hid, hsrc, hpkt, hport, hstage, hres, hq⟩ := sendHome_framed (home := x.home k.group k.piece) hcells
      exact ⟨q, hid, hsrc, hpkt, hport, hstage, hres, nextOn_congr .mod ((haway hop hh).trans hq)⟩
    have hkind : (sh.op = 0 ∨ sh.op = 4) ∨ sh.op = 1 ∨ sh.op = 2 := hl.imp_left And.left
    have hadd : (s.noted .mod k port).memberPacket false k.group g rank k port = u.addContribution k.group g x sh rank k port :=
      hcontr.trans ((if_neg (by omega)).trans (if_neg (by rw [sentHome_here hl]; exact Bool.false_ne_true)))
    rw [hadd]
    refine ⟨fun hop ht => nextOn_congr .mod (addContribution_noTile hop ht), fun ht => ⟨fun hpois => nextOn_congr .mod (addContribution_poisoned ht hpois),
      fun hpois htwice => nextOn_congr .mod (addContribution_twice ht hfrom hpois htwice),
      fun hpois hfresh hun => nextOn_congr .mod (addContribution_unneeded ht hfrom hpois hfresh hun), fun hpois hfresh hopen hfirst => ?_⟩⟩
    have hneed : Needed x k sh rank := ⟨hpois, hfresh, hopen, hfirst⟩
    refine ⟨fun hlt hno => nextOn_congr .mod (addContribution_noCells hfrom ht hneed hkind hlt hno), fun hv => ?_⟩
    obtain ⟨w, hw, hmoves, hheld⟩ := addContribution_added (port := port) hfrom ht hneed hkind hv
    exact ⟨w, hw, fun hop => nextOn_congr .mod (hmoves hop), fun hop => nextOn_congr .mod (hheld hop)⟩
  case piece =>
    rintro p sh n at_ rank now b _ rfl
    refine ⟨rfl, fun hop => ?_, fun hop hm => ⟨fun hs => ?_, fun hs => ?_⟩,
      fun hop hm => ⟨⟨at_, 1, (decodePayload (aword sh.word).input b).map (toAcc (aword sh.word).work)⟩, rfl, rfl, rfl, fun hs => ?_, fun hs => ?_⟩,
      fun hop => ⟨fun hs => ?_, fun hs => ?_⟩⟩
    · rcases hop with hop | hop <;> simp [Piece.take, hop]
    all_goals simp [Piece.take, *]

end Sys2Proof.Machine
end

section
/-! PROOFS. Job slots (R36, R48, R96), admission entries (R43, R183) and the Directory's write (R327). -/

namespace Sys2Proof.Machine

/-! ### Job slots -/

theorem slotJobWrite_free {s : State} {n : Nat} {val : List Byte} (hl : val.length = 2) (h0 : beNat val ≠ 0) (hf : beNat val ≠ 0xFFFF)
    (hstate : (s.slot n).state = 0) (hroot : (s.slot n).root ≠ 0) (hpage : (s.slot n).root % 4096 = 0)
    (hin : (s.slot n).root + 4096 ≤ s.reg .ep 0xD30002)
    (hown : (s.ep.slots.any fun e => e.1 != n && e.2.job == beNat val && e.2.state != 0) = false) :
    s.slotJobWrite n val = (stOk, ((((s.dropAtu n).setSlot n { s.slot n with
      job := beNat val
      state := 1
      cacheGen := (s.slot n).cacheGen + 1
      inv := (s.slot n).inv + 1
      waits := [] }).modSh .ep fun sh => { sh with keys := sh.keys.filter fun k => k.job != beNat val }).newPartition .ep (beNat val))) := by
  unfold State.slotJobWrite
  dsimp only
  rw [if_neg (by omega), if_neg hf, hown, if_neg (by simp [hroot, hpage, hin]), if_neg (by omega)]

theorem invalidateWrite_ready {s : State} {n : Nat} {val : List Byte} (hl : val.length = 4) (h1 : (s.slot n).state = 1)
    (hg : beNat val = ((s.slot n).gen + 1) % 2 ^ 32) :
    s.invalidateWrite n val = (stOk, ((s.dropAtu n).setSlot n { s.slot n with
      state := 2
      inv := (s.slot n).inv + 1
      waits := s.translatedOf n (s.slot n).job }).retranslate n (s.slot n).job) := by
  unfold State.invalidateWrite
  dsimp only
  rw [if_neg (by omega), if_neg (by omega)]

theorem mem_dropAtu {s : State} {n : Nat} {e : AtuEntry} : e ∈ (s.dropAtu n).ep.atu ↔ e ∈ s.ep.atu ∧ e.slot ≠ n := by
  show e ∈ s.ep.atu.filter _ ↔ _
  simp

theorem revokeWrite_held {s : State} {n : Nat} {val : List Byte} (hl : val.length = 1) (h1 : beNat val = 1)
    (h : (s.slot n).state = 1 ∨ (s.slot n).state = 2) : s.revokeWrite n val = (stOk, s.revokeSlot n) :=
  (if_neg (by omega)).trans (if_neg (by omega))

theorem revokeWrite_busy {s : State} {n : Nat} {val : List Byte} (hl : val.length = 1) (h1 : beNat val = 1)
    (h : (s.slot n).state = 0 ∨ (s.slot n).state = 3) : s.revokeWrite n val = (stBusy, s) :=
  (if_neg (by omega)).trans (if_pos (by omega))

/-- R96: revoking a slot tears its work from the state in which the slot is Revoked. -/
theorem revokeSlot_from {s u : State} {n : Nat} (hu : u = s.setSlot n { s.slot n with state := 3, cacheGen := (s.slot n).cacheGen + 1 }) :
    s.revokeSlot n = ((((u.tearFaults (s.slot n).job).tearWaiting n (s.slot n).job).tearWork n (s.slot n).job).tornHeld .ep
      (s.slot n).job).jobNotice 2 (s.slot n).job 0 0 := hu ▸ rfl

/-- R96: the keys of a Job ID with no epoch left. -/
def JobKeys.cleared (k : JobKeys) : JobKeys := { k with cur := none, prev := none, pend := none }

theorem slotDrained_empty {s : State} {n : Nat} (h3 : (s.slot n).state = 3) (he : s.slotEmpty n (s.slot n).job = true) :
    s.slotDrained n = ((s.modSh .ep fun sh => { sh with keys := sh.keys.map fun k =>
      if k.job = (s.slot n).job then k.cleared else k }).dropAtu n).setSlot n { s.slot n with state := 0, job := 0xFFFF, waits := [] } :=
  if_pos ⟨h3, he⟩

theorem cleared_of_mem {keys : List JobKeys} {job : Nat} {k : JobKeys}
    (hk : k ∈ keys.map fun k => if k.job = job then k.cleared else k) (hj : k.job = job) :
    k.cur = none ∧ k.prev = none ∧ k.pend = none := by
  obtain ⟨k0, -, rfl⟩ := List.mem_map.mp hk
  by_cases h : k0.job = job
  · rw [if_pos h]
    exact ⟨rfl, rfl, rfl⟩
  · rw [if_neg h] at hj
    exact absurd hj h

/-- Settles O7: each command rewrites one slot; what it drops of the translations is named by its filter. -/
theorem slotCommandsMoveSlotStates : Obligations.SlotCommandsMoveSlotStates := by
  refine ⟨?bind, ?invalidate, ?invalidated, ?revoke, ?busy, ?drained⟩
  case bind =>
    intro s a n val hn hd hl h0 hf hst hroot hpage hin hown
    have hw := write_answer hd ((dirApply_slotJob hn (wholeRange hl rfl)).trans (slotJobWrite_free hl h0 hf hst hroot hpage hin hown))
    have hself := slot_setSlot_same (s.dropAtu n) n { s.slot n with
      job := beNat val
      state := 1
      cacheGen := (s.slot n).cacheGen + 1
      inv := (s.slot n).inv + 1
      waits := [] }
    refine ⟨_, hw, (congrArg Slot.job hself).trans rfl, (congrArg Slot.state hself).trans rfl, (congrArg Slot.root hself).trans rfl,
      fun m hm => slot_setSlot_other (s.dropAtu n) n m _ hm, fun e he => (mem_dropAtu.mp he).2,
      fun e hne => ⟨fun he => (mem_dropAtu.mp he).1, fun he => mem_dropAtu.mpr ⟨he, hne⟩⟩, rfl, rfl⟩
  case invalidate =>
    intro s a n val hn hd hl h1 hg
    have hw := write_answer hd ((dirApply_slotInvalidate hn (wholeRange hl rfl)).trans (invalidateWrite_ready hl h1 hg))
    have hself := slot_setSlot_same (s.dropAtu n) n { s.slot n with
      state := 2
      inv := (s.slot n).inv + 1
      waits := s.translatedOf n (s.slot n).job }
    refine ⟨_, nextOn_congr .ep (writeNamed_eq hd ((dirApply_slotInvalidate hn (wholeRange hl rfl)).trans (invalidateWrite_ready hl h1 hg))),
      (congrArg Slot.state hself).trans rfl, (congrArg Slot.gen hself).trans rfl, (congrArg Slot.waits hself).trans rfl,
      fun m hm => slot_setSlot_other (s.dropAtu n) n m _ hm, fun e he => (mem_dropAtu.mp he).2, fun e he => ?_, rfl⟩
    exact bne_iff_ne.mp (List.mem_filter.mp he).2
  case invalidated =>
    intro s n h2 hw
    have hself := slot_setSlot_same s n { s.slot n with state := 1, gen := ((s.slot n).gen + 1) % 2 ^ 32, waits := [] }
    exact ⟨_, next_congr (if_pos ⟨h2, by rw [hw]; exact Bool.false_ne_true⟩), (congrArg Slot.state hself).trans rfl, (congrArg Slot.gen hself).trans rfl,
      (congrArg Slot.job hself).trans rfl, fun m hm => slot_setSlot_other s n m _ hm, rfl, rfl⟩
  case revoke =>
    intro s a n val hn hd hl h1 hst
    have hself := slot_setSlot_same s n { s.slot n with state := 3, cacheGen := (s.slot n).cacheGen + 1 }
    obtain ⟨u, hu⟩ : ∃ u, u = s.setSlot n { s.slot n with state := 3, cacheGen := (s.slot n).cacheGen + 1 } := ⟨_, rfl⟩
    have hw := writeNamed_eq hd ((dirApply_slotRevoke hn ⟨hl, by omega⟩).trans (revokeWrite_held hl h1 hst))
    rw [revokeSlot_from hu] at hw
    rw [← hu] at hself
    have hkeep : u.ep.faults = s.ep.faults ∧ u.ep.sh = s.ep.sh ∧ u.mod = s.mod ∧ u.out = s.out := by
      rw [hu]
      exact ⟨rfl, rfl, rfl, rfl⟩
    obtain ⟨hfaults, hsh, hmod, hout⟩ := hkeep
    exact ⟨u, (congrArg Slot.state hself).trans rfl, (congrArg Slot.job hself).trans rfl, (congrArg Slot.root hself).trans rfl,
      (congrArg Slot.gen hself).trans rfl, fun m hm => by rw [hu, slot_setSlot_other s n m _ hm], hfaults, hsh, hmod, hout,
      nextOn_congr .ep hw⟩
  case busy =>
    intro s a n val hn hd hl h1 hst
    exact nextOn_congr .ep (writeNamed_eq hd ((dirApply_slotRevoke hn ⟨hl, by omega⟩).trans (revokeWrite_busy hl h1 hst)))
  case drained =>
    intro s n h3 he
    have hself := slot_setSlot_same ((s.modSh .ep fun sh => { sh with keys := sh.keys.map fun k =>
      if k.job = (s.slot n).job then k.cleared else k }).dropAtu n) n { s.slot n with state := 0, job := 0xFFFF, waits := [] }
    exact ⟨_, next_congr (slotDrained_empty h3 he), (congrArg Slot.state hself).trans rfl, (congrArg Slot.job hself).trans rfl,
      fun k hk hj => cleared_of_mem hk hj, fun m hm => slot_setSlot_other _ n m _ hm, rfl, rfl⟩

/-! ### Admission entries -/

theorem admWrite_stored {s : State} {p : Part} {i size : Nat} {val : List Byte} {extra : AdmEntry → Bool} {e : AdmEntry}
    (hl : val.length = 16) (he : admOf (beNat val) = (e, 0)) (hj : e.job ≠ 0 ∧ e.job ≠ 0xFFFF) (hoff : e.offBase + e.len + 1 ≤ 2 ^ 30)
    (hin : (e.localBase + e.len + 1) * 65536 ≤ size) (hx : extra e = true)
    (hfree : ∀ x ∈ (s.sh p).adm, x.1 ≠ i → x.2.v = true → x.2.job = e.job →
      x.2.offBase + x.2.len + 1 ≤ e.offBase ∨ e.offBase + e.len + 1 ≤ x.2.offBase) :
    s.admWrite p i val size extra = (stOk, s.modSh p fun sh => { sh with adm := tabPut sh.adm i e AdmEntry.empty }) := by
  have hnone : ((s.sh p).adm.any fun x => x.1 != i && x.2.v && x.2.job == e.job &&
      decide (x.2.offBase < e.offBase + e.len + 1 ∧ e.offBase < x.2.offBase + x.2.len + 1)) = false := by
    rw [List.any_eq_false]
    intro x hm hc
    simp only [Bool.and_eq_true, bne_iff_ne, beq_iff_eq, decide_eq_true_eq] at hc
    obtain ⟨⟨⟨hi, hv⟩, hjob⟩, hlo, hhi⟩ := hc
    have := hfree x hm hi hv hjob
    omega
  unfold State.admWrite
  dsimp only
  rw [he]
  dsimp only
  rw [hnone, if_neg (by simp [hl]), if_neg]
  have hoff' : ¬ 2 ^ 30 < e.offBase + e.len + 1 := Nat.not_lt.mpr hoff
  have hin' : ¬ size < (e.localBase + e.len + 1) * 65536 := Nat.not_lt.mpr hin
  simp only [hj.1, hj.2, hx, hoff', hin', decide_false, beq_iff_eq, Bool.or_eq_true, Bool.and_eq_true, Bool.not_true,
    Bool.false_eq_true, or_false, and_false, not_false_eq_true]

theorem AdmEntry.ne_empty {e : AdmEntry} (h : e.v = true) : e ≠ AdmEntry.empty := by
  rintro rfl
  cases h

/-- Settles O9: an entry that passes the checks is put at the selected index. -/
theorem admissionWritesStoreEntry : Obligations.AdmissionWritesStoreEntry := by
  refine ⟨?endpoint, ?commons⟩
  case endpoint =>
    intro s a val e hd hl he hv h0 hf hoff hin hfree
    exact ⟨_, write_answer hd ((dirApply_admission hl).trans (admWrite_stored hl he ⟨h0, hf⟩ hoff hin rfl hfree)),
      tabGet_tabPut _ (AdmEntry.ne_empty hv), fun j hj => tabGet_tabPut_other _ _ _ hj, rfl, rfl, rfl⟩
  case commons =>
    intro s a val e hd hl he hv h0 hf hoff hin hok hfree
    exact ⟨_, write_answer hd ((dirApply_commonsAdmission hl).trans (admWrite_stored hl he ⟨h0, hf⟩ hoff hin hok hfree)),
      tabGet_tabPut _ (AdmEntry.ne_empty hv), fun j hj => tabGet_tabPut_other _ _ _ hj, rfl, rfl, rfl, rfl⟩

/-! ### The checks of a Directory write -/

theorem exec_directoryWrite {s : State} {p : Part} {a : Access} {key : Nat} {val : List Byte} {c : Nat} {t : State}
    (h : s.dirWriteAny p a key val = (c, t)) :
    exec (.directoryWrite p a key val) s = .next ((t.emit (.dir p a.ctx c [])).partOn p) :=
  nextOn_congr p (congrArg (dirAnswer p a.ctx) h)

section
variable {s : State} {p : Part} {a : Access} {key : Nat} {val : List Byte} {e : Entry}

theorem dirCheck_write (h : entryOf p key = some e) : dirCheck p a key true s =
    if !pathReaches p a.path key true s then 2
    else if !mayWrite p a e key s then 3
    else if (true && e.acc == 0 && !(e.wr == 5 && a.principal == .metrology)) || (!true && e.acc == 2) then 4 else 0 := by
  unfold dirCheck
  rw [h]
  rfl

theorem dirWriteAny_applies (h : dirCheck p a key true s = 0) :
    s.dirWriteAny p a key val = (s.drawn).dirApply p a key val s.freeAux := by
  unfold State.dirWriteAny dirWriteWith
  rw [h]
  rfl

theorem dirWriteAny_noEntry (h : dirCheck p a key true s = 1) : s.dirWriteAny p a key val = (stNoEntry, s) := by
  unfold State.dirWriteAny dirWriteWith
  rw [h]
  rfl

theorem dirWriteAny_unreached (h : dirCheck p a key true s = 2) : s.dirWriteAny p a key val = (stDenied, s) := by
  unfold State.dirWriteAny dirWriteWith
  rw [h]
  rfl

theorem dirWriteAny_denied (h : dirCheck p a key true s = 3) : s.dirWriteAny p a key val = (stDenied, dirDenied p a key s) := by
  unfold State.dirWriteAny dirWriteWith
  rw [h]
  rfl

theorem dirWriteAny_mode (h : dirCheck p a key true s = 4) : s.dirWriteAny p a key val = (stMode, s) := by
  unfold State.dirWriteAny dirWriteWith
  rw [h]
  rfl

end

/-- Settles O10: the number of the first check that fails says what the write answers. -/
theorem directoryWriteIsCheckedInOrder : Obligations.DirectoryWriteIsCheckedInOrder := by
  refine ⟨?entry, ?path, ?principal, ?access⟩
  case entry =>
    intro s p a key val h
    have hc : dirCheck p a key true s = 1 := by
      unfold dirCheck
      rw [h]
    exact exec_directoryWrite (dirWriteAny_noEntry hc)
  case path =>
    intro s p a key val e h hp
    exact exec_directoryWrite (dirWriteAny_unreached ((dirCheck_write h).trans (if_pos (by rw [hp]; rfl))))
  case principal =>
    intro s p a key val e h hp hm
    have hc := (dirCheck_write (a := a) (s := s) h).trans ((if_neg (by rw [hp]; decide)).trans (if_pos (by rw [hm]; rfl)))
    refine ⟨exec_directoryWrite (dirWriteAny_denied hc), fun k i => ?_, ?_, ?_, ?_⟩
    · exact dirDenied_keeps (fun t => (t.sh p).reg k i) s p a key (fun _ _ => by cases p <;> rfl) fun _ _ => by cases p <;> rfl
    · exact dirDenied_keeps (·.mod.mem) s p a key (fun _ _ => by cases p <;> rfl) fun _ _ => by cases p <;> rfl
    · exact dirDenied_keeps (·.ep.slots) s p a key (fun _ _ => by cases p <;> rfl) fun _ _ => by cases p <;> rfl
    · exact dirDenied_keeps (·.out) s p a key (fun _ _ => by cases p <;> rfl) fun _ _ => by cases p <;> rfl
  case access =>
    intro s p a key val e h hp hm hacc hprin
    have hc : dirCheck p a key true s = 4 := by
      have hno : (a.principal == Principal.metrology) = false := by simp [hprin]
      rw [dirCheck_write h, hp, hm, hacc, hno, Bool.and_false]
      rfl
    exact exec_directoryWrite (dirWriteAny_mode hc)

/-- Settles O11: an entry that no function of its own carries out is put into its instance. -/
theorem directoryWriteStoresValue : Obligations.DirectoryWriteStoresValue := by
  intro s p a key val e he hd hv hwr hl hep hmod hmod2 hboth
  have happly : (s.drawn).dirApply p a key val s.freeAux =
      (stOk, (s.drawn).modSh p fun sh => sh.setReg key (s.instOf p a.ctx key) (beNat val)) := by
    unfold State.dirApply
    rw [he]
    dsimp only
    rw [hv, if_neg (by decide), if_neg hwr]
    cases p with
    | ep =>
      dsimp only
      rw [hep, hboth, hl]
      rfl
    | mod =>
      dsimp only
      rw [hmod, hmod2, hboth, hl]
      rfl
  obtain ⟨u, hu⟩ : ∃ u, u = (s.drawn).modSh p fun sh => sh.setReg key (s.instOf p a.ctx key) (beNat val) := ⟨_, rfl⟩
  rw [← hu] at happly
  have hsh : u.sh p = (s.sh p).setReg key (s.instOf p a.ctx key) (beNat val) := by
    rw [hu, State.modSh_sh]
    cases p <;> rfl
  have hkeep : u.mod.mem = s.mod.mem ∧ u.ep.slots = s.ep.slots ∧ u.out = s.out := by
    rw [hu]
    cases p <;> exact ⟨rfl, rfl, rfl⟩
  refine ⟨u, exec_directoryWrite ((dirWriteAny_applies hd).trans happly), ?_, fun k i hne => ?_, ?_, hkeep⟩
  · rw [hsh, Shared.reg_setReg_same]
  · rw [hsh]
    exact tabGetD_tabPut_default _ _ _ _ hne
  · rw [hsh]
    rfl

end Sys2Proof.Machine
end

section
/-! PROOFS. Sessions of the protocol (R332 to R334, R336 to R338), credentials (R335), core pairs (R18) and the sideband (R263). -/

namespace Sys2Proof.Machine

/-! ### The gate and the form of a message -/

section
variable {s g : State} {m : PMsg} {op : Nat}

theorem protoGate_passes (h : (s.protoGate m).2 = true) :
    ∃ l, s.protoGate m = (s.modMod fun d => { d with arrivals := l }, true) := by
  unfold State.protoGate at h ⊢
  dsimp only at h ⊢
  split at h
  · cases h
  · rename_i hn
    rw [if_neg hn]
    exact ⟨_, rfl⟩

theorem op_of_protoForm (h : protoForm m op = true) : m.op = op := by
  unfold protoForm at h
  simp only [Bool.and_eq_true, beq_iff_eq] at h
  obtain ⟨⟨⟨⟨⟨-, hop⟩, -⟩, -⟩, -⟩, -⟩ := h
  exact hop

theorem protoUdp_open {t : State} {a : PMsg × Nat} (hc : s.mod.sh.clk.crystal ≠ 2) (hg : s.protoGate m = (g, true)) (hf : protoForm m 1 = true)
    (h : g.protoOpen m = (t, some a)) : s.protoUdp 1 m = t.emit (.protocol a.1 a.2) := by
  unfold State.protoUdp State.proto
  rw [if_neg hc, hg]
  dsimp only
  rw [hf, if_neg (by decide), if_neg (by decide), if_pos rfl, h]

theorem protoUdp_session {t : State} {a : PMsg × Nat} (hc : s.mod.sh.clk.crystal ≠ 2) (hg : s.protoGate m = (g, true)) (hf : protoForm m op = true)
    (h1 : op ≠ 1) (h : g.protoSession .udp m = (t, some a)) : s.protoUdp op m = t.emit (.protocol a.1 a.2) := by
  unfold State.protoUdp State.proto
  rw [if_neg hc, hg]
  dsimp only
  rw [hf, if_neg (by decide), if_neg (by decide), if_neg h1, h]

theorem protoUdp_off (hc : s.mod.sh.clk.crystal = 2) : s.protoUdp op m = s := if_pos hc

end

/-! ### Opening a session -/

/-- R332: the session that an Open of a credential opens. -/
def State.opened (s : State) (m : PMsg) (c : Credential) : Session :=
  { id := s.freshSession, port := m.port, slot := m.credSlot, principal := c.principal, partition := c.partition,
    key := sessionKey c.secret m.value (sliceBytes (Config.randomBytes s.draws) 0 32) s.freshSession, seq := 0, answer := none, last := s.ns }

theorem protoOpen_opens {s : State} {m : PMsg} {c : Credential} (hm : tabGetD s.mod.muted m.source 0 ≤ s.ns)
    (hc : tabGet s.mod.creds m.credSlot = some c) (ha : m.auth = protoAuth m 0 c.secret) (hq : m.seq = 0) (hi : m.session = 0)
    (hl : m.value.length = 32) (hn : s.mod.sessions.length < 16) :
    s.protoOpen m = (((s.drawn).dropCtx .mod (.session s.freshSession)).modMod fun d => { d with sessions := d.sessions ++ [s.opened m c] },
      some (answerOf m s.freshSession stOk (s.opened m c).key (sliceBytes (Config.randomBytes s.draws) 0 32), stOk)) := by
  have hfilter : (tabGet s.mod.creds m.credSlot).filter (fun c => m.auth == protoAuth m 0 c.secret) = some c := by
    rw [hc]
    simp [ha]
  unfold State.protoOpen
  rw [if_neg (Nat.not_lt.mpr hm), hfilter]
  dsimp only
  rw [if_neg (by omega), if_neg (by omega), if_neg (by omega)]
  rfl

theorem sliceBytes_length (l : List Byte) (a n : Nat) : (sliceBytes l a n).length = n := by
  simp [sliceBytes]

/-- Settles O12: the Open passes the gate and takes a session of a fresh number. -/
theorem openStartsSession : Obligations.OpenStartsSession := by
  intro s m c hcr hgate hform hmute hcred hauth hseq hsess hlen hfew
  obtain ⟨l, hl⟩ := protoGate_passes hgate
  obtain ⟨g, hg⟩ : ∃ g, g = s.modMod fun d => { d with arrivals := l } := ⟨_, rfl⟩
  have hkeep : g.mod.muted = s.mod.muted ∧ g.ns = s.ns ∧ g.mod.creds = s.mod.creds ∧ g.mod.sessions = s.mod.sessions ∧
      g.out = s.out ∧ g.mod.sh.regs = s.mod.sh.regs ∧ g.mod.mem = s.mod.mem ∧ g.ep = s.ep := by
    rw [hg]
    exact ⟨rfl, rfl, rfl, rfl, rfl, rfl, rfl, rfl⟩
  obtain ⟨hmuted, hns, hcreds, hsessions, hout, hregs, hmem, hep⟩ := hkeep
  rw [← hg] at hl
  rw [← hmuted, ← hns] at hmute
  rw [← hcreds] at hcred
  rw [← hsessions] at hfew
  obtain ⟨hid, hother⟩ := freshSession_unused g (Nat.le_of_lt hfew)
  refine ⟨_, g.opened m c, sliceBytes (Config.randomBytes g.draws) 0 32,
    next_congr (protoUdp_open hcr hl hform (protoOpen_opens hmute hcred hauth hseq hsess hlen hfew)), ?_, rfl, rfl, rfl, rfl, hid,
    hsessions ▸ hother, sliceBytes_length _ _ _, rfl, rfl, ?_, hregs, hmem, hep⟩
  · exact congrArg (· ++ [g.opened m c]) hsessions
  · exact congrArg (· ++ _) hout

/-! ### A request within a session -/

section
variable {s : State} {m : PMsg} {t : Session} {path : Path}

/-- The session that a message names, with the key that signs it. -/
theorem session_found (ht : (s.mod.sessions.find? fun t => t.id == m.session) = some t) (ha : m.auth = protoAuth m 0 t.key) :
    (s.mod.sessions.find? fun t => t.id == m.session).filter (fun t => m.auth == protoAuth m 0 t.key) = some t := by
  rw [ht]
  simp [ha]

theorem protoSession_close (ht : (s.mod.sessions.find? fun t => t.id == m.session) = some t) (ha : m.auth = protoAuth m 0 t.key)
    (hq : m.seq = (t.seq + 1) % 2 ^ 32) (ho : m.op = 2) : s.protoSession path m =
      (s.modMod fun d => { d with sessions := d.sessions.filter fun x => x.id != t.id }, some (answerOf m t.id stOk t.key [], stOk)) := by
  unfold State.protoSession
  rw [session_found ht ha]
  dsimp only
  rw [if_pos hq, if_pos ho]

/-- R333: a session keeps the sequence of its request and the answer to it. -/
def State.keptAnswer (s : State) (now : Nat) (m : PMsg) (t : Session) (st : Nat) (v : List Byte) : State :=
  s.modMod fun d => { d with
    sessions := modFirst (fun x => x.id == t.id) (fun x => { x with seq := m.seq, answer := some (st, v), last := now }) d.sessions }

theorem protoSession_runs {u : State} {st : Nat} {v : List Byte} (ht : (s.mod.sessions.find? fun t => t.id == m.session) = some t)
    (ha : m.auth = protoAuth m 0 t.key) (hq : m.seq = (t.seq + 1) % 2 ^ 32) (ho : m.op ≠ 2) (hr : s.protoRun (t.access path) m = (u, st, v)) :
    s.protoSession path m = (u.keptAnswer s.ns m t st v, some (answerOf m t.id st t.key v, st)) := by
  unfold State.protoSession
  rw [session_found ht ha]
  dsimp only
  rw [if_pos hq, if_neg ho, hr]
  rfl

theorem dirRead_value {p : Part} {a : Access} {key : Nat} {e : Entry} {v : List Byte} (hd : dirCheck p a key false s = 0)
    (he : entryOf p key = some e) (hv : s.dirValue p a e key = some v) : s.dirRead p a key = (s, stOk, v) := by
  unfold State.dirRead
  rw [hd, he]
  dsimp only
  rw [hv]
  rfl

theorem protoRun_read {a : Access} {v : List Byte} (ho : m.op = 3) (hr : s.dirRead .mod a m.key = (s, stOk, v)) (hl : v.length ≤ 1024) :
    s.protoRun a m = (s, stOk, v) := by
  unfold State.protoRun
  rw [ho, hr]
  exact if_neg (Nat.not_lt.mpr hl)

/-- R338: the bytes of a Commit staged whose digest is right are the value of a write. -/
theorem commit_staged {a : Access} {staged : List Byte} (hl : m.value.length = 76)
    (hin : beNat (sliceBytes m.value 0 8) + beNat (sliceBytes m.value 8 4) ≤ 2 ^ 28)
    (hst : staged = (List.range (beNat (sliceBytes m.value 8 4))).map (fun i => tabGetD s.mod.staging (beNat (sliceBytes m.value 0 8) + i) 0#8))
    (hd : sliceBytes m.value 12 64 = sliceBytes (Config.sha512 staged) 0 64) :
    s.commit a m = s.dirWriteAny .mod a m.key staged := by
  unfold State.commit
  dsimp only
  rw [if_neg (by omega), ← hst, if_neg (by simp [hd])]

end

/-- Settles O13: a request passes the gate, finds its session by number and authenticator, and runs as its principal. -/
theorem sessionRequestsAreAnswered : Obligations.SessionRequestsAreAnswered := by
  refine ⟨?close, ?read, ?off, ?others⟩
  case close =>
    intro s m t hc hgate hf ht ha hq
    obtain ⟨l, hl⟩ := protoGate_passes hgate
    exact ⟨_, next_congr (protoUdp_session hc hl hf (by decide)
      (protoSession_close (s := s.modMod fun d => { d with arrivals := l }) ht ha hq (op_of_protoForm hf))), rfl, rfl, rfl, rfl⟩
  case read =>
    intro s m t e v hc hgate hf ht ha hq he hd hv hlen
    obtain ⟨l, hl⟩ := protoGate_passes hgate
    rw [hl] at hd hv
    have ho := op_of_protoForm hf
    have hrun := protoRun_read ho (dirRead_value hd he hv) hlen
    exact ⟨_, next_congr (protoUdp_session hc hl hf (by decide)
      (protoSession_runs (s := s.modMod fun d => { d with arrivals := l }) ht ha hq (by omega) hrun)), rfl, rfl, rfl, rfl⟩
  case off => exact fun s m hc => ⟨next_congr (protoUdp_off hc), next_congr (protoUdp_off hc), next_congr (protoUdp_off hc)⟩
  case others =>
    intro s m t hc hgate ht ha hq
    obtain ⟨l, hl⟩ := protoGate_passes hgate
    obtain ⟨g, hg⟩ : ∃ g, g = s.modMod fun d => { d with arrivals := l } := ⟨_, rfl⟩
    have hfind : (g.mod.sessions.find? fun t => t.id == m.session) = some t := by rw [hg]; exact ht
    have hstaging : g.mod.staging = s.mod.staging := by rw [hg]; rfl
    rw [← hg] at hl
    rw [hl]
    dsimp only
    have hans : ∀ {op : Nat} {u : State} {st : Nat} {v : List Byte}, protoForm m op = true → op ≠ 1 → op ≠ 2 →
        g.protoRun (t.access .udp) m = (u, st, v) →
        s.protoUdp op m = (u.keptAnswer g.ns m t st v).emit (.protocol (answerOf m t.id st t.key v) st) := fun hf h1 h2 hr =>
      protoUdp_session hc hl hf h1 (protoSession_runs hfind ha hq (by rw [op_of_protoForm hf]; exact h2) hr)
    refine ⟨fun hf => ?_, fun hf => ?_, fun hf => ?_, fun staged hf hlen hin hst hd => ?_⟩
    · have hr : g.protoRun (t.access .udp) m = ((g.dirWriteAny .mod (t.access .udp) m.key m.value).2,
          (g.dirWriteAny .mod (t.access .udp) m.key m.value).1, []) := by
        unfold State.protoRun
        rw [op_of_protoForm hf]
        rfl
      exact ⟨_, _, nextOn_congr .mod (hans hf (by decide) (by decide) hr), rfl, rfl⟩
    · have hr : g.protoRun (t.access .udp) m = g.segRead .mod (t.access .udp) m.key m.segOff 1024 := by
        unfold State.protoRun
        rw [op_of_protoForm hf]
        rfl
      exact ⟨_, _, _, next_congr (hans hf (by decide) (by decide) hr), rfl, rfl⟩
    · have hr : g.protoRun (t.access .udp) m = ((g.segWrite .mod (t.access .udp) m.key m.segOff m.value 1024).2,
          (g.segWrite .mod (t.access .udp) m.key m.segOff m.value 1024).1, []) := by
        unfold State.protoRun
        rw [op_of_protoForm hf]
        rfl
      exact ⟨_, _, nextOn_congr .mod (hans hf (by decide) (by decide) hr), rfl, rfl⟩
    · rw [← hstaging] at hst
      have hr : g.protoRun (t.access .udp) m = ((g.dirWriteAny .mod (t.access .udp) m.key staged).2,
          (g.dirWriteAny .mod (t.access .udp) m.key staged).1, []) := by
        rw [← commit_staged (a := t.access .udp) hlen hin hst hd]
        unfold State.protoRun
        rw [op_of_protoForm hf]
        rfl
      exact ⟨_, _, nextOn_congr .mod (hans hf (by decide) (by decide) hr), rfl, rfl⟩

/-! ### Ends of sessions and blobs, credentials and core pairs -/

theorem sessionIdle_ends {s : State} {id : Nat} {t : Session} (ht : (s.mod.sessions.find? fun t => t.id == id) = some t)
    (hd : t.last + 1000000000 * s.reg .mod 0x830004 ≤ s.ns) :
    s.sessionIdle id = s.modMod fun d => { d with sessions := d.sessions.filter fun x => x.id != id } := by
  unfold State.sessionIdle
  rw [ht]
  exact if_pos hd

theorem credInstall_stored {s : State} {val : List Byte} {slot kind part : Nat} (hl : val.length = 576) (hf : credFields val = (slot, kind, part, 0))
    (hs : slot ≤ 7) (hk : kind = 1 ∨ kind = 2) (hp : kind = 1 → part = 0) :
    s.credInstall val true = (stOk, (s.modMod fun m => { m with
      sessions := m.sessions.filter fun t => t.slot != slot
      creds := tabSet m.creds slot { principal := if kind = 1 then .operator else .host, partition := part,
                                     secret := sliceBytes (Config.unwrapped val) 0 32 } }).logEvent .mod 1 0x000F 0
        (slot * 2 ^ 104 + kind * 2 ^ 100)) := by
  unfold State.credInstall
  rw [hf]
  dsimp only
  refine (if_neg ?_).trans ?_
  · rintro (h | h | h | h | ⟨h1, h⟩ | h)
    · exact h hl
    · omega
    · omega
    · exact h rfl
    · exact h (hp h1)
    · cases h
  · have h0 : kind ≠ 0 := by omega
    simp only [h0, if_false]

/-- R18: the module without a core pair. -/
def State.withoutPair (s : State) (pair : Nat) : State :=
  ((s.modMod fun m => { m with
      coresStopped := setIns m.coresStopped pair
      sessions := []
      dirCore := if m.dirCore = pair then 1 - pair else m.dirCore }).modSh .mod fun sh =>
    { sh with assemblies := [], snaps := [] }).logEvent .mod 2 0x0010 0 (pair * 2 ^ 104)

theorem coreStop_first {s : State} {pair : Nat} {v : State} (hp : pair < 2) (hc : s.mod.coresStopped = [])
    (hv : v = (s.withoutPair pair).report .mod 6 0 s.plane) :
    s.coreStop pair = if v.mod.coresStopped.length = 2 then v.selfFence.fenceOn else v := by
  rw [hv]
  exact if_neg (by rw [hc]; simp [Nat.not_le.mpr hp])

/-- Settles O14. -/
theorem sessionsAndCredentialsEnd : Obligations.SessionsAndCredentialsEnd := by
  refine ⟨?idle, ?blobs, ?credential, ?cores⟩
  case idle => exact fun s id t ht hd => ⟨_, next_congr (sessionIdle_ends ht hd), rfl, rfl, rfl, rfl, rfl⟩
  case blobs =>
    intro s p c key
    obtain ⟨u, hu⟩ : ∃ u, u = s.blobExpire p c key := ⟨_, rfl⟩
    have hsh : u.sh p = { s.sh p with
        assemblies := (s.sh p).assemblies.map fun b =>
          if b.ctx = c ∧ b.key = key ∧ b.at_ + 10000000000 ≤ s.ns then { b with expired := true, data := [] } else b
        snaps := (s.sh p).snaps.filter fun b => !(b.ctx == c && b.key == key && decide (b.at_ + 10000000000 ≤ s.ns)) } := by
      rw [hu]
      exact State.modSh_sh _ _ _
    have hout : u.out = s.out := by
      rw [hu]
      exact State.modSh_out _ _ _
    refine ⟨u, hu ▸ rfl, ?_, ?_, ?_, ?_, hout⟩ <;> rw [hsh]
    · intro b hb hctx hkey hat
      obtain ⟨b0, -, rfl⟩ := List.mem_map.mp hb
      by_cases hold : b0.ctx = c ∧ b0.key = key ∧ b0.at_ + 10000000000 ≤ s.ns
      · rw [if_pos hold]
        exact ⟨rfl, rfl⟩
      · rw [if_neg hold] at hctx hkey hat
        exact absurd ⟨hctx, hkey, hat⟩ hold
    · intro b hb hkeep
      refine List.mem_map.mpr ⟨b, hb, if_neg ?_⟩
      rintro ⟨h1, h2, h3⟩
      rcases hkeep with h | h | h
      · exact h h1
      · exact h h2
      · omega
    · intro b
      have hkept : (!(b.ctx == c && b.key == key && decide (b.at_ + 10000000000 ≤ s.ns))) = true ↔
          b.ctx ≠ c ∨ b.key ≠ key ∨ s.ns < b.at_ + 10000000000 := by
        simp only [Bool.not_eq_true', Bool.and_eq_false_iff, beq_eq_false_iff_ne, decide_eq_false_iff_not, Nat.not_le, or_assoc]
      rw [List.mem_filter, hkept]
  case credential =>
    intro s a val slot kind part hd hl hf hs hk hp
    have hw := (State.writeEntry_of (fun s => s.dirApply .mod a 0x830002 val { DirAux.none_ with unwrapOk := true }) hd).trans
      (congrArg (dirAnswer .mod a.ctx) ((dirApply_credential hl).trans (credInstall_stored hl hf hs hk hp)))
    refine ⟨_, next_congr hw, tabGet_tabSet_same _ _ _, fun j hj => tabGet_tabSet_other _ _ hj, fun t ht => ?_, rfl, rfl⟩
    exact bne_iff_ne.mp (List.mem_filter.mp ht).2
  case cores =>
    intro s pair hp hc hd
    refine ⟨s.withoutPair pair, _, rfl, next_congr (coreStop_first hp hc rfl), if_pos hd, ?_, rfl, rfl, rfl, rfl, rfl, rfl⟩
    show setIns s.mod.coresStopped pair = [pair]
    rw [hc]
    rfl

/-! ### The sideband -/

section
variable {s : State} {p : Part}

theorem smbAnswer_short {cmd : Nat} {sent : List Byte} {st : Nat} {v : List Byte} {t : State} (hon : s.smbOn p = true) (hl : v.length ≤ 250) :
    s.smbAnswer p cmd sent (t, st, v) = t.emit (.smbus p ((BitVec.ofNat 8 st :: v) ++ [BitVec.ofNat 8 (crc8 (s.smbSent p cmd sent ++
      [BitVec.ofNat 8 (2 * s.smbAddr p + 1), BitVec.ofNat 8 (v.length + 1), BitVec.ofNat 8 st] ++ v))])) := by
  unfold State.smbAnswer
  dsimp only
  rw [if_neg (show ¬ smbMost < v.length from Nat.not_lt.mpr hl), if_pos hon]
  simp only [List.length_cons, List.append_assoc, List.cons_append, List.nil_append]

theorem smbWriteWith_right {f : State → Nat × State} (hon : s.smbOn p = true) :
    s.smbWriteWith p true f = (f s).2.modSh p fun sh => { sh with smbStatus := (f s).1 } :=
  if_neg (by rw [hon]; decide)

theorem smbWriteWith_wrong {f : State → Nat × State} (hon : s.smbOn p = true) :
    s.smbWriteWith p false f = s.modSh p fun sh => { sh with smbStatus := stPec } :=
  if_neg (by rw [hon]; decide)

/-- R337: the bytes of a snapshot that is still held. -/
theorem segRead_held {a : Access} {key off n : Nat} {b : Blob} (hd : dirCheck p a key false s = 0) (ho : 0 < off)
    (hb : blobOf (s.sh p).snaps a.ctx key = some b) (he : b.expired = false) (ht : s.ns < b.at_ + 10000000000) (hl : off ≤ b.data.length) :
    s.segRead p a key off n = (s, stOk, (b.data.drop off).take n) := by
  unfold State.segRead
  dsimp only
  rw [if_neg (by omega), hd, hb]
  refine (if_neg ?_).trans (if_neg (Nat.not_lt.mpr hl))
  rw [he]
  rintro (h | h)
  · cases h
  · exact absurd h (Nat.not_le.mpr ht)

end

/-- Settles O15: an answer is what the Directory reads, within the bytes of a sideband read; a write is its PEC's. -/
theorem sidebandTransfers : Obligations.SidebandTransfers := by
  intro s p hon
  refine ⟨?read, ?write, ?wrong, ?segment, ?blob, ?status⟩
  case read =>
    intro key e v he hd hv hl
    refine ⟨_, next_congr ?_, rfl⟩
    unfold State.smbRead
    rw [dirRead_value hd he hv, smbAnswer_short hon hl]
  case write =>
    intro key val
    refine nextOn_congr p ?_
    unfold State.smbWrite
    rw [beq_self_eq_true, smbWriteWith_right hon]
  case wrong =>
    intro key val pec hp
    refine nextOn_congr p ?_
    unfold State.smbWrite
    rw [beq_eq_false_iff_ne.mpr hp, smbWriteWith_wrong hon]
  case segment =>
    intro key off data
    refine nextOn_congr p ?_
    unfold State.smbSegWrite
    rw [beq_self_eq_true, smbWriteWith_right hon]
  case blob =>
    intro key off n b _ hd ho hn hb he ht hl
    have hread : s.segRead p smbAccess key off (min n smbMost) = (s, stOk, (b.data.drop off).take n) := by
      rw [segRead_held hd ho hb he ht hl, show min n smbMost = n from Nat.min_eq_left hn]
    have hlen : ((b.data.drop off).take n).length ≤ 250 := by
      rw [List.length_take]
      omega
    have hans := (congrArg (s.smbAnswer p 0x13 (beBytes 3 key ++ beBytes 4 off ++ [BitVec.ofNat 8 n])) hread).trans
      (smbAnswer_short hon hlen)
    exact ⟨_, _, next_congr hans, rfl, by cases p <;> rfl, rfl⟩
  case status => exact next_congr (if_pos hon)

end Sys2Proof.Machine
end

section
/-! PROOFS. Log and counter controls (R340, R388, R389, R398), the input and the breaker (R342 to R345), power states (R347 to
R353), the cap (R355, R356, R360), power control and temperature (R355 to R362, R400) and the crystal (R364, R365). -/

namespace Sys2Proof.Machine

/-! ### Log and counters -/

theorem ackSequence_held {s : State} {p : Part} {a : Access} {val : List Byte} {x : DirAux} (hl : val.length = 4)
    (hn : beNat val ≤ (s.sh p).log.next) :
    s.dirApply p a 0xA80003 val x = (stOk, s.modSh p fun sh => { sh with log := { sh.log with acked := beNat val } }) :=
  (dirApply_ackSequence (wholeRange hl rfl)).trans (if_neg (Nat.not_lt.mpr hn))

theorem snapshot_due {s : State} {p : Part} (h0 : s.epochOf p % max 1 (s.reg p 0x901001) = 0)
    (hb : (s.sh p).ctr.bankTime = 0 ∨ (s.sh p).ctr.bankTime < s.epochOf p * 1000000) :
    s.snapshot p = s.modCtr p fun c =>
      { c with bank := c.live, bankTime := s.epochOf p * 1000000, bankUnlocked := !s.locked p } :=
  if_neg (by
    rintro (h | ⟨h1, h2⟩)
    · exact h h0
    · omega)

/-- R388: the counters of a group instance once the chain mask `v` is in force. -/
def Counters.chained (c : Counters) (k v : Nat) : Counters :=
  { c.clear k (fun i => bit (v % 2 ^ 64 ^^^ tabGetD c.chain k 0) i || (decide (0 < i) && bit (v % 2 ^ 64 ^^^ tabGetD c.chain k 0) (i - 1))) with
    chain := tabPut c.chain k (v % 2 ^ 64) 0
    pendChain := tabDel c.pendChain k }

theorem chainEffective_due {s : State} {p : Part} {g inst v : Nat} (hp : tabGet (s.sh p).ctr.pendChain (g * 65536 + inst) = some v)
    (hv : v / 2 ^ 64 ≤ s.epochOf p) (hr : tabGet (s.sh p).ctr.pendReset (g * 65536 + inst) = none) :
    s.chainEffective p g inst = s.modCtr p fun _ => (s.sh p).ctr.chained (g * 65536 + inst) v := by
  have hmod : (s.modCtr p fun c => { c.clear (g * 65536 + inst) (fun i =>
      bit (v % 2 ^ 64 ^^^ tabGetD (s.sh p).ctr.chain (g * 65536 + inst) 0) i ||
        (decide (0 < i) && bit (v % 2 ^ 64 ^^^ tabGetD (s.sh p).ctr.chain (g * 65536 + inst) 0) (i - 1))) with
      chain := tabPut c.chain (g * 65536 + inst) (v % 2 ^ 64) 0
      pendChain := tabDel c.pendChain (g * 65536 + inst) }) =
      s.modCtr p fun _ => (s.sh p).ctr.chained (g * 65536 + inst) v := by cases p <;> rfl
  unfold State.chainEffective
  dsimp only
  rw [hp]
  dsimp only
  rw [if_neg (Nat.not_lt.mpr hv), hmod]
  have hnone : tabGet ((s.modCtr p fun _ => (s.sh p).ctr.chained (g * 65536 + inst) v).sh p).ctr.pendReset (g * 65536 + inst) = none := by
    unfold State.modCtr
    rw [State.modSh_sh]
    exact hr
  rw [hnone]

theorem groupIndex_known {s : State} {p : Part} {c : Ctx} {val : List Byte} (hl : val.length = 2) (hg : (groupShape p (beNat val)).isSome = true) :
    s.groupIndex p c val = (stOk, (s.setSel p c 0x900001 (beNat val)).setSel p c 0x900002 0) := by
  refine if_neg ?_
  rintro (h | h)
  · exact h hl
  · rw [Option.isNone_iff_eq_none.mp h] at hg
    cases hg

theorem sel_setSel_same (s : State) (p : Part) (c : Ctx) (key v : Nat) : (s.setSel p c key v).sel p c key = v := by
  unfold State.setSel State.sel
  rw [State.modSh_sh]
  exact tabGetD_tabPut_same _ _ _ _

theorem sel_setSel_other (s : State) (p : Part) (c : Ctx) {key k : Nat} (v : Nat) (h : k ≠ key) : (s.setSel p c key v).sel p c k = s.sel p c k := by
  unfold State.setSel State.sel
  rw [State.modSh_sh]
  exact tabGetD_tabPut_default _ _ _ _ (by omega)

/-- Settles O16. -/
theorem logAndCounterControls : Obligations.LogAndCounterControls := by
  refine ⟨?ack, ?snapshot, ?chain, ?group⟩
  case ack =>
    intro s p a val hd hl hn
    have hw := write_answer hd (ackSequence_held hl hn)
    cases p <;> exact ⟨_, hw, rfl, rfl, rfl, rfl, rfl⟩
  case snapshot =>
    intro s p h0 hb
    have hw := snapshot_due h0 hb
    cases p <;> exact ⟨_, next_congr hw, rfl, rfl, rfl, rfl, rfl⟩
  case chain =>
    intro s p g inst v hp hv hr
    have hw := chainEffective_due hp hv hr
    have hsh : ((s.modCtr p fun _ => (s.sh p).ctr.chained (g * 65536 + inst) v).sh p) =
        { s.sh p with ctr := (s.sh p).ctr.chained (g * 65536 + inst) v } := State.modSh_sh _ _ _
    refine ⟨_, next_congr hw, ?_, ?_, ?_, State.modSh_out _ _ _⟩ <;> rw [hsh]
    · exact tabGetD_tabPut_same _ _ _ _
    · exact tabGet_tabDel_same _ _
  case group =>
    intro s p a val hd hl hg
    have hw := write_answer hd ((dirApply_groupIndex (wholeRange hl rfl)).trans (groupIndex_known (c := a.ctx) hl hg))
    refine ⟨_, hw, ?_, ?_, ?_, ?_⟩
    · exact (sel_setSel_other _ p a.ctx 0 (by decide)).trans (sel_setSel_same ..)
    · exact sel_setSel_same ..
    · cases p <;> rfl
    · cases p <;> rfl

/-! ### The input and the breaker -/

theorem trySoft_off {s : State} (hin : s.mod.power.inEn = true) (hb : s.mod.power.inputBad = false) (hl : s.mod.power.latched = false)
    (hr : s.mod.power.retryAt = none) (hst : s.mod.power.state = 4) (hs : s.mod.power.soft = none) (hboot : s.mod.power.booting = false) :
    s.trySoft = s.modPower fun p => { p with soft := some s.ns } := by
  refine if_pos ?_
  rw [hin, hb, hl, hr, hst, hs, hboot]
  decide

/-- R345: the module Off, with the cause of its stop. -/
def State.stopped (s : State) (cause : Nat) : State :=
  (s.powerLost 4).modPower fun p => { p with stopCause := cause, soft := none }

theorem goOff_on {s : State} (c : Nat) (h : s.mod.power.state ≤ 3) : s.goOff c = s.stopped c :=
  if_neg (by rintro ⟨h4, -⟩; omega)

theorem voltageTrip_stops {s : State} {mV : Nat} (h : s.mod.power.state ≤ 3) (hv : 10000 ≤ mV) (hout : mV < 54000 ∨ 74000 < mV) :
    s.voltageTrip mV = (s.stopped (if mV < 54000 then 1 else 2)).modPower fun p =>
      { p with mV := mV, inputBad := true, overTrip := p.overTrip || decide (74000 < mV) } := by
  refine (if_neg (by omega)).trans ((if_neg (by omega)).trans ?_)
  rw [goOff_on _ h]

/-- R344: the trips of the breaker within 60 s, with the one now. -/
def State.tripsNow (s : State) : List Nat := (s.mod.power.trips.filter fun t => decide (s.ns < 60000000000 + t)) ++ [s.ns]

theorem breakerTrip_stops {s : State} {mA : Nat} (hm : 75000 < mA) (h : s.mod.power.state ≤ 3) {latch : Bool}
    (hl : latch = decide (3 ≤ s.tripsNow.length)) :
    s.breakerTrip mA = ((s.stopped 3).modPower fun p =>
      { p with mA := mA, trips := s.tripsNow, latched := latch, retryAt := if latch then none else some (1000000000 + s.ns) }).mgCount 17 := by
  refine (if_neg (by omega)).trans ?_
  rw [goOff_on _ h, hl]
  rfl

theorem tripsNow_length (s : State) : s.tripsNow.length = (s.mod.power.trips.filter fun t => decide (s.ns < 60000000000 + t)).length + 1 :=
  List.length_append

/-- Settles O17: a stop is `goOff` of a module that is not Off; a start is `trySoft`. -/
theorem inputStartsAndStops : Obligations.InputStartsAndStops := by
  refine ⟨?assert, ?permitted, ?complete, ?deassert, ?under, ?above, ?first, ?third, ?retry⟩
  case assert =>
    intro s hb hl hr hst hs hboot
    exact next_congr (trySoft_off (s := s.modPower fun p => { p with inEn := true }) rfl hb hl hr hst hs hboot)
  case permitted =>
    intro s mV hlo hhi hin hl hr hst hs hboot
    have hok : (decide (57600 ≤ mV ∧ mV ≤ 74000) && (!s.mod.power.overTrip || decide (mV < 72000))) = true := by
      have h1 : 57600 ≤ mV ∧ mV ≤ 74000 := by omega
      simp [h1, hhi]
    exact next_congr ((if_pos hok).trans (trySoft_off
      (s := (s.modPower fun p => { p with mV := mV }).modPower fun p => { p with inputBad := false, overTrip := false })
      hin rfl hl hr hst hs hboot))
  case complete =>
    intro s t hs
    have hdone : s.softDone true = (s.modPower fun p => { p with soft := none }).startBoot := by
      unfold State.softDone
      rw [hs]
      rfl
    exact ⟨_, next_congr hdone, rfl, rfl, rfl, rfl, rfl, rfl, rfl⟩
  case deassert =>
    intro s h
    have hoff : s.inEnOff = (s.stopped 7).modPower fun p => { p with inEn := false, latched := false, retryAt := none, trips := [] } := by
      unfold State.inEnOff
      rw [goOff_on 7 h]
    exact ⟨_, next_congr hoff, rfl, rfl, rfl, rfl, rfl, rfl, rfl, rfl, rfl, rfl⟩
  case under =>
    intro s mV h hlo hhi
    exact ⟨_, next_congr (voltageTrip_stops h hlo (.inl hhi)), rfl, if_pos hhi, rfl, rfl, rfl, rfl, rfl, rfl⟩
  case above =>
    intro s mV h hhi
    refine ⟨_, next_congr (voltageTrip_stops h (by omega) (.inr hhi)), rfl, if_neg (by omega), ?_, rfl, rfl, rfl⟩
    exact Bool.or_eq_true_iff.mpr (.inr (decide_eq_true hhi))
  case first =>
    intro s mA hm h hfew
    have hl : false = decide (3 ≤ s.tripsNow.length) := by
      rw [tripsNow_length]
      exact (decide_eq_false (by omega)).symm
    exact ⟨_, next_congr (breakerTrip_stops hm h hl), rfl, rfl, rfl, rfl, rfl, rfl, rfl⟩
  case third =>
    intro s mA hm h hmany
    have hl : true = decide (3 ≤ s.tripsNow.length) := by
      rw [tripsNow_length]
      exact (decide_eq_true (by omega)).symm
    exact ⟨_, next_congr (breakerTrip_stops hm h hl), rfl, rfl, rfl, rfl, rfl, rfl, rfl⟩
  case retry =>
    intro s t hr ht hin hb hl hst hs hboot
    have hgo : s.breakerRetry = (s.modPower fun p => { p with retryAt := none }).trySoft := by
      unfold State.breakerRetry
      rw [hr]
      exact if_pos ht
    exact next_congr (hgo.trans (trySoft_off (s := s.modPower fun p => { p with retryAt := none }) hin hb hl rfl hst hs hboot))

/-! ### Power states -/

theorem request_answer {s : State} {a : Access} {v : Byte} {c : Nat} {t : State} (hd : dirCheck .mod a 0x200002 true s = 0)
    (hv : beNat [v] ≤ 3) (h : s.requestState (beNat [v]) = (c, t)) :
    (.next (s.writeNamed .mod a 0x200002 [v]) : Answer) = .next (t.emit (.dir .mod a.ctx c [])) :=
  write_answer hd ((dirApply_request ⟨rfl, Nat.zero_le _, hv⟩).trans h)

theorem enterRest_ports (s : State) : ∀ q ∈ s.enterRest.mod.sh.ports, q.2.state = 0 := by
  intro q hq
  obtain ⟨q0, -, rfl⟩ := List.mem_map.mp hq
  rfl

/-- Settles O18. -/
theorem powerStatesFollowRequests : Obligations.PowerStatesFollowRequests := by
  refine ⟨?run, ?rest, ?fallow, ?busy, ?tests, ?wake, ?brown⟩
  case run =>
    intro s a hd h2
    exact request_answer (v := 0#8) hd (by decide) (if_pos h2)
  case rest =>
    intro s a hd h1 hports
    have hgo : s.requestState (beNat [2#8]) = (stOk, s.enterRest) := by
      refine if_pos ⟨h1, hports.imp_right fun h => ?_⟩
      rw [h]
      exact Bool.false_ne_true
    exact ⟨_, request_answer hd (by decide) hgo, rfl, rfl, rfl, rfl, enterRest_ports s⟩
  case fallow =>
    intro s a hd h2
    have hgo : s.requestState (beNat [3#8]) = (stOk, s.enterFallow) := if_pos h2
    exact ⟨_, request_answer hd (by decide) hgo, rfl, rfl, rfl, rfl, rfl, rfl⟩
  case busy =>
    intro s a v hd h2
    exact ⟨request_answer (v := 2#8) hd (by decide) (if_neg (by rintro ⟨h, -⟩; omega)),
      request_answer (v := 0#8) hd (by decide) (if_neg (by omega))⟩
  case tests =>
    intro s results h2 he
    exact ⟨_, next_congr (if_pos ⟨h2, he⟩), rfl, rfl, rfl⟩
  case wake => exact fun s h3 hb => ⟨_, next_congr (if_pos ⟨h3, hb, rfl⟩), rfl, rfl, h3, rfl, rfl⟩
  case brown => exact fun s mA h3 hm => ⟨_, next_congr (if_pos ⟨h3, hm⟩), rfl, rfl, rfl, rfl, rfl⟩

/-! ### The cap -/

theorem capStep_ahead {s : State} {val : List Byte} (hl : val.length = 16) (h0 : bits (beNat val) 31 0 = 0)
    (ht : bits (beNat val) 127 64 % 1000 = 0) (hlo : 1800 ≤ bits (beNat val) 63 32) (hhi : bits (beNat val) 63 32 ≤ 3600)
    (hf : s.rackNs .mod < bits (beNat val) 127 64) :
    s.capStep val = (stOk, (s.setReg .mod 0x201001 (beNat val)).renewLease.modPower fun p =>
      { p with step := some (bits (beNat val) 127 64, bits (beNat val) 63 32) }) := by
  unfold State.capStep
  dsimp only
  rw [if_neg (by omega), decide_eq_false (Nat.not_le.mpr hf)]
  rfl

/-- Settles O19. -/
theorem capStepsAndLease : Obligations.CapStepsAndLease := by
  refine ⟨?step, ?effective, ?refresh, ?lease, ?hold⟩
  case step =>
    intro s a val hd hl h0 ht hlo hhi hf
    exact ⟨_, write_answer hd ((dirApply_cap hl).trans (capStep_ahead hl h0 ht hlo hhi hf)), rfl, rfl, rfl, rfl, rfl,
      Shared.reg_setReg_same _ _ _ _, rfl, rfl, rfl⟩
  case effective =>
    intro s t cap hs ht
    refine next_congr ?_
    unfold State.capEffective
    rw [hs]
    exact if_pos ht
  case refresh => exact fun s a hd => write_answer hd (dirApply_lease (by decide))
  case lease =>
    intro s hst hsafe hhold ht
    refine next_congr (if_pos ⟨hst, ?_, ?_, ht⟩)
    · rw [hsafe]
      exact Bool.false_ne_true
    · rw [hhold]
      rfl
  case hold =>
    intro s t hh ht
    refine next_congr ?_
    unfold State.holdExpiry
    rw [hh]
    exact if_pos ht

end Sys2Proof.Machine
end

section
/-! PROOFS. Power control and temperature (R355 to R362, R400), the crystal (R364, R365), clock domains (R367 to R372) and
alignment (R271, R272). -/

namespace Sys2Proof.Machine

/-! ### Power control and temperature -/

theorem mgCount_keeps {β : Type} (s : State) (n : Nat) (g : State → β)
    (hl : ∀ (t : State) (f : EventLog → EventLog), g (t.modSh .mod fun sh => { sh with log := f sh.log }) = g t)
    (hc : ∀ (t : State) (f : Counters → Counters), g (t.modSh .mod fun sh => { sh with ctr := f sh.ctr }) = g t) :
    g (s.mgCount n) = g s := State.count_keeps s g .mod hl hc _ _ _ _

/-- R359: the deficit changes no reading, level or target. -/
theorem deficit_keeps (p : Power) : p.deficit.state = p.state ∧ p.deficit.mV = p.mV ∧ p.deficit.mA = p.mA ∧
    p.deficit.means = p.means ∧ p.deficit.levels = p.levels := by
  unfold Power.deficit
  dsimp only
  split <;> exact ⟨rfl, rfl, rfl, rfl, rfl⟩

/-- R355: the target one half watt nearer to a limit. -/
def stepTo (target limit : Nat) : Nat := if target < limit then target + 1 else if limit < target then target - 1 else target

theorem stepTo_near (t l : Nat) : stepTo t l = t ∨ stepTo t l = t + 1 ∨ stepTo t l + 1 = t := by
  unfold stepTo
  split
  · exact .inr (.inl rfl)
  · split
    · exact .inr (.inr (by omega))
    · exact .inl rfl

/-- R355: the readings of a tick. -/
def State.readings (s : State) (watts mV mA : Nat) : State :=
  s.modPower fun p => { p with mV := mV, mA := mA, means := lastN 10 (p.means ++ [watts]) }

/-- R355, R359: the limit, the slew of the target and the deficit after the readings. -/
def State.slewed (w : State) : State :=
  w.modPower fun p => { p.deficit with source := w.powerLimit.2, target := stepTo p.target w.powerLimit.1 }

theorem powerTick_rest {s : State} {watts mV mA : Nat} (h : s.mod.power.state = 2) :
    s.powerTick watts mV mA = (s.readings watts mV mA).slewed.mgCount 18 ∨
    s.powerTick watts mV mA = (s.readings watts mV mA).slewed := by
  obtain ⟨v, hv⟩ : ∃ v, v = (s.readings watts mV mA).slewed := ⟨_, rfl⟩
  have hstate : v.mod.power.state = 2 := by
    rw [hv]
    exact (deficit_keeps _).1.trans h
  have hcount : (v.mgCount 18).mod.power.state = 2 :=
    (mgCount_keeps v 18 (·.mod.power.state) (fun _ _ => rfl) fun _ _ => rfl).trans hstate
  have heq : s.powerTick watts mV mA =
      if (if v.mod.power.inDeficit ∧ ¬ (s.readings watts mV mA).mod.power.inDeficit then v.mgCount 18 else v).mod.power.state ≤ 1 then
        (if v.mod.power.inDeficit ∧ ¬ (s.readings watts mV mA).mod.power.inDeficit then v.mgCount 18 else v).ladder
      else if v.mod.power.inDeficit ∧ ¬ (s.readings watts mV mA).mod.power.inDeficit then v.mgCount 18 else v := by
    rw [hv]
    exact if_neg (by omega)
  rw [← hv, heq]
  by_cases hc : v.mod.power.inDeficit ∧ ¬ (s.readings watts mV mA).mod.power.inDeficit
  · rw [if_pos hc, if_neg (by omega)]
    exact .inl rfl
  · rw [if_neg hc, if_neg (by omega)]
    exact .inr rfl

theorem levelEffective_due {s : State} {l t : Nat} (hd : s.mod.power.decided = some (l, t)) (ht : t ≤ s.rackNs .mod) (h : s.mod.power.state ≤ 1)
    {u : State} (hu : u = s.modPower fun p => { p with levels := p.levels ++ [l], decided := none, state := 1 }) :
    s.levelEffective = if l = 3 ∨ l = 4 then u.alignStop else State.powerWidth u l true := by
  unfold State.levelEffective
  rw [hd, hu]
  exact if_neg (by omega)

/-- R361: the thermal limit of an inlet with no junction hot and every sensor in range. -/
theorem thermalReading_cool {s : State} {inlet scd : Int} {hbm : List Int} (h : s.mod.power.state ≤ 2) (hl : s.mod.power.sensorLatch = false)
    (hlo : -10000 ≤ inlet) (hhi : inlet ≤ 100000) (hscd : scd < 100000) (hhbm : (hbm.any fun t => decide (95000 ≤ t)) = false) :
    s.thermalReading inlet scd hbm = s.modPower fun p => { p with
      inlet := inlet
      junction := hbm.foldl max scd
      hot := none
      sensorLatch := false
      thermal := min (inletLimit inlet) 3600 } := by
  have hcool : (decide (100000 ≤ scd) || hbm.any fun t => decide (95000 ≤ t)) = false := by
    rw [hhbm, decide_eq_false (by omega)]
    rfl
  have hlatch : (s.mod.power.sensorLatch || decide (inlet < -10000 ∨ 100000 < inlet)) = false := by
    rw [hl, decide_eq_false (by omega)]
    rfl
  unfold State.thermalReading State.modPower State.modMod
  rw [if_neg (by omega)]
  dsimp only
  rw [hcool, hlatch]
  rfl

/-- R400: an inlet outside the range of its sensor holds the thermal limit low. -/
theorem thermalReading_range {s : State} {inlet scd : Int} {hbm : List Int} (h : s.mod.power.state ≤ 2)
    (hout : inlet < -10000 ∨ 100000 < inlet) : ∃ f : Power → Power, s.thermalReading inlet scd hbm = s.modPower f ∧
      (f s.mod.power).sensorLatch = true ∧ (f s.mod.power).thermal ≤ 1800 ∧ (f s.mod.power).state = s.mod.power.state := by
  refine ⟨_, if_neg (by omega), ?_, ?_, rfl⟩
  · exact Bool.or_eq_true_iff.mpr (.inr (decide_eq_true hout))
  · have hlatch : (s.mod.power.sensorLatch || decide (inlet < -10000 ∨ 100000 < inlet)) = true :=
      Bool.or_eq_true_iff.mpr (.inr (decide_eq_true hout))
    dsimp only
    rw [hlatch]
    exact Nat.min_le_left _ _

/-- Settles O20. -/
theorem powerControlAndTemperature : Obligations.PowerControlAndTemperature := by
  refine ⟨?tick, ?ladder, ?reading, ?range, ?trip⟩
  case tick =>
    intro s watts mV mA h
    obtain ⟨w, hw⟩ : ∃ w, w = s.readings watts mV mA := ⟨_, rfl⟩
    obtain ⟨-, hmV, hmA, hmeans, hlevels⟩ := deficit_keeps w.mod.power
    have hkeep : w.mod.power.mV = mV ∧ w.mod.power.mA = mA ∧ w.mod.power.means = lastN 10 (s.mod.power.means ++ [watts]) ∧
        w.mod.power.levels = s.mod.power.levels ∧ w.mod.power.target = s.mod.power.target ∧ w.mod.mem = s.mod.mem ∧ w.ep = s.ep ∧
        w.out = s.out := by
      rw [hw]
      exact ⟨rfl, rfl, rfl, rfl, rfl, rfl, rfl, rfl⟩
    obtain ⟨h1, h2, h3, h4, h5, h6, h7, h8⟩ := hkeep
    have hnear := stepTo_near w.mod.power.target w.powerLimit.1
    have hslew : w.slewed.mod.power.mV = mV ∧ w.slewed.mod.power.mA = mA ∧
        w.slewed.mod.power.means = lastN 10 (s.mod.power.means ++ [watts]) ∧ w.slewed.mod.power.levels = s.mod.power.levels ∧
        (w.slewed.mod.power.target = s.mod.power.target ∨ w.slewed.mod.power.target = s.mod.power.target + 1 ∨
          w.slewed.mod.power.target + 1 = s.mod.power.target) ∧ w.slewed.mod.mem = s.mod.mem ∧ w.slewed.ep = s.ep ∧
        w.slewed.out = s.out :=
      ⟨hmV.trans h1, hmA.trans h2, hmeans.trans h3, hlevels.trans h4, h5 ▸ hnear, h6, h7, h8⟩
    rcases powerTick_rest (watts := watts) (mV := mV) (mA := mA) h with hq | hq <;> rw [← hw] at hq
    · refine ⟨_, next_congr hq, ?_⟩
      rw [mgCount_keeps w.slewed 18 (·.mod.power) (fun _ _ => rfl) fun _ _ => rfl,
        mgCount_keeps w.slewed 18 (·.mod.mem) (fun _ _ => rfl) fun _ _ => rfl,
        mgCount_keeps w.slewed 18 (·.ep) (fun _ _ => rfl) fun _ _ => rfl,
        mgCount_keeps w.slewed 18 (·.out) (fun _ _ => rfl) fun _ _ => rfl]
      exact hslew
    · exact ⟨_, next_congr hq, hslew⟩
  case ladder =>
    intro s l t hd ht h
    exact ⟨_, next_congr (levelEffective_due hd ht h rfl), rfl, rfl, rfl, rfl, rfl, rfl⟩
  case reading =>
    intro s inlet scd hbm h hl hlo hhi hscd hhbm
    exact ⟨_, next_congr (thermalReading_cool h hl hlo hhi hscd hhbm), rfl, rfl, rfl, rfl, rfl, rfl, rfl, rfl, rfl⟩
  case range =>
    intro s inlet scd hbm h hout
    obtain ⟨f, hf, hlatch, hlim, hstate⟩ := thermalReading_range (scd := scd) (hbm := hbm) h hout
    exact ⟨s.modPower f, next_congr hf, hlatch, hlim, hstate, rfl, rfl⟩
  case trip => exact fun s inlet scd hbm h hhot => ⟨_, next_congr (if_pos ⟨h, hhot⟩), rfl, rfl, rfl, rfl, rfl, rfl, rfl⟩

/-! ### The crystal -/

section
variable {s : State} {p : Part} {d : Nat}

theorem mem_refs {d : Nat} : d ∈ List.range (domainCount p) ↔ d < domainCount p := List.mem_range

theorem refsReturn_moves (hd : d < domainCount p) (hr : (s.domain p d).ref ≠ domainRef p d) :
    ((s.refsReturn p).domain p d).target = some (domainRef p d) := by
  unfold State.refsReturn
  rw [muxStart_fold_mem p (domainRef p) _ List.nodup_range s d (mem_refs.mpr hd)]
  exact target_muxStart s p d _ hr

theorem refsReturn_stays (h : d < domainCount p → (s.domain p d).ref = domainRef p d) : (s.refsReturn p).domain p d = s.domain p d := by
  unfold State.refsReturn
  by_cases hd : d < domainCount p
  · rw [muxStart_fold_mem p (domainRef p) _ List.nodup_range s d (mem_refs.mpr hd)]
    exact muxStart_same_reference s p d _ (h hd)
  · exact muxStart_fold_other p (domainRef p) _ s d fun hm => hd (mem_refs.mp hm)

/-- R365: the crystal of a part is in state `n`. -/
def State.crystalAt (s : State) (p : Part) (n : Nat) : State := s.modSh p fun sh => { sh with clk := { sh.clk with crystal := n } }

theorem crystalAt_keeps (s : State) (p : Part) (n : Nat) : ((s.crystalAt p n).sh p).clk.crystal = n ∧
    ((s.crystalAt p n).sh p).regs = (s.sh p).regs ∧ ((s.crystalAt p n).sh p).clk.domains = (s.sh p).clk.domains ∧
    ((s.crystalAt p n).sh p).log = (s.sh p).log ∧ (s.crystalAt p n).out = s.out := by
  cases p <;> exact ⟨rfl, rfl, rfl, rfl, rfl⟩

theorem crystalAt_domain (s : State) (p : Part) (n d : Nat) : (s.crystalAt p n).domain p d = s.domain p d := by
  cases p <;> rfl

end

/-- Settles O21. -/
theorem crystalStartsReferences : Obligations.CrystalStartsReferences := by
  refine ⟨?stable, ?late, ?trim⟩
  case stable =>
    intro s p hc
    obtain ⟨hcrystal, hregs, -, -, hout⟩ := crystalAt_keeps s p 1
    obtain ⟨kout, kregs, kcrystal⟩ := muxStart_fold_keeps p (domainRef p) (List.range (domainCount p)) (s.crystalAt p 1)
    refine ⟨(s.crystalAt p 1).refsReturn p, next_congr (if_neg (not_not.mpr hc)), kcrystal.trans hcrystal, fun d hd hr => ?_, fun d hr => ?_,
      kregs.trans hregs, kout.trans hout⟩
    · exact refsReturn_moves hd (by rwa [crystalAt_domain])
    · exact (refsReturn_stays (by rwa [crystalAt_domain])).trans (crystalAt_domain ..)
  case late =>
    intro s p hc ht
    obtain ⟨hcrystal, -, hdomains, hlog, hout⟩ := crystalAt_keeps s p 2
    exact ⟨s.crystalAt p 2, next_congr (if_neg (by omega)), hcrystal, hdomains, hlog, hout⟩
  case trim =>
    intro s p kHz hc
    refine ⟨_, next_congr (if_neg (not_not.mpr hc)), ?_⟩
    cases p <;> exact ⟨rfl, rfl, rfl, rfl⟩

/-! ### Monitors, coasting, multiplexers -/

section
variable {s : State} {p : Part} {d : Nat}

theorem modDomain_out (s : State) (p : Part) (d : Nat) (f : Domain → Domain) : (s.modDomain p d f).out = s.out := by
  cases p <;> rfl

theorem modDomain_log (s : State) (p : Part) (d : Nat) (f : Domain → Domain) : ((s.modDomain p d f).sh p).log = (s.sh p).log := by
  cases p <;> rfl

theorem modDomain_locked (s : State) (p : Part) (d : Nat) (f : Domain → Domain) : (s.modDomain p d f).locked p = s.locked p := by
  cases p <;> rfl

theorem bothCount_locked (s : State) (p : Part) (i j : Nat) : (s.bothCount p i j).locked p = s.locked p :=
  State.bothCount_keeps s (·.locked p) p (fun _ _ => by cases p <;> rfl) (fun _ _ => by cases p <;> rfl) i j

/-- R370: what a window leaves of a domain whose reference is neither Stopped nor Out of range. -/
def Domain.measured (x : Domain) (flags kHz : Nat) : Domain :=
  { x with
    flags := setFlag (setFlag (setFlag x.flags 1 (bit flags 1)) 3 (bit flags 3)) 4 (bit flags 4)
    sticky := x.sticky ||| setFlag (setFlag (setFlag x.flags 1 (bit flags 1)) 3 (bit flags 3)) 4 (bit flags 4)
    kHz := kHz
    good := if (bit flags 3 || bit flags 4) then 0 else min 10 (x.good + 1) }

theorem monitorWindow_locked {flags kHz : Nat} (hd : d < domainCount p) (h1 : bit flags 1 = false) :
    s.monitorWindow p d flags kHz = s.modDomain p d fun x => x.measured flags kHz := by
  refine (if_neg (Nat.not_le.mpr hd)).trans (if_neg ?_)
  rintro ⟨-, h⟩
  rw [h1] at h
  cases h

/-- R371: a coasting domain at its coast frequency. -/
def Domain.coasting (x : Domain) (f : Nat) : Domain :=
  { x with flags := setFlag x.flags 0 true, sticky := setFlag x.sticky 0 true, kHz := f, integerN := false }

theorem coastKHz_ep {f : Nat} (h : coastKHz .ep d = some f) : d = 0 ∨ d = 10 := by
  unfold coastKHz at h
  dsimp only at h
  by_contra hd
  rw [if_neg (by omega), if_neg (by omega)] at h
  cases h

theorem coastKHz_mod {f : Nat} (h : coastKHz .mod d = some f) : d < 99 := by
  refine Nat.lt_of_not_le fun hle => ?_
  unfold coastKHz at h
  dsimp only at h
  rw [if_neg (by omega), if_neg (by omega), if_neg (by omega), if_neg (by omega), if_neg (by omega), if_neg (by omega),
    if_neg (by omega)] at h
  cases h

theorem coastKHz_lt {f : Nat} (h : coastKHz p d = some f) : d < domainCount p := by
  cases p with
  | ep =>
    rcases coastKHz_ep h with rfl | rfl <;> decide
  | mod => exact Nat.lt_succ_of_lt (coastKHz_mod h)

/-- R371: the domains that coast outside alignment fall back on the internal oscillator. -/
theorem backupRef_internal {f : Nat} (h : coastKHz p d = some f) (hmod : p = .mod → 69 ≤ d ∧ (d < 93 ∨ 95 ≤ d)) :
    s.backupRef p d = some 0 := by
  cases p with
  | ep => exact if_pos (coastKHz_ep h)
  | mod =>
    obtain ⟨hlo, heio⟩ := hmod rfl
    exact (if_neg (by omega)).trans ((if_neg (by omega)).trans ((if_neg (by omega)).trans (if_pos (coastKHz_mod h))))

theorem backupRef_covered (h : d < 68) : s.backupRef .mod d = some (if s.locked .mod then 3 else 0) := if_pos h

theorem pllCoast_link (hd : 1 ≤ d ∧ d ≤ 8) (h0 : bit (s.domain .ep d).flags 0 = false) (h3 : bit (s.domain .ep d).flags 3 = true) :
    s.pllCoast .ep d = s.linkLost (d - 1) := by
  refine (if_neg ?_).trans (if_pos ⟨rfl, hd⟩)
  rw [h0, h3]
  rintro (h | h | h)
  · exact absurd h (Nat.not_le.mpr (show d < 12 by omega))
  · cases h
  · exact h (.inl rfl)

/-- R371: the parts of a domain's coasting, of a domain that coasts and has a backup reference, and is no EIO domain. -/
theorem pllCoast_backup {f b : Nat} {u v : State} (hf : coastKHz p d = some f) (h0 : bit (s.domain p d).flags 0 = false)
    (h34 : bit (s.domain p d).flags 3 = true ∨ bit (s.domain p d).flags 4 = true) (hlink : ¬ (p = .ep ∧ 1 ≤ d ∧ d ≤ 8))
    (heio : ¬ (p = .mod ∧ 93 ≤ d ∧ d < 95)) (hu : u = s.modDomain p d fun x => x.coasting f)
    (hb : (u.bothCount p 37 20).backupRef p d = some b)
    (hv : v = if p = .mod then ((u.bothCount p 37 20).muxStart p d b).coveredLost d else (u.bothCount p 37 20).muxStart p d b) :
    s.pllCoast p d = if (s.domain p d).ref = 1 then v.crystalLost p else v := by
  have hgo : ¬ (domainCount p ≤ d ∨ bit (s.domain p d).flags 0 ∨ ¬ (bit (s.domain p d).flags 3 ∨ bit (s.domain p d).flags 4)) := by
    rintro (h | h | h)
    · exact absurd h (Nat.not_le.mpr (coastKHz_lt hf))
    · rw [h0] at h
      cases h
    · exact h h34
  unfold State.pllCoast
  dsimp only
  rw [if_neg hgo, if_neg hlink, hf]
  dsimp only
  rw [show (s.modDomain p d fun x =>
    { x with flags := setFlag x.flags 0 true, sticky := setFlag x.sticky 0 true, kHz := f, integerN := false }) = u from hu.symm, hb]
  dsimp only
  rw [if_neg heio, ← hv]
  exact if_congr beq_iff_eq rfl rfl

theorem pllRelock_backup (hd : d < domainCount p) (ht : (s.domain p d).target = none) (h0 : bit (s.domain p d).flags 0 = true)
    (hb : (s.backupRef p d).isSome = true) :
    s.pllRelock p d false = s.modDomain p d fun x => { x with flags := setFlag (setFlag x.flags 0 false) 1 false } := by
  refine (if_neg ?_).trans ((if_pos rfl).trans (if_pos ⟨h0, hb⟩))
  rw [ht]
  rintro (h | h)
  · exact absurd h (Nat.not_le.mpr hd)
  · cases h

theorem muxDone_domain {r : Nat} (ht : (s.domain p d).target = some r) : ((s.muxDone p d).domain p d).ref = r ∧
    ((s.muxDone p d).domain p d).target = none ∧ ((s.muxDone p d).domain p d).good = 0 := by
  unfold State.muxDone
  rw [domain_modDomain_same, ht]
  exact ⟨rfl, rfl, rfl⟩

theorem muxComplete_edges {r : Nat} (ht : (s.domain p d).target = some r) (h3 : bit (s.domain p d).flags 3 = false) :
    s.muxComplete p d = s.muxDone p d := by
  refine if_neg ?_
  rw [ht, h3]
  rintro (h | h) <;> cases h

theorem muxWatchdog_forced {r : Nat} (ht : (s.domain p d).target = some r) (hdue : (s.domain p d).since + s.regNow p 0x303002 * 5000 ≤ s.clock) :
    s.muxWatchdog p d false = (s.muxDone p d).bothCount p 38 21 := by
  refine (if_neg ?_).trans (if_neg Bool.false_ne_true)
  rw [ht]
  rintro (h | h)
  · cases h
  · exact absurd hdue (Nat.not_le.mpr h)

end

/-- Settles O22: each command rewrites its domain, then starts the multiplexer and counts. -/
theorem clockDomainsFollowMonitors : Obligations.ClockDomainsFollowMonitors := by
  refine ⟨?window, ?link, ?coast, ?covered, ?relock, ?mux, ?watchdog⟩
  case window =>
    intro s p d flags kHz hd h1 h3 h4
    have hself := domain_modDomain_same s p d fun x => x.measured flags kHz
    refine ⟨_, nextOn_congr p (monitorWindow_locked hd h1), ?_, ?_, ?_, ?_, fun e he => domain_modDomain_other s p d e _ he,
      modDomain_log .., modDomain_out ..⟩ <;> rw [hself]
    · rfl
    · show (if (bit flags 3 || bit flags 4) then 0 else min 10 ((s.domain p d).good + 1)) = _
      rw [h3, h4]
      rfl
    · rfl
    · rfl
  case link => exact fun s d h1 h8 h0 h3 => next_congr (pllCoast_link ⟨h1, h8⟩ h0 h3)
  case coast =>
    intro s p d f hf hmod h0 h34
    have hself := domain_modDomain_same s p d fun x => x.coasting f
    obtain ⟨u, hu⟩ : ∃ u, u = s.modDomain p d fun x => x.coasting f := ⟨_, rfl⟩
    have hv : (u.bothCount p 37 20).muxStart p d 0 =
        if p = .mod then ((u.bothCount p 37 20).muxStart p d 0).coveredLost d else (u.bothCount p 37 20).muxStart p d 0 := by
      by_cases hp : p = .mod
      · rw [if_pos hp]
        exact (if_pos (hmod hp).1).symm
      · rw [if_neg hp]
    have hlink : ¬ (p = .ep ∧ 1 ≤ d ∧ d ≤ 8) := by
      rintro ⟨rfl, h1, h8⟩
      have := coastKHz_ep hf
      omega
    have heio : ¬ (p = .mod ∧ 93 ≤ d ∧ d < 95) := by
      rintro ⟨hp, h1, h2⟩
      have := hmod hp
      omega
    have hcoast := pllCoast_backup hf h0 h34 hlink heio hu (backupRef_internal hf hmod) hv
    refine ⟨u, _, rfl, next_congr hcoast, ?_, ?_, ?_, fun e he => ?_, ?_⟩ <;> rw [hu]
    · rw [hself]
      rfl
    · rw [hself]
      exact bit_setFlag_zero _ h0
    · rw [hself]
      rfl
    · exact domain_modDomain_other s p d e _ he
    · exact modDomain_out ..
  case covered =>
    intro s d f hd hf h0 h34
    have hself := domain_modDomain_same s .mod d fun x => x.coasting f
    obtain ⟨u, hu⟩ : ∃ u, u = s.modDomain .mod d fun x => x.coasting f := ⟨_, rfl⟩
    have hlock : (u.bothCount .mod 37 20).locked .mod = s.locked .mod := by
      rw [bothCount_locked, hu, modDomain_locked]
    have hb : (u.bothCount .mod 37 20).backupRef .mod d = some (if s.locked .mod then 3 else 0) := by
      rw [backupRef_covered hd, hlock]
    have hcoast := pllCoast_backup hf h0 h34 (by rintro ⟨h, -⟩; cases h) (by omega) hu hb (if_pos rfl).symm
    refine ⟨u, _, rfl, next_congr hcoast, ?_, ?_, fun e he => ?_, ?_, ?_⟩ <;> rw [hu]
    · rw [hself]
      rfl
    · rw [hself]
      exact bit_setFlag_zero _ h0
    · exact domain_modDomain_other s .mod d e _ he
    · rfl
    · rfl
  case relock =>
    intro s p d hd ht h0 hb
    have hself := domain_modDomain_same s p d fun x => { x with flags := setFlag (setFlag x.flags 0 false) 1 false }
    refine ⟨_, next_congr (pllRelock_backup hd ht h0 hb), ?_, ?_, fun e he => domain_modDomain_other s p d e _ he, modDomain_out ..⟩ <;>
      rw [hself]
  case mux =>
    intro s p d r ht h3
    obtain ⟨href, htarget, hgood⟩ := muxDone_domain ht
    exact ⟨_, next_congr (muxComplete_edges ht h3), href, htarget, hgood, fun e he => domain_modDomain_other s p d e _ he, modDomain_out ..⟩
  case watchdog =>
    intro s p d r ht hdue
    obtain ⟨href, htarget, -⟩ := muxDone_domain ht
    exact ⟨_, nextOn_congr p (muxWatchdog_forced ht hdue), href, htarget, fun e he => domain_modDomain_other s p d e _ he, modDomain_out ..⟩

/-! ### Alignment -/

section
variable {s : State}

theorem alignRequest_eq {val : List Byte} (hl : val.length = 1) (h1 : beNat val = 1) : s.alignRequest val =
    if !s.locked .mod || !s.coveredOk then (stBusy, s)
    else (stOk, s.modMod fun m => { m with alignTry := 1, alignAt := 1000000 * s.nextEpoch .mod }) :=
  if_neg (by omega)

/-- R271: a covered PLL moves to the phase divider, in integer-N. -/
def State.toDivider (s : State) (d : Nat) : State := (s.modDomain .mod d fun x => { x with integerN := true }).muxStart .mod d 3

theorem toDivider_other {d e : Nat} (h : e ≠ d) : (s.toDivider d).domain .mod e = s.domain .mod e :=
  (domain_muxStart_other _ .mod d e 3 h).trans (domain_modDomain_other s .mod d e _ h)

theorem muxStart_integerN (p : Part) (d r : Nat) : ((s.muxStart p d r).domain p d).integerN = (s.domain p d).integerN := by
  by_cases h : (s.domain p d).ref = r
  · rw [muxStart_same_reference s p d r h]
  · unfold State.muxStart
    rw [if_neg h, domain_modDomain_same]

theorem toDivider_integerN (d : Nat) : ((s.toDivider d).domain .mod d).integerN = true := by
  unfold State.toDivider
  rw [muxStart_integerN, domain_modDomain_same]

theorem toDivider_keeps {β : Type} (g : State → β) (h : ∀ (t : State) (d : Nat) (f : Domain → Domain), g (t.modDomain .mod d f) = g t)
    (s : State) (d : Nat) : g (s.toDivider d) = g s := by
  unfold State.toDivider State.muxStart
  split
  · exact h ..
  · exact (h ..).trans (h ..)

theorem toDividers_domain (l : List Nat) (s : State) (e : Nat) :
    (e ∈ l ∨ (s.domain .mod e).integerN = true → ((l.foldl State.toDivider s).domain .mod e).integerN = true) ∧
    (e ∉ l → (l.foldl State.toDivider s).domain .mod e = s.domain .mod e) := by
  induction l generalizing s with
  | nil => exact ⟨fun h => h.resolve_left (List.not_mem_nil), fun _ => rfl⟩
  | cons d l ih =>
    obtain ⟨hin, hout⟩ := ih (s.toDivider d)
    refine ⟨fun h => hin ?_, fun h => ?_⟩
    · by_cases he : e = d
      · rw [he]
        exact .inr (toDivider_integerN d)
      · rw [toDivider_other he]
        exact h.imp_left fun hm => (List.mem_cons.mp hm).resolve_left he
    · rw [List.mem_cons, not_or] at h
      exact (hout h.2).trans (toDivider_other h.1)

/-- R271: an attempt that begins. -/
def State.attempt (s : State) : State :=
  (s.modMod fun m => { m with align := 1, alignTry := m.alignTry + 1, alignBad := [] }).modSh .mod fun sh =>
    { sh with clk := { sh.clk with returnAt := none } }

theorem alignStart_due (ht : s.mod.alignTry = 1 ∨ s.mod.alignTry = 4) (ha : s.mod.align ≠ 2) (hn : s.mod.alignAt ≤ s.rackNs .mod) :
    s.alignStart = (List.range 68).foldl State.toDivider s.attempt := by
  have hlost : s.alignLost 2 = s := if_pos ha
  refine (if_neg (by omega)).trans ?_
  rw [hlost]
  rfl

theorem alignPulse_due {l : List Nat} (ht : s.mod.alignTry = 2 ∨ s.mod.alignTry = 5) (hn : s.mod.alignAt + 1000000 ≤ s.rackNs .mod) :
    s.alignPulse l = if l.isEmpty then s.modMod fun m => { m with alignTry := m.alignTry + 1, alignZero := some (s.rackNs .mod) }
      else s.alignFail l :=
  if_neg (by omega)

theorem alignCheck_due {l : List Nat} (ht : s.mod.alignTry = 3 ∨ s.mod.alignTry = 6) (hn : s.mod.alignAt + 1000480 ≤ s.rackNs .mod) :
    s.alignCheck l = if l.isEmpty then s.modMod fun m => { m with align := 2, alignTry := 0, alignBad := [] } else s.alignFail l :=
  if_neg (by omega)

end

/-- Settles O23: an attempt that begins moves the 68 covered PLLs one by one; its later steps are two tests each. -/
theorem alignmentRunsItsSteps : Obligations.AlignmentRunsItsSteps := by
  refine ⟨?request, ?busy, ?start, ?pulse, ?retry, ?check, ?fail, ?lost⟩
  case request =>
    intro s a hd hl hc
    refine write_answer hd ((dirApply_alignment (by decide)).trans ((alignRequest_eq rfl (by decide)).trans (if_neg ?_)))
    rw [hl, hc]
    decide
  case busy =>
    intro s a hd hl
    refine write_answer hd ((dirApply_alignment (by decide)).trans ((alignRequest_eq rfl (by decide)).trans (if_pos ?_)))
    rw [hl]
    rfl
  case start =>
    intro s ht ha hn
    have keep : ∀ {β : Type} (g : State → β), (∀ (t : State) (d : Nat) (f : Domain → Domain), g (t.modDomain .mod d f) = g t) →
        g ((List.range 68).foldl State.toDivider s.attempt) = g s.attempt := fun g h =>
      foldl_keeps g State.toDivider (toDivider_keeps g h) _ _
    refine ⟨_, next_congr (alignStart_due ht ha hn), (keep (·.mod.align) fun _ _ _ => rfl).trans rfl,
      (keep (·.mod.alignTry) fun _ _ _ => rfl).trans rfl, (keep (·.mod.alignBad) fun _ _ _ => rfl).trans rfl,
      (keep (·.mod.sh.clk.returnAt) fun _ _ _ => rfl).trans rfl, fun d hd => ?_, fun d hd => ?_,
      (keep (·.ep) fun _ _ _ => rfl).trans rfl, (keep (·.out) fun _ _ _ => rfl).trans rfl⟩
    · exact (toDividers_domain _ s.attempt d).1 (.inl (List.mem_range.mpr hd))
    · exact (toDividers_domain _ s.attempt d).2 (by rw [List.mem_range]; omega)
  case pulse => exact fun s ht hn => next_congr ((alignPulse_due ht hn).trans (if_pos rfl))
  case retry =>
    intro s d l ht hn
    exact next_congr ((alignPulse_due (.inl ht) hn).trans ((if_neg Bool.false_ne_true).trans (if_pos (by omega))))
  case check => exact fun s ht hn => next_congr ((alignCheck_due ht hn).trans (if_pos rfl))
  case fail =>
    intro s d l ht hn
    exact ⟨_, next_congr ((alignCheck_due (.inr ht) hn).trans ((if_neg Bool.false_ne_true).trans (if_neg (by omega)))), rfl, rfl, rfl,
      rfl, rfl, rfl⟩
  case lost => exact fun s cause ha => ⟨_, next_congr (if_neg (not_not.mpr ha)), rfl, rfl, rfl, rfl, rfl⟩

end Sys2Proof.Machine
end

section
/-! PROOFS. The meter: the messages that it takes and the records that it seals (R377 to R386). -/

namespace Sys2Proof.Machine

section

variable {s : State}

/-! ### Messages of the meter (R384) -/

theorem toMeter_bad {h : MeterHdr} {kind len : Nat} (hb : meterBad h kind len = true) (f : State → State) :
    s.toMeter h kind len f = s.mgCount 22 :=
  if_pos hb

theorem toMeter_takes {h : MeterHdr} {kind len : Nat} (hb : meterBad h kind len = false) (hr : s.mod.meter.runs = true)
    (f : State → State) : s.toMeter h kind len f = f s :=
  (if_neg (Bool.not_eq_true _ ▸ hb)).trans (if_pos hr)

/-- R380: what a Time message sets where no gap waits for its record. -/
def State.meterAt (s : State) : State :=
  s.modMeter fun m =>
    { m with
      time := s.epochOf .mod * 1000000
      unlocked := !s.locked .mod
      lastTime := s.ns
      synced := true
      interval := if !s.mod.meter.synced then s.epochOf .mod * 1000000 / 1000000000 else m.interval }

theorem meterTimeIn_noGap (hg : s.mod.meter.gapFrom = none) : s.meterTimeIn = s.meterAt := by
  unfold State.meterTimeIn
  dsimp only
  rw [hg]
  rfl

theorem meterAck_advance {n : Nat} (h1 : s.mod.meter.state = 1) (hn : s.mod.meter.acked < n) :
    s.meterAck n = { s with mod := { s.mod with meter := { s.mod.meter with acked := n } } } := by
  have hs : ¬ (s.mod.meter.state = 3 ∧ { s.mod.meter with acked := n }.full 1 = false) := by omega
  refine (if_pos hn).trans ?_
  unfold State.modMeter State.modMod
  dsimp only
  rw [if_neg hs]

/-- R386: a Mirror write of the update count stores it. -/
theorem mirrorIn_update {val : List Byte} (hv : val.length = 4) (hd : dirCheck .mod meterAccess 0xB00005 true s = 0) :
    s.mirrorIn 0xB00005 val = s.setReg .mod 0xB00005 (beNat val) := by
  have he : entryOf .mod 0xB00005 = some { key := 11534341, span := 1, part := 2, kind := 0, size := 4, acc := 0, lo := 0, hi := 4294967295, wr := 5, rd := 0, later := false } := by
    decide +kernel
  obtain ⟨-, hlo, hhi⟩ := wholeRange (m := 4294967295) hv rfl
  simp [State.mirrorIn, dirWriteWith, hd, he, valueOk, hv, hhi]

end

/-- Settles O24: a message of another form only counts, and a whole one does what its kind says in a core that runs. -/
theorem meterMessagesAreTaken : Obligations.MeterMessagesAreTaken := by
  refine ⟨?bad, ?time, ?usage, ?charge, ?ack, ?old, ?log, ?mirror, ?event⟩
  case bad =>
    intro s h n c k v
    exact ⟨fun hb => next_congr (toMeter_bad hb _), fun hb => next_congr (toMeter_bad hb _),
      fun hb => next_congr (toMeter_bad hb _), fun hb => next_congr (toMeter_bad hb _), fun hb => next_congr (if_pos hb),
      fun hb => next_congr (if_pos hb)⟩
  case time =>
    intro s h hb hr hg
    exact ⟨s.meterAt, next_congr ((toMeter_takes hb hr _).trans (meterTimeIn_noGap hg)), rfl, rfl, rfl, rfl, rfl, rfl, rfl, rfl, rfl⟩
  case usage =>
    intro s h hb hr
    have hu : (s.modMod fun m => { m with usage := [] }).mod.meter.runs = true := hr
    exact ⟨s.modMod fun m => { m with usage := [] }, next_congr (toMeter_takes hb hu fun t => s.mod.usage.foldl (fun t e => t.usageEntry e) t),
      rfl, rfl, rfl, rfl⟩
  case charge => exact fun s h hb hr => next_congr (toMeter_takes hb hr _)
  case ack => exact fun s h n hb hr h1 hn => next_congr ((toMeter_takes hb hr _).trans (meterAck_advance h1 hn))
  case old =>
    intro s h n hb hn
    have hold : s.meterAck n = s := if_neg (by omega)
    cases hr : s.mod.meter.runs with
    | false => exact next_congr ((if_neg (Bool.not_eq_true _ ▸ hb)).trans (if_neg (Bool.not_eq_true _ ▸ hr)))
    | true => exact next_congr ((toMeter_takes hb hr _).trans hold)
  case log => exact fun s h first count hb hr => ⟨_, next_congr (toMeter_takes hb hr _), rfl, rfl, rfl⟩
  case mirror =>
    intro s h val hb hv hd
    refine next_congr ((if_neg ?_).trans (mirrorIn_update hv hd))
    rw [hv, hb]
    exact Bool.false_ne_true
  case event => exact fun s h code detail hb => next_congr (if_neg (Bool.not_eq_true _ ▸ hb))

section

variable {s : State}

/-! ### Records of the meter (R380 to R383) -/

/-- R383: with room in the ring a record takes the next position. -/
theorem meterPut_ring {r : MRec} (h : s.mod.meter.full r.positions = false) : s.meterPut r = s.modMeter fun m => m.append r 0 :=
  if_neg (Bool.not_eq_true _ ▸ h)

theorem append_mem (m : Meter) (r : MRec) (n : Nat) : { r with index := m.next, update := m.update } ∈ (m.append r n).records :=
  List.mem_append_right _ (List.mem_singleton.mpr rfl)

theorem closeEnergy_interval (energy : Nat) : (s.closeEnergy energy).mod.meter.interval = s.mod.meter.interval :=
  ((fullScale_interval _ _ _ _ _).trans (fullScale_interval s _ _ _ _))

theorem closeRecords_interval (start energy : Nat) :
    (s.closeRecords start energy).mod.meter.interval = s.mod.meter.interval :=
  (meterPut_keeps _ _).1.trans ((meterPut_fold_interval _ _ _).trans ((meterPut_fold_interval _ _ _).trans (meterPut_keeps s _).1))

theorem closeSign_interval (start : Nat) : (s.closeSign start).mod.meter.interval = s.mod.meter.interval :=
  (meterPut_keeps s _).1

theorem closeOne_interval (energy : Nat) : (s.closeOne energy).mod.meter.interval = s.mod.meter.interval + 1 :=
  congrArg (· + 1) ((closeSign_interval _).trans ((closeRecords_interval _ _).trans (closeEnergy_interval energy)))

theorem closeReset_charges : ∀ e ∈ s.closeReset.mod.meter.accounts, e.2.chargeNow = 0 := by
  intro e he
  obtain ⟨a, -, rfl⟩ := List.mem_map.mp he
  rfl

/-- R380: where one interval has ended, one is closed. -/
theorem intervalClose_one {energy : Nat} (hr : s.mod.meter.runs = true) (hs : s.mod.meter.synced = true)
    (ht : s.meterTime / 1000000000 = s.mod.meter.interval + 1) : s.intervalClose energy = (s.closeOne energy).mirrorAll := by
  have hn : s.meterTime / 1000000000 - s.mod.meter.interval = 1 := by omega
  simp [State.intervalClose, hr, hs, hn]

/-- R382: below its full scale the update count rises by one. -/
theorem satAdd_below {full v : Nat} (h : v < full) : satAdd full v 1 = v + 1 :=
  Nat.min_eq_left h

/-- R382: the update count raised by a seal event. -/
def State.sealCounted (s : State) : State := s.modMeter fun m => { m with update := satAdd (2 ^ 32 - 1) m.update 1 }

/-- R382: a seal event after its record is written: the Event and Mirror write messages. -/
def State.sealSent (s : State) (cause : Nat) : State :=
  ((s.meterEvent 3 cause).mirror 0xB00005 (beBytes 4 s.mod.meter.update)).mirror 0xB10001 (beBytes 8 (s.mod.meter.next - 1))

/-- R384: the state once the meter sent messages: what was sent, when the last was, and the next Sequence. -/
def State.meterSent (s : State) (o : List Out) (l q : Nat) : State :=
  { s with out := o, mod := { s.mod with meter := { s.mod.meter with lastSent := l, seq := q } } }

theorem meterSend_keeps {β : Type} (g : State → β) (hg : ∀ (t : State) (o : List Out) (l q : Nat), g (t.meterSent o l q) = g t)
    (kind : Nat) (body : List Byte) : g (s.meterSend kind body) = g s :=
  hg s _ _ _

theorem sealSent_keeps {β : Type} (g : State → β) (hg : ∀ (t : State) (o : List Out) (l q : Nat), g (t.meterSent o l q) = g t)
    (cause : Nat) : g (s.sealSent cause) = g s :=
  (meterSend_keeps g hg _ _).trans ((meterSend_keeps g hg _ _).trans (meterSend_keeps g hg _ _))

/-- R382: with room in the ring a seal event counts, and its record takes the next position. -/
theorem sealRecord_ring {β : Type} (g : State → β) (hg : ∀ (t : State) (o : List Out) (l q : Nat), g (t.meterSent o l q) = g t)
    (cause detail : Nat) (hf : s.mod.meter.full 1 = false) : g (s.sealRecord cause detail) =
      g (s.sealCounted.modMeter fun m => m.append (s.sealCounted.meterRec 3 0 0 cause detail) 0) := by
  obtain ⟨o, l, q, hk⟩ := fullScale_keeps s.sealCounted (2 ^ 32 - 1) s.mod.meter.update s.sealCounted.mod.meter.update 3
  have hw : s.sealRecord cause detail = ((s.sealCounted.fullScale (2 ^ 32 - 1) s.mod.meter.update s.sealCounted.mod.meter.update
      3).meterPut (s.sealCounted.meterRec 3 0 0 cause detail)).sealSent cause := rfl
  rw [hk, meterPut_ring (by exact hf)] at hw
  rw [hw, sealSent_keeps g hg]
  exact hg (s.sealCounted.modMeter fun m => m.append (s.sealCounted.meterRec 3 0 0 cause detail) 0) _ l q

theorem sealEvent_runs {cause detail : Nat} (hr : s.mod.meter.runs = true) : s.sealEvent cause detail = s.sealRecord cause detail := by
  simp [State.sealEvent, hr]

theorem meterStopped_runs {faulted : Bool} (hr : s.mod.meter.runs = true) : s.meterStopped faulted =
    ((s.modMeter fun m => m.stop faulted).setReg .mod 0xB00001 (if faulted then 2 else 0)).logEvent .mod 2 0x000E 0 (4 * 2 ^ 104) :=
  if_pos hr

theorem stop_runs {m : Meter} (hr : m.runs = true) (faulted : Bool) :
    (m.stop faulted).state = (if faulted then 2 else 0) ∧ (m.stop faulted).records = m.records := by
  unfold Meter.stop
  rw [if_pos hr]
  exact ⟨rfl, rfl⟩

/-- R386: an advance of Acknowledged record up to Newest record is stored and passed to the meter. -/
theorem ackRecordWrite_advance {val : List Byte} (hv : val.length = 8) (h1 : beNat val ≤ s.reg .mod 0xB10001)
    (h2 : s.reg .mod 0xB10002 ≤ beNat val) : s.ackRecordWrite val =
    (stOk, (((s.setReg .mod 0xB10002 (beNat val)).modMod fun m => { m with meterSeq := (m.meterSeq + 1) % 2 ^ 32 }).emit
      (.meter (meterBytes 4 s.mod.meterSeq (beBytes 8 (beNat val)))))) :=
  if_neg (by omega)

end

/-- Settles O25: a record stands in the ring under the next position, and what closes an interval keeps its number but for the
last step. -/
theorem meterRecordsAreSealed : Obligations.MeterRecordsAreSealed := by
  refine ⟨?sealed, ?stopped, ?close, ?ack⟩
  case sealed =>
    intro s cause detail hr hu hf
    have keep : ∀ {β : Type} (g : State → β), (∀ (t : State) (o : List Out) (l q : Nat), g (t.meterSent o l q) = g t) →
        g (s.sealRecord cause detail) = _ := fun g hg => sealRecord_ring g hg cause detail hf
    have hup : s.sealCounted.mod.meter.update = s.mod.meter.update + 1 := satAdd_below hu
    have hrec : (s.sealRecord cause detail).mod.meter.records =
        (s.sealCounted.mod.meter.append (s.sealCounted.meterRec 3 0 0 cause detail) 0).records :=
      keep (·.mod.meter.records) fun _ _ _ _ => rfl
    have hmem : _ ∈ (s.sealRecord cause detail).mod.meter.records :=
      hrec.symm ▸ append_mem s.sealCounted.mod.meter (s.sealCounted.meterRec 3 0 0 cause detail) 0
    exact ⟨_, _, next_congr (sealEvent_runs hr), (keep (·.mod.meter.update) fun _ _ _ _ => rfl).trans hup,
      hmem, rfl, rfl, hup, (keep (·.mod.meter.next) fun _ _ _ _ => rfl).trans rfl,
      (keep (·.mod.meter.interval) fun _ _ _ _ => rfl).trans rfl, (keep (·.mod.meter.accounts) fun _ _ _ _ => rfl).trans rfl,
      (keep (·.mod.sh) fun _ _ _ _ => rfl).trans rfl, (keep (·.ep) fun _ _ _ _ => rfl).trans rfl⟩
  case stopped =>
    intro s faulted hr
    obtain ⟨hstate, hrec⟩ := stop_runs hr faulted
    exact ⟨_, next_congr (meterStopped_runs hr), hstate, hrec, Shared.reg_setReg_same _ _ _ _, rfl, rfl⟩
  case close =>
    intro s energy hr hs ht
    exact ⟨next_congr (intervalClose_one hr hs ht), closeOne_interval energy, rfl, closeReset_charges⟩
  case ack =>
    intro s a val hd hv h1 h2
    have hw := write_answer hd ((dirApply_ackRecord (wholeRange hv rfl)).trans (ackRecordWrite_advance hv h1 h2))
    exact ⟨_, hw, Shared.reg_setReg_same _ _ _ _, rfl, rfl, rfl, by simp [State.emit]⟩

end Sys2Proof.Machine
end

section
/-! PROOFS. The root of trust: boot, bundles, attestation, keys and the removal of a tenant (R303 to R321). -/

namespace Sys2Proof.Machine

section

variable {s : State}

/-! ### Boot (R306, R307) -/

theorem meterEvent_keeps {β : Type} (g : State → β) (hm : ∀ (t : State) (f : Meter → Meter), g (t.modMeter f) = g t)
    (ho : ∀ (t : State) (o : Out), g (t.emit o) = g t) (code cause : Nat) : g (s.meterEvent code cause) = g s :=
  (ho _ _).trans (hm s _)

theorem mirror_keeps {β : Type} (g : State → β) (hm : ∀ (t : State) (f : Meter → Meter), g (t.modMeter f) = g t)
    (ho : ∀ (t : State) (o : Out), g (t.emit o) = g t) (key : Nat) (val : List Byte) : g (s.mirror key val) = g s :=
  (ho _ _).trans (hm s _)

/-- R383: a record keeps whatever neither the meter nor what is sent is part of. -/
theorem meterPut_leaves {β : Type} (g : State → β) (hm : ∀ (t : State) (f : Meter → Meter), g (t.modMeter f) = g t)
    (ho : ∀ (t : State) (o : Out), g (t.emit o) = g t) (r : MRec) : g (s.meterPut r) = g s := by
  have hfull : g (if s.mod.meter.state = 3 then s else (s.modMeter fun m => { m with state := 3 }).meterEvent 2 0) = g s := by
    split
    · rfl
    · exact (meterEvent_keeps g hm ho 2 0).trans (hm s _)
  unfold State.meterPut
  dsimp only
  split
  · split
    · exact hfull
    · exact (hm _ _).trans hfull
  · exact hm s _

/-- R382: a seal event keeps whatever neither the meter nor what is sent is part of. -/
theorem sealRecord_leaves {β : Type} (g : State → β) (hm : ∀ (t : State) (f : Meter → Meter), g (t.modMeter f) = g t)
    (ho : ∀ (t : State) (o : Out), g (t.emit o) = g t) (cause detail : Nat) : g (s.sealRecord cause detail) = g s := by
  have hfull : ∀ (t : State) (full old new which : Nat), g (t.fullScale full old new which) = g t := by
    intro t full old new which
    unfold State.fullScale
    split
    · exact meterEvent_keeps g hm ho _ _
    · rfl
  exact (mirror_keeps g hm ho _ _).trans ((mirror_keeps g hm ho _ _).trans ((meterEvent_keeps g hm ho _ _).trans
    ((meterPut_leaves g hm ho _).trans ((hfull _ _ _ _ _).trans (hm s _)))))

/-- R307: taking the metrology image keeps whatever the meter, what is sent, the registers and the log are no part of. -/
theorem metroBoot_keeps {β : Type} (g : State → β) (hm : ∀ (t : State) (f : Meter → Meter), g (t.modMeter f) = g t)
    (ho : ∀ (t : State) (o : Out), g (t.emit o) = g t) (hr : ∀ (t : State) (key v : Nat), g (t.setReg .mod key v) = g t)
    (hl : ∀ (t : State) (f : EventLog → EventLog), g (t.modSh .mod fun sh => { sh with log := f sh.log }) = g t)
    (img : Option MetroImage) : g (s.metroBoot img) = g s := by
  have stopped : ∀ t : State, g ((t.setReg .mod 0xB00001 0).logEvent .mod 2 0x000E 0 (4 * 2 ^ 104)) = g t := fun t =>
    (State.logEvent_keeps _ g .mod hl _ _ _ _).trans (hr t _ _)
  unfold State.metroBoot
  cases img with
  | none => exact (stopped _).trans ((hm _ _).trans (hm s _))
  | some i =>
    dsimp only
    split
    · have hstart : ∀ t : State, g t.meterStart = g t := fun t => (mirror_keeps g hm ho _ _).trans (hm t _)
      split
      · exact (sealRecord_leaves g hm ho _ _).trans ((hstart _).trans ((hm _ _).trans (hm s _)))
      · exact (hstart _).trans ((hm _ _).trans (hm s _))
    · exact (stopped _).trans ((hm _ _).trans (hm s _))

/-- R306: the module as its reset is released, before its root of trust looks at a slot. -/
def State.coldStart (s : State) : State :=
  ((s.modMod fun m => m.cold).modSh .mod fun sh => { sh with clk := { sh.clk with started := s.clock } }).modPower fun p =>
    { p with
      state := 2
      booting := false
      lease := s.ns }

/-- R306: the root of trust has its identity. -/
def State.identified (s : State) : State := s.coldStart.modRot .mod fun r => { r with identity := true }

theorem bootSlots_valid {n : Nat} {b : BundleInfo} (l : List (Nat × BundleInfo)) (h : bundleCheck .mod b = 0) :
    s.bootSlots ((n, b) :: l) = s.modRot .mod fun r => { r with boot := 1, active := n, running := some b } := by
  unfold State.bootSlots
  rw [h]
  rfl

theorem bootSlots_invalid {n : Nat} {b : BundleInfo} (l : List (Nat × BundleInfo)) (h : bundleCheck .mod b ≠ 0) :
    s.bootSlots ((n, b) :: l) = ((s.modRot .mod fun r => { r with reason := if r.reason = 0 then bundleCheck .mod b else r.reason }).bundleEvent
      .mod n (bundleCheck .mod b) b.version).bootSlots l := by
  obtain ⟨e, he⟩ := Nat.exists_eq_succ_of_ne_zero h
  rw [State.bootSlots.eq_def]
  dsimp only
  rw [he]
  rfl

theorem modReset_noIdentity (img : Option MetroImage) :
    s.modReset false img = s.coldStart.modRot .mod fun r => { r with boot := 2, reason := 7 } :=
  rfl

/-- R306: the root of trust tries the valid slots, and goes on with the metrology image where one of them boots. -/
theorem modReset_identified (img : Option MetroImage) : s.modReset true img =
    if (s.identified.bootSlots s.mod.sh.rot.order).mod.sh.rot.boot = 1 then
      ((s.identified.bootSlots s.mod.sh.rot.order).metroBoot img).modPower fun p =>
        { p with entering := (s.identified.bootSlots s.mod.sh.rot.order).reg .mod 0x200003 == 0 }
    else s.identified.bootSlots s.mod.sh.rot.order :=
  rfl

/-- R306: the first valid slot runs when it passes every check. -/
theorem modReset_boots (img : Option MetroImage) {n : Nat} {b : BundleInfo} {l : List (Nat × BundleInfo)}
    (ho : s.mod.sh.rot.order = (n, b) :: l) (h : bundleCheck .mod b = 0) : s.modReset true img =
    ((s.identified.modRot .mod fun r => { r with boot := 1, active := n, running := some b }).metroBoot img).modPower fun p =>
      { p with
        entering := (s.identified.modRot .mod fun r => { r with boot := 1, active := n, running := some b }).reg .mod 0x200003 == 0 } := by
  rw [modReset_identified, ho, bootSlots_valid l h]
  exact if_pos rfl

/-- R306: a only valid slot that fails a check is the reason of the refusal. -/
theorem modReset_refuses (img : Option MetroImage) {n : Nat} {b : BundleInfo} (ho : s.mod.sh.rot.order = [(n, b)])
    (h : bundleCheck .mod b ≠ 0) : s.modReset true img =
    ((s.identified.modRot .mod fun r => { r with reason := bundleCheck .mod b }).bundleEvent .mod n (bundleCheck .mod b)
      b.version).modRot .mod fun r => { r with boot := 2 } := by
  rw [modReset_identified, ho, bootSlots_invalid [] h]
  exact if_neg (show ¬ 2 = 1 by decide)

theorem bundleSlot_setSlot_same (r : Rot) (n : Nat) (x : BundleSlot) : (r.setSlot n x).slot n = x := by
  unfold Rot.setSlot Rot.slot
  split <;> rfl

theorem setSlot_keeps (r : Rot) (n : Nat) (x : BundleSlot) : (r.setSlot n x).active = r.active ∧
    (r.setSlot n x).running = r.running ∧ (r.setSlot n x).boot = r.boot := by
  unfold Rot.setSlot
  split <;> exact ⟨rfl, rfl, rfl⟩

theorem commit_answer {a : Access} {b : BundleInfo} {c : Nat} {t : State} (hd : dirCheck .mod a 0x800007 true s = 0)
    (h : s.bundleCommit b = (c, t)) : exec (.bundleCommit a [1#8] b) s = .next (t.emit (.dir .mod a.ctx c [])) := by
  refine next_congr ((State.writeEntry_of _ hd).trans ?_)
  rw [dirApply_commitBundle (by decide)]
  exact congrArg (dirAnswer .mod a.ctx) h

/-! ### Attestation (R308) -/

theorem nonceWrite_whole {p : Part} {val : List Byte} (hv : val.length = 32) : s.nonceWrite p val =
    (stOk, s.modRot p fun r => { r with nonce := some val, nonceAt := s.ns, report := none }) :=
  if_neg (not_not.mpr hv)

theorem dirApply_nonce {p : Part} {a : Access} {val : List Byte} {x : DirAux} (hv : val.length = 32) :
    s.dirApply p a (nonceKey p) val x = s.nonceWrite p val := by
  cases p
  · exact dirApply_epNonce hv
  · exact dirApply_modNonce hv

/-- R308: a report: its body and its signature. -/
def State.reportBytes (s : State) (p : Part) (n : List Byte) : List Byte :=
  s.reportBody p n ++ sliceBytes (Config.attestationSign (partNo p) s.draws (s.reportBody p n)) 0 512

/-- R308: the 64 bytes of a digest. -/
def digestBytes (l : List Byte) : List Byte := sliceBytes (Config.sha512 l) 0 64

/-- R308: the metrology measurement of a report: of the image of the module, else zeros. -/
def State.metroMeasure (s : State) : Part → List Byte
  | .ep => List.replicate 64 0#8
  | .mod => match s.mod.meter.image with
    | some i => digestBytes (Config.metroImage i.version)
    | none => List.replicate 64 0#8

theorem metroMeasure_length (s : State) (p : Part) : (s.metroMeasure p).length = 64 := by
  cases p
  · exact List.length_replicate
  · unfold State.metroMeasure
    dsimp only
    split
    · exact sliceBytes_length _ _ _
    · exact List.length_replicate

theorem digestBytes_length (l : List Byte) : (digestBytes l).length = 64 := sliceBytes_length _ _ _

/-- R308: the body of a report: its head, the two digests of the part, the metrology measurement, the configuration. -/
theorem reportBody_fields (s : State) (p : Part) (n : List Byte) : s.reportBody p n =
    beBytes 58 (s.reportHead p n) ++ digestBytes (Config.identityKey (partNo p)) ++
      digestBytes (Config.manifest (partNo p) (s.sh p).rot.version) ++ s.metroMeasure p ++ digestBytes (s.configBytes p) ++
      List.replicate 6 0#8 := by
  cases p
  · rfl
  · unfold State.reportBody State.metroMeasure
    cases s.mod.meter.image <;> rfl

/-- R308: where the fields of a report stand. -/
theorem reportBytes_fields (s : State) (p : Part) (n : List Byte) :
    (s.reportBytes p n).take 58 = beBytes 58 (s.reportHead p n) ∧ (s.reportBytes p n).length = 832 ∧
    (p = .ep → ((s.reportBytes p n).drop 186).take 64 = List.replicate 64 0#8) := by
  have hhead := beBytes_length 58 (s.reportHead p n)
  unfold State.reportBytes
  rw [reportBody_fields]
  refine ⟨?_, ?_, ?_⟩
  · simp only [List.append_assoc]
    exact List.take_left' hhead
  · simp [hhead, digestBytes_length, metroMeasure_length, sliceBytes_length]
  · rintro rfl
    have hlen : (beBytes 58 (s.reportHead .ep n) ++ digestBytes (Config.identityKey (partNo .ep)) ++
        digestBytes (Config.manifest (partNo .ep) (s.sh .ep).rot.version)).length = 186 := by
      simp [hhead, digestBytes_length]
    rw [List.append_assoc _ (State.metroMeasure s .ep), List.append_assoc _ _ (List.replicate 6 0#8), List.append_assoc,
      List.drop_left' hlen, List.append_assoc (State.metroMeasure s .ep), List.append_assoc (State.metroMeasure s .ep)]
    exact List.take_left' (metroMeasure_length s .ep)

theorem reportReady_boot {p : Part} {n : List Byte} (hn : (s.sh p).rot.nonce = some n) (hb : (s.sh p).rot.boot = 1) :
    s.reportReady p = (s.modRot p fun r => { r with nonce := none, report := some (s.reportBytes p n) }).drawn := by
  unfold State.reportReady
  dsimp only
  rw [hn]
  exact if_neg (not_not.mpr hb)

theorem reportReady_noBoot {p : Part} (hb : (s.sh p).rot.boot ≠ 1) : s.reportReady p = s := by
  unfold State.reportReady
  dsimp only
  split
  · rfl
  · exact if_pos hb

end

/-- Settles O26: a reset tries the valid slots in order, a commit checks the slot that is not active, and a report is its body
of 320 bytes with a signature of 512. -/
theorem bootCommitAndAttest : Obligations.BootCommitAndAttest := by
  refine ⟨?noIdentity, ?boots, ?refuses, ?commit, ?noUpload, ?nonce, ?report, ?noReport⟩
  case noIdentity => exact fun s img => ⟨_, next_congr (modReset_noIdentity img), rfl, rfl, rfl, rfl, rfl, rfl, rfl, rfl, rfl⟩
  case boots =>
    intro s img n b l ho h
    have keep : ∀ {β : Type} (g : State → β), _ → _ → _ → _ → g _ = g _ := fun g hm hout hr hl => metroBoot_keeps
      (s := s.identified.modRot .mod fun r => { r with boot := 1, active := n, running := some b }) g hm hout hr hl img
    exact ⟨_, next_congr (modReset_boots img ho h), keep (·.mod.sh.rot.boot) (fun _ _ => rfl) (fun _ _ => rfl) (fun _ _ _ => rfl) (fun _ _ => rfl),
      keep (·.mod.sh.rot.active) (fun _ _ => rfl) (fun _ _ => rfl) (fun _ _ _ => rfl) (fun _ _ => rfl),
      keep (·.mod.sh.rot.running) (fun _ _ => rfl) (fun _ _ => rfl) (fun _ _ _ => rfl) (fun _ _ => rfl),
      keep (·.mod.power.state) (fun _ _ => rfl) (fun _ _ => rfl) (fun _ _ _ => rfl) (fun _ _ => rfl),
      keep (·.mod.mem) (fun _ _ => rfl) (fun _ _ => rfl) (fun _ _ _ => rfl) (fun _ _ => rfl),
      keep (·.mod.creds) (fun _ _ => rfl) (fun _ _ => rfl) (fun _ _ _ => rfl) (fun _ _ => rfl),
      keep (·.ep) (fun _ _ => rfl) (fun _ _ => rfl) (fun _ _ _ => rfl) (fun _ _ => rfl)⟩
  case refuses =>
    intro s img n b ho h
    exact ⟨_, next_congr (modReset_refuses img ho h), rfl, rfl, rfl, rfl, rfl, rfl⟩
  case commit =>
    intro s a b hd h3
    have hw := commit_answer (b := b) hd (if_neg (not_not.mpr h3))
    obtain ⟨hactive, hrunning, hboot⟩ := setSlot_keeps s.mod.sh.rot (1 - s.mod.sh.rot.active)
      { state := if bundleCheck .mod b = 0 then 1 else 2, bundle := some b }
    exact ⟨_, hw, bundleSlot_setSlot_same _ _ _, hactive, hrunning, hboot, rfl, rfl, rfl⟩
  case noUpload => exact fun s a b hd h => commit_answer hd (if_pos h)
  case nonce =>
    intro s p a val hd hv
    have hw := write_answer hd ((dirApply_nonce hv).trans (nonceWrite_whole hv))
    cases p <;> exact ⟨_, hw, rfl, rfl, rfl, rfl, rfl, rfl⟩
  case report =>
    intro s p n hn hb
    obtain ⟨hhead, hlen, hmetro⟩ := reportBytes_fields s p n
    have hw := next_congr (reportReady_boot hn hb)
    cases p <;> exact ⟨_, s.reportBytes _ n, hw, rfl, rfl, hhead, hlen, hmetro, rfl, rfl⟩
  case noReport => exact fun s p hb => next_congr (reportReady_noBoot hb)

section

variable {s : State} {p : Part}

/-! ### Keys (R311, R316 to R318) -/

theorem dirApply_keyInstall {a : Access} {val : List Byte} {x : DirAux} (hv : val.length = 576) :
    s.dirApply p a (installKey p) val x = s.keyInstall p a (installKey p) val x.unwrapOk := by
  cases p
  · exact dirApply_epKey hv
  · exact dirApply_modKey hv

theorem install_answer {a : Access} {val : List Byte} {unwrapOk : Bool} {c : Nat} {t : State}
    (hd : dirCheck p a (installKey p) true s = 0) (hv : val.length = 576)
    (h : s.keyInstall p a (installKey p) val unwrapOk = (c, t)) :
    exec (.keyInstallation p a val unwrapOk) s = .next (t.emit (.dir p a.ctx c [])) := by
  refine next_congr ((State.writeEntry_of _ hd).trans ?_)
  rw [dirApply_keyInstall hv]
  exact congrArg (dirAnswer p a.ctx) h

/-- R316: the operator alone installs the rack secret at an endpoint; past that the installation itself is looked at. -/
theorem keyInstall_permitted {a : Access} {val : List Byte} {key : Nat} {unwrapOk : Bool} {r : Nat × State}
    (hop : p = .ep → ((installFields val).2.2.1 == 3) = (a.principal == .operator))
    (h : (if (s.sh p).rot.boot = 2 then (stBusy, s)
      else if 1 ≤ (s.keys p (installFields val).1).removal ∧ (s.keys p (installFields val).1).removal ≤ 3 then (stBusy, s)
      else if val.length ≠ 576 ∨ s.installBad p val unwrapOk then (stRange, s.bothCount p 31 13)
      else if (s.keys p (installFields val).1).pend.isSome then (stBusy, s)
      else (stOk, s.setKeys p { s.keys p (installFields val).1 with
        pend := some ((installFields val).2.1, (installFields val).2.2.1, (installFields val).2.2.2.1)
        removal := 0 })) = r) : s.keyInstall p a key val unwrapOk = r :=
  (if_neg fun ⟨hp, hne⟩ => hne (hop hp)).trans h

/-- R311: what is held for a Job ID once its pending installation is in force. -/
def JobKeys.activated (k : JobKeys) (e kind : Nat) : JobKeys :=
  { k with
    prev := k.cur
    cur := some e
    pend := none
    coll := k.coll || kind == 2
    retired := k.retired.filter fun x => x != e }

theorem keyActivate_mod {job e kind t : Nat} (hp : (s.keys .mod job).pend = some (e, kind, t)) (ht : t ≤ s.rackNs .mod) (hk : kind ≠ 2) :
    s.keyActivate .mod job = s.setKeys .mod ((s.keys .mod job).activated e kind) := by
  unfold State.keyActivate
  dsimp only
  rw [hp]
  exact (if_neg (by omega)).trans (if_neg hk)

theorem keyActivate_ep {job e kind t : Nat} (hp : (s.keys .ep job).pend = some (e, kind, t)) (ht : t ≤ s.rackNs .ep) (hj : job ≠ 0) :
    s.keyActivate .ep job = (s.setKeys .ep ((s.keys .ep job).activated e kind)).jobNotice 3 job 0 0 := by
  unfold State.keyActivate
  dsimp only
  rw [hp]
  exact (if_neg (by omega)).trans (if_neg hj)

theorem keyActivate_early {job e kind t : Nat} (hp : (s.keys p job).pend = some (e, kind, t)) (ht : s.rackNs p < t) :
    s.keyActivate p job = s := by
  unfold State.keyActivate
  dsimp only
  rw [hp]
  exact if_pos ht

/-! ### Removal of a tenant (R320, R321) -/

theorem dirApply_retire {a : Access} {val : List Byte} {x : DirAux} (hv : val.length = 16) :
    s.dirApply p a (retireKey p) val x = s.jobRetire p val := by
  cases p
  · exact dirApply_epRetire hv
  · exact dirApply_modRetire hv

/-- R320: the pending installation that a retirement at `t` leaves. -/
def keptPend (t : Nat) : Option (Nat × Nat × Nat) → Option (Nat × Nat × Nat)
  | some (e, kind, at_) => if t ≤ at_ then none else some (e, kind, at_)
  | none => none

theorem keptPend_eq_some {t : Nat} {o : Option (Nat × Nat × Nat)} {x : Nat × Nat × Nat} :
    keptPend t o = some x ↔ o = some x ∧ x.2.2 < t := by
  obtain _ | ⟨e, kind, at_⟩ := o
  · simp [keptPend]
  · unfold keptPend
    dsimp only
    split
    · refine ⟨nofun, ?_⟩
      rintro ⟨heq, hlt⟩
      obtain rfl := Option.some.inj heq
      exact absurd hlt (by dsimp only; omega)
    · refine ⟨fun h => ⟨h, ?_⟩, fun h => h.1⟩
      obtain rfl := Option.some.inj h
      dsimp only
      omega

theorem jobRetire_starts {val : List Byte} (hv : val.length = 16) (hz : bits (beNat val) 47 0 = 0)
    (hus : bits (beNat val) 111 48 % 1000 = 0) (hlate : s.rackNs p + 1000000 ≤ bits (beNat val) 111 48)
    (hrem : (s.keys p (bits (beNat val) 127 112)).removal = 0 ∨ (s.keys p (bits (beNat val) 127 112)).removal = 4)
    (hkeeps : s.keepsJob p (bits (beNat val) 127 112) = true) : s.jobRetire p val =
    (stOk, s.setKeys p { s.keys p (bits (beNat val) 127 112) with
      pend := keptPend (bits (beNat val) 111 48) (s.keys p (bits (beNat val) 127 112)).pend
      removal := 1
      retireAt := bits (beNat val) 111 48
      readyAt := none }) := by
  refine (if_neg (by omega)).trans ((if_neg (by omega)).trans ((if_neg (by simp [hkeeps])).trans ?_))
  cases (s.keys p (bits (beNat val) 127 112)).pend <;> rfl

theorem mem_foldl_setIns (l : List Nat) (r : List Nat) (x : Nat) : x ∈ l.foldl setIns r ↔ x ∈ l ∨ x ∈ r := by
  induction l generalizing r with
  | nil => simp
  | cons y l ih => rw [List.foldl_cons, ih, mem_setIns, List.mem_cons]; tauto

/-- R320: what is held for a Job ID at its retire time: every held epoch is retired. -/
def JobKeys.retiredAll (k : JobKeys) : JobKeys :=
  { k with
    removal := 2
    pend := none
    retired := (k.cur.toList ++ k.prev.toList).foldl setIns k.retired }

theorem mem_retiredAll {k : JobKeys} {e : Nat} (h : k.cur = some e ∨ k.prev = some e) : e ∈ k.retiredAll.retired :=
  (mem_foldl_setIns _ _ _).mpr (.inl (by rcases h with h | h <;> simp [h]))

theorem find_map_job (f : JobKeys → JobKeys) (hf : ∀ k, (f k).job = k.job) (l : List JobKeys) (job : Nat) :
    (l.map f).find? (fun k => k.job == job) = (l.find? fun k => k.job == job).map f := by
  rw [List.find?_map]
  simp only [Function.comp_def, hf]

theorem keys_job (s : State) (p : Part) (job : Nat) : (s.keys p job).job = job := by
  unfold State.keys Shared.keysOf
  cases h : (s.sh p).keys.find? fun k => k.job == job with
  | none => rfl
  | some k => simpa using List.find?_some h

theorem keys_setKeys_same (s : State) (p : Part) (k : JobKeys) : (s.setKeys p k).keys p k.job = k := by
  unfold State.keys State.setKeys Shared.keysOf
  rw [State.modSh_sh]
  have hnone : (s.sh p).keys.find? (fun _ => false) = none := List.find?_eq_none.mpr (by simp)
  simp [List.find?_append, List.find?_filter, hnone]

/-- R320: what is held for a Job ID once its secrets are erased. -/
def JobKeys.erased (k : JobKeys) : JobKeys :=
  { k with
    removal := 3
    cur := none
    prev := none
    coll := false }

/-- R320: noting the scrubs that ended changes nothing held for a Job ID whose epoch is noted. -/
theorem keys_noteScrubbed {job e : Nat} (h : (s.keys p job).readyAt = some e) : (s.noteScrubbed p).keys p job = s.keys p job := by
  unfold State.keys Shared.keysOf State.noteScrubbed at *
  rw [State.modSh_sh]
  dsimp only
  rw [find_map_job _ (by intro k; split <;> rfl)]
  cases hk : (s.sh p).keys.find? fun k => k.job == job with
  | none => rfl
  | some k =>
    rw [hk] at h
    have hr : k.readyAt = some e := h
    simp [hr]

/-- R320: a removal that settles: its final snapshot is taken, and what is held for the Job ID is Settled. -/
def State.settled (s : State) (p : Part) (job : Nat) : State :=
  ((s.noteScrubbed p).finalSnapshot p job).setKeys p { s.keys p job with removal := 4 }

/-- R320, R393: once the epoch of the scrub has passed the removal settles; the module's account is closing. -/
theorem removalSettle_due {job e : Nat} (hrem : (s.keys p job).removal = 3) (hready : (s.keys p job).readyAt = some e)
    (hdue : e < s.epochOf p) :
    (p = .ep → s.removalSettle p job = s.settled p job) ∧
    (p = .mod → s.removalSettle p job =
      (s.settled p job).modMeter fun m => { m with accounts := tabMod m.accounts job fun x => { x with closing := true } }) := by
  have hepoch : (s.noteScrubbed p).epochOf p = s.epochOf p := by cases p <;> rfl
  unfold State.removalSettle
  dsimp only
  rw [keys_noteScrubbed hready]
  constructor <;> rintro rfl <;> refine if_neg ?_ <;> simp [hrem, hready, hepoch, hdue]

end

/-- Settles O27: an installation is looked at in the order of its refusals, and its activation puts it in force once it is due. -/
theorem keysAreInstalledAndActivated : Obligations.KeysAreInstalledAndActivated := by
  refine ⟨?installs, ?bad, ?removing, ?mod, ?ep, ?early, ?period⟩
  case installs =>
    intro s p a val unwrapOk hd hv hop hboot hbad hpend hrem
    have hw := install_answer (unwrapOk := unwrapOk) hd hv (keyInstall_permitted hop ((if_neg hboot).trans ((if_neg (by omega)).trans
      ((if_neg (by simp [hv, hbad])).trans (if_neg (by simp [hpend]))))))
    exact ⟨_, hw, rfl, rfl, rfl, rfl, rfl⟩
  case bad =>
    intro s p a val unwrapOk hd hv hop hboot hrem hbad
    exact install_answer hd hv (keyInstall_permitted hop ((if_neg hboot).trans ((if_neg (by omega)).trans (if_pos (.inr hbad)))))
  case removing =>
    intro s p a val unwrapOk hd hv hop h1 h3
    refine install_answer hd hv (keyInstall_permitted hop ?_)
    by_cases hboot : (s.sh p).rot.boot = 2
    · exact if_pos hboot
    · exact (if_neg hboot).trans (if_pos ⟨h1, h3⟩)
  case mod =>
    intro s job e kind t hp ht hk
    exact ⟨_, next_congr (keyActivate_mod hp ht hk), rfl, rfl, rfl, rfl, by simp [JobKeys.activated],
      fun x hx => by simp [JobKeys.activated, hx]⟩
  case ep =>
    intro s job e kind t hp ht hj
    exact ⟨_, next_congr (keyActivate_ep hp ht hj), rfl, rfl, rfl⟩
  case early => exact fun s p job e kind t hp ht => next_congr (keyActivate_early hp ht)
  case period =>
    intro s p h
    have hw : s.keyPeriodKeys p = s.modRot p fun r => { r with derived := s.rackNs p / 100000000 + 1 } := if_pos (by omega)
    cases p <;> exact ⟨_, next_congr hw, rfl, rfl, rfl, rfl⟩

/-- Settles O28: each step of a removal puts what the part holds for the Job ID. -/
theorem tenantRemovalRunsItsSteps : Obligations.TenantRemovalRunsItsSteps := by
  refine ⟨?retire, ?time, ?scrub, ?settle⟩
  case retire =>
    intro s p a val job at_ hd hv hjob hat hz hus hlate hrem hkeeps
    subst hjob hat
    have hw := write_answer hd ((dirApply_retire hv).trans (jobRetire_starts hv hz hus hlate hrem hkeeps))
    exact ⟨_, hw, rfl, rfl, rfl, rfl, fun x => keptPend_eq_some⟩
  case time =>
    intro s p job hrem ht
    refine ⟨_, (s.keys p job).retiredAll, rfl, rfl, rfl, fun e h => mem_retiredAll h, nextOn_congr p ((if_neg (by omega)).trans ?_)⟩
    cases p <;> rfl
  case scrub =>
    intro s p job hrem hgone
    refine ⟨_, (s.keys p job).erased, rfl, rfl, rfl, rfl, next_congr ((if_neg (by simp [hrem, hgone])).trans ?_)⟩
    cases p <;> rfl
  case settle =>
    intro s p job e hrem hready hdue
    obtain ⟨hep, hmod⟩ := removalSettle_due hrem hready hdue
    have hkeys : (s.settled p job).keys p job = { s.keys p job with removal := 4 } := by
      have h := keys_setKeys_same ((s.noteScrubbed p).finalSnapshot p job) p { s.keys p job with removal := 4 }
      rwa [show ({ s.keys p job with removal := 4 } : JobKeys).job = job from keys_job s p job] at h
    cases p with
    | ep => exact ⟨_, next_congr (hep rfl), congrArg JobKeys.removal hkeys, tabGet_tabSet_same _ _ _, rfl, nofun, rfl⟩
    | mod =>
      refine ⟨_, next_congr (hmod rfl), congrArg JobKeys.removal hkeys, tabGet_tabSet_same _ _ _, rfl, fun _ c hc => ?_, rfl⟩
      obtain ⟨x, -, rfl⟩ := Option.map_eq_some_iff.mp ((tabGet_tabMod_same _ _ _).symm.trans hc)
      rfl

end Sys2Proof.Machine
end

section
/-! PROOFS. Rack time and the timing lanes (R255 to R259, R265 to R268). -/

namespace Sys2Proof.Machine

section

variable {s : State} {p : Part}

/-! ### Rack time (R265 to R268) -/

theorem modRt_rt (f : RackTime → RackTime) : ((s.modRt p f).sh p).rt = f (s.sh p).rt := by cases p <;> rfl

theorem modRt_congr {f g : RackTime → RackTime} (h : f (s.sh p).rt = g (s.sh p).rt) : s.modRt p f = s.modRt p g := by
  cases p
  · exact congrArg (fun r => s.modRt .ep fun _ => r) h
  · exact congrArg (fun r => s.modRt .mod fun _ => r) h

/-- A change of rack time keeps the log, the registers, the mode and what was sent. -/
theorem modRt_keeps (f : RackTime → RackTime) : ((s.modRt p f).sh p).log = (s.sh p).log ∧ ((s.modRt p f).sh p).regs = (s.sh p).regs ∧
    ((s.modRt p f).sh p).mode = (s.sh p).mode ∧ (s.modRt p f).out = s.out := by
  cases p <;> exact ⟨rfl, rfl, rfl, rfl⟩

/-- R266: a lane after a tick; the tick at an epoch ends the time set before. -/
def State.tickedLane (s : State) (p : Part) (l : Nat) (epoch : Bool) : TLane :=
  let at_ : Int := ((s.sh p).rt.units : Int) - (s.reg p (0xC00004 + l) / 200 : Nat)
  let x := { (s.sh p).rt.lane l with sync := true, tick := s.clock, tickOk := tickAgrees at_ (s.tickTol p) }
  if epoch then { x with epoch := at_, set := none } else x

theorem tickedLane_fields (s : State) (p : Part) (l : Nat) (epoch : Bool) : (s.tickedLane p l epoch).sync = true ∧
    (s.tickedLane p l epoch).tick = s.clock ∧ (epoch = true → (s.tickedLane p l epoch).set = none) := by
  cases epoch
  · exact ⟨rfl, rfl, nofun⟩
  · exact ⟨rfl, rfl, fun _ => rfl⟩

/-- R266: outside Locked a tick sets its lane. -/
theorem tick_unlocked {l : Nat} {epoch : Bool} (h : (s.sh p).rt.state ≠ 2) :
    s.tick p l epoch = s.modRt p fun r => r.setLane l (s.tickedLane p l epoch) := by
  unfold State.tick
  dsimp only
  rw [trySwitch_skips]
  · refine modRt_congr ?_
    rw [if_neg (fun hc => h hc.1)]
    rfl
  · rw [modRt_rt, (setLane_keeps _ _ _).2.1, if_neg (fun hc => h hc.1)]
    exact h

/-- R267: how far a time set stands from the lane's epoch. -/
def State.setOff (s : State) (p : Part) (l value : Nat) : Int := (value * 5 : Nat) - ((s.sh p).rt.lane l).epoch

/-- R267: a lane takes a time set. -/
def State.laneTimed (s : State) (p : Part) (l value : Nat) : State :=
  s.modRt p fun r => r.setLane l { r.lane l with
    sync := true
    set := some value
    setOk := decide ((s.setOff p l value).natAbs ≤ s.tickTol p) }

theorem laneTimed_rt (s : State) (p : Part) (l value : Nat) : ((s.laneTimed p l value).sh p).rt.units = (s.sh p).rt.units ∧
    (((s.laneTimed p l value).sh p).rt.lane l).set = some value ∧ (((s.laneTimed p l value).sh p).rt.lane l).sync = true ∧
    ((s.laneTimed p l value).sh p).log = (s.sh p).log ∧ (s.laneTimed p l value).out = s.out := by
  obtain ⟨hlog, -, -, hout⟩ := modRt_keeps (s := s) (p := p) fun r => r.setLane l { r.lane l with
    sync := true
    set := some value
    setOk := decide ((s.setOff p l value).natAbs ≤ s.tickTol p) }
  refine ⟨?_, ?_, ?_, hlog, hout⟩ <;> unfold State.laneTimed <;> rw [modRt_rt]
  · exact (setLane_keeps _ _ _).1
  · rw [lane_setLane_same]
  · rw [lane_setLane_same]

/-- R267: rack time moved to a time set, from which on agreeing ones count. -/
def RackTime.restarted (r : RackTime) (d : Int) : RackTime := { r.move d with agrees := 0 }

theorem timeSet_unset {l value : Nat} (h : (s.sh p).rt.state = 0) (hl : l = (s.sh p).rt.source) : s.timeSet p l value true =
    ((s.laneTimed p l value).modRt p fun r => r.restarted (s.setOff p l value)).rtState p 1 := by
  refine (if_neg (by decide)).trans ?_
  dsimp only
  rw [h]
  exact if_pos hl

theorem timeSet_acquired {l value : Nat} (h : (s.sh p).rt.state = 1) (hl : l = (s.sh p).rt.source) (ha : 1 ≤ (s.sh p).rt.agrees)
    (ht : (s.setOff p l value).natAbs ≤ s.tickTol p) : s.timeSet p l value true =
    ((s.laneTimed p l value).modRt p fun r => { r with agrees := 0 }).rtState p 2 := by
  refine (if_neg (by decide)).trans ?_
  dsimp only
  rw [h]
  refine (if_neg (not_not.mpr hl)).trans ((if_neg ?_).trans (if_pos (by omega)))
  rw [Bool.not_eq_true', decide_eq_false_iff_not]
  exact not_not.mpr ht

theorem timeSet_lost {l value : Nat} (h : (s.sh p).rt.state = 4) : s.timeSet p l value true =
    ((s.laneTimed p l value).modRt p fun r => { r with source := l, agrees := 0, step := some (s.setOff p l value) }).rtState p 1 := by
  refine (if_neg (by decide)).trans ?_
  dsimp only
  rw [h]
  rfl

/-- R268: a lane falls silent. -/
def State.laneQuiet (s : State) (p : Part) (l : Nat) : State := s.modRt p fun r => r.setLane l { r.lane l with sync := false }

theorem both_sync {r : RackTime} {l : Nat} (hl : l < 2) : (!r.laneA.sync && !r.laneB.sync) = (!(r.lane l).sync && !(r.lane (1 - l)).sync) := by
  have : l = 0 ∨ l = 1 := by omega
  rcases this with rfl | rfl
  · rfl
  · exact Bool.and_comm _ _

theorem laneQuiet_rt {l : Nat} (hl : l < 2) : ((s.laneQuiet p l).sh p).rt.state = (s.sh p).rt.state ∧
    ((s.laneQuiet p l).sh p).rt.source = (s.sh p).rt.source ∧ ((s.laneQuiet p l).sh p).rt.units = (s.sh p).rt.units ∧
    (((s.laneQuiet p l).sh p).rt.lane l).sync = false ∧ ((s.laneQuiet p l).sh p).rt.lane (1 - l) = (s.sh p).rt.lane (1 - l) := by
  obtain ⟨hunits, hstate, hsource, -⟩ := setLane_keeps (s.sh p).rt l { (s.sh p).rt.lane l with sync := false }
  unfold State.laneQuiet
  rw [modRt_rt]
  exact ⟨hstate, hsource, hunits, congrArg TLane.sync (lane_setLane_same _ _ _), lane_setLane_other _ _ _ hl⟩

/-- R268: in Locked a silent lane leads to Holdover where no lane is in sync, and to the other lane where it was the source. -/
theorem laneSilent_locked {l : Nat} (h : ((s.laneQuiet p l).sh p).rt.state = 2) : s.laneSilent p l =
    if !((s.laneQuiet p l).sh p).rt.laneA.sync && !((s.laneQuiet p l).sh p).rt.laneB.sync then
      (((s.laneQuiet p l).modRt p fun r => { r with since := (s.laneQuiet p l).clock, disagree := 0 }).rtState p 3).unlock p
    else if l = ((s.laneQuiet p l).sh p).rt.source then
      ((s.laneQuiet p l).modRt p fun r => { r with source := 1 - r.source }).bothCount p 33 0
    else s.laneQuiet p l := by
  have h0 : ¬ ((s.laneQuiet p l).sh p).rt.state = 0 := by rw [h]; decide
  exact (if_neg h0).trans (if_pos h)

/-- R268: a source lane that falls silent while the other one is in sync hands over to it. -/
theorem laneSilent_other {l : Nat} (hl : l < 2) (h : (s.sh p).rt.state = 2) (hsrc : l = (s.sh p).rt.source)
    (ho : ((s.sh p).rt.lane (1 - l)).sync = true) :
    s.laneSilent p l = ((s.laneQuiet p l).modRt p fun r => { r with source := 1 - r.source }).bothCount p 33 0 := by
  obtain ⟨hstate, hsource, -, -, hother⟩ := laneQuiet_rt (s := s) (p := p) hl
  rw [laneSilent_locked (hstate.trans h), both_sync hl, hother, ho, Bool.not_true, Bool.and_false, hsource]
  exact (if_neg Bool.false_ne_true).trans (if_pos hsrc)

/-- R268: with no lane in sync rack time is in Holdover. -/
theorem laneSilent_both {l : Nat} (hl : l < 2) (h : (s.sh p).rt.state = 2) (ho : ((s.sh p).rt.lane (1 - l)).sync = false) :
    s.laneSilent p l = (((s.laneQuiet p l).modRt p fun r => { r with since := s.clock, disagree := 0 }).rtState p 3).unlock p := by
  obtain ⟨hstate, -, -, hself, hother⟩ := laneQuiet_rt (s := s) (p := p) hl
  have hclock : (s.laneQuiet p l).clock = s.clock := by cases p <;> rfl
  rw [laneSilent_locked (hstate.trans h), both_sync hl, hother, hself, ho, hclock]
  exact if_pos rfl

theorem inStep_back {old new : Nat} (h : new ≤ old) (t : Nat) (e : Event) : inStep old new t e = [] := if_neg (by omega)

theorem inStepOpt_back {old new : Nat} (h : new ≤ old) (t : Option Nat) (e : Event) : inStepOpt old new t e = [] := by
  unfold inStepOpt
  simp only [inStep_back h]
  exact List.flatMap_eq_nil_iff.mpr fun _ _ => rfl

/-- R270: a step back skips no event. -/
theorem skipped_back {old new : Nat} (h : new ≤ old) : s.skipped p old new = [] := by
  unfold State.skipped
  simp only [inStep_back h, inStepOpt_back h, ite_self]
  cases p <;> simp

/-- R269: rack time moved by a step. -/
def RackTime.stepped (r : RackTime) (d : Int) : RackTime :=
  { r.move d with
    step := none
    lastStep := d.tdiv 5 }

theorem stepCounter_plain {d : Int} (hm : (s.sh p).mode = 0) :
    s.stepCounter p d = s.modRt p fun r => r.stepped d := by
  obtain ⟨-, -, hmode, -⟩ := modRt_keeps (s := s) (p := p) fun r => r.stepped d
  have h0 : ((s.modRt p fun r => r.stepped d).sh p).mode ≠ 1 := by rw [hmode, hm]; decide
  exact if_pos h0

theorem rackStep_back {energy : Nat} {d : Int} (hs : (s.sh p).rt.step = some d) (hd : d ≤ 0) (hm : (s.sh p).mode = 0) :
    s.rackStep p energy = s.modRt p fun r => r.stepped d := by
  have hback : (s.modRt p fun r => r.stepped d).rackNs p ≤ s.rackNs p := by
    unfold State.rackNs
    rw [modRt_rt]
    refine Nat.div_le_div_right ?_
    show ((s.sh p).rt.units + d : Int).toNat ≤ _
    omega
  unfold State.rackStep
  dsimp only
  rw [hs]
  dsimp only
  rw [stepCounter_plain hm, skipped_back hback]
  rfl

end

/-- Settles O29: outside Locked a tick only sets its lane, a time set moves rack time by what its state asks, and a step back skips
no event. -/
theorem rackTimeFollowsLanes : Obligations.RackTimeFollowsLanes := by
  refine ⟨?tick, ?bad, ?unset, ?acquired, ?lost, ?other, ?both, ?limit, ?back⟩
  case tick =>
    intro s p l epoch hl h
    obtain ⟨hsync, htick, hset⟩ := tickedLane_fields s p l epoch
    obtain ⟨hlog, hregs, -, hout⟩ := modRt_keeps (s := s) (p := p) fun r => r.setLane l (s.tickedLane p l epoch)
    obtain ⟨hunits, hstate, -⟩ := setLane_keeps (s.sh p).rt l (s.tickedLane p l epoch)
    refine ⟨_, next_congr (tick_unlocked h), ?_, ?_, ?_, ?_, ?_, ?_, hregs, hlog, hout⟩ <;> rw [modRt_rt]
    · rw [lane_setLane_same, hsync]
    · rw [lane_setLane_same, htick]
    · exact lane_setLane_other _ _ _ hl
    · exact hunits
    · exact hstate
    · rwa [lane_setLane_same]
  case bad => exact fun s p l value => next_congr (if_pos rfl)
  case unset =>
    intro s p l value _ h hl
    obtain ⟨hunits, hset, -, hlog, hout⟩ := laneTimed_rt s p l value
    obtain ⟨hlog', -, -, hout'⟩ := modRt_keeps (s := s.laneTimed p l value) (p := p) fun r => r.restarted (s.setOff p l value)
    refine ⟨_, next_congr (timeSet_unset h hl), ?_, ?_, hlog'.trans hlog, hout'.trans hout⟩ <;> rw [modRt_rt]
    · exact congrArg (fun n : Nat => ((n : Int) + s.setOff p l value).toNat) hunits
    · exact (set_move _ _ _).trans hset
  case acquired =>
    intro s p l value _ h hl ha ht
    obtain ⟨hunits, -, hsync, hlog, hout⟩ := laneTimed_rt s p l value
    obtain ⟨hlog', -, -, hout'⟩ := modRt_keeps (s := s.laneTimed p l value) (p := p) fun r => { r with agrees := 0 }
    refine ⟨_, next_congr (timeSet_acquired h hl ha ht), ?_, ?_, hlog'.trans hlog, hout'.trans hout⟩ <;> rw [modRt_rt]
    · exact hunits
    · exact hsync
  case lost =>
    intro s p l value _ h
    obtain ⟨hunits, -, -, -, hout⟩ := laneTimed_rt s p l value
    obtain ⟨-, -, -, hout'⟩ := modRt_keeps (s := s.laneTimed p l value) (p := p)
      fun r => { r with source := l, agrees := 0, step := some (s.setOff p l value) }
    refine ⟨_, next_congr (timeSet_lost h), ?_, ?_, ?_, hout'.trans hout⟩ <;> rw [modRt_rt]
    · rfl
    · exact hunits
  case other =>
    intro s p l hl h hsrc ho
    obtain ⟨hstate, hsource, hunits, hself, -⟩ := laneQuiet_rt (s := s) (p := p) hl
    obtain ⟨-, -, -, hout⟩ := modRt_keeps (s := s) (p := p) fun r => r.setLane l { r.lane l with sync := false }
    obtain ⟨-, -, -, hout'⟩ := modRt_keeps (s := s.laneQuiet p l) (p := p) fun r => { r with source := 1 - r.source }
    refine ⟨_, next_congr (laneSilent_other hl h hsrc ho), ?_, ?_, ?_, ?_, hout'.trans hout⟩ <;> rw [modRt_rt]
    · exact congrArg (1 - ·) (hsource.trans hsrc.symm)
    · exact hself
    · exact hstate.trans h
    · exact hunits
  case both =>
    intro s p l hl h ho
    obtain ⟨-, -, hunits, -, -⟩ := laneQuiet_rt (s := s) (p := p) hl
    obtain ⟨-, -, hmode, hout⟩ := modRt_keeps (s := s) (p := p) fun r => r.setLane l { r.lane l with sync := false }
    obtain ⟨-, -, hmode', hout'⟩ := modRt_keeps (s := s.laneQuiet p l) (p := p) fun r => { r with since := s.clock, disagree := 0 }
    refine ⟨_, next_congr (laneSilent_both hl h ho), ?_, ?_, hmode'.trans hmode, hout'.trans hout⟩ <;> rw [modRt_rt]
    exact hunits
  case limit => exact fun s p h ht => next_congr (if_pos ⟨h, ht⟩)
  case back =>
    intro s p energy d hs hd hm
    have hrt := modRt_rt (s := s) (p := p) fun r => r.stepped d
    obtain ⟨hlog, -, -, hout⟩ := modRt_keeps (s := s) (p := p) fun r => r.stepped d
    exact ⟨_, nextOn_congr p (rackStep_back hs hd hm), congrArg RackTime.units hrt, congrArg RackTime.step hrt,
      (congrArg RackTime.state hrt).trans rfl, hlog, hout⟩

section

variable {s : State} {p : Part} {m : TlMsg}

/-! ### Messages of a timing lane (R255 to R259) -/

theorem takeTiming_bad (l : Nat) (h : m.bad = true) : s.takeTiming p l m = s.count p 0x09 l 0 1 :=
  if_pos (by rw [h]; rfl)

/-- R257: a whole message for another node is discarded. -/
theorem takeTiming_other (l : Nat) (h : m.bad = false) (hb : m.body ≠ .undefined) (hbc : m.broadcast = false)
    (hd : m.dest ≠ s.node p) : s.takeTiming p l m = s := by
  unfold State.takeTiming
  cases hbody : m.body with
  | undefined => exact absurd hbody hb
  | verdict v => simp [h, hbc, hd]
  | barrier b => simp [h, hbc, hd]

/-- R258: a whole message that was seen before is discarded. -/
theorem takeTiming_seen (l : Nat) (h : m.bad = false) (hb : m.body ≠ .undefined) (hv : ∀ v, m.body = .verdict v → s.vBad p v = false)
    (hs : m.seq ∈ tabGetD (s.sh p).tl.seen m.source []) : s.takeTiming p l m = s := by
  have hold : (s.sh p).tl.isNew m.source m.seq = false := by simpa [TimingLanes.isNew] using hs
  unfold State.takeTiming
  cases hbody : m.body with
  | undefined => exact absurd hbody hb
  | verdict v => simp [h, hv v hbody, hold]
  | barrier b => simp [h, hold]

theorem addressed {n : Nat} (ha : m.broadcast = true ∨ m.dest = n) : (!m.broadcast && m.dest != n) = false := by
  rcases ha with ha | ha <;> simp [ha]

/-- R259: a Verdict message whose authenticator fails is counted. -/
theorem takeTiming_badVerdict (l : Nat) {v : VMsg} (h : m.bad = false) (hb : m.body = .verdict v)
    (ha : m.broadcast = true ∨ m.dest = s.node p) (hv : s.vBad p v = true) :
    s.takeTiming p l m = (if p = Part.mod then s.mgCount 6 else s).count p 0x09 l 0 1 := by
  unfold State.takeTiming
  rw [h, hb, addressed ha]
  exact if_pos hv

/-- R258: the sequence of a message is kept. -/
def State.tlNoted (s : State) (p : Part) (m : TlMsg) : State := s.modSh p fun sh => { sh with tl := sh.tl.note m.source m.seq }

theorem takeTiming_newVerdict (l : Nat) {v : VMsg} (h : m.bad = false) (hb : m.body = .verdict v)
    (ha : m.broadcast = true ∨ m.dest = s.node p) (hv : s.vBad p v = false)
    (hs : m.seq ∉ tabGetD (s.sh p).tl.seen m.source []) : s.takeTiming p l m = (s.tlNoted p m).verdictIn p v false := by
  have hnew : (s.sh p).tl.isNew m.source m.seq = true := by simpa [TimingLanes.isNew] using hs
  unfold State.takeTiming
  rw [h, hb, addressed ha, hnew]
  exact if_neg (Bool.not_eq_true _ ▸ hv)

/-- R256: what is kept of a message in progress is put to its lane, and nothing else moves. -/
theorem setTiming_part (l : Nat) (t : TlPart) : (l = 0 → ((s.setTiming p l t).sh p).tl.partA = t) ∧
    (l ≠ 0 → ((s.setTiming p l t).sh p).tl.partB = t) ∧ ((s.setTiming p l t).sh p).tl.seen = (s.sh p).tl.seen := by
  unfold State.setTiming
  rw [State.modSh_sh]
  by_cases hl : l = 0
  · rw [if_pos hl]
    exact ⟨fun _ => rfl, fun h => absurd hl h, rfl⟩
  · rw [if_neg hl]
    exact ⟨fun h => absurd h hl, fun _ => rfl, rfl⟩

end

/-- Settles O30: the characters of a whole message are read as that message, and it is looked at check by check. -/
theorem timingLaneMessagesAreTakenOnce : Obligations.TimingLaneMessagesAreTakenOnce := by
  refine ⟨?messages, ?ticks, ?abort⟩
  case messages =>
    intro s p l mid chars m hp hmid hchars hm
    have hexec : exec (.timingLaneMessage p l chars) s = .next ((s.takeTiming p l m).partOn p) := by
      rw [hm, hchars]
      exact nextOn_congr p (timingWhole_read s p l mid hp hmid)
    rw [hexec]
    refine ⟨fun h => nextOn_congr p (takeTiming_bad l h), fun h hb hbc hd => nextOn_congr p (takeTiming_other l h hb hbc hd),
      fun h hb hv hs => nextOn_congr p (takeTiming_seen l h hb hv hs),
      fun v h hb ha hv => nextOn_congr p (takeTiming_badVerdict l h hb ha hv), fun v h hb ha hv hs => ?_⟩
    have hseen : ((s.tlNoted p m).sh p).tl.seen = tabSet (s.sh p).tl.seen m.source (lastN 16 (tabGetD (s.sh p).tl.seen m.source [] ++ [m.seq])) := by
      unfold State.tlNoted
      rw [State.modSh_sh]
      rfl
    refine ⟨_, nextOn_congr p (takeTiming_newVerdict l h hb ha hv hs), ?_, ?_⟩
    · rw [hseen]
      exact congrArg (Option.getD · []) (tabGet_tabSet_same _ _ _)
    · cases p <;> exact ⟨rfl, rfl, rfl⟩
  case ticks =>
    intro s p l at_ chars hskip hepoch
    refine nextOn_congr p ?_
    unfold State.timingIn
    dsimp only
    rw [timingRead_ticks chars _ at_ hskip hepoch]
  case abort =>
    intro s p l
    obtain ⟨hA, hB, hseen⟩ := setTiming_part (s := s) (p := p) l { chars := [], skip := 0 }
    refine ⟨s.abortMessage p l, rfl, hA, hB, hseen, ?_⟩
    cases p <;> exact ⟨rfl, rfl, rfl⟩

end Sys2Proof.Machine
end

section
/-! PROOFS. Mown entries and Mown mode (R273 to R280). -/

namespace Sys2Proof.Machine

section

variable {s : State} {p : Part}

/-! ### Mown entries (R275, R276) -/

/-- R275: the value of a Mown entry whose fields are in range. -/
structure MownFits (val : List Byte) : Prop where
  length : val.length = 32
  reserved : bits (beNat val) 75 0 = 0
  start : (mownOf (beNat val)).start % 1000 = 0
  interval : 20 ≤ (mownOf (beNat val)).interval
  leadMin : 500 ≤ (mownOf (beNat val)).lead
  leadMax : (mownOf (beNat val)).lead ≤ 100000

theorem mownWrite_ep {i : Nat} {val : List Byte} (h : MownFits val) (hold : tabGet s.ep.sh.mown i = none) : s.mownWrite .ep i val =
    (stOk, s.modSh .ep fun sh => { sh with mown := tabSet sh.mown i { mownOf (beNat val) with state := 2 } }) := by
  obtain ⟨h1, h2, h3, h4, h5, h6⟩ := h
  have h0 : tabGetD s.ep.sh.mown i MownEntry.zero = MownEntry.zero := congrArg (Option.getD · MownEntry.zero) hold
  refine (if_neg (by omega)).trans (if_neg ?_)
  rw [show tabGetD (s.sh .ep).mown i MownEntry.zero = MownEntry.zero from h0]
  decide

theorem mownWrite_mod {i : Nat} {val : List Byte} (h : MownFits val) (hold : tabGet s.mod.sh.mown i = none) : s.mownWrite .mod i val =
    if !s.mownOk (mownOf (beNat val)) then (stRange, s)
    else (stOk, s.modSh .mod fun sh => { sh with mown := tabSet sh.mown i { mownOf (beNat val) with state := 1 } }) := by
  obtain ⟨h1, h2, h3, h4, h5, h6⟩ := h
  have h0 : tabGetD s.mod.sh.mown i MownEntry.zero = MownEntry.zero := congrArg (Option.getD · MownEntry.zero) hold
  refine (if_neg (by omega)).trans (if_neg ?_)
  rw [show tabGetD (s.sh .mod).mown i MownEntry.zero = MownEntry.zero from h0]
  decide

theorem dirApply_mown {a : Access} {val : List Byte} {x : DirAux} (hv : val.length = 32) (hh : hostHolds p a (mownOf (beNat val)).job s = true) :
    s.dirApply p a 0xC30003 val x = s.mownWrite p (s.sel p a.ctx 0xC30002) val :=
  (dirApply_mownEntry hv).trans (if_pos hh)

/-- R275: a Mown entry of the module at a state. -/
def State.putMown (s : State) (i : Nat) (e : MownEntry) : State :=
  s.modSh .mod fun sh => { sh with mown := tabSet sh.mown i e }

theorem putMown_same (s : State) (i : Nat) (e : MownEntry) : tabGet (s.putMown i e).mod.sh.mown i = some e := tabGet_tabSet_same _ _ _

theorem putMown_other (s : State) {i j : Nat} (e : MownEntry) (h : j ≠ i) :
    tabGet (s.putMown i e).mod.sh.mown j = tabGet s.mod.sh.mown j := tabGet_tabSet_other _ _ h

/-- R276: whether the engines and tiles that serve fit a compiled entry. -/
def State.mownFits (s : State) (e : MownEntry) : Bool :=
  Config.mownFits e.input ((s.group e.group).ctx e.cctx).bits_ (s.group e.group).table s.tilesServing s.mod.engOut

theorem mownCompile_compiles {i : Nat} {e : MownEntry} (he : tabGet s.mod.sh.mown i = some e) (h1 : e.state = 1) :
    s.mownCompile i = s.putMown i { e with
      state := if s.mownFits e then 2 else 5
      tiles := s.tilesServing
      engs := s.mod.engOut } := by
  unfold State.mownCompile
  rw [he]
  exact if_neg (not_not.mpr h1)

/-- R276: at its start a Ready entry whose sequence has no free slot is Missed. -/
theorem mownStart_missed {i : Nat} {e : MownEntry} (he : tabGet s.mod.sh.mown i = some e) (h2 : e.state = 2)
    (ht : e.start ≤ s.rackNs .mod) (hm : s.mod.sh.mode = 1)
    (hg : (s.group e.group).v = false ∨ (s.group e.group).job ≠ e.job ∨ (s.group e.group).place e.cseq ≠ cDone) :
    s.mownStart i = s.putMown i { e with state := 6 } := by
  unfold State.mownStart
  rw [he]
  refine (if_neg (by omega)).trans ((if_neg (not_not.mpr hm)).trans (if_pos ?_))
  rcases hg with hg | hg | hg <;> simp [hg]

theorem mownStart_runs {i : Nat} {e : MownEntry} (he : tabGet s.mod.sh.mown i = some e) (h2 : e.state = 2)
    (ht : e.start ≤ s.rackNs .mod) (hm : s.mod.sh.mode = 1) (hv : (s.group e.group).v = true)
    (hj : (s.group e.group).job = e.job) (hp : (s.group e.group).place e.cseq = cDone) :
    s.mownStart i = (s.openSlot e.group e.cseq e.cctx).putMown i { e with state := 3 } := by
  unfold State.mownStart
  rw [he]
  refine (if_neg (by omega)).trans ((if_neg (not_not.mpr hm)).trans (if_neg ?_))
  simp [hv, hj, hp]

theorem mownFallback_falls {i : Nat} {e : MownEntry} (he : tabGet s.mod.sh.mown i = some e) (h : e.state = 2 ∨ e.state = 3) :
    s.mownFallback i = ((s.putMown i { e with state := 7 }).mgCount 4).mcOn := by
  unfold State.mownFallback
  rw [he]
  exact if_neg (by omega)

/-! ### Mown mode (R278) -/

/-- R278: the time of a mode switch is taken. -/
def State.switchTaken (s : State) (p : Part) : State := s.modSh p fun sh => { sh with switchAt := none }

theorem switchTaken_keeps (s : State) (p : Part) : ((s.switchTaken p).sh p).mode = (s.sh p).mode ∧ ((s.switchTaken p).sh p).switchAt = none ∧
    ((s.switchTaken p).sh p).mown = (s.sh p).mown ∧ ((s.switchTaken p).sh p).log = (s.sh p).log ∧ (s.switchTaken p).out = s.out ∧
    (s.switchTaken p).reg p 0xC20003 = s.reg p 0xC20003 ∧ (s.switchTaken p).mownBar p = s.mownBar p := by
  cases p <;> exact ⟨rfl, rfl, rfl, rfl, rfl, rfl, rfl⟩

theorem modeSwitch_due {t : Nat} (hs : (s.sh p).switchAt = some t) (ht : t ≤ s.rackNs p) : s.modeSwitch p =
    if (s.switchTaken p).reg p 0xC20003 = 0 then (s.switchTaken p).leaveMown p 4
    else if ((s.switchTaken p).sh p).mode = 1 then s.switchTaken p
    else match (s.switchTaken p).mownBar p with
      | none => (s.switchTaken p).modSh p fun sh => { sh with mode := 1 }
      | some c => ((s.switchTaken p).bothCount p 41 3).mownEvent p 0 c := by
  unfold State.modeSwitch
  rw [hs]
  exact if_neg (by omega)

theorem mownBar_unlocked (h : s.locked p = false) : s.mownBar p = some 0 := by
  unfold State.mownBar
  rw [h]
  rfl

theorem mownPieceSend_due {c k : Nat} {x : EpColl} {sh : Shape} {e : MownEntry} {d : Option (List Byte)} (hc : s.coll c = some x)
    (hsh : x.shape = some sh) (he : s.epEntry x = some e) (hm : s.ep.sh.mode = 1) (h3 : x.state = 3)
    (ht : e.start + x.localIndex sh k * e.interval ≤ s.rackNs .ep) (hop : sh.op ≠ 3) (hk : k ∈ x.left sh)
    (hfirst : ∀ j ∈ x.left sh, j < k → x.planeOf sh j ≠ x.planeOf sh k) (hd : x.assemble sh k = some d) :
    s.mownPieceSend c k = (s.collPiece c sh k d).collSent c sh := by
  have hin : (x.left sh).contains k = true := List.contains_iff_mem.mpr hk
  have hbefore : ((x.left sh).any fun j => decide (j < k) && x.planeOf sh j == x.planeOf sh k) = false := by
    rw [List.any_eq_false]
    intro j hj
    simpa using hfirst j hj
  unfold State.mownPieceSend
  rw [hc]
  dsimp only
  rw [hsh, he]
  dsimp only
  rw [if_neg (by omega), if_neg hop, hin, hbefore, hd]
  rfl

theorem mownPieceSend_wild {c k : Nat} {x : EpColl} (hc : s.coll c = some x) (hm : s.ep.sh.mode ≠ 1) : s.mownPieceSend c k = s := by
  unfold State.mownPieceSend
  rw [hc]
  dsimp only
  split
  · exact if_pos (.inl hm)
  · rfl

end

/-- Settles O31: each command puts the entry that it names at its next state, after the checks of the model. -/
theorem mownEntriesRunTheirStates : Obligations.MownEntriesRunTheirStates := by
  refine ⟨?ep, ?mod, ?denied, ?compile, ?missed, ?runs, ?piece, ?fallback⟩
  case ep =>
    intro s a val hd hv hh hz hs hi hl hl' hold
    have hw := write_answer hd ((dirApply_mown hv hh).trans (mownWrite_ep ⟨hv, hz, hs, hi, hl, hl'⟩ hold))
    exact ⟨_, hw, tabGet_tabSet_same _ _ _, fun j hj => tabGet_tabSet_other _ _ hj, rfl, rfl⟩
  case mod =>
    intro s a val hd hv hh hz hs hi hl hl' hold
    have hfits : MownFits val := ⟨hv, hz, hs, hi, hl, hl'⟩
    cases hok : s.mownOk (mownOf (beNat val)) with
    | false =>
      have hw := write_answer hd ((dirApply_mown hv hh).trans ((mownWrite_mod hfits hold).trans (if_pos (by rw [hok]; rfl))))
      exact ⟨_, hw, nofun, fun _ => rfl, fun _ _ => rfl, rfl⟩
    | true =>
      have hw := write_answer hd ((dirApply_mown hv hh).trans ((mownWrite_mod hfits hold).trans (if_neg (by rw [hok]; decide))))
      exact ⟨_, hw, fun _ => ⟨tabGet_tabSet_same _ _ _, rfl⟩, nofun, fun j hj => tabGet_tabSet_other _ _ hj, rfl⟩
  case denied =>
    intro s p a val hd hv hh
    exact write_answer hd ((dirApply_mownEntry hv).trans (if_neg (Bool.not_eq_true _ ▸ hh)))
  case compile =>
    intro s i e he h1
    refine ⟨_, _, next_congr (mownCompile_compiles he h1), putMown_same _ _ _, ?_, rfl, rfl, rfl, fun j hj => putMown_other _ _ hj, rfl,
      rfl, rfl⟩
    cases s.mownFits e
    · exact .inr rfl
    · exact .inl rfl
  case missed =>
    intro s i e he h2 ht hm hg
    exact ⟨_, next_congr (congrArg State.modOn (mownStart_missed he h2 ht hm hg)), putMown_same _ _ _, rfl, rfl, rfl⟩
  case runs =>
    intro s i e he h2 ht hm hv hj hp
    obtain ⟨gs, hopen⟩ := openSlot_groups s e.group e.cseq e.cctx
    refine ⟨_, next_congr (congrArg State.modOn (mownStart_runs he h2 ht hm hv hj hp)), putMown_same _ _ _, rfl, ?_, ?_⟩
    · exact (congrArg State.ep hopen).trans rfl
    · exact (congrArg State.out hopen).trans rfl
  case piece =>
    intro s i k e x he hx h3 hm hplane ht hop hsize hk hdone hspill hpois
    have hnone : x.size.isNone = false := by simpa using hsize
    have hpois' : x.poisoned.contains (k / 2 ^ ((s.group e.group).shape x.cctx (x.size.getD 0)).order) = false := by simpa using hpois
    refine next_congr ?_
    unfold State.mownSlot
    rw [he]
    dsimp only
    rw [hx]
    dsimp only
    rw [if_neg (by omega), if_neg hop, hnone, hdone, hspill, hpois', decide_eq_false (by omega)]
    rfl
  case fallback =>
    intro s i cause e he h
    exact ⟨_, next_congr (mownFallback_falls he h), putMown_same _ _ _, fun j hj => putMown_other _ _ hj, rfl, rfl, rfl⟩

/-- Settles O32: a switch that is due is taken, and enters Mown mode where nothing bars it. -/
theorem mownModeSwitches : Obligations.MownModeSwitches := by
  refine ⟨?enters, ?refused, ?leaves, ?piece, ?wild⟩
  case enters =>
    intro s p t hs ht hr hm hbar
    obtain ⟨hmode, hnone, hmown, hlog, hout, hreg, hbar'⟩ := switchTaken_keeps s p
    have hw : s.modeSwitch p = (s.switchTaken p).modSh p fun sh => { sh with mode := 1 } := by
      rw [modeSwitch_due hs ht, if_neg (by rw [hreg]; exact hr), if_neg (by rw [hmode, hm]; decide), hbar', hbar]
    refine ⟨_, nextOn_congr p hw, ?_⟩
    cases p <;> exact ⟨rfl, hnone, hmown, hlog, hout⟩
  case refused =>
    intro s p t hs ht hr hm hl
    obtain ⟨hmode, hnone, -, -, hout, hreg, hbar'⟩ := switchTaken_keeps s p
    have hw : s.modeSwitch p = ((s.switchTaken p).bothCount p 41 3).mownEvent p 0 0 := by
      rw [modeSwitch_due hs ht, if_neg (by rw [hreg]; exact hr), if_neg (by rw [hmode, hm]; decide), hbar', mownBar_unlocked hl]
    exact ⟨_, nextOn_congr p hw, hmode.trans hm, hnone, hout⟩
  case leaves =>
    intro s p t hs ht hr
    obtain ⟨hmode, hnone, -, -, hout, hreg, -⟩ := switchTaken_keeps s p
    exact ⟨_, nextOn_congr p ((modeSwitch_due hs ht).trans (if_pos (hreg.trans hr))), hmode, hnone, hout⟩
  case piece =>
    intro s c k x sh e d hc hsh he hm h3 ht hop hk hfirst hd
    exact next_congr (congrArg State.epOn (mownPieceSend_due hc hsh he hm h3 ht hop hk hfirst hd))
  case wild => exact fun s c k x hc hm => next_congr (congrArg State.epOn (mownPieceSend_wild hc hm))

end Sys2Proof.Machine
end

section
/-! PROOFS. The verdict engine: suspicion, Votes, verdicts issued and applied (R283 to R290, R299, R300). -/

namespace Sys2Proof.Machine

section

variable {s : State} {p : Part} {v : VMsg}

/-! ### Heartbeats, suspicion and Votes (R283, R284) -/

/-- R283: the tick of a Heartbeat is noted. -/
def State.beaten (s : State) (p : Part) : State :=
  s.modSh p fun sh => { sh with verd := { sh.verd with beat := some (s.rackNs p / 1000) } }

theorem heartbeat_mod (ht : s.rackNs .mod / 1000 % 10 = 0) (hb : s.mod.sh.rot.boot = 1)
    (hn : s.mod.sh.verd.beat ≠ some (s.rackNs .mod / 1000)) (hp : s.mod.power.state < 3) : s.heartbeat .mod =
    (let t := (s.beaten .mod).sendV .mod { vZero with number := s.mod.sh.verd.last }
    (t.mod.ve.repeats.foldl (fun s r => s.sendV .mod r.v) t).modVe fun e =>
      { e with repeats := (e.repeats.map fun r => { r with left := r.left - 1 }).filter fun r => r.left != 0 }) := by
  have hp' : ¬ 3 ≤ (s.beaten .mod).mod.power.state := by
    show ¬ 3 ≤ s.mod.power.state
    omega
  exact (if_neg (by rintro (h | h | h) <;> contradiction)).trans (if_neg hp')

theorem heartbeat_ep (ht : s.rackNs .ep / 1000 % 10 = 0) (hb : s.ep.sh.rot.boot = 1)
    (hn : s.ep.sh.verd.beat ≠ some (s.rackNs .ep / 1000)) (htrip : s.ep.tripped = false) (hsup : s.ep.supply = 0)
    (hres : s.ep.inReset = false) : s.heartbeat .ep = (s.beaten .ep).sendV .ep vZero := by
  have hon : ¬ ((s.beaten .ep).ep.tripped || (s.beaten .ep).ep.supply != 0 || (s.beaten .ep).ep.inReset) = true := by
    show ¬ (s.ep.tripped || s.ep.supply != 0 || s.ep.inReset) = true
    simp [htrip, hsup, hres]
  exact (if_neg (by rintro (h | h | h) <;> contradiction)).trans (if_neg hon)

theorem heartbeat_none (h : s.rackNs p / 1000 % 10 ≠ 0 ∨ (s.sh p).verd.beat = some (s.rackNs p / 1000) ∨ (s.sh p).rot.boot ≠ 1) :
    s.heartbeat p = s :=
  if_pos h

/-- R284: the module's Vote against a part stands in its table. -/
def State.voteNoted (s : State) (part : Nat) : State :=
  s.modVe fun e => { e with
    votes := e.votes.filter (fun w => !(w.plane == s.plane && w.node == part)) ++ [{ plane := s.plane, node := part, at_ := s.ns }] }

theorem voteNoted_mem (s : State) (part : Nat) : { plane := s.plane, node := part, at_ := s.ns } ∈ (s.voteNoted part).mod.ve.votes :=
  List.mem_append_right _ (List.mem_singleton.mpr rfl)

theorem voteNoted_own {part : Nat} {w : Vote} (hw : w ∈ (s.voteNoted part).mod.ve.votes) (hp : w.plane = s.plane) (hn : w.node = part) :
    w.at_ = s.ns := by
  rcases List.mem_append.mp hw with h | h
  · have := (List.mem_filter.mp h).2
    simp [hp, hn] at this
  · rw [List.mem_singleton.mp h]

/-- R284: a part that the module suspects from now on. -/
def State.suspectNoted (s : State) (part : Nat) : State :=
  (s.mgCount 5).modVe fun e => { e with suspects := tabSet e.suspects part s.ns }

theorem suspect_silent {part : Nat} (hp : s.isPart part = true) (hs : tabGet s.mod.ve.suspects part = none)
    (ht : s.heardAt part + 35000 ≤ s.ns) :
    s.suspect part = ((s.suspectNoted part).voteNoted part).sendV .mod (subjectMsg 1 part) := by
  refine if_neg ?_
  rw [hp, show s.suspected part = false from congrArg Option.isSome hs, decide_eq_false (by omega)]
  decide

theorem suspectNoted_keeps (s : State) (part : Nat) : (s.suspectNoted part).mod.ve.suspects = tabSet s.mod.ve.suspects part s.ns ∧
    (s.suspectNoted part).plane = s.plane ∧ (s.suspectNoted part).ns = s.ns ∧ (s.suspectNoted part).mod.sh.verd = s.mod.sh.verd ∧
    (s.suspectNoted part).ep = s.ep :=
  ⟨congrArg (fun t => tabSet t part s.ns) (mgCount_keeps s 5 (·.mod.ve.suspects) (fun _ _ => rfl) fun _ _ => rfl),
    mgCount_keeps s 5 (·.plane) (fun _ _ => rfl) fun _ _ => rfl, mgCount_keeps s 5 (·.ns) (fun _ _ => rfl) fun _ _ => rfl,
    mgCount_keeps s 5 (·.mod.sh.verd) (fun _ _ => rfl) fun _ _ => rfl, mgCount_keeps s 5 (·.ep) (fun _ _ => rfl) fun _ _ => rfl⟩

theorem voteRepeat_due {part t : Nat} (hs : tabGet s.mod.ve.suspects part = some t) (hd : s.voteDue part = true) :
    s.voteRepeat part = (s.voteNoted part).sendV .mod (subjectMsg 1 part) := by
  refine if_pos ?_
  rw [show s.suspected part = true from congrArg Option.isSome hs, hd]
  rfl

theorem voteRepeat_none {part : Nat} (h : tabGet s.mod.ve.suspects part = none ∨ s.voteDue part = false) : s.voteRepeat part = s := by
  refine if_neg ?_
  rcases h with h | h
  · rw [show s.suspected part = false from congrArg Option.isSome h]
    exact Bool.false_ne_true
  · rw [h, Bool.and_false]
    exact Bool.false_ne_true

/-! ### Verdict messages (R286) -/

theorem vBad_of (h : s.macRight p v = false ∨ 4 < v.kind ∨ v.reserved = true) : s.vBad p v = true := by
  unfold State.vBad
  rcases h with h | h | h <;> simp [h]

theorem vBad_not (hm : s.macRight p v = true) (hr : v.reserved = false) (hk : v.kind ≤ 4) : s.vBad p v = false := by
  unfold State.vBad
  rw [hm, hr, decide_eq_false (by omega)]
  rfl

theorem verdictIn_bad (h : s.vBad p v = true) : s.verdictIn p v false = if p = Part.mod then s.mgCount 6 else s :=
  if_pos h

/-- R286: a message of the timing lane whose authenticator is right does at the endpoint what a Verdict alone can do. -/
theorem verdictIn_ep (h : s.vBad .ep v = false) : s.verdictIn .ep v false = if v.kind = 2 then s.takeVerdict .ep v else s :=
  if_neg (Bool.not_eq_true _ ▸ h)

theorem verdictIn_heartbeat (h : s.vBad .mod v = false) (hk : v.kind = 0) : s.verdictIn .mod v false = s.heartbeatIn v := by
  refine (if_neg (Bool.not_eq_true _ ▸ h)).trans ?_
  rw [hk]
  rfl

theorem verdictIn_vote (h : s.vBad .mod v = false) (hk : v.kind = 1) (ho : 512 ≤ v.origin) (hv : v.vkind = 1 ∨ v.vkind = 2) :
    s.verdictIn .mod v false = s.modVe fun e => { e with
      votes := e.votes.filter (fun w => !(w.plane == v.origin - 512 && w.node == subjectOf v)) ++
        [{ plane := v.origin - 512, node := subjectOf v, at_ := s.ns }] } := by
  refine (if_neg (Bool.not_eq_true _ ▸ h)).trans ?_
  rw [hk]
  exact if_neg (by omega)

theorem verdictIn_verdict (h : s.vBad p v = false) (hk : v.kind = 2) : s.verdictIn p v false = s.takeVerdict p v := by
  cases p with
  | ep => exact (verdictIn_ep h).trans (if_pos hk)
  | mod =>
    refine (if_neg (Bool.not_eq_true _ ▸ h)).trans ?_
    rw [hk]
    rfl

theorem takeVerdict_new (ha : serialAfter v.number (s.sh p).verd.last = true)
    (hn : ∀ x ∈ (s.sh p).verd.pending, x.v.number ≠ v.number) : s.takeVerdict p v =
    s.modSh p fun sh => { sh with verd := { sh.verd with pending := sh.verd.pending ++ [{ v := v, at_ := s.ns }] } } := by
  have hfind : ((s.sh p).verd.pending.find? fun x => x.v.number == v.number) = none := by
    rw [List.find?_eq_none]
    intro x hx
    simpa using hn x hx
  refine (if_neg (by rw [ha]; decide)).trans ?_
  dsimp only
  rw [hfind]

/-- R283: a part is heard now; where it was not heard throughout, from now on. -/
def State.heardNow (s : State) (part : Nat) : State :=
  s.modVe fun e => { e with
    heard := tabSet e.heard part s.ns
    heardSince := if s.suspected part || decide (35000 + s.heardAt part < s.ns) || (tabGet s.mod.ve.heardSince part).isNone then
      tabSet e.heardSince part s.ns else e.heardSince }

theorem hear_trusted {part : Nat} (h : tabGet s.mod.ve.suspects part = none) : s.hear part = s.heardNow part := by
  have hs : (s.heardNow part).suspected part = false := congrArg Option.isSome h
  exact if_neg (Bool.not_eq_true _ ▸ hs)

theorem heartbeatIn_node (ho : v.origin < 512) (hs : tabGet s.mod.ve.suspects v.origin = none) :
    s.heartbeatIn v = s.heardNow v.origin := by
  unfold State.heartbeatIn
  rw [hear_trusted hs]
  exact (if_neg (by omega)).trans (if_neg (by omega))

end

/-- Settles O33: a Heartbeat and a Vote are each one change of the engine with one message, and a Verdict message that fails its
authenticator changes nothing but a count. -/
theorem modulesSuspectAndVote : Obligations.ModulesSuspectAndVote := by
  refine ⟨?beatMod, ?beatEp, ?noBeat, ?suspicion, ?repeats, ?noRepeat, ?bad, ?heard, ?vote, ?verdict⟩
  case beatMod => exact fun s ht hb hn hp => ⟨_, rfl, next_congr (heartbeat_mod ht hb hn hp)⟩
  case beatEp => exact fun s ht hb hn htrip hsup hres => next_congr (heartbeat_ep ht hb hn htrip hsup hres)
  case noBeat => exact fun s p h => next_congr (heartbeat_none h)
  case suspicion =>
    intro s part hp hs ht
    obtain ⟨hsus, hplane, hns, hverd, hep⟩ := suspectNoted_keeps s part
    have hvote := voteNoted_mem (s.suspectNoted part) part
    rw [hplane, hns] at hvote
    refine ⟨_, next_congr (suspect_silent hp hs ht), ?_, hvote, fun q hq => ?_, hverd, hep⟩
    · exact (congrArg (tabGet · part) hsus).trans (tabGet_tabSet_same _ _ _)
    · exact (congrArg (tabGet · q) hsus).trans (tabGet_tabSet_other _ _ hq)
  case repeats =>
    intro s part t hs hd
    exact ⟨_, next_congr (voteRepeat_due hs hd), voteNoted_mem s part, fun w hw hp hn => voteNoted_own hw hp hn, rfl, rfl, rfl⟩
  case noRepeat => exact fun s part h => next_congr (voteRepeat_none h)
  case bad => exact fun s p v h => next_congr (verdictIn_bad (vBad_of h))
  case heard =>
    intro s v hm hr hk ho hs
    exact ⟨_, next_congr ((verdictIn_heartbeat (vBad_not hm hr (by omega)) hk).trans (heartbeatIn_node ho hs)), tabGet_tabSet_same _ _ _,
      fun q hq => tabGet_tabSet_other _ _ hq, rfl, rfl, rfl, rfl⟩
  case vote =>
    intro s v hm hr hk ho hv
    refine ⟨_, next_congr (verdictIn_vote (vBad_not hm hr (by omega)) hk ho hv), List.mem_append_right _ (List.mem_singleton.mpr rfl),
      fun w hw => ?_, rfl, rfl, rfl⟩
    have hself : w ≠ { plane := v.origin - 512, node := subjectOf v, at_ := s.ns } := by
      rintro rfl
      rcases hw with hw | hw <;> exact hw rfl
    have hkept : (!(w.plane == v.origin - 512 && w.node == subjectOf v)) = true := by
      rcases hw with hw | hw <;> simp [hw]
    refine List.mem_append.trans ?_
    rw [List.mem_singleton, List.mem_filter]
    exact ⟨fun h => (h.resolve_right hself).1, fun h => .inl ⟨h, hkept⟩⟩
  case verdict =>
    intro s p v hm hr hk ha hn
    have hw := next_congr ((verdictIn_verdict (vBad_not hm hr (by omega)) hk).trans (takeVerdict_new ha hn))
    cases p <;> exact ⟨_, hw, rfl, rfl, rfl, rfl, rfl⟩

section

variable {s : State} {p : Part} {v : VMsg}

/-! ### Verdicts issued (R287, R289, R299, R300) -/

theorem condemn_node {node : Nat} (hn : node < 512) (hc : s.mayCondemn node = true) (hd : node ∉ s.mod.sh.verd.dead)
    (hp : s.verdictPending 1 node 0 = false) :
    s.condemn node = s.issueVerdict 1 node 0 (maskOf 16 fun q => (s.voters node).contains q) := by
  have hgone : s.nodeDead .mod node = false := by simpa [State.nodeDead] using hd
  unfold State.condemn subjectMsg
  dsimp only
  rw [if_pos hn, if_pos hn, if_pos hn, if_pos hn, hgone, hp, hc]
  rfl

theorem condemn_plane {plane : Nat} (hc : s.mayCondemn (512 + plane) = true) (hd : plane ∉ s.mod.sh.verd.failed)
    (hp : s.verdictPending 2 0 plane = false) :
    s.condemn (512 + plane) = s.issueVerdict 2 0 plane (maskOf 16 fun q => (s.voters (512 + plane)).contains q) := by
  have hn : ¬ 512 + plane < 512 := by omega
  have hgone : s.mod.sh.verd.failed.contains plane = false := by simpa using hd
  unfold State.condemn subjectMsg
  dsimp only
  rw [if_neg hn, if_neg hn, if_neg hn, if_neg hn, Nat.add_sub_cancel_left, hgone, hp, hc]
  rfl

theorem portFailed_down {node port : Nat} {q : Port} (hq : s.nodePort node = some (port, q)) (h7 : q.state ≠ 7)
    (hf : (s.route node).fenced = false) (hs : s.suspected node = false) (hv : s.mod.ve.fenced = false)
    (hp : s.verdictPending 3 node s.plane = false) (ht : q.downSince + s.regNow .mod 0xA00007 * 1000 ≤ s.ns) :
    s.portFailed node = s.issueVerdict 3 node s.plane 0 := by
  unfold State.portFailed
  rw [hq]
  refine if_neg ?_
  simp [h7, hf, hs, hv, hp, ht]

theorem portRestored_up {node port : Nat} {q : Port} (hq : s.nodePort node = some (port, q)) (h7 : q.state = 7)
    (hf : (s.route node).fenced = true) (hd : node ∉ s.mod.sh.verd.dead) (hp : s.verdictPending 4 node s.plane = false)
    (ht : q.activeSince + 1000000 * s.regNow .mod 0xA00008 ≤ s.ns) :
    s.portRestored node = s.issueVerdict 4 node s.plane 0 := by
  have hgone : s.nodeDead .mod node = false := by simpa [State.nodeDead] using hd
  unfold State.portRestored
  rw [hq]
  refine if_neg ?_
  simp [h7, hf, hgone, hp, ht]

/-- R300: the length of the confirmation period, in ns. -/
def State.confirmNs (s : State) : Nat := s.regNow .mod 0xA00003 * 1000

/-- R300: the times at which the number of planes heard may change within the confirmation period. -/
def State.quorumTimes (s : State) : List Nat :=
  (s.ns - s.confirmNs) :: (s.mod.ve.heardSince.map fun x => x.2).filter fun t => decide (s.ns < t + s.confirmNs)

theorem mem_quorumTimes {t : Nat} : t ∈ s.quorumTimes ↔ t = s.ns - s.confirmNs ∨ ∃ q, (q, t) ∈ s.mod.ve.heardSince ∧ s.ns < t + s.confirmNs := by
  simp only [State.quorumTimes, List.mem_cons, List.mem_filter, List.mem_map, decide_eq_true_eq, Prod.exists, exists_eq_right]
  refine or_congr_right ⟨?_, ?_⟩
  · rintro ⟨⟨q, hq⟩, hlt⟩
    exact ⟨q, hq, hlt⟩
  · rintro ⟨q, hq, hlt⟩
    exact ⟨⟨q, hq⟩, hlt⟩

theorem quorumLoss_holds {t : Nat} (ht : t ∈ s.quorumTimes) (hq : s.quorum ≤ 1 + s.planesHeard t) : s.quorumLoss = s := by
  refine if_neg fun h => ?_
  have := of_decide_eq_true (List.all_eq_true.mp h.2 t ht)
  omega

theorem quorumLoss_lost (hc : s.confirmNs ≤ s.ns) (h : ∀ t ∈ s.quorumTimes, 1 + s.planesHeard t < s.quorum) :
    s.quorumLoss = s.selfFence.fenceOn := by
  refine if_pos ⟨hc, List.all_eq_true.mpr fun t ht => decide_eq_true ?_⟩
  have := h t ht
  omega

/-! ### Verdicts applied (R288 to R290) -/

/-- R288: a verdict is taken from the pending ones and kept as a record. -/
def State.verdictKept (s : State) (p : Part) (number : Nat) (v : VMsg) : State :=
  (s.modSh p fun sh => { sh with verd := { sh.verd with
    last := number
    pending := delFirst (fun y => y.v.number == number) sh.verd.pending
    records := (v :: sh.verd.records).take 64 } }).logEvent p 1 0x0007 0 (beNat ((vPayload v).take 14))

theorem applyVerdict_due {number : Nat} {x : PendVerdict} (hx : ((s.sh p).verd.pending.find? fun x => x.v.number == number) = some x)
    (ht : x.at_ + 10000 ≤ s.ns) (hmin : ∀ y ∈ (s.sh p).verd.pending, serialAfter number y.v.number = false) :
    (p = .ep → s.applyVerdict p number = (s.verdictKept p number x.v).applyEp x.v) ∧
    (p = .mod → s.applyVerdict p number = (s.verdictKept p number x.v).applyMod x.v) := by
  have hnone : ((s.sh p).verd.pending.any fun y => serialAfter number y.v.number) = false := by
    rw [List.any_eq_false]
    exact fun y hy => Bool.not_eq_true _ ▸ hmin y hy
  have hdue : ¬ (s.ns < 10000 + x.at_ ∨ ((s.sh p).verd.pending.any fun y => serialAfter number y.v.number) = true) := by
    rw [hnone]
    simp only [Bool.false_eq_true, or_false]
    omega
  unfold State.applyVerdict
  dsimp only
  rw [hx]
  constructor <;> rintro rfl <;> exact if_neg hdue

theorem applyVerdict_early {number : Nat} {x : PendVerdict} (hx : ((s.sh p).verd.pending.find? fun x => x.v.number == number) = some x)
    (ht : s.ns < x.at_ + 10000) : s.applyVerdict p number = s := by
  unfold State.applyVerdict
  dsimp only
  rw [hx]
  exact if_pos (.inl (by omega))

theorem applyMod_dead (hk : v.vkind = 1) : s.applyMod v =
    ((s.modSh .mod fun sh => { sh with verd := { sh.verd with dead := setIns sh.verd.dead v.subjNode } }).modRoute v.subjNode
      fun r => { r with fenced := true }).modVe fun e => { e with deadAt := tabSet e.deadAt v.subjNode s.ns } := by
  unfold State.applyMod
  dsimp only
  rw [hk]
  rfl

theorem applyEp_exclude (hk : v.vkind = 3) : s.applyEp v = s.exclude v.subjNode v.subjPlane := by
  unfold State.applyEp
  dsimp only
  rw [hk]
  rfl

theorem exclude_new {node plane : Nat} (h : (node, plane) ∉ s.ep.exclusions) (hl : s.ep.exclusions.length < 64) :
    s.exclude node plane = (s.modEp fun e => { e with exclusions := e.exclusions ++ [(node, plane)] }).jobNotice 4 0 plane node :=
  (if_neg (by simpa using h)).trans (if_neg (by omega))

end

/-- Settles O34: each verdict is issued once every condition of its kind holds, and a module is fenced where no time of the
confirmation period has enough planes. -/
theorem verdictsAreIssued : Obligations.VerdictsAreIssued := by
  refine ⟨?node, ?plane, ?restore, ?rebind, ?failed, ?restored, ?quorum, ?lost, ?rebindRequest, ?restoreRequest⟩
  case node =>
    intro s node plane ready hn hc hd hp
    exact next_congr ((if_pos hn).trans (condemn_node hn hc hd hp))
  case plane =>
    intro s node plane ready hn hc hd hp
    exact next_congr ((if_pos hn).trans (condemn_plane hc hd hp))
  case restore =>
    intro s node plane hl hr hf hq hp
    exact next_congr (if_pos ⟨rfl, hl, by simpa using hr, by simpa using hf, hq, by simp [hp]⟩)
  case rebind =>
    intro s node plane ready hl hr hd hq ht hp
    exact next_congr (if_pos ⟨hl, by simpa using hr, by simpa [State.nodeDead] using hd, hq, by omega, by simp [hp]⟩)
  case failed => exact fun s node port q hq h7 hf hs hv hp ht => next_congr (portFailed_down hq h7 hf hs hv hp ht)
  case restored => exact fun s node port q hq h7 hf hd hp ht => next_congr (portRestored_up hq h7 hf hd hp ht)
  case quorum => exact fun s t ht hq => next_congr (quorumLoss_holds (mem_quorumTimes.mpr (ht.imp id fun ⟨q, h⟩ => ⟨q, h⟩)) hq)
  case lost =>
    intro s hc h0 h
    refine next_congr (quorumLoss_lost hc fun t ht => ?_)
    rcases mem_quorumTimes.mp ht with rfl | ⟨q, hq, hlt⟩
    · exact h0
    · exact h (q, t) hq hlt
  case rebindRequest =>
    intro s a val hd hv hn hdead
    have hw := write_answer hd ((dirApply_rebind ⟨hv, Nat.zero_le _, hn⟩).trans (if_neg (by simpa [hv, State.nodeDead] using hdead)))
    exact ⟨_, hw, rfl, rfl, rfl, rfl, rfl⟩
  case restoreRequest =>
    intro s a val hd hv hn hfailed
    have hw := write_answer hd ((dirApply_planeRestore ⟨hv, Nat.zero_le _, hn⟩).trans (if_neg (by simpa [hv] using hfailed)))
    exact ⟨_, hw, rfl, rfl, rfl, rfl, rfl⟩

/-- Settles O35: the pending verdict of lowest number is kept as a record once it is due, and its kind says what it does. -/
theorem verdictsAreApplied : Obligations.VerdictsAreApplied := by
  refine ⟨?due, ?early, ?dead, ?excluded⟩
  case due =>
    intro s p number x hx ht hmin
    obtain ⟨hep, hmod⟩ := applyVerdict_due hx ht hmin
    cases p with
    | ep => exact ⟨s.verdictKept .ep number x.v, nextOn_congr .ep (hep rfl), rfl, rfl, rfl, rfl, rfl, rfl⟩
    | mod => exact ⟨s.verdictKept .mod number x.v, nextOn_congr .mod (hmod rfl), rfl, rfl, rfl, rfl, rfl, rfl⟩
  case early => exact fun s p number x hx ht => nextOn_congr p (applyVerdict_early hx ht)
  case dead =>
    intro s number x hx ht hmin hk
    have hw := ((applyVerdict_due (p := .mod) hx ht hmin).2 rfl).trans (applyMod_dead hk)
    refine ⟨_, nextOn_congr .mod hw, rfl, ?_, fun n hn => ?_, rfl, rfl⟩
    · exact congrArg Route.fenced (tabGetD_tabPut_same _ _ _ _)
    · exact tabGetD_tabPut_other _ _ _ hn
  case excluded =>
    intro s number x hx ht hmin hk hnew hlen
    have hw := ((applyVerdict_due (p := .ep) hx ht hmin).1 rfl).trans ((applyEp_exclude hk).trans (exclude_new hnew hlen))
    exact ⟨_, nextOn_congr .ep hw, rfl, rfl, rfl⟩

end Sys2Proof.Machine
end

section
/-! PROOFS. Faults, canaries, suspects and test windows (R292 to R298). -/

namespace Sys2Proof.Machine

section

variable {s : State} {p : Part}

/-! ### Faults and canaries (R292 to R295) -/

theorem tileOut_serves {t : Nat} (h : (s.tile t).inService = true) :
    s.tileOut t = (s.modTile t fun x => { x with inService := false }).tileClean t :=
  if_neg (by rw [h]; decide)

theorem stopPorts_down (s : State) : ∀ q ∈ s.stopPorts.mod.sh.ports, q.2.role = 0 ∨ q.2.state = 1 := by
  intro q hq
  obtain ⟨x, -, rfl⟩ := List.mem_map.mp hq
  split
  · next h => exact .inl h
  · exact .inr rfl

theorem canary_due {e exact ordered at_ : Nat} (hs : s.canaryStart e = some at_) (hl : tabGet s.mod.canaryLast e ≠ some at_)
    (he : e < 512) (ho : e ∉ s.mod.engOut) (hm : s.mod.sh.mode = 0) : s.canary e exact ordered =
    if exact = Config.canaryDigest 0 s.mod.sh.rot.version ∧ ordered = Config.canaryDigest 1 s.mod.sh.rot.version then
      s.modMod fun m => { m with canaryLast := tabSet m.canaryLast e at_ }
    else s.canaryFail e at_ := by
  unfold State.canary
  rw [hs]
  refine if_neg ?_
  rintro (h | h | h | ⟨h, -⟩)
  · omega
  · exact hl h
  · exact ho (List.contains_iff_mem.mp h)
  · rw [hm] at h
    exact absurd h (by decide)

theorem canary_done {e exact ordered at_ : Nat} (hs : s.canaryStart e = some at_) (hl : tabGet s.mod.canaryLast e = some at_) :
    s.canary e exact ordered = s := by
  unfold State.canary
  rw [hs]
  exact if_pos (.inr (.inl hl))

/-- R296: a corruption report that names no engine is counted and logged. -/
theorem corruption_counted {a : Access} {val : List Byte} (hv : val.length = 16)
    (hp : s.partitionOf (bits (beNat val) 127 112) = a.partition) : s.corruption a val [] =
    (stOk, (s.mgCount 8).logEvent .mod 1 0x000A (bits (beNat val) 127 112)
      (bits (beNat val) 111 98 * 2 ^ 96 + bits (beNat val) 95 64 * 2 ^ 64)) := by
  refine (if_neg (by simp [hv, hp])).trans ?_
  simp

theorem suspectEval_none (he : s.epochOf .mod % max 1 (s.regNow .mod 0xA50001) = 0) (hl : ∀ r ∈ s.mod.late, s.lateSuspect r.2 = false) :
    s.suspectEval = { s with mod := { s.mod with late := [] } } := by
  have hbad : (s.mod.late.filter fun r => s.lateSuspect r.2) = [] := List.filter_eq_nil_iff.mpr fun r hr => Bool.not_eq_true _ ▸ hl r hr
  refine (if_neg (not_not.mpr he)).trans ?_
  rw [hbad]
  rfl

theorem clearSuspect_known {val : List Byte} (hv : val.length = 2) (hn : beNat val ≤ 511) : s.clearSuspect val =
    (stOk, (s.modVe fun e => { e with suspectMask := e.suspectMask.filter fun q => q != beNat val }).issueVerdict 8 (beNat val) 0 0) :=
  if_neg (by omega)

/-! ### Windows (R297, R298) -/

theorem dirApply_window {a : Access} {val : List Byte} {x : DirAux} (hv : val.length = 16) :
    s.dirApply p a (windowKey p) val x = s.windowWrite p (s.sel p a.ctx (windowKey p - 1)) val := by
  cases p
  · exact dirApply_epWindow hv
  · exact dirApply_modWindow hv

/-- R297: an entry of an engine's window that meets every condition is accepted where no window and no Mown entry stands. -/
theorem windowWrite_first {i : Nat} {val : List Byte} {x : Window} (hv : val.length = 16) (hx : windowOf (beNat val) = (x, 0))
    (ht : windowTarget p x = true) (hlen : 1 ≤ x.length) (ha : x.action = 0) (hus : x.start % 1000 = 0)
    (hlate : s.rackNs p + 100000 ≤ x.start) (hw : (s.sh p).windows = []) (hk : x.kind = 0 ∨ x.kind = 3)
    (hpool : s.poolAllows x = true) (hm : (s.sh p).mown = []) : s.windowWrite p i val =
    (stOk, s.modSh p fun sh => { sh with windows := tabSet sh.windows i x }) := by
  have h1 : ¬ x.kind = 1 := by omega
  have h2 : ¬ x.kind = 2 := by omega
  have hold : tabGetD ([] : Tab Window) i Window.zero = Window.zero := rfl
  have hnamed : p = .mod → s.engineNamed x.target = false := by
    rintro rfl
    unfold State.engineNamed
    rw [show s.mod.sh.mown = [] from hm]
    rfl
  unfold State.windowWrite
  dsimp only
  rw [hx, hw, hold]
  refine (if_neg ?_).trans ((if_neg (by decide)).trans ((if_neg ?_).trans ?_))
  · simp [hv, ht, ha, hus, h2, hpool]
    omega
  · rintro ⟨hp, (⟨-, hn⟩ | ⟨hk1, -⟩)⟩
    · rw [hnamed hp] at hn
      exact Bool.false_ne_true hn
    · exact h1 hk1
  · exact congrArg (Prod.mk stOk) (if_neg h1)

theorem windowState_same {i st : Nat} {x : Window} (h : tabGet (s.sh p).windows i = some x) :
    tabGet ((s.windowState p i st).sh p).windows i = some { x with state := st } := by
  unfold State.windowState
  rw [State.modSh_sh]
  exact (tabGet_tabMod_same _ _ _).trans (congrArg (Option.map _) h)

/-- R280: an engine that no Mown entry names is only withdrawn. -/
theorem engineOut_unnamed {e : Nat} (h : ∀ y ∈ s.mod.sh.mown, y.2.names (e / 8) = false) :
    s.engineOut e = s.modMod fun m => { m with engOut := setIns m.engOut e } := by
  have hhit : (s.mod.sh.mown.filter fun x => x.2.names (e / 8) && !x.2.engs.contains e) = [] :=
    List.filter_eq_nil_iff.mpr fun y hy => by rw [h y hy, Bool.false_and]; decide
  unfold State.engineOut
  rw [hhit]
  rfl

theorem windowStart_engine {i : Nat} {x : Window} (hx : tabGet s.mod.sh.windows i = some x) (h1 : x.state = 1) (hk : x.kind = 0)
    (ht : x.start ≤ s.rackNs .mod) (hend : s.rackNs .mod < x.start + x.length * 1000)
    (hm : ∀ y ∈ s.mod.sh.mown, y.2.names (x.target / 8) = false) :
    s.windowStart .mod i = (s.windowState .mod i 2).modMod fun m => { m with engOut := setIns m.engOut x.target } := by
  have hout : (s.windowState .mod i 2).engineOut x.target = _ := engineOut_unnamed (s := s.windowState .mod i 2) hm
  rw [← hout]
  unfold State.windowStart
  rw [show tabGet (s.sh .mod).windows i = some x from hx]
  refine (if_neg (by omega)).trans ((if_neg (by omega)).trans ((if_neg (by omega)).trans ((if_neg (by omega)).trans ?_)))
  rw [hk]
  rfl

theorem windowStart_missed {i : Nat} {x : Window} (hx : tabGet s.mod.sh.windows i = some x) (h1 : x.state = 1) (hk : x.kind = 0)
    (ht : x.start ≤ s.rackNs .mod) (hend : x.start + x.length * 1000 ≤ s.rackNs .mod) :
    s.windowStart .mod i = (s.windowState .mod i 5).mgCount 10 := by
  unfold State.windowStart
  rw [show tabGet (s.sh .mod).windows i = some x from hx]
  refine (if_neg (by omega)).trans ((if_pos hend).trans ((if_pos rfl).trans ?_))
  exact congrArg (State.mgCount · 10) (if_neg (by omega))

theorem windowStart_copy {i : Nat} {x : Window} (hx : tabGet s.ep.sh.windows i = some x) (h1 : x.state = 1) (hk : x.kind = 3)
    (ht : x.start ≤ s.rackNs .ep) (hend : s.rackNs .ep < x.start + x.length * 1000) :
    s.windowStart .ep i = (s.windowState .ep i 2).modEp fun e => { e with enginesOut := setIns e.enginesOut x.target } := by
  unfold State.windowStart
  rw [show tabGet (s.sh .ep).windows i = some x from hx]
  refine (if_neg (by omega)).trans ((if_neg (by omega)).trans ((if_neg (by omega)).trans ((if_neg (by omega)).trans ?_)))
  rw [hk]
  rfl

theorem windowEnd_engine {i : Nat} {x : Window} (hx : tabGet s.mod.sh.windows i = some x) (h2 : x.state = 2) (hk : x.kind = 0) :
    s.windowEnd .mod i true =
      (s.windowState .mod i 3).modMod fun m => { m with engOut := m.engOut.filter fun e => e != x.target } := by
  unfold State.windowEnd
  rw [show tabGet (s.sh .mod).windows i = some x from hx]
  refine (if_neg (not_not.mpr h2)).trans ((if_pos rfl).trans ?_)
  rw [hk]
  rfl

theorem windowEnd_failed {i : Nat} {x : Window} (hx : tabGet s.mod.sh.windows i = some x) (h2 : x.state = 2) (hk : x.kind = 0)
    (ha : x.action = 0) : s.windowEnd .mod i false =
      ((s.windowState .mod i 4).mgCount 9).report .mod 5 0 ((s.windowState .mod i 4).mgCount 9).plane := by
  unfold State.windowEnd
  rw [show tabGet (s.sh .mod).windows i = some x from hx]
  refine (if_neg (not_not.mpr h2)).trans ((if_neg (by rw [ha]; decide)).trans ?_)
  rw [hk]
  rfl

theorem windowEnd_copy {i : Nat} {x : Window} (hx : tabGet s.ep.sh.windows i = some x) (h2 : x.state = 2) (hk : x.kind = 3) :
    s.windowEnd .ep i true =
      (s.windowState .ep i 3).modEp fun e => { e with enginesOut := e.enginesOut.filter fun g => g != x.target } := by
  unfold State.windowEnd
  rw [show tabGet (s.sh .ep).windows i = some x from hx]
  refine (if_neg (not_not.mpr h2)).trans ((if_pos rfl).trans ?_)
  rw [hk]
  rfl

theorem mem_without {l : List Nat} {n e : Nat} : e ∈ (l.filter fun q => q != n) ↔ e ∈ l ∧ e ≠ n := by
  rw [List.mem_filter, bne_iff_ne]

end

/-- Settles O36: each fault withdraws its unit, and a canary, a report and an evaluation end at the first test that holds. -/
theorem faultsWithdrawUnits : Obligations.FaultsWithdrawUnits := by
  refine ⟨?gone, ?tile, ?watchdog, ?root, ?crossing, ?otherDomain, ?canary, ?done, ?corruption, ?evaluation, ?notYet, ?clear⟩
  case gone => exact fun s t h => next_congr (congrArg State.modOn (if_pos (by rw [h]; rfl)))
  case tile =>
    intro s t h
    refine ⟨_, next_congr (congrArg State.modOn (tileOut_serves h)), ?_, fun r hr => tile_modTile_other s _ hr, rfl, rfl, rfl, rfl, rfl,
      rfl⟩
    exact congrArg Tile.inService (tile_modTile_same s t _)
  case watchdog => exact fun s => ⟨_, rfl, rfl, rfl, rfl, stopPorts_down _, rfl, rfl⟩
  case root => exact fun s => rfl
  case crossing => exact fun s d h1 h2 => next_congr (if_pos ⟨h1, h2⟩)
  case otherDomain => exact fun s d h => next_congr (if_neg h)
  case canary =>
    rintro s e exact ordered at_ ver hs hl he ho hm rfl
    exact next_congr (canary_due hs hl he ho hm)
  case done => exact fun s e exact ordered at_ hs hl => next_congr (canary_done hs hl)
  case corruption =>
    rintro s a val failing hd hv hp rfl
    refine next_congr ((State.writeEntry_of _ hd).trans ?_)
    rw [dirApply_corruption hv]
    exact congrArg (dirAnswer .mod a.ctx) (corruption_counted hv hp)
  case evaluation => exact fun s he hl => next_congr (suspectEval_none he hl)
  case notYet => exact fun s he => next_congr (if_pos he)
  case clear =>
    intro s a val hd hv hn
    have hw := write_answer hd ((dirApply_suspect ⟨hv, Nat.zero_le _, hn⟩).trans (clearSuspect_known hv hn))
    exact ⟨_, hw, fun n => mem_without, rfl, rfl, rfl⟩

/-- Settles O37: a window's state moves with its unit. -/
theorem windowsRunTheirStates : Obligations.WindowsRunTheirStates := by
  refine ⟨?write, ?engine, ?missed, ?copy, ?passed, ?failed, ?copyPassed⟩
  case write =>
    rintro s p a val x i hd hv hx rfl ht hlen ha hus hlate hw hk hpool hm
    have he := write_answer hd ((dirApply_window hv).trans (windowWrite_first hv hx ht hlen ha hus hlate hw hk hpool hm))
    cases p <;> exact ⟨_, he, tabGet_tabSet_same _ _ _, fun j hj => tabGet_tabSet_other _ _ hj, rfl, rfl, rfl⟩
  case engine =>
    intro s i x hx h1 hk ht hend hm
    exact ⟨_, next_congr (windowStart_engine hx h1 hk ht hend hm), windowState_same (p := .mod) hx, rfl, rfl, rfl, rfl⟩
  case missed =>
    intro s i x hx h1 hk ht hend
    exact ⟨_, next_congr (windowStart_missed hx h1 hk ht hend), windowState_same (p := .mod) hx, rfl, rfl, rfl⟩
  case copy =>
    intro s i x hx h1 hk ht hend
    exact ⟨_, next_congr (windowStart_copy hx h1 hk ht hend), windowState_same (p := .ep) hx, rfl, rfl, rfl⟩
  case passed =>
    intro s i x hx h2 hk
    exact ⟨_, next_congr (windowEnd_engine hx h2 hk), windowState_same (p := .mod) hx, fun e => mem_without, rfl, rfl⟩
  case failed =>
    intro s i x hx h2 hk ha
    have hplane : ((s.windowState .mod i 4).mgCount 9).plane = s.plane :=
      mgCount_keeps _ 9 (·.plane) (fun _ _ => rfl) fun _ _ => rfl
    have hw := windowEnd_failed hx h2 hk ha
    rw [hplane] at hw
    exact ⟨_, next_congr hw, windowState_same (p := .mod) hx, rfl, rfl, rfl⟩
  case copyPassed =>
    intro s i x hx h2 hk
    exact ⟨_, next_congr (windowEnd_copy hx h2 hk), windowState_same (p := .ep) hx, fun e => mem_without, rfl, rfl⟩

end Sys2Proof.Machine
end

section
/-! PROOFS. Ports change their width and fail; port roles and eye scans (R231, R250 to R254). -/

namespace Sys2Proof.Machine

section

variable {s : State} {p : Part} {n l : Nat}

/-! ### Width changes (R251) -/

theorem PortSet.lane {u : State} {q : Port} (h : PortSet s p n q u) (m : Nat) : u.lane p m = s.lane p m :=
  Eq.trans (by cases p <;> rfl) ((congrArg (fun v => v.lane p m) h.beyond).trans (by cases p <;> rfl))

/-- R251: the WIDTH block of a width change leaves in every lane of the port. -/
theorem sendWidth_sent {w : WidthState} (hw : (s.port p n).wc = some w) : ∃ (u : State) (l : List Out), s.sendWidth p n = u ∧
    PortSet s p n { s.port p n with wc := some { w with sent := s.ns } } u ∧
    u.out = s.out ++ l ++ [.width p n (widthBlock w)] ∧ ∀ o ∈ l, o.isSet = true := by
  obtain ⟨t, ht⟩ : ∃ t : State, t = s.setPort p n { s.port p n with wc := some { w with sent := s.ns } } := ⟨_, rfl⟩
  have hs : s.sendWidth p n = ((t.padSlots p n (t.txLanes p n).length).putBlocks p n
      ((t.txLanes p n).map fun _ => (widthBlock w).block)).1.emit (.width p n (widthBlock w)) := by
    unfold State.sendWidth
    rw [hw, ht]
    rfl
  obtain ⟨hT, -⟩ := put_blocks (t.padSlots p n (t.txLanes p n).length) p n ((t.txLanes p n).map fun _ => (widthBlock w).block)
  obtain ⟨l, hl, hset⟩ := txOnly_out hT
  rw [out_padSlots, ht, out_setPort] at hl
  have hport := portSet_setPort s p n { s.port p n with wc := some { w with sent := s.ns } }
  rw [← ht] at hl hport
  exact ⟨_, l, hs, hport.sent ((beyondLink_emit ..).trans ((beyondLink_txOnly hT).trans (beyondLink_padSlots ..))),
    congrArg (· ++ [_]) hl, hset⟩

/-- R251: a change of the port's width state whose WIDTH block then leaves. -/
theorem setWidth_sent {q : Port} {w : WidthState} (hq : q.wc = some w) : ∃ (u : State) (l : List Out), (s.setPort p n q).sendWidth p n = u ∧
    PortSet s p n { q with wc := some { w with sent := s.ns } } u ∧
    u.out = s.out ++ l ++ [.width p n (widthBlock w)] ∧ ∀ o ∈ l, o.isSet = true := by
  have hset := portSet_setPort s p n q
  have hwc : ((s.setPort p n q).port p n).wc = some w := by rw [hset.port_same, hq]
  obtain ⟨u, l, hu, hport, hl, hsets⟩ := sendWidth_sent hwc
  rw [hset.port_same, hset.ns] at hport
  rw [out_setPort] at hl
  exact ⟨u, l, hu, hset.again hport, hl, hsets⟩

/-- R251: an answered WIDTH block: the width state with what its proposal agrees. -/
def WidthState.agreedOn (w : WidthState) (b : WidthBlock) (agreed after : Nat) : WidthState :=
  { w with
    peer := some b.proposed
    agreed := agreed
    txAfter := some after
    rxAfter := if b.ack then some b.switchAfter else w.rxAfter
    txDone := false
    rxDone := false }

theorem widthReceive_proposal {b : WidthBlock} {w : WidthState} (h7 : (s.port p n).state = 7) (hw : (s.port p n).wc = some w)
    (hp : w.peer ≠ some b.proposed) (ha : widest (s.cfgWidth p n) (w.mine &&& b.proposed) ≠ 0) : s.widthReceive p n b =
    (s.setPort p n { s.port p n with
      wc := some (w.agreedOn b (widest (s.cfgWidth p n) (w.mine &&& b.proposed)) ((s.markNow p n + 2) % 65536)) }).sendWidth p n := by
  refine (if_neg (not_not.mpr h7)).trans ?_
  rw [hw]
  exact (if_neg ha).trans (if_neg hp)

theorem widthReceive_repeated {b : WidthBlock} {w : WidthState} (h7 : (s.port p n).state = 7) (hw : (s.port p n).wc = some w)
    (hp : w.peer = some b.proposed) (ha : widest (s.cfgWidth p n) (w.mine &&& b.proposed) ≠ 0) : s.widthReceive p n b =
    s.setPort p n { s.port p n with wc := some { w with rxAfter := if b.ack then some b.switchAfter else w.rxAfter } } := by
  refine (if_neg (not_not.mpr h7)).trans ?_
  rw [hw]
  exact (if_neg ha).trans (if_pos hp)

theorem widthReceive_noSet {b : WidthBlock} {w : WidthState} (h7 : (s.port p n).state = 7) (hw : (s.port p n).wc = some w)
    (ha : widest (s.cfgWidth p n) (w.mine &&& b.proposed) = 0) : s.widthReceive p n b = s.goDown p n := by
  refine (if_neg (not_not.mpr h7)).trans ?_
  rw [hw]
  exact if_pos ha

/-- R251: with no frame to send again a port only marks that its transmitter switched, and starts on the new lanes. -/
theorem widthSwitch_transmit {count t : Nat} {w : WidthState} (hw : (s.port p n).wc = some w) (ht : w.txAfter = some t)
    (hc : (65536 + count - t) % 65536 < 32768) (htx : w.txDone = false) (hrx : w.rxDone = false) (hr : (s.port p n).replay = []) :
    s.widthSwitch p n false count =
      (((s.setPort p n { s.port p n with wc := some { w with txDone := true } }).newWidth p n (s.txLanes p n).length).setPort p n
        { s.port p n with wc := some { w with txDone := true } }) := by
  obtain ⟨v, hv⟩ : ∃ v : State, v = (s.setPort p n { s.port p n with wc := some { w with txDone := true } }).newWidth p n
    (s.txLanes p n).length := ⟨_, rfl⟩
  have hport : v.port p n = { s.port p n with wc := some { w with txDone := true } } := by
    rw [hv]
    exact (port_setTx ..).trans (State.port_setPort_same ..)
  have hresend : v.resendFrames p n = v.setPort p n { s.port p n with wc := some { w with txDone := true } } := by
    unfold State.resendFrames
    rw [hport]
    dsimp only
    rw [hr]
    rfl
  rw [← hv]
  refine Eq.trans ?_ hresend
  unfold State.widthSwitch
  rw [hw]
  refine (if_neg ?_).trans ((if_neg Bool.false_ne_true).trans ((if_neg (by rw [htx]; exact Bool.false_ne_true)).trans
    ((if_neg (by rw [hrx]; exact Bool.false_ne_true)).trans ?_)))
  · simp [ht, hc]
  · rw [hv]
    rfl

/-- R251: a port of the module whose width change is over takes the agreed lanes. -/
theorem widthDone_mod (a : Nat) : (s.widthDone .mod n a).port .mod n =
    { s.port .mod n with wc := none, lanes := a, width := maskWidth a } ∧ (s.widthDone .mod n a).ep = s.ep ∧
    (s.widthDone .mod n a).out = s.out := by
  have keep : ∀ {β : Type} (g : State → β), (∀ (t : State) (m : Nat) (x : Lane), g (t.setLane .mod m x) = g t) →
      g (s.widthDone .mod n a) = g (s.modPort .mod n fun q => { q with wc := none, lanes := a, width := maskWidth a }) := by
    intro β g hg
    unfold State.widthDone
    dsimp only
    rw [if_neg (show ¬ Part.mod = Part.ep by decide)]
    exact foldl_keeps g _ (fun _ _ => hg _ _ _) _ _
  exact ⟨(keep (·.port .mod n) fun _ _ _ => State.port_setLane ..).trans (State.port_setPort_same ..), keep (·.ep) fun _ _ _ => rfl,
    keep (·.out) fun _ _ _ => rfl⟩

theorem widthSwitch_receive {count t : Nat} {w : WidthState} (hw : (s.port .mod n).wc = some w) (ht : w.rxAfter = some t)
    (hc : (65536 + count - t) % 65536 < 32768) (htx : w.txDone = true) : s.widthSwitch .mod n true count =
      (s.modPort .mod n fun q => { q with wc := some { w with rxDone := true }, marker := count }).widthDone .mod n w.agreed := by
  unfold State.widthSwitch
  rw [hw]
  refine (if_neg ?_).trans ((if_pos rfl).trans (if_pos htx))
  simp [ht, hc]

theorem laneRestore_proposes (h7 : (s.port .ep (s.portOfLane .ep l)).state = 7) (hw : (s.port .ep (s.portOfLane .ep l)).wc = none)
    (h6 : (s.lane .ep l).state = 6) (hb : (s.lane .ep l).blockLock = true) (ho : s.laneOut .ep l = false) : s.laneRestore .ep l =
    s.widthStart .ep (s.portOfLane .ep l)
      ((s.port .ep (s.portOfLane .ep l)).lanes ||| s.sound .ep (s.portOfLane .ep l)) 2 := by
  refine if_neg ?_
  simp [h7, hw, h6, hb, ho]

/-! ### Lane failures and ports down (R252, R253) -/

/-- R252: a lane as it is put to its place again; nothing of it changes. -/
def State.lanePut (s : State) (p : Part) (l : Nat) : State := s.setLane p l (s.lane p l)

/-- R252: does a port use the lane? -/
def State.laneUsed (s : State) (p : Part) (l : Nat) : Bool :=
  (s.port p (s.portOfLane p l)).state == 7 &&
    bit (s.port p (s.portOfLane p l)).lanes ((s.port p (s.portOfLane p l)).indexOf (l - 4 * s.portOfLane p l))

/-- R252: a lane that failed starts its bring-up again. -/
def State.laneRestarted (s : State) (p : Part) (l : Nat) : State := (s.lanePut p l).setLane p l ((s.lane p l).restart 8 s.ns)

theorem laneRestarted_keeps (s : State) (p : Part) (l : Nat) : (s.laneRestarted p l).lane p l = (s.lane p l).restart 8 s.ns ∧
    (∀ m, m ≠ l → (s.laneRestarted p l).lane p m = s.lane p m) ∧ (∀ m, (s.laneRestarted p l).port p m = s.port p m) ∧
    (s.laneRestarted p l).out = s.out ∧ ((s.laneRestarted p l).sh p).reg = (s.sh p).reg := by
  refine ⟨State.lane_setLane_same .., fun m hm => ?_, fun m => (State.port_setLane ..).trans (State.port_setLane ..),
    (out_setLane ..).trans (out_setLane ..), by cases p <;> rfl⟩
  exact (State.lane_setLane_other _ _ _ hm).trans (State.lane_setLane_other _ _ _ hm)

/-- R252: without its signal a lane that is brought up fails. -/
theorem laneFailure_signal (h0 : (s.lane p l).state ≠ 0) : s.laneFailure p l 0 false =
    if !s.laneUsed p l then s.laneRestarted p l
    else if ((s.laneRestarted p l).sh p).reg 0x410007 (s.portOfLane p l) = 0 ∨ widest ((s.laneRestarted p l).cfgWidth p (s.portOfLane p l))
        ((s.port p (s.portOfLane p l)).lanes &&& (s.laneRestarted p l).sound p (s.portOfLane p l)) = 0 then
      (s.laneRestarted p l).goDown p (s.portOfLane p l)
    else (s.laneRestarted p l).widthStart p (s.portOfLane p l)
      ((s.port p (s.portOfLane p l)).lanes &&& (s.laneRestarted p l).sound p (s.portOfLane p l)) 0 := by
  have hlane : (s.lanePut p l).lane p l = s.lane p l := State.lane_setLane_same ..
  have hfail : ¬ ((!(s.lanePut p l).laneFailed p l false) = true ∨ ((s.lanePut p l).lane p l).state = 0) := by
    rw [hlane]
    rintro (h | h)
    · exact Bool.false_ne_true h
    · exact h0 h
  have hrestart : (s.lanePut p l).modLane p l (fun x => x.restart 8 (s.lanePut p l).ns) = s.laneRestarted p l := by
    unfold State.modLane State.laneRestarted
    rw [hlane]
    cases p <;> rfl
  refine Eq.trans (if_neg hfail) ?_
  rw [← hrestart]
  rfl

theorem portDownCause_width : s.portDownCause p n 3 = if (match (s.port p n).wc with
    | some w => decide (w.since + 5 * markerPeriod ≤ s.ns)
    | none => false) then s.goDown p n else s := rfl

/-! ### Port roles and eye scans (R231, R254) -/

theorem rolesWrite_checked {val : List Byte} (hv : val.length = 64) (hr : ∀ m < 256, leNat val / 4 ^ m % 4 ≠ 3) : s.rolesWrite val =
    if s.mod.sh.ports.any fun q => q.2.state == 7 then (stBusy, s)
    else (stOk, if s.mod.ve.fenced then s.setReg .mod 0x500002 (leNat val) else (s.setReg .mod 0x500002 (leNat val)).rolesApply) := by
  have hnone : ((List.range 256).any fun m => leNat val / 4 ^ m % 4 == 3) = false := by
    rw [List.any_eq_false]
    intro m hm
    simpa using hr m (List.mem_range.mp hm)
  refine if_neg ?_
  rw [hnone]
  simp [hv]

theorem eyeStart_free (h : ¬ ((s.port p (s.portOfLane p l)).state = 7 ∧
      bit (s.port p (s.portOfLane p l)).lanes ((s.port p (s.portOfLane p l)).indexOf (l - 4 * s.portOfLane p l)) = true)) :
    s.eyeStart p l [1#8] = (stOk, s.setLane p l { s.lane p l with scanning := true }) := by
  have hone : ¬ (beNat [1#8] ≠ 1 ∨ [1#8].length ≠ 1) := by decide
  unfold State.eyeStart
  dsimp only
  rw [if_neg hone, if_neg h]
  rfl

end

/-- Settles O40: a port's width state moves with the WIDTH blocks, a lane that failed starts again, and what depends on it goes
down. -/
theorem portsChangeWidthAndFail : Obligations.PortsChangeWidthAndFail := by
  refine ⟨?proposal, ?repeated, ?noSet, ?transmit, ?receive, ?restore, ?failed, ?failedDown, ?late, ?noChange, ?roles, ?rolesBusy,
    ?eyeStart, ?eyeDone⟩
  case proposal =>
    intro s p n b w h7 hw hp ha
    obtain ⟨x, hx⟩ : ∃ x, x = w.agreedOn b (widest (s.cfgWidth p n) (w.mine &&& b.proposed)) ((s.markNow p n + 2) % 65536) := ⟨_, rfl⟩
    have hwr := widthReceive_proposal h7 hw hp ha
    rw [← hx] at hwr
    obtain ⟨u, l, hu, hset, hl, hsets⟩ := setWidth_sent (s := s) (p := p) (n := n) (q := { s.port p n with wc := some x }) rfl
    refine ⟨u, { x with sent := s.ns }, l, next_congr (hwr.trans hu), by rw [hset.port_same], by rw [hx]; rfl, by rw [hx]; rfl,
      by rw [hx]; rfl, by rw [hx]; rfl, fun hack => ?_, by rw [hset.port_same], hset.port_other, hl, hsets⟩
    rw [hx]
    exact if_pos hack
  case repeated =>
    intro s p n b w h7 hw hp ha
    exact ⟨_, next_congr (widthReceive_repeated h7 hw hp ha), State.port_setPort_same .., fun m hm => State.port_setPort_other _ _ _ hm,
      out_setPort ..⟩
  case noSet => exact fun s p n b w h7 hw ha => next_congr (widthReceive_noSet h7 hw ha)
  case transmit =>
    intro s p n count t w hw ht hc htx hrx hr
    refine ⟨_, next_congr (widthSwitch_transmit hw ht hc htx hrx hr), State.port_setPort_same .., ?_, fun m hm => ?_, ?_⟩
    · unfold State.txLanes
      rw [State.port_setPort_same]
      rfl
    · exact (State.port_setPort_other _ _ _ hm).trans ((port_setTx ..).trans (State.port_setPort_other _ _ _ hm))
    · exact (out_setPort ..).trans ((out_setTx ..).trans (out_setPort ..))
  case receive =>
    intro s n count t w hw ht hc htx
    obtain ⟨hport, hep, hout⟩ := widthDone_mod (s := s.modPort .mod n fun q => { q with wc := some { w with rxDone := true }, marker := count })
      (n := n) w.agreed
    exact ⟨_, next_congr (widthSwitch_receive hw ht hc htx), by rw [hport], by rw [hport], by rw [hport], hep, hout⟩
  case restore =>
    intro s l h7 hw h6 hb ho
    obtain ⟨x, hx⟩ : ∃ x : WidthState, x = { mine := (s.port .ep (s.portOfLane .ep l)).lanes ||| s.sound .ep (s.portOfLane .ep l),
                                              peer := none, reason := 2, txAfter := none, rxAfter := none, agreed := 0,
                                              txDone := false, rxDone := false, since := s.ns, sent := s.ns } := ⟨_, rfl⟩
    have hstart := laneRestore_proposes h7 hw h6 hb ho
    obtain ⟨u, o, hu, hset, hl, hsets⟩ := setWidth_sent (s := s) (p := .ep) (n := s.portOfLane .ep l)
      (q := { s.port .ep (s.portOfLane .ep l) with wc := some x }) rfl
    have hw' : s.laneRestore .ep l = u := hstart.trans (by rw [← hu, hx]; rfl)
    refine ⟨u, { x with sent := s.ns }, o, next_congr hw', by rw [hset.port_same], by rw [hx], by rw [hx], by rw [hx],
      by rw [hset.port_same], hset.port_other, fun m => hset.lane m, hset.mod_ep, hl, hsets⟩
  case failed =>
    intro s p l h0 h7
    obtain ⟨hsame, hother, hport, hout, -⟩ := laneRestarted_keeps s p l
    have hused : s.laneUsed p l = false := by
      unfold State.laneUsed
      rw [beq_false_of_ne h7, Bool.false_and]
    exact ⟨_, nextOn_congr p ((laneFailure_signal h0).trans (if_pos (by rw [hused]; rfl))), hsame, hother, hport, hout⟩
  case failedDown =>
    intro s p l h0 h7 hb hr
    obtain ⟨hsame, hother, hport, hout, hreg⟩ := laneRestarted_keeps s p l
    have hused : s.laneUsed p l = true := by
      unfold State.laneUsed
      rw [hb, h7]
      rfl
    exact ⟨_, nextOn_congr p ((laneFailure_signal h0).trans ((if_neg (by rw [hused]; decide)).trans (if_pos (.inl (by rw [hreg, hr]))))),
      hsame, hport, hout⟩
  case late =>
    intro s p n w hw ht
    refine nextOn_congr p (portDownCause_width.trans (if_pos ?_))
    rw [hw]
    exact decide_eq_true ht
  case noChange =>
    intro s p n hw
    refine nextOn_congr p (portDownCause_width.trans (if_neg ?_))
    rw [hw]
    exact Bool.false_ne_true
  case roles =>
    intro s a val hd hv hr hports
    have hno : (s.mod.sh.ports.any fun q => q.2.state == 7) = false := by
      rw [List.any_eq_false]
      intro q hq
      simpa using hports q hq
    have hw := (writeNamed_eq hd ((dirApply_portRole hv).trans ((rolesWrite_checked hv hr).trans (if_neg (by rw [hno]; decide)))))
    exact ⟨s.setReg .mod 0x500002 (leNat val), next_congr (congrArg State.modOn hw), Shared.reg_setReg_same _ _ _ _, rfl, rfl, rfl⟩
  case rolesBusy =>
    intro s a val q hd hv hr hq h7
    have hany : (s.mod.sh.ports.any fun q => q.2.state == 7) = true := List.any_eq_true.mpr ⟨q, hq, by simp [h7]⟩
    exact next_congr (congrArg State.modOn (writeNamed_eq hd ((dirApply_portRole hv).trans ((rolesWrite_checked hv hr).trans (if_pos hany)))))
  case eyeStart =>
    rintro s p a l hd rfl h
    have hw := write_answer hd ((dirApply_eyeScan (by decide)).trans (eyeStart_free h))
    refine ⟨_, hw, lane_setLane_emit .., fun m hm => lane_setLane_emit_other _ _ _ _ hm, fun n => port_setLane_emit .., out_setLane_emit ..⟩
  case eyeDone =>
    intro s p l grid hscan hlen
    exact ⟨_, next_congr (if_pos hscan), State.lane_setLane_same .., fun m hm => State.lane_setLane_other _ _ _ hm,
      fun n => State.port_setLane .., out_setLane ..⟩

end Sys2Proof.Machine
end

section
/-! PROOFS. Copies, lists and collectives are accepted or refused at once (R109, R112, R114, R159). -/

namespace Sys2Proof.Machine

section

variable {s : State} {l n : Nat} {m : Eri}

/-! ### A collective's entry (R159) -/

/-- R159: the entry that a COLLECTIVE_START without a start time fills. -/
def State.collEntry (s : State) (l slot : Nat) (m : Eri) : EpColl :=
  let f := startFields m
  let d := beNat (sliceBytes m.body 0 64)
  { id := s.ep.nextColl, job := m.job, slot := slot, agent := m.agent, tag := m.tag, link := l, group := f.1, cctx := f.2.1,
    planes := f.2.2.1, cseq := f.2.2.2.1, vfas := [bits d 511 456, bits d 455 400, bits d 399 344, bits d 343 288],
    size := bits d 287 256, rank := bits d 255 244, members := bits d 243 232, root := bits d 231 220,
    units := bits d 219 209, recvSlots := bits d 208 177, start := 0,
    state := 0, cword := none, seen := [], probes := [], todo := [], got := [], arrays := [], passed := [], sentOn := [],
    arrived := [], open_ := 0, written := [], recvd := 0, digest := 0, short := 0, late := 0, holds := 0, worst := 0,
    rel := [], accepted := s.ns, limit := s.reg .ep 0xD61002 * 1000, dead := [], bufs := [], routes := [], routeReads := 0 }

/-- R159: the accepted entry, with what a held translation already shows of its context. -/
def State.collAccepted (s : State) (l slot : Nat) (m : Eri) : EpColl :=
  { s.collEntry l slot m with cword := s.peekContext (s.collEntry l slot m) }

theorem collStart_now (hm : s.ep.sh.mode = 0) (h0 : bits (beNat (sliceBytes m.body 0 64)) 176 113 = 0) : s.collStart l n m =
    (s.modEp fun e => { e with
      colls := e.colls ++ [s.collAccepted l n m]
      nextColl := s.ep.nextColl + 1 }).collNeed (s.collAccepted l n m) := by
  have hwild : ¬ s.ep.sh.mode = 1 := by omega
  unfold State.collStart
  simp only [h0, bne_self_eq_false, Bool.false_and, Bool.false_eq_true, if_false, hwild]
  rfl

theorem eri_passes_run (h : s.eriPasses l m) {kd : Nat} (hk : m.kind = kd) (h6 : kd ≠ 0x06) :
    ∃ L, sameTab L s.ep.links ∧ EriPass (s.creditBack l m L) m ∧ s.eriRequest l kd m [] = (s.creditBack l m L).eriRun l m [] := by
  subst hk
  exact eriRequest_passes [] h h6

end

/-- Settles O45: a request that passes returns its credits, and the table of its kind has a place for it or answers at once. -/
theorem copiesListsAndCollectivesAreAccepted : Obligations.CopiesListsAndCollectivesAreAccepted := by
  refine ⟨?copy, ?full, ?arm, ?cancel, ?start, ?refused⟩
  case copy =>
    intro s l m n hpass hk hlen hj hplaces hrev hbad
    obtain ⟨L, hL, hp, hrun⟩ := eri_passes_run hpass hk (by decide)
    obtain ⟨c, hid, hjob, hslot, hagent, htag, hlist, hsrc, hdst, hl, heng, hissued, hopen, hstate, hadd⟩ :=
      addCopy_eq (u := (s.creditBack l m L).takeTag m) (d := copyDescOf m.body) (n := n) (j := m.job) (a := m.agent) (tg := m.tag) (l := l)
        (li := none) hrev hbad
    exact ⟨c, L, hL, hid, hjob, hslot, hagent, htag, hlist, hsrc, hdst, hl, heng, hissued, hopen, hstate,
      next_congr (congrArg State.epOn (hrun.trans ((eriRun_copy hp hk).trans ((eriCopy_taken (u := s.creditBack l m L) hlen hj hplaces).trans hadd))))⟩
  case full =>
    intro s l m n hpass hk hlen hj hplaces
    obtain ⟨L, hL, hp, hrun⟩ := eri_passes_run hpass hk (by decide)
    exact ⟨_, L, hL, rfl, next_congr (congrArg State.epOn (hrun.trans ((eriRun_copy hp hk).trans (eriCopy_full (u := s.creditBack l m L) hlen hj hplaces))))⟩
  case arm =>
    rintro s l m n count slot hpass hk hj rfl rfl hv h1 h2 hfree hplaces
    obtain ⟨L, hL, hp, hrun⟩ := eri_passes_run hpass hk (by decide)
    obtain ⟨x, hstate, hjob, hagent, htag, hvfa, hcount, hact, hstarted, hid, htodo, harm⟩ :=
      eriListArm_taken (u := s.creditBack l m L) (l := l) hj hv h1 h2 hfree hplaces
    exact ⟨x, L, hL, hstate, hjob, hagent, htag, hvfa, hcount, hact, hstarted, hid, htodo,
      next_congr (congrArg State.epOn (hrun.trans ((eriRun_listArm hp hk).trans harm)))⟩
  case cancel =>
    rintro s l m slot x hpass hk rfl hx hj hs
    obtain ⟨L, hL, hp, hrun⟩ := eri_passes_run hpass hk (by decide)
    have hend := listEnd_eq (u := s.creditBack l m L) (code := cDenied) hx
    have hcancel := (eriListCancel_eq (u := s.creditBack l m L) (l := l) hx hj hs).trans (congrArg (fun u => u.eriAnswer l m cDone false) hend)
    exact ⟨L, hL, next_congr (congrArg State.epOn (hrun.trans ((eriRun_listCancel hp hk).trans hcancel)))⟩
  case start =>
    intro s l m n hpass hk hj hr hm h0
    obtain ⟨L, hL, hp, hrun⟩ := eri_passes_run hpass hk (by decide)
    have hstart := collStart_now (s := (s.creditBack l m L).takeTag m) (l := l) (n := n) hm h0
    exact ⟨((s.creditBack l m L).takeTag m).collAccepted l n m, L, hL, rfl, rfl, rfl, rfl, rfl, rfl, rfl, rfl, rfl, rfl, rfl, rfl, rfl, rfl, rfl,
      next_congr (congrArg State.epOn (hrun.trans ((eriRun_collective hp hk).trans ((eriCollective_taken (u := s.creditBack l m L) hj hr).trans hstart))))⟩
  case refused =>
    intro s l m n code hpass hk hj hr
    obtain ⟨L, hL, hp, hrun⟩ := eri_passes_run hpass hk (by decide)
    exact ⟨_, L, hL, rfl, next_congr (congrArg State.epOn (hrun.trans ((eriRun_collective hp hk).trans (eriCollective_refused (u := s.creditBack l m L) hj hr))))⟩

section

variable {s : State} {l : Nat} {m : Eri} {k : EriLink} {c : Instr}

/-! ### Memory answers and credits (R99, R102, R106, R107) -/

/-- R99: the credits of a memory answer go back. -/
def State.memBack (s : State) (l : Nat) (m : Eri) (L : Tab EriLink) : State :=
  ({ s with ep := { s.ep with links := L } } : State).emit (.eri l (creditFor 1 m.units))

theorem exec_memoryAnswer (hc : c = .memoryData l m ∨ c = .memoryAck l m) : exec c s = .next (s.memAnswer l m) := by
  rcases hc with rfl | rfl <;> rfl

theorem memAnswer_known {w : MemMsg} (hk : tabGet s.ep.links l = some k) (hu : k.up = true) (hg : k.gotInit = true)
    (hc : m.units ≤ k.respCr) (hw : s.memOf m.tag = some w) (hz : m.unusedZero = true) (hkind : m.kind = 0x10 ∨ m.kind = 0x11) :
    ∃ L, sameTab L s.ep.links ∧ s.memAnswer l m = ((s.memBack l m L).memTake w m).epOn := by
  obtain ⟨L, hL, h⟩ := memAnswer_takes hk hu hg hc
  rw [hw, if_neg (by rw [hz]; rintro (h | h) <;> [omega; exact Bool.false_ne_true h])] at h
  exact ⟨L, hL, h⟩

theorem memAnswer_unknown (hk : tabGet s.ep.links l = some k) (hu : k.up = true) (hg : k.gotInit = true)
    (hc : m.units ≤ k.respCr) (hw : s.memOf m.tag = none) (hz : m.unusedZero = true) (hkind : m.kind = 0x10 ∨ m.kind = 0x11) :
    ∃ L, sameTab L s.ep.links ∧ s.memAnswer l m = (s.memBack l m L).epCount 20 := by
  obtain ⟨L, hL, h⟩ := memAnswer_takes hk hu hg hc
  rw [hw, if_neg (by rw [hz]; rintro (h | h) <;> [omega; exact Bool.false_ne_true h])] at h
  exact ⟨L, hL, h⟩

theorem memAnswer_malformed (hk : tabGet s.ep.links l = some k) (hu : k.up = true) (hg : k.gotInit = true)
    (hc : m.units ≤ k.respCr) (hbad : m.kind ≠ 0x10 ∧ m.kind ≠ 0x11 ∨ m.unusedZero = false) :
    ∃ L, sameTab L s.ep.links ∧ s.memAnswer l m = (s.memBack l m L).epCount 0 := by
  obtain ⟨L, hL, h⟩ := memAnswer_takes hk hu hg hc
  exact ⟨L, hL, h.trans (if_pos (hbad.imp id fun h => by rw [h]; rfl))⟩

theorem memTimeout_due {tag : Nat} {w : MemMsg} (hw : s.memOf tag = some w) (ht : w.sent + w.limit ≤ s.ns) :
    s.memTimeout tag = ((((s.memDrop tag).epCount 20).memTo w.who cPoison []).flushTx).epOn := by
  unfold State.memTimeout
  rw [hw]
  exact if_neg (by omega)

theorem memTimeout_early {tag : Nat} {w : MemMsg} (hw : s.memOf tag = some w) (ht : s.ns < w.sent + w.limit) : s.memTimeout tag = s := by
  unfold State.memTimeout
  rw [hw]
  exact if_pos ht

theorem modLink_links {f : EriLink → EriLink} (hk : tabGet s.ep.links l = some k) :
    tabGet (s.modLink l f).ep.links l = some (f k) ∧ (∀ j, j ≠ l → tabGet (s.modLink l f).ep.links j = tabGet s.ep.links j) :=
  ⟨(tabGet_tabMod_same _ _ _).trans (congrArg (Option.map f) hk), fun _ hj => tabGet_tabMod_other _ _ hj⟩

theorem form_ok {n : Nat} (h : m.kind = n) (hz : m.unusedZero = true) : ¬ (m.kind != n || !m.unusedZero) = true := by
  simp [h, hz]

theorem form_bad {n : Nat} (h : m.kind ≠ n ∨ m.unusedZero = false) : (m.kind != n || !m.unusedZero) = true := by
  rcases h with h | h <;> simp [h]

theorem linkMayUp_enabled (hl : l < 8) (hen : bit (s.reg .ep 0xD10001) l = true) (hnone : tabGet s.ep.links l = none)
    (htrip : s.ep.tripped = false) (hres : s.ep.inReset = false) (hcr : s.ep.sh.clk.crystal ≠ 2) : s.linkMayUp l = true := by
  have hlink : s.eriLink l = EriLink.down := congrArg (Option.getD · EriLink.down) hnone
  unfold State.linkMayUp
  rw [hlink]
  simp [hl, hen, htrip, hres, hcr, EriLink.down]

theorem initIn_whole (hl : s.linkUp l = true) (hk : m.kind = 0x3E) (hz : m.unusedZero = true) : s.initIn l m =
    (((s.modLink l fun k => { k with gotInit := true, compCr := creditOf m.aux 2, memCr := creditOf m.aux 3 }).payResp l).payOwed).flushTx :=
  (if_neg (by rw [hl]; decide)).trans (if_neg (form_ok hk hz))

theorem creditIn_whole (hl : s.linkUp l = true) (hk : m.kind = 0x3F) (hz : m.unusedZero = true) : s.creditIn l m =
    (s.modLink l fun k => { k with compCr := k.compCr + creditOf m.aux 2, memCr := k.memCr + creditOf m.aux 3 }).flushTx :=
  (if_neg (by rw [hl]; decide)).trans (if_neg (form_ok hk hz))

end

/-- Settles O46: an answer gives its credits back and ends the memory message of its tag, and Init and Credit set what a link holds. -/
theorem memoryAnswersAndLinkCredits : Obligations.MemoryAnswersAndLinkCredits := by
  refine ⟨?good, ?bad, ?unknown, ?malformed, ?timeout, ?early, ?init, ?initBad, ?credit, ?creditBad, ?up, ?lostDown, ?lost⟩
  case good =>
    intro s l m k w c hc hk hu hg hcr hw hz hkind hcode hlen hlen'
    have hk' : m.kind = 0x10 ∨ m.kind = 0x11 := by rw [hkind]; split <;> simp
    obtain ⟨L, hL, h⟩ := memAnswer_known hk hu hg hcr hw hz hk'
    exact ⟨L, hL, (exec_memoryAnswer hc).trans (next_congr (h.trans (congrArg State.epOn (memTake_good hkind hcode hlen hlen'))))⟩
  case bad =>
    intro s l m k w c hc hk hu hg hcr hw hz hkind hbad
    obtain ⟨L, hL, h⟩ := memAnswer_known hk hu hg hcr hw hz hkind
    exact ⟨L, hL, (exec_memoryAnswer hc).trans (next_congr (h.trans (congrArg State.epOn (memTake_bad hbad))))⟩
  case unknown =>
    intro s l m k c hc hk hu hg hcr hw hz hkind
    obtain ⟨L, hL, h⟩ := memAnswer_unknown hk hu hg hcr hw hz hkind
    exact ⟨L, hL, (exec_memoryAnswer hc).trans (next_congr h)⟩
  case malformed =>
    intro s l m k c hc hk hu hg hcr hbad
    obtain ⟨L, hL, h⟩ := memAnswer_malformed hk hu hg hcr hbad
    exact ⟨L, hL, (exec_memoryAnswer hc).trans (next_congr h)⟩
  case timeout => exact fun s tag w hw ht => next_congr (memTimeout_due hw ht)
  case early => exact fun s tag w hw ht => next_congr (memTimeout_early hw ht)
  case init =>
    intro s l m k hk hu hkind hz
    obtain ⟨hsame, hother⟩ := modLink_links (f := fun k => { k with gotInit := true, compCr := creditOf m.aux 2, memCr := creditOf m.aux 3 }) hk
    exact ⟨_, next_congr (initIn_whole (linkUp_of hk hu) hkind hz), hsame, hother, rfl⟩
  case initBad => exact fun s l m hl hbad => next_congr ((if_neg (by rw [hl]; decide)).trans (if_pos (form_bad hbad)))
  case credit =>
    intro s l m k hk hu hkind hz
    obtain ⟨hsame, hother⟩ := modLink_links (f := fun k => { k with
      compCr := k.compCr + creditOf m.aux 2
      memCr := k.memCr + creditOf m.aux 3 }) hk
    exact ⟨_, next_congr (creditIn_whole (linkUp_of hk hu) hkind hz), hsame, hother, rfl⟩
  case creditBad => exact fun s l m hl hbad => next_congr ((if_neg (by rw [hl]; decide)).trans (if_pos (form_bad hbad)))
  case up =>
    intro s l hl hen hnone htrip hres hcr
    have hdown : s.linkUp l = false := by
      unfold State.linkUp
      rw [hnone]
    exact ⟨_, _, next_congr (if_neg (by rw [linkMayUp_enabled hl hen hnone htrip hres hcr, hdown]; decide)), rfl, rfl, rfl, rfl, rfl, rfl, rfl⟩
  case lostDown => exact fun s l hl => next_congr (if_pos (by rw [hl]; rfl))
  case lost => exact fun s l hl => ⟨_, _, next_congr (if_neg (by rw [hl]; decide)), rfl, rfl, rfl⟩

end Sys2Proof.Machine
end

section
/-! PROOFS. Requests leave, are answered and are sent again (R56, R62, R78, R86 to R96). -/

namespace Sys2Proof.Machine

section

variable {s : State} {p : Part} {id : Nat} {r : Req}

/-! ### Requests that leave (R86) -/

theorem issue_free (hst : r.st = .waiting) (ha : s.heldByAgent r = false) (hm : s.maySend r = true) :
    ¬ (r.st ≠ .waiting ∨ s.heldByAgent r = true ∨ ¬ s.maySend r = true) := by
  simp [hst, ha, hm]

theorem issue_sends {pl : Nat} (hr : s.ep.sh.req id = some r) (hst : r.st = .waiting) (ha : s.heldByAgent r = false)
    (hm : s.maySend r = true) (hrel : r.rel = .rack → r.badCode = 0) (hown : ¬ (r.pkt.dst = s.node .ep ∧ r.pkt.dstRack = s.rack .ep))
    (hpl : s.planeFor r.pkt.dst r.pkt.off = some pl) (hw : (s.ep.sh.pairOf r.pkt.to_).writes < 65535) :
    s.issue id = (s.issueDrop r).sendReq .ep r pl 0 pl := by
  have hfull : ((s.ep.sh.pairOf r.pkt.to_).writes == 65535) = false := beq_false_of_ne (by omega)
  unfold State.issue
  rw [hr]
  refine (if_neg (issue_free hst ha hm)).trans ((if_neg fun h => h.2 (hrel h.1)).trans ((if_neg hown).trans ?_))
  rw [hpl]
  dsimp only
  rw [hfull]
  simp

/-- R56: an access to the endpoint's own memory that is admitted goes to it. -/
theorem issue_own {e : AdmEntry} {n : Nat} {x : Slot} (hr : s.ep.sh.req id = some r) (hst : r.st = .waiting)
    (ha : s.heldByAgent r = false) (hm : s.maySend r = true) (hrel : r.rel = .none) (hf : r.flagged = false) (ho : r.owner = .agent)
    (hdst : r.pkt.dst = s.node .ep) (hrack : r.pkt.dstRack = s.rack .ep) (hx : s.ep.slotOf r.pkt.job = some (n, x)) (h3 : x.state ≠ 3)
    (he : admFind s.ep.sh.adm r.pkt.job r.pkt.off r.pkt.len = some e) (hright : e.has (rightOf r.pkt.typ) = true) :
    s.issue id = (s.modReq .ep r.id fun r => { r with st := .atHome }).sendMem (.own r.id)
      (if r.pkt.typ = 0x01 ∨ r.pkt.typ = 0x05 then 0x28 else if r.pkt.typ = 0x03 then 0x2A else 0x29) 0 (e.local_ r.pkt.off) r.pkt.len
      r.pkt.aop r.pkt.fmt r.pkt.payload := by
  have hclose : s.ownClose r = s := if_neg (by rw [hf]; exact Bool.false_ne_true)
  have hadmit : s.admitOwn r.pkt.job r.pkt.off r.pkt.len (rightOf r.pkt.typ) r.pkt.typ = (s, .inl (e.local_ r.pkt.off)) := by
    unfold State.admitOwn
    rw [hx]
    refine (if_neg h3).trans ?_
    rw [he]
    exact if_pos hright
  unfold State.issue
  rw [hr]
  refine (if_neg (issue_free hst ha hm)).trans ((if_neg (by rw [hrel]; rintro ⟨h, -⟩; exact nomatch h)).trans
    ((if_pos ⟨hdst, hrack⟩).trans ?_))
  unfold State.serveOwn
  dsimp only
  rw [hclose, if_neg (by unfold State.ownPoisoned; rw [hf]; exact Bool.false_ne_true), hadmit, ho]

theorem tryIssue_waits (hr : s.ep.sh.req id = some r) (h : r.st ≠ .waiting ∨ s.heldByAgent r = true ∨
    (s.cacheable r = false ∨ r.fillLen ≠ 0) ∧ s.maySend r = false) : s.tryIssue id = s := by
  by_cases hheld : r.st ≠ .waiting ∨ s.heldByAgent r = true
  · unfold State.tryIssue
    rw [hr]
    exact if_pos hheld
  · obtain ⟨hst, ha⟩ := not_or.mp hheld
    obtain ⟨hc, hm⟩ := (h.resolve_left hst).resolve_left ha
    rw [tryIssue_issue hr (not_not.mp hst) (Bool.not_eq_true _ ▸ ha) hc]
    unfold State.issue
    rw [hr]
    exact if_pos (.inr (.inr (by rw [hm]; exact Bool.false_ne_true)))

/-! ### Responses (R78, R87, R91) -/

/-- A count of a job's partition leaves what reads neither log nor counters. -/
theorem partCount_keeps {β : Type} (g : State → β) (p : Part)
    (hl : ∀ (t : State) (f : EventLog → EventLog), g (t.modSh p fun sh => { sh with log := f sh.log }) = g t)
    (hc : ∀ (t : State) (f : Counters → Counters), g (t.modSh p fun sh => { sh with ctr := f sh.ctr }) = g t)
    (job pos n : Nat) : g (s.partCount p job pos n) = g s := by
  unfold State.partCount
  split
  · exact State.count_keeps _ g p hl hc ..
  · rfl

/-- R87: a Retry is counted at the endpoint. -/
def State.retryCounted (s : State) (p : Part) (r : Req) : State := if p = Part.ep then s.partCount .ep r.pkt.job 6 1 else s

theorem retryCounted_ns : (s.retryCounted p r).ns = s.ns := by
  unfold State.retryCounted
  split
  · exact partCount_keeps (·.ns) .ep (fun _ _ => rfl) (fun _ _ => rfl) ..
  · rfl

theorem onRetry_again (h : r.retries < r.retryLimit) : s.onRetry p r = (s.retryCounted p r).modReq p r.id fun r =>
    { r with st := .retryWait, retries := r.retries + 1, due := s.ns + 1000 * 2 ^ min r.retries 6 } := by
  unfold State.onRetry
  dsimp only
  rw [if_neg (by simp [h])]
  conv_rhs => rw [← retryCounted_ns (s := s) (p := p) (r := r)]
  rfl

theorem onRetry_ends (h : r.retryLimit ≤ r.retries) (ho : r.owner = .agent) :
    s.onRetry p r = (s.retryCounted p r).endReq p r.id cRetry [] := by
  unfold State.onRetry
  rw [ho]
  exact if_pos (by simp [h])

/-! ### Timers and notices (R62, R90, R92 to R94) -/

theorem retryResend_waits (hr : (s.sh p).req id = some r) (h : r.st ≠ .retryWait ∨ s.ns < r.due) : s.retryResend p id = s := by
  unfold State.retryResend
  rw [hr]
  exact if_pos h

theorem retryResend_due (hr : (s.sh p).req id = some r) (hst : r.st = .retryWait) (hd : r.due ≤ s.ns)
    (hs : p = .ep → s.slotRevoked r.slot r.pkt.job = false) : s.retryResend p id = s.sendAgain p r := by
  unfold State.retryResend
  rw [hr]
  refine (if_neg (by simp [hst, hd])).trans (if_neg ?_)
  rintro ⟨hp, hrev⟩
  rw [hs hp] at hrev
  exact Bool.false_ne_true hrev

theorem retransmit_waits (hr : (s.sh p).req id = some r) (h : r.st ≠ .sent ∨ s.ns < r.due) : s.retransmitTimeout p id = s := by
  unfold State.retransmitTimeout
  rw [hr]
  exact if_pos h

theorem retransmit_limit (hr : (s.sh p).req id = some r) (hst : r.st = .sent) (hd : r.due ≤ s.ns) (hl : r.reLimit ≤ r.retrans) :
    s.retransmitTimeout p id = (if p = .ep then s.epCount 16 else s).endReq p id cPoison [] := by
  unfold State.retransmitTimeout
  rw [hr]
  exact (if_neg (by simp [hst, hd])).trans (if_neg (by omega))

theorem retransmit_due (hr : (s.sh p).req id = some r) (hst : r.st = .sent) (hd : r.due ≤ s.ns) (hl : r.retrans < r.reLimit) :
    s.retransmitTimeout p id = s.retransmitReq p r := by
  unfold State.retransmitTimeout
  rw [hr]
  exact (if_neg (by simp [hst, hd])).trans (if_pos hl)

theorem lifetimeEnd_waits (hr : (s.sh p).req id = some r) (h : r.isSent = false ∨ s.ns < r.first + r.life) : s.lifetimeEnd p id = s := by
  unfold State.lifetimeEnd
  rw [hr]
  exact if_pos (by rcases h with h | h <;> simp [h])

theorem lifetimeEnd_due (hr : (s.sh p).req id = some r) (hst : r.isSent = true) (hd : r.first + r.life ≤ s.ns) :
    s.lifetimeEnd p id = (if p = .ep then s.epCount 16 else s).endReq p id cPoison [] := by
  unfold State.lifetimeEnd
  rw [hr]
  exact if_neg (by simp [hst, hd])

/-- R93: a request that the endpoint sends again counts the resend. -/
def State.resendCounted (s : State) (r : Req) : State :=
  ((s.modReq .ep r.id fun r => { r with retrans := r.retrans + 1 }).epCount 15).partCount .ep r.pkt.job 7 1

theorem resendCounted_keeps {β : Type} (g : State → β)
    (hl : ∀ (t : State) (f : EventLog → EventLog), g (t.modSh .ep fun sh => { sh with log := f sh.log }) = g t)
    (hc : ∀ (t : State) (f : Counters → Counters), g (t.modSh .ep fun sh => { sh with ctr := f sh.ctr }) = g t)
    (hq : ∀ (t : State) (f : List Req → List Req), g (t.modSh .ep fun sh => { sh with reqs := f sh.reqs }) = g t) :
    g (s.resendCounted r) = g s :=
  (partCount_keeps g .ep hl hc ..).trans ((State.count_keeps _ g .ep hl hc ..).trans (hq s _))

theorem retransmitReq_ep (hs : s.slotRevoked r.slot r.pkt.job = false) (hl : r.retrans < r.reLimit) :
    s.retransmitReq .ep r = (s.resendCounted r).sendAgain .ep r :=
  if_neg (by rw [hs, decide_eq_false (by omega)]; decide)

theorem gapTimer_none {src : Nat} {x : SrcRec} (hx : (s.sh p).recv.rec_ src = some x) (h : x.gapSince = none) : s.gapTimer p src = s := by
  unfold State.gapTimer
  rw [hx]
  dsimp only
  rw [h]

theorem gapTimer_early {src t : Nat} {x : SrcRec} (hx : (s.sh p).recv.rec_ src = some x) (h : x.gapSince = some t)
    (ht : s.ns < t + x.gapLimit) : s.gapTimer p src = s := by
  unfold State.gapTimer
  rw [hx]
  dsimp only
  rw [h]
  exact if_pos ht

theorem gapTimer_due {src t : Nat} {x : SrcRec} (hx : (s.sh p).recv.rec_ src = some x) (h : x.gapSince = some t)
    (ht : t + x.gapLimit ≤ s.ns) : s.gapTimer p src =
      ((s.modRec p src fun r => { r with gapSince := some s.ns, gapLimit := s.gapLimitNow p }).rcvCount p 14 5).notice p 0x11 cRetry src
        (if p = Part.ep then x.lastPort else s.plane) x.lastPort x.base := by
  unfold State.gapTimer
  rw [hx]
  dsimp only
  rw [h]
  refine (if_neg (by omega)).trans ?_
  cases p <;> rfl

/-- R44: a packet that is not turned away on its way reaches its command. -/
theorem fabricIn_takes {k : Packet} {f : State → State} (ho : s.fabricOff p = false) (hx : s.expired p (fun x => x == k) = none) :
    s.fabricIn p k f = (f (s.arrives p k)).partOn p := by
  unfold State.fabricIn
  rw [if_neg (by rw [ho]; exact Bool.false_ne_true), hx]

theorem gapNotice_takes {k : Packet} {tagOk : Bool} (ht : (s.srcTakes p k k.plane 0x11 tagOk).2 = true) :
    (∀ r, s.sentReq p k.from_ k.seq = some r → (s.arrives p k).gapNotice p k tagOk = (s.arrives p k).retransmitReq p r) ∧
    (s.sentReq p k.from_ k.seq = none → (s.arrives p k).gapNotice p k tagOk = if s.beforeStart p k.from_ k.seq then s.arrives p k
      else (s.arrives p k).modPair p k.from_ fun q => { q with restart := true }) := by
  unfold State.gapNotice
  dsimp only
  rw [srcTakes_arrives ht, sentReq_arrives, beforeStart_arrives]
  refine ⟨fun r hr => ?_, fun hr => ?_⟩ <;> rw [hr] <;> rfl

theorem resyncNotice_takes {k : Packet} {tagOk : Bool} (ht : (s.srcTakes p k k.plane 0x12 tagOk).2 = true) :
    (s.arrives p k).resyncNotice p k tagOk =
      if (s.sentReq p k.from_ k.seq).isNone && s.beforeStart p k.from_ k.seq then s.arrives p k
      else (s.arrives p k).restartPair p k.from_ := by
  unfold State.resyncNotice
  dsimp only
  rw [srcTakes_arrives ht, sentReq_arrives, beforeStart_arrives]
  rfl

end

/-- Settles O49: a waiting request leaves, goes to the endpoint's own memory or stays, and a response ends or delays the request that
its sequence names. -/
theorem requestsLeaveAndAreAnswered : Obligations.RequestsLeaveAndAreAnswered := by
  refine ⟨?sends, ?ecc, ?waits, ?own, ?off, ?unknown, ?codes⟩
  case sends =>
    rintro s id r pl q hr hst ha hc hm hrel hown hpl rfl hw hd
    obtain ⟨hpairs, hdead, hout, hmod, hnode⟩ := issueDrop_keep s r
    have hpair : (s.issueDrop r).ep.sh.pairOf r.pkt.to_ = s.ep.sh.pairOf r.pkt.to_ := by
      unfold Shared.pairOf
      rw [hpairs]
    obtain ⟨k, sl, h⟩ := sendReq_ep (s := s.issueDrop r) (r := r) (pl := pl) rfl (hdead.trans hd)
    rw [hout, hmod, hnode, hpair] at h
    exact ⟨_, k, sl, next_congr (congrArg State.epOn ((tryIssue_issue hr hst ha hc).trans (issue_sends hr hst ha hm hrel hown hpl hw))), h⟩
  case ecc =>
    intro s id ecc hne
    refine next_congr (congrArg State.epOn ?_)
    exact congrArg (State.tryIssue · id) (if_neg (by simpa using hne))
  case waits => exact fun s id r hr h => next_congr (congrArg State.epOn (tryIssue_waits hr h))
  case own =>
    rintro s id loc r e n x hr hst ha hc hm hrel hf ho hdst hrack hx h3 he hright rfl rfl
    exact next_congr (congrArg State.epOn ((tryIssue_issue hr hst ha (.inl hc)).trans
      (issue_own hr hst ha hm hrel hf ho hdst hrack hx h3 he hright)))
  case off => exact fun s p k tagOk h => next_congr (if_pos h)
  case unknown => exact fun s p k tagOk ho hx ht hnone => (exec_responseReceive_eq ho hx ht).1 hnone
  case codes =>
    intro s p k tagOk r ho hx ht hr hj hs
    have hexec := (exec_responseReceive_eq ho hx ht).2 r hr hj
    have hs' : p = .ep → (s.arrives p k).slotRevoked r.slot r.pkt.job = false := by
      rintro rfl
      exact hs rfl
    obtain ⟨h2, h4, h6, h1, h0, hshort, h8⟩ := onResponse_codes (d := k.payload) hs'
    rw [hexec]
    refine ⟨?_, fun hc hfill hlen => ?_, fun hc hlen => ?_, fun hc => ?_, fun hc hlim => ?_, fun hc hlim hown => ?_⟩
    · rintro (hc | hc | hc) <;> rw [hc]
      · exact nextOn_congr p h2
      · exact nextOn_congr p h4
      · exact nextOn_congr p h6
    · rw [hc]
      exact nextOn_congr p (h0 hfill hlen)
    · rw [hc]
      exact nextOn_congr p (hshort hlen)
    · exact nextOn_congr p (h8 _ hc)
    · rw [hc, ← arrives_ns s p k]
      exact nextOn_congr p (h1.trans (onRetry_again hlim))
    · rw [hc]
      exact nextOn_congr p (h1.trans (onRetry_ends hlim hown))

/-- Settles O50: a timer acts once it is due, and a notice reaches the request or the pair that it names. -/
theorem requestTimersAndNotices : Obligations.RequestTimersAndNotices := by
  refine ⟨?timers, ?again, ?againMod, ?retransmit, ?gap, ?gapNotice, ?resync⟩
  case timers =>
    intro s p id r hr
    exact ⟨fun h => nextOn_congr p (retryResend_waits hr h), fun h => nextOn_congr p (retransmit_waits hr h),
      fun h => nextOn_congr p (lifetimeEnd_waits hr h), fun hst hd hl => nextOn_congr p (retransmit_limit hr hst hd hl),
      fun hst hd => nextOn_congr p (lifetimeEnd_due hr hst hd)⟩
  case again =>
    intro s id pl r hr hst hd hs hc hpl hdead
    have hw := (retryResend_due (p := .ep) hr hst hd fun _ => hs).trans (sendAgain_ep hc hpl)
    exact ⟨_, nextOn_congr .ep hw, resend_ep hdead⟩
  case againMod =>
    intro s id port r hr hst hd hport
    refine nextOn_congr .mod ((retryResend_due (p := .mod) hr hst hd nofun).trans ?_)
    unfold State.sendAgain
    dsimp only
    rw [hport]
  case retransmit =>
    intro s id pl r hr hst hd hl hs hc hpl hdead
    have keep : ∀ {β : Type} (g : State → β), _ → _ → _ → g (s.resendCounted r) = g s := fun g => resendCounted_keeps g
    have hplane := (keep (·.planeAgain r.pkt.dst r.pkt.off r.first) (fun _ _ => rfl) (fun _ _ => rfl) fun _ _ => rfl).trans hpl
    have hdead' := (keep (·.ep.selfDead) (fun _ _ => rfl) (fun _ _ => rfl) fun _ _ => rfl).trans hdead
    have hw := ((retransmit_due (p := .ep) hr hst hd hl).trans (retransmitReq_ep hs hl)).trans (sendAgain_ep hc hplane)
    obtain ⟨hout, hpairs, hmod⟩ := resend_ep (r := r) (pl := pl) (tile := 0) hdead'
    exact ⟨_, nextOn_congr .ep hw,
      hout.trans (congrArg (· ++ _) (keep (·.out) (fun _ _ => rfl) (fun _ _ => rfl) fun _ _ => rfl)),
      hpairs.trans (keep (·.ep.sh.pairs) (fun _ _ => rfl) (fun _ _ => rfl) fun _ _ => rfl),
      hmod.trans (keep (·.mod) (fun _ _ => rfl) (fun _ _ => rfl) fun _ _ => rfl)⟩
  case gap =>
    intro s p src r hr
    exact ⟨fun h => next_congr (gapTimer_none hr h), fun t h ht => next_congr (gapTimer_early hr h ht),
      fun t h ht => next_congr (gapTimer_due hr h ht)⟩
  case gapNotice =>
    intro s p k tagOk ho hx ht
    obtain ⟨hsent, hnone⟩ := gapNotice_takes ht
    refine ⟨fun r hr => next_congr ((fabricIn_takes ho hx).trans (congrArg (State.partOn · p) (hsent r hr))), fun hr hb => ?_, fun hr hb => ?_⟩
    · exact next_congr ((fabricIn_takes ho hx).trans (congrArg (State.partOn · p) ((hnone hr).trans (if_pos hb))))
    · exact next_congr ((fabricIn_takes ho hx).trans (congrArg (State.partOn · p) ((hnone hr).trans (if_neg (Bool.not_eq_true _ ▸ hb)))))
  case resync =>
    intro s p k tagOk ho hx ht
    have hw : ∀ {t : State}, (s.arrives p k).resyncNotice p k tagOk = t → exec (.resyncNotice p k tagOk) s = .next (t.partOn p) :=
      fun h => next_congr ((fabricIn_takes ho hx).trans (congrArg (State.partOn · p) h))
    refine ⟨fun hr hb => hw ((resyncNotice_takes ht).trans (if_pos (by rw [hr, hb]; rfl))), fun hr => ?_, fun hb => ?_⟩
    · exact hw ((resyncNotice_takes ht).trans (if_neg (by simp [Option.isNone_eq_false_iff.mpr hr])))
    · exact hw ((resyncNotice_takes ht).trans (if_neg (by rw [hb, Bool.and_false]; exact Bool.false_ne_true)))

end Sys2Proof.Machine
end

section
/-! PROOFS. Lists of the endpoint, its temperature, its supplies, its reset and its bundle (O53). -/

namespace Sys2Proof.Machine

section

variable {s : State} {n : Nat} {l : ListSlot}

/-! ### Lists (R114, R116) -/

/-- R114: list `n` has been read and is Armed. -/
def State.listArmed (s : State) (n : Nat) : State :=
  s.modEp fun e => { e with lists := tabMod e.lists n fun l => { l with state := 2 } }

theorem listRead_waits (hl : tabGet s.ep.lists n = some l) (h : l.state ≠ 1 ∨ l.started = false ∨ l.reads ≠ 0) : s.listRead n = s := by
  unfold State.listRead
  rw [hl]
  exact if_pos (by simpa using h)

theorem listRead_done (hl : tabGet s.ep.lists n = some l) (h1 : l.state = 1) (hs : l.started = true) (hr : l.reads = 0) :
    s.listRead n = if l.act ≤ s.rackNs .ep then s.activate n true else s.listArmed n := by
  unfold State.listRead
  rw [hl]
  exact if_neg (by simp [h1, hs, hr])

theorem listTime_early (hl : tabGet s.ep.lists n = some l) (h : s.rackNs .ep < l.act) : s.listTime n = s := by
  unfold State.listTime
  rw [hl]
  exact if_pos h

theorem listTime_due (hl : tabGet s.ep.lists n = some l) (h : l.act ≤ s.rackNs .ep) :
    (l.state = 2 → s.listTime n = s.activate n false) ∧ (l.state = 1 → s.listTime n = s.activate n true) := by
  have he : s.listTime n = if l.state = 2 then s.activate n false else if l.state = 1 then s.activate n true else s := by
    unfold State.listTime
    rw [hl]
    exact if_neg (by omega)
  exact ⟨fun h2 => he.trans (if_pos h2), fun h1 => he.trans ((if_neg (by omega)).trans (if_pos h1))⟩

/-! ### Stops and the boot of the endpoint (R121, R122, R305) -/

theorem endpointTrip_cool {t : Int} (h : t < 110000) : s.endpointTrip t = s.modEp fun e => { e with temp := t } := if_pos h

theorem endpointTrip_hot {t : Int} (h : 110000 ≤ t) : s.endpointTrip t =
    ((({ s with ep := { s.ep with temp := t, tripped := true } } : State).logEvent .ep 2 0x0003 0 (patternOf 32 t * 2 ^ 80)).stopEndpoint) :=
  if_neg (by omega)

theorem modEp_supply {t : State} {v : Nat} (h : t.ep.supply = s.ep.supply) : (t.modEp fun e =>
    { e with supply := e.supply ||| v, inReset := true }) = t.modEp fun e => { e with supply := s.ep.supply ||| v, inReset := true } := by
  rw [← h]
  rfl

theorem supplyOut_stops (h : n < 7) : s.supplyOut n = ((s.logEvent .ep 2 0x0006 0 (n * 2 ^ 104)).modEp fun e =>
    { e with supply := s.ep.supply ||| 2 ^ n, inReset := true }).stopEndpoint :=
  (if_neg (by omega)).trans (congrArg State.stopEndpoint
    (modEp_supply (State.logEvent_keeps s (·.ep.supply) .ep (fun _ _ => rfl) _ _ _ _)))

theorem epReset_held (h : s.ep.inReset = true) : s.epReset false = s := if_pos (by rw [h]; rfl)

theorem epReset_released {cycled : Bool} (h : s.ep.inReset = false ∨ cycled = true) : s.epReset cycled = { s with ep := { Endpoint.reset with
    strap := s.ep.strap
    sh := { Shared.reset with clk := { Shared.reset.clk with started := s.clock } } } } :=
  if_neg (by rcases h with h | h <;> simp [h])

theorem bundleLoad_accepted {b : BundleInfo} (h0 : s.ep.sh.rot.boot = 0) (hb : bundleCheck .ep b = 0) : s.bundleLoad b =
    (stOk, (s.modRot .ep fun r => { r with boot := 1, reason := 0, running := some b }).epPorts) := by
  unfold State.bundleLoad
  dsimp only
  rw [if_neg (by omega), if_neg (by omega), hb]
  rfl

theorem bundleEvent_zero {p : Part} {reason version : Nat} :
    s.bundleEvent p 0 reason version = s.logEvent p 1 0x000B 0 (reason * 2 ^ 96 + version * 2 ^ 64) := by
  unfold State.bundleEvent
  rw [Nat.zero_mul, Nat.zero_add]

theorem bundleLoad_refused {b : BundleInfo} {m : Nat} (h0 : s.ep.sh.rot.boot = 0) (hb : bundleCheck .ep b = m) (hm : m ≠ 0) :
    s.bundleLoad b =
      (stOk, (s.modRot .ep fun r => { r with boot := 2, reason := m }).logEvent .ep 1 0x000B 0 (m * 2 ^ 96 + b.version * 2 ^ 64)) := by
  unfold State.bundleLoad
  dsimp only
  rw [if_neg (by omega), if_neg (by omega), hb, ← bundleEvent_zero]
  cases m with
  | zero => exact absurd rfl hm
  | succ m => rfl

theorem bundleLoad_booted {b : BundleInfo} : (s.ep.sh.rot.boot = 1 → s.bundleLoad b = (stBusy, s)) ∧
    (s.ep.sh.rot.boot = 2 → s.ep.sh.rot.reason = 7 → s.bundleLoad b = (stOk, s)) :=
  ⟨fun h => if_pos h, fun h h7 => (if_neg (by omega)).trans (if_pos ⟨h, h7⟩)⟩

/-- R305: what the bundle's load answers is the answer of the write that carries it. -/
theorem exec_bundleLoad_eq {a : Access} {b : BundleInfo} {c : Nat} {t : State} (hd : dirCheck .ep a 0xD80003 true s = 0)
    (h : s.bundleLoad b = (c, t)) : exec (.bundleLoad a b) s = .next (t.emit (.dir .ep a.ctx c [])).epOn := by
  refine next_congr (congrArg State.epOn ((State.writeEntry_of (fun s => s.bundleLoad b) hd).trans ?_))
  rw [h]
  rfl

end

/-- Settles O53: a list starts at its time, and the endpoint stops, is reset and boots as its conditions say. -/
theorem listsStartAndEndpointCare : Obligations.ListsStartAndEndpointCare := by
  refine ⟨?read, ?lists, fun s t => rfl, fun s t h => next_congr (endpointTrip_cool h), fun s t h => next_congr (endpointTrip_hot h), ?supply,
    fun s cycled h => next_congr (epReset_released h), fun s h => next_congr (epReset_held h), ?bundle⟩
  case read =>
    intro s n l hl h1 hs hr
    have hdone := listRead_done hl h1 hs hr
    exact ⟨fun h => ⟨_, next_congr (congrArg State.epOn (hdone.trans (if_neg (by omega)))), rfl⟩,
      fun h => ⟨_, next_congr (congrArg State.epOn (hdone.trans (if_pos h))), rfl⟩⟩
  case lists =>
    intro s n l hl
    exact ⟨fun h => next_congr (congrArg State.epOn (listRead_waits hl h)), fun h => next_congr (congrArg State.epOn (listTime_early hl h)),
      fun h h2 => ⟨_, next_congr (congrArg State.epOn ((listTime_due hl h).1 h2)), rfl⟩,
      fun h h1 => ⟨_, next_congr (congrArg State.epOn ((listTime_due hl h).2 h1)), rfl⟩⟩
  case supply =>
    intro s n hn
    exact next_congr (supplyOut_stops hn)
  case bundle =>
    intro s a b hd
    obtain ⟨hrun, hheld⟩ := bundleLoad_booted (s := s) (b := b)
    exact ⟨fun h => exec_bundleLoad_eq hd (hrun h), fun h h7 => exec_bundleLoad_eq hd (hheld h h7),
      fun h0 hb => ⟨_, exec_bundleLoad_eq hd (bundleLoad_accepted h0 hb), rfl⟩,
      fun m h0 hb hm => ⟨_, exec_bundleLoad_eq hd (bundleLoad_refused h0 hb hm), rfl⟩⟩

end Sys2Proof.Machine
end

section
/-! PROOFS. Failed stacks, scrub windows, checkpoint slots, restore pushes and restore packets of the Commons (O55). -/

namespace Sys2Proof.Machine

section

variable {s : State} {k : Nat} {retrain : Bool}

/-! ### Failed stacks (R190) -/

/-- R190: stack `k` leaves service with its spill pages and is reported. -/
def State.stackLost (s : State) (k : Nat) : State :=
  (s.modMod fun m => { m with
    failedStacks := setIns m.failedStacks k
    spill := m.spill.filter fun x => pageStack x.1 != k }).report .mod 2 0 s.plane

/-- R190: stack `k` has more uncorrected errors in this epoch than its limit. -/
def State.stackOver (s : State) (k : Nat) : Prop :=
  tabGetD s.mod.uncorr k 0 / 2 ^ 32 = s.epochOf .mod ∧ s.regNow .mod 0x730002 < tabGetD s.mod.uncorr k 0 % 2 ^ 32

theorem stackOver_iff : ((tabGetD s.mod.uncorr k 0 / 2 ^ 32 == s.epochOf .mod &&
    decide (s.regNow .mod 0x730002 < tabGetD s.mod.uncorr k 0 % 2 ^ 32)) = true) ↔ s.stackOver k := by
  rw [Bool.and_eq_true, beq_iff_eq, decide_eq_true_iff]
  rfl

theorem stackFail_lost (hk : k < 24) (hf : s.mod.failedStacks.contains k = false) (h : retrain = true ∨ s.stackOver k) :
    s.stackFail k retrain = if (s.stackLost k).regNow .mod 0xA60002 ≤ (s.stackLost k).mod.failedStacks.length then (s.stackLost k).selfFence
      else s.stackLost k := by
  refine (if_neg ?_).trans rfl
  rintro (h24 | hin | hno)
  · omega
  · exact absurd (hf.symm.trans hin) Bool.false_ne_true
  · exact hno (Bool.or_eq_true _ _ ▸ h.imp_right stackOver_iff.mpr)

theorem stackFail_stays (h : 24 ≤ k ∨ s.mod.failedStacks.contains k = true ∨ retrain = false ∧
    (tabGetD s.mod.uncorr k 0 / 2 ^ 32 ≠ s.epochOf .mod ∨ tabGetD s.mod.uncorr k 0 % 2 ^ 32 ≤ s.regNow .mod 0x730002)) :
    s.stackFail k retrain = s := by
  refine if_pos ?_
  rcases h with h | h | ⟨rfl, h⟩
  · exact .inl h
  · exact .inr (.inl h)
  · refine .inr (.inr fun hover => ?_)
    obtain ⟨he, hl⟩ := stackOver_iff.mp hover
    rcases h with h | h
    · exact h he
    · omega

/-! ### Scrub windows and checkpoint slots (R188, R198) -/

theorem scrubClose_ends (h : s.mod.scrubOn = true) (he : s.mod.scrubEnds ≤ s.rackNs .mod) :
    s.scrubClose = s.modMod fun m => { m with scrubOn := false } := if_pos ⟨h, he⟩

theorem scrubClose_stays (h : s.mod.scrubOn = false ∨ s.rackNs .mod < s.mod.scrubEnds) : s.scrubClose = s := by
  refine if_neg ?_
  rintro ⟨hon, he⟩
  rcases h with h | h
  · exact absurd (h.symm.trans hon) Bool.false_ne_true
  · omega

theorem stackOf_regions {t : State} (h : t.mod.regions = s.mod.regions) (a : Nat) : t.stackOf a = s.stackOf a := by
  unfold State.stackOf State.regionAt
  rw [h]

theorem lineFails_first {l : Nat} (h : s.mod.bad = []) : (s.lineFails l 1).mod.bad = [l * 2 + 1] := by
  unfold State.lineFails
  rw [if_neg (by simp [h])]
  show setIns s.mod.bad (l * 2 + 1) = [l * 2 + 1]
  rw [h]
  rfl

/-- R188: a line that fails in the scrub window becomes bad and is recorded. -/
theorem scrub_records {l : Nat} {R : Nat → Bool} (hb : s.mod.bad = []) (hR : R l = true) :
    ∃ u : State, ∃ e : MemError, ((s.lineFails l 1).mod.bad.filter fun b => R (b / 2)).foldl
        (fun s b => s.errorRecord (b / 2) (s.stackOf (b / 2 * 128)) 2) (s.lineFails l 1) = u ∧ u.mod.bad = [l * 2 + 1] ∧
      u.mod.errors = (e :: s.mod.errors).take 64 ∧ e.line = l ∧ e.kind = 2 ∧ e.stack = s.stackOf (l * 128) ∧
      u.mod.mem = s.mod.mem ∧ u.ep = s.ep := by
  obtain ⟨-, hmem, hep, herr, hreg⟩ := lineFails_keeps s l 1 (by decide)
  have hbad := lineFails_first (l := l) hb
  have hl : (l * 2 + 1) / 2 = l := by omega
  obtain ⟨hbad', hmem', hep', e, herr', hline, hkind, hstack⟩ :=
    errorRecord_keeps (s.lineFails l 1) l ((s.lineFails l 1).stackOf (l * 128)) 2
  refine ⟨_, e, rfl, ?_⟩
  rw [hbad, List.filter_cons_of_pos (by rw [hl]; exact hR), List.filter_nil, List.foldl_cons, List.foldl_nil, hl]
  exact ⟨hbad'.trans hbad, herr'.trans (by rw [herr]), hline, hkind, hstack.trans (stackOf_regions hreg _), hmem'.trans hmem, hep'.trans hep⟩

/-! ### Restore pushes and restore packets (R199) -/

theorem restoreCommand_busy {val : List Byte} (h : s.mod.push.state = 1) : s.restoreCommand val = (stBusy, s) := if_pos h

theorem restoreCommand_starts {val : List Byte} {w : Nat} (hv : val.length = 16) (hw : w = beNat val) (hp : s.mod.push.state ≠ 1)
    (hk : (s.region (bits w 127 120)).kind = 2) (hst : (s.region (bits w 127 120)).state = 2 ∨ (s.region (bits w 127 120)).state = 4)
    (ht : bits w 119 110 < s.endpoints) (h0 : bits w 44 0 = 0) (hn : bits w 77 46 ≠ 0)
    (hb : (bits w 109 78 + bits w 77 46) * 65536 ≤ (s.region (bits w 127 120)).bytes) : s.restoreCommand val =
      (stOk, s.modMod fun m => { m with
        push := { state := 1, region := bits w 127 120, target := bits w 119 110, first := bits w 109 78, stripes := bits w 77 46,
                  parity := bit w 45, next := 0, open_ := [], bad := [], pushed := 0, failed := 0 } }) := by
  subst hw
  refine (if_neg hp).trans (if_neg ?_)
  rintro (h | h | ⟨h2, h4⟩ | h | h | h | h)
  · exact h hv
  · exact h hk
  · exact hst.elim h2 h4
  · omega
  · exact h h0
  · exact hn h
  · omega

theorem pushEnd_ends (h1 : s.mod.push.state = 1) (hn : s.mod.push.stripes ≤ s.mod.push.next) (ho : s.mod.push.open_ = []) :
    s.pushEnd = s.modMod fun m => { m with push := { s.mod.push with state := if s.mod.push.failed = 0 then 2 else 3 } } :=
  if_pos ⟨h1, hn, by rw [ho]; rfl⟩

theorem pushEnd_stays (h : s.mod.push.state ≠ 1 ∨ s.mod.push.next < s.mod.push.stripes ∨ s.mod.push.open_ ≠ []) : s.pushEnd = s := by
  refine if_neg ?_
  rintro ⟨h1, hn, ho⟩
  rcases h with h | h | h
  · exact h h1
  · omega
  · exact h (List.isEmpty_iff.mp ho)

/-- R199: a restore packet is admitted while the window is open, from a Commons node and within the window. -/
def State.RestoreFits (s : State) (q : Packet) : Prop :=
  s.reg .ep 0xD62003 = 1 ∧ 512 ≤ q.src ∧ q.src ≤ 527 ∧ q.off + q.len ≤ s.reg .ep 0xD62002

/-- R199: the message of a restore packet that is admitted. -/
def State.restoring (s : State) (q : Packet) : InProg :=
  { id := s.ep.sh.recv.nextId
    src := q.from_
    pkt := q
    loc := s.reg .ep 0xD62001 + q.off
    offBase := 0
    port := q.plane
    result := none
    at_ := s.ns
    err := 0
    stage := 0 }

section

variable {q : Packet} {tagOk : Bool}

theorem restoreReceive_fresh (h : s.admitPacket .ep q q.plane tagOk (q.typ == 0x31) = (t, some .fresh)) :
    (¬ t.RestoreFits q → s.restoreReceive q q.plane tagOk = (t.deny .ep q.job q.src q.off q.typ 1).finish .ep q q.plane cDenied [] false) ∧
    (t.RestoreFits q → s.restoreReceive q q.plane tagOk = (t.modRecv .ep fun r => { r with
      inprog := r.inprog ++ [t.restoring q]
      nextId := (t.restoring q).id + 1 }).sendMem (.restore (t.restoring q).id) 0x29 0 (t.restoring q).loc q.len 0 0 q.payload) := by
  unfold State.restoreReceive
  dsimp only
  rw [h]
  have hfits : (t.reg .ep 0xD62003 ≠ 1 ∨ q.src < 512 ∨ 527 < q.src ∨ t.reg .ep 0xD62002 < q.off + q.len) ↔ ¬ t.RestoreFits q := by
    unfold State.RestoreFits
    omega
  exact ⟨fun hno => if_pos (hfits.mpr hno), fun hyes => if_neg (mt hfits.mp (not_not.mpr hyes))⟩

/-- A packet that reaches a running endpoint is taken by its command. -/
theorem exec_checkpointRestore_eq (ho : s.fabricOff .ep = false) (h : (s.arrives .ep q).restoreReceive q q.plane tagOk = t) :
    exec (.checkpointRestore q tagOk) s = .next t.epOn :=
  next_congr ((if_neg (by rw [ho]; exact Bool.false_ne_true)).trans (congrArg State.epOn h))

end

end

/-- Settles O55: stacks fail, scrub windows open and close, and restores are pushed and received as their conditions say. -/
theorem scrubCheckpointAndRestore : Obligations.ScrubCheckpointAndRestore := by
  refine ⟨?fails, fun s k retrain h => next_congr (congrArg State.fenceOn (stackFail_stays h)), ?close, ?shut, ?opens, ?command, ?push,
    fun s q tagOk h => next_congr (if_pos h), ?restore⟩
  case fails =>
    intro s k retrain hk hf h
    have hl := stackFail_lost hk hf h
    exact ⟨s.stackLost k, rfl, fun hlim => next_congr (congrArg State.fenceOn (hl.trans (if_neg (by omega)))),
      fun hlim => next_congr (congrArg State.fenceOn (hl.trans (if_pos hlim)))⟩
  case close =>
    exact fun s => ⟨fun h he => next_congr (scrubClose_ends h he), fun h => next_congr (scrubClose_stays h), rfl⟩
  case shut => exact fun s c f h => next_congr (if_pos h)
  case opens =>
    intro s len total from_ n held reads hl h1 h2 h3 h4 hbad hh ht hf hn hreads
    obtain ⟨R, hR⟩ : ∃ R : Nat → Bool, R = fun l => (s.regionAt (l * 128)).isSome &&
      decide ((heldBelow held l + total - from_) % max 1 total < n) := ⟨_, rfl⟩
    have hRr : ∀ l, reads l ↔ R l = true := fun l => by rw [hreads l, hR, Bool.and_eq_true, decide_eq_true_iff]
    have heq := fun c f => scrubOpen_eq (c := c) (f := f) hl h1 h2 h3 h4 hh ht hf hn R hR
    refine ⟨fun c => ?_, fun l hr => ?_, fun l hr => ?_⟩
    · obtain ⟨w, w2, hw, hw2, hs⟩ := heq c []
      obtain ⟨k1, k2, k3, k4, k5, k6, k7, k8, k9, k10, k11⟩ := scrubOpen_keeps hw
      have hw2' : w2 = w := hw2
      rw [hw2', k7, hbad] at hs
      refine ⟨w, next_congr hs, k1, k2, k3, k4, fun l => ?_, k6, k7, k8, k9, k10, k11⟩
      rw [k5 l, hRr l]
    · obtain ⟨w, w2, hw, hw2, hs⟩ := heq [] [l]
      obtain ⟨k1, k2, k3, k4, k5, k6, k7, k8, k9, k10, k11⟩ := scrubOpen_keeps hw
      have hRl := (hRr l).mp hr
      have hw2' : w2 = w.lineFails l 1 := by rw [hw2, List.filter_cons_of_pos hRl]; rfl
      obtain ⟨u, e, hu, ub, ue, hline, hkind, hstack, um, uep⟩ := scrub_records (k7.trans hbad) hRl
      rw [hw2', hu] at hs
      exact ⟨u, e, next_congr hs, ub, ue.trans (by rw [k8]), hline, hkind, hstack.trans (stackOf_regions k9 _), um.trans k6, uep.trans k10⟩
    · obtain ⟨w, w2, hw, hw2, hs⟩ := heq [] [l]
      obtain ⟨k1, k2, k3, k4, k5, k6, k7, k8, k9, k10, k11⟩ := scrubOpen_keeps hw
      have hw2' : w2 = w := by rw [hw2, List.filter_cons_of_neg (mt (hRr l).mpr hr)]; rfl
      rw [hw2', k7, hbad] at hs
      exact ⟨w, next_congr hs, k7.trans hbad, k8, k6, k10⟩
  case command =>
    intro s a val w hd hv hw
    refine ⟨fun h => ?_, fun hp hk hst ht h0 hn hb => ⟨_, ?_, rfl⟩⟩
    · exact next_congr (congrArg State.modOn (writeNamed_eq hd ((dirApply_restore hv).trans (restoreCommand_busy h))))
    · exact next_congr (congrArg State.modOn (writeNamed_eq hd ((dirApply_restore hv).trans (restoreCommand_starts hv hw hp hk hst ht h0 hn hb))))
  case push => exact fun s => ⟨fun h1 hn ho => next_congr (pushEnd_ends h1 hn ho), fun h => next_congr (pushEnd_stays h)⟩
  case restore =>
    intro s q tagOk r ho hform htyp hjob hdst hseal hrec hs hset hbusy hwin
    obtain ⟨hno, hyes⟩ := restoreReceive_fresh (admitPacket_restore hform htyp hjob hdst hseal hrec hs hset hbusy hwin)
    refine ⟨fun h => exec_checkpointRestore_eq ho (hno ?_), fun h3 hlo hhi hlen => ?_⟩
    · rintro ⟨h3, hlo, hhi, hlen⟩
      rw [reg_noted] at h3 hlen
      omega
    · exact ⟨(s.noted .ep q q.plane).restoring q, rfl, rfl, rfl, rfl, rfl,
        exec_checkpointRestore_eq ho (hyes ⟨(reg_noted ..).trans h3, hlo, hhi, hlen.trans_eq (reg_noted ..).symm⟩)⟩

end Sys2Proof.Machine
end

section
/-! PROOFS. The collective tables: groups, member tables, contexts, programs and lateness records (O57). -/

namespace Sys2Proof.Machine

section

variable {s : State} {i c : Nat} {val : List Byte}

/-- R151: a check that passes leads to the write of a group whose slots are free, and to Busy else. -/
theorem storedUnlessBusy {bad : Prop} [Decidable bad] {new : Group} (h : ¬ bad) :
    ((s.group i).slots = [] → (if bad then (stRange, s) else if (s.group i).busy then (stBusy, s) else (stOk, s.setGroup i new)) =
      (stOk, s.setGroup i new)) ∧
    ((s.group i).slots ≠ [] → (if bad then (stRange, s) else if (s.group i).busy then (stBusy, s) else (stOk, s.setGroup i new)) =
      (stBusy, s)) :=
  ⟨fun he => (if_neg h).trans (if_neg fun hb => (busy_iff_slots _).mp hb he), fun he => (if_neg h).trans (if_pos ((busy_iff_slots _).mpr he))⟩

/-! ### Member tables (R151) -/

theorem memberWrite_checked (he : val.length % 2 = 0) (h2 : 2 ≤ val.length) (hm : val.length ≤ 4096) (hj : s.hasSlice (s.group i).job = true)
    (hw : tableWordsOk (tableOf val) = true) (hv : (s.group i).v = true → ({ s.group i with table := tableOf val } : Group).tableOk = true) :
    ((s.group i).slots = [] → s.memberWrite i val = (stOk, s.setGroup i { s.group i with table := tableOf val })) ∧
    ((s.group i).slots ≠ [] → s.memberWrite i val = (stBusy, s)) := by
  refine storedUnlessBusy ?_
  rintro (h | h | h | h | h | ⟨h, ht⟩)
  · exact h he
  · omega
  · omega
  · exact h hj
  · exact h hw
  · exact ht (hv h)

theorem memberWrite_words (hw : tableWordsOk (tableOf val) = false) : s.memberWrite i val = (stRange, s) :=
  if_pos (.inr (.inr (.inr (.inr (.inl (by rw [hw]; exact Bool.false_ne_true))))))

/-! ### Contexts and programs (R148, R152) -/

theorem contextWrite_checked {n : CContext × Nat} (hl : val.length = 16) (hn : n = contextOf (beNat val)) (hj : s.hasSlice (s.group i).job = true)
    (h2 : n.2 = 0) (hok : s.contextOk (s.group i) n.1 ((s.group i).prog c) = true) :
    ((s.group i).slots = [] → s.contextWrite i c val =
      (stOk, s.setGroup i { s.group i with ctxs := tabPut (s.group i).ctxs c n.1 CContext.reset })) ∧
    ((s.group i).slots ≠ [] → s.contextWrite i c val = (stBusy, s)) := by
  subst hn
  refine storedUnlessBusy ?_
  rintro (h | h | h | h)
  · exact h hl
  · exact h h2
  · exact h hj
  · exact h hok

theorem contextWrite_refused {n : CContext × Nat} (hn : n = contextOf (beNat val))
    (hok : s.contextOk (s.group i) n.1 ((s.group i).prog c) = false) : s.contextWrite i c val = (stRange, s) := by
  subst hn
  exact if_pos (.inr (.inr (.inr (by rw [hok]; exact Bool.false_ne_true))))

theorem programWrite_checked (hl : val.length = 192) (hj : s.hasSlice (s.group i).job = true)
    (hok : (aword ((s.group i).ctx c).word).prog = true → progOk (aword ((s.group i).ctx c).word) val = true)
    (he : (s.group i).slots = []) : s.programWrite i c val =
      (stOk, s.setGroup i { s.group i with progs := tabPut (s.group i).progs c val (List.replicate 192 0#8) }) := by
  refine (storedUnlessBusy ?_).1 he
  rintro (h | h | ⟨h, hp⟩)
  · exact h hl
  · exact h hj
  · exact hp (hok h)

theorem programWrite_refused (hp : (aword ((s.group i).ctx c).word).prog = true) (hok : progOk (aword ((s.group i).ctx c).word) val = false) :
    s.programWrite i c val = (stRange, s) :=
  if_pos (.inr (.inr ⟨hp, by rw [hok]; exact Bool.false_ne_true⟩))

/-! ### Lateness records (R177) -/

/-- R177: the record without the bits that `val` names. -/
def Lateness.cleared (r : Lateness) (val : List Byte) : Lateness :=
  { barriers := r.barriers - (r.barriers &&& beNat (sliceBytes val 0 4))
    last := r.last - (r.last &&& beNat (sliceBytes val 4 4))
    sum := r.sum - (r.sum &&& beNat (sliceBytes val 8 4))
    max := r.max - (r.max &&& beNat (sliceBytes val 12 4)) }

theorem lateClear_clears {n : Nat} {z : Lateness} (hv : val.length = 16) (hz : z = { barriers := 0, last := 0, sum := 0, max := 0 }) :
    s.lateClear n val = (stOk, s.modMod fun m => { m with late := tabPut m.late n ((tabGetD s.mod.late n z).cleared val) z }) := by
  subst hz
  exact if_neg (not_not.mpr hv)

end

/-- Settles O57: each table write is stored once it passes its checks and no slot of the group is in use. -/
theorem collectiveTablesAreWritten : Obligations.CollectiveTablesAreWritten := by
  refine ⟨?groups, ?members, ?contexts, ?programs, ?lateness⟩
  case groups =>
    rintro s a val i n new hd hv rfl hn h2 hnew
    obtain ⟨hok, hslice, htab⟩ := groupWrite_cases s _ val n new hv hn h2 hnew
    have hw : ∀ {r c : _}, s.groupWrite (s.sel .mod a.ctx 0x610006) val = (c, r) → exec (.groupEntryWrite a val) s = .next (r.emit (.dir .mod a.ctx c [])) :=
      fun h => write_answer hd ((dirApply_groupEntry hv).trans h)
    exact ⟨fun hs hc => ⟨fun he => hw ((hok hs hc).1 he), fun he => hw ((hok hs hc).2 he)⟩, fun hj hs => hw (hslice hj hs), fun h ht => hw (htab h ht)⟩
  case members =>
    rintro s a val i hd he h2 hm rfl hj
    have hw : ∀ {r c : _}, s.memberWrite (s.sel .mod a.ctx 0x610006) val = (c, r) → exec (.memberTableWrite a val) s = .next (r.emit (.dir .mod a.ctx c [])) :=
      fun h => write_answer hd ((dirApply_memberTable hm).trans h)
    exact ⟨fun hwords hv => ⟨fun hs => hw ((memberWrite_checked he h2 hm hj hwords hv).1 hs),
      fun hs => hw ((memberWrite_checked he h2 hm hj hwords hv).2 hs)⟩, fun hwords => hw (memberWrite_words hwords)⟩
  case contexts =>
    rintro s a val i c n hd hv rfl rfl hn hj
    have hw : ∀ {r c : _}, s.contextWrite (s.sel .mod a.ctx 0x610006) (s.sel .mod a.ctx 0x610009) val = (c, r) →
        exec (.contextEntryWrite a val) s = .next (r.emit (.dir .mod a.ctx c [])) :=
      fun h => write_answer hd ((dirApply_contextEntry hv).trans h)
    exact ⟨fun h2 hok hs => hw ((contextWrite_checked hv hn hj h2 hok).1 hs), fun h2 hok hs => hw ((contextWrite_checked hv hn hj h2 hok).2 hs),
      fun hok => hw (contextWrite_refused hn hok)⟩
  case programs =>
    rintro s a val i c hd hv rfl rfl hj
    have hw : ∀ {r c : _}, s.programWrite (s.sel .mod a.ctx 0x610006) (s.sel .mod a.ctx 0x610009) val = (c, r) →
        exec (.programBlockWrite a val) s = .next (r.emit (.dir .mod a.ctx c [])) :=
      fun h => write_answer hd ((dirApply_programBlock hv).trans h)
    exact ⟨fun hok hs => hw (programWrite_checked hv hj hok hs), fun hp hok => hw (programWrite_refused hp hok)⟩
  case lateness =>
    rintro s a val n z r hd hv rfl hz rfl
    exact ⟨_, (tabGetD s.mod.late (s.sel .mod a.ctx 0x620001) z).cleared val,
      write_answer hd ((dirApply_lateness hv).trans (lateClear_clears hv hz)), rfl, rfl, rfl, rfl, rfl⟩

end Sys2Proof.Machine
end

section
/-! PROOFS. Results, Releases, resends and timeouts of the collectives of an endpoint, and residue delivery (O59). -/

namespace Sys2Proof.Machine

section

variable {s u : State} {k : Packet} {x : EpColl} {sh : Shape}

/-! ### Results and Releases (R161, R163, R171) -/

theorem collTake_waits (hj : u.jobState .ep k.job = 0) (hn : u.collNamed k.job k.group k.cseq = some x)
    (h : (x.state = 0 ∨ x.state = 6) ∧ x.todo ≠ [] ∨ x.shape = none) : u.collTake k k.plane = u.respond .ep k k.plane cRetry [] 0 := by
  refine (collTake_named hj hn).trans ?_
  split
  · rfl
  · next hbusy =>
    rcases h with ⟨hst, ht⟩ | hsh
    · exact absurd ⟨hst, mt List.isEmpty_iff.mp ht⟩ hbusy
    · rw [hsh]

/-- R161: what a collective does with a Result or Release once its size is known. -/
def State.collGiven (u : State) (x : EpColl) (sh : Shape) (k : Packet) : State :=
  if k.phase = 5 then
    if (sh.op = 3 ∨ sh.op = 5) ∧ k.typ = 0x20 + sh.op ∧ k.payload.isEmpty then (u.collRelease x k.plane).finish .ep k k.plane cDone [] false
    else u.collUnknown k k.plane
  else if k.phase ≠ 1 then u.collUnknown k k.plane
  else if x.fitsResult sh k = 0 then u.collWrite x sh k k.plane
  else if x.fitsResult sh k = 1 then u.collUnknown k k.plane
  else (u.epCount 28).finish .ep k k.plane cDenied [] false

theorem collTake_given (hj : u.jobState .ep k.job = 0) (hn : u.collNamed k.job k.group k.cseq = some x)
    (ht : x.state = 0 ∨ x.state = 6 → x.todo = []) (hsh : x.shape = some sh) : u.collTake k k.plane = u.collGiven x sh k := by
  refine (collTake_named hj hn).trans ((if_neg ?_).trans ?_)
  · rintro ⟨hst, hne⟩
    exact hne (List.isEmpty_iff.mpr (ht hst))
  · rw [hsh]
    unfold State.collGiven
    dsimp only
    generalize x.fitsResult sh k = f
    rcases f with - | - | f <;> rfl

theorem collGiven_release (hp : k.phase = 5) (hop : sh.op = 3 ∨ sh.op = 5) (ht : k.typ = 0x20 + sh.op) (hl : k.payload = []) :
    u.collGiven x sh k = (u.collRelease x k.plane).finish .ep k k.plane cDone [] false :=
  (if_pos hp).trans (if_pos ⟨hop, ht, by rw [hl]; rfl⟩)

theorem collGiven_unknown (h : k.phase = 5 ∧ (sh.op ≠ 3 ∧ sh.op ≠ 5 ∨ k.typ ≠ 0x20 + sh.op ∨ k.payload ≠ []) ∨
    k.phase ≠ 5 ∧ k.phase ≠ 1 ∨ k.phase = 1 ∧ x.fitsResult sh k = 1) : u.collGiven x sh k = u.collUnknown k k.plane := by
  rcases h with ⟨h5, h⟩ | ⟨h5, h1⟩ | ⟨h1, hf⟩
  · refine (if_pos h5).trans (if_neg ?_)
    rintro ⟨hop, ht, hl⟩
    rcases h with ⟨h3, h5⟩ | h | h
    · exact hop.elim h3 h5
    · exact h ht
    · exact h (List.isEmpty_iff.mp hl)
  · exact (if_neg h5).trans (if_pos h1)
  · exact (if_neg (by omega)).trans ((if_neg (not_not.mpr h1)).trans ((if_neg (by omega)).trans (if_pos hf)))

theorem collGiven_result (h1 : k.phase = 1) : (x.fitsResult sh k = 0 → u.collGiven x sh k = u.collWrite x sh k k.plane) ∧
    (x.fitsResult sh k = 2 → u.collGiven x sh k = (u.epCount 28).finish .ep k k.plane cDenied [] false) := by
  have hskip {t : State} (h : (if x.fitsResult sh k = 0 then u.collWrite x sh k k.plane
      else if x.fitsResult sh k = 1 then u.collUnknown k k.plane
      else (u.epCount 28).finish .ep k k.plane cDenied [] false) = t) : u.collGiven x sh k = t :=
    (if_neg (by omega)).trans ((if_neg (not_not.mpr h1)).trans h)
  exact ⟨fun hf => hskip (if_pos hf), fun hf => hskip ((if_neg (by omega)).trans (if_neg (by omega)))⟩

/-- R171: the message of a Result that is being written. -/
def State.resultInProg (u : State) (k : Packet) : InProg :=
  { id := u.ep.sh.recv.nextId
    src := k.from_
    pkt := k
    loc := 0
    offBase := 0
    port := k.plane
    result := none
    at_ := u.ns
    err := 0
    stage := 0 }

/-! ### The times of a collective (R154, R166, R176) -/

section

variable {c : Nat}

theorem collStartTime_waits (hx : s.coll c = some x) (h : x.state ≠ 2 ∨ x.routeReads ≠ 0 ∨ s.rackNs .ep < x.start) : s.collStartTime c = s := by
  unfold State.collStartTime
  rw [hx]
  refine if_neg ?_
  rintro ⟨h2, h0, hst⟩
  rcases h with h | h | h
  · exact h h2
  · exact h h0
  · omega

theorem collStartTime_due (hx : s.coll c = some x) (h2 : x.state = 2) (h0 : x.routeReads = 0) (hst : x.start ≤ s.rackNs .ep) :
    s.collStartTime c = s.collSend c := by
  unfold State.collStartTime
  rw [hx]
  exact if_pos ⟨h2, h0, hst⟩

theorem collTimeout_waits (hx : s.coll c = some x) (h : s.ns < x.accepted + x.limit) : s.collTimeout c = s := by
  unfold State.collTimeout
  rw [hx]
  exact if_neg (by omega)

theorem collTimeout_due (hx : s.coll c = some x) (h : x.accepted + x.limit ≤ s.ns) : s.collTimeout c = (s.collEnd c cPoison).collDrop c := by
  unfold State.collTimeout
  rw [hx]
  exact if_pos h

end

/-! ### Holds and Retries sent again (R155, R175) -/

section

variable {id : Nat} {r : Req}

theorem holdResend_waits (hr : s.ep.sh.req id = some r) (h : r.st ≠ .holdWait ∨ s.ns < r.due) : s.holdResend id = s := by
  unfold State.holdResend
  rw [hr]
  exact if_pos h

theorem holdResend_torn (hr : s.ep.sh.req id = some r) (hst : r.st = .holdWait) (hd : r.due ≤ s.ns)
    (hs : s.slotRevoked r.slot r.pkt.job = true) : s.holdResend id = s.endReq .ep id cTorn [] := by
  unfold State.holdResend
  rw [hr]
  exact (if_neg (by simp [hst, hd])).trans (if_pos hs)

theorem holdResend_due {c : Nat} (hr : s.ep.sh.req id = some r) (hst : r.st = .holdWait) (hd : r.due ≤ s.ns)
    (hs : s.slotRevoked r.slot r.pkt.job = false) (ho : r.owner = .coll c) :
    s.holdResend id = (s.modColl c fun x => { x with holds := x.holds + 1 }).sendAgain .ep r := by
  unfold State.holdResend
  rw [hr]
  dsimp only
  rw [ho]
  exact (if_neg (by simp [hst, hd])).trans (if_neg (by rw [hs]; exact Bool.false_ne_true))

theorem sendAgain_coll (hc : isColl r.pkt.typ = true) (hl : u.ep.live.contains r.pkt.plane = true)
    (hs : u.planeSince r.pkt.plane r.first = true) : u.sendAgain .ep r = u.resend .ep r r.pkt.plane 0 r.pkt.plane := by
  unfold State.sendAgain
  dsimp only
  rw [if_pos hc, if_pos (by rw [hl, hs]; rfl)]

theorem sendAgain_mod {port : Nat} (hp : s.routePort r.pkt.dst = some port) :
    s.sendAgain .mod r = s.resend .mod r r.pkt.plane (tileOfPort port) port := by
  unfold State.sendAgain
  dsimp only
  rw [hp]

end

/-! ### Residue delivery (R175) -/

/-- R175: the waiting results that leave through a port. -/
def State.waitingAt (s : State) (port : Nat) : List Req :=
  s.mod.sh.reqs.filter fun r => r.st == .waiting && s.routePort r.pkt.dst == some port

theorem residue_none {port : Nat} (h : s.waitingAt port = []) : s.residue port = s := by
  unfold State.residue
  dsimp only
  rw [show s.mod.sh.reqs.filter _ = [] from h]
  rfl

theorem residue_one {port : Nat} {r : Req} (h : s.waitingAt port = [r]) : s.residue port = s.tryDeliver r.id := by
  unfold State.residue
  dsimp only
  rw [show s.mod.sh.reqs.filter _ = [r] from h]
  rfl

/-- R175: of two waiting results the one of the lower rank leaves first. -/
theorem residue_two {port ga ca ka ra gb cb kb rb : Nat} {a b : Req} (h : s.waitingAt port = [a, b]) (ha : a.owner = .result ga ca ka ra)
    (hb : b.owner = .result gb cb kb rb) :
    (ra ≤ rb → s.residue port = (s.tryDeliver a.id).tryDeliver b.id) ∧ (rb < ra → s.residue port = (s.tryDeliver b.id).tryDeliver a.id) := by
  unfold State.residue
  dsimp only
  rw [show s.mod.sh.reqs.filter _ = [a, b] from h]
  refine ⟨fun hle => ?_, fun hlt => ?_⟩
  · simp [ha, hb, hle]
  · simp [ha, hb, Nat.not_le.mpr hlt]

end

/-- Settles O59: a Result or Release reaches the collective that it names, and the collective's times and resends act once due. -/
theorem collectivesAtTheEndpoint : Obligations.CollectivesAtTheEndpoint := by
  refine ⟨?off, ?takes, ?times, ?holds, ?resends, ?residue⟩
  case off =>
    rintro s k t c h (rfl | rfl)
    · exact next_congr (if_pos h)
    · exact next_congr (if_pos h)
  case takes =>
    intro s k t r c ho hc hfresh
    have hw : ∀ {w : State}, (s.noted .ep k k.plane).collTake k k.plane = w → exec c s = .next w.epOn := fun h =>
      (exec_collectiveAtEndpoint ho rfl hc hfresh).trans (next_congr (congrArg State.epOn h))
    refine ⟨fun hj => hw (collTake_removed hj), fun hj hn hp hrel => ⟨_, rfl, hw (collTake_second hj hn hp hrel)⟩,
      fun hj hn h => hw (collTake_unknown hj hn h), fun x hj hn h => hw (collTake_waits hj hn h), fun x sh hj hn htodo hsh => ?_⟩
    have hg : ∀ {w : State}, (s.noted .ep k k.plane).collGiven x sh k = w → exec c s = .next w.epOn := fun h =>
      hw ((collTake_given (u := s.noted .ep k k.plane) hj hn htodo hsh).trans h)
    exact ⟨fun hp hop ht hl => hg (collGiven_release hp hop ht hl), fun h => hg (collGiven_unknown h), fun hp hf => hg ((collGiven_result hp).2 hf),
      fun hp hf => ⟨(s.noted .ep k k.plane).resultInProg k, rfl, rfl, rfl, rfl, hg ((collGiven_result hp).1 hf)⟩⟩
  case times =>
    intro s c x hx
    exact ⟨fun h => next_congr (congrArg State.epOn (collStartTime_waits hx h)),
      fun h2 h0 hst => next_congr (congrArg State.epOn (collStartTime_due hx h2 h0 hst)),
      fun h => next_congr (congrArg State.epOn (collTimeout_waits hx h)), fun h => next_congr (congrArg State.epOn (collTimeout_due hx h))⟩
  case holds =>
    intro s id r hr
    refine ⟨fun h => next_congr (congrArg State.epOn (holdResend_waits hr h)),
      fun hst hd hs => next_congr (congrArg State.epOn (holdResend_torn hr hst hd hs)), fun c hst hd hs ho hc hl hsince => ?_⟩
    exact next_congr (congrArg State.epOn ((holdResend_due hr hst hd hs ho).trans (sendAgain_coll hc hl hsince)))
  case resends =>
    intro s id r hr
    exact ⟨fun h => next_congr (congrArg State.modOn (retryResend_waits (p := .mod) hr h)),
      fun port hst hd hp => next_congr (congrArg State.modOn ((retryResend_due (p := .mod) hr hst hd nofun).trans (sendAgain_mod hp)))⟩
  case residue =>
    rintro s port l rfl
    exact ⟨fun h => next_congr (residue_none h), fun r h => next_congr (residue_one h), fun a b ga ca ka ra gb cb kb rb h ha hb =>
      ⟨fun hle => next_congr ((residue_two h ha hb).1 hle), fun hlt => next_congr ((residue_two h ha hb).2 hlt)⟩⟩

end Sys2Proof.Machine
end

section
/-! PROOFS. Slots of collective sequences, partials and results between racks, and records that come back from spill (O60). -/

namespace Sys2Proof.Machine

section

variable {s : State} {gi i : Nat} {g : Group} {x : SeqSlot}

/-! ### Slots (R133, R153, R170) -/

theorem slotFinish_waits (hg : s.group gi = g) (hx : tabGet g.slots i = some x) (h : s.slotSettled gi g x = false) : s.slotFinish gi i = s := by
  unfold State.slotFinish
  dsimp only
  rw [hg, hx]
  exact if_pos (by rw [h]; rfl)

/-- R170: a barrier or exchange releases its members, and a barrier that keeps lateness records it. -/
def State.slotReleased (s : State) (gi : Nat) (g : Group) (x : SeqSlot) : State :=
  let t := if (g.ctx x.cctx).op = 3 ∨ (g.ctx x.cctx).op = 5 then s.sendRelease gi x.cseq else s
  if (g.ctx x.cctx).op = 3 && g.lateness then t.recordLateness g x else t

theorem slotReleased_none (h3 : (g.ctx x.cctx).op ≠ 3) (h5 : (g.ctx x.cctx).op ≠ 5) : s.slotReleased gi g x = s := by
  exact (if_neg (by simp [h3])).trans (if_neg (not_or.mpr ⟨h3, h5⟩))

theorem slotReleased_released (h : (g.ctx x.cctx).op = 3 ∨ (g.ctx x.cctx).op = 5) : s.slotReleased gi g x =
    if (g.ctx x.cctx).op = 3 && g.lateness then (s.sendRelease gi x.cseq).recordLateness g x else s.sendRelease gi x.cseq := by
  unfold State.slotReleased
  dsimp only
  rw [if_pos h]

/-- R170: a settled slot whose sequence no Mown entry is still to learn from or to check ends. -/
theorem slotFinish_ends (hg : s.group gi = g) (hx : tabGet g.slots i = some x) (h : s.slotSettled gi g x = true)
    (hm : ∀ e, (s.slotReleased gi g x).mownNamed gi g.job x.cctx x.cseq = some e → e.2.state ≠ 3 ∧ e.2.state ≠ 7) :
    s.slotFinish gi i = ((s.slotReleased gi g x).partCount .mod g.job 8 1).slotEnds gi x := by
  unfold State.slotFinish
  dsimp only
  rw [hg, hx]
  refine (if_neg (by rw [h]; decide)).trans ?_
  cases he : (s.slotReleased gi g x).mownNamed gi g.job x.cctx x.cseq with
  | none =>
    unfold State.slotReleased at he ⊢
    dsimp only at he ⊢
    rw [he]
  | some e =>
    have hlater : ¬ (e.2.state = 3 ∨ e.2.state = 7) := not_or.mpr (hm e he)
    unfold State.slotReleased at he ⊢
    dsimp only at he ⊢
    rw [he]
    dsimp only
    rw [if_neg hlater]

theorem slotTimeout_waits (hg : s.group gi = g) (hx : tabGet g.slots i = some x)
    (h : (x.state ≠ 1 ∧ x.state ≠ 2) ∨ s.ns < x.opened + x.timeout) : s.slotTimeout gi i = s := by
  unfold State.slotTimeout
  rw [hg, hx]
  exact if_pos h

theorem slotTimeout_ends (hg : s.group gi = g) (hx : tabGet g.slots i = some x) (h : x.state = 1 ∨ x.state = 2)
    (ht : x.opened + x.timeout ≤ s.ns) : s.slotTimeout gi i =
      (((s.count .mod 0x07 0 2 1).dropSequence gi x.cseq false).modRecv .mod fun r => { r with inprog := r.inprog.filter fun q =>
        !(isColl q.pkt.typ && q.pkt.group == gi && q.pkt.cseq == x.cseq) }).slotEnds gi x := by
  unfold State.slotTimeout
  rw [hg, hx]
  exact if_neg (by omega)

theorem advance_stays {n : Nat} (h : ∀ x, tabGet g.slots (g.base % 4) = some x → x.state ≠ 3) : g.advance n = g := by
  cases n with
  | zero => rfl
  | succ n =>
    unfold Group.advance
    cases he : tabGet g.slots (g.base % 4) with
    | none => rfl
    | some x => exact if_neg (h x he)

theorem finish_later {q : Nat} (hq : q ≠ g.base) : (g.finish q).base = g.base ∧
    ∀ x, tabGet g.slots (q % 4) = some x → tabGet (g.finish q).slots (q % 4) = some { x with
      state := 3, pieces := [], counts := [], arrivals := [], size := none } := by
  unfold Group.finish
  rw [if_neg hq]
  refine ⟨rfl, fun x hx => ?_⟩
  dsimp only
  rw [tabGet_tabMod_same, hx]
  rfl

theorem finish_base {q : Nat} (hq : q = g.base) (_ : q < 2 ^ 32)
    (hn : ∀ x, tabGet g.slots ((q + 1) % 2 ^ 32 % 4) = some x → x.state ≠ 3) :
    (g.finish q).base = (q + 1) % 2 ^ 32 ∧ tabGet (g.finish q).slots (q % 4) = none := by
  have hne : (q + 1) % 2 ^ 32 % 4 ≠ q % 4 := by omega
  have he : g.finish q = { g with slots := tabDel g.slots (q % 4), base := (g.base + 1) % 2 ^ 32 } := by
    refine (if_pos hq).trans (advance_stays fun x hx => hn x ?_)
    rw [← hq] at hx
    exact (tabGet_tabDel_other _ hne).symm.trans hx
  rw [he, ← hq]
  exact ⟨rfl, tabGet_tabDel_same _ _⟩

/-! ### Partials sent again (R167) -/

theorem treeResend_unsent {k : Nat} (hx : tabGet (s.group gi).slots i = some x) (h : (x.piece k).sentUp = none) : s.treeResend gi i k = s := by
  unfold State.treeResend
  rw [hx]
  dsimp only
  rw [h]

theorem treeResend_waits {k t : Nat} (hx : tabGet (s.group gi).slots i = some x) (hs : (x.piece k).sentUp = some t)
    (h : (x.piece k).treeDone = true ∨ s.ns < t + x.resendTime ∨ x.resendLimit ≤ (x.piece k).resends) : s.treeResend gi i k = s := by
  unfold State.treeResend
  rw [hx]
  dsimp only
  rw [hs]
  exact if_pos (by rcases h with h | h | h <;> simp [h])

theorem treeResend_due {k t : Nat} (hx : tabGet (s.group gi).slots i = some x) (hs : (x.piece k).sentUp = some t)
    (hd : (x.piece k).treeDone = false) (ht : t + x.resendTime ≤ s.ns) (hl : (x.piece k).resends < x.resendLimit) :
    s.treeResend gi i k = (s.sendUp gi x.cseq k).modPiece gi x.cseq k fun p => { p with resends := p.resends + 1 } := by
  unfold State.treeResend
  rw [hx]
  dsimp only
  rw [hs]
  exact if_neg (by simp [hd, ht, hl])

end

/-! ### Partials and results between racks (R153, R155, R167) -/

/-- A packet between racks that is whole, sealed and of a served collective, whose form against the shape `sh` of its piece is `form`. -/
structure TreePacket (s : State) (k : Packet) (tagOk : Bool) (g : Group) (sh : Shape) (form : Nat) : Prop where
  whole : formOk k false = true ∧ isColl k.typ = true
  job : k.job ≠ 0 ∧ k.job ≠ 0xFFFF
  node : k.dst = s.node .mod
  tag : s.sealCheck .mod k tagOk = 0
  of : CollectiveOf s k g
  op : (g.ctx k.cctx).op = k.typ - 0x20
  shape : sh = g.shape (s.heldContext k) ((s.heldSize k).getD 0)
  form : form = treeForm g sh k ((s.heldSize k).map fun _ => sh.pieces)
  phase : s.phaseOk g (g.ctx k.cctx).op k.phase k.tree = true

section

variable {s : State} {k : Packet} {port form : Nat} {tagOk : Bool} {g : Group} {sh : Shape}

theorem mcBetween_take (h : TreePacket s k tagOk g sh form) (f : State → Group → State) :
    (s.arrives .mod k).mcBetween k port tagOk f = (s.arrives .mod k).mcTake k port f := by
  obtain ⟨hform, hcoll⟩ := h.whole
  obtain ⟨h0, hF⟩ := h.job
  unfold State.mcBetween
  rw [if_neg (by simp [hform, hcoll]), if_neg (by omega), arrives_node, if_neg (by simp [h.node]), arrives_seal, h.tag]
  rfl

/-- R167: a partial of a rack that the group has no members in is denied. -/
theorem mcBetween_foreign (h : TreePacket s k tagOk g sh form) (h2 : k.phase = 2) (hr : bit g.rackMask k.srcRack = false)
    (f : State → Group → State) : (s.arrives .mod k).mcBetween k port tagOk f = (s.arrives .mod k).mcDeny k port 2 := by
  rw [mcBetween_take h, mcTake_member (collectiveOf_arrives h.of), if_neg (by simp [h.op, h2]), if_pos ⟨h2, by simp [hr]⟩]

theorem heldSize_arrives : (s.arrives .mod k).heldSize k = s.heldSize k := arrives_mod_keep (·.heldSize k) s k fun _ _ _ => rfl

theorem heldContext_arrives : (s.arrives .mod k).heldContext k = s.heldContext k := arrives_mod_keep (·.heldContext k) s k fun _ _ _ => rfl

theorem tier_arrives : (s.arrives .mod k).reg .mod 0x500001 = s.reg .mod 0x500001 := arrives_mod_keep (·.reg .mod 0x500001) s k fun _ _ _ => rfl

theorem rack_opened (u : State) (gi seq c : Nat) : (u.openSlot gi seq c).rack .mod = u.rack .mod := by
  obtain ⟨gs, h⟩ := openSlot_groups u gi seq c
  rw [h]
  rfl

theorem rack_arrives : (s.arrives .mod k).rack .mod = s.rack .mod := arrives_mod_keep (·.rack .mod) s k fun _ _ _ => rfl

theorem TreePacket.between (h : TreePacket s k tagOk g sh form) (h2 : k.phase = 2 ∧ bit g.rackMask k.srcRack = true ∨ k.phase = 3)
    (f : State → Group → State) : (s.arrives .mod k).mcBetween k port tagOk f = f (s.arrives .mod k) g := by
  obtain ⟨hform, hcoll⟩ := h.whole
  obtain ⟨h0, hF⟩ := h.job
  exact mcBetween_eq hform hcoll h0 hF h.node h.tag h.of h.op (h2.imp_left And.left) (fun e => h2.elim And.right fun h3 => by omega) h.phase

/-- A partial that reaches the piece of its slot `x`. -/
theorem rackPartial_forms (h : TreePacket s k tagOk g sh form) (h2 : k.phase = 2) (hr : bit g.rackMask k.srcRack = true) :
    ((form = 1 → (s.arrives .mod k).rackPartial k port tagOk = (s.arrives .mod k).mcDeny k port 5) ∧
    (form = 2 → (s.arrives .mod k).rackPartial k port tagOk = ((s.arrives .mod k).malformed .mod port).mcDeny k port 5) ∧
    (form = 0 → g.place k.cseq ≠ cDone → (s.arrives .mod k).rackPartial k port tagOk = (s.arrives .mod k).notPlaced k port (g.place k.cseq))) ∧
    (form = 0 → g.place k.cseq = cDone →
      (s.reg .mod 0x500001 = 1 → (s.arrives .mod k).rackPartial k port tagOk = (s.arrives .mod k).podPartial k.group g k port) ∧
      (s.reg .mod 0x500001 ≠ 1 → ∀ (u : State) (x : SeqSlot), u = (s.arrives .mod k).openSlot k.group k.cseq k.cctx →
        u.seqSlot k.group k.cseq = some x → (s.arrives .mod k).rackPartial k port tagOk =
          if (x.piece k.piece).treeDone then u.sendDown k.group k.cseq k.piece k.srcRack (x.piece k.piece).racks (x.piece k.piece).result
          else if (x.piece k.piece).partials.any fun t => partsMeet t.2 k.payload then u
          else ((u.modPiece k.group k.cseq k.piece fun p => { p with
            partials := p.partials ++ [((partFields k.payload).1, k.payload)] }).rootOn k.group k.cseq k.piece).mcOn)) := by
  have heq := h.between (port := port) (.inl ⟨h2, hr⟩)
  have hsh := h.shape
  have hf := h.form
  rw [← heldSize_arrives] at hsh hf
  rw [← heldContext_arrives] at hsh
  subst hsh
  obtain ⟨h1, hbroken, hplace, hdone⟩ := rackPartial_form (v := (s.arrives .mod k).rackPartial k port tagOk) (u := s.arrives .mod k) (heq _) hf
  refine ⟨⟨h1, hbroken, hplace⟩, fun h0 hp => ⟨fun ht => (hdone h0 hp).trans (if_pos (tier_arrives.trans ht)), ?_⟩⟩
  rintro ht u x rfl hx
  refine (hdone h0 hp).trans ((if_neg (mt tier_arrives.symm.trans ht)).trans ?_)
  rw [hx]

/-- A result of the tree that reaches the piece of its slot `x`. -/
theorem treeResult_forms (h : TreePacket s k tagOk g sh form) (h3 : k.phase = 3) :
    ((form = 1 → (s.arrives .mod k).treeResult k port tagOk = (s.arrives .mod k).mcDeny k port 5) ∧
    (form = 2 → (s.arrives .mod k).treeResult k port tagOk = ((s.arrives .mod k).malformed .mod port).mcDeny k port 5) ∧
    (form = 0 → g.place k.cseq ≠ cDone → (s.arrives .mod k).treeResult k port tagOk = (s.arrives .mod k).notPlaced k port (g.place k.cseq))) ∧
    (form = 0 → g.place k.cseq = cDone →
      (s.reg .mod 0x500001 = 1 → (s.arrives .mod k).treeResult k port tagOk = (s.arrives .mod k).toRack k.group { k with src := s.node .mod }
        k.dstRack ((s.arrives .mod k).treeOf k.group g k.cctx k.cseq sh k.piece).2) ∧
      (s.reg .mod 0x500001 ≠ 1 → ∀ (u : State) (x : SeqSlot), u = (s.arrives .mod k).openSlot k.group k.cseq k.cctx →
        u.seqSlot k.group k.cseq = some x → (s.arrives .mod k).treeResult k port tagOk =
          if (x.piece k.piece).treeDone then u.respond .mod k port cDone [] 0
          else if Piece.treeOnly sh (partFields k.payload).1 (s.rack .mod) then
            ((u.respond .mod k port cDone [] 0).modPiece k.group k.cseq k.piece fun p => { p with treeDone := true, done := true }).mcOn
          else if ((x.piece k.piece).partials.filter fun t => t.1 != 2 ^ s.rack .mod).any fun t => partsMeet t.2 k.payload then
            u.respond .mod k port cDone [] 0
          else ((u.respond .mod k port cDone [] 0).modPiece k.group k.cseq k.piece fun p => { p with
            partials := ((x.piece k.piece).partials.filter fun t => t.1 != 2 ^ s.rack .mod) ++ [((partFields k.payload).1, k.payload)] }).mcOn)) := by
  have heq := h.between (port := port) (.inr h3)
  have hsh := h.shape
  have hf := h.form
  rw [← heldSize_arrives] at hsh hf
  rw [← heldContext_arrives] at hsh
  subst hsh
  obtain ⟨h1, hbroken, hplace, hdone⟩ := treeResult_form (v := (s.arrives .mod k).treeResult k port tagOk) (u := s.arrives .mod k) (heq _) hf
  refine ⟨⟨h1, hbroken, hplace⟩, fun h0 hp => ⟨fun ht => ?_, ?_⟩⟩
  · rw [hdone h0 hp, if_pos (tier_arrives.trans ht), arrives_node]
  rintro ht u x rfl hx
  refine (hdone h0 hp).trans ((if_neg (mt tier_arrives.symm.trans ht)).trans ?_)
  rw [hx, rack_opened, rack_arrives]

end

/-! ### Records that come back from spill (R133, R134) -/

section

variable {s v : State} {gi i k : Nat} {g : Group} {x : SeqSlot} {ok : Bool}

theorem recordReturn_kept (hg : s.group gi = g) (hx : tabGet g.slots i = some x) (h : (x.piece k).spilled = false) :
    s.recordReturn gi i k ok = s := by
  unfold State.recordReturn
  dsimp only
  rw [hg, hx]
  exact if_pos (by rw [h]; rfl)

/-- R134: the record of piece `k` is lost, and its pages are free. -/
def State.recordLost (s : State) (gi : Nat) (g : Group) (x : SeqSlot) (k : Nat) : State :=
  (s.drawn.count .mod 0x05 (s.engineFor gi g x k) 5 1).freePiece gi x.cseq k

theorem recordReturn_lost {sh : Shape} (hg : s.group gi = g) (hx : tabGet g.slots i = some x) (hsh : sh = g.shape x.cctx (x.size.getD 0))
    (h : (x.piece k).spilled = true) (hlost : ok = false ∨ s.pagesOf (.piece gi x.cseq k) < (x.piece k).pagesFor sh) :
    s.recordReturn gi i k ok = if (x.piece k).done then s.recordLost gi g x k
      else (s.recordLost gi g x k).modSlot gi x.cseq fun y => { y with
        poisoned := setIns y.poisoned (k / 2 ^ sh.order)
        pieces := y.pieces.map fun kp => if kp.1 / 2 ^ sh.order = k / 2 ^ sh.order then (kp.1, { kp.2 with spilled := false }) else kp } := by
  subst hsh
  unfold State.recordReturn
  dsimp only
  rw [hg, hx]
  refine (if_neg (by rw [h]; decide)).trans (if_pos ?_)
  rcases hlost with rfl | hlt
  · rfl
  · rw [decide_eq_true hlt, Bool.or_true]

/-- R133: the piece `q`, of `need` Windrow cells, takes the place of the record that came back. -/
def State.recordBack (v : State) (gi k : Nat) (x : SeqSlot) (q : Piece) (need : Nat) : State :=
  ((v.modTile (x.home gi k) fun y => { y with
      windUsed := if need ≤ (x.piece k).cells then y.windUsed + need - (x.piece k).cells else y.windUsed }).dropPages
    (.piece gi x.cseq k)).modPiece gi x.cseq k fun _ => { q with cells := need, touched := v.clock }

theorem recordReturn_whole {sh : Shape} {q : Piece} {need : Nat} (hg : s.group gi = g) (hx : tabGet g.slots i = some x)
    (hsh : sh = g.shape x.cctx (x.size.getD 0)) (h : (x.piece k).spilled = true)
    (hpages : (x.piece k).pagesFor sh ≤ s.pagesOf (.piece gi x.cseq k)) (hq : q = (x.piece k).merged sh (g.ranksIn (s.rack .mod)).length)
    (hneed : need = q.cellsFor sh) :
    ((if need ≤ (x.piece k).cells then some s else s.takeCells (x.home gi k) (need - (x.piece k).cells) (gi, x.cseq, k) 4096) = none →
      s.recordReturn gi i k true = s) ∧
    ((if need ≤ (x.piece k).cells then some s else s.takeCells (x.home gi k) (need - (x.piece k).cells) (gi, x.cseq, k) 4096) = some v →
      s.recordReturn gi i k true = (if (v.recordBack gi k x q need).slotBegun gi g x.cctx x.cseq sh k
        then (v.recordBack gi k x q need).completePiece gi x.cseq k else v.recordBack gi k x q need).mcOn) := by
  subst hneed hq hsh
  unfold State.recordReturn
  dsimp only
  rw [hg, hx]
  dsimp only
  have hspilled : ¬ ((!(x.piece k).spilled) = true) := by
    rw [h]
    decide
  have hkept : ¬ ((!true || decide (s.pagesOf (.piece gi x.cseq k) < (x.piece k).pagesFor (g.shape x.cctx (x.size.getD 0)))) = true) := by
    rw [decide_eq_false (Nat.not_lt.mpr hpages)]
    decide
  rw [if_neg hspilled, if_neg hkept]
  exact ⟨fun hn => by rw [hn], fun hv => by rw [hv]; rfl⟩

end

theorem merged_facts {p q : Piece} {sh : Shape} {n : Nat} (hq : q = p.merged sh n) :
    (p.side = [] → q.acc = p.acc) ∧ (p.side ≠ [] → q.acc = accMergeAll p.acc p.side) ∧
    (p.sideNodes ≠ [] → q.nodes = treeStep (aword sh.word).work 16 0 n (p.nodes ++ p.sideNodes)) ∧ (p.sideNodes = [] → q.nodes = p.nodes) ∧
    (p.sideHeld ≠ [] → q.held = [(0, mergeTopK sh.k ((p.held ++ p.sideHeld).map (·.2)))]) ∧ (p.sideHeld = [] → q.held = p.held) := by
  subst hq
  exact ⟨fun h => if_pos (List.isEmpty_iff.mpr h), fun h => if_neg (mt List.isEmpty_iff.mp h), fun h => if_neg (mt List.isEmpty_iff.mp h),
    fun h => if_pos (List.isEmpty_iff.mpr h), fun h => if_neg (mt List.isEmpty_iff.mp h), fun h => if_pos (List.isEmpty_iff.mpr h)⟩

/-- Settles O60: slots finish and end, partials and tree results reach their pieces, and records come back from spill. -/
theorem collectiveSlotsAndTrees : Obligations.CollectiveSlotsAndTrees := by
  refine ⟨?slots, fun g q => ⟨finish_later, finish_base⟩, ?resend, ?tree, ?spill, ?merge⟩
  case slots =>
    intro s gi i g x hg hx
    have hw : ∀ {w : State}, s.slotFinish gi i = w → exec (.sequenceSlotFinish gi i) s = .next w.modOn := fun h =>
      next_congr (congrArg State.modOn h)
    refine ⟨fun h => hw (slotFinish_waits hg hx h), fun h h3 h5 hm => ?_, fun w h hop hw' hm => ?_,
      fun h => next_congr (congrArg State.modOn (slotTimeout_waits hg hx h)),
      fun h ht => next_congr (congrArg State.modOn (slotTimeout_ends hg hx h ht))⟩
    · have hrel := slotReleased_none (s := s) (gi := gi) h3 h5
      rw [← hrel] at hm
      exact hw ((slotFinish_ends hg hx h hm).trans (by rw [hrel]))
    · have hrel := (slotReleased_released (s := s) (gi := gi) hop).trans hw'.symm
      rw [← hrel] at hm
      exact hw ((slotFinish_ends hg hx h hm).trans (by rw [hrel]))
  case resend =>
    intro s gi i k x hx
    exact ⟨fun h => next_congr (treeResend_unsent hx h), fun t hs => ⟨fun h => next_congr (treeResend_waits hx hs h),
      fun hd ht hl => next_congr (treeResend_due hx hs hd ht hl)⟩⟩
  case tree =>
    rintro s k port tagOk g sh held form ho hx hwhole hcoll h0 hF hnode htag hof hop rfl hsh hform hphase
    have ht : TreePacket s k tagOk g sh form := ⟨⟨hwhole, hcoll⟩, ⟨h0, hF⟩, hnode, htag, hof, hop, hsh, hform, hphase⟩
    have hpart : ∀ {w : State}, (s.arrives .mod k).rackPartial k port tagOk = w → exec (.rackPartial k port tagOk) s = .next w.modOn :=
      fun h => next_congr ((fabricIn_takes ho hx).trans (congrArg State.modOn h))
    have hres : ∀ {w : State}, (s.arrives .mod k).treeResult k port tagOk = w → exec (.treeResult k port tagOk) s = .next w.modOn :=
      fun h => next_congr ((fabricIn_takes ho hx).trans (congrArg State.modOn h))
    refine ⟨?forms, fun h2 hr => hpart (mcBetween_foreign ht h2 hr _), fun hf hp hpod => ⟨fun h2 hr => ?_, fun h3 => ?_⟩, fun hf hp hrack => ?_⟩
    case forms =>
      rintro c (⟨h2, hr, rfl⟩ | ⟨h3, rfl⟩)
      · obtain ⟨⟨h1, hb, hp⟩, -⟩ := rackPartial_forms (port := port) ht h2 hr
        exact ⟨fun h => hpart (h1 h), fun h => hpart (hb h), fun h h' => hpart (hp h h')⟩
      · obtain ⟨⟨h1, hb, hp⟩, -⟩ := treeResult_forms (port := port) ht h3
        exact ⟨fun h => hres (h1 h), fun h => hres (hb h), fun h h' => hres (hp h h')⟩
    · exact hpart (((rackPartial_forms ht h2 hr).2 hf hp).1 hpod)
    · exact hres (((treeResult_forms ht h3).2 hf hp).1 hpod)
    · obtain ⟨x, hslot⟩ := openSlot_opens (collectiveOf_arrives hof)
      have hpart' := fun h2 hr => hpart (((rackPartial_forms (port := port) ht h2 hr).2 hf hp).2 hrack _ x rfl hslot)
      have hres' := fun h3 => hres (((treeResult_forms (port := port) ht h3).2 hf hp).2 hrack _ x rfl hslot)
      refine ⟨_, x, rfl, hslot, fun h2 hr hd => ⟨fun hm => ?_, fun hm => ?_⟩, fun h2 hr hd => ?_, fun h3 hd => ?_, fun h3 hd hon => ?_, ?_⟩
      · rw [hpart' h2 hr, if_neg (by rw [hd]; exact Bool.false_ne_true), if_pos (List.any_eq_true.mpr hm)]
      · rw [hpart' h2 hr, if_neg (by rw [hd]; exact Bool.false_ne_true), if_neg (by rw [List.any_eq_false.mpr (by simpa using hm)]; exact Bool.false_ne_true)]
      · rw [hpart' h2 hr, if_pos hd]
      · rw [hres' h3, if_pos hd]
      · rw [hres' h3, if_neg (by rw [hd]; exact Bool.false_ne_true), if_pos hon]
      · rintro fresh h3 hd hon rfl
        have hw := (hres' h3).trans (by rw [if_neg (by rw [hd]; exact Bool.false_ne_true), if_neg (by rw [hon]; exact Bool.false_ne_true)])
        exact ⟨fun hm => hw.trans (by rw [if_pos (List.any_eq_true.mpr hm)]),
          fun hm => hw.trans (by rw [if_neg (by rw [List.any_eq_false.mpr (by simpa using hm)]; exact Bool.false_ne_true)])⟩
  case spill =>
    rintro s gi i k t need g x sh p q hg hx rfl rfl hsh
    refine ⟨fun ok h => next_congr (recordReturn_kept hg hx h), fun ok h hlost => ⟨_, rfl, fun hd => ?_, fun hd => ?_⟩, fun h hpages hq hneed => ?_⟩
    · exact next_congr ((recordReturn_lost hg hx hsh h hlost).trans (if_pos hd))
    · exact next_congr ((recordReturn_lost hg hx hsh h hlost).trans (if_neg (by rw [hd]; exact Bool.false_ne_true)))
    · have hwhole := fun v => recordReturn_whole (v := v) hg hx hsh h hpages hq hneed
      refine ⟨fun hlt hno => next_congr ((hwhole s).1 ((if_neg (by omega)).trans hno)), fun v hv => ⟨v.recordBack gi k x q need, rfl, fun hb => ?_, fun hb => ?_⟩⟩
      · exact next_congr (((hwhole v).2 (cells_taken hv)).trans (by rw [if_neg (by rw [hb]; exact Bool.false_ne_true)]))
      · exact next_congr (((hwhole v).2 (cells_taken hv)).trans (by rw [if_pos hb]))
  case merge =>
    rintro p sh n q hq
    exact ⟨by rw [hq]; rfl, by rw [hq]; rfl, by rw [hq]; rfl, by rw [hq]; rfl, by rw [hq]; rfl, merged_facts hq⟩

end Sys2Proof.Machine
end
